-- ==== Sys2Proof/Word.lean ====
section
/-! DEFINITION. The word types of the WK6448: a register is 32 bits (R7), a memory cell one byte. -/

namespace Sys2Proof

/-- A register or a fabric word of 32 bits (R7). -/
abbrev Word := BitVec 32

/-- One byte of the keeping store or the telemetry memory. -/
abbrev Byte := BitVec 8

end Sys2Proof
end

