-- ==== Sys2Proof/Syntax.lean ====
section
/-! DEFINITION. The commands of the block, one constructor per row of the opcode table, and their operands.
An operand is what the outside supplies with the event: who asks, which rail, what a comparator or a converter shows. -/

namespace Sys2Proof

abbrev Rail := Fin 64
abbrev WickId := Fin 16
abbrev DomId := Fin 16
abbrev Point := Fin 124

/-- The fabric requesters of R416; a host request carries its port and session (R455). -/
inductive Who where
  | sequencer | telemetry | logger | store | counter | estimator | loopHealth
  | host (port : Fin 2) (session : Fin 4)
  | ringA | ringB | tether | pmbus | protection
  deriving DecidableEq, Repr

/-- The causes that can reach one channel in one cycle (R53). -/
inductive Cause where
  | ovCross | ocHold | disable | disch | tonExpiry | toffExpiry | backoffExpiry
  | powerGood | belowVoff | uvCross | enable
  | margin (step : Int)
  deriving DecidableEq, Repr

/-- A further cause that reaches a rail in the cycle of the command that carries it. -/
structure Hit where
  rail : Rail
  cause : Cause
  deriving DecidableEq, Repr

/-- One of the comparators that blanking names (R94, R99). -/
inductive CmpId where
  | ov (r : Rail) | uv (r : Rail) | oc (r : Rail) | leading (r : Rail)
  deriving DecidableEq, Repr

/-- The outcome of a PMBus transaction on the bus (R67): a NACK or PEC mismatch is `failed`. -/
inductive PmbResult where
  | done (data : BitVec 16) | failed
  deriving DecidableEq, Repr

/-- A conversion's place (R127, R128, R146): the base sample of a point; frame word 124 + w, `late` when it is taken
after the 4 µs of its frame; an on-demand conversion; frame word 240 + w of a loop-health measurement. -/
inductive ConvKind where
  | base
  | extra (w : Fin 116) (late : Bool)
  | onDemand
  | loop (w : Fin 16)
  deriving DecidableEq, Repr

/-- One aligned access presented to the fabric (R410): size in bytes 1, 4 or 8, data little-endian. `hw`: the bits of a
register that the device sets in the cycle in which a write of it takes effect (R11). -/
structure Transfer where
  who : Who
  addr : Nat
  write : Bool
  size : Nat
  data : BitVec 64
  hw : Word := 0
  deriving DecidableEq, Repr

/-- What of R551 can come ahead of a host frame in its cycle: the state of a tamper source, ERASE, or lock bits that are
set. -/
inductive SecEvent where
  | loop (loop1 sensed : Bool) | voltage (active : Bool) | temperature (active : Bool) | clock (active : Bool)
  | erase | locks (v : BitVec 6)
  deriving DecidableEq, Repr

/-- A UHP request frame as it arrived (R430, R436). `op` is its operation byte, `count` the bytes the transaction
carried after the transport byte, `check` the bytes of CHECK; `co` what R551 puts ahead of it in its cycle. -/
structure HostFrame where
  port : Fin 2
  transport : Byte
  sync : Byte
  ver : BitVec 4
  session : Fin 4
  dir : Bool
  rsvd : Bool
  tag : BitVec 16
  op : Byte
  addr : Word
  len : BitVec 16
  payload : List Byte
  check : List Byte
  count : Nat
  co : List SecEvent := []
  deriving DecidableEq, Repr

/-- The bits that the device sets in the cycle of a write, by the address written (R11). -/
abbrev HwBits := List (Nat × Word)

/-- The header of a tether frame a slave receives (R470). `crcOk`: its CRC passed; `loss`: the slave declares a tether loss
in the cycle in which the frame ends (R514). -/
structure TetherHead where
  dst : BitVec 4
  epoch : BitVec 8
  tag : BitVec 16
  crcOk : Bool
  loss : Bool := false
  deriving DecidableEq, Repr

/-- A SIG across the tether: the target's address, its wick and the flag (R206, R508). -/
structure TetherSig where
  target : Fin 16
  wick : WickId
  num : Fin 16
  deriving DecidableEq, Repr

/-- A slave's report in a POLL answer (R476): FLT_STAT, FLT_FIRST, and of version 2 FLT_FIRSTTL and FLT_FIRSTTH, a queued
SIG, and its barrier arrivals (true) and withdrawals in their order. -/
structure SlaveReport where
  stat : Word
  first : Word
  time : BitVec 64
  sig : Option TetherSig
  barriers : List (Bool × BitVec 8)
  deriving DecidableEq, Repr

/-- What a slave's answer carries (R471): HELLO with ID_PART and ID_STEP[15:0], and the STATUS of READ, WRITE and SIG.
`tdly` brings the one-way delay that the master has measured. `status`: a STATUS other than OK to HELLO, POLL or TDLY. -/
inductive TetherAnswer where
  | hello (minVer maxVer : BitVec 8) (part step : BitVec 16)
  | poll (report : SlaveReport)
  | read (status : BitVec 8) (word : Word)
  | write (status : BitVec 8)
  | sig (status : BitVec 8)
  | tdly (delayNs : BitVec 12)
  | status (status : BitVec 8)
  deriving DecidableEq, Repr

/-- The header of a ring frame whose CRC has passed (R490), and the port it arrived on (`portB`). -/
structure RingHead where
  portB : Bool
  src : BitVec 6
  dst : Byte
  hops : Byte
  seq : BitVec 16
  deriving DecidableEq, Repr

/-- A lantern's payload (R503). -/
structure Lantern where
  time : BitVec 64
  src : BitVec 9
  sev : BitVec 2
  inj : Bool
  inexact : Bool
  teth : Bool
  node : BitVec 6
  taddr : BitVec 4
  number : BitVec 16
  deriving DecidableEq, Repr

/-- What can reach the links in the cycle in which a ring frame ends (R514): the other port's loss of lock, a write of
RNG_CMD, or the end of a frame on the other port. -/
inductive LinkEvent where
  | lockDrop (portB : Bool)
  | pfclr | pfclrall | tset
  | time (h : RingHead) (time : BitVec 64) (corrPs : Int) (tstep : Bool)
  | lantern (h : RingHead) (l : Lantern) | pfclear (h : RingHead) (tc : BitVec 64)
  | arrive (h : RingHead) (id : BitVec 8) | withdraw (h : RingHead) (id : BitVec 8)
  | sig (h : RingHead) (w : WickId) (n : Fin 16) | sigack (h : RingHead) (seq : BitVec 16)
  deriving DecidableEq, Repr

/-- A ring frame's header with what else reaches the links in the cycle in which the frame ends (R514). -/
structure RingArrival extends RingHead where
  co : List LinkEvent := []
  deriving DecidableEq, Repr

/-- A cause of R391 that reaches the reserve in the cycle of another. -/
inductive RsvCause where
  | shortTrip | limitTimeout | cutoff | abort | overvoltage | rearm | autoRearm | restEnd
  deriving DecidableEq, Repr

/-- The strap levels sampled at power-up (R565). -/
structure Straps where
  trole : Bool
  taddr : BitVec 4
  haddr : BitVec 3
  deriving DecidableEq, Repr

/-- A wake source (R531). -/
inductive WakeKind where
  | known | event | waitMonitor | hostSelect | linkFrame | vinFalling | tamper
  deriving DecidableEq, Repr

/-- The commands. A wick instruction names only its wick: the word it executes is the one at the wick's PC.
`co` lists further causes of the same cycle; `hw` the bits that the device sets in the cycle of a write, `write` a
write of MRG_RSTOVR in the cycle of an RSTO, `arr` the signals that arrive in the cycle of a WSIG's test, `react` that a
batch of reactions takes effect in the cycle of an ON, `wake` that a wake source arrives in the cycle of the power
manager's decision, `band` that VIN has risen above the falling threshold alone, `aoMa` the pack current in mA that the
always-on domain has measured, `count` the bytes that a read clocks out after the status byte (log 3). -/
inductive Instr where
  -- Tornum instructions issued by a wick (R195 to R224)
  | nop (w : WickId) | halt (w : WickId)
  | en (w : WickId) (co : List Hit) | dis (w : WickId) (co : List Hit)
  | ens (w : WickId) (co : List Hit) | diss (w : WickId) (co : List Hit) | disch (w : WickId) (co : List Hit)
  | wait (w : WickId) | waitc (w : WickId) | chk (w : WickId) | jmp (w : WickId)
  | call (w : WickId) | ret (w : WickId) | loop (w : WickId) | marg (w : WickId) (co : List Hit)
  | sig (w : WickId) | wsig (w : WickId) (arr : BitVec 16) | hitch (w : WickId) | unhitch (w : WickId)
  | log (w : WickId) | raise (w : WickId) (co : List Hit) | sync (w : WickId)
  | setv (w : WickId) | addv (w : WickId) | tlm (w : WickId) | rsto (w : WickId) (write : Option Word)
  | sleephint (w : WickId) | pmb (w : WickId) | illegalInstruction (w : WickId)
  -- the ends of wick waits
  | waitEnd (w : WickId) | waitTimeout (w : WickId) | waitcSuccess (w : WickId)
  | wsigSuccess (w : WickId) (arr : BitVec 16) | hitchSuccess (w : WickId) | syncSuccess (w : WickId)
  | logStallEnd (w : WickId) | disWaitEnd (w : WickId) | wickBoundaryStop (w : WickId)
  -- wick and image commands
  | wickStart (who : Who) (w : WickId) (addr : BitVec 12) | wickStop (who : Who) (w : WickId)
  | sigset (who : Who) (w : WickId) (num : Fin 16)
  | commit (who : Who) (andActivate : Bool) | commitComplete | activate (who : Who) | activateDone
  -- comparators and channels
  | ovCrossing (r : Rail) (active : Bool) (co : List Hit)
  | uvCrossing (r : Rail) (active : Bool) (co : List Hit)
  | ocCrossing (r : Rail) (active : Bool) (co : List Hit)
  | auxCrossing (n : Fin 16) (high active : Bool) (co : List Hit)
  | blankingEnd (c : CmpId) (active : Bool) (co : List Hit)
  | switchingPeriodStart (r : Rail) | softStartEnd (r : Rail) (co : List Hit)
  | tonExpiry (r : Rail) (co : List Hit) | toffExpiry (r : Rail) (co : List Hit)
  | prebiasTimeout (r : Rail) (co : List Hit) | backoffExpiry (r : Rail) (co : List Hit)
  | retryCountReset (r : Rail) | preambleEnd (r : Rail)
  | pmbusPollPass (port : Fin 4) | pmbusTransactionDone (port : Fin 4) (res : PmbResult)
  | smbusTimeout (port : Fin 4)
  | marginSlewMove (r : Rail) | pmbusSlewComplete (r : Rail)
  | chFlagsWrite (who : Who) (r : Rail) (v hw : Word) | chMarginWrite (who : Who) (r : Rail) (v : Word)
  -- self-test
  | selfTestTurn (bank : Fin 11) | selfTestPhase (out : BitVec 16)
  | selfTestBankEnd (out : BitVec 16)
  -- telemetry
  | scanFrame | adcConversion (p : Point) (code : BitVec 16) (kind : ConvKind) (early : Bool)
  | burstStart | rawFrameWrite (lost : List (Fin 256))
  | freeze (who : Who) | freezeComplete | unfreeze (who : Who)
  | clrmm (who : Who) (all : Bool) (pt : BitVec 7) | clrpk (who : Who) (all : Bool) (pt : BitVec 7)
  | tlmFiltWrite (who : Who) (p : Point) (v : Word) | tlmCtlWrite (who : Who) (v : Word)
  -- loop health
  | lhStart | lhCalRound (shiftUv : Int) | lhExciteStart | lhPerturbToggle | lhCaptureEnd
  | lhComputeEnd
  | rebase (who : Who) (all : Bool) (r : Rail)
  -- domain commands
  | dcmdHitch (who : Who) (d : DomId) | dcmdUnhitch (who : Who) (d : DomId)
  | dcmdOn (who : Who) (d : DomId) (react : Bool) | dcmdOff (who : Who) (d : DomId)
  | dcmdMargin (who : Who) (d : DomId) (r : Rail) (step : BitVec 12)
  | pendingUpStart (d : DomId) | hitchBreak (d : DomId)
  -- fault collector
  | reactionApply | shutdownRankDone | shutdownRankTimeout | shutdownEnd
  | systemResetStore | systemResetRestart
  | emberComplete | headerRewrite | shadowClose (doms : BitVec 16) (device : Bool)
  | logEntryWrite | clear (who : Who) | clrcnt (who : Who)
  | fire (who : Who) (andDisarm : Bool) (co : List Hit) | disarm (who : Who)
  -- reset outputs
  | resetStretchEnd (k : Fin 8) | resetPulseEnd (k : Fin 8)
  | rstovrAuto (who : Who) (k : Fin 8) | rstovrAssert (who : Who) (k : Fin 8)
  | rstovrPulse (who : Who) (k : Fin 8) | mrgRstWrite (who : Who) (k : Fin 8) (v : Word)
  -- keeping store
  | store (who : Who) | storeall (who : Who) | autosave
  | storeShadowReady | storePageDone (verified : Bool) | storeComplete
  | powerFailStoreEnd | pfsAbandon | vholdCrossing (rising : Bool)
  | inc (who : Who) (n : Fin 32) | init (who : Who) (n : Fin 32) | counterIncrement
  -- boot
  | internalSuppliesReady (straps : Straps) | refClockReady (crystal aoCrystal : Bool)
  | bootRun (dieTenths : Int)
  -- reserve
  | chargerTransition (cellMv : Nat) (co : List RsvCause) | prechargeTimeout (co : List RsvCause)
  | chargeTimeout (co : List RsvCause) | chargeTermination (co : List RsvCause) | senseFault (co : List RsvCause)
  | packOvervoltage (co : List RsvCause) | oringOn | oringOff
  | currentLimitTimeout (co : List RsvCause) | shortCircuitTrip (co : List RsvCause)
  | autoRearm (co : List RsvCause) | rearm (who : Who) (co : List RsvCause)
  | restnow (who : Who) | reinit (who : Who) | clrlrn (who : Who)
  | cutoff (co : List RsvCause) | estimatorTick (aoMa : Int) (co : List RsvCause) | scheduledRestEnd (co : List RsvCause)
  | estimatorStateSave | estcfgWrite (who : Who) (v : Word) | rsvFlagsWrite (who : Who) (v hw : Word)
  -- arbiter
  | grant (present : List Transfer) | transferComplete (co : List SecEvent) | windowBoundary
  | arbCommit (who : Who) (andClear : Bool) | arbClrcnt (who : Who)
  -- host protocol
  | uhpHello (f : HostFrame) | uhpRead (f : HostFrame) (moved : Nat) (hw : HwBits)
  | uhpWrite (f : HostFrame) (moved : Nat) (hw : HwBits) | uhpRmw (f : HostFrame) (hw : Word)
  | uhpRequest (f : HostFrame) | uhpRun (f : HostFrame) | uhpStore (f : HostFrame)
  | uhpEvents (f : HostFrame) (moved : Nat) (hw : HwBits) | uhpAbort (f : HostFrame) | uhpBye (f : HostFrame)
  | hostRead (port : Fin 2) (transport : Byte) (count : Nat)
  | responseReady (port : Fin 2) (session : Fin 4) (hw : HwBits) (co : List SecEvent)
  | sessionTimeout (port : Fin 2) (session : Fin 4)
  | close (who : Who) (port : Fin 2) (session : Fin 4)
  -- tether
  | tetherDiscovery | pollRound | tetherTimeSend | tetherDelayMeasure
  | tetherAnswer (src : Fin 16) (tag : BitVec 16) (crcOk : Bool) (a : TetherAnswer) (co : List LinkEvent)
  | tetherAnswerTimeout | tetherLoss | tetherSigTimeout (w : WickId)
  | tthGo (who : Who) (write : Bool) (target : BitVec 6)
  | tthHello (h : TetherHead) (minVer maxVer : BitVec 8)
  | tthPoll (h : TetherHead) (dly : Option (BitVec 16)) (confirms : List (BitVec 16))
  | tthRead (h : TetherHead) (addr : Word) | tthWrite (h : TetherHead) (addr data hw : Word)
  | tthSig (h : TetherHead) (w : WickId) (n : Fin 16)
  | tthTime (h : TetherHead) (time : BitVec 64) (synced tstep : Bool)
  | tthRelease (h : TetherHead) (id : BitVec 8) | tthTdly (h : TetherHead)
  -- ring
  | ringTime (h : RingArrival) (time : BitVec 64) (corrPs : Int) (tstep : Bool)
  | dreq (h : RingArrival) | dresp (h : RingArrival) (residencePs roundTripPs : Nat)
  | lantern (h : RingArrival) (l : Lantern) | pfclear (h : RingArrival) (tc : BitVec 64)
  | ringSig (h : RingArrival) (w : WickId) (n : Fin 16) | sigack (h : RingArrival) (seq : BitVec 16)
  | arrive (h : RingArrival) (id : BitVec 8) | withdraw (h : RingArrival) (id : BitVec 8)
  | ringRead (h : RingArrival) (addr : Word) | ringWrite (h : RingArrival) (addr data hw : Word)
  | resp (h : RingArrival) (seq : BitVec 16) (status : BitVec 8) (word : Word)
  | ringDelayTimer | ringTimeSend | timeMasterTakeover | syncLossTimeout
  | lanternSend | lanternRepeat
  | ringSigTimeout (w : WickId) | ringRaTimeout
  | ringLockLoss (portB : Bool) | spliceOpen | rngCtlWrite (who : Who) (v : Word)
  | rngGo (who : Who) (write : Bool) (target : BitVec 6)
  | tset (who : Who) | pfclr (who : Who) | pfclrall (who : Who)
  -- power states and the JTAG port
  | enterPowerState (wake : Bool) | wakeStart (k : WakeKind) | jtagPrivate (t : Transfer)
  -- protection
  | lockCfg (who : Who) | lockProg (who : Who) | lockBp (who : Who) | lockKey (who : Who)
  | lockDebug (who : Who) | lockInject (who : Who)
  | erase (who : Who) | keyEraseDone
  | tamperLoopSample (loop1 sensed : Bool) | voltageGlitch (active : Bool)
  | temperatureGlitch (active : Bool) | clockGlitch (active : Bool)
  | registerWrite (who : Who) (addr : Nat) (v hw : Word)
  | alwaysOnPowerUp (aoCrystal : Bool) | vinRise (band : Bool) | wakeComplete (hw : HwBits) (co : List SecEvent)
  | tetherTimeStale | ringLockGain (portB : Bool) | ringLockDrop (portB : Bool)
  | ringCrcFailure (portB : Bool) (frame : List Byte)
  | dischargeLimitChange (limiting : Bool)
  -- events of the input, the start, the clocks, the die and the JTAG port that carry nothing; they stand last because
  -- compiled code numbers only the constructors that carry something up to 244
  | vinFall | vinLowQualified | vinQualified | vinBandMs
  | pllLocked | recallDone | repairDone | configSetApplied | imageLoaded | vhokWaitLimit
  | referenceCrystalFail | aoCrystalFail | pllLockLoss | pllLockReturn
  | thermalWarning | thermalShutdown | thermalRearm
  | deviceReset | resetnRelease | jtagReset
  | jtagBypass | jtagIdcode | jtagSamplePreload | jtagExtest
  | alwaysOnPowerLoss
  deriving DecidableEq, Repr

end Sys2Proof
end

