-- ==== Sys2Proof/Decode.lean ====
section
/-! DEFINITION. The block's commands have no encoding: no row of the opcode table gives bits. The words of the
sequencer's own instruction set are decoded in Machine/Tornum.lean. -/

namespace Sys2Proof

/-- The command that a word of the opcode table spells: none, for no row gives bits. -/
def decodeTableWord (_nbits _w : Nat) : Option Instr := none

end Sys2Proof
end

