-- ==== Sys2Proof/Config.lean ====
section
/-! DEFINITION. What an implementation fixes and what the spec leaves open: constants without a body. Nothing can
evaluate them, so a statement holds for every value they may have. The log entries named at each say why it is here. -/

namespace Sys2Proof.Config

/-- DESIGN CHOICE (log 5): the byte a torn shadow write leaves at an address, for the n-th tear (R347: undefined). -/
opaque tornByte : Nat → Nat → Byte

/-- DESIGN CHOICE (log 6): by how much the estimator's exp(-1 s / tau1) for tau1 in 0.1 s lies off the exponential; the
model clips it (R393 gives no precision). -/
opaque decayErr : Nat → Rat

/-- DESIGN CHOICE (log 6): a quotient of the estimator with a zero divisor (R393, R396 do not say). -/
opaque estQuot : Rat → Rat

/-- DESIGN CHOICE (log 10): whether a quotient n / d that is no whole number goes to the next higher whole number,
where the spec names no rounding, or a tie where it names the nearest (R148, R307, R393, R396). -/
opaque roundUp : Int → Nat → Bool

/-- DESIGN CHOICE (log 10): the LINEAR16 word of a voltage whose mantissa exceeds 16 bits (R62, R307 do not say). -/
opaque linear16Over : Nat → BitVec 16

/-- DESIGN CHOICE (log 10): SEQ_HORIZ or PWR_NEXT for a time in cycles that 32 bits of µs do not hold (R221 and R530 give no
saturation). -/
opaque usOver : Nat → BitVec 32

/-- DESIGN CHOICE (log 9): the result in mA of a pack current code while RS is 0, which no configuration sets (R125). -/
opaque noShunt : Nat → Int

/-- DESIGN CHOICE (log 7): the serial number before R554 excludes 0. -/
opaque serialRaw : BitVec 64

/-- DESIGN CHOICE (log 7): how many silicon steps the part is past A0 (R2, R573). -/
opaque stepIndex : Nat

/-- DESIGN CHOICE (log 7): which letter and digit a step later than A0 has (R2, R553). -/
opaque laterStep : Nat → Nat × Nat

/-- DESIGN CHOICE (log 9): the trimmed code of a conversion of the n-th frame word that no command has told (R127, R137). -/
opaque convCode : Nat → BitVec 16

/-- DESIGN CHOICE (log 8): damping and natural frequency in rad/s for a step response that comes to no final value, by its
samples and their number per second (R157 gives such a one no fit). -/
opaque lhFit : List Rat → Nat → Rat × Rat

/-- DESIGN CHOICE (log 12): the layout of the SIG (target, wick, flag) and of the barrier arrivals and withdrawals in the
report of a POLL answer (R476 gives none). -/
opaque reportTail : Option (Nat × Nat × Nat) → List (Bool × Nat) → List Byte

/-- DESIGN CHOICE (log 8): the result fields a loop-health fit reports outside its range (R158, R160 give no saturation). -/
opaque lhFree : Nat → Nat

/-- DESIGN CHOICE (log 8): the next calibration code for a code and a measured shift in µV that give none within the
MGx range (R153 does not say). -/
opaque calCode : Int → Int → Int

/-- DESIGN CHOICE (log 11): the residence in ps of the n-th frame a ring node forwards or answers (R491, R490). -/
opaque residence : Nat → Nat

/-- DESIGN CHOICE (log 11): ticks by which the servo of R498 moves ring time at the n-th TIME frame, for an offset in ps. -/
opaque servo : Nat → Int → Int

/-- DESIGN CHOICE (log 11): RNG_DLYx for a mean delay outside its 16 bits (R515 does not say). -/
opaque linkDelay : Int → BitVec 16

/-- DESIGN CHOICE (log 12): RASTAT.STATUS after an answer with status FORMAT or a reserved one (R479 does not say). -/
opaque raStatus : Nat → BitVec 4

/-- DESIGN CHOICE (log 40): by how much, in 10 ns, the corrected ring time of a raise lies off, for the cycle of the raise;
the model holds it within what R533 allows. -/
opaque wakeErr : Nat → Int

/-- DESIGN CHOICE (log 6): RSV_V1.V1 for a voltage outside the signed 16 bits of its field (R396 gives no saturation). -/
opaque v1Over : Int → Nat

end Sys2Proof.Config
end

