-- ==== Sys2Proof/Machine/Bits.lean ====
section
/-! DEFINITION. Bit fields, signs and byte order of words (R7, and the field notation of 00_scope.md). -/

namespace Sys2Proof.Machine

/-- Field [hi:lo] of a word, as a number. -/
def wfld (w : Word) (hi lo : Nat) : Nat := (w.toNat / 2 ^ lo) % 2 ^ (hi + 1 - lo)

/-- Bit i of a word. -/
def tst (w : Word) (i : Nat) : Bool := w.getLsbD i

/-- The mask of field [hi:lo]. -/
def fmask (hi lo : Nat) : Word := BitVec.ofNat 32 ((2 ^ (hi + 1 - lo) - 1) * 2 ^ lo)

/-- Put a value into field [hi:lo], reduced to the field's width. -/
def put (w : Word) (hi lo v : Nat) : Word :=
  (w &&& ~~~(fmask hi lo)) ||| BitVec.ofNat 32 ((v % 2 ^ (hi + 1 - lo)) * 2 ^ lo)

/-- The word with only bit i set. -/
def bitw (i : Nat) : Word := BitVec.ofNat 32 (2 ^ i)

/-- Set or clear bit i. -/
def setb (w : Word) (i : Nat) (b : Bool) : Word := if b then w ||| bitw i else w &&& ~~~(bitw i)

/-- A flag as the word that has it in bit i. -/
def at_ (b : Bool) (i : Nat) : Word := if b then bitw i else 0

/-- A number of k bits read as two's complement. -/
def sgn (k v : Nat) : Int := if v % 2 ^ k < 2 ^ (k - 1) then (v % 2 ^ k : Nat) else ((v % 2 ^ k : Nat) : Int) - 2 ^ k

/-- An integer as a field of k bits, two's complement. -/
def unsgn (k : Nat) (v : Int) : Nat := (v % (2 ^ k : Nat)).toNat

/-- The bytes of a word, lowest address first (R7). -/
def wordBytes (w : Word) : List Byte :=
  [w.extractLsb' 0 8, w.extractLsb' 8 8, w.extractLsb' 16 8, w.extractLsb' 24 8]

/-- The low n bytes of a number, lowest address first. -/
def leBytes : Nat → Nat → List Byte
  | 0, _ => []
  | n + 1, v => BitVec.ofNat 8 v :: leBytes n (v / 256)

/-- Bytes, lowest address first, as a number. -/
def leNat : List Byte → Nat
  | [] => 0
  | b :: t => b.toNat + 256 * leNat t

/-- Four bytes as a word. -/
def leWord (l : List Byte) : Word := BitVec.ofNat 32 (leNat (l.take 4))

/-- The words of a list of bytes; a rest of fewer than four bytes is dropped. -/
def leWords : List Byte → List Word
  | a :: b :: c :: d :: t => leWord [a, b, c, d] :: leWords t
  | _ => []

/-- The indices i below n at which p holds, rising. -/
def idxs (n : Nat) (p : Nat → Bool) : List Nat := (List.range n).filter p

/-- A quotient where the spec names no rounding: exact, or one of the two whole numbers beside it (log 10). -/
def roundOpen (n : Int) (d : Nat) : Int :=
  if n % (d : Int) = 0 then n / (d : Int) else if Config.roundUp n d then n / (d : Int) + 1 else n / (d : Int)

/-- A quotient to the nearest whole number; a tie is open (log 10). -/
def roundNear (n : Int) (d : Nat) : Int :=
  let m := 2 * (n % (d : Int))
  if m < d then n / (d : Int) else if (d : Int) < m then n / (d : Int) + 1
  else if Config.roundUp n d then n / (d : Int) + 1 else n / (d : Int)

/-- A quotient to the nearest whole number, halves upward. -/
def roundHalfUp (n : Int) (d : Nat) : Int := (2 * n + d) / (2 * (d : Int))

/-- n * 2^e as a quotient of whole numbers. -/
def scale2 (n e : Int) : Int × Nat := if 0 ≤ e then (n * 2 ^ e.toNat, 1) else (n, 2 ^ (-e).toNat)

/-- Clip to a range. -/
def clip (lo hi v : Int) : Int := if v < lo then lo else if hi < v then hi else v

/-- Saturating count of k bits. -/
def satInc (k v : Nat) : Nat := min (v + 1) (2 ^ k - 1)

/-- One CRC-32 step over a byte (R348): reflected, polynomial 0xEDB8_8320. -/
def crc32Step (c : Word) (b : Byte) : Word :=
  (List.range 8).foldl (fun c _ => if c.getLsbD 0 then (c >>> 1) ^^^ 0xEDB88320#32 else c >>> 1)
    (c ^^^ b.setWidth 32)

/-- CRC-32 of IEEE 802.3 (R348). -/
def crc32 (l : List Byte) : Word := ~~~(l.foldl crc32Step 0xFFFFFFFF#32)

/-- One CRC-16/CCITT step over a byte (R348): polynomial 0x1021, not reflected. -/
def crc16Step (c : BitVec 16) (b : Byte) : BitVec 16 :=
  (List.range 8).foldl (fun c _ => if c.getLsbD 15 then (c <<< 1) ^^^ 0x1021#16 else c <<< 1)
    (c ^^^ (b.setWidth 16 <<< 8))

/-- CRC-16/CCITT (R348). -/
def crc16 (l : List Byte) : BitVec 16 := l.foldl crc16Step 0xFFFF#16

/-- Sequence number x is newer than y (R349). -/
def newer (x y : Word) : Bool := 1 ≤ (x - y).toNat && (x - y).toNat ≤ 2 ^ 31 - 1

end Sys2Proof.Machine
end

