-- ==== Sys2Proof/Machine/Approx.lean ====
section
/-! DEFINITION. Roots, exponentials, logarithms and arcs of rational numbers to 80 binary places, and binary32 patterns:
the arithmetic of the estimator and of the loop-health fit (R157, R393, R396, R406; log 6, log 8). -/

namespace Sys2Proof.Machine

/-- A number cut to 80 binary places. -/
def cut80 (x : Rat) : Rat := (x * 2 ^ 80).floor / 2 ^ 80

/-- The square root of a number that is not negative, to 64 binary places. -/
def ratSqrt (x : Rat) : Rat := (Nat.sqrt (x * 2 ^ 128).floor.toNat : Rat) / 2 ^ 64

/-- The sum over the first n terms of a series, each term made from the one before it. -/
def series : Nat → (Nat → Rat → Rat) → Nat → Rat → Rat
  | 0, _, _, _ => 0
  | n + 1, next, k, t => t + series n next (k + 1) (cut80 (next k t))

/-- Square a number n times. -/
def squared : Nat → Rat → Rat
  | 0, x => x
  | n + 1, x => squared n (cut80 (x * x))

/-- exp(-x) for x from 0 to 16. -/
def expNeg (x : Rat) : Rat := squared 5 (series 24 (fun k t => -t * (x / 32) / (k + 1 : Nat)) 0 1)

/-- artanh(t) for t up to 1/3. -/
def artanh (t : Rat) : Rat := series 30 (fun k p => p * t * t * (2 * k + 1 : Nat) / (2 * k + 3 : Nat)) 0 t

/-- ln 2. -/
def lnTwo : Rat := 2 * artanh (1 / 3)

/-- The natural logarithm of a positive number: halved or doubled, at most n times, into 1/2 to 1. -/
def ratLn : Nat → Rat → Rat
  | 0, x => -2 * artanh ((1 - x) / (1 + x))
  | n + 1, x =>
    if 1 < x then ratLn n (x / 2) + lnTwo
    else if x < 1 / 2 then ratLn n (2 * x) - lnTwo
    else -2 * artanh ((1 - x) / (1 + x))

/-- arctan(x) for x up to 1/4. -/
def arctanSmall (x : Rat) : Rat := series 24 (fun k p => -p * x * x * (2 * k + 1 : Nat) / (2 * k + 3 : Nat)) 0 x

/-- π by Machin's formula. -/
def piRat : Rat := 16 * arctanSmall (1 / 5) - 4 * arctanSmall (1 / 239)

/-- arctan(x) for x that is not negative: the angle is halved three times. -/
def ratArctan (x : Rat) : Rat :=
  let half (x : Rat) : Rat := cut80 (x / (1 + ratSqrt (1 + x * x)))
  if 1 < x then piRat / 2 - 8 * arctanSmall (half (half (half (1 / x)))) else 8 * arctanSmall (half (half (half x)))

/-- The whole number nearest below x, or the next one, where x is none (log 10). -/
def ratOpen (x : Rat) : Int := roundOpen x.num x.den

/-- The whole number whose square is q, or one of the two beside its root (log 10). -/
def rootOpen (q : Rat) : Nat :=
  let n := Nat.sqrt q.floor.toNat
  if (n * n : Rat) = q then n else if Config.roundUp q.num q.den then n + 1 else n

/-- The exponent e with 2^e ≤ x < 2^(e + 1), for a positive x. -/
def exponent (x : Rat) : Int :=
  let e : Int := (Nat.log2 x.num.natAbs : Int) - Nat.log2 x.den
  if x < (2 : Rat) ^ e then e - 1 else e

/-- The IEEE 754 binary32 pattern of a number, its rounding open (R406, log 6); beyond the largest number, infinity. -/
def toBinary32 (x : Rat) : Word :=
  let sign : Nat := if x < 0 then 2 ^ 31 else 0
  let a : Rat := if x < 0 then -x else x
  let e := max (exponent a) (-126)
  let m := (ratOpen (a / (2 : Rat) ^ (e - 23))).toNat
  -- a significand rounded up to 2^24 carries into the exponent, and one below 2^23 has the exponent field 0
  let w := if x = 0 then 0 else (e + 126).toNat * 2 ^ 23 + m
  BitVec.ofNat 32 (sign + min w 0x7F800000)

/-- The number that an IEEE 754 binary32 pattern stands for; none for an infinity or a NaN. -/
def fromBinary32 (w : Word) : Option Rat :=
  let e := wfld w 30 23
  let f : Rat := (wfld w 22 0 : Rat) / 8388608
  let m : Rat := if e = 0 then f * (2 : Rat) ^ (-126 : Int) else (1 + f) * (2 : Rat) ^ ((e : Int) - 127)
  if e = 255 then none else some (if tst w 31 then -m else m)

end Sys2Proof.Machine
end

