-- ==== Sys2Proof/Machine/RegMap.lean ====
section
/-! DEFINITION. The fabric addresses of the registers (R73, R122, R165, R227, R267, R304, R327, R375, R409, R429,
R465, R515, R537, R552, R553), their Reset values, and the sense points' formats (R124). -/

namespace Sys2Proof.Machine

/-! Rail channels (R73) -/
def aCh (n off : Nat) : Nat := 0x10000000 + 0x100 * n + off
def aChCfg (n : Nat) : Nat := aCh n 0x00
def aChVset (n : Nat) : Nat := aCh n 0x04
def aChWinOv (n : Nat) : Nat := aCh n 0x08
def aChWinUv (n : Nat) : Nat := aCh n 0x0C
def aChOc (n : Nat) : Nat := aCh n 0x10
def aChTon (n : Nat) : Nat := aCh n 0x14
def aChToff (n : Nat) : Nat := aCh n 0x18
def aChVoff (n : Nat) : Nat := aCh n 0x1C
def aChReact (n : Nat) : Nat := aCh n 0x20
def aChMargin (n : Nat) : Nat := aCh n 0x24
def aChState (n : Nat) : Nat := aCh n 0x28
def aChFlags (n : Nat) : Nat := aCh n 0x2C
def aChBlank (n : Nat) : Nat := aCh n 0x30

/-! Monitors (R122) -/
def aMon (off : Nat) : Nat := 0x10010000 + off
def aMonAux (n : Nat) : Nat := aMon (4 * n)
def aAuxFlg : Nat := aMon 0x40
def aAuxLat : Nat := aMon 0x44
def aAuxStat : Nat := aMon 0x48
def aAuxConf : Nat := aMon 0x4C
def aOvnb (k : Nat) : Nat := aMon (0x50 + 4 * k)
def aOcRun (k : Nat) : Nat := aMon (0x60 + 4 * k)
def aStCtl : Nat := aMon 0x80
def aStStat : Nat := aMon 0x84
def aStFail (b : Nat) : Nat := aMon (0x90 + 4 * b)
def aCovEv (k : Nat) : Nat := aMon (0xC0 + 4 * k)
def aMonVin : Nat := aMon 0xD0

/-! Telemetry (R165) -/
def aTlm (off : Nat) : Nat := 0x10020000 + off
def aTlmCtl : Nat := aTlm 0x000
def aTlmStat : Nat := aTlm 0x004
def aTlmCmd : Nat := aTlm 0x008
def aRawCtl : Nat := aTlm 0x010
def aRawStat : Nat := aTlm 0x014
def aRawCmd : Nat := aTlm 0x018
def aFrzTL : Nat := aTlm 0x020
def aFrzTH : Nat := aTlm 0x024
def aBoost (k : Nat) : Nat := aTlm (0x030 + 4 * k)
def aThr (k : Nat) : Nat := aTlm (0x100 + 4 * k)
def aPmbOk (k : Nat) : Nat := aTlm (0x180 + 4 * k)
def aLhCtl : Nat := aTlm 0x200
def aLhSel (k : Nat) : Nat := aTlm (0x204 + 4 * k)
def aLhLim : Nat := aTlm 0x20C
def aLhStat : Nat := aTlm 0x210
def aLhRes (k : Nat) : Nat := aTlm (0x214 + 4 * k)
def aLhCmd : Nat := aTlm 0x21C
def aLhDeg (k : Nat) : Nat := aTlm (0x220 + 4 * k)
def aVal (p : Nat) : Nat := aTlm (0x1000 + 0x10 * p)
def aMm (p : Nat) : Nat := aTlm (0x1004 + 0x10 * p)
def aLast (p : Nat) : Nat := aTlm (0x1008 + 0x10 * p)
def aFilt (p : Nat) : Nat := aTlm (0x100C + 0x10 * p)
def aPmbVi (n : Nat) : Nat := aTlm (0x2000 + 8 * n)
def aPmbTs (n : Nat) : Nat := aTlm (0x2004 + 8 * n)

/-! Sequencer (R227, R267) -/
def aSeq (off : Nat) : Nat := 0x10030000 + off
def aSeqCtl : Nat := aSeq 0x000
def aSeqStat : Nat := aSeq 0x004
def aSeqCmd : Nat := aSeq 0x008
def aSeqImg : Nat := aSeq 0x010
def aSeqImgCrc : Nat := aSeq 0x014
def aSeqImgVer : Nat := aSeq 0x018
def aSeqLive : Nat := aSeq 0x01C
def aSeqLiveVer : Nat := aSeq 0x020
def aSeqHoriz : Nat := aSeq 0x024
def aSeqSet (k hi : Nat) : Nat := aSeq (0x040 + 8 * k + 4 * hi)
def aPmbt (k : Nat) : Nat := aSeq (0x080 + 4 * k)
def aWick (n off : Nat) : Nat := aSeq (0x100 + 0x20 * n + off)
def aWCfg (n : Nat) : Nat := aWick n 0x00
def aWStat (n : Nat) : Nat := aWick n 0x04
def aWPc (n : Nat) : Nat := aWick n 0x08
def aWSig (n : Nat) : Nat := aWick n 0x0C
def aWCmd (n : Nat) : Nat := aWick n 0x10
def aWV (n k : Nat) : Nat := aSeq (0x300 + 0x20 * n + 4 * k)
def aDCtl : Nat := aSeq 0x1000
def aDGStat : Nat := aSeq 0x1004
def aDom (d off : Nat) : Nat := aSeq (0x1100 + 0x20 * d + off)
def aDCfg (d : Nat) : Nat := aDom d 0x00
def aDEnt (d : Nat) : Nat := aDom d 0x04
def aDRail (d hi : Nat) : Nat := aDom d (0x08 + 4 * hi)
def aDDep (d : Nat) : Nat := aDom d 0x10
def aDOwn (d : Nat) : Nat := aDom d 0x14
def aDStat (d : Nat) : Nat := aDom d 0x18
def aDCmd (d : Nat) : Nat := aDom d 0x1C

/-! Fault collector (R304) -/
def aFlt (off : Nat) : Nat := 0x10040000 + off
def aFltCtl : Nat := aFlt 0x000
def aFltStat : Nat := aFlt 0x004
def aFltCmd : Nat := aFlt 0x008
def aFltFirst : Nat := aFlt 0x010
def aFltFirstTL : Nat := aFlt 0x014
def aFltFirstTH : Nat := aFlt 0x018
def aFltMerge : Nat := aFlt 0x01C
def aFltEmber : Nat := aFlt 0x020
def aFltShd : Nat := aFlt 0x024
def aFltShdDev : Nat := aFlt 0x028
def aInjCtl : Nat := aFlt 0x030
def aInjCmd : Nat := aFlt 0x034
def aInjArm (k : Nat) : Nat := aFlt (0x040 + 4 * k)
def aPend (k : Nat) : Nat := aFlt (0x080 + 4 * k)
def aSev (k : Nat) : Nat := aFlt (0x0C0 + 4 * k)
def aIrq (n : Nat) : Nat := aFlt (0x120 + 4 * n)
def aCnt (k : Nat) : Nat := aFlt (0x200 + 4 * k)

/-! Margining and resets (R327) -/
def aMrg (off : Nat) : Nat := 0x10050000 + off
def aMrgStat : Nat := aMrg 0x000
def aMFail (k : Nat) : Nat := aMrg (0x004 + 4 * k)
def aMgk (n : Nat) : Nat := aMrg (0x040 + 4 * n)
def aRst (k : Nat) : Nat := aMrg (0x100 + 4 * k)
def aRstOvr : Nat := aMrg 0x120
def aRstStat : Nat := aMrg 0x124

/-! Store controller (R375) -/
def aKps (off : Nat) : Nat := 0x10060000 + off
def aKpsCtl : Nat := aKps 0x000
def aKpsStat : Nat := aKps 0x004
def aKpsCmd : Nat := aKps 0x008
def aLastSt : Nat := aKps 0x00C
def aRepair : Nat := aKps 0x010
def aLogIdx : Nat := aKps 0x014
def aLogSeq : Nat := aKps 0x018
def aCfgStat : Nat := aKps 0x01C
def aCfgSeq : Nat := aKps 0x020
def aDirty (k : Nat) : Nat := aKps (0x040 + 4 * k)
def aCntCmd : Nat := aKps 0x080
def aCntRep : Nat := aKps 0x084
def aCntBad : Nat := aKps 0x088
def aKpsCnt (n hi : Nat) : Nat := aKps (0x100 + 8 * n + 4 * hi)

/-! Reserve (R409) -/
def aRsv (off : Nat) : Nat := 0x10070000 + off
def aRsvCfg : Nat := aRsv 0x000
def aRsvStat : Nat := aRsv 0x004
def aRsvFlags : Nat := aRsv 0x008
def aRsvCmd : Nat := aRsv 0x00C
def aRsvChg : Nat := aRsv 0x010
def aRsvChgT : Nat := aRsv 0x014
def aRsvChgStat : Nat := aRsv 0x018
def aRsvOring : Nat := aRsv 0x01C
def aRsvProt : Nat := aRsv 0x020
def aRsvTemp : Nat := aRsv 0x024
def aEstCfg : Nat := aRsv 0x030
def aRsvRc : Nat := aRsv 0x034
def aRsvR0A : Nat := aRsv 0x038
def aRsvR0B : Nat := aRsv 0x03C
def aRsvNoise : Nat := aRsv 0x040
def aRsvRest : Nat := aRsv 0x044
def aOcv (k : Nat) : Nat := aRsv (0x080 + 4 * k)
def aSoc : Nat := aRsv 0x100
def aEnergy : Nat := aRsv 0x104
def aRuntime : Nat := aRsv 0x108
def aSoh : Nat := aRsv 0x10C
def aV1 : Nat := aRsv 0x110

/-! Arbiter (R429) -/
def aArb (off : Nat) : Nat := 0x10080000 + off
def aArbStat : Nat := aArb 0x000
def aArbCommit : Nat := aArb 0x004
def aArbWsum : Nat := aArb 0x008
def aArbStarve : Nat := aArb 0x00C
def aArbPre : Nat := aArb 0x010
def aArbPrio (n : Nat) : Nat := aArb (0x040 + 4 * n)
def aArbLive (n : Nat) : Nat := aArb (0x080 + 4 * n)
def aArbCred (n : Nat) : Nat := aArb (0x0C0 + 4 * n)

/-! Host (R465) -/
def aHst (off : Nat) : Nat := 0x10090000 + off
def aHstCfg (p : Nat) : Nat := aHst (4 * p)
def aHstStat : Nat := aHst 0x008
def aHstCmd : Nat := aHst 0x00C
def aHcnt : Nat := aHst 0x010
def aSess (p s : Nat) : Nat := aHst (0x020 + 4 * (4 * p + s))
def aHstCnt (p : Nat) : Nat := aHst (0x040 + 4 * p)
def aV1Map (c : Nat) : Nat := aHst (0x080 + 4 * c)
def aV1Stat : Nat := aHst 0x0B0

/-! Tether and ring (R515) -/
def aTth (off : Nat) : Nat := 0x100A0000 + off
def aTthCfg : Nat := aTth 0x0000
def aTthStat : Nat := aTth 0x0004
def aTthBarm : Nat := aTth 0x0008
def aTthRaCmd : Nat := aTth 0x0010
def aTthRaAddr : Nat := aTth 0x0014
def aTthRaData : Nat := aTth 0x0018
def aTthRaStat : Nat := aTth 0x001C
def aTthCnt : Nat := aTth 0x0020
def aTthSlv (n : Nat) : Nat := aTth (0x0040 + 4 * n)
def aRngCfg : Nat := aTth 0x1000
def aRngCtl : Nat := aTth 0x1004
def aRngStat : Nat := aTth 0x1008
def aRngCmd : Nat := aTth 0x100C
def aRngTimeL : Nat := aTth 0x1010
def aRngTimeH : Nat := aTth 0x1014
def aRngTsetL : Nat := aTth 0x1018
def aRngTsetH : Nat := aTth 0x101C
def aRngOfs : Nat := aTth 0x1020
def aRngDlyA : Nat := aTth 0x1024
def aRngDlyB : Nat := aTth 0x1028
def aRngPfTL : Nat := aTth 0x1030
def aRngPfTH : Nat := aTth 0x1034
def aRngPfInfo : Nat := aTth 0x1038
def aRngPfRun : Nat := aTth 0x103C
def aRngBarm (k : Nat) : Nat := aTth (0x1040 + 4 * k)
def aRngRaCmd : Nat := aTth 0x1050
def aRngRaAddr : Nat := aTth 0x1054
def aRngRaData : Nat := aTth 0x1058
def aRngRaStat : Nat := aTth 0x105C
def aRngCntA : Nat := aTth 0x1060
def aRngCntB : Nat := aTth 0x1064

/-! Power and clocks (R537) -/
def aPwr (off : Nat) : Nat := 0x100B0000 + off
def aPwrCtl : Nat := aPwr 0x000
def aPwrStat : Nat := aPwr 0x004
def aPwrNext : Nat := aPwr 0x008
def aClkCfg : Nat := aPwr 0x00C
def aClkStat : Nat := aPwr 0x010
def aTherm : Nat := aPwr 0x014
def aRstCause : Nat := aPwr 0x018

/-! Protection (R552) and identity (R553) -/
def aSec (off : Nat) : Nat := 0x100C0000 + off
def aLock : Nat := aSec 0x000
def aSecStat : Nat := aSec 0x004
def aKcmd : Nat := aSec 0x008
def aKeyCtl : Nat := aSec 0x00C
def aKeyStat : Nat := aSec 0x010
def aTampCfg : Nat := aSec 0x014
def aAlarmAct : Nat := aSec 0x018
def aAlarm : Nat := aSec 0x01C
def aId (off : Nat) : Nat := 0x100F0000 + off

/-- The point's result format is signed (R124). -/
def ptSigned (p : Nat) : Bool :=
  (16 ≤ p && p ≤ 47) || p == 115 || (117 ≤ p && p ≤ 120)

/-- The voltage point of a rail (R124). -/
def voltPoint (n : Nat) : Nat := if n < 16 then n else n + 32

/-- CH_CFG.KIND of a rail (R17). -/
def kind (n : Nat) : Nat := if n < 4 then 0 else if n < 8 then 1 else if n < 16 then 2 else 3

/-- The Reset column (R14) of every stored register whose Reset value is not 0: the limits of TLM_MMp and TLM_LASTp by
result format, RSV_RUNTIME 0xFFFF_FFFF, RNG_STAT.SPLICED 1. Loaded fields hold 0 until the configuration set is
applied (R357). -/
def resetWord (a : Nat) : Word :=
  if 0x10021000 ≤ a ∧ a < 0x10021000 + 0x10 * 124 then
    let p := (a - 0x10021000) / 0x10
    match (a - 0x10021000) % 0x10 with
    | 4 => if ptSigned p then 0x80007FFF#32 else 0x0000FFFF#32
    | 8 => if ptSigned p then 0x80000000#32 else 0
    | _ => 0
  else if a = aRuntime then 0xFFFFFFFF#32
  else if a = aRngStat then 0x20000000#32
  else if a = aPwrNext then 0xFFFFFFFF#32
  else 0

end Sys2Proof.Machine
end

