-- ==== Sys2Proof/Machine/State.lean ====
section
/-! DEFINITION. Everything the spec gives the block, as plain data, and the state after reset.
A register's word has one home: `regs` (by fabric address) where it is stored, or a typed part below where the
register only shows it (Machine/RegMap.lean). A timer is the cycle at which it ends, or none while it does not run. -/

namespace Sys2Proof.Machine

/-- The end of a running timer, in 10 ns cycles of `State.cycle`; none: not running. -/
abbrev Timer := Option Nat

/-- The rail states of R44. -/
inductive RailState where
  | off | rising | on | margined | falling | discharging | tripped | retryWait
  deriving DecidableEq, Repr

/-- The five rail event types of R269, in source order. -/
inductive EvType where
  | ov | uv | oc | onTimeout | offTimeout
  deriving DecidableEq, Repr

/-- A window comparator: its raw output and its blanking (R92 to R98). -/
structure Cmp where
  out : Bool := false
  blank : Timer := none
  deriving DecidableEq, Repr

/-- One rail channel apart from its registers in `State.regs` (R44 to R60, R65, R91, R315 to R318). -/
structure Chan where
  st : RailState := .off
  pend : Bool := false
  enCmd : Bool := false
  started : Bool := false          -- stage switching or ENx commanded, before the trip input (R85)
  ramp : Bool := false             -- soft-start ramp running (R29)
  pmbw : Bool := false             -- PMBus preamble running (R65)
  pg : Bool := false               -- power-good, held through blanking (R37)
  trip : BitVec 3 := 0             -- TRIPCAUSE (R54)
  retries : BitVec 3 := 0
  ov : Cmp := {}
  uv : Cmp := {}
  uvNew : Bool := false            -- the UV reference has switched without blanking and its output is not yet judged (log 4)
  oc : Cmp := {}
  leading : Timer := none          -- leading-edge blanking (R99)
  cycTrip : Bool := false          -- cycle latch of the present switching period (R90)
  ocRun : Nat := 0                 -- consecutive limited periods (R91)
  ton : Timer := none
  toff : Timer := none             -- TOFF, or the pre-bias interval while PEND is 1 (R41)
  backoff : Timer := none
  stable : Timer := none           -- the 1 s of R58
  discharge : Bool := false        -- DISCHARGING applies the active discharge, where the channel has one (R31)
  offtRaised : Bool := false       -- OFF_TIMEOUT raised by the FALLING expiry of this discharge (R46)
  path : Int := 0                  -- present value of the margin path (R315, R317)
  slew : Bool := false             -- a margin slew in progress (R315, R316)
  slewAt : Timer := none           -- the next slew move, or the PMBus completion
  steps : List Int := []           -- steps written since the last completed one, PMBus path (R318)
  change : Nat := 0                -- number of the latest step change, PMBus path (R308)
  perturb : Int := 0               -- loop-health perturbation in trim or MGx codes (R153, R154)
  deriving DecidableEq, Repr

/-- What an ENx output shows (R23, R24). `highZ`: high-impedance with its pull-down of 100 kΩ. -/
inductive EnPin where
  | highZ | drivenHigh | drivenLow | released | pulledLow
  deriving DecidableEq, Repr

/-- What queued a PMBus transaction (R66). `id` distinguishes a margin change from its successors (R308). -/
inductive PmbOwner where
  | preamble (r : Rail) (last : Bool)
  | margin (r : Rail) (step : Int) (id : Nat) (last : Bool)
  | discarded                      -- its wick has abandoned the wait (R176)
  | template (w : WickId) (read : Bool) (vr : Fin 8)
  | poll (r : Rail) (index : Fin 4)
  deriving DecidableEq, Repr

/-- A PMBus transaction (R61): command code, target, data of a write. -/
structure PmbTx where
  owner : PmbOwner
  addr : BitVec 7
  cmd : BitVec 8
  data : BitVec 16
  deriving DecidableEq, Repr

/-- A PMBus master port (R66). -/
structure PmbPort where
  cur : Option PmbTx := none
  queue : List PmbTx := []
  got : List (BitVec 16) := []     -- readings of the running poll of a regulator
  bad : Bool := false              -- a transaction of that poll has failed
  pollLeft : List Rail := []       -- regulators of the running pass not yet polled
  pass : Bool := false             -- a poll pass runs
  due : Bool := false              -- the next pass starts when this one ends
  passAt : Timer := none           -- start of the next pass
  deriving DecidableEq, Repr

/-- An AUX input's two comparator outputs (R101). -/
structure AuxIn where
  high : Bool := false
  low : Bool := false
  deriving DecidableEq, Repr

/-- The in-service self-test (R106 to R114). -/
structure SelfTest where
  next : Nat := 0                  -- the bank from which the next turn is sought, in ascending order (R106)
  phase : Nat := 0                 -- timed phases of R109 already passed
  pre : BitVec 16 := 0             -- outputs before isolation
  fail : BitVec 16 := 0
  nj : BitVec 16 := 0
  skips : Vector Nat 11 := Vector.replicate 11 0
  nextAt : Timer := none
  deriving DecidableEq, Repr

/-- A point's filter (R133): the running block, y with 24 fractional bits, outputs since the last update. -/
structure PointFilter where
  sum : Int := 0
  cnt : Nat := 0
  y : Option Int := none
  dec : Nat := 0
  deriving DecidableEq, Repr

/-- A frame of the scanner: the settings in effect at its start and the words sampled for it so far (R127 to R131). -/
structure Frame where
  cover : Nat := 0                 -- cover bank in effect (R129)
  boost : Vector Word 6 := Vector.replicate 6 0
  words : Vector (Option (BitVec 16)) 256 := Vector.replicate 256 none
  lh : BitVec 16 := 0              -- words of ADC15 that fall into a loop-health measurement (R127)
  deriving DecidableEq, Repr

/-- The scanner, the on-demand queue and raw capture (R127 to R146). -/
structure Scan where
  ctl : Word := 0                  -- TLM_CTL in effect since the last frame boundary (R131)
  cur : Frame := {}                -- the frame in progress, or the last one
  prev : Frame := {}               -- the frame before it
  codes : Vector (BitVec 16) 124 := Vector.replicate 124 0  -- latest converter code of each point
  inFrame : Bool := false          -- a frame is being converted
  burstTo : Nat := 0               -- cycle at which the latest burst ends (R131)
  burstAt : Timer := none          -- start of the next burst
  frameDoze : Bool := false        -- the frame was converted in DOZE
  frameBoot : Bool := false        -- the frame was converted before RUN (R521)
  queue : List Point := []         -- queued on-demand points (R146)
  running : Option Point := none   -- the on-demand conversion in progress
  waiting : List Point := []       -- requests that cannot enter the queue yet
  bySample : List Point := []      -- requests served by the point's next scan sample
  refBad : Vector Nat 3 := Vector.replicate 3 0  -- consecutive bad base samples of REFA, REFB, REFC (R150)
  stFrame : Bool := false          -- a bank was under test in the last frame (R131)
  nextAt : Timer := none           -- start of the next frame of the grid (R128)
  frame : Nat := 0                 -- index of the frame in progress, or of the next one (R137)
  due : Option (Bool × Nat) := none  -- half and index of an ended frame whose words are still to be written (R138)
  frameTime : BitVec 64 := 0       -- ring time of the start of the frame in progress
  postLeft : Nat := 0              -- frames of the pending freeze still to end (R140)
  deriving DecidableEq, Repr

/-- The codes captured between two toggles of the perturbation (R155, R156): rail voltage, and stage current of an
integrated rail. -/
structure LhRun where
  high : Bool                      -- the perturbation is applied
  volts : List (BitVec 16) := []
  amps : List (BitVec 16) := []
  deriving DecidableEq, Repr

/-- The loop-health engine (R151 to R164). -/
structure LoopHealth where
  next : Nat := 0                  -- rail after the one measured last
  gapAt : Timer := none
  rounds : Nat := 0                -- calibration rounds made (R153)
  calDone : Bool := false          -- the calibration has reached its range
  code : Int := 0                  -- perturbation code in use
  prbs : BitVec 7 := 0x7F
  toggleAt : Timer := none         -- the next toggle of the perturbation (R156)
  runs : List LhRun := []          -- what PHASE 2 has captured, oldest first
  beyond : Vector Bool 64 := Vector.replicate 64 false  -- the last judged measurement was beyond limit (R164)
  endTime : BitVec 64 := 0         -- ring time at the end of PHASE 2 (R160)
  deriving DecidableEq, Repr

/-- What a waiting wick waits for (WAITK of SEQ_WSTATn). -/
inductive WaitFor where
  | time
  | cond (cc : BitVec 6) (neg : Bool) (arg : BitVec 9)
  | flags (mask : BitVec 16) (all : Bool)
  | hitch (d : DomId)
  | barrier (ring : Bool) (id : BitVec 8)
  | pmbus
  | logger (code : BitVec 8) (value : Word) (time : BitVec 64)
  | remote (ring : Bool) (target : BitVec 6)
  | dis (threshold : Bool) (rails : List Rail)
  deriving DecidableEq, Repr

/-- The wick states of R172. -/
inductive WickState where
  | idle | run | wait (k : WaitFor) | halted | fault
  deriving DecidableEq, Repr

/-- A program event in a wick's buffer (R212). -/
structure ProgEvent where
  code : BitVec 8
  value : Word
  time : BitVec 64
  deriving DecidableEq, Repr

/-- A wick (R171). -/
structure Wick where
  st : WickState := .idle
  v : Vector Word 8 := Vector.replicate 8 0
  pc : BitVec 12 := 0
  lc : BitVec 16 := 0
  lstart : BitVec 12 := 0
  lend : BitVec 12 := 0
  ldepth : Nat := 0
  stack : List (BitVec 12) := []
  tout : Bool := false
  cref : Bool := false
  pmbf : Bool := false
  sfail : Bool := false
  sigs : BitVec 16 := 0
  epoch : BitVec 8 := 0
  fault : Bool := false
  fcode : BitVec 4 := 0
  hint : Timer := none
  deadline : Timer := none         -- end of the wait or timeout (R189)
  stop : Bool := false             -- a stop takes effect at the next boundary (R176)
  released : Bool := false         -- the barrier waited for has been released (R512)
  nowhere : Bool := false          -- its latest SYNC arrived nowhere (R510, R511)
  logBuf : Option ProgEvent := none
  deriving DecidableEq, Repr

/-- Which program of a domain runs (R234). -/
inductive Prog where
  | none | up | down
  deriving DecidableEq, Repr

/-- A hitch owner (R257). -/
inductive Owner where
  | none
  | wick (w : WickId)
  | host (port : Fin 2) (session : Fin 4)
  | tether
  deriving DecidableEq, Repr

/-- A domain apart from its configuration registers (R229 to R263). -/
structure Domain where
  prog : Prog := .none
  last : BitVec 3 := 0
  src : BitVec 3 := 0
  pendUp : Bool := false
  conf : Bool := false
  brk : Bool := false
  pendWd : Bool := false
  reqRef : Bool := false
  owner : Owner := .none
  epoch : BitVec 8 := 0
  queue : List WickId := []
  next : Option (Prog × BitVec 3) := none  -- program to start when the wick has stopped (R235), with its SRC
  offAt : Option Nat := none       -- cycle of the latest device OFF request (R264)
  deriving DecidableEq, Repr

/-- Where the whole-device shutdown stands (R265). -/
inductive ShutPhase where
  | idle | rank (n : Nat) (group : List DomId) | final
  deriving DecidableEq, Repr

/-- A reaction waiting for the cycle after its raise (R277). -/
structure React where
  rail : Rail
  ev : EvType
  code : BitVec 2        -- the reaction's code in CH_REACT when its event was raised
  injected : Bool
  deriving DecidableEq, Repr

/-- A reaction shadow (R292, R293). -/
structure Shadow where
  injOnly : Bool
  exempt : List Rail
  endAt : Timer
  deriving DecidableEq, Repr

/-- An event entry on its way to the log (R275). -/
structure LogEntry where
  source : BitVec 9
  sev : BitVec 2
  time : BitVec 64
  dom : Option DomId
  conseq : Bool
  injected : Bool
  duringDown : Bool
  merged : Bool
  deriving DecidableEq, Repr

/-- The reading snapshot of an ember (R288, R370), as the bytes 0x008 to 0x3FB of its record. -/
abbrev Snapshot := List Byte

/-- The fault collector and the logger apart from the FLT registers (R269 to R303, R368 to R374). -/
structure Faults where
  lastInj : List Nat := []         -- sources whose last logged entry was injected (R274)
  queue : List LogEntry := []      -- event entries for the logger, at most 64 (R276)
  reacts : List (List React) := [] -- reactions by the cycle that raised them (R277)
  deferred : List React := []      -- deferred reactions (R295)
  shadows : Vector (Option Shadow) 16 := Vector.replicate 16 none
  devShadow : Option Shadow := none
  snap : Option Snapshot := none   -- ember being written
  rewrite : Bool := false          -- a header rewrite is due (R290)
  critPend : Bool := false         -- a CRITICAL store starts at HELD or after the rewrite (R291)
  startPend : Bool := false        -- the start entry is still to be written (R374)
  sysReset : Bool := false         -- a SYSTEM_RESET reaction awaits its restart (R281)
  sysStore : Option Nat := none    -- number of the store that has to end before it
  ember : Bool := false            -- the slot of the latest report holds its ember, written and not recycled (R291)
  deriving DecidableEq, Repr

/-- A reset output apart from MRG_RSTk and MRG_RSTOVR (R320 to R326). -/
structure RstOut where
  auto : Bool := true              -- the AUTO rule of R321 asserts the output
  stretch : Timer := none
  pulse : Timer := none
  deriving DecidableEq, Repr

/-- The kinds of store (R338), in the order of KPS_STAT.KIND. -/
inductive StoreKind where
  | store | storeAll | autosave | critical | systemReset | record | powerFail
  deriving DecidableEq, Repr

/-- A running store (R338 to R345). -/
structure StoreRun where
  kind : StoreKind
  ready : Bool                     -- the shadow array is powered and the journal written (R339)
  left : List (Nat × Bool)         -- pages still to reach, each taken when dirty, or in any case (true)
  cur : Option (Nat × List Host.Cell)  -- page being written, with the contents copied
  written : Nat                    -- pages written
  startAt : Nat                    -- cycle of its start
  pass1 : Bool := false            -- pass 1 of a power-fail store has begun (R345, R547)
  pass2 : Bool                     -- pass 2 of a power-fail store (R345)
  waitRewrite : Bool               -- the one header rewrite before pass 2 is due
  deriving DecidableEq, Repr

/-- The store controller's own state (R337 to R347, R355 to R366). The journal is `liveMark`, `tornPage`, `abandonMark`. -/
structure Keeper where
  dirty : BitVec 256 := 0
  run : Option StoreRun := none
  pending : List (StoreKind × List (Nat × Bool)) := []
  number : Nat := 0                -- stores begun
  last : Option StoreKind := none  -- kind of the last store
  liveMark : Bool := false
  tornPage : Option Nat := none
  abandonMark : Bool := false
  lastEnd : Option Nat := none     -- cycle of the end of the last store, or of the repair (R338)
  cntQueue : List (Fin 32) := []
  locked : Bool := false           -- power fail: only logger, store engine and queued increments write (R344)
  ended : Bool := false            -- the power-fail store has ended: every write refused (R345)
  commit : Bool := false           -- a COMMIT is being checked (R181)
  commitAct : Bool := false        -- its write also carried ACTIVATE (R182)
  img : Fin 2 × Nat × Word × Word := (0, 0, 0, 0)  -- the COMMIT's slot, length, CRC and version (R181)
  commitStore : Option Nat := none -- number of the store that has to complete before PENDSLOT
  activating : Bool := false       -- the instruction memory reloads
  deriving DecidableEq, Repr

/-- The charger states of R382, in the order of RSV_CHGSTAT.STATE. -/
inductive ChgState where
  | off | wait | pre | cc | cv | full | pause | fault
  deriving DecidableEq, Repr

/-- The reserve (R376 to R408). -/
structure Reserve where
  chg : ChgState := .off
  paused : ChgState := .off        -- the state PAUSE returns to
  elapsed : Nat := 0               -- cycles of ELAPSED up to its last stop
  elapsedFrom : Option Nat := none -- cycle since which it runs
  present : Bool := false
  orOn : Bool := false
  ilim : Bool := false
  ilimAt : Timer := none
  overV : Bool := false            -- per-cell voltage above VOV as last seen
  scoff : Bool := false
  rearmAt : Timer := none
  empty : Bool := false
  supply : Bool := false
  rest : Bool := false
  restAt : Timer := none
  restAbortAt : Option Nat := none -- cycle of the last abort of a scheduled rest (R403)
  restNow : Bool := false
  tchg : Bool := false
  tdis : Bool := false
  floor : Bool := false
  s : Rat := 0                     -- state of charge
  v1 : Rat := 0                    -- polarisation voltage in V
  p11 : Rat := 0
  p12 : Rat := 0
  p22 : Rat := 0
  learn : Bool := false
  fullBefore : Bool := false       -- the charger was FULL when this conduction began (R400)
  learned : Bool := false
  evalid : Bool := false
  reinit : Bool := false
  outC : Bool := false             -- pack temperature outside the charge window at its last conversion (R390)
  outD : Bool := false             -- pack temperature outside the discharge window
  iSum : Int := 0                  -- sum and number of the second's pack current conversions, in 0.5 mA (R392)
  iCnt : Nat := 0
  vSum : Int := 0                  -- sum and number of the second's pack voltage conversions, in mV
  vCnt : Nat := 0
  iMean : Rat := 0                 -- means of the last full second, in A and V
  vMean : Rat := 0
  last5 : List (Int × Nat) := []   -- voltage sums and numbers of the last five seconds, newest first (R402)
  quietFrom : Option Nat := none   -- cycle since which the pack current lies within ±IREST (R402)
  inFrom : Option Nat := none      -- cycle since which a current above IREST flows into the pack (R400)
  vinFrom : Option Nat := none     -- cycle since which VIN lies at or above RVIN (R403)
  power : Option Rat := none       -- discharge power average of RSV_RUNTIME while SUPPLY is 1 (R396)
  qd : Rat := 0                    -- charge of the present discharge in Ah
  outAh : Rat := 0                 -- Ah out of and into the pack not yet counted (R408)
  inAh : Rat := 0
  tLo : Option Rat := none         -- pack temperature extremes of the discharge, in °C (R406)
  tHi : Option Rat := none
  secs : Nat := 0                  -- seconds within the minute of RESTAGE
  tickAt : Timer := none           -- next estimator tick
  offOut : Rat := 0                -- charge out of and into the pack while the device does not run, in A s (R392, R408)
  offIn : Rat := 0
  deriving DecidableEq, Repr

/-- A requester's place at the arbiter (R418, R419). -/
structure ArbReq where
  wait : Option Transfer := none
  cred : Nat := 0
  age : Nat := 0
  starved : Bool := false          -- ARB_STARVE raised in this wait (R428)
  deriving DecidableEq, Repr

/-- The arbiter (R410 to R428). -/
structure Arb where
  reqs : Vector ArbReq 13 := Vector.replicate 13 {}
  flight : Option (Fin 13 × Transfer × Nat) := none  -- transfer in flight, and the cycles left after the present one
  count : Nat := 0                 -- eighths of a fabric cycle in the present window (R418, R423)
  lastRead : Option (Fin 13 × Bool × BitVec 64) := none  -- last completed transfer: requester, refused, data
  deriving DecidableEq, Repr

/-- A UHP response (R436): the payload after STATUS. -/
structure Response where
  ver : BitVec 4
  session : Fin 4
  tag : BitVec 16
  op : Byte
  addr : Word
  status : Byte
  payload : List Byte
  check : List Byte
  deriving DecidableEq, Repr

/-- A request in execution: words still to move and those read so far, or a STORE that waits (R447, R449, R456). -/
structure Request where
  tag : BitVec 16
  etag : Nat
  op : Byte
  ver : BitVec 4
  cursor : Word                     -- address of the next word
  words : List Word                -- words still to write
  reads : Nat                      -- words still to read
  events : List Nat := []          -- EVENTS: registers still to read (R448)
  clears : List (Nat × Word) := [] -- EVENTS with CLEAR: writes still to make
  got : List Byte
  refusedAt : Option Word          -- address of the first refused word (R443)
  echo : Word                      -- ADDR of the request
  waitStore : Option Nat           -- number of the store whose end it awaits
  payload : List Byte              -- response payload of an operation already carried out
  since : Nat                      -- cycle in which it began to execute (R456)
  status : Byte
  deriving DecidableEq, Repr

/-- A cached response (R457); none where only the tag is cached. -/
structure Cached where
  tag : BitVec 16
  etag : Nat
  resp : Option Response
  frame : Word × BitVec 16         -- ADDR and LEN of a READ to repeat
  deriving DecidableEq, Repr

/-- A host session (R451 to R459). -/
structure Session where
  isOpen : Bool := false
  auth : Bool := false
  ver : BitVec 2 := 0
  kslot : BitVec 2 := 0
  epoch : BitVec 8 := 0
  exec : Option Request := none
  cache : List Cached := []        -- newest first
  key : List Byte := []            -- KS
  etag : Nat := 0                  -- newest ETAG
  tmoAt : Timer := none
  deriving DecidableEq, Repr

/-- A host port (R433, R434). `out` is what the last read transaction clocked out. -/
structure HostPort where
  sess : Vector Session 4 := Vector.replicate 4 {}
  queue : List Response := []
  out : List Byte := []
  deriving DecidableEq, Repr

/-- What a tether frame carries (R471). The report of a POLL answer has no byte layout in the spec. -/
inductive TetherBody where
  | hello (minVer maxVer : BitVec 8)
  | poll (dly : Option (BitVec 16)) (confirms : List (BitVec 16))
  | read (addr : Word)
  | write (addr data : Word)
  | sig (w : WickId) (n : Fin 16)
  | time (t : BitVec 64) (synced tstep : Bool)
  | release (id : BitVec 8)
  | tdly
  | answer (ty : Byte) (a : TetherAnswer)   -- the TYPE of the request
  deriving DecidableEq, Repr

/-- A tether frame (R470). -/
structure TetherFrame where
  dst : BitVec 4
  src : BitVec 4
  epoch : BitVec 8
  tag : BitVec 16
  body : TetherBody
  deriving DecidableEq, Repr

/-- Why the master sent a frame that awaits an answer: a SIG names its waiting wick, or the slave that asked for it. -/
inductive TetherWhy where
  | discover | poll | remote (write : Bool) | delay
  | sig (w : Option WickId) (origin : Fin 16) (s : TetherSig)
  deriving DecidableEq, Repr

/-- The tether (R466 to R481, R508, R510). -/
structure Tether where
  straps : Straps := { trole := false, taddr := 0, haddr := 0 }
  sent : List TetherFrame := []            -- every frame this device has sent, oldest first: the model's record of the bus
  cur : Option (TetherFrame × TetherWhy × Nat) := none  -- master: the frame that awaits its answer, repeats left
  queue : List (TetherFrame × TetherWhy) := []          -- master: frames to send ahead of the next poll
  round : List (Fin 16) := []              -- master: slaves of the present round not yet polled
  roundAt : Timer := none                  -- master: start of the next poll round
  timeAt : Timer := none                   -- master: next TIME frame
  tag : BitVec 16 := 0                     -- TAG of the next frame
  tstep : Bool := false                    -- master: the next TIME frame carries TSTEP
  confirms : Vector (List (BitVec 16)) 16 := Vector.replicate 16 []  -- master: confirmations for the next POLLs
  sets : List (BitVec 8 × BitVec 16) := [] -- master: arrivals per barrier ID
  firsts : Vector (Option (Word × BitVec 64)) 16 := Vector.replicate 16 none  -- master: first fault last read of each slave
  numbers : Vector (BitVec 16) 16 := Vector.replicate 16 0  -- master: lantern numbers given to each slave's first faults
  cache : List (BitVec 16 × TetherFrame) := []  -- slave: last eight answers, newest first
  dly : Option (BitVec 16) := none         -- slave: DLY held
  sigs : List (WickId × TetherSig) := []   -- slave: SIGs for the next reports, with their wicks
  sigWait : List (WickId × TetherSig) := []  -- slave: SIGs reported and not yet confirmed
  events : List (Bool × BitVec 8) := []    -- slave: arrivals and withdrawals for the next report
  heard : Bool := false                    -- slave: a valid frame has arrived, so MEPOCH holds its epoch
  armed : Bool := true                     -- slave: tether loss not declared since the last valid frame
  deriving DecidableEq, Repr

/-- What a ring frame carries (R490). -/
inductive RingBody where
  | time (t : BitVec 64) (corrPs : Int) (tstep : Bool)
  | dreq
  | dresp (residencePs : Nat)
  | lantern (l : Lantern)
  | pfclear (tc : BitVec 64)
  | sig (w : WickId) (n : Fin 16)
  | sigack (seq : BitVec 16)
  | arrive (id : BitVec 8)
  | withdraw (id : BitVec 8)
  | read (addr : Word)
  | write (addr data : Word)
  | resp (seq : BitVec 16) (status : BitVec 8) (word : Word)
  deriving DecidableEq, Repr

/-- A ring frame (R490). -/
structure RingFrame where
  src : BitVec 6
  dst : Byte
  hops : Byte
  seq : BitVec 16
  body : RingBody
  deriving DecidableEq, Repr

/-- What a port sends: a frame of this node, a forwarded frame, or the bytes of one forwarded as received (R491). -/
inductive RingTx where
  | own (f : RingFrame)
  | forwarded (f : RingFrame)
  | raw (bytes : List Byte)
  deriving DecidableEq, Repr

/-- A plant-first record slot (R504). -/
abbrev Slot := Option Lantern

/-- A ring port: its receiver (R493, R497) and its transmitter (R492). -/
structure RingPort where
  twice : List Nat := []                   -- round trip minus residence of the last 16 exchanges, ps, newest first
  fails : List Nat := []                   -- cycles of the CRC failures of the last second
  since : Option Nat := none               -- cycle of the last gain of symbol lock, while it holds
  quiet : Bool := true                     -- the port may raise its source
  busyTo : Nat := 0                        -- end of the frame in progress, in units of 2 ns
  waiting : List RingTx := []              -- frames that wait for it, in the order in which they go out
  deriving DecidableEq, Repr

/-- The supervision ring (R482 to R513). -/
structure Ring where
  sent : List (Bool × RingTx) := []        -- what each port (true: B) has begun to send, oldest first: the model's record
  seq : BitVec 16 := 0                     -- SEQ of the next frame
  seqs : List (BitVec 16) := []            -- SEQs sent
  seen : List (BitVec 6 × BitVec 16) := [] -- copies already acted on
  ports : Vector RingPort 2 := Vector.replicate 2 {}
  good : Nat := 0                          -- consecutive TIME frames within ±20 ns (R499)
  time : BitVec 64 := 0                    -- RNG_TIMEH, RNG_TIMEL (R495)
  next : Option (BitVec 64 × Bool) := none -- ring time after this cycle where a change applies in it; TSET made it (R495)
  tstep : Bool := false                    -- the next TIME frame carries TSTEP (R501)
  best : Slot := none
  run : Slot := none
  clearAt : Option (BitVec 64) := none     -- TC of the last PFCLEAR (R507)
  number : BitVec 16 := 0                  -- lantern number of this device (R503)
  own : List (Nat × Lantern) := []         -- own lanterns to enter into the record, with their cycles (R502)
  due : List Lantern := []                 -- lanterns to send (R502)
  again : List (RingFrame × Nat) := []     -- lanterns to send again, with the times left
  sigs : List (WickId × BitVec 16) := []   -- ring SIGs awaiting SIGACK
  ra : Option (BitVec 16 × Bool) := none   -- remote access awaiting RESP: SEQ, write
  sets : List (BitVec 8 × BitVec 64) := [] -- arrivals per barrier ID
  deriving DecidableEq, Repr

/-- Where the device stands between no supply and RUN (R117, R521, R524 to R526). -/
inductive Phase where
  | unpowered                -- the always-on domain has no supply
  | inputLow                 -- input-low, waiting for R117
  | inReset                  -- RESETN low or JTAG reset
  | regulators | supplies | reference | locked | recalled | repaired | configured | loaded
  | run
  | powerFail                -- power-fail store running
  deriving DecidableEq, Repr

/-- The power states of R528. -/
inductive PowerState where
  | run | doze | nap | hibernate
  deriving DecidableEq, Repr

/-- VIN against the two thresholds of R116. -/
inductive VinLevel where
  | below | band | above
  deriving DecidableEq, Repr

/-- Power, clocks and boot apart from the PWR registers (R517 to R535). -/
structure Power where
  phase : Phase := .inputLow
  state : PowerState := .run
  waking : Bool := false
  vin : VinLevel := .below
  recallDue : Bool := true         -- the next start makes a recall (R360, R564)
  recalled : Bool := false         -- the start in progress has made a recall
  failDue : Bool := false          -- the power-fail sequence starts at the end of the wake (R525)
  cause : BitVec 3 := 0            -- CAUSE of the start in progress
  supplies : Bool := false         -- the internal supplies are in regulation (R326, R521)
  warnArmed : Bool := true         -- THERMAL re-armed (R527)
  hot : Bool := false              -- the die lies at or above TWARN as last seen (R527)
  vhokLimit : Bool := false        -- 300 ms have passed since t0 (R522)
  set : Option Bool := none        -- configuration set chosen by the repair: some false A, some true B
  xFailed : Bool := false          -- a failed crystal is not used again before power-up (R519)
  aoFailed : Bool := false
  since : Nat := 0                 -- cycle of the entry to the present power state (R533)
  held : List HostFrame := []      -- host frames received in NAP or HIBERNATE, oldest first (R534)
  seen : List (List Word) := []    -- what the wait monitor saw for each wick at that entry (R532)
  deriving DecidableEq, Repr

/-- The instruction the JTAG port holds (R540). -/
inductive JtagIr where
  | bypass | idcode | samplePreload | extest | priv
  deriving DecidableEq, Repr

/-- Protection apart from the SEC registers (R545 to R551). -/
structure Protect where
  eraseMark : Bool := false        -- shadow cell outside the fabric map (R546)
  eraseTail : Bool := false        -- the erase goes on from VHOLD after the loss of input power in a boot (R547)
  detect : BitVec 5 := 0           -- ACT of SEC_ALARM
  miss : Vector Nat 2 := Vector.replicate 2 0  -- consecutive mismatched samples
  prbs : Vector (BitVec 7) 2 := Vector.replicate 2 0x7F
  lateClose : Bool := false        -- CLOSE of an alarm waits for the RUN after the wake (R549)
  lateErase : Bool := false        -- ERASE of an alarm waits for it
  jtag : JtagIr := .idcode
  jtagOut : BitVec 64 := 0         -- word the port shifts out
  deriving DecidableEq, Repr

/-- What stops the machine. The spec gives every command of the block an effect, so a fault has no constructor. -/
inductive Fault : Type
  deriving DecidableEq, Repr

/-- Why a command has no meaning. -/
inductive Refusal where
  /-- Raised by exec's arm of a command not modelled yet; safe, since it claims nothing. -/
  | notModelled (mnemonic : String)
  deriving DecidableEq, Repr

/-- The state of the WK6448. -/
structure State where
  regs : List (Nat × Word)         -- stored registers by fabric address, where they differ from their Reset value
  sram : List Host.Cell            -- keeping store SRAM, where it differs from a new device's (R328, R332)
  shadow : List Host.Cell          -- its shadow array
  tlmMem : List Host.Cell          -- telemetry memory by fabric address (R137)
  imem : List (Nat × Word)         -- instruction memory, where not 0 (R179)
  chans : Vector Chan 64
  ports : Vector PmbPort 4
  aux : Vector AuxIn 16
  selfTest : SelfTest
  filters : Vector PointFilter 124
  scan : Scan
  lh : LoopHealth
  wicks : Vector Wick 16
  doms : Vector Domain 16
  shut : ShutPhase
  faults : Faults
  resets : Vector RstOut 8
  keeper : Keeper
  reserve : Reserve
  arb : Arb
  hosts : Vector HostPort 2
  tether : Tether
  ring : Ring
  power : Power
  protect : Protect
  cycle : Nat                      -- 10 ns cycles since the start of the model's time
  free : Nat                       -- the model's own: how many free values have been drawn (log 5)
  pending : List Instr             -- commands that wait, first in first out
  deriving DecidableEq, Repr

/-- The device as its always-on domain leaves its reset state (R520): input-low, every register at the value of its
Reset column, the keeping store as it leaves manufacture (R332), no command waiting. -/
def State.reset : State where
  regs := []
  sram := []
  shadow := []
  tlmMem := []
  imem := []
  chans := Vector.replicate 64 {}
  ports := Vector.replicate 4 {}
  aux := Vector.replicate 16 {}
  selfTest := {}
  filters := Vector.replicate 124 {}
  scan := {}
  lh := {}
  wicks := Vector.replicate 16 {}
  doms := Vector.replicate 16 {}
  shut := .idle
  faults := {}
  resets := Vector.replicate 8 {}
  keeper := {}
  reserve := {}
  arb := {}
  hosts := Vector.replicate 2 {}
  tether := {}
  ring := {}
  power := {}
  protect := {}
  cycle := 0
  free := 0
  pending := []

end Sys2Proof.Machine
end

