-- ==== Sys2Proof/Machine/Ops.lean ====
section
/-! DEFINITION. The named operations over the stored registers, the keeping store, the telemetry memory and the parts
of the state that come in numbers. A map is a list of keys and values with the keys strictly rising and no value equal
to what an unlisted key reads as. -/

namespace Sys2Proof.Machine

/-- The value listed under a key. -/
def look {α : Type} : List (Nat × α) → Nat → Option α
  | [], _ => none
  | (k, v) :: t, a => if k = a then some v else look t a

/-- Insert a pair before the first larger key. -/
def ins {α : Type} : List (Nat × α) → Nat → α → List (Nat × α)
  | [], a, v => [(a, v)]
  | (k, w) :: t, a, v => if a < k then (a, v) :: (k, w) :: t else (k, w) :: ins t a v

/-- Set the value of a key, d being what the unlisted key reads as. -/
def upd {α : Type} [DecidableEq α] (m : List (Nat × α)) (a : Nat) (d v : α) : List (Nat × α) :=
  if v = d then m.filter (fun e => e.1 != a) else ins (m.filter (fun e => e.1 != a)) a v

/-- The canonical form of a map with default d: keys strictly rising, no entry equal to the default. -/
abbrev MapWf {α : Type} (d : Nat → α) (m : List (Nat × α)) : Prop :=
  m.Pairwise (fun x y => x.1 < y.1) ∧ ∀ e ∈ m, e.2 ≠ d e.1

/-! Stored registers -/

/-- The stored word of a register. -/
def State.reg (s : State) (a : Nat) : Word := (look s.regs a).getD (resetWord a)

/-- Store a register's word. -/
def State.setReg (s : State) (a : Nat) (v : Word) : State := { s with regs := upd s.regs a (resetWord a) v }

/-- Set the bits of a mask in a register. -/
def State.orReg (s : State) (a : Nat) (m : Word) : State := s.setReg a (s.reg a ||| m)

/-- Clear the bits of a mask in a register. -/
def State.clrReg (s : State) (a : Nat) (m : Word) : State := s.setReg a (s.reg a &&& ~~~m)

/-- Write a field of a register. -/
def State.setFld (s : State) (a hi lo v : Nat) : State := s.setReg a (put (s.reg a) hi lo v)

/-- A field of a register. -/
def State.fld (s : State) (a hi lo : Nat) : Nat := wfld (s.reg a) hi lo

/-- A bit of a register. -/
def State.bit (s : State) (a i : Nat) : Bool := tst (s.reg a) i

/-- Set or clear one bit of a register. -/
def State.setBit (s : State) (a i : Nat) (b : Bool) : State := s.setReg a (setb (s.reg a) i b)

/-! Bytes of the keeping store, of its shadow and of the telemetry memory -/

/-- A byte of a new device's shadow array (R332): 0, but for the CRC-16 of the two lap copies of each spread counter,
which is that of six zero bytes (R361). -/
def factoryByte (a : Nat) : Byte :=
  if 0x20000 ≤ a ∧ a < 0x24000 then
    match (a - 0x20000) % 0x200 with
    | 0x106 => 0x10#8
    | 0x107 => 0x0E#8
    | 0x10E => 0x10#8
    | 0x10F => 0x0E#8
    | _ => 0
  else 0

/-- A byte of the keeping store SRAM. -/
def State.byte (s : State) (a : Nat) : Byte := (look s.sram a).getD (factoryByte a)

/-- A byte of the shadow array. -/
def State.shadowByte (s : State) (a : Nat) : Byte := (look s.shadow a).getD (factoryByte a)

/-- A byte of the telemetry memory; DESIGN CHOICE (log 9): a byte never written reads 0. -/
def State.tlmByte (s : State) (a : Nat) : Byte := (look s.tlmMem a).getD 0

/-- n bytes of the SRAM from an address. -/
def State.bytes (s : State) (a n : Nat) : List Byte := (List.range n).map (fun i => s.byte (a + i))

/-- A word of the SRAM (R7). -/
def State.sramWord (s : State) (a : Nat) : Word := leWord (s.bytes a 4)

/-- Mark the page of an address dirty (R337). -/
def State.mark (s : State) (a : Nat) : State :=
  { s with keeper := { s.keeper with dirty := s.keeper.dirty ||| BitVec.ofNat 256 (2 ^ (a / 0x400)) } }

/-- Write one byte of the SRAM; its page becomes dirty in the cycle of the write (R329, R337). -/
def State.pokeByte (s : State) (a : Nat) (b : Byte) : State :=
  { s with sram := upd s.sram a (factoryByte a) b }.mark a

/-- Write bytes of the SRAM from an address upward. -/
def State.poke (s : State) (a : Nat) : List Byte → State
  | [] => s
  | b :: t => (s.pokeByte a b).poke (a + 1) t

/-- Write one byte of the telemetry memory. -/
def State.tlmPoke (s : State) (a : Nat) (b : Byte) : State := { s with tlmMem := upd s.tlmMem a 0 b }

/-- The cells of a page (R328). -/
def pageOf (m : List Host.Cell) (k : Nat) : List Host.Cell := m.filter (fun e => e.1 / 0x400 == k)

/-- A memory with one page replaced by cells of that page. -/
def setPage (m : List Host.Cell) (k : Nat) (cells : List Host.Cell) : List Host.Cell :=
  m.filter (fun e => e.1 / 0x400 < k) ++ pageOf cells k ++ m.filter (fun e => k < e.1 / 0x400)

/-- A page of bytes f, in canonical form. -/
def pageFrom (k : Nat) (f : Nat → Byte) : List Host.Cell :=
  ((List.range 0x400).map (fun i => (0x400 * k + i, f (0x400 * k + i)))).filter (fun e => e.2 ≠ factoryByte e.1)

/-! Parts that come in numbers -/

def State.ch (s : State) (r : Rail) : Chan := s.chans[r]
def State.setCh (s : State) (r : Rail) (c : Chan) : State := { s with chans := s.chans.set r c }
def State.wk (s : State) (w : WickId) : Wick := s.wicks[w]
def State.setWk (s : State) (w : WickId) (x : Wick) : State := { s with wicks := s.wicks.set w x }
def State.dom (s : State) (d : DomId) : Domain := s.doms[d]
def State.setDom (s : State) (d : DomId) (x : Domain) : State := { s with doms := s.doms.set d x }
def State.sess (s : State) (p : Fin 2) (i : Fin 4) : Session := s.hosts[p].sess[i]
def State.setSess (s : State) (p : Fin 2) (i : Fin 4) (x : Session) : State :=
  { s with hosts := s.hosts.set p { s.hosts[p] with sess := s.hosts[p].sess.set i x } }

/-- Ring time (R495). -/
def State.now (s : State) : BitVec 64 := s.ring.time

/-- Draw a free value's number. -/
def State.draw (s : State) : State := { s with free := s.free + 1 }

/-- A timer of n cycles started now. -/
def State.timer (s : State) (n : Nat) : Timer := some (s.cycle + n)

/-- The length in cycles of a UNIT and COUNT pair (R185, CH_TON): 10 ns, 1 µs, 1 ms, 1 s. -/
def unitCycles (unit count : Nat) : Nat :=
  match unit with
  | 0 => count
  | 1 => 100 * count
  | 2 => 100000 * count
  | _ => 100000000 * count

/-- Apply a change for every element of a list, in order. -/
def State.forAll {α : Type} (s : State) (l : List α) (f : State → α → State) : State := l.foldl f s

def allRails : List Rail := List.finRange 64
def allWicks : List WickId := List.finRange 16
def allDoms : List DomId := List.finRange 16

/-- Queue an increment of a spread counter (R366); refused once the power fails (R344). -/
def State.count (s : State) (n : Fin 32) : State :=
  if s.keeper.locked then s
  else if 32 ≤ s.keeper.cntQueue.length then s.orReg aKpsStat (bitw 4)
  else { s with keeper := { s.keeper with cntQueue := s.keeper.cntQueue ++ [n] } }

/-- The core clock runs, so the rail domain and the fault collector work (R517, R521). -/
def State.powered (s : State) : Bool :=
  match s.power.phase with
  | .locked | .recalled | .repaired | .configured | .loaded | .run | .powerFail => true
  | _ => false

/-- The device runs its fabric: not in NAP or HIBERNATE (R528). -/
def State.fabricOn (s : State) : Bool := s.power.state == .run || s.power.state == .doze

/-- The device is in DOZE, NAP or HIBERNATE, a wake from it included (R528). -/
def State.asleep (s : State) : Bool := s.power.phase == .run && s.power.state != .run

/-- A wake source acts: the wake starts, where one is due (R531). -/
def State.startWake (s : State) : State :=
  if s.asleep then { s with power := { s.power with waking := true } } else s

/-- The fabric serves registers: the configuration set is being or has been applied, and the fabric runs. -/
def State.serves (s : State) : Bool :=
  (match s.power.phase with | .repaired | .configured | .loaded | .run | .powerFail => true | _ => false) && s.fabricOn

/-- The effect of a fabric write that a command stands for: none while the fabric serves no registers (log 2). -/
def State.fab (s : State) (f : State → State) : State := if s.serves then f s else s

/-- The device polls, runs transactions, charges and tests itself in RUN and DOZE only (R66, R108, R381). -/
def State.awake (s : State) : Bool := s.power.phase == .run && s.fabricOn

/-! Locks (R539) -/
def State.lockCfg (s : State) : Bool := s.bit aLock 0
def State.lockProg (s : State) : Bool := s.bit aLock 1
def State.lockBp (s : State) : Bool := s.bit aLock 2
def State.lockKey (s : State) : Bool := s.bit aLock 3
def State.lockDebug (s : State) : Bool := s.bit aLock 4
def State.lockInject (s : State) : Bool := s.bit aLock 5

/-! Named fields the blocks share -/
/-- CH_CFG.USE (R45). -/
def State.use (s : State) (r : Rail) : Bool := s.bit (aChCfg r) 29
/-- KIND is external (R17). -/
def isExt (r : Rail) : Bool := 16 ≤ r.val
/-- CH_MARGIN.STEP, signed. -/
def State.step (s : State) (r : Rail) : Int := sgn 12 (s.fld (aChMargin r) 11 0)
/-- Write CH_MARGIN.STEP. -/
def State.setStep (s : State) (r : Rail) (v : Int) : State := s.setFld (aChMargin r) 11 0 (unsgn 12 v)
/-- Set bits of CH_FLAGS. -/
def State.flag (s : State) (r : Rail) (i : Nat) : State := s.orReg (aChFlags r) (bitw i)

/-- Domain d takes part in sequencing (R229). -/
def State.takesPart (s : State) (d : DomId) : Bool := s.bit (aDCfg d) 31 && !(s.dom d).conf

/-- Bit n of SEQ_DRAILdL and SEQ_DRAILdH. -/
def State.names (s : State) (d : DomId) (r : Rail) : Bool := s.bit (aDRail d (r / 32)) (r % 32)

/-- The domain of a rail (R230): the lowest that takes part and names it. -/
def State.domOf (s : State) (r : Rail) : Option DomId :=
  allDoms.find? (fun d => s.takesPart d && s.names d r)

/-- The rails of a domain (R230). -/
def State.railsOf (s : State) (d : DomId) : List Rail := allRails.filter (fun r => s.domOf r == some d)

/-- The program wick of a domain (R231). -/
def State.pwick (s : State) (d : DomId) : WickId := ⟨s.fld (aDCfg d) 19 16 % 16, by omega⟩

/-- Length of the live image (SEQ_LIVE). -/
def State.liveLen (s : State) : Nat := s.fld aSeqLive 12 0

/-- SEQ_DGSTAT.SDACT (R265). -/
def State.sdact (s : State) : Bool := s.shut != .idle

/-- A power-good domain (the condition dpg of R190): a rail with USE 1, and every such rail power-good. -/
def State.dpg (s : State) (d : DomId) : Bool :=
  let l := (s.railsOf d).filter (fun r => s.use r)
  !l.isEmpty && l.all (fun r => (s.ch r).pg)

/-- The epoch of an owner at present (R257). -/
def State.epochOf (s : State) : Owner → BitVec 8
  | .none => 0
  | .wick w => (s.wk w).epoch
  | .host p i => (s.sess p i).epoch
  | .tether => BitVec.ofNat 8 (s.fld aTthStat 31 24)

/-- The owner a requester stands for (R455, R480). -/
def ownerOf : Who → Owner
  | .host p i => .host p i
  | .tether => .tether
  | _ => .none

/-- The requester ID of R416. -/
def whoId : Who → Fin 13
  | .sequencer => 0 | .telemetry => 1 | .logger => 2 | .store => 3 | .counter => 4 | .estimator => 5
  | .loopHealth => 6 | .host _ _ => 7 | .ringA => 8 | .ringB => 9 | .tether => 10 | .pmbus => 11 | .protection => 12

end Sys2Proof.Machine
end

