-- ==== Sys2Proof/Machine/Flags.lean ====
section
/-! DEFINITION. The status words and flags that registers show of the typed state: comparator outputs, trip input,
power-good, CH_STATE, CH_FLAGS, the wick words, the domain words and RSV_STAT. -/

namespace Sys2Proof.Machine

/-! Codes -/

/-- CH_STATE.STATE (R44). -/
def RailState.code : RailState → Nat
  | .off => 0 | .rising => 1 | .on => 2 | .margined => 3
  | .falling => 4 | .discharging => 5 | .tripped => 6 | .retryWait => 7

/-- SEQ_WSTATn.STATE (R172). -/
def WickState.code : WickState → Nat
  | .idle => 0 | .run => 1 | .wait _ => 2 | .halted => 3 | .fault => 4

/-- SEQ_WSTATn.WAITK. -/
def WickState.waitk : WickState → Nat
  | .wait .time => 1
  | .wait (.cond _ _ _) => 2
  | .wait (.flags _ _) => 3
  | .wait (.hitch _) => 4
  | .wait (.barrier _ _) => 5
  | .wait .pmbus => 6
  | .wait (.logger _ _ _) => 7
  | .wait (.remote _ _) => 8
  | .wait (.dis _ _) => 9
  | _ => 0

/-- SEQ_DSTATd.PROG (R234). -/
def Prog.code : Prog → Nat
  | .none => 0 | .up => 1 | .down => 2

/-- RSV_CHGSTAT.STATE (R382). -/
def ChgState.code : ChgState → Nat
  | .off => 0 | .wait => 1 | .pre => 2 | .cc => 3 | .cv => 4 | .full => 5 | .pause => 6 | .fault => 7

/-- KPS_STAT.KIND (R338). -/
def StoreKind.code : StoreKind → Nat
  | .store => 1 | .storeAll => 2 | .autosave => 3 | .critical => 4 | .systemReset => 5 | .record => 6 | .powerFail => 7

/-- PWR_STAT.STATE (R528). -/
def PowerState.code : PowerState → Nat
  | .run => 0 | .doze => 1 | .nap => 2 | .hibernate => 3

/-- The offset of an event type among a rail's sources (R269). -/
def EvType.off : EvType → Nat
  | .ov => 0 | .uv => 1 | .oc => 2 | .onTimeout => 3 | .offTimeout => 4

/-- The source number of a rail event (R269). -/
def railSrc (r : Rail) (e : EvType) : Nat := 5 * r.val + e.off

/-! Comparators -/

/-- AUXH of input n is bound by MON_AUXn to a rail, whether or not it owns the binding (R102, R103). -/
def State.auxBinds (s : State) (n : Nat) (r : Rail) : Bool :=
  s.bit (aMonAux n) 31 && s.fld (aMonAux n) 30 25 == r.val && isExt r

/-- The AUX input whose AUXH is the over-current comparator of an external rail: the lowest that binds it (R104). -/
def State.boundAux (s : State) (r : Rail) : Option (Fin 16) :=
  (List.finRange 16).find? (fun n => s.auxBinds n r)

/-- AUXn binds a rail that a lower AUX input has bound (R104, MON_AUXCONF). -/
def State.auxConf (s : State) (n : Fin 16) : Bool :=
  s.bit (aMonAux n) 31 && (List.range n.val).any (fun m =>
    s.bit (aMonAux m) 31 && s.fld (aMonAux m) 30 25 == s.fld (aMonAux n) 30 25)

/-- The rail that AUXn's AUXH serves as over-current comparator (R102). -/
def State.auxRail (s : State) (n : Fin 16) : Option Rail :=
  if s.bit (aMonAux n) 31 && !s.auxConf n && 16 ≤ s.fld (aMonAux n) 30 25 then
    some ⟨s.fld (aMonAux n) 30 25 % 64, by omega⟩
  else none

/-- The over-voltage comparator of a rail is exempt from blanking (R95). -/
def State.ovExempt (s : State) (r : Rail) : Bool := s.bit (aOvnb (r / 32)) (r % 32)

/-- Raw output of the over-current comparator: the stage's own, or a bound AUXH. -/
def State.ocOut (s : State) (r : Rail) : Bool :=
  if isExt r then (match s.boundAux r with | some n => s.aux[n].high | none => false) else (s.ch r).oc.out

/-- Masked outputs: a blanked comparator counts as inactive (R96), and one of a channel not in use is off (R45). An
under-voltage comparator whose reference has switched without blanking counts as inactive until its next UV_CROSSING
tells its output against the new reference (log 4). -/
def State.ovAct (s : State) (r : Rail) : Bool := s.use r && (s.ch r).ov.out && (s.ch r).ov.blank.isNone
def State.uvAct (s : State) (r : Rail) : Bool := s.use r && (s.ch r).uv.out && (s.ch r).uv.blank.isNone && !(s.ch r).uvNew
def State.ocAct (s : State) (r : Rail) : Bool :=
  s.use r && s.ocOut r && (s.ch r).oc.blank.isNone && (s.ch r).leading.isNone

/-- The over-current comparator is a hold latch: LATCH 1, or a bound AUXH (R90, R102). -/
def State.ocHold (s : State) (r : Rail) : Bool := isExt r || s.bit (aChOc r) 12

/-- The states in which the under-voltage comparator compares against CH_WIN_UV (R35). -/
def RailState.window : RailState → Bool
  | .rising | .on | .margined => true
  | _ => false

/-- The rail is below VOFF (R38). -/
def State.belowVoff (s : State) (r : Rail) : Bool := !(s.ch r).st.window && s.uvAct r

/-- The trip input of a channel (R83, R85). -/
def State.tripInput (s : State) (r : Rail) : Bool :=
  s.ovAct r || s.ocAct r || s.bit (aChFlags r) 3 || s.bit (aChFlags r) 5 || (s.ch r).cycTrip

/-- CH_STATE.ENOUT: stage switching or ENx asserted (R85). -/
def State.enout (s : State) (r : Rail) : Bool := (s.ch r).started && !s.tripInput r

/-- What power-good is in a cycle (R37): kept while OV or UV is blanked, else judged. -/
def State.pgNow (s : State) (r : Rail) : Bool :=
  let c := s.ch r
  if !c.st.window then false
  else if c.ov.blank.isSome || c.uv.blank.isSome || c.uvNew then c.pg
  else !s.ovAct r && !s.uvAct r && !c.ramp && !c.pmbw

/-- CH_FLAGS.CFG_CONFLICT (R33, R68): the GPIO or the PMBus binding is a lower channel's. -/
def State.gpioLost (s : State) (r : Rail) : Bool :=
  isExt r && s.bit (aChCfg r) 13 && (allRails.any (fun q => isExt q && q < r && s.bit (aChCfg q) 13 &&
    s.fld (aChCfg q) 12 9 == s.fld (aChCfg r) 12 9))
def State.pmbLost (s : State) (r : Rail) : Bool :=
  isExt r && s.bit (aChCfg r) 28 && (allRails.any (fun q => isExt q && q < r && s.bit (aChCfg q) 28 &&
    s.fld (aChCfg q) 27 19 == s.fld (aChCfg r) 27 19))
def State.cfgConflict (s : State) (r : Rail) : Bool := s.gpioLost r || s.pmbLost r

/-- The channel has an active discharge (R31, R33): the pull-down of an integrated stage, or the DISx function of a GPIO
that the channel owns. -/
def State.canDischarge (s : State) (r : Rail) : Bool := !isExt r || (s.bit (aChCfg r) 13 && !s.gpioLost r)

/-- The channel discharges its rail (R31): in DISCHARGING, as long as it has an active discharge. -/
def State.discharges (s : State) (r : Rail) : Bool := (s.ch r).discharge && s.canDischarge r

/-- The DISx function of a GPIO is asserted: the channel that owns it discharges (R31, R33). -/
def State.disx (s : State) (g : Fin 16) : Bool :=
  allRails.any (fun r => isExt r && s.fld (aChCfg r) 12 9 == g.val && s.discharges r)

/-- The configuration set has been loaded since the last power-up or reset (R24, R326). -/
def State.cfgLoaded (s : State) : Bool :=
  match s.power.phase with | .configured | .loaded | .run | .powerFail => true | _ => false

/-- The pin ENx of an external channel (R23, R24): high-impedance until the configuration set is loaded, also at a start
without a recall (log 16), and then the level that ENMODE and ENPOL give to asserted or deasserted. -/
def State.enPin (s : State) (r : Rail) : EnPin :=
  if !s.cfgLoaded then .highZ
  else match s.bit (aChCfg r) 8, (s.enout r) != s.bit (aChCfg r) 7 with
    | false, true => .drivenHigh
    | false, false => .drivenLow
    | true, true => .released
    | true, false => .pulledLow

/-- The channel is bound to a PMBus regulator (R65, R68). -/
def State.bound (s : State) (r : Rail) : Bool := isExt r && s.bit (aChCfg r) 28 && !s.pmbLost r

/-- The margin path is PMBus (R306). -/
def State.pmbPath (s : State) (r : Rail) : Bool := isExt r && s.bit (aChMargin r) 30

/-- A margin slew is in progress, so the rail is not settled (R316). -/
def State.settled (s : State) (r : Rail) : Bool :=
  ((s.ch r).st == .on || (s.ch r).st == .margined) && !(s.ch r).slew

/-! Banks of the self-test (R75) -/

/-- The banks that hold a rail's over-voltage and under-voltage comparators. -/
def bankOv (r : Rail) : Nat := if r.val < 16 then 0 else if r.val < 32 then 3 else if r.val < 48 then 5 else 7
def bankUv (r : Rail) : Nat := if r.val < 16 then 1 else if r.val < 32 then 4 else if r.val < 48 then 6 else 8

/-- The bank that holds a rail's over-current comparator, its own or a bound AUXH. -/
def bankOc (r : Rail) : Nat := if isExt r then 9 else 2

/-- An above-type bank. -/
def bankAbove (b : Nat) : Bool := b == 0 || b == 2 || b == 3 || b == 5 || b == 7 || b == 9

/-- The bank under test (MON_STSTAT.BANK). -/
def State.testBank (s : State) : Nat := s.fld aStStat 30 27

/-- A bank is isolated for its self-test (R109, R113). -/
def State.isolated (s : State) (b : Nat) : Bool := s.bit aStStat 31 && s.testBank == b

/-! Rail words -/

/-- CH_STATE (R73). -/
def State.chState (s : State) (r : Rail) : Word :=
  let c := s.ch r
  let d := s.domOf r
  at_ c.pmbw 18 ||| put 0 17 15 c.trip.toNat ||| put 0 14 11 ((d.map (·.val)).getD 0) ||| at_ d.isSome 10
    ||| put 0 9 7 c.retries.toNat ||| at_ c.pend 6 ||| at_ c.pg 5 ||| at_ (s.enout r) 4 ||| at_ c.enCmd 3
    ||| put 0 2 0 c.st.code

/-- CH_FLAGS (R73). -/
def State.chFlags (s : State) (r : Rail) : Word := setb (s.reg (aChFlags r)) 14 (s.cfgConflict r)

/-! Wick words -/

/-- SEQ_WSTATn (R227). -/
def State.wStat (s : State) (w : WickId) : Word :=
  let x := s.wk w
  put 0 31 24 x.epoch.toNat ||| put 0 23 21 x.st.code ||| put 0 20 17 x.st.waitk ||| put 0 16 13 x.fcode.toNat
    ||| put 0 12 10 x.stack.length ||| at_ (x.lc != 0) 9 ||| at_ x.fault 8 ||| at_ x.sfail 3 ||| at_ x.pmbf 2
    ||| at_ x.cref 1 ||| at_ x.tout 0

/-- SEQ_WPCn (R227). -/
def State.wPc (s : State) (w : WickId) : Word := put (put 0 31 16 (s.wk w).lc.toNat) 11 0 (s.wk w).pc.toNat

/-- The cycles left to the earliest hint deadline of a waiting wick (R221). -/
def State.hintLeft (s : State) : Option Nat :=
  (allWicks.filterMap (fun w => match (s.wk w).st with | .wait _ => (s.wk w).hint | _ => none)).min?.map (· - s.cycle)

/-- A time in cycles as a word of µs, all ones for none. R221 and R530 round no fraction of a µs and saturate nothing: a
fraction goes to either side, and a time beyond the field is unstated (DESIGN CHOICE, log 10). -/
def usWord : Option Nat → Word
  | none => 0xFFFFFFFF#32
  | some n => if n < 100 * 0xFFFFFFFF then BitVec.ofNat 32 (roundOpen n 100).toNat else Config.usOver n

/-- SEQ_HORIZ (R221), whose fraction of a µs and saturation are a DESIGN CHOICE (log 10). -/
def State.horizon (s : State) : Word := usWord s.hintLeft

/-! Domain words -/

/-- SEQ_DOWNd (R257, R267). -/
def State.dOwn (s : State) (d : DomId) : Word :=
  let x := s.dom d
  let kid : Nat × Nat := match x.owner with
    | .none => (0, 0)
    | .wick w => (1, w.val)
    | .host p i => (2, 4 * p.val + i.val)
    | .tether => (3, 0)
  put 0 31 30 kid.1 ||| put 0 27 24 kid.2 ||| put 0 23 16 x.epoch.toNat
    ||| x.queue.foldl (fun a w => a ||| bitw w.val) 0

/-- SEQ_DSTATd (R267). -/
def State.dStat (s : State) (d : DomId) : Word :=
  let x := s.dom d
  put 0 31 30 x.prog.code ||| put 0 29 27 x.last.toNat ||| put 0 26 24 x.src.toNat ||| at_ x.pendUp 23
    ||| at_ x.conf 4 ||| at_ x.brk 3 ||| at_ x.pendWd 2 ||| at_ x.reqRef 1

/-- A domain depends on another, directly or through others (R232): the closure within 16 steps. -/
def State.depSet (s : State) (d : DomId) : List DomId :=
  let direct (x : DomId) : List DomId := allDoms.filter (fun e => e != x && s.bit (aDDep x) e.val)
  (List.range 16).foldl (fun acc _ =>
    allDoms.filter (fun e => acc.contains e || acc.any (fun x => (direct x).contains e))) (direct d)
def State.dependsOn (s : State) (d e : DomId) : Bool := (s.depSet d).contains e

/-- Every rail of a domain is in OFF (condition doff). -/
def State.doff (s : State) (d : DomId) : Bool := (s.railsOf d).all (fun r => (s.ch r).st == .off)

/-- A program runs on a wick: the domain and the program. -/
def State.progOf (s : State) (w : WickId) : Option DomId :=
  allDoms.find? (fun d => (s.dom d).prog != .none && s.pwick d == w)

/-- The down-program of a rail's domain runs (R256). -/
def State.duringDown (s : State) (r : Rail) : Bool :=
  match s.domOf r with
  | some d => (s.dom d).prog == .down
  | none => false

/-! Reserve words -/

/-- The ORing pair is blocked (R389). -/
def State.rsvBlock (s : State) : Bool :=
  s.reserve.scoff || s.reserve.empty || s.reserve.rest || (s.bit aRsvOring 30 && s.reserve.tdis)

/-- RSV_STAT (R409). -/
def State.rsvStat (s : State) : Word :=
  let v := s.reserve
  at_ v.learned 15 ||| at_ v.evalid 14 ||| at_ v.learn 13 ||| at_ v.floor 12 ||| at_ v.tdis 11 ||| at_ v.tchg 10
    ||| at_ v.scoff 9 ||| at_ v.ilim 8 ||| at_ s.rsvBlock 7 ||| at_ v.rest 6 ||| at_ v.empty 5 ||| at_ v.supply 4
    ||| at_ v.orOn 3 ||| at_ (v.chg == .full) 2 ||| at_ (v.chg == .pre || v.chg == .cc || v.chg == .cv) 1
    ||| at_ v.present 0

/-- RSV_CFG.EN with RSV_CHG.EN, and with RSV_ORING.EN. -/
def State.rsvEn (s : State) : Bool := s.bit aRsvCfg 31
def State.chgEn (s : State) : Bool := s.rsvEn && s.bit aRsvChg 31
def State.oringEn (s : State) : Bool := s.rsvEn && s.bit aRsvOring 31

/-- The charger switches, so ELAPSED runs. -/
def chgRuns (c : ChgState) : Bool := c == .pre || c == .cc || c == .cv

/-- The conditions of R381, apart from the enables; none during a scheduled rest. -/
def State.chgReady (s : State) : Bool :=
  let v := s.reserve
  s.bit aMonVin 0 && !s.bit aMonVin 1 && !v.orOn && v.present && !v.tchg && !v.rest

/-! Readings (R124, R145) -/

/-- TLM_LASTp.LAST. -/
def State.last (s : State) (p : Nat) : BitVec 16 := BitVec.ofNat 16 (s.fld (aLast p) 15 0)

/-- Ring time as bytes. -/
def timeBytes (t : BitVec 64) : List Byte := leBytes 8 t.toNat

/-- The device is on a ring (R484). -/
def State.onRing (s : State) : Bool := s.bit aRngCfg 31

end Sys2Proof.Machine
end

