-- ==== Sys2Proof/Machine/Raise.lean ====
section
/-! DEFINITION. The fault collector's cycle (R271 to R276, R283 to R288, R294, R295) and what a first-fault latch
starts in other blocks: the telemetry freeze (R140), the end of a loop-health measurement (R159) and of a scheduled
rest (R404), the entry into the plant-first record (R502) and the ember's snapshot (R288, R370, R371). -/

namespace Sys2Proof.Machine

/-- A raise of one cycle: its source, whether an injection made it, and whether that injection is DRY. -/
structure Raise where
  src : Nat
  inj : Bool := false
  dry : Bool := false
  deriving DecidableEq, Repr

/-! Device sources (R270) -/
def srcInput : Nat := 320
def srcReserve : Nat := 321
def srcCharger : Nat := 322
def srcThermal : Nat := 323
def srcStore : Nat := 324
def srcCounterRepair : Nat := 325
def srcArbStarve : Nat := 326
def srcWick (w : WickId) : Nat := 327 + w.val
def srcTether : Nat := 343
def srcRingA : Nat := 344
def srcRingB : Nat := 345
def srcSyncLoss : Nat := 346
def srcTamper : Nat := 347
def srcAuthFail : Nat := 348
def srcClockFail : Nat := 349
def srcSelfTest : Nat := 350
def srcDisagree : Nat := 351
def srcLoopHealth : Nat := 352
def srcHitchBroken : Nat := 353
def srcRemoteLantern : Nat := 354
def srcSw (n : Fin 8) : Nat := 355 + n.val

/-- The rail of a rail source (R269). -/
def srcRail (n : Nat) : Option Rail := if h : n < 320 then some ⟨n / 5, by omega⟩ else none

/-- The event type of a rail source. -/
def srcEv (n : Nat) : EvType :=
  match n % 5 with | 0 => .ov | 1 => .uv | 2 => .oc | 3 => .onTimeout | _ => .offTimeout

/-- Severity of a source (R273). -/
def State.sev (s : State) (n : Nat) : Nat := s.fld (aSev (n / 16)) (2 * (n % 16) + 1) (2 * (n % 16))

/-- The reaction code of a rail event (CH_REACT): 0 IGNORE, 1 RETRY, 2 GROUP_OFF, 3 SYSTEM_RESET. -/
def State.reactOf (s : State) (r : Rail) (e : EvType) : Nat := s.fld (aChReact r) (2 * e.off + 1) (2 * e.off)

/-- FLT_STAT.STATE (R282): 0 EMPTY, 1 CAPTURE, 2 HELD. -/
def State.fltState (s : State) : Nat := s.fld aFltStat 31 30

/-! Loop-health abort (R159) -/

/-- The rail under loop-health measurement (TLM_LHSTAT.RAIL). -/
def State.lhRail (s : State) : Rail := ⟨s.fld aLhStat 30 25 % 64, by omega⟩

/-- A loop-health measurement runs (TLM_LHSTAT.BUSY). -/
def State.lhBusy (s : State) : Bool := s.bit aLhStat 31

/-- Waiting requests enter the queue of 16 (R146). -/
def Scan.fill (c : Scan) : Scan :=
  { c with queue := c.queue ++ c.waiting.take (16 - c.queue.length), waiting := c.waiting.drop (16 - c.queue.length) }

/-- A free ADC15 starts the next queued conversion, which serves every request for its point made so far. -/
def Scan.convertNext (c : Scan) : Scan :=
  match c.running, c.queue with
  | none, p :: t => { c with
      running := some p, queue := t, waiting := c.waiting.filter (· != p), bySample := c.bySample.filter (· != p) }
  | _, _ => c

/-- ADC15 goes on with the queue unless a loop-health measurement holds it (R146, R152). -/
def State.pumpTlm (s : State) : State := if s.lhBusy then s else { s with scan := s.scan.fill.convertNext.fill }

/-- A measurement starts or ends within the frame in progress: the words of ADC15 whose slots of 250 ns have not begun yet
fall into it, or no longer (R127, R155). -/
def State.lhFrame (s : State) (starts : Bool) : State :=
  if !s.scan.inFrame then s
  else match s.scan.nextAt with
    | none => s
    | some t =>
      let f := s.scan.cur
      let m : BitVec 16 := 0xFFFF#16 <<< ((s.cycle + 400 - t + 24) / 25)
      { s with scan := { s.scan with cur := { f with lh := if starts then f.lh ||| m else f.lh &&& ~~~m } } }

/-- The end of a measurement: the perturbation is removed, BUSY clears, GAP starts, waiting requests enter the queue. -/
def State.lhFinish (s : State) : State :=
  let r := s.lhRail
  let s := s.setCh r { s.ch r with perturb := 0 }
  let s := (s.setBit aLhStat 31 false).lhFrame false
  { s with lh := { s.lh with
    next := r.val + 1, toggleAt := none, runs := [], gapAt := s.timer (s.fld aLhCtl 15 0 * 100000000) } }.pumpTlm

/-- Abort the running measurement: STATUS ABORTED, ABORT set, no history entry (R159). FC, PM and CEST of TLM_LHRES0 and
TLM_LHRES1, of which R159 and R151 say nothing, keep the values of the earlier result, here and after a skipped rail
(DESIGN CHOICE, log 8). -/
def State.lhAbort (s : State) : State :=
  if s.lhBusy then
    let s := s.setFld (aLhRes 0) 5 0 s.lhRail.val
    let s := (s.setFld (aLhRes 1) 7 0 0x08).setBit aLhStat 1 true
    s.lhFinish
  else s

/-! Scheduled-rest abort (R404) -/

/-- The charger leaves PAUSE for the state it left, where the conditions of R381 still hold; ELAPSED resumes. A return
to FULL is no entry of R395 (log 14). -/
def State.endPause (s : State) : State :=
  let v := s.reserve
  if v.chg != .pause then s
  else
    let back : ChgState := if !s.chgEn then .off else if s.chgReady then v.paused else .wait
    { s with reserve := { v with chg := back, elapsedFrom := if chgRuns back then some s.cycle else v.elapsedFrom } }

/-- The rest ends without an update: pair unblocked, charger back in the state it left, RESTABT set. -/
def State.restAbort (s : State) : State :=
  if s.reserve.rest then
    { s with reserve := { s.reserve with rest := false, restAt := none, restAbortAt := some s.cycle } }.endPause.orReg
      aRsvFlags (bitw 12)
  else s

/-! Telemetry freeze (R140, R141) -/

/-- A freeze trigger: while PENDING or FROZEN it only sets MISSED. Between frames the last frame counts as the one in
progress (log 9). A frame in progress that is not written (DOZE, EN 0), of which R140 does not speak, counts as the trigger
frame too, so POST + 1 later frames are written, the first at index FRAME (DESIGN CHOICE, log 9). With no frame left to
write, the writer moves to the other half at once. -/
def State.freezeTrigger (s : State) : State :=
  if s.bit aRawStat 29 || s.bit aRawStat 30 then s.orReg aRawStat (bitw 1)
  else
    let c := s.scan
    let s := (s.setFld aRawStat 21 16 (if c.inFrame then c.frame else c.frame + 63)).orReg aRawStat (bitw 29)
    let s := s.setReg aFrzTL (c.frameTime.setWidth 32)
    let s := s.setReg aFrzTH ((c.frameTime >>> 32).setWidth 32)
    let n := s.fld aRawCtl 5 0 + c.inFrame.toNat
    let s := { s with scan := { c with postLeft := n, frame := if n = 0 then 0 else c.frame } }
    if n = 0 then s.setBit aRawStat 31 (!s.bit aRawStat 31) else s

/-! Plant-first record (R502 to R505) -/

/-- This device is a tether slave (R466). -/
def State.slave (s : State) : Bool := !s.tether.straps.trole

/-- Its tether address; 0 on a master. -/
def State.taddr (s : State) : BitVec 4 := if s.slave then s.tether.straps.taddr else 0

/-- Ring time is valid on this device: the condition synced (R190, R481, R499). -/
def State.synced (s : State) : Bool := if s.slave then s.bit aTthStat 13 else s.bit aRngStat 31

/-- Lantern x ranks before y (R504). -/
def lanternBefore (x y : Lantern) : Bool :=
  let key (l : Lantern) : List Nat :=
    [l.inj.toNat, l.inexact.toNat, l.time.toNat, l.node.toNat, l.taddr.toNat]
  decide (key x < key y)

/-- Two lanterns of one device with one number are the same (R504). -/
def sameLantern (x y : Lantern) : Bool := x.node == y.node && x.taddr == y.taddr && x.number == y.number

/-- The lantern is already recorded (R504). -/
def State.pfKnown (s : State) (l : Lantern) : Bool :=
  (s.ring.best.any (sameLantern l)) || (s.ring.run.any (sameLantern l))

/-- The lantern's ring time is earlier than the last PFCLEAR's TC (R507). -/
def State.pfStale (s : State) (l : Lantern) : Bool := s.ring.clearAt.any (fun tc => l.time.toNat < tc.toNat)

/-- Enter a lantern into the record: best and runner-up by rank (R504). -/
def State.pfEnter (s : State) (l : Lantern) : State :=
  if s.pfKnown l || s.pfStale l then s
  else match s.ring.best with
    | none => { s with ring := { s.ring with best := some l } }
    | some b =>
      if lanternBefore l b then { s with ring := { s.ring with best := some l, run := some b } }
      else match s.ring.run with
        | none => { s with ring := { s.ring with run := some l } }
        | some u => if lanternBefore l u then { s with ring := { s.ring with run := some l } } else s

/-- RNG_PFINFO.CONC (R505). -/
def State.pfConc (s : State) : Bool :=
  match s.ring.best, s.ring.run with
  | some b, some u =>
    !b.inj && !u.inj && !b.inexact && !u.inexact &&
      (max b.time.toNat u.time.toNat - min b.time.toNat u.time.toNat) * 10 < 40 + 50 * b.teth.toNat + 50 * u.teth.toNat
  | _, _ => false

/-! The ember's snapshot (R288, R370, R371) -/

/-- A rail entry (R371). -/
def State.railEntry (s : State) (r : Rail) : List Byte :=
  let c := s.ch r
  let d := s.domOf r
  leBytes 2 (s.last (voltPoint r)).toNat
    ++ leBytes 2 (if isExt r then 0 else (s.last (r + 16)).toNat)
    ++ leBytes 2 (if isExt r then 0 else (s.last (r + 32)).toNat)
    ++ leBytes 1 (c.st.code + 8 * c.enCmd.toNat + 16 * c.pg.toNat + 32 * (s.enout r).toNat + 64 * c.pend.toNat)
    ++ leBytes 1 (s.fld (aChFlags r) 5 0)
    ++ leBytes 2 (unsgn 16 (s.step r))
    ++ leBytes 2 (c.trip.toNat + 8 * c.retries.toNat + 64 * ((d.map (·.val)).getD 0) + 1024 * d.isSome.toNat)

/-- The bytes 0x018 to 0x01F that every record's header carries (R369). -/
def State.recordIds (s : State) : List Byte :=
  leBytes 1 (if s.onRing then s.fld aRngCfg 5 0 else 0xFF) ++ leBytes 1 (if s.bit aTthCfg 26 then s.taddr.toNat else 0)
    ++ leBytes 2 0
    ++ wordBytes (s.reg aSeqLiveVer)

/-- The bytes 0x008 to 0x017 of an ember's header: time, source, severity, flags and merge counts (R369). -/
def State.emberHead (s : State) : List Byte :=
  let f := s.reg aFltFirst
  wordBytes (s.reg aFltFirstTL) ++ wordBytes (s.reg aFltFirstTH) ++ leBytes 2 (wfld f 31 23) ++ leBytes 1 (wfld f 22 21)
    ++ leBytes 1 ((tst f 1).toNat + 2 * (tst f 2).toNat + 4 * (tst f 3).toNat + 8 * (tst f 4).toNat
      + 16 * (tst f 5).toNat + 32 * (tst f 6).toNat + 64 * (tst f 7).toNat)
    ++ wordBytes (s.reg aFltMerge)

/-- The bytes 0x008 to 0x3FB of an ember (R369, R370). -/
def State.snapshot (s : State) : Snapshot :=
  s.emberHead ++ s.recordIds
    ++ allRails.flatMap s.railEntry
    ++ (List.range 28).flatMap (fun i => leBytes 2 (s.last (96 + i)).toNat)
    ++ wordBytes (s.reg aMonVin)
    ++ wordBytes s.rsvStat
    ++ allWicks.flatMap (fun w => wordBytes (s.wStat w) ++ wordBytes (s.wPc w))
    ++ List.replicate 28 0

/-! Store requests (R338, R340) -/

/-- The page is dirty (R337). -/
def State.dirty (s : State) (k : Nat) : Bool := s.keeper.dirty.getLsbD k

/-- Begin a store: the shadow array is powered first (R339). -/
def State.beginStore (s : State) (kind : StoreKind) (pages : List (Nat × Bool)) : State :=
  { s with keeper := { s.keeper with
    number := s.keeper.number + 1, last := some kind
    run := some {
      kind := kind, ready := false, left := pages, cur := none, written := 0, startAt := s.cycle, pass2 := false
      waitRewrite := false } } }

/-- FLT_EMBER.SLOT. -/
def State.emberSlot (s : State) : Nat := s.fld aFltEmber 6 0

/-- The slot after the newest record, skipping a held ember (R368): KPS_LOGIDX.NEXT. -/
def State.logNext (s : State) : Nat :=
  let n := if s.bit aLogIdx 31 then (s.fld aLogIdx 30 24 + 1) % 128 else 0
  if s.fltState = 2 ∧ n = s.emberSlot then (n + 1) % 128 else n

/-- The page the logger is writing an ember into (R341). -/
def State.emberPage (s : State) : Option Nat := if s.fltState = 1 then some s.logNext else none

/-- The running store covers every page a request asks for and has still to reach it (R340): it holds the page in any
case, or takes it because it is dirty. A page that is taken only when dirty, is clean and receives no ember is none that
the request asks for. -/
def State.covered (s : State) (j : StoreRun) (pages : List (Nat × Bool)) : Bool :=
  pages.all (fun e => j.left.any (fun f => f.1 == e.1 && (f.2 || !e.2 || s.dirty e.1))
    || (!e.2 && !s.dirty e.1 && s.emberPage != some e.1))

/-- Request a store: begun, merged into the running one, or pending; satisfied by a power-fail store (R340, R344). -/
def State.requestStore (s : State) (kind : StoreKind) (pages : List (Nat × Bool)) : State :=
  if s.keeper.locked then s
  else match s.keeper.run with
    | none => s.beginStore kind pages
    | some j =>
      if s.covered j pages then s
      else { s with keeper := { s.keeper with pending := s.keeper.pending ++ [(kind, pages)] } }

/-- The pages of the fault log, and all pages, taken when dirty. -/
def logPages : List (Nat × Bool) := (List.range 128).map (fun k => (k, false))
def dirtyPages : List (Nat × Bool) := (List.range 256).map (fun k => (k, false))

/-! The collector's cycle -/

/-- Insert a raise by source; a real raise of a source replaces an injected one (R272, R300). -/
def insRaise (x : Raise) : List Raise → List Raise
  | [] => [x]
  | y :: t =>
    if x.src < y.src then x :: y :: t
    else if x.src = y.src then (if y.inj then x else y) :: t
    else y :: insRaise x t

/-- The raises of a cycle that occur, one per source in rising order: no reserved source, no rail not in use (R272). -/
def State.occurring (s : State) (l : List Raise) : List Raise :=
  (l.filter (fun x => x.src < 363 && (match srcRail x.src with | some r => s.use r | none => true))).foldr insRaise []

/-- A raise is consequential (R294). -/
def State.conseq (s : State) (x : Raise) : Bool :=
  let covers (sh : Shadow) : Bool :=
    !(sh.injOnly && !x.inj) && !((srcRail x.src).any (fun r => sh.exempt.contains r))
  let byDev : Bool := s.faults.devShadow.any covers
  match srcRail x.src with
  | some r =>
    if srcEv x.src = .ov then false
    else byDev || (match s.domOf r with
      | some d => (s.faults.shadows[d]).any covers
      | none => false)
  | none =>
    byDev || s.fltState == 1
      || allDoms.any (fun d => (s.dom d).prog == .down && ((s.dom d).src == 2 || (s.dom d).src == 5))
      || allRails.any (fun r => (s.ch r).st == .retryWait)
      || s.faults.shadows.toList.any (fun o => o.any (fun sh => !sh.injOnly))
      || s.faults.devShadow.any (fun sh => !sh.injOnly)

/-- The always-on domain detects what raises the source: the input, the always-on clock and its own clock failures (R520;
DEDUCED, log 40). -/
def aoSource (n : Nat) : Bool := n == srcInput || n == srcClockFail

/-- By how much the ring time of a raise may lie off (R533), in 10 ns: ±1 µs of the always-on domain in NAP, ±2 µs and
20 ppm of the time in HIBERNATE of any block there. -/
def State.stampErr (s : State) (n : Nat) : Nat :=
  match s.power.state with
  | .hibernate => 200 + (s.cycle - s.power.since) * 20 / 1000000
  | .nap => if aoSource n then 100 else 0
  | _ => 0

/-- The ring time that a raise of a source carries (R271, R533). -/
def State.stamp (s : State) (n : Nat) : BitVec 64 :=
  let e : Int := s.stampErr n
  if e = 0 then s.now else s.now + BitVec.ofInt 64 (clip (-e) e (Config.wakeErr s.cycle))

/-- A raise with what the collector finds of it, and the ring time it carries. -/
structure Judged where
  x : Raise
  sev : Nat
  conseq : Bool
  down : Bool
  time : BitVec 64 := 0
  merged : Bool := false
  deriving DecidableEq, Repr

/-- The rank of a candidate; the lowest is latched (R283). -/
def candKey (j : Judged) : Nat := 8 * j.x.inj.toNat + 4 * j.conseq.toNat + (if j.sev = 3 then 0 else 2)

/-- The candidate to latch: the lowest rank, then the lowest source (the list is in rising source order). -/
def bestCand : List Judged → Option Judged
  | [] => none
  | j :: t => match bestCand t with
    | none => some j
    | some k => if candKey j ≤ candKey k then some j else some k

/-- Count a raise (R273). -/
def State.countRaise (s : State) (n : Nat) : State :=
  let lo := 8 * (n % 4)
  s.setFld (aCnt (n / 4)) (lo + 7) lo (satInc 8 (s.fld (aCnt (n / 4)) (lo + 7) lo))

/-- Hand the logger an event entry when R274 asks for one; a full queue loses it (R276). -/
def State.logRaise (s : State) (j : Judged) : State :=
  let n := j.x.src
  let pendWas := s.bit (aPend (n / 32)) (n % 32)
  let lastInj := s.faults.lastInj.contains n
  let s := s.orReg (aPend (n / 32)) (bitw (n % 32))
  if !pendWas || (!j.x.inj && lastInj) then
    if 64 ≤ s.faults.queue.length then s.orReg aFltStat (bitw 2)
    else
      let e : LogEntry := {
        source := BitVec.ofNat 9 n, sev := BitVec.ofNat 2 j.sev, time := j.time,
        dom := (srcRail n).bind s.domOf, conseq := j.conseq, injected := j.x.inj, duringDown := j.down,
        merged := j.merged }
      let li := s.faults.lastInj.filter (· != n)
      { s with faults := { s.faults with queue := s.faults.queue ++ [e], lastInj := if j.x.inj then li ++ [n] else li } }
  else s

/-- One merged candidate (R284). -/
def State.mergeOne (s : State) (j : Judged) : State :=
  let s := s.orReg aFltFirst (bitw 1)
  let s := s.setFld aFltMerge 15 0 (satInc 16 (s.fld aFltMerge 15 0))
  if j.conseq then s.setFld aFltMerge 31 16 (satInc 16 (s.fld aFltMerge 31 16)) else s

/-- A report begins: the ember of the last one is no longer the current one, and the logger closes its open event record
(R291, R374). -/
def State.newReport (s : State) : State :=
  let s := (s.setBit aFltEmber 31 false).setBit aLogIdx 15 false
  { s with faults := { s.faults with ember := false } }

/-- Latch a first fault and enter CAPTURE (R283, R285), and what the latch starts elsewhere. The fault enters the plant-first
record in the next cycle (R502). -/
def State.latch (s : State) (j : Judged) (others injAct : Bool) : State :=
  let w := put 0 31 23 j.x.src ||| put 0 22 21 j.sev ||| at_ others 7 ||| at_ (s.bit aMonVin 3) 6 ||| at_ j.down 5
    ||| at_ (injAct || j.x.inj) 4 ||| at_ j.x.inj 3 ||| at_ j.conseq 2
  let s := (s.setReg aFltFirst w).setFld aFltStat 31 30 1
  let s := (s.setReg aFltFirstTL (j.time.setWidth 32)).setReg aFltFirstTH ((j.time >>> 32).setWidth 32)
  let s := s.newReport.lhAbort.restAbort
  let s := if s.bit aRawCtl 30 then s.freezeTrigger else s
  let num := s.ring.number + 1
  let l : Lantern := {
    time := j.time, src := BitVec.ofNat 9 j.x.src, sev := BitVec.ofNat 2 j.sev, inj := j.x.inj,
    inexact := !s.synced || (s.slave && s.fld aTthStat 15 14 == 1), teth := s.slave,
    node := BitVec.ofNat 6 (s.fld aRngCfg 5 0), taddr := s.taddr, number := num }
  let s := { s with ring := { s.ring with number := num, own := s.ring.own ++ [(s.cycle + 1, l)] } }
  if s.onRing then { s with ring := { s.ring with due := s.ring.due ++ [l] } } else s

/-- The reactions to apply, or to defer, of the rail events of one cycle (R277, R295): IGNORE asks for no application, and a
DRY injection has no reaction (R298). -/
def State.reactsOf (s : State) (l : List Judged) (deferred : Bool) : List React :=
  l.filterMap (fun j => match srcRail j.x.src with
    | some r =>
      let code := BitVec.ofNat 2 (s.reactOf r (srcEv j.x.src))
      if !j.x.dry && j.conseq == deferred && (deferred || code != 0) then
        some { rail := r, ev := srcEv j.x.src, code := code, injected := j.x.inj }
      else none
    | none => none)

/-- The raises of one cycle, each with its severity and consequence. -/
def State.judgedAll (s : State) (l : List Raise) : List Judged :=
  (s.occurring l).map (fun x =>
    { x := x, sev := s.sev x.src, conseq := s.conseq x, down := (srcRail x.src).any s.duringDown
      time := s.stamp x.src : Judged })

/-- The raises that may start or join a report. -/
def Judged.cand (j : Judged) : Bool := 2 ≤ j.sev && !j.x.dry

/-- The raise that becomes the first fault, with the collector in state `state0`. -/
def firstOf (state0 : Nat) (js : List Judged) : Option Judged :=
  if state0 = 0 then bestCand (js.filter Judged.cand) else none

/-- Is this raise the first fault? -/
def isFirst (first : Option Judged) (j : Judged) : Bool := first.any (fun f => f.x.src == j.x.src)

/-- The reactions of the judged raises join the queue, those of shadowed sources the deferred ones. -/
def State.queueReacts (s : State) (js : List Judged) : State :=
  let batch := s.reactsOf js false
  { s with faults := { s.faults with
    reacts := if batch.isEmpty then s.faults.reacts else s.faults.reacts ++ [batch],
    deferred := s.faults.deferred ++ s.reactsOf js true } }

/-- A CRITICAL raise requests the store of the log pages, at once or when the report in hand is done. -/
def State.critStore (s : State) (state0 : Nat) (js : List Judged) : State :=
  if js.any (fun j => j.sev == 3 && !j.x.dry) then
    if state0 = 0 then s.requestStore .critical logPages
    else { s with faults := { s.faults with critPend := true } }
  else s

/-- The first fault is latched. -/
def State.latchFirst (s : State) (first : Option Judged) (several injAct : Bool) : State :=
  match first with
  | some f => s.latch f several injAct
  | none => s

/-- The candidates after the first join the report; a change of a report already written marks its header for rewriting. -/
def State.mergeRest (s : State) (state0 : Nat) (rest : List Judged) : State :=
  let before := (s.bit aFltFirst 1, s.reg aFltMerge)
  let s := rest.foldl State.mergeOne s
  if rest.isEmpty || before == (s.bit aFltFirst 1, s.reg aFltMerge) then s
  else { s with faults := { s.faults with rewrite := s.faults.rewrite || state0 != 0 } }

/-- The latch cycle's values are kept for the record. -/
def State.takeSnap (s : State) (first : Option Judged) : State :=
  if first.isSome then { s with faults := { s.faults with snap := some s.snapshot, rewrite := false } } else s

/-- What a cycle still changes after its latch belongs to the snapshot: `was` is the collector's state before (R288). -/
def State.resnap (s : State) (was : Nat) : State :=
  if was = 0 && s.fltState = 1 then { s with faults := { s.faults with snap := some s.snapshot } } else s

/-- The collector's cycle over judged raises, with `state0` its state and `first` the first fault. -/
def State.collect (s : State) (state0 : Nat) (first : Option Judged) (js : List Judged) (injAct : Bool) : State :=
  let cands := js.filter Judged.cand
  let js := js.map (fun j => { j with merged := (j.cand && !isFirst first j) || (j.sev == 1 && state0 != 0) })
  let s := js.foldl (fun s j => s.countRaise j.x.src) s
  let s := (js.filter (fun j => 1 ≤ j.sev)).foldl State.logRaise s
  let s := ((s.queueReacts js).latchFirst first (1 < cands.length) injAct).critStore state0 js
  (s.mergeRest state0 (cands.filter (fun j => !isFirst first j))).takeSnap first

/-- The raises start a wake (R531). -/
def State.wakeRaise (s : State) (js : List Judged) : State := if js.isEmpty then s else s.startWake

/-- The collector's cycle over the raises of one cycle. `injAct`: an injection fired in this cycle (R285). -/
def State.raiseAll (s : State) (l : List Raise) (injAct : Bool := false) : State :=
  if !s.powered then s
  else (s.collect s.fltState (firstOf s.fltState (s.judgedAll l)) (s.judgedAll l) injAct).wakeRaise (s.judgedAll l)

/-- Raise one real source. -/
def State.raise1 (s : State) (n : Nat) : State := s.raiseAll [{ src := n }]

end Sys2Proof.Machine
end

