-- ==== Sys2Proof/Machine/Pmbus.lean ====
section
/-! DEFINITION. The PMBus master ports: queue, polls and the transactions of a preamble and of a margin change
(R61 to R68, R148, R307). -/

namespace Sys2Proof.Machine

/-- CH_CFG.PMBPORT and PMBADDR. -/
def State.pmbPort (s : State) (r : Rail) : Fin 4 := ⟨s.fld (aChCfg r) 27 26 % 4, by omega⟩
def State.pmbAddr (s : State) (r : Rail) : BitVec 7 := BitVec.ofNat 7 (s.fld (aChCfg r) 25 19)
/-- CH_CFG.VEXP, signed. -/
def State.vexp (s : State) (r : Rail) : Int := sgn 5 (s.fld (aChCfg r) 18 14)
/-- CH_VSET.VSET. -/
def State.vset (s : State) (r : Rail) : Nat := s.fld (aChVset r) 15 0

def State.setPort (s : State) (p : Fin 4) (x : PmbPort) : State := { s with ports := s.ports.set p x }

/-- The regulators a port polls: the channels that own a binding on it, in rising index order (R66, R68). -/
def State.pollList (s : State) (p : Fin 4) : List Rail := allRails.filter (fun r => s.bound r && s.pmbPort r == p)

/-- The channel that owns the binding of a port and address. -/
def State.boundRail (s : State) (p : Fin 4) (a : BitVec 7) : Option Rail :=
  allRails.find? (fun r => s.bound r && s.pmbPort r == p && s.pmbAddr r == a)

/-- The command of the n-th transaction of a poll (R66). -/
def pollCmd (i : Fin 4) : BitVec 8 :=
  match i.val with | 0 => 0x8B | 1 => 0x8C | 2 => 0x8D | _ => 0x79

def State.pollTx (s : State) (r : Rail) (i : Fin 4) : PmbTx :=
  { owner := .poll r i, addr := s.pmbAddr r, cmd := pollCmd i, data := 0 }

/-- Give an idle port its next transaction: a queued one, else the next regulator of the pass that is still bound to
the port; a pass whose successor is due starts again. Outside RUN and DOZE no poll goes on and the pass ends (R66). -/
def State.kick (s : State) (p : Fin 4) : State :=
  let x := s.ports[p]
  if x.cur.isSome then s
  else match x.queue with
    | t :: q => s.setPort p { x with cur := some t, queue := q }
    | [] =>
      if !s.awake then s.setPort p { x with pollLeft := [], pass := false, due := false }
      else match x.pollLeft.dropWhile (fun r => !(s.pollList p).contains r) with
      | r :: l => s.setPort p { x with cur := some (s.pollTx r 0), pollLeft := l, got := [], bad := false }
      | [] =>
        if x.pass && x.due then
          match s.pollList p with
          | r :: l => s.setPort p { x with
              cur := some (s.pollTx r 0), pollLeft := l, due := false, passAt := s.timer 1000000, got := [], bad := false }
          | [] => s.setPort p { x with pollLeft := [], pass := false, due := false }
        else s.setPort p { x with pollLeft := [], pass := false }

/-- Queue transactions on a port (R66). -/
def State.queueTx (s : State) (p : Fin 4) (l : List PmbTx) : State :=
  let x := s.ports[p]
  (s.setPort p { x with queue := x.queue ++ l }).kick p

/-- Take transactions that are not yet on the bus out of a port's queue. -/
def State.dropTx (s : State) (p : Fin 4) (q : PmbTx → Bool) : State :=
  let x := s.ports[p]
  s.setPort p { x with queue := x.queue.filter (fun t => !q t) }

/-- LINEAR16 of a voltage of n µV with exponent e. R307 gives the nearest mantissa for the margin voltages; for the
VOUT_COMMAND of R62 and R65 the spec names no rounding, and the nearest is a DESIGN CHOICE (log 10). -/
def linear16 (n : Nat) (e : Int) : BitVec 16 :=
  let q := scale2 n (-e)
  let m := roundNear q.1 (q.2 * 1000000)
  if m < 65536 then BitVec.ofNat 16 m.toNat else Config.linear16Over n

/-- Start the preamble of a bound channel (R65). -/
def State.startPreamble (s : State) (r : Rail) : State :=
  let vc := s.bit (aChVset r) 23
  let t1 : PmbTx := { owner := .preamble r (!vc), addr := s.pmbAddr r, cmd := 0x03, data := 0 }
  let t2 : PmbTx := { owner := .preamble r true, addr := s.pmbAddr r, cmd := 0x21,
                      data := linear16 (1000 * s.vset r) (s.vexp r) }
  s.queueTx (s.pmbPort r) (if vc then [t1, t2] else [t1])

/-- A transaction of a rail's preamble. -/
def preambleOf (r : Rail) (t : PmbTx) : Bool := match t.owner with | .preamble q _ => q == r | _ => false

/-- Transactions of a rail's preamble are on the bus or queued. -/
def State.preambleLeft (s : State) (r : Rail) : Bool :=
  let x := s.ports[s.pmbPort r]
  x.queue.any (preambleOf r) || x.cur.any (preambleOf r)

/-- The preamble ends early: what it has not yet sent is dropped, and the result of its transaction on the bus is ignored
(R65). -/
def State.dropPreamble (s : State) (r : Rail) : State :=
  let s := s.dropTx (s.pmbPort r) (preambleOf r)
  let x := s.ports[s.pmbPort r]
  s.setPort (s.pmbPort r) { x with
    cur := x.cur.map (fun t => if preambleOf r t then { t with owner := .discarded } else t) }

/-- Queue the transactions of a change of the step on the PMBus path (R307). -/
def State.marginTx (s : State) (r : Rail) (step : Int) : State :=
  let c := s.ch r
  let id := c.change + 1
  let s := s.setCh r { c with change := id }
  let uv : Nat := (s.vset r * (1000 + step)).toNat
  let mk (cmd : BitVec 8) (data : BitVec 16) (last : Bool) : PmbTx :=
    { owner := .margin r step id last, addr := s.pmbAddr r, cmd := cmd, data := data }
  s.queueTx (s.pmbPort r)
    (if 0 < step then [mk 0x25 (linear16 uv (s.vexp r)) false, mk 0x01 0xA8 true]
     else if step < 0 then [mk 0x26 (linear16 uv (s.vexp r)) false, mk 0x01 0x98 true]
     else [mk 0x01 0x80 true])

/-- A LINEAR11 word times k. -/
def linear11 (w : BitVec 16) (k : Int) : Int × Nat :=
  scale2 (sgn 11 (w.toNat % 2048) * k) (sgn 5 (w.toNat / 2048))

/-- Store the four readings of a successful poll (R148). -/
def State.storePoll (s : State) (r : Rail) (got : List (BitVec 16)) : State :=
  match got with
  | [vout, iout, temp, status] =>
    let n := r.val - 16
    let v := scale2 (4000 * vout.toNat) (s.vexp r)
    let i := linear11 iout 2000
    let t := linear11 temp 16
    let vi := put (put 0 15 0 (clip 0 65535 (roundOpen v.1 v.2)).toNat) 31 16
      (unsgn 16 (clip (-32768) 32767 (roundOpen i.1 i.2)))
    let ts := put (put 0 15 0 (unsgn 16 (clip (-32768) 32767 (roundOpen t.1 t.2)))) 31 16 status.toNat
    ((s.setReg (aPmbVi n) vi).setReg (aPmbTs n) ts).setBit (aPmbOk (n / 32)) (n % 32) true
  | _ => s

end Sys2Proof.Machine
end

