-- ==== Sys2Proof/Machine/Channel.lean ====
section
/-! DEFINITION. The rail state machine (R27 to R60), blanking (R93 to R99), the change of a margin step (R306 to
R318) and the reset outputs (R320 to R325). Several causes of one cycle are ranked per rail by R53. -/

namespace Sys2Proof.Machine

/-- What a cycle has brought about so far: the state, the raises the collector still has to take, the rails whose
reaction has escalated to GROUP_OFF in this cycle (R60), and whether a command sent to a channel was refused. -/
structure Cyc where
  s : State
  raises : List Raise := []
  groupOff : List Rail := []
  refused : Bool := false

def Cyc.map (c : Cyc) (f : State → State) : Cyc := { c with s := f c.s }
def Cyc.raise (c : Cyc) (n : Nat) : Cyc := { c with raises := c.raises ++ [{ src := n }] }
/-- Set bits of CH_FLAGS. -/
def Cyc.flag (c : Cyc) (r : Rail) (i : Nat) : Cyc := c.map (fun s => s.flag r i)
/-- Apply a change for every element of a list, in order. -/
def Cyc.forAll {α : Type} (c : Cyc) (l : List α) (f : Cyc → α → Cyc) : Cyc := l.foldl f c

/-! Blanking -/

/-- CH_BLANK.BLANK, in cycles (R93). -/
def State.blankLen (s : State) (r : Rail) : Nat := s.fld (aChBlank r) 7 0

/-- The end of a blanking that starts now. One of length 0 is none (R15, R93); where a blanking runs, its restart at a
full length of 0 ends it in this cycle (R98), and the BLANKING_END that follows tells the output. -/
def State.blankTimer (s : State) (r : Rail) (old : Timer) : Timer :=
  if s.blankLen r = 0 ∧ old.isNone then none else s.timer (s.blankLen r)

/-- Blank the over-voltage comparator of a channel in use (R45) unless it is exempt (R95). A blanking that runs when its
OVNB bit is set goes on to its end, which R95 leaves open (DESIGN CHOICE, log 24). -/
def State.blankOv (s : State) (r : Rail) : State :=
  if s.ovExempt r || !s.use r then s
  else s.setCh r { s.ch r with ov := { (s.ch r).ov with blank := s.blankTimer r (s.ch r).ov.blank } }

/-- Blank the under-voltage comparator; its level at the end of the blanking is told by BLANKING_END. -/
def State.blankUv (s : State) (r : Rail) : State :=
  if !s.use r then s
  else
    let t := s.blankTimer r (s.ch r).uv.blank
    s.setCh r { s.ch r with uv := { (s.ch r).uv with blank := t }, uvNew := (s.ch r).uvNew && t.isNone }

/-- The under-voltage comparator's reference switches (R35, R94). With a BLANK of 0 nothing is blanked, and the output
against the new reference is not known until the next UV_CROSSING (log 4). -/
def State.switchUv (s : State) (r : Rail) : State :=
  if !s.use r then s
  else
    let t := s.blankTimer r (s.ch r).uv.blank
    s.setCh r { s.ch r with uv := { (s.ch r).uv with blank := t }, uvNew := t.isNone }

/-- Blank the over-current comparator, or a bound AUXH. -/
def State.blankOc (s : State) (r : Rail) : State :=
  if !s.use r then s
  else s.setCh r { s.ch r with oc := { (s.ch r).oc with blank := s.blankTimer r (s.ch r).oc.blank } }

/-- Blank all three: entry to RISING, start and completion of a margin slew, a write of TRACK (R94). -/
def State.blankAll (s : State) (r : Rail) : State := ((s.blankOv r).blankUv r).blankOc r

/-- A channel that USE 0 takes out of use: its own comparators are powered down (R45). -/
def State.powerCmps (s : State) (r : Rail) : State :=
  if s.use r then s
  else s.setCh r { s.ch r with
    ov := {}, uv := {}, uvNew := false, oc := {}, leading := none, cycTrip := false, ocRun := 0 }

/-! Timers -/

def State.tonTimer (s : State) (r : Rail) : Timer := s.timer (unitCycles (s.fld (aChTon r) 25 24) (s.fld (aChTon r) 23 0))
def State.toffTimer (s : State) (r : Rail) : Timer := s.timer (unitCycles (s.fld (aChToff r) 25 24) (s.fld (aChToff r) 23 0))

/-- 1/FSW in cycles, rounded down (R91, CH_VSET.FSW). -/
def State.periodCycles (s : State) (r : Rail) : Nat :=
  let f := s.fld (aChVset r) 31 27
  100000 / (if kind r = 0 then 400 + 25 * f else 1000 + 50 * f)

/-- Leading-edge blanking: the smaller of BLANK and 30 % of the period, in whole cycles (R99). -/
def State.leadingLen (s : State) (r : Rail) : Nat :=
  let f := s.fld (aChVset r) 31 27
  min (s.blankLen r) (30000 / (if kind r = 0 then 400 + 25 * f else 1000 + 50 * f))

/-- A new switching period begins (R91, R99). -/
def State.startPeriod (s : State) (r : Rail) : State :=
  s.setCh r { s.ch r with leading := if s.leadingLen r = 0 then none else s.timer (s.leadingLen r), cycTrip := false }

/-! Margin -/

/-- CH_MARGIN.SLEW's interval t, in cycles (R314). -/
def State.slewT (s : State) (r : Rail) : Nat :=
  match s.fld (aChMargin r) 29 27 with
  | 0 => 100 | 1 => 200 | 2 => 500 | 3 => 1000 | 4 => 2000 | 5 => 5000 | 6 => 10000 | _ => 20000

/-- The value lies in the range of CH_MARGIN.STEP for the path (R306), and a PMBus step needs the binding (R307). The return
of a margined rail to STEP 0 is in range without it (DESIGN CHOICE, log 24). -/
def State.stepOk (s : State) (r : Rail) (pmb : Bool) (v : Int) : Bool :=
  if !isExt r then -100 ≤ v && v ≤ 100
  else if pmb then -100 ≤ v && v ≤ 100 && (v == 0 || (s.bit (aChCfg r) 28 && !s.cfgConflict r))
  else -2047 ≤ v && v ≤ 2047

/-- Start or redirect a margin slew towards STEP (R312, R315, R316, R318). On the trim and MGx paths a running slew
continues with its moves as they are timed. -/
def State.startSlew (s : State) (r : Rail) : State :=
  let s := (s.blankAll r)
  if s.pmbPath r then
    let s := s.setCh r { s.ch r with slew := true, slewAt := none, steps := (s.ch r).steps ++ [s.step r] }
    s.marginTx r (s.step r)
  else s.setCh r { s.ch r with
    slew := true, slewAt := if (s.ch r).slew then (s.ch r).slewAt else s.timer (s.slewT r) }

/-- STEP returns to 0 at once when a margined rail is disabled or trips (R313): without slew on the trim and MGx paths, by
a slew, with its blanking, on the PMBus path (R94, R312, R316). -/
def State.marginDrop (s : State) (r : Rail) : State :=
  let s := s.setStep r 0
  if s.pmbPath r then
    let s := s.blankAll r
    let s := s.setCh r { s.ch r with slew := true, slewAt := none, steps := (s.ch r).steps ++ [0] }
    s.marginTx r 0
  else s.setCh r { s.ch r with path := 0, slew := false, slewAt := none, steps := [] }

/-- An effective threshold of a programmed THR at path value p (R317). -/
def State.effThr (s : State) (r : Rail) (thr : Nat) (p : Int) : Int :=
  if isExt r && !s.pmbPath r then
    let gain := sgn 16 (s.fld (aMgk (r - 16)) 15 0)
    let a : Nat := 2 ^ s.fld (aChCfg r) 6 5
    clip 0 1023 (roundHalfUp (thr * (2000 * a) + p * gain) (2000 * a))
  else clip 0 1023 (roundHalfUp (thr * (1000 + p)) 1000)

/-- The path values the window has to cover (R317, R318). -/
def State.pathValues (s : State) (r : Rail) : List Int :=
  let c := s.ch r
  if s.pmbPath r then c.path :: c.steps else [c.path]

/-- The thresholds the OV and UV comparators compare against (R35, R82, R317 to R319). -/
def State.ovThr (s : State) (r : Rail) : Int :=
  let thr := s.fld (aChWinOv r) 9 0
  if s.bit (aChMargin r) 31 then thr
  else ((s.pathValues r).map (s.effThr r thr)).foldl max 0
def State.uvThr (s : State) (r : Rail) : Int :=
  if (s.ch r).st.window then
    let thr := s.fld (aChWinUv r) 9 0
    if s.bit (aChMargin r) 31 then thr
    else ((s.pathValues r).map (s.effThr r thr)).foldl min 1023
  else s.fld (aChVoff r) 9 0

/-! Transitions -/

/-- Enter a rail state: the UV reference switches with it (R35), the 1 s of R58 starts or ends, and a loop-health
measurement of a rail that leaves ON is aborted (R159). -/
def State.enter (s : State) (r : Rail) (st : RailState) : State :=
  let c := s.ch r
  let live (x : RailState) : Bool := x == .on || x == .margined
  let s := if c.st == .on && st != .on && s.lhBusy && s.lhRail == r then s.lhAbort else s
  let s := s.setCh r { s.ch r with
    st := st
    stable := if live st then (if live c.st then c.stable else s.timer 100000000) else none
    pg := st.window && c.pg }
  if c.st.window != st.window then s.switchUv r else s

/-- Stop: switches off or ENx deasserted, ENCMD cleared (R46); the periods and a preamble end (R65, R91). -/
def State.stop (s : State) (r : Rail) : State :=
  let s := if (s.ch r).pmbw then s.dropPreamble r else s
  s.setCh r { s.ch r with started := false, enCmd := false, ramp := false, pmbw := false, cycTrip := false, ocRun := 0,
                          leading := none, ton := none, pg := false }

/-- ENx asserts or the stage starts: TON, blanking and the first switching period (R29, R39, R91, R94). -/
def State.startStage (s : State) (r : Rail) : State :=
  let s := s.setCh r { s.ch r with started := true, ramp := !isExt r, ton := s.tonTimer r, ocRun := 0 }
  let s := s.blankAll r
  if isExt r then s else s.startPeriod r

/-- Into RISING (R46, R54, R65, R318). A PMBus slew that R313 has started goes on to its completion (R316). -/
def State.toRising (s : State) (r : Rail) : State :=
  let s := (s.setStep r 0).enter r .rising
  let s := s.setCh r { s.ch r with
    enCmd := true, pend := false, discharge := false, offtRaised := false, trip := 0, pg := false
    toff := none, backoff := none, path := 0, slew := s.pmbPath r && (s.ch r).slew
    slewAt := if s.pmbPath r then (s.ch r).slewAt else none, steps := [] }
  if s.bound r then (s.setCh r { s.ch r with pmbw := true }).startPreamble r else s.startStage r

/-- An enable, a retry or the end of a backoff in a rail at rest: R41 as from OFF. -/
def State.applyR41 (s : State) (r : Rail) : State :=
  if s.belowVoff r || !s.bit (aChCfg r) 4 then s.toRising r
  else
    let s := s.enter r .discharging
    s.setCh r { s.ch r with
      pend := true, enCmd := true, discharge := true, toff := s.toffTimer r, backoff := none, offtRaised := false }

/-- Into TRIPPED with a cause (R46, R54, R313). -/
def State.toTripped (s : State) (r : Rail) (cause : BitVec 3) : State :=
  let was := (s.ch r).st
  let s := (s.stop r).enter r .tripped
  let s := s.setCh r { s.ch r with
    trip := cause, pend := false, discharge := false, toff := none, backoff := none, offtRaised := false }
  if was == .margined then s.marginDrop r else s

/-- Into FALLING, TOFF running (R39, R46, R313). -/
def State.toFalling (s : State) (r : Rail) : State :=
  let was := (s.ch r).st
  let s := (s.stop r).enter r .falling
  let s := s.setCh r { s.ch r with toff := s.toffTimer r, backoff := none, offtRaised := false }
  if was == .margined then s.marginDrop r else s

/-- Into OFF. -/
def State.toOff (s : State) (r : Rail) : State :=
  let s := s.enter r .off
  s.setCh r { s.ch r with toff := none, discharge := false, offtRaised := false }

/-- The rail's OFF_TIMEOUT follows THRESHOLD order: its domain's mode, or no domain (R253, R254). -/
def State.thresholdOrder (s : State) (r : Rail) : Bool :=
  match s.domOf r with
  | some d => s.bit (aDCfg d) 30
  | none => true

/-- A hold latch cleared by a W1C stays while its comparator is active (R74). -/
def State.clearLatches (s : State) (r : Rail) (m : Word) : State :=
  let keepOv := s.ovAct r
  let keepOc := s.ocAct r
  let keepUv := (s.ch r).st.window && s.uvAct r
  let m := m &&& ~~~(at_ keepOv 3 ||| at_ keepUv 4 ||| at_ keepOc 5)
  s.clrReg (aChFlags r) m

def causeRank : Cause → Nat
  | .ovCross => 1 | .ocHold => 2 | .disable => 3 | .disch => 3 | .tonExpiry => 4 | .toffExpiry => 4
  | .backoffExpiry => 4 | .powerGood => 5 | .belowVoff => 5 | .uvCross => 6 | .enable => 7 | .margin _ => 8

/-- Whether a cause has a transition, or an action of R46, in the rail's present state (R46, R53). -/
def State.hasTransition (s : State) (r : Rail) (k : Cause) : Bool :=
  let c := s.ch r
  s.use r && (match k, c.st with
  | .ovCross, .rising | .ovCross, .on | .ovCross, .margined | .ovCross, .falling | .ovCross, .retryWait => true
  | .ocHold, .rising | .ocHold, .on | .ocHold, .margined => true
  | .disable, .rising | .disable, .on | .disable, .margined | .disable, .tripped | .disable, .retryWait => true
  | .disable, .discharging => c.pend
  | .disch, .off | .disch, .falling | .disch, .discharging => true
  | .tonExpiry, .rising => c.ton.isSome
  | .toffExpiry, .falling | .toffExpiry, .discharging => c.toff.isSome
  | .backoffExpiry, .retryWait => true
  | .powerGood, .rising => s.pgNow r
  | .belowVoff, .falling | .belowVoff, .discharging => s.belowVoff r
  | .uvCross, .on | .uvCross, .margined => s.reactOf r .uv != 0
  | .enable, .off => true
  | .margin v, .on | .margin v, .margined => v != s.step r && s.stepOk r (s.pmbPath r) v
  | _, _ => false)

/-- The end of a retry backoff (R60). RETRIES saturates at 7, the largest number its field holds, so a latch that stays
held escalates with RETRY 7 too (DEDUCED, log 24). -/
def Cyc.backoffEnd (c : Cyc) (r : Rail) : Cyc :=
  let c := c.map (fun s => s.clearLatches r (bitw 3 ||| bitw 5))
  if c.s.bit (aChFlags r) 3 || c.s.bit (aChFlags r) 5 then
    let n := (c.s.ch r).retries.toNat + 1
    let c := c.map (fun s => (s.setCh r { s.ch r with retries := BitVec.ofNat 3 (min n 7) }).count 14)
    if n < c.s.fld (aChReact r) 26 24 then
      c.map (fun s => s.setCh r { s.ch r with backoff := s.timer (100000 * s.fld (aChReact r) 23 16) })
    else
      let t := (c.s.ch r).trip
      { c.map (fun s => s.toTripped r t) with groupOff := c.groupOff ++ [r] }
  else c.map (fun s => s.applyR41 r)

/-- The transition of a cause in the present state, with its latches, flags and raises (R46 to R51, R88 to R90). -/
def Cyc.transition (c : Cyc) (r : Rail) (k : Cause) : Cyc :=
  match k with
  | .ovCross => ((c.map (fun s => s.toTripped r 1)).flag r 0 |>.flag r 3).raise (railSrc r .ov)
  | .ocHold => ((c.map (fun s => s.toTripped r 3)).flag r 2 |>.flag r 5).raise (railSrc r .oc)
  | .uvCross => ((c.map (fun s => s.toTripped r 2)).flag r 1 |>.flag r 4).raise (railSrc r .uv)
  | .disable =>
    if (c.s.ch r).st == .discharging then
      c.map (fun s => s.setCh r { s.ch r with pend := false, enCmd := false, toff := s.toffTimer r })
    else c.map (fun s => s.toFalling r)
  | .disch =>
    match (c.s.ch r).st with
    | .discharging => c.map (fun s => s.setCh r { s.ch r with toff := s.toffTimer r })
    | _ => c.map (fun s =>
        let s := s.enter r .discharging
        s.setCh r { s.ch r with discharge := true, toff := s.toffTimer r, offtRaised := false })
  | .tonExpiry => ((c.map (fun s => s.toTripped r 4)).flag r 8).raise (railSrc r .onTimeout)
  | .toffExpiry =>
    match (c.s.ch r).st, (c.s.ch r).pend with
    | .falling, _ =>
      let thr := c.s.thresholdOrder r
      let c := c.map (fun s =>
        let s := s.enter r .discharging
        s.setCh r { s.ch r with discharge := true, toff := s.toffTimer r, offtRaised := thr })
      let c := c.flag r 10
      if thr then (c.flag r 9).raise (railSrc r .offTimeout) else c
    | _, true => ((c.map (fun s => s.toTripped r 4)).flag r 8).raise (railSrc r .onTimeout)
    | _, false =>
      let told := (c.s.ch r).offtRaised
      let c := (c.map (fun s => s.toOff r)).flag r 11
      if told then c else (c.flag r 9).raise (railSrc r .offTimeout)
  | .backoffExpiry => c.backoffEnd r
  | .powerGood => c.map (fun s =>
      let s := s.enter r .on
      s.setCh r { s.ch r with ton := none, pg := true })
  | .belowVoff =>
    if (c.s.ch r).pend then c.map (fun s => s.toRising r) else c.map (fun s => s.toOff r)
  | .enable => c.map (fun s => (s.setCh r { s.ch r with retries := 0 }).applyR41 r)
  | .margin v => c.map (fun s =>
      let s := s.setStep r v
      let s := if (s.ch r).st == .on then s.enter r .margined else s
      s.startSlew r)

/-- What a cause does where it has no transition, judged in the present state (R43, R47, R48, R50, R51, R53, R88 to
R90). `won`: a higher cause has taken the cycle's transition, so an enable or a margin change is dropped. R53 does not
say what a DISCH leaves that is outranked in its cycle: it sets CMD_REF and counts as refused (DESIGN CHOICE, log 24).
R58 does not say whether an EN or ENS that a channel in OFF with USE 0 refuses clears RETRIES: it leaves RETRIES as it
stands (DESIGN CHOICE, log 24). -/
def Cyc.sideEffect (c : Cyc) (r : Rail) (k : Cause) (won : Bool) : Cyc :=
  if !c.s.use r then
    match k with
    | .enable | .disch => { c.flag r 12 with refused := true }
    | _ => c
  else match k with
  | .ovCross =>
    let latWas := c.s.bit (aChFlags r) 3
    let c := (c.flag r 0).flag r 3
    match (c.s.ch r).st with
    | .off | .discharging => c.raise (railSrc r .ov)
    | .tripped => if latWas then c else c.raise (railSrc r .ov)
    | _ => c
  | .ocHold => (c.flag r 2).flag r 5
  | .uvCross =>
    let c := c.flag r 1
    match (c.s.ch r).st with
    | .on | .margined =>
      let c := c.flag r 4
      if c.s.reactOf r .uv == 0 then c.raise (railSrc r .uv) else c
    | _ => c
  | .disable => c.map (fun s => s.setCh r { s.ch r with enCmd := false })
  | .disch => { c.flag r 12 with refused := true }
  | .enable =>
    if won then c
    else match (c.s.ch r).st with
      | .falling | .tripped | .retryWait => { c.flag r 12 with refused := true }
      | .discharging => if (c.s.ch r).pend then c else { c.flag r 12 with refused := true }
      | _ => c
  | _ => c

/-- Insert a cause by rank. -/
def insCause (k : Cause) : List Cause → List Cause
  | [] => [k]
  | x :: t => if causeRank k ≤ causeRank x then k :: x :: t else x :: insCause k t

/-- The causes above the first that has a transition, that cause, and those below it (R53). -/
def splitCauses (p : Cause → Bool) : List Cause → List Cause × Option Cause × List Cause
  | [] => ([], none, [])
  | k :: t =>
    if p k then ([], some k, t)
    else let q := splitCauses p t; (k :: q.1, q.2.1, q.2.2)

/-- Judge power-good anew (R37). -/
def State.judgePg (s : State) (r : Rail) : State := s.setCh r { s.ch r with pg := s.pgNow r }

/-- What follows from the rail's levels in the next cycles without a further event: a rail already below VOFF, a
power-good already there, a TON or TOFF of no length (R38, R40; log 4). -/
def Cyc.settle : Nat → Cyc → Rail → Cyc
  | 0, c, _ => c
  | n + 1, c, r =>
    let c := c.map (fun s => s.judgePg r)
    let x := c.s.ch r
    let due (t : Timer) : Bool := t.any (fun e => e ≤ c.s.cycle)
    match x.st with
    | .rising =>
      if c.s.pgNow r then c.transition r .powerGood
      else if due x.ton && x.ov.blank.isNone && x.uv.blank.isNone && !x.uvNew then Cyc.settle n (c.transition r .tonExpiry) r
      else c
    | .falling | .discharging =>
      if x.uv.blank.isSome || x.uvNew then c
      else if c.s.belowVoff r then Cyc.settle n (c.transition r .belowVoff) r
      else if due x.toff then Cyc.settle n (c.transition r .toffExpiry) r
      else c
    | _ => c

/-- The causes of one cycle on one rail (R53). R53 says in which state a lower cause is judged: the one that the winner
leaves. For a higher-ranked cause without a transition it says nothing: it is judged before the winner's transition
(DESIGN CHOICE, log 24). -/
def Cyc.causes (c : Cyc) (r : Rail) (l : List Cause) : Cyc :=
  let q := splitCauses (c.s.hasTransition r) (l.foldr insCause [])
  let c := c.forAll q.1 (fun c k => c.sideEffect r k false)
  let c := match q.2.1 with
    | some k => c.transition r k
    | none => c
  let c := c.forAll q.2.2 (fun c k => c.sideEffect r k q.2.1.isSome)
  Cyc.settle 5 c r

/-- The causes of one cycle on several rails. -/
def Cyc.hits (c : Cyc) (l : List Hit) : Cyc :=
  c.forAll (allRails.filter (fun r => l.any (fun h => h.rail == r)))
    (fun c r => c.causes r ((l.filter (fun h => h.rail == r)).map (·.cause)))

/-- The output is judged in this cycle: it is not blanked, or its blanking ends now (R92, R97). -/
def State.judged (s : State) (t : Timer) : Bool := t.all (fun e => e ≤ s.cycle)

/-- A comparator becomes active: it was not, or it is judged again at the end of its blanking (R97). -/
def State.newlyActive (s : State) (out : Bool) (t : Timer) : Bool := s.judged t && (!out || t.isSome)

/-- The levels that a further cause of the cycle brings with it; none where it is no event in this state, and none of a
comparator whose bank is isolated (R113; log 3). A blanking that ends in this cycle ends with it (R97), and power-good also
comes of the end of a soft start. An enable and a DISCH are commands of their own and no further causes. -/
def State.hitLevel (s : State) (h : Hit) : Option State :=
  let r := h.rail
  let c := s.ch r
  match h.cause with
  | .ovCross => if s.use r && s.newlyActive c.ov.out c.ov.blank && !s.isolated (bankOv r) then
      some (s.setCh r { c with ov := { out := true, blank := none } }) else none
  | .uvCross => if s.use r && c.st.window && s.newlyActive c.uv.out c.uv.blank && !c.uvNew && !s.isolated (bankUv r) then
      some (s.setCh r { c with uv := { out := true, blank := none } }) else none
  | .ocHold =>
    if s.use r && s.ocHold r && s.newlyActive (s.ocOut r) c.oc.blank && s.judged c.leading && !s.isolated (bankOc r) then
      let s := s.setCh r { c with oc := { c.oc with blank := none }, leading := none }
      match s.boundAux r with
      | some n => if isExt r then some { s with aux := s.aux.set n { s.aux[n] with high := true } }
                  else some (s.setCh r { s.ch r with oc := { (s.ch r).oc with out := true } })
      | none => if isExt r then none else some (s.setCh r { s.ch r with oc := { (s.ch r).oc with out := true } })
    else none
  | .powerGood =>
    if c.st != .rising then none
    else if s.judged c.uv.blank && (c.uv.out || c.uv.blank.isSome) && !c.uvNew && !s.isolated (bankUv r) then
      let edge := c.uv.blank.isNone
      let s := s.setCh r { c with uv := { out := false, blank := none } }
      some (if edge then s.flag r 1 else s)
    else if c.ramp then some (s.setCh r { c with ramp := false })
    else none
  | .belowVoff => if (c.st == .falling || c.st == .discharging) && s.newlyActive c.uv.out c.uv.blank && !c.uvNew
      && !s.isolated (bankUv r) then
      some ((s.setCh r { c with uv := { out := true, blank := none } }).flag r 1) else none
  | .tonExpiry => if c.ton.isSome then some s else none
  | .toffExpiry => if c.toff.isSome then some s else none
  | .backoffExpiry => if c.backoff.isSome then some s else none
  | .enable | .disch => none
  | _ => some s

/-- A command's own hits together with the further causes of its cycle. -/
def Cyc.hitsWith (c : Cyc) (own co : List Hit) : Cyc :=
  let q := co.foldl (fun (a : State × List Hit) h => match a.1.hitLevel h with
    | some s => (s, a.2 ++ [h])
    | none => a) (c.s, own)
  { c with s := q.1 }.hits q.2

/-! Reset outputs -/

/-- MRG_RSTk.EN and DOM. -/
def State.rstDom (s : State) (k : Fin 8) : DomId := ⟨s.fld (aRst k) 11 8 % 16, by omega⟩

/-- The domain of a reset output is power-good (R320, R325). -/
def State.rstPg (s : State) (k : Fin 8) : Bool := s.takesPart (s.rstDom k) && s.dpg (s.rstDom k)

/-- STRETCH in cycles. -/
def State.rstStretch (s : State) (k : Fin 8) : Nat := 100000 * s.fld (aRst k) 7 0

/-- The AUTO rule of one output in this cycle (R321). A stretch that runs keeps the length of its start, whatever STRETCH is
written meanwhile (DESIGN CHOICE, log 24). -/
def State.settleRst (s : State) (k : Fin 8) : State :=
  let x := s.resets[k]
  if !s.rstPg k then { s with resets := s.resets.set k { x with auto := true, stretch := none } }
  else if x.auto && x.stretch.isNone then
    if s.rstStretch k = 0 then { s with resets := s.resets.set k { x with auto := false } }
    else { s with resets := s.resets.set k { x with stretch := s.timer (s.rstStretch k) } }
  else s

def State.settleRsts (s : State) : State := s.forAll (List.finRange 8) State.settleRst

/-- RSTOUTk is asserted (R323, R325, R326): with the internal supplies in regulation until the configuration set is
loaded, and then by the rule of R323. -/
def State.rstOut (s : State) (k : Fin 8) : Bool :=
  if s.cfgLoaded then
    s.bit (aRst k) 31 &&
      (s.fld aRstOvr (2 * k.val + 1) (2 * k.val) == 1 || (s.resets[k]).pulse.isSome || (s.resets[k]).auto)
  else s.power.supplies

end Sys2Proof.Machine
end

