-- ==== Sys2Proof/Machine/Domain.lean ====
section
/-! DEFINITION. Domains: programs and their ends (R234 to R240, R574), requests and cascades (R244 to R250), hitches
(R257 to R263), the whole-device shutdown (R265), and the reactions and shadows that act on them (R277 to R281, R292 to
R295). -/

namespace Sys2Proof.Machine

/-! Wicks -/

/-- Increment a wick's epoch (R175). -/
def Wick.bump (x : Wick) : Wick := { x with epoch := x.epoch + 1 }

/-- Start a wick at an address (R174, R175). -/
def State.startWick (s : State) (w : WickId) (a : BitVec 12) : State :=
  s.setWk w ({ s.wk w with
    st := .run, pc := a, stack := [], lc := 0, tout := false, cref := false, pmbf := false, sfail := false
    hint := none, fcode := 0, deadline := none, stop := false, released := false }).bump

/-- A wick may be started: IDLE, HALTED or FAULT, and the address lies in the image (R173). -/
def State.canStart (s : State) (w : WickId) (a : BitVec 12) : Bool :=
  (match (s.wk w).st with | .idle | .halted | .fault => true | _ => false) && a.toNat < s.liveLen

/-- The device runs no domain program and no wick any more (R525, R574). -/
def State.failing (s : State) : Bool := s.power.phase != .run

/-! Program ends -/

/-- The rails of a domain still in TRIPPED move to FALLING (R52). -/
def Cyc.releaseTripped (c : Cyc) (d : DomId) : Cyc :=
  c.forAll ((c.s.railsOf d).filter (fun r => (c.s.ch r).st == .tripped))
    (fun c r => Cyc.settle 5 (c.map (fun s => s.toFalling r)) r)

/-- Withdraw a pending on request (R247); from the power-fail sequence on PENDUP stays as it stood (R574). -/
def State.withdrawUp (s : State) (d : DomId) : State :=
  if (s.dom d).pendUp && !s.failing then s.setDom d { s.dom d with pendUp := false, pendWd := true } else s

/-- The running program of a domain ends with an outcome (R236). -/
def Cyc.endProg (c : Cyc) (d : DomId) (last : BitVec 3) : Cyc :=
  let was := (c.s.dom d).prog
  let c := c.map (fun s => s.setDom d { s.dom d with prog := .none, last := last })
  if was == .down then c.releaseTripped d else c

/-- The wick has entered HALTED or FAULT: a program it ran ends (R236, R247). -/
def Cyc.wickEnded (c : Cyc) (w : WickId) (faulted : Bool) : Cyc :=
  match c.s.progOf w with
  | none => c
  | some d =>
    match (c.s.dom d).prog, faulted with
    | .up, false => c.endProg d 1
    | .up, true => c.endProg d 4
    | .down, false => c.endProg d 2
    | .down, true => (c.endProg d 5).map (fun s => s.withdrawUp d)
    | .none, _ => c

/-! Program starts -/

/-- Disables that the start of a down-program sends (R239). -/
def Cyc.downDisables (c : Cyc) (d : DomId) : Cyc :=
  c.hits (((c.s.railsOf d).filter (fun r => (c.s.ch r).st == .retryWait || (c.s.ch r).pend)).map
    (fun r => { rail := r, cause := .disable }))

/-- An ASSERT override of a domain's reset outputs returns to AUTO when its up-program starts (R324). -/
def State.releaseOverrides (s : State) (d : DomId) : State :=
  s.forAll (List.finRange 8) (fun s k =>
    if s.bit (aRst k) 31 && s.rstDom k == d && s.fld aRstOvr (2 * k.val + 1) (2 * k.val) == 1 then
      s.setFld aRstOvr (2 * k.val + 1) (2 * k.val) 0 else s)

/-- SEQ_DENTd.UP and DOWN. -/
def State.entry (s : State) (d : DomId) (p : Prog) : BitVec 12 :=
  BitVec.ofNat 12 (if p == .up then s.fld (aDEnt d) 27 16 else s.fld (aDEnt d) 11 0)

/-- A domain's program starts on its program wick, which is at rest (R174, R235, R239, R324). -/
def Cyc.beginProg (c : Cyc) (d : DomId) (p : Prog) (src : BitVec 3) : Cyc :=
  let c := c.map (fun s => (s.startWick (s.pwick d) (s.entry d p)).setDom d
    { s.dom d with prog := p, src := src, next := none })
  if p == .down then c.downDisables d else c.map (fun s => s.releaseOverrides d)

/-- Order a program: a busy program wick is to stop at its next boundary (R235). -/
def Cyc.order (c : Cyc) (d : DomId) (p : Prog) (src : BitVec 3) : Cyc :=
  c.map (fun s =>
    let w := s.pwick d
    let s := s.setDom d { s.dom d with next := some (p, src) }
    match (s.wk w).st with
    | .run | .wait _ => s.setWk w { s.wk w with stop := true }
    | _ => s)

/-- The program a domain runs or has been ordered to run. -/
def State.progNow (s : State) (d : DomId) : Prog :=
  match (s.dom d).next with
  | some q => q.1
  | none => (s.dom d).prog

/-- A down-program is ordered that has not yet started (R235). -/
def State.downOrdered (s : State) (d : DomId) : Bool := (s.dom d).next.any (fun q => q.1 == .down)

/-- The ordered program of the domain can start: its program wick is at rest (R235). -/
def State.canLaunch (s : State) (d : DomId) : Bool :=
  (s.dom d).next.isSome && s.takesPart d
    && (match (s.wk (s.pwick d)).st with | .run | .wait _ => false | _ => true)

/-- An OFF request to one domain, judged against PROG (R244, R245, R247); whether it orders the down-program. While SDACT is
1 every request that is not the shutdown's own is refused. A down-program that is ordered and does not run yet is ordered
again, with the SRC of the first order (log 27). -/
def Cyc.offReq (c : Cyc) (d : DomId) (src : BitVec 3) : Cyc × Bool :=
  if !c.s.takesPart d || (c.s.sdact && src != 5) then (c.map (fun s => s.setDom d { s.dom d with reqRef := true }), false)
  else if c.s.failing then (c, false)
  else
    let c := c.map (fun s => s.withdrawUp d)
    let c := if src = 0 then c else c.map (fun s => s.setDom d { s.dom d with offAt := some s.cycle })
    let src := match (c.s.dom d).next with | some (.down, x) => x | _ => src
    if (c.s.dom d).prog == .down then (c, false) else (c.order d .down src, true)

/-- The ordered program of a domain starts; a program that it replaces has been stopped by an off request (R236, R245). -/
def Cyc.launchOne (c : Cyc) (d : DomId) : Cyc :=
  match (c.s.dom d).next with
  | some (p, src) => (if (c.s.dom d).prog == .none then c else c.endProg d 3).beginProg d p src
  | none => c

/-- The programs that the requests to these domains have ordered start, where their wicks are at rest, in the cycle after
those requests (R235). The start of a down-program sends an OFF request to every domain that depends on it and has CASC 1;
one that takes no part refuses it (R229). A down-program that one of those requests starts sends its own (R250). -/
def Cyc.launch : Nat → List DomId → Cyc → Cyc
  | 0, _, c => c
  | n + 1, l, c =>
    let go := l.filter c.s.canLaunch
    let downs := go.filter c.s.downOrdered
    let c := c.forAll go Cyc.launchOne
    let deps := allDoms.filter (fun (d : DomId) => c.s.bit (aDCfg d) 26 && downs.any (fun e => c.s.dependsOn d e))
    if deps.isEmpty then c else Cyc.launch n deps (c.forAll deps (fun c d => (c.offReq d 4).1))

/-- An OFF request of its own cycle, with the starts and the cascade that it brings about (R245, R250). -/
def Cyc.offNow (c : Cyc) (d : DomId) (src : BitVec 3) : Cyc := (c.offReq d src).1.launch 17 [d]

/-- An ON request, judged against PROG (R245). A program that is only ordered does not run yet, and the ON takes its place
(DESIGN CHOICE, log 27); but a device OFF of the same cycle leaves the down-program and lets the ON pend (R264). -/
def Cyc.onReq (c : Cyc) (d : DomId) (src : BitVec 3) : Cyc :=
  let x := c.s.dom d
  if !c.s.takesPart d then c.map (fun s => s.setDom d { s.dom d with reqRef := true })
  else if c.s.failing then c
  else if x.prog == .down || (c.s.downOrdered d && x.offAt == some c.s.cycle) then
    c.map (fun s => s.setDom d { s.dom d with pendUp := true })
  else if x.prog == .up then c
  else c.order d .up (match x.next with | some (.up, y) => y | _ => src)

/-- An ON request of its own cycle. -/
def Cyc.onNow (c : Cyc) (d : DomId) (src : BitVec 3) : Cyc := (c.onReq d src).launch 17 [d]

/-! Hitches -/

/-- The wick at the head of the queue receives a free hitch (R259) of a domain that takes part (R229). -/
def State.grantHitch (s : State) (d : DomId) : State :=
  let x := s.dom d
  match x.owner, x.queue with
  | .none, w :: q => if !s.takesPart d then s else s.setDom d { x with owner := .wick w, epoch := (s.wk w).epoch, queue := q }
  | _, _ => s

/-- The owner holds the hitch at its present epoch (R257). -/
def State.owns (s : State) (o : Owner) (d : DomId) : Bool :=
  o != .none && (s.dom d).owner == o && (s.dom d).epoch == s.epochOf o

/-- The hitch is released (R247, R259, R260). -/
def State.releaseHitch (s : State) (d : DomId) : State :=
  ((s.withdrawUp d).setDom d { (s.withdrawUp d).dom d with owner := .none, epoch := 0 }).grantHitch d

/-! Shadows -/

/-- Open or restart one shadow (R292, R293). -/
def mergeShadow (old : Option Shadow) (injOnly : Bool) (rails : List Rail) (endAt : Timer) : Option Shadow :=
  match old with
  | none => some { injOnly := injOnly, exempt := rails, endAt := endAt }
  | some o =>
    some { injOnly := o.injOnly && injOnly,
           exempt := o.exempt ++ rails.filter (fun r => !o.exempt.contains r),
           endAt := endAt }

/-- FLT_CTL.SHADOW in cycles. -/
def State.shadowLen (s : State) : Nat := 100 * s.fld aFltCtl 15 0

/-- A shadow over a domain and every domain that depends on it (R292). -/
def State.openShadow (s : State) (d : DomId) (injOnly : Bool) (rails : List Rail) : State :=
  if s.shadowLen = 0 then s
  else s.forAll (allDoms.filter (fun e => e == d || s.dependsOn e d)) (fun s e =>
    let x := mergeShadow s.faults.shadows[e] injOnly rails (s.timer s.shadowLen)
    { s with faults := { s.faults with shadows := s.faults.shadows.set e x } })

/-- The device-wide shadow of a SYSTEM_RESET (R292). -/
def State.openDevShadow (s : State) (injOnly : Bool) (rails : List Rail) : State :=
  if s.shadowLen = 0 then s
  else
    let x := mergeShadow s.faults.devShadow injOnly rails (s.timer s.shadowLen)
    { s with faults := { s.faults with devShadow := x } }

/-! The whole-device shutdown (R265) -/

/-- The group of a rank: domains that take part, with a rail not in OFF. -/
def State.rankGroup (s : State) (rank : Nat) : List DomId :=
  allDoms.filter (fun d => s.takesPart d && s.fld (aDCfg d) 23 20 == rank &&
    (s.railsOf d).any (fun r => (s.ch r).st != .off))

/-- The rails that a cut or the last step disables. -/
def State.cutRails (s : State) (p : Rail → Bool) : List Hit :=
  (allRails.filter (fun r => p r && (match (s.ch r).st with
    | .rising | .on | .margined | .retryWait => true
    | _ => false))).map (fun r => { rail := r, cause := .disable })

/-- A program of the group still runs or is ordered. -/
def State.groupBusy (s : State) (g : List DomId) : Bool := g.any (fun d => s.progNow d != .none)

/-- SDLIM expires on a rank: SDTO, its programs end, a down-program with LAST 6 and an up-program that the OFF request
stops with LAST 3 (R236), its wicks stop, its rails are disabled. -/
def Cyc.cutRank (c : Cyc) (g : List DomId) : Cyc :=
  let run := g.filter (fun d => c.s.progNow d != .none)
  let c := c.map (fun s => s.orReg aDGStat (bitw 0))
  let c := c.forAll run (fun c d =>
    let c := c.map (fun s =>
      let w := s.pwick d
      (match (s.wk w).st with
        | .run | .wait _ => s.setWk w { s.wk w with stop := true }
        | _ => s).setDom d { s.dom d with next := none })
    match (c.s.dom d).prog with
    | .none => c
    | .up => c.endProg d 3
    | .down => c.endProg d 6)
  c.hits (c.s.cutRails (fun r => g.any (fun d => c.s.domOf r == some d)))

/-- Go on with rank n and those below it: OFF requests to each group, until one has to be waited for (R265). A rank
whose limit is 0 is cut at once, before a program of it has started (R235). -/
def Cyc.shutRanks : Nat → Cyc → Cyc
  | 0, c =>
    let c := c.hits (c.s.cutRails (fun r => (c.s.domOf r).isNone))
    c.map (fun s => { s with shut := .final })
  | n + 1, c =>
    let g := c.s.rankGroup n
    let c := c.map (fun s => { s.setFld aDGStat 30 27 n with shut := .rank n g })
    let c := c.forAll g (fun c d => (c.offReq d 5).1)
    if !c.s.groupBusy g then Cyc.shutRanks n c
    else if c.s.fld aDCtl 15 0 = 0 then Cyc.shutRanks n (c.cutRank g)
    else c

/-- The domains of the rank that the shutdown waits for. -/
def State.shutGroup (s : State) : List DomId := match s.shut with | .rank _ g => g | _ => []

/-- Go on with the ranks, and start the programs that they have ordered (R235, R265). -/
def Cyc.shutFrom (n : Nat) (c : Cyc) : Cyc :=
  let c := Cyc.shutRanks n c
  c.launch 17 c.s.shutGroup

/-- Start the shutdown (R247, R265); nothing where one runs (R244) or the power fails (R574). Whether it starts. -/
def Cyc.startShutdown (c : Cyc) : Cyc × Bool :=
  if c.s.sdact || c.s.failing then (c, false)
  else
    let c := c.map (fun s => s.forAll allDoms State.withdrawUp)
    (Cyc.shutRanks 16 c, true)

/-! Reactions -/

/-- What a reaction comes to in this cycle (R277, R278, R240, R55): 0 nothing, 1 a retry, 2 GROUP_OFF, 3 SYSTEM_RESET. -/
def State.reactKind (s : State) (x : React) : Nat :=
  match x.code.toNat with
  | 0 => 0
  | 1 =>
    if (s.ch x.rail).st != .tripped || s.duringDown x.rail then 0
    else if (s.ch x.rail).retries.toNat < s.fld (aChReact x.rail) 26 24 then 1 else 2
  | n => n

/-- A retry starts its backoff (R55, R57) and opens a shadow (R292). -/
def Cyc.retry (c : Cyc) (x : React) : Cyc :=
  let r := x.rail
  let c := c.map (fun s =>
    let s := s.enter r .retryWait
    (s.setCh r { s.ch r with
      retries := (s.ch r).retries + 1, backoff := s.timer (100000 * s.fld (aChReact r) 23 16) }).count 14)
  match c.s.domOf r with
  | some d => c.map (fun s => s.openShadow d x.injected [r])
  | none => c

/-- The domains of the rails of some reactions. -/
def State.reactDoms (s : State) (l : List React) : List DomId :=
  allDoms.filter (fun d => l.any (fun (x : React) => s.domOf x.rail == some d))

/-- GROUP_OFF reactions of one cycle: one OFF request per domain, each judged before a program starts (R235, R245); a rail in
no domain is disabled alone (R251, R280). -/
def Cyc.groupOffs (c : Cyc) (l : List React) : Cyc :=
  let c := c.hits ((l.filter (fun x => (c.s.domOf x.rail).isNone)).map (fun x => { rail := x.rail, cause := .disable }))
  c.forAll (c.s.reactDoms l) (fun c d =>
    let mine := l.filter (fun x => c.s.domOf x.rail == some d)
    let q := c.offReq d 2
    if q.2 then q.1.map (fun s => s.openShadow d (mine.all (·.injected)) (mine.map (·.rail))) else q.1)

/-- The reactions of one cycle (R264, R277 to R281). Requests and retries come before the programs that the requests have
ordered, which start in the next cycle (R235, R240). A new shutdown that leads to a restart needs a store of its own. -/
def Cyc.react (c : Cyc) (l : List React) : Cyc :=
  let kinds := l.map (fun x => (x, c.s.reactKind x))
  let sys := (kinds.filter (fun k => k.2 == 3)).map (·.1)
  let off := (kinds.filter (fun k => k.2 == 2)).map (·.1)
  let doms := c.s.reactDoms off
  let c := if sys.isEmpty then c else
    let c := c.map (fun s => { s with faults := { s.faults with sysReset := !s.failing } })
    let q := c.startShutdown
    if q.2 then q.1.map (fun s =>
      let s := { s with faults := { s.faults with sysStore := none } }
      s.openDevShadow (sys.all (·.injected)) (sys.map (·.rail)))
    else q.1
  let c := c.groupOffs off
  let c := c.forAll ((kinds.filter (fun k => k.2 == 1)).map (·.1)) (fun c x =>
    if c.s.reactKind x = 1 then c.retry x else c)
  c.launch 17 (allDoms.filter (fun d => doms.contains d || c.s.shutGroup.contains d))

/-- The end of a command's cycle: escalations (R60), the collector, dropped deferred reactions (R295), reset outputs. -/
def Cyc.finish (c : Cyc) (injAct : Bool := false) : State :=
  let esc := c.groupOff.map (fun r => ({ rail := r, ev := .ov, code := 2, injected := false } : React))
  let c := if esc.isEmpty then c else ({ c with groupOff := [] }.groupOffs esc).launch 17 (c.s.reactDoms esc)
  let s := c.s.raiseAll c.raises injAct
  let live := s.faults.deferred.filter (fun x => (s.ch x.rail).st == RailState.tripped)
  { s with faults := { s.faults with deferred := live } }.settleRsts

/-- Carry out one command's cycle. -/
def State.cyc (s : State) (f : Cyc → Cyc) : State := (f { s := s }).finish

end Sys2Proof.Machine
end

