-- ==== Sys2Proof/Machine/Comparators.lean ====
section
/-! DEFINITION. Meanings: comparator crossings and blanking (R83 to R105), channel timers (R39 to R41, R57 to R60),
the PMBus ports (R61 to R68), margin slews (R306 to R318), writes of CH_FLAGS and CH_MARGIN, and the in-service
self-test (R106 to R114). -/

namespace Sys2Proof.Machine

/-- What a command's meaning answers. -/
abbrev Res := Host.Outcome State Fault Refusal

/-- The cover of an isolated bank has acted on a crossing: COVACT, and the rail's bit of MON_COVEV (R113). -/
def State.coverMark (s : State) (b : Nat) (rail : Option Rail) : State :=
  let s := s.setBit aStStat 1 true
  match rail with
  | some r => if b = 9 then s else s.orReg (aCovEv (r / 32)) (bitw (r % 32))
  | none => s

/-! Level changes of comparators -/

/-- The over-voltage comparator of a rail in use changes output (R88, R92, R96). -/
def Cyc.ovLevel (c : Cyc) (r : Rail) (active : Bool) (co : List Hit) : Cyc :=
  let x := c.s.ch r
  let c := c.map (fun s => s.setCh r { x with ov := { x.ov with out := active } })
  if x.ov.blank.isSome then c.hitsWith [] co
  else if active then c.hitsWith [{ rail := r, cause := .ovCross }] co
  else Cyc.settle 5 ((c.flag r 0).hitsWith [] co) r

/-- The under-voltage comparator changes output: power-good and under-voltage in RISING, ON and MARGINED, the VOFF
detector elsewhere (R35, R37, R38, R89, R92). After a switch of its reference without blanking it may tell an output
that has not changed: that is no edge, but the rail is judged (log 4). -/
def Cyc.uvLevel (c : Cyc) (r : Rail) (active : Bool) (co : List Hit) : Cyc :=
  let x := c.s.ch r
  let c := c.map (fun s => s.setCh r { x with uv := { x.uv with out := active }, uvNew := false })
  if x.uv.blank.isSome then c.hitsWith [] co
  else if x.uv.out == active then Cyc.settle 5 (c.hitsWith [] co) r
  else
    let c := c.flag r 1
    let own : List Hit := if active then
        [{ rail := r, cause := if x.st.window then .uvCross else .belowVoff }]
      else [{ rail := r, cause := .powerGood }]
    Cyc.settle 5 (c.hitsWith own co) r

/-- A cycle-latch over-current: the trip input holds for the period, and a limited period counts (R90, R91). R91 does
not say what a RUN lowered to the present count or below it does: the count has then reached it at the next limited
period (DESIGN CHOICE, log 24). -/
def Cyc.ocCycle (c : Cyc) (r : Rail) : Cyc :=
  let x := c.s.ch r
  if !x.started || !x.st.window then c
  else if x.cycTrip then c
  else
    let run := c.s.fld (aOcRun (r / 4)) (8 * (r % 4) + 7) (8 * (r % 4))
    let n := x.ocRun + 1
    if run ≠ 0 ∧ run ≤ n then
      (c.map (fun s => s.setCh r { x with cycTrip := true, ocRun := 0 })).raise (railSrc r .oc)
    else c.map (fun s => s.setCh r { x with cycTrip := true, ocRun := n })

/-- The masked over-current comparator of a rail changes (R90, R102). -/
def Cyc.ocLevel (c : Cyc) (r : Rail) (active : Bool) (co : List Hit) : Cyc :=
  if !active then Cyc.settle 5 ((c.flag r 2).hitsWith [] co) r
  else if c.s.ocHold r then c.hitsWith [{ rail := r, cause := .ocHold }] co
  else ((c.flag r 2).ocCycle r).hitsWith [] co

/-- An AUX comparator changes output (R102 to R105). -/
def Cyc.auxLevel (c : Cyc) (n : Fin 16) (high active : Bool) (co : List Hit) : Cyc :=
  let x := c.s.aux[n]
  let c := c.map (fun s => { s with aux := s.aux.set n (if high then { x with high := active } else { x with low := active }) })
  match (if high then c.s.auxRail n else none) with
  | some r =>
    if !c.s.use r || (c.s.ch r).oc.blank.isSome then c.hitsWith [] co else c.ocLevel r active co
  | none =>
    let i := n.val + (if high then 16 else 0)
    let c := (c.map (fun s => s.orReg aAuxFlg (bitw i))).hitsWith [] co
    if active && c.s.bit (aMonAux n) 24 then c.map (fun s => s.orReg aAuxLat (bitw i)) else c

/-- OV_CROSSING. A crossing that is no change, of a rail not in use or of an isolated bank does not occur (R45, R113). -/
def execOvCrossing (r : Rail) (active : Bool) (co : List Hit) (s : State) : Res :=
  .next (if !s.use r || (s.ch r).ov.out == active || s.isolated (bankOv r) then s
    else s.cyc (fun c => c.ovLevel r active co))

/-- UV_CROSSING: a change of the output, or the output against a reference that has switched without blanking (log 4).
The comparator is powered down in HIBERNATE (R528). -/
def execUvCrossing (r : Rail) (active : Bool) (co : List Hit) (s : State) : Res :=
  .next (if !s.use r || ((s.ch r).uv.out == active && !(s.ch r).uvNew) || s.isolated (bankUv r)
      || s.power.state == .hibernate then s
    else s.cyc (fun c => c.uvLevel r active co))

/-- OC_CROSSING of an integrated stage (R90, R96, R99). -/
def execOcCrossing (r : Rail) (active : Bool) (co : List Hit) (s : State) : Res :=
  .next (if isExt r || !s.use r || (s.ch r).oc.out == active || s.isolated 2 || s.power.state == .hibernate then s
    else s.cyc (fun c =>
      let x := c.s.ch r
      let c := c.map (fun s => s.setCh r { x with oc := { x.oc with out := active } })
      if x.oc.blank.isSome || x.leading.isSome then c.hitsWith [] co else c.ocLevel r active co))

/-- AUX_CROSSING. An AUXL of LTHR 0 is never active. -/
def execAuxCrossing (n : Fin 16) (high active : Bool) (co : List Hit) (s : State) : Res :=
  let was := if high then (s.aux[n]).high else (s.aux[n]).low
  .next (if !s.powered || was == active || s.isolated (if high then 9 else 10) || (!high && active && s.fld (aMonAux n) 9 0 == 0) then s
    else s.cyc (fun c => c.auxLevel n high active co))

/-- BLANKING_END: an active comparator counts as a crossing, an inactive one sets no edge flag (R92, R97). The level of
a comparator of an isolated bank is its cover's (R113). -/
def execBlankingEnd (k : CmpId) (active : Bool) (co : List Hit) (s : State) : Res :=
  .next (match k with
  | .ov r =>
    if !s.use r || (s.ch r).ov.blank.isNone then s
    else s.cyc (fun c =>
      let x := c.s.ch r
      let iso := c.s.isolated (bankOv r)
      let on := if iso then x.ov.out else active
      let c := c.map (fun s => s.setCh r { x with ov := { out := on, blank := none } })
      let c := if on && iso then c.map (fun s => s.coverMark (bankOv r) (some r)) else c
      Cyc.settle 5 (c.hitsWith (if on then [{ rail := r, cause := .ovCross }] else []) co) r)
  | .uv r =>
    if !s.use r || (s.ch r).uv.blank.isNone then s
    else s.cyc (fun c =>
      let x := c.s.ch r
      let iso := c.s.isolated (bankUv r)
      let on := if iso then x.uv.out else active
      let c := c.map (fun s => s.setCh r { x with uv := { out := on, blank := none }, uvNew := false })
      let c := if on then c.flag r 1 else c
      let c := if on && iso then c.map (fun s => s.coverMark (bankUv r) (some r)) else c
      Cyc.settle 5 (c.hitsWith (if on && x.st.window then [{ rail := r, cause := .uvCross }] else []) co) r)
  | .oc r =>
    if !s.use r || (s.ch r).oc.blank.isNone then s
    else s.cyc (fun c =>
      let x := c.s.ch r
      let iso := c.s.isolated (bankOc r)
      let on := if iso then c.s.ocOut r else active
      let c := c.map (fun s =>
        let s := s.setCh r { x with oc := { out := if isExt r then x.oc.out else on, blank := none } }
        match s.boundAux r with
        | some n => if isExt r then { s with aux := s.aux.set n { s.aux[n] with high := on } } else s
        | none => s)
      if on && c.s.ocOut r && x.leading.isNone then
        (if iso then c.map (fun s => s.coverMark (bankOc r) (some r)) else c).ocLevel r true co
      else c.hitsWith [] co)
  | .leading r =>
    if !s.use r || (s.ch r).leading.isNone then s
    else s.cyc (fun c =>
      let x := c.s.ch r
      let iso := c.s.isolated 2
      let on := if iso then x.oc.out else active
      let c := c.map (fun s => s.setCh r { x with leading := none, oc := { x.oc with out := on } })
      if on && x.oc.blank.isNone then (if iso then c.map (fun s => s.coverMark 2 (some r)) else c).ocLevel r true co
      else c.hitsWith [] co))

/-- SWITCHING_PERIOD_START: the cycle latch is released; a period without limiting restarts the count (R90, R91, R99). -/
def execSwitchingPeriodStart (r : Rail) (s : State) : Res :=
  .next (if isExt r || !(s.ch r).started || !(s.ch r).st.window then s
    else s.cyc (fun c =>
      let x := c.s.ch r
      let c := c.map (fun s => (if x.cycTrip then s else s.setCh r { x with ocRun := 0 }).startPeriod r)
      if c.s.ocAct r && !c.s.ocHold r then c.ocCycle r else c))

/-- SOFT_START_END (R29, R37). -/
def execSoftStartEnd (r : Rail) (co : List Hit) (s : State) : Res :=
  .next (if !(s.ch r).ramp then s
    else s.cyc (fun c => Cyc.settle 5 ((c.map (fun s => s.setCh r { s.ch r with ramp := false })).hitsWith [] co) r))

/-! Channel timers -/

/-- TON_EXPIRY (R39, R46). -/
def execTonExpiry (r : Rail) (co : List Hit) (s : State) : Res :=
  .next (if (s.ch r).ton.isNone then s
    else s.cyc (fun c => c.hitsWith [{ rail := r, cause := .tonExpiry }] co))

/-- TOFF_EXPIRY in FALLING, or in DISCHARGING with PEND 0 (R46). -/
def execToffExpiry (r : Rail) (co : List Hit) (s : State) : Res :=
  .next (if (s.ch r).toff.isNone || (s.ch r).pend then s
    else s.cyc (fun c => c.hitsWith [{ rail := r, cause := .toffExpiry }] co))

/-- PREBIAS_TIMEOUT: the pre-bias TOFF interval of R41 expires. -/
def execPrebiasTimeout (r : Rail) (co : List Hit) (s : State) : Res :=
  .next (if (s.ch r).toff.isNone || !(s.ch r).pend then s
    else s.cyc (fun c => c.hitsWith [{ rail := r, cause := .toffExpiry }] co))

/-- BACKOFF_EXPIRY (R57, R60). -/
def execBackoffExpiry (r : Rail) (co : List Hit) (s : State) : Res :=
  .next (if (s.ch r).backoff.isNone then s
    else s.cyc (fun c => c.hitsWith [{ rail := r, cause := .backoffExpiry }] co))

/-- RETRY_COUNT_RESET (R58). -/
def execRetryCountReset (r : Rail) (s : State) : Res :=
  .next (if (s.ch r).stable.isNone then s else s.setCh r { s.ch r with retries := 0, stable := none })

/-- PREAMBLE_END: both transactions have completed or failed; ENx asserts, TON and blanking start (R65). -/
def execPreambleEnd (r : Rail) (s : State) : Res :=
  .next (if !(s.ch r).pmbw || s.preambleLeft r then s
    else s.cyc (fun c =>
      Cyc.settle 5 (c.map (fun s => (s.setCh r { s.ch r with pmbw := false }).startStage r)) r))

/-! PMBus ports -/

/-- PMBUS_POLL_PASS: a pass over the port's regulators; one that finds a pass running starts when that ends (R66). -/
def execPmbusPollPass (p : Fin 4) (s : State) : Res :=
  .next (
    let l := s.pollList p
    let x := s.ports[p]
    if l.isEmpty || !s.awake then s
    else if x.pass then s.setPort p { x with due := true }
    else (s.setPort p { x with pass := true, pollLeft := l, passAt := s.timer 1000000 }).kick p)

/-- Flags that a transaction sets on a channel: PMB_ERR for a failure, PMB_STAT for a STATUS_WORD (R67). -/
def State.pmbFlags (s : State) (r : Rail) (cmd : BitVec 8) (res : PmbResult) : State :=
  match res with
  | .failed => s.flag r 15
  | .done data => if cmd == 0x79 && data &&& 0xFFFE != 0 then s.flag r 16 else s

/-- A margin transaction ends (R308, R316). A failure that returns STEP to 0 starts a slew, with its blanking (R94). -/
def State.marginTxEnd (s : State) (r : Rail) (step : Int) (id : Nat) (last : Bool) (res : PmbResult) : State :=
  let c := s.ch r
  match res with
  | .done _ =>
    if last && id == c.change && c.slew then s.setCh r { c with slewAt := s.timer (1000 * s.slewT r) } else s
  | .failed =>
    let s := s.orReg (aMFail (r / 32)) (bitw (r % 32))
    if id != c.change then s
    else if step = 0 then s.setCh r { c with slewAt := s.timer (1000 * s.slewT r) }
    else
      let s := s.dropTx (s.pmbPort r) (fun t => match t.owner with | .margin q _ i _ => q == r && i == id | _ => false)
      let s := (s.setStep r 0).blankAll r
      let s := s.setCh r { s.ch r with steps := (s.ch r).steps ++ [0], slew := true, slewAt := none }
      s.marginTx r 0

/-- The wick of a template transaction takes its outcome and continues (R222). -/
def State.templateEnd (s : State) (w : WickId) (read : Bool) (vr : Fin 8) (byte : Bool) (res : PmbResult) : State :=
  let x := s.wk w
  match x.st with
  | .wait .pmbus =>
    match res with
    | .done data =>
      let v : Word := if byte then (data &&& 0xFF).setWidth 32 else data.setWidth 32
      s.setWk w { x with st := .run, pmbf := false, v := if read then x.v.set vr v else x.v, hint := none }
    | .failed => s.setWk w { x with st := .run, pmbf := true, hint := none }
  | _ => s

/-- One transaction of a poll to an address ends; the fourth ends the regulator's poll (R66, R148), and so does the end of
RUN and DOZE, which leaves the stored readings as they are (R66). A poll whose regulator is no longer bound to the port
at that address ends in the same way (DESIGN CHOICE, log 24). -/
def State.pollEnd (s : State) (p : Fin 4) (r : Rail) (i : Fin 4) (addr : BitVec 7) (res : PmbResult) : State :=
  let x := s.ports[p]
  let x := match res with
    | .done d => { x with got := x.got ++ [d] }
    | .failed => { x with got := x.got ++ [0], bad := true }
  if !s.awake || !(s.pollList p).contains r || s.pmbAddr r != addr then
    s.setPort p { x with cur := none, got := [], bad := false }
  else if h : i.val < 3 then s.setPort p { x with cur := some (s.pollTx r ⟨i.val + 1, by omega⟩) }
  else
    let s := s.setPort p { x with cur := none, got := [], bad := false }
    if x.bad then s.setBit (aPmbOk ((r.val - 16) / 32)) ((r.val - 16) % 32) false else s.storePoll r x.got

/-- The transaction on a port's bus ends with a result (R65 to R67, R148, R222, R308). -/
def State.pmbDone (s : State) (p : Fin 4) (res : PmbResult) : State :=
  match (s.ports[p]).cur with
  | none => s
  | some t =>
    let free (s : State) : State := s.setPort p { s.ports[p] with cur := none }
    (match t.owner with
    | .preamble r _ => (free s).pmbFlags r t.cmd res
    | .margin r step id last => ((free s).pmbFlags r t.cmd res).marginTxEnd r step id last res
    | .discarded => free s
    | .template w read vr =>
      let s := match s.boundRail p t.addr with
        | some r => s.pmbFlags r t.cmd res
        | none => s
      (free s).templateEnd w read vr (t.cmd == 0x01) res
    | .poll r i => (s.pmbFlags r t.cmd res).pollEnd p r i t.addr res).kick p

/-- PMBUS_TRANSACTION_DONE. -/
def execPmbusTransactionDone (p : Fin 4) (res : PmbResult) (s : State) : Res := .next (s.pmbDone p res)

/-- SMBUS_TIMEOUT: the transaction fails at 25 ms (R67). -/
def execSmbusTimeout (p : Fin 4) (s : State) : Res := .next (s.pmbDone p .failed)

/-! Margin slews -/

/-- A slew has reached STEP: blanking, and a margined rail back at 0 enters ON (R46, R94). -/
def State.slewDone (s : State) (r : Rail) : State :=
  let s := s.setCh r { s.ch r with slew := false, slewAt := none, steps := [], path := s.step r }
  let s := s.blankAll r
  if s.step r = 0 && (s.ch r).st == .margined then s.enter r .on else s

/-- MARGIN_SLEW_MOVE: one code of the trim, 16 codes of the MGx current, towards STEP (R315). -/
def execMarginSlewMove (r : Rail) (s : State) : Res :=
  .next (if !(s.ch r).slew || (s.ch r).slewAt.isNone || s.pmbPath r then s
    else s.cyc (fun c => c.map (fun s =>
      let p := (s.ch r).path
      let k : Int := if isExt r then 16 else 1
      let q := if p < s.step r then min (p + k) (s.step r) else max (p - k) (s.step r)
      if q = s.step r then s.slewDone r
      else s.setCh r { s.ch r with path := q, slewAt := s.timer (s.slewT r) })))

/-- PMBUS_SLEW_COMPLETE (R316, R318). -/
def execPmbusSlewComplete (r : Rail) (s : State) : Res :=
  .next (if !(s.ch r).slew || (s.ch r).slewAt.isNone || !s.pmbPath r then s
    else s.cyc (fun c => c.map (fun s => s.slewDone r)))

/-! Writes of CH_FLAGS and CH_MARGIN -/

/-- The CH_FLAGS bit that TRIPCAUSE names (R46). -/
def tripFlag (t : BitVec 3) : Option Nat :=
  match t.toNat with | 1 => some 3 | 2 => some 4 | 3 => some 5 | 4 => some 8 | _ => none

/-- The W1C bits of CH_FLAGS. -/
def chFlagsMask : Word := 0x0001BF3F#32

/-- A write of CH_FLAGS (R46, R74). -/
def State.chFlagsPut (s : State) (r : Rail) (v : Word) : State :=
  s.cyc (fun c =>
    let c := c.map (fun s => s.clearLatches r (v &&& chFlagsMask))
    match (c.s.ch r).st, tripFlag (c.s.ch r).trip with
    | .tripped, some i =>
      if tst v i && !c.s.bit (aChFlags r) i then Cyc.settle 5 (c.map (fun s => s.toFalling r)) r else c
    | _, _ => c)

/-- CH_FLAGS_WRITE: a bit that the device sets in the same cycle ends set (R11). -/
def execChFlagsWrite (_who : Who) (r : Rail) (v hw : Word) (s : State) : Res :=
  .next (s.fab (fun s => s.chFlagsPut r (v &&& ~~~hw)))

/-- A fabric write may change the step of a rail: any requester's of a rail in no domain, and of a domain rail the
owner's under the conditions of a margin request (R243, R248, R310). -/
def State.stepRight (s : State) (who : Who) (r : Rail) : Bool :=
  match s.domOf r with
  | none => true
  | some d => s.owns (ownerOf who) d && (s.dom d).prog == .none && !s.sdact
      && ((s.ch r).st == .on || (s.ch r).st == .margined)

/-- A write of CH_MARGIN, and whether it is accepted (R72, R94, R243, R309 to R312). A write that leaves STEP starts no
blanking (R309), so the blanking of R94 for TRACK starts where TRACK changes (log 23). -/
def State.chMargin (s : State) (who : Who) (r : Rail) (v : Word) : State × Bool :=
  let v := v &&& (if isExt r then 0xF8000FFF#32 else 0xB8000FFF#32)
  let old := s.reg (aChMargin r)
  let step := sgn 12 (wfld v 11 0)
  let refuse : State × Bool := (s.flag r 13, false)
  let live := (s.ch r).st == .on || (s.ch r).st == .margined
  if tst v 30 != tst old 30 && (s.step r != 0 || (s.ch r).slew) then refuse
  else if step != s.step r && !s.stepOk r (isExt r && tst v 30) step then refuse
  else if step != s.step r && !s.stepRight who r then refuse
  else (s.cyc (fun c =>
    let c := c.map (fun s => s.setReg (aChMargin r) (put v 11 0 (wfld old 11 0)))
    let c := if tst v 31 != tst old 31 then c.map (fun s => s.blankAll r) else c
    if step = c.s.step r then c
    else if !live || !c.s.use r then c.flag r 13
    else c.hits [{ rail := r, cause := .margin step }]), true)

/-- CH_MARGIN_WRITE. -/
def execChMarginWrite (who : Who) (r : Rail) (v : Word) (s : State) : Res :=
  .next (s.fab (fun s => (s.chMargin who r v).1))

/-! Self-test -/

/-- The rail a comparator of a bank belongs to; an AUXH to the rail that it is bound to. -/
def State.bankRail (s : State) (b : Nat) (i : Fin 16) : Option Rail :=
  match b with
  | 0 | 1 | 2 => some ⟨i.val, by omega⟩
  | 3 | 4 => some ⟨16 + i.val, by omega⟩
  | 5 | 6 => some ⟨32 + i.val, by omega⟩
  | 7 | 8 => some ⟨48 + i.val, by omega⟩
  | 9 => s.auxRail i
  | _ => none

/-- The comparator is in use (R45, R110). -/
def State.cmpUsed (s : State) (b : Nat) (i : Fin 16) : Bool :=
  match s.bankRail b i with
  | some r => s.use r
  | none => true

/-- The comparator is blanked. -/
def State.cmpBlank (s : State) (b : Nat) (i : Fin 16) : Bool :=
  match s.bankRail b i with
  | none => false
  | some r =>
    if b = 0 ∨ b = 3 ∨ b = 5 ∨ b = 7 then (s.ch r).ov.blank.isSome
    else if b = 2 then (s.ch r).oc.blank.isSome || (s.ch r).leading.isSome
    else if b = 9 then (s.ch r).oc.blank.isSome
    else (s.ch r).uv.blank.isSome

/-- The raw output of a comparator. -/
def State.cmpOut (s : State) (b : Nat) (i : Fin 16) : Bool :=
  match b, s.bankRail b i with
  | 9, _ => (s.aux[i]).high
  | 10, _ => (s.aux[i]).low
  | 2, some r => (s.ch r).oc.out
  | 0, some r | 3, some r | 5, some r | 7, some r => (s.ch r).ov.out
  | _, some r => (s.ch r).uv.out
  | _, none => false

/-- The first point of a bank's sixteen. -/
def coverBase (b : Nat) : Nat :=
  match b with
  | 0 | 1 => 0 | 2 => 16 | 3 | 4 => 48 | 5 | 6 => 64 | 7 | 8 => 80 | _ => 96

/-- Threshold and hysteresis of a comparator in codes of 31.25 µV (R77, R78). -/
def State.cmpThr (s : State) (b : Nat) (i : Fin 16) : Int × Int :=
  let h (w : Nat) : Int := match w with | 0 => 0 | 1 => 256 | 2 => 512 | _ => 1024
  match b, s.bankRail b i with
  | 9, _ => (64 * s.fld (aMonAux i) 21 12, h (s.fld (aMonAux i) 23 22))
  | 10, _ => (64 * s.fld (aMonAux i) 9 0, h (s.fld (aMonAux i) 11 10))
  | 2, some r => (64 * s.fld (aChOc r) 9 0, h (s.fld (aChOc r) 11 10))
  | 0, some r | 3, some r | 5, some r | 7, some r => (64 * s.ovThr r, h (s.fld (aChWinOv r) 11 10))
  | _, some r => (64 * s.uvThr r, h (s.fld (aChWinUv r) 11 10))
  | _, none => (0, 0)

/-- The latest sample of a comparator's sense point lies within 20 mV, 640 codes, of its threshold (R111). -/
def State.cmpNear (s : State) (b : Nat) (i : Fin 16) : Bool :=
  ((s.scan.codes[coverBase b + i.val]?.getD 0).toNat - (s.cmpThr b i).1).natAbs < 640

/-- Set the raw output of a comparator. -/
def State.setCmpOut (s : State) (b : Nat) (i : Fin 16) (v : Bool) : State :=
  match b, s.bankRail b i with
  | 9, _ => { s with aux := s.aux.set i { s.aux[i] with high := v } }
  | 10, _ => { s with aux := s.aux.set i { s.aux[i] with low := v } }
  | 2, some r => s.setCh r { s.ch r with oc := { (s.ch r).oc with out := v } }
  | 0, some r | 3, some r | 5, some r | 7, some r => s.setCh r { s.ch r with ov := { (s.ch r).ov with out := v } }
  | _, some r => s.setCh r { s.ch r with uv := { (s.ch r).uv with out := v } }
  | _, none => s

/-- Set the edge flag of a comparator (R92, R105). -/
def State.cmpEdge (s : State) (b : Nat) (i : Fin 16) : State :=
  match b, s.bankRail b i with
  | 10, _ => s.orReg aAuxFlg (bitw i.val)
  | 9, none => s.orReg aAuxFlg (bitw (i.val + 16))
  | 2, some r | 9, some r => s.flag r 2
  | 0, some r | 3, some r | 5, some r | 7, some r => s.flag r 0
  | _, some r => s.flag r 1
  | _, none => s

def bits16 (p : Fin 16 → Bool) : BitVec 16 :=
  (List.finRange 16).foldl (fun a i => if p i then a ||| BitVec.ofNat 16 (2 ^ i.val) else a) 0

/-- The turn of a bank is skipped (R107). A trip input of the bank is that of a rail of its comparators, whatever holds it and
whether or not the rail is in use (DESIGN CHOICE, log 24). -/
def State.skipTurn (s : State) (b : Nat) : Bool :=
  (List.finRange 16).any (fun i => (s.cmpUsed b i && s.cmpBlank b i) || (match s.bankRail b i with
    | some r => (s.ch r).st == .rising || (s.ch r).slew || s.tripInput r
    | none => false))

/-- The comparator's masked output follows a level (R92, R97). -/
def Cyc.cmpLevel (c : Cyc) (b : Nat) (i : Fin 16) (active : Bool) : Cyc :=
  match b, c.s.bankRail b i with
  | 9, _ => c.auxLevel i true active []
  | 10, _ => c.auxLevel i false active []
  | 2, some r =>
    let x := c.s.ch r
    let c := c.map (fun s => s.setCh r { x with oc := { x.oc with out := active } })
    if x.oc.blank.isSome || x.leading.isSome then c else c.ocLevel r active []
  | 0, some r | 3, some r | 5, some r | 7, some r => c.ovLevel r active []
  | _, some r => c.uvLevel r active []
  | _, none => c

/-- The bank whose turn is next: enabled banks in ascending order, the lowest again after the highest (R106). -/
def State.dueBank (s : State) : Option Nat :=
  let l := (List.range 11).filter (fun b => s.bit aStCtl b)
  match l.find? (fun b => s.selfTest.next ≤ b) with
  | some b => some b
  | none => l.head?

/-- SELF_TEST_TURN: the bank whose turn it is is isolated, or its turn is skipped (R106, R107). R107 gives the gap to the
next turn only after a bank test: after a skipped turn it is PERIOD too (DESIGN CHOICE, log 24). -/
def execSelfTestTurn (b : Fin 11) (s : State) : Res :=
  .next (if !s.bit aStCtl 31 || s.dueBank != some b.val || s.bit aStStat 31 || !s.awake then s
    else if s.skipTurn b then
      let n := (s.selfTest.skips[b]) + 1
      let s := { s with selfTest := { s.selfTest with
        next := b.val + 1, skips := s.selfTest.skips.set b n, nextAt := s.timer (100000 * s.fld aStCtl 23 16) } }
      if n = 16 then (s.orReg aStStat (bitw 2)).cyc (fun c => c.raise srcSelfTest) else s
    else
      let pre := bits16 (s.cmpOut b)
      let s := (s.setFld aStStat 30 27 b.val).setBit aStStat 31 true
      { s with selfTest := { s.selfTest with
        next := b.val + 1, phase := 0, pre := pre, fail := 0, nj := 0, skips := s.selfTest.skips.set b 0
        nextAt := s.timer 50 } })

/-- SELF_TEST_PHASE: the eleven instants of R109 from 0.5 µs to 15.5 µs; at a sample, `out` is what the comparators
show (R109 to R112). A write of MON_STCTL during the test neither ends it nor counts before its next sample, which takes
SWAP and TIE as they stand then (R109 does not say; DESIGN CHOICE, log 24). -/
def execSelfTestPhase (out : BitVec 16) (s : State) : Res :=
  .next (if !s.bit aStStat 31 || 11 ≤ s.selfTest.phase then s
    else
      let t := s.selfTest
      let n := t.phase + 1
      let used := bits16 (s.cmpUsed s.testBank)
      let near := bits16 (s.cmpNear s.testBank)
      let above := bankAbove s.testBank
      let expect (hi : Bool) : BitVec 16 := if hi == above then 0xFFFF else 0
      let swap := s.bit aStCtl 30
      let tie := s.bit aStCtl 29
      let dt := if n = 11 then 450 else if n % 2 = 1 then 250 else 50
      let t := { t with phase := n, nextAt := s.timer dt }
      let t := match n with
        | 2 => if swap then
            { t with nj := t.nj ||| (near &&& used), fail := t.fail ||| ((out ^^^ ~~~t.pre) &&& used &&& ~~~near) } else t
        | 4 | 8 => if tie then { t with fail := t.fail ||| ((out ^^^ expect true) &&& used) } else t
        | 6 | 10 => if tie then { t with fail := t.fail ||| ((out ^^^ expect false) &&& used) } else t
        | _ => t
      { s with selfTest := t })

/-- A comparator returns to service with an output (R114): one that differs from its last output before isolation is an
edge, with every action of a crossing unless the cover has taken it already; one that only the cover had left is no edge. -/
def Cyc.restoreCmp (c : Cyc) (b : Nat) (i : Fin 16) (pre out : Bool) : Cyc :=
  let was := c.s.cmpOut b i
  if !c.s.cmpUsed b i || (out == pre && out == was) then c
  else if out == pre then
    let c := c.map (fun s => s.setCmpOut b i out)
    match c.s.bankRail b i with
    | some r => Cyc.settle 5 c r
    | none => c
  else if out == was then (if c.s.cmpBlank b i then c else c.map (fun s => s.cmpEdge b i))
  else c.cmpLevel b i out

/-- SELF_TEST_BANK_END: results written, BUSY cleared, a failure raised, and every comparator back in service with its
restored output `out` (R109, R112, R114). -/
def execSelfTestBankEnd (out : BitVec 16) (s : State) : Res :=
  .next (if !s.bit aStStat 31 || s.selfTest.phase < 11 then s
    else s.cyc (fun c =>
      let b := c.s.testBank
      let t := c.s.selfTest
      let c := c.map (fun s =>
        let s := s.orReg (aStFail b) ((t.nj.setWidth 32 <<< 16) ||| t.fail.setWidth 32)
        let s := s.setBit aStStat 31 false
        { s with selfTest := { t with nextAt := s.timer (100000 * s.fld aStCtl 23 16) } })
      let c := if t.fail = 0 then c else c.raise srcSelfTest
      c.forAll (List.finRange 16) (fun c i => c.restoreCmp b i (t.pre.getLsbD i.val) (out.getLsbD i.val))))

end Sys2Proof.Machine
end

