-- ==== Sys2Proof/Machine/Links.lean ====
section
/-! DEFINITION. The tether and the supervision ring (R466 to R514), but for the frames that reach the fabric: sending
frames, delivering signals, barriers, ring time, lanterns and the plant-first record. -/

namespace Sys2Proof.Machine

/-! Wicks at the end of a wait for a link -/

/-- Set a wick's signal flag (R206, R207). -/
def State.setSignal (s : State) (w : WickId) (n : Fin 16) : State :=
  s.setWk w { s.wk w with sigs := (s.wk w).sigs ||| BitVec.ofNat 16 (2 ^ n.val) }

/-- A wait ends: the wick is in RUN and its hint is gone (R220). -/
def Wick.resume (x : Wick) : Wick := { x with st := .run, hint := none, deadline := none, released := false }

/-- A remote SIG of a wick is confirmed or fails (R206, R192). -/
def State.endRemote (s : State) (w : WickId) (ring fail : Bool) : State :=
  match (s.wk w).st with
  | .wait (.remote r _) => if r == ring then s.setWk w { (s.wk w).resume with sfail := fail } else s
  | _ => s

/-- Change ring time: the cycle in which it is applied goes on with the present value (R495). `step`: TSET. -/
def State.setTime (s : State) (t : BitVec 64) (step : Bool) : State := { s with ring := { s.ring with next := some (t, step) } }

/-- Wicks of the device that have arrived at a barrier and are not yet released. -/
def State.atBarrier (s : State) (ring : Bool) (id : BitVec 8) : List WickId :=
  allWicks.filter (fun w => (s.wk w).st == .wait (.barrier ring id) && !(s.wk w).released && !(s.wk w).nowhere)

/-- Release the device's wicks at a barrier (R510 to R512). -/
def State.releaseWicks (s : State) (ring : Bool) (id : BitVec 8) : State :=
  s.forAll (s.atBarrier ring id) (fun s w => s.setWk w { s.wk w with released := true })

/-! Frame layouts (R470, R471, R490) -/

/-- A slave's report: FLT_STAT and FLT_FIRST, and of version 2 FLT_FIRSTTL, FLT_FIRSTTH and the rest, whose layout R476
leaves open (log 12). -/
def reportBytes (r : SlaveReport) (v2 : Bool) : List Byte :=
  wordBytes r.stat ++ wordBytes r.first ++ (if v2 then leBytes 8 r.time.toNat
    ++ Config.reportTail (r.sig.map (fun x => (x.target.val, x.wick.val, x.num.val)))
      (r.barriers.map (fun e => (e.1, e.2.toNat))) else [])

/-- The payload of an answer: its STATUS first. -/
def answerBytes (a : TetherAnswer) (v2 : Bool) : List Byte :=
  match a with
  | .hello lo hi part step => [0, lo, hi, 0] ++ leBytes 2 part.toNat ++ leBytes 2 step.toNat
  | .poll r => 0 :: reportBytes r v2
  | .read st w => st :: wordBytes w
  | .write st | .sig st | .status st => [st]
  | .tdly _ => [0]

/-- The TYPE of a frame. -/
def TetherBody.code : TetherBody → Byte
  | .hello _ _ => 0x01 | .poll _ _ => 0x02 | .read _ => 0x03 | .write _ _ => 0x04 | .sig _ _ => 0x05
  | .time _ _ _ => 0x06 | .release _ => 0x07 | .tdly => 0x08 | .answer ty _ => ty + 0x80

/-- The payload of a frame. -/
def TetherBody.bytes (b : TetherBody) (v2 : Bool) : List Byte :=
  match b with
  | .hello lo hi => [lo, hi]
  | .poll dly confirms => ((dly.map (fun d => leBytes 2 d.toNat)).getD []) ++ confirms.flatMap (fun c => leBytes 2 c.toNat)
  | .read a => wordBytes a
  | .write a w => wordBytes a ++ wordBytes w
  | .sig w n => [BitVec.ofNat 8 w.val, BitVec.ofNat 8 n.val]
  | .time t synced tstep => leBytes 8 t.toNat ++ [BitVec.ofNat 8 (synced.toNat + 2 * tstep.toNat)]
  | .release id => [id]
  | .tdly => []
  | .answer _ a => answerBytes a v2

/-- The bytes of a tether frame between its K28.5 and its K29.7; `v2`: the slave runs version 2. -/
def TetherFrame.bytes (f : TetherFrame) (v2 : Bool) : List Byte :=
  let p := f.body.bytes v2
  let b := [BitVec.ofNat 8 (16 * f.dst.toNat + f.src.toNat), f.body.code, f.epoch] ++ leBytes 2 f.tag.toNat
    ++ leBytes 2 p.length ++ p
  b ++ leBytes 2 (crc16 b).toNat

/-- The payload of a lantern (R503). -/
def lanternBytes (l : Lantern) : List Byte :=
  leBytes 8 l.time.toNat ++ leBytes 2 l.src.toNat ++ leBytes 1 l.sev.toNat
    ++ [BitVec.ofNat 8 (l.inj.toNat + 2 * l.inexact.toNat + 4 * l.teth.toNat)]
    ++ leBytes 1 l.node.toNat ++ leBytes 1 l.taddr.toNat ++ leBytes 2 l.number.toNat

/-- The TYPE of a ring frame. -/
def RingBody.code : RingBody → Byte
  | .time _ _ _ => 0x01 | .dreq => 0x02 | .dresp _ => 0x03 | .lantern _ => 0x04 | .pfclear _ => 0x05 | .sig _ _ => 0x06
  | .sigack _ => 0x07 | .arrive _ => 0x08 | .withdraw _ => 0x09 | .read _ => 0x0A | .write _ _ => 0x0B | .resp _ _ _ => 0x0C

/-- The payload of a ring frame. -/
def RingBody.bytes : RingBody → List Byte
  | .time t c ts => leBytes 8 t.toNat ++ leBytes 4 (unsgn 32 c) ++ [BitVec.ofNat 8 ts.toNat]
  | .dreq => []
  | .dresp ps => leBytes 4 ps
  | .lantern l => lanternBytes l
  | .pfclear tc => leBytes 8 tc.toNat
  | .sig w n => [BitVec.ofNat 8 w.val, BitVec.ofNat 8 n.val]
  | .sigack q => leBytes 2 q.toNat
  | .arrive id | .withdraw id => [id]
  | .read a => wordBytes a
  | .write a w => wordBytes a ++ wordBytes w
  | .resp q st w => leBytes 2 q.toNat ++ [st] ++ wordBytes w

/-- The bytes of a ring frame between its K27.7 and its K29.7. -/
def RingFrame.bytes (f : RingFrame) : List Byte :=
  let p := f.body.bytes
  let b := [f.body.code, f.src.setWidth 8, f.dst, f.hops] ++ leBytes 2 f.seq.toNat ++ leBytes 2 p.length ++ p
  b ++ wordBytes (crc32 b)

/-! The tether: sending -/

/-- TTH_CFG.EN. -/
def State.tetherEn (s : State) : Bool := s.bit aTthCfg 26
/-- A tether master with EN 1 that serves the tether. -/
def State.tMaster (s : State) : Bool := !s.slave && s.tetherEn && s.power.phase == .run
/-- The master's part of the tether runs, which stands in the fabric domain (R528). -/
def State.tRuns (s : State) : Bool := s.tMaster && s.fabricOn
/-- TTH_SLVn.PRESENT and VER. -/
def State.present (s : State) (n : Fin 16) : Bool := s.bit (aTthSlv n) 31
def State.slvVer (s : State) (n : Fin 16) : Nat := s.fld (aTthSlv n) 29 28
/-- TTH_STAT.MEPOCH. -/
def State.mepoch (s : State) : BitVec 8 := BitVec.ofNat 8 (s.fld aTthStat 23 16)

/-- The master's next frame, with its own TAG. -/
def State.tFrame (s : State) (dst : Fin 16) (b : TetherBody) : TetherFrame :=
  { dst := BitVec.ofNat 4 dst.val, src := 0, epoch := s.mepoch, tag := s.tether.tag, body := b }

/-- Record a frame as sent. -/
def State.tSend (s : State) (f : TetherFrame) : State :=
  { s with tether := { s.tether with sent := s.tether.sent ++ [f] } }

/-- A frame to every slave: sent at once, without an answer (R471). -/
def State.tBroadcast (s : State) (b : TetherBody) : State :=
  let f := s.tFrame 0 b
  ({ s with tether := { s.tether with tag := s.tether.tag + 1 } }).tSend f

/-- Send the next frame when none awaits its answer: a queued one ahead of the next poll of the round (R473). -/
def State.tKick : List (Fin 16) → State → State
  | round, s =>
    match s.tether.cur, s.tether.queue with
    | some _, _ => s
    | none, (f, why) :: q =>
      { s with tether := { s.tether with cur := some (f, why, s.fld aTthCfg 18 16), queue := q } }.tSend f
    | none, [] =>
      match round with
      | [] => s
      | n :: l =>
        let s := { s with tether := { s.tether with round := l } }
        if !s.present n then State.tKick l s
        else
          let v2 := s.slvVer n == 2
          let f := s.tFrame n (.poll (if v2 then some (BitVec.ofNat 16 (s.fld (aTthSlv n) 11 0)) else none)
            (if v2 then s.tether.confirms[n].take 4 else []))
          let t := s.tether
          { s with tether := { t with
            tag := t.tag + 1, cur := some (f, .poll, s.fld aTthCfg 18 16)
            confirms := if v2 then t.confirms.set n (t.confirms[n].drop 4) else t.confirms } }.tSend f

/-- Queue a frame that draws an answer. -/
def State.tQueue (s : State) (dst : Fin 16) (b : TetherBody) (why : TetherWhy) : State :=
  let f := s.tFrame dst b
  State.tKick s.tether.round
    { s with tether := { s.tether with tag := s.tether.tag + 1, queue := s.tether.queue ++ [(f, why)] } }

/-- The bytes of a SIG confirmation (R508). -/
def confirmWord (x : TetherSig) (ok : Bool) : BitVec 16 :=
  BitVec.ofNat 16 (16 * x.wick.val + x.num.val + 256 * ok.toNat)

/-- Tell a SIG's originator of its outcome: a wick of the master, or a slave by its next POLL (R508). -/
def State.sigOutcome (s : State) (w : Option WickId) (origin : Fin 16) (x : TetherSig) (ok : Bool) : State :=
  match w with
  | some w => s.endRemote w false (!ok)
  | none =>
    if origin = 0 then s
    else { s with tether := { s.tether with
      confirms := s.tether.confirms.set origin (s.tether.confirms[origin] ++ [confirmWord x ok]) } }

/-! The tether: barriers (R510) -/

/-- TTH_BARM. -/
def State.tBarm (s : State) : BitVec 16 := BitVec.ofNat 16 (s.fld aTthBarm 15 0)

/-- The arrivals at a barrier ID. -/
def arrivals {k : Nat} (l : List (BitVec 8 × BitVec k)) (id : BitVec 8) : BitVec k :=
  ((l.find? (fun e => e.1 == id)).map (·.2)).getD 0

/-- Replace the arrivals of an ID; an empty set is not listed. -/
def setArrivals {k : Nat} (l : List (BitVec 8 × BitVec k)) (id : BitVec 8) (v : BitVec k) : List (BitVec 8 × BitVec k) :=
  let r := l.filter (fun e => e.1 != id)
  if v = 0 then r else r ++ [(id, v)]

/-- A participant has arrived at a tether barrier of the master; the last of the mask releases it. -/
def State.tArrive (s : State) (n : Fin 16) (id : BitVec 8) : State :=
  let set := arrivals s.tether.sets id ||| BitVec.ofNat 16 (2 ^ n.val)
  let m := s.tBarm
  if m ≠ 0 ∧ set &&& m = m then
    let s := { s with tether := { s.tether with sets := setArrivals s.tether.sets id 0 } }
    (if m.getLsbD 0 then s.releaseWicks false id else s).tBroadcast (.release id)
  else { s with tether := { s.tether with sets := setArrivals s.tether.sets id set } }

/-- A participant withdraws. -/
def State.tWithdraw (s : State) (n : Fin 16) (id : BitVec 8) : State :=
  let set := arrivals s.tether.sets id &&& ~~~(BitVec.ofNat 16 (2 ^ n.val))
  { s with tether := { s.tether with sets := setArrivals s.tether.sets id set } }

/-- The device takes part in tether barriers: a master, or a slave that has negotiated version 2, with EN 1. -/
def State.tBarriers (s : State) : Bool := s.tetherEn && (!s.slave || s.fld aTthStat 15 14 == 2)

/-- A report to the master of an arrival or a withdrawal. -/
def State.tEvent (s : State) (arrive : Bool) (id : BitVec 8) : State :=
  { s with tether := { s.tether with events := s.tether.events ++ [(arrive, id)] } }

/-! The ring: sending -/

/-- RNG_CFG.NODE. -/
def State.node (s : State) : BitVec 6 := BitVec.ofNat 6 (s.fld aRngCfg 5 0)
/-- The receivers run on a ring node, spliced by RNG_CTL or not (R484, R485, R488). -/
def State.ringRx (s : State) : Bool := s.onRing && !s.slave && s.cfgLoaded
/-- An unspliced ring node with EN 1 (R485, R509). -/
def State.ringLive (s : State) : Bool := s.ringRx && !s.bit aRngStat 29
/-- A condition of R485 holds the splice closed. -/
def State.spliceHeld (s : State) : Bool := !s.ringRx || s.bit aRngCtl 31

/-- The next SEQ, taken. -/
def State.takeSeq (s : State) : State :=
  { s with ring := { s.ring with seq := s.ring.seq + 1, seqs := if s.ring.seqs.contains s.ring.seq then s.ring.seqs else s.ring.seqs ++ [s.ring.seq] } }

/-- A frame this node originates, HOPS 63 (R491). -/
def State.rFrame (s : State) (dst : Byte) (b : RingBody) : RingFrame :=
  { src := s.node, dst := dst, hops := 63, seq := s.ring.seq, body := b }

/-- The class in which a port sends a waiting frame (R492): forwarded TIME, own TIME, lanterns, other forwarded frames,
other own frames. -/
def RingTx.rank : RingTx → Nat
  | .forwarded { body := .time _ _ _, .. } => 0
  | .own { body := .time _ _ _, .. } => 1
  | .forwarded { body := .lantern _, .. } => 2
  | .own { body := .lantern _, .. } => 2
  | .forwarded _ => 3
  | .raw _ => 3
  | .own _ => 4

/-- A waiting frame's place: behind those of its class and of the classes before it. -/
def insTx (x : RingTx) : List RingTx → List RingTx
  | [] => [x]
  | y :: t => if x.rank < y.rank then x :: y :: t else y :: insTx x t

/-- The characters that a frame lasts: its bytes, K27.7 and K29.7 (R490). -/
def RingTx.chars : RingTx → Nat
  | .own f => f.bytes.length + 2
  | .forwarded f => f.bytes.length + 2
  | .raw b => b.length + 2

/-- The frame as its K27.7 goes out: an own TIME carries the ring time of that instant (R490, R498). -/
def RingTx.stamp (x : RingTx) (now : BitVec 64) : RingTx :=
  match x with
  | .own f => match f.body with | .time _ c ts => .own { f with body := .time now c ts } | _ => x
  | _ => x

def portIx (portB : Bool) : Fin 2 := if portB then 1 else 0

def State.setRPort (s : State) (portB : Bool) (p : RingPort) : State :=
  { s with ring := { s.ring with ports := s.ring.ports.set (portIx portB) p } }

/-- A port begins to send a frame of 32 ns characters (R483). -/
def State.rStart (s : State) (portB : Bool) (x : RingTx) (rest : List RingTx) : State :=
  let s := { s with ring := { s.ring with sent := s.ring.sent ++ [(portB, x.stamp s.now)] } }
  s.setRPort portB { s.ring.ports[portIx portB] with busyTo := 5 * s.cycle + 16 * x.chars, waiting := rest }

/-- A port is given a frame: it starts at once on an idle port, else it waits for the frame in progress (R492). -/
def State.rOut (s : State) (portB : Bool) (x : RingTx) : State :=
  let p := s.ring.ports[portIx portB]
  if p.busyTo ≤ 5 * s.cycle ∧ p.waiting.isEmpty then s.rStart portB x []
  else s.setRPort portB { p with waiting := insTx x p.waiting }

/-- A port whose frame has ended goes on with the first that waits. -/
def State.rNext (s : State) (portB : Bool) : State :=
  let p := s.ring.ports[portIx portB]
  match p.waiting with
  | x :: t => if p.busyTo ≤ 5 * s.cycle then s.rStart portB x t else s
  | [] => s

/-- A frame of this node goes out on both ports. -/
def State.rBoth (s : State) (f : RingFrame) : State := (s.rOut false (.own f)).rOut true (.own f)

/-- Send a frame of its own on both ports; nothing while spliced (R488). -/
def State.rSend (s : State) (dst : Byte) (b : RingBody) : State :=
  if s.ringLive then (s.rBoth (s.rFrame dst b)).takeSeq else s

/-- Send a DREQ or DRESP on one port; its DST, which R490 leaves open, is 0 (log 11). -/
def State.rLink (s : State) (portB : Bool) (b : RingBody) : State :=
  if s.ringLive then (s.rOut portB (.own (s.rFrame 0 b))).takeSeq else s

/-- Forward a frame on the other port (R491). -/
def State.forward (s : State) (h : RingHead) (b : RingBody) : State :=
  if !s.ringLive || h.src == s.node || h.hops == 0 || h.dst == s.node.setWidth 8 then s
  else
    let f (b : RingBody) : RingFrame := { src := h.src, dst := h.dst, hops := h.hops - 1, seq := h.seq, body := b }
    match b with
    | .dreq | .dresp _ => s
    | .time t c ts => (s.rOut (!h.portB) (.forwarded (f (.time t (c + Config.residence s.free) ts)))).draw
    | b => s.rOut (!h.portB) (.forwarded (f b))

/-- The source of a ring port (R270). -/
def portSrc (portB : Bool) : Nat := if portB then srcRingB else srcRingA

/-- Drop the copies whose SEQ lies half the numbers behind (log 11), and note a copy. -/
def noteSeen (l : List (BitVec 6 × BitVec 16)) (src : BitVec 6) (seq : BitVec 16) : List (BitVec 6 × BitVec 16) :=
  l.filter (fun e => e.1 != src || (seq - e.2).toNat < 32768 || 32768 < (seq - e.2).toNat) ++ [(src, seq)]

/-- A frame whose CRC passed has arrived: it starts a wake, it is forwarded, and the node acts on the first copy of another
node's frame that is meant for it (R491, R494, R531). `spliced`: a spliced node with EN 1 acts on it too (R488). While the
fabric does not run the frame starts the wake and is lost (log 40). -/
def State.receive1 (s : State) (h : RingHead) (b : RingBody) (spliced : Bool) (act : State → State) : State :=
  if !s.ringRx then s
  else if !s.fabricOn then s.startWake
  else
    let s := s.startWake.forward h b
    if h.src == s.node then
      if s.ring.seqs.contains h.seq then s
      else (s.orReg aRngStat (bitw 4)).raise1 (portSrc h.portB)
    else if !(s.ringLive || spliced) || s.ring.seen.contains (h.src, h.seq) then s
    else
      let s := { s with ring := { s.ring with seen := noteSeen s.ring.seen h.src h.seq } }
      let link : Bool := match b with | .dreq | .dresp _ => true | _ => false
      if link || h.dst == 0xFF || h.dst == s.node.setWidth 8 then act s else s

/-! Ring barriers (R511) -/

/-- RNG_BARM1 and RNG_BARM0. -/
def State.rBarm (s : State) : BitVec 64 := (s.reg (aRngBarm 1) ++ s.reg (aRngBarm 0) : BitVec 64)

/-- A node has arrived at a ring barrier; where the set covers the mask the own wicks are released (R511). -/
def State.rArrive (s : State) (n : BitVec 6) (id : BitVec 8) : State :=
  let set := arrivals s.ring.sets id ||| BitVec.ofNat 64 (2 ^ n.toNat)
  let m := s.rBarm
  if m ≠ 0 ∧ set &&& m = m then
    { s with ring := { s.ring with sets := setArrivals s.ring.sets id 0 } }.releaseWicks true id
  else { s with ring := { s.ring with sets := setArrivals s.ring.sets id set } }

def State.rWithdraw (s : State) (n : BitVec 6) (id : BitVec 8) : State :=
  let set := arrivals s.ring.sets id &&& ~~~(BitVec.ofNat 64 (2 ^ n.toNat))
  { s with ring := { s.ring with sets := setArrivals s.ring.sets id set } }

/-- A wick of this device arrives at a barrier; the first one counts (R510 to R512). The wick already waits there. -/
def State.barrierArrive (s : State) (ring : Bool) (id : BitVec 8) : State :=
  if 1 < (s.atBarrier ring id).length then s
  else if ring then
    if s.ringLive then (s.rSend 0xFF (.arrive id)).rArrive s.node id else s
  else if !s.tBarriers then s
  else if s.slave then s.tEvent true id
  else s.tArrive 0 id

/-- A wick of this device has left a barrier before its release; the last one withdraws, also where the link has been
spliced or disabled since it arrived (R214). -/
def State.barrierLeave (s : State) (ring : Bool) (id : BitVec 8) : State :=
  if !(s.atBarrier ring id).isEmpty then s
  else if ring then (s.rSend 0xFF (.withdraw id)).rWithdraw s.node id
  else if s.slave then s.tEvent false id
  else s.tWithdraw 0 id

/-- A wick leaves a barrier: one that had arrived nowhere leaves nothing (R510, R511). -/
def State.leaveBarrier (s : State) (w : WickId) (ring : Bool) (id : BitVec 8) : State :=
  if (s.wk w).nowhere then s else s.barrierLeave ring id

/-! Remote signals (R508, R509) -/

/-- A SIG of scope tether from a wick: none where it waits, else whether it failed. -/
def State.sigTether (s : State) (w : WickId) (x : TetherSig) : State × Option Bool :=
  if x.target.val = s.taddr.toNat then (s.setSignal x.wick x.num, some false)
  else if s.slave then ({ s with tether := { s.tether with sigs := s.tether.sigs ++ [(w, x)] } }, none)
  else if !s.tMaster || !s.present x.target || s.slvVer x.target != 2 then (s, some true)
  else (s.tQueue x.target (.sig x.wick x.num) (.sig (some w) 0 x), none)

/-- A SIG of scope ring from a wick: it fails at once on a spliced node, also towards the node itself (R488, R509). -/
def State.sigRing (s : State) (w : WickId) (node : BitVec 6) (tw : WickId) (n : Fin 16) : State × Option Bool :=
  if !s.ringLive then (s, some true)
  else if node == s.node then (s.setSignal tw n, some false)
  else
    let q := s.ring.seq
    let s := s.rSend (node.setWidth 8) (.sig tw n)
    ({ s with ring := { s.ring with sigs := s.ring.sigs ++ [(w, q)] } }, none)

/-- A wick abandons the wait for a remote SIG (R176). A SIG that waits to be sent across the tether is withdrawn; R176 does not
say whether it is still sent (DESIGN CHOICE, log 32). -/
def State.dropSig (s : State) (w : WickId) : State :=
  let t := s.tether
  let forget (y : TetherWhy) : TetherWhy := match y with
    | .sig (some v) o x => if v = w then .sig none o x else y
    | y => y
  let mine (y : TetherWhy) : Bool := match y with | .sig (some v) _ _ => v == w | _ => false
  { s with
    tether := { t with
      cur := t.cur.map (fun c => (c.1, forget c.2.1, c.2.2)), queue := t.queue.filter (fun c => !mine c.2)
      sigs := t.sigs.filter (fun c => c.1 != w), sigWait := t.sigWait.filter (fun c => c.1 != w) }
    ring := { s.ring with sigs := s.ring.sigs.filter (fun c => c.1 != w) } }

/-! Remote access (R479, R513) -/

/-- The end of a remote access. -/
def State.raEnd (s : State) (stat : Nat) (status : Nat) : State := (s.setFld stat 3 0 status).setBit stat 31 false

/-- The STATUS of RASTAT for the status of an answer; FORMAT has no code of its own (log 12). -/
def raCode (st : BitVec 8) : Nat :=
  match st.toNat with
  | 0 => 0 | 1 => 1 | 2 => 3 | n => (Config.raStatus n).toNat

/-- An answer to a remote access arrived with a status and a word. -/
def State.raAnswer (s : State) (stat data : Nat) (write : Bool) (st : BitVec 8) (w : Word) : State :=
  (if st = 0 ∧ !write then s.setReg data w else s).raEnd stat (raCode st)

/-- The GO of TTH_RACMD: sent, refused while BUSY, or without a target; whether the write is refused (R479). -/
def State.tthGo (s : State) (write : Bool) (target : BitVec 6) : State × Bool :=
  if s.bit aTthRaStat 31 then (s.orReg aTthStat (bitw 0), false)
  else if !s.tMaster || target.toNat == 0 || 16 ≤ target.toNat then (s.raEnd aTthRaStat 4, true)
  else
    let n : Fin 16 := Fin.ofNat 16 target.toNat
    if !s.present n then (s.raEnd aTthRaStat 4, true)
    else
      let a := s.reg aTthRaAddr
      ((s.setBit aTthRaStat 31 true).tQueue n (if write then .write a (s.reg aTthRaData) else .read a) (.remote write), true)

/-- The GO of RNG_RACMD (R513). -/
def State.rngGo (s : State) (write : Bool) (target : BitVec 6) : State × Bool :=
  if s.bit aRngRaStat 31 then (s.orReg aRngStat (bitw 0), false)
  else if !s.ringLive then (s.raEnd aRngRaStat 4, true)
  else
    let a := s.reg aRngRaAddr
    let q := s.ring.seq
    let s := (s.setBit aRngRaStat 31 true).rSend (target.setWidth 8) (if write then .write a (s.reg aRngRaData) else .read a)
    ({ s with ring := { s.ring with ra := some (q, write) } }, true)

/-- TTH_GO. -/
def execTthGo (_who : Who) (write : Bool) (target : BitVec 6) (s : State) : Res :=
  .next (s.fab (fun s => (s.tthGo write target).1))

/-- RNG_GO. -/
def execRngGo (_who : Who) (write : Bool) (target : BitVec 6) (s : State) : Res :=
  .next (s.fab (fun s => (s.rngGo write target).1))

/-! Tether master: meanings -/

/-- TETHER_DISCOVERY: HELLO to every absent address (R472). -/
def execTetherDiscovery (s : State) : Res :=
  .next (if !s.tRuns then s
    else s.forAll ((List.finRange 16).filter (fun n => n ≠ 0 && !s.present n)) (fun s n =>
      s.tQueue n (.hello (BitVec.ofNat 8 (s.fld aTthCfg 25 25 + 1)) 2) .discover))

/-- POLL_ROUND: every present slave in ascending address (R473). A round waits for the end of the previous one. -/
def execPollRound (s : State) : Res :=
  .next (if !s.tRuns || !s.tether.round.isEmpty || s.tether.cur.any (fun c => c.2.1 == .poll) then s
    else
      let l := (List.finRange 16).filter (fun n => n ≠ 0 && s.present n)
      State.tKick l { s with tether := { s.tether with round := l, roundAt := s.timer (1000 * s.fld aTthCfg 7 0) } })

/-- TETHER_TIME_SEND (R481). TSTEP goes out with the first TIME frame after a TSET. -/
def execTetherTimeSend (s : State) : Res :=
  .next (if !s.tRuns then s
    else
      let s := s.tBroadcast (.time s.now s.synced s.tether.tstep)
      { s with tether := { s.tether with tstep := false, timeAt := s.timer 100000 } })

/-- TETHER_DELAY_MEASURE: TDLY to every present slave of version 2 (R481). -/
def execTetherDelayMeasure (s : State) : Res :=
  .next (if !s.tRuns then s
    else s.forAll ((List.finRange 16).filter (fun n => n ≠ 0 && s.present n && s.slvVer n == 2))
      (fun s n => s.tQueue n .tdly .delay))

/-- A first fault read in a slave's report (R476, R502). FLT_FIRST.OVF may change while the fault stands. -/
def State.slaveFault (s : State) (n : Fin 16) (v2 : Bool) (r : SlaveReport) : State :=
  let f := setb r.first 1 false
  let t : BitVec 64 := if v2 then r.time else 0
  if wfld r.stat 31 30 = 0 then { s with tether := { s.tether with firsts := s.tether.firsts.set n none } }
  else if s.tether.firsts[n] = some (f, t) then s
  else
    let num := s.tether.numbers[n] + 1
    let s := { s with tether := { s.tether with
      firsts := s.tether.firsts.set n (some (f, t)), numbers := s.tether.numbers.set n num } }
    let l : Lantern := {
      time := if v2 then t else s.now, src := BitVec.ofNat 9 (wfld f 31 23), sev := BitVec.ofNat 2 (wfld f 22 21)
      inj := tst f 3, inexact := !v2 || !s.synced, teth := true, node := BitVec.ofNat 6 (s.fld aRngCfg 5 0)
      taddr := BitVec.ofNat 4 n.val, number := num }
    let s := (s.pfEnter l).raise1 srcRemoteLantern
    if s.onRing then { s with ring := { s.ring with due := s.ring.due ++ [l] } } else s

/-- A SIG read in a slave's report goes to its target (R508). -/
def State.relaySig (s : State) (n : Fin 16) (x : TetherSig) : State :=
  if x.target = 0 then (s.setSignal x.wick x.num).sigOutcome none n x true
  else if !s.present x.target || s.slvVer x.target != 2 then s.sigOutcome none n x false
  else s.tQueue x.target (.sig x.wick x.num) (.sig none n x)

/-- What a slave's answer brings about, by what it answers (R472, R476, R479, R481, R508). The barriers of a report come ahead
of its SIG (R514). -/
def State.takeAnswer (s : State) (n : Fin 16) (why : TetherWhy) (a : TetherAnswer) : State :=
  match why, a with
  | .discover, .hello _ maxVer _ _ =>
    let ver := min 2 maxVer.toNat
    if ver < s.fld aTthCfg 25 25 + 1 then s.orReg aTthStat (bitw 2)
    else
      let s := s.setReg (aTthSlv n) (put (bitw 31) 29 28 ver)
      if ver = 2 then s.tQueue n .tdly .delay else s
  | .discover, .status st => if st = 2 then s.orReg aTthStat (bitw 2) else s
  | .poll, .poll r =>
    let v2 := s.slvVer n == 2
    let s := s.slaveFault n v2 r
    if !v2 then s
    else
      let s := s.forAll r.barriers (fun s e => if e.1 then s.tArrive n e.2 else s.tWithdraw n e.2)
      match r.sig with | some x => s.relaySig n x | none => s
  | .remote false, .read st w => s.raAnswer aTthRaStat aTthRaData false st w
  | .remote true, .write st => s.raAnswer aTthRaStat aTthRaData true st 0
  | .remote write, .status st => s.raAnswer aTthRaStat aTthRaData write st 0
  | .sig w o x, .sig st => s.sigOutcome w o x (st == 0)
  | .sig w o x, .status _ => s.sigOutcome w o x false
  | .delay, .tdly d => s.setFld (aTthSlv n) 11 0 d.toNat
  | _, _ => s

/-- An answer reaches the master: one with a failed CRC only counts (R471, R474). It starts a wake (R531); while the fabric
does not run it is lost (log 40). -/
def State.answered (s : State) (src : Fin 16) (tag : BitVec 16) (crcOk : Bool) (a : TetherAnswer) : State :=
  let s := if s.tMaster then s.startWake else s
  if !s.tRuns then s
  else if !crcOk then s.setFld aTthCnt 15 0 (satInc 16 (s.fld aTthCnt 15 0))
  else match s.tether.cur with
    | some (f, why, _) =>
      if f.dst.toNat = src.val ∧ f.tag = tag then
        let s := { s with tether := { s.tether with cur := none } }.takeAnswer src why a
        State.tKick s.tether.round s
      else s
    | none => s

/-- What the failure of a frame's last repeat ends (R474, R479, R508). -/
def State.giveUp (s : State) (n : Fin 16) (why : TetherWhy) : State :=
  let s := match why with
    | .remote _ => s.raEnd aTthRaStat 2
    | .sig w o x => s.sigOutcome w o x false
    | _ => s
  if !s.present n then s
  else
    let s := (s.setBit (aTthSlv n) 31 false).setBit (aTthSlv n) 30 true
    (s.orReg aTthStat (bitw 3)).raise1 srcTether

/-- TETHER_ANSWER_TIMEOUT: the frame is repeated, or its slave becomes absent (R474). -/
def execTetherAnswerTimeout (s : State) : Res :=
  .next (if !s.fabricOn then s else match s.tether.cur with
    | none => s
    | some (f, why, k + 1) =>
      let s := s.setFld aTthCnt 31 16 (satInc 16 (s.fld aTthCnt 31 16))
      { s with tether := { s.tether with cur := some (f, why, k) } }.tSend f
    | some (f, why, 0) =>
      let s := { s with tether := { s.tether with cur := none } }.giveUp (Fin.ofNat 16 f.dst.toNat) why
      State.tKick s.tether.round s)

/-- TETHER_SIG_TIMEOUT: no confirmation within 2 ms (R508). -/
def execTetherSigTimeout (w : WickId) (s : State) : Res :=
  .next (if !s.slave then s
    else match (s.wk w).st with
      | .wait (.remote false _) => (s.dropSig w).endRemote w false true
      | _ => s)

/-! Tether slave: meanings that do not reach the fabric -/

/-- The slave declares a tether loss, once until the next valid frame (R478). -/
def State.tetherLoss (s : State) : State :=
  if !s.slave || !s.tetherEn || s.fld aTthCfg 15 8 == 0 || !s.tether.armed || s.power.phase != .run then s
  else
    let s := { s with tether := { s.tether with armed := false } }
    let s := (s.orReg aTthStat (bitw 4)).setFld aTthStat 31 24 (s.fld aTthStat 31 24 + 1)
    s.raise1 srcTether

/-- TETHER_LOSS (R478). -/
def execTetherLoss (s : State) : Res := .next s.tetherLoss

/-- TETHER_TIME_STALE (R481). -/
def execTetherTimeStale (s : State) : Res := .next (if s.slave then s.setBit aTthStat 13 false else s)

/-- TTH_STAT.VER. -/
def State.tVer (s : State) : Nat := s.fld aTthStat 15 14

/-- The frame's epoch and arrival are noted (R475, R478). -/
def State.noteEpoch (s : State) (e : BitVec 8) : State :=
  let t := s.tether
  let s := { s with tether := { t with heard := true, armed := true } }
  if !t.heard then s.setFld aTthStat 23 16 e.toNat
  else if s.mepoch = e then s
  else
    let s := (s.setFld aTthStat 23 16 e.toNat).setFld aTthStat 31 24 (s.fld aTthStat 31 24 + 1)
    { s with tether := { s.tether with cache := [] } }

/-- The tether is served: from the application of the configuration set on (R469, R563). -/
def State.tServes (s : State) : Bool := s.slave && s.tetherEn && s.cfgLoaded

/-- The answer that refuses a request: STATUS 1 (R470, R525). -/
def refusal (ty : Byte) : Option TetherAnswer :=
  match ty.toNat with
  | 0x03 => some (.read 1 0)
  | 0x04 => some (.write 1)
  | 0x05 => some (.sig 1)
  | 0x06 | 0x07 => none
  | _ => some (.status 1)

/-- A frame reaches a slave, behind the tether loss of its cycle (R514): discarded for its CRC, its address or its type;
answered from the cache; refused once the power fails (R525); or executed, and its answer cached and sent (R471, R475). It
starts a wake (R531); while the fabric does not run it is lost (log 40). `ver`: the lowest version that has the TYPE `ty`, 0
for HELLO. -/
def State.tTake (s : State) (h : TetherHead) (ty : Byte) (ver : Nat) (act : State → State × Option TetherAnswer) : State :=
  let s := if h.loss then s.tetherLoss else s
  let s := if s.tServes then s.startWake else s
  if !s.tServes || !s.fabricOn then s
  else if !h.crcOk then s.setFld aTthCnt 15 0 (satInc 16 (s.fld aTthCnt 15 0))
  else if (h.dst != 0 && h.dst != s.taddr) || s.tVer < ver then s
  else
    let s := s.noteEpoch h.epoch
    match s.tether.cache.find? (fun e => e.1 == h.tag && h.dst != 0) with
    | some e => s.tSend e.2
    | none =>
      let q := if s.power.phase == .powerFail then (s, refusal ty) else act s
      match q.2 with
      | none => q.1
      | some a =>
        if h.dst == 0 then q.1
        else
          let f : TetherFrame := { dst := 0, src := q.1.taddr, epoch := h.epoch, tag := h.tag, body := .answer ty a }
          { q.1 with tether := { q.1.tether with cache := ((h.tag, f) :: q.1.tether.cache).take 8 } }.tSend f

/-- ID_PART (R1, R553). -/
def idPart : Nat := 0x6448

/-- ID_STEP.STEP: A0 = 0x4130, or a later step's letter and digit, an ASCII letter A to Z and an ASCII digit (R2, R553). -/
def idStep : Nat :=
  match Config.stepIndex with
  | 0 => 0x4130
  | n + 1 => 256 * (0x41 + (Config.laterStep (n + 1)).1 % 26) + (0x30 + (Config.laterStep (n + 1)).2 % 10)

/-- TTH_HELLO: the version negotiated is the highest that both have (R471, R472). -/
def execTthHello (h : TetherHead) (minVer maxVer : BitVec 8) (s : State) : Res :=
  .next (s.tTake h 0x01 0 (fun s =>
    if 2 < minVer.toNat || maxVer.toNat = 0 then (s, some (.status 2))
    else (s.setFld aTthStat 15 14 (min 2 maxVer.toNat),
      some (.hello 1 2 (BitVec.ofNat 16 idPart) (BitVec.ofNat 16 idStep)))))

/-- A confirmation ends the SIG of the wick that sent it (R508). -/
def State.takeConfirm (s : State) (c : BitVec 16) : State :=
  match s.tether.sigWait.find? (fun e => 16 * e.2.wick.val + e.2.num.val == c.toNat % 256) with
  | some e =>
    { s with tether := { s.tether with sigWait := s.tether.sigWait.filter (fun d => d.1 != e.1) } }.endRemote
      e.1 false (c.toNat / 256 != 1)
  | none => s

/-- TTH_POLL: the slave takes its DLY and its confirmations, and reports (R476, R481, R508). -/
def execTthPoll (h : TetherHead) (dly : Option (BitVec 16)) (confirms : List (BitVec 16)) (s : State) : Res :=
  .next (s.tTake h 0x02 1 (fun s =>
    let v2 := s.tVer == 2
    let s := if v2 then
        ({ s with tether := { s.tether with dly := dly <|> s.tether.dly } }).forAll confirms State.takeConfirm
      else s
    let t := s.tether
    let r : SlaveReport := {
      stat := s.reg aFltStat, first := s.reg aFltFirst
      time := if v2 then (s.reg aFltFirstTH ++ s.reg aFltFirstTL : BitVec 64) else 0
      sig := if v2 then (t.sigs.head?).map (·.2) else none, barriers := if v2 then t.events else [] }
    (if v2 then { s with tether := { t with
        sigs := t.sigs.drop 1, sigWait := t.sigWait ++ t.sigs.take 1, events := [] } } else s, some (.poll r))))

/-- TTH_SIG (R508). -/
def execTthSig (h : TetherHead) (w : WickId) (n : Fin 16) (s : State) : Res :=
  .next (s.tTake h 0x05 2 (fun s => (s.setSignal w n, some (.sig 0))))

/-- TTH_TIME: the carried time plus DLY plus 320 ns, on a slave that holds a DLY (R481). -/
def execTthTime (h : TetherHead) (time : BitVec 64) (synced _tstep : Bool) (s : State) : Res :=
  .next (s.tTake h 0x06 2 (fun s =>
    match s.tether.dly with
    | none => (s, none)
    | some d =>
      let ns : Int := (d.toNat + 320 : Nat)
      let s := s.setTime (time + BitVec.ofInt 64 (roundOpen ns 10)) false
      (s.setBit aTthStat 13 synced, none)))

/-- TTH_RELEASE (R510). -/
def execTthRelease (h : TetherHead) (id : BitVec 8) (s : State) : Res :=
  .next (s.tTake h 0x07 2 (fun s => (s.releaseWicks false id, none)))

/-- TTH_TDLY: the answer starts exactly 2.000 µs later (R471). -/
def execTthTdly (h : TetherHead) (s : State) : Res := .next (s.tTake h 0x08 2 (fun s => (s, some (.tdly 0))))

/-! Ring time (R495 to R499) -/

/-- PWR_CLKSTAT.REFSRC: the reference is the crystal (R518). -/
def State.crystal (s : State) : Bool := s.bit aClkStat 31

/-- Synchronisation is lost (R499). -/
def State.loseSync (s : State) : State :=
  let s := { s with ring := { s.ring with good := 0 } }
  if s.bit aRngStat 31 then ((s.setBit aRngStat 31 false).orReg aRngStat (bitw 1)).raise1 srcSyncLoss else s

/-- Correct ring time from a TIME frame over a link whose delay is valid: `twice` holds its 16 measurements (R498). The
offset of this cycle holds for the next one too, which is one count later. -/
def State.correct (s : State) (twice : List Nat) (t : BitVec 64) (corrPs : Int) (tstep : Bool) : State :=
  let sum : Int := (twice.foldl (· + ·) 0 : Nat)
  let off : Int := 32 * (10000 * (t - s.now).toInt + corrPs) + sum          -- 1/32 ps
  let s := s.setFld aRngOfs 15 0 (unsgn 16 (clip (-32768) 32767 (roundOpen off 3200)))
  if 32 * 1000000 < off.natAbs then
    let s := s.orReg aRngStat (bitw 5)
    let s := if tstep then s else s.loseSync
    let s := s.setTime (t + 1 + BitVec.ofInt 64 (roundOpen (32 * corrPs + sum) 320000)) false
    { s with ring := { s.ring with good := 0 } }
  else
    let move := clip (-1) 1 (Config.servo s.free (off / 32))
    let good := if off.natAbs ≤ 32 * 20000 then s.ring.good + 1 else 0
    let s := s.setTime (s.now + 1 + BitVec.ofInt 64 move) false
    let s := { s with ring := { s.ring with good := min good 8 } }.draw
    if 8 ≤ good && s.crystal then s.setBit aRngStat 31 true else s

/-- The node gives up the time master's role; it is synchronised no more (R496, R499). -/
def State.leaveMaster (s : State) : State :=
  if s.bit aRngStat 30 then
    { (s.setBit aRngStat 30 false).setBit aRngStat 31 false with ring := { s.ring with good := 0 } }
  else s

/-- A TIME frame (R496, R498, R499). A time master gives way to a lower node and ignores a higher one. -/
def State.takeTime (s : State) (h : RingHead) (time : BitVec 64) (corrPs : Int) (tstep : Bool) : State :=
  if s.bit aRngStat 30 && s.node.toNat < h.src.toNat then s
  else
    let s := s.leaveMaster.setFld aRngStat 21 16 h.src.toNat
    let p := s.ring.ports[portIx h.portB]
    if p.twice.length = 16 then s.correct p.twice time corrPs tstep else s

/-- DRESP: one more measurement of the link delay; the mean of 16 shows in RNG_DLYx (R497). -/
def State.takeDresp (s : State) (portB : Bool) (residencePs roundTripPs : Nat) : State :=
  let i := portIx portB
  let p := s.ring.ports[i]
  let twice := ((roundTripPs - residencePs) :: p.twice).take 16
  let s := { s with ring := { s.ring with ports := s.ring.ports.set i { p with twice := twice } } }
  if twice.length < 16 then s
  else
    let mean := roundOpen (twice.foldl (· + ·) 0 : Nat) 3200
    let v := if 0 ≤ mean ∧ mean < 65536 then BitVec.ofInt 16 mean else Config.linkDelay mean
    s.setReg (if portB then aRngDlyB else aRngDlyA) (setb (put 0 15 0 v.toNat) 31 true)

/-- RING_DELAY_TIMER: DREQ on each port (R497). -/
def execRingDelayTimer (s : State) : Res := .next ((s.rLink false .dreq).rLink true .dreq)

/-- RING_TIME_SEND: TIME of the time master (R498, R501). -/
def execRingTimeSend (s : State) : Res :=
  .next (if !s.bit aRngStat 30 || !s.ringLive then s
    else
      let s := s.rSend 0xFF (.time s.now 0 s.ring.tstep)
      { s with ring := { s.ring with tstep := false } })

/-- TIME_MASTER_TAKEOVER (R496, R499). -/
def execTimeMasterTakeover (s : State) : Res :=
  .next (if !s.ringLive || !s.bit aRngCfg 30 || !s.crystal || s.bit aRngStat 30 then s
    else ((s.setBit aRngStat 30 true).setBit aRngStat 31 true).setFld aRngStat 21 16 s.node.toNat)

/-- SYNC_LOSS_TIMEOUT (R499). -/
def execSyncLossTimeout (s : State) : Res := .next (if s.bit aRngStat 30 then s else s.loseSync)

/-- TSET of RNG_CMD; whether the write is accepted (R501). -/
def State.tset (s : State) : State × Bool :=
  if s.bit aRngStat 30 then (s.setTime (s.reg aRngTsetH ++ s.reg aRngTsetL : BitVec 64) true, true)
  else (s.orReg aRngStat (bitw 0), false)

/-- TSET. -/
def execTset (_who : Who) (s : State) : Res := .next (s.fab (fun s => s.tset.1))

/-! Lanterns and the plant-first record (R502 to R507) -/

/-- Empty this device's record. -/
def State.pfEmpty (s : State) : State := { s with ring := { s.ring with best := none, run := none } }

/-- The record empties, and lanterns with a ring time before TC count no more, whatever order clears come in (R507). -/
def State.pfClearTo (s : State) (tc : BitVec 64) : State :=
  let s := s.pfEmpty
  { s with ring := { s.ring with clearAt := some (match s.ring.clearAt with
    | some u => if tc.toNat < u.toNat then u else tc
    | none => tc) } }

/-- PFCLRALL: the record empties and PFCLEAR goes out with TC, the ring time of the write (R507). -/
def State.pfClrAll (s : State) : State := (s.pfClearTo s.now).rSend 0xFF (.pfclear s.now)

/-- PFCLR. -/
def execPfclr (_who : Who) (s : State) : Res := .next (s.fab (fun s => s.pfEmpty))

/-- PFCLRALL. -/
def execPfclrall (_who : Who) (s : State) : Res := .next (s.fab (fun s => s.pfClrAll))

/-- A lantern of another node: entered, and REMOTE_LANTERN raised unless it is a duplicate or older than TC (R504 to R507). -/
def State.takeLantern (s : State) (l : Lantern) : State :=
  if s.pfKnown l || s.pfStale l then s else (s.pfEnter l).raise1 srcRemoteLantern

/-- LANTERN_SEND: the oldest lantern due goes out, to be sent twice more (R502). -/
def execLanternSend (s : State) : Res :=
  .next (match s.ring.due with
    | [] => s
    | l :: q =>
      let s := { s with ring := { s.ring with due := q } }
      if !s.ringLive then s
      else
        let f := s.rFrame 0xFF (.lantern l)
        let s := s.rSend 0xFF (.lantern l)
        { s with ring := { s.ring with again := s.ring.again ++ [(f, 2)] } })

/-- LANTERN_REPEAT: the same frame with the same SEQ (R502). -/
def execLanternRepeat (s : State) : Res :=
  .next (match s.ring.again with
    | [] => s
    | (f, k) :: q =>
      let s := { s with ring := { s.ring with again := if k ≤ 1 then q else q ++ [(f, k - 1)] } }
      if s.ringLive then s.rBoth f else s)

/-! Ring signals and barriers (R509, R511) -/

/-- A ring SIG sets its flag, and SIGACK is returned. -/
def State.takeRingSig (s : State) (h : RingHead) (w : WickId) (n : Fin 16) : State :=
  (s.setSignal w n).rSend (h.src.setWidth 8) (.sigack h.seq)

/-- The first SIGACK confirms the SIG of its SEQ. -/
def State.takeSigack (s : State) (seq : BitVec 16) : State :=
  match s.ring.sigs.find? (fun e => e.2 == seq) with
  | some e => { s with ring := { s.ring with sigs := s.ring.sigs.filter (fun d => d.2 != seq) } }.endRemote e.1 true false
  | none => s

/-- RING_SIG_TIMEOUT: no SIGACK within 1 ms. -/
def execRingSigTimeout (w : WickId) (s : State) : Res :=
  .next (match (s.wk w).st with
    | .wait (.remote true _) => (s.dropSig w).endRemote w true true
    | _ => s)

/-- RESP: the remote access of its SEQ ends (R513). -/
def State.takeResp (s : State) (seq : BitVec 16) (status : BitVec 8) (word : Word) : State :=
  match s.ring.ra with
  | some (q, write) =>
    if q = seq then { s with ring := { s.ring with ra := none } }.raAnswer aRngRaStat aRngRaData write status word else s
  | none => s

/-- RING_RA_TIMEOUT (R513). -/
def execRingRaTimeout (s : State) : Res :=
  .next (match s.ring.ra with
    | some _ => { s with ring := { s.ring with ra := none } }.raEnd aRngRaStat 2
    | none => s)

/-! Symbol lock and splice (R485 to R493) -/

/-- The port may raise again once lock has held for 1 s (R493). -/
def State.refreshQuiet (s : State) (portB : Bool) : State :=
  let p := s.ring.ports[portIx portB]
  if p.since.any (fun t => t + 100000000 ≤ s.cycle) then s.setRPort portB { p with quiet := true } else s

/-- A port fault: flag and source, once until lock has held for 1 s (R493). -/
def State.portFault (s : State) (portB : Bool) : State :=
  let s := s.refreshQuiet portB
  let p := s.ring.ports[portIx portB]
  if p.quiet then
    let s := s.setRPort portB { p with quiet := false, since := p.since.map (fun _ => s.cycle) }
    (s.orReg aRngStat (bitw (if portB then 2 else 3))).raise1 (portSrc portB)
  else s

/-- A port's lock bit in RNG_STAT and its counter register. -/
def lockBit (portB : Bool) : Nat := if portB then 27 else 28
def rngCnt (portB : Bool) : Nat := if portB then aRngCntB else aRngCntA

/-- RING_LOCK_GAIN. -/
def execRingLockGain (portB : Bool) (s : State) : Res :=
  .next (if !s.ringRx || s.bit aRngStat (lockBit portB) then s
    else (s.setBit aRngStat (lockBit portB) true).setRPort portB { s.ring.ports[portIx portB] with since := some s.cycle })

/-- A receiver loses symbol lock: the lock bit clears and the loss is counted. -/
def State.lockDrop (s : State) (portB : Bool) : State :=
  if !s.bit aRngStat (lockBit portB) then s
  else
    let s := s.refreshQuiet portB
    let s := (s.setBit aRngStat (lockBit portB) false).setRPort portB { s.ring.ports[portIx portB] with since := none }
    s.setFld (rngCnt portB) 31 16 (satInc 16 (s.fld (rngCnt portB) 31 16))

/-- RING_LOCK_DROP. -/
def execRingLockDrop (portB : Bool) (s : State) : Res := .next (s.lockDrop portB)

/-- RING_LOCK_LOSS: lock has been lost for more than 1 ms. -/
def execRingLockLoss (portB : Bool) (s : State) : Res :=
  .next (if !s.ringRx || s.bit aRngStat (lockBit portB) then s else s.portFault portB)

/-- RING_CRC_FAILURE: forwarded as received, counted, and the 16th within 1 s raises the port's source (R491, R493). -/
def execRingCrcFailure (portB : Bool) (frame : List Byte) (s : State) : Res :=
  .next (if !s.ringRx then s
    else
      let s := s.startWake
      let s := if s.ringLive then s.rOut (!portB) (.raw frame) else s
      let s := s.setFld (rngCnt portB) 15 0 (satInc 16 (s.fld (rngCnt portB) 15 0))
      let p := s.ring.ports[portIx portB]
      let fails := p.fails.filter (fun t => s.cycle < t + 100000000) ++ [s.cycle]
      if 16 ≤ fails.length then (s.setRPort portB { p with fails := [] }).portFault portB
      else s.setRPort portB { p with fails := fails })

/-- The splice closes: the node neither sends nor keeps a valid ring time (R485, R488), and frames that wait are dropped
(log 11). -/
def State.closeSplice (s : State) : State :=
  let s := ((s.setBit aRngStat 29 true).setBit aRngStat 31 false).setBit aRngStat 30 false
  { s with ring := { s.ring with good := 0, ports := s.ring.ports.map (fun p => { p with busyTo := 0, waiting := [] }) } }

/-- SPLICE_OPEN: SPLVN has reached −4.5 V with no condition of R485 left. -/
def execSpliceOpen (s : State) : Res := .next (if s.spliceHeld then s else s.setBit aRngStat 29 false)

/-- A write of RNG_CTL. -/
def State.rngCtl (s : State) (v : Word) : State :=
  let s := s.setReg aRngCtl (v &&& bitw 31)
  if tst v 31 then s.closeSplice else s

/-- RNG_CTL_WRITE (R485, R488). -/
def execRngCtlWrite (_who : Who) (v : Word) (s : State) : Res := .next (s.fab (fun s => s.rngCtl v))

/-! The end of a cycle (R495, R501, R502) -/

/-- A TIME frame of this node that waits for its port carries TSTEP. -/
def RingTx.mark (x : RingTx) : RingTx :=
  match x with
  | .own f => match f.body with | .time t c _ => .own { f with body := .time t c true } | _ => x
  | _ => x

/-- The frame is a TIME frame of this node. -/
def RingTx.ownTime (x : RingTx) : Bool := match x with | .own { body := .time _ _ _, .. } => true | _ => false

/-- TSET has stepped ring time: the next TIME frame carries TSTEP, which a frame is that waits at both ports, and so does each
copy that waits (R498, R501). -/
def State.timeStepped (s : State) : State :=
  let next := !s.ring.ports.toList.all (fun p => p.waiting.any RingTx.ownTime)
  { s with
    ring := { s.ring with
      tstep := next, ports := s.ring.ports.map (fun p => { p with waiting := p.waiting.map RingTx.mark }) }
    tether := { s.tether with tstep := true } }

/-- Ring time after this cycle: what a change has set it to, else the next count (R495). -/
def State.endTime (s : State) : State :=
  match s.ring.next with
  | none => { s with ring := { s.ring with time := s.ring.time + 1 } }
  | some (t, step) =>
    let s := { s with ring := { s.ring with time := t, next := none } }
    if step then s.timeStepped else s

/-- The own lanterns of this cycle enter the record, after what has cleared it (R502, R514). -/
def State.enterOwn (s : State) : State :=
  let due := s.ring.own.filter (fun e => e.1 ≤ s.cycle)
  { s with ring := { s.ring with own := s.ring.own.filter (fun e => s.cycle < e.1) } }.forAll due (fun s e => s.pfEnter e.2)

/-- What the links complete at the end of a cycle in which the core clock runs. -/
def State.endCycle (s : State) : State := if s.powered then s.enterOwn.endTime else s

/-! What reaches the links in one cycle (R514) -/

/-- The order of R514 for what a frame carries; frames that it does not name come last. -/
def RingBody.order : RingBody → Nat
  | .pfclear _ => 2
  | .lantern _ => 3
  | .time _ _ _ => 4
  | .arrive _ | .withdraw _ => 5
  | .sig _ _ | .sigack _ => 6
  | _ => 7

/-- The order of R514 for what comes beside a frame. -/
def linkOrder : LinkEvent → Nat
  | .lockDrop _ => 1
  | .pfclr | .pfclrall | .pfclear _ _ => 2
  | .lantern _ _ => 3
  | .tset | .time _ _ _ _ => 4
  | .arrive _ _ | .withdraw _ _ => 5
  | .sig _ _ _ | .sigack _ _ => 6

/-- One event. -/
def State.linkEvent (s : State) (e : LinkEvent) : State :=
  match e with
  | .lockDrop portB => s.lockDrop portB
  | .pfclr => s.fab State.pfEmpty
  | .pfclrall => s.fab State.pfClrAll
  | .tset => s.fab (fun s => s.tset.1)
  | .time h t c ts => s.receive1 h (.time t c ts) false (fun s => s.takeTime h t c ts)
  | .lantern h l => s.receive1 h (.lantern l) true (fun s => s.takeLantern l)
  | .pfclear h tc => s.receive1 h (.pfclear tc) true (fun s => s.pfClearTo tc)
  | .arrive h id => s.receive1 h (.arrive id) false (fun s => s.rArrive h.src id)
  | .withdraw h id => s.receive1 h (.withdraw id) false (fun s => s.rWithdraw h.src id)
  | .sig h w n => s.receive1 h (.sig w n) false (fun s => s.takeRingSig h w n)
  | .sigack h seq => s.receive1 h (.sigack seq) false (fun s => s.takeSigack seq)

/-- The events of a cycle from one place of the order up to another, each against what those before it leave. -/
def State.linkEvents (s : State) (l : List LinkEvent) (lo n : Nat) : State :=
  ((List.range n).flatMap (fun k => l.filter (fun e => linkOrder e == lo + k))).foldl State.linkEvent s

/-- TETHER_ANSWER. What comes ahead of a lantern in R514 comes ahead of the report of a slave. -/
def execTetherAnswer (src : Fin 16) (tag : BitVec 16) (crcOk : Bool) (a : TetherAnswer) (co : List LinkEvent) (s : State) : Res :=
  .next (((s.linkEvents co 0 3).answered src tag crcOk a).linkEvents co 3 5)

/-- A frame arrives, at its place among what else reaches the links in its cycle (R514). -/
def State.receive (s : State) (h : RingArrival) (b : RingBody) (spliced : Bool) (act : State → State) : State :=
  ((s.linkEvents h.co 0 b.order).receive1 h.toRingHead b spliced act).linkEvents h.co b.order 8

/-- RING_TIME. -/
def execRingTime (h : RingArrival) (time : BitVec 64) (corrPs : Int) (tstep : Bool) (s : State) : Res :=
  .next (s.receive h (.time time corrPs tstep) false (fun s => s.takeTime h.toRingHead time corrPs tstep))

/-- DREQ: answered on its port with the residence (R497). -/
def execDreq (h : RingArrival) (s : State) : Res :=
  .next (s.receive h .dreq false (fun s => (s.rLink h.portB (.dresp (Config.residence s.free))).draw))

/-- DRESP. -/
def execDresp (h : RingArrival) (residencePs roundTripPs : Nat) (s : State) : Res :=
  .next (s.receive h (.dresp residencePs) false (fun s => s.takeDresp h.portB residencePs roundTripPs))

/-- LANTERN. -/
def execLantern (h : RingArrival) (l : Lantern) (s : State) : Res :=
  .next (s.receive h (.lantern l) true (fun s => s.takeLantern l))

/-- PFCLEAR (R507). -/
def execPfclear (h : RingArrival) (tc : BitVec 64) (s : State) : Res :=
  .next (s.receive h (.pfclear tc) true (fun s => s.pfClearTo tc))

/-- RING_SIG (R509). -/
def execRingSig (h : RingArrival) (w : WickId) (n : Fin 16) (s : State) : Res :=
  .next (s.receive h (.sig w n) false (fun s => s.takeRingSig h.toRingHead w n))

/-- SIGACK (R509). -/
def execSigack (h : RingArrival) (seq : BitVec 16) (s : State) : Res :=
  .next (s.receive h (.sigack seq) false (fun s => s.takeSigack seq))

/-- ARRIVE (R511). -/
def execArrive (h : RingArrival) (id : BitVec 8) (s : State) : Res :=
  .next (s.receive h (.arrive id) false (fun s => s.rArrive h.src id))

/-- WITHDRAW (R511). -/
def execWithdraw (h : RingArrival) (id : BitVec 8) (s : State) : Res :=
  .next (s.receive h (.withdraw id) false (fun s => s.rWithdraw h.src id))

/-- RESP. -/
def execResp (h : RingArrival) (seq : BitVec 16) (status : BitVec 8) (word : Word) (s : State) : Res :=
  .next (s.receive h (.resp seq status word) false (fun s => s.takeResp seq status word))

end Sys2Proof.Machine
end

