-- ==== Sys2Proof/Machine/Store.lean ====
section
/-! DEFINITION. The keeping store: the store engine (R337 to R347), the spread counters (R361 to R366) and the logger
(R289, R290, R368 to R374). -/

namespace Sys2Proof.Machine

/-! The store engine -/

/-- KPS_STAT (R375): VHOK and the W1C bits are stored, the others show the engine. -/
def State.kpsStat (s : State) : Word :=
  let k := s.keeper
  let pf := k.run.any (fun j => j.kind == .powerFail)
  s.reg aKpsStat ||| at_ k.run.isSome 31 ||| at_ pf 30 ||| put 0 29 27 ((k.last.map StoreKind.code).getD 0)
    ||| at_ (!k.pending.isEmpty) 26

def State.setRun (s : State) (j : Option StoreRun) : State := { s with keeper := { s.keeper with run := j } }

/-- The order of a pass of the power-fail store (R345). -/
def State.pfOrder (s : State) : List (Nat × Bool) :=
  let first := match s.fltState with | 1 => [s.logNext] | 2 => [s.emberSlot] | _ => []
  let newest := s.fld aLogIdx 30 24
  let log := (List.range 128).map (fun i => (newest + 128 - i) % 128)
  (first ++ log.filter (fun k => !first.contains k) ++ (List.range 16).map (· + 224) ++ (List.range 16).map (· + 128)
    ++ (List.range 16).map (· + 144) ++ (List.range 32).map (· + 160) ++ (List.range 16).map (· + 240)
    ++ (List.range 32).map (· + 192)).map (fun k => (k, false))

/-- The page of the key slots while a key erase runs: a store that reaches it waits (R547). -/
def State.erasePage (s : State) (k : Nat) : Bool := k == 240 && s.bit aSecStat 31

/-- What is left to reach after the next page of a store, and that page (R338, R341, R547): a clean page that is taken only
when dirty is passed, but not the page that a key erase dirties, and the page of an ember in the making is left for later. -/
def State.nextPage (s : State) : List (Nat × Bool) → List (Nat × Bool) × Option Nat
  | [] => ([], none)
  | e :: t =>
    if s.emberPage = some e.1 then (e :: (s.nextPage t).1, (s.nextPage t).2)
    else if e.2 || s.dirty e.1 || s.erasePage e.1 then (t, some e.1)
    else s.nextPage t

/-- The store engine takes its next page: its dirty bit clears with the copy, and the journal names it (R337, R347). It
waits for the logger's ember (R341), and for a key erase at page 240 (R547). Pass 1 of a power-fail store takes its order
when it starts, after a key erase in progress; where no page is left it goes on to the header rewrite or to pass 2 (R345,
R547). The first argument bounds the passes begun here. -/
def State.storeNext : Nat → State → State
  | fuel, s =>
    match s.keeper.run with
    | none => s
    | some j =>
      let first := j.kind == .powerFail && !j.pass1
      if j.cur.isSome || !j.ready || j.waitRewrite || (first && s.bit aSecStat 31) then s
      else
        let j := if first then { j with left := s.pfOrder, pass1 := true } else j
        match s.nextPage j.left with
        | (left, some k) =>
          if s.erasePage k then s.setRun (some { j with left := (k, false) :: left })
          else
            let j := { j with left := left, cur := some (k, pageOf s.sram k) }
            { s with keeper := { s.keeper with
              run := some j, dirty := s.keeper.dirty &&& ~~~(BitVec.ofNat 256 (2 ^ k)), tornPage := some k } }
        | (left, none) =>
          let s := s.setRun (some { j with left := left })
          if !left.isEmpty || j.kind != .powerFail || j.pass2 then s
          else if s.fltState = 2 && s.faults.rewrite then s.setRun (some { j with left := [], waitRewrite := true })
          else match fuel with
            | 0 => s
            | n + 1 => State.storeNext n (s.setRun (some { j with left := s.pfOrder, pass2 := true }))

/-- The shadow of a page whose write has stopped before its verify: every byte is open (R347, log 5). -/
def State.tear (s : State) : State :=
  match s.keeper.run with
  | some { cur := some (k, _), .. } =>
    ({ s with shadow := setPage s.shadow k (pageFrom k (Config.tornByte s.free)) }).draw
  | _ => s

/-- FLT_EMBER.STORED is set when the page of the current ember has been stored with its present contents (R291), also
after a CLEAR while no later record has taken its slot. -/
def State.noteStored (s : State) (k : Nat) : State :=
  if s.faults.ember ∧ k = s.emberSlot ∧ !s.dirty k then s.setBit aFltEmber 31 true else s

/-- The page in progress has been written and read back (R342). -/
def State.pageDone (s : State) (verified : Bool) : State :=
  match s.keeper.run with
  | some { kind := kind, ready := ready, left := left, cur := some (k, cells), written := n, startAt := t, pass1 := p1, pass2 := p2, waitRewrite := wr } =>
    let j : StoreRun := {
      kind := kind, ready := ready, left := left, cur := none, written := n + 1, startAt := t, pass1 := p1
      pass2 := p2, waitRewrite := wr }
    if verified then
      let s := { s with shadow := setPage s.shadow k cells, keeper := { s.keeper with run := some j, tornPage := none } }
      (s.noteStored k).storeNext 1
    else
      let s := (s.tear.setRun (some j)).mark (0x400 * k)
      let s := { s with keeper := { s.keeper with tornPage := none } }
      ((s.orReg aKpsStat (bitw 2)).raise1 srcStore).storeNext 1
  | _ => s

/-- The autosave interval begins: a store of any kind, or the repair, has ended, or an autosave found nothing to store
(R338). -/
def State.armAutosave (s : State) : State := { s with keeper := { s.keeper with lastEnd := some s.cycle } }

/-- The cycle at which the autosave interval of KPS_CTL.AUTOS expires; an AUTOS of 0 disables autosave (R338). -/
def State.autosaveAt (s : State) : Timer :=
  let n := s.fld aKpsCtl 15 0
  if n = 0 then none else s.keeper.lastEnd.map (fun t => t + 100000000 * n)

/-- KPS_LASTST of a store. -/
def State.setLastStore (s : State) (pages us : Nat) : State :=
  s.setReg aLastSt (put (put 0 15 0 (min us 65535)) 24 16 (min pages 256))

/-- The running store ends; the pending requests run as one store of the highest KIND (R340, R365). -/
def State.endStore (s : State) (j : StoreRun) : State :=
  let s := (s.setRun none).setLastStore j.written ((s.cycle - j.startAt) / 100)
  let s := (s.count 3).armAutosave
  match s.keeper.pending with
  | [] => s
  | (kind, _) :: _ =>
    let all := s.keeper.pending.flatMap (·.2)
    let top := s.keeper.pending.foldl (fun a e => if a.code < e.1.code then e.1 else a) kind
    let pages := (List.range 256).filterMap (fun k =>
      if all.any (fun e => e.1 == k) then some (k, all.any (fun e => e.1 == k && e.2)) else none)
    { s with keeper := { s.keeper with pending := [] } }.beginStore top pages

/-- The power-fail store starts, or takes over the running one (R340, R344). -/
def State.startPowerFailStore (s : State) : State :=
  let k := s.keeper
  let s := { s with keeper := { k with locked := true, pending := [], lastEnd := none } }
  match k.run with
  | none => s.beginStore .powerFail []
  | some j =>
    let j := { j with kind := .powerFail, left := [], pass1 := false, pass2 := false }
    ({ s with keeper := { s.keeper with run := some j, last := some .powerFail } }).storeNext 1

/-- STORE. -/
def State.kpsStore (s : State) : State := s.requestStore .store dirtyPages
/-- STOREALL. -/
def State.kpsStoreAll (s : State) : State := s.requestStore .storeAll ((List.range 256).map (fun k => (k, true)))

/-- STORE (R338). -/
def execStore (_who : Who) (s : State) : Res := .next (s.fab (fun s => s.kpsStore))
/-- STOREALL (R338). -/
def execStoreall (_who : Who) (s : State) : Res := .next (s.fab (fun s => s.kpsStoreAll))

/-- AUTOSAVE: with no dirty page the interval starts again (R338). The store engine stands in the fabric domain (R528). -/
def execAutosave (s : State) : Res :=
  .next (if s.autosaveAt.isNone || !s.fabricOn then s
    else if s.keeper.dirty = 0 then s.armAutosave
    else { s with keeper := { s.keeper with lastEnd := none } }.requestStore .autosave dirtyPages)

/-- STORE_SHADOW_READY: the shadow array is powered and the journal written (R339). -/
def execStoreShadowReady (s : State) : Res :=
  .next (match s.keeper.run with
    | some j =>
      if j.ready || !s.fabricOn then s
      else
        (s.setRun (some { j with ready := true })).storeNext 1
    | none => s)

/-- STORE_PAGE_DONE (R342). -/
def execStorePageDone (verified : Bool) (s : State) : Res := .next (if s.fabricOn then s.pageDone verified else s)

/-- The running store has no page left; a power-fail store also has pass 2 behind it (R345). -/
def State.storeFinished (s : State) : Option StoreRun :=
  match s.keeper.run with
  | some j =>
    if j.ready && j.cur.isNone && j.left.isEmpty && !j.waitRewrite && (j.kind != .powerFail || j.pass2) then some j else none
  | none => none

/-- VHOLD_CROSSING (R343). -/
def execVholdCrossing (rising : Bool) (s : State) : Res :=
  .next (match s.power.phase with
    | .unpowered | .inputLow => s
    | _ => s.setBit aKpsStat 25 rising)

/-! Spread counters -/

/-- The fabric address of a counter (R361). -/
def cntBase (n : Nat) : Nat := 0x20000 + 0x200 * n

/-- A lap copy at an address, when its CRC passes (R362). -/
def State.lapCopy (s : State) (a : Nat) : Option Nat :=
  let b := s.bytes a 6
  if leNat (s.bytes (a + 6) 2) = (crc16 b).toNat then some (leNat b) else none

/-- The bytes of a lap copy. -/
def lapBytes (l : Nat) : List Byte := leBytes 6 l ++ leBytes 2 (crc16 (leBytes 6 l)).toNat

/-- L of a counter: the larger valid copy. -/
def State.lap (s : State) (n : Nat) : Nat :=
  max ((s.lapCopy (cntBase n + 0x100)).getD 0) ((s.lapCopy (cntBase n + 0x108)).getD 0)

/-- The fill value of a lap (R362). -/
def fillOf (l : Nat) : Byte := if l % 2 = 0 then 0xFF else 0x00

/-- P of a counter: leading cells of the fill value. -/
def State.position (s : State) (n : Nat) : Nat :=
  ((s.bytes (cntBase n) 252).takeWhile (· == fillOf (s.lap n))).length

/-- A cell beyond P holds the fill value (R362). -/
def State.thermoBad (s : State) (n : Nat) : Bool :=
  ((s.bytes (cntBase n) 252).drop (s.position n)).contains (fillOf (s.lap n))

/-- The value of a counter (R362). -/
def State.counter (s : State) (n : Nat) : Nat := min (252 * s.lap n + s.position n) (2 ^ 48 - 1)

/-- One increment (R363). -/
def State.increment (s : State) (n : Nat) : State :=
  let l := s.lap n
  let p := s.position n
  if 2 ^ 48 - 1 ≤ 252 * l + p then s.orReg aKpsStat (bitw 4)
  else
    let s := s.pokeByte (cntBase n + p) (fillOf l)
    if p = 251 then (s.poke (cntBase n + 0x100) (lapBytes (l + 1))).poke (cntBase n + 0x108) (lapBytes (l + 1)) else s

/-- A counter set to 0, both lap copies valid (R364, R365). -/
def State.zeroCounter (s : State) (n : Nat) : State :=
  ((s.poke (cntBase n) (List.replicate 252 0)).poke (cntBase n + 0x100) (lapBytes 0)).poke (cntBase n + 0x108) (lapBytes 0)

/-- INC of KPS_CNTCMD; whether it is accepted (R365). -/
def State.cntInc (s : State) (n : Fin 32) : State × Bool :=
  if n.val < 16 then (s.orReg aKpsStat (bitw 0), false) else (s.count n, true)

/-- INIT of KPS_CNTCMD; whether it is accepted (R365, R375). -/
def State.cntInit (s : State) (n : Fin 32) : State × Bool :=
  if n.val < 16 || s.lockCfg then (s.orReg aKpsStat (bitw 0), false)
  else if s.keeper.locked then (s, true)
  else (s.zeroCounter n, true)

/-- INC. -/
def execInc (_who : Who) (n : Fin 32) (s : State) : Res := .next (s.fab (fun s => (s.cntInc n).1))
/-- INIT. -/
def execInit (_who : Who) (n : Fin 32) (s : State) : Res := .next (s.fab (fun s => (s.cntInit n).1))

/-- COUNTER_INCREMENT: the head of the queue (R366). -/
def execCounterIncrement (s : State) : Res :=
  .next (match s.keeper.cntQueue with
    | [] => s
    | n :: q =>
      if s.keeper.ended || !s.serves then s
      else { s with keeper := { s.keeper with cntQueue := q } }.increment n)

/-! The logger -/

/-- The base address of a record. -/
def recBase (slot : Nat) : Nat := 0x400 * slot

/-- A record is valid: a magic of R368 and a CRC that passes. -/
def State.recValid (s : State) (slot : Nat) : Bool :=
  let m := s.sramWord (recBase slot)
  (m == 0x4B500001#32 || m == 0x4B500002#32) && s.sramWord (recBase slot + 0x3FC) == crc32 (s.bytes (recBase slot) 0x3FC)

/-- Write the CRC of a record. -/
def State.sealRec (s : State) (slot : Nat) : State :=
  s.poke (recBase slot + 0x3FC) (wordBytes (crc32 (s.bytes (recBase slot) 0x3FC)))

/-- The next record is opened with a magic and the bytes 0x008 to 0x3FB; the index follows (R368, KPS_LOGIDX). A record
in the slot of the current ember replaces it. -/
def State.newRecord (s : State) (magic : Word) (body : List Byte) (isOpen : Bool) : State :=
  let slot := s.logNext
  let seq := if s.bit aLogIdx 31 then s.reg aLogSeq + 1 else 1
  let count := if s.recValid slot then s.fld aLogIdx 7 0 else s.fld aLogIdx 7 0 + 1
  let s := s.poke (recBase slot) (wordBytes magic ++ wordBytes seq ++ body)
  let s := s.sealRec slot
  let s := { s with faults := { s.faults with ember := s.faults.ember && slot != s.emberSlot } }
  (s.setReg aLogSeq seq).setReg aLogIdx (bitw 31 ||| put 0 30 24 slot ||| at_ isOpen 15 ||| put 0 7 0 count)

/-- Open an event record that holds no entry yet (R369, R372). -/
def State.openEvent (s : State) : State :=
  (s.newRecord 0x4B500002#32 (timeBytes s.now ++ List.replicate 8 0 ++ s.recordIds ++ List.replicate 0x3DC 0) true).count 5

/-- Append an entry of 16 bytes to the open event record, opening one when none is open or it is full (R373). -/
def State.appendEntry (s : State) (e : List Byte) : State :=
  let full := s.bit aLogIdx 15 && s.byte (recBase (s.fld aLogIdx 30 24) + 0x10) == 61
  let s := if s.bit aLogIdx 15 && !full then s else s.openEvent
  let slot := s.fld aLogIdx 30 24
  let n := (s.byte (recBase slot + 0x10)).toNat
  ((s.poke (recBase slot + 0x20 + 16 * n) e).poke (recBase slot + 0x10) [BitVec.ofNat 8 (n + 1)]).sealRec slot

/-- The bytes of an event entry (R372). -/
def LogEntry.bytes (e : LogEntry) : List Byte :=
  timeBytes e.time ++ leBytes 2 e.source.toNat
    ++ leBytes 1 (e.sev.toNat + 4 * e.conseq.toNat + 8 * e.injected.toNat + 16 * e.duringDown.toNat + 32 * e.merged.toNat)
    ++ leBytes 1 ((e.dom.map (·.val)).getD 0 + 16 * e.dom.isSome.toNat) ++ [0, 0, 0, 1]

/-- The bytes of a program event. -/
def ProgEvent.bytes (e : ProgEvent) (w : WickId) : List Byte :=
  timeBytes e.time ++ wordBytes e.value ++ [e.code, BitVec.ofNat 8 w.val, 0, 2]

/-- The bytes of the start entry (R372, R374). -/
def State.startBytes (s : State) : List Byte :=
  let c := s.power.cause.toNat
  timeBytes s.now ++ leBytes 1 (if c = 0 then 0 else if c = 1 then 1 else 2)
    ++ leBytes 1 ((s.bit aMonVin 3).toNat + 2 * (s.bit aSeqStat 31).toNat + 4 * (s.bit aSeqStat 30).toNat
      + 8 * (s.bit aRepair 20).toNat)
    ++ wordBytes (s.reg aRepair) ++ [0, 3]

/-- The wick whose program event is the oldest, the lowest of equals. -/
def State.oldestLog (s : State) : Option (WickId × ProgEvent) :=
  allWicks.foldl (fun a w => match (s.wk w).logBuf, a with
    | some e, some (v, f) => if e.time.toNat < f.time.toNat then some (w, e) else some (v, f)
    | some e, none => some (w, e)
    | none, a => a) none

/-- The logger, which stands in the fabric domain, may write entries: a start has reached RUN, no ember is being written, and
pass 2 of a power-fail store has not begun (R345, R374, R528). -/
def State.loggerFree (s : State) : Bool :=
  s.fabricOn && s.fltState != 1 && !s.keeper.ended && !(s.keeper.run.any (fun j => j.pass2))
    && (s.power.phase == .run || s.power.phase == .powerFail)

/-- Take the event entry of the least ring time, the first of equals (R373). -/
def takeOldest : List LogEntry → Option (LogEntry × List LogEntry)
  | [] => none
  | e :: t => match takeOldest t with
    | some (m, r) => if m.time.toNat < e.time.toNat then some (m, e :: r) else some (e, t)
    | none => some (e, t)

/-- LOG_ENTRY_WRITE: the start entry first, then event entries and program events by ring time (R373, R374). -/
def execLogEntryWrite (s : State) : Res :=
  .next (if !s.loggerFree then s
    else if s.faults.startPend then
      let s := { s with faults := { s.faults with startPend := false } }.setBit aLogIdx 15 false
      s.appendEntry s.startBytes
    else match takeOldest s.faults.queue, s.oldestLog with
      | some (e, q), p =>
        if p.any (fun p => p.2.time.toNat < e.time.toNat) then
          match p with
          | some (w, pe) => (s.setWk w { s.wk w with logBuf := none }).appendEntry (pe.bytes w)
          | none => s
        else { s with faults := { s.faults with queue := q } }.appendEntry e.bytes
      | none, some (w, pe) => (s.setWk w { s.wk w with logBuf := none }).appendEntry (pe.bytes w)
      | none, none => s)

/-- EMBER_COMPLETE: the ember is in the next record and the collector in HELD; a CRITICAL raise of the capture starts
its store (R289 to R291). -/
def execEmberComplete (s : State) : Res :=
  .next (match s.faults.snap with
    | none => s
    | some snap =>
      if s.fltState ≠ 1 || !s.fabricOn then s
      else
        let slot := s.logNext
        let s := (s.newRecord 0x4B500001#32 snap false).count 4
        let s := (s.setReg aFltEmber (BitVec.ofNat 32 slot)).setFld aFltStat 31 30 2
        let crit := s.faults.critPend
        let s := { s with faults := { s.faults with snap := none, critPend := false, ember := true } }
        (if crit then s.requestStore .critical logPages else s).storeNext 1)

/-- The ember's header fields of R369 and its CRC are written again. -/
def State.rewriteHeader (s : State) : State :=
  let slot := s.emberSlot
  let s := (s.poke (recBase slot + 0x008) s.emberHead).sealRec slot
  let s := s.setBit aFltEmber 31 false
  { s with faults := { s.faults with rewrite := false } }

/-- HEADER_REWRITE (R290, R291); in a power-fail store only at the end of pass 1, after which pass 2 starts (R345). -/
def execHeaderRewrite (s : State) : Res :=
  .next (
    let wait := s.keeper.run.any (fun j => j.waitRewrite)
    if !s.fabricOn || s.fltState ≠ 2 || !(s.faults.rewrite || s.faults.critPend) || (s.keeper.locked && !wait) then s
    else
      let s := s.rewriteHeader
      let crit := s.faults.critPend
      let s := { s with faults := { s.faults with critPend := false } }
      let s := if crit then s.requestStore .critical logPages else s
      match s.keeper.run with
      | some j =>
        if j.waitRewrite then (s.setRun (some { j with waitRewrite := false, pass2 := true, left := s.pfOrder })).storeNext 1
        else s
      | none => s)

end Sys2Proof.Machine
end

