-- ==== Sys2Proof/Machine/Reserve.lean ====
section
/-! DEFINITION. The reserve pack: charger (R381 to R383), ORing and discharge limits (R384 to R389), protection events
(R390), the estimator over rational numbers (R392 to R399, log 6), learning, rests and the stored records (R400 to R408). -/

namespace Sys2Proof.Machine

/-! Settings -/

def State.setRsv (s : State) (v : Reserve) : State := { s with reserve := v }

/-- RSV_CFG.CELLS; RSV_ESTCFG.EN. -/
def State.cells (s : State) : Nat := s.fld aRsvCfg 27 24
def State.estEn (s : State) : Bool := s.bit aEstCfg 31
/-- VCV, VRCH, VOV and the precharge level, per cell in mV. -/
def State.vcv (s : State) : Nat := s.fld aRsvChg 27 16
def State.vrch (s : State) : Nat := s.fld aRsvChgT 31 24
def State.vov (s : State) : Nat := s.fld aRsvProt 31 20
def State.vpre (s : State) : Nat := 2000 + 10 * s.fld aRsvChgT 23 16
/-- RSV_REST.IREST in A, and RVIN in mV. -/
def State.irest (s : State) : Rat := (s.fld aRsvRest 23 16 : Rat) / 100
def State.rvin (s : State) : Nat := s.fld aRsvRest 15 0
/-- QLRN in Ah. -/
def State.qlrn (s : State) : Rat := (s.fld aSoh 15 0 : Rat) / 100
/-- The configuration set has been applied (R384). -/
def State.configured (s : State) : Bool :=
  match s.power.phase with | .configured | .loaded | .run | .powerFail => true | _ => false

/-! Temperature windows (R379, R390) -/

/-- The pack temperature in millionths of a °C, from the filtered AUX value. -/
def State.packTemp (s : State) : Option Int :=
  let p := 96 + s.fld aRsvCfg 22 19
  if s.bit aRsvCfg 23 && (s.filters[p]?.any (fun f => f.y.isSome)) then
    some (3125 * (s.fld (aVal p) 15 0 : Int) - 50000000)
  else none

/-- The temperature lies outside a window. -/
def windowOut (t lo hi : Int) : Bool := t < 1000000 * lo || 1000000 * hi < t

/-- A window bit: set outside, cleared back inside by 2 °C. -/
def windowBit (old : Bool) (t lo hi : Int) : Bool :=
  windowOut t lo hi || (old && !(1000000 * (lo + 2) ≤ t && t ≤ 1000000 * (hi - 2)))

/-- The temperature bits; TEMP sets each time a window is left, and the answer tells whether RESERVE is raised, a bit
having changed to 1 (R390). -/
def State.tempCheck (s : State) : State × Bool :=
  let v := s.reserve
  match s.packTemp with
  | none =>
    (if s.bit aRsvCfg 23 then s else s.setRsv { v with tchg := false, tdis := false, outC := false, outD := false }, false)
  | some t =>
    let b (hi lo : Nat) : Int := sgn 8 (s.fld aRsvTemp hi lo)
    let c := windowBit v.tchg t (b 31 24) (b 23 16)
    let d := windowBit v.tdis t (b 15 8) (b 7 0)
    let outC := windowOut t (b 31 24) (b 23 16)
    let outD := windowOut t (b 15 8) (b 7 0)
    let s := s.setRsv { v with tchg := c, tdis := d, outC := outC, outD := outD }
    (if (outC && !v.outC) || (outD && !v.outD) then s.orReg aRsvFlags (bitw 5) else s, (c && !v.tchg) || (d && !v.tdis))

/-! The stored records (R406) -/

/-- A magic at an address and the CRC-32 of the n bytes from it, stored behind them. -/
def State.recordOk (s : State) (a n : Nat) (magic : Word) : Bool :=
  s.sramWord a == magic && s.sramWord (a + n) == crc32 (s.bytes a n)

/-- Write a record and its CRC-32; refused once the power fails (R344). -/
def State.writeRecord (s : State) (a : Nat) (l : List Byte) : State :=
  if s.keeper.locked then s else s.poke a (l ++ wordBytes (crc32 l))

/-- A quotient of the estimator (log 6). -/
def ediv (x y : Rat) : Rat := if y = 0 then Config.estQuot x else x / y

/-- An integer as a 32-bit word. -/
def intWord (i : Int) : Word := BitVec.ofInt 32 i

/-- The state record. -/
def State.saveState (s : State) : State :=
  let v := s.reserve
  s.writeRecord 0x24000 (wordBytes 0x4B500030#32 ++ wordBytes (intWord (ratOpen (v.s * 100000000)))
    ++ wordBytes (intWord (ratOpen (v.v1 * 1000000))) ++ wordBytes (toBinary32 v.p11)
    ++ wordBytes (toBinary32 v.p12) ++ wordBytes (toBinary32 v.p22)
    ++ wordBytes (BitVec.ofNat 32 (s.fld aV1 15 0)) ++ timeBytes s.now ++ List.replicate 24 0)

/-- The capacity record of an accepted learning. -/
def State.saveCapacity (s : State) (q : Nat) : State :=
  let n := if s.recordOk 0x24400 28 0x4B500031#32 then s.sramWord 0x24408 + 1 else 1
  let t (x : Option Rat) : Byte := BitVec.ofInt 8 (ratOpen (x.getD 0))
  s.writeRecord 0x24400 (wordBytes 0x4B500031#32 ++ wordBytes (BitVec.ofNat 32 q) ++ wordBytes n ++ timeBytes s.now
    ++ [t s.reserve.tLo, t s.reserve.tHi] ++ List.replicate 6 0)

/-! The charger (R381, R382) -/

/-- Enter a charger state: ELAPSED and EMPTY (R399). -/
def State.setChg (s : State) (c : ChgState) : State :=
  let v := s.reserve
  let acc := v.elapsed + (match v.elapsedFrom with | some t => s.cycle - t | none => 0)
  let fresh := (c == .pre || c == .cc) && (v.chg == .wait || v.chg == .full)
  s.setRsv { v with
    chg := c, elapsed := if fresh then 0 else acc, elapsedFrom := if chgRuns c then some s.cycle else none
    empty := v.empty && !(c == .pre || c == .cc) }

/-- Enter FULL, where the estimator takes the pack as full (R395). -/
def State.chgFull (s : State) : State :=
  let s := s.setChg .full
  if s.estEn then (s.setRsv { s.reserve with s := 1, v1 := 0, p11 := 1 / 40000, p12 := 0 }).saveState else s

/-- RSV_CHGSTAT (R409): ELAPSED in minutes, saturating. -/
def State.chgStat (s : State) : Word :=
  let v := s.reserve
  let acc := v.elapsed + (match v.elapsedFrom with | some t => s.cycle - t | none => 0)
  put (put 0 31 29 v.chg.code) 15 0 (min (acc / 6000000000) 65535)

/-- What the reserve's conditions bring about in a cycle: a blocked pair is off, the charger is in OFF or WAIT where a
condition of R381 fails (R381, R389). FAULT is left by its flags or an enable alone (log 14). With it the raises of the
cycle's temperature bits. -/
def State.settleRsv (s : State) : State × List Raise :=
  let q := s.tempCheck
  let s := q.1
  let v := s.reserve
  let s := if v.orOn && (s.rsvBlock || !s.oringEn) then s.setRsv { v with orOn := false, ilim := false, ilimAt := none } else s
  let s :=
    if !s.chgEn then (if s.reserve.chg == .off then s else s.setChg .off)
    else match s.reserve.chg with
      | .off => s.setChg .wait
      | .pre | .cc | .cv | .full | .pause => if s.chgReady || s.reserve.rest then s else s.setChg .wait
      | .wait | .fault => s
  (s, if q.2 then [{ src := srcReserve }] else [])

/-- The end of a cycle of the reserve: its conditions act, and then the raises of the cycle, so that a snapshot shows
what the conditions have left (R288). -/
def State.rsvRaise (s : State) (l : List Raise) : State :=
  let q := s.settleRsv
  if (l ++ q.2).isEmpty then q.1 else q.1.raiseAll (l ++ q.2)

/-- The reserve's conditions act. -/
def State.rsvSettle (s : State) : State := s.rsvRaise []

/-- The flags that hold the charger in FAULT: COV, CHGTO, PRETO and SNSF. -/
def faultFlags : Word := 0x000001C8#32

/-- FAULT ends when its flags are clear and the cells are not above VOV (R382). -/
def State.chgRelease (s : State) : State :=
  if s.reserve.chg == .fault && s.reg aRsvFlags &&& faultFlags == 0 && !s.reserve.overV then s.setChg .wait else s

/-! ORing (R384 to R389) -/

/-- ORING_ON: the pair conducts where it is enabled and not blocked; the charger goes to WAIT (R381, R385, R400). -/
def execOringOn (s : State) : Res :=
  .next (if !s.oringEn || s.rsvBlock || s.reserve.orOn then s
    else
      let v := s.reserve
      let full := v.chg == .full
      let v := if full then { v with fullBefore := true, learn := false, qd := 0, tLo := none, tHi := none }
        else { v with fullBefore := false }
      (s.setRsv { v with orOn := true }).rsvSettle)

/-- The pair is off. -/
def State.pairOff (s : State) : State :=
  s.setRsv { s.reserve with orOn := false, ilim := false, ilimAt := none, fullBefore := false }

/-- ORING_OFF. -/
def execOringOff (s : State) : Res := .next (if s.reserve.orOn then s.pairOff.rsvSettle else s)

/-- SCOFF clears. -/
def State.rearm (s : State) : State := s.setRsv { s.reserve with scoff := false, rearmAt := none }

/-! The estimator's model (R393, R394) -/

/-- OCV point j per cell, in V. -/
def State.ocvPoint (s : State) (j : Nat) : Rat :=
  (s.fld (aOcv (j / 2)) (if j % 2 = 0 then 15 else 31) (if j % 2 = 0 then 0 else 16) : Rat) / 10000

/-- The segment that holds s: its lower point. -/
def segOf (x : Rat) : Nat := if x < 0 then 0 else min 19 (x * 20).floor.toNat

/-- slope of a segment, per unit of s. -/
def State.slopeAt (s : State) (x : Rat) : Rat := (s.ocvPoint (segOf x + 1) - s.ocvPoint (segOf x)) * 20

def State.ocv (s : State) (x : Rat) : Rat := s.ocvPoint (segOf x) + s.slopeAt x * (x - (segOf x : Rat) / 20)

/-- The integral of ocv from 0 to x, x from 0 to 1. -/
def State.ocvIntegral (s : State) (x : Rat) : Rat :=
  let k := segOf x
  ((List.range k).map (fun j => (s.ocvPoint j + s.ocvPoint (j + 1)) / 40)).foldl (· + ·) 0
    + (s.ocvPoint k + s.ocv x) / 2 * (x - (k : Rat) / 20)

/-- The state of charge at a cell voltage; the end segments extend (R407). -/
def State.ocvInverse (s : State) (u : Rat) : Rat :=
  let j := ((List.range 19).filter (fun j => s.ocvPoint (j + 1) ≤ u)).length
  (j : Rat) / 20 + ediv (u - s.ocvPoint j) (20 * (s.ocvPoint (j + 1) - s.ocvPoint j))

/-- r0 in Ω at a current of x A. -/
def State.r0 (s : State) (x : Rat) : Rat :=
  let f (a hi lo : Nat) : Rat := (s.fld a hi lo : Rat) / 100000
  let r0 := f aRsvR0A 31 16
  let r1 := f aRsvR0A 15 0
  let r3 := f aRsvR0B 31 16
  let r10 := f aRsvR0B 15 0
  if x < 1 then r0 + (r1 - r0) * x
  else if x < 3 then r1 + (r3 - r1) * (x - 1) / 2
  else if x < 10 then r3 + (r10 - r3) * (x - 3) / 7
  else r10

/-- Charge efficiency for a current or a charge of this sign. -/
def State.eta (s : State) (i : Rat) : Rat := if 0 < i then (s.fld aEstCfg 29 16 : Rat) / 10000 else 1

/-- exp(-1 s / tau) for a time constant in 0.1 s: the exponential within 2^-24, its rounding open (log 6). -/
def decay (tau : Nat) : Rat :=
  if tau = 0 then Config.estQuot 10
  else expNeg (10 / tau) + max (-1 / 2 ^ 24) (min (1 / 2 ^ 24) (Config.decayErr tau))

/-- The prediction step of R393 with a current in A: s, v1 and their covariance. -/
def State.predict (s : State) (i : Rat) : State :=
  let e := s.reserve
  let a := decay (s.fld aRsvRc 15 0)
  let r1 : Rat := (s.fld aRsvRc 31 16 : Rat) / 100000
  let qs : Rat := (s.fld aRsvNoise 31 24 : Rat) / 1000000
  let qv : Rat := (s.fld aRsvNoise 23 16 : Rat) / 10000
  s.setRsv { e with
    s := e.s + ediv (s.eta i * i) (3600 * s.qlrn), v1 := a * e.v1 + r1 * (1 - a) * i
    p11 := e.p11 + qs * qs, p12 := a * e.p12, p22 := a * a * e.p22 + qv * qv }

/-- The correction of R393 of what was predicted, with a current in A, a voltage in V and a measurement deviation in V. -/
def State.measure (s : State) (i v rm : Rat) : State :=
  let e := s.reserve
  let n : Rat := (s.cells : Rat)
  let h := n * s.slopeAt e.s
  let err := v - (n * s.ocv e.s + s.r0 (if i < 0 then -i else i) * i + e.v1)
  let sum := h * h * e.p11 + 2 * h * e.p12 + e.p22 + rm * rm
  let k1 := ediv (h * e.p11 + e.p12) sum
  let k2 := ediv (h * e.p12 + e.p22) sum
  let x := e.s + k1 * err
  s.setRsv { e with
    s := if x < -1 / 5 then -1 / 5 else if 6 / 5 < x then 6 / 5 else x
    v1 := e.v1 + k2 * err
    p11 := (1 - k1 * h) * e.p11 - k1 * e.p12, p12 := (1 - k1 * h) * e.p12 - k1 * e.p22
    p22 := (1 - k2) * e.p22 - k2 * h * e.p12 }

/-- One update of R393. -/
def State.kalman (s : State) (i v rm : Rat) : State := (s.predict i).measure i v rm

/-! Reports (R396, R398) -/

/-- FLOOR follows s; its change to 1 is a disagreement (R398), whose raise ends the cycle (`disagrees`). -/
def State.floorCheck (s : State) : State :=
  let v := s.reserve
  if v.s < 1 / 50 && !v.empty then
    if v.floor then s else (s.setRsv { v with floor := true }).orReg aRsvFlags (bitw 9)
  else s.setRsv { v with floor := false }

/-- The raise of a FLOOR that was 0 at the start of the cycle. -/
def State.disagrees (s : State) (was : Bool) : List Raise :=
  if s.reserve.floor && !was then [{ src := srcDisagree }] else []

/-- The reported quantities in the cycle after an update. -/
def State.report (s : State) (i v : Rat) : State :=
  let s := s.floorCheck
  let e := s.reserve
  let x := if e.s < 0 then 0 else if 1 < e.s then 1 else e.s
  let soc : Nat := if e.floor then 200 else (ratOpen (x * 10000)).toNat
  let s := s.setReg aSoc (put (put 0 15 0 soc) 31 16 (min (rootOpen (e.p11 * 100000000)) 65535))
  let energy := ((s.cells : Rat) * s.qlrn * s.ocvIntegral ((soc : Rat) / 10000) * 10).floor.toNat
  let s := s.setReg aEnergy (BitVec.ofNat 32 energy)
  let watt := v * (-i)
  let avg : Rat := match e.power with
    | some old => old + (watt - old) * (1 - decay 100)
    | none => watt
  let s := s.setRsv { e with power := if e.supply then some avg else none }
  let s := s.setReg aRuntime (if e.supply then BitVec.ofNat 32 (ediv ((energy : Rat) / 10 * 3600) avg).floor.toNat else 0xFFFFFFFF#32)
  let soh := (ratOpen (ediv (10000 * s.qlrn) ((s.fld aEstCfg 15 0 : Rat) / 100))).toNat
  let s := s.setFld aSoh 31 16 (min soh 65535)
  let u := ratOpen (e.v1 * 10000)
  s.setFld aV1 31 16 (if -32768 ≤ u ∧ u < 32768 then unsgn 16 u else Config.v1Over u)

/-! Start of the estimator (R407) -/

/-- A stored variance; an unstated number for the pattern of an infinity or a NaN (log 6). -/
def storedRat (w : Word) : Rat := (fromBinary32 w).getD (Config.estQuot w.toNat)

/-- The invalid-state-record case. -/
def State.estReinit (s : State) : State :=
  let u := ediv ((s.last 114).toNat / 1000) (s.cells : Rat)
  (s.setRsv { s.reserve with s := s.ocvInverse u, v1 := 0, p11 := 1 / 25, p12 := 0, p22 := 1 / 10000, reinit := false }).orReg
    aRsvFlags (bitw 14)

/-- QLRN and LEARNED without a valid capacity record. -/
def State.forgetCapacity (s : State) : State :=
  (s.setRsv { s.reserve with learned := false }).setFld aSoh 15 0 (s.fld aEstCfg 15 0)

/-- Whole ampere-hours in and out count (R408), for a second at a current of i A. -/
def State.ampHours (s : State) (i : Rat) : State :=
  let v := s.reserve
  let out := v.outAh + (if i < 0 then -i / 3600 else 0)
  let inn := v.inAh + (if 0 < i then i / 3600 else 0)
  let s := s.setRsv { v with outAh := out - out.floor, inAh := inn - inn.floor }
  let s := s.forAll (List.range out.floor.toNat) (fun s _ => s.count 8)
  s.forAll (List.range inn.floor.toNat) (fun s _ => s.count 9)

/-- The estimator reads both records (R407), and applies the net charge of the time in which the device did not run as one
prediction step: with the current that carries it in 1 s (R392, R408; log 6). The first second starts. -/
def State.estStart (s : State) : State :=
  let s := if s.recordOk 0x24400 28 0x4B500031#32 then
      (s.setRsv { s.reserve with learned := true }).setFld aSoh 15 0 (s.sramWord 0x24404).toNat
    else s.forgetCapacity
  let s := s.setRsv { s.reserve with
    evalid := false, secs := 0, power := none, tickAt := s.timer 100000000, quietFrom := none
    iSum := 0, iCnt := 0, vSum := 0, vCnt := 0, last5 := [] }
  let out := s.reserve.offOut
  let inn := s.reserve.offIn
  let s := if s.recordOk 0x24000 60 0x4B500030#32 then
      let p11 := storedRat (s.sramWord 0x2400C)
      let s := s.setRsv { s.reserve with
        s := ((s.sramWord 0x24004).toInt : Rat) / 100000000
        v1 := ((s.sramWord 0x24008).toInt : Rat) / 1000000
        p11 := if p11 < 1 / 2500 then 1 / 2500 else p11
        p12 := storedRat (s.sramWord 0x24010), p22 := storedRat (s.sramWord 0x24014) }
      let s := s.setFld aV1 15 0 (s.sramWord 0x24018).toNat
      if out = 0 ∧ inn = 0 then s else s.predict (inn - out)
    else s.estReinit
  ((s.ampHours (-out)).ampHours inn).setRsv { ((s.ampHours (-out)).ampHours inn).reserve with offOut := 0, offIn := 0 }

/-! Conversions of the pack and of VIN (R392, R396, R400, R402 to R404) -/

/-- A reading of the pack current in A: SUPPLY, and the start of a discharge that may qualify for learning. -/
def State.setSupply (s : State) (i : Rat) : State :=
  let v := s.reserve
  let on := s.irest < -i
  let begins := on && !v.supply && v.orOn && v.fullBefore && s.bit aRsvCfg 23
  s.setRsv { v with supply := on, learn := v.learn || begins }

/-- A conversion of the pack current, in 0.5 mA: the second's sum, the quiet time, and the time for which a current above
IREST flows into the pack; a whole second of that ends the qualification (R400). -/
def State.currentSample (s : State) (x : Int) : State :=
  let i : Rat := x / 2000
  let s := s.setSupply i
  let v := s.reserve
  let charging := if s.irest < i then v.inFrom.or (some s.cycle) else none
  s.setRsv { v with
    iSum := v.iSum + x, iCnt := v.iCnt + 1, inFrom := charging
    quietFrom := if -s.irest ≤ i && i ≤ s.irest then v.quietFrom.or (some s.cycle) else none
    learn := v.learn && !charging.any (fun t => t + 100000000 ≤ s.cycle) }

/-- A conversion of the pack voltage, in mV: PRESENT, and the second's sum. -/
def State.voltageSample (s : State) (x : Int) : State :=
  let v := s.reserve
  s.setRsv { v with present := 2000 * (s.cells : Int) ≤ x, vSum := v.vSum + x, vCnt := v.vCnt + 1 }

/-- A conversion of VIN, in mV: the time for which it has been at or above RVIN; below it a scheduled rest is aborted
(R403, R404). -/
def State.vinSample (s : State) (x : Int) : State :=
  let v := s.reserve
  if (s.rvin : Int) ≤ x then s.setRsv { v with vinFrom := v.vinFrom.or (some s.cycle) }
  else (s.setRsv { v with vinFrom := none }).restAbort

/-! Rest updates and the second's tick -/

/-- The means of the second that ends, in A and V, and the voltages of the last five seconds. -/
def State.closeSecond (s : State) : State :=
  let v := s.reserve
  s.setRsv { v with
    iMean := ediv v.iSum (2000 * v.iCnt), vMean := ediv v.vSum (1000 * v.vCnt)
    last5 := ((v.vSum, v.vCnt) :: v.last5).take 5, iSum := 0, iCnt := 0, vSum := 0, vCnt := 0 }

/-- The mean of every pack voltage conversion of the last five seconds, in V (R402). -/
def State.restVolts (s : State) : Rat :=
  let l := s.reserve.last5
  ediv ((l.map (·.1)).sum : Int) (1000 * (l.map (·.2)).sum : Nat)

/-- A rest update: the update with the mean of the last 5 s and RREST; the minutes of RESTAGE start again (R402). -/
def State.restUpdate (s : State) : State :=
  let s := s.kalman s.reserve.iMean s.restVolts ((s.fld aRsvNoise 7 0 : Rat) / 1000)
  ((s.setRsv { s.reserve with secs := 0 }).setFld aV1 15 0 0).saveState

/-- The qualification by temperature and the charge of the present discharge (R400). -/
def State.learnTick (s : State) (i : Rat) : State :=
  let v := s.reserve
  let t : Option Rat := s.packTemp.map (fun x => (x : Rat) / 1000000)
  let lo := match v.tLo, t with | some a, some x => some (min a x) | none, x => x | a, none => a
  let hi := match v.tHi, t with | some a, some x => some (max a x) | none, x => x | a, none => a
  s.setRsv { v with
    learn := v.learn && t.any (fun x => 10 ≤ x && x ≤ 40), qd := v.qd + (if i < 0 then -i / 3600 else 0)
    tLo := lo, tHi := hi }

/-- R403 is met at this tick. -/
def State.restDue (s : State) : Bool :=
  let v := s.reserve
  s.bit aRsvRest 31 && (1440 ≤ s.fld aV1 15 0 || v.restNow) && v.vinFrom.any (fun t => t + 1000000000 ≤ s.cycle)
    && !s.bit aMonVin 1 && s.hintLeft.all (fun n => decide (30000000 ≤ roundOpen n 100)) && v.chg != .fault && !v.empty
    && !v.scoff && v.restAbortAt.all (fun t => t + 360000000000 ≤ s.cycle) && !v.rest

/-- A scheduled rest starts: the pair is blocked and the charger pauses (R404). -/
def State.startRest (s : State) : State :=
  let v := s.reserve
  let s := s.setRsv { v with
    rest := true, restNow := false, paused := v.chg, restAt := s.timer 3000000000, orOn := false, ilim := false
    ilimAt := none }
  if chgRuns v.chg || v.chg == .full then s.setChg .pause else s

/-- The estimator's count of one second: the minute of RESTAGE (R402). -/
def State.estSecond (s : State) : State :=
  let v := s.reserve
  let minute := v.secs + 1 = 60
  let s := s.setRsv { v with secs := if minute then 0 else v.secs + 1 }
  if minute then s.setFld aV1 15 0 (satInc 16 (s.fld aV1 15 0)) else s

/-- The update of a tick: a rest update after 30 s within IREST, at most one in 30 s (R402, log 6), else that of R393.
At the end of a scheduled rest it is SCHEDULED_REST_END's (R405, log 6). -/
def State.estUpdate (s : State) : State :=
  let v := s.reserve
  if v.rest && v.restAt.any (fun t => t ≤ s.cycle) then s
  else if v.quietFrom.any (fun t => t + 3000000000 ≤ s.cycle) then
    (s.setRsv { v with quietFrom := some s.cycle }).restUpdate
  else s.kalman v.iMean v.vMean ((s.fld aRsvNoise 15 8 : Rat) / 1000)

/-- ESTIMATOR_STATE_SAVE (R406). -/
def execEstimatorStateSave (s : State) : Res :=
  .next (if s.estEn && s.power.phase == .run && s.fabricOn then s.saveState else s)

/-- The end of a discharge in the cutoff: an accepted charge becomes QLRN (R401). -/
def State.learnEnd (s : State) : State :=
  let v := s.reserve
  if !v.learn then s
  else
    let nom : Rat := (s.fld aEstCfg 15 0 : Rat) / 100
    let s := s.setRsv { v with learn := false, fullBefore := false }
    if nom / 2 ≤ v.qd && v.qd ≤ nom * 11 / 10 then
      let q := (ratOpen (v.qd * 100)).toNat
      let s := (s.setFld aSoh 15 0 q).saveCapacity q
      ((s.setRsv { s.reserve with learned := true }).orReg aRsvFlags (bitw 10)).count 11
    else s.orReg aRsvFlags (bitw 11)

/-! The causes of one cycle (R388, R390, R391) -/

/-- The order of R391. -/
def rsvRank : RsvCause → Nat
  | .shortTrip | .limitTimeout => 1
  | .cutoff => 2
  | .abort => 3
  | .overvoltage => 4
  | .rearm | .autoRearm => 5
  | .restEnd => 6

/-- A cycle of the reserve: its raises, and whether the pair has tripped in it. -/
structure RsvCyc where
  s : State
  raises : List Raise := []
  tripped : Bool := false
  soc : Option Nat := none         -- reported SOC of the cycle before, where the cycle has already changed it (R397)

/-- What the cycle's cause does to the state. -/
def RsvCyc.map (c : RsvCyc) (f : State → State) : RsvCyc := { c with s := f c.s }

/-- What the cycle's cause does, with a raise. -/
def RsvCyc.with (c : RsvCyc) (n : Nat) (f : State → State) : RsvCyc := { c with s := f c.s, raises := c.raises ++ [{ src := n }] }

/-- SCOFF, with the automatic re-arm of AUTOR (R388). -/
def State.tripPair (s : State) (flag : Nat) : State :=
  let n := s.fld aRsvOring 7 0
  let s := s.pairOff
  let s := s.setRsv { s.reserve with scoff := true, rearmAt := if n = 0 then none else s.timer (100000000 * n) }
  s.orReg aRsvFlags (bitw flag)

/-- A trip of the pair. -/
def RsvCyc.trip (c : RsvCyc) (flag : Nat) : RsvCyc :=
  { c.with srcReserve (fun s => s.tripPair flag) with tripped := true }

/-- The cutoff (R397, R401). -/
def RsvCyc.cutoff (c : RsvCyc) : RsvCyc :=
  let s := c.s
  if !s.rsvEn || !s.reserve.supply then c
  else
    let soc := c.soc.getD (s.fld aSoc 15 0)
    let bad := 100 * s.fld aRsvProt 7 0 < soc
    let c := c.with srcReserve (fun s =>
      let s := s.learnEnd
      let s := s.setRsv { s.reserve with empty := true, floor := false, s := 0, orOn := false, ilim := false, ilimAt := none }
      let s := (s.orReg aRsvFlags (bitw 4)).setFld aSoc 15 0 0
      if s.estEn && s.power.phase == .run then s.saveState else s)
    if bad then c.with srcDisagree (fun s => s.orReg aRsvFlags (bitw 9)) else c

/-- The over-voltage (R382, R390). -/
def RsvCyc.overvoltage (c : RsvCyc) : RsvCyc :=
  if !c.s.rsvEn then c
  else c.with srcReserve (fun s =>
    let s := s.setRsv { s.reserve with overV := true }
    let s := if s.reserve.chg == .off then s else s.setChg .fault
    s.orReg aRsvFlags (bitw 3))

/-- The completion of a scheduled rest: the rest update, and the charger back in the state it left (R405). A second that no
tick has ended yet counts with its conversions. -/
def RsvCyc.restEnd (c : RsvCyc) : RsvCyc :=
  let s := c.s
  if !s.reserve.rest then c
  else
    let s := if !s.estEn then s
      else
        let s := if s.reserve.vCnt = 0 then s else s.closeSecond
        let s := s.restUpdate
        s.report s.reserve.iMean s.reserve.vMean
    let s := (s.setRsv { s.reserve with rest := false, restAt := none }).endPause
    { c with
      s := (s.orReg aRsvFlags (bitw 13)).count 10
      raises := c.raises ++ s.disagrees c.s.reserve.floor }

/-- One cause: a REARM or a re-arm by AUTOR in the cycle of a trip leaves SCOFF set (R388). -/
def RsvCyc.cause (c : RsvCyc) : RsvCause → RsvCyc
  | .shortTrip => if c.s.oringEn then c.trip 1 else c
  | .limitTimeout => if c.s.reserve.ilimAt.isSome then c.trip 2 else c
  | .cutoff => c.cutoff
  | .abort => c.map State.restAbort
  | .overvoltage => c.overvoltage
  | .rearm => if c.tripped then c else c.map State.rearm
  | .autoRearm => if c.tripped || c.s.reserve.rearmAt.isNone then c else c.map State.rearm
  | .restEnd => c.restEnd

/-- The causes of a cycle below rank `top` in the order of R391: those told beside the command, and its own of rank `rank`. -/
def RsvCyc.order (c : RsvCyc) (co : List RsvCause) (rank : Nat) (own : RsvCyc → RsvCyc) (top : Nat) : RsvCyc :=
  (List.range top).foldl (fun c r =>
    (co.filter (fun x => rsvRank x == r)).foldl RsvCyc.cause (if r = rank then own c else c)) c

/-- The raises of the cycle so far latch a first fault, which aborts a scheduled rest (R404). -/
def RsvCyc.latches (c : RsvCyc) : Bool :=
  c.s.powered && (firstOf c.s.fltState (c.s.judgedAll c.raises)).isSome

/-- The cycle of the reserve, begun with `c`, in which a cause of rank `rank` acts beside those of `co` (R391). A first fault
that the trips, the cutoff, the over-voltage or what `c` brings latches aborts a rest ahead of its completion. -/
def RsvCyc.run (c : RsvCyc) (co : List RsvCause) (rank : Nat) (own : RsvCyc → RsvCyc) : State :=
  let e := c.order co rank own 6
  let d := c.order (if c.s.reserve.rest && e.latches then .abort :: co else co) rank own 8
  d.s.rsvRaise d.raises

/-- The cycle of the reserve whose cause the command is. -/
def State.rsvCycle (s : State) (co : List RsvCause) (rank : Nat) (own : RsvCyc → RsvCyc) : State :=
  RsvCyc.run { s := s } co rank own

/-- The cycle of a cause of R391. -/
def State.rsvCause (s : State) (co : List RsvCause) (x : RsvCause) : State := s.rsvCycle co (rsvRank x) (fun c => c.cause x)

/-! Charger commands -/

/-- The charger at a per-cell voltage. It switches only in RUN and DOZE, so PRE and CC are entered there (R381). -/
def RsvCyc.charger (c : RsvCyc) (cellMv : Nat) : RsvCyc :=
  let q := (c.s.setRsv { c.s.reserve with present := 2000 ≤ cellMv, overV := c.s.vov < cellMv }).settleRsv
  let s := q.1.chgRelease
  { c with
    raises := c.raises ++ q.2
    s := match s.reserve.chg with
      | .wait =>
        if !s.chgReady then s
        else if s.vpre ≤ cellMv ∧ s.vcv ≤ cellMv + s.vrch then s.chgFull
        else if !s.awake then s
        else if cellMv < s.vpre then s.setChg .pre
        else s.setChg .cc
      | .pre => if s.vpre ≤ cellMv then s.setChg .cc else s
      | .cc => if s.vcv ≤ cellMv then s.setChg .cv else s
      | .full => if cellMv + s.vrch < s.vcv && s.awake then s.setChg .cc else s
      | _ => s }

/-- CHARGER_TRANSITION. -/
def execChargerTransition (cellMv : Nat) (co : List RsvCause) (s : State) : Res :=
  .next (s.rsvCycle co 7 (fun c => c.charger cellMv))

/-- The charger faults with a flag. -/
def RsvCyc.chgFault (c : RsvCyc) (bit : Nat) : RsvCyc :=
  c.with srcCharger (fun s => (s.setChg .fault).orReg aRsvFlags (bitw bit))

/-- PRECHARGE_TIMEOUT. -/
def execPrechargeTimeout (co : List RsvCause) (s : State) : Res :=
  .next (s.rsvCycle co 7 (fun c => if c.s.reserve.chg == .pre then c.chgFault 7 else c))

/-- CHARGE_TIMEOUT: ELAPSED has reached 10 × TCHG minutes. -/
def execChargeTimeout (co : List RsvCause) (s : State) : Res :=
  .next (s.rsvCycle co 7 (fun c =>
    if chgRuns c.s.reserve.chg then
      (c.chgFault 6).map (fun s =>
        s.setRsv { s.reserve with elapsed := max s.reserve.elapsed (60000000000 * s.fld aRsvChgT 7 0) })
    else c))

/-- CHARGE_TERMINATION. -/
def execChargeTermination (co : List RsvCause) (s : State) : Res :=
  .next (s.rsvCycle co 7 (fun c => if c.s.reserve.chg == .cv then c.map State.chgFull else c))

/-- SENSE_FAULT. -/
def execSenseFault (co : List RsvCause) (s : State) : Res :=
  .next (s.rsvCycle co 7 (fun c => if c.s.reserve.chg == .cc || c.s.reserve.chg == .cv then c.chgFault 8 else c))

/-- PACK_OVERVOLTAGE (R382, R390). -/
def execPackOvervoltage (co : List RsvCause) (s : State) : Res := .next (s.rsvCause co .overvoltage)

/-! Trips and re-arms (R386 to R388) -/

/-- DISCHARGE_LIMIT_CHANGE (R386). A TLIM of 0 allows no time in the limit (R15). -/
def execDischargeLimitChange (limiting : Bool) (s : State) : Res :=
  .next (if !s.reserve.orOn || s.reserve.ilim == limiting then s
    else
      let n := s.fld aRsvOring 15 8
      let s := s.setRsv { s.reserve with ilim := limiting, ilimAt := if limiting then s.timer (100000 * n) else none }
      if limiting && n == 0 then s.rsvCause [] .limitTimeout else s)

/-- CURRENT_LIMIT_TIMEOUT (R386). -/
def execCurrentLimitTimeout (co : List RsvCause) (s : State) : Res := .next (s.rsvCause co .limitTimeout)

/-- SHORT_CIRCUIT_TRIP (R387). -/
def execShortCircuitTrip (co : List RsvCause) (s : State) : Res := .next (s.rsvCause co .shortTrip)

/-- AUTO_REARM (R388). -/
def execAutoRearm (co : List RsvCause) (s : State) : Res := .next (s.rsvCause co .autoRearm)

/-- REARM: LOCK_CFG does not refuse it (R380, R388). -/
def execRearm (_who : Who) (co : List RsvCause) (s : State) : Res := .next (s.fab (fun s => s.rsvCause co .rearm))

/-! The second's tick, the rest and the cutoff -/

/-- The update of the estimator's second, and the raise it brings. -/
def State.estTick (s : State) : RsvCyc :=
  let was := s.reserve.floor
  let soc := s.fld aSoc 15 0
  let s := s.closeSecond
  let s := (if s.reserve.reinit then s.estReinit else s).estSecond.estUpdate
  let i := s.reserve.iMean
  let s := s.setRsv { s.reserve with evalid := true }
  let s := ((s.learnTick i).ampHours i).report i s.reserve.vMean
  { s := s, raises := s.disagrees was, soc := some soc }

/-- The estimator's second while the device runs. A rest that becomes due starts after the raises of the tick (R391),
and is part of a snapshot that the tick takes (R288). -/
def State.estRun (s : State) (co : List RsvCause) : State :=
  let t := s.estTick.run co 0 id
  if t.restDue then t.startRest.resnap s.fltState else t

/-- ESTIMATOR_TICK: an update while the fabric runs, at the end of a wake at the latest (R530); in input-low, in a boot, in
reset and in a power fail the always-on domain's integration of the current that it measures, and SUPPLY (R392, R396,
R397). -/
def execEstimatorTick (aoMa : Int) (co : List RsvCause) (s : State) : Res :=
  .next (
    let i : Rat := aoMa / 1000
    if s.asleep && !s.fabricOn then s
    else
      let s := if s.estEn then s.setRsv { s.reserve with tickAt := s.timer 100000000 } else s
      if s.power.phase == .run then (if s.estEn then s.estRun co else s.rsvCycle co 0 id)
      else
        let v := s.reserve
        State.rsvCycle (s.setRsv { v with
          supply := s.irest < -i
          offOut := v.offOut + (if s.estEn && i < 0 then -i else 0)
          offIn := v.offIn + (if s.estEn && 0 < i then i else 0) }) co 0 id)

/-- SCHEDULED_REST_END (R405). -/
def execScheduledRestEnd (co : List RsvCause) (s : State) : Res := .next (s.rsvCause co .restEnd)

/-- CUTOFF (R397, R401). -/
def execCutoff (co : List RsvCause) (s : State) : Res := .next (s.rsvCause co .cutoff)

/-! Commands and writes -/

/-- A write of an RSV_ register is refused (R380). -/
def State.rsvRefuse (s : State) : State := s.orReg aRsvFlags (bitw 0)

/-- RESTNOW (R403). -/
def execRestnow (_who : Who) (s : State) : Res :=
  .next (s.fab (fun s => if s.lockCfg then s.rsvRefuse else s.setRsv { s.reserve with restNow := true }))
/-- REINIT (R407). -/
def execReinit (_who : Who) (s : State) : Res :=
  .next (s.fab (fun s => if s.lockCfg then s.rsvRefuse else s.setRsv { s.reserve with reinit := true }))

/-- CLRLRN (R407). -/
def State.clrLrn (s : State) : State :=
  let s := s.forgetCapacity
  if s.keeper.locked then s else s.poke 0x24400 [0, 0, 0, 0]
/-- CLRLRN. -/
def execClrlrn (_who : Who) (s : State) : Res := .next (s.fab (fun s => if s.lockCfg then s.rsvRefuse else s.clrLrn))

/-- The OCV points rise with j (R394). -/
def State.ocvRises (s : State) : Bool := (List.range 20).all (fun j => s.ocvPoint j < s.ocvPoint (j + 1))

/-- A write of RSV_ESTCFG, and whether it is accepted (R380, R394, R407). An enable that is set before RUN acts as one
that a start has loaded: the estimator starts with RUN. -/
def State.estCfg (s : State) (v : Word) : State × Bool :=
  let v := v &&& 0xBFFFFFFF#32
  let old := s.reg aEstCfg
  let range := 9000 ≤ wfld v 29 16 && wfld v 29 16 ≤ 10000 && 1 ≤ wfld v 15 0
  if s.lockCfg || (tst old 31 && v != setb old 31 false) || !range || (tst v 31 && !s.ocvRises) then (s.rsvRefuse, false)
  else
    let s := s.setReg aEstCfg v
    if tst v 31 && !tst old 31 then (if s.power.phase == .run then s.estStart else s, true)
    else if tst v 31 then (s, true)
    else (s.setRsv { s.reserve with evalid := false, tickAt := none }, true)

/-- ESTCFG_WRITE. -/
def execEstcfgWrite (_who : Who) (v : Word) (s : State) : Res := .next (s.fab (fun s => (s.estCfg v).1))

/-- A W1C write of RSV_FLAGS: it releases the charger from FAULT when the flags are clear (R382, R409). -/
def State.rsvFlags (s : State) (v : Word) : State := ((s.clrReg aRsvFlags (v &&& 0x7FFF#32)).chgRelease).rsvSettle

/-- RSV_FLAGS_WRITE: a bit that the device sets in the same cycle ends set (R11). -/
def execRsvFlagsWrite (_who : Who) (v hw : Word) (s : State) : Res := .next (s.fab (fun s => s.rsvFlags (v &&& ~~~hw)))

end Sys2Proof.Machine
end

