-- ==== Sys2Proof/Machine/Telemetry.lean ====
section
/-! DEFINITION. Telemetry: the scan, filters, the raw capture and its freeze, on-demand conversions, the digital cover,
and the loop-health engine (R113, R124 to R166). -/

namespace Sys2Proof.Machine

def State.setScan (s : State) (c : Scan) : State := { s with scan := c }

/-! Results (R125) -/

/-- RSV_CFG.RS in mΩ. -/
def State.shunt (s : State) : Nat := s.fld aRsvCfg 7 0

/-- The conversion result of a code before saturation. RS is 1 to 50 in a configuration (R380); before one is loaded it is 0,
for which R125 gives no quotient: the pack current is then unstated (DESIGN CHOICE, log 9). -/
def State.rawResult (s : State) (p : Nat) (c : Nat) : Int :=
  let rail (n : Nat) : Int := roundNear (2 ^ s.fld (aChCfg n) 6 5 * c : Nat) 8
  if p < 16 then rail p
  else if p < 32 then roundNear c (if kind (p - 16) = 1 then 4 else 8)
  else if p < 48 ∨ (117 ≤ p ∧ p ≤ 120) then roundNear (5 * (c : Int) - 87408) 20
  else if p < 96 then rail (p - 32)
  else if p < 112 ∨ 121 ≤ p then c
  else if p = 116 then roundNear c 4
  else if p = 115 then if s.shunt = 0 then Config.noShunt c else roundNear (((c : Int) - 32768) * 3125) (1000 * s.shunt)
  else roundNear c 2

/-- Saturate at the limits of the point's result format. -/
def ptSat (p : Nat) (v : Int) : Int := if ptSigned p then clip (-32768) 32767 v else clip 0 65535 v

/-- A stored result as a number in its point's format. -/
def ptVal (p : Nat) (w : Nat) : Int := if ptSigned p then sgn 16 w else w

/-- The conversion result of a code. -/
def State.result (s : State) (p : Nat) (c : BitVec 16) : Int := ptSat p (s.rawResult p c.toNat)

/-! Filters (R133, R134) -/

/-- The value of y as a result: nearest, halves upward, saturated. -/
def yResult (p : Nat) (y : Int) : Int := ptSat p ((y + 2 ^ 23) / 2 ^ 24)

/-- MIN and MAX follow an output. -/
def State.minMax (s : State) (p : Nat) (v : Int) : State :=
  let s := if v < ptVal p (s.fld (aMm p) 15 0) then s.setFld (aMm p) 15 0 (unsgn 16 v) else s
  if ptVal p (s.fld (aMm p) 31 16) < v then s.setFld (aMm p) 31 16 (unsgn 16 v) else s

/-- A conversion result feeds its point's filter, LAST and PEAK. -/
def State.feed (s : State) (p : Point) (x : Int) : State :=
  let s := s.setFld (aLast p) 15 0 (unsgn 16 x)
  let s := if ptVal p (s.fld (aLast p) 31 16) < x then s.setFld (aLast p) 31 16 (unsgn 16 x) else s
  let f := s.filters[p]
  let avg := s.fld (aFilt p) 19 16
  let set (s : State) (f : PointFilter) : State := { s with filters := s.filters.set p f }
  if f.cnt + 1 < 2 ^ avg then set s { f with sum := f.sum + x, cnt := f.cnt + 1 }
  else
    let b : Int := (f.sum + x) * 2 ^ 24 / 2 ^ avg
    let y : Int := match f.y with
      | none => b
      | some y => y + (b - y) / 2 ^ s.fld (aFilt p) 15 12
    let v := yResult p y
    let out := s.fld (aFilt p) 7 0 ≤ f.dec
    let s := set s { sum := 0, cnt := 0, y := some y, dec := if out then 0 else f.dec + 1 }
    (if out then s.setFld (aVal p) 15 0 (unsgn 16 v) else s).minMax p v

/-! The digital cover (R113, R129) -/

/-- What a comparator that shows `out` shows for a sample. -/
def cmpJudge (above out : Bool) (thr hyst code : Int) : Bool :=
  if above then (if out then thr - hyst ≤ code else thr < code)
  else (if out then code ≤ thr + hyst else code < thr)

/-- A sample of a covered point of an isolated bank acts as its comparator would (R113). Where the UV reference has switched
without blanking, the first sample tells the output against the new one (log 4). -/
def Cyc.coverSample (c : Cyc) (p : Point) (code : BitVec 16) : Cyc :=
  let b := c.s.testBank
  if !c.s.bit aStStat 31 || p.val < coverBase b || coverBase b + 16 ≤ p.val then c
  else
    let i : Fin 16 := Fin.ofNat 16 (p.val - coverBase b)
    let out := c.s.cmpOut b i
    let t := c.s.cmpThr b i
    let now := cmpJudge (bankAbove b) out t.1 t.2 code.toNat
    let off := b == 10 && c.s.fld (aMonAux i) 9 0 == 0
    let rail := c.s.bankRail b i
    let fresh := rail.any (fun r => b == bankUv r && (c.s.ch r).uvNew)
    if !c.s.cmpUsed b i || off || (now == out && !fresh) then c
    else
      let mark := now != out && !c.s.cmpBlank b i
      let c := c.cmpLevel b i now
      if mark then c.map (fun s => s.coverMark b rail) else c

/-! Conversions (R127 to R130, R146, R155) -/

/-- A boost entry's enable bit and its point. -/
def Frame.entryOn (f : Frame) (e : Nat) : Bool := tst ((f.boost[e / 4]?).getD 0) (8 * (e % 4) + 7)
def Frame.entryPt (f : Frame) (e : Nat) : Nat := wfld ((f.boost[e / 4]?).getD 0) (8 * (e % 4) + 6) (8 * (e % 4))

/-- A point lies in the cover bank of a frame. -/
def Frame.covers (f : Frame) (p : Nat) : Bool := coverBase f.cover ≤ p && p < coverBase f.cover + 16

/-- A boost entry boosts its point: it is enabled, no lower enabled entry names the point, and the point is not covered
(R130). -/
def Frame.boosts (f : Frame) (e : Nat) : Bool :=
  f.entryOn e && !f.covers (f.entryPt e) && !(List.range e).any (fun d => f.entryOn d && f.entryPt d == f.entryPt e)

/-- The point of the further sample in frame word 124 + w, and whether the sample feeds it (R127, R130). -/
def Frame.further (f : Frame) (w : Nat) : Nat × Bool :=
  if w < 48 then (coverBase f.cover + w / 3, true)
  else if w < 114 then (f.entryPt ((w - 48) / 3), f.boosts ((w - 48) / 3))
  else (if w = 114 then 112 else 116, true)

/-- Word w of a frame, not yet converted, takes a code; none where it has one. -/
def Frame.take (f : Frame) (w : Nat) (code : BitVec 16) : Option Frame :=
  if h : w < 256 then (if (f.words[w]).isSome then none else some { f with words := f.words.set w (some code) }) else none

/-- Word 240 + w of a frame takes a loop-health code: in time order, so after every word that has one (R127). -/
def Frame.takeLoop (f : Frame) (w : Fin 16) (code : BitVec 16) : Option Frame :=
  if (List.finRange 16).any (fun i => w < i && ((f.words[240 + i.val]?).getD none).isSome) then none
  else f.take (240 + w.val) code

/-- The point that ADC15 samples for frame word 240 + w (R155). -/
def lhPoint (r : Rail) (w : Fin 16) : Nat := if isExt r || w.val % 2 == 0 then voltPoint r else r + 16

/-- The run of codes in progress takes one. -/
def LhRun.add (x : LhRun) (amps : Bool) (code : BitVec 16) : LhRun :=
  if amps then { x with amps := x.amps ++ [code] } else { x with volts := x.volts ++ [code] }

/-- The engine captures a code in PHASE 2. -/
def State.lhCapture (s : State) (amps : Bool) (code : BitVec 16) : State :=
  match s.lh.runs.getLast? with
  | some x =>
    if s.fld aLhStat 24 23 = 2 then { s with lh := { s.lh with runs := s.lh.runs.dropLast ++ [x.add amps code] } } else s
  | none => s

/-- The scanner's word of a conversion: the state that holds its code, and whether it feeds its point; none where the
frame has no such conversion. A further sample that feeds its point follows the base sample (R128); one of an entry that
acts as disabled has no place in time of its own (R130). -/
def State.takeWord (s : State) (p : Point) (code : BitVec 16) (kind : ConvKind) : Option (State × Bool) :=
  let c := s.scan
  match kind with
  | .onDemand => if c.running = some p then some (s, true) else none
  | .base =>
    if !c.inFrame then none
    else (c.cur.take p.val code).map (fun f => ({ s with scan := { c with cur := f } }, true))
  | .extra w late =>
    let f := if late then c.prev else c.cur
    let q := f.further w.val
    if (!late && !c.inFrame) || q.1 != p.val || (q.2 && ((f.words[q.1]?).getD none).isNone) then none
    else (f.take (124 + w.val) code).map (fun f =>
      ({ s with scan := if late then { c with prev := f } else { c with cur := f } }, q.2))
  | .loop w =>
    let r := s.lhRail
    if !s.lhBusy || lhPoint r w != p.val then none
    else
      let s := s.lhCapture (p.val != voltPoint r) code
      if !c.inFrame then some (s, false)
      else (c.cur.takeLoop w code).map (fun f => ({ s with scan := { c with cur := f } }, false))

/-- A reference's base sample (R150). -/
def State.refSample (s : State) (p : Point) (code : BitVec 16) : State :=
  let judge (i : Fin 3) (nom : Nat) : State :=
    let bad : Bool := 2 * nom < 1000 * ((code.toNat : Int) - nom).natAbs
    let n := if bad then min (s.scan.refBad[i] + 1) 16 else 0
    { s with scan := { s.scan with refBad := s.scan.refBad.set i n } }
  match p.val with
  | 121 => judge 0 16000
  | 122 => judge 1 48000
  | 123 => judge 2 32768
  | _ => s

/-- FRESH of a point; a scan sample that began before the latest request (`early`) does not set it (R146). A scan sample of
a point that no TLM instruction has asked for sets it as well (DESIGN CHOICE, log 25). -/
def State.freshen (s : State) (p : Point) (kind : ConvKind) (early : Bool) : State :=
  let c := s.scan
  match kind with
  | .onDemand =>
    let asked := c.queue.contains p || c.waiting.contains p || c.bySample.contains p
    let s := { s with scan := { c with running := none } }
    (if asked then s else s.setBit (aVal p) 31 true).pumpTlm
  | _ =>
    if early then s
    else { s with scan := { c with bySample := c.bySample.filter (· != p) } }.setBit (aVal p) 31 true

/-- What the reserve takes from a conversion: pack voltage and current, VIN, and the temperature windows (R379, R390, R392,
R396, R404). -/
def State.reserveSample (s : State) (p : Point) (x : Int) : State :=
  let s := match p.val with
    | 112 => s.vinSample x
    | 114 => s.voltageSample x
    | 115 => s.currentSample x
    | _ => s
  if p = 112 ∨ p = 114 ∨ p = 115 ∨ p.val = 96 + s.fld aRsvCfg 22 19 then s.rsvSettle else s

/-- The scanner converts: in RUN and DOZE, and for the one frame that it takes in the boot (R521). -/
def State.scans (s : State) : Bool := s.awake || s.power.phase == .loaded

/-- A conversion of a die temperature tells whether the highest of the four lies at or above TWARN (R124, R527). -/
def State.dieSample (s : State) (p : Point) : State :=
  if p.val < 117 || 120 < p.val then s
  else
    let hot := [117, 118, 119, 120].any (fun q => decide (16 * (s.fld aTherm 7 0 : Int) ≤ sgn 16 (s.last q).toNat))
    { s with power := { s.power with hot := hot } }

/-- A conversion result of a point feeds its filter and those that take its samples. -/
def State.feedPoint (s : State) (p : Point) (code : BitVec 16) (kind : ConvKind) (early : Bool) : State :=
  let x := s.result p code
  let s := { s with scan := { s.scan with codes := s.scan.codes.set p code } }.feed p x
  let s := if kind = .base then s.refSample p code else s
  ((s.freshen p kind early).reserveSample p x).dieSample p

/-- ADC_CONVERSION. Every conversion of a code at the end of the range sets SAT (R126, log 9); a loop-health conversion and
one of a boost entry that acts as disabled feed nothing else (R130). -/
def execAdcConversion (p : Point) (code : BitVec 16) (kind : ConvKind) (early : Bool) (s : State) : Res :=
  .next (
    if !s.scans then s
    else match s.takeWord p code kind with
      | none => s
      | some (s, feeds) =>
        let s := if code.toNat = 0 ∨ code.toNat = 65535 then s.setBit (aVal p) 16 true else s
        if !feeds then s
        else s.cyc (fun c =>
          let c := c.map (fun s => s.feedPoint p code kind early)
          if kind = .onDemand then c else c.coverSample p code))

/-- A TLM instruction's request for a point (R146). -/
def State.tlmRequest (s : State) (p : Point) : State :=
  let s := s.setBit (aVal p) 31 false
  let c := s.scan
  if c.queue.contains p then s
  else if c.queue.length < 16 && !s.lhBusy then { s with scan := { c with queue := c.queue ++ [p] } }.pumpTlm
  else if c.inFrame then
    { s with scan := { c with bySample := if c.bySample.contains p then c.bySample else c.bySample ++ [p] } }
  else { s with scan := { c with waiting := if c.waiting.contains p then c.waiting else c.waiting ++ [p] } }

/-! Frames and bursts (R127 to R131) -/

/-- The writer writes raw frames: with EN 1 and in RUN (R138). -/
def State.rawWrites (s : State) : Bool := s.bit aRawCtl 31 && s.power.phase == .run && s.power.state == .run

/-- A frame whose words the writer has not written 4 µs after its end is lost to its FIFO's overflow; one that it may not
write any more is only dropped (R138). -/
def State.loseFrame (s : State) : State :=
  match s.scan.due with
  | none => s
  | some (_, f) =>
    let s := s.setScan { s.scan with due := none }
    if s.rawWrites then (s.setBit aRawStat 2 true).setFld aRawStat 13 8 f else s

/-- The frame in progress ends: the reference check, and the words due. The end of the last frame of a freeze moves the
writer to the other half (R138, R140, R150). A frame of the boot is not written (R138). A REFERR that is cleared while its
reference is still out of tolerance is set and raised again at the end of the next frame (DESIGN CHOICE, log 25). -/
def State.endFrame (s : State) : State :=
  let s := s.loseFrame
  if !s.scan.inFrame then s
  else
    let s := if (s.scan.refBad.toList.any (fun n => 16 ≤ n)) && !s.bit aTlmStat 1 then
        (s.setBit aTlmStat 1 true).raise1 srcSelfTest else s
    let c := { s.scan with inFrame := false }
    if c.frameDoze then (s.setScan c).setBit aRawStat 3 true
    else if c.frameBoot || !s.bit aRawCtl 31 then s.setScan c
    else
      let half := s.bit aRawStat 31
      let pend := s.bit aRawStat 29 && c.postLeft != 0
      let last := pend && c.postLeft == 1
      let s := s.setScan { c with
        due := some (half, c.frame), postLeft := if pend then c.postLeft - 1 else c.postLeft
        frame := if last then 0 else (c.frame + 1) % 64 }
      if last then s.setBit aRawStat 31 !half else s

/-- The settings written since the last boundary take effect (R130, R131). -/
def State.takeSettings (s : State) : State :=
  let old := s.scan.ctl
  let new := s.reg aTlmCtl
  let rephase := (tst new 31 && !tst old 31) || (tst new 30 && !tst old 30) || wfld new 15 0 != wfld old 15 0
  let c := { s.scan with
    ctl := new, prev := s.scan.cur
    cur := { cover := s.fld aStStat 30 27, boost := Vector.ofFn (fun k : Fin 6 => s.reg (aBoost k))
             lh := if s.lhBusy then 0xFFFF else 0 } }
  if !rephase then s.setScan { c with
    burstAt := if tst new 31 && tst new 30 then c.burstAt else none
    burstTo := if tst new 31 && tst new 30 then c.burstTo else 0 }
  else if tst new 31 && tst new 30 && wfld new 15 0 != 0 then s.setScan { c with
    burstTo := s.cycle + 400 * wfld new 23 16, burstAt := s.timer (100000 * wfld new 15 0) }
  else s.setScan { c with burstTo := 0, burstAt := none }

/-- A burst of BURST frames starts, from the start of its PERIOD, and the phase of the PERIODs holds (R131). The boundaries
at which the scanner idles use the burst up as well. -/
def State.startBurst (s : State) (ctl : Word) : State :=
  match s.scan.burstAt with
  | none => s
  | some t =>
    if s.cycle < t then s
    else
      let p := 100000 * wfld s.scan.ctl 15 0
      let k := (s.cycle - t) / p
      s.setScan { s.scan with
        burstTo := max s.scan.burstTo (t + p * k + 400 * wfld ctl 23 16), burstAt := some (t + p * (k + 1)) }

/-- The scanner runs a frame now: the first of the boot, and those of R131. A bank is isolated within the next frame. -/
def State.frameRuns (s : State) : Bool :=
  let c := s.scan
  if s.power.phase == .loaded then c.nextAt.isNone
  else s.awake && tst c.ctl 31 &&
    (!tst c.ctl 30 || decide (s.cycle < c.burstTo) || s.bit aStStat 31 || c.stFrame || s.bit aRawStat 29
      || (s.bit aStCtl 31 && s.dueBank.isSome && s.selfTest.nextAt.any (fun t => t < s.cycle + 800)))

/-- A boundary of the grid of R128: a whole number of frames after the first one of the boot, which starts it. -/
def State.onGrid (s : State) : Bool :=
  (s.power.phase == .run || s.power.phase == .loaded)
    && s.scan.nextAt.all (fun t => t ≤ s.cycle && (s.cycle - t) % 400 == 0)

/-- A frame starts. -/
def State.startFrame (s : State) : State :=
  s.setScan { s.scan with
    inFrame := true, frameTime := s.now, stFrame := s.bit aStStat 31
    frameDoze := s.power.state == PowerState.doze, frameBoot := s.power.phase == .loaded, nextAt := s.timer 400 }

/-- No frame starts: requests that the next sample would have served wait for the queue (R146). -/
def State.idleFrame (s : State) : State :=
  let c := s.scan
  (s.setScan { c with
    stFrame := s.bit aStStat 31, nextAt := s.timer 400, bySample := []
    waiting := c.waiting ++ c.bySample.filter (fun p => !c.waiting.contains p) }).pumpTlm

/-- SCAN_FRAME: a boundary of the grid. A burst that is due starts at it, with the settings that take effect at it. -/
def execScanFrame (s : State) : Res :=
  .next (if !s.onGrid then s
    else
      let s := s.endFrame.takeSettings
      let s := s.startBurst s.scan.ctl
      if s.frameRuns then s.startFrame else s.idleFrame)

/-- BURST_START: a burst whose time has come starts; where the boundary at which it starts is still to be taken, a write that
takes effect at that boundary gives its length already (R131). -/
def execBurstStart (s : State) : Res :=
  .next (s.startBurst (if s.scan.nextAt.all (fun t => t ≤ s.cycle) then s.reg aTlmCtl else s.scan.ctl))

/-! Raw capture (R137 to R142) -/

/-- The address of word w of frame f in half h. -/
def rawAddr (h f w : Nat) : Nat := 0x40000 + 0x8000 * h + 0x200 * f + 2 * w

/-- Write a frame's words; an unwritten one keeps its previous content. -/
def State.rawWords (s : State) (h f : Nat) : Nat → List (Option (BitVec 16)) → State
  | _, [] => s
  | w, none :: t => s.rawWords h f (w + 1) t
  | w, some c :: t =>
    ((s.tlmPoke (rawAddr h f w) (c.extractLsb' 0 8)).tlmPoke (rawAddr h f w + 1) (c.extractLsb' 8 8)).rawWords h f (w + 1) t

/-- The words of the ended frame: what the converters have told, an unstated code for a conversion that no command has
told (log 9), 0 in the words of ADC15 that fall into no measurement (R127). -/
def State.frameWords (s : State) (lost : List (Fin 256)) : List (Option (BitVec 16)) :=
  (List.finRange 256).map (fun w =>
    if lost.contains w then none
    else some ((s.scan.prev.words[w]).getD (if 240 ≤ w.val && !s.scan.prev.lh.getLsbD (w.val - 240) then 0 else Config.convCode (s.free + w))))

/-- RAW_FRAME_WRITE: the words of the ended frame, but for those lost to the FIFO's overflow. It is written only with EN
1 and in RUN (R138). -/
def execRawFrameWrite (lost : List (Fin 256)) (s : State) : Res :=
  .next (match s.scan.due with
    | none => s
    | some (half, f) =>
      let t := s.setScan { s.scan with due := none }
      if !s.rawWrites then t
      else
        let t := { t with free := s.free + 256 }.rawWords half.toNat f 0 (s.frameWords lost)
        if lost.isEmpty then t else (t.setBit aRawStat 2 true).setFld aRawStat 13 8 f)

/-- FREEZE. -/
def execFreeze (_who : Who) (s : State) : Res := .next (s.fab (fun s => s.freezeTrigger))

/-- The freeze is complete. Where a reset completes it before its last frame has ended, the writer moves now (R144). -/
def State.freezeDone (s : State) : State :=
  let s := if s.scan.postLeft = 0 then s else s.setBit aRawStat 31 (!s.bit aRawStat 31)
  (s.setBit aRawStat 29 false).setBit aRawStat 30 true

/-- FREEZE_COMPLETE: the last post frame has been written (R140). -/
def execFreezeComplete (s : State) : Res :=
  .next (if s.bit aRawStat 29 && s.scan.postLeft == 0 && s.scan.due.isNone then s.freezeDone else s)

/-- UNFREEZE has no effect while PENDING (R142). -/
def State.unfreeze (s : State) : State := if s.bit aRawStat 29 then s else s.setBit aRawStat 30 false

/-- UNFREEZE. -/
def execUnfreeze (_who : Who) (s : State) : Res := .next (s.fab (fun s => s.unfreeze))

/-! Commands and writes of the block (R135, R136, R166) -/

/-- A refused configuration write. -/
def State.tlmRefuse (s : State) : State × Bool := (s.orReg aTlmStat (bitw 0), false)

/-- The points a TLM_CMD names. -/
def cmdPoints (all : Bool) (pt : BitVec 7) : List Nat := if all then List.range 124 else [pt.toNat]

/-- CLRMM of a point. -/
def State.clrMm (s : State) (p : Nat) : State := s.setReg (aMm p) (resetWord (aMm p))
/-- CLRPK of a point. -/
def State.clrPk (s : State) (p : Nat) : State := s.setFld (aLast p) 31 16 (if ptSigned p then 0x8000 else 0)

/-- A write of TLM_CMD; a point beyond 123 is out of range. -/
def State.tlmCmd (s : State) (mm pk all : Bool) (pt : BitVec 7) : State × Bool :=
  if !all && 124 ≤ pt.toNat then s.tlmRefuse
  else
    let s := if mm then s.forAll (cmdPoints all pt) State.clrMm else s
    (if pk then s.forAll (cmdPoints all pt) State.clrPk else s, true)

/-- CLRMM. -/
def execClrmm (_who : Who) (all : Bool) (pt : BitVec 7) (s : State) : Res :=
  .next (s.fab (fun s => (s.tlmCmd true false all pt).1))
/-- CLRPK. -/
def execClrpk (_who : Who) (all : Bool) (pt : BitVec 7) (s : State) : Res :=
  .next (s.fab (fun s => (s.tlmCmd false true all pt).1))

/-- A write of TLM_FILTp: the filter restarts, and its next output updates VAL (R136). -/
def State.tlmFilt (s : State) (p : Point) (v : Word) : State × Bool :=
  if s.lockCfg || 10 < wfld v 19 16 then s.tlmRefuse
  else
    let s := s.setReg (aFilt p) (v &&& 0x000FF0FF#32)
    ({ s with filters := s.filters.set p { dec := 255 } }, true)

/-- TLM_FILT_WRITE. -/
def execTlmFiltWrite (_who : Who) (p : Point) (v : Word) (s : State) : Res :=
  .next (s.fab (fun s => (s.tlmFilt p v).1))

/-- A write of TLM_CTL: it takes effect at the next boundary. -/
def State.tlmCtl (s : State) (v : Word) : State × Bool :=
  if s.lockCfg then s.tlmRefuse else (s.setReg aTlmCtl (v &&& 0xC0FFFFFF#32), true)

/-- TLM_CTL_WRITE. -/
def execTlmCtlWrite (_who : Who) (v : Word) (s : State) : Res := .next (s.fab (fun s => (s.tlmCtl v).1))

/-! Loop health (R151 to R164) -/

/-- The rail is selected for measurement. -/
def State.lhSelected (s : State) (r : Nat) : Bool := s.bit (aLhSel (r / 32)) (r % 32)

/-- The next selected rail from the one after the last. -/
def State.lhNext (s : State) : Option Nat :=
  let l := (List.range 64).filter s.lhSelected
  match l.find? (fun r => s.lh.next ≤ r) with
  | some r => some r
  | none => l.head?

/-- Write the rail's number and status of a result without measured values. -/
def State.lhStatus (s : State) (r : Nat) (status : Nat) : State :=
  (s.setFld (aLhRes 0) 5 0 r).setFld (aLhRes 1) 7 0 status

/-- GAP starts. -/
def State.lhGap (s : State) (r : Nat) : State :=
  { s with lh := { s.lh with next := r + 1, gapAt := s.timer (s.fld aLhCtl 15 0 * 100000000) } }

/-- LH_START: the next selected rail is measured, or skipped (R151, R152). R151 gives the GAP between two measurements;
after a skipped rail the model lets it pass as well (DESIGN CHOICE, log 8). -/
def execLhStart (s : State) : Res :=
  .next (if !s.bit aLhCtl 31 || s.lhBusy || !s.awake then s
    else match s.lhNext with
      | none => s
      | some n =>
        let r : Rail := Fin.ofNat 64 n
        if (s.ch r).st != .on || s.pmbPath r || !s.use r then (s.lhStatus n 0x10).lhGap n
        else
          let code : Int := if isExt r then 64 else 2
          let s := ((s.setBit aLhStat 31 true).setFld aLhStat 30 25 n).setFld aLhStat 24 23 1
          let s := { s with lh := { s.lh with gapAt := none, rounds := 0, calDone := !isExt r, code := code } }.lhFrame true
          if isExt r then s.setCh r { s.ch r with perturb := code } else s)

/-- The ring time of a history entry, its validity and its fields (R160). -/
def State.lhBytes (s : State) (r k : Nat) : List Byte := s.bytes (0x25000 + 192 * r + 16 * k) 16
def lhValid (b : List Byte) : Bool := leNat (b.drop 14) == (crc16 (b.take 14)).toNat
def lhTime (b : List Byte) : Nat := leNat (b.take 8)
def lhFc (b : List Byte) : Nat := leNat ((b.drop 8).take 2)
def lhPm (b : List Byte) : Nat := leNat ((b.drop 10).take 1)
def lhCest (b : List Byte) : Nat := leNat ((b.drop 12).take 2)

/-- The 16 bytes of an entry. -/
def lhEntry (t : BitVec 64) (fc pm status cest : Nat) : List Byte :=
  let b := timeBytes t ++ leBytes 2 fc ++ leBytes 1 pm ++ leBytes 1 status ++ leBytes 2 cest
  b ++ leBytes 2 (crc16 b).toNat

/-- The result slot that follows the newest valid one; slot 0 where none is valid (R161). -/
def State.lhSlot (s : State) (r : Nat) : Nat :=
  let best := (List.range 11).foldl (fun (a : Option (Nat × Nat)) k =>
    let b := s.lhBytes r (k + 1)
    if !lhValid b then a
    else match a with
      | some (t, i) => if lhTime b < t then some (t, i) else some (lhTime b, k)
      | none => some (lhTime b, k)) none
  match best with
  | some (_, k) => (k + 1) % 11
  | none => 0

/-- KPS_CTL.BP covers an address (R333). -/
def State.bpCovers (s : State) (a : Nat) : Bool :=
  match s.fld aKpsCtl 31 30 with
  | 0 => false
  | 1 => 0x30000 ≤ a && a < 0x40000
  | 2 => 0x20000 ≤ a && a < 0x40000
  | _ => a < 0x40000

/-- The loop-health engine writes its region, unless block protection covers it (R161, R334, R344). -/
def State.lhPoke (s : State) (a : Nat) (l : List Byte) : State :=
  if s.bpCovers a then s.setBit aLhStat 2 true else if s.keeper.locked then s else s.poke a l

/-- The history entry of a completed measurement, and its baseline where it becomes one; counter 7 (R161, R365). -/
def State.lhHistory (s : State) (r : Nat) (t : BitVec 64) (fc pm status cest : Nat) (base : Bool) : State :=
  let e := lhEntry t fc pm status cest
  let s := (s.count 7).lhPoke (0x25000 + 192 * r + 16 + 16 * s.lhSlot r) e
  if base then s.lhPoke (0x25000 + 192 * r) e else s

/-- The result registers. -/
def State.lhReport (s : State) (r fc pm status cest : Nat) : State :=
  (s.setReg (aLhRes 0) (put (put (put 0 31 16 fc) 15 8 pm) 5 0 r)).setReg (aLhRes 1) (put (put 0 31 16 cest) 7 0 status)

/-- A value of a field of k bits; an unstated one where it does not fit (log 8). -/
def lhField (k seed : Nat) (v : Int) : Nat := if 0 ≤ v ∧ v < 2 ^ k then v.toNat else Config.lhFree seed % 2 ^ k

/-- LH_CAL_ROUND: the shift is in range, or the step is scaled by it; the fourth round fails (R153). R160 has the ring
time of an entry at the end of PHASE 2, which a CALFAIL entry lacks: the model takes the time of the failure, free values
for FC, PM and CEST, and no NOC (DESIGN CHOICE, log 8). -/
def execLhCalRound (shiftUv : Int) (s : State) : Res :=
  .next (
    let r := s.lhRail
    if !s.lhBusy || s.fld aLhStat 24 23 ≠ 1 || !isExt r || s.lh.calDone then s
    else
      let v : Int := s.vset r                          -- 0.1 % of VSET is vset in µV
      let s := { s with lh := { s.lh with rounds := s.lh.rounds + 1 } }
      if 3 * v ≤ 2 * shiftUv ∧ 2 * shiftUv ≤ 5 * v then { s with lh := { s.lh with calDone := true } }
      else if 4 ≤ s.lh.rounds then
        let f (k i : Nat) : Nat := Config.lhFree (s.free + i) % 2 ^ k
        let s := s.lhReport r (f 16 0) (f 8 1) 0x80 (f 16 2)
        let s := s.lhHistory r s.now (s.fld (aLhRes 0) 31 16) (s.fld (aLhRes 0) 15 8) 0x80 (s.fld (aLhRes 1) 31 16) false
        { s with free := s.free + 3 }.lhFinish
      else
        let old := s.lh.code
        let q := if shiftUv = 0 then Config.calCode old 0
          else (if 0 < shiftUv then roundOpen (old * 2 * v) shiftUv.natAbs else roundOpen (-(old * 2 * v)) shiftUv.natAbs)
        let q := if -2047 ≤ q ∧ q ≤ 2047 then q else Config.calCode old shiftUv
        let s := { s with lh := { s.lh with code := q } }
        s.setCh r { s.ch r with perturb := q })

/-- One step of the generator x^7 + x^6 + 1. -/
def prbsNext (x : BitVec 7) : BitVec 7 := (x <<< 1) ||| (if x.getLsbD 6 != x.getLsbD 5 then 1 else 0)

/-- The time to the next toggle in cycles: 64 × BIT µs, or one bit of the sequence (R156). -/
def State.lhPeriod (s : State) : Nat := (if s.bit aLhCtl 30 then 100 else 6400) * s.fld aLhCtl 23 16

/-- The perturbation takes a level, and a run of codes begins. -/
def State.lhLevel (s : State) (high : Bool) (next : Nat) : State :=
  let s := { s with lh := { s.lh with toggleAt := some next, runs := s.lh.runs ++ [LhRun.mk high [] []] } }
  s.setCh s.lhRail { s.ch s.lhRail with perturb := if high then s.lh.code else 0 }

/-- LH_EXCITE_START (R152, R156). The sequence starts with bit 1, its seed being all ones. For the square R156 names no
first level: the model starts at the positive one (DESIGN CHOICE, log 8). On an external rail the code of the calibration
still stands then, so the first square run holds no step and is averaged as a rising one (DESIGN CHOICE, log 8). -/
def execLhExciteStart (s : State) : Res :=
  .next (if !s.lhBusy || s.fld aLhStat 24 23 ≠ 1 || !s.lh.calDone then s
    else
      let s := { s.setFld aLhStat 24 23 2 with lh := { s.lh with prbs := 0x7F, runs := [] } }
      s.lhLevel true (s.cycle + s.lhPeriod))

/-- LH_PERTURB_TOGGLE (R156): the half-period or the bit has passed. -/
def execLhPerturbToggle (s : State) : Res :=
  .next (match s.lh.toggleAt with
    | none => s
    | some t =>
      if !s.lhBusy || s.fld aLhStat 24 23 ≠ 2 || s.cycle < t then s
      else if s.bit aLhCtl 30 then
        let x := prbsNext s.lh.prbs
        State.lhLevel { s with lh := { s.lh with prbs := x } } (x.getLsbD 6) (t + s.lhPeriod)
      else s.lhLevel (!(s.lh.runs.getLast?.any (·.high))) (t + s.lhPeriod))

/-- LH_CAPTURE_END (R152). -/
def execLhCaptureEnd (s : State) : Res :=
  .next (if !s.lhBusy || s.fld aLhStat 24 23 ≠ 2 then s
    else
      let r := s.lhRail
      let s := { s.setFld aLhStat 24 23 3 with lh := { s.lh with endTime := s.now, toggleAt := none } }
      s.setCh r { s.ch r with perturb := 0 })

/-! The fit (R156, R157) -/

/-- A mean, 0 of nothing. -/
def mean (l : List Rat) : Rat := if l.isEmpty then 0 else l.sum / (l.length : Nat)

/-- The averaged step response of a square excitation, as the change from the first sample of each run: rising steps, and
falling ones inverted. -/
def stepSquare (l : List (Bool × List (BitVec 16))) : List Rat :=
  let runs : List (List Rat) := l.map (fun q => q.2.map (fun x =>
    let d : Rat := (x.toNat : Int) - (q.2.headD 0).toNat
    if q.1 then d else -d))
  (List.range ((runs.map List.length).foldl max 0)).map (fun k => mean (runs.filterMap (fun l => l[k]?)))

/-- The running sum of a list. -/
def running : Rat → List Rat → List Rat
  | _, [] => []
  | a, x :: t => (a + x) :: running (a + x) t

/-- The step response of a PRBS excitation: the running sum of the cross-correlation of the response, less its mean, with
the sequence, over the 127 bits. -/
def stepPrbs (l : List (Bool × List (BitVec 16))) : List Rat :=
  let seq : List Rat := l.flatMap (fun q => q.2.map (fun _ => if q.1 then 1 else -1))
  let y : List Rat := l.flatMap (fun q => q.2.map (fun x => (x.toNat : Rat)))
  let m := mean y
  let per := (l.headD (true, [])).2.length
  let corr (k : Nat) : Rat := mean (List.zipWith (fun a b => a * (b - m)) seq (y.drop k))
  running 0 ((List.range (min y.length (127 * per))).map (fun k => corr k * 2 / (per : Nat)))

/-- The step response that the engine has captured. -/
def State.lhResponse (s : State) (f : LhRun → List (BitVec 16)) : List Rat :=
  let l := s.lh.runs.map (fun x => (x.high, f x))
  if s.bit aLhCtl 30 then stepPrbs l else stepSquare l

/-- The place and the value of the largest element. -/
def peakOf : List Rat → Nat → Nat × Rat → Nat × Rat
  | [], _, b => b
  | x :: t, k, b => peakOf t (k + 1) (if b.2 < x then (k, x) else b)

/-- What is left of a step response of the fit to its final value of 1 and its slope in 1 / ωn, k samples on: the exponential
of the loop's matrix over the angle h of k samples, as (a, b, c, d). -/
structure LoopStep where
  a : Rat
  b : Rat
  c : Rat
  d : Rat
  deriving DecidableEq, Repr

/-- Two steps in a row. -/
def LoopStep.mul (x y : LoopStep) : LoopStep :=
  { a := cut80 (x.a * y.a + x.b * y.c), b := cut80 (x.a * y.b + x.b * y.d)
    c := cut80 (x.c * y.a + x.d * y.c), d := cut80 (x.c * y.b + x.d * y.d) }

/-- The step of damping z over an angle h, to the n-th order: the exponential's series by Horner's rule. -/
def LoopStep.taylor (z h : Rat) : Nat → Nat → LoopStep
  | 0, _ => { a := 1, b := 0, c := 0, d := 1 }
  | n + 1, k =>
    let y := LoopStep.taylor z h n (k + 1)
    let g := h / (k : Nat)
    { a := cut80 (1 + g * y.c), b := cut80 (g * y.d)
      c := cut80 (-g * (y.a + 2 * z * y.c)), d := cut80 (1 - g * (y.b + 2 * z * y.d)) }

/-- A step doubled n times. -/
def LoopStep.doubled : Nat → LoopStep → LoopStep
  | 0, x => x
  | n + 1, x => LoopStep.doubled n (x.mul x)

/-- One sample of a loop of damping z and an angle h = ωn per sample. -/
def LoopStep.sample (z h : Rat) : LoopStep := LoopStep.doubled 8 (LoopStep.taylor z (h / 256) 12 1)

/-- The sum of the squared distances of a step response from the loop's, e and v being what the loop has left to its final
value of 1 and its slope. -/
def loopError (m : LoopStep) : Rat → Rat → Rat → List Rat → Rat
  | _, _, acc, [] => acc
  | e, v, acc, y :: t =>
    loopError m (cut80 (m.a * e + m.b * v)) (cut80 (m.c * e + m.d * v)) (cut80 (acc + (1 + e - y) * (1 + e - y))) t

/-- The squared error of a fit (damping, angle per sample) of a response whose final value is 1 (R157). -/
def fitError (y : List Rat) (x : Rat × Rat) : Rat := loopError (LoopStep.sample x.1 x.2) (-1) 0 0 y

/-- The least-squares search: from a fit with its error to the best of its eight neighbours at steps dz and dh, on with twice
the steps, or, where none is better, with half of them; n rounds. -/
def fitSearch (y : List Rat) : Nat → Rat → Rat → (Rat × Rat) → Rat → Rat × Rat
  | 0, _, _, x, _ => x
  | n + 1, dz, dh, x, err =>
    let near := ([(1, 0), (-1, 0), (0, 1), (0, -1), (1, 1), (1, -1), (-1, 1), (-1, -1)].map
      (fun q : Int × Int => (x.1 + q.1 * dz, x.2 + q.2 * dh))).filter (fun q => 0 < q.1 && 0 < q.2)
    let best := near.foldl (fun (b : (Rat × Rat) × Rat) q =>
      let e := fitError y q
      if e < b.2 then (q, e) else b) (x, err)
    if best.2 < err then fitSearch y n (2 * dz) (2 * dh) best.1 best.2 else fitSearch y n (dz / 2) (dh / 2) x err

/-- Where the search starts: the closed forms of R157 at an overshoot; without one a damping of 1, whose response has come
to 63 % after an angle of 2.15. -/
def fitStart (y : List Rat) : Rat × Rat :=
  let p := peakOf y 0 (0, 0)
  if p.1 = 0 ∨ p.2 ≤ 1 ∨ 2 ≤ p.2 then (1, 215 / 100 / ((y.takeWhile (fun v => 100 * v < 63)).length + 1 : Nat))
  else
    let l := ratLn 64 (p.2 - 1)
    let z := -l / ratSqrt (piRat * piRat + l * l)
    (z, piRat / (p.1 * ratSqrt (1 - z * z)))

/-- Damping and natural frequency in rad/s of a step response of `rate` samples a second, by least squares (R157, log 8). A
response that comes to no final value has no fit: both are unstated. -/
def fitOf (step : List Rat) (rate : Nat) : Rat × Rat :=
  let last := step.getLastD 0
  if last = 0 then Config.lhFit step rate
  else
    let y := step.map (fun v => cut80 (v / last))
    let x := fitStart y
    let q := fitSearch y 200 (1 / 4) (x.2 / 4) x (fitError y x)
    (q.1, q.2 * rate)

/-- fc in Hz and PM in degrees of a loop (R157). -/
def loopOf (z w : Rat) : Rat × Rat :=
  let g := ratSqrt (ratSqrt (1 + 4 * z * z * z * z) - 2 * z * z)
  (w / (2 * piRat) * g, if z < 0 then -180 * ratArctan (-2 * z / g) / piRat else 180 * ratArctan (2 * z / g) / piRat)

/-- The capacitance in 0.5 µF: the integral of the current beyond its final value over the voltage step, in the LSBs and
the 0.5 µs of their samples; none where the voltage does not step (R157). -/
def State.capOf (s : State) (r : Rail) (volts amps : List Rat) : Option Int :=
  let q : Rat := (amps.map (· - amps.getLastD 0)).sum
  let dv : Rat := (2 ^ s.fld (aChCfg r) 6 5 : Nat) * volts.getLastD 0
  if dv = 0 then none else some (ratOpen ((if kind r = 1 then 4 else 2) * q / dv))

/-- The measurement is beyond limit against a baseline (R163). -/
def State.lhBeyond (s : State) (base : List Byte) (fc pm cest : Nat) : Bool :=
  let fcl := s.fld aLhLim 31 24
  let pml := s.fld aLhLim 23 16
  let cl := s.fld aLhLim 15 8
  (fcl != 0 && fcl * lhFc base < 100 * ((fc : Int) - lhFc base).natAbs)
    || (pml != 0 && 2 * pml < ((pm : Int) - lhPm base).natAbs)
    || (cl != 0 && lhCest base != 0 && cest != 0 && cl * lhCest base + 100 * cest < 100 * lhCest base)

/-- What the fit gives: fc in Hz, PM in degrees and CEST in 0.5 µF, unstated where no final voltage shows. -/
def State.lhFitted (s : State) : Rat × Rat × Option Int :=
  let r := s.lhRail
  let volts := s.lhResponse LhRun.volts
  let z := fitOf volts (if isExt r then 4000000 else 2000000)
  let l := loopOf z.1 z.2
  (l.1, l.2, if isExt r then some 0 else s.capOf r volts (s.lhResponse LhRun.amps))

/-- LH_COMPUTE_END: what the fit gives becomes the result, the history entry and the judgement (R157 to R164). R158 does
not say whether OK goes with RANGE: the model sets RANGE without it (DESIGN CHOICE, log 8). -/
def execLhComputeEnd (s : State) : Res :=
  .next (if !s.lhBusy || s.fld aLhStat 24 23 ≠ 3 then s
    else
      let r := s.lhRail
      let n := s.free
      let fit := s.lhFitted
      let s := { s with free := n + 3 }
      let fc := lhField 16 n (ratOpen (fit.1 / 10))
      let pm := lhField 8 (n + 1) (ratOpen (fit.2.1 * 2))
      let cest := lhField 16 (n + 2) (fit.2.2.getD (-1))
      let noc := if isExt r then 2 else 0
      let ok : Bool := 1000 ≤ fit.1 && fit.1 ≤ 200000 && 20 ≤ fit.2.1 && fit.2.1 ≤ 80
      if !ok then (((s.lhReport r fc pm (4 + noc) cest).lhHistory r s.lh.endTime fc pm (4 + noc) cest false)).lhFinish
      else
        let base := s.lhBytes r 0
        if !lhValid base then
          ((s.lhReport r fc pm (0x41 + noc) cest).lhHistory r s.lh.endTime fc pm (0x41 + noc) cest true).lhFinish
        else
          let bad := s.lhBeyond base fc pm cest
          let degr := bad && s.lh.beyond[r]
          let status := 1 + noc + (if degr then 0x20 else 0)
          let told := s.bit (aLhDeg (r / 32)) (r % 32)
          let s := { s with lh := { s.lh with beyond := s.lh.beyond.set r bad } }
          let s := ((s.lhReport r fc pm status cest).lhHistory r s.lh.endTime fc pm status cest false).lhFinish
          if degr && !told then (s.orReg (aLhDeg (r / 32)) (bitw (r % 32))).raise1 srcLoopHealth else s)

/-- REBASE of rails: their baselines are emptied (R162, R164). -/
def State.rebase (s : State) (l : List Rail) : State :=
  s.forAll l (fun s r =>
    let s := { s with lh := { s.lh with beyond := s.lh.beyond.set r false } }
    s.lhPoke (0x25000 + 192 * r.val) (List.replicate 16 0))

/-- REBASE. -/
def execRebase (_who : Who) (all : Bool) (r : Rail) (s : State) : Res :=
  .next (s.fab (fun s => s.rebase (if all then allRails else [r])))

/-! Writes of the other registers of the block -/

/-- A configuration write of a register within its range. -/
def State.tlmStore (s : State) (a : Nat) (v : Word) (ok : Bool) : State × Bool :=
  if s.lockCfg || !ok then s.tlmRefuse else (s.setReg a v, true)

/-- A write of a register of the telemetry block (R8, R165, R166); none where the register is read only or reserved. -/
def State.tlmWrite (s : State) (a : Nat) (v : Word) : Option (State × Bool) :=
  let off := a - 0x10020000
  if a = aTlmCtl then some (s.tlmCtl v)
  else if a = aTlmStat then some (s.clrReg a (v &&& 3), true)
  else if a = aTlmCmd then some (s.tlmCmd (tst v 8) (tst v 9) (tst v 31) (BitVec.ofNat 7 (wfld v 6 0)))
  else if a = aRawCtl then some (s.tlmStore a (v &&& 0xC000003F#32) true)
  else if a = aRawStat then some (s.clrReg a (v &&& 0xE), true)
  else if a = aRawCmd then
    let s := if tst v 0 then s.unfreeze else s
    some (if tst v 1 then s.freezeTrigger else s, true)
  else if 0x030 ≤ off ∧ off < 0x048 then
    let pts := (List.range 4).all (fun e => wfld v (8 * e + 6) (8 * e) < 124)
    some (s.tlmStore a v (pts && !(a = aBoost 5 && (tst v 31 || tst v 23))))
  else if 0x100 ≤ off ∧ off < 0x140 then some (s.tlmStore a (v &&& 0xE07FFFFF#32) (wfld v 22 16 < 124))
  else if a = aLhCtl then
    let q := s.tlmStore a (v &&& 0xC0FFFFFF#32) (1 ≤ wfld v 23 16)
    some (if q.2 && !tst v 31 then (q.1.lhAbort, true) else q)
  else if a = aLhSel 0 ∨ a = aLhSel 1 then some (s.tlmStore a v true)
  else if a = aLhLim then some (s.tlmStore a (v &&& 0xFFFFFF00#32) (wfld v 15 8 ≤ 100))
  else if a = aLhStat then some (s.clrReg a (v &&& 6), true)
  else if a = aLhCmd then
    some (if tst v 31 then s.rebase (if tst v 30 then allRails else [Fin.ofNat 64 (wfld v 5 0)]) else s, true)
  else if a = aLhDeg 0 ∨ a = aLhDeg 1 then some (s.clrReg a v, true)
  else if 0x1000 ≤ off ∧ off < 0x1000 + 0x10 * 124 then
    let p : Point := Fin.ofNat 124 ((off - 0x1000) / 0x10)
    match off % 0x10 with
    | 0 => some (s.clrReg a (v &&& bitw 16), true)
    | 12 => some (s.tlmFilt p v)
    | _ => none
  else none

end Sys2Proof.Machine
end

