-- ==== Sys2Proof/Machine/Records.lean ====
section
/-! DEFINITION. The dual-copy records of the keeping store: configuration sets and commit records (R348 to R354), and
the load of the instruction memory (R179). -/

namespace Sys2Proof.Machine

/-- The base of a copy of the configuration set and of the commit record; true: copy B (R331). -/
def cfgBase (b : Bool) : Nat := if b then 0x3A000 else 0x38000
def cmtBase (b : Bool) : Nat := if b then 0x3BF00 else 0x39F00
/-- The base of a program slot; true: slot B. -/
def slotBase (b : Bool) : Nat := if b then 0x34000 else 0x30000

/-- The length in bytes of a configuration set copy: header and body (R351). -/
def State.cfgLen (s : State) (b : Bool) : Nat := 0x10 + 8 * leNat (s.bytes (cfgBase b + 8) 2)

/-- A configuration set copy is valid (R350, R351). -/
def State.cfgValid (s : State) (b : Bool) : Bool :=
  let a := cfgBase b
  let n := leNat (s.bytes (a + 8) 2)
  s.sramWord a == 0x4B500010#32 && n ≤ 990 && leNat (s.bytes (a + 10) 2) == 1
    && s.sramWord (a + 12) == crc32 (s.bytes a 12 ++ s.bytes (a + 0x10) (8 * n))

/-- A commit record copy is valid (R353). -/
def State.cmtValid (s : State) (b : Bool) : Bool :=
  let a := cmtBase b
  let n := leNat (s.bytes (a + 10) 2)
  s.sramWord a == 0x4B500020#32 && s.sramWord (a + 0x1C) == crc32 (s.bytes a 0x1C) && (s.byte (a + 8)).toNat ≤ 1
    && 1 ≤ n && n ≤ 4096

/-- What R350 finds: no valid copy, a copy alone or newer (`other`: the other copy is valid too), or a tie. -/
inductive Choice where
  | none
  | copy (b : Bool) (other : Bool)
  | tie (same : Bool)
  deriving DecidableEq, Repr

/-- The choice between two copies by validity, sequence number and bytes (R350). -/
def chooseCopy (va vb : Bool) (qa qb : Word) (ba bb : List Byte) : Choice :=
  match va, vb with
  | false, false => .none
  | true, false => .copy false false
  | false, true => .copy true false
  | true, true => if qa = qb then .tie (ba == bb) else .copy (newer qb qa) true

def State.cfgChoice (s : State) : Choice :=
  chooseCopy (s.cfgValid false) (s.cfgValid true) (s.sramWord (cfgBase false + 4)) (s.sramWord (cfgBase true + 4))
    (s.bytes (cfgBase false) (s.cfgLen false)) (s.bytes (cfgBase true) (s.cfgLen true))

def State.cmtChoice (s : State) : Choice :=
  chooseCopy (s.cmtValid false) (s.cmtValid true) (s.sramWord (cmtBase false + 4)) (s.sramWord (cmtBase true + 4))
    (s.bytes (cmtBase false) 0x20) (s.bytes (cmtBase true) 0x20)

/-- The copy a choice names. -/
def Choice.copy? : Choice → Option Bool
  | .none => Option.none
  | .copy b _ => some b
  | .tie _ => some false

/-- Slot, length, CRC and version of a commit record copy. -/
def State.cmtSlot (s : State) (b : Bool) : Bool := s.byte (cmtBase b + 8) == 1
def State.cmtLen (s : State) (b : Bool) : Nat := leNat (s.bytes (cmtBase b + 10) 2)
def State.cmtCrc (s : State) (b : Bool) : Word := s.sramWord (cmtBase b + 12)
def State.cmtVer (s : State) (b : Bool) : Word := s.sramWord (cmtBase b + 16)

/-- The CRC-32 of an image of n instructions in a slot (R181). -/
def State.imageCrc (s : State) (slot : Bool) (n : Nat) : Word := crc32 (s.bytes (slotBase slot) (4 * n))

/-- Load the instruction memory from a slot (R179). -/
def State.loadImage (s : State) (slot : Bool) (n : Nat) (ver : Word) : State :=
  let m := ((List.range n).map (fun i => (i, s.sramWord (slotBase slot + 4 * i)))).filter (fun e => e.2 ≠ 0)
  ({ s with imem := m }.setReg aSeqLive (at_ slot 31 ||| put 0 12 0 n)).setReg aSeqLiveVer ver

/-- Write the commit record copy that does not hold the newest valid record (R354). The page written. -/
def State.writeCommit (s : State) (slot : Bool) (n : Nat) (crc ver : Word) : State × Nat :=
  let newest := s.cmtChoice.copy?
  let b := match newest with | some b => !b | none => false
  let seq : Word := match newest with | some c => s.sramWord (cmtBase c + 4) + 1 | none => 1
  let body := wordBytes 0x4B500020#32 ++ wordBytes seq ++ leBytes 1 slot.toNat ++ [0] ++ leBytes 2 n ++ wordBytes crc
    ++ wordBytes ver ++ List.replicate 8 0
  (s.poke (cmtBase b) (body ++ wordBytes (crc32 body)), cmtBase b / 0x400)

/-! Reset outputs (R320 to R327) -/

/-- MRG_RSTOVR.OVRk. -/
def State.ovr (s : State) (k : Fin 8) : Nat := s.fld aRstOvr (2 * k.val + 1) (2 * k.val)

/-- Set an override: 0 AUTO, 1 ASSERT, 2 PULSE (R323). -/
def State.setOvr (s : State) (k : Fin 8) (act : Nat) : State :=
  let x := s.resets[k]
  let pulse := act = 2 && s.rstStretch k != 0
  { s.setFld aRstOvr (2 * k.val + 1) (2 * k.val) (if act = 2 && !pulse then 0 else act) with
    resets := s.resets.set k { x with pulse := if pulse then s.timer (s.rstStretch k) else none } }

/-- RSTOVR_AUTO. -/
def execRstovrAuto (_who : Who) (k : Fin 8) (s : State) : Res := .next (s.fab (fun s => s.setOvr k 0))
/-- RSTOVR_ASSERT. -/
def execRstovrAssert (_who : Who) (k : Fin 8) (s : State) : Res := .next (s.fab (fun s => s.setOvr k 1))
/-- RSTOVR_PULSE. -/
def execRstovrPulse (_who : Who) (k : Fin 8) (s : State) : Res := .next (s.fab (fun s => s.setOvr k 2))

/-- A write of MRG_RSTOVR: a field written with its present value starts nothing, except PULSE. -/
def State.rstOvrWrite (s : State) (v : Word) : State × Bool :=
  let f (k : Fin 8) : Nat := wfld v (2 * k.val + 1) (2 * k.val)
  if (List.finRange 8).any (fun k => f k == 3) then (s.orReg aMrgStat (bitw 0), false)
  else (s.forAll (List.finRange 8) (fun s k => if f k = s.ovr k ∧ f k ≠ 2 then s else s.setOvr k (f k)), true)

/-- RESET_STRETCH_END. -/
def execResetStretchEnd (k : Fin 8) (s : State) : Res :=
  .next (if (s.resets[k]).stretch.isNone then s
    else { s with resets := s.resets.set k { s.resets[k] with auto := false, stretch := none } })

/-- RESET_PULSE_END. -/
def execResetPulseEnd (k : Fin 8) (s : State) : Res :=
  .next (if (s.resets[k]).pulse.isNone then s
    else { s.setFld aRstOvr (2 * k.val + 1) (2 * k.val) 0 with
      resets := s.resets.set k { s.resets[k] with pulse := none } })

/-- A write of MRG_RSTk: a newly bound output restarts its stretch (R321, R327). -/
def State.rstWrite (s : State) (k : Fin 8) (v : Word) : State × Bool :=
  if s.lockCfg then (s.orReg aMrgStat (bitw 0), false)
  else
    let old := s.reg (aRst k)
    let v := v &&& 0x80000FFF#32
    let s := s.setReg (aRst k) v
    let s := if tst v 31 && (!tst old 31 || wfld v 11 8 != wfld old 11 8) then
        { s with resets := s.resets.set k { s.resets[k] with auto := true, stretch := none } } else s
    (s.settleRst k, true)

/-- MRG_RST_WRITE. -/
def execMrgRstWrite (_who : Who) (k : Fin 8) (v : Word) (s : State) : Res :=
  .next (s.fab (fun s => (s.rstWrite k v).1))

/-- MRG_RSTSTAT. -/
def State.rstStat (s : State) : Word :=
  (List.finRange 8).foldl (fun (a : Word) (k : Fin 8) =>
    a ||| at_ (s.bit (aRst k) 31 && (s.resets[k]).stretch.isSome) (8 + k.val) ||| at_ (s.rstOut k) k.val) 0

end Sys2Proof.Machine
end

