-- ==== Sys2Proof/Machine/Tornum.lean ====
section
/-! DEFINITION. The Tornum instruction words that wicks fetch: their operations, decoder and encoder (R190, R193,
R194, R206, R215, R216). A word that R177 calls ILLEGAL decodes to none. -/

namespace Sys2Proof.Machine

/-- An immediate, or the wick register that holds the operand at issue (R194). -/
inductive Ref (α : Type) where
  | imm (x : α)
  | reg (r : Fin 8)
  deriving DecidableEq, Repr

/-- A condition of WAITC and CHK (R190). -/
structure Cond where
  cc : Fin 64
  neg : Bool
  arg : Fin 512
  deriving DecidableEq, Repr

/-- The four forms of SETV (R215). -/
inductive SetvForm where
  | const (imm : Fin 2097152)
  | upper (imm : Fin 2048)
  | time (unit : Fin 4) (count : Fin 524288)
  | source (src : Fin 32) (arg : Ref (Fin 32768))
  deriving DecidableEq, Repr

/-- A Tornum operation. -/
inductive Op where
  | nop | halt | ret
  | en (a : Ref Rail) | dis (a : Ref Rail) | disch (a : Ref Rail)
  | ens (k : Fin 8) | diss (k : Fin 8)
  | wait (unit : Fin 4) (count : Fin 16777216) | sleephint (unit : Fin 4) (count : Fin 16777216)
  | waitc (c : Cond) (vt : Fin 8) | chk (c : Cond) (off : Fin 1024)
  | jmp (t : Ref (Fin 4096)) | call (t : Ref (Fin 4096))
  | loop (n : Ref (Fin 8192)) (last : Fin 4096)
  | marg (a : Ref Rail) (step : Ref (Fin 4096))
  | sig (scope : Fin 4) (node : Fin 64) (w : Fin 16) (num : Fin 16)
  | wsig (mask : Fin 65536) (all : Bool) (vt : Fin 8)
  | hitch (d : Fin 16) (vt : Fin 8) | unhitch (d : Fin 16)
  | log (code : Fin 256) (vr : Fin 8)
  | raise (sw : Fin 8)
  | sync (scope : Fin 4) (id : Fin 256) (vt : Fin 8)
  | setv (vd : Fin 8) (f : SetvForm)
  | addv (vd va : Fin 8) (b : Ref (Fin 524288))
  | tlm (p : Ref (Fin 128))
  | rsto (act : Fin 4) (out : Fin 8)
  | pmb (tpl : Fin 32) (vr : Fin 8)
  deriving DecidableEq, Repr

/-- Field [hi:lo] of a number. -/
def nfld (w hi lo : Nat) : Nat := w / 2 ^ lo % 2 ^ (hi + 1 - lo)

/-- Field of k bits at lo, as a bounded number. -/
def ffld (w lo k : Nat) : Fin (2 ^ k) := ⟨w / 2 ^ lo % 2 ^ k, Nat.mod_lt _ (Nat.two_pow_pos k)⟩

/-- The bits of ARG that a CC uses; none for a reserved CC (R190). -/
def ccBits : Nat → Option Nat
  | 0x00 | 0x12 | 0x13 | 0x29 | 0x32 | 0x38 | 0x39 | 0x3A | 0x3B | 0x3C => some 0
  | 0x01 | 0x04 | 0x06 | 0x30 => some 0x1FF
  | 0x02 | 0x03 | 0x05 | 0x07 => some 0x1F8
  | 0x08 | 0x09 | 0x0A | 0x21 => some 0x1F
  | 0x0B | 0x10 | 0x18 | 0x19 | 0x1A | 0x1B | 0x28 => some 0xF
  | 0x0C => some 0x3F
  | 0x11 => some 0x7F
  | 0x20 => some 3
  | 0x31 => some 7
  | _ => none

/-- A condition is defined: its CC is listed, its unused ARG bits are 0 and its REL is not reserved (R190, R191). -/
def Cond.legal (c : Cond) : Bool :=
  match ccBits c.cc with
  | none => false
  | some m => c.arg.val &&& m == c.arg.val && !(c.cc.val == 0x30 && c.arg.val % 8 == 7)

/-- What R177 asks of an operation beyond its fields' widths. -/
def Op.legal : Op → Bool
  | .waitc c _ => c.legal
  | .chk c _ => c.legal
  | .sig sc nd _ _ => (sc.val == 0 && nd.val == 0) || (sc.val == 1 && nd.val < 16) || sc.val == 2
  | .sync sc _ _ => sc.val == 1 || sc.val == 2
  | .setv _ (.source s _) => s.val < 9
  | .rsto act _ => act.val < 3
  | _ => true

/-- An indirect operand: with IND 1 the immediate field must be 0 (R194); with IND 0 the register field is not used. -/
def refOf {α : Type} (ind : Bool) (r : Fin 8) (x : α) (xZero : Bool) : Option (Ref α) :=
  if ind then (if xZero then some (.reg r) else none) else some (.imm x)

/-- The operation of a word by its format (R193), before the further rules of R177. -/
def decodeFields (w : Nat) : Option Op :=
  let op := nfld w 31 26
  if op = 0x00 then (if nfld w 25 0 = 0 then some .nop else none)
  else if op = 0x01 then (if nfld w 25 0 = 0 then some .halt else none)
  else if op = 0x02 ∨ op = 0x03 ∨ op = 0x18 then
    if nfld w 25 10 = 0 then
      (refOf (nfld w 9 9 = 1) (ffld w 6 3) (ffld w 0 6) (nfld w 5 0 = 0)).map
        (if op = 0x02 then .en else if op = 0x03 then .dis else .disch)
    else none
  else if op = 0x04 then (if nfld w 25 3 = 0 then some (.ens (ffld w 0 3)) else none)
  else if op = 0x05 then (if nfld w 25 3 = 0 then some (.diss (ffld w 0 3)) else none)
  else if op = 0x06 then some (.wait (ffld w 24 2) (ffld w 0 24))
  else if op = 0x07 then
    (if nfld w 9 3 = 0 then
      some (.waitc { cc := ffld w 20 6, neg := nfld w 19 19 = 1, arg := ffld w 10 9 } (ffld w 0 3)) else none)
  else if op = 0x08 then
    some (.chk { cc := ffld w 20 6, neg := nfld w 19 19 = 1, arg := ffld w 10 9 } (ffld w 0 10))
  else if op = 0x09 ∨ op = 0x0A then
    if nfld w 25 16 = 0 then
      (refOf (nfld w 15 15 = 1) (ffld w 12 3) (ffld w 0 12) (nfld w 11 0 = 0)).map
        (if op = 0x09 then .jmp else .call)
    else none
  else if op = 0x0B then (if nfld w 25 0 = 0 then some .ret else none)
  else if op = 0x0C then
    if nfld w 25 25 = 1 then
      (if nfld w 24 15 = 0 then some (.loop (.reg (ffld w 12 3)) (ffld w 0 12)) else none)
    else some (.loop (.imm (ffld w 12 13)) (ffld w 0 12))
  else if op = 0x0D then
    if nfld w 17 12 = 0 then
      match (if nfld w 25 25 = 1 then (if nfld w 23 21 = 0 then some (Ref.reg (ffld w 18 3)) else none)
        else some (.imm (ffld w 18 6))),
        (if nfld w 24 24 = 1 then (if nfld w 11 3 = 0 then some (Ref.reg (ffld w 0 3)) else none)
        else some (.imm (ffld w 0 12))) with
      | some a, some b => some (.marg a b)
      | _, _ => none
    else none
  else if op = 0x0E then
    (if nfld w 23 18 = 0 ∧ nfld w 11 8 = 0 then
      some (.sig (ffld w 24 2) (ffld w 12 6) (ffld w 4 4) (ffld w 0 4)) else none)
  else if op = 0x0F then
    (if nfld w 8 3 = 0 then some (.wsig (ffld w 10 16) (nfld w 9 9 = 1) (ffld w 0 3)) else none)
  else if op = 0x10 then
    (if nfld w 25 8 = 0 ∧ nfld w 3 3 = 0 then some (.hitch (ffld w 4 4) (ffld w 0 3)) else none)
  else if op = 0x11 then
    (if nfld w 25 8 = 0 ∧ nfld w 3 0 = 0 then some (.unhitch (ffld w 4 4)) else none)
  else if op = 0x12 then
    (if nfld w 17 3 = 0 then some (.log (ffld w 18 8) (ffld w 0 3)) else none)
  else if op = 0x13 then (if nfld w 25 3 = 0 then some (.raise (ffld w 0 3)) else none)
  else if op = 0x14 then
    (if nfld w 15 3 = 0 then some (.sync (ffld w 24 2) (ffld w 16 8) (ffld w 0 3)) else none)
  else if op = 0x15 then
    let vd := ffld w 23 3
    match nfld w 22 21 with
    | 0 => some (.setv vd (.const (ffld w 0 21)))
    | 1 => if nfld w 20 11 = 0 then some (.setv vd (.upper (ffld w 0 11))) else none
    | 2 => some (.setv vd (.time (ffld w 19 2) (ffld w 0 19)))
    | _ =>
      if nfld w 15 15 = 1 then
        (if nfld w 14 3 = 0 then some (.setv vd (.source (ffld w 16 5) (.reg (ffld w 0 3)))) else none)
      else some (.setv vd (.source (ffld w 16 5) (.imm (ffld w 0 15))))
  else if op = 0x16 then
    if nfld w 19 19 = 1 then some (.addv (ffld w 23 3) (ffld w 20 3) (.imm (ffld w 0 19)))
    else (if nfld w 15 0 = 0 then some (.addv (ffld w 23 3) (ffld w 20 3) (.reg (ffld w 16 3))) else none)
  else if op = 0x17 then
    if nfld w 25 11 = 0 then
      (refOf (nfld w 10 10 = 1) (ffld w 7 3) (ffld w 0 7) (nfld w 6 0 = 0)).map .tlm
    else none
  else if op = 0x19 then
    (if nfld w 25 5 = 0 then some (.rsto (ffld w 3 2) (ffld w 0 3)) else none)
  else if op = 0x1A then some (.sleephint (ffld w 24 2) (ffld w 0 24))
  else if op = 0x1B then
    (if nfld w 25 8 = 0 then some (.pmb (ffld w 3 5) (ffld w 0 3)) else none)
  else none

/-- The operation a word holds; none where R177 makes it ILLEGAL. -/
def decodeOp (w : Word) : Option Op :=
  match decodeFields w.toNat with
  | some o => if o.legal then some o else none
  | none => none

/-- An opcode and its operand bits (R193). -/
def opWord (op x : Nat) : Nat := op * 2 ^ 26 + x

def Ref.ind {α : Type} : Ref α → Nat
  | .imm _ => 0
  | .reg _ => 1

/-- The register field of an operand, 0 for an immediate. -/
def Ref.regv {α : Type} : Ref α → Nat
  | .imm _ => 0
  | .reg r => r.val

/-- The immediate field of an operand, 0 for a register. -/
def Ref.immv {n : Nat} : Ref (Fin n) → Nat
  | .imm x => x.val
  | .reg _ => 0

def Cond.bits (c : Cond) : Nat := c.cc.val * 2 ^ 20 + c.neg.toNat * 2 ^ 19 + c.arg.val * 2 ^ 10

def SetvForm.bits : SetvForm → Nat
  | .const i => i.val
  | .upper i => 1 * 2 ^ 21 + i.val
  | .time u c => 2 * 2 ^ 21 + u.val * 2 ^ 19 + c.val
  | .source s (.imm x) => 3 * 2 ^ 21 + s.val * 2 ^ 16 + x.val
  | .source s (.reg r) => 3 * 2 ^ 21 + s.val * 2 ^ 16 + 2 ^ 15 + r.val

/-- The number whose bits are an operation's word (R193, R194). -/
def encodeNat : Op → Nat
  | .nop => opWord 0x00 0
  | .halt => opWord 0x01 0
  | .en a => opWord 0x02 (a.ind * 2 ^ 9 + a.regv * 2 ^ 6 + a.immv)
  | .dis a => opWord 0x03 (a.ind * 2 ^ 9 + a.regv * 2 ^ 6 + a.immv)
  | .ens k => opWord 0x04 k.val
  | .diss k => opWord 0x05 k.val
  | .wait u c => opWord 0x06 (u.val * 2 ^ 24 + c.val)
  | .waitc c vt => opWord 0x07 (c.bits + vt.val)
  | .chk c off => opWord 0x08 (c.bits + off.val)
  | .jmp t => opWord 0x09 (t.ind * 2 ^ 15 + t.regv * 2 ^ 12 + t.immv)
  | .call t => opWord 0x0A (t.ind * 2 ^ 15 + t.regv * 2 ^ 12 + t.immv)
  | .ret => opWord 0x0B 0
  | .loop n e => opWord 0x0C (n.ind * 2 ^ 25 + (n.regv + n.immv) * 2 ^ 12 + e.val)
  | .marg a s => opWord 0x0D (a.ind * 2 ^ 25 + s.ind * 2 ^ 24 + (a.regv + a.immv) * 2 ^ 18 + (s.regv + s.immv))
  | .sig sc nd w n => opWord 0x0E (sc.val * 2 ^ 24 + nd.val * 2 ^ 12 + w.val * 2 ^ 4 + n.val)
  | .wsig m all vt => opWord 0x0F (m.val * 2 ^ 10 + all.toNat * 2 ^ 9 + vt.val)
  | .hitch d vt => opWord 0x10 (d.val * 2 ^ 4 + vt.val)
  | .unhitch d => opWord 0x11 (d.val * 2 ^ 4)
  | .log c vr => opWord 0x12 (c.val * 2 ^ 18 + vr.val)
  | .raise sw => opWord 0x13 sw.val
  | .sync sc id vt => opWord 0x14 (sc.val * 2 ^ 24 + id.val * 2 ^ 16 + vt.val)
  | .setv vd f => opWord 0x15 (vd.val * 2 ^ 23 + f.bits)
  | .addv vd va (.imm x) => opWord 0x16 (vd.val * 2 ^ 23 + va.val * 2 ^ 20 + 2 ^ 19 + x.val)
  | .addv vd va (.reg r) => opWord 0x16 (vd.val * 2 ^ 23 + va.val * 2 ^ 20 + r.val * 2 ^ 16)
  | .tlm p => opWord 0x17 (p.ind * 2 ^ 10 + p.regv * 2 ^ 7 + p.immv)
  | .disch a => opWord 0x18 (a.ind * 2 ^ 9 + a.regv * 2 ^ 6 + a.immv)
  | .rsto act out => opWord 0x19 (act.val * 2 ^ 3 + out.val)
  | .sleephint u c => opWord 0x1A (u.val * 2 ^ 24 + c.val)
  | .pmb t vr => opWord 0x1B (t.val * 2 ^ 3 + vr.val)

/-- The word of an operation. -/
def encodeOp (o : Op) : Word := BitVec.ofNat 32 (encodeNat o)

end Sys2Proof.Machine
end

