-- ==== Sys2Proof/Machine/Wick.lean ====
section
/-! DEFINITION. The wicks: fetch and issue (R167 to R177), the conditions (R190, R191), every Tornum instruction
(R195 to R224), the ends of waits, starts and stops, and the image commands (R181 to R184). -/

namespace Sys2Proof.Machine

/-! Fetch and issue -/

/-- The wicks have slots: the device is in RUN and the instruction memory is not reloading (R169, R182). -/
def State.slots (s : State) : Bool :=
  s.power.phase == .run && s.power.state == .run && !s.power.waking && !s.keeper.activating

/-- The wick issues in its next slot (R172, R176). -/
def State.mayIssue (s : State) (w : WickId) : Bool := s.slots && (s.wk w).st == .run && !(s.wk w).stop

/-- The word at an address of the instruction memory. -/
def State.imemWord (s : State) (a : Nat) : Word := (look s.imem a).getD 0

/-- The operation a wick issues; none where it issues nothing or the fetch or the word faults. -/
def State.current (s : State) (w : WickId) : Option Op :=
  if s.mayIssue w && (s.wk w).pc.toNat < s.liveLen then decodeOp (s.imemWord (s.wk w).pc.toNat) else none

/-- A loop is active and the instruction issues at its depth (R203). -/
def Wick.looping (x : Wick) : Bool := x.lc != 0 && x.stack.length == x.ldepth

/-- The end of the loop's body (R203). -/
def Wick.bodyEnd (x : Wick) : Wick :=
  { x with lc := x.lc - 1, pc := if x.lc = 1 then x.lend + 1 else x.lstart }

/-- On to the following instruction. R177 does not say what follows address 4,095 of an image of 4,096 instructions: PC wraps
to 0 without a PCRANGE fault (DESIGN CHOICE, log 26). -/
def Wick.advance (x : Wick) : Wick :=
  if x.looping && x.pc == x.lend then x.bodyEnd else { x with pc := x.pc + 1 }

/-- A transfer of control to a target (R203, R204). -/
def Wick.transfer (x : Wick) (t : BitVec 12) : Wick :=
  if !x.looping then { x with pc := t }
  else if t < x.lstart || x.lend < t then { x with lc := 0, pc := t }
  else if x.pc = x.lend then x.bodyEnd
  else { x with pc := t }

def State.mapWk (s : State) (w : WickId) (f : Wick → Wick) : State := s.setWk w (f (s.wk w))
def State.advance (s : State) (w : WickId) : State := s.mapWk w Wick.advance

/-- A wick fault (R175, R177); a program it ran ends (R236). -/
def Cyc.wickFault (c : Cyc) (w : WickId) (code : BitVec 4) : Cyc :=
  ((c.map (fun s => s.mapWk w (fun x => { x with st := .fault, fault := true, fcode := code, deadline := none }.bump))
    ).wickEnded w true).raise (srcWick w)

def State.wickFault (s : State) (w : WickId) (code : BitVec 4) : State := s.cyc (fun c => c.wickFault w code)

/-! Operands (R185, R194) -/

def State.vreg (s : State) (w : WickId) (r : Fin 8) : Word := (s.wk w).v[r]
def State.setV (s : State) (w : WickId) (r : Fin 8) (v : Word) : State :=
  s.mapWk w (fun x => { x with v := x.v.set r v })

/-- An operand: the immediate, or the low k bits of its register. -/
def State.operand {n : Nat} (s : State) (w : WickId) (k : Nat) : Ref (Fin n) → Nat
  | .imm x => x.val
  | .reg r => (s.vreg w r).toNat % 2 ^ k

def State.railOf (s : State) (w : WickId) (a : Ref Rail) : Rail := Fin.ofNat 64 (s.operand w 6 a)

/-- The duration in cycles of a time operand in a register. -/
def State.vtime (s : State) (w : WickId) (r : Fin 8) : Nat :=
  unitCycles (wfld (s.vreg w r) 25 24) (wfld (s.vreg w r) 23 0)

/-! Conditions (R147, R190, R191) -/

/-- TLM_THRk holds. -/
def State.thrHolds (s : State) (k : Nat) : Bool :=
  let t := s.reg (aThr k)
  let p := wfld t 22 16
  let v := ptVal p (if tst t 30 then s.fld (aLast p) 15 0 else s.fld (aVal p) 15 0)
  let lim := ptVal p (wfld t 15 0)
  tst t 31 && (if tst t 29 then v < lim else lim < v)

/-- MON_AUXSTAT. -/
def State.auxStat (s : State) : Word :=
  (List.finRange 16).foldl (fun (a : Word) (n : Fin 16) =>
    a ||| at_ (s.aux[n]).high (16 + n.val) ||| at_ (s.aux[n]).low n.val) 0

/-- The bit of CH_FLAGS that a code f names. -/
def flagBit (f : Nat) : Nat :=
  match f with | 0 => 3 | 1 => 4 | 2 => 5 | 3 => 0 | 4 => 1 | 5 => 2 | 6 => 12 | _ => 15

/-- The test of a condition, before NEG. -/
def State.test (s : State) (w : WickId) (cc arg : Nat) : Bool :=
  let x := s.wk w
  let r : Rail := Fin.ofNat 64 (arg / 8)
  let d : DomId := Fin.ofNat 16 arg
  let aux (v : Word) : Bool := tst v (arg % 16 + (if arg / 16 % 2 = 1 then 16 else 0))
  match cc with
  | 0x00 => true
  | 0x01 => (s.ch r).st.code == arg % 8
  | 0x02 => (s.ch r).pg
  | 0x03 => s.belowVoff r
  | 0x04 => s.bit (aChFlags r) (flagBit (arg % 8))
  | 0x05 => s.settled r
  | 0x06 => (s.ch r).trip.toNat == arg % 8
  | 0x07 => s.enout r
  | 0x08 => aux (s.reg aAuxFlg)
  | 0x09 => aux (s.reg aAuxLat)
  | 0x0A => aux s.auxStat
  | 0x0B => s.fld (aStFail (arg % 16)) 15 0 != 0
  | 0x0C => s.bit (aLhDeg (arg % 64 / 32)) (arg % 32)
  | 0x10 => s.thrHolds (arg % 16)
  | 0x11 => s.bit (aVal (arg % 128)) 31
  | 0x12 => s.bit aRawStat 30
  | 0x13 => s.lhBusy
  | 0x18 => s.dpg d
  | 0x19 => s.doff d
  | 0x1A => s.owns (.wick w) d
  | 0x1B => (s.dom d).owner != .none
  | 0x20 => s.bit aMonVin (arg % 4)
  | 0x21 => tst s.rsvStat (arg % 32)
  | 0x28 => x.sigs.getLsbD (arg % 16)
  | 0x29 => x.sigs != 0
  | 0x30 =>
    let a := x.v[Fin.ofNat 8 (arg / 64)]
    let b := x.v[Fin.ofNat 8 (arg / 8)]
    match arg % 8 with
    | 0 => a == b
    | 1 => a != b
    | 2 => a.slt b
    | 3 => !a.slt b
    | 4 => a.ult b
    | 5 => !a.ult b
    | _ => a &&& b != 0
  | 0x31 => x.v[Fin.ofNat 8 arg] == 0
  | 0x32 => x.lc == 0
  | 0x38 => x.tout
  | 0x39 => x.cref
  | 0x3A => x.pmbf
  | 0x3B => x.sfail
  | 0x3C => s.synced
  | _ => false

/-- A condition holds. -/
def State.holds (s : State) (w : WickId) (c : Cond) : Bool := s.test w c.cc c.arg != c.neg

/-- The condition names a point above 123 or a bank above 10 (R177). -/
def Cond.badOperand (c : Cond) : Bool :=
  (c.cc.val == 0x0B && 10 < c.arg.val % 16) || (c.cc.val == 0x11 && 123 < c.arg.val % 128)

/-! Waits -/

/-- The wick goes on after a wait with a timeout, TO showing the outcome (R187, R192). -/
def State.goOn (s : State) (w : WickId) (timeout : Bool) : State :=
  s.mapWk w (fun x => { x.resume with tout := timeout })

/-- A waiting instruction with a timeout issues: its first test has succeeded, or is also the last (the next slot lies
16 cycles on), or the wick waits (R187). At the END of a loop body LC counts at the issue, not when the wait ends, of which
R203 says nothing (DESIGN CHOICE, log 26). -/
def State.waitOrGo (s : State) (w : WickId) (ok : Bool) (dur : Nat) (k : WaitFor) : State :=
  let s := s.advance w
  if ok then s.mapWk w (fun x => { x with tout := false })
  else if dur < 16 then s.mapWk w (fun x => { x with tout := true })
  else s.mapWk w (fun x => { x with st := .wait k, deadline := s.timer dur })

/-- WSIG's test (R208). -/
def Wick.sigTest (x : Wick) (mask : BitVec 16) (all : Bool) : Bool :=
  mask == 0 || (if all then x.sigs &&& mask == mask else x.sigs &&& mask != 0)

/-- A HITCH cannot succeed (R229, R242). -/
def State.hitchBarred (s : State) (w : WickId) (d : DomId) : Bool := !s.takesPart d || s.pwick d == w

/-- The wick leaves the queue of a hitch (R259). -/
def State.leaveQueue (s : State) (w : WickId) (d : DomId) : State :=
  s.setDom d { s.dom d with queue := (s.dom d).queue.filter (· != w) }

/-! The command right (R196, R238, R241) -/

/-- The wick holds the command right over a rail. -/
def State.hasRight (s : State) (w : WickId) (r : Rail) : Bool :=
  match s.domOf r with
  | none => true
  | some d => if (s.dom d).prog != .none then s.pwick d == w else s.owns (.wick w) d

/-- The domain whose down-program the wick runs. -/
def State.downOf (s : State) (w : WickId) : Option DomId :=
  allDoms.find? (fun d => (s.dom d).prog == .down && s.pwick d == w)

/-- The rails of a set register. -/
def State.setRails (s : State) (k : Fin 8) : List Rail :=
  allRails.filter (fun r => s.bit (aSeqSet k (r / 32)) (r % 32))

def Cyc.cref (c : Cyc) (w : WickId) (b : Bool) : Cyc := c.map (fun s => s.mapWk w (fun x => { x with cref := b }))

/-- A rail command to several rails at once; CREF is set when the sequencer or a channel refuses it (R192, R196). The other
causes of the cycle act in any case (R53). -/
def State.railCmd (s : State) (w : WickId) (l : List Rail) (k : Cause) (co : List Hit) : State :=
  (s.advance w).cyc (fun c =>
    if !l.all (fun r => c.s.hasRight w r) then (c.hitsWith [] co).cref w true
    else
      let c := c.hitsWith (l.map (fun r => { rail := r, cause := k })) co
      c.cref w c.refused)

/-- EN and ENS (R238). -/
def State.enCmd (s : State) (w : WickId) (l : List Rail) (co : List Hit) : State :=
  if (s.downOf w).isSome then (s.advance w).cyc (fun c => (c.hitsWith [] co).cref w true) else s.railCmd w l .enable co

/-- DIS and DISS: in a down-program only to rails that run, and the wick waits for those moved into FALLING as MODE
says (R197, R238, R252 to R254). -/
def State.disCmd (s : State) (w : WickId) (l : List Rail) (co : List Hit) : State :=
  match s.downOf w with
  | none => s.railCmd w l .disable co
  | some d =>
    if !l.all (fun r => s.hasRight w r) then (s.advance w).cyc (fun c => (c.hitsWith [] co).cref w true)
    else
      let run := l.filter (fun r => match (s.ch r).st with | .rising | .on | .margined => true | _ => false)
      (s.advance w).cyc (fun c =>
        let c := (c.hitsWith (run.map (fun r => { rail := r, cause := .disable })) co).cref w false
        let moved := run.filter (fun r => (c.s.ch r).st == .falling && (c.s.domOf r).isSome)
        let ends := moved.filterMap (fun r => (c.s.ch r).toff)
        if moved.isEmpty then c
        else c.map (fun s => s.mapWk w (fun x => { x with
          st := .wait (.dis (s.bit (aDCfg d) 30) moved), deadline := some (ends.foldl max s.cycle) })))

/-! Instructions -/

/-- NOP. -/
def execNop (w : WickId) (s : State) : Res :=
  .next (match s.current w with | some .nop => s.advance w | _ => s)

/-- HALT: PC stays at the HALT (R172, R175). -/
def execHalt (w : WickId) (s : State) : Res :=
  .next (match s.current w with
    | some .halt => s.cyc (fun c => (c.map (fun s => s.mapWk w (fun x => { x with st := .halted }.bump))).wickEnded w false)
    | _ => s)

/-- EN. -/
def execEn (w : WickId) (co : List Hit) (s : State) : Res :=
  .next (match s.current w with | some (.en a) => s.enCmd w [s.railOf w a] co | _ => s)

/-- DIS. -/
def execDis (w : WickId) (co : List Hit) (s : State) : Res :=
  .next (match s.current w with | some (.dis a) => s.disCmd w [s.railOf w a] co | _ => s)

/-- ENS. -/
def execEns (w : WickId) (co : List Hit) (s : State) : Res :=
  .next (match s.current w with | some (.ens k) => s.enCmd w (s.setRails k) co | _ => s)

/-- DISS. -/
def execDiss (w : WickId) (co : List Hit) (s : State) : Res :=
  .next (match s.current w with | some (.diss k) => s.disCmd w (s.setRails k) co | _ => s)

/-- DISCH. -/
def execDisch (w : WickId) (co : List Hit) (s : State) : Res :=
  .next (match s.current w with | some (.disch a) => s.railCmd w [s.railOf w a] .disch co | _ => s)

/-- WAIT: a duration of 0 continues at the next slot (R186). -/
def execWait (w : WickId) (s : State) : Res :=
  .next (match s.current w with
    | some (.wait u n) =>
      let d := unitCycles u n
      let s := s.advance w
      if d = 0 then s else s.mapWk w (fun x => { x with st := .wait .time, deadline := s.timer d })
    | _ => s)

/-- WAITC. -/
def execWaitc (w : WickId) (s : State) : Res :=
  .next (match s.current w with
    | some (.waitc c vt) =>
      if c.badOperand then s.wickFault w 5
      else s.waitOrGo w (s.holds w c) (s.vtime w vt)
        (.cond (BitVec.ofNat 6 c.cc.val) c.neg (BitVec.ofNat 9 c.arg.val))
    | _ => s)

/-- CHK: a signed offset from its own address (R199). Where address and offset leave 0 to 4,095 the target wraps, as PC does
(DESIGN CHOICE, log 26). -/
def execChk (w : WickId) (s : State) : Res :=
  .next (match s.current w with
    | some (.chk c off) =>
      if c.badOperand then s.wickFault w 5
      else if s.holds w c then s.mapWk w (fun x => x.transfer (x.pc + (BitVec.ofNat 10 off.val).signExtend 12))
      else s.advance w
    | _ => s)

/-- JMP. -/
def execJmp (w : WickId) (s : State) : Res :=
  .next (match s.current w with
    | some (.jmp t) => s.mapWk w (fun x => x.transfer (BitVec.ofNat 12 (s.operand w 12 t)))
    | _ => s)

/-- CALL (R200, R204). -/
def execCall (w : WickId) (s : State) : Res :=
  .next (match s.current w with
    | some (.call t) =>
      let x := s.wk w
      if 4 ≤ x.stack.length then s.wickFault w 3
      else s.setWk w { x with stack := (x.pc + 1) :: x.stack, pc := BitVec.ofNat 12 (s.operand w 12 t) }
    | _ => s)

/-- RET. -/
def execRet (w : WickId) (s : State) : Res :=
  .next (match s.current w with
    | some .ret =>
      match (s.wk w).stack with
      | [] => s.wickFault w 3
      | a :: l => s.mapWk w (fun x => { x.transfer a with stack := l })
    | _ => s)

/-- The opcodes that may not stand at the end of a loop (R202). -/
def endBarred (v : Word) : Bool :=
  let op := wfld v 31 26
  op == 0x09 || op == 0x08 || op == 0x0A || op == 0x0B || op == 0x0C || op == 0x01

/-- LOOP (R201 to R203). -/
def execLoop (w : WickId) (s : State) : Res :=
  .next (match s.current w with
    | some (.loop n e) =>
      let x := s.wk w
      if x.lc ≠ 0 || e.val < x.pc.toNat + 1 || s.liveLen ≤ e.val || endBarred (s.imemWord e) then s.wickFault w 4
      else
        let count := s.operand w 16 n
        if count = 0 then s.setWk w { x with pc := BitVec.ofNat 12 (e.val + 1) }
        else s.setWk w { x with
          lc := BitVec.ofNat 16 count, lstart := x.pc + 1, lend := BitVec.ofNat 12 e.val, ldepth := x.stack.length
          pc := x.pc + 1 }
    | _ => s)

/-- MARG: under the command right, to a rail in ON or MARGINED, in the channel's range (R72, R205, R309). Its value stands
against a write of STEP in the same cycle (R170, R313). -/
def execMarg (w : WickId) (co : List Hit) (s : State) : Res :=
  .next (match s.current w with
    | some (.marg a b) =>
      let r := s.railOf w a
      let v := sgn 12 (s.operand w 12 b)
      let live := (s.ch r).st == .on || (s.ch r).st == .margined
      (s.advance w).cyc (fun c =>
        if !c.s.hasRight w r || !live then (c.hitsWith [] co).cref w true
        else if !c.s.stepOk r (c.s.pmbPath r) v then ((c.flag r 13).hitsWith [] co).cref w true
        else
          let co := co.filter (fun h => h.rail != r || (match h.cause with | .margin _ => false | _ => true))
          (c.hitsWith [{ rail := r, cause := .margin v }] co).cref w false)
    | _ => s)

/-- A remote SIG issues: SFAIL at once, or the wait for its confirmation (R206). -/
def State.sigWaitOr (q : State × Option Bool) (w : WickId) (ring : Bool) (target : BitVec 6) : State :=
  let s := q.1.advance w
  match q.2 with
  | some fail => s.mapWk w (fun x => { x with sfail := fail })
  | none => s.mapWk w (fun x => { x with st := .wait (.remote ring target) })

/-- SIG. -/
def execSig (w : WickId) (s : State) : Res :=
  .next (match s.current w with
    | some (.sig sc nd tw n) =>
      if sc.val = 0 then (s.advance w).setSignal tw n
      else if sc.val = 1 then
        State.sigWaitOr (s.sigTether w { target := Fin.ofNat 16 nd.val, wick := tw, num := n }) w false (BitVec.ofNat 6 nd.val)
      else State.sigWaitOr (s.sigRing w (BitVec.ofNat 6 nd.val) tw n) w true (BitVec.ofNat 6 nd.val)
    | _ => s)

/-- WSIG (R208). A signal that arrives in the cycle of the test is not seen by it and ends set (R209). -/
def execWsig (w : WickId) (arr : BitVec 16) (s : State) : Res :=
  .next (match s.current w with
    | some (.wsig m all vt) =>
      let mask := BitVec.ofNat 16 m.val
      let ok := (s.wk w).sigTest mask all
      let s := s.waitOrGo w ok (s.vtime w vt) (.flags mask all)
      s.mapWk w (fun x => { x with sigs := (if ok then x.sigs &&& ~~~mask else x.sigs) ||| arr })
    | _ => s)

/-- HITCH (R210, R242, R258). -/
def execHitch (w : WickId) (s : State) : Res :=
  .next (match s.current w with
    | some (.hitch d vt) =>
      if s.hitchBarred w d then (s.advance w).mapWk w (fun x => { x with tout := true })
      else
        let free := (s.dom d).owner == .none && (s.dom d).queue.isEmpty
        let s := if free then s.setDom d { s.dom d with owner := .wick w, epoch := (s.wk w).epoch } else s
        let ok := s.owns (.wick w) d
        let dur := s.vtime w vt
        let s := s.waitOrGo w ok dur (.hitch d)
        if !ok && 16 ≤ dur then s.setDom d { s.dom d with queue := (s.dom d).queue ++ [w] } else s
    | _ => s)

/-- UNHITCH (R211). -/
def execUnhitch (w : WickId) (s : State) : Res :=
  .next (match s.current w with
    | some (.unhitch d) =>
      let ok := s.owns (.wick w) d
      let s := (s.advance w).mapWk w (fun x => { x with cref := !ok })
      if ok then s.releaseHitch d else s
    | _ => s)

/-- LOG: into the wick's buffer of one event, or a wait for it (R212). -/
def execLog (w : WickId) (s : State) : Res :=
  .next (match s.current w with
    | some (.log code vr) =>
      let c := BitVec.ofNat 8 code.val
      let v := s.vreg w vr
      let t := s.now
      (s.advance w).mapWk w (fun x =>
        if x.logBuf.isNone then { x with logBuf := some { code := c, value := v, time := t } }
        else { x with st := .wait (.logger c v t) })
    | _ => s)

/-- RAISE of a software source (R213). -/
def execRaise (w : WickId) (co : List Hit) (s : State) : Res :=
  .next (match s.current w with
    | some (.raise n) => (s.advance w).cyc (fun c => (c.hitsWith [] co).raise (srcSw n))
    | _ => s)

/-- SYNC: on a device without the barrier it arrives nowhere, so nothing but its timeout ends it (R510, R511); an arrival that
completes its barrier releases the wick in the same cycle (R510, R512); a timeout below one slot ends
any other at once (R187, R214). A wick that has not waited keeps its hint (R220). -/
def execSync (w : WickId) (s : State) : Res :=
  .next (match s.current w with
    | some (.sync sc id vt) =>
      let ring := sc.val == 2
      let b := BitVec.ofNat 8 id.val
      let dur := s.vtime w vt
      let nowhere := !(if ring then s.ringLive else s.tBarriers)
      let s := (s.advance w).mapWk w (fun x => { x with
        st := .wait (.barrier ring b), deadline := s.timer dur, released := false, nowhere := nowhere })
      let s := if nowhere then s else s.barrierArrive ring b
      let go (s : State) (timeout : Bool) : State :=
        s.mapWk w (fun x => { x with st := .run, deadline := none, released := false, tout := timeout })
      if (s.wk w).released then go s false
      else if dur < 16 then (go s true).leaveBarrier w ring b
      else s
    | _ => s)

/-- The value of a SETV source; none where the argument is out of range (R216). -/
def State.source (s : State) (w : WickId) (src arg : Nat) : Option Word :=
  let pt (hi lo : Nat) (a : Nat) : Option Word :=
    if 124 ≤ arg then none else some (BitVec.ofInt 32 (ptVal arg (s.fld a hi lo)))
  let zero (v : Word) : Option Word := if arg = 0 then some v else none
  match src with
  | 0 => pt 15 0 (aVal arg)
  | 1 => pt 15 0 (aLast arg)
  | 2 => pt 31 16 (aLast arg)
  | 3 => zero (s.now.setWidth 32)
  | 4 => zero ((s.now >>> 32).setWidth 32)
  | 5 => if 64 ≤ arg then none else some (s.chState (Fin.ofNat 64 arg))
  | 6 => if 64 ≤ arg then none else some (s.chFlags (Fin.ofNat 64 arg))
  | 7 => zero ((s.wk w).lc.setWidth 32)
  | _ => zero ((s.wk w).sigs.setWidth 32)

/-- SETV (R215, R216). -/
def execSetv (w : WickId) (s : State) : Res :=
  .next (match s.current w with
    | some (.setv vd f) =>
      match f with
      | .const i => (s.advance w).setV w vd ((BitVec.ofNat 21 i.val).signExtend 32)
      | .upper i => (s.advance w).setV w vd (put (s.vreg w vd) 31 21 i.val)
      | .time u n => (s.advance w).setV w vd (put (put 0 25 24 u.val) 23 0 n.val)
      | .source src a =>
        match s.source w src (s.operand w 32 a) with
        | some v => (s.advance w).setV w vd v
        | none => s.wickFault w 5
    | _ => s)

/-- ADDV (R217). -/
def execAddv (w : WickId) (s : State) : Res :=
  .next (match s.current w with
    | some (.addv vd va b) =>
      let y : Word := match b with
        | .imm x => (BitVec.ofNat 19 x.val).signExtend 32
        | .reg r => s.vreg w r
      (s.advance w).setV w vd (s.vreg w va + y)
    | _ => s)

/-- TLM (R146, R218). -/
def execTlm (w : WickId) (s : State) : Res :=
  .next (match s.current w with
    | some (.tlm p) =>
      let n := s.operand w 7 p
      if h : n < 124 then (s.advance w).tlmRequest ⟨n, h⟩ else s.wickFault w 5
    | _ => s)

/-- RSTO (R219, R323); `write`: a write of MRG_RSTOVR in its cycle, which applies first (R170). -/
def execRsto (w : WickId) (write : Option Word) (s : State) : Res :=
  .next (match s.current w with
    | some (.rsto act out) =>
      let s := match write with | some v => s.fab (fun s => (s.rstOvrWrite v).1) | none => s
      (s.advance w).setOvr out act
    | _ => s)

/-- SLEEPHINT (R220). -/
def execSleephint (w : WickId) (s : State) : Res :=
  .next (match s.current w with
    | some (.sleephint u n) =>
      let d := unitCycles u n
      (s.advance w).mapWk w (fun x => { x with hint := if d = 0 then none else s.timer d })
    | _ => s)

/-- PMB (R222, R224). A SEND_BYTE template counts as one that writes, of which R224 says nothing (DESIGN CHOICE, log 26). -/
def execPmb (w : WickId) (s : State) : Res :=
  .next (match s.current w with
    | some (.pmb k vr) =>
      let t := s.reg (aPmbt k)
      if !tst t 31 then s.wickFault w 5
      else
        let port : Fin 4 := Fin.ofNat 4 (wfld t 30 29)
        let addr : BitVec 7 := BitVec.ofNat 7 (wfld t 28 22)
        let type := wfld t 21 19
        let cmd : BitVec 8 := BitVec.ofNat 8 (wfld t 7 0)
        let v := s.vreg w vr
        let data : BitVec 16 := if type = 1 then (v.setWidth 8).setWidth 16 else if type = 2 then v.setWidth 16 else 0
        let barred := type < 3 && (match s.boundRail port addr with | some r => !s.hasRight w r | none => false)
        let badOp := cmd == 0x01 && type == 1 && wfld v 7 6 != 2
        let s := s.advance w
        if barred || badOp then s.mapWk w (fun x => { x with cref := true, pmbf := true })
        else
          let s := s.mapWk w (fun x => { x with cref := false, st := .wait .pmbus })
          s.queueTx port [{ owner := .template w (3 ≤ type) vr, addr := addr, cmd := cmd, data := data }]
    | _ => s)

/-- ILLEGAL_INSTRUCTION: a malformed word, or a fetch outside the image (R177). -/
def execIllegalInstruction (w : WickId) (s : State) : Res :=
  .next (if !s.mayIssue w then s
    else if s.liveLen ≤ (s.wk w).pc.toNat then s.wickFault w 2
    else match decodeOp (s.imemWord (s.wk w).pc.toNat) with
      | none => s.wickFault w 1
      | some _ => s)

/-! Ends of waits -/

/-- A waiting wick has a slot in which its wait may end (R176, R189). -/
def State.mayEnd (s : State) (w : WickId) : Bool := s.slots && !(s.wk w).stop

/-- WAIT_END (R186). -/
def execWaitEnd (w : WickId) (s : State) : Res :=
  .next (if s.mayEnd w && (s.wk w).st == .wait .time then s.mapWk w Wick.resume else s)

/-- WAIT_TIMEOUT: the last test fails (R187, R208, R210, R214). -/
def execWaitTimeout (w : WickId) (s : State) : Res :=
  .next (if !s.mayEnd w then s
    else match (s.wk w).st with
      | .wait (.cond cc neg arg) => if s.test w cc.toNat arg.toNat != neg then s else s.goOn w true
      | .wait (.flags m all) => if (s.wk w).sigTest m all then s else s.goOn w true
      | .wait (.hitch d) => if s.owns (.wick w) d then s else (s.leaveQueue w d).goOn w true
      | .wait (.barrier ring id) => if (s.wk w).released then s else (s.goOn w true).leaveBarrier w ring id
      | _ => s)

/-- WAITC_SUCCESS. -/
def execWaitcSuccess (w : WickId) (s : State) : Res :=
  .next (if !s.mayEnd w then s
    else match (s.wk w).st with
      | .wait (.cond cc neg arg) => if s.test w cc.toNat arg.toNat != neg then s.goOn w false else s
      | _ => s)

/-- WSIG_SUCCESS: the selected flags that are set are consumed (R208). A signal that arrives in the cycle of the test is
not seen by it and ends set (R209). -/
def execWsigSuccess (w : WickId) (arr : BitVec 16) (s : State) : Res :=
  .next (if !s.mayEnd w then s
    else match (s.wk w).st with
      | .wait (.flags m all) =>
        if (s.wk w).sigTest m all then (s.goOn w false).mapWk w (fun x => { x with sigs := (x.sigs &&& ~~~m) ||| arr })
        else s
      | _ => s)

/-- HITCH_SUCCESS (R259). -/
def execHitchSuccess (w : WickId) (s : State) : Res :=
  .next (if !s.mayEnd w then s
    else match (s.wk w).st with
      | .wait (.hitch d) => if s.owns (.wick w) d then (s.leaveQueue w d).goOn w false else s
      | _ => s)

/-- SYNC_SUCCESS (R512). -/
def execSyncSuccess (w : WickId) (s : State) : Res :=
  .next (if !s.mayEnd w then s
    else match (s.wk w).st with
      | .wait (.barrier _ _) => if (s.wk w).released then s.goOn w false else s
      | _ => s)

/-- LOG_STALL_END (R212). -/
def execLogStallEnd (w : WickId) (s : State) : Res :=
  .next (if !s.mayEnd w then s
    else match (s.wk w).st with
      | .wait (.logger c v t) =>
        if (s.wk w).logBuf.isNone then
          s.mapWk w (fun x => { x.resume with logBuf := some { code := c, value := v, time := t } })
        else s
      | _ => s)

/-- DIS_WAIT_END: in THRESHOLD mode no rail is in FALLING any more (R252, R253). -/
def execDisWaitEnd (w : WickId) (s : State) : Res :=
  .next (if !s.mayEnd w then s
    else match (s.wk w).st with
      | .wait (.dis thr l) =>
        if thr && l.any (fun r => (s.ch r).st == .falling) then s else s.mapWk w Wick.resume
      | _ => s)

/-- A wait is abandoned; it leaves no trace (R176). -/
def State.abandon (s : State) (w : WickId) (st : WickState) : State :=
  match st with
  | .wait (.hitch d) => s.leaveQueue w d
  | .wait (.barrier ring id) => if (s.wk w).released then s else s.leaveBarrier w ring id
  | .wait (.remote _ _) => s.dropSig w
  | .wait .pmbus =>
    let mine (t : PmbTx) : Bool := match t.owner with | .template v _ _ => v == w | _ => false
    s.forAll (List.finRange 4) (fun s p =>
      let x := s.ports[p]
      s.setPort p { x with
        queue := x.queue.filter (fun t => !mine t)
        cur := x.cur.map (fun t => if mine t then { t with owner := .discarded } else t) })
  | _ => s

/-- A wick stops: HALTED, its epoch incremented, its wait abandoned (R175, R176, R220). -/
def State.stopWick (s : State) (w : WickId) : State :=
  let st := (s.wk w).st
  (s.mapWk w (fun x => { x with st := .halted, hint := none, deadline := none, stop := false }.bump)).abandon w st

/-- WICK_BOUNDARY_STOP: a domain that needs the wick ends the program it runs and starts the one ordered (R176, R235,
R245), with the cascade of a down-program (R250); in a power fail a program ends with LAST 7 (R574). -/
def execWickBoundaryStop (w : WickId) (s : State) : Res :=
  .next (if !(s.wk w).stop then s
    else s.cyc (fun c =>
      let c := c.map (fun s => s.stopWick w)
      match allDoms.find? (fun d => c.s.pwick d == w && c.s.canLaunch d) with
      | none =>
        if c.s.power.phase == .powerFail then
          match c.s.progOf w with
          | some d => c.endProg d 7
          | none => c
        else c.wickEnded w false
      | some d => c.launch 17 [d]))

/-! Commands to wicks -/

/-- START of a wick; whether it is accepted (R173, R174, R237). -/
def State.wickStart (s : State) (w : WickId) (a : BitVec 12) : State × Bool :=
  if (s.progOf w).isSome || !s.canStart w a then (s.orReg aSeqStat (bitw 0), false) else (s.startWick w a, true)

/-- STOP of a wick; whether it is accepted (R176, R237). -/
def State.wickStop (s : State) (w : WickId) : State × Bool :=
  if (s.progOf w).isSome then (s.orReg aSeqStat (bitw 0), false)
  else match (s.wk w).st with
    | .run | .wait _ => (s.mapWk w (fun x => { x with stop := true }), true)
    | _ => (s, true)

/-- WICK_START. -/
def execWickStart (_who : Who) (w : WickId) (a : BitVec 12) (s : State) : Res :=
  .next (s.fab (fun s => (s.wickStart w a).1))
/-- WICK_STOP. -/
def execWickStop (_who : Who) (w : WickId) (s : State) : Res := .next (s.fab (fun s => (s.wickStop w).1))
/-- SIGSET (R209). -/
def execSigset (_who : Who) (w : WickId) (n : Fin 16) (s : State) : Res := .next (s.fab (fun s => s.setSignal w n))

/-- A write of SEQ_WCMDn (R173, R176, R209): START and STOP together are refused. -/
def State.wickCmd (s : State) (w : WickId) (v : Word) : State × Bool :=
  if tst v 31 && tst v 30 then (s.orReg aSeqStat (bitw 0), false)
  else
    let s := if tst v 20 then s.setSignal w (Fin.ofNat 16 (wfld v 15 12)) else s
    if tst v 31 then s.wickStart w (BitVec.ofNat 12 (wfld v 11 0)) else if tst v 30 then s.wickStop w else (s, true)

/-! Images (R181 to R184) -/

def State.imgErr (s : State) (n : Nat) : State := s.setFld aSeqStat 7 5 n

/-- ACTIVATE, judged now (R181, R182). -/
def State.activate (s : State) : State :=
  if s.lockProg then s.imgErr 4
  else if allWicks.any (fun w => match (s.wk w).st with | .run | .wait _ => true | _ => false) then s.imgErr 5
  else if !s.bit aSeqStat 29 then s.imgErr 0
  else { s.imgErr 0 with keeper := { s.keeper with activating := true } }

/-- COMMIT: the causes that need no CRC are found at once; the check of the CRC begins, of the image that SEQ_IMG,
SEQ_IMGCRC and SEQ_IMGVER name now (R181, R335). R181 does not say what a COMMIT does while an earlier one is being checked:
it takes the earlier one's place, or fails while that one goes on (DESIGN CHOICE, log 26). -/
def State.commit (s : State) (act : Bool) : State :=
  let n := s.fld aSeqImg 12 0
  if s.lockProg || s.fld aKpsCtl 31 30 ≠ 0 then s.imgErr 4
  else if n = 0 || 4096 < n then s.imgErr 1
  else if s.bit aSeqImg 31 == s.bit aSeqLive 31 then s.imgErr 3
  else { s with keeper := { s.keeper with
    commit := true, commitAct := act, commitStore := none
    img := (if s.bit aSeqImg 31 then 1 else 0, n, s.reg aSeqImgCrc, s.reg aSeqImgVer) } }

/-- A write of SEQ_CMD. -/
def State.seqCmd (s : State) (v : Word) : State :=
  if tst v 31 then s.commit (tst v 30) else if tst v 30 then s.activate else s

/-- COMMIT. -/
def execCommit (_who : Who) (act : Bool) (s : State) : Res := .next (s.fab (fun s => s.commit act))
/-- ACTIVATE. -/
def execActivate (_who : Who) (s : State) : Res := .next (s.fab (fun s => s.activate))

/-- The commit is complete: PENDSLOT, then the ACTIVATE of the same write (R182, R354). -/
def State.commitDone (s : State) : State :=
  let act := s.keeper.commitAct
  let s := { (s.imgErr 0).setBit aSeqStat 29 true with
    keeper := { s.keeper with commit := false, commitAct := false, commitStore := none } }
  if act then s.activate else s

/-- COMMIT_COMPLETE: the CRC is judged, and the record written and its store requested; and again when that store has
ended (log 13). Block protection that has come to cover the commit record copies refuses the write, and the COMMIT fails
with IMGERR 4 (R333, R335). A COMMIT whose check ends after a power fail has begun writes no record and never becomes
complete (R354; DESIGN CHOICE, log 13). The fabric domain checks and writes (R528). -/
def execCommitComplete (s : State) : Res :=
  .next (if !s.keeper.commit || !s.fabricOn then s
    else match s.keeper.commitStore, s.keeper.img with
      | some n, _ => if n < s.keeper.number || (n = s.keeper.number && s.keeper.run.isNone) then s.commitDone else s
      | none, (k, n, crc, ver) =>
        if s.imageCrc (k == 1) n ≠ crc then
          { s.imgErr 2 with keeper := { s.keeper with commit := false, commitAct := false } }
        else if s.keeper.locked then s
        else if s.bpCovers (cmtBase false) then
          { (s.imgErr 4).orReg aKpsStat (bitw 3) with keeper := { s.keeper with commit := false, commitAct := false } }
        else
          let q := s.writeCommit (k == 1) n crc ver
          let num := q.1.keeper.number
          let cov := q.1.keeper.run.any (fun j => q.1.covered j [(q.2, true)])
          let s := q.1.requestStore .record [(q.2, true)]
          { s with keeper := { s.keeper with commitStore := some (if cov then num else num + 1) } })

/-- A domain that takes no part starts no program that was ordered before (R229). -/
def State.dropOrders (s : State) : State :=
  s.forAll allDoms (fun s d =>
    if (s.dom d).next.isSome && !s.takesPart d then s.setDom d { s.dom d with next := none } else s)

/-- The HITCHes that wait for a domain that takes no part fail (R229). -/
def State.failHitches (s : State) : State :=
  s.forAll allWicks (fun s w =>
    match (s.wk w).st with
    | .wait (.hitch d) => if s.takesPart d then s else (s.leaveQueue w d).goOn w true
    | _ => s)

/-- The check of R231, made at boot, at ACTIVATE and after writes of SEQ_DCFGd and SEQ_DENTd. -/
def State.checkConf (s : State) : State :=
  (s.forAll allDoms (fun s d =>
    let entry := s.liveLen ≤ s.fld (aDEnt d) 27 16 || s.liveLen ≤ s.fld (aDEnt d) 11 0
    let wick := s.bit (aDCfg d) 31 && allDoms.any (fun e => e < d && s.bit (aDCfg e) 31 && s.pwick e == s.pwick d)
    s.setDom d { s.dom d with conf := entry || wick })).dropOrders.failHitches

/-- ACTIVATE_DONE: the instruction memory holds the committed image, and PENDSLOT clears (R182). -/
def execActivateDone (s : State) : Res :=
  .next (if !s.keeper.activating || !s.fabricOn then s
    else
      let s := { s with keeper := { s.keeper with activating := false } }
      let s := match s.cmtChoice.copy? with
        | some b => s.loadImage (s.cmtSlot b) (s.cmtLen b) (s.cmtVer b)
        | none => s
      (s.setBit aSeqStat 29 false).checkConf.settleRsts)

end Sys2Proof.Machine
end

