-- ==== Sys2Proof/Machine/Sequencer.lean ====
section
/-! DEFINITION. Domain commands (R244 to R263), the steps of the fault collector and of the whole-device shutdown
(R265, R277, R281, R286, R292 to R301), and the writes of the SEQ_, FLT_ and MRG_ blocks. -/

namespace Sys2Proof.Machine

/-! Owner requests (R244, R245, R248, R258, R260, R266, R268) -/

/-- A refused request sets REQREF. -/
def State.reqRefuse (s : State) (d : DomId) : State × Bool := (s.setDom d { s.dom d with reqRef := true }, false)

/-- OP HITCH. -/
def State.ownerHitch (s : State) (o : Owner) (d : DomId) : State × Bool :=
  let x := s.dom d
  if s.owns o d || (x.owner == .none && x.queue.isEmpty) then (s.setDom d { x with owner := o, epoch := s.epochOf o }, true)
  else s.reqRefuse d

/-- OP MARGIN. -/
def State.ownerMargin (s : State) (d : DomId) (r : Rail) (step : Int) : State × Bool :=
  let live := (s.ch r).st == .on || (s.ch r).st == .margined
  if s.domOf r != some d || (s.dom d).prog != .none || !live then s.reqRefuse d
  else if !s.stepOk r (s.pmbPath r) step then (s.flag r 13).reqRefuse d
  else (s.cyc (fun c => c.hits [{ rail := r, cause := .margin step }]), true)

/-- The oldest batch of reactions takes effect (R264, R277). -/
def State.applyReactions (s : State) : State :=
  match s.faults.reacts with
  | [] => s
  | b :: t => { s with faults := { s.faults with reacts := t } }.cyc (fun c => c.react b)

/-- A write of SEQ_DCMDd by a requester, and whether it is accepted. UNHITCH asks for the ownership alone (R260). The refusal
of another requester is that of R8 and leaves REQREF (R268; DESIGN CHOICE, log 27). -/
def State.dcmd (s : State) (who : Who) (d : DomId) (op : Nat) (r : Rail) (step : Int) : State × Bool :=
  let o := ownerOf who
  if o == .none then (s, false)
  else if op = 0 then (s, true)
  else if s.sdact || 6 ≤ op then s.reqRefuse d
  else if op = 2 then (if s.owns o d then (s.releaseHitch d, true) else s.reqRefuse d)
  else if !s.takesPart d then s.reqRefuse d
  else if op = 1 then s.ownerHitch o d
  else if !s.owns o d then s.reqRefuse d
  else match op with
    | 3 => (s.cyc (fun c => c.onNow d 0), true)
    | 4 => (s.cyc (fun c => c.offNow d 0), true)
    | _ => s.ownerMargin d r step

/-- DCMD_HITCH. -/
def execDcmdHitch (who : Who) (d : DomId) (s : State) : Res := .next (s.fab (fun s => (s.dcmd who d 1 0 0).1))
/-- DCMD_UNHITCH. -/
def execDcmdUnhitch (who : Who) (d : DomId) (s : State) : Res := .next (s.fab (fun s => (s.dcmd who d 2 0 0).1))
/-- DCMD_ON. `react`: the oldest batch of reactions takes effect in the same cycle, ahead of the request (R264). -/
def execDcmdOn (who : Who) (d : DomId) (react : Bool) (s : State) : Res :=
  .next ((if react then s.applyReactions else s).fab (fun s => (s.dcmd who d 3 0 0).1))
/-- DCMD_OFF. -/
def execDcmdOff (who : Who) (d : DomId) (s : State) : Res := .next (s.fab (fun s => (s.dcmd who d 4 0 0).1))
/-- DCMD_MARGIN. -/
def execDcmdMargin (who : Who) (d : DomId) (r : Rail) (step : BitVec 12) (s : State) : Res :=
  .next (s.fab (fun s => (s.dcmd who d 5 r step.toInt).1))

/-- PENDING_UP_START (R246). -/
def execPendingUpStart (d : DomId) (s : State) : Res :=
  .next (
    let x := s.dom d
    let moving := (s.railsOf d).any (fun r => (s.ch r).st == .falling || (s.ch r).st == .discharging)
    if !x.pendUp || s.progNow d != .none || x.last != 2 || moving || s.failing || !s.takesPart d then s
    else s.cyc (fun c => (c.map (fun s => s.setDom d { s.dom d with pendUp := false })).order d .up 0 |>.launch 17 [d]))

/-- A hitch breaks where the epoch of its owner has changed (R261 to R263, counter 13 of R365). -/
def State.breakHitch (s : State) (d : DomId) : State :=
  let x := s.dom d
  if x.owner == .none || x.epoch == s.epochOf x.owner then s
  else s.cyc (fun c =>
    let orph := c.s.fld (aDCfg d) 29 28
    let c := (c.map (fun s => (s.setDom d { s.dom d with brk := true }).count 13)).raise srcHitchBroken
    if orph = 2 && x.owner != .wick 0 then
      c.map (fun s => (s.setDom d { s.dom d with owner := .wick 0, epoch := (s.wk 0).epoch }).setSignal 0 15)
    else
      let c := if orph ≠ 1 then c
        else if c.s.sdact then c.map (fun s => s.setDom d { s.dom d with reqRef := true })
        else c.offNow d 3
      c.map (fun s => s.releaseHitch d))

/-- HITCH_BREAK. -/
def execHitchBreak (d : DomId) (s : State) : Res := .next (s.breakHitch d)

/-! Reactions and shadows -/

/-- REACTION_APPLY. -/
def execReactionApply (s : State) : Res := .next s.applyReactions

/-- A shadow covers the rail's domain, or the device. -/
def State.inShadow (s : State) (r : Rail) : Bool :=
  s.faults.devShadow.isSome || (s.domOf r).any (fun d => (s.faults.shadows[d]).isSome)

/-- SHADOW_CLOSE: the deferred reactions of rails no longer in shadow apply where the rail is still in TRIPPED (R295). -/
def execShadowClose (doms : BitVec 16) (device : Bool) (s : State) : Res :=
  .next (
    let f := s.faults
    let sh : Vector (Option Shadow) 16 := Vector.ofFn (fun d : Fin 16 => if doms.getLsbD d.val then none else f.shadows[d])
    let s := { s with faults := { f with shadows := sh, devShadow := if device then none else f.devShadow } }
    let out := f.deferred.filter (fun x => !s.inShadow x.rail)
    let batch := (out.filter (fun x => (s.ch x.rail).st == .tripped)).filterMap (fun x =>
      let code := BitVec.ofNat 2 (s.reactOf x.rail x.ev)
      if code = 0 then none else some { x with code := code })
    let s := { s with faults := { s.faults with deferred := f.deferred.filter (fun x => s.inShadow x.rail) } }
    if batch.isEmpty then s else s.cyc (fun c => c.react batch))

/-- FLT_SHD and FLT_SHDDEV. -/
def State.fltShd (s : State) : Word :=
  allDoms.foldl (fun (a : Word) d => match s.faults.shadows[d] with
    | some sh => a ||| bitw d.val ||| at_ sh.injOnly (16 + d.val)
    | none => a) 0
def State.fltShdDev (s : State) : Word :=
  match s.faults.devShadow with
  | some sh => 1 ||| at_ sh.injOnly 1
  | none => 0

/-! The whole-device shutdown and the restart it leads to (R265, R281) -/

/-- SHUTDOWN_RANK_DONE. -/
def execShutdownRankDone (s : State) : Res :=
  .next (match s.shut with
    | .rank n g => if s.groupBusy g then s else s.cyc (fun c => c.shutFrom n)
    | _ => s)

/-- SHUTDOWN_RANK_TIMEOUT. -/
def execShutdownRankTimeout (s : State) : Res :=
  .next (match s.shut with
    | .rank n g => if s.groupBusy g then s.cyc (fun c => (c.cutRank g).shutFrom n) else s
    | _ => s)

/-- SHUTDOWN_END: no rail is in FALLING or DISCHARGING any more, or SDLIM is over. -/
def execShutdownEnd (s : State) : Res :=
  .next (if s.shut == .final then { s with shut := .idle } else s)

/-- SYSTEM_RESET_STORE: the dirty pages of the fault log are stored once the collector is not in CAPTURE. -/
def execSystemResetStore (s : State) : Res :=
  .next (if !s.faults.sysReset || s.faults.sysStore.isSome || s.sdact || s.fltState = 1 || s.failing || !s.fabricOn then s
    else
      let num := s.keeper.number
      let cov := s.keeper.run.any (fun j => s.covered j logPages)
      let s := s.requestStore .systemReset logPages
      { s with faults := { s.faults with sysStore := some (if cov then num else num + 1) } })

/-! Commands of the collector -/

/-- CLEAR; whether it is accepted (R286). A header rewrite that is still due is dropped (R290 does not say; DESIGN CHOICE, log
22). -/
def State.fltClear (s : State) : State × Bool :=
  if s.fltState ≠ 2 then (s.orReg aFltStat (bitw 1), false)
  else
    let s := s.setFld aFltStat 31 30 0
    let s := (((s.setReg aFltFirst 0).setReg aFltFirstTL 0).setReg aFltFirstTH 0).setReg aFltMerge 0
    let crit := s.faults.critPend
    let s := { s with faults := { s.faults with rewrite := false, critPend := false } }
    (if crit then s.requestStore .critical logPages else s, true)

/-- CLRCNT. -/
def State.clrCnt (s : State) : State := s.forAll (List.range 96) (fun s k => s.setReg (aCnt k) 0)

/-- CLEAR. -/
def execClear (_who : Who) (s : State) : Res := .next (s.fab (fun s => s.fltClear.1))
/-- CLRCNT. -/
def execClrcnt (_who : Who) (s : State) : Res := .next (s.fab (fun s => s.clrCnt))

/-- The armed sources (R297): reserved ones and those of rails not in use have no effect. -/
def State.armed (s : State) : List Nat :=
  (List.range 363).filter (fun n => s.bit (aInjArm (n / 32)) (n % 32)
    && (match srcRail n with | some r => s.use r | none => true))

/-- An injected OC acts as a hold-latch crossing: LATCH 1, or AUXH bound to the rail (R299, R102). -/
def State.injHold (s : State) (r : Rail) : Bool := s.bit (aChOc r) 12 || (s.boundAux r).isSome

/-- The channel cause of a LIVE injection; none where the rail's state gives no transition (R299). -/
def State.injCause (s : State) (r : Rail) (e : EvType) : Option Cause :=
  match e, (s.ch r).st with
  | .ov, _ => some .ovCross
  | .uv, .on | .uv, .margined => some .uvCross
  | .oc, .rising | .oc, .on | .oc, .margined => if s.injHold r then some .ocHold else none
  | .onTimeout, .rising => some .tonExpiry
  | .offTimeout, .falling => some .toffExpiry
  | _, _ => none

/-- Disarm every source. -/
def State.disarmAll (s : State) : State := s.forAll (List.range 12) (fun s k => s.setReg (aInjArm k) 0)

/-- FIRE: the armed sources are raised as injected, and a LIVE rail injection acts on its channel. What the cycle's other
causes raise without the injection stays raised, and real (R297 to R300). -/
def State.fire (s : State) (disarm : Bool) (co : List Hit) : State :=
  let l := s.armed
  let live := s.bit aInjCtl 31
  let s := s.setBit aFltStat 4 true
  let s := if disarm then s.disarmAll else s
  let inj : List Hit := if !live then [] else l.filterMap (fun n => match srcRail n with
    | some r => (s.injCause r (srcEv n)).map (fun k => { rail := r, cause := k })
    | none => none)
  let c : Cyc := { s := s }
  let real := (c.hitsWith [] co).raises
  let c := c.forAll inj (fun c h => match h.cause with
    | .tonExpiry => c.map (fun s => if (s.ch h.rail).ton.isNone then s.setCh h.rail { s.ch h.rail with ton := s.timer 0 } else s)
    | _ => c)
  let c := c.hitsWith inj co
  let c := c.forAll (inj.filter (fun h => h.cause == .toffExpiry)) (fun c h =>
    (c.flag h.rail 9).map (fun s => s.setCh h.rail { s.ch h.rail with offtRaised := true }))
  let c := if !live then c else c.forAll l (fun c n => match srcRail n with
    | some r =>
      if srcEv n = .oc && !c.s.injHold r then c.map (fun s => s.setCh r { s.ch r with ocRun := 0 }) else c
    | none => c)
  let raises := c.raises.map (fun x =>
    if l.contains x.src && !real.any (fun y => y.src == x.src) then { x with inj := true } else x)
  let extra := l.map (fun n => { src := n, inj := true, dry := !live : Raise })
  ({ c with raises := raises ++ real ++ extra } : Cyc).finish (!l.isEmpty)

/-- A refused injection write. -/
def State.injRefuse (s : State) : State × Bool := (s.orReg aFltStat (bitw 3), false)

/-- A write of FLT_INJCMD (R297, R301). -/
def State.injCmd (s : State) (fire disarm : Bool) (co : List Hit) : State × Bool :=
  if s.lockInject then s.injRefuse
  else (if fire then s.fire disarm co else if disarm then s.disarmAll else s, true)

/-- FIRE. -/
def execFire (_who : Who) (andDisarm : Bool) (co : List Hit) (s : State) : Res :=
  .next (s.fab (fun s => (s.injCmd true andDisarm co).1))
/-- DISARM. -/
def execDisarm (_who : Who) (s : State) : Res := .next (s.fab (fun s => (s.injCmd false true []).1))

/-! Host interrupts (R302, R303) -/

/-- The class group of a source (R270, R302). -/
def srcClass (n : Nat) : Nat :=
  if n < 320 then (match n % 5 with | 0 | 1 => 0 | _ => 1)
  else if n < 324 || n == 349 then 2
  else if n < 327 then 3
  else if n < 343 || n == 353 || (355 ≤ n && n < 363) then 4
  else if n < 347 || n == 354 then 5
  else if n < 349 then 6
  else 7

/-- The source is pending. -/
def State.pend (s : State) (n : Nat) : Bool := s.bit (aPend (n / 32)) (n % 32)

/-- IRQn is asserted (R303). -/
def State.irq (s : State) (n : Fin 4) : Bool :=
  let m := s.reg (aIrq n)
  (List.range 363).any (fun k => s.pend k && ((n == 0 && s.sev k == 3)
    || (1 ≤ s.sev k && tst m (7 + s.sev k) && tst m (srcClass k))))

/-! Register writes of the collector's block (R304, R305) -/

/-- A write of a FLT_ register; none where it is read only or reserved. -/
def State.fltWrite (s : State) (a : Nat) (v : Word) : Option (State × Bool) :=
  let off := a - 0x10040000
  let cfg (v : Word) (ok : Bool) : State × Bool :=
    if s.lockCfg || !ok then (s.orReg aFltStat (bitw 0), false) else (s.setReg a v, true)
  if a = aFltCtl then some (cfg (v &&& 0xFFFF#32) true)
  else if a = aFltStat then some (s.clrReg a (v &&& 0x1F), true)
  else if a = aFltCmd then
    let q := if tst v 31 then s.fltClear else (s, true)
    some (if tst v 30 then (q.1.clrCnt, q.2) else q)
  else if a = aInjCtl then some (if s.lockInject then s.injRefuse else (s.setReg a (v &&& bitw 31), true))
  else if a = aInjCmd then some (s.injCmd (tst v 31) (tst v 30) [])
  else if 0x040 ≤ off ∧ off < 0x070 then
    some (if s.lockInject then s.injRefuse else (s.setReg a (if a = aInjArm 11 then v &&& 0x7FF else v), true))
  else if 0x080 ≤ off ∧ off < 0x0B0 then some (s.clrReg a v, true)
  else if 0x0C0 ≤ off ∧ off < 0x120 then
    let k := (off - 0x0C0) / 4
    some (cfg v ((List.range 16).all (fun j => 16 * k + j < 363 || wfld v (2 * j + 1) (2 * j) == 0)))
  else if 0x120 ≤ off ∧ off < 0x130 then some (cfg (v &&& 0x7FF) true)
  else none

/-! Register writes of the sequencer's block (R184, R223, R228, R233, R268) -/

/-- The command and type of a template with VALID 1 (R223). -/
def pmbtOk (v : Word) : Bool :=
  let t := wfld v 21 19
  match wfld v 7 0 with
  | 0x01 => t == 1 || t == 3
  | 0x03 => t == 0
  | 0x21 | 0x25 | 0x26 => t == 2 || t == 4
  | 0x79 | 0x8B | 0x8C | 0x8D => t == 4
  | _ => false

/-- A configuration write of the sequencer refused by a lock or a check. -/
def State.seqStore (s : State) (a : Nat) (v : Word) (ok : Bool) : State × Bool :=
  if ok then (s.setReg a v, true) else (s.orReg aSeqStat (bitw 1), false)

/-- A program that is ordered and not yet started is ordered anew where PWICK has changed from `old` (R233, R235). -/
def State.reorder (s : State) (d : DomId) (old : WickId) : State :=
  match (s.dom d).next with
  | some (p, src) => if s.pwick d == old then s else s.cyc (fun c => (c.order d p src).launch 17 [d])
  | none => s

/-- A write of a domain's registers. -/
def State.domWrite (s : State) (who : Who) (d : DomId) (off : Nat) (v : Word) : Option (State × Bool) :=
  let a := aDom d off
  let still := (s.dom d).prog == .none && !s.sdact
  match off with
  | 0x00 =>
    let v := v &&& 0xFCFF0000#32
    let clash := tst v 31 && allDoms.any (fun e => e != d && s.bit (aDCfg e) 31 && (s.pwick e).val == wfld v 19 16)
    let q := s.seqStore a v (!s.lockCfg && still && !clash)
    some (if q.2 then ((q.1.checkConf.reorder d (s.pwick d)).settleRsts, true) else q)
  | 0x04 =>
    let q := s.seqStore a (v &&& 0x0FFF0FFF#32) (!s.lockProg && still)
    some (if q.2 then (q.1.checkConf.settleRsts, true) else q)
  | 0x08 | 0x0C =>
    let q := s.seqStore a v (!s.lockCfg && still)
    some (if q.2 then (q.1.settleRsts, true) else q)
  | 0x10 => some (s.seqStore a (v &&& 0xFFFF#32) (!s.lockCfg && still))
  | 0x18 =>
    let x := s.dom d
    some (s.setDom d { x with brk := x.brk && !tst v 3, pendWd := x.pendWd && !tst v 2, reqRef := x.reqRef && !tst v 1 }, true)
  | 0x1C => some (s.dcmd who d (wfld v 31 29) (Fin.ofNat 64 (wfld v 21 16)) (sgn 12 (wfld v 11 0)))
  | _ => none

/-- A write of a wick's registers. -/
def State.wickWrite (s : State) (w : WickId) (off : Nat) (v : Word) : Option (State × Bool) :=
  match off with
  | 0x00 => some (s.seqStore (aWCfg w) (v &&& 0x80000FFF#32) (!s.lockProg))
  | 0x04 => some (s.mapWk w (fun x => { x with fault := x.fault && !tst v 8 }), true)
  | 0x0C => some (s.mapWk w (fun x => { x with sigs := x.sigs &&& ~~~(v.setWidth 16) }), true)
  | 0x10 => some (s.wickCmd w v)
  | _ => none

/-- A write of a SEQ_ register; none where it is read only or reserved. -/
def State.seqWrite (s : State) (who : Who) (a : Nat) (v : Word) : Option (State × Bool) :=
  let off := a - 0x10030000
  if a = aSeqCtl then some (s.seqStore a (v &&& bitw 31) (!s.lockCfg))
  else if a = aSeqStat then some (s.clrReg a (v &&& 3), true)
  else if a = aSeqCmd then some (s.seqCmd v, true)
  else if a = aSeqImg then some (s.seqStore a (v &&& 0x80001FFF#32) (!s.lockProg))
  else if a = aSeqImgCrc ∨ a = aSeqImgVer then some (s.seqStore a v (!s.lockProg))
  else if 0x040 ≤ off ∧ off < 0x080 then some (s.seqStore a v (!s.lockCfg))
  else if 0x080 ≤ off ∧ off < 0x100 then
    some (s.seqStore a (v &&& 0xFFF800FF#32) (!s.lockCfg && (!tst v 31 || pmbtOk v)))
  else if 0x100 ≤ off ∧ off < 0x300 then s.wickWrite (Fin.ofNat 16 ((off - 0x100) / 0x20)) (off % 0x20) v
  else if 0x300 ≤ off ∧ off < 0x500 then
    let w : WickId := Fin.ofNat 16 ((off - 0x300) / 0x20)
    some (match (s.wk w).st with
      | .run | .wait _ => (s.orReg aSeqStat (bitw 0), false)
      | _ => (s.setV w (Fin.ofNat 8 (off % 0x20 / 4)) v, true))
  else if a = aDCtl then some (s.seqStore a (v &&& 0xFFFF#32) (!s.lockCfg))
  else if a = aDGStat then some (s.clrReg a (v &&& 1), true)
  else if 0x1100 ≤ off ∧ off < 0x1300 then s.domWrite who (Fin.ofNat 16 ((off - 0x1100) / 0x20)) (off % 0x20) v
  else none

/-! Register writes of the margining and reset block (R327) -/

/-- A write of a MRG_ register; none where it is read only or reserved. -/
def State.mrgWrite (s : State) (a : Nat) (v : Word) : Option (State × Bool) :=
  let off := a - 0x10050000
  if a = aMrgStat then some (s.clrReg a (v &&& 1), true)
  else if a = aMFail 0 then some (s.clrReg a (v &&& 0xFFFF0000#32), true)
  else if a = aMFail 1 then some (s.clrReg a v, true)
  else if 0x040 ≤ off ∧ off < 0x100 then
    some (if s.lockCfg then (s.orReg aMrgStat (bitw 0), false) else (s.setReg a (v &&& 0xFFFF#32), true))
  else if 0x100 ≤ off ∧ off < 0x120 then some (s.rstWrite (Fin.ofNat 8 ((off - 0x100) / 4)) v)
  else if a = aRstOvr then some (s.rstOvrWrite v)
  else none

end Sys2Proof.Machine
end

