-- ==== Sys2Proof/Machine/Manager.lean ====
section
/-! DEFINITION. The power manager: the causes that hold a power state (R529), the time to the next known event (R530), the
wait monitor (R532) and the wakes that start by themselves (R531). -/

namespace Sys2Proof.Machine

/-- A session of a port executes a request (R456). -/
def State.executing (s : State) : Bool :=
  (List.finRange 2).any (fun p => (List.finRange 4).any (fun i => (s.sess p i).exec.isSome))

/-- A wick waits on a telemetry condition or on `synced`, which the wait monitor cannot watch (R529, R532). -/
def State.unwatched (s : State) : Bool :=
  allWicks.any (fun w => match (s.wk w).st with
    | .wait (.cond cc _ _) => (0x10 ≤ cc.toNat && cc.toNat ≤ 0x13) || cc.toNat == 0x3C
    | _ => false)

/-- PWR_CTL.MAXST. -/
def State.maxst (s : State) : Nat := s.fld aPwrCtl 31 30

/-- The causes of R529, bit 0 first; MAXST holds where it names a state above HIBERNATE. -/
def State.holds12 (s : State) : List Bool := [
  allWicks.any (fun w => (s.wk w).st == .run), s.lhBusy,
  s.keeper.run.isSome || !s.keeper.pending.isEmpty, s.fltState == 1 || !s.faults.queue.isEmpty, s.bit aStStat 31,
  chgRuns s.reserve.chg, s.bit aRngCfg 31, s.unwatched,
  s.executing || (List.finRange 4).any (fun p => (s.ports[p]).cur.isSome),
  s.arb.flight.isSome || s.arb.reqs.toList.any (fun q => q.wait.isSome),
  allRails.any (fun r => s.use r && (s.ch r).st != .off), s.maxst != 3]

/-- The deepest state each cause allows. -/
def State.holdLimits (s : State) : List Nat := [0, 0, 1, 1, 1, 1, 1, 1, 1, 1, 2, s.maxst]

/-- PWR_STAT.HOLD as a number: 0 until a boot has reached RUN (R528, R537). -/
def State.hold (s : State) : Nat :=
  if s.power.phase == .run || s.power.phase == .powerFail then s.holds12.foldr (fun b n => 2 * n + b.toNat) 0 else 0

/-- The deepest state that R529 allows: 0 RUN, 1 DOZE, 2 NAP, 3 HIBERNATE. -/
def State.deepest (s : State) : Nat :=
  ((s.holds12.zip s.holdLimits).filter (·.1)).foldl (fun n h => min n h.2) 3

/-- The deadline a waiting wick reports (R189). -/
def State.wickDue (s : State) : List Nat :=
  allWicks.flatMap (fun w => match (s.wk w).st with
    | .wait _ => (s.wk w).deadline.toList ++ (s.wk w).hint.toList
    | _ => [])

/-- The cycles of the known events of R530; a loop-health measurement that runs is one that is due now (R132). -/
def State.knownEvents (s : State) : List Nat :=
  s.wickDue
    ++ allRails.flatMap (fun r => let c := s.ch r; c.ton.toList ++ c.toff.toList ++ c.backoff.toList ++ c.slewAt.toList)
    ++ s.resets.toList.flatMap (fun x => x.stretch.toList ++ x.pulse.toList)
    ++ s.faults.shadows.toList.flatMap (fun o => (o.bind (·.endAt)).toList)
    ++ (s.faults.devShadow.bind (·.endAt)).toList
    ++ s.autosaveAt.toList
    ++ (List.finRange 2).flatMap (fun p => (List.finRange 4).flatMap (fun i => (s.sess p i).tmoAt.toList))
    ++ (if !tst s.scan.ctl 31 then [] else if tst s.scan.ctl 30 then s.scan.burstAt.toList else s.scan.nextAt.toList)
    ++ (if s.estEn then s.reserve.tickAt.toList else [])
    ++ (if s.bit aStCtl 31 && s.dueBank.isSome then s.selfTest.nextAt.toList else [])
    ++ (if s.lhBusy then [s.cycle] else [])
    ++ (if s.bit aLhCtl 31 then s.lh.gapAt.toList else [])
    ++ (List.finRange 4).flatMap (fun p => if (s.pollList p).isEmpty then [] else (s.ports[p]).passAt.toList)
    ++ (if s.tMaster then s.tether.roundAt.toList ++ s.tether.timeAt.toList else [])

/-- T in cycles; none without a known event. -/
def State.untilNext (s : State) : Option Nat := (s.knownEvents.min?).map (fun e => e - s.cycle)

/-- The break-even of a state in cycles (R528). -/
def breakEven (n : Nat) : Nat := match n with | 1 => 500 | 2 => 20000 | _ => 2000000

/-- The state the power manager enters (R530); none: it stays in the state it is in. -/
def State.sleepChoice (s : State) : Option PowerState :=
  let t := s.untilNext
  let ok (n : Nat) : Bool := n ≤ s.deepest && (t.all (fun d => breakEven n < d))
  if ok 3 then some .hibernate else if ok 2 then some .nap else if ok 1 then some .doze else none

/-- PWR_NEXT: T in µs, whose fraction and saturation are a DESIGN CHOICE (log 10); no T before a boot has reached RUN. The
register shows T in every cycle, also while a cause holds RUN, in which R530 forms none (DESIGN CHOICE, log 40). -/
def State.pwrNext (s : State) : Word := usWord (if s.power.phase == .run then s.untilNext else none)

/-- PWR_STAT (R537). -/
def State.pwrStat (s : State) : Word :=
  s.reg aPwrStat ||| put 0 31 30 s.power.state.code ||| put 0 15 4 s.hold

/-! The wait monitor (R532) -/

/-- What the wait monitor watches of a condition: the registers and flags that it reads, and how it tests. The telemetry
conditions, `synced`, and what only a wick's own instructions change are not watched. -/
def State.condWatch (s : State) (w : WickId) (cc arg : Nat) : List Word :=
  let r : Rail := Fin.ofNat 64 (arg / 8)
  let d : DomId := Fin.ofNat 16 arg
  let on : Word := if s.test w cc arg then 1 else 0
  if 0x01 ≤ cc ∧ cc ≤ 0x07 then [on, s.chState r, s.chFlags r]
  else if cc = 0x08 then [s.reg aAuxFlg]
  else if cc = 0x09 then [s.reg aAuxLat]
  else if cc = 0x0A then [s.auxStat]
  else if cc = 0x0B then [s.reg (aStFail (arg % 16))]
  else if cc = 0x18 ∨ cc = 0x19 then on :: (s.railsOf d).map s.chState
  else if cc = 0x1A ∨ cc = 0x1B then [on, s.dOwn d]
  else if cc = 0x20 then [s.reg aMonVin]
  else if cc = 0x21 then [s.rsvStat]
  else if cc = 0x28 ∨ cc = 0x29 then [(s.wk w).sigs.setWidth 32]
  else []

/-- What it watches of each wick: of one that waits, what its wait reads. -/
def State.watched (s : State) : List (List Word) :=
  allWicks.map (fun w => match (s.wk w).st with
    | .wait (.cond cc _ arg) => s.condWatch w cc.toNat arg.toNat
    | .wait (.flags _ _) => [(s.wk w).sigs.setWidth 32]
    | .wait (.hitch d) => [s.dOwn d]
    | .wait (.dis _ rails) => rails.map s.chState
    | _ => [])

/-! Wakes (R530, R531) -/

/-- The wake time of a state in cycles (R528). -/
def PowerState.wakeTime : PowerState → Nat
  | .run => 0 | .doze => 8 | .nap => 200 | .hibernate => 5000

/-- The known event falls within the wake time, so its wake is due. -/
def State.wakeDue (s : State) : Bool := s.untilNext.any (fun d => decide (d ≤ s.power.state.wakeTime))

/-- In a sleep state the power manager starts a wake for the next known event, for a change that the wait monitor sees, and
for a cause of R529 that no longer allows the state: R529 holds the device at or above the state that the cause names, and
a wake is the one way up (DEDUCED, log 40). -/
def State.manage (s : State) : State :=
  if s.asleep && (s.wakeDue || s.watched != s.power.seen || s.deepest < s.power.state.code) then s.startWake else s

end Sys2Proof.Machine
end

