-- ==== Sys2Proof/Machine/Protect.lean ====
section
/-! DEFINITION. Protection: the close of host sessions (R454), key slots and the key erase (R541 to R547), tamper
detection and the security alarm (R548 to R551). -/

namespace Sys2Proof.Machine

/-! Sessions -/

/-- A session closes: its epoch increments, its cache empties, its queued responses and the request it executes are
discarded (R454). -/
def State.closeSession (s : State) (p : Fin 2) (i : Fin 4) : State :=
  let x := s.sess p i
  if !x.isOpen then s
  else
    let s := s.setSess p i { epoch := x.epoch + 1 }
    { s with hosts := s.hosts.set p { s.hosts[p] with queue := (s.hosts[p]).queue.filter (fun r => r.session != i) } }

/-- Every session of both ports closes. -/
def State.closeAll (s : State) : State :=
  s.forAll (List.finRange 2) (fun s p => s.forAll (List.finRange 4) (fun s i => s.closeSession p i))

/-! Key slots -/

/-- The address of a key slot (R541). -/
def keyBase (k : Nat) : Nat := 0x3C000 + 0x20 * k

/-- The magic and CRC of a slot pass (R544). -/
def State.keyOk (s : State) (k : Nat) : Bool :=
  s.sramWord (keyBase k) == 0x4B500040#32 && s.sramWord (keyBase k + 0x1C) == crc32 (s.bytes (keyBase k) 0x1C)

/-- SEC_STAT.ERASING. -/
def State.erasing (s : State) : Bool := s.bit aSecStat 31

/-- A slot can be used for a HELLO with AUTH 1 (R544). -/
def State.keyUsable (s : State) (k : Nat) : Bool := s.bit aKeyCtl k && s.keyOk k && !s.erasing

/-- SEC_KEYSTAT. -/
def State.keyStat (s : State) : Word := (List.range 4).foldl (fun (a : Word) k => a ||| at_ (s.keyOk k) k) 0

/-! Key erase -/

/-- A key erase starts, or the request joins the running one (R545, R546). -/
def State.startErase (s : State) : State :=
  if s.erasing then s else { s.setBit aSecStat 31 true with protect := { s.protect with eraseMark := true } }

/-- The cells of a page 240 without its key slots. -/
def noKeys (m : List Host.Cell) : List Host.Cell := m.filter (fun e => e.1 < 0x3C000 || 0x3C080 ≤ e.1)

/-- The erase is complete: the slots hold 0 in the SRAM, in the shadow and in a copy that a store is writing (log 17). -/
def State.endErase (s : State) : State :=
  let s := s.poke 0x3C000 (List.replicate 0x80 0)
  let run := s.keeper.run.map (fun j => { j with cur := j.cur.map (fun c => (c.1, noKeys c.2)) })
  let s := { s with
    shadow := noKeys s.shadow, keeper := { s.keeper with run := run }
    protect := { s.protect with eraseMark := false, eraseTail := false } }
  (((s.setBit aSecStat 31 false).orReg aSecStat (bitw 2))).storeNext 1

/-- ERASE of SEC_KCMD (R545). -/
def execErase (_who : Who) (s : State) : Res := .next (s.fab (fun s => s.startErase))

/-- The erase that went on from VHOLD after the loss of input power in a boot is complete (R546, R547). -/
def State.endTail (s : State) : State :=
  { s with
    sram := noKeys s.sram, shadow := noKeys s.shadow
    protect := { s.protect with eraseMark := false, eraseTail := false } }

/-- KEY_ERASE_DONE; the protection engine stands in the fabric domain (R528). -/
def execKeyEraseDone (s : State) : Res :=
  .next (if !s.fabricOn then s else if s.erasing then s.endErase else if s.protect.eraseTail then s.endTail else s)

/-- VHOLD falls below 5.0 V during an erase: the erase stops, and its mark stays (R547). What it has written by then is
open; the slots keep their contents (DESIGN CHOICE, log 17). -/
def State.stopErase (s : State) : State :=
  { s.setBit aSecStat 31 false with protect := { s.protect with eraseTail := false } }

/-! The security alarm -/

/-- A latch bit of SEC_ALARM is set. -/
def State.alarmed (s : State) : Bool := s.fld aAlarm 4 0 != 0

/-- SEC_STAT.AREFUSE (R549). -/
def State.arefuse (s : State) : Bool := s.bit aAlarmAct 2 && s.alarmed

/-- SEC_ALARM. -/
def State.alarmWord (s : State) : Word := s.reg aAlarm ||| put 0 20 16 s.protect.detect.toNat

/-- The alarm actions that need the fabric domain: CLOSE and ERASE. -/
def State.fabricActions (s : State) (close erase : Bool) : State :=
  let s := if close then s.closeAll else s
  if erase then s.startErase else s

/-- The alarm actions that wait for RUN take effect, as selected when their source detected (R549). -/
def State.lateActions (s : State) : State :=
  let p := s.protect
  { s with protect := { p with lateClose := false, lateErase := false } }.fabricActions p.lateClose p.lateErase

/-- A tamper source detects: its latch bit and the actions of SEC_ALARM_ACT; TAMPER and counter 12 once for the latch
bit that changes; the detection starts a wake, and actions of the fabric domain wait for the RUN after it (R531, R549). -/
def State.alarm (s : State) (i : Fin 5) : State :=
  let fresh := !s.bit aAlarm i
  let s := s.orReg aAlarm (bitw i)
  let s := if fresh then s.count 12 else s
  let close := s.bit aAlarmAct 1
  let erase := s.bit aAlarmAct 3
  let s := if s.asleep then { s.startWake with protect := { s.protect with
        lateClose := s.protect.lateClose || close, lateErase := s.protect.lateErase || erase } }
    else s.fabricActions close erase
  if fresh && s.bit aAlarmAct 0 then s.raise1 srcTamper else s

/-- Present detection of a source, ACT of SEC_ALARM; its rise is a detection. -/
def State.detection (s : State) (i : Fin 5) (on : Bool) : State :=
  let was := s.protect.detect.getLsbD i
  let m := BitVec.ofNat 5 (2 ^ i.val)
  let s := { s with protect := { s.protect with
    detect := if on then s.protect.detect ||| m else s.protect.detect &&& ~~~m } }
  if on && !was then s.alarm i else s

/-- The tamper sources run (R548). -/
def State.tamperRuns (s : State) : Bool :=
  match s.power.phase with | .configured | .loaded | .run => true | _ => false

/-- A tamper loop is sampled: the driven value, the sensed one, and TFILT consecutive mismatches (R548). -/
def State.loopSample (s : State) (loop1 sensed : Bool) : State :=
  let i : Fin 2 := if loop1 then 1 else 0
  let en := s.bit aTampCfg (if loop1 then 31 else 29)
  let dyn := s.bit aTampCfg (if loop1 then 30 else 28)
  if !s.tamperRuns || !en then s
  else
    let p := s.protect
    let driven := if dyn then (p.prbs[i]).getLsbD 6 else true
    let n := if sensed == driven then 0 else min ((p.miss[i]) + 1) 256
    let s := { s with protect := { p with
      miss := p.miss.set i n, prbs := if dyn then p.prbs.set i (prbsNext p.prbs[i]) else p.prbs } }
    s.detection (if loop1 then 1 else 0) (decide (max 1 (s.fld aTampCfg 7 0) ≤ n))

/-- A glitch detector whose enable is bit `en` fires or comes to rest (R548). -/
def State.glitch (s : State) (i : Fin 5) (en : Nat) (active : Bool) : State :=
  if s.tamperRuns && s.bit aTampCfg en then s.detection i active else s

/-- The clock glitch detector, inactive in HIBERNATE (R548). -/
def State.clockGlitch (s : State) (active : Bool) : State :=
  if s.power.state == .hibernate then s else s.glitch 4 27 active

/-- TAMPER_LOOP_SAMPLE. -/
def execTamperLoopSample (loop1 sensed : Bool) (s : State) : Res := .next (s.loopSample loop1 sensed)
/-- VOLTAGE_GLITCH. -/
def execVoltageGlitch (active : Bool) (s : State) : Res := .next (s.glitch 2 25 active)
/-- TEMPERATURE_GLITCH. -/
def execTemperatureGlitch (active : Bool) (s : State) : Res := .next (s.glitch 3 26 active)
/-- CLOCK_GLITCH. -/
def execClockGlitch (active : Bool) (s : State) : Res := .next (s.clockGlitch active)

/-- A write of SEC_TAMPCFG: a source that is no longer watched detects nothing. -/
def State.tampCfg (s : State) (v : Word) : State :=
  let s := s.setReg aTampCfg (v &&& 0xFE0000FF#32)
  let off (b : Nat) (i : Fin 5) (s : State) : State := if tst v b then s else s.detection i false
  let s := off 29 0 (off 31 1 (off 25 2 (off 26 3 (off 27 4 s))))
  { s with protect := { s.protect with
    miss := Vector.ofFn (fun i : Fin 2 => if tst v (if i = 1 then 31 else 29) then s.protect.miss[i] else 0) } }

/-- A W1C write of SEC_ALARM: a bit whose source still detects stays (R550). -/
def State.alarmClear (s : State) (v : Word) : State :=
  s.clrReg aAlarm (v &&& 0x1F &&& ~~~(s.protect.detect.setWidth 32))

end Sys2Proof.Machine
end

