-- ==== Sys2Proof/Machine/Fabric.lean ====
section
/-! DEFINITION. The registers as the fabric sees them: what a read returns and what a write does in the blocks that have
no file of their own (R7 to R15, R69 to R73, R80, R94, R123, R375, R380, R424, R465, R515, R516, R537, R552 to R554), the
access rules of the keeping store and the telemetry memory (R143, R180, R330 to R334, R344, R355, R541 to R543), and one
transfer (R410 to R414). -/

namespace Sys2Proof.Machine

/-! Reads of registers that show typed state -/

/-- The serial number, which is never 0 (R554, log 7). -/
def serial : BitVec 64 := if Config.serialRaw = 0 then 1 else Config.serialRaw

/-- MON_AUXCONF. -/
def State.auxConfWord (s : State) : Word :=
  (List.finRange 16).foldl (fun (a : Word) (n : Fin 16) => a ||| at_ (s.auxConf n) n.val) 0

/-- The sum of the WEIGHT fields of thirteen registers. -/
def State.weights (s : State) (f : Nat → Nat) : Nat := ((List.range 13).map (fun n => s.fld (f n) 10 0)).foldl (· + ·) 0

/-- The requester is at effective class 3 (R416, R417). -/
def State.elevated (s : State) (n : Nat) : Bool :=
  if n = 2 then s.fltState == 1 || s.keeper.run.any (·.waitRewrite)
  else if n = 3 then s.keeper.run.any (fun j => j.kind == .powerFail)
  else false

/-- HST_SESSp_s. -/
def State.sessWord (s : State) (p : Fin 2) (i : Fin 4) : Word :=
  let x := s.sess p i
  at_ x.isOpen 31 ||| at_ x.auth 30 ||| put 0 29 28 x.ver.toNat ||| put 0 27 26 x.kslot.toNat
    ||| put 0 23 16 x.epoch.toNat ||| at_ x.exec.isSome 15 ||| put 0 5 0 x.cache.length

/-- Entry c of the version 1 map: EN, DOM and RAIL. -/
def State.v1En (s : State) (c : Nat) : Bool := s.bit (aV1Map c) 31
def State.v1Dom (s : State) (c : Nat) : DomId := Fin.ofNat 16 (s.fld (aV1Map c) 11 8)
def State.v1Rail (s : State) (c : Nat) : Rail := Fin.ofNat 64 (s.fld (aV1Map c) 5 0)

/-- Entry c is active (R462). -/
def State.v1Active (s : State) (c : Nat) : Bool :=
  s.v1En c && s.domOf (s.v1Rail c) == some (s.v1Dom c)
    && (s.railsOf (s.v1Dom c)).all (fun r => (List.range 12).any (fun e => s.v1En e && s.v1Rail e == r))

/-- The version 1 session (R452). -/
def State.v1Session (s : State) : Option (Fin 2 × Fin 4) :=
  ((List.finRange 2).flatMap (fun p => (List.finRange 4).map (fun i => (p, i)))).find?
    (fun q => (s.sess q.1 q.2).isOpen && (s.sess q.1 q.2).ver == 1)

/-- HST_V1STAT. -/
def State.v1Stat (s : State) : Word :=
  let held (c : Nat) : Bool := s.v1Session.any (fun q => s.owns (.host q.1 q.2) (s.v1Dom c))
  (List.range 12).foldl (fun (a : Word) c => a ||| at_ (s.v1En c && !s.v1Active c) (16 + c) ||| at_ (held c) c)
    (at_ s.v1Session.isSome 31)

/-- A lantern's fields as RNG_PFINFO and RNG_PFRUN show them. -/
def State.pfInfo (s : State) : Word :=
  match s.ring.best with
  | none => 0
  | some l => bitw 31 ||| at_ s.pfConc 30 ||| at_ l.inj 29 ||| at_ l.inexact 28 ||| at_ l.teth 27
      ||| put 0 25 20 l.node.toNat ||| put 0 19 16 l.taddr.toNat ||| put 0 15 14 l.sev.toNat ||| put 0 8 0 l.src.toNat
def State.pfRun (s : State) : Word :=
  match s.ring.best, s.ring.run with
  | some b, some u => bitw 31 ||| put 0 25 20 u.node.toNat ||| put 0 19 16 u.taddr.toNat
      ||| put 0 15 0 (min (u.time.toNat - b.time.toNat) 65535)
  | _, _ => 0

/-- SPI and I2C port of a register offset. -/
def portOf (k : Nat) : Fin 2 := Fin.ofNat 2 k

/-- What a read of a register returns (R9, R12): the stored word, with what the block shows of its state. -/
def State.regRead (s : State) (a : Nat) : Word :=
  let off := a % 0x10000
  let w := s.reg a
  match a / 0x10000 with
  | 0x1000 =>
    let r : Rail := Fin.ofNat 64 (off / 0x100)
    if 64 ≤ off / 0x100 then w
    else match off % 0x100 with
      | 0x00 => put w 31 30 (kind r)
      | 0x28 => s.chState r
      | 0x2C => s.chFlags r
      | _ => w
  | 0x1001 => if off = 0x048 then s.auxStat else if off = 0x04C then s.auxConfWord else w
  | 0x1003 =>
    if off = 0x024 then s.horizon
    else if 0x100 ≤ off ∧ off < 0x300 then
      let k : WickId := Fin.ofNat 16 ((off - 0x100) / 0x20)
      match off % 0x20 with
      | 0x04 => s.wStat k
      | 0x08 => s.wPc k
      | 0x0C => (s.wk k).sigs.setWidth 32
      | _ => w
    else if 0x300 ≤ off ∧ off < 0x500 then
      s.vreg (Fin.ofNat 16 ((off - 0x300) / 0x20)) (Fin.ofNat 8 (off % 0x20 / 4))
    else if off = 0x1004 then setb w 31 s.sdact
    else if 0x1100 ≤ off ∧ off < 0x1300 then
      let d : DomId := Fin.ofNat 16 ((off - 0x1100) / 0x20)
      match (off - 0x1100) % 0x20 with
      | 0x14 => s.dOwn d
      | 0x18 => s.dStat d
      | _ => w
    else w
  | 0x1004 => if off = 0x024 then s.fltShd else if off = 0x028 then s.fltShdDev else w
  | 0x1005 => if off = 0x124 then s.rstStat else w
  | 0x1006 =>
    if off = 0x004 then s.kpsStat
    else if off = 0x014 then put w 22 16 s.logNext
    else if 0x040 ≤ off ∧ off < 0x060 then s.keeper.dirty.extractLsb' (32 * ((off - 0x040) / 4)) 32
    else if 0x100 ≤ off ∧ off < 0x200 then
      BitVec.ofNat 32 (s.counter ((off - 0x100) / 8) / (if off % 8 = 0 then 1 else 2 ^ 32))
    else w
  | 0x1007 => if off = 0x004 then s.rsvStat else if off = 0x018 then s.chgStat else w
  | 0x1008 =>
    if off = 0x000 then setb w 31 ((List.range 13).any s.elevated)
    else if off = 0x008 then put (put 0 29 16 (s.weights aArbPrio)) 13 0 (s.weights aArbLive)
    else if 0x080 ≤ off ∧ off < 0x0B4 then setb w 31 (s.elevated ((off - 0x080) / 4))
    else if 0x0C0 ≤ off ∧ off < 0x0F4 then
      match s.arb.reqs.toList[(off - 0x0C0) / 4]? with
      | some q => put (put 0 26 16 q.cred) 15 0 q.age
      | none => 0
    else w
  | 0x1009 =>
    if off = 0x004 then put w 22 16 (0x58 + s.tether.straps.haddr.toNat)
    else if 0x020 ≤ off ∧ off < 0x040 then s.sessWord (portOf ((off - 0x020) / 16)) (Fin.ofNat 4 ((off - 0x020) % 16 / 4))
    else if off = 0x0B0 then s.v1Stat
    else w
  | 0x100A =>
    if off = 0x0000 then put (setb w 31 s.tether.straps.trole) 30 27 s.tether.straps.taddr.toNat
    else if off = 0x0004 then setb w 5 (s.slave && s.tether.straps.taddr == 0)
    else if off = 0x1010 then s.now.extractLsb' 0 32
    else if off = 0x1014 then s.now.extractLsb' 32 32
    else if off = 0x1030 then (s.ring.best.map (fun l => l.time.extractLsb' 0 32)).getD 0
    else if off = 0x1034 then (s.ring.best.map (fun l => l.time.extractLsb' 32 32)).getD 0
    else if off = 0x1038 then s.pfInfo
    else if off = 0x103C then s.pfRun
    else w
  | 0x100B => if off = 0x004 then s.pwrStat else if off = 0x008 then s.pwrNext else w
  | 0x100C =>
    if off = 0x004 then setb w 30 s.arefuse
    else if off = 0x010 then s.keyStat
    else if off = 0x01C then s.alarmWord
    else w
  | 0x100F =>
    match off with
    | 0x000 => 0x6448#32
    | 0x004 => BitVec.ofNat 32 idStep
    | 0x008 => serial.extractLsb' 0 32
    | 0x00C => serial.extractLsb' 32 32
    | _ => 0
  | _ => w

/-! Writes of a channel's registers (R69 to R73, R80, R94) -/

/-- Hysteresis in mV (R78). -/
def hystMv (c : Nat) : Nat := match c with | 0 => 0 | 1 => 8 | 2 => 16 | _ => 32

/-- R80 for an above-type and for a below-type comparator. -/
def aboveOk (hyst thr : Nat) : Bool := hystMv hyst ≤ 2 * thr
def belowOk (hyst thr : Nat) : Bool := 2 * thr + hystMv hyst ≤ 2046

/-- CH_VSET within its ranges. -/
def vsetOk (r : Rail) (v : Word) : Bool :=
  match kind r with
  | 0 => wfld v 31 27 ≤ 24 && wfld v 15 0 ≤ 1740
  | 3 => wfld v 15 0 ≤ 16000
  | _ => wfld v 31 27 ≤ 20 && wfld v 15 0 ≤ 3100

/-- Store a configuration register of a channel, or refuse the write. `follow`: what the write starts. -/
def State.chStore (s : State) (r : Rail) (a : Nat) (v : Word) (ok : Bool) (follow : State → State := id) :
    State × Bool :=
  if s.lockCfg || !ok then (s.flag r 13, false)
  else
    (follow (s.setReg a v), true)

/-- A write of a channel register; none where it is read only or reserved. A write of THR and HYST starts blanking (R94). -/
def State.chWrite (s : State) (who : Who) (a : Nat) (v : Word) : Option (State × Bool) :=
  let off := a % 0x10000
  if 0x4000 ≤ off then none
  else
    let r : Rail := Fin.ofNat 64 (off / 0x100)
    let isOff := (s.ch r).st == .off
    match off % 0x100 with
    | 0x00 =>
      let q := s.chStore r a (v &&& (if isExt r then 0x3FFFFFF0#32 else 0x20000070#32)) isOff (fun s => s.powerCmps r)
      some (q.1.settleRsts, q.2)
    | 0x04 =>
      let v := v &&& (if isExt r then 0x0080FFFF#32 else 0xFF00FFFF#32)
      some (s.chStore r a v (isOff && vsetOk r v))
    | 0x08 => some (s.chStore r a (v &&& 0xFFF#32) (aboveOk (wfld v 11 10) (wfld v 9 0)) (fun s => s.blankOv r))
    | 0x0C =>
      some (s.chStore r a (v &&& 0xFFF#32)
        (belowOk (wfld v 11 10) (wfld v 9 0) && belowOk (wfld v 11 10) (s.fld (aChVoff r) 9 0)) (fun s => s.blankUv r))
    | 0x10 =>
      if isExt r then some (if s.lockCfg then (s.flag r 13, false) else (s, true))
      else
        some (s.chStore r a (v &&& 0x1FFF#32) (aboveOk (wfld v 11 10) (wfld v 9 0)) (fun s => s.blankOc r))
    | 0x14 | 0x18 => some (s.chStore r a (v &&& 0x03FFFFFF#32) true)
    | 0x1C =>
      some (s.chStore r a (v &&& 0x3FF#32) (belowOk (s.fld (aChWinUv r) 11 10) (wfld v 9 0)) (fun s => s.blankUv r))
    | 0x20 => some (s.chStore r a (v &&& 0x07FF03FF#32) true)
    | 0x24 => some (s.chMargin who r v)
    | 0x2C => some (s.chFlagsPut r v, true)
    | 0x30 => some (s.chStore r a (v &&& 0xFF#32) true)
    | _ => none

/-! Writes of the monitors' registers (R80, R94, R103, R105, R106, R123) -/

def State.monStore (s : State) (a : Nat) (v : Word) (ok : Bool) : State × Bool :=
  if s.lockCfg || !ok then (s.setBit aStStat 0 true, false) else (s.setReg a v, true)

/-- MON_AUXn within its ranges (R80, R103). -/
def auxOk (v : Word) : Bool :=
  aboveOk (wfld v 23 22) (wfld v 21 12) && belowOk (wfld v 11 10) (wfld v 9 0) && 16 ≤ wfld v 30 25

/-- The unbound AUX comparators that are active: their latch bits stay (R105). -/
def State.auxHeld (s : State) : Word :=
  (List.finRange 16).foldl (fun (a : Word) (n : Fin 16) =>
    a ||| at_ ((s.aux[n]).high && (s.auxRail n).isNone) (16 + n.val) ||| at_ (s.aux[n]).low n.val) 0

/-- A write of a monitor register; none where it is read only or reserved. A write that sets EN again begins the rotation of
R106 at the lowest enabled bank; the spec does not say where (DESIGN CHOICE, log 23). -/
def State.monWrite (s : State) (a : Nat) (v : Word) : Option (State × Bool) :=
  let off := a % 0x10000
  if off < 0x040 then
    let n : Fin 16 := Fin.ofNat 16 (off / 4)
    let q := s.monStore a v (auxOk v)
    some (if q.2 then
        match q.1.auxRail n with
        | some r => (q.1.blankOc r, true)
        | none => q
      else q)
  else if off = 0x040 then some (s.clrReg a v, true)
  else if off = 0x044 then some (s.clrReg a (v &&& ~~~s.auxHeld), true)
  else if off = 0x050 ∨ off = 0x054 ∨ (0x060 ≤ off ∧ off < 0x070) then some (s.monStore a v true)
  else if off = 0x080 then
    let on := tst v 31 && !s.bit aStCtl 31
    let q := s.monStore a (v &&& 0xE0FF07FF#32) (!tst v 31 || tst v 30 || tst v 29)
    some (if q.2 && on then ({ q.1 with selfTest := { q.1.selfTest with next := 0, nextAt := s.timer 0 } }, true) else q)
  else if off = 0x084 then some (s.clrReg a (v &&& 7), true)
  else if (0x090 ≤ off ∧ off < 0x0BC) ∨ off = 0x0C0 ∨ off = 0x0C4 then some (s.clrReg a v, true)
  else none

/-! Writes of the store controller's registers (R336, R338, R365, R375) -/

/-- A write of a KPS_ register; none where it is read only or reserved. A lock refuses a write that changes the field
it guards. -/
def State.kpsWrite (s : State) (a : Nat) (v : Word) : Option (State × Bool) :=
  let refuse : State × Bool := (s.orReg aKpsStat (bitw 0), false)
  if a = aKpsCtl then
    let autos := wfld v 15 0 != s.fld a 15 0
    some (if (s.lockBp && wfld v 31 30 != s.fld a 31 30) || (s.lockCfg && autos) then refuse
      else
        (s.setReg a (v &&& 0xC000FFFF#32), true))
  else if a = aKpsStat then some (s.clrReg a (v &&& 0x3F), true)
  else if a = aKpsCmd then
    some (if tst v 30 then s.kpsStoreAll else if tst v 31 then s.kpsStore else s, true)
  else if a = aCntCmd then
    let n : Fin 32 := Fin.ofNat 32 (wfld v 4 0)
    some (if tst v 31 && tst v 30 then refuse else if tst v 31 then s.cntInc n else if tst v 30 then s.cntInit n else (s, true))
  else none

/-! Writes of the reserve's registers (R380, R404, R409) -/

/-- The shunt's limits on charge and discharge current (R380): ICC × RS and ILIM × RS. -/
def shuntOk (icc ilim rs : Nat) : Bool := icc * rs ≤ 5000 && ilim * rs ≤ 250

/-- The value lies in the ranges of a RSV_ register's fields. -/
def State.rsvRange (s : State) (a : Nat) (v : Word) : Bool :=
  let f (hi lo : Nat) : Nat := wfld v hi lo
  if a = aRsvCfg then
    2 ≤ f 27 24 && f 27 24 ≤ 8 && 1 ≤ f 7 0 && f 7 0 ≤ 50 && shuntOk (s.fld aRsvChg 15 6) (s.fld aRsvOring 23 16) (f 7 0)
  else if a = aRsvChg then
    3400 ≤ f 27 16 && f 27 16 ≤ 3650 && 1 ≤ f 15 6 && f 15 6 ≤ 1000 && 1 ≤ f 5 0 && f 5 0 ≤ 50
      && shuntOk (f 15 6) 0 s.shunt && (s.vov = 0 || f 27 16 < s.vov)
  else if a = aRsvChgT then 10 ≤ f 31 24 && f 23 16 ≤ 100
  else if a = aRsvOring then 10 ≤ f 23 16 && f 23 16 ≤ 200 && shuntOk 0 (f 23 16) s.shunt
  else if a = aRsvProt then
    3600 ≤ f 31 20 && f 31 20 ≤ 3900 && s.vcv < f 31 20 && 2000 ≤ f 19 8 && f 19 8 ≤ 3000 && 1 ≤ f 7 0 && f 7 0 ≤ 100
  else if a = aRsvRc then 1 ≤ f 15 0
  else if a = aRsvNoise then 1 ≤ f 15 8 && 1 ≤ f 7 0
  else if a = aRsvRest then 1 ≤ f 23 16 && 9500 ≤ f 15 0 && f 15 0 ≤ 28000
  else true

/-- The bits a RSV_ register keeps; none of a register that is not plainly stored. -/
def rsvMask (a : Nat) : Option Word :=
  if a = aRsvCfg then some 0x8FF800FF#32
  else if a = aRsvChg then some 0x8FFFFFFF#32
  else if a = aRsvOring then some 0xC0FFFFFF#32
  else if a = aRsvRest then some 0x80FFFFFF#32
  else if a = aOcv 10 then some 0xFFFF#32
  else if a = aRsvChgT ∨ a = aRsvProt ∨ a = aRsvTemp ∨ a = aRsvRc ∨ a = aRsvR0A ∨ a = aRsvR0B ∨ a = aRsvNoise
    ∨ (aOcv 0 ≤ a ∧ a < aOcv 10) then some 0xFFFFFFFF#32
  else none

/-- The register stands still while the estimator, or the reserve, is enabled (R380). -/
def State.rsvHeld (s : State) (a : Nat) (v : Word) : Bool :=
  if a = aRsvCfg then s.rsvEn && v != setb (s.reg a) 31 false
  else s.estEn && (a = aRsvRc || a = aRsvR0A || a = aRsvR0B || a = aRsvNoise || (aOcv 0 ≤ a && a ≤ aOcv 10))

/-- A write of RSV_CMD: under LOCK_CFG only REARM acts, and any other write is refused (R380). -/
def State.rsvCmd (s : State) (v : Word) : State × Bool :=
  let s := if tst v 31 then s.rearm else s
  let rest := tst v 30 || tst v 29 || tst v 28
  if s.lockCfg && (rest || !tst v 31) then (s.rsvRefuse, false)
  else
    let s := if tst v 30 then s.setRsv { s.reserve with restNow := true } else s
    let s := if tst v 29 then s.setRsv { s.reserve with reinit := true } else s
    (if tst v 28 then s.clrLrn else s, true)

/-- A RSV_ register that only shows the reserve's state. -/
def rsvShows (a : Nat) : Bool :=
  a = aRsvStat || a = aRsvChgStat || a = aSoc || a = aEnergy || a = aRuntime || a = aSoh || a = aV1

/-- A write of a RSV_ register; none where it is read only or reserved. Under LOCK_CFG every write is refused but one of
RSV_FLAGS and of REARM (R380). -/
def State.rsvWrite (s : State) (a : Nat) (v : Word) : Option (State × Bool) :=
  if a = aRsvFlags then some (s.rsvFlags v, true)
  else if a = aRsvCmd then some (s.rsvCmd v)
  else if a = aEstCfg then some (s.estCfg v)
  else if s.lockCfg && rsvShows a then some (s.rsvRefuse, false)
  else match rsvMask a with
    | none => none
    | some m =>
      let v := v &&& m
      some (if s.lockCfg || s.rsvHeld a v || !s.rsvRange a v then (s.rsvRefuse, false)
        else
          let s := s.setReg a v
          let s := if a = aRsvRest && !tst v 31 then s.restAbort else s
          (s.rsvSettle, true))

/-! Writes of the arbiter's registers (R424 to R426) -/

def allReqs : List (Fin 13) := List.finRange 13

def State.setReq (s : State) (n : Fin 13) (q : ArbReq) : State := { s with arb := { s.arb with reqs := s.arb.reqs.set n q } }

/-- The live weight of a requester (R417). -/
def State.liveWeight (s : State) (n : Nat) : Nat := s.fld (aArbLive n) 10 0

/-- A commit: live := shadow, credits clipped, ages kept (R420, R425). -/
def State.applyCommit (s : State) : State :=
  let s := s.forAll allReqs (fun s n => s.setReg (aArbLive n) (s.reg (aArbPrio n)))
  s.forAll allReqs (fun s n => s.setReq n { s.arb.reqs[n] with cred := min (s.arb.reqs[n]).cred (s.liveWeight n) })

/-- COMMIT of ARB_COMMIT; whether it is accepted. It applies with the write, before the arbitration of the next cycle. -/
def State.arbCommit (s : State) : State × Bool :=
  if s.lockCfg then (s.orReg aArbStat (bitw 0), false)
  else if 1024 < s.weights aArbPrio then (s.orReg aArbStat (bitw 1), false)
  else (s.applyCommit, true)

/-- A write of a ARB_ register; none where it is read only or reserved. -/
def State.arbWrite (s : State) (a : Nat) (v : Word) : Option (State × Bool) :=
  let off := a % 0x10000
  if a = aArbStat then some (s.clrReg a (v &&& 3), true)
  else if a = aArbCommit then
    let s := if tst v 30 then s.setReg aArbPre 0 else s
    some (if tst v 31 then s.arbCommit else (s, true))
  else if a = aArbStarve then some (s.clrReg a (v &&& 0x1FFF), true)
  else if 0x040 ≤ off ∧ off < 0x074 then
    some (if s.lockCfg || wfld v 17 16 = 3 || 1024 < wfld v 10 0 then (s.orReg aArbStat (bitw 0), false)
      else (s.setReg a (v &&& 0x000307FF#32), true))
  else none

/-! Writes of the host block's registers (R454, R465) -/

/-- The running time-outs of a port follow a new limit; each counts from the session's last frame. -/
def State.retime (s : State) (p : Fin 2) (old new : Nat) : State :=
  if old = new then s
  else s.forAll (List.finRange 4) (fun s i =>
    let x := s.sess p i
    if !x.isOpen then s
    else s.setSess p i { x with tmoAt := if new = 0 then none else match x.tmoAt with
      | some t => some (t + 100000000 * new - 100000000 * old)
      | none => s.timer (100000000 * new) })

/-- A write of a HST_ register; none where it is read only or reserved. -/
def State.hstWrite (s : State) (a : Nat) (v : Word) : Option (State × Bool) :=
  let off := a % 0x10000
  let refuse : State × Bool := (s.orReg aHstStat (bitw 0), false)
  if off = 0x000 ∨ off = 0x004 then
    let p := portOf (off / 4)
    let old := s.fld a 15 0
    some (if s.lockCfg then refuse
      else ((s.setReg a (v &&& (if off = 0 then 0xF800FFFF#32 else 0xF000FFFF#32))).retime p old (wfld v 15 0), true))
  else if a = aHstStat then some (s.clrReg a (v &&& 0x1D), true)
  else if a = aHstCmd then
    some (if tst v 31 then s.closeSession (portOf (wfld v 2 2)) (Fin.ofNat 4 (wfld v 1 0)) else s, true)
  else if 0x080 ≤ off ∧ off < 0x0B0 then some (if s.lockCfg then refuse else (s.setReg a (v &&& 0x80000F3F#32), true))
  else none

/-! Writes of the link registers (R485, R507, R510, R511, R513, R516) -/

/-- A changed mask releases the barriers whose arrivals cover it (R510, R511); a tether barrier exists only with EN 1. -/
def State.tRecheck (s : State) : State :=
  if !s.tetherEn then s
  else s.forAll s.tether.sets (fun s e =>
    let m := s.tBarm
    if m ≠ 0 ∧ e.2 &&& m = m then
      let s := { s with tether := { s.tether with sets := setArrivals s.tether.sets e.1 0 } }
      (if m.getLsbD 0 then s.releaseWicks false e.1 else s).tBroadcast (.release e.1)
    else s)
def State.rRecheck (s : State) : State :=
  s.forAll s.ring.sets (fun s e =>
    let m := s.rBarm
    if m ≠ 0 ∧ e.2 &&& m = m then
      { s with ring := { s.ring with sets := setArrivals s.ring.sets e.1 0 } }.releaseWicks true e.1
    else s)

/-- A write of a TTH_ register; none where it is read only or reserved. -/
def State.tthRegWrite (s : State) (a : Nat) (v : Word) : Option (State × Bool) :=
  let cfg (v : Word) : State × Bool :=
    if s.lockCfg then (s.orReg aTthStat (bitw 0), false) else (s.setReg a v, true)
  if a = aTthCfg then
    let q := cfg (v &&& 0x0607FFFF#32)
    some (if q.2 then (q.1.tRecheck, true) else q)
  else if a = aTthBarm then
    let q := cfg (v &&& 0xFFFF#32)
    some (if q.2 then (q.1.tRecheck, true) else q)
  else if a = aTthStat then some (s.clrReg a (v &&& 0x1D), true)
  else if a = aTthRaCmd then some (if tst v 31 then s.tthGo (tst v 30) (BitVec.ofNat 6 (wfld v 5 0)) else (s, true))
  else if a = aTthRaAddr ∨ a = aTthRaData then some (s.setReg a v, true)
  else none

/-- A write of RNG_CFG; EN on a slave is out of range (R484), and a node that is no candidate is no time master (R496). -/
def State.rngCfg (s : State) (v : Word) : State × Bool :=
  if s.lockCfg || (s.slave && tst v 31) then (s.orReg aRngStat (bitw 0), false)
  else
    let s := s.setReg aRngCfg (v &&& 0xE000003F#32)
    let s := if tst v 30 then s else s.leaveMaster
    (if tst v 31 then s else s.closeSplice, true)

/-- A write of RNG_CMD. -/
def State.rngCmd (s : State) (v : Word) : State × Bool :=
  let s := if tst v 30 then s.pfEmpty else s
  let s := if tst v 29 then s.pfClrAll else s
  if tst v 31 then s.tset else (s, true)

/-- A write of a RNG_ register; none where it is read only or reserved. -/
def State.rngRegWrite (s : State) (a : Nat) (v : Word) : Option (State × Bool) :=
  if a = aRngCfg then some (s.rngCfg v)
  else if a = aRngCtl then some (s.rngCtl v, true)
  else if a = aRngStat then some (s.clrReg a (v &&& 0x3F), true)
  else if a = aRngCmd then some (s.rngCmd v)
  else if a = aRngTsetL ∨ a = aRngTsetH ∨ a = aRngRaAddr ∨ a = aRngRaData then some (s.setReg a v, true)
  else if a = aRngBarm 0 ∨ a = aRngBarm 1 then
    some (if s.lockCfg then (s.orReg aRngStat (bitw 0), false) else ((s.setReg a v).rRecheck, true))
  else if a = aRngRaCmd then some (if tst v 31 then s.rngGo (tst v 30) (BitVec.ofNat 6 (wfld v 5 0)) else (s, true))
  else none

/-! Writes of the PWR_ and SEC_ registers (R527, R537 to R539, R545, R550, R552) -/

/-- A write of a PWR_ register; none where it is read only or reserved. TSHUT stays while the die is hot. -/
def State.pwrWrite (s : State) (a : Nat) (v : Word) : Option (State × Bool) :=
  let cfg (v : Word) (ok : Bool) : State × Bool :=
    if s.lockCfg || !ok then (s.orReg aPwrStat (bitw 0), false) else (s.setReg a v, true)
  if a = aPwrCtl ∨ a = aClkCfg then some (cfg (v &&& 0xC0000000#32) true)
  else if a = aPwrStat then some (s.clrReg a (v &&& (if s.power.hot then 1 else 5)), true)
  else if a = aClkStat then some (s.clrReg a (v &&& 7), true)
  else if a = aTherm then some (cfg (v &&& 0xFF#32) (85 ≤ wfld v 7 0 && wfld v 7 0 ≤ 135))
  else none

/-- An instruction of the JTAG port that is not served acts as BYPASS (R540). -/
def Protect.closeJtag (p : Protect) : Protect :=
  if p.jtag == .extest || p.jtag == .priv then { p with jtag := .bypass, jtagOut := 0 } else p

/-- Set locks; LOCK_INJECT clears every arm bit in the same cycle, and LOCK_DEBUG closes the JTAG port (R301, R538, R540). -/
def State.setLocks (s : State) (v : Word) : State :=
  let s := s.orReg aLock (v &&& 0x3F)
  let s := if tst v 4 then { s with protect := s.protect.closeJtag } else s
  if tst v 5 then s.disarmAll else s

/-- The place of a cause of R551 before the host frames of its cycle. -/
def secOrder : SecEvent → Nat
  | .loop _ _ | .voltage _ | .temperature _ | .clock _ => 1
  | .erase => 2
  | .locks _ => 3

/-- One cause of R551. -/
def State.secEvent (s : State) (e : SecEvent) : State :=
  match e with
  | .loop loop1 sensed => s.loopSample loop1 sensed
  | .voltage active => s.glitch 2 25 active
  | .temperature active => s.glitch 3 26 active
  | .clock active => s.clockGlitch active
  | .erase => s.fab State.startErase
  | .locks v => s.fab (fun s => s.setLocks (v.setWidth 32))

/-- The causes of a cycle ahead of its host frames and key block writes, in the order of R551. -/
def State.secEvents (s : State) (l : List SecEvent) : State :=
  ((List.range 4).flatMap (fun k => l.filter (fun e => secOrder e == k))).foldl State.secEvent s

/-- A write of a SEC_ register; none where it is read only or reserved. -/
def State.secWrite (s : State) (a : Nat) (v : Word) : Option (State × Bool) :=
  let refuse : State × Bool := (s.orReg aSecStat (bitw 0), false)
  if a = aLock then some (s.setLocks v, true)
  else if a = aSecStat then some (s.clrReg a (v &&& 7), true)
  else if a = aKcmd then some (if tst v 31 then s.startErase else s, true)
  else if a = aKeyCtl then some (if s.lockKey then refuse else (s.setReg a (v &&& 0xF), true))
  else if a = aTampCfg then some (if s.lockCfg then refuse else (s.tampCfg v, true))
  else if a = aAlarmAct then some (if s.lockCfg then refuse else (s.setReg a (v &&& 0xF), true))
  else if a = aAlarm then some (s.alarmClear v, true)
  else none

/-! Register writes -/

/-- A write of a register, and whether it is accepted: a write to a read-only or reserved register is ignored (R9, R13). -/
def State.regWrite (s : State) (who : Who) (a : Nat) (v : Word) : State × Bool :=
  (match a / 0x10000 with
  | 0x1000 => s.chWrite who a v
  | 0x1001 => s.monWrite a v
  | 0x1002 => s.tlmWrite a v
  | 0x1003 => s.seqWrite who a v
  | 0x1004 => s.fltWrite a v
  | 0x1005 => s.mrgWrite a v
  | 0x1006 => s.kpsWrite a v
  | 0x1007 => s.rsvWrite a v
  | 0x1008 => s.arbWrite a v
  | 0x1009 => s.hstWrite a v
  | 0x100A => if a % 0x10000 < 0x1000 then s.tthRegWrite a v else s.rngRegWrite a v
  | 0x100B => s.pwrWrite a v
  | 0x100C => s.secWrite a v
  | _ => none).getD (s, true)

/-! The keeping store (R328 to R334, R344, R345, R355, R541 to R543) -/

/-- PROTREF and the refusal. -/
def State.protRef (s : State) : State × Bool := (s.orReg aKpsStat (bitw 3), false)
def State.keyRef (s : State) : State × Bool := (s.setBit aSecStat 1 true, false)

/-- Only the store engine has access: recall and repair (R355). -/
def State.recallWindow (s : State) : Bool := s.power.phase == .locked || s.power.phase == .recalled

/-- Whether the region accepts a requester's write, with the flags a refusal sets (R331, R333, R334, R542). LOCK_PROG marks
every write to the slots, whatever else refuses it (R184). The live slot is the one that SEQ_LIVE names: slot A where no
image has passed its check, of which R180 does not speak (DESIGN CHOICE, log 26). -/
def State.regionWrite (s : State) (who : Who) (a : Nat) : State × Bool :=
  let id := whoId who
  let bp (s : State) : State × Bool := if s.bpCovers a then s.protRef else (s, true)
  if decide (0x30000 ≤ a ∧ a < 0x38000) && s.lockProg then (s.orReg aSeqStat (bitw 1)).protRef
  else if s.power.phase == .recalled && id == 3 && a < 0x3C000 then (s, true)
  else if a < 0x20000 then (if id == 2 then (s, true) else s.protRef)
  else if a < 0x24000 then (if id == 4 then (s, true) else s.protRef)
  else if a < 0x25000 then (if id == 5 then (s, true) else s.protRef)
  else if a < 0x28000 then (if id == 6 then bp s else s.protRef)
  else if a < 0x30000 then bp s
  else if a < 0x38000 then (if decide (0x34000 ≤ a) == s.bit aSeqLive 31 then s.protRef else bp s)
  else if a < 0x3C000 then
    let o := (a - 0x38000) % 0x2000
    if 0x1F20 ≤ o then s.protRef
    else if 0x1F00 ≤ o then (if id == 3 then bp s else s.protRef)
    else if s.lockCfg then s.protRef
    else bp s
  else if id != 7 || s.lockKey || s.erasing || s.bpCovers a then (s.keyRef.1).protRef
  else (s, true)

/-- No requester but these writes now (R344, R345, R355): in recall and repair the store engine, in a power fail the logger,
the store engine and the counter engine, and after its store none. -/
def State.storeShut (s : State) (id : Nat) : Bool :=
  s.keeper.ended || (s.recallWindow && id != 3) || (s.keeper.locked && !(id == 2 || id == 3 || id == 4))

/-- Whether a requester may write at an address of the keeping store, with the flags a refusal sets: those of the region
come first. A write to the key block sets KEYREF whatever refuses it (R542). -/
def State.mayStore (s : State) (who : Who) (a : Nat) : State × Bool :=
  let q := s.regionWrite who a
  if q.2 && s.storeShut (whoId who) then (if 0x3C000 ≤ a then (q.1.keyRef.1).protRef else (q.1, false)) else q

/-- Write bytes to the keeping store; the reserved rest of the key block holds 0 (R541). -/
def State.storeWrite (s : State) (who : Who) (a : Nat) (l : List Byte) : State × Bool :=
  let q := s.mayStore who a
  if !q.2 then q else (if 0x3C080 ≤ a then q.1 else q.1.poke a l, true)

/-- The reserved bytes behind a commit record copy, and behind the key slots: they read 0 (R331, R541). -/
def storeHole (a : Nat) : Bool := (0x39F20 ≤ a && a < 0x3A000) || (0x3BF20 ≤ a && a < 0x3C000) || 0x3C080 ≤ a

/-- Read n bytes of the keeping store; the key block is read by the store and protection engines alone (R355, R543). -/
def State.storeRead (s : State) (who : Who) (a n : Nat) : State × Bool × Nat :=
  let id := whoId who
  if 0x3C000 ≤ a && !(id == 3 || id == 12) then (s.keyRef.1, false, 0)
  else if s.recallWindow && id != 3 then (s, false, 0)
  else (s, true, if storeHole a then 0 else leNat (s.bytes a n))

/-! W1C and W1S bits (R11, R444) -/

/-- The bits of a register with access W1C or W1S; a field of access WO reads 0. -/
def eventBits (a : Nat) : Word :=
  let off := a % 0x10000
  match a / 0x10000 with
  | 0x1000 => if off < 0x4000 ∧ off % 0x100 = 0x2C then chFlagsMask else 0
  | 0x1001 =>
    if off = 0x040 ∨ off = 0x044 ∨ (0x090 ≤ off ∧ off < 0x0BC) ∨ off = 0x0C0 ∨ off = 0x0C4 then 0xFFFFFFFF#32
    else if off = 0x084 then 7 else 0
  | 0x1002 =>
    if off = 0x004 then 3 else if off = 0x014 then 0xE else if off = 0x210 then 6
    else if off = 0x220 ∨ off = 0x224 then 0xFFFFFFFF#32
    else if 0x1000 ≤ off ∧ off < 0x17C0 ∧ off % 0x10 = 0 then bitw 16 else 0
  | 0x1003 =>
    if off = 0x004 then 3
    else if 0x100 ≤ off ∧ off < 0x300 then
      (if off % 0x20 = 0x04 then bitw 8 else if off % 0x20 = 0x0C then 0xFFFF else 0)
    else if off = 0x1004 then 1
    else if 0x1100 ≤ off ∧ off < 0x1300 ∧ off % 0x20 = 0x18 then 0xE else 0
  | 0x1004 => if off = 0x004 then 0x1F else if 0x080 ≤ off ∧ off < 0x0B0 then 0xFFFFFFFF#32 else 0
  | 0x1005 => if off = 0x000 then 1 else if off = 0x004 ∨ off = 0x008 then 0xFFFFFFFF#32 else 0
  | 0x1006 => if off = 0x004 then 0x3F else 0
  | 0x1007 => if off = 0x008 then 0x7FFF else 0
  | 0x1008 => if off = 0x000 then 3 else if off = 0x00C then 0x1FFF else 0
  | 0x1009 => if off = 0x008 then 0x1D else 0
  | 0x100A => if off = 0x0004 then 0x1D else if off = 0x1008 then 0x3F else 0
  | 0x100B => if off = 0x004 then 5 else if off = 0x010 then 7 else 0
  | 0x100C => if off = 0x000 then 0x3F else if off = 0x004 then 7 else if off = 0x01C then 0x1F else 0
  | _ => 0

/-- What is left of a word written where the device sets the bits `hw` of the register in the same cycle: a W1C bit that it
sets ends set (R11). A lock bit has access W1S. -/
def landed (a : Nat) (v hw : Word) : Word := if a = aLock then v else v &&& ~~~(hw &&& eventBits a)

/-! Transfers -/

/-- The windows of R413 that hold registers. -/
def regWindow (a : Nat) : Bool := (0x10000000 ≤ a && a < 0x100D0000) || (0x100F0000 ≤ a && a < 0x10100000)

/-- The shape of a transfer (R8, R330, R410): an aligned word of 4 or 8 bytes, 4 for registers, one byte for the counter
engine in its region. -/
def shapeOk (t : Transfer) : Bool :=
  if t.size = 1 then whoId t.who == 4 && t.write && 0x20000 ≤ t.addr && t.addr < 0x24000
  else (t.size == 4 || (t.size == 8 && t.addr < 0x50000)) && t.addr % t.size == 0

/-- One transfer in its last cycle (R412 to R414): the state, whether it was accepted, and the data read. -/
def State.transfer (s : State) (t : Transfer) : State × Bool × BitVec 64 :=
  if !shapeOk t then (s, false, 0)
  else if t.addr < 0x40000 then
    if t.write then
      let q := s.storeWrite t.who t.addr (leBytes t.size t.data.toNat)
      (q.1, q.2, 0)
    else
      let q := s.storeRead t.who t.addr t.size
      (q.1, q.2.1, BitVec.ofNat 64 q.2.2)
  else if t.addr < 0x50000 then
    if t.write then
      if whoId t.who == 1 then
        (((leBytes t.size t.data.toNat).foldl (fun (x : State × Nat) b => (x.1.tlmPoke x.2 b, x.2 + 1)) (s, t.addr)).1, true, 0)
      else (s, false, 0)
    else (s, true, BitVec.ofNat 64 (leNat ((List.range t.size).map (fun i => s.tlmByte (t.addr + i)))))
  else if regWindow t.addr then
    if t.write then
      let q := s.regWrite t.who t.addr (landed t.addr (t.data.setWidth 32) t.hw)
      (q.1, q.2, 0)
    else (s, true, (s.regRead t.addr).setWidth 64)
  else (s, false, 0)

/-- A 32-bit transfer of a requester. -/
def State.read32 (s : State) (who : Who) (a : Nat) : State × Bool × Word :=
  let q := s.transfer { who := who, addr := a, write := false, size := 4, data := 0 }
  (q.1, q.2.1, q.2.2.setWidth 32)
def State.write32 (s : State) (who : Who) (a : Nat) (v hw : Word) : State × Bool :=
  let q := s.transfer { who := who, addr := a, write := true, size := 4, data := v.setWidth 64, hw := hw }
  (q.1, q.2.1)

/-! Meanings -/

/-- REGISTER_WRITE: one 32-bit write (R9 to R13, R69 to R72). -/
def execRegisterWrite (who : Who) (a : Nat) (v hw : Word) (s : State) : Res :=
  .next (if !s.serves || !regWindow a then s else (s.write32 who a v hw).1)

/-- ARB_COMMIT (R424); `andClear`: CLRCNT of the same write. -/
def execArbCommit (_who : Who) (andClear : Bool) (s : State) : Res :=
  .next (s.fab (fun s => ((if andClear then s.setReg aArbPre 0 else s).arbCommit).1))
/-- ARB_CLRCNT (R426). -/
def execArbClrcnt (_who : Who) (s : State) : Res := .next (s.fab (fun s => s.setReg aArbPre 0))

/-- LOCK_CFG (R538, R539). -/
def execLockCfg (_who : Who) (s : State) : Res := .next (s.fab (fun s => s.setLocks (bitw 0)))
/-- LOCK_PROG. -/
def execLockProg (_who : Who) (s : State) : Res := .next (s.fab (fun s => s.setLocks (bitw 1)))
/-- LOCK_BP. -/
def execLockBp (_who : Who) (s : State) : Res := .next (s.fab (fun s => s.setLocks (bitw 2)))
/-- LOCK_KEY. -/
def execLockKey (_who : Who) (s : State) : Res := .next (s.fab (fun s => s.setLocks (bitw 3)))
/-- LOCK_DEBUG. -/
def execLockDebug (_who : Who) (s : State) : Res := .next (s.fab (fun s => s.setLocks (bitw 4)))
/-- LOCK_INJECT. -/
def execLockInject (_who : Who) (s : State) : Res := .next (s.fab (fun s => s.setLocks (bitw 5)))

/-- TTH_READ of a slave: a transfer of requester 10 (R471, R480). -/
def execTthRead (h : TetherHead) (addr : Word) (s : State) : Res :=
  .next (s.tTake h 0x03 1 (fun s =>
    let q := s.read32 .tether addr.toNat
    (q.1, some (.read (if q.2.1 then 0 else 1) q.2.2))))

/-- TTH_WRITE of a slave. -/
def execTthWrite (h : TetherHead) (addr data hw : Word) (s : State) : Res :=
  .next (s.tTake h 0x04 1 (fun s =>
    let q := s.write32 .tether addr.toNat data hw
    (q.1, some (.write (if q.2 then 0 else 1)))))

/-- RING_READ: a transfer of the receiving port's requester, answered by RESP (R513); refused once the power fails (R525). -/
def execRingRead (h : RingArrival) (addr : Word) (s : State) : Res :=
  .next (s.receive h (.read addr) false (fun s =>
    let q := if s.power.phase == .powerFail then (s, false, 0) else s.read32 (if h.portB then .ringB else .ringA) addr.toNat
    q.1.rSend (h.src.setWidth 8) (.resp h.seq (if q.2.1 then 0 else 1) q.2.2)))

/-- RING_WRITE: refused unless RNG_CFG.RWEN is 1, and once the power fails (R513, R525). -/
def execRingWrite (h : RingArrival) (addr data hw : Word) (s : State) : Res :=
  .next (s.receive h (.write addr data) false (fun s =>
    let q := if s.bit aRngCfg 29 && s.power.phase != .powerFail then
        s.write32 (if h.portB then .ringB else .ringA) addr.toNat data hw
      else (s, false)
    q.1.rSend (h.src.setWidth 8) (.resp h.seq (if q.2 then 0 else 1) 0)))

/-! The JTAG port (R540) -/

/-- EXTEST and the private instructions are served; barred by LOCK_DEBUG or the boot they act as BYPASS. -/
def State.jtagOpen (s : State) : Bool := s.configured && !s.lockDebug

def State.setJtag (s : State) (i : JtagIr) (out : BitVec 64) : State :=
  { s with protect := { s.protect with jtag := i, jtagOut := out } }

/-- JTAG_BYPASS. -/
def execJtagBypass (s : State) : Res := .next (s.setJtag .bypass 0)
/-- JTAG_IDCODE (R573): version, part number, manufacturer and a final 1 (log 7). -/
def execJtagIdcode (s : State) : Res :=
  .next (s.setJtag .idcode (BitVec.ofNat 64 (Config.stepIndex % 16 * 2 ^ 28 + 0x06448547)))
/-- JTAG_SAMPLE_PRELOAD. -/
def execJtagSamplePreload (s : State) : Res := .next (s.setJtag .samplePreload 0)
/-- JTAG_EXTEST. -/
def execJtagExtest (s : State) : Res := .next (s.setJtag (if s.jtagOpen then .extest else .bypass) 0)

/-- JTAG_PRIVATE: one fabric transfer as requester 12; one that sets LOCK_DEBUG closes the port. R8 has each interface
report a refusal as it defines, and the spec defines no manner for this one: the port shows the data word alone, 0 of a
refused transfer, and of one for which the fabric does not run (DESIGN CHOICE, log 38). -/
def execJtagPrivate (t : Transfer) (s : State) : Res :=
  .next (if !s.jtagOpen then s.setJtag .bypass 0
    else if !s.serves then s.setJtag .priv 0
    else
      let q := s.transfer { t with who := .protection }
      if q.1.jtagOpen then q.1.setJtag .priv q.2.2 else q.1.setJtag .bypass 0)

end Sys2Proof.Machine
end

