-- ==== Sys2Proof/Machine/Arbiter.lean ====
section
/-! DEFINITION. The fabric arbiter (R410 to R412, R416 to R428). One GRANT is one arbiter cycle. -/

namespace Sys2Proof.Machine

/-- The fabric and its arbiter run: the PLL has locked, and the device is in RUN or DOZE (R423). -/
def State.fabricRuns (s : State) : Bool :=
  s.fabricOn && s.powered

/-- The effective class of a requester (R417). -/
def State.effClass (s : State) (n : Nat) : Nat := if s.elevated n then 3 else s.fld (aArbLive n) 17 16

/-- Cycles of a transfer (R411). -/
def State.transferCycles (s : State) (t : Transfer) : Nat :=
  if (t.addr = aMonVin ∨ t.addr = aClkStat ∨ t.addr = aRstCause) ∧ (s.transfer t).2.1 then 8 else 1

/-- The requesters that wait. -/
def State.waiters (s : State) : List (Fin 13) := allReqs.filter (fun n => (s.arb.reqs[n]).wait.isSome)

/-- A waiting requester loses a round: its age rises, and at 65,535 it starves (R419, R428). The second part: it raises
ARB_STARVE, once per wait. -/
def State.loseRound (s : State) (n : Fin 13) : State × Bool :=
  let q := s.arb.reqs[n]
  if q.age < 65535 then (s.setReq n { q with age := q.age + 1 }, false)
  else ((s.setReq n { q with starved := true }).orReg aArbStarve (bitw n.val), !q.starved)

/-- A list of requesters loses the round; ARB_STARVE is raised once for those that starve. -/
def State.loseRounds (s : State) (l : List (Fin 13)) : State :=
  let q := l.foldl (fun (x : State × Bool) n => ((x.1.loseRound n).1, (x.1.loseRound n).2 || x.2)) (s, false)
  if q.2 then q.1.raise1 srcArbStarve else q.1

/-- The transfer in flight reaches its last cycle and takes effect (R412). -/
def State.completeFlight (s : State) : State :=
  match s.arb.flight with
  | none => s
  | some (n, t, _) =>
    let q := { s with arb := { s.arb with flight := none } }.transfer t
    { q.1 with arb := { q.1.arb with lastRead := some (n, !q.2.1, q.2.2) } }

/-- The holder's transfer is aborted without effect; it waits again with its credit returned (R421, R422). -/
def State.preempt (s : State) : State :=
  match s.arb.flight with
  | none => s
  | some (n, t, _) =>
    let q := s.arb.reqs[n]
    let s := { s with arb := { s.arb with flight := none } }.setReq n { q with
      wait := some t, cred := min (q.cred + 1) (s.liveWeight n) }
    s.setReg aArbPre (if s.reg aArbPre = 0xFFFFFFFF#32 then 0xFFFFFFFF#32 else s.reg aArbPre + 1)

/-- Of two waiting requesters, the one R420 prefers: class, then credit and age, then the lower ID. -/
def State.prefer (s : State) (a b : Fin 13) : Fin 13 :=
  let key (n : Fin 13) : Nat := s.effClass n * 2 ^ 20 + (s.arb.reqs[n]).cred + (s.arb.reqs[n]).age
  if key a < key b then b else a

/-- The grant of R420, and the lost round of the other waiting requesters. -/
def State.grantOne (s : State) : State :=
  match s.waiters with
  | [] => s
  | n :: t =>
    let g := t.foldl s.prefer n
    let q := s.arb.reqs[g]
    match q.wait with
    | none => s
    | some tr =>
      let others := s.waiters.filter (· != g)
      let s := { s with arb := { s.arb with flight := some (g, tr, s.transferCycles tr - 1) } }
      (s.setReq g { wait := none, cred := q.cred - 1, age := 0, starved := false }).loseRounds others

/-- A presented request waits from the next cycle; a requester has at most one, waiting or in flight beyond this cycle
(R410, R419). -/
def State.presentReq (s : State) (t : Transfer) : State :=
  let n := whoId t.who
  if (s.arb.reqs[n]).wait.isSome || s.arb.flight.any (fun f => f.1 == n && f.2.2 != 0) then s
  else s.setReq n { s.arb.reqs[n] with wait := some t }

/-- The transfer in flight is in its last cycle. -/
def State.flightEnds (s : State) : Bool := s.arb.flight.any (fun f => f.2.2 == 0)

/-- One arbiter cycle of R420 up to the presented requests. A transfer whose last cycle has passed has taken effect. -/
def State.arbCycle (s : State) : State :=
  let s := if s.flightEnds then s.completeFlight else s
  match s.arb.flight with
  | none => s.grantOne
  | some (n, t, k) =>
    if s.effClass n < 3 && s.waiters.any (fun m => s.effClass m == 3) then s.preempt.grantOne
    else { s with arb := { s.arb with flight := some (n, t, k - 1) } }.loseRounds s.waiters

/-- GRANT: one arbiter cycle; `present` lists the requests presented in it (R419 to R422, R428). -/
def execGrant (present : List Transfer) (s : State) : Res :=
  .next (if !s.fabricRuns then s else s.arbCycle.forAll present State.presentReq)

/-- TRANSFER_COMPLETE: a transfer in its last cycle takes effect (R412 to R414), behind the causes of R551 in `co`. -/
def execTransferComplete (co : List SecEvent) (s : State) : Res :=
  .next (
    let s := s.secEvents co
    if s.fabricRuns && s.flightEnds then s.completeFlight else s)

/-- WINDOW_BOUNDARY: after 1,024 fabric cycles every credit is set to the weight; what the cycle before has written, a
commit too, applies first (R418, R425). -/
def execWindowBoundary (s : State) : Res :=
  .next (if !s.fabricRuns || s.arb.count < 8192 then s
    else
      let s := if s.flightEnds then s.completeFlight else s
      ({ s with arb := { s.arb with count := s.arb.count - 8192 } }).forAll allReqs
        (fun s n => s.setReq n { s.arb.reqs[n] with cred := s.liveWeight n }))

end Sys2Proof.Machine
end

