-- ==== Sys2Proof/Machine/Cipher.lean ====
section
/-! DEFINITION. AES-128 encryption and AES-CMAC, which the host protocol names (R458: AES-128; NIST SP 800-38B).
PRESUMED (log 19): the two standards themselves stand outside the spec. -/

namespace Sys2Proof.Machine

/-- Rows of 32 bytes of the AES S-box, the lowest byte first. -/
def sboxRow (k : Nat) : Nat :=
  match k with
  | 0 => 0xC072A49CAFA2D4ADF04759FA7DC982CA76ABD7FE2B670130C56F6BF27B777C63
  | 1 => 0x75B227EBE28012079A059618C323C7041531D871F1E5A534CCF73F362693FDB7
  | 2 => 0xCF584C4A39BECB6A5BB1FC20ED00D153842FE329B3D63B52A05A6E1B1A2C8309
  | 3 => 0xD2F3FF1021DAB6BCF5389D928F40A351A89F3C507F02F94585334D43FBAAEFD0
  | 4 => 0xDB0B5EDE14B8EE4688902A22DC4F816073195D643D7EA7C41744975FEC130CCD
  | 5 => 0x08AE7A65EAF4566CA94ED58D6D37C8E779E4959162ACD3C25C2406490A3A32E0
  | 6 => 0x9E1DC186B95735610EF6034866B53E708A8BBD4B1F74DDE8C6B4A61C2E2578BA
  | _ => 0x16BB54B00F2D99416842E6BF0D89A18CDF2855CEE9871E9B948ED9691198F8E1

/-- The AES S-box. -/
def sbox (b : Byte) : Byte := BitVec.ofNat 8 (sboxRow (b.toNat / 32) >>> (8 * (b.toNat % 32)))

/-- Multiplication by x in the AES field. -/
def xtime (b : Byte) : Byte := (b <<< 1) ^^^ (if b.getLsbD 7 then 0x1B else 0)

/-- Byte-wise exclusive or. -/
def xorBytes (a b : List Byte) : List Byte := a.zipWith (fun x y => x ^^^ y) b

/-- The next round key, of the round constant rc. -/
def nextRoundKey (rc : Byte) (k : List Byte) : List Byte :=
  match (k.drop 12).map sbox with
  | [a, b, c, d] =>
    let w0 := xorBytes (k.take 4) [b ^^^ rc, c, d, a]
    let w1 := xorBytes ((k.drop 4).take 4) w0
    let w2 := xorBytes ((k.drop 8).take 4) w1
    w0 ++ w1 ++ w2 ++ xorBytes (k.drop 12) w2
  | _ => k

/-- SubBytes and ShiftRows; the state is held column by column. -/
def subShift (s : List Byte) : List Byte :=
  (List.range 16).map (fun i => sbox (s.getD ((i + 4 * (i % 4)) % 16) 0))

/-- MixColumns on one column. -/
def mixColumn : List Byte → List Byte
  | [a, b, c, d] => [xtime a ^^^ (xtime b ^^^ b) ^^^ c ^^^ d, a ^^^ xtime b ^^^ (xtime c ^^^ c) ^^^ d,
      a ^^^ b ^^^ xtime c ^^^ (xtime d ^^^ d), (xtime a ^^^ a) ^^^ b ^^^ c ^^^ xtime d]
  | l => l

def mixColumns (s : List Byte) : List Byte :=
  mixColumn (s.take 4) ++ mixColumn ((s.drop 4).take 4) ++ mixColumn ((s.drop 8).take 4) ++ mixColumn (s.drop 12)

/-- The rounds after the first key: `n` rounds with MixColumns are left before the last one. -/
def aesRounds : Nat → Byte → List Byte → List Byte → List Byte
  | 0, rc, k, s => xorBytes (subShift s) (nextRoundKey rc k)
  | n + 1, rc, k, s =>
    let k := nextRoundKey rc k
    aesRounds n (xtime rc) k (xorBytes (mixColumns (subShift s)) k)

/-- AES-128 of one block of 16 bytes. -/
def aes (key block : List Byte) : List Byte := aesRounds 9 1 key (xorBytes key block)

/-- Doubling of a block in CMAC: one place to the left over 128 bits, first byte most significant. -/
def cmacDouble (l : List Byte) : List Byte :=
  let out := l.zipWith (fun (a b : Byte) => (a <<< 1) ||| (b >>> 7)) (l.drop 1 ++ [0])
  if (l.headD 0).getLsbD 7 then out.take 15 ++ [(out.getD 15 0) ^^^ 0x87] else out

/-- The chain over the blocks of a message; the last one is padded and masked. The first argument bounds the blocks. -/
def cmacChain (key k1 k2 : List Byte) : Nat → List Byte → List Byte → List Byte
  | 0, x, _ => x
  | n + 1, x, m =>
    if 16 < m.length then cmacChain key k1 k2 n (aes key (xorBytes x (m.take 16))) (m.drop 16)
    else if m.length = 16 then aes key (xorBytes x (xorBytes m k1))
    else aes key (xorBytes x (xorBytes (m ++ [0x80] ++ List.replicate (15 - m.length) 0) k2))

/-- AES-CMAC of a message. -/
def cmac (key m : List Byte) : List Byte :=
  let k1 := cmacDouble (aes key (List.replicate 16 0))
  cmacChain key k1 (cmacDouble k1) (m.length / 16 + 1) (List.replicate 16 0) m

end Sys2Proof.Machine
end

