-- ==== Sys2Proof/Machine/Host.lean ====
section
/-! DEFINITION. The host ports and the UHP protocol (R430 to R465, R575, R576). -/

namespace Sys2Proof.Machine

/-! Ports (R430 to R435, R575) -/

/-- A port receives: from the apply of the configuration set until the power-fail sequence, in every power state (R534), and
not with DIS 1. -/
def State.hostListens (s : State) (p : Fin 2) : Bool :=
  (match s.power.phase with | .configured | .loaded | .run => true | _ => false) && !s.bit (aHstCfg p) 31

/-- A port takes requests: it receives, and the fabric runs. -/
def State.hostOpen (s : State) (p : Fin 2) : Bool := s.hostListens p && s.fabricOn

/-- A port serves reads: also during and after a power-fail store. -/
def State.hostReads (s : State) (p : Fin 2) : Bool :=
  s.hostListens p || (s.power.phase == .powerFail && !s.bit (aHstCfg p) 31)

/-- HST_CNTp.FRMERR and HST_CNTp.CHK, saturating. -/
def State.frmErr (s : State) (p : Fin 2) : State :=
  s.setFld (aHstCnt p) 31 16 (satInc 16 (s.fld (aHstCnt p) 31 16))
def State.chkErr (s : State) (p : Fin 2) : State :=
  s.setFld (aHstCnt p) 15 0 (satInc 16 (s.fld (aHstCnt p) 15 0))

/-- A SPI transport byte of a kind: 0x51 or 0x52, or with QEN 1 the quad form (R430); the I2C port has none. -/
def State.transportOk (s : State) (p : Fin 2) (b single quad : Byte) : Bool :=
  p == 1 || b == single || (b == quad && s.bit (aHstCfg 0) 27)

/-- A SPI transaction of the other kind: a read where a request is looked for (R430). -/
def State.readByte (s : State) (p : Fin 2) (b : Byte) : Bool := p == 0 && s.transportOk p b 0x52 0xD2

/-! Frames (R436, R437, R458, R459) -/

/-- The bytes of a request from SYNC to the end of the payload. -/
def requestBytes (f : HostFrame) : List Byte :=
  [f.sync, BitVec.ofNat 8 (f.ver.toNat * 16 + f.session.val * 4 + f.dir.toNat * 2 + f.rsvd.toNat)] ++ leBytes 2 f.tag.toNat
    ++ [f.op] ++ leBytes 4 f.addr.toNat ++ leBytes 2 f.len.toNat ++ f.payload

/-- The bytes of a response from SYNC to the end of the payload. -/
def responseBody (ver : BitVec 4) (i : Fin 4) (tag : BitVec 16) (op : Byte) (a : Word) (status : Byte)
    (payload : List Byte) : List Byte :=
  [0xA5, BitVec.ofNat 8 (ver.toNat * 16 + i.val * 4 + 2)] ++ leBytes 2 tag.toNat ++ [op] ++ leBytes 4 a.toNat
    ++ leBytes 2 payload.length ++ [status] ++ payload

/-- A response as the port clocks it out. -/
def responseBytes (r : Response) : List Byte :=
  responseBody r.ver r.session r.tag r.op r.addr r.status r.payload ++ r.check

/-- CHECK over some bytes: CRC-16, or the first 8 bytes of the CMAC over ETAG and the bytes. -/
def checkOf (key : Option (List Byte)) (etag : Nat) (bytes : List Byte) : List Byte :=
  match key with
  | none => leBytes 2 (crc16 bytes).toNat
  | some k => (cmac k (leBytes 4 etag ++ bytes)).take 8

/-- The key of an authenticated session. -/
def Session.ks (x : Session) : Option (List Byte) := if x.auth then some x.key else none

/-- The 32-bit value with low half t nearest the newest ETAG; at a distance of 32,768 the newer one (R459). -/
def extendTag (newest : Nat) (t : BitVec 16) : Nat :=
  let d := (t.toNat + 65536 - newest % 65536) % 65536
  if d ≤ 32768 then (newest + d) % 2 ^ 32 else (newest + 2 ^ 32 + d - 65536) % 2 ^ 32

/-- The ETAG of a frame: its TAG on a session without authentication. -/
def Session.etagOf (x : Session) (t : BitVec 16) : Nat := if x.auth then extendTag x.etag t else t.toNat

/-- An ETAG is newer than the session's newest one. -/
def Session.newerTag (x : Session) (e : Nat) : Bool :=
  let d := (e + 2 ^ 32 - x.etag) % 2 ^ 32
  1 ≤ d && d ≤ 2 ^ 31

/-! Status codes (R440) and operations (R441) -/

def stOk : Byte := 0x00
def stRefused : Byte := 0x01
def stVersion : Byte := 0x02
def stSession : Byte := 0x03
def stOp : Byte := 0x04
def stLength : Byte := 0x05
def stAlign : Byte := 0x06
def stFormat : Byte := 0x07
def stDenied : Byte := 0x08
def stAborted : Byte := 0x09
def stStale : Byte := 0x0A
def stNotFound : Byte := 0x0B

def opHello : Byte := 0x01
def opRead : Byte := 0x02
def opWrite : Byte := 0x03
def opRmw : Byte := 0x04
def opRequest : Byte := 0x05
def opRun : Byte := 0x06
def opStore : Byte := 0x07
def opEvents : Byte := 0x08
def opAbort : Byte := 0x09
def opBye : Byte := 0x0A

/-- The operation byte is one of the table's. -/
def opListed (op : Byte) : Bool := 1 ≤ op.toNat && op.toNat ≤ 10

/-- Payload bytes n, n + 1, … of a frame as numbers. -/
def pb (f : HostFrame) (n : Nat) : Nat := (f.payload.getD n 0).toNat
def pword (f : HostFrame) (n : Nat) : Word := leWord (f.payload.drop n)

/-! Queueing and caching (R456, R457) -/

/-- The responses of a session that wait unread. -/
def State.waitingResponses (s : State) (p : Fin 2) (i : Fin 4) : Nat :=
  ((s.hosts[p]).queue.filter (fun r => r.session == i)).length

def State.queueResponse (s : State) (p : Fin 2) (r : Response) : State :=
  { s with hosts := s.hosts.set p { s.hosts[p] with queue := (s.hosts[p]).queue ++ [r] } }

/-- A response with its CHECK under the session as it now stands. -/
def State.respond (s : State) (p : Fin 2) (i : Fin 4) (ver : BitVec 4) (tag : BitVec 16) (etag : Nat) (op : Byte)
    (a : Word) (status : Byte) (payload : List Byte) : Response :=
  { ver := ver, session := i, tag := tag, op := op, addr := a, status := status, payload := payload
    check := checkOf (s.sess p i).ks etag (responseBody ver i tag op a status payload) }

/-- Cache a response under its tag, newest first, at most 32; more than 64 bytes are cached as the tag alone. -/
def State.cacheResponse (s : State) (p : Fin 2) (i : Fin 4) (etag : Nat) (r : Response) (frame : Word × BitVec 16) :
    State :=
  let x := s.sess p i
  if !x.isOpen then s
  else
    let c : Cached := {
      tag := r.tag, etag := etag, resp := if r.payload.length ≤ 64 then some r else none, frame := frame }
    s.setSess p i { x with cache := (c :: x.cache.filter (fun e => e.etag != etag)).take 32 }

/-- Answer a refused request at once: queue the response and cache it. -/
def State.answer (s : State) (f : HostFrame) (etag : Nat) (status : Byte) (payload : List Byte) : State :=
  let r := s.respond f.port f.session f.ver f.tag etag f.op f.addr status payload
  (s.queueResponse f.port r).cacheResponse f.port f.session etag r (f.addr, f.len)

/-! Version 1 (R462 to R464) -/

/-- An entry's domain is held by a session. -/
def State.v1Held (s : State) (p : Fin 2) (i : Fin 4) (c : Nat) : Bool := s.owns (.host p i) (s.v1Dom c)

/-- A version 1 address of a channel: the entry and the register (0 CTL, 4 STAT, 8 VMON, 12 THR). -/
def v1Chan (a : Nat) : Option (Nat × Nat) :=
  if 0x100 ≤ a ∧ a < 0x1C0 ∧ a % 4 = 0 then some ((a - 0x100) / 0x10, a % 0x10) else none

/-- A version 1 address of a reset output. -/
def v1Rst (a : Nat) : Option (Fin 8) :=
  if 0x200 ≤ a ∧ a < 0x220 ∧ a % 4 = 0 then some (Fin.ofNat 8 ((a - 0x200) / 4)) else none

/-- A version 1 read; whether it is accepted. -/
def State.v1Read (s : State) (a : Nat) : Bool × Word :=
  if 0x1000 ≤ a then (false, 0)
  else if a = 0x000 then (true, 0x1208#32)
  else if a = 0x004 then (true, 0x64480000#32)
  else if a = 0x010 then
    (true, (List.range 12).foldl (fun (w : Word) c => w ||| at_ (s.v1Active c && (s.ch (s.v1Rail c)).pg) c) 0)
  else match v1Chan a, v1Rst a with
    | some (c, reg), _ =>
      let r := s.v1Rail c
      let x := s.ch r
      (true,
        if !s.v1Active c then 0
        else match reg with
          | 0 => at_ x.enCmd 0
          | 4 => at_ x.pg 0 ||| at_ (x.st == .on || x.st == .margined) 1 ||| at_ (s.bit (aChFlags r) 3) 2
              ||| at_ (s.bit (aChFlags r) 4) 3 ||| at_ (x.st == .tripped) 4
          | 8 => BitVec.ofNat 32 (s.fld (aVal (voltPoint r)) 15 0 / 4)
          | _ => put (put 0 25 16 (s.fld (aChWinOv r) 9 0)) 9 0 (s.fld (aChWinUv r) 9 0))
    | none, some k => (true, put (at_ (s.ovr k == 1) 8) 7 0 (s.fld (aRst k) 7 0))
    | none, none => (true, 0)

/-- The bits that the device sets in a register in the cycle of its write (R11). -/
def hwAt (hw : HwBits) (a : Nat) : Word := (look hw a).getD 0

/-- A version 1 write of a session; whether it is accepted. -/
def State.v1Write (s : State) (p : Fin 2) (i : Fin 4) (a : Nat) (v : Word) (hw : HwBits) : State × Bool :=
  let who : Who := .host p i
  let put32 (s : State) (a : Nat) (v : Word) : State × Bool := s.write32 who a v (hwAt hw a)
  if 0x1000 ≤ a then (s, false)
  else match v1Chan a, v1Rst a with
    | some (c, reg), _ =>
      let r := s.v1Rail c
      if !s.v1Active c then (s, false)
      else match reg with
        | 0 =>
          if !s.v1Held p i c then (s, false) else s.dcmd who (s.v1Dom c) (if tst v 0 then 3 else 4) 0 0
        | 4 => put32 s (aChFlags r) (at_ (tst v 2) 3 ||| at_ (tst v 3) 4)
        | 8 => (s, true)
        | _ =>
          let q := put32 s (aChWinOv r) (put (s.reg (aChWinOv r)) 9 0 (wfld v 25 16))
          let u := put32 q.1 (aChWinUv r) (put (q.1.reg (aChWinUv r)) 9 0 (wfld v 9 0))
          (u.1, q.2 && u.2)
    | none, some k =>
      let q := put32 s (aRst k) (put (s.reg (aRst k)) 7 0 (wfld v 7 0))
      let act := if tst v 8 then 1 else 0
      (if q.1.ovr k = act then q.1 else q.1.setOvr k act, q.2)
    | none, none => (s, true)

/-- The HITCH writes of a session that has negotiated version 1 (R463). A hitch of the session that it has replaced breaks
first (R261, R264). -/
def State.v1Hitch (s : State) (p : Fin 2) (i : Fin 4) : State :=
  let doms := allDoms.filter (fun d => (List.range 12).any (fun c => s.v1Active c && s.v1Dom c == d))
  s.forAll doms (fun s d => ((s.breakHitch d).dcmd (.host p i) d 1 0 0).1)

/-! Words of READ and WRITE (R442, R443) -/

/-- Two words move in one transfer: an aligned pair in the keeping store or the telemetry memory. -/
def pairAt (v1 : Bool) (a : Word) (left : Nat) : Bool := !v1 && a.toNat % 8 == 0 && a.toNat < 0x50000 && 2 ≤ left

/-- A read transfer of a session: accepted, and its bytes. -/
def State.hostRead (s : State) (p : Fin 2) (i : Fin 4) (v1 : Bool) (a : Word) (size : Nat) : State × Bool × List Byte :=
  if v1 then
    let q := s.v1Read a.toNat
    (s, q.1, wordBytes q.2)
  else
    let q := s.transfer { who := .host p i, addr := a.toNat, write := false, size := size, data := 0 }
    (q.1, q.2.1, leBytes size q.2.2.toNat)

/-- A write transfer of a session. -/
def State.hostWrite (s : State) (p : Fin 2) (i : Fin 4) (v1 : Bool) (a : Word) (size : Nat) (data : Nat) (hw : HwBits) :
    State × Bool :=
  if v1 then s.v1Write p i a.toNat (BitVec.ofNat 32 data) hw
  else
    let q := s.transfer {
      who := .host p i, addr := a.toNat, write := true, size := size, data := BitVec.ofNat 64 data, hw := hwAt hw a.toNat }
    (q.1, q.2.1)

/-- One transfer of EVENTS: a register read, whose value a CLEAR writes later, or one such write (R448). -/
def State.moveEvent (s : State) (p : Fin 2) (i : Fin 4) (q : Request) (hw : HwBits) : State × Request :=
  let st (ok : Bool) : Byte := if ok then q.status else stRefused
  match q.events, q.clears with
  | a :: l, c =>
    let t := s.read32 (.host p i) a
    (t.1, { q with
      events := l, got := q.got ++ wordBytes t.2.2, status := st t.2.1
      clears := c.map (fun e => if e.1 = a then (a, t.2.2) else e) })
  | [], (a, v) :: l =>
    let t := s.write32 (.host p i) a v (hwAt hw a)
    (t.1, { q with clears := l, status := st t.2 })
  | [], [] => (s, q)

/-- One transfer of a request that reads or writes words. -/
def State.moveWord (s : State) (p : Fin 2) (i : Fin 4) (q : Request) (hw : HwBits) : State × Request :=
  let v1 := q.ver == 1
  if q.op == opEvents then s.moveEvent p i q hw
  else if 0 < q.reads then
    let k := if pairAt v1 q.cursor q.reads then 2 else 1
    let t := s.hostRead p i v1 q.cursor (4 * k)
    (t.1, { q with
      cursor := q.cursor + BitVec.ofNat 32 (4 * k), reads := q.reads - k, got := q.got ++ t.2.2
      refusedAt := if t.2.1 then q.refusedAt else q.refusedAt.or (some q.cursor) })
  else match q.words with
    | [] => (s, q)
    | w :: l =>
      let k := if pairAt v1 q.cursor q.words.length then 2 else 1
      let t := s.hostWrite p i v1 q.cursor (4 * k) (if k = 2 then w.toNat + 2 ^ 32 * (l.headD 0).toNat else w.toNat) hw
      if t.2 then (t.1, { q with cursor := q.cursor + BitVec.ofNat 32 (4 * k), words := q.words.drop k })
      else (t.1, { q with words := [], refusedAt := some q.cursor })

def State.setExec (s : State) (p : Fin 2) (i : Fin 4) (q : Request) : State :=
  s.setSess p i { s.sess p i with exec := some q }

/-- The executing request goes on as q; where its session has closed meanwhile it has stopped (R454). -/
def State.carryOn (s : State) (p : Fin 2) (i : Fin 4) (q : Request) : State :=
  if (s.sess p i).exec.isNone then s else s.setExec p i q

/-- Enter a request among those that began to execute in the cycle of its first part or later. -/
def insTurn (e : Nat × Fin 2 × Fin 4) : List (Nat × Fin 2 × Fin 4) → List (Nat × Fin 2 × Fin 4)
  | [] => [e]
  | y :: t => if e.1 ≤ y.1 then e :: y :: t else y :: insTurn e t

/-- The executing requests in the order of their turn: as they began, SPI before I2C, the lower session first (R456). -/
def State.turnOrder (s : State) : List (Fin 2 × Fin 4) :=
  (((List.finRange 2).flatMap (fun p => (List.finRange 4).filterMap (fun i =>
    (s.sess p i).exec.map (fun q => (q.since, p, i))))).foldr insTurn []).map (·.2)

/-- One turn of requester 7: one transfer of each executing request (R456). -/
def State.turn (s : State) (hw : HwBits) : State :=
  s.forAll s.turnOrder (fun s e =>
    match (s.sess e.1 e.2).exec with
    | none => s
    | some q =>
      let t := s.moveWord e.1 e.2 q hw
      t.1.carryOn e.1 e.2 t.2)

/-- n turns. -/
def State.turns (s : State) (n : Nat) (hw : HwBits) : State := s.forAll (List.range n) (fun s _ => s.turn hw)

/-- What a request has still to move. -/
def Request.left (q : Request) : Nat := q.reads + q.words.length + q.events.length + q.clears.length

/-- Turns, at most n, until the request of a session has nothing left to move. -/
def State.turnsFor : Nat → State → Fin 2 → Fin 4 → HwBits → State
  | 0, s, _, _, _ => s
  | n + 1, s, p, i, hw =>
    if (s.sess p i).exec.any (fun q => 0 < q.left) then State.turnsFor n (s.turn hw) p i hw else s

/-- The response of a request that has moved its words, or stops with a status and its present cursor. -/
def State.finishRequest (s : State) (p : Fin 2) (i : Fin 4) (q : Request) (stop : Option Byte) : State :=
  let s := s.setSess p i { s.sess p i with exec := none }
  let moves := q.op == opRead || q.op == opWrite
  let status := match stop with
    | some b => b
    | none => if q.refusedAt.isSome then stRefused else q.status
  let a := if stop.isSome && moves then q.cursor else q.refusedAt.getD q.echo
  let r := s.respond p i q.ver q.tag q.etag q.op a status
    (if q.op == opRead || q.op == opEvents then q.got else q.payload)
  (s.queueResponse p r).cacheResponse p i q.etag r (q.echo, BitVec.ofNat 16 (q.got.length + 4 * q.reads))

/-! Judging a request (R576) -/

/-- LENGTH of an operation (R438, R441, R446, R451). -/
def lengthBad (f : HostFrame) : Bool :=
  let n := f.len.toNat
  1024 < n || ((f.op == opRead || f.op == opWrite) && n % 4 != 0) || (f.op == opHello && n != 0 && n != 4 && n != 12)
    || (f.op == opRmw && n != 8) || (f.op == opRequest && n != 6) || (f.op == opRun && (n < 4 || n != 4 + 4 * pb f 1))
    || ((f.op == opStore || f.op == opEvents) && n != 1) || (f.op == opAbort && n != 2) || (f.op == opBye && n != 0)

/-- The payload, or an ADDR that the operation's row fixes, breaks the layout (R439, R441, R451; log 20). -/
def layoutBad (f : HostFrame) : Bool :=
  let n := f.len.toNat
  let zeroAddr := f.op == opHello || f.op == opRequest || f.op == opStore || f.op == opEvents || f.op == opAbort || f.op == opBye
  let step := sgn 16 (pb f 4 + 256 * pb f 5)
  (zeroAddr && f.addr != 0)
    || (f.op == opHello && n != 0 && (1 < pb f 2 || (pb f 2 == 0 && (pb f 3 != 0 || (f.payload.drop 4).any (· != 0)))
      || (pb f 2 == 1 && n != 12)))
    || (f.op == opRequest && (15 < pb f 0 || 7 < pb f 1 || 63 < pb f 2 || pb f 3 != 0 || step < -2048 || 2047 < step))
    || (f.op == opRun && (15 < pb f 0 || 8 < pb f 1 || pb f 2 != 0 || pb f 3 != 0 || 4095 < f.addr.toNat))
    || (f.op == opStore && 3 < pb f 0) || (f.op == opEvents && 1 < pb f 0)

/-- The operation changes state (R461). -/
def changes (f : HostFrame) : Bool :=
  f.op == opWrite || f.op == opRmw || f.op == opRequest || f.op == opRun || f.op == opStore
    || (f.op == opEvents && pb f 0 == 1)

/-- DENIED of a request other than HELLO (R461, R549). -/
def State.denied (s : State) (f : HostFrame) : Bool :=
  let x := s.sess f.port f.session
  (s.bit (aHstCfg f.port) 28 && !x.auth && changes f) || (s.arefuse && x.auth && f.op != opBye)

/-- The first check of R576 that a request breaks; the refusals of HELLO are its own. -/
def State.judge (s : State) (f : HostFrame) : Option Byte :=
  let x := s.sess f.port f.session
  let hello := f.op == opHello
  if f.dir || f.rsvd then some stFormat
  else if !hello && !x.isOpen then some stSession
  else if !hello && f.ver.toNat != x.ver.toNat then some stVersion
  else if !opListed f.op || (!hello && x.ver == 1 && !(f.op == opRead || f.op == opWrite || f.op == opBye)) then some stOp
  else if lengthBad f then some stLength
  else if (f.op == opRead || f.op == opWrite || f.op == opRmw) && f.addr.toNat % 4 != 0 then some stAlign
  else if layoutBad f then some stFormat
  else if !hello && s.denied f then some stDenied
  else none

/-- The time-out of a session starts again with a valid frame (R454). -/
def State.touch (s : State) (p : Fin 2) (i : Fin 4) : State :=
  let x := s.sess p i
  let n := s.fld (aHstCfg p) 15 0
  if x.isOpen then s.setSess p i { x with tmoAt := if n = 0 then none else s.timer (100000000 * n) } else s

/-- A request begins to execute. -/
def State.begin (s : State) (f : HostFrame) (etag : Nat) : State × Request :=
  (s, { tag := f.tag, etag := etag, op := f.op, ver := f.ver, cursor := f.addr, words := [], reads := 0, got := []
        refusedAt := none, echo := f.addr, waitStore := none, payload := [], status := stOk, since := s.cycle })

/-- A repeat of a READ that is cached as its tag alone reads the memory again, in the session's version (R457). -/
def State.rereads (s : State) (f : HostFrame) (c : Cached) : State :=
  let q := (s.begin f c.etag).2
  s.setExec f.port f.session { q with
    op := opRead, ver := (s.sess f.port f.session).ver.setWidth 4, cursor := c.frame.1, echo := c.frame.1, reads := c.frame.2.toNat / 4 }

/-- The lowest version of a port. -/
def State.vmin (s : State) (p : Fin 2) : Nat := max 1 (s.fld (aHstCfg p) 30 29)

/-- The response payload of a HELLO. -/
def State.helloPayload (s : State) (p : Fin 2) (i : Fin 4) (ver lo : Nat) (nd : List Byte) : List Byte :=
  leBytes 1 ver ++ leBytes 1 (s.sess p i).epoch.toNat ++ leBytes 1 lo ++ [3] ++ leBytes 2 0x6448 ++ leBytes 2 idStep
    ++ leBytes 2 1024 ++ nd

/-- The response of a HELLO that does not open a session: version 3 in the header, and the payload with byte 0 at 0 (R451).
It leaves the session as it was, so nothing is cached (R452, log 20). -/
def State.helloRefused (s : State) (f : HostFrame) (etag : Nat) (status : Byte) : State :=
  let p := f.port
  s.queueResponse p (s.respond p f.session 3 f.tag etag f.op f.addr status
    (s.helloPayload p f.session 0 (s.vmin p) (List.replicate 8 0)))

/-- A UHP frame of one operation is judged and executes (R430, R435, R456 to R460, R576). `run` is what the operation does
when it executes, for the frame's ETAG. -/
def State.uhpTake (s : State) (f : HostFrame) (run : State → Nat → State) : State :=
  let p := f.port
  let i := f.session
  let x := s.sess p i
  let auth := x.isOpen && x.auth && f.op != opHello
  let size := if f.op == opRead then 0 else f.len.toNat
  if s.readByte p f.transport then s
  else if !s.transportOk p f.transport 0x51 0xD1 || f.sync != 0xA5 || f.payload.length != size
      || f.check.length != (if auth then 8 else 2) || f.count != 11 + size + f.check.length then s.frmErr p
  else
    let etag := x.etagOf f.tag
    if f.check != checkOf (if auth then some x.key else none) etag (requestBytes f) then
      let s := s.chkErr p
      if auth then (s.orReg aHstStat (bitw 4)).raise1 srcAuthFail else s
    else
      let s := s.touch p i
      let n := s.waitingResponses p i
      let busy : Bool := if f.op == opAbort then 2 ≤ n + x.exec.isSome.toNat else x.exec.isSome || 0 < n
      if busy then s.orReg aHstStat (bitw 2)
      else match x.cache.find? (fun c => c.etag == etag) with
        | some c =>
          match c.resp with
          | some r => s.queueResponse p r
          | none => if x.exec.isSome then s.orReg aHstStat (bitw 2) else s.rereads f c
        | none =>
          if auth && !x.newerTag etag then
            let s := s.orReg aHstStat (bitw 3)
            s.queueResponse p (s.respond p i f.ver f.tag etag f.op f.addr stStale [])
          else
            let s := if auth then s.setSess p i { s.sess p i with etag := etag } else s
            match s.judge f with
            | some b => if f.op == opHello then s.helloRefused f etag b else s.answer f etag b []
            | none => run s etag

/-- A UHP frame of one operation arrives (R531, R534, R551, R575): it starts a wake; one that arrives while the fabric does not run
is received on the port's own clock and held until the wake has ended. A frame of another listed operation is not this
command. -/
def State.uhp (s : State) (f : HostFrame) (op : Byte) (run : State → Nat → State) : State :=
  if opListed f.op && f.op != op then s
  else
    let s := s.secEvents f.co
    if !s.hostListens f.port then s
    else
      let s := s.startWake
      if s.fabricOn then s.uhpTake f run
      else { s with power := { s.power with held := s.power.held ++ [{ f with co := [] }] } }

/-! HELLO (R451 to R453, R458) -/

/-- What a HELLO asks for: versions from and to, AUTH, KSLOT and NH. -/
def helloAsks (f : HostFrame) : Nat × Nat × Bool × Nat × List Byte :=
  if f.len = 0 then (f.ver.toNat, f.ver.toNat, false, 0, [])
  else (pb f 0, pb f 1, pb f 2 == 1, pb f 3, (f.payload.drop 4).take 8)

/-- The status with which a HELLO fails (R452). -/
def State.helloFails (s : State) (f : HostFrame) : Option Byte :=
  match helloAsks f with
  | (lo, hi, auth, slot, _) =>
    let v := min 3 hi
    if v < max (s.vmin f.port) lo then some stVersion
    else if auth && v != 3 then some stVersion
    else if auth && (3 < slot || !s.keyUsable slot) then some stDenied
    else if auth && s.arefuse then some stDenied
    else if v = 1 && s.v1Session.any (fun q => q != (f.port, f.session)) then some stDenied
    else none

/-- A HELLO that passes the checks of R576. -/
def State.hello (s : State) (f : HostFrame) : State :=
  let p := f.port
  let i := f.session
  match helloAsks f with
  | (_, hi, auth, slot, nh) =>
    match s.helloFails f with
    | some b => s.helloRefused f ((s.sess p i).etagOf f.tag) b
    | none =>
      let v := min 3 hi
      let s := s.closeSession p i
      let s := if auth then s.setReg aHcnt (s.reg aHcnt + 1) else s
      let nd := if auth then leBytes 4 (s.counter 1) ++ wordBytes (s.reg aHcnt) else List.replicate 8 0
      let key := if auth then aes (s.bytes (keyBase slot + 4) 16) (nh ++ nd) else []
      let s := (s.setSess p i {
        isOpen := true, auth := auth, ver := BitVec.ofNat 2 v, kslot := if auth then BitVec.ofNat 2 slot else 0
        epoch := (s.sess p i).epoch, key := key, etag := f.tag.toNat }).touch p i
      let s := if v = 1 then s.v1Hitch p i else s
      let r := s.respond p i (BitVec.ofNat 4 v) f.tag f.tag.toNat f.op f.addr stOk
        (s.helloPayload p i v (s.vmin p) nd)
      (s.queueResponse p r).cacheResponse p i f.tag.toNat r (f.addr, f.len)

/-! The operations -/

/-- READ and WRITE: the request executes; `moved` turns of requester 7 pass now, the rest with RESPONSE_READY. -/
def State.uhpMove (s : State) (f : HostFrame) (etag moved : Nat) (hw : HwBits) : State :=
  let q := (s.begin f etag).2
  let q := if f.op == opRead then { q with reads := f.len.toNat / 4 } else { q with words := leWords f.payload }
  (s.setExec f.port f.session q).turns moved hw

/-- RMW (R444). -/
def State.uhpRmwRun (s : State) (f : HostFrame) (etag : Nat) (hw : Word) : State :=
  let q := (s.begin f etag).2
  let who : Who := .host f.port f.session
  let mask := pword f 0
  let t := (s.setExec f.port f.session q).read32 who f.addr.toNat
  if !t.2.1 then t.1.carryOn f.port f.session { q with status := stRefused }
  else
    let old := t.2.2 &&& ~~~mask &&& ~~~(eventBits f.addr.toNat)
    let u := t.1.write32 who f.addr.toNat (old ||| (pword f 4 &&& mask)) hw
    u.1.carryOn f.port f.session { q with payload := wordBytes t.2.2, status := if u.2 then stOk else stRefused }

/-- REQUEST (R445). -/
def State.uhpRequestRun (s : State) (f : HostFrame) (etag : Nat) : State :=
  let q := (s.begin f etag).2
  let d : DomId := Fin.ofNat 16 (pb f 0)
  let t := s.dcmd (.host f.port f.session) d (pb f 1) (Fin.ofNat 64 (pb f 2)) (sgn 16 (pb f 4 + 256 * pb f 5))
  t.1.setExec f.port f.session { q with
    payload := wordBytes (t.1.dStat d) ++ wordBytes (t.1.dOwn d), status := if t.2 then stOk else stRefused }

/-- RUN (R446). -/
def State.uhpRunRun (s : State) (f : HostFrame) (etag : Nat) : State :=
  let q := (s.begin f etag).2
  let w : WickId := Fin.ofNat 16 (pb f 0)
  let a := BitVec.ofNat 12 f.addr.toNat
  if (s.progOf w).isSome || !s.canStart w a then s.setExec f.port f.session { q with status := stRefused }
  else
    let s := s.forAll (List.range (pb f 1)) (fun s k => s.setV w (Fin.ofNat 8 k) (pword f (4 + 4 * k)))
    let t := s.wickStart w a
    t.1.setExec f.port f.session { q with payload := wordBytes (t.1.wStat w), status := if t.2 then stOk else stRefused }

/-- STORE (R447). The store that a request with WAIT awaits is the running one, or the one that serves the pending
requests; a power-fail store satisfies it at once. -/
def State.uhpStoreRun (s : State) (f : HostFrame) (etag : Nat) : State :=
  let q := (s.begin f etag).2
  let waits := 2 ≤ pb f 0
  let n := s.keeper.pending.length
  let t := if pb f 0 % 2 = 1 then s.kpsStoreAll else s.kpsStore
  if !waits then t.setExec f.port f.session q
  else if s.keeper.locked then t.setExec f.port f.session { q with payload := wordBytes (t.reg aLastSt) }
  else
    let k := t.keeper.number + (if n < t.keeper.pending.length then 1 else 0)
    t.setExec f.port f.session { q with waitStore := some k }

/-- EVENTS: its reads and its writes are transfers of requester 7 in their turns, as those of READ and WRITE (R448, R456). -/
def State.uhpEventsRun (s : State) (f : HostFrame) (etag moved : Nat) (hw : HwBits) : State :=
  let q := (s.begin f etag).2
  let pends := (List.range 12).map aPend
  let q := { q with
    events := [aFltStat, aFltFirst] ++ pends, clears := if pb f 0 = 1 then pends.map (fun a => (a, 0)) else [] }
  (s.setExec f.port f.session q).turns moved hw

/-- ABORT (R449). -/
def State.uhpAbortRun (s : State) (f : HostFrame) (etag : Nat) : State :=
  match (s.sess f.port f.session).exec with
  | none => s.answer f etag stNotFound []
  | some q =>
    let able := q.op == opRead || q.op == opWrite || q.waitStore.isSome
    if q.tag.toNat != pb f 0 + 256 * pb f 1 || !able then s.answer f etag stNotFound []
    else (s.finishRequest f.port f.session q (some stAborted)).answer f etag stOk []

/-- BYE: the session closes after its response has been queued (R450, R454). -/
def State.uhpByeRun (s : State) (f : HostFrame) (etag : Nat) : State :=
  let r := s.respond f.port f.session f.ver f.tag etag f.op f.addr stOk []
  (s.closeSession f.port f.session).queueResponse f.port r

/-! Meanings -/

/-- UHP_HELLO. -/
def execUhpHello (f : HostFrame) (s : State) : Res := .next (s.uhp f opHello (fun s _ => s.hello f))
/-- UHP_READ. -/
def execUhpRead (f : HostFrame) (moved : Nat) (hw : HwBits) (s : State) : Res :=
  .next (s.uhp f opRead (fun s e => s.uhpMove f e moved hw))
/-- UHP_WRITE. -/
def execUhpWrite (f : HostFrame) (moved : Nat) (hw : HwBits) (s : State) : Res :=
  .next (s.uhp f opWrite (fun s e => s.uhpMove f e moved hw))
/-- UHP_RMW. -/
def execUhpRmw (f : HostFrame) (hw : Word) (s : State) : Res :=
  .next (s.uhp f opRmw (fun s e => s.uhpRmwRun f e hw))
/-- UHP_REQUEST. -/
def execUhpRequest (f : HostFrame) (s : State) : Res := .next (s.uhp f opRequest (fun s e => s.uhpRequestRun f e))
/-- UHP_RUN. -/
def execUhpRun (f : HostFrame) (s : State) : Res := .next (s.uhp f opRun (fun s e => s.uhpRunRun f e))
/-- UHP_STORE. -/
def execUhpStore (f : HostFrame) (s : State) : Res := .next (s.uhp f opStore (fun s e => s.uhpStoreRun f e))
/-- UHP_EVENTS. -/
def execUhpEvents (f : HostFrame) (moved : Nat) (hw : HwBits) (s : State) : Res :=
  .next (s.uhp f opEvents (fun s e => s.uhpEventsRun f e moved hw))
/-- UHP_ABORT. -/
def execUhpAbort (f : HostFrame) (s : State) : Res := .next (s.uhp f opAbort (fun s e => s.uhpAbortRun f e))
/-- UHP_BYE. -/
def execUhpBye (f : HostFrame) (s : State) : Res := .next (s.uhp f opBye (fun s e => s.uhpByeRun f e))

/-- A frame that was held executes, by its operation, in a cycle in which the device sets the bits `hw`. -/
def State.heldFrame (hw : HwBits) (s : State) (f : HostFrame) : State :=
  if f.op == opRead || f.op == opWrite then s.uhpTake f (fun s e => s.uhpMove f e 0 [])
  else if f.op == opRmw then s.uhpTake f (fun s e => s.uhpRmwRun f e (hwAt hw f.addr.toNat))
  else if f.op == opRequest then s.uhpTake f (fun s e => s.uhpRequestRun f e)
  else if f.op == opRun then s.uhpTake f (fun s e => s.uhpRunRun f e)
  else if f.op == opStore then s.uhpTake f (fun s e => s.uhpStoreRun f e)
  else if f.op == opEvents then s.uhpTake f (fun s e => s.uhpEventsRun f e 0 [])
  else if f.op == opAbort then s.uhpTake f (fun s e => s.uhpAbortRun f e)
  else if f.op == opBye then s.uhpTake f (fun s e => s.uhpByeRun f e)
  else s.uhpTake f (fun s _ => s.hello f)

/-- The frames that came while the fabric did not run execute at the end of the wake, oldest first (R534). -/
def State.runHeld (s : State) (hw : HwBits) : State :=
  State.forAll { s with power := { s.power with held := [] } } s.power.held (State.heldFrame hw)

/-- A request moves the words it has left, each in its turn, and its response is queued (R456). -/
def State.responseReady (s : State) (p : Fin 2) (i : Fin 4) (hw : HwBits) : State :=
  match (s.sess p i).exec with
  | none => s
  | some q =>
    if q.waitStore.isSome then s
    else
      let s := State.turnsFor q.left s p i hw
      match (s.sess p i).exec with
      | some q => s.finishRequest p i q none
      | none => s

/-- RESPONSE_READY, behind the causes of R551 in `co`. -/
def execResponseReady (p : Fin 2) (i : Fin 4) (hw : HwBits) (co : List SecEvent) (s : State) : Res :=
  .next ((s.secEvents co).responseReady p i hw)

/-- The port status byte (R433). -/
def State.portStatus (s : State) (p : Fin 2) : Byte :=
  let open_ := (List.finRange 4).foldl (fun (n : Nat) (i : Fin 4) => n + (s.sess p i).isOpen.toNat * 2 ^ i.val) 0
  BitVec.ofNat 8 ((!(s.hosts[p]).queue.isEmpty).toNat * 128
    + ((List.finRange 4).any (fun i => (s.sess p i).exec.isSome)).toNat * 64 + open_)

/-- What a read clocks out after the status byte: the oldest response; with none 0x00 on SPI; on I2C 0xFF for every byte
that follows (R431, R433). What SPI sends after a response the spec does not say, and the model records none (DESIGN
CHOICE, log 39). -/
def State.clockedOut (s : State) (p : Fin 2) (count : Nat) : List Byte :=
  match (s.hosts[p]).queue with
  | [] => List.replicate count (if p = 0 then 0 else 0xFF)
  | r :: _ =>
    let b := responseBytes r
    b.take count ++ (if p = 0 then [] else List.replicate (count - b.length) 0xFF)

/-- HOST_READ: the status byte, then `count` bytes; a response leaves the queue when a read has clocked out its last byte
(R431, R433, R434). It starts a wake (R531). -/
def execHostRead (p : Fin 2) (transport : Byte) (count : Nat) (s : State) : Res :=
  .next (
    if !s.hostReads p then s
    else if !s.transportOk p transport 0x52 0xD2 then
      (if s.transportOk p transport 0x51 0xD1 || !s.hostListens p then s else s.startWake.frmErr p)
    else
      let s := s.startWake
      let h := s.hosts[p]
      let left := match h.queue with
        | r :: t => if (responseBytes r).length ≤ count then t else h.queue
        | [] => []
      { s with hosts := s.hosts.set p { h with out := s.portStatus p :: s.clockedOut p count, queue := left } })

/-- SESSION_TIMEOUT (R454). -/
def execSessionTimeout (p : Fin 2) (i : Fin 4) (s : State) : Res :=
  .next (if (s.sess p i).tmoAt.isSome then s.closeSession p i else s)

/-- CLOSE of HST_CMD (R454). -/
def execClose (_who : Who) (p : Fin 2) (i : Fin 4) (s : State) : Res := .next (s.fab (fun s => s.closeSession p i))

end Sys2Proof.Machine
end

