-- ==== Sys2Proof/Machine/Power.lean ====
section
/-! DEFINITION. Input supervision (R116 to R121), the boot (R521 to R524), recall, repair and the configuration set
(R355 to R360, R364), the power-fail sequence (R344, R525, R526), device resets (R281, R564), clocks and heat (R519,
R527) and the power states (R528 to R535). -/

namespace Sys2Proof.Machine

/-! Device resets and power-down (R14, R144, R347, R360, R384, R465, R495, R537, R565) -/

/-- A boot runs: input power has qualified and RUN has not been reached. -/
def State.booting (s : State) : Bool :=
  match s.power.phase with
  | .regulators | .supplies | .reference | .locked | .recalled | .repaired | .configured | .loaded => true
  | _ => false

/-- The always-on registers. -/
def alwaysOn (a : Nat) : Bool := a == aMonVin || a == aClkStat || a == aRstCause

/-- The settings that the ORing stage, and with IREST the always-on judgement of SUPPLY, keep without the device (R384, R396,
R397). -/
def oringReg (a : Nat) : Bool := a == aRsvCfg || a == aRsvOring || a == aRsvProt || a == aRsvRest

/-- The registers, or their fields, that a device reset leaves (R121, R144, R384, R537), and VHOK, which is a level. -/
def State.resetRegs (s : State) : List (Nat × Word) :=
  s.regs.filterMap (fun e =>
    if alwaysOn e.1 || oringReg e.1 || e.1 == aFrzTL || e.1 == aFrzTH then some e
    else
      let m : Word := if e.1 = aRawStat then 0xC03F0000#32 else if e.1 = aKpsStat then bitw 25 else 0
      if e.2 &&& m = 0 then none else some (e.1, e.2 &&& m))

/-- What the reserve keeps without the device: the ORing stage with what blocks it, SUPPLY, and the charge of the time in
which the device does not run (R384, R389, R392, R397, log 16). -/
def Reserve.kept (v : Reserve) : Reserve :=
  { orOn := v.orOn, ilim := v.ilim, ilimAt := v.ilimAt, scoff := v.scoff, rearmAt := v.rearmAt, empty := v.empty
    supply := v.supply, offOut := v.offOut, offIn := v.offIn }

/-- The journal of the store controller (R347). -/
def Keeper.journal (k : Keeper) : Keeper :=
  { liveMark := k.liveMark, tornPage := k.tornPage, abandonMark := k.abandonMark }

/-- A freeze that pends when the reset comes is complete; LOSTFR is the last of its frames not written (R144). -/
def State.freezeAtReset (s : State) : State × Option Nat :=
  if !s.bit aRawStat 29 then (s, none)
  else
    let n := s.scan.postLeft
    (s.freezeDone, if n = 0 then s.scan.due.map (·.2) else some ((s.scan.frame + n - 1) % 64))

/-- The device in reset: what survives is power supply's, the keeping store's and the ORing stage's. A reset in the wake from
NAP or HIBERNATE, after VIN has qualified low, drops the power fail that R525 has put off; R525 and R564 do not speak of the
case, and neither does R118 (DESIGN CHOICE, log 16). -/
def State.deviceReset (s : State) : State :=
  let q := s.freezeAtReset
  let s := q.1.tear
  let p := s.power
  let t : State := { State.reset with
    regs := s.resetRegs, sram := s.sram, shadow := s.shadow, tlmMem := s.tlmMem
    keeper := { s.keeper.journal with dirty := s.keeper.dirty }
    reserve := s.reserve.kept
    tether := { straps := s.tether.straps, sent := s.tether.sent }, ring := { sent := s.ring.sent }
    power := {
      phase := .inReset, vin := p.vin, recallDue := p.recallDue, supplies := p.supplies, xFailed := p.xFailed
      aoFailed := p.aoFailed, vhokLimit := p.recallDue && p.vhokLimit }
    protect := Protect.closeJtag {
      eraseMark := s.protect.eraseMark, eraseTail := s.protect.eraseTail, jtag := s.protect.jtag
      jtagOut := s.protect.jtagOut }
    cycle := s.cycle, free := s.free, pending := s.pending }
  match q.2 with
  | some f => t.setFld aRawStat 13 8 f
  | none => t

/-- Everything except the always-on domain and the ORing stage is without power; the device is input-low (R526). A key erase
goes on from VHOLD (R547). -/
def State.powerDown (s : State) : State :=
  let s := s.tear
  let p := s.power
  let t : State := { State.reset with
    regs := s.regs.filter (fun e => alwaysOn e.1 || oringReg e.1 || e.1 == aEstCfg)
    shadow := s.shadow, keeper := s.keeper.journal
    reserve := { s.reserve.kept with tickAt := s.reserve.tickAt }
    tether := { sent := s.tether.sent }, ring := { sent := s.ring.sent }
    power := { phase := .inputLow, vin := p.vin, xFailed := p.xFailed, aoFailed := p.aoFailed }
    protect := { eraseMark := s.protect.eraseMark, eraseTail := s.erasing || s.protect.eraseTail }
    cycle := s.cycle, free := s.free, pending := s.pending }
  (((t.setBit aMonVin 1 true).setBit aMonVin 0 false).setBit aClkStat 29 false)

def State.setPhase (s : State) (ph : Phase) : State := { s with power := { s.power with phase := ph } }

/-! The repair (R350, R356, R364) -/

/-- What the repair finds and writes: bits for KPS_REPAIR, and the pages written. -/
structure Repair where
  s : State
  word : Word := 0
  pages : List Nat := []

/-- A word of findings and pages more. -/
def Repair.note (q : Repair) (w : Word) : Repair := { q with word := q.word ||| w }
def Repair.poke (q : Repair) (a : Nat) (l : List Byte) : Repair :=
  { q with s := q.s.poke a l, pages := q.pages ++ (List.range l.length).filterMap (fun i =>
      if i = 0 ∨ (a + i) % 0x400 = 0 then some ((a + i) / 0x400) else none) }

/-- Step 1: the journal. -/
def Repair.journal (q : Repair) : Repair :=
  let k := q.s.keeper
  let rec_ := q.s.power.recalled
  let q := q.note (at_ (k.liveMark && rec_) 31 ||| at_ rec_ 5)
  match k.tornPage with
  | none => q
  | some p =>
    let q := q.note (bitw 30 ||| put 0 29 22 p)
    if rec_ then q else { q with s := q.s.mark (0x400 * p) }

/-- Steps 2 and 3: the choice of R350 for one pair of copies, with the bits ROLL, BAD and TIE; a tie with different
contents makes copy B equal to A. -/
def Repair.choose (q : Repair) (c : Choice) (base : Bool → Nat) (len : Nat) (roll bad tie : Nat) : Repair :=
  match c with
  | .none => q.note (bitw bad)
  | .copy _ true => q
  | .copy _ false => q.note (bitw roll)
  | .tie true => q
  | .tie false =>
    let q := q.note (bitw tie)
    Repair.poke { q with s := q.s.orReg aKpsStat (bitw 1) } (base true) (q.s.bytes (base false) len)

/-- Step 4: one spread counter (R362, R364). -/
def Repair.counter (q : Repair) (n : Nat) : Repair :=
  let s := q.s
  let a := cntBase n
  match s.lapCopy (a + 0x100), s.lapCopy (a + 0x108) with
  | none, none =>
    let q := (q.note (bitw 6)).poke a (List.replicate 252 0)
    let q := q.poke (a + 0x100) (lapBytes 0 ++ lapBytes 0)
    { q with s := q.s.orReg aCntBad (bitw n) }
  | x, y =>
    let l := max (x.getD 0) (y.getD 0)
    let rep (q : Repair) (l : Nat) : Repair :=
      let q := (q.note (bitw 7)).poke (a + 0x100) (lapBytes l ++ lapBytes l)
      { q with s := q.s.orReg aCntRep (bitw n) }
    let q := if s.thermoBad n then { q with s := q.s.orReg aKpsStat (bitw 5) } else q
    let q := if x = some l ∧ y = some l then q else rep q l
    if s.position n = 252 then rep q (l + 1) else q

/-- Step 5: records with a valid magic and a failed CRC are discarded, and the index is rebuilt. -/
def Repair.log (q : Repair) : Repair :=
  let torn (s : State) (k : Nat) : Bool :=
    let m := s.sramWord (recBase k)
    (m == 0x4B500001#32 || m == 0x4B500002#32) && !s.recValid k
  let bad := (List.range 128).filter (torn q.s)
  let q := bad.foldl (fun q k => q.poke (recBase k) [0, 0, 0, 0]) q
  let q := q.note (put 0 15 8 bad.length)
  let s := q.s
  let good := (List.range 128).filter s.recValid
  let seq (k : Nat) : Word := s.sramWord (recBase k + 4)
  match good with
  | [] => { q with s := (s.setReg aLogIdx 0).setReg aLogSeq 0 }
  | k :: t =>
    let newest := t.foldl (fun a b => if newer (seq b) (seq a) then b else a) k
    { q with s := (s.setReg aLogSeq (seq newest)).setReg aLogIdx (bitw 31 ||| put 0 30 24 newest ||| put 0 7 0 good.length) }

/-- The repair: steps 1 to 5 at once, and of step 6 the clearing of the journal and the start of the store of every page
written, which goes on by the store commands (R356). -/
def State.repair (s : State) : State :=
  let q : Repair := { s := (s.setReg aCntRep 0).setReg aCntBad 0 }
  let q := q.journal
  let cfg := q.s.cfgChoice
  let q := q.choose cfg cfgBase (q.s.cfgLen false) 21 20 19
  let q := q.choose q.s.cmtChoice cmtBase 0x20 18 17 16
  let q := (List.range 32).foldl Repair.counter q
  let q := q.log
  let s := q.s.setReg aRepair q.word
  let s := { s with
    keeper := { s.keeper with liveMark := false, tornPage := none, abandonMark := false }
    power := { s.power with set := cfg.copy? } }
  if q.pages.isEmpty then s
  else s.beginStore .record (((List.range 256).filter q.pages.contains).map (fun k => (k, true)))

/-! Restarts -/

/-- A restart begins at the release of the store controller, whose repair starts at once; one whose recall is still due
makes it, after the clocks where these do not yet run (R524, R564). -/
def State.beginRestart (s : State) (cause : BitVec 3) : State :=
  let s := { s.setFld aRstCause 2 0 cause.toNat with power := { s.power with cause := cause } }
  if !s.power.recallDue then (s.setPhase .recalled).repair
  else s.setPhase (if s.bit aClkStat 29 then .locked else .regulators)

/-- DEVICE_RESET: RESETN low for 1 µs; ignored in input-low and while the power-fail store runs (R564). -/
def execDeviceReset (s : State) : Res :=
  .next (if s.booting || s.power.phase == .run then s.deviceReset else s)

/-- RESETN_RELEASE: the restart with CAUSE 2. -/
def execResetnRelease (s : State) : Res := .next (if s.power.phase == .inReset then s.beginRestart 2 else s)

/-- JTAG_RESET: a reset and its restart with CAUSE 2 (R540). -/
def execJtagReset (s : State) : Res :=
  .next (if s.booting || s.power.phase == .run then s.deviceReset.beginRestart 2 else s)

/-- SYSTEM_RESET_RESTART: after the shutdown and its store, the restart with CAUSE 1 (R281). -/
def execSystemResetRestart (s : State) : Res :=
  .next (match s.faults.sysStore with
    | some n =>
      let ended := n < s.keeper.number || (n = s.keeper.number && s.keeper.run.isNone)
      if s.faults.sysReset && ended && !s.sdact && s.power.phase == .run then s.deviceReset.beginRestart 1 else s
    | none => s)

/-! Stores (R340, R344 to R346, R447, R526) -/

/-- Host requests that wait for a store that has ended carry KPS_LASTST now. -/
def State.answerStores (s : State) (ended : Nat → Bool) : State :=
  s.forAll (List.finRange 2) (fun s p => s.forAll (List.finRange 4) (fun s i =>
    match (s.sess p i).exec with
    | some q =>
      if q.waitStore.any ended then
        s.setExec p i { q with waitStore := none, payload := wordBytes (s.reg aLastSt) }
      else s
    | none => s))

/-- STORE_COMPLETE: the store has no page left; the pending requests run as one store (R340, R528). -/
def execStoreComplete (s : State) : Res :=
  .next (match s.storeFinished with
    | some j =>
      if j.kind == .powerFail || !s.fabricOn then s
      else
        let n := s.keeper.number
        (s.endStore j).answerStores (fun k => k ≤ n)
    | none => s)

/-- POWER_FAIL_STORE_END: pass 2 has ended; the LIVE mark clears and the device powers down (R345, R347, R526). -/
def execPowerFailStoreEnd (s : State) : Res :=
  .next (match s.storeFinished with
    | some j =>
      if j.kind == .powerFail && j.pass2 then
        let s := ((s.setRun none).setBit aRstCause 3 true).setBit aRstCause 4 false
        { s with keeper := { s.keeper with liveMark := false } }.powerDown
      else s
    | none => s)

/-- PFS_ABANDON: VHOLD falls below 5.0 V. An erase stops (R547); a power-fail store is abandoned: the page in progress is torn
and the journal records the abandonment (R346, R347). -/
def execPfsAbandon (s : State) : Res :=
  .next (
    let s := s.stopErase
    if s.keeper.run.any (fun j => j.kind == .powerFail) then
      let s := { s with keeper := { s.keeper with abandonMark := true } }
      ((s.setBit aRstCause 4 true).setBit aRstCause 3 false).powerDown
    else s.storeNext 1)

/-- The power-fail sequence (R118, R344, R525, R574); alarm actions that wait for RUN take effect first (R549). -/
def State.powerFailStart (s : State) : State :=
  let s := s.lateActions
  let s := (((s.setFld aMonVin 31 16 0).setBit aMonVin 1 true).setBit aMonVin 0 false).restAbort
  let s := s.count 2
  let s := { s with
    power := { s.power with phase := .powerFail, state := .run, waking := false, failDue := false, held := [] }
    keeper := { s.keeper with locked := true }
    faults := { s.faults with sysReset := false }
    wicks := s.wicks.map (fun (x : Wick) => match x.st with | .run | .wait _ => { x with stop := true } | _ => x)
    doms := s.doms.map (fun (d : Domain) => { d with next := none }) }
  let runs (r : Rail) : Bool := match (s.ch r).st with | .rising | .on | .margined | .retryWait => true | _ => false
  let s := s.cyc (fun c => (c.raise srcInput).hits ((allRails.filter runs).map (fun r => { rail := r, cause := .disable })))
  (s.startPowerFailStore.answerStores (fun _ => true)).rsvSettle

/-! Input supervision -/

/-- Where VIN stands, and MON_VIN.VINOK. -/
def State.setVin (s : State) (v : VinLevel) (ok : Bool) : State :=
  ({ s with power := { s.power with vin := v } }.setBit aMonVin 0 ok).rsvSettle

/-- VIN_FALL; the crossing starts a wake (R531). -/
def execVinFall (s : State) : Res :=
  .next (if s.power.phase == .unpowered || s.power.vin == .below then s else (s.setVin .below false).startWake)

/-- VIN_LOW_QUALIFIED: in RUN and DOZE the power-fail sequence starts, in NAP and HIBERNATE at the end of a wake; before
RUN the boot stops; in input-low, which the power-fail sequence enters, BANDMS returns to 0 (R118, R119, R523, R525).
DESIGN CHOICE (log 16): while RESETN holds the device in reset it powers down as a boot does, without a raise of INPUT and
without a power-fail store; R118, R523 and R564 do not speak of that case. -/
def execVinLowQualified (s : State) : Res :=
  .next (if s.power.vin != .below then s
    else match s.power.phase with
      | .unpowered => s
      | .inputLow | .powerFail => s.setFld aMonVin 31 16 0
      | .run => if s.fabricOn then s.powerFailStart else { s with power := { s.power with failDue := true } }.startWake
      | _ => (s.setFld aMonVin 31 16 0).powerDown)

/-- VIN_RISE: VIN crosses the rising threshold upward, or with `band` the falling one alone; VINOK compares with the falling
threshold once the device has started (R122). -/
def execVinRise (band : Bool) (s : State) : Res :=
  let v : VinLevel := if band then .band else .above
  .next (match s.power.phase with
    | .unpowered => s
    | .inputLow | .powerFail => s.setVin v false
    | _ => s.setVin v true)

/-- VIN_QUALIFIED: t0 of the boot (R117, R119, R521, R524); ORG is low from now until the configuration set is applied. -/
def execVinQualified (s : State) : Res :=
  .next (if s.power.phase != .inputLow || s.power.vin != .above then s
    else
      let s := { s with regs := s.regs.filter (fun e => alwaysOn e.1), reserve := { offOut := s.reserve.offOut, offIn := s.reserve.offIn } }
      let s := ((s.setFld aMonVin 31 16 0).setBit aMonVin 1 false).setBit aMonVin 0 true
      { s.setFld aRstCause 2 0 0 with power := { s.power with
        phase := .regulators, cause := 0, recallDue := true, recalled := false, xFailed := false, aoFailed := false } })

/-- VIN_BAND_MS (R119, R120). -/
def execVinBandMs (s : State) : Res :=
  .next (match s.power.phase with
    | .inputLow | .powerFail =>
      let n := satInc 16 (s.fld aMonVin 31 16)
      let s := { s with power := { s.power with vin := .band } }.setFld aMonVin 31 16 n
      if n = 100 then s.setBit aMonVin 2 true else s
    | _ => s)

/-! The boot (R521) -/

/-- VHOK_WAIT_LIMIT: 300 ms have passed since t0, also of a boot that a reset holds before its recall (R522, R564). -/
def execVhokWaitLimit (s : State) : Res :=
  .next (if s.booting || (s.power.phase == .inReset && s.power.recallDue) then
      { s with power := { s.power with vhokLimit := true } }
    else s)

/-- INTERNAL_SUPPLIES_READY: every RSTOUT is asserted from now on, and the straps are sampled, once in a power-up (R326, R521,
R565). -/
def execInternalSuppliesReady (straps : Straps) (s : State) : Res :=
  .next (if s.power.phase == .regulators then
      { s with
        tether := if s.power.supplies then s.tether else { s.tether with straps := straps }
        power := { s.power with phase := .supplies, supplies := true } }
    else s)

/-- REF_CLOCK_READY: a crystal that has failed is not used again before the next power-up (R519). -/
def execRefClockReady (crystal aoCrystal : Bool) (s : State) : Res :=
  .next (if s.power.phase == .supplies then
      ((s.setBit aClkStat 31 (crystal && !s.power.xFailed)).setBit aClkStat 30 (aoCrystal && !s.power.aoFailed)).setPhase
        .reference
    else s)

/-- PLL_LOCKED: the store controller is released. -/
def execPllLocked (s : State) : Res :=
  .next (if s.power.phase == .reference then (s.setBit aClkStat 29 true).setPhase .locked else s)

/-- RECALL_DONE: every page from the shadow, every dirty bit clear (R355); the repair starts. -/
def execRecallDone (s : State) : Res :=
  .next (if s.power.phase == .locked && s.power.recallDue then
      State.repair { s with
        sram := s.shadow, keeper := { s.keeper with dirty := 0 }
        power := { s.power with phase := .recalled, recallDue := false, recalled := true } }
    else s)

/-! The repair's end and the configuration set -/

/-- REPAIR_DONE: the store of step 6, where there is one, has ended; without one the autosave interval starts now
(R338, R356). -/
def execRepairDone (s : State) : Res :=
  .next (if s.power.phase == .recalled && s.keeper.run.isNone then
      (if s.keeper.lastEnd.isNone then s.armAutosave else s).setPhase .repaired
    else s)

/-! The configuration set (R357, R358, R427, R519, R547) -/

/-- The register holds at least one Loaded field ("Register map summary"). -/
def loaded (a : Nat) : Bool :=
  let off := a % 0x10000
  let among (lo n : Nat) : Bool := decide (lo ≤ off ∧ off < lo + 4 * n)
  a % 4 == 0 && (match a / 0x10000 with
    | 0x1000 => off < 0x4000 && (off % 0x100 ≤ 0x24 || off % 0x100 == 0x30)
    | 0x1001 => among 0x000 16 || among 0x050 2 || among 0x060 4 || off == 0x080
    | 0x1002 => off == 0x000 || off == 0x010 || among 0x030 6 || among 0x100 16 || among 0x200 4
        || (0x1000 ≤ off && off < 0x17C0 && off % 0x10 == 0xC)
    | 0x1003 => off == 0x000 || among 0x01C 2 || among 0x040 48 || (0x100 ≤ off && off < 0x300 && off % 0x20 == 0)
        || off == 0x1000 || (0x1100 ≤ off && off < 0x1300 && off % 0x20 ≤ 0x10)
    | 0x1004 => off == 0x000 || among 0x0C0 24 || among 0x120 4
    | 0x1005 => among 0x040 48 || among 0x100 8
    | 0x1006 => off == 0x000
    | 0x1007 => off == 0x000 || among 0x010 2 || among 0x01C 3 || among 0x030 6 || among 0x080 11
    | 0x1008 => among 0x040 13
    | 0x1009 => among 0x000 2 || among 0x080 12
    | 0x100A => off == 0x0000 || off == 0x0008 || off == 0x1000 || among 0x1040 2
    | 0x100B => off == 0x000 || off == 0x00C || off == 0x014
    | 0x100C => off == 0x00C || off == 0x014 || off == 0x018
    | _ => false)

/-- One entry: the state, the entries refused and the first of them. -/
def applyEntry (b : Bool) (x : State × Nat × Nat) (k : Nat) : State × Nat × Nat :=
  let a := (x.1.sramWord (cfgBase b + 0x10 + 8 * k)).toNat
  let v := x.1.sramWord (cfgBase b + 0x14 + 8 * k)
  let q := if loaded a || a = aLock then x.1.regWrite .store a v else (x.1, false)
  if q.2 then (q.1, x.2) else (q.1, x.2.1 + 1, if x.2.1 = 0 then k else x.2.2)

/-- The chosen set is applied, and KPS_CFGSTAT and KPS_CFGSEQ show it; without one STORE is CRITICAL. -/
def State.applySet (s : State) : State :=
  match s.power.set with
  | none => s.setFld (aSev (srcStore / 16)) (2 * (srcStore % 16) + 1) (2 * (srcStore % 16)) 3
  | some b =>
    let n := leNat (s.bytes (cfgBase b + 8) 2)
    let seq := s.sramWord (cfgBase b + 4)
    let q := (List.range n).foldl (applyEntry b) (s, 0, 0)
    (q.1.setReg aCfgSeq seq).setReg aCfgStat
      (at_ b 31 ||| bitw 30 ||| put 0 29 20 n ||| put 0 19 10 q.2.1 ||| put 0 9 0 q.2.2)

/-- The STORE findings of R358. -/
def State.storeFinding (s : State) : Bool :=
  let w := s.reg aRepair
  tst w 30 || wfld w 21 16 != 0 || wfld w 15 8 != 0 || tst w 6 || s.bit aKpsStat 5

/-- The boot commit of the arbiter's shadows (R427). -/
def State.bootCommit (s : State) : State :=
  if 1024 < s.weights aArbPrio then s.orReg aArbStat (bitw 1) else s.applyCommit

/-- CONFIG_SET_APPLIED. The ORing stage goes on working through a restart (R384). -/
def execConfigSetApplied (s : State) : Res :=
  .next (if s.power.phase != .repaired then s
    else
      let old := s.reserve
      let s := { s with regs := s.regs.filter (fun e => !oringReg e.1) }
      let s := (s.applySet.setPhase .configured).bootCommit
      let keep := old.orOn && s.oringEn
      let s := s.setRsv { s.reserve with
        orOn := keep, ilim := keep && old.ilim, ilimAt := if keep then old.ilimAt else none
        scoff := old.scoff, rearmAt := old.rearmAt }
      let s := s.rsvSettle.settleRsts
      let clock := (s.bit aClkCfg 31 && !s.bit aClkStat 31) || (s.bit aClkCfg 30 && !s.bit aClkStat 30)
      let s := s.raiseAll ((if s.storeFinding then [{ src := srcStore }] else [])
        ++ (if s.bit aRepair 7 then [{ src := srcCounterRepair }] else [])
        ++ (if clock then [{ src := srcClockFail }] else []))
      if s.protect.eraseMark then s.startErase else s)

/-- The image of a commit record copy passes the CRC of that copy (R183). -/
def State.imagePasses (s : State) (b : Bool) : Bool := s.imageCrc (s.cmtSlot b) (s.cmtLen b) == s.cmtCrc b

/-- Load the image that a commit record copy names. -/
def State.loadFrom (s : State) (b : Bool) : State := s.loadImage (s.cmtSlot b) (s.cmtLen b) (s.cmtVer b)

/-- IMAGE_LOADED: the newest image that passes its check, the older one with FALLBACK, or none with IMGBAD (R179, R183). -/
def execImageLoaded (s : State) : Res :=
  .next (if s.power.phase != .configured then s
    else
      let c := s.cmtChoice
      let older : Option Bool := match c with | .copy b true => some (!b) | _ => none
      let s := s.setPhase .loaded
      let s := match c.copy?, older with
        | some b, o =>
          if s.imagePasses b then s.loadFrom b
          else match o with
            | some b => if s.imagePasses b then ((s.loadFrom b).setBit aSeqStat 31 true).raise1 srcStore
                else (s.setBit aSeqStat 30 true).raise1 srcStore
            | none => (s.setBit aSeqStat 30 true).raise1 srcStore
        | none, _ => (s.setBit aSeqStat 30 true).raise1 srcStore
      s.checkConf.settleRsts)

/-! RUN (R120, R249, R347, R374, R477, R521, R522) -/

/-- Counters that a start increments at RUN (R365), in ascending number with those that the estimator's start increments
(R366): 8 and 9 come between 6 and 15. -/
def State.startCounters (s : State) : State :=
  let w := s.reg aRepair
  let s := if tst w 5 then s.count 0 else s
  let s := s.count 1
  if s.power.cause = 1 then s.count 6 else s

/-- Counter 15, for an unclean start (R356, R365). -/
def State.countUnclean (s : State) : State := if s.bit aRepair 31 then s.count 15 else s

/-- The timers that begin with RUN, and the estimator (R407). -/
def State.startTimers (s : State) : State :=
  let s := if s.estEn then s.estStart else { s with reserve := { s.reserve with tickAt := none } }
  let s := { s with
    ports := s.ports.map (fun (p : PmbPort) => { p with passAt := s.timer 1000000 })
    selfTest := { s.selfTest with nextAt := if s.bit aStCtl 31 then s.timer 0 else none } }
  let s := if s.slave then s else s.setFld aTthStat 23 16 ((s.counter 1 + 1) % 256)
  if s.tMaster then
    { s with tether := { s.tether with roundAt := s.timer (1000 * s.fld aTthCfg 7 0), timeAt := s.timer 100000 } }
  else s

/-- Wicks with AUTO start and BOOTON domains receive ON requests (R173, R249). -/
def State.autoStarts (s : State) : State :=
  if !s.bit aSeqCtl 31 then s
  else
    let s := s.forAll allWicks (fun s w =>
      if s.bit (aWCfg w) 31 then (s.wickStart w (BitVec.ofNat 12 (s.fld (aWCfg w) 11 0))).1 else s)
    s.cyc (fun c =>
      let l := allDoms.filter (fun d => s.takesPart d && s.bit (aDCfg d) 27)
      (c.forAll l (fun c d => c.onReq d 1)).launch 17 l)

/-- The device enters RUN. AUTO wicks and BOOTON domains start before the raise of the same cycle is recorded, so that a
snapshot shows them (R288, R521, R522). -/
def State.enterRun (s : State) : State :=
  let vhok := s.bit aKpsStat 25
  let marg := s.bit aMonVin 2
  let s := s.setPhase .run
  let s := (s.setBit aMonVin 3 marg).setBit aMonVin 2 false
  let s := s.setBit aRstCause 5 (!vhok)
  let s := { s with keeper := { s.keeper with liveMark := true }, faults := { s.faults with startPend := true } }
  s.startCounters.startTimers.countUnclean.autoStarts.rsvRaise (if vhok then [] else [{ src := srcStore }])

/-- The scanner's first frame has been taken and has ended, before which the boot does not enter RUN (R521). -/
def State.scanned (s : State) : Bool :=
  s.scan.nextAt.isSome && (!s.scan.inFrame || s.scan.nextAt.any (fun t => decide (t ≤ s.cycle)))

/-- BOOT_RUN: with VHOK, after 300 ms, or at once in a restart without recall; the scanner's frame made, the die at most at
140 °C, and no key erase running (R521, R522, R524, R527, R547). -/
def execBootRun (dieTenths : Int) (s : State) : Res :=
  .next (
    let ready := s.bit aKpsStat 25 || s.power.vhokLimit || (s.power.cause != 0 && !s.bit aRepair 5)
    if s.power.phase == .loaded && ready && s.scanned && dieTenths ≤ 1400 && !s.erasing then s.enterRun else s)

/-! Power states -/

/-- A deeper power state begins; the PLL stops in HIBERNATE (R528). -/
def State.enterState (s : State) (st : PowerState) : State :=
  let s := { s with power := { s.power with state := st, since := s.cycle, seen := s.watched } }
  if st == .hibernate then s.setBit aClkStat 29 false else s

/-- ENTER_POWER_STATE: where no cause of R529 holds RUN, the deepest state that fits is entered, from a state less deep
(R530). With a wake source in the same cycle, or in a wake, it is not (R535). -/
def execEnterPowerState (wake : Bool) (s : State) : Res :=
  .next (if wake then s.startWake
    else if s.power.phase != .run || s.power.waking || s.deepest = 0 then s
    else match s.sleepChoice with
      | none => s
      | some st => if st.code ≤ s.power.state.code then s else s.enterState st)

/-- The source that a WAKE_START names is there: a known event within the wake time, a selection by a host, a link frame, VIN
below the falling threshold, a tamper source that detects. A raise and the wait monitor start their wakes themselves
(R531). -/
def State.wakeSource (s : State) (k : WakeKind) : Bool :=
  match k with
  | .known => s.wakeDue
  | .event | .waitMonitor => false
  | .hostSelect | .linkFrame => true
  | .vinFalling => s.power.vin == .below
  | .tamper => s.protect.detect != 0

/-- WAKE_START (R531). -/
def execWakeStart (k : WakeKind) (s : State) : Res := .next (if s.wakeSource k then s.startWake else s)

/-- WAKE_COMPLETE: RUN; actions that waited for the fabric domain take effect, then the causes of R551 in `co`, the power-fail
sequence that is due starts, and host frames that were held execute (R525, R531, R534, R549, R551). -/
def execWakeComplete (hw : HwBits) (co : List SecEvent) (s : State) : Res :=
  .next (if !s.power.waking then s.secEvents co
    else
      let s := if s.power.state == .hibernate then s.setBit aClkStat 29 true else s
      let s := { s with power := { s.power with state := .run, waking := false } }
      let s := s.lateActions.secEvents co
      if s.power.failDue then s.powerFailStart else s.runHeld hw)

/-! Clock failures (R519) -/

/-- The device has its supplies: neither the always-on domain alone nor less. -/
def State.supplied (s : State) : Bool := s.power.phase != .unpowered && s.power.phase != .inputLow

/-- REFERENCE_CRYSTAL_FAIL: the RC oscillator takes over, and the ring node leaves synchronisation and the time master's role
(R496, R499). -/
def execReferenceCrystalFail (s : State) : Res :=
  .next (if !s.supplied || !s.bit aClkStat 31 then s
    else
      let sync := s.bit aRngStat 31
      let s := (s.setBit aClkStat 31 false).orReg aClkStat (bitw 2)
      let s := { s with power := { s.power with xFailed := true }, ring := { s.ring with good := 0 } }
      let s := if sync then (s.setBit aRngStat 31 false).orReg aRngStat (bitw 1) else s
      s.leaveMaster.raiseAll ((if sync then [{ src := srcSyncLoss }] else []) ++ [{ src := srcClockFail }]))

/-- AO_CRYSTAL_FAIL: the internal oscillator takes over. -/
def execAoCrystalFail (s : State) : Res :=
  .next (if s.power.phase == .unpowered || !s.bit aClkStat 30 then s
    else
      let s := (s.setBit aClkStat 30 false).orReg aClkStat (bitw 1)
      { s with power := { s.power with aoFailed := true } }.raise1 srcClockFail)

/-- PLL_LOCK_LOSS: the core runs on the free-running output. -/
def execPllLockLoss (s : State) : Res :=
  .next (if !s.supplied || !s.bit aClkStat 29 then s
    else ((s.setBit aClkStat 29 false).orReg aClkStat (bitw 0)).raise1 srcClockFail)

/-- PLL_LOCK_RETURN: in a reset too, where the PLL had locked before. -/
def execPllLockReturn (s : State) : Res :=
  .next (if (s.powered || (s.power.phase == .inReset && !s.power.recallDue)) && s.power.state != .hibernate then
      s.setBit aClkStat 29 true
    else s)

/-! Heat (R527) -/

/-- THERMAL_WARNING: once until the die has cooled. -/
def execThermalWarning (s : State) : Res :=
  .next (if !s.configured || !s.power.warnArmed then s
    else { s.setBit aPwrStat 3 true with power := { s.power with warnArmed := false } }.raise1 srcThermal)

/-- THERMAL_SHUTDOWN: every integrated stage is disabled in one cycle. -/
def execThermalShutdown (s : State) : Res :=
  .next (if !s.configured then s
    else
      let s := { s.setBit aPwrStat 2 true with power := { s.power with hot := true } }
      s.cyc (fun c => c.hits ((allRails.filter (fun r => !isExt r)).map (fun r => { rail := r, cause := .disable }))))

/-- THERMAL_REARM. -/
def execThermalRearm (s : State) : Res :=
  .next (if !s.configured then s
    else { s.setBit aPwrStat 3 false with power := { s.power with warnArmed := true, hot := false } })

/-! The always-on domain (R121, R520, R537) -/

/-- ALWAYS_ON_POWER_LOSS: what has no supply keeps nothing but the shadow array and its private cells. -/
def execAlwaysOnPowerLoss (s : State) : Res :=
  .next (
    let s := s.tear
    { State.reset with
      shadow := s.shadow, keeper := s.keeper.journal, protect := { eraseMark := s.protect.eraseMark }
      power := { phase := .unpowered }, tether := { sent := s.tether.sent }, ring := { sent := s.ring.sent }
      cycle := s.cycle, free := s.free, pending := s.pending })

/-- ALWAYS_ON_POWER_UP. -/
def execAlwaysOnPowerUp (aoCrystal : Bool) (s : State) : Res :=
  .next (if s.power.phase == .unpowered then (s.setBit aClkStat 30 aoCrystal).setPhase .inputLow else s)

end Sys2Proof.Machine
end

