-- ==== Sys2Proof/Machine/Dispatch.lean ====
section
/-! DEFINITION. The meaning of every command: one arm per row of the opcode table. -/

namespace Sys2Proof.Machine

def exec (i : Instr) (s : State) : Host.Outcome State Fault Refusal :=
  match i with
  | .nop w => Sys2Proof.Machine.execNop w s
  | .halt w => Sys2Proof.Machine.execHalt w s
  | .en w co => Sys2Proof.Machine.execEn w co s
  | .dis w co => Sys2Proof.Machine.execDis w co s
  | .ens w co => Sys2Proof.Machine.execEns w co s
  | .diss w co => Sys2Proof.Machine.execDiss w co s
  | .disch w co => Sys2Proof.Machine.execDisch w co s
  | .wait w => Sys2Proof.Machine.execWait w s
  | .waitc w => Sys2Proof.Machine.execWaitc w s
  | .chk w => Sys2Proof.Machine.execChk w s
  | .jmp w => Sys2Proof.Machine.execJmp w s
  | .call w => Sys2Proof.Machine.execCall w s
  | .ret w => Sys2Proof.Machine.execRet w s
  | .loop w => Sys2Proof.Machine.execLoop w s
  | .marg w co => Sys2Proof.Machine.execMarg w co s
  | .sig w => Sys2Proof.Machine.execSig w s
  | .wsig w arr => Sys2Proof.Machine.execWsig w arr s
  | .hitch w => Sys2Proof.Machine.execHitch w s
  | .unhitch w => Sys2Proof.Machine.execUnhitch w s
  | .log w => Sys2Proof.Machine.execLog w s
  | .raise w co => Sys2Proof.Machine.execRaise w co s
  | .sync w => Sys2Proof.Machine.execSync w s
  | .setv w => Sys2Proof.Machine.execSetv w s
  | .addv w => Sys2Proof.Machine.execAddv w s
  | .tlm w => Sys2Proof.Machine.execTlm w s
  | .rsto w write => Sys2Proof.Machine.execRsto w write s
  | .sleephint w => Sys2Proof.Machine.execSleephint w s
  | .pmb w => Sys2Proof.Machine.execPmb w s
  | .illegalInstruction w => Sys2Proof.Machine.execIllegalInstruction w s
  | .waitEnd w => Sys2Proof.Machine.execWaitEnd w s
  | .waitTimeout w => Sys2Proof.Machine.execWaitTimeout w s
  | .waitcSuccess w => Sys2Proof.Machine.execWaitcSuccess w s
  | .wsigSuccess w arr => Sys2Proof.Machine.execWsigSuccess w arr s
  | .hitchSuccess w => Sys2Proof.Machine.execHitchSuccess w s
  | .syncSuccess w => Sys2Proof.Machine.execSyncSuccess w s
  | .logStallEnd w => Sys2Proof.Machine.execLogStallEnd w s
  | .disWaitEnd w => Sys2Proof.Machine.execDisWaitEnd w s
  | .wickBoundaryStop w => Sys2Proof.Machine.execWickBoundaryStop w s
  | .wickStart who w addr => Sys2Proof.Machine.execWickStart who w addr s
  | .wickStop who w => Sys2Proof.Machine.execWickStop who w s
  | .sigset who w num => Sys2Proof.Machine.execSigset who w num s
  | .commit who andActivate => Sys2Proof.Machine.execCommit who andActivate s
  | .commitComplete => Sys2Proof.Machine.execCommitComplete s
  | .activate who => Sys2Proof.Machine.execActivate who s
  | .activateDone => Sys2Proof.Machine.execActivateDone s
  | .ovCrossing r active co => Sys2Proof.Machine.execOvCrossing r active co s
  | .uvCrossing r active co => Sys2Proof.Machine.execUvCrossing r active co s
  | .ocCrossing r active co => Sys2Proof.Machine.execOcCrossing r active co s
  | .auxCrossing n high active co => Sys2Proof.Machine.execAuxCrossing n high active co s
  | .blankingEnd c active co => Sys2Proof.Machine.execBlankingEnd c active co s
  | .switchingPeriodStart r => Sys2Proof.Machine.execSwitchingPeriodStart r s
  | .softStartEnd r co => Sys2Proof.Machine.execSoftStartEnd r co s
  | .tonExpiry r co => Sys2Proof.Machine.execTonExpiry r co s
  | .toffExpiry r co => Sys2Proof.Machine.execToffExpiry r co s
  | .prebiasTimeout r co => Sys2Proof.Machine.execPrebiasTimeout r co s
  | .backoffExpiry r co => Sys2Proof.Machine.execBackoffExpiry r co s
  | .retryCountReset r => Sys2Proof.Machine.execRetryCountReset r s
  | .preambleEnd r => Sys2Proof.Machine.execPreambleEnd r s
  | .pmbusPollPass port => Sys2Proof.Machine.execPmbusPollPass port s
  | .pmbusTransactionDone port res => Sys2Proof.Machine.execPmbusTransactionDone port res s
  | .smbusTimeout port => Sys2Proof.Machine.execSmbusTimeout port s
  | .marginSlewMove r => Sys2Proof.Machine.execMarginSlewMove r s
  | .pmbusSlewComplete r => Sys2Proof.Machine.execPmbusSlewComplete r s
  | .chFlagsWrite who r v hw => Sys2Proof.Machine.execChFlagsWrite who r v hw s
  | .chMarginWrite who r v => Sys2Proof.Machine.execChMarginWrite who r v s
  | .selfTestTurn bank => Sys2Proof.Machine.execSelfTestTurn bank s
  | .selfTestPhase out => Sys2Proof.Machine.execSelfTestPhase out s
  | .selfTestBankEnd out => Sys2Proof.Machine.execSelfTestBankEnd out s
  | .scanFrame => Sys2Proof.Machine.execScanFrame s
  | .adcConversion p code kind early => Sys2Proof.Machine.execAdcConversion p code kind early s
  | .burstStart => Sys2Proof.Machine.execBurstStart s
  | .rawFrameWrite lost => Sys2Proof.Machine.execRawFrameWrite lost s
  | .freeze who => Sys2Proof.Machine.execFreeze who s
  | .freezeComplete => Sys2Proof.Machine.execFreezeComplete s
  | .unfreeze who => Sys2Proof.Machine.execUnfreeze who s
  | .clrmm who all pt => Sys2Proof.Machine.execClrmm who all pt s
  | .clrpk who all pt => Sys2Proof.Machine.execClrpk who all pt s
  | .tlmFiltWrite who p v => Sys2Proof.Machine.execTlmFiltWrite who p v s
  | .tlmCtlWrite who v => Sys2Proof.Machine.execTlmCtlWrite who v s
  | .lhStart => Sys2Proof.Machine.execLhStart s
  | .lhCalRound shiftUv => Sys2Proof.Machine.execLhCalRound shiftUv s
  | .lhExciteStart => Sys2Proof.Machine.execLhExciteStart s
  | .lhPerturbToggle => Sys2Proof.Machine.execLhPerturbToggle s
  | .lhCaptureEnd => Sys2Proof.Machine.execLhCaptureEnd s
  | .lhComputeEnd => Sys2Proof.Machine.execLhComputeEnd s
  | .rebase who all r => Sys2Proof.Machine.execRebase who all r s
  | .dcmdHitch who d => Sys2Proof.Machine.execDcmdHitch who d s
  | .dcmdUnhitch who d => Sys2Proof.Machine.execDcmdUnhitch who d s
  | .dcmdOn who d react => Sys2Proof.Machine.execDcmdOn who d react s
  | .dcmdOff who d => Sys2Proof.Machine.execDcmdOff who d s
  | .dcmdMargin who d r step => Sys2Proof.Machine.execDcmdMargin who d r step s
  | .pendingUpStart d => Sys2Proof.Machine.execPendingUpStart d s
  | .hitchBreak d => Sys2Proof.Machine.execHitchBreak d s
  | .reactionApply => Sys2Proof.Machine.execReactionApply s
  | .shutdownRankDone => Sys2Proof.Machine.execShutdownRankDone s
  | .shutdownRankTimeout => Sys2Proof.Machine.execShutdownRankTimeout s
  | .shutdownEnd => Sys2Proof.Machine.execShutdownEnd s
  | .systemResetStore => Sys2Proof.Machine.execSystemResetStore s
  | .systemResetRestart => Sys2Proof.Machine.execSystemResetRestart s
  | .emberComplete => Sys2Proof.Machine.execEmberComplete s
  | .headerRewrite => Sys2Proof.Machine.execHeaderRewrite s
  | .shadowClose doms device => Sys2Proof.Machine.execShadowClose doms device s
  | .logEntryWrite => Sys2Proof.Machine.execLogEntryWrite s
  | .clear who => Sys2Proof.Machine.execClear who s
  | .clrcnt who => Sys2Proof.Machine.execClrcnt who s
  | .fire who andDisarm co => Sys2Proof.Machine.execFire who andDisarm co s
  | .disarm who => Sys2Proof.Machine.execDisarm who s
  | .resetStretchEnd k => Sys2Proof.Machine.execResetStretchEnd k s
  | .resetPulseEnd k => Sys2Proof.Machine.execResetPulseEnd k s
  | .rstovrAuto who k => Sys2Proof.Machine.execRstovrAuto who k s
  | .rstovrAssert who k => Sys2Proof.Machine.execRstovrAssert who k s
  | .rstovrPulse who k => Sys2Proof.Machine.execRstovrPulse who k s
  | .mrgRstWrite who k v => Sys2Proof.Machine.execMrgRstWrite who k v s
  | .store who => Sys2Proof.Machine.execStore who s
  | .storeall who => Sys2Proof.Machine.execStoreall who s
  | .autosave => Sys2Proof.Machine.execAutosave s
  | .storeShadowReady => Sys2Proof.Machine.execStoreShadowReady s
  | .storePageDone verified => Sys2Proof.Machine.execStorePageDone verified s
  | .storeComplete => Sys2Proof.Machine.execStoreComplete s
  | .powerFailStoreEnd => Sys2Proof.Machine.execPowerFailStoreEnd s
  | .pfsAbandon => Sys2Proof.Machine.execPfsAbandon s
  | .vholdCrossing rising => Sys2Proof.Machine.execVholdCrossing rising s
  | .inc who n => Sys2Proof.Machine.execInc who n s
  | .init who n => Sys2Proof.Machine.execInit who n s
  | .counterIncrement => Sys2Proof.Machine.execCounterIncrement s
  | .internalSuppliesReady straps => Sys2Proof.Machine.execInternalSuppliesReady straps s
  | .refClockReady crystal aoCrystal => Sys2Proof.Machine.execRefClockReady crystal aoCrystal s
  | .bootRun dieTenths => Sys2Proof.Machine.execBootRun dieTenths s
  | .chargerTransition cellMv co => Sys2Proof.Machine.execChargerTransition cellMv co s
  | .prechargeTimeout co => Sys2Proof.Machine.execPrechargeTimeout co s
  | .chargeTimeout co => Sys2Proof.Machine.execChargeTimeout co s
  | .chargeTermination co => Sys2Proof.Machine.execChargeTermination co s
  | .senseFault co => Sys2Proof.Machine.execSenseFault co s
  | .packOvervoltage co => Sys2Proof.Machine.execPackOvervoltage co s
  | .oringOn => Sys2Proof.Machine.execOringOn s
  | .oringOff => Sys2Proof.Machine.execOringOff s
  | .currentLimitTimeout co => Sys2Proof.Machine.execCurrentLimitTimeout co s
  | .shortCircuitTrip co => Sys2Proof.Machine.execShortCircuitTrip co s
  | .autoRearm co => Sys2Proof.Machine.execAutoRearm co s
  | .rearm who co => Sys2Proof.Machine.execRearm who co s
  | .restnow who => Sys2Proof.Machine.execRestnow who s
  | .reinit who => Sys2Proof.Machine.execReinit who s
  | .clrlrn who => Sys2Proof.Machine.execClrlrn who s
  | .cutoff co => Sys2Proof.Machine.execCutoff co s
  | .estimatorTick aoMa co => Sys2Proof.Machine.execEstimatorTick aoMa co s
  | .scheduledRestEnd co => Sys2Proof.Machine.execScheduledRestEnd co s
  | .estimatorStateSave => Sys2Proof.Machine.execEstimatorStateSave s
  | .estcfgWrite who v => Sys2Proof.Machine.execEstcfgWrite who v s
  | .rsvFlagsWrite who v hw => Sys2Proof.Machine.execRsvFlagsWrite who v hw s
  | .grant present => Sys2Proof.Machine.execGrant present s
  | .transferComplete co => Sys2Proof.Machine.execTransferComplete co s
  | .windowBoundary => Sys2Proof.Machine.execWindowBoundary s
  | .arbCommit who andClear => Sys2Proof.Machine.execArbCommit who andClear s
  | .arbClrcnt who => Sys2Proof.Machine.execArbClrcnt who s
  | .uhpHello f => Sys2Proof.Machine.execUhpHello f s
  | .uhpRead f moved hw => Sys2Proof.Machine.execUhpRead f moved hw s
  | .uhpWrite f moved hw => Sys2Proof.Machine.execUhpWrite f moved hw s
  | .uhpRmw f hw => Sys2Proof.Machine.execUhpRmw f hw s
  | .uhpRequest f => Sys2Proof.Machine.execUhpRequest f s
  | .uhpRun f => Sys2Proof.Machine.execUhpRun f s
  | .uhpStore f => Sys2Proof.Machine.execUhpStore f s
  | .uhpEvents f moved hw => Sys2Proof.Machine.execUhpEvents f moved hw s
  | .uhpAbort f => Sys2Proof.Machine.execUhpAbort f s
  | .uhpBye f => Sys2Proof.Machine.execUhpBye f s
  | .hostRead port transport count => Sys2Proof.Machine.execHostRead port transport count s
  | .responseReady port session hw co => Sys2Proof.Machine.execResponseReady port session hw co s
  | .sessionTimeout port session => Sys2Proof.Machine.execSessionTimeout port session s
  | .close who port session => Sys2Proof.Machine.execClose who port session s
  | .tetherDiscovery => Sys2Proof.Machine.execTetherDiscovery s
  | .pollRound => Sys2Proof.Machine.execPollRound s
  | .tetherTimeSend => Sys2Proof.Machine.execTetherTimeSend s
  | .tetherDelayMeasure => Sys2Proof.Machine.execTetherDelayMeasure s
  | .tetherAnswer src tag crcOk a co => Sys2Proof.Machine.execTetherAnswer src tag crcOk a co s
  | .tetherAnswerTimeout => Sys2Proof.Machine.execTetherAnswerTimeout s
  | .tetherLoss => Sys2Proof.Machine.execTetherLoss s
  | .tetherSigTimeout w => Sys2Proof.Machine.execTetherSigTimeout w s
  | .tthGo who write target => Sys2Proof.Machine.execTthGo who write target s
  | .tthHello h minVer maxVer => Sys2Proof.Machine.execTthHello h minVer maxVer s
  | .tthPoll h dly confirms => Sys2Proof.Machine.execTthPoll h dly confirms s
  | .tthRead h addr => Sys2Proof.Machine.execTthRead h addr s
  | .tthWrite h addr data hw => Sys2Proof.Machine.execTthWrite h addr data hw s
  | .tthSig h w n => Sys2Proof.Machine.execTthSig h w n s
  | .tthTime h time synced tstep => Sys2Proof.Machine.execTthTime h time synced tstep s
  | .tthRelease h id => Sys2Proof.Machine.execTthRelease h id s
  | .tthTdly h => Sys2Proof.Machine.execTthTdly h s
  | .ringTime h time corrPs tstep => Sys2Proof.Machine.execRingTime h time corrPs tstep s
  | .dreq h => Sys2Proof.Machine.execDreq h s
  | .dresp h residencePs roundTripPs => Sys2Proof.Machine.execDresp h residencePs roundTripPs s
  | .lantern h l => Sys2Proof.Machine.execLantern h l s
  | .pfclear h tc => Sys2Proof.Machine.execPfclear h tc s
  | .ringSig h w n => Sys2Proof.Machine.execRingSig h w n s
  | .sigack h seq => Sys2Proof.Machine.execSigack h seq s
  | .arrive h id => Sys2Proof.Machine.execArrive h id s
  | .withdraw h id => Sys2Proof.Machine.execWithdraw h id s
  | .ringRead h addr => Sys2Proof.Machine.execRingRead h addr s
  | .ringWrite h addr data hw => Sys2Proof.Machine.execRingWrite h addr data hw s
  | .resp h seq status word => Sys2Proof.Machine.execResp h seq status word s
  | .ringDelayTimer => Sys2Proof.Machine.execRingDelayTimer s
  | .ringTimeSend => Sys2Proof.Machine.execRingTimeSend s
  | .timeMasterTakeover => Sys2Proof.Machine.execTimeMasterTakeover s
  | .syncLossTimeout => Sys2Proof.Machine.execSyncLossTimeout s
  | .lanternSend => Sys2Proof.Machine.execLanternSend s
  | .lanternRepeat => Sys2Proof.Machine.execLanternRepeat s
  | .ringSigTimeout w => Sys2Proof.Machine.execRingSigTimeout w s
  | .ringRaTimeout => Sys2Proof.Machine.execRingRaTimeout s
  | .ringLockLoss portB => Sys2Proof.Machine.execRingLockLoss portB s
  | .spliceOpen => Sys2Proof.Machine.execSpliceOpen s
  | .rngCtlWrite who v => Sys2Proof.Machine.execRngCtlWrite who v s
  | .rngGo who write target => Sys2Proof.Machine.execRngGo who write target s
  | .tset who => Sys2Proof.Machine.execTset who s
  | .pfclr who => Sys2Proof.Machine.execPfclr who s
  | .pfclrall who => Sys2Proof.Machine.execPfclrall who s
  | .wakeStart k => Sys2Proof.Machine.execWakeStart k s
  | .jtagPrivate t => Sys2Proof.Machine.execJtagPrivate t s
  | .lockCfg who => Sys2Proof.Machine.execLockCfg who s
  | .lockProg who => Sys2Proof.Machine.execLockProg who s
  | .lockBp who => Sys2Proof.Machine.execLockBp who s
  | .lockKey who => Sys2Proof.Machine.execLockKey who s
  | .lockDebug who => Sys2Proof.Machine.execLockDebug who s
  | .lockInject who => Sys2Proof.Machine.execLockInject who s
  | .erase who => Sys2Proof.Machine.execErase who s
  | .keyEraseDone => Sys2Proof.Machine.execKeyEraseDone s
  | .tamperLoopSample loop1 sensed => Sys2Proof.Machine.execTamperLoopSample loop1 sensed s
  | .voltageGlitch active => Sys2Proof.Machine.execVoltageGlitch active s
  | .temperatureGlitch active => Sys2Proof.Machine.execTemperatureGlitch active s
  | .clockGlitch active => Sys2Proof.Machine.execClockGlitch active s
  | .registerWrite who addr v hw => Sys2Proof.Machine.execRegisterWrite who addr v hw s
  | .alwaysOnPowerUp aoCrystal => Sys2Proof.Machine.execAlwaysOnPowerUp aoCrystal s
  | .tetherTimeStale => Sys2Proof.Machine.execTetherTimeStale s
  | .ringLockGain portB => Sys2Proof.Machine.execRingLockGain portB s
  | .ringLockDrop portB => Sys2Proof.Machine.execRingLockDrop portB s
  | .ringCrcFailure portB frame => Sys2Proof.Machine.execRingCrcFailure portB frame s
  | .dischargeLimitChange limiting => Sys2Proof.Machine.execDischargeLimitChange limiting s
  | .vinFall => Sys2Proof.Machine.execVinFall s
  | .vinLowQualified => Sys2Proof.Machine.execVinLowQualified s
  | .vinRise band => Sys2Proof.Machine.execVinRise band s
  | .vinQualified => Sys2Proof.Machine.execVinQualified s
  | .vinBandMs => Sys2Proof.Machine.execVinBandMs s
  | .pllLocked => Sys2Proof.Machine.execPllLocked s
  | .recallDone => Sys2Proof.Machine.execRecallDone s
  | .repairDone => Sys2Proof.Machine.execRepairDone s
  | .configSetApplied => Sys2Proof.Machine.execConfigSetApplied s
  | .imageLoaded => Sys2Proof.Machine.execImageLoaded s
  | .vhokWaitLimit => Sys2Proof.Machine.execVhokWaitLimit s
  | .enterPowerState wake => Sys2Proof.Machine.execEnterPowerState wake s
  | .wakeComplete hw co => Sys2Proof.Machine.execWakeComplete hw co s
  | .referenceCrystalFail => Sys2Proof.Machine.execReferenceCrystalFail s
  | .aoCrystalFail => Sys2Proof.Machine.execAoCrystalFail s
  | .pllLockLoss => Sys2Proof.Machine.execPllLockLoss s
  | .pllLockReturn => Sys2Proof.Machine.execPllLockReturn s
  | .thermalWarning => Sys2Proof.Machine.execThermalWarning s
  | .thermalShutdown => Sys2Proof.Machine.execThermalShutdown s
  | .thermalRearm => Sys2Proof.Machine.execThermalRearm s
  | .deviceReset => Sys2Proof.Machine.execDeviceReset s
  | .resetnRelease => Sys2Proof.Machine.execResetnRelease s
  | .jtagReset => Sys2Proof.Machine.execJtagReset s
  | .jtagBypass => Sys2Proof.Machine.execJtagBypass s
  | .jtagIdcode => Sys2Proof.Machine.execJtagIdcode s
  | .jtagSamplePreload => Sys2Proof.Machine.execJtagSamplePreload s
  | .jtagExtest => Sys2Proof.Machine.execJtagExtest s
  | .alwaysOnPowerLoss => Sys2Proof.Machine.execAlwaysOnPowerLoss s

end Sys2Proof.Machine
end

