-- ==== Sys2Proof/Machine/Step.lean ====
section
/-! DEFINITION. One step: the command at the front of the queue, or one idle cycle (log 1). -/

namespace Sys2Proof.Machine

/-- A 10 ns cycle ends in which no command is left: the links complete it (R495, R502), time passes, and the arbiter's
window while the fabric runs, at an eighth of its pace in DOZE (R423). A ring port whose frame has ended goes on with the
next (R492), and the power manager looks for what starts a wake (R531). -/
def State.tick (s : State) : State :=
  let n := if !s.fabricRuns then 0 else if s.power.state == .doze then 1 else 8
  let s := s.endCycle
  let s := { s with cycle := s.cycle + 1, arb := { s.arb with count := s.arb.count + n } }
  ((s.rNext false).rNext true).manage

/-- One step of the block. -/
def step (s : State) : Host.Outcome State Fault Refusal :=
  match s.pending with
  | [] => .next s.tick
  | c :: t => exec c { s with pending := t }

/-- The state with the command that a word spells at the front of its queue. -/
def State.withFetchWord (s : State) (nbits w : Nat) : State :=
  match decodeTableWord nbits w with
  | some c => { s with pending := c :: s.pending }
  | none => s

end Sys2Proof.Machine
end

