-- ==== Sys2Proof/Safety.lean ====
section
/-! DEFINITION. What statements ask of a state: the memories and the register map are in canonical form, and what a
safe step is. -/

namespace Sys2Proof

/-- The commands that load the shadow array or the instruction memory or may let a supply loss tear a page: pages stored,
images loaded, an erase that ends, and every command that may reset the device. No other command changes either memory. -/
def Instr.loadsOrStores : Instr → Bool
  | .activateDone | .systemResetRestart | .storePageDone _ | .powerFailStoreEnd | .pfsAbandon | .keyEraseDone
  | .vinLowQualified | .imageLoaded | .deviceReset | .jtagReset | .alwaysOnPowerLoss => true
  | _ => false

/-- Commands whose effect stays within rails, domains, resets, sequencer, collector, telemetry control, reserve, keeper,
links' flags and registers: they write no SRAM byte and no telemetry memory, and touch no self-test, filter, arbiter, host
session, tether or lock state, and of the power state only that a wake starts. -/
def Instr.staysInFabric : Instr → Bool
  | .nop _ | .halt _ | .en _ _ | .dis _ _ | .ens _ _ | .diss _ _ | .disch _ _ | .wait _ | .waitc _ | .chk _
  | .jmp _ | .call _ | .ret _ | .loop _ | .marg _ _ | .wsig _ _ | .hitch _ | .unhitch _ | .log _ | .raise _ _
  | .setv _ | .addv _ | .tlm _ | .rsto _ _ | .sleephint _ | .pmb _ | .illegalInstruction _ | .waitEnd _
  | .waitcSuccess _ | .wsigSuccess _ _ | .hitchSuccess _ | .syncSuccess _ | .logStallEnd _ | .disWaitEnd _
  | .wickStart _ _ _ | .wickStop _ _ | .sigset _ _ _ | .commit _ _ | .activate _ | .ovCrossing _ _ _
  | .uvCrossing _ _ _ | .ocCrossing _ _ _ | .auxCrossing _ _ _ _ | .blankingEnd _ _ _ | .switchingPeriodStart _
  | .softStartEnd _ _ | .tonExpiry _ _ | .toffExpiry _ _ | .prebiasTimeout _ _ | .backoffExpiry _ _
  | .retryCountReset _ | .preambleEnd _ | .pmbusPollPass _ | .pmbusTransactionDone _ _ | .smbusTimeout _
  | .marginSlewMove _ | .pmbusSlewComplete _ | .chFlagsWrite _ _ _ _ | .chMarginWrite _ _ _ | .scanFrame
  | .burstStart | .freeze _ | .freezeComplete | .unfreeze _ | .clrmm _ _ _ | .clrpk _ _ _ | .tlmCtlWrite _ _
  | .lhStart | .lhExciteStart | .lhPerturbToggle | .lhCaptureEnd | .dcmdHitch _ _ | .dcmdUnhitch _ _
  | .dcmdOn _ _ _ | .dcmdOff _ _ | .dcmdMargin _ _ _ _ | .pendingUpStart _ | .hitchBreak _ | .reactionApply
  | .shutdownRankDone | .shutdownRankTimeout | .shutdownEnd | .systemResetStore | .shadowClose _ _ | .clear _
  | .clrcnt _ | .fire _ _ _ | .disarm _ | .resetStretchEnd _ | .resetPulseEnd _ | .rstovrAuto _ _
  | .rstovrAssert _ _ | .rstovrPulse _ _ | .mrgRstWrite _ _ _ | .store _ | .storeall _ | .autosave
  | .storeShadowReady | .vholdCrossing _ | .inc _ _ | .oringOn | .oringOff | .restnow _ | .reinit _
  | .estcfgWrite _ _ | .rsvFlagsWrite _ _ _ | .arbClrcnt _ | .ringDelayTimer | .ringTimeSend | .timeMasterTakeover
  | .syncLossTimeout | .lanternSend | .lanternRepeat | .ringRaTimeout | .ringLockLoss _ | .spliceOpen
  | .rngCtlWrite _ _ | .rngGo _ _ _ | .tset _ | .pfclr _ | .pfclrall _ | .wakeStart _ | .tetherTimeStale
  | .ringLockGain _ | .ringLockDrop _ | .ringCrcFailure _ _ | .pllLockLoss | .pllLockReturn => true
  | _ => false

end Sys2Proof

namespace Sys2Proof.Machine

/-- A memory of bytes is in canonical form for what its unlisted addresses read as. -/
abbrev Memory.wf (d : Nat → Byte) (m : List Host.Cell) : Prop := MapWf d m

/-- Every map of the state is in canonical form: registers, SRAM, shadow array, telemetry memory, instruction memory,
and the page that the store engine is writing. -/
structure State.Canonical (s : State) : Prop where
  regs : MapWf resetWord s.regs
  sram : Memory.wf factoryByte s.sram
  shadow : Memory.wf factoryByte s.shadow
  tlmMem : Memory.wf (fun _ => 0) s.tlmMem
  imem : MapWf (fun _ => (0 : Word)) s.imem
  page : ∀ j, s.keeper.run = some j → ∀ c, j.cur = some c → Memory.wf factoryByte c.2

/-- The step goes on: it answers a next state. -/
def State.goesOn (s : State) : Prop := ∃ t, Sys2Proof.Machine.step s = .next t

end Sys2Proof.Machine
end

