-- ==== Sys2Proof/Certificates/Slice0/Obligations.lean ====
section
/-! DEFINITION. What is to be proved of the model: how a step runs the queue, what it keeps, and for every command a state
and operands from which it answers a next state, with what that state holds and what it leaves alone. -/

/-! What the statements say again and again -/

namespace Sys2Proof.Machine

/-- Of the wicks only `w` differs, and it is now `x`; nothing else of the state differs. -/
def State.WickBecomes (s : State) (w : WickId) (x : Wick) (t : State) : Prop :=
  t = { s with wicks := t.wicks } ∧ t.wk w = x ∧ ∀ u, u ≠ w → t.wk u = s.wk u

/-- Of the registers only those listed may differ; nothing else of the state differs. -/
def State.RegsBecome (s : State) (l : List Nat) (t : State) : Prop :=
  t = { s with regs := t.regs } ∧ ∀ a, a ∉ l → t.reg a = s.reg a

/-- A register of the channels, of the monitors or of the sequencer. -/
def ownReg (a : Nat) : Prop := a < 0x10020000 ∨ (0x10030000 ≤ a ∧ a < 0x10040000)

/-- What a command's cycle leaves alone: wicks, domains, comparators of AUX inputs, memories and every block but those the
fault collector and the PMBus ports write; the power state, but for the wake that a raise may start; the channels but those
listed, up to a loop-health perturbation that the collector ends; and the channel, monitor and sequencer registers but those
listed. -/
def State.CycleOf (s : State) (rails : List Rail) (regs : List Nat) (t : State) : Prop :=
  t = { s with
      regs := t.regs, chans := t.chans, ports := t.ports, scan := t.scan, lh := t.lh, faults := t.faults
      resets := t.resets, keeper := t.keeper, ring := t.ring, reserve := t.reserve
      power := { s.power with waking := t.power.waking } }
    ∧ (∀ q, q ∉ rails → t.ch q = { s.ch q with perturb := (t.ch q).perturb })
    ∧ ∀ a, ownReg a → a ∉ regs → t.reg a = s.reg a

/-- Wick `w` is now `x` and no other wick differs; of the rest only what a command's cycle may change besides. -/
def State.WickCycle (s : State) (w : WickId) (x : Wick) (t : State) : Prop :=
  { s with wicks := t.wicks }.CycleOf [] [] t ∧ t.wk w = x ∧ ∀ u, u ≠ w → t.wk u = s.wk u

/-- The wick has halted in FAULT with a code, its epoch counted on. -/
def State.Faulted (s : State) (w : WickId) (code : BitVec 4) (t : State) : Prop :=
  s.WickCycle w { s.wk w with
    st := .fault, fault := true, fcode := code, deadline := none, epoch := (s.wk w).epoch + 1 } t

/-- The wick may enable the rail, and R41 lets it rise at once: it is in use, OFF, below VOFF and not bound to a regulator. -/
def State.mayEnable (s : State) (w : WickId) (r : Rail) : Prop :=
  s.hasRight w r = true ∧ s.use r = true ∧ (s.ch r).st = .off ∧ s.belowVoff r = true ∧ s.bound r = false

/-- The wick has enabled the rails. -/
def State.Enabled (s : State) (w : WickId) (l : List Rail) (t : State) : Prop :=
  { s with wicks := t.wicks }.CycleOf l (l.map (fun r : Rail => aChMargin r)) t
    ∧ t.wk w = { (s.wk w).advance with cref := false } ∧ (∀ u, u ≠ w → t.wk u = s.wk u)
    ∧ ∀ r ∈ l, (t.ch r).st = .rising ∧ (t.ch r).enCmd = true ∧ (t.ch r).started = true ∧ (t.ch r).trip = 0
      ∧ (t.ch r).retries = 0 ∧ (t.ch r).ton = s.tonTimer r ∧ (t.ch r).pg = false

/-- The wick may disable the rail, which is in use and RISING, ON or MARGINED. -/
def State.mayDisable (s : State) (w : WickId) (r : Rail) : Prop :=
  s.hasRight w r = true ∧ s.use r = true ∧ (s.ch r).st ∈ [RailState.rising, .on, .margined]

/-- The wick has disabled the rails. -/
def State.Disabled (s : State) (w : WickId) (l : List Rail) (t : State) : Prop :=
  { s with wicks := t.wicks }.CycleOf l (l.map (fun r : Rail => aChMargin r)) t
    ∧ t.wk w = { (s.wk w).advance with cref := false } ∧ (∀ u, u ≠ w → t.wk u = s.wk u)
    ∧ ∀ r ∈ l, (t.ch r).st = .falling ∧ (t.ch r).enCmd = false ∧ (t.ch r).started = false
      ∧ (t.ch r).toff = s.toffTimer r

/-- A loop is active and the wick stands at its depth (R203). -/
def Wick.inLoop (x : Wick) : Prop := x.lc ≠ 0 ∧ x.stack.length = x.ldepth

/-- The loop turns: LC counts down, and the wick goes to the start of the body or, after the last pass, past its end. -/
def Wick.turned (x : Wick) : Wick :=
  { x with lc := x.lc - 1, pc := if x.lc - 1 ≠ 0 then x.lstart else x.lend + 1 }

/-- Control passes to `a`; in a loop a target outside the body ends the loop, and a transfer from the last instruction of
the body to a target within it turns the loop (R203). -/
def Wick.goes (x y : Wick) (a : BitVec 12) : Prop :=
  (¬ x.inLoop → y = { x with pc := a })
    ∧ (x.inLoop → a < x.lstart ∨ x.lend < a → y = { x with lc := 0, pc := a })
    ∧ (x.inLoop → x.lstart ≤ a → a ≤ x.lend → y = if x.pc = x.lend then x.turned else { x with pc := a })

/-- A wait has ended: the wick runs, its hint and its deadline withdrawn. -/
def Wick.woken (x : Wick) : Wick := { x with st := .run, hint := none, deadline := none, released := false }

/-- RUN or DOZE with the charger enabled, the input good, no temperature measured, no rest and the pair off: the charger
moves by the cell voltage alone. -/
def State.calm (s : State) : Prop :=
  s.awake = true ∧ s.chgEn = true ∧ s.bit aRsvCfg 23 = false ∧ s.reserve.tchg = false ∧ s.reserve.tdis = false
    ∧ s.reserve.rest = false ∧ s.reserve.orOn = false ∧ s.bit aMonVin 0 = true ∧ s.bit aMonVin 1 = false

/-- No temperature is measured, the pair is off, and the charger stands in OFF where it is disabled and else in WAIT or FAULT:
the reserve's conditions change nothing. -/
def State.still (s : State) : Prop :=
  s.bit aRsvCfg 23 = false ∧ s.reserve.tchg = false ∧ s.reserve.tdis = false ∧ s.reserve.outC = false
    ∧ s.reserve.outD = false ∧ s.reserve.orOn = false
    ∧ (s.chgEn = false ∧ s.reserve.chg = .off ∨ s.chgEn = true ∧ s.reserve.chg ∈ [ChgState.wait, .fault])

/-- The charger stands in FAULT with a flag of RSV_FLAGS set. -/
def State.ChargerFaulted (s : State) (f : Word) (t : State) : Prop :=
  s.CycleOf [] [] t ∧ t.reserve.chg = .fault ∧ t.reg aRsvFlags = s.reg aRsvFlags ||| f

/-- The ORing pair has tripped: off, blocked by SCOFF, a flag set and the re-arm of AUTOR started. -/
def State.PairTripped (s : State) (f : Word) (t : State) : Prop :=
  s.CycleOf [] [] t ∧ t.reserve.scoff = true ∧ t.reserve.orOn = false ∧ t.rsvBlock = true
    ∧ t.reg aRsvFlags = s.reg aRsvFlags ||| f
    ∧ t.reserve.rearmAt = if s.fld aRsvOring 7 0 = 0 then none else some (s.cycle + 100000000 * s.fld aRsvOring 7 0)

/-- A refused write of the reserve: CFG_REF of RSV_FLAGS, and nothing else. -/
def State.RsvRefused (s t : State) : Prop := s.RegsBecome [aRsvFlags] t ∧ t.reg aRsvFlags = s.reg aRsvFlags ||| 1

/-- A store has begun: numbered, of a kind, with the pages it has to reach, and no page taken yet. -/
def State.StoreBegun (s : State) (kind : StoreKind) (pages : List (Nat × Bool)) (last : Option Nat) (t : State) : Prop :=
  t = { s with keeper := { s.keeper with
    number := s.keeper.number + 1, last := some kind, lastEnd := last
    run := some {
      kind := kind, ready := false, left := pages, cur := none, written := 0, startAt := s.cycle, pass2 := false
      waitRewrite := false } } }

/-- The override of one reset output is `v`, with its pulse; no other register and no other output differs. -/
def State.OverrideIs (s : State) (k : Fin 8) (v : Nat) (pulse : Timer) (t : State) : Prop :=
  t = { s with regs := t.regs, resets := t.resets } ∧ t.ovr k = v ∧ t.resets[k] = { s.resets[k] with pulse := pulse }
    ∧ (∀ j, j ≠ k → t.resets[j] = s.resets[j] ∧ t.ovr j = s.ovr j) ∧ ∀ a, a ≠ aRstOvr → t.reg a = s.reg a

/-- The domain `d` is now `x`, with a program ordered on its busy wick, which is to stop at its next boundary; no other domain
and no other wick differs. -/
def State.Ordered (s : State) (d : DomId) (x : Domain) (t : State) : Prop :=
  { s with doms := t.doms, wicks := t.wicks }.CycleOf [] [] t ∧ t.dom d = x ∧ (∀ e, e ≠ d → t.dom e = s.dom e)
    ∧ t.wk (s.pwick d) = { s.wk (s.pwick d) with stop := true } ∧ ∀ u, u ≠ s.pwick d → t.wk u = s.wk u

/-- A refused request of a domain: its REQREF, and nothing else. -/
def State.RequestRefused (s : State) (d : DomId) (t : State) : Prop :=
  t = { s with doms := t.doms } ∧ t.dom d = { s.dom d with reqRef := true } ∧ ∀ e, e ≠ d → t.dom e = s.dom e

/-- A device reset has passed: rails, wicks, domains, sessions and the image are as after power-up; the shadow array,
where no page was being written, the telemetry memory and the always-on registers MON_VIN and PWR_CLKSTAT are kept. -/
def State.Restarted (s t : State) : Prop :=
  t.chans = State.reset.chans ∧ t.wicks = State.reset.wicks ∧ t.doms = State.reset.doms ∧ t.hosts = State.reset.hosts
    ∧ t.imem = [] ∧ t.tlmMem = s.tlmMem ∧ (s.keeper.run = none → t.shadow = s.shadow)
    ∧ t.reg aMonVin = s.reg aMonVin ∧ t.reg aClkStat = s.reg aClkStat

/-- A restart with a CAUSE has begun: at the repair where no recall is due, else at the recall or, without PLL lock, at the
regulators. -/
def State.restartsAt (s : State) (cause : BitVec 3) (t : State) : Prop :=
  t.power.cause = cause ∧ t.fld aRstCause 2 0 = cause.toNat
    ∧ (s.power.recallDue = false → t.power.phase = .recalled)
    ∧ (s.power.recallDue = true → t.power.phase = if s.bit aClkStat 29 then .locked else .regulators)

/-- A tamper source's detection has become `on`: a detection that has risen stands in its latch bit and, with CLOSE among
the alarm's actions, has closed every session; one that has gone leaves everything else. -/
def State.detects (s : State) (k : Fin 5) (on : Bool) (t : State) : Prop :=
  t.protect.detect.getLsbD k = on
    ∧ (on = false → t = { s with protect := { s.protect with detect := t.protect.detect } })
    ∧ (on = true → s.protect.detect.getLsbD k = false → t.bit aAlarm k = true
      ∧ (s.bit aAlarmAct 1 = true → ∀ p i, (t.sess p i).isOpen = false))

/-- A request frame of an operation, complete and with the CHECK of a session without authentication (R436). -/
def frameSound (f : HostFrame) (op : Byte) : Prop :=
  f.op = op ∧ f.sync = 0xA5 ∧ f.dir = false ∧ f.rsvd = false
    ∧ f.payload.length = (if op = opRead then 0 else f.len.toNat) ∧ f.count = 13 + f.payload.length
    ∧ f.check = checkOf none 0 (requestBytes f)

/-- The port takes the frame, in whose cycle nothing of R551 happens besides: it is open, the transport byte fits, and no
response of the session waits. -/
def State.hears (s : State) (f : HostFrame) : Prop :=
  f.co = [] ∧ s.hostOpen f.port = true ∧ s.transportOk f.port f.transport 0x51 0xD1 = true
    ∧ s.waitingResponses f.port f.session = 0

/-- The frame belongs to an open session of version 3 without authentication, and repeats no tag; requests without
authentication may change state (R461). -/
def State.inSession (s : State) (f : HostFrame) : Prop :=
  (s.sess f.port f.session).isOpen = true ∧ (s.sess f.port f.session).auth = false
    ∧ (s.sess f.port f.session).ver = 3 ∧ f.ver = 3 ∧ (∀ c ∈ (s.sess f.port f.session).cache, c.etag ≠ f.tag.toNat)
    ∧ s.bit (aHstCfg f.port) 28 = false

/-- Every session but one is as it was, and so are the queues of the other port. -/
def State.otherSessions (s t : State) (p : Fin 2) (i : Fin 4) : Prop :=
  (∀ q j, (q, j) ≠ (p, i) → t.sess q j = s.sess q j) ∧ ∀ q, q ≠ p → t.hosts[q] = s.hosts[q]

end Sys2Proof.Machine

namespace Sys2Proof.Machine

/-- Frames of the tether master that draw an answer are queued, the first of them sent at once where the tether is free. -/
def State.Asks (s : State) (l : List (Fin 16 × TetherBody × TetherWhy)) (t : State) : Prop :=
  let key (q : TetherFrame × TetherWhy) := (q.1.dst, q.1.body, q.2)
  let want (q : Fin 16 × TetherBody × TetherWhy) := (BitVec.ofNat 4 q.1.val, q.2.1, q.2.2)
  t = { s with tether := { s.tether with
      tag := s.tether.tag + BitVec.ofNat 16 l.length
      cur := t.tether.cur, queue := t.tether.queue, sent := t.tether.sent } }
    ∧ (s.tether.cur ≠ none → t.tether.cur = s.tether.cur ∧ t.tether.sent = s.tether.sent
        ∧ t.tether.queue.map key = s.tether.queue.map key ++ l.map want)
    ∧ (s.tether.cur = none → s.tether.queue = [] → s.tether.round = [] → ∀ n b why r, l = (n, b, why) :: r →
        t.tether.cur = some (s.tFrame n b, why, s.fld aTthCfg 18 16)
          ∧ t.tether.sent = s.tether.sent ++ [s.tFrame n b] ∧ t.tether.queue.map key = r.map want)

/-- A slave takes the frame: it serves the tether, its fabric runs, no tether loss falls in the frame's cycle, the frame's
type is of the negotiated version, and the master's epoch has not changed. -/
def State.takes (s : State) (h : TetherHead) (ver : Nat) : Prop :=
  s.slave = true ∧ s.tetherEn = true ∧ s.cfgLoaded = true ∧ s.fabricOn = true ∧ h.loss = false ∧ h.crcOk = true
    ∧ ver ≤ s.tVer ∧ s.tether.heard = true ∧ s.mepoch = h.epoch

/-- The frame is the slave's own and none of its last eight answers bears the TAG. -/
def State.takesOwn (s : State) (h : TetherHead) (ver : Nat) : Prop :=
  s.takes h ver ∧ h.dst = s.taddr ∧ h.dst ≠ 0 ∧ ∀ e ∈ s.tether.cache, e.1 ≠ h.tag

/-- The slave's tether state once it has answered: the answer is sent and kept for a repeat. -/
def State.afterAnswer (s : State) (h : TetherHead) (ty : Byte) (a : TetherAnswer) : Tether :=
  let f : TetherFrame := { dst := 0, src := s.taddr, epoch := h.epoch, tag := h.tag, body := .answer ty a }
  { s.tether with armed := true, sent := s.tether.sent ++ [f], cache := ((h.tag, f) :: s.tether.cache).take 8 }

/-- The first copy of another node's frame reaches this unspliced ring node, whose fabric runs, and nothing else reaches
the links in its cycle. -/
def State.ringFirst (s : State) (h : RingArrival) : Prop :=
  h.co = [] ∧ s.ringLive = true ∧ s.fabricOn = true ∧ h.src ≠ s.node ∧ (h.src, h.seq) ∉ s.ring.seen

/-- So a frame that is not forwarded, being for this node or at the end of its hops. -/
def State.ringHears (s : State) (h : RingArrival) : Prop :=
  s.ringFirst h ∧ (h.dst = s.node.setWidth 8 ∨ (h.dst = 0xFF ∧ h.hops = 0))

/-- The ring state once the node has noted the frame's copy. -/
def State.noted (s : State) (h : RingArrival) : Ring := { s.ring with seen := noteSeen s.ring.seen h.src h.seq }

/-- The later of a clear's TC and that of the latest clear so far. -/
def State.laterTc (s : State) (tc : BitVec 64) : BitVec 64 :=
  match s.ring.clearAt with | some u => if u ≤ tc then tc else u | none => tc

/-- A port is idle: its last frame has ended and none waits. -/
def State.idlePort (s : State) (b : Bool) : Prop :=
  s.ring.ports[portIx b].busyTo ≤ 5 * s.cycle ∧ s.ring.ports[portIx b].waiting = []

/-- The ring state once an idle port has begun to send a frame, which lasts 32 ns a character. -/
def Ring.starts (r : Ring) (cycle : Nat) (b : Bool) (x : RingTx) : Ring :=
  { r with
    sent := r.sent ++ [(b, x)]
    ports := r.ports.set (portIx b) { r.ports[portIx b] with busyTo := 5 * cycle + 16 * x.chars } }

/-- The ring state once the next SEQ has been taken. -/
def Ring.counted (r : Ring) : Ring :=
  { r with seq := r.seq + 1, seqs := if r.seqs.contains r.seq then r.seqs else r.seqs ++ [r.seq] }

/-- The ring state once both idle ports have begun to send a frame of this node, which takes the next SEQ. -/
def Ring.sends (r : Ring) (cycle : Nat) (f : RingFrame) : Ring :=
  ((r.starts cycle false (.own f)).starts cycle true (.own f)).counted

/-- Of the wicks only `w`, which is now `x`, and `tw` differ, and `tw`, it may be `w` itself, has flag `n` set besides. -/
def State.Signals (s : State) (w : WickId) (x : Wick) (tw : WickId) (n : Fin 16) (t : State) : Prop :=
  t = { s with wicks := t.wicks } ∧ (∀ u, u ≠ w → u ≠ tw → t.wk u = s.wk u)
    ∧ t.wk w = (if w = tw then { x with sigs := x.sigs ||| BitVec.ofNat 16 (2 ^ n.val) } else x)
    ∧ (w ≠ tw → t.wk tw = { s.wk tw with sigs := (s.wk tw).sigs ||| BitVec.ofNat 16 (2 ^ n.val) })

end Sys2Proof.Machine

open Sys2Proof Sys2Proof.Machine

/-! The queue, time, reset and the memories -/

/-- A step takes the command at the front of the queue and runs it with the rest of the queue. -/
def Obligations.StepRunsFront : Prop :=
  ∀ (c : Instr) (l : List Instr) (s : State),
    step { s with pending := c :: l } = exec c { s with pending := l }

/-- With no command waiting a step is one idle cycle, by the model's choice (log 1): the cycle count rises by 1, and the
arbiter's window count while the fabric runs, by 8, in DOZE by 1. While the core clock runs, ring time takes the value that
a change of the cycle has given it, else the next count, and the own lanterns that are due enter the plant-first record,
an empty one as its best; TSET also makes TSTEP due on the tether, and on the ring where no frame waits. A ring port that
no frame waits for stays as it is, and one whose frame has ended goes on with the next. In a sleep state a wake may start,
as it does where a cause allows no such state; nothing else changes. -/
def Obligations.StepIdle : Prop :=
  ∀ s : State, s.pending = [] →
    ∃ t, step s = .next t
      ∧ t = { s with
        cycle := s.cycle + 1
        arb := { s.arb with
          count := s.arb.count + if s.fabricRuns then (if s.power.state = .doze then 1 else 8) else 0 }
        power := { s.power with waking := t.power.waking }
        tether := { s.tether with tstep := t.tether.tstep }
        ring := { s.ring with
          time := t.ring.time, next := if s.powered then none else s.ring.next
          own := if s.powered then s.ring.own.filter (fun e => s.cycle < e.1) else s.ring.own
          best := t.ring.best, run := t.ring.run, tstep := t.ring.tstep, ports := t.ring.ports, sent := t.ring.sent } }
      ∧ (s.asleep = false → t.power.waking = s.power.waking)
      ∧ (s.asleep = true → s.deepest = 0 → t.power.waking = true)
      ∧ t.ring.time = (if s.powered then (match s.ring.next with | some x => x.1 | none => s.ring.time + 1) else s.ring.time)
      ∧ ((s.powered = false ∨ ∀ e ∈ s.ring.own, s.cycle < e.1) → t.ring.best = s.ring.best ∧ t.ring.run = s.ring.run)
      ∧ (∀ k l, s.powered = true → s.ring.own = [(k, l)] → k ≤ s.cycle → s.ring.best = none → s.ring.run = none →
        s.ring.clearAt = none → t.ring.best = some l ∧ t.ring.run = none)
      ∧ (∀ x, s.powered = true → s.ring.next = some (x, true) →
        t.tether.tstep = true ∧ ((∀ p : Fin 2, (s.ring.ports[p]).waiting = []) → t.ring.tstep = true))
      ∧ ((s.powered = false ∨ ∀ x, s.ring.next ≠ some (x, true)) →
        t.tether.tstep = s.tether.tstep ∧ t.ring.tstep = s.ring.tstep)
      ∧ (∀ p : Fin 2, (s.ring.ports[p]).waiting = [] → t.ring.ports[p] = s.ring.ports[p])
      ∧ ((∀ p : Fin 2, (s.ring.ports[p]).waiting = []) → t.ring.sent = s.ring.sent)
      ∧ ∀ (p : Fin 2) (x : RingTx) (l : List RingTx), (∀ x, s.ring.next ≠ some (x, true)) →
        (s.ring.ports[p]).waiting = x :: l →
        t.ring.ports[p] = if (s.ring.ports[p]).busyTo ≤ 5 * (s.cycle + 1) then
          { s.ring.ports[p] with busyTo := 5 * (s.cycle + 1) + 16 * x.chars, waiting := l } else s.ring.ports[p]

/-- Every command of the table answers a next state, and leaves the queue and the time as they are. -/
def Obligations.ExecKeepsQueueAndTime : Prop :=
  ∀ (c : Instr) (s : State), ∃ t, exec c s = .next t ∧ t.pending = s.pending ∧ t.cycle = s.cycle

/-- After reset every register reads its Reset column, every rail is OFF, every wick IDLE and every domain without an
owner, no command waits, the device is input-low, and the SRAM and its shadow array hold what a new device's hold. -/
def Obligations.ResetState : Prop :=
  (∀ a, State.reset.reg a = resetWord a) ∧ (∀ r, (State.reset.ch r).st = .off) ∧ (∀ w, (State.reset.wk w).st = .idle)
    ∧ (∀ d, (State.reset.dom d).owner = .none) ∧ (∀ a, State.reset.byte a = factoryByte a)
    ∧ (∀ a, State.reset.shadowByte a = factoryByte a) ∧ State.reset.pending = [] ∧ State.reset.power.phase = .inputLow

/-- The state after reset is in canonical form. -/
def Obligations.ResetCanonical : Prop :=
  State.reset.Canonical

/-- Every step keeps the canonical form of the registers and of all memories, a page that is being written included.
-/
def Obligations.StepKeepsCanonical : Prop :=
  ∀ s t : State, s.Canonical → step s = .next t → t.Canonical

/-- The shadow array and the instruction memory change only by the commands named in `loadsOrStores`. -/
def Obligations.ShadowAndImageKept : Prop :=
  ∀ (c : Instr) (s t : State), c.loadsOrStores = false → exec c s = .next t →
    (∀ a, t.shadowByte a = s.shadowByte a) ∧ (∀ a, t.imemWord a = s.imemWord a)

/-- A command named in `staysInFabric` changes no byte of the SRAM, of its shadow array or of the telemetry memory,
and no part of the state but the registers, channels, PMBus ports, AUX inputs, scanner, loop health, wicks, domains,
shutdown, collector, reset outputs, store controller, reserve and ring; of the power state at most the start of a wake. -/
def Obligations.FabricCommandsKeepTheRest : Prop :=
  ∀ (c : Instr) (s t : State), c.staysInFabric = true → exec c s = .next t →
    (∀ a, t.byte a = s.byte a ∧ t.shadowByte a = s.shadowByte a ∧ t.tlmByte a = s.tlmByte a)
      ∧ t = { s with
        regs := t.regs, chans := t.chans, ports := t.ports, aux := t.aux, scan := t.scan, lh := t.lh, wicks := t.wicks
        doms := t.doms, shut := t.shut, faults := t.faults, resets := t.resets, keeper := t.keeper
        reserve := t.reserve, ring := t.ring, power := { s.power with waking := t.power.waking } }

/-- The decoder reads every legal operation back from the word that the encoder gives it. -/
def Obligations.TornumRoundTrip : Prop :=
  ∀ o : Op, o.legal = true → decodeOp (encodeOp o) = some o

/-- Words of the spec's worked example of an encoding decode to the instructions they stand for; a reserved opcode, a
reserved field that is not 0, an indirect form whose immediate is not 0 and a reserved condition decode to none. -/
def Obligations.TornumWords : Prop :=
  decodeOp 0x54000001 = some (.setv 0 (.const 1)) ∧ decodeOp 0x57C8C350 = some (.setv 7 (.time 1 50000))
    ∧ decodeOp 0x1D800007 = some (.waitc { cc := 0x18, neg := false, arg := 0 } 7)
    ∧ decodeOp 0x23800023 = some (.chk { cc := 0x38, neg := false, arg := 0 } 35)
    ∧ decodeOp 0x08000004 = some (.en (.imm 4))
    ∧ decodeOp 0x1C208007 = some (.waitc { cc := 0x02, neg := false, arg := 0x20 } 7)
    ∧ decodeOp 0x18002710 = some (.wait 0 10000) ∧ decodeOp 0x10000001 = some (.ens 1)
    ∧ decodeOp 0x64000008 = some (.rsto 1 0) ∧ decodeOp 0 = some .nop ∧ decodeOp 0x04000000 = some .halt
    ∧ (∀ op : Fin 64, 0x1C ≤ op.val → decodeOp (BitVec.ofNat 32 (op.val * 2 ^ 26)) = none)
    ∧ decodeOp 0x00000001 = none ∧ decodeOp 0x08000201 = none ∧ decodeOp 0x1CF00000 = none

/-! The sequencer -/

/-- NOP changes nothing but PC, or turns the loop at the end of its body. JMP passes control to its target (R198,
R203). Each completes wherever the wick issues it. CHK, CALL, RET and LOOP where they do not fault: CHK whose
condition holds passes control to its own address plus the signed OFFSET, and one whose condition does not hold goes
on to the following instruction; CALL below depth 4 pushes its own address plus 1 and goes to its target; RET passes
control to the address it pops; LOOP of COUNT 0 goes past the body, and of another COUNT opens the loop of the body
that follows. Nothing else changes. -/
def Obligations.ControlFlow : Prop :=
  ((∀ (s : State) (w : WickId), s.current w = some .nop →
    ∃ t, exec (.nop w) s = .next t ∧
      s.WickBecomes w (
        if (s.wk w).lc ≠ 0 ∧ (s.wk w).stack.length = (s.wk w).ldepth ∧ (s.wk w).pc = (s.wk w).lend then (s.wk w).turned
        else { s.wk w with pc := (s.wk w).pc + 1 }) t)
  ∧ ∀ (s : State) (w : WickId) (x : Ref (Fin 4096)), s.current w = some (.jmp x) →
    ∃ t, exec (.jmp w) s = .next t ∧ s.WickBecomes w (t.wk w) t
      ∧ (s.wk w).goes (t.wk w) (BitVec.ofNat 12 (s.operand w 12 x)))
  ∧ ((∀ (s : State) (w : WickId) (c : Cond) (off : Fin 1024), s.current w = some (.chk c off) → c.badOperand = false →
    ∃ t, exec (.chk w) s = .next t ∧ s.WickBecomes w (t.wk w) t
      ∧ (s.holds w c = true → (s.wk w).goes (t.wk w)
          ((s.wk w).pc + BitVec.ofInt 12 (if off.val < 512 then off.val else (off.val : Int) - 1024)))
      ∧ (s.holds w c = false → t.wk w = (s.wk w).advance))
  ∧ (∀ (s : State) (w : WickId) (x : Ref (Fin 4096)), s.current w = some (.call x) → (s.wk w).stack.length < 4 →
    ∃ t, exec (.call w) s = .next t ∧
      s.WickBecomes w { s.wk w with
        stack := ((s.wk w).pc + 1) :: (s.wk w).stack, pc := BitVec.ofNat 12 (s.operand w 12 x) } t)
  ∧ (∀ (s : State) (w : WickId) (a : BitVec 12) (l : List (BitVec 12)), s.current w = some .ret →
    (s.wk w).stack = a :: l →
    ∃ t, exec (.ret w) s = .next t ∧ s.WickBecomes w (t.wk w) t ∧ (t.wk w).stack = l
      ∧ (s.wk w).goes { t.wk w with stack := (s.wk w).stack } a)
  ∧ ∀ (s : State) (w : WickId) (n : Ref (Fin 8192)) (e : Fin 4096), s.current w = some (.loop n e) →
    (s.wk w).lc = 0 → (s.wk w).pc.toNat + 1 ≤ e.val → e.val < s.liveLen → endBarred (s.imemWord e.val) = false →
    ∃ t, exec (.loop w) s = .next t ∧
      s.WickBecomes w (if s.operand w 16 n = 0 then { s.wk w with pc := BitVec.ofNat 12 (e.val + 1) }
        else { s.wk w with
          lc := BitVec.ofNat 16 (s.operand w 16 n), lstart := (s.wk w).pc + 1, lend := BitVec.ofNat 12 e.val
          ldepth := (s.wk w).stack.length, pc := (s.wk w).pc + 1 }) t)

/-- LOG, SLEEPHINT and WAIT, wherever the wick issues them: what each writes in its wick beside going on to the
following instruction. LOG fills the wick's buffer of one event with the code, the value and the ring time, or waits
with them while the buffer is full; SLEEPHINT sets the hint's end, a time of 0 withdraws it; WAIT waits until its time
is over, a time of 0 goes on at once. Nothing else changes. -/
def Obligations.PlainInstructions : Prop :=
  (∀ (s : State) (w : WickId) (code : Fin 256) (vr : Fin 8), s.current w = some (.log code vr) →
    ∃ t, exec (.log w) s = .next t ∧
      s.WickBecomes w (if (s.wk w).logBuf = none then
          { (s.wk w).advance with
            logBuf := some { code := BitVec.ofNat 8 code.val, value := s.vreg w vr, time := s.ring.time } }
        else { (s.wk w).advance with st := .wait (.logger (BitVec.ofNat 8 code.val) (s.vreg w vr) s.ring.time) }) t)
  ∧ (∀ (s : State) (w : WickId) (u : Fin 4) (n : Fin 16777216), s.current w = some (.sleephint u n) →
    ∃ t, exec (.sleephint w) s = .next t ∧
      s.WickBecomes w { (s.wk w).advance with
        hint := if n.val = 0 then none else some (s.cycle + n.val * [1, 100, 100000, 100000000][u.val]!) } t)
  ∧ ∀ (s : State) (w : WickId) (u : Fin 4) (n : Fin 16777216), s.current w = some (.wait u n) →
    ∃ t, exec (.wait w) s = .next t ∧
      s.WickBecomes w (if n.val = 0 then (s.wk w).advance else
        { (s.wk w).advance with
          st := .wait .time, deadline := some (s.cycle + n.val * [1, 100, 100000, 100000000][u.val]!) }) t

/-- R177, for a wick that runs no domain's program: CALL at depth 4 and RET at depth 0 fault with STACK; LOOP inside a
loop or with an end before its body, outside the image or at a barred instruction faults with LOOP; WAITC, CHK, TLM,
SETV and PMB with an operand out of range or an invalid template fault with OPERAND; a fetch past the image faults
with PCRANGE, and a malformed word with ILLEGAL. The wick stands in FAULT with the code and its epoch counted on, PC
stays, no other wick and no domain changes, and no byte of memory. HALT puts a wick that runs no domain's program in
HALTED with its epoch counted on, PC staying at the HALT; no other wick, no domain and no byte of memory changes. -/
def Obligations.HaltAndFaults : Prop :=
  (∀ (s : State) (w : WickId), s.progOf w = none →
    (∀ x, s.current w = some (.call x) → 4 ≤ (s.wk w).stack.length →
      ∃ t, exec (.call w) s = .next t ∧ s.Faulted w 3 t)
    ∧ (s.current w = some .ret → (s.wk w).stack = [] → ∃ t, exec (.ret w) s = .next t ∧ s.Faulted w 3 t)
    ∧ (∀ n (e : Fin 4096), s.current w = some (.loop n e) →
      (s.wk w).lc ≠ 0 ∨ e.val < (s.wk w).pc.toNat + 1 ∨ s.liveLen ≤ e.val ∨ endBarred (s.imemWord e.val) = true →
      ∃ t, exec (.loop w) s = .next t ∧ s.Faulted w 4 t)
    ∧ (∀ c v, s.current w = some (.waitc c v) → c.badOperand = true →
      ∃ t, exec (.waitc w) s = .next t ∧ s.Faulted w 5 t)
    ∧ (∀ c o, s.current w = some (.chk c o) → c.badOperand = true → ∃ t, exec (.chk w) s = .next t ∧ s.Faulted w 5 t)
    ∧ (∀ p, s.current w = some (.tlm p) → 124 ≤ s.operand w 7 p → ∃ t, exec (.tlm w) s = .next t ∧ s.Faulted w 5 t)
    ∧ (∀ (vd : Fin 8) (k : Fin 32) (a : Ref (Fin 32768)), s.current w = some (.setv vd (.source k a)) →
      k.val < 3 ∧ 124 ≤ s.operand w 32 a ∨ (k = 5 ∨ k = 6) ∧ 64 ≤ s.operand w 32 a
        ∨ (k = 3 ∨ k = 4 ∨ k = 7 ∨ k = 8) ∧ s.operand w 32 a ≠ 0 →
      ∃ t, exec (.setv w) s = .next t ∧ s.Faulted w 5 t)
    ∧ (∀ k v, s.current w = some (.pmb k v) → s.bit (aPmbt k) 31 = false →
      ∃ t, exec (.pmb w) s = .next t ∧ s.Faulted w 5 t)
    ∧ (s.mayIssue w = true → s.liveLen ≤ (s.wk w).pc.toNat →
      ∃ t, exec (.illegalInstruction w) s = .next t ∧ s.Faulted w 2 t)
    ∧ (s.mayIssue w = true → (s.wk w).pc.toNat < s.liveLen → decodeOp (s.imemWord (s.wk w).pc.toNat) = none →
      ∃ t, exec (.illegalInstruction w) s = .next t ∧ s.Faulted w 1 t))
  ∧ (∀ (s : State) (w : WickId), s.current w = some .halt → s.progOf w = none →
    ∃ t, exec (.halt w) s = .next t
      ∧ s.WickCycle w { s.wk w with st := .halted, epoch := (s.wk w).epoch + 1 } t)

/-- R215 and R216. SETV writes VD by its form: the constant sign-extended from 21 bits; the upper half with VD[20:0]
kept; the time operand; or the value of a source, a reading of a point extended by its result format, and goes on to
the following instruction; nothing else changes. An argument out of range faults with OPERAND and writes none of V0 to
V7. -/
def Obligations.SetvRule : Prop :=
  (∀ (s : State) (w : WickId) (vd : Fin 8) (i : Fin 2097152), s.current w = some (.setv vd (.const i)) →
    ∃ t, exec (.setv w) s = .next t ∧ s.WickBecomes w { (s.wk w).advance with v := (s.wk w).v.set vd (
      BitVec.ofInt 32 (if i.val < 1048576 then i.val else (i.val : Int) - 2097152)) } t)
  ∧ (∀ (s : State) (w : WickId) (vd : Fin 8) (i : Fin 2048), s.current w = some (.setv vd (.upper i)) →
    ∃ t, exec (.setv w) s = .next t ∧ s.WickBecomes w { (s.wk w).advance with v := (s.wk w).v.set vd (
      BitVec.ofNat 32 (i.val * 2 ^ 21 + (s.vreg w vd).toNat % 2 ^ 21)) } t)
  ∧ (∀ (s : State) (w : WickId) (vd : Fin 8) (u : Fin 4) (n : Fin 524288), s.current w = some (.setv vd (.time u n)) →
    ∃ t, exec (.setv w) s = .next t ∧ s.WickBecomes w { (s.wk w).advance with v := (s.wk w).v.set vd (
      BitVec.ofNat 32 (u.val * 2 ^ 24 + n.val)) } t)
  ∧ (∀ (s : State) (w : WickId) (vd : Fin 8) (k : Fin 32) (a : Ref (Fin 32768)) (v : Word),
    s.current w = some (.setv vd (.source k a)) → s.operand w 32 a = 0 →
    (k = 3 ∧ v = BitVec.ofNat 32 (s.ring.time.toNat % 2 ^ 32) ∨ k = 4 ∧ v = BitVec.ofNat 32 (s.ring.time.toNat / 2 ^ 32)
      ∨ k = 7 ∧ v = BitVec.ofNat 32 (s.wk w).lc.toNat ∨ k = 8 ∧ v = BitVec.ofNat 32 (s.wk w).sigs.toNat) →
    ∃ t, exec (.setv w) s = .next t ∧ s.WickBecomes w { (s.wk w).advance with v := (s.wk w).v.set vd v } t)
  ∧ (∀ (s : State) (w : WickId) (vd : Fin 8) (k : Fin 32) (a : Ref (Fin 32768)) (v : Word),
    s.current w = some (.setv vd (.source k a)) → s.operand w 32 a < 64 →
    (k = 5 ∧ v = s.chState (Fin.ofNat 64 (s.operand w 32 a))
      ∨ k = 6 ∧ v = s.chFlags (Fin.ofNat 64 (s.operand w 32 a))) →
    ∃ t, exec (.setv w) s = .next t ∧ s.WickBecomes w { (s.wk w).advance with v := (s.wk w).v.set vd v } t)
  ∧ (∀ (s : State) (w : WickId) (vd : Fin 8) (k : Fin 32) (a : Ref (Fin 32768)) (p : Nat) (v : BitVec 16),
    s.current w = some (.setv vd (.source k a)) → s.operand w 32 a = p → p < 124 →
    (k = 0 ∧ v = (s.reg (aVal p)).extractLsb' 0 16 ∨ k = 1 ∧ v = (s.reg (aLast p)).extractLsb' 0 16
      ∨ k = 2 ∧ v = (s.reg (aLast p)).extractLsb' 16 16) →
    ∃ t, exec (.setv w) s = .next t ∧ s.WickBecomes w { (s.wk w).advance with v := (s.wk w).v.set vd (
      if 16 ≤ p ∧ p ≤ 47 ∨ p = 115 ∨ 117 ≤ p ∧ p ≤ 120 then v.signExtend 32 else v.setWidth 32) } t)
  ∧ ∀ (s : State) (w : WickId) (vd : Fin 8) (k : Fin 32) (a : Ref (Fin 32768)),
    s.current w = some (.setv vd (.source k a)) →
    (k.val < 3 ∧ 124 ≤ s.operand w 32 a ∨ (k = 5 ∨ k = 6) ∧ 64 ≤ s.operand w 32 a
      ∨ (k = 3 ∨ k = 4 ∨ k = 7 ∨ k = 8) ∧ s.operand w 32 a ≠ 0) →
    ∃ t, exec (.setv w) s = .next t ∧ (t.wk w).st = .fault ∧ (t.wk w).fcode = 5 ∧ (t.wk w).v = (s.wk w).v

/-- A waiting instruction with a timeout tests at its issue slot. WAITC with a legal condition and WSIG go on with TO
clear where the test holds, WSIG consuming the selected flags that are set; else a timeout shorter than a slot sets TO
and the wick goes on, and a longer one makes it wait with its deadline; a signal of the same cycle is not seen by
WSIG's test and ends set. HITCH of a domain that takes no part, or that the wick itself serves, sets TO at once; of a
free domain it takes it at the wick's present epoch; of one that the wick owns it clears TO; of any other a timeout
shorter than a slot sets TO, and with a longer one the wick joins the queue and waits. No other wick and no other
domain changes. SYNC of scope tether on a device whose tether carries no barriers, and of scope ring on a device that
is not live on a ring, arrives nowhere: it sets TO and goes on where its timeout is shorter than a slot, and else waits
until its deadline; nothing else changes. -/
def Obligations.WaitingInstructions : Prop :=
  ((∀ (s : State) (w : WickId) (c : Cond) (v : Fin 8), s.current w = some (.waitc c v) → c.badOperand = false →
    ∃ t, exec (.waitc w) s = .next t ∧ s.WickBecomes w (
      if s.holds w c then { (s.wk w).advance with tout := false }
      else if s.vtime w v < 16 then { (s.wk w).advance with tout := true }
      else { (s.wk w).advance with
        st := .wait (.cond (BitVec.ofNat 6 c.cc.val) c.neg (BitVec.ofNat 9 c.arg.val))
        deadline := some (s.cycle + s.vtime w v) }) t)
  ∧ (∀ (s : State) (w : WickId) (arr : BitVec 16) (m : Fin 65536) (all : Bool) (v : Fin 8),
    s.current w = some (.wsig m all v) →
    ∃ t, exec (.wsig w arr) s = .next t ∧ s.WickBecomes w (
      if m.val = 0 ∨ (if all then (s.wk w).sigs &&& BitVec.ofNat 16 m.val = BitVec.ofNat 16 m.val
          else (s.wk w).sigs &&& BitVec.ofNat 16 m.val ≠ 0) then
        { (s.wk w).advance with tout := false, sigs := ((s.wk w).sigs &&& ~~~(BitVec.ofNat 16 m.val)) ||| arr }
      else if s.vtime w v < 16 then { (s.wk w).advance with tout := true, sigs := (s.wk w).sigs ||| arr }
      else { (s.wk w).advance with
        st := .wait (.flags (BitVec.ofNat 16 m.val) all), deadline := some (s.cycle + s.vtime w v)
        sigs := (s.wk w).sigs ||| arr }) t)
  ∧ ∀ (s : State) (w : WickId) (d : DomId) (v : Fin 8), s.current w = some (.hitch d v) →
    ((s.takesPart d = false ∨ s.pwick d = w) →
      ∃ t, exec (.hitch w) s = .next t ∧ s.WickBecomes w { (s.wk w).advance with tout := true } t)
    ∧ (s.takesPart d = true → s.pwick d ≠ w →
      ((s.dom d).owner = .none → (s.dom d).queue = [] →
        ∃ t, exec (.hitch w) s = .next t ∧ t = { s with wicks := t.wicks, doms := t.doms }
          ∧ t.dom d = { s.dom d with owner := .wick w, epoch := (s.wk w).epoch } ∧ (∀ e, e ≠ d → t.dom e = s.dom e)
          ∧ t.wk w = { (s.wk w).advance with tout := false } ∧ ∀ u, u ≠ w → t.wk u = s.wk u)
      ∧ (¬ ((s.dom d).owner = .none ∧ (s.dom d).queue = []) →
        (s.owns (.wick w) d = true →
          ∃ t, exec (.hitch w) s = .next t ∧ s.WickBecomes w { (s.wk w).advance with tout := false } t)
        ∧ (s.owns (.wick w) d = false → s.vtime w v < 16 →
          ∃ t, exec (.hitch w) s = .next t ∧ s.WickBecomes w { (s.wk w).advance with tout := true } t)
        ∧ (s.owns (.wick w) d = false → 16 ≤ s.vtime w v →
          ∃ t, exec (.hitch w) s = .next t ∧ t = { s with wicks := t.wicks, doms := t.doms }
            ∧ t.dom d = { s.dom d with queue := (s.dom d).queue ++ [w] } ∧ (∀ e, e ≠ d → t.dom e = s.dom e)
            ∧ t.wk w = { (s.wk w).advance with st := .wait (.hitch d), deadline := some (s.cycle + s.vtime w v) }
            ∧ ∀ u, u ≠ w → t.wk u = s.wk u))))
  ∧ (∀ (s : State) (w : WickId) (sc : Fin 4) (id : Fin 256) (v : Fin 8), s.current w = some (.sync sc id v) →
    (sc = 1 ∧ s.tBarriers = false ∨ sc = 2 ∧ s.ringLive = false) →
    ∃ t, exec (.sync w) s = .next t ∧ s.WickBecomes w (
      if s.vtime w v < 16 then
        { (s.wk w).advance with st := .run, deadline := none, released := false, nowhere := true, tout := true }
      else { (s.wk w).advance with
        st := .wait (.barrier (sc == 2) (BitVec.ofNat 8 id.val)), deadline := some (s.cycle + s.vtime w v)
        released := false, nowhere := true }) t)

/-- The ends of waits, of a wick that has a slot and no stop ordered: it runs again with its hint and deadline
withdrawn. A time that is over ends WAIT; a condition that holds ends WAITC with TO clear, and one that does not hold
at the timeout with TO set; flags that satisfy WSIG end it with TO clear and are consumed, a signal of the same cycle
ending set, and flags that do not at the timeout set TO; a hitch that the wick owns ends HITCH with TO clear and takes
the wick from its queue, and one it does not own at the timeout does the same with TO set; a released barrier ends
SYNC with TO clear, and one not released at the timeout with TO set, and the last wick of the device to leave withdraws
its arrival; a logger
that has emptied the buffer takes the stalled event; the rails of a DIS ended by time, or none of them in FALLING, end
its wait. No other wick changes, and of the rest only the queue of the hitch and the arrivals at the barrier. -/
def Obligations.WaitEnds : Prop :=
  ∀ (s : State) (w : WickId), s.mayEnd w = true →
    ((s.wk w).st = .wait .time → ∃ t, exec (.waitEnd w) s = .next t ∧ s.WickBecomes w (s.wk w).woken t)
    ∧ (∀ cc neg arg, (s.wk w).st = .wait (.cond cc neg arg) →
      (s.test w cc.toNat arg.toNat = !neg →
        ∃ t, exec (.waitcSuccess w) s = .next t ∧ s.WickBecomes w { (s.wk w).woken with tout := false } t)
      ∧ (s.test w cc.toNat arg.toNat = neg →
        ∃ t, exec (.waitTimeout w) s = .next t ∧ s.WickBecomes w { (s.wk w).woken with tout := true } t))
    ∧ (∀ m all, (s.wk w).st = .wait (.flags m all) →
      (∀ arr : BitVec 16, (s.wk w).sigTest m all = true →
        ∃ t, exec (.wsigSuccess w arr) s = .next t ∧ s.WickBecomes w
          { (s.wk w).woken with tout := false, sigs := ((s.wk w).sigs &&& ~~~m) ||| arr } t)
      ∧ ((s.wk w).sigTest m all = false →
        ∃ t, exec (.waitTimeout w) s = .next t ∧ s.WickBecomes w { (s.wk w).woken with tout := true } t))
    ∧ (∀ d, (s.wk w).st = .wait (.hitch d) →
      (s.owns (.wick w) d = true →
        ∃ t, exec (.hitchSuccess w) s = .next t ∧ t = { s with wicks := t.wicks, doms := t.doms }
          ∧ t.wk w = { (s.wk w).woken with tout := false } ∧ (∀ u, u ≠ w → t.wk u = s.wk u)
          ∧ t.dom d = { s.dom d with queue := (s.dom d).queue.filter (fun u => u != w) }
          ∧ ∀ e, e ≠ d → t.dom e = s.dom e)
      ∧ (s.owns (.wick w) d = false →
        ∃ t, exec (.waitTimeout w) s = .next t ∧ t = { s with wicks := t.wicks, doms := t.doms }
          ∧ t.wk w = { (s.wk w).woken with tout := true } ∧ (∀ u, u ≠ w → t.wk u = s.wk u)
          ∧ t.dom d = { s.dom d with queue := (s.dom d).queue.filter (fun u => u != w) }
          ∧ ∀ e, e ≠ d → t.dom e = s.dom e))
    ∧ (∀ ring id, (s.wk w).st = .wait (.barrier ring id) →
      ((s.wk w).released = true →
        ∃ t, exec (.syncSuccess w) s = .next t ∧ s.WickBecomes w { (s.wk w).woken with tout := false } t)
      ∧ ((s.wk w).released = false → ((s.wk w).nowhere = true ∨ ∃ u, u ≠ w ∧ u ∈ s.atBarrier ring id) →
        ∃ t, exec (.waitTimeout w) s = .next t ∧ s.WickBecomes w { (s.wk w).woken with tout := true } t)
      ∧ ((s.wk w).released = false → (s.wk w).nowhere = false → (∀ u, u ≠ w → u ∉ s.atBarrier ring id) →
        ∃ t, exec (.waitTimeout w) s = .next t
          ∧ { s with ring := t.ring, tether := t.tether }.WickBecomes w { (s.wk w).woken with tout := true } t
          ∧ (ring = true → t.tether = s.tether
            ∧ arrivals t.ring.sets id = arrivals s.ring.sets id &&& ~~~BitVec.ofNat 64 (2 ^ s.node.toNat)
            ∧ ∀ j, j ≠ id → arrivals t.ring.sets j = arrivals s.ring.sets j)
          ∧ (ring = false → t.ring = s.ring
            ∧ (s.slave = true → t.tether = { s.tether with events := s.tether.events ++ [(false, id)] })
            ∧ (s.slave = false → t.tether = { s.tether with sets := t.tether.sets }
              ∧ arrivals t.tether.sets id = arrivals s.tether.sets id &&& ~~~1
              ∧ ∀ j, j ≠ id → arrivals t.tether.sets j = arrivals s.tether.sets j))))
    ∧ (∀ c v time, (s.wk w).st = .wait (.logger c v time) → (s.wk w).logBuf = none →
      ∃ t, exec (.logStallEnd w) s = .next t ∧ s.WickBecomes w
        { (s.wk w).woken with logBuf := some { code := c, value := v, time := time } } t)
    ∧ ∀ thr l, (s.wk w).st = .wait (.dis thr l) → (thr = true → ∀ r ∈ l, (s.ch r).st ≠ .falling) →
      ∃ t, exec (.disWaitEnd w) s = .next t ∧ s.WickBecomes w (s.wk w).woken t

/-- The wick commands while the fabric serves registers. START of an IDLE, HALTED or FAULT wick that runs no domain's
program, at an address within the image, puts it into RUN there with its stack, loop, outcomes, hint and fault code
cleared and its epoch counted on, V0 to V7 and the signal flags kept; START of another wick is refused and sets
WCMDREF. STOP of a wick in RUN or WAIT that runs no domain's program orders its stop, of a stopped wick it changes
nothing, and of a wick that runs a program it is refused and sets WCMDREF. SIGSET sets one flag. Nothing else changes.
A stop takes effect at the boundary. A running wick that serves no domain is HALTED with its epoch counted on and its
hint withdrawn. On a wick in RUN for which a domain that takes part has ordered the down-program, with no domain
depending on it and none of its rails waiting to rise again, the up-program ends with LAST 3 and the down-program
starts at its entry. No other wick, no rail and no other domain changes. -/
def Obligations.WickCommands : Prop :=
  (∀ (s : State) (who : Who) (w : WickId), s.serves = true →
    (∀ a : BitVec 12, s.progOf w = none → (s.wk w).st ∈ [WickState.idle, .halted, .fault] → a.toNat < s.liveLen →
      ∃ t, exec (.wickStart who w a) s = .next t ∧ s.WickBecomes w { s.wk w with
        st := .run, pc := a, stack := [], lc := 0, tout := false, cref := false, pmbf := false, sfail := false
        hint := none, fcode := 0, deadline := none, stop := false, released := false
        epoch := (s.wk w).epoch + 1 } t)
    ∧ (∀ a : BitVec 12, (s.progOf w ≠ none ∨ (s.wk w).st ∉ [WickState.idle, .halted, .fault] ∨ s.liveLen ≤ a.toNat) →
      ∃ t, exec (.wickStart who w a) s = .next t ∧ s.RegsBecome [aSeqStat] t
        ∧ t.reg aSeqStat = s.reg aSeqStat ||| 1)
    ∧ (s.progOf w = none →
      ((s.wk w).st ∉ [WickState.idle, .halted, .fault] →
        ∃ t, exec (.wickStop who w) s = .next t ∧ s.WickBecomes w { s.wk w with stop := true } t)
      ∧ ((s.wk w).st ∈ [WickState.idle, .halted, .fault] → ∃ t, exec (.wickStop who w) s = .next t ∧ t = s))
    ∧ (s.progOf w ≠ none →
      ∃ t, exec (.wickStop who w) s = .next t ∧ s.RegsBecome [aSeqStat] t ∧ t.reg aSeqStat = s.reg aSeqStat ||| 1)
    ∧ ∀ n : Fin 16, ∃ t, exec (.sigset who w n) s = .next t ∧
        s.WickBecomes w { s.wk w with sigs := (s.wk w).sigs ||| BitVec.ofNat 16 (2 ^ n.val) } t)
  ∧ ((∀ (s : State) (w : WickId), (s.wk w).stop = true → (s.wk w).st = .run → s.progOf w = none →
    (∀ d, (s.dom d).next = none) →
    ∃ t, exec (.wickBoundaryStop w) s = .next t ∧ s.WickCycle w { s.wk w with
        st := .halted, hint := none, deadline := none, stop := false, epoch := (s.wk w).epoch + 1 } t)
  ∧ ∀ (s : State) (w : WickId) (d : DomId), (s.wk w).stop = true → (s.wk w).st = .run → s.pwick d = w →
    s.takesPart d = true → (s.dom d).next = some (.down, 0) → (s.dom d).prog = .up → (∀ e, e ≠ d → (s.dom e).next = none) →
    (∀ e, s.dependsOn e d = false) → (∀ r ∈ s.railsOf d, (s.ch r).st ≠ .retryWait ∧ (s.ch r).pend = false) →
    ∃ t, exec (.wickBoundaryStop w) s = .next t ∧ { s with wicks := t.wicks, doms := t.doms }.CycleOf [] [] t
      ∧ (t.wk w).st = .run ∧ (t.wk w).pc = s.entry d .down ∧ (t.wk w).epoch = (s.wk w).epoch + 2
      ∧ (∀ u, u ≠ w → t.wk u = s.wk u)
      ∧ t.dom d = { s.dom d with prog := .down, last := 3, src := 0, next := none } ∧ ∀ e, e ≠ d → t.dom e = s.dom e)

/-! Rail channels and comparators -/

/-- An over-voltage crossing of a rail in use whose bank is not isolated. Unblanked, it trips a rail that is RISING,
ON, MARGINED, FALLING or in RETRY_WAIT with TRIPCAUSE 1, stops its stage and sets the edge and latch bits of CH_FLAGS;
in OFF it sets the bits, and the state and TRIPCAUSE stay; back across the threshold in ON it sets the edge bit only.
While the comparator is blanked only its output changes. An under-voltage crossing, unblanked and of a rail in use
whose bank is not isolated, trips a rail in ON with TRIPCAUSE 2 and stops its stage unless CH_REACT ignores it, and
then the rail stays on with its power-good lost; a crossing back above the window in RISING, with the ramp and a
preamble over and no over-voltage, turns the rail ON with power-good; a FALLING rail that comes below VOFF goes to OFF
with its discharge and TOFF switched off. Each sets the edge bit, an under-voltage in ON the latch bit too. -/
def Obligations.VoltageWindows : Prop :=
  (∀ (s : State) (r : Rail), s.use r = true → s.isolated (bankOv r) = false →
    ((s.ch r).ov.out = false → (s.ch r).ov.blank = none →
      (s.ch r).st ∈ [RailState.rising, .on, .margined, .falling, .retryWait] →
      ∃ t, exec (.ovCrossing r true []) s = .next t ∧ s.CycleOf [r] [aChFlags r, aChMargin r] t
        ∧ (t.ch r).st = .tripped ∧ (t.ch r).trip = 1 ∧ (t.ch r).started = false ∧ (t.ch r).enCmd = false
        ∧ (t.ch r).pg = false ∧ (t.ch r).ov.out = true ∧ t.reg (aChFlags r) = s.reg (aChFlags r) ||| 0x9)
    ∧ ((s.ch r).ov.out = false → (s.ch r).ov.blank = none → (s.ch r).st = .off →
      ∃ t, exec (.ovCrossing r true []) s = .next t ∧ s.CycleOf [r] [aChFlags r] t
        ∧ (t.ch r).st = .off ∧ (t.ch r).trip = (s.ch r).trip ∧ (t.ch r).ov.out = true
        ∧ t.reg (aChFlags r) = s.reg (aChFlags r) ||| 0x9)
    ∧ (∀ active e, (s.ch r).ov.out ≠ active → (s.ch r).ov.blank = some e →
      ∃ t, exec (.ovCrossing r active []) s = .next t ∧ s.CycleOf [r] [] t
        ∧ t.ch r = { s.ch r with ov := { (s.ch r).ov with out := active }, perturb := (t.ch r).perturb })
    ∧ ((s.ch r).ov.out = true → (s.ch r).ov.blank = none → (s.ch r).st = .on →
      ∃ t, exec (.ovCrossing r false []) s = .next t ∧ s.CycleOf [r] [aChFlags r] t
        ∧ (t.ch r).st = .on ∧ (t.ch r).ov.out = false ∧ t.reg (aChFlags r) = s.reg (aChFlags r) ||| 0x1))
  ∧ (∀ (s : State) (r : Rail), s.use r = true → s.isolated (bankUv r) = false → s.power.state ≠ .hibernate →
    (s.ch r).uv.blank = none →
    ((s.ch r).uv.out = false → (s.ch r).st = .on → s.reactOf r .uv ≠ 0 →
      ∃ t, exec (.uvCrossing r true []) s = .next t ∧ s.CycleOf [r] [aChFlags r] t
        ∧ (t.ch r).st = .tripped ∧ (t.ch r).trip = 2 ∧ (t.ch r).started = false ∧ (t.ch r).pg = false
        ∧ t.reg (aChFlags r) = s.reg (aChFlags r) ||| 0x12)
    ∧ ((s.ch r).uv.out = false → (s.ch r).st = .on → s.reactOf r .uv = 0 → (s.ch r).ov.blank = none →
      ∃ t, exec (.uvCrossing r true []) s = .next t ∧ s.CycleOf [r] [aChFlags r] t
        ∧ (t.ch r).st = .on ∧ (t.ch r).pg = false ∧ t.reg (aChFlags r) = s.reg (aChFlags r) ||| 0x12)
    ∧ ((s.ch r).uv.out = true → (s.ch r).st = .rising → (s.ch r).ov.blank = none → (s.ch r).ov.out = false →
      (s.ch r).ramp = false → (s.ch r).pmbw = false →
      ∃ t, exec (.uvCrossing r false []) s = .next t ∧ s.CycleOf [r] [aChFlags r] t
        ∧ (t.ch r).st = .on ∧ (t.ch r).pg = true ∧ (t.ch r).ton = none
        ∧ t.reg (aChFlags r) = s.reg (aChFlags r) ||| 0x2)
    ∧ ((s.ch r).uv.out = false → (s.ch r).st = .falling → (s.ch r).pend = false →
      ∃ t, exec (.uvCrossing r true []) s = .next t ∧ s.CycleOf [r] [aChFlags r] t
        ∧ (t.ch r).st = .off ∧ (t.ch r).discharge = false ∧ (t.ch r).toff = none
        ∧ t.reg (aChFlags r) = s.reg (aChFlags r) ||| 0x2))

/-- An unblanked over-current crossing of an integrated stage in use whose bank is not isolated: with LATCH 1 it trips
a rail that is RISING or ON with TRIPCAUSE 3 and stops the stage; with LATCH 0, in ON and short of RUN periods, it
cuts the present switching period and counts it. The next period of a stage whose comparator is inactive releases the
cut, and starts the count again where there was none. An AUX crossing that serves no rail sets its event bit, and its
latch bit where it is active and the pin's latch is enabled. -/
def Obligations.OverCurrent : Prop :=
  (∀ (s : State) (r : Rail), s.use r = true → isExt r = false → s.isolated 2 = false → s.power.state ≠ .hibernate →
    (s.ch r).oc.out = false → (s.ch r).oc.blank = none → (s.ch r).leading = none →
    (s.bit (aChOc r) 12 = true → (s.ch r).st ∈ [RailState.rising, .on] →
      ∃ t, exec (.ocCrossing r true []) s = .next t ∧ s.CycleOf [r] [aChFlags r] t
        ∧ (t.ch r).st = .tripped ∧ (t.ch r).trip = 3 ∧ (t.ch r).started = false
        ∧ t.reg (aChFlags r) = s.reg (aChFlags r) ||| 0x24)
    ∧ (s.bit (aChOc r) 12 = false → (s.ch r).st = .on → (s.ch r).started = true → (s.ch r).cycTrip = false →
      (s.fld (aOcRun (r / 4)) (8 * (r % 4) + 7) (8 * (r % 4)) = 0
        ∨ (s.ch r).ocRun + 1 < s.fld (aOcRun (r / 4)) (8 * (r % 4) + 7) (8 * (r % 4))) →
      ∃ t, exec (.ocCrossing r true []) s = .next t ∧ s.CycleOf [r] [aChFlags r] t
        ∧ (t.ch r).st = .on ∧ (t.ch r).cycTrip = true ∧ (t.ch r).ocRun = (s.ch r).ocRun + 1
        ∧ t.reg (aChFlags r) = s.reg (aChFlags r) ||| 0x4))
  ∧ (∀ (s : State) (r : Rail), isExt r = false → (s.ch r).started = true → (s.ch r).st = .on → (s.ch r).oc.out = false →
    ∃ t, exec (.switchingPeriodStart r) s = .next t ∧ s.CycleOf [r] [] t
      ∧ t.ch r = { s.ch r with
        cycTrip := false, leading := (t.ch r).leading, perturb := (t.ch r).perturb
        ocRun := if (s.ch r).cycTrip then (s.ch r).ocRun else 0 })
  ∧ ∀ (s : State) (n : Fin 16) (high active : Bool), s.powered = true →
    s.isolated (if high then 9 else 10) = false → (high = true → s.auxRail n = none) →
    (if high then (s.aux[n]).high else (s.aux[n]).low) ≠ active →
    (high = false → active = true → s.fld (aMonAux n) 9 0 ≠ 0) →
    ∃ t, exec (.auxCrossing n high active []) s = .next t
      ∧ { s with aux := t.aux }.CycleOf [] [aAuxFlg, aAuxLat] t
      ∧ (if high then (t.aux[n]).high else (t.aux[n]).low) = active ∧ (∀ m, m ≠ n → t.aux[m] = s.aux[m])
      ∧ t.reg aAuxFlg = s.reg aAuxFlg ||| bitw (n.val + if high then 16 else 0)
      ∧ t.reg aAuxLat = if active = true ∧ s.bit (aMonAux n) 24 = true then
          s.reg aAuxLat ||| bitw (n.val + if high then 16 else 0) else s.reg aAuxLat

/-- The timers of a channel in use. TON in RISING trips the rail with TRIPCAUSE 4; TOFF in FALLING above VOFF goes on
to DISCHARGING with the rail's active discharge and TOFF started again, in DISCHARGING to OFF with the discharge
off; the pre-bias interval trips with TRIPCAUSE 4; a backoff that ends with the comparators inactive clears the OV and
OC latches, and a rail above VOFF with the pre-bias wait discharges first; the 1 s of stability sets the retry count
to 0; the end of the ramp of a rail with no voltage out of its window turns it ON with power-good. Each sets the flags
of its event. The end of a blanking of a rail in ON, with its bank not isolated. An over-voltage comparator that is
active then counts as a crossing and trips the rail with TRIPCAUSE 1, an under-voltage comparator that CH_REACT does
not ignore trips it with TRIPCAUSE 2; a comparator that is not active sets no bit of CH_FLAGS, and the rail stays ON.
The end of the over-current blanking and of the leading-edge blanking of an inactive comparator only ends it. -/
def Obligations.ChannelTimers : Prop :=
  (∀ (s : State) (r : Rail), s.use r = true →
    ((s.ch r).st = .rising → (s.ch r).ton ≠ none →
      ∃ t, exec (.tonExpiry r []) s = .next t ∧ s.CycleOf [r] [aChFlags r] t
        ∧ (t.ch r).st = .tripped ∧ (t.ch r).trip = 4 ∧ (t.ch r).started = false
        ∧ t.reg (aChFlags r) = s.reg (aChFlags r) ||| 0x100)
    ∧ ((s.ch r).st = .falling → (s.ch r).toff ≠ none → (s.ch r).pend = false → (s.ch r).uv.out = false →
      (s.ch r).uv.blank = none → (s.ch r).uvNew = false → s.fld (aChToff r) 23 0 ≠ 0 →
      ∃ t, exec (.toffExpiry r []) s = .next t ∧ s.CycleOf [r] [aChFlags r] t
        ∧ (t.ch r).st = .discharging ∧ (t.ch r).discharge = true ∧ (t.ch r).toff = s.toffTimer r
        ∧ t.reg (aChFlags r) = s.reg (aChFlags r) ||| (if s.thresholdOrder r then 0x600 else 0x400))
    ∧ ((s.ch r).st = .discharging → (s.ch r).toff ≠ none → (s.ch r).pend = false →
      ∃ t, exec (.toffExpiry r []) s = .next t ∧ s.CycleOf [r] [aChFlags r] t
        ∧ (t.ch r).st = .off ∧ (t.ch r).discharge = false ∧ (t.ch r).toff = none
        ∧ t.reg (aChFlags r) = s.reg (aChFlags r) ||| (if (s.ch r).offtRaised then 0x800 else 0xA00))
    ∧ ((s.ch r).st = .discharging → (s.ch r).toff ≠ none → (s.ch r).pend = true →
      ∃ t, exec (.prebiasTimeout r []) s = .next t ∧ s.CycleOf [r] [aChFlags r] t
        ∧ (t.ch r).st = .tripped ∧ (t.ch r).trip = 4 ∧ (t.ch r).pend = false
        ∧ t.reg (aChFlags r) = s.reg (aChFlags r) ||| 0x100)
    ∧ ((s.ch r).st = .retryWait → (s.ch r).backoff ≠ none → (s.ch r).ov.out = false → (s.ch r).uv.out = false →
      s.ocAct r = false → (s.ch r).uv.blank = none → (s.ch r).uvNew = false → s.bit (aChCfg r) 4 = true →
        s.fld (aChToff r) 23 0 ≠ 0 →
      ∃ t, exec (.backoffExpiry r []) s = .next t ∧ s.CycleOf [r] [aChFlags r] t
        ∧ (t.ch r).st = .discharging ∧ (t.ch r).pend = true ∧ (t.ch r).enCmd = true
        ∧ (t.ch r).discharge = true
        ∧ t.reg (aChFlags r) = s.reg (aChFlags r) &&& ~~~0x28)
    ∧ ((s.ch r).stable ≠ none →
      ∃ t, exec (.retryCountReset r) s = .next t ∧ t = { s with chans := t.chans }
        ∧ t.ch r = { s.ch r with retries := 0, stable := none } ∧ ∀ q, q ≠ r → t.ch q = s.ch q)
    ∧ ((s.ch r).st = .rising → (s.ch r).ramp = true → (s.ch r).uv.blank = none → (s.ch r).uvNew = false → (s.ch r).ov.blank = none →
      (s.ch r).ov.out = false → (s.ch r).uv.out = false → (s.ch r).pmbw = false →
      ∃ t, exec (.softStartEnd r []) s = .next t ∧ s.CycleOf [r] [] t
        ∧ (t.ch r).st = .on ∧ (t.ch r).ramp = false ∧ (t.ch r).pg = true))
  ∧ (∀ (s : State) (r : Rail) (e : Nat), s.use r = true → (s.ch r).st = .on →
    ((s.ch r).ov.blank = some e → s.isolated (bankOv r) = false →
      (∃ t, exec (.blankingEnd (.ov r) true []) s = .next t ∧ s.CycleOf [r] [aChFlags r] t
        ∧ (t.ch r).st = .tripped ∧ (t.ch r).trip = 1 ∧ (t.ch r).ov = { out := true, blank := none }
        ∧ t.reg (aChFlags r) = s.reg (aChFlags r) ||| 0x9)
      ∧ ∃ t, exec (.blankingEnd (.ov r) false []) s = .next t ∧ s.CycleOf [r] [] t
        ∧ (t.ch r).st = .on ∧ (t.ch r).ov = { out := false, blank := none })
    ∧ ((s.ch r).uv.blank = some e → s.isolated (bankUv r) = false →
      (s.reactOf r .uv ≠ 0 →
        ∃ t, exec (.blankingEnd (.uv r) true []) s = .next t ∧ s.CycleOf [r] [aChFlags r] t
          ∧ (t.ch r).st = .tripped ∧ (t.ch r).trip = 2 ∧ t.reg (aChFlags r) = s.reg (aChFlags r) ||| 0x12)
      ∧ ∃ t, exec (.blankingEnd (.uv r) false []) s = .next t ∧ s.CycleOf [r] [] t
        ∧ (t.ch r).st = .on ∧ (t.ch r).uv = { out := false, blank := none })
    ∧ (isExt r = false → s.isolated 2 = false →
      ((s.ch r).oc.blank = some e →
        ∃ t, exec (.blankingEnd (.oc r) false []) s = .next t ∧ s.CycleOf [r] [] t ∧ (t.ch r).st = .on
          ∧ (t.ch r).oc = { out := false, blank := none })
      ∧ ((s.ch r).leading = some e →
        ∃ t, exec (.blankingEnd (.leading r) false []) s = .next t ∧ s.CycleOf [r] [] t ∧ (t.ch r).st = .on
          ∧ (t.ch r).leading = none ∧ (t.ch r).oc = { (s.ch r).oc with out := false })))

/-- The PMBus ports of a device in RUN or DOZE: a pass starts with the first regulator's READ_VOUT on an idle port, or
is due once the running one ends; a poll's first three transactions draw the next; a poll whose last transaction times
out sets PMB_ERR of its rail and clears its bit of PMB_OK. A wick's template transaction to no bound regulator ends
its wait: with PMBF clear and, of a read, the result in its register, or at a timeout with PMBF set. No other port and
no other wick changes. A slew's move takes the margin path one code of the trim, or 16 of a margin current, towards
STEP where it stays short of it, and starts the next interval of SLEW; a margined rail that comes back to 0 enters ON
with its slew over; a PMBus change is complete when its time is over, with the path at STEP; the end of the preamble
of an external rail in use asserts its ENx, with TON and the under-voltage blanking started. No other rail changes. -/
def Obligations.PmbusAndMarginSlews : Prop :=
  (∀ (s : State) (p : Fin 4),
    (∀ (r : Rail) (l : List Rail), s.pollList p = r :: l → s.awake = true → s.ports[p].pass = false →
      s.ports[p].cur = none → s.ports[p].queue = [] →
      ∃ t, exec (.pmbusPollPass p) s = .next t ∧ t = { s with ports := t.ports } ∧ (∀ q, q ≠ p → t.ports[q] = s.ports[q])
        ∧ t.ports[p] = { s.ports[p] with
          pass := true, pollLeft := l, passAt := some (s.cycle + 1000000), got := [], bad := false
          cur := some { owner := .poll r 0, addr := s.pmbAddr r, cmd := 0x8B, data := 0 } })
    ∧ (∀ (r : Rail) (l : List Rail), s.pollList p = r :: l → s.awake = true → s.ports[p].pass = true →
      ∃ t, exec (.pmbusPollPass p) s = .next t ∧ t = { s with ports := t.ports } ∧ (∀ q, q ≠ p → t.ports[q] = s.ports[q])
        ∧ t.ports[p] = { s.ports[p] with due := true })
    ∧ (∀ (r : Rail) (i : Fin 3) (tx : PmbTx) (d : BitVec 16), s.ports[p].cur = some tx →
      tx.owner = .poll r i.castSucc → tx.cmd ≠ 0x79 → s.awake = true → r ∈ s.pollList p → tx.addr = s.pmbAddr r →
      ∃ t, exec (.pmbusTransactionDone p (.done d)) s = .next t ∧ t = { s with ports := t.ports }
        ∧ (∀ q, q ≠ p → t.ports[q] = s.ports[q])
        ∧ t.ports[p] = { s.ports[p] with
          got := s.ports[p].got ++ [d]
          cur := some { owner := .poll r i.succ, addr := s.pmbAddr r, cmd := pollCmd i.succ, data := 0 } })
    ∧ (∀ (r : Rail) (tx : PmbTx), s.ports[p].cur = some tx → tx.owner = .poll r 3 → s.awake = true →
      r ∈ s.pollList p → tx.addr = s.pmbAddr r →
      ∃ t, exec (.smbusTimeout p) s = .next t ∧ s.CycleOf [] [aChFlags r] t ∧ (∀ q, q ≠ p → t.ports[q] = s.ports[q])
        ∧ t.reg (aChFlags r) = s.reg (aChFlags r) ||| 0x8000
        ∧ t.reg (aPmbOk ((r.val - 16) / 32)) = s.reg (aPmbOk ((r.val - 16) / 32)) &&& ~~~(bitw ((r.val - 16) % 32)))
    ∧ ∀ (w : WickId) (read : Bool) (vr : Fin 8) (tx : PmbTx) (d : BitVec 16), s.ports[p].cur = some tx →
      tx.owner = .template w read vr → (s.wk w).st = .wait .pmbus → s.boundRail p tx.addr = none →
      (∃ t, exec (.pmbusTransactionDone p (.done d)) s = .next t ∧ t = { s with ports := t.ports, wicks := t.wicks }
        ∧ t.wk w = { s.wk w with
          st := .run, pmbf := false, hint := none
          v := if read then (s.wk w).v.set vr (if tx.cmd = 0x01 then (d &&& 0xFF).setWidth 32 else d.setWidth 32)
            else (s.wk w).v } ∧ ∀ u, u ≠ w → t.wk u = s.wk u)
      ∧ ∃ t, exec (.smbusTimeout p) s = .next t ∧ t = { s with ports := t.ports, wicks := t.wicks }
        ∧ t.wk w = { s.wk w with st := .run, pmbf := true, hint := none } ∧ ∀ u, u ≠ w → t.wk u = s.wk u)
  ∧ ((∀ (s : State) (r : Rail), (s.ch r).slew = true → (s.ch r).slewAt ≠ none → s.pmbPath r = false →
    ((s.ch r).path + (if isExt r then 16 else 1) < s.step r →
      ∃ t, exec (.marginSlewMove r) s = .next t ∧ s.CycleOf [r] [] t ∧ t.ch r = { s.ch r with
        path := (s.ch r).path + (if isExt r then 16 else 1), slewAt := some (s.cycle + s.slewT r)
        perturb := (t.ch r).perturb })
    ∧ (s.step r + (if isExt r then 16 else 1) < (s.ch r).path →
      ∃ t, exec (.marginSlewMove r) s = .next t ∧ s.CycleOf [r] [] t ∧ t.ch r = { s.ch r with
        path := (s.ch r).path - (if isExt r then 16 else 1), slewAt := some (s.cycle + s.slewT r)
        perturb := (t.ch r).perturb })
    ∧ (s.step r = 0 → (s.ch r).st = .margined → (s.ch r).path = 1 ∨ (s.ch r).path = -1 →
      ∃ t, exec (.marginSlewMove r) s = .next t ∧ s.CycleOf [r] [] t
        ∧ (t.ch r).st = .on ∧ (t.ch r).path = 0 ∧ (t.ch r).slew = false ∧ (t.ch r).slewAt = none))
  ∧ (∀ (s : State) (r : Rail), (s.ch r).slew = true → (s.ch r).slewAt ≠ none → s.pmbPath r = true → s.step r ≠ 0 →
    ∃ t, exec (.pmbusSlewComplete r) s = .next t ∧ s.CycleOf [r] [] t ∧ (t.ch r).st = (s.ch r).st
      ∧ (t.ch r).path = s.step r ∧ (t.ch r).steps = [] ∧ (t.ch r).slew = false ∧ (t.ch r).slewAt = none)
  ∧ ∀ (s : State) (r : Rail), s.use r = true → (s.ch r).pmbw = true → s.preambleLeft r = false → (s.ch r).st = .rising →
    isExt r = true → s.blankLen r ≠ 0 → (s.ch r).pg = false →
    ∃ t, exec (.preambleEnd r) s = .next t ∧ s.CycleOf [r] [] t ∧ (t.ch r).st = .rising ∧ (t.ch r).pmbw = false
      ∧ (t.ch r).started = true ∧ (t.ch r).ton = s.tonTimer r ∧ (t.ch r).uv.blank = some (s.cycle + s.blankLen r))

/-- Writes of CH_FLAGS and CH_MARGIN while the fabric serves registers. Ones clear the flags of a rail in ON whose
comparators are inactive, but for the bits that the device sets in the same cycle; with TRIPCAUSE 1 the cleared
over-voltage latch takes a tripped rail with inactive comparators to FALLING with TOFF started. A STEP within range,
by a requester with the right, margins a rail that is on and starts its slew; one out of range or without the right
leaves CH_MARGIN and sets the refusal flag. -/
def Obligations.ChannelWrites : Prop :=
  ∀ (s : State) (who : Who) (r : Rail) (v hw : Word), s.serves = true →
    ((s.ch r).st = .on → (s.ch r).ov.out = false → (s.ch r).uv.out = false → s.ocAct r = false →
      ∃ t, exec (.chFlagsWrite who r v hw) s = .next t ∧ s.CycleOf [] [aChFlags r] t
        ∧ t.reg (aChFlags r) = s.reg (aChFlags r) &&& ~~~(v &&& ~~~hw &&& 0x1BF3F))
    ∧ ((s.ch r).st = .tripped → (s.ch r).trip = 1 → (s.ch r).ov.out = false → (s.ch r).uv.out = false →
      s.ocAct r = false → (s.ch r).uv.blank = none → (s.ch r).uvNew = false → v.getLsbD 3 = true →
      hw.getLsbD 3 = false → s.fld (aChToff r) 23 0 ≠ 0 →
      ∃ t, exec (.chFlagsWrite who r v hw) s = .next t ∧ s.CycleOf [r] [aChFlags r] t
        ∧ (t.ch r).st = .falling ∧ (t.ch r).toff = s.toffTimer r
        ∧ t.reg (aChFlags r) = s.reg (aChFlags r) &&& ~~~(v &&& ~~~hw &&& 0x1BF3F))
    ∧ (s.use r = true → (s.ch r).st = .on → s.pmbPath r = false → v.getLsbD 30 = false →
      s.bit (aChMargin r) 30 = false → v.getLsbD 31 = s.bit (aChMargin r) 31 →
      sgn 12 (wfld v 11 0) ≠ s.step r → s.stepOk r false (sgn 12 (wfld v 11 0)) = true → s.stepRight who r = true →
      ∃ t, exec (.chMarginWrite who r v) s = .next t ∧ s.CycleOf [r] [aChMargin r] t ∧ (t.ch r).st = .margined
        ∧ t.step r = sgn 12 (wfld v 11 0) ∧ (t.ch r).slew = true ∧ (t.ch r).path = (s.ch r).path)
    ∧ (sgn 12 (wfld v 11 0) ≠ s.step r →
      s.stepRight who r = false ∨ s.stepOk r (isExt r && v.getLsbD 30) (sgn 12 (wfld v 11 0)) = false →
      ∃ t, exec (.chMarginWrite who r v) s = .next t ∧ s.RegsBecome [aChFlags r] t
        ∧ t.reg (aChFlags r) = s.reg (aChFlags r) ||| 0x2000)

/-- The self-test, a bank at a time. The bank whose turn it is, not skipped, is isolated with its phase at 0; each
phase follows the one before, and a tied phase marks the comparators in use that do not show the tied level; at the
end, where every comparator in use is restored as it was before isolation and as its cover left it, the results join
the bank's word of ST_FAIL and the bank serves again. -/
def Obligations.SelfTestRuns : Prop :=
  (∀ (s : State) (b : Fin 11), s.bit aStCtl 31 = true → s.dueBank = some b.val → s.bit aStStat 31 = false →
    s.awake = true → s.skipTurn b = false →
    ∃ t, exec (.selfTestTurn b) s = .next t ∧ t = { s with regs := t.regs, selfTest := t.selfTest }
      ∧ (∀ a, a ≠ aStStat → t.reg a = s.reg a) ∧ t.isolated b = true ∧ t.selfTest.phase = 0
      ∧ t.selfTest.skips[b] = 0 ∧ t.selfTest.next = b.val + 1)
  ∧ (∀ (s : State) (out : BitVec 16), s.bit aStStat 31 = true → s.selfTest.phase < 11 →
    ∃ t, exec (.selfTestPhase out) s = .next t ∧ t = { s with selfTest := t.selfTest }
      ∧ t.selfTest.phase = s.selfTest.phase + 1
      ∧ (s.selfTest.phase ∈ [3, 7] → s.bit aStCtl 29 = true → bankAbove s.testBank = true →
        t.selfTest.fail = s.selfTest.fail ||| (~~~out &&& bits16 (s.cmpUsed s.testBank))))
  ∧ ∀ (s : State) (out : BitVec 16), s.bit aStStat 31 = true → s.selfTest.phase = 11 → s.testBank < 11 →
    (∀ i, s.cmpUsed s.testBank i = true →
      s.cmpOut s.testBank i = out.getLsbD i.val ∧ s.selfTest.pre.getLsbD i.val = out.getLsbD i.val) →
    ∃ t, exec (.selfTestBankEnd out) s = .next t
      ∧ { s with selfTest := t.selfTest }.CycleOf [] [aStFail s.testBank, aStStat] t
      ∧ t.bit aStStat 31 = false
      ∧ t.reg (aStFail s.testBank)
        = s.reg (aStFail s.testBank) ||| ((s.selfTest.nj.setWidth 32 <<< 16) ||| s.selfTest.fail.setWidth 32)

/-! Rail commands of the wicks -/

/-- A rail command of a wick to a rail over which it has no command right sets CREF, and no channel acts: of EN, DIS,
DISCH and MARG the rail they name, of ENS and DISS any rail of their set. The wick goes on to the following
instruction. DISCH, by a wick with the command right, of a rail in use in OFF above VOFF: it enters DISCHARGING with
its active discharge, and TOFF runs. MARG, by a wick with the command right, of a rail that is ON: with a STEP in the
channel's range it takes the rail to MARGINED with STEP written and its slew started; a STEP out of the range sets the
channel's refusal flag and CREF. No other rail and no other wick changes. -/
def Obligations.DischargeAndMargin : Prop :=
  (∀ (s : State) (w : WickId) (r : Rail), s.hasRight w r = false →
    (∀ a, s.current w = some (.en a) → s.railOf w a = r →
      ∃ t, exec (.en w []) s = .next t ∧ s.WickCycle w { (s.wk w).advance with cref := true } t)
    ∧ (∀ a, s.current w = some (.dis a) → s.railOf w a = r →
      ∃ t, exec (.dis w []) s = .next t ∧ s.WickCycle w { (s.wk w).advance with cref := true } t)
    ∧ (∀ a, s.current w = some (.disch a) → s.railOf w a = r →
      ∃ t, exec (.disch w []) s = .next t ∧ s.WickCycle w { (s.wk w).advance with cref := true } t)
    ∧ (∀ a b, s.current w = some (.marg a b) → s.railOf w a = r →
      ∃ t, exec (.marg w []) s = .next t ∧ s.WickCycle w { (s.wk w).advance with cref := true } t)
    ∧ (∀ k, s.current w = some (.ens k) → r ∈ s.setRails k →
      ∃ t, exec (.ens w []) s = .next t ∧ s.WickCycle w { (s.wk w).advance with cref := true } t)
    ∧ ∀ k, s.current w = some (.diss k) → r ∈ s.setRails k →
      ∃ t, exec (.diss w []) s = .next t ∧ s.WickCycle w { (s.wk w).advance with cref := true } t)
  ∧ ((∀ (s : State) (w : WickId) (a : Ref Rail) (r : Rail), s.current w = some (.disch a) → s.railOf w a = r →
    s.hasRight w r = true → s.use r = true → (s.ch r).st = .off → (s.ch r).uv.out = false → (s.ch r).uv.blank = none →
    (s.ch r).uvNew = false → s.fld (aChToff r) 23 0 ≠ 0 →
    ∃ t, exec (.disch w []) s = .next t ∧ { s with wicks := t.wicks }.CycleOf [r] [] t
      ∧ (t.ch r).st = .discharging ∧ (t.ch r).discharge = true ∧ (t.ch r).toff = s.toffTimer r
      ∧ t.wk w = { (s.wk w).advance with cref := false } ∧ ∀ u, u ≠ w → t.wk u = s.wk u)
  ∧ ∀ (s : State) (w : WickId) (a : Ref Rail) (b : Ref (Fin 4096)) (r : Rail) (v : Int),
    s.current w = some (.marg a b) → s.railOf w a = r → sgn 12 (s.operand w 12 b) = v → s.hasRight w r = true →
    (s.ch r).st = .on →
    (s.use r = true → s.pmbPath r = false → s.stepOk r false v = true → v ≠ s.step r →
      ∃ t, exec (.marg w []) s = .next t ∧ { s with wicks := t.wicks }.CycleOf [r] [aChMargin r] t
        ∧ (t.ch r).st = .margined ∧ t.step r = v ∧ (t.ch r).slew = true
        ∧ t.wk w = { (s.wk w).advance with cref := false } ∧ ∀ u, u ≠ w → t.wk u = s.wk u)
    ∧ (s.stepOk r (s.pmbPath r) v = false →
      ∃ t, exec (.marg w []) s = .next t ∧ { s with wicks := t.wicks }.CycleOf [] [aChFlags r] t
        ∧ t.reg (aChFlags r) = s.reg (aChFlags r) ||| 0x2000
        ∧ t.wk w = { (s.wk w).advance with cref := true } ∧ ∀ u, u ≠ w → t.wk u = s.wk u))

/-- EN of a rail and ENS of a set, by a wick that runs no down-program: rails in OFF below VOFF, in use, under the
wick's command right and not bound to a regulator go to RISING with their stage started, TON running and their retry
count 0; CREF clears, and no other rail acts. DIS of a rail and DISS of a set, by a wick that runs no down-program:
rails in use that are RISING, ON or MARGINED, under the wick's command right, go to FALLING with their stage stopped
and TOFF running; CREF clears, and no other rail acts. DIS by the wick of a down-program of a rail in ON does so too,
and the wick waits, until the rail's TOFF at the latest. -/
def Obligations.EnableAndDisable : Prop :=
  (∀ (s : State) (w : WickId), s.downOf w = none →
    (∀ a, s.current w = some (.en a) → s.mayEnable w (s.railOf w a) →
      ∃ t, exec (.en w []) s = .next t ∧ s.Enabled w [s.railOf w a] t)
    ∧ ∀ k, s.current w = some (.ens k) → (∀ r ∈ s.setRails k, s.mayEnable w r) →
      ∃ t, exec (.ens w []) s = .next t ∧ s.Enabled w (s.setRails k) t)
  ∧ ((∀ (s : State) (w : WickId), s.downOf w = none →
    (∀ a, s.current w = some (.dis a) → s.mayDisable w (s.railOf w a) →
      ∃ t, exec (.dis w []) s = .next t ∧ s.Disabled w [s.railOf w a] t)
    ∧ ∀ k, s.current w = some (.diss k) → (∀ r ∈ s.setRails k, s.mayDisable w r) →
      ∃ t, exec (.diss w []) s = .next t ∧ s.Disabled w (s.setRails k) t)
  ∧ ∀ (s : State) (w : WickId) (a : Ref Rail) (d e : DomId) (r : Rail), s.current w = some (.dis a) → s.railOf w a = r →
    s.downOf w = some d → s.hasRight w r = true → s.domOf r = some e → s.use r = true → (s.ch r).st = .on →
    ∃ t, exec (.dis w []) s = .next t ∧ { s with wicks := t.wicks }.CycleOf [r] [] t ∧ (t.ch r).st = .falling
      ∧ t.wk w = { (s.wk w).advance with
        cref := false, st := .wait (.dis (s.bit (aDCfg d) 30) [r]), deadline := s.toffTimer r }
      ∧ ∀ u, u ≠ w → t.wk u = s.wk u)

/-- SIG within the device, as one that names the device's own tether address or ring node, sets one flag of one wick; of
scope tether a slave keeps it for its next report and a master sends it to a present slave of version 2; of scope ring a
node sends it; the wick then waits. It fails at once, with SFAIL, towards another slave and on a node that is not live.
UNHITCH by the owner passes the hitch of a domain that takes part on to another wick at the head of the queue, at that
wick's epoch, or frees it, and one by another wick sets CREF. TLM of a point of the map, with nothing else queued and a
conversion running, withdraws its FRESH and queues it. RSTO writes the output's override, PULSE with a pulse of the stretch
length and without one as AUTO, and a write of MRG_RSTOVR in its cycle applies first. PMB of a valid template is refused
with CREF and PMBF where it writes to a bound regulator without the right or would switch one by OPERATION; else it puts
its transaction, with its data, on an idle port, or behind those that wait, and waits for it. The wick goes on to the
following instruction, and nothing else changes. -/
def Obligations.OtherWickCommands : Prop :=
  (∀ (s : State) (w tw : WickId) (nd : Fin 64) (n : Fin 16),
    (s.current w = some (.sig 0 nd tw n) → ∃ t, exec (.sig w) s = .next t ∧ s.Signals w (s.wk w).advance tw n t)
    ∧ (s.current w = some (.sig 1 nd tw n) → nd.val < 16 →
      (nd.val = s.taddr.toNat →
        ∃ t, exec (.sig w) s = .next t ∧ s.Signals w { (s.wk w).advance with sfail := false } tw n t)
      ∧ (nd.val ≠ s.taddr.toNat → s.slave = true →
        ∃ t, exec (.sig w) s = .next t
          ∧ { s with tether := { s.tether with
              sigs := s.tether.sigs ++ [(w, ({ target := Fin.ofNat 16 nd.val, wick := tw, num := n } : TetherSig))]
              } }.WickBecomes w
            { (s.wk w).advance with st := .wait (.remote false (BitVec.ofNat 6 nd.val)) } t)
      ∧ (nd.val ≠ s.taddr.toNat → s.slave = false →
        (s.tMaster = true → s.present (Fin.ofNat 16 nd.val) = true → s.slvVer (Fin.ofNat 16 nd.val) = 2 →
          ∃ t, exec (.sig w) s = .next t ∧ { s with wicks := t.wicks }.Asks [(Fin.ofNat 16 nd.val, .sig tw n,
              .sig (some w) 0 ({ target := Fin.ofNat 16 nd.val, wick := tw, num := n } : TetherSig))] t
            ∧ t.wk w = { (s.wk w).advance with st := .wait (.remote false (BitVec.ofNat 6 nd.val)) }
            ∧ ∀ u, u ≠ w → t.wk u = s.wk u)
        ∧ (s.tMaster = false ∨ s.present (Fin.ofNat 16 nd.val) = false ∨ s.slvVer (Fin.ofNat 16 nd.val) ≠ 2 →
          ∃ t, exec (.sig w) s = .next t ∧ s.WickBecomes w { (s.wk w).advance with sfail := true } t)))
    ∧ (s.current w = some (.sig 2 nd tw n) →
      (s.ringLive = false → ∃ t, exec (.sig w) s = .next t ∧ s.WickBecomes w { (s.wk w).advance with sfail := true } t)
      ∧ (s.ringLive = true → nd.val = s.node.toNat →
        ∃ t, exec (.sig w) s = .next t ∧ s.Signals w { (s.wk w).advance with sfail := false } tw n t)
      ∧ (s.ringLive = true → nd.val ≠ s.node.toNat → (∀ b, s.idlePort b) →
        ∃ t, exec (.sig w) s = .next t
          ∧ { s with ring := { s.ring.sends s.cycle (s.rFrame (BitVec.ofNat 8 nd.val) (.sig tw n)) with
              sigs := s.ring.sigs ++ [(w, s.ring.seq)] } }.WickBecomes w
            { (s.wk w).advance with st := .wait (.remote true (BitVec.ofNat 6 nd.val)) } t)))
  ∧ (∀ (s : State) (w : WickId) (d : DomId), s.current w = some (.unhitch d) →
    (s.owns (.wick w) d = false →
      ∃ t, exec (.unhitch w) s = .next t ∧ s.WickBecomes w { (s.wk w).advance with cref := true } t)
    ∧ (s.owns (.wick w) d = true → (s.dom d).queue = [] →
      ∃ t, exec (.unhitch w) s = .next t ∧ t = { s with wicks := t.wicks, doms := t.doms }
        ∧ t.wk w = { (s.wk w).advance with cref := false } ∧ (∀ u, u ≠ w → t.wk u = s.wk u)
        ∧ (t.dom d).owner = .none ∧ (t.dom d).epoch = 0 ∧ (t.dom d).pendUp = false ∧ ∀ e, e ≠ d → t.dom e = s.dom e)
    ∧ ∀ v l, s.owns (.wick w) d = true → s.takesPart d = true → (s.dom d).queue = v :: l → v ≠ w →
      ∃ t, exec (.unhitch w) s = .next t ∧ t = { s with wicks := t.wicks, doms := t.doms }
        ∧ (t.dom d).owner = .wick v ∧ (t.dom d).epoch = (s.wk v).epoch ∧ (t.dom d).queue = l
        ∧ t.wk w = { (s.wk w).advance with cref := false } ∧ (∀ u, u ≠ w → t.wk u = s.wk u)
        ∧ ∀ e, e ≠ d → t.dom e = s.dom e)
  ∧ (∀ (s : State) (w : WickId) (p : Ref (Fin 128)) (q : Point), s.current w = some (.tlm p) → s.operand w 7 p = q.val →
    s.scan.queue = [] → s.scan.running ≠ none → s.scan.waiting = [] → s.lhBusy = false →
    ∃ t, exec (.tlm w) s = .next t ∧ t = { s with regs := t.regs, wicks := t.wicks, scan := { s.scan with queue := [q] } }
      ∧ t.wk w = (s.wk w).advance ∧ t.reg (aVal q) = s.reg (aVal q) &&& ~~~(bitw 31)
      ∧ (∀ a, a ≠ aVal q → t.reg a = s.reg a) ∧ ∀ u, u ≠ w → t.wk u = s.wk u)
  ∧ (∀ (s : State) (w : WickId) (act : Fin 4) (k : Fin 8), s.current w = some (.rsto act k) →
    (act ≠ 3 →
      ∃ t, exec (.rsto w none) s = .next t
        ∧ { s with wicks := t.wicks }.OverrideIs k (if act = 2 ∧ s.rstStretch k = 0 then 0 else act.val)
          (if act = 2 ∧ s.rstStretch k ≠ 0 then some (s.cycle + s.rstStretch k) else none) t
        ∧ t.wk w = (s.wk w).advance ∧ ∀ u, u ≠ w → t.wk u = s.wk u)
    ∧ ∀ (who : Who) (v hw : Word), s.serves = true → ∀ u, exec (.registerWrite who aRstOvr v hw) s = .next u →
      exec (.rsto w (some v)) s = exec (.rsto w none) u)
  ∧ ∀ (s : State) (w : WickId) (k : Fin 32) (vr : Fin 8) (p : Fin 4), s.current w = some (.pmb k vr) →
    s.bit (aPmbt k) 31 = true → s.fld (aPmbt k) 30 29 = p.val →
    let ty := s.fld (aPmbt k) 21 19
    let addr : BitVec 7 := (s.reg (aPmbt k)).extractLsb' 22 7
    let cmd : Byte := (s.reg (aPmbt k)).extractLsb' 0 8
    let tx : PmbTx := {
      owner := .template w (3 ≤ ty) vr, addr := addr, cmd := cmd
      data := if ty = 1 then (s.vreg w vr).extractLsb' 0 16 &&& 0xFF else if ty = 2 then (s.vreg w vr).extractLsb' 0 16 else 0 }
    ((ty < 3 ∧ (∃ r, s.boundRail p addr = some r ∧ s.hasRight w r = false)
        ∨ cmd = 1 ∧ ty = 1 ∧ (s.vreg w vr).extractLsb' 6 2 ≠ 2) →
      ∃ t, exec (.pmb w) s = .next t ∧ s.WickBecomes w { (s.wk w).advance with cref := true, pmbf := true } t)
    ∧ ((3 ≤ ty ∨ ∀ r, s.boundRail p addr = some r → s.hasRight w r = true) →
      (cmd = 1 → ty = 1 → (s.vreg w vr).extractLsb' 6 2 = 2) → (s.ports[p].cur = none → s.ports[p].queue = []) →
      ∃ t, exec (.pmb w) s = .next t ∧ t = { s with wicks := t.wicks, ports := t.ports }
        ∧ t.wk w = { (s.wk w).advance with cref := false, st := .wait .pmbus } ∧ (∀ u, u ≠ w → t.wk u = s.wk u)
        ∧ t.ports[p] = (if s.ports[p].cur = none then { s.ports[p] with cur := some tx }
          else { s.ports[p] with queue := s.ports[p].queue ++ [tx] })
        ∧ ∀ q, q ≠ p → t.ports[q] = s.ports[q])

/-- COMMIT and ACTIVATE while the fabric serves registers. COMMIT is refused with the cause in IMGERR, or takes the image
that SEQ_IMG, SEQ_IMGCRC and SEQ_IMGVER name into its check; ACTIVATE is refused with the cause, or begins to load the
pending image once no wick runs. An image whose CRC differs is refused at the end of the check, and so is every image
while block protection covers the commit record, with PROTREF; of one that passes the commit record is written and its
store begun, and nothing else of the SRAM changes; when that store has ended the image is pending. The end of the loading
replaces the instruction memory by the slot's words, clears PENDSLOT and leaves the SRAM and every rail. -/
def Obligations.Images : Prop :=
  (∀ (s : State) (who : Who) (act : Bool), s.serves = true →
    (s.lockProg = true ∨ s.fld aKpsCtl 31 30 ≠ 0 →
      ∃ t, exec (.commit who act) s = .next t ∧ s.RegsBecome [aSeqStat] t ∧ t.fld aSeqStat 7 5 = 4)
    ∧ (s.lockProg = false → s.fld aKpsCtl 31 30 = 0 → (s.fld aSeqImg 12 0 = 0 ∨ 4096 < s.fld aSeqImg 12 0) →
      ∃ t, exec (.commit who act) s = .next t ∧ s.RegsBecome [aSeqStat] t ∧ t.fld aSeqStat 7 5 = 1)
    ∧ (s.lockProg = false → s.fld aKpsCtl 31 30 = 0 → 0 < s.fld aSeqImg 12 0 → s.fld aSeqImg 12 0 ≤ 4096 →
      (s.bit aSeqImg 31 = s.bit aSeqLive 31 →
        ∃ t, exec (.commit who act) s = .next t ∧ s.RegsBecome [aSeqStat] t ∧ t.fld aSeqStat 7 5 = 3)
      ∧ (s.bit aSeqImg 31 ≠ s.bit aSeqLive 31 →
        ∃ t, exec (.commit who act) s = .next t
          ∧ t = { s with keeper := { s.keeper with
            commit := true, commitAct := act, commitStore := none
            img := (if s.bit aSeqImg 31 then 1 else 0, s.fld aSeqImg 12 0, s.reg aSeqImgCrc, s.reg aSeqImgVer) } }))
    ∧ (s.lockProg = false → (∀ w, (s.wk w).st = .halted) → s.bit aSeqStat 29 = true →
      ∃ t, exec (.activate who) s = .next t ∧ (∀ a, a ≠ aSeqStat → t.reg a = s.reg a) ∧ t.fld aSeqStat 7 5 = 0
        ∧ t = { s with regs := t.regs, keeper := { s.keeper with activating := true } })
    ∧ ∀ w, s.lockProg = false → (s.wk w).st = .run →
      ∃ t, exec (.activate who) s = .next t ∧ s.RegsBecome [aSeqStat] t ∧ t.fld aSeqStat 7 5 = 5)
  ∧ (∀ (s : State) (k : Fin 2) (n : Nat) (crc ver : Word), s.keeper.commit = true → s.keeper.img = (k, n, crc, ver) →
    s.fabricOn = true →
    (s.keeper.commitStore = none → s.imageCrc (k == 1) n ≠ crc →
      ∃ t, exec .commitComplete s = .next t ∧ t.fld aSeqStat 7 5 = 2 ∧ (∀ a, a ≠ aSeqStat → t.reg a = s.reg a)
        ∧ t = { s with regs := t.regs, keeper := { s.keeper with commit := false, commitAct := false } })
    ∧ (s.keeper.commitStore = none → s.imageCrc (k == 1) n = crc → s.keeper.locked = false →
      s.bpCovers (cmtBase false) = true →
      ∃ t, exec .commitComplete s = .next t ∧ t.fld aSeqStat 7 5 = 4 ∧ t.bit aKpsStat 3 = true
        ∧ (∀ a, a ≠ aSeqStat → a ≠ aKpsStat → t.reg a = s.reg a)
        ∧ t = { s with regs := t.regs, keeper := { s.keeper with commit := false, commitAct := false } })
    ∧ (s.keeper.commitStore = none → s.imageCrc (k == 1) n = crc → s.keeper.locked = false →
      s.bpCovers (cmtBase false) = false → s.keeper.run = none →
      ∃ t, exec .commitComplete s = .next t ∧ t = { s with sram := t.sram, keeper := t.keeper }
        ∧ t.keeper.commit = true ∧ t.keeper.commitStore = some (s.keeper.number + 1)
        ∧ t.keeper.number = s.keeper.number + 1 ∧ t.keeper.last = some .record
        ∧ ∃ b, (∀ c, s.cmtChoice.copy? = some c → b = !c) ∧ t.sramWord (cmtBase b) = 0x4B500020
          ∧ t.sramWord (cmtBase b + 12) = crc ∧ t.sramWord (cmtBase b + 16) = ver
          ∧ (∃ j, t.keeper.run = some j ∧ j.kind = .record ∧ j.left = [(cmtBase b / 0x400, true)])
          ∧ ∀ a, (a < cmtBase b ∨ cmtBase b + 0x20 ≤ a) → t.byte a = s.byte a)
    ∧ ∀ m, s.keeper.commitStore = some m → s.keeper.commitAct = false →
      m < s.keeper.number ∨ (m = s.keeper.number ∧ s.keeper.run = none) →
      ∃ t, exec .commitComplete s = .next t ∧ t.bit aSeqStat 29 = true ∧ t.fld aSeqStat 7 5 = 0
        ∧ (∀ a, a ≠ aSeqStat → t.reg a = s.reg a)
        ∧ t = { s with regs := t.regs, keeper := { s.keeper with commit := false, commitStore := none } })
  ∧ ∀ (s : State) (b : Bool), s.keeper.activating = true → s.fabricOn = true → s.cmtChoice.copy? = some b →
    ∃ t, exec .activateDone s = .next t ∧ t.keeper.activating = false
      ∧ (∀ i, t.imemWord i = if i < s.cmtLen b then s.sramWord (slotBase (s.cmtSlot b) + 4 * i) else 0)
      ∧ t.liveLen = s.cmtLen b % 8192 ∧ t.reg aSeqLiveVer = s.cmtVer b ∧ t.bit aSeqStat 29 = false
      ∧ (∀ a, t.byte a = s.byte a) ∧ t.chans = s.chans
      ∧ ((∀ w d, (s.wk w).st ≠ .wait (.hitch d)) → t.wicks = s.wicks)

/-! Telemetry -/

/-- The scan of a device in RUN. A boundary of the grid outside a frame takes the settings over and starts a frame of an
enabled scan without bursts, with no word converted yet; one that ends a frame of an enabled raw capture, with no freeze
pending and no frame waiting, makes the frame due in the half being written, and the frame index goes on. A burst's start
makes its frames due from the start of its PERIOD, and the next PERIOD follows in phase; where a boundary is at hand, as many
frames as its settings give. The base conversion of a point
that the frame has not converted yet gives the frame its word, sets LAST and FRESH of the point and adds to its filter's
block, and no other point changes; a die temperature also tells whether the die is hot; the points are all but the
input's, the pack's and the pack temperature's. The words of a due frame go to their places in its half, an unconverted
one of ADC15 as 0 where no measurement ran; a lost word's place, and every other address, keeps its content, and a loss is
recorded with the frame's index. The commands of the telemetry block while the fabric serves registers. FREEZE records the
ring time of its frame and the frames still to end, and with none the writer moves to the other half at once; a FREEZE of
a frozen or pending capture only sets MISSED. The freeze is complete once its last frame is written. UNFREEZE clears
FROZEN, and has no effect while PENDING. CLRMM and CLRPK restore the limits of a point, CLRMM also of all; CLRMM of a
point beyond 123 is refused with CFG_REF. A write of TLM_FILTp within range restarts the filter; a write of TLM_CTL is
stored; the configuration lock refuses both with CFG_REF. Nothing else changes. -/
def Obligations.TelemetryCommands : Prop :=
  ((∀ s : State, s.awake = true → s.power.state = .run → s.onGrid = true → s.scan.due = none → s.scan.inFrame = false →
    s.bit aTlmCtl 31 = true → s.bit aTlmCtl 30 = false →
    ∃ t, exec .scanFrame s = .next t ∧ t = { s with scan := t.scan } ∧ t.scan.ctl = s.reg aTlmCtl
      ∧ t.scan.inFrame = true ∧ t.scan.frameTime = s.ring.time ∧ t.scan.nextAt = some (s.cycle + 400)
      ∧ t.scan.frame = s.scan.frame ∧ t.scan.due = none ∧ t.scan.cur.cover = s.fld aStStat 30 27
      ∧ t.scan.cur.words = Vector.replicate 256 none)
  ∧ (∀ s : State, s.awake = true → s.power.state = .run → s.onGrid = true → s.scan.due = none → s.scan.inFrame = true →
    s.scan.frameDoze = false → s.scan.frameBoot = false → s.bit aRawCtl 31 = true → s.bit aRawStat 29 = false →
    (∀ i : Fin 3, s.scan.refBad[i] < 16) →
    ∃ t, exec .scanFrame s = .next t ∧ t = { s with scan := t.scan }
      ∧ t.scan.due = some (s.bit aRawStat 31, s.scan.frame) ∧ t.scan.frame = (s.scan.frame + 1) % 64
      ∧ t.scan.prev = s.scan.cur)
  ∧ (∀ (s : State) (b : Nat) (c : Word), s.scan.burstAt = some b → b ≤ s.cycle →
    s.cycle < b + 100000 * wfld s.scan.ctl 15 0 →
    c = (if s.scan.nextAt.all (fun k => k ≤ s.cycle) then s.reg aTlmCtl else s.scan.ctl) →
    ∃ t, exec .burstStart s = .next t ∧ t = { s with scan := { s.scan with
      burstTo := max s.scan.burstTo (b + 400 * wfld c 23 16)
      burstAt := some (b + 100000 * wfld s.scan.ctl 15 0) } })
  ∧ (∀ (s : State) (p : Point) (code : BitVec 16), s.scans = true → s.bit aStStat 31 = false → s.scan.inFrame = true →
    s.scan.cur.words[p.val]? = some none → p ≠ 112 → p ≠ 114 → p ≠ 115 → p.val ≠ 96 + s.fld aRsvCfg 22 19 →
    ∃ t, exec (.adcConversion p code .base false) s = .next t
      ∧ { s with filters := t.filters, power := { s.power with hot := t.power.hot } }.CycleOf [] [] t
      ∧ (p.val < 117 ∨ 120 < p.val → t.power.hot = s.power.hot)
      ∧ t.scan.cur.words[p.val]? = some (some code)
      ∧ t.last p = BitVec.ofInt 16 (s.result p code) ∧ t.bit (aVal p) 31 = true
      ∧ (∀ q, q ≠ p → t.filters[q] = s.filters[q] ∧ t.last q = s.last q ∧ t.reg (aVal q) = s.reg (aVal q))
      ∧ (s.filters[p].cnt + 1 < 2 ^ s.fld (aFilt p) 19 16 →
        t.filters[p] = { s.filters[p] with
          sum := s.filters[p].sum + s.result p code, cnt := s.filters[p].cnt + 1 }))
  ∧ ∀ (s : State) (half : Bool) (f : Nat) (lost : List (Fin 256)), s.scan.due = some (half, f) → f < 64 →
    s.bit aRawCtl 31 = true → s.power.phase = .run → s.power.state = .run →
    ∃ t, exec (.rawFrameWrite lost) s = .next t
      ∧ t = { s with regs := t.regs, tlmMem := t.tlmMem, free := s.free + 256, scan := { s.scan with due := none } }
      ∧ (∀ n : Fin 256, n ∉ lost → ∀ c : BitVec 16,
        s.scan.prev.words[n] = some c ∨ s.scan.prev.words[n] = none ∧ 240 ≤ n.val ∧ s.scan.prev.lh.getLsbD (n.val - 240) = false ∧ c = 0 →
        t.tlmByte (rawAddr half.toNat f n) = c.extractLsb' 0 8
          ∧ t.tlmByte (rawAddr half.toNat f n + 1) = c.extractLsb' 8 8)
      ∧ (∀ a, (∀ n : Fin 256, n ∉ lost → a ≠ rawAddr half.toNat f n ∧ a ≠ rawAddr half.toNat f n + 1) →
        t.tlmByte a = s.tlmByte a)
      ∧ (∀ a, a ≠ aRawStat → t.reg a = s.reg a)
      ∧ (lost ≠ [] → t.bit aRawStat 2 = true ∧ t.fld aRawStat 13 8 = f) ∧ (lost = [] → t.reg aRawStat = s.reg aRawStat))
  ∧ (∀ (s : State) (who : Who), s.serves = true →
    (s.bit aRawStat 29 = false → s.bit aRawStat 30 = false →
      ∃ t, exec (.freeze who) s = .next t
        ∧ t = { s with regs := t.regs, scan := { s.scan with
          postLeft := s.fld aRawCtl 5 0 + s.scan.inFrame.toNat
          frame := if s.fld aRawCtl 5 0 + s.scan.inFrame.toNat = 0 then 0 else s.scan.frame } }
        ∧ t.bit aRawStat 29 = true
        ∧ t.bit aRawStat 31 = (s.bit aRawStat 31 != (s.fld aRawCtl 5 0 + s.scan.inFrame.toNat == 0))
        ∧ t.reg aFrzTL = s.scan.frameTime.setWidth 32 ∧ t.reg aFrzTH = (s.scan.frameTime >>> 32).setWidth 32
        ∧ ∀ a, a ∉ [aRawStat, aFrzTL, aFrzTH] → t.reg a = s.reg a)
    ∧ ((s.bit aRawStat 29 = true ∨ s.bit aRawStat 30 = true) →
      ∃ t, exec (.freeze who) s = .next t ∧ s.RegsBecome [aRawStat] t ∧ t.reg aRawStat = s.reg aRawStat ||| 2)
    ∧ (s.bit aRawStat 29 = true → s.scan.postLeft = 0 → s.scan.due = none →
      ∃ t, exec .freezeComplete s = .next t ∧ s.RegsBecome [aRawStat] t ∧ t.bit aRawStat 29 = false
        ∧ t.bit aRawStat 30 = true ∧ t.bit aRawStat 31 = s.bit aRawStat 31)
    ∧ (s.bit aRawStat 29 = false →
      ∃ t, exec (.unfreeze who) s = .next t ∧ s.RegsBecome [aRawStat] t ∧ t.bit aRawStat 30 = false
        ∧ t.bit aRawStat 31 = s.bit aRawStat 31)
    ∧ (s.bit aRawStat 29 = true → exec (.unfreeze who) s = .next s)
    ∧ (∀ p : BitVec 7, p.toNat < 124 →
      (∃ t, exec (.clrmm who false p) s = .next t ∧ s.RegsBecome [aMm p.toNat] t
        ∧ t.reg (aMm p.toNat) = if ptSigned p.toNat then 0x80007FFF else 0x0000FFFF)
      ∧ ∃ t, exec (.clrpk who false p) s = .next t ∧ s.RegsBecome [aLast p.toNat] t ∧ t.last p.toNat = s.last p.toNat
        ∧ t.fld (aLast p.toNat) 31 16 = if ptSigned p.toNat then 0x8000 else 0)
    ∧ (∀ p : BitVec 7, 124 ≤ p.toNat →
      ∃ t, exec (.clrmm who false p) s = .next t ∧ s.RegsBecome [aTlmStat] t ∧ t.reg aTlmStat = s.reg aTlmStat ||| 1)
    ∧ (∀ p : BitVec 7, ∃ t, exec (.clrmm who true p) s = .next t
      ∧ (∀ q : Point, t.reg (aMm q) = if ptSigned q then 0x80007FFF else 0x0000FFFF)
      ∧ s.RegsBecome ((List.range 124).map aMm) t)
    ∧ ∀ (p : Point) (v : Word),
      (s.lockCfg = false →
        (wfld v 19 16 ≤ 10 →
          ∃ t, exec (.tlmFiltWrite who p v) s = .next t ∧ t = { s with regs := t.regs, filters := t.filters }
            ∧ t.reg (aFilt p) = v &&& 0x000FF0FF ∧ (∀ a, a ≠ aFilt p → t.reg a = s.reg a)
            ∧ t.filters[p] = { dec := 255 } ∧ ∀ q, q ≠ p → t.filters[q] = s.filters[q])
        ∧ ∃ t, exec (.tlmCtlWrite who v) s = .next t ∧ s.RegsBecome [aTlmCtl] t ∧ t.reg aTlmCtl = v &&& 0xC0FFFFFF)
      ∧ (s.lockCfg = true →
        (∃ t, exec (.tlmFiltWrite who p v) s = .next t ∧ s.RegsBecome [aTlmStat] t
          ∧ t.reg aTlmStat = s.reg aTlmStat ||| 1)
        ∧ ∃ t, exec (.tlmCtlWrite who v) s = .next t ∧ s.RegsBecome [aTlmStat] t
          ∧ t.reg aTlmStat = s.reg aTlmStat ||| 1))

/-- Loop health, command by command. LH_START of an enabled, idle engine begins the measurement of the next selected
rail, which is in use, ON and not on the PMBus path, and perturbs an external rail for its calibration. A calibration
round whose shift is in range ends the calibration; the fourth out of range ends the measurement with CALFAIL. The
excitation starts at the positive level (the model's choice for the square, log 8) and moves at each toggle that is
due, the square to the other level, the sequence to its next bit; the end of the capture removes it and keeps the ring
time. The end of the fit reports its rail and ends the measurement: within range with the fit's FC and PM, as a
baseline where there is none, out of range with RANGE (and without OK, the model's choice, log 8). REBASE of a rail
empties its baseline's sixteen bytes and no other. -/
def Obligations.LoopHealth : Prop :=
  (∀ (s : State) (r : Rail), s.bit aLhCtl 31 = true → s.lhBusy = false → s.awake = true → s.lhNext = some r.val →
    (s.ch r).st = .on → s.pmbPath r = false → s.use r = true →
    ∃ t, exec .lhStart s = .next t
      ∧ t = { s with
        regs := t.regs, lh := t.lh, chans := t.chans
        scan := { s.scan with cur := { s.scan.cur with lh := t.scan.cur.lh } } }
      ∧ (s.scan.inFrame = false → t.scan = s.scan)
      ∧ t.lhBusy = true ∧ t.lhRail = r ∧ t.fld aLhStat 24 23 = 1 ∧ (∀ a, a ≠ aLhStat → t.reg a = s.reg a)
      ∧ t.lh.code = (if isExt r then 64 else 2) ∧ t.lh.calDone = !isExt r
      ∧ t.ch r = (if isExt r then { s.ch r with perturb := 64 } else s.ch r) ∧ ∀ q, q ≠ r → t.ch q = s.ch q)
  ∧ (∀ (s : State) (uv : Int), s.lhBusy = true → s.fld aLhStat 24 23 = 1 → isExt s.lhRail = true →
    s.lh.calDone = false →
    (3 * (s.vset s.lhRail : Int) ≤ 2 * uv → 2 * uv ≤ 5 * (s.vset s.lhRail : Int) →
      ∃ t, exec (.lhCalRound uv) s = .next t
        ∧ t = { s with lh := { s.lh with rounds := s.lh.rounds + 1, calDone := true } })
    ∧ ((2 * uv < 3 * (s.vset s.lhRail : Int) ∨ 5 * (s.vset s.lhRail : Int) < 2 * uv) → 3 ≤ s.lh.rounds →
      ∃ t, exec (.lhCalRound uv) s = .next t ∧ t.lhBusy = false ∧ t.fld (aLhRes 1) 7 0 = 0x80
        ∧ t.ch s.lhRail = { s.ch s.lhRail with perturb := 0 } ∧ ∀ q, q ≠ s.lhRail → t.ch q = s.ch q))
  ∧ (∀ s : State, s.lhBusy = true →
    (s.fld aLhStat 24 23 = 1 → s.lh.calDone = true →
      ∃ t, exec .lhExciteStart s = .next t
        ∧ t = { s with
          regs := t.regs, chans := t.chans
          lh := { s.lh with
            prbs := 0x7F, toggleAt := some (s.cycle + s.lhPeriod), runs := [{ high := true }] } }
        ∧ t.fld aLhStat 24 23 = 2 ∧ (∀ a, a ≠ aLhStat → t.reg a = s.reg a)
        ∧ t.ch s.lhRail = { s.ch s.lhRail with perturb := s.lh.code } ∧ ∀ q, q ≠ s.lhRail → t.ch q = s.ch q)
    ∧ (∀ (k : Nat) (x : LhRun) (high : Bool), s.fld aLhStat 24 23 = 2 → s.lh.toggleAt = some k → k ≤ s.cycle →
      s.lh.runs.getLast? = some x →
      high = (if s.bit aLhCtl 30 then (prbsNext s.lh.prbs).getLsbD 6 else !x.high) →
      ∃ t, exec .lhPerturbToggle s = .next t
        ∧ t = { s with
          chans := t.chans
          lh := { s.lh with
            prbs := if s.bit aLhCtl 30 then prbsNext s.lh.prbs else s.lh.prbs
            toggleAt := some (k + s.lhPeriod), runs := s.lh.runs ++ [{ high := high }] } }
        ∧ t.ch s.lhRail = { s.ch s.lhRail with perturb := if high then s.lh.code else 0 }
        ∧ ∀ q, q ≠ s.lhRail → t.ch q = s.ch q)
    ∧ (s.fld aLhStat 24 23 = 2 →
      ∃ t, exec .lhCaptureEnd s = .next t
        ∧ t = { s with
          regs := t.regs, lh := { s.lh with endTime := s.ring.time, toggleAt := none }, chans := t.chans }
        ∧ t.fld aLhStat 24 23 = 3 ∧ (∀ a, a ≠ aLhStat → t.reg a = s.reg a)
        ∧ t.ch s.lhRail = { s.ch s.lhRail with perturb := 0 } ∧ ∀ q, q ≠ s.lhRail → t.ch q = s.ch q)
    ∧ (s.fld aLhStat 24 23 = 3 →
      ∃ t, exec .lhComputeEnd s = .next t ∧ t.lhBusy = false ∧ t.fld (aLhRes 0) 5 0 = s.lhRail.val
        ∧ (t.ch s.lhRail).perturb = 0 ∧ t.lh.next = s.lhRail.val + 1
        ∧ (1000 ≤ s.lhFitted.1 → s.lhFitted.1 ≤ 200000 → 20 ≤ s.lhFitted.2.1 → s.lhFitted.2.1 ≤ 80 →
          lhValid (s.lhBytes s.lhRail 0) = false →
          t.fld (aLhRes 0) 31 16 = (ratOpen (s.lhFitted.1 / 10)).toNat
            ∧ t.fld (aLhRes 0) 15 8 = (ratOpen (s.lhFitted.2.1 * 2)).toNat
            ∧ t.fld (aLhRes 1) 7 0 = if isExt s.lhRail then 0x43 else 0x41)
        ∧ (s.lhFitted.1 < 1000 ∨ 200000 < s.lhFitted.1 ∨ s.lhFitted.2.1 < 20 ∨ 80 < s.lhFitted.2.1 →
          t.fld (aLhRes 1) 7 0 = if isExt s.lhRail then 6 else 4)))
  ∧ ∀ (s : State) (who : Who) (r : Rail), s.serves = true → s.fld aKpsCtl 31 30 = 0 → s.keeper.locked = false →
    ∃ t, exec (.rebase who false r) s = .next t ∧ (∀ i, i < 16 → t.byte (0x25000 + 192 * r.val + i) = 0)
      ∧ (∀ a, (a < 0x25000 + 192 * r.val ∨ 0x25010 + 192 * r.val ≤ a) → t.byte a = s.byte a)
      ∧ t.lh.beyond = s.lh.beyond.set r false
      ∧ t = { s with sram := t.sram, keeper := t.keeper, lh := t.lh }

/-! The reserve -/

/-- The charger's transitions by a cell voltage from 2 V to VOV, in RUN or DOZE with the charger enabled, the input
good, no temperature measured, no rest and the pair off: from WAIT precharge below VPRE, full at or above VPRE less
than VRCH below VCV, and else constant current; PRE becomes CC at VPRE, CC becomes CV at VCV, FULL becomes CC more
than VRCH below VCV; else the state stays. Termination ends CV in FULL. Only the reserve and its stored record change.
The charger's faults while no rest runs and no temperature is measured: a timeout of precharge or of the charge, a lost
sense and an overvoltage put an enabled charger in FAULT and set their flag; an overvoltage of a pack whose charger is
disabled and OFF sets the flag alone.
With no flag of FAULT left and the cells not above VOV a write of RSV_FLAGS takes it to WAIT; a bit that the device
sets in the cycle of the write stays set. -/
def Obligations.Charger : Prop :=
  ((∀ (s : State) (mv : Nat) (c : ChgState), s.calm → 2000 ≤ mv → mv ≤ s.vov →
    ((s.reserve.chg = .wait ∧ mv < s.vpre ∧ c = .pre)
      ∨ (s.reserve.chg = .wait ∧ s.vpre ≤ mv ∧ mv + s.vrch < s.vcv ∧ c = .cc)
      ∨ (s.reserve.chg = .wait ∧ s.vpre ≤ mv ∧ s.vcv ≤ mv + s.vrch ∧ c = .full)
      ∨ (s.reserve.chg = .pre ∧ s.vpre ≤ mv ∧ c = .cc) ∨ (s.reserve.chg = .pre ∧ mv < s.vpre ∧ c = .pre)
      ∨ (s.reserve.chg = .cc ∧ s.vcv ≤ mv ∧ c = .cv) ∨ (s.reserve.chg = .cc ∧ mv < s.vcv ∧ c = .cc)
      ∨ (s.reserve.chg = .full ∧ mv + s.vrch < s.vcv ∧ c = .cc)
      ∨ (s.reserve.chg = .full ∧ s.vcv ≤ mv + s.vrch ∧ c = .full)) →
    ∃ t, exec (.chargerTransition mv []) s = .next t ∧ t = { s with reserve := t.reserve, sram := t.sram, keeper := t.keeper }
      ∧ t.reserve.chg = c ∧ t.reserve.present = true ∧ t.reserve.overV = false)
  ∧ ∀ s : State, s.calm → s.reserve.present = true → s.reserve.chg = .cv →
    ∃ t, exec (.chargeTermination []) s = .next t ∧ t = { s with reserve := t.reserve, sram := t.sram, keeper := t.keeper }
      ∧ t.reserve.chg = .full)
  ∧ ((∀ s : State, s.reserve.rest = false → s.bit aRsvCfg 23 = false →
    (s.chgEn = true →
      (s.reserve.chg = .pre → ∃ t, exec (.prechargeTimeout []) s = .next t ∧ s.ChargerFaulted 0x80 t)
      ∧ (s.reserve.chg ∈ [ChgState.pre, .cc, .cv] → ∃ t, exec (.chargeTimeout []) s = .next t ∧ s.ChargerFaulted 0x40 t)
      ∧ (s.reserve.chg ∈ [ChgState.cc, .cv] → ∃ t, exec (.senseFault []) s = .next t ∧ s.ChargerFaulted 0x100 t)
      ∧ (s.reserve.chg ≠ .off → ∃ t, exec (.packOvervoltage []) s = .next t ∧ s.ChargerFaulted 0x8 t))
    ∧ (s.rsvEn = true → s.chgEn = false → s.reserve.chg = .off →
      ∃ t, exec (.packOvervoltage []) s = .next t ∧ s.CycleOf [] [] t ∧ t.reserve.chg = .off ∧ t.reserve.overV = true
        ∧ t.reg aRsvFlags = s.reg aRsvFlags ||| 0x8))
  ∧ ∀ (s : State) (who : Who) (v hw : Word), s.serves = true → s.calm → s.reserve.chg = .fault → s.reserve.overV = false →
    s.reg aRsvFlags &&& ~~~(v &&& ~~~hw &&& 0x7FFF) &&& faultFlags = 0 →
    ∃ t, exec (.rsvFlagsWrite who v hw) s = .next t ∧ t.reg aRsvFlags = s.reg aRsvFlags &&& ~~~(v &&& ~~~hw &&& 0x7FFF)
      ∧ t.reserve.chg = .wait ∧ (∀ a, a ≠ aRsvFlags → t.reg a = s.reg a)
      ∧ t = { s with regs := t.regs, reserve := t.reserve })

/-- The ORing pair of a pack without a temperature measurement. It conducts where it is enabled and not blocked, and a
charger in CC then goes to WAIT; it stops conducting with its limit ended; the discharge limit starts its timer of
TLIM, not 0, and its end stops it. The limit's timeout and a short circuit of an enabled pair trip it; the pair
re-arms by time or by command, but not in the cycle of a trip, whatever else reaches the reserve in it. -/
def Obligations.OringPair : Prop :=
  (∀ s : State, s.bit aRsvCfg 23 = false →
    (s.oringEn = true → s.rsvBlock = false → s.reserve.orOn = false →
      ∃ t, exec .oringOn s = .next t ∧ t = { s with reserve := t.reserve } ∧ t.reserve.orOn = true
        ∧ (s.chgEn = true → s.reserve.chg = .cc → s.reserve.rest = false → t.reserve.chg = .wait))
    ∧ (s.reserve.orOn = true →
      ∃ t, exec .oringOff s = .next t ∧ t = { s with reserve := t.reserve }
        ∧ t.reserve.orOn = false ∧ t.reserve.ilim = false ∧ t.reserve.ilimAt = none)
    ∧ (s.reserve.rest = false → s.reserve.ilimAt ≠ none →
      ∃ t, exec (.currentLimitTimeout []) s = .next t ∧ s.PairTripped 4 t)
    ∧ (s.reserve.rest = false → s.oringEn = true → ∃ t, exec (.shortCircuitTrip []) s = .next t ∧ s.PairTripped 2 t))
  ∧ (∀ (s : State) (b : Bool), s.reserve.orOn = true → s.reserve.ilim ≠ b → s.fld aRsvOring 15 8 ≠ 0 →
    ∃ t, exec (.dischargeLimitChange b) s = .next t ∧ t = { s with reserve := { s.reserve with
      ilim := b, ilimAt := if b then some (s.cycle + 100000 * s.fld aRsvOring 15 8) else none } })
  ∧ (∀ (s : State) (who : Who),
    (s.reserve.rearmAt ≠ none →
      ∃ t, exec (.autoRearm []) s = .next t ∧ s.CycleOf [] [] t ∧ t.reserve.scoff = false ∧ t.reserve.rearmAt = none
        ∧ (s.still → t = { s with reserve := { s.reserve with scoff := false, rearmAt := none } }))
    ∧ (s.serves = true →
      (∃ t, exec (.rearm who []) s = .next t ∧ s.CycleOf [] [] t ∧ t.reserve.scoff = false ∧ t.reserve.rearmAt = none
        ∧ (s.still → t = { s with reserve := { s.reserve with scoff := false, rearmAt := none } }))
      ∧ (s.bit aRsvCfg 23 = false → s.reserve.rest = false → s.oringEn = true →
        ∃ t, exec (.rearm who [.shortTrip]) s = .next t ∧ s.PairTripped 2 t)))
  ∧ ∀ (s : State) (co : List RsvCause),
    (s.oringEn = true → ∃ t, exec (.shortCircuitTrip co) s = .next t ∧ t.reserve.scoff = true)
    ∧ (s.reserve.ilimAt ≠ none → ∃ t, exec (.currentLimitTimeout co) s = .next t ∧ t.reserve.scoff = true)

/-- The reserve's commands while the fabric serves registers. The configuration lock refuses RESTNOW, REINIT, CLRLRN
and a write of RSV_ESTCFG with CFG_REF. Without it RESTNOW and REINIT are kept for the estimator; CLRLRN, before the
power fails, takes the nominal capacity for the learned one and voids the capacity record; a write of RSV_ESTCFG in
range that keeps the estimator off withdraws EVALID. The estimator. Before RUN a tick integrates the current that the
always-on domain measures, out of the pack and into it, and judges SUPPLY by it, and where the reserve's conditions
stand still changes nothing else; while the fabric runs, enabled, it starts a new second and the estimate is valid; in
NAP and HIBERNATE it changes nothing. A scheduled rest ends with its flag. The saved state record passes its check, and
no byte outside it changes. The cutoff of a pack that supplies, outside a learning discharge and a rest, empties it:
EMPTY, the pair off, the state of charge 0. No wick and no domain acts. Two causes of one cycle act in one order,
whichever command brings the other. -/
def Obligations.ReserveEstimator : Prop :=
  (∀ (s : State) (who : Who) (v : Word), s.serves = true →
    (s.lockCfg = true →
      (∃ t, exec (.restnow who) s = .next t ∧ s.RsvRefused t) ∧ (∃ t, exec (.reinit who) s = .next t ∧ s.RsvRefused t)
      ∧ (∃ t, exec (.clrlrn who) s = .next t ∧ s.RsvRefused t) ∧ ∃ t, exec (.estcfgWrite who v) s = .next t ∧ s.RsvRefused t)
    ∧ (s.lockCfg = false →
      (∃ t, exec (.restnow who) s = .next t ∧ t = { s with reserve := { s.reserve with restNow := true } })
      ∧ (∃ t, exec (.reinit who) s = .next t ∧ t = { s with reserve := { s.reserve with reinit := true } })
      ∧ (s.keeper.locked = false →
        ∃ t, exec (.clrlrn who) s = .next t ∧ t.reserve = { s.reserve with learned := false }
          ∧ t.fld aSoh 15 0 = s.fld aEstCfg 15 0 ∧ (∀ a, a ≠ aSoh → t.reg a = s.reg a)
          ∧ (∀ a, t.byte a = if 0x24400 ≤ a ∧ a < 0x24404 then 0 else s.byte a)
          ∧ t = { s with regs := t.regs, reserve := t.reserve, sram := t.sram, keeper := t.keeper })
      ∧ (v.getLsbD 31 = false → s.bit aEstCfg 31 = false → 9000 ≤ wfld v 29 16 → wfld v 29 16 ≤ 10000 →
        1 ≤ wfld v 15 0 →
        ∃ t, exec (.estcfgWrite who v) s = .next t ∧ t.reg aEstCfg = v &&& 0xBFFFFFFF
          ∧ t = { s with regs := t.regs, reserve := { s.reserve with evalid := false, tickAt := none } }
          ∧ ∀ a, a ≠ aEstCfg → t.reg a = s.reg a)))
  ∧ ((∀ (s : State) (ma : Int), s.estEn = true →
    (s.power.phase ≠ .run →
      ∃ t, exec (.estimatorTick ma []) s = .next t ∧ s.CycleOf [] [] t
        ∧ t.reserve.tickAt = some (s.cycle + 100000000) ∧ t.reserve.supply = decide (s.irest < -((ma : Rat) / 1000))
        ∧ t.reserve.offOut = s.reserve.offOut + (if ma < 0 then -((ma : Rat) / 1000) else 0)
        ∧ t.reserve.offIn = s.reserve.offIn + (if 0 < ma then (ma : Rat) / 1000 else 0)
        ∧ (s.still → t = { s with reserve := { s.reserve with
          tickAt := t.reserve.tickAt, supply := t.reserve.supply, offOut := t.reserve.offOut, offIn := t.reserve.offIn } }))
    ∧ (s.power.phase = .run →
      (s.fabricOn = true →
        ∃ t, exec (.estimatorTick ma []) s = .next t ∧ t.reserve.evalid = true ∧ t.reserve.iCnt = 0 ∧ t.reserve.vCnt = 0
          ∧ t.reserve.tickAt = some (s.cycle + 100000000) ∧ t.wicks = s.wicks ∧ t.doms = s.doms)
      ∧ (s.asleep = true → s.fabricOn = false → ∀ co, exec (.estimatorTick ma co) s = .next s)))
  ∧ (∀ s : State, s.reserve.rest = true →
    ∃ t, exec (.scheduledRestEnd []) s = .next t ∧ t.reserve.rest = false ∧ t.reserve.restAt = none
      ∧ t.bit aRsvFlags 13 = true ∧ t.wicks = s.wicks ∧ t.doms = s.doms)
  ∧ (∀ s : State, s.estEn = true → s.power.phase = .run → s.fabricOn = true → s.keeper.locked = false →
    ∃ t, exec .estimatorStateSave s = .next t ∧ t = { s with sram := t.sram, keeper := t.keeper }
      ∧ t.recordOk 0x24000 60 0x4B500030 = true
      ∧ ∀ a, (a < 0x24000 ∨ 0x24040 ≤ a) → t.byte a = s.byte a)
  ∧ (∀ s : State, s.rsvEn = true → s.reserve.supply = true → s.reserve.learn = false → s.reserve.rest = false →
    s.bit aRsvCfg 23 = false →
    ∃ t, exec (.cutoff []) s = .next t ∧ t.reserve.empty = true ∧ t.reserve.orOn = false ∧ t.reserve.s = 0
      ∧ t.fld aSoc 15 0 = 0 ∧ t.bit aRsvFlags 4 = true ∧ t.wicks = s.wicks ∧ t.doms = s.doms)
  ∧ ∀ s : State, exec (.cutoff [.restEnd]) s = exec (.scheduledRestEnd [.cutoff]) s
    ∧ exec (.packOvervoltage [.shortTrip]) s = exec (.shortCircuitTrip [.overvoltage]) s)

/-! The keeping store -/

/-- A store is requested by STORE or STOREALL, while the fabric serves registers, or by the autosave that is due, in RUN or
DOZE as all of the engine, with a page dirty: with none running it begins, with all pages to reach, those of STOREALL in any case and the others when
dirty; once the power fails STORE and STOREALL begin none and change nothing. An autosave with no dirty page only
starts its interval again. The store engine. When the shadow array is powered for a STORE whose first page is due,
that page is copied, its dirty bit clears and the journal names it. The last page of a store but the power-fail store:
verified, it is in the shadow array, every other page of which is untouched, and counts as written; one that fails its
verify is dirty again, with SFAIL set, and no other page of the shadow array changes. The finished store reports its
pages and its time in KPS_LASTST, and no byte of either memory changes. -/
def Obligations.StoreController : Prop :=
  ((∀ (s : State) (who : Who), s.serves = true →
    (s.keeper.locked = false → s.keeper.run = none →
      (∃ t, exec (.store who) s = .next t
        ∧ s.StoreBegun .store ((List.range 256).map (fun k => (k, false))) s.keeper.lastEnd t)
      ∧ ∃ t, exec (.storeall who) s = .next t
        ∧ s.StoreBegun .storeAll ((List.range 256).map (fun k => (k, true))) s.keeper.lastEnd t)
    ∧ (s.keeper.locked = true → exec (.store who) s = .next s ∧ exec (.storeall who) s = .next s))
  ∧ ∀ s : State, s.autosaveAt ≠ none → s.fabricOn = true →
    (s.keeper.dirty ≠ 0 → s.keeper.locked = false → s.keeper.run = none →
      ∃ t, exec .autosave s = .next t ∧ s.StoreBegun .autosave ((List.range 256).map (fun k => (k, false))) none t)
    ∧ (s.keeper.dirty = 0 →
      ∃ t, exec .autosave s = .next t ∧ t = { s with keeper := { s.keeper with lastEnd := some s.cycle } }))
  ∧ ((∀ (s : State) (j : StoreRun) (k : Nat) (b : Bool) (l : List (Nat × Bool)), s.fabricOn = true →
    s.keeper.run = some j → j.ready = false → j.kind = .store → j.cur = none → j.waitRewrite = false → j.left = (k, b) :: l → (b || s.dirty k) = true → k ≠ 240 →
    s.emberPage ≠ some k →
    ∃ t, exec .storeShadowReady s = .next t ∧ t = { s with keeper := t.keeper }
      ∧ t.keeper.tornPage = some k ∧ t.keeper.dirty = s.keeper.dirty &&& ~~~(BitVec.ofNat 256 (2 ^ k))
      ∧ ∃ r, t.keeper.run = some r ∧ r.ready = true ∧ r.cur = some (k, pageOf s.sram k) ∧ r.written = j.written
        ∧ r.left = l)
  ∧ (∀ (s : State) (j : StoreRun) (k : Nat) (cells : List Host.Cell), s.fabricOn = true → s.keeper.run = some j →
    j.cur = some (k, cells) → j.left = [] → j.kind ≠ .powerFail →
    (∃ t, exec (.storePageDone true) s = .next t
      ∧ (∀ a, t.shadowByte a = if a / 0x400 = k then (look cells a).getD (factoryByte a) else s.shadowByte a)
      ∧ (∀ a, t.byte a = s.byte a) ∧ t.keeper.dirty = s.keeper.dirty ∧ t.keeper.tornPage = none
      ∧ t.keeper.run = some { j with cur := none, written := j.written + 1 })
    ∧ ∃ t, exec (.storePageDone false) s = .next t ∧ t.dirty k = decide (k < 256) ∧ t.bit aKpsStat 2 = true
      ∧ (∀ a, a / 0x400 ≠ k → t.shadowByte a = s.shadowByte a) ∧ (∀ a, t.byte a = s.byte a))
  ∧ ∀ (s : State) (j : StoreRun), s.fabricOn = true → s.storeFinished = some j → j.kind ≠ .powerFail → s.keeper.pending = [] →
    (∀ p i, (s.sess p i).exec = none) →
    ∃ t, exec .storeComplete s = .next t ∧ t.keeper.run = none
      ∧ t.reg aLastSt = put (put 0 15 0 (min ((s.cycle - j.startAt) / 100) 65535)) 24 16 (min j.written 256)
      ∧ (s.keeper.locked = false → s.keeper.cntQueue = [] → t.keeper.cntQueue = [3])
      ∧ (∀ a, t.byte a = s.byte a ∧ t.shadowByte a = s.shadowByte a))

/-- The power-fail store: its end, with pass 2 behind it, clears the LIVE mark and notes PFDONE, with every rail OFF
and every wick IDLE; its abandonment with no page in progress leaves the LIVE mark and notes PFABANDON; the device is
input-low, and the shadow array is as it was. VHOK follows the voltage, and no other bit of KPS_STAT and no other
register changes. -/
def Obligations.PowerFailStore : Prop :=
  (∀ (s : State) (j : StoreRun), s.storeFinished = some j → j.kind = .powerFail → j.pass2 = true →
    ∃ t, exec .powerFailStoreEnd s = .next t ∧ t.power.phase = .inputLow ∧ t.keeper.liveMark = false
      ∧ t.bit aRstCause 3 = true ∧ t.bit aRstCause 4 = false ∧ t.bit aMonVin 1 = true ∧ t.bit aMonVin 0 = false
      ∧ (∀ a, t.shadowByte a = s.shadowByte a) ∧ (∀ r, (t.ch r).st = .off) ∧ ∀ w, (t.wk w).st = .idle)
  ∧ (∀ (s : State) (j : StoreRun), s.keeper.run = some j → j.kind = .powerFail → j.cur = none →
    ∃ t, exec .pfsAbandon s = .next t ∧ t.power.phase = .inputLow ∧ t.keeper.abandonMark = true
      ∧ t.keeper.liveMark = s.keeper.liveMark ∧ t.bit aRstCause 4 = true ∧ t.bit aRstCause 3 = false
      ∧ ∀ a, t.shadowByte a = s.shadowByte a)
  ∧ ∀ (s : State) (b : Bool), s.power.phase ≠ .unpowered → s.power.phase ≠ .inputLow →
    ∃ t, exec (.vholdCrossing b) s = .next t ∧ s.RegsBecome [aKpsStat] t ∧ t.bit aKpsStat 25 = b
      ∧ ∀ i, i ≠ 25 → t.bit aKpsStat i = s.bit aKpsStat i

/-- A queued increment of a sound counter below its largest value counts it on by one, across the end of a lap too,
and changes no byte outside the counter's own 512. INC and INIT of KPS_CNTCMD while the fabric serves registers.
Before the power fails, of a counter of the user, INC queues an increment that the queue has room for, and INIT,
unless the configuration is locked, sets the counter to 0 with both lap copies valid and changes no byte outside the
counter's own 512. The device's own counters 0 to 15 are refused with CFG_REF. -/
def Obligations.SpreadCounters : Prop :=
  (∀ (s : State) (n : Fin 32) (q : List (Fin 32)), s.keeper.cntQueue = n :: q → s.keeper.ended = false →
    s.serves = true → s.thermoBad n = false → s.position n ≤ 251 →
    252 * s.lap n + s.position n < 2 ^ 48 - 1 →
    ∃ t, exec .counterIncrement s = .next t ∧ t.counter n = s.counter n + 1 ∧ t.keeper.cntQueue = q
      ∧ (∀ a, (a < cntBase n ∨ cntBase n + 0x200 ≤ a) → t.byte a = s.byte a)
      ∧ t = { s with sram := t.sram, keeper := t.keeper })
  ∧ (∀ (s : State) (who : Who) (n : Fin 32), s.serves = true →
    (16 ≤ n.val → s.keeper.locked = false → s.keeper.cntQueue.length < 32 →
      ∃ t, exec (.inc who n) s = .next t
        ∧ t = { s with keeper := { s.keeper with cntQueue := s.keeper.cntQueue ++ [n] } })
    ∧ (16 ≤ n.val → s.keeper.locked = false → s.lockCfg = false →
      ∃ t, exec (.init who n) s = .next t ∧ t.counter n = 0 ∧ t.lapCopy (cntBase n + 0x100) = some 0
        ∧ t.lapCopy (cntBase n + 0x108) = some 0
        ∧ (∀ a, (a < cntBase n ∨ cntBase n + 0x200 ≤ a) → t.byte a = s.byte a)
        ∧ t = { s with sram := t.sram, keeper := t.keeper })
    ∧ (n.val < 16 →
      (∃ t, exec (.inc who n) s = .next t ∧ s.RegsBecome [aKpsStat] t ∧ t.reg aKpsStat = s.reg aKpsStat ||| 1)
      ∧ ∃ t, exec (.init who n) s = .next t ∧ s.RegsBecome [aKpsStat] t ∧ t.reg aKpsStat = s.reg aKpsStat ||| 1))

/-- The reset outputs. The stretch that runs ends in a released AUTO rule; a pulse that runs ends with the override
back in AUTO. The commands of MRG_RSTOVR, while the fabric serves registers, write the override of their output, AUTO
and ASSERT without a pulse and PULSE with one of the stretch length, a PULSE of an output without stretch length being
AUTO. A write of MRG_RSTk takes the bits the register has, and while the domain it names takes no part the AUTO rule
asserts the output, which in RUN with EN 1 shows; the configuration lock refuses it with CFG_REF. No other output
changes. -/
def Obligations.ResetOutputs : Prop :=
  ∀ (s : State) (who : Who) (k : Fin 8),
    (s.resets[k].stretch ≠ none →
      ∃ t, exec (.resetStretchEnd k) s = .next t ∧ t = { s with resets := t.resets }
        ∧ (∀ j, j ≠ k → t.resets[j] = s.resets[j]) ∧ t.resets[k] = { s.resets[k] with auto := false, stretch := none })
    ∧ (s.resets[k].pulse ≠ none → ∃ t, exec (.resetPulseEnd k) s = .next t ∧ s.OverrideIs k 0 none t)
    ∧ (s.serves = true →
      (∃ t, exec (.rstovrAuto who k) s = .next t ∧ s.OverrideIs k 0 none t)
      ∧ (∃ t, exec (.rstovrAssert who k) s = .next t ∧ s.OverrideIs k 1 none t)
      ∧ (∃ t, exec (.rstovrPulse who k) s = .next t
        ∧ (s.rstStretch k ≠ 0 → s.OverrideIs k 2 (some (s.cycle + s.rstStretch k)) t)
        ∧ (s.rstStretch k = 0 → s.OverrideIs k 0 none t))
      ∧ ∀ v : Word,
        (s.lockCfg = true →
          ∃ t, exec (.mrgRstWrite who k v) s = .next t ∧ s.RegsBecome [aMrgStat] t
            ∧ t.reg aMrgStat = s.reg aMrgStat ||| 1)
        ∧ (s.lockCfg = false → (∀ d : DomId, d.val = wfld v 11 8 → s.takesPart d = false) →
          ∃ t, exec (.mrgRstWrite who k v) s = .next t ∧ t = { s with regs := t.regs, resets := t.resets }
            ∧ t.reg (aRst k) = v &&& 0x80000FFF ∧ (∀ a, a ≠ aRst k → t.reg a = s.reg a)
            ∧ t.resets[k] = { s.resets[k] with auto := true, stretch := none }
            ∧ (∀ j, j ≠ k → t.resets[j] = s.resets[j])
            ∧ (v.getLsbD 31 = true → s.power.phase = .run → t.rstOut k = true)))

/-! Domains -/

/-- An owner's requests, while no shutdown runs, the fabric serves registers and the device is in RUN, of a domain
that takes part: it takes a free domain at its own epoch, gives back one it owns that no wick waits for, withdrawing a
pending ON, and margins a rail of one that runs no program, the rail ON and the STEP in range. UNHITCH, ON, OFF and
MARGIN by a requester that is not the owner are refused with REQREF. No other domain and no other rail changes.
Programs start in RUN, while no shutdown runs and the fabric serves registers, on the stopped program wick of a domain
that takes part and runs and orders none: an ON of the owner starts the up-program, an OFF, with no domain depending
on this one and no rail of it waiting to rise again, the down-program, withdrawing a pending ON, and a pending ON
starts once the last program was a down-program and no rail of the domain is on its way down. The wick runs at the
program's entry with its epoch counted on; no other wick, no other domain and no rail acts. An ON or OFF at PROG 0 whose
program wick is busy orders the program, with the wick to stop; an ON during the down-program, or in the cycle in which
the device has ordered it, pends, and one during the up-program changes nothing. A hitch breaks in RUN when
its owner's epoch has changed: BRK is set; with ORPHAN 0 and no wick waiting the hitch is released and a pending ON
withdrawn, with ORPHAN 2 wick 0, not itself the owner, takes it over and receives flag 15. No other domain, no program
and no rail acts. -/
def Obligations.DomainRequests : Prop :=
  (∀ (s : State) (who : Who) (d : DomId), s.serves = true → s.power.phase = .run → s.sdact = false →
    s.takesPart d = true → ownerOf who ≠ .none →
    ((s.dom d).owner = .none → (s.dom d).queue = [] →
      ∃ t, exec (.dcmdHitch who d) s = .next t ∧ t = { s with doms := t.doms } ∧ (∀ e, e ≠ d → t.dom e = s.dom e)
        ∧ t.dom d = { s.dom d with owner := ownerOf who, epoch := s.epochOf (ownerOf who) })
    ∧ (s.owns (ownerOf who) d = true → (s.dom d).queue = [] →
      ∃ t, exec (.dcmdUnhitch who d) s = .next t ∧ t = { s with doms := t.doms } ∧ (∀ e, e ≠ d → t.dom e = s.dom e)
        ∧ t.dom d = { s.dom d with
          owner := .none, epoch := 0, pendUp := false, pendWd := (s.dom d).pendUp || (s.dom d).pendWd })
    ∧ (∀ (r : Rail) (v : BitVec 12), s.owns (ownerOf who) d = true → s.domOf r = some d → (s.dom d).prog = .none →
      s.use r = true → (s.ch r).st = .on → s.pmbPath r = false →
      s.stepOk r false v.toInt = true → v.toInt ≠ s.step r →
      ∃ t, exec (.dcmdMargin who d r v) s = .next t ∧ s.CycleOf [r] [aChMargin r] t ∧ (t.ch r).st = .margined
        ∧ t.step r = v.toInt ∧ (t.ch r).slew = true)
    ∧ (s.owns (ownerOf who) d = false →
      (∃ t, exec (.dcmdUnhitch who d) s = .next t ∧ s.RequestRefused d t)
      ∧ (∃ t, exec (.dcmdOn who d false) s = .next t ∧ s.RequestRefused d t)
      ∧ (∃ t, exec (.dcmdOff who d) s = .next t ∧ s.RequestRefused d t)
      ∧ ∀ (r : Rail) (v : BitVec 12), ∃ t, exec (.dcmdMargin who d r v) s = .next t ∧ s.RequestRefused d t))
  ∧ (∀ (s : State) (who : Who) (d : DomId), s.serves = true → s.sdact = false → s.takesPart d = true →
    s.power.phase = .run → (s.dom d).prog = .none → (s.dom d).next = none →
    ((s.wk (s.pwick d)).st = .idle ∨ (s.wk (s.pwick d)).st = .halted ∨ (s.wk (s.pwick d)).st = .fault) →
    (ownerOf who ≠ .none → s.owns (ownerOf who) d = true →
      ∃ t, exec (.dcmdOn who d false) s = .next t ∧ t.dom d = { s.dom d with prog := .up, src := 0 }
        ∧ (∀ e, e ≠ d → t.dom e = s.dom e) ∧ (t.wk (s.pwick d)).st = .run ∧ (t.wk (s.pwick d)).pc = s.entry d .up
        ∧ (t.wk (s.pwick d)).epoch = (s.wk (s.pwick d)).epoch + 1
        ∧ (∀ u, u ≠ s.pwick d → t.wk u = s.wk u) ∧ ∀ r, (t.ch r).st = (s.ch r).st)
    ∧ (ownerOf who ≠ .none → s.owns (ownerOf who) d = true → (∀ e, s.dependsOn e d = false) →
      (∀ r ∈ s.railsOf d, (s.ch r).st ≠ .retryWait ∧ (s.ch r).pend = false) →
      ∃ t, exec (.dcmdOff who d) s = .next t
        ∧ t.dom d = { s.dom d with
          prog := .down, src := 0, pendUp := false, pendWd := (s.dom d).pendUp || (s.dom d).pendWd }
        ∧ (∀ e, e ≠ d → t.dom e = s.dom e) ∧ (t.wk (s.pwick d)).st = .run ∧ (t.wk (s.pwick d)).pc = s.entry d .down
        ∧ (t.wk (s.pwick d)).epoch = (s.wk (s.pwick d)).epoch + 1
        ∧ (∀ u, u ≠ s.pwick d → t.wk u = s.wk u) ∧ ∀ r, (t.ch r).st = (s.ch r).st)
    ∧ ((s.dom d).pendUp = true → (s.dom d).last = 2 →
      (∀ r ∈ s.railsOf d, (s.ch r).st ≠ .falling ∧ (s.ch r).st ≠ .discharging) →
      ∃ t, exec (.pendingUpStart d) s = .next t ∧ t.dom d = { s.dom d with prog := .up, src := 0, pendUp := false }
        ∧ (∀ e, e ≠ d → t.dom e = s.dom e) ∧ (t.wk (s.pwick d)).st = .run ∧ (t.wk (s.pwick d)).pc = s.entry d .up
        ∧ (t.wk (s.pwick d)).epoch = (s.wk (s.pwick d)).epoch + 1
        ∧ (∀ u, u ≠ s.pwick d → t.wk u = s.wk u) ∧ ∀ r, (t.ch r).st = (s.ch r).st))
  ∧ (∀ (s : State) (who : Who) (d : DomId), s.serves = true → s.sdact = false → s.takesPart d = true →
    s.power.phase = .run → ownerOf who ≠ .none → s.owns (ownerOf who) d = true →
    (s.wk (s.pwick d)).st = .run →
    ((s.dom d).prog = .none → (s.dom d).next = none →
      (∃ t, exec (.dcmdOn who d false) s = .next t ∧ s.Ordered d { s.dom d with next := some (.up, 0) } t)
      ∧ ∃ t, exec (.dcmdOff who d) s = .next t ∧ s.Ordered d { s.dom d with
        next := some (.down, 0), pendUp := false, pendWd := (s.dom d).pendUp || (s.dom d).pendWd } t)
    ∧ ((s.dom d).prog = .up → (s.dom d).next = none →
      (∃ t, exec (.dcmdOn who d false) s = .next t ∧ s.CycleOf [] [] t)
      ∧ ∃ t, exec (.dcmdOff who d) s = .next t ∧ s.Ordered d { s.dom d with
        next := some (.down, 0), pendUp := false, pendWd := (s.dom d).pendUp || (s.dom d).pendWd } t)
    ∧ ((s.dom d).prog = .down ∨ ((s.dom d).next = some (.down, 2) ∧ (s.dom d).offAt = some s.cycle) →
      ∃ t, exec (.dcmdOn who d false) s = .next t ∧ { s with doms := t.doms }.CycleOf [] [] t
        ∧ t.dom d = { s.dom d with pendUp := true } ∧ ∀ e, e ≠ d → t.dom e = s.dom e))
  ∧ (∀ (s : State) (d : DomId), s.power.phase = .run → (s.dom d).owner ≠ .none →
    (s.dom d).epoch ≠ s.epochOf (s.dom d).owner →
    (s.fld (aDCfg d) 29 28 = 0 → (s.dom d).queue = [] →
      ∃ t, exec (.hitchBreak d) s = .next t ∧ (t.dom d).owner = .none ∧ (t.dom d).epoch = 0 ∧ (t.dom d).brk = true
        ∧ (t.dom d).pendUp = false ∧ (t.dom d).prog = (s.dom d).prog ∧ (∀ e, e ≠ d → t.dom e = s.dom e)
        ∧ t.wicks = s.wicks ∧ ∀ r, (t.ch r).st = (s.ch r).st)
    ∧ (s.fld (aDCfg d) 29 28 = 2 → (s.dom d).owner ≠ .wick 0 →
      ∃ t, exec (.hitchBreak d) s = .next t
        ∧ t.dom d = { s.dom d with owner := .wick 0, epoch := (s.wk 0).epoch, brk := true }
        ∧ (∀ e, e ≠ d → t.dom e = s.dom e) ∧ t.wk 0 = { s.wk 0 with sigs := (s.wk 0).sigs ||| 0x8000 }
        ∧ (∀ u, u ≠ 0 → t.wk u = s.wk u) ∧ ∀ r, (t.ch r).st = (s.ch r).st))

/-- RAISE counts its software source, up to 255, and makes it pending where its severity is above 0; the wick goes on,
and no other wick, no domain and no rail acts. A reaction of a tripped rail in use and in no domain: RETRY with
retries left starts its backoff, with the retry counted, and GROUP_OFF of a rail above VOFF takes it to FALLING with
TOFF started. No other rail acts, and the reaction is no longer due. -/
def Obligations.RaisesAndReactions : Prop :=
  (∀ (s : State) (w : WickId) (n : Fin 8), s.current w = some (.raise n) →
    ∃ t, exec (.raise w []) s = .next t ∧ s.WickCycle w (s.wk w).advance t
      ∧ t.fld (aCnt (srcSw n / 4)) (8 * (srcSw n % 4) + 7) (8 * (srcSw n % 4))
        = min (s.fld (aCnt (srcSw n / 4)) (8 * (srcSw n % 4) + 7) (8 * (srcSw n % 4)) + 1) 255
      ∧ (s.sev (srcSw n) ≠ 0 → t.pend (srcSw n) = true))
  ∧ (∀ (s : State) (x : React) (l : List (List React)), s.faults.reacts = [x] :: l → s.domOf x.rail = none →
    (s.ch x.rail).st = .tripped → s.use x.rail = true →
    (x.code = 1 → (s.ch x.rail).retries.toNat < s.fld (aChReact x.rail) 26 24 →
      ∃ t, exec .reactionApply s = .next t ∧ s.CycleOf [x.rail] [] t ∧ t.faults.reacts = l
        ∧ (t.ch x.rail).st = .retryWait ∧ (t.ch x.rail).retries = (s.ch x.rail).retries + 1
        ∧ (t.ch x.rail).backoff = some (s.cycle + 100000 * s.fld (aChReact x.rail) 23 16))
    ∧ (x.code = 2 → (s.ch x.rail).uv.blank = none → (s.ch x.rail).uvNew = false → (s.ch x.rail).uv.out = false →
      s.fld (aChToff x.rail) 23 0 ≠ 0 →
      ∃ t, exec .reactionApply s = .next t ∧ s.CycleOf [x.rail] [] t ∧ t.faults.reacts = l
        ∧ (t.ch x.rail).st = .falling ∧ (t.ch x.rail).toff = s.toffTimer x.rail))

/-- The whole-device shutdown's last rank. When its programs are done the final step begins: every rail of no domain
that is in use and ON goes to FALLING, and no wick and no domain acts. When the limit expires first SDTO is set, and
each program of the rank that runs ends, a down-program with LAST 6 and an up-program with LAST 3, its wick ordered to
stop. The final step's end makes the shutdown idle. The store before a system reset, in RUN after the shutdown and
outside a capture, begins with the pages of the fault log when none runs. -/
def Obligations.ShutdownRule : Prop :=
  (∀ (s : State) (g : List DomId), s.shut = .rank 0 g →
    (s.groupBusy g = false →
      ∃ t, exec .shutdownRankDone s = .next t ∧ t.shut = .final ∧ t.wicks = s.wicks ∧ t.doms = s.doms
        ∧ ∀ r, s.domOf r = none → s.use r = true → (s.ch r).st = .on → (t.ch r).st = .falling)
    ∧ (s.groupBusy g = true →
      ∃ t, exec .shutdownRankTimeout s = .next t ∧ t.shut = .final ∧ t.bit aDGStat 0 = true
        ∧ ∀ d ∈ g, (s.dom d).prog ≠ .none → (s.dom d).next = none →
          (t.dom d).prog = .none ∧ (t.dom d).last = (if (s.dom d).prog = .up then 3 else 6)
            ∧ (t.wk (s.pwick d)).stop = true))
  ∧ (∀ s : State, s.shut = .final → ∃ t, exec .shutdownEnd s = .next t ∧ t = { s with shut := .idle })
  ∧ ∀ s : State, s.faults.sysReset = true → s.faults.sysStore = none → s.shut = .idle → s.fltState ≠ 1 →
    s.power.phase = .run → s.fabricOn = true → s.keeper.run = none → s.keeper.locked = false →
    ∃ t, exec .systemResetStore s = .next t ∧ t = { s with keeper := t.keeper, faults := t.faults }
      ∧ t.faults = { s.faults with sysStore := some (s.keeper.number + 1) }
      ∧ t.keeper.number = s.keeper.number + 1 ∧ t.keeper.last = some .systemReset
      ∧ ∃ j, t.keeper.run = some j ∧ j.kind = .systemReset ∧ j.left = (List.range 128).map (fun k => (k, false))

/-- The records. An ember that is complete, with no CRITICAL store due, is a valid record of its magic in the next
slot, with the next sequence number, and the collector holds it. A header rewrite that is due, with no store running,
seals the ember's record again with the first fault's time and changes no byte outside it. The waiting event entry of
the least ring time, the first of equals, goes behind the last of the open record, which is not full, whose count rises
by one. The collector's commands, while the fabric
serves registers. CLEAR of a held report with no CRITICAL store due empties it, and is refused otherwise with CLRREF;
CLRCNT zeroes every count. Without the injection lock DISARM disarms every source, a DRY FIRE with DISARM sets FIRED,
disarms and moves no rail, and a LIVE FIRE of a rail's over-voltage alone trips the rail in ON with TRIPCAUSE 1 and
sets FIRED; with the lock DISARM and FIRE are refused with INJREF. A shadow closes, of the domains and the device
named, when it has deferred no reaction. -/
def Obligations.CollectorCommands : Prop :=
  ((∀ (s : State) (b : Snapshot), s.faults.snap = some b → s.fltState = 1 → s.faults.critPend = false →
    s.fabricOn = true →
    ∃ t, exec .emberComplete s = .next t ∧ t.fltState = 2 ∧ t.fld aFltEmber 6 0 = s.logNext ∧ t.bit aFltEmber 31 = false
      ∧ t.faults.snap = none ∧ t.recValid s.logNext = true ∧ t.sramWord (recBase s.logNext) = 0x4B500001
      ∧ t.reg aLogSeq = (if s.bit aLogIdx 31 then s.reg aLogSeq + 1 else 1) ∧ ∀ a, t.shadowByte a = s.shadowByte a)
  ∧ (∀ s : State, s.fltState = 2 → s.faults.rewrite = true → s.faults.critPend = false → s.keeper.locked = false →
    s.keeper.run = none → s.fabricOn = true →
    ∃ t, exec .headerRewrite s = .next t ∧ t.faults = { s.faults with rewrite := false } ∧ t.bit aFltEmber 31 = false
      ∧ t.sramWord (recBase s.emberSlot + 0x3FC) = crc32 (t.bytes (recBase s.emberSlot) 0x3FC)
      ∧ t.sramWord (recBase s.emberSlot + 8) = s.reg aFltFirstTL
      ∧ (∀ a, (a < recBase s.emberSlot ∨ recBase s.emberSlot + 0x400 ≤ a) → t.byte a = s.byte a)
      ∧ t = { s with regs := t.regs, faults := t.faults, sram := t.sram, keeper := t.keeper })
  ∧ ∀ (s : State) (e : LogEntry) (l q : List LogEntry), s.loggerFree = true → s.faults.startPend = false →
    s.faults.queue = l ++ e :: q → (∀ x ∈ l, e.time < x.time) → (∀ x ∈ q, e.time ≤ x.time) → s.oldestLog = none →
    s.bit aLogIdx 15 = true → (s.byte (recBase (s.fld aLogIdx 30 24) + 0x10)).toNat < 61 →
    ∃ t, exec .logEntryWrite s = .next t ∧ t.faults = { s.faults with queue := l ++ q }
      ∧ t.bytes (recBase (s.fld aLogIdx 30 24) + 0x20 + 16 * (s.byte (recBase (s.fld aLogIdx 30 24) + 0x10)).toNat) 16
        = e.bytes
      ∧ t.byte (recBase (s.fld aLogIdx 30 24) + 0x10) = s.byte (recBase (s.fld aLogIdx 30 24) + 0x10) + 1
      ∧ t = { s with faults := t.faults, sram := t.sram, keeper := t.keeper })
  ∧ ((∀ (s : State) (who : Who), s.serves = true →
    (s.fltState = 2 → s.faults.critPend = false →
      ∃ t, exec (.clear who) s = .next t ∧ t.fltState = 0 ∧ t.reg aFltFirst = 0 ∧ t.reg aFltFirstTL = 0
        ∧ t.reg aFltFirstTH = 0 ∧ t.reg aFltMerge = 0
        ∧ (∀ a, a ∉ [aFltStat, aFltFirst, aFltFirstTL, aFltFirstTH, aFltMerge] → t.reg a = s.reg a)
        ∧ t = { s with regs := t.regs, faults := { s.faults with rewrite := false } })
    ∧ (s.fltState ≠ 2 →
      ∃ t, exec (.clear who) s = .next t ∧ s.RegsBecome [aFltStat] t ∧ t.reg aFltStat = s.reg aFltStat ||| 2)
    ∧ (∃ t, exec (.clrcnt who) s = .next t ∧ s.RegsBecome ((List.range 96).map aCnt) t
      ∧ ∀ k, k < 96 → t.reg (aCnt k) = 0)
    ∧ (s.lockInject = false →
      ∃ t, exec (.disarm who) s = .next t ∧ s.RegsBecome ((List.range 12).map aInjArm) t
        ∧ ∀ k, k < 12 → t.reg (aInjArm k) = 0)
    ∧ (s.lockInject = true →
      (∃ t, exec (.disarm who) s = .next t ∧ s.RegsBecome [aFltStat] t ∧ t.reg aFltStat = s.reg aFltStat ||| 8)
      ∧ ∀ b, ∃ t, exec (.fire who b []) s = .next t ∧ s.RegsBecome [aFltStat] t
        ∧ t.reg aFltStat = s.reg aFltStat ||| 8)
    ∧ (s.lockInject = false → s.bit aInjCtl 31 = false →
      ∃ t, exec (.fire who true []) s = .next t ∧ s.CycleOf [] [] t ∧ t.bit aFltStat 4 = true
        ∧ ∀ k, k < 12 → t.reg (aInjArm k) = 0)
    ∧ ∀ r : Rail, s.lockInject = false → s.bit aInjCtl 31 = true → s.armed = [railSrc r .ov] → (s.ch r).st = .on →
      ∃ t, exec (.fire who false []) s = .next t ∧ s.CycleOf [r] [aChFlags r] t ∧ (t.ch r).st = .tripped
        ∧ (t.ch r).trip = 1 ∧ t.bit aFltStat 4 = true)
  ∧ ∀ (s : State) (m : BitVec 16) (dev : Bool), s.faults.deferred = [] →
    ∃ t, exec (.shadowClose m dev) s = .next t ∧ t = { s with faults := { s.faults with
        shadows := t.faults.shadows, devShadow := if dev then none else s.faults.devShadow } }
      ∧ ∀ d : DomId, t.faults.shadows[d] = if m.getLsbD d.val then none else s.faults.shadows[d])

/-! Power, boot and clocks -/

/-- Input supervision: VIN falling below its threshold withdraws VINOK and starts a wake from a sleep state; qualified low
in RUN and DOZE it starts the power-fail sequence, which clears BANDMS, locks the keeping store, stops the wicks that run
or wait, brings rails that are ON to FALLING and starts the power-fail store; qualified low in NAP, HIBERNATE or the wake
from them the sequence falls due at the end of the wake, which starts; qualified low in a loaded device before RUN it
powers down; in the power-fail sequence and in input-low it clears BANDMS and nothing else; VIN back above its falling
threshold, within the band or beyond it, sets VINOK in RUN; in input-low
a qualified VIN starts the boot with CAUSE 0, a recall due and the registers but MON_VIN, PWR_CLKSTAT and RST_CAUSE at
their reset values, and each millisecond in the band counts, the hundredth setting MARGINAL. -/
def Obligations.InputSupervision : Prop :=
  ∀ s : State,
    (s.power.phase ≠ .unpowered → s.power.vin ≠ .below →
      ∃ t, exec .vinFall s = .next t
        ∧ t.power = { s.power with vin := .below, waking := s.power.waking || s.asleep } ∧ t.bit aMonVin 0 = false
        ∧ t.wicks = s.wicks ∧ t.doms = s.doms)
    ∧ (s.power.vin = .below → s.power.phase = .run → s.fabricOn = true →
      ∃ t, exec .vinLowQualified s = .next t ∧ t.power.phase = .powerFail ∧ t.fld aMonVin 31 16 = 0 ∧ t.keeper.locked = true
        ∧ t.bit aMonVin 1 = true
        ∧ t.bit aMonVin 0 = false ∧ (∃ j, t.keeper.run = some j ∧ j.kind = .powerFail)
        ∧ (∀ w, ((s.wk w).st = .run ∨ ∃ k, (s.wk w).st = .wait k) → t.wk w = { s.wk w with stop := true })
        ∧ ∀ r, s.use r = true → (s.ch r).st = .on → (t.ch r).st = .falling)
    ∧ (s.power.vin = .below → s.power.phase = .run → s.fabricOn = false →
      exec .vinLowQualified s = .next { s with power := { s.power with failDue := true, waking := true } })
    ∧ (s.power.vin = .below → (s.power.phase = .inputLow ∨ s.power.phase = .powerFail) →
      ∃ t, exec .vinLowQualified s = .next t ∧ s.RegsBecome [aMonVin] t ∧ t.reg aMonVin = put (s.reg aMonVin) 31 16 0)
    ∧ (s.power.vin = .below → s.power.phase = .loaded →
      ∃ t, exec .vinLowQualified s = .next t ∧ t.power.phase = .inputLow ∧ t.bit aMonVin 1 = true ∧ t.fld aMonVin 31 16 = 0)
    ∧ (∀ band, s.power.phase = .run →
      ∃ t, exec (.vinRise band) s = .next t ∧ t.bit aMonVin 0 = true
        ∧ t.power = { s.power with vin := if band then .band else .above, waking := t.power.waking })
    ∧ (s.power.phase = .inputLow → s.power.vin = .above →
      ∃ t, exec .vinQualified s = .next t ∧ t.power.phase = .regulators ∧ t.power.cause = 0 ∧ t.power.recallDue = true
        ∧ t.bit aMonVin 0 = true ∧ t.bit aMonVin 1 = false ∧ t.fld aMonVin 31 16 = 0 ∧ t.fld aRstCause 2 0 = 0
        ∧ (∀ a, a ∉ [aMonVin, aClkStat, aRstCause] → t.reg a = resetWord a))
    ∧ (s.power.phase = .inputLow →
      ∃ t, exec .vinBandMs s = .next t ∧ s.RegsBecome [aMonVin] { t with power := s.power }
        ∧ t.power = { s.power with vin := .band } ∧ t.fld aMonVin 31 16 = min (s.fld aMonVin 31 16 + 1) 65535
        ∧ t.bit aMonVin 2 = (s.bit aMonVin 2 || s.fld aMonVin 31 16 == 99))

/-- The boot, step by step: the straps at the internal supplies, once in a power-up, the clocks, the recall, whose SRAM
holds the shadow array's bytes outside the copies, counters and record magics that the repair may write, and whose repair
shows the journal and clears its marks, the end of the repair with no store running, the configuration set where there is
none, which makes STORE CRITICAL, the image whose check passes or IMGBAD where there is none, RUN without AUTO wicks,
which needs VHOK or its time limit, the scanner's first frame and a die of at most 140 °C, and the time limit itself, also
in a reset before the recall. -/
def Obligations.BootSteps : Prop :=
  ∀ s : State,
    (∀ x : Straps, s.power.phase = .regulators →
      ∃ t, exec (.internalSuppliesReady x) s = .next t
        ∧ t = { s with
          power := { s.power with phase := .supplies, supplies := true }
          tether := if s.power.supplies then s.tether else { s.tether with straps := x } })
    ∧ (∀ x a : Bool, s.power.phase = .supplies →
      ∃ t, exec (.refClockReady x a) s = .next t ∧ t.power = { s.power with phase := .reference }
        ∧ t.bit aClkStat 31 = (x && !s.power.xFailed) ∧ t.bit aClkStat 30 = (a && !s.power.aoFailed)
        ∧ t = { s with regs := t.regs, power := t.power } ∧ ∀ b, b ≠ aClkStat → t.reg b = s.reg b)
    ∧ (s.power.phase = .reference →
      ∃ t, exec .pllLocked s = .next t ∧ t.power = { s.power with phase := .locked } ∧ t.bit aClkStat 29 = true
        ∧ t = { s with regs := t.regs, power := t.power } ∧ ∀ b, b ≠ aClkStat → t.reg b = s.reg b)
    ∧ (s.power.phase = .locked → s.power.recallDue = true →
      ∃ t, exec .recallDone s = .next t ∧ t = { s with regs := t.regs, sram := t.sram, keeper := t.keeper, power := t.power }
        ∧ t.power.phase = .recalled ∧ t.power.recallDue = false ∧ t.power.recalled = true
        ∧ (∀ a, (a < 0x20000 ∧ 4 ≤ a % 0x400) ∨ (0x24000 ≤ a ∧ a < 0x3A000) → t.byte a = s.shadowByte a)
        ∧ t.keeper.liveMark = false ∧ t.keeper.tornPage = none ∧ t.keeper.abandonMark = false ∧ t.bit aRepair 5 = true
        ∧ t.bit aRepair 31 = s.keeper.liveMark ∧ t.bit aRepair 30 = s.keeper.tornPage.isSome)
    ∧ (s.power.phase = .recalled → s.keeper.run = none →
      ∃ t, exec .repairDone s = .next t ∧ t = { s with power := { s.power with phase := .repaired }, keeper := t.keeper }
        ∧ t.keeper = { s.keeper with lastEnd := some (s.keeper.lastEnd.getD s.cycle) })
    ∧ (s.power.phase = .repaired → s.power.set = none → s.protect.eraseMark = false →
      ∃ t, exec .configSetApplied s = .next t ∧ t.power.phase = .configured ∧ t.sev srcStore = 3 ∧ t.wicks = s.wicks
        ∧ t.chans.map (·.st) = s.chans.map (·.st) ∧ t.reserve.scoff = s.reserve.scoff)
    ∧ (∀ b, s.power.phase = .configured → s.cmtChoice.copy? = some b → s.imagePasses b = true →
      ∃ t, exec .imageLoaded s = .next t ∧ t.power = { s.power with phase := .loaded }
        ∧ (∀ i, t.imemWord i = if i < s.cmtLen b then s.sramWord (slotBase (s.cmtSlot b) + 4 * i) else 0)
        ∧ t.reg aSeqLiveVer = s.cmtVer b ∧ t.bit aSeqStat 30 = s.bit aSeqStat 30)
    ∧ (s.power.phase = .configured → s.cmtChoice = .none →
      ∃ t, exec .imageLoaded s = .next t ∧ t.power.phase = .loaded ∧ t.bit aSeqStat 30 = true ∧ t.imem = s.imem)
    ∧ (∀ n : Int, s.power.phase = .loaded → (s.bit aKpsStat 25 = true ∨ s.power.vhokLimit = true) → n ≤ 1400 →
      s.scanned = true → s.erasing = false → s.bit aSeqCtl 31 = false →
      ∃ t, exec (.bootRun n) s = .next t ∧ t.power.phase = .run ∧ t.keeper.liveMark = true ∧ t.faults.startPend = true
        ∧ t.bit aMonVin 3 = s.bit aMonVin 2 ∧ t.bit aMonVin 2 = false ∧ t.bit aRstCause 5 = !s.bit aKpsStat 25
        ∧ t.wicks = s.wicks ∧ t.doms = s.doms)
    ∧ ((s.power.phase ∈ [Phase.regulators, .supplies, .reference, .locked, .recalled, .repaired, .configured, .loaded]
        ∨ (s.power.phase = .inReset ∧ s.power.recallDue = true)) →
      ∃ t, exec .vhokWaitLimit s = .next t ∧ t = { s with power := { s.power with vhokLimit := true } })

/-- Power states, clocks and heat: in RUN and each sleep state, outside a wake and with no cause that holds RUN, the chosen
state is entered where it is deeper, unless a wake source comes in the same cycle; a wake that its source starts ends in
RUN, where CLOSE and ERASE of an alarm that waits for it take effect as they were selected at the detection, and where a
power-fail sequence that is due starts; the causes of its cycle act in the order of R551, whichever comes first; a lost crystal or PLL lock clears its status bit and sets its flag, the time master
giving up its role with the reference crystal, and the PLL bit returns with the lock; the thermal warning sets its bit
and takes its arming, the thermal shutdown sets its bit and brings the integrated rails that are ON to FALLING, and the
rearming undoes both bits of state and TWARN. -/
def Obligations.PowerStatesAndClocks : Prop :=
  (∀ s : State, s.power.phase = .run → s.power.waking = false → s.deepest ≠ 0 →
    ∃ t, exec (.enterPowerState false) s = .next t
      ∧ t.power.state = (match s.sleepChoice with
        | some x => if x.code ≤ s.power.state.code then s.power.state else x
        | none => s.power.state)
      ∧ (t.power.state ≠ s.power.state → t.power.since = s.cycle ∧ t.power.seen = s.watched
        ∧ (t.power.state = .hibernate → t.bit aClkStat 29 = false))
      ∧ (∀ a, a ≠ aClkStat → t.reg a = s.reg a)
      ∧ t = { s with
        regs := t.regs, power := { s.power with state := t.power.state, since := t.power.since, seen := t.power.seen } })
  ∧ (∀ s : State, ∃ t, exec (.enterPowerState true) s = .next t
    ∧ t = { s with power := { s.power with waking := s.power.waking || s.asleep } })
  ∧ (∀ (s : State) (k : WakeKind),
    (s.wakeSource k = true →
      ∃ t, exec (.wakeStart k) s = .next t
        ∧ t = { s with power := { s.power with waking := s.power.waking || s.asleep } })
    ∧ (s.wakeSource k = false → exec (.wakeStart k) s = .next s))
  ∧ (∀ (s : State) (hw : HwBits), s.power.waking = true →
    (s.protect.lateClose = false → s.protect.lateErase = false → s.power.failDue = false → s.power.held = [] →
      ∃ t, exec (.wakeComplete hw []) s = .next t ∧ t.power = { s.power with state := .run, waking := false }
        ∧ t = { s with regs := t.regs, power := t.power } ∧ (∀ a, a ≠ aClkStat → t.reg a = s.reg a)
        ∧ (s.power.state = .hibernate → t.bit aClkStat 29 = true))
    ∧ (s.power.held = [] → s.power.failDue = false →
      ∃ t, exec (.wakeComplete hw []) s = .next t ∧ t.power = { s.power with state := .run, waking := false }
        ∧ t.protect.lateClose = false ∧ t.protect.lateErase = false
        ∧ (s.protect.lateClose = true → ∀ p i, (t.sess p i).isOpen = false)
        ∧ (s.protect.lateErase = true → t.erasing = true))
    ∧ (s.power.failDue = true →
      ∃ t, exec (.wakeComplete hw []) s = .next t ∧ t.power.phase = .powerFail ∧ t.power.held = []
        ∧ t.keeper.locked = true ∧ (s.protect.lateClose = true → ∀ p i, (t.sess p i).isOpen = false)
        ∧ (s.protect.lateErase = true → t.erasing = true)))
  ∧ (∀ (s : State) (hw : HwBits) (e f : SecEvent), secOrder e ≠ secOrder f →
    exec (.wakeComplete hw [e, f]) s = exec (.wakeComplete hw [f, e]) s)
  ∧ (∀ s : State, s.supplied = true → s.bit aClkStat 31 = true →
    ∃ t, exec .referenceCrystalFail s = .next t ∧ t.bit aClkStat 31 = false ∧ t.bit aClkStat 2 = true
      ∧ t.power = { s.power with xFailed := true, waking := t.power.waking } ∧ t.bit aRngStat 31 = false
      ∧ t.bit aRngStat 30 = false
      ∧ s.CycleOf [] [] { t with power := s.power })
  ∧ (∀ s : State, s.power.phase ≠ .unpowered → s.bit aClkStat 30 = true →
    ∃ t, exec .aoCrystalFail s = .next t ∧ t.bit aClkStat 30 = false ∧ t.bit aClkStat 1 = true
      ∧ t.power = { s.power with aoFailed := true, waking := t.power.waking } ∧ s.CycleOf [] [] { t with power := s.power })
  ∧ (∀ s : State,
    (s.supplied = true → s.bit aClkStat 29 = true →
      ∃ t, exec .pllLockLoss s = .next t ∧ t.bit aClkStat 29 = false ∧ t.bit aClkStat 0 = true ∧ s.CycleOf [] [] t)
    ∧ (s.powered = true ∨ (s.power.phase = .inReset ∧ s.power.recallDue = false) → s.power.state ≠ .hibernate →
      ∃ t, exec .pllLockReturn s = .next t ∧ s.RegsBecome [aClkStat] t ∧ t.bit aClkStat 29 = true))
  ∧ ∀ s : State, s.configured = true →
    (s.power.warnArmed = true →
      ∃ t, exec .thermalWarning s = .next t ∧ t.bit aPwrStat 3 = true
        ∧ t.power = { s.power with warnArmed := false, waking := t.power.waking }
        ∧ s.CycleOf [] [] { t with power := s.power })
    ∧ (∃ t, exec .thermalShutdown s = .next t ∧ t.bit aPwrStat 2 = true
      ∧ t.power = { s.power with hot := true, waking := t.power.waking }
      ∧ (∀ r, isExt r = false → s.use r = true → (s.ch r).st = .on → (t.ch r).st = .falling)
      ∧ ∀ r, isExt r = true → t.ch r = { s.ch r with perturb := (t.ch r).perturb })
    ∧ ∃ t, exec .thermalRearm s = .next t ∧ t.power = { s.power with warnArmed := true, hot := false }
      ∧ t.bit aPwrStat 3 = false ∧ t = { s with regs := t.regs, power := t.power } ∧ ∀ a, a ≠ aPwrStat → t.reg a = s.reg a

/-- Resets. RESETN low in RUN or in a boot brings rails, wicks, domains and sessions to their reset states and leaves
the keeping store's memories, its dirty bits, the telemetry memory and the always-on registers; its release, a JTAG
reset and, once its store has ended with no shutdown running, a system reset restart with CAUSE 2, 2 and 1, at the
repair where no recall is due, else at the recall or, without PLL lock, at the regulators. The always-on domain
without supply keeps the shadow array, and comes back input-low. -/
def Obligations.Resets : Prop :=
  (∀ s : State, (s.power.phase = .run ∨ s.booting = true) →
    (∃ t, exec .deviceReset s = .next t ∧ s.Restarted t ∧ t.power.phase = .inReset ∧ t.sram = s.sram
      ∧ t.keeper.dirty = s.keeper.dirty)
    ∧ ∃ t, exec .jtagReset s = .next t ∧ s.Restarted t ∧ s.restartsAt 2 t)
  ∧ (∀ s : State, s.power.phase = .inReset →
    ∃ t, exec .resetnRelease s = .next t ∧ s.restartsAt 2 t
      ∧ t = { s with regs := t.regs, sram := t.sram, keeper := t.keeper, power := t.power })
  ∧ (∀ (s : State) (n : Nat), s.power.phase = .run → s.faults.sysReset = true → s.shut = .idle →
    s.faults.sysStore = some n → (n < s.keeper.number ∨ (n = s.keeper.number ∧ s.keeper.run = none)) →
    ∃ t, exec .systemResetRestart s = .next t ∧ s.Restarted t ∧ s.restartsAt 1 t)
  ∧ ∀ s : State,
    (∃ t, exec .alwaysOnPowerLoss s = .next t ∧ t.power.phase = .unpowered ∧ (∀ a, t.reg a = resetWord a)
      ∧ (s.keeper.run = none → t.shadow = s.shadow) ∧ ∀ r, (t.ch r).st = .off)
    ∧ ∀ x : Bool, s.power.phase = .unpowered →
      ∃ t, exec (.alwaysOnPowerUp x) s = .next t ∧ t.power = { s.power with phase := .inputLow } ∧ t.bit aClkStat 30 = x
        ∧ t = { s with regs := t.regs, power := t.power } ∧ ∀ a, a ≠ aClkStat → t.reg a = s.reg a

/-! Protection, registers and the JTAG port -/

/-- While the fabric serves registers, each of the six lock commands sets its bit of SEC_LOCK and leaves the other
registers, but that LOCK_INJECT also disarms every source, and LOCK_DEBUG takes a private instruction or EXTEST from
the JTAG port. A register write, while the fabric serves registers: a
stored register takes the bits it has, the configuration lock refuses it with the block's flag, a register that is
read only ignores it, and a W1C bit written 1 clears unless the device sets it in the same cycle. -/
def Obligations.LocksAndWrites : Prop :=
  (∀ (s : State) (who : Who), s.serves = true →
    (∃ t, exec (.lockCfg who) s = .next t ∧ s.RegsBecome [aLock] t ∧ t.reg aLock = s.reg aLock ||| 1)
    ∧ (∃ t, exec (.lockProg who) s = .next t ∧ s.RegsBecome [aLock] t ∧ t.reg aLock = s.reg aLock ||| 2)
    ∧ (∃ t, exec (.lockBp who) s = .next t ∧ s.RegsBecome [aLock] t ∧ t.reg aLock = s.reg aLock ||| 4)
    ∧ (∃ t, exec (.lockKey who) s = .next t ∧ s.RegsBecome [aLock] t ∧ t.reg aLock = s.reg aLock ||| 8)
    ∧ (∃ t, exec (.lockDebug who) s = .next t ∧ s.RegsBecome [aLock] { t with protect := s.protect }
      ∧ t.reg aLock = s.reg aLock ||| 16
      ∧ t.protect = (if s.protect.jtag = .extest ∨ s.protect.jtag = .priv then
          { s.protect with jtag := .bypass, jtagOut := 0 } else s.protect))
    ∧ ∃ t, exec (.lockInject who) s = .next t ∧ s.RegsBecome (aLock :: (List.range 12).map aInjArm) t
      ∧ t.reg aLock = s.reg aLock ||| 32 ∧ ∀ k, k < 12 → t.reg (aInjArm k) = 0)
  ∧ (∀ (s : State) (who : Who) (v hw : Word) (r : Rail), s.serves = true →
    (s.lockCfg = false →
      ∃ t, exec (.registerWrite who aPwrCtl v hw) s = .next t ∧ s.RegsBecome [aPwrCtl] t
        ∧ t.reg aPwrCtl = v &&& 0xC0000000)
    ∧ (s.lockCfg = true →
      ∃ t, exec (.registerWrite who aPwrCtl v hw) s = .next t ∧ s.RegsBecome [aPwrStat] t
        ∧ t.reg aPwrStat = s.reg aPwrStat ||| 1)
    ∧ exec (.registerWrite who (aChState r) v hw) s = .next s
    ∧ (s.lockCfg = false →
      ∃ t, exec (.registerWrite who (aChTon r) v hw) s = .next t ∧ s.RegsBecome [aChTon r] t
        ∧ t.reg (aChTon r) = v &&& 0x03FFFFFF)
    ∧ ∃ t, exec (.registerWrite who aSeqStat v hw) s = .next t ∧ s.RegsBecome [aSeqStat] t
      ∧ t.reg aSeqStat = s.reg aSeqStat &&& ~~~(v &&& ~~~hw &&& 3))

/-- A key erase raises ERASING and leaves its mark; at its end, with the fabric domain on, the key slots hold 0 in the
SRAM and in the shadow array, and every other byte is as it was; so at the end of an erase that went on without input
power. -/
def Obligations.KeyErase : Prop :=
  (∀ (s : State) (who : Who), s.serves = true → s.erasing = false →
    ∃ t, exec (.erase who) s = .next t ∧ t.erasing = true ∧ t.protect = { s.protect with eraseMark := true }
      ∧ t = { s with regs := t.regs, protect := t.protect } ∧ ∀ a, a ≠ aSecStat → t.reg a = s.reg a)
  ∧ (∀ s : State, s.fabricOn = true → s.erasing = true →
    ∃ t, exec .keyEraseDone s = .next t ∧ t.erasing = false ∧ t.bit aSecStat 2 = true ∧ t.protect.eraseMark = false
      ∧ (∀ a, t.byte a = if 0x3C000 ≤ a ∧ a < 0x3C080 then 0 else s.byte a)
      ∧ (∀ a, t.shadowByte a = if 0x3C000 ≤ a ∧ a < 0x3C080 then 0 else s.shadowByte a)
      ∧ t = { s with
        regs := t.regs, sram := t.sram, shadow := t.shadow, keeper := t.keeper
        protect := { s.protect with eraseMark := false, eraseTail := false } })
  ∧ ∀ s : State, s.fabricOn = true → s.erasing = false → s.protect.eraseTail = true →
    ∃ t, exec .keyEraseDone s = .next t
      ∧ (∀ a, t.byte a = if 0x3C000 ≤ a ∧ a < 0x3C080 then 0 else s.byte a)
      ∧ (∀ a, t.shadowByte a = if 0x3C000 ≤ a ∧ a < 0x3C080 then 0 else s.shadowByte a)
      ∧ t = { s with
        sram := t.sram, shadow := t.shadow, protect := { s.protect with eraseMark := false, eraseTail := false } }

/-- Tamper detection: a mismatch of a static loop counts, as many as TFILT make a detection, which with no action
chosen sets its latch bit, and a match withdraws it; the level of each glitch detector that is watched is its
detection, whose rise sets its latch bit and, with CLOSE among the actions, closes every session; in a sleep state it
sets the latch bit and starts a wake, and CLOSE and ERASE, as they are selected then, wait for the RUN after it. -/
def Obligations.TamperDetection : Prop :=
  (∀ s : State, s.tamperRuns = true → s.asleep = false → s.bit aTampCfg 29 = true → s.bit aTampCfg 28 = false →
    s.reg aAlarmAct = 0 →
    (s.protect.miss[(0 : Fin 2)] + 1 < max 1 (s.fld aTampCfg 7 0) →
      ∃ t, exec (.tamperLoopSample false false) s = .next t ∧ t = { s with protect := t.protect }
        ∧ t.protect.miss[(0 : Fin 2)] = s.protect.miss[(0 : Fin 2)] + 1 ∧ t.protect.detect.getLsbD 0 = false)
    ∧ (max 1 (s.fld aTampCfg 7 0) ≤ s.protect.miss[(0 : Fin 2)] + 1 → s.protect.miss[(0 : Fin 2)] < 256 →
      s.protect.detect.getLsbD 0 = false →
      ∃ t, exec (.tamperLoopSample false false) s = .next t ∧ t.protect.detect.getLsbD 0 = true ∧ t.bit aAlarm 0 = true
        ∧ t = { s with regs := t.regs, keeper := t.keeper, protect := t.protect })
    ∧ ∃ t, exec (.tamperLoopSample false true) s = .next t ∧ t = { s with protect := t.protect }
      ∧ t.protect.miss[(0 : Fin 2)] = 0 ∧ t.protect.detect.getLsbD 0 = false)
  ∧ (∀ (s : State) (on : Bool), s.tamperRuns = true → s.asleep = false →
    (s.bit aTampCfg 25 = true → ∃ t, exec (.voltageGlitch on) s = .next t ∧ s.detects 2 on t)
    ∧ (s.bit aTampCfg 26 = true → ∃ t, exec (.temperatureGlitch on) s = .next t ∧ s.detects 3 on t)
    ∧ (s.bit aTampCfg 27 = true → s.power.state ≠ .hibernate →
      ∃ t, exec (.clockGlitch on) s = .next t ∧ s.detects 4 on t))
  ∧ ∀ s : State, s.tamperRuns = true → s.asleep = true → s.bit aTampCfg 25 = true →
    s.protect.detect.getLsbD 2 = false →
    ∃ t, exec (.voltageGlitch true) s = .next t ∧ t.bit aAlarm 2 = true ∧ t.power = { s.power with waking := true }
      ∧ t.protect.lateClose = (s.protect.lateClose || s.bit aAlarmAct 1)
      ∧ t.protect.lateErase = (s.protect.lateErase || s.bit aAlarmAct 3)
      ∧ t.hosts = s.hosts ∧ t.erasing = s.erasing

/-- The JTAG port: each public instruction is held with the word it shifts out; a private one that reads a register
shifts out its word, and where LOCK_DEBUG or the boot bars it, it and EXTEST act as BYPASS. -/
def Obligations.JtagPort : Prop :=
  ∀ s : State,
    (∃ t, exec .jtagBypass s = .next t ∧ t = { s with protect := { s.protect with jtag := .bypass, jtagOut := 0 } })
    ∧ (∃ t, exec .jtagIdcode s = .next t
      ∧ t = { s with protect := { s.protect with jtag := .idcode, jtagOut := t.protect.jtagOut } }
      ∧ t.protect.jtagOut.getLsbD 0 = true ∧ t.protect.jtagOut.extractLsb' 12 16 = 0x6448)
    ∧ (∃ t, exec .jtagSamplePreload s = .next t
      ∧ t = { s with protect := { s.protect with jtag := .samplePreload, jtagOut := 0 } })
    ∧ (∃ t, exec .jtagExtest s = .next t ∧ t = { s with protect := { s.protect with
        jtag := if s.jtagOpen then .extest else .bypass, jtagOut := 0 } })
    ∧ (∀ (who : Who) (d : BitVec 64) (a : Nat), s.jtagOpen = true → s.serves = true → regWindow a = true → a % 4 = 0 →
      ∃ t, exec (.jtagPrivate { who := who, addr := a, write := false, size := 4, data := d }) s = .next t
        ∧ t = { s with protect := { s.protect with jtag := .priv, jtagOut := (s.regRead a).setWidth 64 } })
    ∧ ∀ x : Transfer, s.jtagOpen = false →
      ∃ t, exec (.jtagPrivate x) s = .next t ∧ t = { s with protect := { s.protect with jtag := .bypass, jtagOut := 0 } }

/-- With no transfer in flight the arbiter grants the waiting requester of the highest effective class and, within it,
of the highest credit plus age, the lowest number first; each other waiting requester below the greatest age grows
older by one. The arbiter's other commands: a request presented on an idle fabric waits; the end of a transfer in its
last cycle carries it out, here a read of a register; a window boundary gives every requester its weight as credit;
COMMIT makes the shadows live and clips the credits unless it is locked or beyond the sum of weights, and CLRCNT
clears the count of preemptions. -/
def Obligations.ArbiterCommands : Prop :=
  (∀ (s : State) (g : Fin 13) (tr : Transfer), s.fabricRuns = true → s.arb.flight = none →
    s.arb.reqs[g].wait = some tr → (∀ n : Fin 13, s.arb.reqs[n].cred + s.arb.reqs[n].age < 2 ^ 20) →
    (∀ n : Fin 13, n ≠ g → s.arb.reqs[n].wait ≠ none →
      s.effClass n < s.effClass g
        ∨ (s.effClass n = s.effClass g ∧ s.arb.reqs[n].cred + s.arb.reqs[n].age < s.arb.reqs[g].cred + s.arb.reqs[g].age)
        ∨ (s.effClass n = s.effClass g
          ∧ s.arb.reqs[n].cred + s.arb.reqs[n].age = s.arb.reqs[g].cred + s.arb.reqs[g].age ∧ g < n)) →
    ∃ t, exec (.grant []) s = .next t ∧ t.arb.flight = some (g, tr, s.transferCycles tr - 1)
      ∧ t.arb.reqs[g] = { wait := none, cred := s.arb.reqs[g].cred - 1, age := 0, starved := false }
      ∧ (∀ n : Fin 13, n ≠ g → s.arb.reqs[n].wait ≠ none → s.arb.reqs[n].age < 65535 →
        t.arb.reqs[n] = { s.arb.reqs[n] with age := s.arb.reqs[n].age + 1 })
      ∧ ∀ n : Fin 13, s.arb.reqs[n].wait = none → t.arb.reqs[n] = s.arb.reqs[n])
  ∧ ((∀ (s : State) (x : Transfer), s.fabricRuns = true → s.arb.flight = none → (∀ n : Fin 13, s.arb.reqs[n].wait = none) →
    ∃ t, exec (.grant [x]) s = .next t ∧ t = { s with arb := { s.arb with reqs := t.arb.reqs } }
      ∧ t.arb.reqs[whoId x.who] = { s.arb.reqs[whoId x.who] with wait := some x }
      ∧ ∀ n : Fin 13, n ≠ whoId x.who → t.arb.reqs[n] = s.arb.reqs[n])
  ∧ (∀ (s : State) (n : Fin 13) (x : Transfer), s.fabricRuns = true → s.arb.flight = some (n, x, 0) →
    x.write = false → x.size = 4 → x.addr % 4 = 0 → regWindow x.addr = true →
    ∃ t, exec (.transferComplete []) s = .next t
      ∧ t = { s with arb := { s.arb with
        flight := none, lastRead := some (n, false, (({ s with arb := { s.arb with flight := none } } : State).regRead x.addr).setWidth 64) } })
  ∧ (∀ s : State, s.fabricRuns = true → 8192 ≤ s.arb.count → s.flightEnds = false →
    ∃ t, exec .windowBoundary s = .next t
      ∧ t = { s with arb := { s.arb with reqs := t.arb.reqs, count := s.arb.count - 8192 } }
      ∧ ∀ n : Fin 13, t.arb.reqs[n] = { s.arb.reqs[n] with cred := s.fld (aArbLive n) 10 0 })
  ∧ ∀ (s : State) (who : Who) (clear : Bool), s.serves = true →
    (s.lockCfg = true →
      ∃ t, exec (.arbCommit who clear) s = .next t ∧ s.RegsBecome [aArbStat, aArbPre] t
        ∧ t.reg aArbStat = s.reg aArbStat ||| 1 ∧ t.reg aArbPre = if clear then 0 else s.reg aArbPre)
    ∧ (s.lockCfg = false → 1024 < s.weights aArbPrio →
      ∃ t, exec (.arbCommit who clear) s = .next t ∧ s.RegsBecome [aArbStat, aArbPre] t
        ∧ t.reg aArbStat = s.reg aArbStat ||| 2 ∧ t.reg aArbPre = if clear then 0 else s.reg aArbPre)
    ∧ (s.lockCfg = false → s.weights aArbPrio ≤ 1024 →
      ∃ t, exec (.arbCommit who clear) s = .next t
        ∧ t = { s with regs := t.regs, arb := { s.arb with reqs := t.arb.reqs } }
        ∧ (∀ n : Fin 13, t.reg (aArbLive n) = s.reg (aArbPrio n)
          ∧ t.arb.reqs[n] = { s.arb.reqs[n] with cred := min (s.arb.reqs[n]).cred (s.fld (aArbPrio n) 10 0) })
        ∧ (t.reg aArbPre = if clear then 0 else s.reg aArbPre)
        ∧ ∀ a, a ≠ aArbPre → a ∉ (List.range 13).map aArbLive → t.reg a = s.reg a)
    ∧ ∃ t, exec (.arbClrcnt who) s = .next t ∧ s.RegsBecome [aArbPre] t ∧ t.reg aArbPre = 0)

/-! The host ports -/

/-- HELLO of version 3 without authentication opens its closed session, and BYE closes it; a session that times out or
that a CLOSE names closes. Closing counts the epoch on, empties the session and discards its queued responses; HELLO
and BYE answer OK. A frame starts a wake from a sleep state. -/
def Obligations.HostSessions : Prop :=
  (∀ (s : State) (f : HostFrame), frameSound f opHello → s.hears f → f.len = 0 → f.addr = 0 → f.ver = 3 →
    (s.sess f.port f.session).isOpen = false → (s.sess f.port f.session).exec = none →
    (s.sess f.port f.session).cache = [] →
    ∃ t r, exec (.uhpHello f) s = .next t ∧ t = { s.startWake with hosts := t.hosts } ∧ s.otherSessions t f.port f.session
      ∧ (t.sess f.port f.session).isOpen = true ∧ (t.sess f.port f.session).auth = false
      ∧ (t.sess f.port f.session).ver = 3 ∧ (t.sess f.port f.session).epoch = (s.sess f.port f.session).epoch
      ∧ (t.hosts[f.port]).queue = (s.hosts[f.port]).queue ++ [r]
      ∧ r.status = stOk ∧ r.session = f.session ∧ r.tag = f.tag ∧ r.op = opHello)
  ∧ (∀ (s : State) (f : HostFrame), frameSound f opBye → s.hears f → s.inSession f → f.len = 0 → f.addr = 0 →
    (s.sess f.port f.session).exec = none →
    ∃ t r, exec (.uhpBye f) s = .next t ∧ t = { s.startWake with hosts := t.hosts } ∧ s.otherSessions t f.port f.session
      ∧ t.sess f.port f.session = { epoch := (s.sess f.port f.session).epoch + 1 }
      ∧ (t.hosts[f.port]).queue = (s.hosts[f.port]).queue ++ [r]
      ∧ r.status = stOk ∧ r.session = f.session ∧ r.tag = f.tag ∧ r.op = opBye)
  ∧ (∀ (s : State) (p : Fin 2) (i : Fin 4), (s.sess p i).isOpen = true → (s.sess p i).tmoAt ≠ none →
    ∃ t, exec (.sessionTimeout p i) s = .next t ∧ t = { s with hosts := t.hosts } ∧ s.otherSessions t p i
      ∧ t.sess p i = { epoch := (s.sess p i).epoch + 1 }
      ∧ (t.hosts[p]).queue = (s.hosts[p]).queue.filter (fun r => r.session != i))
  ∧ ∀ (s : State) (who : Who) (p : Fin 2) (i : Fin 4), s.serves = true → (s.sess p i).isOpen = true →
    ∃ t, exec (.close who p i) s = .next t ∧ t = { s with hosts := t.hosts } ∧ s.otherSessions t p i
      ∧ t.sess p i = { epoch := (s.sess p i).epoch + 1 }
      ∧ (t.hosts[p]).queue = (s.hosts[p]).queue.filter (fun r => r.session != i)

/-- The operations of an open session of version 3 without authentication that executes no request take their effect
and execute until their response is due: READ and WRITE with their words still to move, RMW of RNG_TSETL, REQUEST that
hitches a free domain, RUN of an idle wick without operands, STORE without waiting, with no store running, and EVENTS
with its reads and, with an acknowledgement, its writes still to make. A READ that arrives in NAP or HIBERNATE is held
for the end of the wake that it starts, and a frame acts behind the causes of R551 in its cycle. ABORT of a READ that executes ends it with ABORTED and answers OK, and with no
request executing answers NOTFOUND; a READ of one register, or an EVENTS with one left, the only request that executes,
moves it and queues its response with the register's word. A read of the port clocks out the status
byte and the oldest response, as far as it goes, and takes from the queue a response clocked out whole; on I2C it goes
on with 0xFF. -/
def Obligations.HostOperations : Prop :=
  (∀ (s : State) (f : HostFrame), s.hears f → s.inSession f → (s.sess f.port f.session).exec = none →
    (∀ hw : HwBits, frameSound f opRead → f.len.toNat % 4 = 0 → f.len.toNat ≤ 1024 → f.addr.toNat % 4 = 0 →
      ∃ t q, exec (.uhpRead f 0 hw) s = .next t ∧ t = { s.startWake with hosts := t.hosts } ∧ s.otherSessions t f.port f.session
        ∧ (t.sess f.port f.session).exec = some q ∧ q.op = opRead ∧ q.cursor = f.addr ∧ q.reads = f.len.toNat / 4
        ∧ q.got = [] ∧ q.tag = f.tag ∧ q.refusedAt = none ∧ (t.hosts[f.port]).queue = (s.hosts[f.port]).queue)
    ∧ (∀ hw : HwBits, frameSound f opWrite → f.len.toNat % 4 = 0 → f.len.toNat ≤ 1024 → f.addr.toNat % 4 = 0 →
      ∃ t q, exec (.uhpWrite f 0 hw) s = .next t ∧ t = { s.startWake with hosts := t.hosts } ∧ s.otherSessions t f.port f.session
        ∧ (t.sess f.port f.session).exec = some q ∧ q.op = opWrite ∧ q.cursor = f.addr ∧ q.words = leWords f.payload
        ∧ q.tag = f.tag ∧ (t.hosts[f.port]).queue = (s.hosts[f.port]).queue)
    ∧ (∀ hw : Word, frameSound f opRmw → f.len = 8 → f.addr.toNat = aRngTsetL →
      ∃ t q, exec (.uhpRmw f hw) s = .next t ∧ t = { s.startWake with hosts := t.hosts, regs := t.regs }
        ∧ t.reg aRngTsetL = s.reg aRngTsetL &&& ~~~(pword f 0) ||| (pword f 4 &&& pword f 0)
        ∧ (∀ a, a ≠ aRngTsetL → t.reg a = s.reg a)
        ∧ (t.sess f.port f.session).exec = some q ∧ q.payload = wordBytes (s.reg aRngTsetL) ∧ q.status = stOk)
    ∧ (∀ d : DomId, frameSound f opRequest → f.len = 6 → f.addr = 0 → f.payload = [BitVec.ofNat 8 d.val, 1, 0, 0, 0, 0] →
      s.sdact = false → s.takesPart d = true → (s.dom d).owner = .none → (s.dom d).queue = [] →
      ∃ t q, exec (.uhpRequest f) s = .next t ∧ t = { s.startWake with hosts := t.hosts, doms := t.doms }
        ∧ t.dom d = { s.dom d with owner := .host f.port f.session, epoch := (s.sess f.port f.session).epoch }
        ∧ (∀ e, e ≠ d → t.dom e = s.dom e) ∧ (t.sess f.port f.session).exec = some q ∧ q.status = stOk)
    ∧ (∀ w : WickId, frameSound f opRun → f.len = 4 → f.payload = [BitVec.ofNat 8 w.val, 0, 0, 0] →
      f.addr.toNat < 4096 → f.addr.toNat < s.liveLen → s.progOf w = none → (s.wk w).st = .idle →
      ∃ t q, exec (.uhpRun f) s = .next t ∧ t = { s.startWake with hosts := t.hosts, wicks := t.wicks } ∧ (t.wk w).st = .run
        ∧ (t.wk w).pc = BitVec.ofNat 12 f.addr.toNat ∧ (t.wk w).epoch = (s.wk w).epoch + 1
        ∧ (∀ u, u ≠ w → t.wk u = s.wk u) ∧ (t.sess f.port f.session).exec = some q ∧ q.status = stOk)
    ∧ (frameSound f opStore → f.len = 1 → f.addr = 0 → f.payload = [0] → s.keeper.locked = false →
      s.keeper.run = none →
      ∃ t q, exec (.uhpStore f) s = .next t ∧ t = { s.startWake with hosts := t.hosts, keeper := t.keeper }
        ∧ t.keeper.number = s.keeper.number + 1 ∧ t.keeper.last = some .store
        ∧ (∃ j, t.keeper.run = some j ∧ j.kind = .store ∧ j.left = (List.range 256).map (fun k => (k, false)))
        ∧ (t.sess f.port f.session).exec = some q ∧ q.waitStore = none ∧ q.status = stOk)
    ∧ (∀ (hw : HwBits) (b : Bool), frameSound f opEvents → f.len = 1 → f.addr = 0 → f.payload = [if b then 1 else 0] →
      ∃ t q, exec (.uhpEvents f 0 hw) s = .next t ∧ t = { s.startWake with hosts := t.hosts }
        ∧ (t.sess f.port f.session).exec = some q ∧ q.op = opEvents ∧ q.status = stOk ∧ q.got = []
        ∧ q.events = aFltStat :: aFltFirst :: (List.range 12).map (fun k => aPend k)
        ∧ q.clears = if b then (List.range 12).map (fun k => (aPend k, 0)) else []))
  ∧ (∀ (s : State) (f : HostFrame) (n : Nat) (hw : HwBits), s.hostListens f.port = true → s.fabricOn = false → f.op = opRead →
    f.co = [] → ∃ t, exec (.uhpRead f n hw) s = .next t ∧ t = { s with power := { s.power with
      waking := s.power.waking || s.asleep, held := s.power.held ++ [f] } })
  ∧ (∀ (s : State) (f : HostFrame) (l : List SecEvent) (hw : HwBits), s.power.waking = false →
    ∀ u, exec (.wakeComplete hw l) s = .next u → ∀ x ∈ [(opHello, Instr.uhpHello), (opBye, .uhpBye), (opRequest, .uhpRequest), (opRun, .uhpRun), (opStore, .uhpStore)
      , (opAbort, .uhpAbort), (opRead, fun f => .uhpRead f 0 hw), (opWrite, fun f => .uhpWrite f 0 hw)
      , (opRmw, fun f => .uhpRmw f 0), (opEvents, fun f => .uhpEvents f 0 hw)],
      f.op = x.1 → exec (x.2 { f with co := l }) s = exec (x.2 { f with co := [] }) u)
  ∧ ((∀ (s : State) (f : HostFrame), frameSound f opAbort → s.hears f → s.inSession f → f.len = 2 → f.addr = 0 →
    ((s.sess f.port f.session).exec = none →
      ∃ t r, exec (.uhpAbort f) s = .next t ∧ t = { s.startWake with hosts := t.hosts } ∧ s.otherSessions t f.port f.session
        ∧ (t.hosts[f.port]).queue = (s.hosts[f.port]).queue ++ [r] ∧ r.status = stNotFound ∧ r.tag = f.tag)
    ∧ ∀ q : Request, (s.sess f.port f.session).exec = some q → q.op = opRead → q.tag.toNat = pb f 0 + 256 * pb f 1 →
      ∃ t r u, exec (.uhpAbort f) s = .next t ∧ t = { s.startWake with hosts := t.hosts } ∧ s.otherSessions t f.port f.session
        ∧ (t.sess f.port f.session).exec = none ∧ (t.hosts[f.port]).queue = (s.hosts[f.port]).queue ++ [r, u]
        ∧ r.status = stAborted ∧ r.tag = q.tag ∧ r.payload = q.got ∧ u.status = stOk ∧ u.tag = f.tag)
  ∧ (∀ (s : State) (p : Fin 2) (i : Fin 4) (q : Request) (hw : HwBits), (s.sess p i).exec = some q →
    (∀ p' i', (p', i') ≠ (p, i) → (s.sess p' i').exec = none) → q.waitStore = none →
    q.op = opRead → q.ver = 3 → q.reads = 1 → q.words = [] → q.events = [] → q.clears = [] → q.refusedAt = none →
    q.status = stOk → regWindow q.cursor.toNat = true → q.cursor.toNat % 4 = 0 →
    ∃ t r, exec (.responseReady p i hw []) s = .next t ∧ t = { s with hosts := t.hosts } ∧ s.otherSessions t p i
      ∧ (t.sess p i).exec = none ∧ (t.hosts[p]).queue = (s.hosts[p]).queue ++ [r] ∧ r.status = stOk
      ∧ r.payload = q.got ++ wordBytes (s.regRead q.cursor.toNat) ∧ r.tag = q.tag ∧ r.addr = q.echo)
  ∧ (∀ (s : State) (p : Fin 2) (i : Fin 4) (q : Request) (hw : HwBits) (a : Nat), (s.sess p i).exec = some q →
    (∀ p' i', (p', i') ≠ (p, i) → (s.sess p' i').exec = none) → q.waitStore = none →
    q.op = opEvents → q.reads = 0 → q.words = [] → q.events = [a] → q.clears = [] → q.refusedAt = none →
    q.status = stOk → regWindow a = true → a % 4 = 0 →
    ∃ t r, exec (.responseReady p i hw []) s = .next t ∧ t = { s with hosts := t.hosts } ∧ s.otherSessions t p i
      ∧ (t.sess p i).exec = none ∧ (t.hosts[p]).queue = (s.hosts[p]).queue ++ [r] ∧ r.status = stOk
      ∧ r.payload = q.got ++ wordBytes (s.regRead a) ∧ r.tag = q.tag)
  ∧ ∀ (s : State) (p : Fin 2) (b : Byte) (n : Nat) (r : Response) (l : List Response), s.hostReads p = true →
    s.transportOk p b 0x52 0xD2 = true → (s.hosts[p]).queue = r :: l →
    ∃ t, exec (.hostRead p b n) s = .next t ∧ t = { s.startWake with hosts := t.hosts } ∧ (∀ q, q ≠ p → t.hosts[q] = s.hosts[q])
      ∧ (n < (responseBytes r).length →
        t.hosts[p] = { s.hosts[p] with out := s.portStatus p :: (responseBytes r).take n })
      ∧ ((responseBytes r).length ≤ n → t.hosts[p] = { s.hosts[p] with
          out := s.portStatus p :: (responseBytes r
            ++ if p = 0 then [] else List.replicate (n - (responseBytes r).length) 0xFF)
          queue := l }))

/-! The tether and the ring -/

/-- The tether master: discovery and the delay measurement put their frames to the absent and to the version 2 slaves;
a poll round on a free tether polls the first present slave, here of version 1, and keeps the others in ascending
order; TIME goes out unanswered; an answer whose CRC failed only counts, one to HELLO enters its slave, here of
version 1, one to TDLY its delay; a missing answer repeats the frame, and after the last repeat a polled slave is
lost; a remote access of a present slave is sent. In one cycle PFCLR comes ahead of what an answer brings about, a lantern
of the ring and TSET behind it. -/
def Obligations.TetherMaster : Prop :=
  ∀ s : State, s.tRuns = true →
    (∃ t, exec .tetherDiscovery s = .next t ∧ s.Asks
      (((List.finRange 16).filter (fun n => n ≠ 0 && !s.present n)).map (fun n =>
        (n, TetherBody.hello (BitVec.ofNat 8 (s.fld aTthCfg 25 25 + 1)) 2, TetherWhy.discover))) t)
    ∧ (∃ t, exec .tetherDelayMeasure s = .next t ∧ s.Asks
      (((List.finRange 16).filter (fun n => n ≠ 0 && s.present n && s.slvVer n == 2)).map (fun n =>
        (n, TetherBody.tdly, TetherWhy.delay))) t)
    ∧ (s.tether.cur = none → s.tether.queue = [] → s.tether.round = [] →
      ∀ n r, (List.finRange 16).filter (fun n => n ≠ 0 && s.present n) = n :: r → s.slvVer n = 1 →
      ∃ t, exec .pollRound s = .next t ∧ t = { s with tether := { s.tether with
        round := r, roundAt := s.timer (1000 * s.fld aTthCfg 7 0), tag := s.tether.tag + 1
        cur := some (s.tFrame n (.poll none []), .poll, s.fld aTthCfg 18 16)
        sent := s.tether.sent ++ [s.tFrame n (.poll none [])] } })
    ∧ exec .tetherTimeSend s = .next { s with tether := { s.tether with
        tag := s.tether.tag + 1, tstep := false, timeAt := s.timer 100000
        sent := s.tether.sent ++ [s.tFrame 0 (.time s.now s.synced s.tether.tstep)] } }
    ∧ (∀ n tag a, ∃ t, exec (.tetherAnswer n tag false a []) s = .next t ∧ s.startWake.RegsBecome [aTthCnt] t
      ∧ t.fld aTthCnt 15 0 = min (s.fld aTthCnt 15 0 + 1) 65535)
    ∧ (∀ (n : Fin 16) f k lo hi part stp, s.tether.cur = some (f, .discover, k) → s.tether.queue = [] → s.tether.round = [] →
      f.dst.toNat = n.val → s.fld aTthCfg 25 25 = 0 → hi = 1 →
      ∃ t, exec (.tetherAnswer n f.tag true (.hello lo hi part stp) []) s = .next t
        ∧ t = { s.startWake with regs := t.regs, tether := { s.tether with cur := none } }
        ∧ t.reg (aTthSlv n) = 0x90000000 ∧ ∀ a, a ≠ aTthSlv n → t.reg a = s.reg a)
    ∧ (∀ (n : Fin 16) f k d, s.tether.cur = some (f, .delay, k) → s.tether.queue = [] → s.tether.round = [] →
      f.dst.toNat = n.val →
      ∃ t, exec (.tetherAnswer n f.tag true (.tdly d) []) s = .next t
        ∧ t = { s.startWake with regs := t.regs, tether := { s.tether with cur := none } }
        ∧ t.fld (aTthSlv n) 11 0 = d.toNat ∧ t.fld (aTthSlv n) 31 12 = s.fld (aTthSlv n) 31 12
        ∧ ∀ a, a ≠ aTthSlv n → t.reg a = s.reg a)
    ∧ (∀ f why k, s.tether.cur = some (f, why, k + 1) →
      ∃ t, exec .tetherAnswerTimeout s = .next t ∧ t = { s with
          regs := t.regs, tether := { s.tether with cur := some (f, why, k), sent := s.tether.sent ++ [f] } }
        ∧ t.fld aTthCnt 31 16 = min (s.fld aTthCnt 31 16 + 1) 65535 ∧ ∀ a, a ≠ aTthCnt → t.reg a = s.reg a)
    ∧ (∀ (n : Fin 16) f, s.tether.cur = some (f, .poll, 0) → s.tether.queue = [] → s.tether.round = [] →
      f.dst.toNat = n.val → s.present n = true →
      ∃ t, exec .tetherAnswerTimeout s = .next t
        ∧ { s with tether := { s.tether with cur := none } }.CycleOf [] [] t
        ∧ t.present n = false ∧ t.bit (aTthSlv n) 30 = true ∧ t.bit aTthStat 3 = true
        ∧ (∀ m : Fin 16, m ≠ n → t.reg (aTthSlv m) = s.reg (aTthSlv m))
        ∧ (s.sev srcTether ≠ 0 → t.pend srcTether = true))
    ∧ ∀ (who : Who) (write : Bool) (n : Fin 16), s.serves = true → s.bit aTthRaStat 31 = false → n ≠ 0 →
      s.present n = true →
      ∃ t, exec (.tthGo who write (BitVec.ofNat 6 n.val)) s = .next t
        ∧ (s.setBit aTthRaStat 31 true).Asks
          [(n, if write then .write (s.reg aTthRaAddr) (s.reg aTthRaData) else .read (s.reg aTthRaAddr), .remote write)] t
    ∧ ∀ (who : Who) (n : Fin 16) (tag : BitVec 16) (a : TetherAnswer) (h : RingHead) (l : Lantern),
      (∀ u, exec (.pfclr who) s = .next u →
        exec (.tetherAnswer n tag true a [.pfclr]) s = exec (.tetherAnswer n tag true a []) u)
      ∧ (∀ v, exec (.tetherAnswer n tag true a []) s = .next v →
        exec (.tetherAnswer n tag true a [.lantern h l]) s = exec (.lantern { h with co := [] } l) v
          ∧ exec (.tetherAnswer n tag true a [.tset]) s = exec (.tset who) v)

/-- The tether slave: HELLO negotiates the highest version both have, or is answered with STATUS 2; POLL is answered
with the first fault; READ and WRITE reach a register, and the answer of a misaligned WRITE tells that it was refused;
SIG sets its flag; TDLY is answered; TIME sets ring time, at the end of its cycle, to the carried time, the delay held
and 320 ns, and RELEASE
frees the wicks at its barrier, neither with an answer; a repeated TAG draws the answer kept and nothing else; a frame
whose CRC failed only counts; once the power fails a request is refused; tether loss counts a new epoch and raises TETHER, and
comes ahead of the frame of its cycle; a SIG without a confirmation ends with
SFAIL; a slave long without TIME no longer shows SYNCED. -/
def Obligations.TetherSlave : Prop :=
  (∀ (s : State) (h : TetherHead), s.takesOwn h 0 → s.power.phase ≠ .powerFail → ∀ lo hi : BitVec 8,
    (lo.toNat ≤ 2 → hi ≠ 0 →
      ∃ t, exec (.tthHello h lo hi) s = .next t
        ∧ t = { s.startWake with
          regs := t.regs
          tether := s.afterAnswer h 1 (.hello 1 2 (BitVec.ofNat 16 idPart) (BitVec.ofNat 16 idStep)) }
        ∧ t.tVer = min 2 hi.toNat ∧ ∀ a, a ≠ aTthStat → t.reg a = s.reg a)
    ∧ (2 < lo.toNat ∨ hi = 0 →
      exec (.tthHello h lo hi) s = .next { s.startWake with tether := s.afterAnswer h 1 (.status 2) }))
  ∧ (∀ (s : State) (h : TetherHead), s.takesOwn h 1 → s.power.phase ≠ .powerFail → s.tVer = 1 →
    exec (.tthPoll h none []) s = .next { s.startWake with tether := s.afterAnswer h 2 (.poll {
      stat := s.reg aFltStat, first := s.reg aFltFirst, time := 0, sig := none, barriers := [] }) })
  ∧ (∀ (s : State) (h : TetherHead), s.takesOwn h 2 → s.power.phase ≠ .powerFail → s.tVer = 2 → ∀ d, s.tether.sigs = [] →
    exec (.tthPoll h (some d) []) s = .next { s.startWake with tether := { s.afterAnswer h 2 (.poll {
      stat := s.reg aFltStat, first := s.reg aFltFirst, time := s.reg aFltFirstTH ++ s.reg aFltFirstTL
      sig := none, barriers := s.tether.events }) with dly := some d, events := [] } })
  ∧ (∀ (s : State) (h : TetherHead) (a : Word), s.takesOwn h 1 → s.power.phase ≠ .powerFail → regWindow a.toNat = true →
    a.toNat % 4 = 0 →
    exec (.tthRead h a) s = .next { s.startWake with tether := s.afterAnswer h 3 (.read 0 (s.regRead a.toNat)) })
  ∧ (∀ (s : State) (h : TetherHead) (a v hw : Word), s.takesOwn h 1 → s.power.phase ≠ .powerFail →
    (a.toNat = aRngTsetL →
      ∃ t, exec (.tthWrite h a v hw) s = .next t ∧ t = { s.startWake with regs := t.regs, tether := s.afterAnswer h 4 (.write 0) }
        ∧ t.reg aRngTsetL = v ∧ ∀ b, b ≠ aRngTsetL → t.reg b = s.reg b)
    ∧ (a.toNat % 4 ≠ 0 → exec (.tthWrite h a v hw) s = .next { s.startWake with tether := s.afterAnswer h 4 (.write 1) }))
  ∧ (∀ (s : State) (h : TetherHead) (w : WickId) (n : Fin 16), s.takesOwn h 2 → s.power.phase ≠ .powerFail →
    ∃ t, exec (.tthSig h w n) s = .next t ∧ t = { s.startWake with wicks := t.wicks, tether := s.afterAnswer h 5 (.sig 0) }
      ∧ t.wk w = { s.wk w with sigs := (s.wk w).sigs ||| BitVec.ofNat 16 (2 ^ n.val) }
      ∧ ∀ u, u ≠ w → t.wk u = s.wk u)
  ∧ (∀ (s : State) (h : TetherHead), s.takesOwn h 2 → s.power.phase ≠ .powerFail →
    exec (.tthTdly h) s = .next { s.startWake with tether := s.afterAnswer h 8 (.tdly 0) })
  ∧ (∀ (s : State) (h : TetherHead) (d : BitVec 16) (time : BitVec 64) (synced tstep : Bool), s.takes h 2 → h.dst = 0 →
    s.power.phase ≠ .powerFail → s.tether.dly = some d →
    ∃ t, exec (.tthTime h time synced tstep) s = .next t
      ∧ t = { s.startWake with
        regs := t.regs, tether := { s.tether with armed := true }
        ring := { s.ring with
          next := some (time + BitVec.ofInt 64 (roundOpen ((d.toNat + 320 : Nat) : Int) 10), false) } }
      ∧ t.bit aTthStat 13 = synced ∧ ∀ a, a ≠ aTthStat → t.reg a = s.reg a)
  ∧ (∀ (s : State) (h : TetherHead) (id : BitVec 8), s.takes h 2 → h.dst = 0 → s.power.phase ≠ .powerFail →
    ∃ t, exec (.tthRelease h id) s = .next t ∧ t = { s.startWake with wicks := t.wicks, tether := { s.tether with armed := true } }
      ∧ ∀ w, t.wk w = if (s.wk w).st = .wait (.barrier false id) ∧ (s.wk w).nowhere = false
        then { s.wk w with released := true } else s.wk w)
  ∧ (∀ (s : State) (h : TetherHead) (f : TetherFrame) (w : WickId) (n : Fin 16), s.takes h 2 → h.dst = s.taddr →
    h.dst ≠ 0 → s.tether.cache.find? (fun e => e.1 == h.tag) = some (h.tag, f) →
    exec (.tthSig h w n) s = .next { s.startWake with tether := { s.tether with armed := true, sent := s.tether.sent ++ [f] } })
  ∧ (∀ (s : State) (h : TetherHead) (w : WickId) (n : Fin 16), s.slave = true → s.tetherEn = true →
    s.cfgLoaded = true → s.fabricOn = true → h.loss = false → h.crcOk = false →
    ∃ t, exec (.tthSig h w n) s = .next t ∧ s.startWake.RegsBecome [aTthCnt] t
      ∧ t.fld aTthCnt 15 0 = min (s.fld aTthCnt 15 0 + 1) 65535)
  ∧ (∀ (s : State) (h : TetherHead) (a v hw : Word) (w : WickId) (n : Fin 16), s.power.phase = .powerFail →
    (s.takesOwn h 1 →
      exec (.tthRead h a) s = .next { s with tether := s.afterAnswer h 3 (.read 1 0) }
      ∧ exec (.tthWrite h a v hw) s = .next { s with tether := s.afterAnswer h 4 (.write 1) })
    ∧ (s.takesOwn h 2 → exec (.tthSig h w n) s = .next { s with tether := s.afterAnswer h 5 (.sig 1) }))
  ∧ (∀ (s u : State) (h : TetherHead) (w : WickId) (n : Fin 16), exec .tetherLoss s = .next u →
    exec (.tthSig { h with loss := true } w n) s = exec (.tthSig { h with loss := false } w n) u)
  ∧ (∀ s : State, s.slave = true → s.tetherEn = true → s.power.phase = .run → s.fld aTthCfg 15 8 ≠ 0 →
    s.tether.armed = true →
    ∃ t, exec .tetherLoss s = .next t ∧ { s with tether := { s.tether with armed := false } }.CycleOf [] [] t
      ∧ t.bit aTthStat 4 = true ∧ t.fld aTthStat 31 24 = (s.fld aTthStat 31 24 + 1) % 256
      ∧ (s.sev srcTether ≠ 0 → t.pend srcTether = true))
  ∧ (∀ (s : State) (w : WickId) (x : BitVec 6), s.slave = true → (s.wk w).st = .wait (.remote false x) →
    ∃ t, exec (.tetherSigTimeout w) s = .next t ∧ t = { s with wicks := t.wicks, tether := t.tether, ring := t.ring }
      ∧ (t.wk w).st = .run ∧ (t.wk w).sfail = true ∧ (t.wk w).pc = (s.wk w).pc ∧ (∀ u, u ≠ w → t.wk u = s.wk u)
      ∧ t.tether.sigs = s.tether.sigs.filter (fun c => c.1 != w))
  ∧ ∀ s : State, s.slave = true →
    ∃ t, exec .tetherTimeStale s = .next t ∧ s.RegsBecome [aTthStat] t ∧ t.bit aTthStat 13 = false

/-- Frames that reach an unspliced ring node, none of them a copy: TIME names its master, and with the link delay
known and the time less than 1 µs off shows the offset and moves the next count of ring time by at most one; DREQ draws
DRESP on
its port; DRESP adds a measurement, and the sixteenth makes the delay valid; a LANTERN, the record empty, raises
REMOTE_LANTERN and, where that source leads to none of its own, is its best; PFCLEAR empties it; SIG sets its flag and
draws SIGACK, which ends the SIG of its SEQ; ARRIVE and WITHDRAW change the set of the barrier, and the arrival that
completes the mask releases the wicks; a remote READ and WRITE draw RESP, and RESP ends the access of its SEQ. A frame
for another node goes on by the other port with one hop less, at once where that port is idle, else behind those that
wait before it, and a copy changes nothing. What a port sends it begins at once, where both ports are idle. -/
def Obligations.RingFrames : Prop :=
  ∀ (s : State) (h : RingArrival),
    (s.ringHears h → (∀ b, s.idlePort b) →
      (∀ time corr tstep, s.bit aRngStat 30 = false → (s.ring.ports[portIx h.portB]).twice.length ≠ 16 →
        ∃ t, exec (.ringTime h time corr tstep) s = .next t ∧ t = { s.startWake with regs := t.regs, ring := s.noted h }
          ∧ t.fld aRngStat 21 16 = h.src.toNat ∧ ∀ a, a ≠ aRngStat → t.reg a = s.reg a)
      ∧ (∀ (time : BitVec 64) (corr : Int) tstep, s.bit aRngStat 30 = false →
        (s.ring.ports[portIx h.portB]).twice.length = 16 →
        ∀ off : Int, off = 32 * (10000 * (time - s.now).toInt + corr)
            + ((s.ring.ports[portIx h.portB]).twice.foldl (· + ·) 0 : Nat) →
        off.natAbs ≤ 32 * 1000000 →
        ∃ t, exec (.ringTime h time corr tstep) s = .next t
          ∧ t = { s.startWake with regs := t.regs, ring := t.ring, free := s.free + 1 }
          ∧ t.fld aRngOfs 15 0 = unsgn 16 (clip (-32768) 32767 (roundOpen off 3200))
          ∧ t.now = s.now ∧ t.ring.next ∈ [some (s.now, false), some (s.now + 1, false), some (s.now + 2, false)]
          ∧ ∀ a, a ≠ aRngStat → a ≠ aRngOfs → t.reg a = s.reg a)
      ∧ (∀ l : Lantern, s.ring.best = none → s.ring.run = none → s.ring.clearAt = none →
        ∃ t, exec (.lantern h l) s = .next t ∧ s.CycleOf [] [] t
          ∧ t.ring.seen = (s.noted h).seen ∧ (s.sev srcRemoteLantern < 2 → t.ring.best = some l)
          ∧ (s.sev srcRemoteLantern ≠ 0 → t.pend srcRemoteLantern = true))
      ∧ (∀ tc, exec (.pfclear h tc) s = .next { s.startWake with
          ring := { s.noted h with best := none, run := none, clearAt := some (s.laterTc tc) } })
      ∧ (∀ (w : WickId) (n : Fin 16), ∃ t, exec (.ringSig h w n) s = .next t
        ∧ t = { s.startWake with
          wicks := t.wicks
          ring := (s.noted h).sends s.cycle (s.rFrame (h.src.setWidth 8) (.sigack h.seq)) }
        ∧ t.wk w = { s.wk w with sigs := (s.wk w).sigs ||| BitVec.ofNat 16 (2 ^ n.val) }
        ∧ ∀ u, u ≠ w → t.wk u = s.wk u)
      ∧ (∀ (w : WickId) (q : BitVec 16) (x : BitVec 6), s.ring.sigs = [(w, q)] → (s.wk w).st = .wait (.remote true x) →
        ∃ t, exec (.sigack h q) s = .next t ∧ t = { s.startWake with wicks := t.wicks, ring := { s.noted h with sigs := [] } }
          ∧ (t.wk w).st = .run ∧ (t.wk w).sfail = false ∧ (t.wk w).pc = (s.wk w).pc ∧ ∀ u, u ≠ w → t.wk u = s.wk u)
      ∧ (∀ id : BitVec 8, let set := arrivals s.ring.sets id ||| BitVec.ofNat 64 (2 ^ h.src.toNat)
        (set &&& s.rBarm ≠ s.rBarm →
          exec (.arrive h id) s = .next { s.startWake with
            ring := { s.noted h with sets := setArrivals s.ring.sets id set } })
        ∧ (set &&& s.rBarm = s.rBarm → s.rBarm ≠ 0 →
          ∃ t, exec (.arrive h id) s = .next t
            ∧ t = { s.startWake with wicks := t.wicks, ring := { s.noted h with sets := setArrivals s.ring.sets id 0 } }
            ∧ ∀ w, t.wk w = if (s.wk w).st = .wait (.barrier true id) ∧ (s.wk w).nowhere = false
              then { s.wk w with released := true } else s.wk w))
      ∧ (∀ id : BitVec 8, exec (.withdraw h id) s = .next { s.startWake with ring := { s.noted h with
          sets := setArrivals s.ring.sets id (arrivals s.ring.sets id &&& ~~~BitVec.ofNat 64 (2 ^ h.src.toNat)) } })
      ∧ (∀ a : Word, (s.power.phase ≠ .powerFail → regWindow a.toNat = true → a.toNat % 4 = 0 →
          exec (.ringRead h a) s = .next { s.startWake with
            ring := (s.noted h).sends s.cycle (s.rFrame (h.src.setWidth 8) (.resp h.seq 0 (s.regRead a.toNat))) })
        ∧ (s.power.phase = .powerFail → exec (.ringRead h a) s = .next { s with
            ring := (s.noted h).sends s.cycle (s.rFrame (h.src.setWidth 8) (.resp h.seq 1 0)) }))
      ∧ (∀ a v hw : Word, (s.bit aRngCfg 29 = true → s.power.phase ≠ .powerFail → a.toNat = aRngTsetL →
          ∃ t, exec (.ringWrite h a v hw) s = .next t ∧ t = { s.startWake with
              regs := t.regs
              ring := (s.noted h).sends s.cycle (s.rFrame (h.src.setWidth 8) (.resp h.seq 0 0)) }
            ∧ t.reg aRngTsetL = v ∧ ∀ b, b ≠ aRngTsetL → t.reg b = s.reg b)
        ∧ ((s.bit aRngCfg 29 = false ∨ s.power.phase = .powerFail) → exec (.ringWrite h a v hw) s = .next { s.startWake with
            ring := (s.noted h).sends s.cycle (s.rFrame (h.src.setWidth 8) (.resp h.seq 1 0)) }))
      ∧ ∀ (q : BitVec 16) (write : Bool) (w : Word), s.ring.ra = some (q, write) →
        ∃ t, exec (.resp h q 0 w) s = .next t ∧ t = { s.startWake with regs := t.regs, ring := { s.noted h with ra := none } }
          ∧ t.bit aRngRaStat 31 = false ∧ t.fld aRngRaStat 3 0 = 0
          ∧ t.reg aRngRaData = (if write then s.reg aRngRaData else w)
          ∧ ∀ a, a ≠ aRngRaStat → a ≠ aRngRaData → t.reg a = s.reg a)
    ∧ (s.ringFirst h →
      (s.idlePort h.portB → exec (.dreq h) s = .next { s.startWake with
          free := s.free + 1
          ring := ((s.noted h).starts s.cycle h.portB (.own (s.rFrame 0 (.dresp (Config.residence s.free))))).counted })
      ∧ (∀ res trip, let p := s.ring.ports[portIx h.portB]
        let ring := { s.noted h with
          ports := s.ring.ports.set (portIx h.portB) { p with twice := ((trip - res) :: p.twice).take 16 } }
        (p.twice.length < 15 → exec (.dresp h res trip) s = .next { s.startWake with ring := ring })
        ∧ (15 ≤ p.twice.length → ∃ t, exec (.dresp h res trip) s = .next t ∧ t = { s.startWake with regs := t.regs, ring := ring }
          ∧ t.bit (if h.portB then aRngDlyB else aRngDlyA) 31 = true
          ∧ ∀ a, a ≠ (if h.portB then aRngDlyB else aRngDlyA) → t.reg a = s.reg a)))
    ∧ (∀ id : BitVec 8, s.ringFirst h → h.dst ≠ 0xFF → h.dst ≠ s.node.setWidth 8 → h.hops ≠ 0 →
      let x : RingTx := .forwarded { src := h.src, dst := h.dst, hops := h.hops - 1, seq := h.seq, body := .arrive id }
      (s.idlePort (!h.portB) →
        exec (.arrive h id) s = .next { s.startWake with ring := (s.noted h).starts s.cycle (!h.portB) x })
      ∧ (5 * s.cycle < s.ring.ports[portIx (!h.portB)].busyTo →
        ∃ t, exec (.arrive h id) s = .next t ∧ t = { s.startWake with ring := { s.noted h with ports := t.ring.ports } }
          ∧ (∀ i : Fin 2, i ≠ portIx (!h.portB) → t.ring.ports[i] = s.ring.ports[i])
          ∧ t.ring.ports[portIx (!h.portB)] = { s.ring.ports[portIx (!h.portB)] with
            waiting := insTx x s.ring.ports[portIx (!h.portB)].waiting }))
    ∧ (∀ id : BitVec 8, h.co = [] → s.ringLive = true → s.fabricOn = true → h.src ≠ s.node → (h.src, h.seq) ∈ s.ring.seen →
      h.hops = 0 → exec (.arrive h id) s = .next s.startWake)
    ∧ ∀ (f g : RingHead) (l : Lantern) (tc : BitVec 64),
      exec (.lantern { f with co := [.pfclear g tc] } l) s = exec (.pfclear { g with co := [.lantern f l] } tc) s

/-- What an unspliced ring node does of itself, its ports idle: delay requests on both ports; TIME of the time master;
a candidate with the crystal takes over; lost synchronisation raises SYNC_LOSS; lanterns go out and go out again with
the same SEQ; waits end; lock is gained and dropped, and a port long without it raises once; a frame with a failed CRC
counts and is forwarded as it came; RNG_CTL closes the splice, and it opens again; a remote access is sent; TSET sets
ring time of the time master at the end of its cycle, to be told by TSTEP, and is refused elsewhere; PFCLR empties the record, and PFCLRALL tells every node. -/
def Obligations.RingCommands : Prop :=
  ∀ s : State, s.ringLive = true → (∀ b, s.idlePort b) →
    exec .ringDelayTimer s = .next { s with ring :=
        ((s.ring.starts s.cycle false (.own (s.rFrame 0 .dreq))).counted.starts s.cycle true
          (.own { s.rFrame 0 .dreq with seq := s.ring.seq + 1 })).counted }
    ∧ (s.bit aRngStat 30 = true → exec .ringTimeSend s = .next { s with
        ring := { s.ring.sends s.cycle (s.rFrame 0xFF (.time s.now 0 s.ring.tstep)) with tstep := false } })
    ∧ (s.bit aRngCfg 30 = true → s.crystal = true → s.bit aRngStat 30 = false →
      ∃ t, exec .timeMasterTakeover s = .next t ∧ s.RegsBecome [aRngStat] t ∧ t.bit aRngStat 30 = true
        ∧ t.bit aRngStat 31 = true ∧ t.fld aRngStat 21 16 = s.node.toNat)
    ∧ (s.bit aRngStat 30 = false → s.bit aRngStat 31 = true →
      ∃ t, exec .syncLossTimeout s = .next t ∧ s.CycleOf [] [] t ∧ t.ring.good = 0 ∧ t.bit aRngStat 31 = false
        ∧ t.bit aRngStat 1 = true ∧ (s.sev srcSyncLoss ≠ 0 → t.pend srcSyncLoss = true))
    ∧ (∀ l q, s.ring.due = l :: q → exec .lanternSend s = .next { s with
        ring := { s.ring.sends s.cycle (s.rFrame 0xFF (.lantern l)) with
          due := q, again := s.ring.again ++ [(s.rFrame 0xFF (.lantern l), 2)] } })
    ∧ (∀ f k q l, s.ring.again = (f, k) :: q → f.body = .lantern l → exec .lanternRepeat s = .next { s with ring := {
        (s.ring.starts s.cycle false (.own f)).starts s.cycle true (.own f) with again := if k ≤ 1 then q else q ++ [(f, k - 1)] } })
    ∧ (∀ (w : WickId) (x : BitVec 6), (s.wk w).st = .wait (.remote true x) →
      ∃ t, exec (.ringSigTimeout w) s = .next t ∧ t = { s with wicks := t.wicks, tether := t.tether, ring := t.ring }
        ∧ (t.wk w).st = .run ∧ (t.wk w).sfail = true ∧ (t.wk w).pc = (s.wk w).pc ∧ (∀ u, u ≠ w → t.wk u = s.wk u)
        ∧ t.ring = { s.ring with sigs := s.ring.sigs.filter (fun c => c.1 != w) })
    ∧ (s.ring.ra ≠ none →
      ∃ t, exec .ringRaTimeout s = .next t ∧ t = { s with regs := t.regs, ring := { s.ring with ra := none } }
        ∧ t.bit aRngRaStat 31 = false ∧ t.fld aRngRaStat 3 0 = 2 ∧ ∀ a, a ≠ aRngRaStat → t.reg a = s.reg a)
    ∧ (∀ b : Bool, (s.bit aRngStat (lockBit b) = false →
        ∃ t, exec (.ringLockGain b) s = .next t ∧ t = { s with regs := t.regs, ring := t.ring }
          ∧ t.bit aRngStat (lockBit b) = true ∧ (t.ring.ports[portIx b]).since = some s.cycle
          ∧ ∀ a, a ≠ aRngStat → t.reg a = s.reg a)
      ∧ (s.bit aRngStat (lockBit b) = true →
        ∃ t, exec (.ringLockDrop b) s = .next t ∧ t = { s with regs := t.regs, ring := t.ring }
          ∧ t.bit aRngStat (lockBit b) = false ∧ (t.ring.ports[portIx b]).since = none
          ∧ t.fld (rngCnt b) 31 16 = min (s.fld (rngCnt b) 31 16 + 1) 65535
          ∧ ∀ a, a ≠ aRngStat → a ≠ rngCnt b → t.reg a = s.reg a)
      ∧ (s.bit aRngStat (lockBit b) = false → (s.ring.ports[portIx b]).quiet = true →
        ∃ t, exec (.ringLockLoss b) s = .next t ∧ s.CycleOf [] [] t ∧ t.bit aRngStat (if b then 2 else 3) = true
          ∧ (t.ring.ports[portIx b]).quiet = false ∧ (s.sev (portSrc b) ≠ 0 → t.pend (portSrc b) = true))
      ∧ ∀ bytes, (s.ring.ports[portIx b]).fails.length < 15 →
        ∃ t, exec (.ringCrcFailure b bytes) s = .next t ∧ t = { s.startWake with regs := t.regs, ring := t.ring }
          ∧ t.ring.sent = s.ring.sent ++ [(!b, .raw bytes)]
          ∧ t.fld (rngCnt b) 15 0 = min (s.fld (rngCnt b) 15 0 + 1) 65535 ∧ ∀ a, a ≠ rngCnt b → t.reg a = s.reg a)
    ∧ (∀ (who : Who) (v : Word), s.serves = true → v.getLsbD 31 = true →
      ∃ t, exec (.rngCtlWrite who v) s = .next t
        ∧ t = { s with regs := t.regs, ring := { s.ring with good := 0, ports := t.ring.ports } }
        ∧ (∀ i : Fin 2, t.ring.ports[i] = { s.ring.ports[i] with busyTo := 0, waiting := [] }) ∧ t.reg aRngCtl = 0x80000000
          ∧ t.bit aRngStat 29 = true ∧ t.bit aRngStat 31 = false ∧ t.bit aRngStat 30 = false
        ∧ ∀ a, a ≠ aRngCtl → a ≠ aRngStat → t.reg a = s.reg a)
    ∧ (∀ (who : Who) (write : Bool) (n : BitVec 6), s.serves = true → s.bit aRngRaStat 31 = false →
      let body : RingBody := if write then .write (s.reg aRngRaAddr) (s.reg aRngRaData) else .read (s.reg aRngRaAddr)
      ∃ t, exec (.rngGo who write n) s = .next t
        ∧ t = { s with
          regs := t.regs
          ring := { s.ring.sends s.cycle (s.rFrame (n.setWidth 8) body) with ra := some (s.ring.seq, write) } }
        ∧ t.bit aRngRaStat 31 = true ∧ ∀ a, a ≠ aRngRaStat → t.reg a = s.reg a)
    ∧ (∀ who : Who, s.serves = true → (s.bit aRngStat 30 = true → exec (.tset who) s = .next { s with
          ring := { s.ring with next := some (s.reg aRngTsetH ++ s.reg aRngTsetL, true) } })
      ∧ (s.bit aRngStat 30 = false → ∃ t, exec (.tset who) s = .next t ∧ s.RegsBecome [aRngStat] t
        ∧ t.reg aRngStat = s.reg aRngStat ||| 1)
      ∧ exec (.pfclr who) s = .next { s with ring := { s.ring with best := none, run := none } }
      ∧ exec (.pfclrall who) s = .next { s with ring := { s.ring.sends s.cycle (s.rFrame 0xFF (.pfclear s.now)) with
          best := none, run := none, clearAt := some (s.laterTc s.now) } })
    ∧ ∀ u : State, u.ringRx = true → u.bit aRngCtl 31 = false →
      ∃ t, exec .spliceOpen u = .next t ∧ u.RegsBecome [aRngStat] t ∧ t.bit aRngStat 29 = false

/-! Rules stated whole -/

/-- R217. ADDV writes VA plus the sign-extended IMM, or VA plus VB, to VD, modulo 2^32, and goes on; no flag of the
wick and nothing else changes. -/
def Obligations.AddvRule : Prop :=
  (∀ (s : State) (w : WickId) (vd va vb : Fin 8), s.current w = some (.addv vd va (.reg vb)) →
    ∃ t, exec (.addv w) s = .next t ∧
      s.WickBecomes w { (s.wk w).advance with v := (s.wk w).v.set vd (s.vreg w va + s.vreg w vb) } t)
  ∧ ∀ (s : State) (w : WickId) (vd va : Fin 8) (i : Fin 524288), s.current w = some (.addv vd va (.imm i)) →
    ∃ t, exec (.addv w) s = .next t ∧
      s.WickBecomes w { (s.wk w).advance with v := (s.wk w).v.set vd (
        s.vreg w va + BitVec.ofInt 32 (if i.val < 262144 then i.val else (i.val : Int) - 524288)) } t

/-- R228. A write of SEQ_WVn_k while wick n is in RUN or WAIT changes no register of the wick and sets
SEQ_STAT.WCMDREF; in another state of the wick it is taken. -/
def Obligations.WickRegisterWrites : Prop :=
  ∀ (s : State) (who : Who) (w : WickId) (k : Fin 8) (v hw : Word), s.serves = true →
    (((s.wk w).st = .run ∨ ∃ x, (s.wk w).st = .wait x) →
      ∃ t, exec (.registerWrite who (aWV w k) v hw) s = .next t ∧ s.RegsBecome [aSeqStat] t
        ∧ t.reg aSeqStat = s.reg aSeqStat ||| 1)
    ∧ ((s.wk w).st ∈ [WickState.idle, .halted, .fault] →
      ∃ t, exec (.registerWrite who (aWV w k) v hw) s = .next t
        ∧ s.WickBecomes w { s.wk w with v := (s.wk w).v.set k v } t)

/-- R336. With LOCK_BP set, a write that changes KPS_CTL.BP is refused: the register keeps its value and
KPS_STAT.CFG_REF is set. -/
def Obligations.BlockProtectionLock : Prop :=
  ∀ (s : State) (who : Who) (v hw : Word), s.serves = true → s.lockBp = true →
    v.extractLsb' 30 2 ≠ (s.reg aKpsCtl).extractLsb' 30 2 →
    (s.write32 who aKpsCtl v hw).2 = false
    ∧ ∃ t, exec (.registerWrite who aKpsCtl v hw) s = .next t ∧ s.RegsBecome [aKpsStat] t
      ∧ t.reg aKpsStat = s.reg aKpsStat ||| 1

/-- R301. With LOCK_INJECT set, every write of FLT_INJCTL, FLT_INJARMk and FLT_INJCMD is refused and sets
FLT_STAT.INJREF; setting the lock clears every arm bit. -/
def Obligations.InjectionLock : Prop :=
  (∀ (s : State) (who : Who) (a : Nat) (v hw : Word), s.serves = true → s.lockInject = true →
    (a = aInjCtl ∨ a = aInjCmd ∨ ∃ k, k < 12 ∧ a = aInjArm k) →
    (s.write32 who a v hw).2 = false
    ∧ ∃ t, exec (.registerWrite who a v hw) s = .next t ∧ s.RegsBecome [aFltStat] t ∧ t.reg aFltStat = s.reg aFltStat ||| 8)
  ∧ (∀ (s : State) (who : Who) (andDisarm : Bool) (co : List Hit), s.serves = true → s.lockInject = true →
    (∃ t, exec (.fire who andDisarm co) s = .next t ∧ s.RegsBecome [aFltStat] t ∧ t.reg aFltStat = s.reg aFltStat ||| 8)
    ∧ ∃ t, exec (.disarm who) s = .next t ∧ s.RegsBecome [aFltStat] t ∧ t.reg aFltStat = s.reg aFltStat ||| 8)
  ∧ ∀ (s : State) (who : Who) (v hw : Word), s.serves = true → v.getLsbD 5 = true →
    (∃ t, exec (.lockInject who) s = .next t ∧ t.lockInject = true ∧ ∀ k, k < 12 → t.reg (aInjArm k) = 0)
    ∧ ∃ t, exec (.registerWrite who aLock v hw) s = .next t ∧ t.lockInject = true ∧ ∀ k, k < 12 → t.reg (aInjArm k) = 0

/-- R426. A write of ARB_PRIOn with CLASS 3, with WEIGHT above 1,024 or under LOCK_CFG leaves the register and sets
ARB_STAT.CFG_REF, and any other is taken; a write of COMMIT 1 under LOCK_CFG is refused and sets CFG_REF; CLRCNT and
the W1C bits stay writable. -/
def Obligations.ArbiterWrites : Prop :=
  ∀ (s : State) (who : Who) (v hw : Word), s.serves = true →
    (∀ n : Fin 13, (s.lockCfg = true ∨ wfld v 17 16 = 3 ∨ 1024 < wfld v 10 0) →
      (s.write32 who (aArbPrio n) v hw).2 = false
      ∧ ∃ t, exec (.registerWrite who (aArbPrio n) v hw) s = .next t ∧ s.RegsBecome [aArbStat] t
        ∧ t.reg aArbStat = s.reg aArbStat ||| 1)
    ∧ (∀ n : Fin 13, s.lockCfg = false → wfld v 17 16 ≠ 3 → wfld v 10 0 ≤ 1024 →
      ∃ t, exec (.registerWrite who (aArbPrio n) v hw) s = .next t ∧ s.RegsBecome [aArbPrio n] t
        ∧ t.reg (aArbPrio n) = v &&& 0x307FF)
    ∧ (s.lockCfg = true → v.getLsbD 31 = true →
      (s.write32 who aArbCommit v hw).2 = false
      ∧ ∃ t, exec (.registerWrite who aArbCommit v hw) s = .next t ∧ s.RegsBecome [aArbStat, aArbPre] t
        ∧ t.reg aArbStat = s.reg aArbStat ||| 1 ∧ t.reg aArbPre = if v.getLsbD 30 then 0 else s.reg aArbPre)
    ∧ (v.getLsbD 31 = false →
      ∃ t, exec (.registerWrite who aArbCommit v hw) s = .next t ∧ s.RegsBecome [aArbPre] t
        ∧ t.reg aArbPre = if v.getLsbD 30 then 0 else s.reg aArbPre)
    ∧ (∃ t, exec (.registerWrite who aArbStat v hw) s = .next t ∧ s.RegsBecome [aArbStat] t
      ∧ t.reg aArbStat = s.reg aArbStat &&& ~~~(v &&& ~~~hw &&& 3))
    ∧ ∃ t, exec (.registerWrite who aArbStarve v hw) s = .next t ∧ s.RegsBecome [aArbStarve] t
      ∧ t.reg aArbStarve = s.reg aArbStarve &&& ~~~(v &&& ~~~hw &&& 0x1FFF)
end

