-- ==== Sys2Proof/Laws/Maps.lean ====
section
/-! SUPPORT. The laws of the maps that hold registers and memories: reading after a write, and every map operation keeps
the canonical form. -/

set_option Elab.async false

namespace Sys2Proof.Machine

variable {α : Type}

theorem mem_ins {m : List (Nat × α)} {a : Nat} {v : α} {e : Nat × α} : e ∈ ins m a v ↔ e = (a, v) ∨ e ∈ m := by
  induction m with
  | nil => simp [ins]
  | cons x t ih =>
    obtain ⟨k, w⟩ := x
    by_cases h : a < k
    · simp [ins, h]
    · simp only [ins, h, if_false, List.mem_cons, ih]
      tauto

theorem pairwise_ins {m : List (Nat × α)} {a : Nat} {v : α} (hp : m.Pairwise (fun x y => x.1 < y.1))
    (hn : ∀ e ∈ m, e.1 ≠ a) : (ins m a v).Pairwise (fun x y => x.1 < y.1) := by
  induction m with
  | nil => simp [ins]
  | cons x t ih =>
    obtain ⟨k, w⟩ := x
    have hk : k ≠ a := hn (k, w) (by simp)
    rw [List.pairwise_cons] at hp
    by_cases h : a < k
    · simp only [ins, h, if_true, List.pairwise_cons, List.mem_cons]
      refine ⟨?_, hp⟩
      rintro y (rfl | hy)
      · exact h
      · exact lt_trans h (hp.1 y hy)
    · simp only [ins, h, if_false, List.pairwise_cons]
      refine ⟨?_, ih hp.2 (fun e he => hn e (by simp [he]))⟩
      intro y hy
      rcases mem_ins.1 hy with rfl | hy
      · show k < a
        omega
      · exact hp.1 y hy

/-- An entry of a map that keeps only some of its keys. -/
theorem MapWf.filter {d : Nat → α} {m : List (Nat × α)} (h : MapWf d m) (p : Nat × α → Bool) :
    MapWf d (m.filter p) :=
  ⟨h.1.filter p, fun e he => h.2 e (List.mem_of_mem_filter he)⟩

/-- Setting a key keeps the canonical form. -/
theorem MapWf.upd [DecidableEq α] {d : Nat → α} {m : List (Nat × α)} (h : MapWf d m) (a : Nat) (v : α) :
    MapWf d (upd m a (d a) v) := by
  unfold Machine.upd
  split
  · exact h.filter _
  · rename_i hv
    refine ⟨pairwise_ins (h.1.filter _) (fun e he => by simpa using (List.mem_filter.1 he).2), fun e he => ?_⟩
    rcases mem_ins.1 he with rfl | he
    · exact hv
    · exact h.2 e (List.mem_of_mem_filter he)

theorem look_ins_self {m : List (Nat × α)} {a : Nat} {v : α} (hn : ∀ e ∈ m, e.1 ≠ a) :
    look (ins m a v) a = some v := by
  induction m with
  | nil => simp [ins, look]
  | cons x t ih =>
    obtain ⟨k, w⟩ := x
    have hk : k ≠ a := hn (k, w) (by simp)
    by_cases h : a < k
    · simp [ins, h, look]
    · simp only [ins, h, if_false, look, hk]
      exact ih (fun e he => hn e (by simp [he]))

theorem look_ins_ne {m : List (Nat × α)} {a b : Nat} {v : α} (hb : b ≠ a) : look (ins m a v) b = look m b := by
  induction m with
  | nil => simp [ins, look, Ne.symm hb]
  | cons x t ih =>
    obtain ⟨k, w⟩ := x
    by_cases h : a < k
    · simp [ins, h, look, Ne.symm hb]
    · simp only [ins, h, if_false, look, ih]

theorem look_filter_self (m : List (Nat × α)) (a : Nat) : look (m.filter (fun e => e.1 != a)) a = none := by
  induction m with
  | nil => rfl
  | cons x t ih =>
    obtain ⟨k, w⟩ := x
    by_cases h : k = a
    · simpa [h] using ih
    · simpa [List.filter_cons, h, look] using ih

theorem look_filter_ne (m : List (Nat × α)) {a b : Nat} (hb : b ≠ a) :
    look (m.filter (fun e => e.1 != a)) b = look m b := by
  induction m with
  | nil => rfl
  | cons x t ih =>
    obtain ⟨k, w⟩ := x
    by_cases h : k = a
    · subst h
      simpa [look, Ne.symm hb] using ih
    · by_cases hk : k = b
      · simp [look, hk, hb]
      · simpa [List.filter_cons, h, look, hk] using ih

/-- A map reads, at the key just set, the value set. -/
theorem look_upd_self [DecidableEq α] (m : List (Nat × α)) (a : Nat) (d v : α) :
    (look (upd m a d v) a).getD d = v := by
  unfold Machine.upd
  split
  · rename_i h
    simp [look_filter_self, h]
  · rw [look_ins_self (fun e he => by simpa using (List.mem_filter.1 he).2)]
    rfl

/-- A map reads, at every other key, what it read before. -/
theorem look_upd_ne [DecidableEq α] (m : List (Nat × α)) {a b : Nat} (hb : b ≠ a) (d v : α) :
    look (upd m a d v) b = look m b := by
  unfold Machine.upd
  split
  · exact look_filter_ne m hb
  · rw [look_ins_ne hb, look_filter_ne m hb]

/-! Registers -/

@[simp] theorem State.reg_setReg_self (s : State) (a : Nat) (v : Word) : (s.setReg a v).reg a = v :=
  look_upd_self _ _ _ _

theorem State.reg_setReg_ne (s : State) {a b : Nat} (hb : b ≠ a) (v : Word) : (s.setReg a v).reg b = s.reg b := by
  simp [State.reg, State.setReg, look_upd_ne _ hb]

/-! Bytes -/

@[simp] theorem State.byte_pokeByte_self (s : State) (a : Nat) (b : Byte) : (s.pokeByte a b).byte a = b :=
  look_upd_self _ _ _ _

theorem State.byte_pokeByte_ne (s : State) {a c : Nat} (hc : c ≠ a) (b : Byte) : (s.pokeByte a b).byte c = s.byte c := by
  simp [State.byte, State.pokeByte, State.mark, look_upd_ne _ hc]

/-- Poking bytes leaves every byte outside them. -/
theorem State.byte_poke_ne (l : List Byte) (s : State) (a c : Nat) (hc : c < a ∨ a + l.length ≤ c) :
    (s.poke a l).byte c = s.byte c := by
  induction l generalizing s a with
  | nil => rfl
  | cons b t ih =>
    rw [State.poke, ih _ _ (by simp at hc; omega), State.byte_pokeByte_ne _ (by simp at hc; omega)]

/-! Pages -/

theorem MapWf.pageOf {d : Nat → Byte} {m : List Host.Cell} (h : MapWf d m) (k : Nat) : MapWf d (pageOf m k) := h.filter _

/-- Replacing one page by cells of a canonical memory keeps the canonical form. -/
theorem MapWf.setPage {d : Nat → Byte} {m c : List Host.Cell} (h : MapWf d m) (hc : MapWf d c) (k : Nat) :
    MapWf d (setPage m k c) := by
  have h1 := h.filter (fun e => decide (e.1 / 0x400 < k))
  have h2 := hc.pageOf k
  have h3 := h.filter (fun e => decide (k < e.1 / 0x400))
  refine ⟨?_, fun e he => ?_⟩
  · unfold Machine.setPage
    rw [List.pairwise_append, List.pairwise_append]
    refine ⟨⟨h1.1, h2.1, ?_⟩, h3.1, ?_⟩
    · intro x hx y hy
      have hx := (List.mem_filter.1 hx).2
      have hy := (List.mem_filter.1 hy).2
      simp only [decide_eq_true_eq, beq_iff_eq] at hx hy
      by_contra hlt
      have : y.1 / 0x400 ≤ x.1 / 0x400 := Nat.div_le_div_right (by omega)
      omega
    · intro x hx y hy
      have hy := (List.mem_filter.1 hy).2
      simp only [decide_eq_true_eq] at hy
      have hx : x.1 / 0x400 ≤ k := by
        rcases List.mem_append.1 hx with hx | hx
        · have := (List.mem_filter.1 hx).2
          simp only [decide_eq_true_eq] at this
          omega
        · have := (List.mem_filter.1 hx).2
          simp only [beq_iff_eq] at this
          omega
      by_contra hlt
      have : y.1 / 0x400 ≤ x.1 / 0x400 := Nat.div_le_div_right (by omega)
      omega
  · unfold Machine.setPage at he
    rcases List.mem_append.1 he with he | he
    · rcases List.mem_append.1 he with he | he
      · exact h1.2 e he
      · exact h2.2 e he
    · exact h3.2 e he

/-- A page built from bytes is in canonical form. -/
theorem MapWf.pageFrom (k : Nat) (f : Nat → Byte) : MapWf factoryByte (pageFrom k f) := by
  unfold Machine.pageFrom
  refine ⟨List.Pairwise.filter _ ?_, fun e he => by simpa using (List.mem_filter.1 he).2⟩
  rw [List.pairwise_map]
  exact (List.pairwise_lt_range).imp (fun h => by simpa using h)

end Sys2Proof.Machine
end

