-- ==== Sys2Proof/Laws/State.lean ====
section
/-! SUPPORT. What each named update of the state leaves and writes: one lemma per field and update, all true by
unfolding, so that no later proof opens a record update. -/

set_option Elab.async false

namespace Sys2Proof.Machine

variable (s : State)

/-! setReg -/

@[simp] theorem State.setReg_sram (a : Nat) (v : Word) : (s.setReg a v).sram = s.sram := rfl
@[simp] theorem State.setReg_shadow (a : Nat) (v : Word) : (s.setReg a v).shadow = s.shadow := rfl
@[simp] theorem State.setReg_tlmMem (a : Nat) (v : Word) : (s.setReg a v).tlmMem = s.tlmMem := rfl
@[simp] theorem State.setReg_imem (a : Nat) (v : Word) : (s.setReg a v).imem = s.imem := rfl
@[simp] theorem State.setReg_chans (a : Nat) (v : Word) : (s.setReg a v).chans = s.chans := rfl
@[simp] theorem State.setReg_ports (a : Nat) (v : Word) : (s.setReg a v).ports = s.ports := rfl
@[simp] theorem State.setReg_aux (a : Nat) (v : Word) : (s.setReg a v).aux = s.aux := rfl
@[simp] theorem State.setReg_selfTest (a : Nat) (v : Word) : (s.setReg a v).selfTest = s.selfTest := rfl
@[simp] theorem State.setReg_filters (a : Nat) (v : Word) : (s.setReg a v).filters = s.filters := rfl
@[simp] theorem State.setReg_scan (a : Nat) (v : Word) : (s.setReg a v).scan = s.scan := rfl
@[simp] theorem State.setReg_lh (a : Nat) (v : Word) : (s.setReg a v).lh = s.lh := rfl
@[simp] theorem State.setReg_wicks (a : Nat) (v : Word) : (s.setReg a v).wicks = s.wicks := rfl
@[simp] theorem State.setReg_doms (a : Nat) (v : Word) : (s.setReg a v).doms = s.doms := rfl
@[simp] theorem State.setReg_shut (a : Nat) (v : Word) : (s.setReg a v).shut = s.shut := rfl
@[simp] theorem State.setReg_faults (a : Nat) (v : Word) : (s.setReg a v).faults = s.faults := rfl
@[simp] theorem State.setReg_resets (a : Nat) (v : Word) : (s.setReg a v).resets = s.resets := rfl
@[simp] theorem State.setReg_keeper (a : Nat) (v : Word) : (s.setReg a v).keeper = s.keeper := rfl
@[simp] theorem State.setReg_reserve (a : Nat) (v : Word) : (s.setReg a v).reserve = s.reserve := rfl
@[simp] theorem State.setReg_arb (a : Nat) (v : Word) : (s.setReg a v).arb = s.arb := rfl
@[simp] theorem State.setReg_hosts (a : Nat) (v : Word) : (s.setReg a v).hosts = s.hosts := rfl
@[simp] theorem State.setReg_tether (a : Nat) (v : Word) : (s.setReg a v).tether = s.tether := rfl
@[simp] theorem State.setReg_ring (a : Nat) (v : Word) : (s.setReg a v).ring = s.ring := rfl
@[simp] theorem State.setReg_power (a : Nat) (v : Word) : (s.setReg a v).power = s.power := rfl
@[simp] theorem State.setReg_protect (a : Nat) (v : Word) : (s.setReg a v).protect = s.protect := rfl
@[simp] theorem State.setReg_cycle (a : Nat) (v : Word) : (s.setReg a v).cycle = s.cycle := rfl
@[simp] theorem State.setReg_free (a : Nat) (v : Word) : (s.setReg a v).free = s.free := rfl
@[simp] theorem State.setReg_pending (a : Nat) (v : Word) : (s.setReg a v).pending = s.pending := rfl

@[simp] theorem State.setReg_ch (a : Nat) (v : Word) (q : Rail) : (s.setReg a v).ch q = s.ch q := rfl
@[simp] theorem State.setReg_wk (a : Nat) (v : Word) (u : WickId) : (s.setReg a v).wk u = s.wk u := rfl
@[simp] theorem State.setReg_dom (a : Nat) (v : Word) (e : DomId) : (s.setReg a v).dom e = s.dom e := rfl
@[simp] theorem State.setReg_byte (a : Nat) (v : Word) (n : Nat) : (s.setReg a v).byte n = s.byte n := rfl

/-! orReg -/

@[simp] theorem State.orReg_sram (a : Nat) (m : Word) : (s.orReg a m).sram = s.sram := rfl
@[simp] theorem State.orReg_shadow (a : Nat) (m : Word) : (s.orReg a m).shadow = s.shadow := rfl
@[simp] theorem State.orReg_tlmMem (a : Nat) (m : Word) : (s.orReg a m).tlmMem = s.tlmMem := rfl
@[simp] theorem State.orReg_imem (a : Nat) (m : Word) : (s.orReg a m).imem = s.imem := rfl
@[simp] theorem State.orReg_chans (a : Nat) (m : Word) : (s.orReg a m).chans = s.chans := rfl
@[simp] theorem State.orReg_ports (a : Nat) (m : Word) : (s.orReg a m).ports = s.ports := rfl
@[simp] theorem State.orReg_aux (a : Nat) (m : Word) : (s.orReg a m).aux = s.aux := rfl
@[simp] theorem State.orReg_selfTest (a : Nat) (m : Word) : (s.orReg a m).selfTest = s.selfTest := rfl
@[simp] theorem State.orReg_filters (a : Nat) (m : Word) : (s.orReg a m).filters = s.filters := rfl
@[simp] theorem State.orReg_scan (a : Nat) (m : Word) : (s.orReg a m).scan = s.scan := rfl
@[simp] theorem State.orReg_lh (a : Nat) (m : Word) : (s.orReg a m).lh = s.lh := rfl
@[simp] theorem State.orReg_wicks (a : Nat) (m : Word) : (s.orReg a m).wicks = s.wicks := rfl
@[simp] theorem State.orReg_doms (a : Nat) (m : Word) : (s.orReg a m).doms = s.doms := rfl
@[simp] theorem State.orReg_shut (a : Nat) (m : Word) : (s.orReg a m).shut = s.shut := rfl
@[simp] theorem State.orReg_faults (a : Nat) (m : Word) : (s.orReg a m).faults = s.faults := rfl
@[simp] theorem State.orReg_resets (a : Nat) (m : Word) : (s.orReg a m).resets = s.resets := rfl
@[simp] theorem State.orReg_keeper (a : Nat) (m : Word) : (s.orReg a m).keeper = s.keeper := rfl
@[simp] theorem State.orReg_reserve (a : Nat) (m : Word) : (s.orReg a m).reserve = s.reserve := rfl
@[simp] theorem State.orReg_arb (a : Nat) (m : Word) : (s.orReg a m).arb = s.arb := rfl
@[simp] theorem State.orReg_hosts (a : Nat) (m : Word) : (s.orReg a m).hosts = s.hosts := rfl
@[simp] theorem State.orReg_tether (a : Nat) (m : Word) : (s.orReg a m).tether = s.tether := rfl
@[simp] theorem State.orReg_ring (a : Nat) (m : Word) : (s.orReg a m).ring = s.ring := rfl
@[simp] theorem State.orReg_power (a : Nat) (m : Word) : (s.orReg a m).power = s.power := rfl
@[simp] theorem State.orReg_protect (a : Nat) (m : Word) : (s.orReg a m).protect = s.protect := rfl
@[simp] theorem State.orReg_cycle (a : Nat) (m : Word) : (s.orReg a m).cycle = s.cycle := rfl
@[simp] theorem State.orReg_free (a : Nat) (m : Word) : (s.orReg a m).free = s.free := rfl
@[simp] theorem State.orReg_pending (a : Nat) (m : Word) : (s.orReg a m).pending = s.pending := rfl

@[simp] theorem State.orReg_ch (a : Nat) (m : Word) (q : Rail) : (s.orReg a m).ch q = s.ch q := rfl
@[simp] theorem State.orReg_wk (a : Nat) (m : Word) (u : WickId) : (s.orReg a m).wk u = s.wk u := rfl
@[simp] theorem State.orReg_dom (a : Nat) (m : Word) (e : DomId) : (s.orReg a m).dom e = s.dom e := rfl
@[simp] theorem State.orReg_byte (a : Nat) (m : Word) (n : Nat) : (s.orReg a m).byte n = s.byte n := rfl

/-! clrReg -/

@[simp] theorem State.clrReg_sram (a : Nat) (m : Word) : (s.clrReg a m).sram = s.sram := rfl
@[simp] theorem State.clrReg_shadow (a : Nat) (m : Word) : (s.clrReg a m).shadow = s.shadow := rfl
@[simp] theorem State.clrReg_tlmMem (a : Nat) (m : Word) : (s.clrReg a m).tlmMem = s.tlmMem := rfl
@[simp] theorem State.clrReg_imem (a : Nat) (m : Word) : (s.clrReg a m).imem = s.imem := rfl
@[simp] theorem State.clrReg_chans (a : Nat) (m : Word) : (s.clrReg a m).chans = s.chans := rfl
@[simp] theorem State.clrReg_ports (a : Nat) (m : Word) : (s.clrReg a m).ports = s.ports := rfl
@[simp] theorem State.clrReg_aux (a : Nat) (m : Word) : (s.clrReg a m).aux = s.aux := rfl
@[simp] theorem State.clrReg_selfTest (a : Nat) (m : Word) : (s.clrReg a m).selfTest = s.selfTest := rfl
@[simp] theorem State.clrReg_filters (a : Nat) (m : Word) : (s.clrReg a m).filters = s.filters := rfl
@[simp] theorem State.clrReg_scan (a : Nat) (m : Word) : (s.clrReg a m).scan = s.scan := rfl
@[simp] theorem State.clrReg_lh (a : Nat) (m : Word) : (s.clrReg a m).lh = s.lh := rfl
@[simp] theorem State.clrReg_wicks (a : Nat) (m : Word) : (s.clrReg a m).wicks = s.wicks := rfl
@[simp] theorem State.clrReg_doms (a : Nat) (m : Word) : (s.clrReg a m).doms = s.doms := rfl
@[simp] theorem State.clrReg_shut (a : Nat) (m : Word) : (s.clrReg a m).shut = s.shut := rfl
@[simp] theorem State.clrReg_faults (a : Nat) (m : Word) : (s.clrReg a m).faults = s.faults := rfl
@[simp] theorem State.clrReg_resets (a : Nat) (m : Word) : (s.clrReg a m).resets = s.resets := rfl
@[simp] theorem State.clrReg_keeper (a : Nat) (m : Word) : (s.clrReg a m).keeper = s.keeper := rfl
@[simp] theorem State.clrReg_reserve (a : Nat) (m : Word) : (s.clrReg a m).reserve = s.reserve := rfl
@[simp] theorem State.clrReg_arb (a : Nat) (m : Word) : (s.clrReg a m).arb = s.arb := rfl
@[simp] theorem State.clrReg_hosts (a : Nat) (m : Word) : (s.clrReg a m).hosts = s.hosts := rfl
@[simp] theorem State.clrReg_tether (a : Nat) (m : Word) : (s.clrReg a m).tether = s.tether := rfl
@[simp] theorem State.clrReg_ring (a : Nat) (m : Word) : (s.clrReg a m).ring = s.ring := rfl
@[simp] theorem State.clrReg_power (a : Nat) (m : Word) : (s.clrReg a m).power = s.power := rfl
@[simp] theorem State.clrReg_protect (a : Nat) (m : Word) : (s.clrReg a m).protect = s.protect := rfl
@[simp] theorem State.clrReg_cycle (a : Nat) (m : Word) : (s.clrReg a m).cycle = s.cycle := rfl
@[simp] theorem State.clrReg_free (a : Nat) (m : Word) : (s.clrReg a m).free = s.free := rfl
@[simp] theorem State.clrReg_pending (a : Nat) (m : Word) : (s.clrReg a m).pending = s.pending := rfl

@[simp] theorem State.clrReg_ch (a : Nat) (m : Word) (q : Rail) : (s.clrReg a m).ch q = s.ch q := rfl
@[simp] theorem State.clrReg_wk (a : Nat) (m : Word) (u : WickId) : (s.clrReg a m).wk u = s.wk u := rfl
@[simp] theorem State.clrReg_dom (a : Nat) (m : Word) (e : DomId) : (s.clrReg a m).dom e = s.dom e := rfl
@[simp] theorem State.clrReg_byte (a : Nat) (m : Word) (n : Nat) : (s.clrReg a m).byte n = s.byte n := rfl

/-! setFld -/

@[simp] theorem State.setFld_sram (a hi lo v : Nat) : (s.setFld a hi lo v).sram = s.sram := rfl
@[simp] theorem State.setFld_shadow (a hi lo v : Nat) : (s.setFld a hi lo v).shadow = s.shadow := rfl
@[simp] theorem State.setFld_tlmMem (a hi lo v : Nat) : (s.setFld a hi lo v).tlmMem = s.tlmMem := rfl
@[simp] theorem State.setFld_imem (a hi lo v : Nat) : (s.setFld a hi lo v).imem = s.imem := rfl
@[simp] theorem State.setFld_chans (a hi lo v : Nat) : (s.setFld a hi lo v).chans = s.chans := rfl
@[simp] theorem State.setFld_ports (a hi lo v : Nat) : (s.setFld a hi lo v).ports = s.ports := rfl
@[simp] theorem State.setFld_aux (a hi lo v : Nat) : (s.setFld a hi lo v).aux = s.aux := rfl
@[simp] theorem State.setFld_selfTest (a hi lo v : Nat) : (s.setFld a hi lo v).selfTest = s.selfTest := rfl
@[simp] theorem State.setFld_filters (a hi lo v : Nat) : (s.setFld a hi lo v).filters = s.filters := rfl
@[simp] theorem State.setFld_scan (a hi lo v : Nat) : (s.setFld a hi lo v).scan = s.scan := rfl
@[simp] theorem State.setFld_lh (a hi lo v : Nat) : (s.setFld a hi lo v).lh = s.lh := rfl
@[simp] theorem State.setFld_wicks (a hi lo v : Nat) : (s.setFld a hi lo v).wicks = s.wicks := rfl
@[simp] theorem State.setFld_doms (a hi lo v : Nat) : (s.setFld a hi lo v).doms = s.doms := rfl
@[simp] theorem State.setFld_shut (a hi lo v : Nat) : (s.setFld a hi lo v).shut = s.shut := rfl
@[simp] theorem State.setFld_faults (a hi lo v : Nat) : (s.setFld a hi lo v).faults = s.faults := rfl
@[simp] theorem State.setFld_resets (a hi lo v : Nat) : (s.setFld a hi lo v).resets = s.resets := rfl
@[simp] theorem State.setFld_keeper (a hi lo v : Nat) : (s.setFld a hi lo v).keeper = s.keeper := rfl
@[simp] theorem State.setFld_reserve (a hi lo v : Nat) : (s.setFld a hi lo v).reserve = s.reserve := rfl
@[simp] theorem State.setFld_arb (a hi lo v : Nat) : (s.setFld a hi lo v).arb = s.arb := rfl
@[simp] theorem State.setFld_hosts (a hi lo v : Nat) : (s.setFld a hi lo v).hosts = s.hosts := rfl
@[simp] theorem State.setFld_tether (a hi lo v : Nat) : (s.setFld a hi lo v).tether = s.tether := rfl
@[simp] theorem State.setFld_ring (a hi lo v : Nat) : (s.setFld a hi lo v).ring = s.ring := rfl
@[simp] theorem State.setFld_power (a hi lo v : Nat) : (s.setFld a hi lo v).power = s.power := rfl
@[simp] theorem State.setFld_protect (a hi lo v : Nat) : (s.setFld a hi lo v).protect = s.protect := rfl
@[simp] theorem State.setFld_cycle (a hi lo v : Nat) : (s.setFld a hi lo v).cycle = s.cycle := rfl
@[simp] theorem State.setFld_free (a hi lo v : Nat) : (s.setFld a hi lo v).free = s.free := rfl
@[simp] theorem State.setFld_pending (a hi lo v : Nat) : (s.setFld a hi lo v).pending = s.pending := rfl

@[simp] theorem State.setFld_ch (a hi lo v : Nat) (q : Rail) : (s.setFld a hi lo v).ch q = s.ch q := rfl
@[simp] theorem State.setFld_wk (a hi lo v : Nat) (u : WickId) : (s.setFld a hi lo v).wk u = s.wk u := rfl
@[simp] theorem State.setFld_dom (a hi lo v : Nat) (e : DomId) : (s.setFld a hi lo v).dom e = s.dom e := rfl
@[simp] theorem State.setFld_byte (a hi lo v : Nat) (n : Nat) : (s.setFld a hi lo v).byte n = s.byte n := rfl

/-! setBit -/

@[simp] theorem State.setBit_sram (a i : Nat) (b : Bool) : (s.setBit a i b).sram = s.sram := rfl
@[simp] theorem State.setBit_shadow (a i : Nat) (b : Bool) : (s.setBit a i b).shadow = s.shadow := rfl
@[simp] theorem State.setBit_tlmMem (a i : Nat) (b : Bool) : (s.setBit a i b).tlmMem = s.tlmMem := rfl
@[simp] theorem State.setBit_imem (a i : Nat) (b : Bool) : (s.setBit a i b).imem = s.imem := rfl
@[simp] theorem State.setBit_chans (a i : Nat) (b : Bool) : (s.setBit a i b).chans = s.chans := rfl
@[simp] theorem State.setBit_ports (a i : Nat) (b : Bool) : (s.setBit a i b).ports = s.ports := rfl
@[simp] theorem State.setBit_aux (a i : Nat) (b : Bool) : (s.setBit a i b).aux = s.aux := rfl
@[simp] theorem State.setBit_selfTest (a i : Nat) (b : Bool) : (s.setBit a i b).selfTest = s.selfTest := rfl
@[simp] theorem State.setBit_filters (a i : Nat) (b : Bool) : (s.setBit a i b).filters = s.filters := rfl
@[simp] theorem State.setBit_scan (a i : Nat) (b : Bool) : (s.setBit a i b).scan = s.scan := rfl
@[simp] theorem State.setBit_lh (a i : Nat) (b : Bool) : (s.setBit a i b).lh = s.lh := rfl
@[simp] theorem State.setBit_wicks (a i : Nat) (b : Bool) : (s.setBit a i b).wicks = s.wicks := rfl
@[simp] theorem State.setBit_doms (a i : Nat) (b : Bool) : (s.setBit a i b).doms = s.doms := rfl
@[simp] theorem State.setBit_shut (a i : Nat) (b : Bool) : (s.setBit a i b).shut = s.shut := rfl
@[simp] theorem State.setBit_faults (a i : Nat) (b : Bool) : (s.setBit a i b).faults = s.faults := rfl
@[simp] theorem State.setBit_resets (a i : Nat) (b : Bool) : (s.setBit a i b).resets = s.resets := rfl
@[simp] theorem State.setBit_keeper (a i : Nat) (b : Bool) : (s.setBit a i b).keeper = s.keeper := rfl
@[simp] theorem State.setBit_reserve (a i : Nat) (b : Bool) : (s.setBit a i b).reserve = s.reserve := rfl
@[simp] theorem State.setBit_arb (a i : Nat) (b : Bool) : (s.setBit a i b).arb = s.arb := rfl
@[simp] theorem State.setBit_hosts (a i : Nat) (b : Bool) : (s.setBit a i b).hosts = s.hosts := rfl
@[simp] theorem State.setBit_tether (a i : Nat) (b : Bool) : (s.setBit a i b).tether = s.tether := rfl
@[simp] theorem State.setBit_ring (a i : Nat) (b : Bool) : (s.setBit a i b).ring = s.ring := rfl
@[simp] theorem State.setBit_power (a i : Nat) (b : Bool) : (s.setBit a i b).power = s.power := rfl
@[simp] theorem State.setBit_protect (a i : Nat) (b : Bool) : (s.setBit a i b).protect = s.protect := rfl
@[simp] theorem State.setBit_cycle (a i : Nat) (b : Bool) : (s.setBit a i b).cycle = s.cycle := rfl
@[simp] theorem State.setBit_free (a i : Nat) (b : Bool) : (s.setBit a i b).free = s.free := rfl
@[simp] theorem State.setBit_pending (a i : Nat) (b : Bool) : (s.setBit a i b).pending = s.pending := rfl

@[simp] theorem State.setBit_ch (a i : Nat) (b : Bool) (q : Rail) : (s.setBit a i b).ch q = s.ch q := rfl
@[simp] theorem State.setBit_wk (a i : Nat) (b : Bool) (u : WickId) : (s.setBit a i b).wk u = s.wk u := rfl
@[simp] theorem State.setBit_dom (a i : Nat) (b : Bool) (e : DomId) : (s.setBit a i b).dom e = s.dom e := rfl
@[simp] theorem State.setBit_byte (a i : Nat) (b : Bool) (n : Nat) : (s.setBit a i b).byte n = s.byte n := rfl

/-! flag -/

@[simp] theorem State.flag_sram (r : Rail) (i : Nat) : (s.flag r i).sram = s.sram := rfl
@[simp] theorem State.flag_shadow (r : Rail) (i : Nat) : (s.flag r i).shadow = s.shadow := rfl
@[simp] theorem State.flag_tlmMem (r : Rail) (i : Nat) : (s.flag r i).tlmMem = s.tlmMem := rfl
@[simp] theorem State.flag_imem (r : Rail) (i : Nat) : (s.flag r i).imem = s.imem := rfl
@[simp] theorem State.flag_chans (r : Rail) (i : Nat) : (s.flag r i).chans = s.chans := rfl
@[simp] theorem State.flag_ports (r : Rail) (i : Nat) : (s.flag r i).ports = s.ports := rfl
@[simp] theorem State.flag_aux (r : Rail) (i : Nat) : (s.flag r i).aux = s.aux := rfl
@[simp] theorem State.flag_selfTest (r : Rail) (i : Nat) : (s.flag r i).selfTest = s.selfTest := rfl
@[simp] theorem State.flag_filters (r : Rail) (i : Nat) : (s.flag r i).filters = s.filters := rfl
@[simp] theorem State.flag_scan (r : Rail) (i : Nat) : (s.flag r i).scan = s.scan := rfl
@[simp] theorem State.flag_lh (r : Rail) (i : Nat) : (s.flag r i).lh = s.lh := rfl
@[simp] theorem State.flag_wicks (r : Rail) (i : Nat) : (s.flag r i).wicks = s.wicks := rfl
@[simp] theorem State.flag_doms (r : Rail) (i : Nat) : (s.flag r i).doms = s.doms := rfl
@[simp] theorem State.flag_shut (r : Rail) (i : Nat) : (s.flag r i).shut = s.shut := rfl
@[simp] theorem State.flag_faults (r : Rail) (i : Nat) : (s.flag r i).faults = s.faults := rfl
@[simp] theorem State.flag_resets (r : Rail) (i : Nat) : (s.flag r i).resets = s.resets := rfl
@[simp] theorem State.flag_keeper (r : Rail) (i : Nat) : (s.flag r i).keeper = s.keeper := rfl
@[simp] theorem State.flag_reserve (r : Rail) (i : Nat) : (s.flag r i).reserve = s.reserve := rfl
@[simp] theorem State.flag_arb (r : Rail) (i : Nat) : (s.flag r i).arb = s.arb := rfl
@[simp] theorem State.flag_hosts (r : Rail) (i : Nat) : (s.flag r i).hosts = s.hosts := rfl
@[simp] theorem State.flag_tether (r : Rail) (i : Nat) : (s.flag r i).tether = s.tether := rfl
@[simp] theorem State.flag_ring (r : Rail) (i : Nat) : (s.flag r i).ring = s.ring := rfl
@[simp] theorem State.flag_power (r : Rail) (i : Nat) : (s.flag r i).power = s.power := rfl
@[simp] theorem State.flag_protect (r : Rail) (i : Nat) : (s.flag r i).protect = s.protect := rfl
@[simp] theorem State.flag_cycle (r : Rail) (i : Nat) : (s.flag r i).cycle = s.cycle := rfl
@[simp] theorem State.flag_free (r : Rail) (i : Nat) : (s.flag r i).free = s.free := rfl
@[simp] theorem State.flag_pending (r : Rail) (i : Nat) : (s.flag r i).pending = s.pending := rfl

@[simp] theorem State.flag_ch (r : Rail) (i : Nat) (q : Rail) : (s.flag r i).ch q = s.ch q := rfl
@[simp] theorem State.flag_wk (r : Rail) (i : Nat) (u : WickId) : (s.flag r i).wk u = s.wk u := rfl
@[simp] theorem State.flag_dom (r : Rail) (i : Nat) (e : DomId) : (s.flag r i).dom e = s.dom e := rfl
@[simp] theorem State.flag_byte (r : Rail) (i : Nat) (n : Nat) : (s.flag r i).byte n = s.byte n := rfl

/-! mark -/

@[simp] theorem State.mark_regs (a : Nat) : (s.mark a).regs = s.regs := rfl
@[simp] theorem State.mark_sram (a : Nat) : (s.mark a).sram = s.sram := rfl
@[simp] theorem State.mark_shadow (a : Nat) : (s.mark a).shadow = s.shadow := rfl
@[simp] theorem State.mark_tlmMem (a : Nat) : (s.mark a).tlmMem = s.tlmMem := rfl
@[simp] theorem State.mark_imem (a : Nat) : (s.mark a).imem = s.imem := rfl
@[simp] theorem State.mark_chans (a : Nat) : (s.mark a).chans = s.chans := rfl
@[simp] theorem State.mark_ports (a : Nat) : (s.mark a).ports = s.ports := rfl
@[simp] theorem State.mark_aux (a : Nat) : (s.mark a).aux = s.aux := rfl
@[simp] theorem State.mark_selfTest (a : Nat) : (s.mark a).selfTest = s.selfTest := rfl
@[simp] theorem State.mark_filters (a : Nat) : (s.mark a).filters = s.filters := rfl
@[simp] theorem State.mark_scan (a : Nat) : (s.mark a).scan = s.scan := rfl
@[simp] theorem State.mark_lh (a : Nat) : (s.mark a).lh = s.lh := rfl
@[simp] theorem State.mark_wicks (a : Nat) : (s.mark a).wicks = s.wicks := rfl
@[simp] theorem State.mark_doms (a : Nat) : (s.mark a).doms = s.doms := rfl
@[simp] theorem State.mark_shut (a : Nat) : (s.mark a).shut = s.shut := rfl
@[simp] theorem State.mark_faults (a : Nat) : (s.mark a).faults = s.faults := rfl
@[simp] theorem State.mark_resets (a : Nat) : (s.mark a).resets = s.resets := rfl
@[simp] theorem State.mark_reserve (a : Nat) : (s.mark a).reserve = s.reserve := rfl
@[simp] theorem State.mark_arb (a : Nat) : (s.mark a).arb = s.arb := rfl
@[simp] theorem State.mark_hosts (a : Nat) : (s.mark a).hosts = s.hosts := rfl
@[simp] theorem State.mark_tether (a : Nat) : (s.mark a).tether = s.tether := rfl
@[simp] theorem State.mark_ring (a : Nat) : (s.mark a).ring = s.ring := rfl
@[simp] theorem State.mark_power (a : Nat) : (s.mark a).power = s.power := rfl
@[simp] theorem State.mark_protect (a : Nat) : (s.mark a).protect = s.protect := rfl
@[simp] theorem State.mark_cycle (a : Nat) : (s.mark a).cycle = s.cycle := rfl
@[simp] theorem State.mark_free (a : Nat) : (s.mark a).free = s.free := rfl
@[simp] theorem State.mark_pending (a : Nat) : (s.mark a).pending = s.pending := rfl

@[simp] theorem State.mark_reg (a : Nat) (n : Nat) : (s.mark a).reg n = s.reg n := rfl
@[simp] theorem State.mark_bit (a : Nat) (n k : Nat) : (s.mark a).bit n k = s.bit n k := rfl
@[simp] theorem State.mark_fld (a : Nat) (n h l : Nat) : (s.mark a).fld n h l = s.fld n h l := rfl
@[simp] theorem State.mark_ch (a : Nat) (q : Rail) : (s.mark a).ch q = s.ch q := rfl
@[simp] theorem State.mark_wk (a : Nat) (u : WickId) : (s.mark a).wk u = s.wk u := rfl
@[simp] theorem State.mark_dom (a : Nat) (e : DomId) : (s.mark a).dom e = s.dom e := rfl
@[simp] theorem State.mark_byte (a : Nat) (n : Nat) : (s.mark a).byte n = s.byte n := rfl

/-! pokeByte -/

@[simp] theorem State.pokeByte_regs (a : Nat) (b : Byte) : (s.pokeByte a b).regs = s.regs := rfl
@[simp] theorem State.pokeByte_shadow (a : Nat) (b : Byte) : (s.pokeByte a b).shadow = s.shadow := rfl
@[simp] theorem State.pokeByte_tlmMem (a : Nat) (b : Byte) : (s.pokeByte a b).tlmMem = s.tlmMem := rfl
@[simp] theorem State.pokeByte_imem (a : Nat) (b : Byte) : (s.pokeByte a b).imem = s.imem := rfl
@[simp] theorem State.pokeByte_chans (a : Nat) (b : Byte) : (s.pokeByte a b).chans = s.chans := rfl
@[simp] theorem State.pokeByte_ports (a : Nat) (b : Byte) : (s.pokeByte a b).ports = s.ports := rfl
@[simp] theorem State.pokeByte_aux (a : Nat) (b : Byte) : (s.pokeByte a b).aux = s.aux := rfl
@[simp] theorem State.pokeByte_selfTest (a : Nat) (b : Byte) : (s.pokeByte a b).selfTest = s.selfTest := rfl
@[simp] theorem State.pokeByte_filters (a : Nat) (b : Byte) : (s.pokeByte a b).filters = s.filters := rfl
@[simp] theorem State.pokeByte_scan (a : Nat) (b : Byte) : (s.pokeByte a b).scan = s.scan := rfl
@[simp] theorem State.pokeByte_lh (a : Nat) (b : Byte) : (s.pokeByte a b).lh = s.lh := rfl
@[simp] theorem State.pokeByte_wicks (a : Nat) (b : Byte) : (s.pokeByte a b).wicks = s.wicks := rfl
@[simp] theorem State.pokeByte_doms (a : Nat) (b : Byte) : (s.pokeByte a b).doms = s.doms := rfl
@[simp] theorem State.pokeByte_shut (a : Nat) (b : Byte) : (s.pokeByte a b).shut = s.shut := rfl
@[simp] theorem State.pokeByte_faults (a : Nat) (b : Byte) : (s.pokeByte a b).faults = s.faults := rfl
@[simp] theorem State.pokeByte_resets (a : Nat) (b : Byte) : (s.pokeByte a b).resets = s.resets := rfl
@[simp] theorem State.pokeByte_reserve (a : Nat) (b : Byte) : (s.pokeByte a b).reserve = s.reserve := rfl
@[simp] theorem State.pokeByte_arb (a : Nat) (b : Byte) : (s.pokeByte a b).arb = s.arb := rfl
@[simp] theorem State.pokeByte_hosts (a : Nat) (b : Byte) : (s.pokeByte a b).hosts = s.hosts := rfl
@[simp] theorem State.pokeByte_tether (a : Nat) (b : Byte) : (s.pokeByte a b).tether = s.tether := rfl
@[simp] theorem State.pokeByte_ring (a : Nat) (b : Byte) : (s.pokeByte a b).ring = s.ring := rfl
@[simp] theorem State.pokeByte_power (a : Nat) (b : Byte) : (s.pokeByte a b).power = s.power := rfl
@[simp] theorem State.pokeByte_protect (a : Nat) (b : Byte) : (s.pokeByte a b).protect = s.protect := rfl
@[simp] theorem State.pokeByte_cycle (a : Nat) (b : Byte) : (s.pokeByte a b).cycle = s.cycle := rfl
@[simp] theorem State.pokeByte_free (a : Nat) (b : Byte) : (s.pokeByte a b).free = s.free := rfl
@[simp] theorem State.pokeByte_pending (a : Nat) (b : Byte) : (s.pokeByte a b).pending = s.pending := rfl

@[simp] theorem State.pokeByte_reg (a : Nat) (b : Byte) (n : Nat) : (s.pokeByte a b).reg n = s.reg n := rfl
@[simp] theorem State.pokeByte_bit (a : Nat) (b : Byte) (n k : Nat) : (s.pokeByte a b).bit n k = s.bit n k := rfl
@[simp] theorem State.pokeByte_fld (a : Nat) (b : Byte) (n h l : Nat) : (s.pokeByte a b).fld n h l = s.fld n h l := rfl
@[simp] theorem State.pokeByte_ch (a : Nat) (b : Byte) (q : Rail) : (s.pokeByte a b).ch q = s.ch q := rfl
@[simp] theorem State.pokeByte_wk (a : Nat) (b : Byte) (u : WickId) : (s.pokeByte a b).wk u = s.wk u := rfl
@[simp] theorem State.pokeByte_dom (a : Nat) (b : Byte) (e : DomId) : (s.pokeByte a b).dom e = s.dom e := rfl

/-! tlmPoke -/

@[simp] theorem State.tlmPoke_regs (a : Nat) (b : Byte) : (s.tlmPoke a b).regs = s.regs := rfl
@[simp] theorem State.tlmPoke_sram (a : Nat) (b : Byte) : (s.tlmPoke a b).sram = s.sram := rfl
@[simp] theorem State.tlmPoke_shadow (a : Nat) (b : Byte) : (s.tlmPoke a b).shadow = s.shadow := rfl
@[simp] theorem State.tlmPoke_imem (a : Nat) (b : Byte) : (s.tlmPoke a b).imem = s.imem := rfl
@[simp] theorem State.tlmPoke_chans (a : Nat) (b : Byte) : (s.tlmPoke a b).chans = s.chans := rfl
@[simp] theorem State.tlmPoke_ports (a : Nat) (b : Byte) : (s.tlmPoke a b).ports = s.ports := rfl
@[simp] theorem State.tlmPoke_aux (a : Nat) (b : Byte) : (s.tlmPoke a b).aux = s.aux := rfl
@[simp] theorem State.tlmPoke_selfTest (a : Nat) (b : Byte) : (s.tlmPoke a b).selfTest = s.selfTest := rfl
@[simp] theorem State.tlmPoke_filters (a : Nat) (b : Byte) : (s.tlmPoke a b).filters = s.filters := rfl
@[simp] theorem State.tlmPoke_scan (a : Nat) (b : Byte) : (s.tlmPoke a b).scan = s.scan := rfl
@[simp] theorem State.tlmPoke_lh (a : Nat) (b : Byte) : (s.tlmPoke a b).lh = s.lh := rfl
@[simp] theorem State.tlmPoke_wicks (a : Nat) (b : Byte) : (s.tlmPoke a b).wicks = s.wicks := rfl
@[simp] theorem State.tlmPoke_doms (a : Nat) (b : Byte) : (s.tlmPoke a b).doms = s.doms := rfl
@[simp] theorem State.tlmPoke_shut (a : Nat) (b : Byte) : (s.tlmPoke a b).shut = s.shut := rfl
@[simp] theorem State.tlmPoke_faults (a : Nat) (b : Byte) : (s.tlmPoke a b).faults = s.faults := rfl
@[simp] theorem State.tlmPoke_resets (a : Nat) (b : Byte) : (s.tlmPoke a b).resets = s.resets := rfl
@[simp] theorem State.tlmPoke_keeper (a : Nat) (b : Byte) : (s.tlmPoke a b).keeper = s.keeper := rfl
@[simp] theorem State.tlmPoke_reserve (a : Nat) (b : Byte) : (s.tlmPoke a b).reserve = s.reserve := rfl
@[simp] theorem State.tlmPoke_arb (a : Nat) (b : Byte) : (s.tlmPoke a b).arb = s.arb := rfl
@[simp] theorem State.tlmPoke_hosts (a : Nat) (b : Byte) : (s.tlmPoke a b).hosts = s.hosts := rfl
@[simp] theorem State.tlmPoke_tether (a : Nat) (b : Byte) : (s.tlmPoke a b).tether = s.tether := rfl
@[simp] theorem State.tlmPoke_ring (a : Nat) (b : Byte) : (s.tlmPoke a b).ring = s.ring := rfl
@[simp] theorem State.tlmPoke_power (a : Nat) (b : Byte) : (s.tlmPoke a b).power = s.power := rfl
@[simp] theorem State.tlmPoke_protect (a : Nat) (b : Byte) : (s.tlmPoke a b).protect = s.protect := rfl
@[simp] theorem State.tlmPoke_cycle (a : Nat) (b : Byte) : (s.tlmPoke a b).cycle = s.cycle := rfl
@[simp] theorem State.tlmPoke_free (a : Nat) (b : Byte) : (s.tlmPoke a b).free = s.free := rfl
@[simp] theorem State.tlmPoke_pending (a : Nat) (b : Byte) : (s.tlmPoke a b).pending = s.pending := rfl

@[simp] theorem State.tlmPoke_reg (a : Nat) (b : Byte) (n : Nat) : (s.tlmPoke a b).reg n = s.reg n := rfl
@[simp] theorem State.tlmPoke_bit (a : Nat) (b : Byte) (n k : Nat) : (s.tlmPoke a b).bit n k = s.bit n k := rfl
@[simp] theorem State.tlmPoke_fld (a : Nat) (b : Byte) (n h l : Nat) : (s.tlmPoke a b).fld n h l = s.fld n h l := rfl
@[simp] theorem State.tlmPoke_ch (a : Nat) (b : Byte) (q : Rail) : (s.tlmPoke a b).ch q = s.ch q := rfl
@[simp] theorem State.tlmPoke_wk (a : Nat) (b : Byte) (u : WickId) : (s.tlmPoke a b).wk u = s.wk u := rfl
@[simp] theorem State.tlmPoke_dom (a : Nat) (b : Byte) (e : DomId) : (s.tlmPoke a b).dom e = s.dom e := rfl
@[simp] theorem State.tlmPoke_byte (a : Nat) (b : Byte) (n : Nat) : (s.tlmPoke a b).byte n = s.byte n := rfl

/-! setCh -/

@[simp] theorem State.setCh_regs (r : Rail) (c : Chan) : (s.setCh r c).regs = s.regs := rfl
@[simp] theorem State.setCh_sram (r : Rail) (c : Chan) : (s.setCh r c).sram = s.sram := rfl
@[simp] theorem State.setCh_shadow (r : Rail) (c : Chan) : (s.setCh r c).shadow = s.shadow := rfl
@[simp] theorem State.setCh_tlmMem (r : Rail) (c : Chan) : (s.setCh r c).tlmMem = s.tlmMem := rfl
@[simp] theorem State.setCh_imem (r : Rail) (c : Chan) : (s.setCh r c).imem = s.imem := rfl
@[simp] theorem State.setCh_ports (r : Rail) (c : Chan) : (s.setCh r c).ports = s.ports := rfl
@[simp] theorem State.setCh_aux (r : Rail) (c : Chan) : (s.setCh r c).aux = s.aux := rfl
@[simp] theorem State.setCh_selfTest (r : Rail) (c : Chan) : (s.setCh r c).selfTest = s.selfTest := rfl
@[simp] theorem State.setCh_filters (r : Rail) (c : Chan) : (s.setCh r c).filters = s.filters := rfl
@[simp] theorem State.setCh_scan (r : Rail) (c : Chan) : (s.setCh r c).scan = s.scan := rfl
@[simp] theorem State.setCh_lh (r : Rail) (c : Chan) : (s.setCh r c).lh = s.lh := rfl
@[simp] theorem State.setCh_wicks (r : Rail) (c : Chan) : (s.setCh r c).wicks = s.wicks := rfl
@[simp] theorem State.setCh_doms (r : Rail) (c : Chan) : (s.setCh r c).doms = s.doms := rfl
@[simp] theorem State.setCh_shut (r : Rail) (c : Chan) : (s.setCh r c).shut = s.shut := rfl
@[simp] theorem State.setCh_faults (r : Rail) (c : Chan) : (s.setCh r c).faults = s.faults := rfl
@[simp] theorem State.setCh_resets (r : Rail) (c : Chan) : (s.setCh r c).resets = s.resets := rfl
@[simp] theorem State.setCh_keeper (r : Rail) (c : Chan) : (s.setCh r c).keeper = s.keeper := rfl
@[simp] theorem State.setCh_reserve (r : Rail) (c : Chan) : (s.setCh r c).reserve = s.reserve := rfl
@[simp] theorem State.setCh_arb (r : Rail) (c : Chan) : (s.setCh r c).arb = s.arb := rfl
@[simp] theorem State.setCh_hosts (r : Rail) (c : Chan) : (s.setCh r c).hosts = s.hosts := rfl
@[simp] theorem State.setCh_tether (r : Rail) (c : Chan) : (s.setCh r c).tether = s.tether := rfl
@[simp] theorem State.setCh_ring (r : Rail) (c : Chan) : (s.setCh r c).ring = s.ring := rfl
@[simp] theorem State.setCh_power (r : Rail) (c : Chan) : (s.setCh r c).power = s.power := rfl
@[simp] theorem State.setCh_protect (r : Rail) (c : Chan) : (s.setCh r c).protect = s.protect := rfl
@[simp] theorem State.setCh_cycle (r : Rail) (c : Chan) : (s.setCh r c).cycle = s.cycle := rfl
@[simp] theorem State.setCh_free (r : Rail) (c : Chan) : (s.setCh r c).free = s.free := rfl
@[simp] theorem State.setCh_pending (r : Rail) (c : Chan) : (s.setCh r c).pending = s.pending := rfl

@[simp] theorem State.setCh_reg (r : Rail) (c : Chan) (n : Nat) : (s.setCh r c).reg n = s.reg n := rfl
@[simp] theorem State.setCh_bit (r : Rail) (c : Chan) (n k : Nat) : (s.setCh r c).bit n k = s.bit n k := rfl
@[simp] theorem State.setCh_fld (r : Rail) (c : Chan) (n h l : Nat) : (s.setCh r c).fld n h l = s.fld n h l := rfl
@[simp] theorem State.setCh_wk (r : Rail) (c : Chan) (u : WickId) : (s.setCh r c).wk u = s.wk u := rfl
@[simp] theorem State.setCh_dom (r : Rail) (c : Chan) (e : DomId) : (s.setCh r c).dom e = s.dom e := rfl
@[simp] theorem State.setCh_byte (r : Rail) (c : Chan) (n : Nat) : (s.setCh r c).byte n = s.byte n := rfl

/-! setWk -/

@[simp] theorem State.setWk_regs (w : WickId) (x : Wick) : (s.setWk w x).regs = s.regs := rfl
@[simp] theorem State.setWk_sram (w : WickId) (x : Wick) : (s.setWk w x).sram = s.sram := rfl
@[simp] theorem State.setWk_shadow (w : WickId) (x : Wick) : (s.setWk w x).shadow = s.shadow := rfl
@[simp] theorem State.setWk_tlmMem (w : WickId) (x : Wick) : (s.setWk w x).tlmMem = s.tlmMem := rfl
@[simp] theorem State.setWk_imem (w : WickId) (x : Wick) : (s.setWk w x).imem = s.imem := rfl
@[simp] theorem State.setWk_chans (w : WickId) (x : Wick) : (s.setWk w x).chans = s.chans := rfl
@[simp] theorem State.setWk_ports (w : WickId) (x : Wick) : (s.setWk w x).ports = s.ports := rfl
@[simp] theorem State.setWk_aux (w : WickId) (x : Wick) : (s.setWk w x).aux = s.aux := rfl
@[simp] theorem State.setWk_selfTest (w : WickId) (x : Wick) : (s.setWk w x).selfTest = s.selfTest := rfl
@[simp] theorem State.setWk_filters (w : WickId) (x : Wick) : (s.setWk w x).filters = s.filters := rfl
@[simp] theorem State.setWk_scan (w : WickId) (x : Wick) : (s.setWk w x).scan = s.scan := rfl
@[simp] theorem State.setWk_lh (w : WickId) (x : Wick) : (s.setWk w x).lh = s.lh := rfl
@[simp] theorem State.setWk_doms (w : WickId) (x : Wick) : (s.setWk w x).doms = s.doms := rfl
@[simp] theorem State.setWk_shut (w : WickId) (x : Wick) : (s.setWk w x).shut = s.shut := rfl
@[simp] theorem State.setWk_faults (w : WickId) (x : Wick) : (s.setWk w x).faults = s.faults := rfl
@[simp] theorem State.setWk_resets (w : WickId) (x : Wick) : (s.setWk w x).resets = s.resets := rfl
@[simp] theorem State.setWk_keeper (w : WickId) (x : Wick) : (s.setWk w x).keeper = s.keeper := rfl
@[simp] theorem State.setWk_reserve (w : WickId) (x : Wick) : (s.setWk w x).reserve = s.reserve := rfl
@[simp] theorem State.setWk_arb (w : WickId) (x : Wick) : (s.setWk w x).arb = s.arb := rfl
@[simp] theorem State.setWk_hosts (w : WickId) (x : Wick) : (s.setWk w x).hosts = s.hosts := rfl
@[simp] theorem State.setWk_tether (w : WickId) (x : Wick) : (s.setWk w x).tether = s.tether := rfl
@[simp] theorem State.setWk_ring (w : WickId) (x : Wick) : (s.setWk w x).ring = s.ring := rfl
@[simp] theorem State.setWk_power (w : WickId) (x : Wick) : (s.setWk w x).power = s.power := rfl
@[simp] theorem State.setWk_protect (w : WickId) (x : Wick) : (s.setWk w x).protect = s.protect := rfl
@[simp] theorem State.setWk_cycle (w : WickId) (x : Wick) : (s.setWk w x).cycle = s.cycle := rfl
@[simp] theorem State.setWk_free (w : WickId) (x : Wick) : (s.setWk w x).free = s.free := rfl
@[simp] theorem State.setWk_pending (w : WickId) (x : Wick) : (s.setWk w x).pending = s.pending := rfl

@[simp] theorem State.setWk_reg (w : WickId) (x : Wick) (n : Nat) : (s.setWk w x).reg n = s.reg n := rfl
@[simp] theorem State.setWk_bit (w : WickId) (x : Wick) (n k : Nat) : (s.setWk w x).bit n k = s.bit n k := rfl
@[simp] theorem State.setWk_fld (w : WickId) (x : Wick) (n h l : Nat) : (s.setWk w x).fld n h l = s.fld n h l := rfl
@[simp] theorem State.setWk_ch (w : WickId) (x : Wick) (q : Rail) : (s.setWk w x).ch q = s.ch q := rfl
@[simp] theorem State.setWk_dom (w : WickId) (x : Wick) (e : DomId) : (s.setWk w x).dom e = s.dom e := rfl
@[simp] theorem State.setWk_byte (w : WickId) (x : Wick) (n : Nat) : (s.setWk w x).byte n = s.byte n := rfl

/-! mapWk -/

@[simp] theorem State.mapWk_regs (w : WickId) (f : Wick → Wick) : (s.mapWk w f).regs = s.regs := rfl
@[simp] theorem State.mapWk_sram (w : WickId) (f : Wick → Wick) : (s.mapWk w f).sram = s.sram := rfl
@[simp] theorem State.mapWk_shadow (w : WickId) (f : Wick → Wick) : (s.mapWk w f).shadow = s.shadow := rfl
@[simp] theorem State.mapWk_tlmMem (w : WickId) (f : Wick → Wick) : (s.mapWk w f).tlmMem = s.tlmMem := rfl
@[simp] theorem State.mapWk_imem (w : WickId) (f : Wick → Wick) : (s.mapWk w f).imem = s.imem := rfl
@[simp] theorem State.mapWk_chans (w : WickId) (f : Wick → Wick) : (s.mapWk w f).chans = s.chans := rfl
@[simp] theorem State.mapWk_ports (w : WickId) (f : Wick → Wick) : (s.mapWk w f).ports = s.ports := rfl
@[simp] theorem State.mapWk_aux (w : WickId) (f : Wick → Wick) : (s.mapWk w f).aux = s.aux := rfl
@[simp] theorem State.mapWk_selfTest (w : WickId) (f : Wick → Wick) : (s.mapWk w f).selfTest = s.selfTest := rfl
@[simp] theorem State.mapWk_filters (w : WickId) (f : Wick → Wick) : (s.mapWk w f).filters = s.filters := rfl
@[simp] theorem State.mapWk_scan (w : WickId) (f : Wick → Wick) : (s.mapWk w f).scan = s.scan := rfl
@[simp] theorem State.mapWk_lh (w : WickId) (f : Wick → Wick) : (s.mapWk w f).lh = s.lh := rfl
@[simp] theorem State.mapWk_doms (w : WickId) (f : Wick → Wick) : (s.mapWk w f).doms = s.doms := rfl
@[simp] theorem State.mapWk_shut (w : WickId) (f : Wick → Wick) : (s.mapWk w f).shut = s.shut := rfl
@[simp] theorem State.mapWk_faults (w : WickId) (f : Wick → Wick) : (s.mapWk w f).faults = s.faults := rfl
@[simp] theorem State.mapWk_resets (w : WickId) (f : Wick → Wick) : (s.mapWk w f).resets = s.resets := rfl
@[simp] theorem State.mapWk_keeper (w : WickId) (f : Wick → Wick) : (s.mapWk w f).keeper = s.keeper := rfl
@[simp] theorem State.mapWk_reserve (w : WickId) (f : Wick → Wick) : (s.mapWk w f).reserve = s.reserve := rfl
@[simp] theorem State.mapWk_arb (w : WickId) (f : Wick → Wick) : (s.mapWk w f).arb = s.arb := rfl
@[simp] theorem State.mapWk_hosts (w : WickId) (f : Wick → Wick) : (s.mapWk w f).hosts = s.hosts := rfl
@[simp] theorem State.mapWk_tether (w : WickId) (f : Wick → Wick) : (s.mapWk w f).tether = s.tether := rfl
@[simp] theorem State.mapWk_ring (w : WickId) (f : Wick → Wick) : (s.mapWk w f).ring = s.ring := rfl
@[simp] theorem State.mapWk_power (w : WickId) (f : Wick → Wick) : (s.mapWk w f).power = s.power := rfl
@[simp] theorem State.mapWk_protect (w : WickId) (f : Wick → Wick) : (s.mapWk w f).protect = s.protect := rfl
@[simp] theorem State.mapWk_cycle (w : WickId) (f : Wick → Wick) : (s.mapWk w f).cycle = s.cycle := rfl
@[simp] theorem State.mapWk_free (w : WickId) (f : Wick → Wick) : (s.mapWk w f).free = s.free := rfl
@[simp] theorem State.mapWk_pending (w : WickId) (f : Wick → Wick) : (s.mapWk w f).pending = s.pending := rfl

@[simp] theorem State.mapWk_reg (w : WickId) (f : Wick → Wick) (n : Nat) : (s.mapWk w f).reg n = s.reg n := rfl
@[simp] theorem State.mapWk_bit (w : WickId) (f : Wick → Wick) (n k : Nat) : (s.mapWk w f).bit n k = s.bit n k := rfl
@[simp] theorem State.mapWk_fld (w : WickId) (f : Wick → Wick) (n h l : Nat) : (s.mapWk w f).fld n h l = s.fld n h l := rfl
@[simp] theorem State.mapWk_ch (w : WickId) (f : Wick → Wick) (q : Rail) : (s.mapWk w f).ch q = s.ch q := rfl
@[simp] theorem State.mapWk_dom (w : WickId) (f : Wick → Wick) (e : DomId) : (s.mapWk w f).dom e = s.dom e := rfl
@[simp] theorem State.mapWk_byte (w : WickId) (f : Wick → Wick) (n : Nat) : (s.mapWk w f).byte n = s.byte n := rfl

/-! advance -/

@[simp] theorem State.advance_regs (w : WickId) : (s.advance w).regs = s.regs := rfl
@[simp] theorem State.advance_sram (w : WickId) : (s.advance w).sram = s.sram := rfl
@[simp] theorem State.advance_shadow (w : WickId) : (s.advance w).shadow = s.shadow := rfl
@[simp] theorem State.advance_tlmMem (w : WickId) : (s.advance w).tlmMem = s.tlmMem := rfl
@[simp] theorem State.advance_imem (w : WickId) : (s.advance w).imem = s.imem := rfl
@[simp] theorem State.advance_chans (w : WickId) : (s.advance w).chans = s.chans := rfl
@[simp] theorem State.advance_ports (w : WickId) : (s.advance w).ports = s.ports := rfl
@[simp] theorem State.advance_aux (w : WickId) : (s.advance w).aux = s.aux := rfl
@[simp] theorem State.advance_selfTest (w : WickId) : (s.advance w).selfTest = s.selfTest := rfl
@[simp] theorem State.advance_filters (w : WickId) : (s.advance w).filters = s.filters := rfl
@[simp] theorem State.advance_scan (w : WickId) : (s.advance w).scan = s.scan := rfl
@[simp] theorem State.advance_lh (w : WickId) : (s.advance w).lh = s.lh := rfl
@[simp] theorem State.advance_doms (w : WickId) : (s.advance w).doms = s.doms := rfl
@[simp] theorem State.advance_shut (w : WickId) : (s.advance w).shut = s.shut := rfl
@[simp] theorem State.advance_faults (w : WickId) : (s.advance w).faults = s.faults := rfl
@[simp] theorem State.advance_resets (w : WickId) : (s.advance w).resets = s.resets := rfl
@[simp] theorem State.advance_keeper (w : WickId) : (s.advance w).keeper = s.keeper := rfl
@[simp] theorem State.advance_reserve (w : WickId) : (s.advance w).reserve = s.reserve := rfl
@[simp] theorem State.advance_arb (w : WickId) : (s.advance w).arb = s.arb := rfl
@[simp] theorem State.advance_hosts (w : WickId) : (s.advance w).hosts = s.hosts := rfl
@[simp] theorem State.advance_tether (w : WickId) : (s.advance w).tether = s.tether := rfl
@[simp] theorem State.advance_ring (w : WickId) : (s.advance w).ring = s.ring := rfl
@[simp] theorem State.advance_power (w : WickId) : (s.advance w).power = s.power := rfl
@[simp] theorem State.advance_protect (w : WickId) : (s.advance w).protect = s.protect := rfl
@[simp] theorem State.advance_cycle (w : WickId) : (s.advance w).cycle = s.cycle := rfl
@[simp] theorem State.advance_free (w : WickId) : (s.advance w).free = s.free := rfl
@[simp] theorem State.advance_pending (w : WickId) : (s.advance w).pending = s.pending := rfl

@[simp] theorem State.advance_reg (w : WickId) (n : Nat) : (s.advance w).reg n = s.reg n := rfl
@[simp] theorem State.advance_bit (w : WickId) (n k : Nat) : (s.advance w).bit n k = s.bit n k := rfl
@[simp] theorem State.advance_fld (w : WickId) (n h l : Nat) : (s.advance w).fld n h l = s.fld n h l := rfl
@[simp] theorem State.advance_ch (w : WickId) (q : Rail) : (s.advance w).ch q = s.ch q := rfl
@[simp] theorem State.advance_dom (w : WickId) (e : DomId) : (s.advance w).dom e = s.dom e := rfl
@[simp] theorem State.advance_byte (w : WickId) (n : Nat) : (s.advance w).byte n = s.byte n := rfl

/-! setDom -/

@[simp] theorem State.setDom_regs (d : DomId) (x : Domain) : (s.setDom d x).regs = s.regs := rfl
@[simp] theorem State.setDom_sram (d : DomId) (x : Domain) : (s.setDom d x).sram = s.sram := rfl
@[simp] theorem State.setDom_shadow (d : DomId) (x : Domain) : (s.setDom d x).shadow = s.shadow := rfl
@[simp] theorem State.setDom_tlmMem (d : DomId) (x : Domain) : (s.setDom d x).tlmMem = s.tlmMem := rfl
@[simp] theorem State.setDom_imem (d : DomId) (x : Domain) : (s.setDom d x).imem = s.imem := rfl
@[simp] theorem State.setDom_chans (d : DomId) (x : Domain) : (s.setDom d x).chans = s.chans := rfl
@[simp] theorem State.setDom_ports (d : DomId) (x : Domain) : (s.setDom d x).ports = s.ports := rfl
@[simp] theorem State.setDom_aux (d : DomId) (x : Domain) : (s.setDom d x).aux = s.aux := rfl
@[simp] theorem State.setDom_selfTest (d : DomId) (x : Domain) : (s.setDom d x).selfTest = s.selfTest := rfl
@[simp] theorem State.setDom_filters (d : DomId) (x : Domain) : (s.setDom d x).filters = s.filters := rfl
@[simp] theorem State.setDom_scan (d : DomId) (x : Domain) : (s.setDom d x).scan = s.scan := rfl
@[simp] theorem State.setDom_lh (d : DomId) (x : Domain) : (s.setDom d x).lh = s.lh := rfl
@[simp] theorem State.setDom_wicks (d : DomId) (x : Domain) : (s.setDom d x).wicks = s.wicks := rfl
@[simp] theorem State.setDom_shut (d : DomId) (x : Domain) : (s.setDom d x).shut = s.shut := rfl
@[simp] theorem State.setDom_faults (d : DomId) (x : Domain) : (s.setDom d x).faults = s.faults := rfl
@[simp] theorem State.setDom_resets (d : DomId) (x : Domain) : (s.setDom d x).resets = s.resets := rfl
@[simp] theorem State.setDom_keeper (d : DomId) (x : Domain) : (s.setDom d x).keeper = s.keeper := rfl
@[simp] theorem State.setDom_reserve (d : DomId) (x : Domain) : (s.setDom d x).reserve = s.reserve := rfl
@[simp] theorem State.setDom_arb (d : DomId) (x : Domain) : (s.setDom d x).arb = s.arb := rfl
@[simp] theorem State.setDom_hosts (d : DomId) (x : Domain) : (s.setDom d x).hosts = s.hosts := rfl
@[simp] theorem State.setDom_tether (d : DomId) (x : Domain) : (s.setDom d x).tether = s.tether := rfl
@[simp] theorem State.setDom_ring (d : DomId) (x : Domain) : (s.setDom d x).ring = s.ring := rfl
@[simp] theorem State.setDom_power (d : DomId) (x : Domain) : (s.setDom d x).power = s.power := rfl
@[simp] theorem State.setDom_protect (d : DomId) (x : Domain) : (s.setDom d x).protect = s.protect := rfl
@[simp] theorem State.setDom_cycle (d : DomId) (x : Domain) : (s.setDom d x).cycle = s.cycle := rfl
@[simp] theorem State.setDom_free (d : DomId) (x : Domain) : (s.setDom d x).free = s.free := rfl
@[simp] theorem State.setDom_pending (d : DomId) (x : Domain) : (s.setDom d x).pending = s.pending := rfl

@[simp] theorem State.setDom_reg (d : DomId) (x : Domain) (n : Nat) : (s.setDom d x).reg n = s.reg n := rfl
@[simp] theorem State.setDom_bit (d : DomId) (x : Domain) (n k : Nat) : (s.setDom d x).bit n k = s.bit n k := rfl
@[simp] theorem State.setDom_fld (d : DomId) (x : Domain) (n h l : Nat) : (s.setDom d x).fld n h l = s.fld n h l := rfl
@[simp] theorem State.setDom_ch (d : DomId) (x : Domain) (q : Rail) : (s.setDom d x).ch q = s.ch q := rfl
@[simp] theorem State.setDom_wk (d : DomId) (x : Domain) (u : WickId) : (s.setDom d x).wk u = s.wk u := rfl
@[simp] theorem State.setDom_byte (d : DomId) (x : Domain) (n : Nat) : (s.setDom d x).byte n = s.byte n := rfl

/-! setPort -/

@[simp] theorem State.setPort_regs (p : Fin 4) (x : PmbPort) : (s.setPort p x).regs = s.regs := rfl
@[simp] theorem State.setPort_sram (p : Fin 4) (x : PmbPort) : (s.setPort p x).sram = s.sram := rfl
@[simp] theorem State.setPort_shadow (p : Fin 4) (x : PmbPort) : (s.setPort p x).shadow = s.shadow := rfl
@[simp] theorem State.setPort_tlmMem (p : Fin 4) (x : PmbPort) : (s.setPort p x).tlmMem = s.tlmMem := rfl
@[simp] theorem State.setPort_imem (p : Fin 4) (x : PmbPort) : (s.setPort p x).imem = s.imem := rfl
@[simp] theorem State.setPort_chans (p : Fin 4) (x : PmbPort) : (s.setPort p x).chans = s.chans := rfl
@[simp] theorem State.setPort_aux (p : Fin 4) (x : PmbPort) : (s.setPort p x).aux = s.aux := rfl
@[simp] theorem State.setPort_selfTest (p : Fin 4) (x : PmbPort) : (s.setPort p x).selfTest = s.selfTest := rfl
@[simp] theorem State.setPort_filters (p : Fin 4) (x : PmbPort) : (s.setPort p x).filters = s.filters := rfl
@[simp] theorem State.setPort_scan (p : Fin 4) (x : PmbPort) : (s.setPort p x).scan = s.scan := rfl
@[simp] theorem State.setPort_lh (p : Fin 4) (x : PmbPort) : (s.setPort p x).lh = s.lh := rfl
@[simp] theorem State.setPort_wicks (p : Fin 4) (x : PmbPort) : (s.setPort p x).wicks = s.wicks := rfl
@[simp] theorem State.setPort_doms (p : Fin 4) (x : PmbPort) : (s.setPort p x).doms = s.doms := rfl
@[simp] theorem State.setPort_shut (p : Fin 4) (x : PmbPort) : (s.setPort p x).shut = s.shut := rfl
@[simp] theorem State.setPort_faults (p : Fin 4) (x : PmbPort) : (s.setPort p x).faults = s.faults := rfl
@[simp] theorem State.setPort_resets (p : Fin 4) (x : PmbPort) : (s.setPort p x).resets = s.resets := rfl
@[simp] theorem State.setPort_keeper (p : Fin 4) (x : PmbPort) : (s.setPort p x).keeper = s.keeper := rfl
@[simp] theorem State.setPort_reserve (p : Fin 4) (x : PmbPort) : (s.setPort p x).reserve = s.reserve := rfl
@[simp] theorem State.setPort_arb (p : Fin 4) (x : PmbPort) : (s.setPort p x).arb = s.arb := rfl
@[simp] theorem State.setPort_hosts (p : Fin 4) (x : PmbPort) : (s.setPort p x).hosts = s.hosts := rfl
@[simp] theorem State.setPort_tether (p : Fin 4) (x : PmbPort) : (s.setPort p x).tether = s.tether := rfl
@[simp] theorem State.setPort_ring (p : Fin 4) (x : PmbPort) : (s.setPort p x).ring = s.ring := rfl
@[simp] theorem State.setPort_power (p : Fin 4) (x : PmbPort) : (s.setPort p x).power = s.power := rfl
@[simp] theorem State.setPort_protect (p : Fin 4) (x : PmbPort) : (s.setPort p x).protect = s.protect := rfl
@[simp] theorem State.setPort_cycle (p : Fin 4) (x : PmbPort) : (s.setPort p x).cycle = s.cycle := rfl
@[simp] theorem State.setPort_free (p : Fin 4) (x : PmbPort) : (s.setPort p x).free = s.free := rfl
@[simp] theorem State.setPort_pending (p : Fin 4) (x : PmbPort) : (s.setPort p x).pending = s.pending := rfl

@[simp] theorem State.setPort_reg (p : Fin 4) (x : PmbPort) (n : Nat) : (s.setPort p x).reg n = s.reg n := rfl
@[simp] theorem State.setPort_bit (p : Fin 4) (x : PmbPort) (n k : Nat) : (s.setPort p x).bit n k = s.bit n k := rfl
@[simp] theorem State.setPort_fld (p : Fin 4) (x : PmbPort) (n h l : Nat) : (s.setPort p x).fld n h l = s.fld n h l := rfl
@[simp] theorem State.setPort_ch (p : Fin 4) (x : PmbPort) (q : Rail) : (s.setPort p x).ch q = s.ch q := rfl
@[simp] theorem State.setPort_wk (p : Fin 4) (x : PmbPort) (u : WickId) : (s.setPort p x).wk u = s.wk u := rfl
@[simp] theorem State.setPort_dom (p : Fin 4) (x : PmbPort) (e : DomId) : (s.setPort p x).dom e = s.dom e := rfl
@[simp] theorem State.setPort_byte (p : Fin 4) (x : PmbPort) (n : Nat) : (s.setPort p x).byte n = s.byte n := rfl

/-! setSess -/

@[simp] theorem State.setSess_regs (p : Fin 2) (i : Fin 4) (x : Session) : (s.setSess p i x).regs = s.regs := rfl
@[simp] theorem State.setSess_sram (p : Fin 2) (i : Fin 4) (x : Session) : (s.setSess p i x).sram = s.sram := rfl
@[simp] theorem State.setSess_shadow (p : Fin 2) (i : Fin 4) (x : Session) : (s.setSess p i x).shadow = s.shadow := rfl
@[simp] theorem State.setSess_tlmMem (p : Fin 2) (i : Fin 4) (x : Session) : (s.setSess p i x).tlmMem = s.tlmMem := rfl
@[simp] theorem State.setSess_imem (p : Fin 2) (i : Fin 4) (x : Session) : (s.setSess p i x).imem = s.imem := rfl
@[simp] theorem State.setSess_chans (p : Fin 2) (i : Fin 4) (x : Session) : (s.setSess p i x).chans = s.chans := rfl
@[simp] theorem State.setSess_ports (p : Fin 2) (i : Fin 4) (x : Session) : (s.setSess p i x).ports = s.ports := rfl
@[simp] theorem State.setSess_aux (p : Fin 2) (i : Fin 4) (x : Session) : (s.setSess p i x).aux = s.aux := rfl
@[simp] theorem State.setSess_selfTest (p : Fin 2) (i : Fin 4) (x : Session) : (s.setSess p i x).selfTest = s.selfTest := rfl
@[simp] theorem State.setSess_filters (p : Fin 2) (i : Fin 4) (x : Session) : (s.setSess p i x).filters = s.filters := rfl
@[simp] theorem State.setSess_scan (p : Fin 2) (i : Fin 4) (x : Session) : (s.setSess p i x).scan = s.scan := rfl
@[simp] theorem State.setSess_lh (p : Fin 2) (i : Fin 4) (x : Session) : (s.setSess p i x).lh = s.lh := rfl
@[simp] theorem State.setSess_wicks (p : Fin 2) (i : Fin 4) (x : Session) : (s.setSess p i x).wicks = s.wicks := rfl
@[simp] theorem State.setSess_doms (p : Fin 2) (i : Fin 4) (x : Session) : (s.setSess p i x).doms = s.doms := rfl
@[simp] theorem State.setSess_shut (p : Fin 2) (i : Fin 4) (x : Session) : (s.setSess p i x).shut = s.shut := rfl
@[simp] theorem State.setSess_faults (p : Fin 2) (i : Fin 4) (x : Session) : (s.setSess p i x).faults = s.faults := rfl
@[simp] theorem State.setSess_resets (p : Fin 2) (i : Fin 4) (x : Session) : (s.setSess p i x).resets = s.resets := rfl
@[simp] theorem State.setSess_keeper (p : Fin 2) (i : Fin 4) (x : Session) : (s.setSess p i x).keeper = s.keeper := rfl
@[simp] theorem State.setSess_reserve (p : Fin 2) (i : Fin 4) (x : Session) : (s.setSess p i x).reserve = s.reserve := rfl
@[simp] theorem State.setSess_arb (p : Fin 2) (i : Fin 4) (x : Session) : (s.setSess p i x).arb = s.arb := rfl
@[simp] theorem State.setSess_tether (p : Fin 2) (i : Fin 4) (x : Session) : (s.setSess p i x).tether = s.tether := rfl
@[simp] theorem State.setSess_ring (p : Fin 2) (i : Fin 4) (x : Session) : (s.setSess p i x).ring = s.ring := rfl
@[simp] theorem State.setSess_power (p : Fin 2) (i : Fin 4) (x : Session) : (s.setSess p i x).power = s.power := rfl
@[simp] theorem State.setSess_protect (p : Fin 2) (i : Fin 4) (x : Session) : (s.setSess p i x).protect = s.protect := rfl
@[simp] theorem State.setSess_cycle (p : Fin 2) (i : Fin 4) (x : Session) : (s.setSess p i x).cycle = s.cycle := rfl
@[simp] theorem State.setSess_free (p : Fin 2) (i : Fin 4) (x : Session) : (s.setSess p i x).free = s.free := rfl
@[simp] theorem State.setSess_pending (p : Fin 2) (i : Fin 4) (x : Session) : (s.setSess p i x).pending = s.pending := rfl

@[simp] theorem State.setSess_reg (p : Fin 2) (i : Fin 4) (x : Session) (n : Nat) : (s.setSess p i x).reg n = s.reg n := rfl
@[simp] theorem State.setSess_bit (p : Fin 2) (i : Fin 4) (x : Session) (n k : Nat) : (s.setSess p i x).bit n k = s.bit n k := rfl
@[simp] theorem State.setSess_fld (p : Fin 2) (i : Fin 4) (x : Session) (n h l : Nat) : (s.setSess p i x).fld n h l = s.fld n h l := rfl
@[simp] theorem State.setSess_ch (p : Fin 2) (i : Fin 4) (x : Session) (q : Rail) : (s.setSess p i x).ch q = s.ch q := rfl
@[simp] theorem State.setSess_wk (p : Fin 2) (i : Fin 4) (x : Session) (u : WickId) : (s.setSess p i x).wk u = s.wk u := rfl
@[simp] theorem State.setSess_dom (p : Fin 2) (i : Fin 4) (x : Session) (e : DomId) : (s.setSess p i x).dom e = s.dom e := rfl
@[simp] theorem State.setSess_byte (p : Fin 2) (i : Fin 4) (x : Session) (n : Nat) : (s.setSess p i x).byte n = s.byte n := rfl

/-! setRsv -/

@[simp] theorem State.setRsv_regs (v : Reserve) : (s.setRsv v).regs = s.regs := rfl
@[simp] theorem State.setRsv_sram (v : Reserve) : (s.setRsv v).sram = s.sram := rfl
@[simp] theorem State.setRsv_shadow (v : Reserve) : (s.setRsv v).shadow = s.shadow := rfl
@[simp] theorem State.setRsv_tlmMem (v : Reserve) : (s.setRsv v).tlmMem = s.tlmMem := rfl
@[simp] theorem State.setRsv_imem (v : Reserve) : (s.setRsv v).imem = s.imem := rfl
@[simp] theorem State.setRsv_chans (v : Reserve) : (s.setRsv v).chans = s.chans := rfl
@[simp] theorem State.setRsv_ports (v : Reserve) : (s.setRsv v).ports = s.ports := rfl
@[simp] theorem State.setRsv_aux (v : Reserve) : (s.setRsv v).aux = s.aux := rfl
@[simp] theorem State.setRsv_selfTest (v : Reserve) : (s.setRsv v).selfTest = s.selfTest := rfl
@[simp] theorem State.setRsv_filters (v : Reserve) : (s.setRsv v).filters = s.filters := rfl
@[simp] theorem State.setRsv_scan (v : Reserve) : (s.setRsv v).scan = s.scan := rfl
@[simp] theorem State.setRsv_lh (v : Reserve) : (s.setRsv v).lh = s.lh := rfl
@[simp] theorem State.setRsv_wicks (v : Reserve) : (s.setRsv v).wicks = s.wicks := rfl
@[simp] theorem State.setRsv_doms (v : Reserve) : (s.setRsv v).doms = s.doms := rfl
@[simp] theorem State.setRsv_shut (v : Reserve) : (s.setRsv v).shut = s.shut := rfl
@[simp] theorem State.setRsv_faults (v : Reserve) : (s.setRsv v).faults = s.faults := rfl
@[simp] theorem State.setRsv_resets (v : Reserve) : (s.setRsv v).resets = s.resets := rfl
@[simp] theorem State.setRsv_keeper (v : Reserve) : (s.setRsv v).keeper = s.keeper := rfl
@[simp] theorem State.setRsv_arb (v : Reserve) : (s.setRsv v).arb = s.arb := rfl
@[simp] theorem State.setRsv_hosts (v : Reserve) : (s.setRsv v).hosts = s.hosts := rfl
@[simp] theorem State.setRsv_tether (v : Reserve) : (s.setRsv v).tether = s.tether := rfl
@[simp] theorem State.setRsv_ring (v : Reserve) : (s.setRsv v).ring = s.ring := rfl
@[simp] theorem State.setRsv_power (v : Reserve) : (s.setRsv v).power = s.power := rfl
@[simp] theorem State.setRsv_protect (v : Reserve) : (s.setRsv v).protect = s.protect := rfl
@[simp] theorem State.setRsv_cycle (v : Reserve) : (s.setRsv v).cycle = s.cycle := rfl
@[simp] theorem State.setRsv_free (v : Reserve) : (s.setRsv v).free = s.free := rfl
@[simp] theorem State.setRsv_pending (v : Reserve) : (s.setRsv v).pending = s.pending := rfl

@[simp] theorem State.setRsv_reg (v : Reserve) (n : Nat) : (s.setRsv v).reg n = s.reg n := rfl
@[simp] theorem State.setRsv_bit (v : Reserve) (n k : Nat) : (s.setRsv v).bit n k = s.bit n k := rfl
@[simp] theorem State.setRsv_fld (v : Reserve) (n h l : Nat) : (s.setRsv v).fld n h l = s.fld n h l := rfl
@[simp] theorem State.setRsv_ch (v : Reserve) (q : Rail) : (s.setRsv v).ch q = s.ch q := rfl
@[simp] theorem State.setRsv_wk (v : Reserve) (u : WickId) : (s.setRsv v).wk u = s.wk u := rfl
@[simp] theorem State.setRsv_dom (v : Reserve) (e : DomId) : (s.setRsv v).dom e = s.dom e := rfl
@[simp] theorem State.setRsv_byte (v : Reserve) (n : Nat) : (s.setRsv v).byte n = s.byte n := rfl

/-! setRun -/

@[simp] theorem State.setRun_regs (j : Option StoreRun) : (s.setRun j).regs = s.regs := rfl
@[simp] theorem State.setRun_sram (j : Option StoreRun) : (s.setRun j).sram = s.sram := rfl
@[simp] theorem State.setRun_shadow (j : Option StoreRun) : (s.setRun j).shadow = s.shadow := rfl
@[simp] theorem State.setRun_tlmMem (j : Option StoreRun) : (s.setRun j).tlmMem = s.tlmMem := rfl
@[simp] theorem State.setRun_imem (j : Option StoreRun) : (s.setRun j).imem = s.imem := rfl
@[simp] theorem State.setRun_chans (j : Option StoreRun) : (s.setRun j).chans = s.chans := rfl
@[simp] theorem State.setRun_ports (j : Option StoreRun) : (s.setRun j).ports = s.ports := rfl
@[simp] theorem State.setRun_aux (j : Option StoreRun) : (s.setRun j).aux = s.aux := rfl
@[simp] theorem State.setRun_selfTest (j : Option StoreRun) : (s.setRun j).selfTest = s.selfTest := rfl
@[simp] theorem State.setRun_filters (j : Option StoreRun) : (s.setRun j).filters = s.filters := rfl
@[simp] theorem State.setRun_scan (j : Option StoreRun) : (s.setRun j).scan = s.scan := rfl
@[simp] theorem State.setRun_lh (j : Option StoreRun) : (s.setRun j).lh = s.lh := rfl
@[simp] theorem State.setRun_wicks (j : Option StoreRun) : (s.setRun j).wicks = s.wicks := rfl
@[simp] theorem State.setRun_doms (j : Option StoreRun) : (s.setRun j).doms = s.doms := rfl
@[simp] theorem State.setRun_shut (j : Option StoreRun) : (s.setRun j).shut = s.shut := rfl
@[simp] theorem State.setRun_faults (j : Option StoreRun) : (s.setRun j).faults = s.faults := rfl
@[simp] theorem State.setRun_resets (j : Option StoreRun) : (s.setRun j).resets = s.resets := rfl
@[simp] theorem State.setRun_reserve (j : Option StoreRun) : (s.setRun j).reserve = s.reserve := rfl
@[simp] theorem State.setRun_arb (j : Option StoreRun) : (s.setRun j).arb = s.arb := rfl
@[simp] theorem State.setRun_hosts (j : Option StoreRun) : (s.setRun j).hosts = s.hosts := rfl
@[simp] theorem State.setRun_tether (j : Option StoreRun) : (s.setRun j).tether = s.tether := rfl
@[simp] theorem State.setRun_ring (j : Option StoreRun) : (s.setRun j).ring = s.ring := rfl
@[simp] theorem State.setRun_power (j : Option StoreRun) : (s.setRun j).power = s.power := rfl
@[simp] theorem State.setRun_protect (j : Option StoreRun) : (s.setRun j).protect = s.protect := rfl
@[simp] theorem State.setRun_cycle (j : Option StoreRun) : (s.setRun j).cycle = s.cycle := rfl
@[simp] theorem State.setRun_free (j : Option StoreRun) : (s.setRun j).free = s.free := rfl
@[simp] theorem State.setRun_pending (j : Option StoreRun) : (s.setRun j).pending = s.pending := rfl

@[simp] theorem State.setRun_reg (j : Option StoreRun) (n : Nat) : (s.setRun j).reg n = s.reg n := rfl
@[simp] theorem State.setRun_bit (j : Option StoreRun) (n k : Nat) : (s.setRun j).bit n k = s.bit n k := rfl
@[simp] theorem State.setRun_fld (j : Option StoreRun) (n h l : Nat) : (s.setRun j).fld n h l = s.fld n h l := rfl
@[simp] theorem State.setRun_ch (j : Option StoreRun) (q : Rail) : (s.setRun j).ch q = s.ch q := rfl
@[simp] theorem State.setRun_wk (j : Option StoreRun) (u : WickId) : (s.setRun j).wk u = s.wk u := rfl
@[simp] theorem State.setRun_dom (j : Option StoreRun) (e : DomId) : (s.setRun j).dom e = s.dom e := rfl
@[simp] theorem State.setRun_byte (j : Option StoreRun) (n : Nat) : (s.setRun j).byte n = s.byte n := rfl

/-! setScan -/

@[simp] theorem State.setScan_regs (c : Scan) : (s.setScan c).regs = s.regs := rfl
@[simp] theorem State.setScan_sram (c : Scan) : (s.setScan c).sram = s.sram := rfl
@[simp] theorem State.setScan_shadow (c : Scan) : (s.setScan c).shadow = s.shadow := rfl
@[simp] theorem State.setScan_tlmMem (c : Scan) : (s.setScan c).tlmMem = s.tlmMem := rfl
@[simp] theorem State.setScan_imem (c : Scan) : (s.setScan c).imem = s.imem := rfl
@[simp] theorem State.setScan_chans (c : Scan) : (s.setScan c).chans = s.chans := rfl
@[simp] theorem State.setScan_ports (c : Scan) : (s.setScan c).ports = s.ports := rfl
@[simp] theorem State.setScan_aux (c : Scan) : (s.setScan c).aux = s.aux := rfl
@[simp] theorem State.setScan_selfTest (c : Scan) : (s.setScan c).selfTest = s.selfTest := rfl
@[simp] theorem State.setScan_filters (c : Scan) : (s.setScan c).filters = s.filters := rfl
@[simp] theorem State.setScan_lh (c : Scan) : (s.setScan c).lh = s.lh := rfl
@[simp] theorem State.setScan_wicks (c : Scan) : (s.setScan c).wicks = s.wicks := rfl
@[simp] theorem State.setScan_doms (c : Scan) : (s.setScan c).doms = s.doms := rfl
@[simp] theorem State.setScan_shut (c : Scan) : (s.setScan c).shut = s.shut := rfl
@[simp] theorem State.setScan_faults (c : Scan) : (s.setScan c).faults = s.faults := rfl
@[simp] theorem State.setScan_resets (c : Scan) : (s.setScan c).resets = s.resets := rfl
@[simp] theorem State.setScan_keeper (c : Scan) : (s.setScan c).keeper = s.keeper := rfl
@[simp] theorem State.setScan_reserve (c : Scan) : (s.setScan c).reserve = s.reserve := rfl
@[simp] theorem State.setScan_arb (c : Scan) : (s.setScan c).arb = s.arb := rfl
@[simp] theorem State.setScan_hosts (c : Scan) : (s.setScan c).hosts = s.hosts := rfl
@[simp] theorem State.setScan_tether (c : Scan) : (s.setScan c).tether = s.tether := rfl
@[simp] theorem State.setScan_ring (c : Scan) : (s.setScan c).ring = s.ring := rfl
@[simp] theorem State.setScan_power (c : Scan) : (s.setScan c).power = s.power := rfl
@[simp] theorem State.setScan_protect (c : Scan) : (s.setScan c).protect = s.protect := rfl
@[simp] theorem State.setScan_cycle (c : Scan) : (s.setScan c).cycle = s.cycle := rfl
@[simp] theorem State.setScan_free (c : Scan) : (s.setScan c).free = s.free := rfl
@[simp] theorem State.setScan_pending (c : Scan) : (s.setScan c).pending = s.pending := rfl

@[simp] theorem State.setScan_reg (c : Scan) (n : Nat) : (s.setScan c).reg n = s.reg n := rfl
@[simp] theorem State.setScan_bit (c : Scan) (n k : Nat) : (s.setScan c).bit n k = s.bit n k := rfl
@[simp] theorem State.setScan_fld (c : Scan) (n h l : Nat) : (s.setScan c).fld n h l = s.fld n h l := rfl
@[simp] theorem State.setScan_ch (c : Scan) (q : Rail) : (s.setScan c).ch q = s.ch q := rfl
@[simp] theorem State.setScan_wk (c : Scan) (u : WickId) : (s.setScan c).wk u = s.wk u := rfl
@[simp] theorem State.setScan_dom (c : Scan) (e : DomId) : (s.setScan c).dom e = s.dom e := rfl
@[simp] theorem State.setScan_byte (c : Scan) (n : Nat) : (s.setScan c).byte n = s.byte n := rfl

/-! setReq -/

@[simp] theorem State.setReq_regs (m : Fin 13) (x : ArbReq) : (s.setReq m x).regs = s.regs := rfl
@[simp] theorem State.setReq_sram (m : Fin 13) (x : ArbReq) : (s.setReq m x).sram = s.sram := rfl
@[simp] theorem State.setReq_shadow (m : Fin 13) (x : ArbReq) : (s.setReq m x).shadow = s.shadow := rfl
@[simp] theorem State.setReq_tlmMem (m : Fin 13) (x : ArbReq) : (s.setReq m x).tlmMem = s.tlmMem := rfl
@[simp] theorem State.setReq_imem (m : Fin 13) (x : ArbReq) : (s.setReq m x).imem = s.imem := rfl
@[simp] theorem State.setReq_chans (m : Fin 13) (x : ArbReq) : (s.setReq m x).chans = s.chans := rfl
@[simp] theorem State.setReq_ports (m : Fin 13) (x : ArbReq) : (s.setReq m x).ports = s.ports := rfl
@[simp] theorem State.setReq_aux (m : Fin 13) (x : ArbReq) : (s.setReq m x).aux = s.aux := rfl
@[simp] theorem State.setReq_selfTest (m : Fin 13) (x : ArbReq) : (s.setReq m x).selfTest = s.selfTest := rfl
@[simp] theorem State.setReq_filters (m : Fin 13) (x : ArbReq) : (s.setReq m x).filters = s.filters := rfl
@[simp] theorem State.setReq_scan (m : Fin 13) (x : ArbReq) : (s.setReq m x).scan = s.scan := rfl
@[simp] theorem State.setReq_lh (m : Fin 13) (x : ArbReq) : (s.setReq m x).lh = s.lh := rfl
@[simp] theorem State.setReq_wicks (m : Fin 13) (x : ArbReq) : (s.setReq m x).wicks = s.wicks := rfl
@[simp] theorem State.setReq_doms (m : Fin 13) (x : ArbReq) : (s.setReq m x).doms = s.doms := rfl
@[simp] theorem State.setReq_shut (m : Fin 13) (x : ArbReq) : (s.setReq m x).shut = s.shut := rfl
@[simp] theorem State.setReq_faults (m : Fin 13) (x : ArbReq) : (s.setReq m x).faults = s.faults := rfl
@[simp] theorem State.setReq_resets (m : Fin 13) (x : ArbReq) : (s.setReq m x).resets = s.resets := rfl
@[simp] theorem State.setReq_keeper (m : Fin 13) (x : ArbReq) : (s.setReq m x).keeper = s.keeper := rfl
@[simp] theorem State.setReq_reserve (m : Fin 13) (x : ArbReq) : (s.setReq m x).reserve = s.reserve := rfl
@[simp] theorem State.setReq_hosts (m : Fin 13) (x : ArbReq) : (s.setReq m x).hosts = s.hosts := rfl
@[simp] theorem State.setReq_tether (m : Fin 13) (x : ArbReq) : (s.setReq m x).tether = s.tether := rfl
@[simp] theorem State.setReq_ring (m : Fin 13) (x : ArbReq) : (s.setReq m x).ring = s.ring := rfl
@[simp] theorem State.setReq_power (m : Fin 13) (x : ArbReq) : (s.setReq m x).power = s.power := rfl
@[simp] theorem State.setReq_protect (m : Fin 13) (x : ArbReq) : (s.setReq m x).protect = s.protect := rfl
@[simp] theorem State.setReq_cycle (m : Fin 13) (x : ArbReq) : (s.setReq m x).cycle = s.cycle := rfl
@[simp] theorem State.setReq_free (m : Fin 13) (x : ArbReq) : (s.setReq m x).free = s.free := rfl
@[simp] theorem State.setReq_pending (m : Fin 13) (x : ArbReq) : (s.setReq m x).pending = s.pending := rfl

@[simp] theorem State.setReq_reg (m : Fin 13) (x : ArbReq) (n : Nat) : (s.setReq m x).reg n = s.reg n := rfl
@[simp] theorem State.setReq_bit (m : Fin 13) (x : ArbReq) (n k : Nat) : (s.setReq m x).bit n k = s.bit n k := rfl
@[simp] theorem State.setReq_fld (m : Fin 13) (x : ArbReq) (n h l : Nat) : (s.setReq m x).fld n h l = s.fld n h l := rfl
@[simp] theorem State.setReq_ch (m : Fin 13) (x : ArbReq) (q : Rail) : (s.setReq m x).ch q = s.ch q := rfl
@[simp] theorem State.setReq_wk (m : Fin 13) (x : ArbReq) (u : WickId) : (s.setReq m x).wk u = s.wk u := rfl
@[simp] theorem State.setReq_dom (m : Fin 13) (x : ArbReq) (e : DomId) : (s.setReq m x).dom e = s.dom e := rfl
@[simp] theorem State.setReq_byte (m : Fin 13) (x : ArbReq) (n : Nat) : (s.setReq m x).byte n = s.byte n := rfl

/-! setRPort -/

@[simp] theorem State.setRPort_regs (portB : Bool) (p : RingPort) : (s.setRPort portB p).regs = s.regs := rfl
@[simp] theorem State.setRPort_sram (portB : Bool) (p : RingPort) : (s.setRPort portB p).sram = s.sram := rfl
@[simp] theorem State.setRPort_shadow (portB : Bool) (p : RingPort) : (s.setRPort portB p).shadow = s.shadow := rfl
@[simp] theorem State.setRPort_tlmMem (portB : Bool) (p : RingPort) : (s.setRPort portB p).tlmMem = s.tlmMem := rfl
@[simp] theorem State.setRPort_imem (portB : Bool) (p : RingPort) : (s.setRPort portB p).imem = s.imem := rfl
@[simp] theorem State.setRPort_chans (portB : Bool) (p : RingPort) : (s.setRPort portB p).chans = s.chans := rfl
@[simp] theorem State.setRPort_ports (portB : Bool) (p : RingPort) : (s.setRPort portB p).ports = s.ports := rfl
@[simp] theorem State.setRPort_aux (portB : Bool) (p : RingPort) : (s.setRPort portB p).aux = s.aux := rfl
@[simp] theorem State.setRPort_selfTest (portB : Bool) (p : RingPort) : (s.setRPort portB p).selfTest = s.selfTest := rfl
@[simp] theorem State.setRPort_filters (portB : Bool) (p : RingPort) : (s.setRPort portB p).filters = s.filters := rfl
@[simp] theorem State.setRPort_scan (portB : Bool) (p : RingPort) : (s.setRPort portB p).scan = s.scan := rfl
@[simp] theorem State.setRPort_lh (portB : Bool) (p : RingPort) : (s.setRPort portB p).lh = s.lh := rfl
@[simp] theorem State.setRPort_wicks (portB : Bool) (p : RingPort) : (s.setRPort portB p).wicks = s.wicks := rfl
@[simp] theorem State.setRPort_doms (portB : Bool) (p : RingPort) : (s.setRPort portB p).doms = s.doms := rfl
@[simp] theorem State.setRPort_shut (portB : Bool) (p : RingPort) : (s.setRPort portB p).shut = s.shut := rfl
@[simp] theorem State.setRPort_faults (portB : Bool) (p : RingPort) : (s.setRPort portB p).faults = s.faults := rfl
@[simp] theorem State.setRPort_resets (portB : Bool) (p : RingPort) : (s.setRPort portB p).resets = s.resets := rfl
@[simp] theorem State.setRPort_keeper (portB : Bool) (p : RingPort) : (s.setRPort portB p).keeper = s.keeper := rfl
@[simp] theorem State.setRPort_reserve (portB : Bool) (p : RingPort) : (s.setRPort portB p).reserve = s.reserve := rfl
@[simp] theorem State.setRPort_arb (portB : Bool) (p : RingPort) : (s.setRPort portB p).arb = s.arb := rfl
@[simp] theorem State.setRPort_hosts (portB : Bool) (p : RingPort) : (s.setRPort portB p).hosts = s.hosts := rfl
@[simp] theorem State.setRPort_tether (portB : Bool) (p : RingPort) : (s.setRPort portB p).tether = s.tether := rfl
@[simp] theorem State.setRPort_power (portB : Bool) (p : RingPort) : (s.setRPort portB p).power = s.power := rfl
@[simp] theorem State.setRPort_protect (portB : Bool) (p : RingPort) : (s.setRPort portB p).protect = s.protect := rfl
@[simp] theorem State.setRPort_cycle (portB : Bool) (p : RingPort) : (s.setRPort portB p).cycle = s.cycle := rfl
@[simp] theorem State.setRPort_free (portB : Bool) (p : RingPort) : (s.setRPort portB p).free = s.free := rfl
@[simp] theorem State.setRPort_pending (portB : Bool) (p : RingPort) : (s.setRPort portB p).pending = s.pending := rfl

@[simp] theorem State.setRPort_reg (portB : Bool) (p : RingPort) (n : Nat) : (s.setRPort portB p).reg n = s.reg n := rfl
@[simp] theorem State.setRPort_bit (portB : Bool) (p : RingPort) (n k : Nat) : (s.setRPort portB p).bit n k = s.bit n k := rfl
@[simp] theorem State.setRPort_fld (portB : Bool) (p : RingPort) (n h l : Nat) : (s.setRPort portB p).fld n h l = s.fld n h l := rfl
@[simp] theorem State.setRPort_ch (portB : Bool) (p : RingPort) (q : Rail) : (s.setRPort portB p).ch q = s.ch q := rfl
@[simp] theorem State.setRPort_wk (portB : Bool) (p : RingPort) (u : WickId) : (s.setRPort portB p).wk u = s.wk u := rfl
@[simp] theorem State.setRPort_dom (portB : Bool) (p : RingPort) (e : DomId) : (s.setRPort portB p).dom e = s.dom e := rfl
@[simp] theorem State.setRPort_byte (portB : Bool) (p : RingPort) (n : Nat) : (s.setRPort portB p).byte n = s.byte n := rfl

/-! setJtag -/

@[simp] theorem State.setJtag_regs (i : JtagIr) (out : BitVec 64) : (s.setJtag i out).regs = s.regs := rfl
@[simp] theorem State.setJtag_sram (i : JtagIr) (out : BitVec 64) : (s.setJtag i out).sram = s.sram := rfl
@[simp] theorem State.setJtag_shadow (i : JtagIr) (out : BitVec 64) : (s.setJtag i out).shadow = s.shadow := rfl
@[simp] theorem State.setJtag_tlmMem (i : JtagIr) (out : BitVec 64) : (s.setJtag i out).tlmMem = s.tlmMem := rfl
@[simp] theorem State.setJtag_imem (i : JtagIr) (out : BitVec 64) : (s.setJtag i out).imem = s.imem := rfl
@[simp] theorem State.setJtag_chans (i : JtagIr) (out : BitVec 64) : (s.setJtag i out).chans = s.chans := rfl
@[simp] theorem State.setJtag_ports (i : JtagIr) (out : BitVec 64) : (s.setJtag i out).ports = s.ports := rfl
@[simp] theorem State.setJtag_aux (i : JtagIr) (out : BitVec 64) : (s.setJtag i out).aux = s.aux := rfl
@[simp] theorem State.setJtag_selfTest (i : JtagIr) (out : BitVec 64) : (s.setJtag i out).selfTest = s.selfTest := rfl
@[simp] theorem State.setJtag_filters (i : JtagIr) (out : BitVec 64) : (s.setJtag i out).filters = s.filters := rfl
@[simp] theorem State.setJtag_scan (i : JtagIr) (out : BitVec 64) : (s.setJtag i out).scan = s.scan := rfl
@[simp] theorem State.setJtag_lh (i : JtagIr) (out : BitVec 64) : (s.setJtag i out).lh = s.lh := rfl
@[simp] theorem State.setJtag_wicks (i : JtagIr) (out : BitVec 64) : (s.setJtag i out).wicks = s.wicks := rfl
@[simp] theorem State.setJtag_doms (i : JtagIr) (out : BitVec 64) : (s.setJtag i out).doms = s.doms := rfl
@[simp] theorem State.setJtag_shut (i : JtagIr) (out : BitVec 64) : (s.setJtag i out).shut = s.shut := rfl
@[simp] theorem State.setJtag_faults (i : JtagIr) (out : BitVec 64) : (s.setJtag i out).faults = s.faults := rfl
@[simp] theorem State.setJtag_resets (i : JtagIr) (out : BitVec 64) : (s.setJtag i out).resets = s.resets := rfl
@[simp] theorem State.setJtag_keeper (i : JtagIr) (out : BitVec 64) : (s.setJtag i out).keeper = s.keeper := rfl
@[simp] theorem State.setJtag_reserve (i : JtagIr) (out : BitVec 64) : (s.setJtag i out).reserve = s.reserve := rfl
@[simp] theorem State.setJtag_arb (i : JtagIr) (out : BitVec 64) : (s.setJtag i out).arb = s.arb := rfl
@[simp] theorem State.setJtag_hosts (i : JtagIr) (out : BitVec 64) : (s.setJtag i out).hosts = s.hosts := rfl
@[simp] theorem State.setJtag_tether (i : JtagIr) (out : BitVec 64) : (s.setJtag i out).tether = s.tether := rfl
@[simp] theorem State.setJtag_ring (i : JtagIr) (out : BitVec 64) : (s.setJtag i out).ring = s.ring := rfl
@[simp] theorem State.setJtag_power (i : JtagIr) (out : BitVec 64) : (s.setJtag i out).power = s.power := rfl
@[simp] theorem State.setJtag_cycle (i : JtagIr) (out : BitVec 64) : (s.setJtag i out).cycle = s.cycle := rfl
@[simp] theorem State.setJtag_free (i : JtagIr) (out : BitVec 64) : (s.setJtag i out).free = s.free := rfl
@[simp] theorem State.setJtag_pending (i : JtagIr) (out : BitVec 64) : (s.setJtag i out).pending = s.pending := rfl

@[simp] theorem State.setJtag_reg (i : JtagIr) (out : BitVec 64) (n : Nat) : (s.setJtag i out).reg n = s.reg n := rfl
@[simp] theorem State.setJtag_bit (i : JtagIr) (out : BitVec 64) (n k : Nat) : (s.setJtag i out).bit n k = s.bit n k := rfl
@[simp] theorem State.setJtag_fld (i : JtagIr) (out : BitVec 64) (n h l : Nat) : (s.setJtag i out).fld n h l = s.fld n h l := rfl
@[simp] theorem State.setJtag_ch (i : JtagIr) (out : BitVec 64) (q : Rail) : (s.setJtag i out).ch q = s.ch q := rfl
@[simp] theorem State.setJtag_wk (i : JtagIr) (out : BitVec 64) (u : WickId) : (s.setJtag i out).wk u = s.wk u := rfl
@[simp] theorem State.setJtag_dom (i : JtagIr) (out : BitVec 64) (e : DomId) : (s.setJtag i out).dom e = s.dom e := rfl
@[simp] theorem State.setJtag_byte (i : JtagIr) (out : BitVec 64) (n : Nat) : (s.setJtag i out).byte n = s.byte n := rfl

/-! setChg -/

@[simp] theorem State.setChg_regs (c : ChgState) : (s.setChg c).regs = s.regs := rfl
@[simp] theorem State.setChg_sram (c : ChgState) : (s.setChg c).sram = s.sram := rfl
@[simp] theorem State.setChg_shadow (c : ChgState) : (s.setChg c).shadow = s.shadow := rfl
@[simp] theorem State.setChg_tlmMem (c : ChgState) : (s.setChg c).tlmMem = s.tlmMem := rfl
@[simp] theorem State.setChg_imem (c : ChgState) : (s.setChg c).imem = s.imem := rfl
@[simp] theorem State.setChg_chans (c : ChgState) : (s.setChg c).chans = s.chans := rfl
@[simp] theorem State.setChg_ports (c : ChgState) : (s.setChg c).ports = s.ports := rfl
@[simp] theorem State.setChg_aux (c : ChgState) : (s.setChg c).aux = s.aux := rfl
@[simp] theorem State.setChg_selfTest (c : ChgState) : (s.setChg c).selfTest = s.selfTest := rfl
@[simp] theorem State.setChg_filters (c : ChgState) : (s.setChg c).filters = s.filters := rfl
@[simp] theorem State.setChg_scan (c : ChgState) : (s.setChg c).scan = s.scan := rfl
@[simp] theorem State.setChg_lh (c : ChgState) : (s.setChg c).lh = s.lh := rfl
@[simp] theorem State.setChg_wicks (c : ChgState) : (s.setChg c).wicks = s.wicks := rfl
@[simp] theorem State.setChg_doms (c : ChgState) : (s.setChg c).doms = s.doms := rfl
@[simp] theorem State.setChg_shut (c : ChgState) : (s.setChg c).shut = s.shut := rfl
@[simp] theorem State.setChg_faults (c : ChgState) : (s.setChg c).faults = s.faults := rfl
@[simp] theorem State.setChg_resets (c : ChgState) : (s.setChg c).resets = s.resets := rfl
@[simp] theorem State.setChg_keeper (c : ChgState) : (s.setChg c).keeper = s.keeper := rfl
@[simp] theorem State.setChg_arb (c : ChgState) : (s.setChg c).arb = s.arb := rfl
@[simp] theorem State.setChg_hosts (c : ChgState) : (s.setChg c).hosts = s.hosts := rfl
@[simp] theorem State.setChg_tether (c : ChgState) : (s.setChg c).tether = s.tether := rfl
@[simp] theorem State.setChg_ring (c : ChgState) : (s.setChg c).ring = s.ring := rfl
@[simp] theorem State.setChg_power (c : ChgState) : (s.setChg c).power = s.power := rfl
@[simp] theorem State.setChg_protect (c : ChgState) : (s.setChg c).protect = s.protect := rfl
@[simp] theorem State.setChg_cycle (c : ChgState) : (s.setChg c).cycle = s.cycle := rfl
@[simp] theorem State.setChg_free (c : ChgState) : (s.setChg c).free = s.free := rfl
@[simp] theorem State.setChg_pending (c : ChgState) : (s.setChg c).pending = s.pending := rfl

@[simp] theorem State.setChg_reg (c : ChgState) (n : Nat) : (s.setChg c).reg n = s.reg n := rfl
@[simp] theorem State.setChg_bit (c : ChgState) (n k : Nat) : (s.setChg c).bit n k = s.bit n k := rfl
@[simp] theorem State.setChg_fld (c : ChgState) (n h l : Nat) : (s.setChg c).fld n h l = s.fld n h l := rfl
@[simp] theorem State.setChg_ch (c : ChgState) (q : Rail) : (s.setChg c).ch q = s.ch q := rfl
@[simp] theorem State.setChg_wk (c : ChgState) (u : WickId) : (s.setChg c).wk u = s.wk u := rfl
@[simp] theorem State.setChg_dom (c : ChgState) (e : DomId) : (s.setChg c).dom e = s.dom e := rfl
@[simp] theorem State.setChg_byte (c : ChgState) (n : Nat) : (s.setChg c).byte n = s.byte n := rfl

/-! setPhase -/

@[simp] theorem State.setPhase_regs (ph : Phase) : (s.setPhase ph).regs = s.regs := rfl
@[simp] theorem State.setPhase_sram (ph : Phase) : (s.setPhase ph).sram = s.sram := rfl
@[simp] theorem State.setPhase_shadow (ph : Phase) : (s.setPhase ph).shadow = s.shadow := rfl
@[simp] theorem State.setPhase_tlmMem (ph : Phase) : (s.setPhase ph).tlmMem = s.tlmMem := rfl
@[simp] theorem State.setPhase_imem (ph : Phase) : (s.setPhase ph).imem = s.imem := rfl
@[simp] theorem State.setPhase_chans (ph : Phase) : (s.setPhase ph).chans = s.chans := rfl
@[simp] theorem State.setPhase_ports (ph : Phase) : (s.setPhase ph).ports = s.ports := rfl
@[simp] theorem State.setPhase_aux (ph : Phase) : (s.setPhase ph).aux = s.aux := rfl
@[simp] theorem State.setPhase_selfTest (ph : Phase) : (s.setPhase ph).selfTest = s.selfTest := rfl
@[simp] theorem State.setPhase_filters (ph : Phase) : (s.setPhase ph).filters = s.filters := rfl
@[simp] theorem State.setPhase_scan (ph : Phase) : (s.setPhase ph).scan = s.scan := rfl
@[simp] theorem State.setPhase_lh (ph : Phase) : (s.setPhase ph).lh = s.lh := rfl
@[simp] theorem State.setPhase_wicks (ph : Phase) : (s.setPhase ph).wicks = s.wicks := rfl
@[simp] theorem State.setPhase_doms (ph : Phase) : (s.setPhase ph).doms = s.doms := rfl
@[simp] theorem State.setPhase_shut (ph : Phase) : (s.setPhase ph).shut = s.shut := rfl
@[simp] theorem State.setPhase_faults (ph : Phase) : (s.setPhase ph).faults = s.faults := rfl
@[simp] theorem State.setPhase_resets (ph : Phase) : (s.setPhase ph).resets = s.resets := rfl
@[simp] theorem State.setPhase_keeper (ph : Phase) : (s.setPhase ph).keeper = s.keeper := rfl
@[simp] theorem State.setPhase_reserve (ph : Phase) : (s.setPhase ph).reserve = s.reserve := rfl
@[simp] theorem State.setPhase_arb (ph : Phase) : (s.setPhase ph).arb = s.arb := rfl
@[simp] theorem State.setPhase_hosts (ph : Phase) : (s.setPhase ph).hosts = s.hosts := rfl
@[simp] theorem State.setPhase_tether (ph : Phase) : (s.setPhase ph).tether = s.tether := rfl
@[simp] theorem State.setPhase_ring (ph : Phase) : (s.setPhase ph).ring = s.ring := rfl
@[simp] theorem State.setPhase_protect (ph : Phase) : (s.setPhase ph).protect = s.protect := rfl
@[simp] theorem State.setPhase_cycle (ph : Phase) : (s.setPhase ph).cycle = s.cycle := rfl
@[simp] theorem State.setPhase_free (ph : Phase) : (s.setPhase ph).free = s.free := rfl
@[simp] theorem State.setPhase_pending (ph : Phase) : (s.setPhase ph).pending = s.pending := rfl

@[simp] theorem State.setPhase_reg (ph : Phase) (n : Nat) : (s.setPhase ph).reg n = s.reg n := rfl
@[simp] theorem State.setPhase_bit (ph : Phase) (n k : Nat) : (s.setPhase ph).bit n k = s.bit n k := rfl
@[simp] theorem State.setPhase_fld (ph : Phase) (n h l : Nat) : (s.setPhase ph).fld n h l = s.fld n h l := rfl
@[simp] theorem State.setPhase_ch (ph : Phase) (q : Rail) : (s.setPhase ph).ch q = s.ch q := rfl
@[simp] theorem State.setPhase_wk (ph : Phase) (u : WickId) : (s.setPhase ph).wk u = s.wk u := rfl
@[simp] theorem State.setPhase_dom (ph : Phase) (e : DomId) : (s.setPhase ph).dom e = s.dom e := rfl
@[simp] theorem State.setPhase_byte (ph : Phase) (n : Nat) : (s.setPhase ph).byte n = s.byte n := rfl

/-! setTime -/

@[simp] theorem State.setTime_regs (t : BitVec 64) (step : Bool) : (s.setTime t step).regs = s.regs := rfl
@[simp] theorem State.setTime_sram (t : BitVec 64) (step : Bool) : (s.setTime t step).sram = s.sram := rfl
@[simp] theorem State.setTime_shadow (t : BitVec 64) (step : Bool) : (s.setTime t step).shadow = s.shadow := rfl
@[simp] theorem State.setTime_tlmMem (t : BitVec 64) (step : Bool) : (s.setTime t step).tlmMem = s.tlmMem := rfl
@[simp] theorem State.setTime_imem (t : BitVec 64) (step : Bool) : (s.setTime t step).imem = s.imem := rfl
@[simp] theorem State.setTime_chans (t : BitVec 64) (step : Bool) : (s.setTime t step).chans = s.chans := rfl
@[simp] theorem State.setTime_ports (t : BitVec 64) (step : Bool) : (s.setTime t step).ports = s.ports := rfl
@[simp] theorem State.setTime_aux (t : BitVec 64) (step : Bool) : (s.setTime t step).aux = s.aux := rfl
@[simp] theorem State.setTime_selfTest (t : BitVec 64) (step : Bool) : (s.setTime t step).selfTest = s.selfTest := rfl
@[simp] theorem State.setTime_filters (t : BitVec 64) (step : Bool) : (s.setTime t step).filters = s.filters := rfl
@[simp] theorem State.setTime_scan (t : BitVec 64) (step : Bool) : (s.setTime t step).scan = s.scan := rfl
@[simp] theorem State.setTime_lh (t : BitVec 64) (step : Bool) : (s.setTime t step).lh = s.lh := rfl
@[simp] theorem State.setTime_wicks (t : BitVec 64) (step : Bool) : (s.setTime t step).wicks = s.wicks := rfl
@[simp] theorem State.setTime_doms (t : BitVec 64) (step : Bool) : (s.setTime t step).doms = s.doms := rfl
@[simp] theorem State.setTime_shut (t : BitVec 64) (step : Bool) : (s.setTime t step).shut = s.shut := rfl
@[simp] theorem State.setTime_faults (t : BitVec 64) (step : Bool) : (s.setTime t step).faults = s.faults := rfl
@[simp] theorem State.setTime_resets (t : BitVec 64) (step : Bool) : (s.setTime t step).resets = s.resets := rfl
@[simp] theorem State.setTime_keeper (t : BitVec 64) (step : Bool) : (s.setTime t step).keeper = s.keeper := rfl
@[simp] theorem State.setTime_reserve (t : BitVec 64) (step : Bool) : (s.setTime t step).reserve = s.reserve := rfl
@[simp] theorem State.setTime_arb (t : BitVec 64) (step : Bool) : (s.setTime t step).arb = s.arb := rfl
@[simp] theorem State.setTime_hosts (t : BitVec 64) (step : Bool) : (s.setTime t step).hosts = s.hosts := rfl
@[simp] theorem State.setTime_tether (t : BitVec 64) (step : Bool) : (s.setTime t step).tether = s.tether := rfl
@[simp] theorem State.setTime_power (t : BitVec 64) (step : Bool) : (s.setTime t step).power = s.power := rfl
@[simp] theorem State.setTime_protect (t : BitVec 64) (step : Bool) : (s.setTime t step).protect = s.protect := rfl
@[simp] theorem State.setTime_cycle (t : BitVec 64) (step : Bool) : (s.setTime t step).cycle = s.cycle := rfl
@[simp] theorem State.setTime_free (t : BitVec 64) (step : Bool) : (s.setTime t step).free = s.free := rfl
@[simp] theorem State.setTime_pending (t : BitVec 64) (step : Bool) : (s.setTime t step).pending = s.pending := rfl

@[simp] theorem State.setTime_reg (t : BitVec 64) (step : Bool) (n : Nat) : (s.setTime t step).reg n = s.reg n := rfl
@[simp] theorem State.setTime_bit (t : BitVec 64) (step : Bool) (n k : Nat) : (s.setTime t step).bit n k = s.bit n k := rfl
@[simp] theorem State.setTime_fld (t : BitVec 64) (step : Bool) (n h l : Nat) : (s.setTime t step).fld n h l = s.fld n h l := rfl
@[simp] theorem State.setTime_ch (t : BitVec 64) (step : Bool) (q : Rail) : (s.setTime t step).ch q = s.ch q := rfl
@[simp] theorem State.setTime_wk (t : BitVec 64) (step : Bool) (u : WickId) : (s.setTime t step).wk u = s.wk u := rfl
@[simp] theorem State.setTime_dom (t : BitVec 64) (step : Bool) (e : DomId) : (s.setTime t step).dom e = s.dom e := rfl
@[simp] theorem State.setTime_byte (t : BitVec 64) (step : Bool) (n : Nat) : (s.setTime t step).byte n = s.byte n := rfl

/-! draw -/

@[simp] theorem State.draw_regs : s.draw.regs = s.regs := rfl
@[simp] theorem State.draw_sram : s.draw.sram = s.sram := rfl
@[simp] theorem State.draw_shadow : s.draw.shadow = s.shadow := rfl
@[simp] theorem State.draw_tlmMem : s.draw.tlmMem = s.tlmMem := rfl
@[simp] theorem State.draw_imem : s.draw.imem = s.imem := rfl
@[simp] theorem State.draw_chans : s.draw.chans = s.chans := rfl
@[simp] theorem State.draw_ports : s.draw.ports = s.ports := rfl
@[simp] theorem State.draw_aux : s.draw.aux = s.aux := rfl
@[simp] theorem State.draw_selfTest : s.draw.selfTest = s.selfTest := rfl
@[simp] theorem State.draw_filters : s.draw.filters = s.filters := rfl
@[simp] theorem State.draw_scan : s.draw.scan = s.scan := rfl
@[simp] theorem State.draw_lh : s.draw.lh = s.lh := rfl
@[simp] theorem State.draw_wicks : s.draw.wicks = s.wicks := rfl
@[simp] theorem State.draw_doms : s.draw.doms = s.doms := rfl
@[simp] theorem State.draw_shut : s.draw.shut = s.shut := rfl
@[simp] theorem State.draw_faults : s.draw.faults = s.faults := rfl
@[simp] theorem State.draw_resets : s.draw.resets = s.resets := rfl
@[simp] theorem State.draw_keeper : s.draw.keeper = s.keeper := rfl
@[simp] theorem State.draw_reserve : s.draw.reserve = s.reserve := rfl
@[simp] theorem State.draw_arb : s.draw.arb = s.arb := rfl
@[simp] theorem State.draw_hosts : s.draw.hosts = s.hosts := rfl
@[simp] theorem State.draw_tether : s.draw.tether = s.tether := rfl
@[simp] theorem State.draw_ring : s.draw.ring = s.ring := rfl
@[simp] theorem State.draw_power : s.draw.power = s.power := rfl
@[simp] theorem State.draw_protect : s.draw.protect = s.protect := rfl
@[simp] theorem State.draw_cycle : s.draw.cycle = s.cycle := rfl
@[simp] theorem State.draw_pending : s.draw.pending = s.pending := rfl

@[simp] theorem State.draw_reg  (n : Nat) : s.draw.reg n = s.reg n := rfl
@[simp] theorem State.draw_bit  (n k : Nat) : s.draw.bit n k = s.bit n k := rfl
@[simp] theorem State.draw_fld  (n h l : Nat) : s.draw.fld n h l = s.fld n h l := rfl
@[simp] theorem State.draw_ch  (q : Rail) : s.draw.ch q = s.ch q := rfl
@[simp] theorem State.draw_wk  (u : WickId) : s.draw.wk u = s.wk u := rfl
@[simp] theorem State.draw_dom  (e : DomId) : s.draw.dom e = s.dom e := rfl
@[simp] theorem State.draw_byte  (n : Nat) : s.draw.byte n = s.byte n := rfl

/-! startWake: only the wake itself starts -/

@[simp] theorem State.startWake_regs : s.startWake.regs = s.regs := by unfold State.startWake; split <;> rfl
@[simp] theorem State.startWake_sram : s.startWake.sram = s.sram := by unfold State.startWake; split <;> rfl
@[simp] theorem State.startWake_shadow : s.startWake.shadow = s.shadow := by unfold State.startWake; split <;> rfl
@[simp] theorem State.startWake_tlmMem : s.startWake.tlmMem = s.tlmMem := by unfold State.startWake; split <;> rfl
@[simp] theorem State.startWake_imem : s.startWake.imem = s.imem := by unfold State.startWake; split <;> rfl
@[simp] theorem State.startWake_chans : s.startWake.chans = s.chans := by unfold State.startWake; split <;> rfl
@[simp] theorem State.startWake_ports : s.startWake.ports = s.ports := by unfold State.startWake; split <;> rfl
@[simp] theorem State.startWake_aux : s.startWake.aux = s.aux := by unfold State.startWake; split <;> rfl
@[simp] theorem State.startWake_selfTest : s.startWake.selfTest = s.selfTest := by unfold State.startWake; split <;> rfl
@[simp] theorem State.startWake_filters : s.startWake.filters = s.filters := by unfold State.startWake; split <;> rfl
@[simp] theorem State.startWake_scan : s.startWake.scan = s.scan := by unfold State.startWake; split <;> rfl
@[simp] theorem State.startWake_lh : s.startWake.lh = s.lh := by unfold State.startWake; split <;> rfl
@[simp] theorem State.startWake_wicks : s.startWake.wicks = s.wicks := by unfold State.startWake; split <;> rfl
@[simp] theorem State.startWake_doms : s.startWake.doms = s.doms := by unfold State.startWake; split <;> rfl
@[simp] theorem State.startWake_shut : s.startWake.shut = s.shut := by unfold State.startWake; split <;> rfl
@[simp] theorem State.startWake_faults : s.startWake.faults = s.faults := by unfold State.startWake; split <;> rfl
@[simp] theorem State.startWake_resets : s.startWake.resets = s.resets := by unfold State.startWake; split <;> rfl
@[simp] theorem State.startWake_keeper : s.startWake.keeper = s.keeper := by unfold State.startWake; split <;> rfl
@[simp] theorem State.startWake_reserve : s.startWake.reserve = s.reserve := by unfold State.startWake; split <;> rfl
@[simp] theorem State.startWake_arb : s.startWake.arb = s.arb := by unfold State.startWake; split <;> rfl
@[simp] theorem State.startWake_hosts : s.startWake.hosts = s.hosts := by unfold State.startWake; split <;> rfl
@[simp] theorem State.startWake_tether : s.startWake.tether = s.tether := by unfold State.startWake; split <;> rfl
@[simp] theorem State.startWake_ring : s.startWake.ring = s.ring := by unfold State.startWake; split <;> rfl
@[simp] theorem State.startWake_protect : s.startWake.protect = s.protect := by unfold State.startWake; split <;> rfl
@[simp] theorem State.startWake_cycle : s.startWake.cycle = s.cycle := by unfold State.startWake; split <;> rfl
@[simp] theorem State.startWake_free : s.startWake.free = s.free := by unfold State.startWake; split <;> rfl
@[simp] theorem State.startWake_pending : s.startWake.pending = s.pending := by unfold State.startWake; split <;> rfl
@[simp] theorem State.startWake_reg (n : Nat) : s.startWake.reg n = s.reg n := by simp [State.reg]
@[simp] theorem State.startWake_bit (n k : Nat) : s.startWake.bit n k = s.bit n k := by simp [State.bit]
@[simp] theorem State.startWake_fld (n h l : Nat) : s.startWake.fld n h l = s.fld n h l := by simp [State.fld]
@[simp] theorem State.startWake_ch (q : Rail) : s.startWake.ch q = s.ch q := by simp [State.ch]
theorem State.startWake_power : s.startWake.power = { s.power with waking := s.power.waking || s.asleep } := by
  unfold State.startWake
  cases s.asleep <;> simp

/-! The part that an update writes -/

@[simp] theorem State.ch_setCh_self (r : Rail) (c : Chan) : (s.setCh r c).ch r = c := by simp [State.ch, State.setCh]
theorem State.ch_setCh_ne {r q : Rail} (h : q ≠ r) (c : Chan) : (s.setCh r c).ch q = s.ch q := by
  simp [State.ch, State.setCh, Fin.val_inj, Ne.symm h]

@[simp] theorem State.wk_setWk_self (w : WickId) (x : Wick) : (s.setWk w x).wk w = x := by simp [State.wk, State.setWk]
theorem State.wk_setWk_ne {w u : WickId} (h : u ≠ w) (x : Wick) : (s.setWk w x).wk u = s.wk u := by
  simp [State.wk, State.setWk, Fin.val_inj, Ne.symm h]

@[simp] theorem State.wk_mapWk_self (w : WickId) (f : Wick → Wick) : (s.mapWk w f).wk w = f (s.wk w) := by
  simp [State.mapWk]
theorem State.wk_mapWk_ne {w u : WickId} (h : u ≠ w) (f : Wick → Wick) : (s.mapWk w f).wk u = s.wk u := by
  simp [State.mapWk, State.wk_setWk_ne s h]

@[simp] theorem State.wk_advance_self (w : WickId) : (s.advance w).wk w = (s.wk w).advance := by simp [State.advance]
theorem State.wk_advance_ne {w u : WickId} (h : u ≠ w) : (s.advance w).wk u = s.wk u := by
  simp [State.advance, State.wk_mapWk_ne s h]

@[simp] theorem State.dom_setDom_self (d : DomId) (x : Domain) : (s.setDom d x).dom d = x := by
  simp [State.dom, State.setDom]
theorem State.dom_setDom_ne {d e : DomId} (h : e ≠ d) (x : Domain) : (s.setDom d x).dom e = s.dom e := by
  simp [State.dom, State.setDom, Fin.val_inj, Ne.symm h]

@[simp] theorem State.sess_setSess_self (p : Fin 2) (i : Fin 4) (x : Session) : (s.setSess p i x).sess p i = x := by
  simp [State.sess, State.setSess]

@[simp] theorem State.setRsv_reserve (v : Reserve) : (s.setRsv v).reserve = v := rfl
@[simp] theorem State.setScan_scan (c : Scan) : (s.setScan c).scan = c := rfl
@[simp] theorem State.setChg_chg (c : ChgState) : (s.setChg c).reserve.chg = c := rfl
@[simp] theorem State.setRun_run (j : Option StoreRun) : (s.setRun j).keeper.run = j := rfl
@[simp] theorem State.setPhase_phase (ph : Phase) : (s.setPhase ph).power.phase = ph := rfl
@[simp] theorem State.setTime_next (t : BitVec 64) (step : Bool) : (s.setTime t step).ring.next = some (t, step) := rfl
@[simp] theorem State.setTime_now (t : BitVec 64) (step : Bool) : (s.setTime t step).now = s.now := rfl
@[simp] theorem State.draw_free : s.draw.free = s.free + 1 := rfl

@[simp] theorem State.reg_orReg_self (a : Nat) (m : Word) : (s.orReg a m).reg a = s.reg a ||| m := by simp [State.orReg]
theorem State.reg_orReg_ne {a b : Nat} (h : b ≠ a) (m : Word) : (s.orReg a m).reg b = s.reg b :=
  State.reg_setReg_ne s h _
@[simp] theorem State.reg_clrReg_self (a : Nat) (m : Word) : (s.clrReg a m).reg a = s.reg a &&& ~~~m := by
  simp [State.clrReg]
theorem State.reg_clrReg_ne {a b : Nat} (h : b ≠ a) (m : Word) : (s.clrReg a m).reg b = s.reg b :=
  State.reg_setReg_ne s h _
@[simp] theorem State.reg_setFld_self (a hi lo v : Nat) : (s.setFld a hi lo v).reg a = put (s.reg a) hi lo v := by
  simp [State.setFld]
theorem State.reg_setFld_ne {a b : Nat} (h : b ≠ a) (hi lo v : Nat) : (s.setFld a hi lo v).reg b = s.reg b :=
  State.reg_setReg_ne s h _
@[simp] theorem State.reg_setBit_self (a i : Nat) (x : Bool) : (s.setBit a i x).reg a = setb (s.reg a) i x := by
  simp [State.setBit]
theorem State.reg_setBit_ne {a b : Nat} (h : b ≠ a) (i : Nat) (x : Bool) : (s.setBit a i x).reg b = s.reg b :=
  State.reg_setReg_ne s h _

end Sys2Proof.Machine
end

