-- ==== Sys2Proof/Laws/Collect.lean ====
section
/-! SUPPORT. What the fault collector's cycle leaves alone: every part but the collector, the registers outside the
telemetry, collector, store and reserve blocks, of a channel everything but its loop-health perturbation, and of the power
state everything but that a wake starts. -/

set_option Elab.async false

namespace Sys2Proof.Machine

/-- A register of the channels, the monitors or the sequencer: the collector writes none of them. -/
def quietReg (a : Nat) : Prop := a < 0x10020000 ∨ (0x10030000 ≤ a ∧ a < 0x10040000)

/-- `t` differs from `s` at most where the collector writes. -/
structure Collects (s t : State) : Prop where
  fields : t = { s with
    regs := t.regs, chans := t.chans, scan := t.scan, lh := t.lh, faults := t.faults, keeper := t.keeper
    ring := t.ring, reserve := t.reserve, power := { s.power with waking := t.power.waking } }
  regs : ∀ a, quietReg a → t.reg a = s.reg a
  chans : ∀ r, t.ch r = { s.ch r with perturb := (t.ch r).perturb }

variable {s0 s t : State}

theorem Collects.rfl' (s : State) : Collects s s := ⟨rfl, fun _ _ => rfl, fun _ => rfl⟩

theorem Collects.trans {u : State} (h : Collects s t) (k : Collects t u) : Collects s u := by
  refine ⟨?_, fun a ha => (k.regs a ha).trans (h.regs a ha), fun r => ?_⟩
  · have hp : u.power = { s.power with waking := u.power.waking } := by
      have hk := congrArg State.power k.fields
      have hh := congrArg State.power h.fields
      dsimp only at hk hh
      rw [hh] at hk
      exact hk
    calc u = _ := k.fields
      _ = _ := by rw [h.fields]
  · rw [k.chans r, h.chans r]

/-- An update of the fields that the collector writes, registers and channels apart. -/
theorem Collects.update (h : Collects s0 s) {regs sram shadow tlmMem imem chans ports aux selfTest filters scan lh wicks
    doms shut faults resets keeper reserve arb hosts tether ring power protect cycle free pending}
    (hx : s = { s with
      regs := regs, sram := sram, shadow := shadow, tlmMem := tlmMem, imem := imem, chans := chans, ports := ports
      aux := aux, selfTest := selfTest, filters := filters, wicks := wicks, doms := doms, shut := shut, resets := resets
      arb := arb, hosts := hosts, tether := tether, power := power, protect := protect, cycle := cycle, free := free
      pending := pending } := by rfl) :
    Collects s0 (State.mk regs sram shadow tlmMem imem chans ports aux selfTest filters scan lh wicks doms
      shut faults resets keeper reserve arb hosts tether ring power protect cycle free pending) := by
  refine h.trans ?_
  generalize hr : State.mk regs sram shadow tlmMem imem chans ports aux selfTest filters scan lh wicks doms
      shut faults resets keeper reserve arb hosts tether ring power protect cycle free pending = u
  have h1 : u.regs = s.regs := by rw [← hr, hx]
  have h2 : u.chans = s.chans := by rw [← hr, hx]
  refine ⟨?_, fun a _ => by simp only [State.reg, h1], fun r => by simp only [State.ch, h2]⟩
  rw [← hr, hx]

theorem State.setReg_collects (s : State) (x : Nat) (v : Word) (hx : ¬ quietReg x) (h : Collects s0 s) :
    Collects s0 (s.setReg x v) := by
  refine h.trans ⟨rfl, fun a ha => State.reg_setReg_ne s ?_ v, fun _ => rfl⟩
  rintro rfl
  exact hx ha

theorem State.orReg_collects (s : State) (x : Nat) (m : Word) (hx : ¬ quietReg x) (h : Collects s0 s) :
    Collects s0 (s.orReg x m) := State.setReg_collects _ _ _ hx h
theorem State.clrReg_collects (s : State) (x : Nat) (m : Word) (hx : ¬ quietReg x) (h : Collects s0 s) :
    Collects s0 (s.clrReg x m) := State.setReg_collects _ _ _ hx h
theorem State.setFld_collects (s : State) (x hi lo v : Nat) (hx : ¬ quietReg x) (h : Collects s0 s) :
    Collects s0 (s.setFld x hi lo v) := State.setReg_collects _ _ _ hx h
theorem State.setBit_collects (s : State) (x i : Nat) (b : Bool) (hx : ¬ quietReg x) (h : Collects s0 s) :
    Collects s0 (s.setBit x i b) := State.setReg_collects _ _ _ hx h

theorem Collects.foldl {α : Type} (f : State → α → State) (hf : ∀ s x, Collects s0 s → Collects s0 (f s x)) (l : List α)
    (h : Collects s0 s) : Collects s0 (l.foldl f s) := by
  induction l generalizing s with
  | nil => exact h
  | cons x t ih => exact ih (hf _ _ h)

/-! Each operation of the collector -/

theorem State.startWake_collects (s : State) (h : Collects s0 s) : Collects s0 s.startWake := by
  refine h.trans ⟨?_, fun _ _ => s.startWake_reg _, fun r => by rw [s.startWake_ch]⟩
  unfold State.startWake
  split <;> rfl

theorem State.logRaise_collects {s0 : State} (s : State) (j : Judged) (h : Collects s0 s) :
    Collects s0 (State.logRaise s j) := by
  unfold State.logRaise
  extract_lets z1 z2 z3 z4 z5 z6 z7
  clear_value z2
  clear_value z3
  have hz4 : Collects s0 z4 := by
    unfold z4
    apply State.orReg_collects
    · simp only [quietReg, aPend, aFlt]
      omega
    · exact h
  clear_value z4
  split
  · split
    · apply State.orReg_collects
      · simp only [quietReg, aFltStat, aFlt]
        omega
      · exact hz4
    · refine Collects.update (s := z4) ?_
      exact hz4
  · exact hz4

theorem State.freezeTrigger_collects {s0 : State} (s : State) (h : Collects s0 s) :
    Collects s0 (State.freezeTrigger s) := by
  unfold State.freezeTrigger
  split
  · apply State.orReg_collects
    · simp only [quietReg, aRawStat, aTlm]
      omega
    · exact h
  · extract_lets z1 z2 z3 z4 z5 z6
    have hz2 : Collects s0 z2 := by
      unfold z2
      apply State.orReg_collects
      · simp only [quietReg, aRawStat, aTlm]
        omega
      · apply State.setFld_collects
        · simp only [quietReg, aRawStat, aTlm]
          omega
        · exact h
    clear_value z2
    have hz3 : Collects s0 z3 := by
      unfold z3
      apply State.setReg_collects
      · simp only [quietReg, aFrzTL, aTlm]
        omega
      · exact hz2
    clear_value z3
    have hz4 : Collects s0 z4 := by
      unfold z4
      apply State.setReg_collects
      · simp only [quietReg, aFrzTH, aTlm]
        omega
      · exact hz3
    clear_value z4
    have hz6 : Collects s0 z6 := by
      unfold z6
      refine Collects.update (s := z4) ?_
      exact hz4
    clear_value z6
    split
    · apply State.setBit_collects
      · simp only [quietReg, aRawStat, aTlm]
        omega
      · exact hz6
    · exact hz6

theorem State.countRaise_collects {s0 : State} (s : State) (n : Nat) (h : Collects s0 s) :
    Collects s0 (State.countRaise s n) := by
  unfold State.countRaise
  extract_lets z1
  apply State.setFld_collects
  · simp only [quietReg, aCnt, aFlt]
    omega
  · exact h

theorem State.mergeOne_collects {s0 : State} (s : State) (j : Judged) (h : Collects s0 s) :
    Collects s0 (State.mergeOne s j) := by
  unfold State.mergeOne
  extract_lets z1 z2
  have hz1 : Collects s0 z1 := by
    unfold z1
    apply State.orReg_collects
    · simp only [quietReg, aFltFirst, aFlt]
      omega
    · exact h
  clear_value z1
  have hz2 : Collects s0 z2 := by
    unfold z2
    apply State.setFld_collects
    · simp only [quietReg, aFltMerge, aFlt]
      omega
    · exact hz1
  clear_value z2
  split
  · apply State.setFld_collects
    · simp only [quietReg, aFltMerge, aFlt]
      omega
    · exact hz2
  · exact hz2

theorem State.queueReacts_collects {s0 : State} (s : State) (js : List Judged) (h : Collects s0 s) :
    Collects s0 (State.queueReacts s js) := by
  unfold State.queueReacts
  extract_lets z1 z2
  refine Collects.update (s := s) ?_
  exact h

theorem State.beginStore_collects {s0 : State} (s : State) (kind : StoreKind) (pages : List (Nat × Bool)) (h : Collects s0 s) :
    Collects s0 (State.beginStore s kind pages) := by
  unfold State.beginStore
  refine Collects.update (s := s) ?_
  exact h

theorem State.requestStore_collects {s0 : State} (s : State) (kind : StoreKind) (pages : List (Nat × Bool)) (h : Collects s0 s) :
    Collects s0 (State.requestStore s kind pages) := by
  unfold State.requestStore
  split
  · exact h
  · split
    · apply State.beginStore_collects
      exact h
    · split
      · exact h
      · refine Collects.update (s := s) ?_
        exact h

theorem State.critStore_collects {s0 : State} (s : State) (state0 : Nat) (js : List Judged) (h : Collects s0 s) :
    Collects s0 (State.critStore s state0 js) := by
  unfold State.critStore
  split
  · split
    · apply State.requestStore_collects
      exact h
    · refine Collects.update (s := s) ?_
      exact h
  · exact h

theorem State.pumpTlm_collects {s0 : State} (s : State) (h : Collects s0 s) :
    Collects s0 (State.pumpTlm s) := by
  unfold State.pumpTlm
  split
  · exact h
  · refine Collects.update (s := s) ?_
    exact h

theorem State.lhFrame_collects {s0 : State} (s : State) (starts : Bool) (h : Collects s0 s) :
    Collects s0 (s.lhFrame starts) := by
  unfold State.lhFrame
  split
  · exact h
  · split
    · exact h
    · exact Collects.update h

theorem State.lhFinish_collects {s0 : State} (s : State) (h : Collects s0 s) : Collects s0 s.lhFinish := by
  have h1 : Collects s0 (s.setCh s.lhRail { s.ch s.lhRail with perturb := 0 }) := by
    refine h.trans ⟨rfl, fun _ _ => rfl, fun r => ?_⟩
    by_cases hr : r = s.lhRail
    · subst hr
      rw [State.ch_setCh_self]
    · rw [State.ch_setCh_ne _ hr]
  have h2 := State.setBit_collects _ aLhStat 31 false (by simp only [quietReg, aLhStat, aTlm]; omega) h1
  exact State.pumpTlm_collects _ (Collects.update (State.lhFrame_collects _ _ h2))

theorem State.takeSnap_collects {s0 : State} (s : State) (first : Option Judged) (h : Collects s0 s) :
    Collects s0 (State.takeSnap s first) := by
  unfold State.takeSnap
  split
  · refine Collects.update (s := s) ?_
    exact h
  · exact h

theorem State.endPause_collects {s0 : State} (s : State) (h : Collects s0 s) :
    Collects s0 (State.endPause s) := by
  unfold State.endPause
  extract_lets z1 z2
  split
  · exact h
  · refine Collects.update (s := s) ?_
    exact h

theorem State.restAbort_collects {s0 : State} (s : State) (h : Collects s0 s) :
    Collects s0 (State.restAbort s) := by
  unfold State.restAbort
  split
  · apply State.orReg_collects
    · simp only [quietReg, aRsvFlags, aRsv]
      omega
    · apply State.endPause_collects
      refine Collects.update (s := s) ?_
      exact h
  · exact h

theorem State.lhAbort_collects {s0 : State} (s : State) (h : Collects s0 s) :
    Collects s0 (State.lhAbort s) := by
  unfold State.lhAbort
  split
  · extract_lets z1 z2
    have hz1 : Collects s0 z1 := by
      unfold z1
      apply State.setFld_collects
      · simp only [quietReg, aLhRes, aTlm]
        omega
      · exact h
    clear_value z1
    have hz2 : Collects s0 z2 := by
      unfold z2
      apply State.setBit_collects
      · simp only [quietReg, aLhStat, aTlm]
        omega
      · apply State.setFld_collects
        · simp only [quietReg, aLhRes, aTlm]
          omega
        · exact hz1
    clear_value z2
    apply State.lhFinish_collects
    exact hz2
  · exact h

theorem State.newReport_collects {s0 : State} (s : State) (h : Collects s0 s) :
    Collects s0 (State.newReport s) := by
  unfold State.newReport
  extract_lets z1 z2
  have hz1 : Collects s0 z1 := by
    unfold z1
    apply State.setBit_collects
    · simp only [quietReg, aLogIdx, aKps]
      omega
    · apply State.setBit_collects
      · simp only [quietReg, aFltEmber, aFlt]
        omega
      · exact h
  clear_value z1
  refine Collects.update (s := z1) ?_
  exact hz1

theorem State.latch_collects {s0 : State} (s : State) (j : Judged) (others : Bool) (injAct : Bool) (h : Collects s0 s) :
    Collects s0 (State.latch s j others injAct) := by
  unfold State.latch
  extract_lets z1 z2 z3 z4 z5 z6 z7 z8 z9 z10
  have hz2 : Collects s0 z2 := by
    unfold z2
    apply State.setFld_collects
    · simp only [quietReg, aFltStat, aFlt]
      omega
    · apply State.setReg_collects
      · simp only [quietReg, aFltFirst, aFlt]
        omega
      · exact h
  clear_value z2
  have hz3 : Collects s0 z3 := by
    unfold z3
    apply State.setReg_collects
    · simp only [quietReg, aFltFirstTH, aFlt]
      omega
    · apply State.setReg_collects
      · simp only [quietReg, aFltFirstTL, aFlt]
        omega
      · exact hz2
  clear_value z3
  have hz4 : Collects s0 z4 := by
    unfold z4
    apply State.restAbort_collects
    apply State.lhAbort_collects
    apply State.newReport_collects
    exact hz3
  clear_value z4
  have hz5 : Collects s0 z5 := by
    unfold z5
    split
    · apply State.freezeTrigger_collects
      exact hz4
    · exact hz4
  clear_value z5
  have hz9 : Collects s0 z9 := by
    unfold z9
    refine Collects.update (s := z5) ?_
    exact hz5
  clear_value z9
  split
  · refine Collects.update (s := z9) ?_
    exact hz9
  · exact hz9

theorem State.latchFirst_collects {s0 : State} (s : State) (first : Option Judged) (several : Bool) (injAct : Bool) (h : Collects s0 s) :
    Collects s0 (State.latchFirst s first several injAct) := by
  unfold State.latchFirst
  split
  · apply State.latch_collects
    exact h
  · exact h

theorem State.mergeRest_collects {s0 : State} (s : State) (state0 : Nat) (rest : List Judged) (h : Collects s0 s) :
    Collects s0 (State.mergeRest s state0 rest) := by
  unfold State.mergeRest
  extract_lets z1 z2 z3
  have hz2 : Collects s0 z2 := by
    unfold z2
    apply Collects.foldl
    · intro y4 y5 y6
      apply State.mergeOne_collects
      exact y6
    · exact h
  clear_value z2
  split
  · exact hz2
  · refine Collects.update (s := z2) ?_
    exact hz2

theorem State.collect_collects {s0 : State} (s : State) (state0 : Nat) (first : Option Judged) (js : List Judged) (injAct : Bool) (h : Collects s0 s) :
    Collects s0 (State.collect s state0 first js injAct) := by
  unfold State.collect
  extract_lets z1 z2 z3 z4 z5
  have hz3 : Collects s0 z3 := by
    unfold z3
    apply Collects.foldl
    · intro y6 y7 y8
      apply State.countRaise_collects
      exact y8
    · exact h
  clear_value z3
  have hz4 : Collects s0 z4 := by
    unfold z4
    apply Collects.foldl
    · intro y9 y10 y11
      apply State.logRaise_collects
      exact y11
    · exact hz3
  clear_value z4
  have hz5 : Collects s0 z5 := by
    unfold z5
    apply State.critStore_collects
    apply State.latchFirst_collects
    apply State.queueReacts_collects
    exact hz4
  clear_value z5
  apply State.takeSnap_collects
  apply State.mergeRest_collects
  exact hz5

theorem State.wakeRaise_collects {s0 : State} (s : State) (js : List Judged) (h : Collects s0 s) :
    Collects s0 (State.wakeRaise s js) := by
  unfold State.wakeRaise
  split
  · exact h
  · apply State.startWake_collects
    exact h

theorem State.raiseAll_collects {s0 : State} (s : State) (l : List Raise) (injAct : optParam Bool false) (h : Collects s0 s) :
    Collects s0 (State.raiseAll s l injAct) := by
  unfold State.raiseAll
  split
  · exact h
  · apply State.wakeRaise_collects
    apply State.collect_collects
    exact h

theorem State.raise1_collects {s0 : State} (s : State) (n : Nat) (h : Collects s0 s) :
    Collects s0 (State.raise1 s n) := by
  unfold State.raise1
  apply State.raiseAll_collects
  exact h

/-- Judging the reset outputs changes nothing but them. -/
theorem State.settleRsts_fields (s : State) : s.settleRsts = { s with resets := s.settleRsts.resets } := by
  have key : ∀ (l : List (Fin 8)) (s : State), l.foldl State.settleRst s =
      { s with resets := (l.foldl State.settleRst s).resets } := by
    intro l
    induction l with
    | nil => exact fun _ => rfl
    | cons k t ih =>
      intro s
      have h1 : s.settleRst k = { s with resets := (s.settleRst k).resets } := by
        unfold State.settleRst
        dsimp only
        repeat' split
        all_goals rfl
      rw [List.foldl_cons, ih, h1]
  exact key _ s

/-- A cycle that orders no group off ends with the collector's work and the judging of the reset outputs. -/
theorem Cyc.finish_collects (c : Cyc) (hg : c.groupOff = []) (inj : Bool) :
    ∃ u, Collects c.s u ∧ c.finish inj = { u with resets := (c.finish inj).resets } := by
  obtain ⟨s, raises, groupOff, refused⟩ := c
  dsimp only at hg
  subst hg
  have h := State.raiseAll_collects s raises inj (Collects.rfl' s)
  unfold Cyc.finish
  simp only [List.map_nil, List.isEmpty_nil, if_true]
  generalize s.raiseAll raises inj = u at h
  exact ⟨{ u with faults := { u.faults with
    deferred := u.faults.deferred.filter (fun x => (u.ch x.rail).st == RailState.tripped) } },
    Collects.update (s := u) h, State.settleRsts_fields _⟩

end Sys2Proof.Machine
end

