-- ==== Sys2Proof/Laws/Keeps.lean ====
section
/-! SUPPORT. What an operation keeps: the queue, the cycle and the canonical form; with `a` the shadow array and the
instruction memory too; with `b` also what the rail, domain and collector cycle never touches. Each lemma says of one
operation that it keeps what its argument has kept since `s0`. -/

set_option Elab.async false

namespace Sys2Proof.Machine

/-- `t` keeps of `s` what the two marks ask. -/
structure Keeps (a b : Bool) (s t : State) : Prop where
  pending : t.pending = s.pending
  cycle : t.cycle = s.cycle
  canon : s.Canonical → t.Canonical
  store : a = true → t.shadow = s.shadow ∧ t.imem = s.imem
  quiet : b = true → t.sram = s.sram ∧ t.tlmMem = s.tlmMem ∧ t.filters = s.filters ∧ t.selfTest = s.selfTest
    ∧ t.arb = s.arb ∧ t.hosts = s.hosts ∧ t.tether = s.tether
    ∧ t.power = { s.power with waking := t.power.waking } ∧ t.protect = s.protect ∧ t.free = s.free

/-- An answer whose next state keeps. -/
def KeepsNext (a b : Bool) (s : State) (r : Host.Outcome State Fault Refusal) : Prop :=
  ∃ t, r = .next t ∧ Keeps a b s t

variable {a b : Bool} {s0 s t : State}

theorem Keeps.rfl' (s : State) : Keeps a b s s := ⟨rfl, rfl, id, fun _ => ⟨rfl, rfl⟩, fun _ => by simp⟩

theorem Keeps.trans {u : State} (h : Keeps a b s t) (k : Keeps a b t u) : Keeps a b s u := by
  refine ⟨k.pending.trans h.pending, k.cycle.trans h.cycle, fun c => k.canon (h.canon c), fun x => ?_, fun x => ?_⟩
  · exact ⟨(k.store x).1.trans (h.store x).1, (k.store x).2.trans (h.store x).2⟩
  · obtain ⟨h1, h2, h3, h4, h5, h6, h7, h8, h9, h10⟩ := h.quiet x
    obtain ⟨k1, k2, k3, k4, k5, k6, k7, k8, k9, k10⟩ := k.quiet x
    refine ⟨k1.trans h1, k2.trans h2, k3.trans h3, k4.trans h4, k5.trans h5, k6.trans h6, k7.trans h7, ?_, k9.trans h9,
      k10.trans h10⟩
    rw [h8] at k8
    exact k8

theorem KeepsNext.of (h : Keeps a b s t) : KeepsNext a b s (.next t) := ⟨t, rfl, h⟩

/-- An update of fields that no mark protects and that leaves the page being written. -/
theorem Keeps.update (h : Keeps a b s0 s) {regs sram shadow tlmMem imem chans ports aux selfTest filters scan lh wicks doms
    shut faults resets keeper reserve arb hosts tether ring power protect cycle free pending}
    (hregs : s.regs = regs := by rfl) (hsram : s.sram = sram := by rfl) (hshadow : s.shadow = shadow := by rfl)
    (htlm : s.tlmMem = tlmMem := by rfl) (himem : s.imem = imem := by rfl) (hcyc : s.cycle = cycle := by rfl)
    (hpend : s.pending = pending := by rfl)
    (hrun : keeper.run = s.keeper.run := by rfl)
    (hb : b = true → s.filters = filters ∧ s.selfTest = selfTest
      ∧ s.arb = arb ∧ s.hosts = hosts ∧ s.tether = tether ∧ s.power = power ∧ s.protect = protect
      ∧ s.free = free := by first | exact fun _ => ⟨rfl, rfl, rfl, rfl, rfl, rfl, rfl, rfl⟩ | exact fun h => nomatch h) :
    Keeps a b s0 (State.mk regs sram shadow tlmMem imem chans ports aux selfTest filters scan lh wicks doms
      shut faults resets keeper reserve arb hosts tether ring power protect cycle free pending) := by
  subst hregs hsram hshadow htlm himem hcyc hpend
  refine h.trans ⟨rfl, rfl, fun c => ⟨c.regs, c.sram, c.shadow, c.tlmMem, c.imem, ?_⟩, fun _ => ⟨rfl, rfl⟩, fun x => ?_⟩
  · simpa only [hrun] using c.page
  · obtain ⟨h1, h2, h3, h4, h5, h6, h7, h8⟩ := hb x
    exact ⟨rfl, rfl, h1.symm, h2.symm, h3.symm, h4.symm, h5.symm, by subst h6; rfl, h7.symm, h8.symm⟩

/-- An update that changes the page being written too. -/
theorem Keeps.updateRun (h : Keeps a b s0 s) (keeper : Keeper)
    (hrun : s.Canonical → ∀ j, keeper.run = some j → ∀ c, j.cur = some c → Memory.wf factoryByte c.2) :
    Keeps a b s0 { s with keeper := keeper } := by
  refine h.trans ⟨rfl, rfl, fun c => ⟨c.regs, c.sram, c.shadow, c.tlmMem, c.imem, hrun c⟩, fun _ => ⟨rfl, rfl⟩,
    fun _ => ⟨rfl, rfl, rfl, rfl, rfl, rfl, rfl, rfl, rfl, rfl⟩⟩

theorem State.setReg_keeps (x : Nat) (v : Word) (h : Keeps a b s0 s) : Keeps a b s0 (s.setReg x v) := by
  refine h.trans ⟨rfl, rfl, fun c => ?_, fun _ => ⟨rfl, rfl⟩, fun _ => ⟨rfl, rfl, rfl, rfl, rfl, rfl, rfl, rfl, rfl, rfl⟩⟩
  exact ⟨c.regs.upd x v, c.sram, c.shadow, c.tlmMem, c.imem, c.page⟩

theorem State.startWake_keeps (h : Keeps a b s0 s) : Keeps a b s0 s.startWake := by
  unfold State.startWake
  split
  · exact h.trans ⟨rfl, rfl, fun c => ⟨c.regs, c.sram, c.shadow, c.tlmMem, c.imem, c.page⟩, fun _ => ⟨rfl, rfl⟩,
      fun _ => ⟨rfl, rfl, rfl, rfl, rfl, rfl, rfl, rfl, rfl, rfl⟩⟩
  · exact h

theorem State.mark_keeps (x : Nat) (h : Keeps a b s0 s) : Keeps a b s0 (s.mark x) := h.update

theorem State.pokeByte_keeps (x : Nat) (v : Byte) (h : Keeps a false s0 s) : Keeps a false s0 (s.pokeByte x v) := by
  refine State.mark_keeps x (h.trans ⟨rfl, rfl, fun c => ?_, fun _ => ⟨rfl, rfl⟩, fun h => nomatch h⟩)
  exact ⟨c.regs, c.sram.upd x v, c.shadow, c.tlmMem, c.imem, c.page⟩

theorem State.poke_keeps (l : List Byte) (x : Nat) (h : Keeps a false s0 s) : Keeps a false s0 (s.poke x l) := by
  induction l generalizing s x with
  | nil => exact h
  | cons v t ih => exact ih _ (State.pokeByte_keeps x v h)

theorem State.tlmPoke_keeps (x : Nat) (v : Byte) (h : Keeps a false s0 s) : Keeps a false s0 (s.tlmPoke x v) := by
  refine h.trans ⟨rfl, rfl, fun c => ?_, fun _ => ⟨rfl, rfl⟩, fun h => nomatch h⟩
  exact ⟨c.regs, c.sram, c.shadow, c.tlmMem.upd x v, c.imem, c.page⟩

theorem Keeps.ite {β : Type} {p : Prop} [Decidable p] {x y : State × β} (hx : Keeps a b s x.1) (hy : Keeps a b s y.1) :
    Keeps a b s (if p then x else y).1 := by
  split
  · exact hx
  · exact hy

theorem Keeps.cond {p : Prop} [Decidable p] {x y : State} (hx : Keeps a b s x) (hy : Keeps a b s y) :
    Keeps a b s (if p then x else y) := by
  split
  · exact hx
  · exact hy

/-- The state that a write of a register answers keeps, where the register answers at all. -/
def KeepsOpt (a b : Bool) (s : State) (r : Option (State × Bool)) : Prop := ∀ q, r = some q → Keeps a b s q.1

theorem KeepsOpt.some {q : State × Bool} (h : Keeps a b s q.1) : KeepsOpt a b s (.some q) := by
  intro p hp
  cases hp
  exact h

theorem KeepsOpt.ite {p : Prop} [Decidable p] {x y : Option (State × Bool)} (hx : KeepsOpt a b s x)
    (hy : KeepsOpt a b s y) : KeepsOpt a b s (if p then x else y) := by
  split
  · exact hx
  · exact hy

theorem KeepsOpt.none : KeepsOpt a b s .none := fun _ h => nomatch h

/-! Operations over a list, and operations given as functions -/

theorem Keeps.foldl {α : Type} (f : State → α → State) (hf : ∀ s x, Keeps a b s0 s → Keeps a b s0 (f s x)) (l : List α)
    (h : Keeps a b s0 s) : Keeps a b s0 (l.foldl f s) := by
  induction l generalizing s with
  | nil => exact h
  | cons x t ih => exact ih (hf _ _ h)

theorem Keeps.foldlFst {α β : Type} (f : State × β → α → State × β)
    (hf : ∀ p x, Keeps a b s0 p.1 → Keeps a b s0 (f p x).1) (l : List α) (p : State × β) (h : Keeps a b s0 p.1) :
    Keeps a b s0 (l.foldl f p).1 := by
  induction l generalizing p with
  | nil => exact h
  | cons x t ih => exact ih _ (hf _ _ h)

theorem Keeps.foldlCyc {α : Type} (f : Cyc → α → Cyc) (hf : ∀ c x, Keeps a b s0 c.s → Keeps a b s0 (f c x).s)
    (l : List α) (c : Cyc) (h : Keeps a b s0 c.s) : Keeps a b s0 (l.foldl f c).s := by
  induction l generalizing c with
  | nil => exact h
  | cons x t ih => exact ih _ (hf _ _ h)

theorem Keeps.foldlRsv {α : Type} (f : RsvCyc → α → RsvCyc) (hf : ∀ c x, Keeps a b s0 c.s → Keeps a b s0 (f c x).s)
    (l : List α) (c : RsvCyc) (h : Keeps a b s0 c.s) : Keeps a b s0 (l.foldl f c).s := by
  induction l generalizing c with
  | nil => exact h
  | cons x t ih => exact ih _ (hf _ _ h)

theorem Keeps.foldlCycFst {α β : Type} (f : Cyc × β → α → Cyc × β)
    (hf : ∀ p x, Keeps a b s0 p.1.s → Keeps a b s0 (f p x).1.s) (l : List α) (p : Cyc × β) (h : Keeps a b s0 p.1.s) :
    Keeps a b s0 (l.foldl f p).1.s := by
  induction l generalizing p with
  | nil => exact h
  | cons x t ih => exact ih _ (hf _ _ h)

theorem State.forAll_keeps {α : Type} (l : List α) (f : State → α → State)
    (hf : ∀ s x, Keeps a b s0 s → Keeps a b s0 (f s x)) (h : Keeps a b s0 s) : Keeps a b s0 (s.forAll l f) :=
  Keeps.foldl f hf l h

theorem State.fab_keeps (f : State → State) (hf : ∀ s, Keeps a b s0 s → Keeps a b s0 (f s)) (h : Keeps a b s0 s) :
    Keeps a b s0 (s.fab f) := by
  unfold State.fab
  split
  · exact hf _ h
  · exact h

theorem State.mapWk_keeps (w : WickId) (f : Wick → Wick) (h : Keeps a b s0 s) : Keeps a b s0 (s.mapWk w f) := h.update

theorem Cyc.map_keeps (c : Cyc) (f : State → State) (hf : ∀ s, Keeps a b s0 s → Keeps a b s0 (f s))
    (h : Keeps a b s0 c.s) : Keeps a b s0 (c.map f).s := hf _ h

theorem Cyc.forAll_keeps {α : Type} (c : Cyc) (l : List α) (f : Cyc → α → Cyc)
    (hf : ∀ c x, Keeps a b s0 c.s → Keeps a b s0 (f c x).s) (h : Keeps a b s0 c.s) : Keeps a b s0 (c.forAll l f).s := by
  unfold Cyc.forAll
  induction l generalizing c with
  | nil => exact h
  | cons x t ih => exact ih _ (hf _ _ h)

end Sys2Proof.Machine
end

