-- ==== Sys2Proof/Laws/KeepsOps.lean ====
section
/-! SUPPORT. What each operation of `Machine/Ops.lean` keeps: one lemma per operation that answers a state. -/

set_option Elab.async false

namespace Sys2Proof.Machine

theorem State.setFld_keeps {a b : Bool} {s0 : State} (s : State) (a' : Nat) (hi : Nat) (lo : Nat) (v : Nat) (h : Keeps a b s0 s) :
    Keeps a b s0 (State.setFld s a' hi lo v) := by
  unfold State.setFld
  apply State.setReg_keeps
  exact h

theorem State.orReg_keeps {a b : Bool} {s0 : State} (s : State) (a' : Nat) (m : Word) (h : Keeps a b s0 s) :
    Keeps a b s0 (State.orReg s a' m) := by
  unfold State.orReg
  apply State.setReg_keeps
  exact h

theorem State.clrReg_keeps {a b : Bool} {s0 : State} (s : State) (a' : Nat) (m : Word) (h : Keeps a b s0 s) :
    Keeps a b s0 (State.clrReg s a' m) := by
  unfold State.clrReg
  apply State.setReg_keeps
  exact h

theorem State.count_keeps {a b : Bool} {s0 : State} (s : State) (n : Fin 32) (h : Keeps a b s0 s) :
    Keeps a b s0 (State.count s n) := by
  unfold State.count
  split
  · exact h
  · split
    · apply State.orReg_keeps
      exact h
    · refine Keeps.update (s := s) ?_
      exact h

theorem State.setWk_keeps {a b : Bool} {s0 : State} (s : State) (w : WickId) (x : Wick) (h : Keeps a b s0 s) :
    Keeps a b s0 (State.setWk s w x) := by
  unfold State.setWk
  refine Keeps.update (s := s) ?_
  exact h

theorem State.setStep_keeps {a b : Bool} {s0 : State} (s : State) (r : Rail) (v : Int) (h : Keeps a b s0 s) :
    Keeps a b s0 (State.setStep s r v) := by
  unfold State.setStep
  apply State.setFld_keeps
  exact h

theorem State.setSess_keeps {a : Bool} {s0 : State} (s : State) (p : Fin 2) (i : Fin 4) (x : Session) (h : Keeps a false s0 s) :
    Keeps a false s0 (State.setSess s p i x) := by
  unfold State.setSess
  refine Keeps.update (s := s) ?_
  exact h

theorem State.setDom_keeps {a b : Bool} {s0 : State} (s : State) (d : DomId) (x : Domain) (h : Keeps a b s0 s) :
    Keeps a b s0 (State.setDom s d x) := by
  unfold State.setDom
  refine Keeps.update (s := s) ?_
  exact h

theorem State.draw_keeps {a : Bool} {s0 : State} (s : State) (h : Keeps a false s0 s) :
    Keeps a false s0 (State.draw s) := by
  unfold State.draw
  refine Keeps.update (s := s) ?_
  exact h

theorem State.flag_keeps {a b : Bool} {s0 : State} (s : State) (r : Rail) (i : Nat) (h : Keeps a b s0 s) :
    Keeps a b s0 (State.flag s r i) := by
  unfold State.flag
  apply State.orReg_keeps
  exact h

theorem State.setBit_keeps {a b : Bool} {s0 : State} (s : State) (a' : Nat) (i : Nat) (b' : Bool) (h : Keeps a b s0 s) :
    Keeps a b s0 (State.setBit s a' i b') := by
  unfold State.setBit
  apply State.setReg_keeps
  exact h

theorem State.setCh_keeps {a b : Bool} {s0 : State} (s : State) (r : Rail) (c : Chan) (h : Keeps a b s0 s) :
    Keeps a b s0 (State.setCh s r c) := by
  unfold State.setCh
  refine Keeps.update (s := s) ?_
  exact h

end Sys2Proof.Machine
end

