-- ==== Sys2Proof/Laws/KeepsRaise.lean ====
section
/-! SUPPORT. What each operation of `Machine/Raise.lean` keeps: one lemma per operation that answers a state. -/

set_option Elab.async false

namespace Sys2Proof.Machine

theorem State.logRaise_keeps {a b : Bool} {s0 : State} (s : State) (j : Judged) (h : Keeps a b s0 s) :
    Keeps a b s0 (State.logRaise s j) := by
  unfold State.logRaise
  extract_lets z1 z2 z3 z4 z5 z6 z7
  clear_value z2
  clear_value z3
  have hz4 : Keeps a b s0 z4 := by
    unfold z4
    apply State.orReg_keeps
    exact h
  clear_value z4
  split
  · split
    · apply State.orReg_keeps
      exact hz4
    · refine Keeps.update (s := z4) ?_
      exact hz4
  · exact hz4

theorem State.wakeRaise_keeps {a b : Bool} {s0 : State} (s : State) (js : List Judged) (h : Keeps a b s0 s) :
    Keeps a b s0 (State.wakeRaise s js) := by
  unfold State.wakeRaise
  split
  · exact h
  · apply State.startWake_keeps
    exact h

theorem State.queueReacts_keeps {a b : Bool} {s0 : State} (s : State) (js : List Judged) (h : Keeps a b s0 s) :
    Keeps a b s0 (State.queueReacts s js) := by
  unfold State.queueReacts
  extract_lets z1 z2
  refine Keeps.update (s := s) ?_
  exact h

theorem State.mergeOne_keeps {a b : Bool} {s0 : State} (s : State) (j : Judged) (h : Keeps a b s0 s) :
    Keeps a b s0 (State.mergeOne s j) := by
  unfold State.mergeOne
  extract_lets z1 z2
  have hz1 : Keeps a b s0 z1 := by
    unfold z1
    apply State.orReg_keeps
    exact h
  clear_value z1
  have hz2 : Keeps a b s0 z2 := by
    unfold z2
    apply State.setFld_keeps
    exact hz1
  clear_value z2
  split
  · apply State.setFld_keeps
    exact hz2
  · exact hz2

theorem State.mergeRest_keeps {a b : Bool} {s0 : State} (s : State) (state0 : Nat) (rest : List Judged) (h : Keeps a b s0 s) :
    Keeps a b s0 (State.mergeRest s state0 rest) := by
  unfold State.mergeRest
  extract_lets z1 z2 z3
  have hz2 : Keeps a b s0 z2 := by
    unfold z2
    apply Keeps.foldl
    · intro y4 y5 y6
      apply State.mergeOne_keeps
      exact y6
    · exact h
  clear_value z2
  split
  · exact hz2
  · refine Keeps.update (s := z2) ?_
    exact hz2

theorem State.endPause_keeps {a b : Bool} {s0 : State} (s : State) (h : Keeps a b s0 s) :
    Keeps a b s0 (State.endPause s) := by
  unfold State.endPause
  extract_lets z1 z2
  split
  · exact h
  · refine Keeps.update (s := s) ?_
    exact h

theorem State.beginStore_keeps {a b : Bool} {s0 : State} (s : State) (kind : StoreKind) (pages : List (Nat × Bool))
    (h : Keeps a b s0 s) : Keeps a b s0 (s.beginStore kind pages) := by
  refine h.updateRun _ (fun _ j hj c hc => ?_)
  cases hj
  cases hc

theorem State.requestStore_keeps {a b : Bool} {s0 : State} (s : State) (kind : StoreKind) (pages : List (Nat × Bool)) (h : Keeps a b s0 s) :
    Keeps a b s0 (State.requestStore s kind pages) := by
  unfold State.requestStore
  split
  · exact h
  · split
    · apply State.beginStore_keeps
      exact h
    · split
      · exact h
      · refine Keeps.update (s := s) ?_
        exact h

theorem State.critStore_keeps {a b : Bool} {s0 : State} (s : State) (state0 : Nat) (js : List Judged) (h : Keeps a b s0 s) :
    Keeps a b s0 (State.critStore s state0 js) := by
  unfold State.critStore
  split
  · split
    · apply State.requestStore_keeps
      exact h
    · refine Keeps.update (s := s) ?_
      exact h
  · exact h

theorem State.pfEnter_keeps {a b : Bool} {s0 : State} (s : State) (l : Lantern) (h : Keeps a b s0 s) :
    Keeps a b s0 (State.pfEnter s l) := by
  unfold State.pfEnter
  split
  · exact h
  · split
    · refine Keeps.update (s := s) ?_
      exact h
    · split
      · refine Keeps.update (s := s) ?_
        exact h
      · split
        · refine Keeps.update (s := s) ?_
          exact h
        · split
          · refine Keeps.update (s := s) ?_
            exact h
          · exact h

theorem State.countRaise_keeps {a b : Bool} {s0 : State} (s : State) (n : Nat) (h : Keeps a b s0 s) :
    Keeps a b s0 (State.countRaise s n) := by
  unfold State.countRaise
  extract_lets z1
  apply State.setFld_keeps
  exact h

theorem State.lhFrame_keeps {a b : Bool} {s0 : State} (s : State) (starts : Bool) (h : Keeps a b s0 s) :
    Keeps a b s0 (State.lhFrame s starts) := by
  unfold State.lhFrame
  split
  · exact h
  · split
    · exact h
    · extract_lets z1 z2 z3
      refine Keeps.update (s := s) ?_
      exact h

theorem State.pumpTlm_keeps {a b : Bool} {s0 : State} (s : State) (h : Keeps a b s0 s) :
    Keeps a b s0 (State.pumpTlm s) := by
  unfold State.pumpTlm
  split
  · exact h
  · refine Keeps.update (s := s) ?_
    exact h

theorem State.lhFinish_keeps {a b : Bool} {s0 : State} (s : State) (h : Keeps a b s0 s) :
    Keeps a b s0 (State.lhFinish s) := by
  unfold State.lhFinish
  extract_lets z1 z2 z3 z4 z5
  have hz3 : Keeps a b s0 z3 := by
    unfold z3
    apply State.setCh_keeps
    exact h
  clear_value z3
  have hz4 : Keeps a b s0 z4 := by
    unfold z4
    apply State.lhFrame_keeps
    apply State.setBit_keeps
    exact hz3
  clear_value z4
  apply State.pumpTlm_keeps
  refine Keeps.update (s := z4) ?_
  exact hz4

theorem State.restAbort_keeps {a b : Bool} {s0 : State} (s : State) (h : Keeps a b s0 s) :
    Keeps a b s0 (State.restAbort s) := by
  unfold State.restAbort
  split
  · apply State.orReg_keeps
    apply State.endPause_keeps
    refine Keeps.update (s := s) ?_
    exact h
  · exact h

theorem State.lhAbort_keeps {a b : Bool} {s0 : State} (s : State) (h : Keeps a b s0 s) :
    Keeps a b s0 (State.lhAbort s) := by
  unfold State.lhAbort
  split
  · extract_lets z1 z2
    have hz1 : Keeps a b s0 z1 := by
      unfold z1
      apply State.setFld_keeps
      exact h
    clear_value z1
    have hz2 : Keeps a b s0 z2 := by
      unfold z2
      apply State.setBit_keeps
      apply State.setFld_keeps
      exact hz1
    clear_value z2
    apply State.lhFinish_keeps
    exact hz2
  · exact h

theorem State.newReport_keeps {a b : Bool} {s0 : State} (s : State) (h : Keeps a b s0 s) :
    Keeps a b s0 (State.newReport s) := by
  unfold State.newReport
  extract_lets z1 z2
  have hz1 : Keeps a b s0 z1 := by
    unfold z1
    apply State.setBit_keeps
    apply State.setBit_keeps
    exact h
  clear_value z1
  refine Keeps.update (s := z1) ?_
  exact hz1

theorem State.freezeTrigger_keeps {a b : Bool} {s0 : State} (s : State) (h : Keeps a b s0 s) :
    Keeps a b s0 (State.freezeTrigger s) := by
  unfold State.freezeTrigger
  split
  · apply State.orReg_keeps
    exact h
  · extract_lets z1 z2 z3 z4 z5 z6
    have hz2 : Keeps a b s0 z2 := by
      unfold z2
      apply State.orReg_keeps
      apply State.setFld_keeps
      exact h
    clear_value z2
    have hz3 : Keeps a b s0 z3 := by
      unfold z3
      apply State.setReg_keeps
      exact hz2
    clear_value z3
    have hz4 : Keeps a b s0 z4 := by
      unfold z4
      apply State.setReg_keeps
      exact hz3
    clear_value z4
    have hz6 : Keeps a b s0 z6 := by
      unfold z6
      refine Keeps.update (s := z4) ?_
      exact hz4
    clear_value z6
    split
    · apply State.setBit_keeps
      exact hz6
    · exact hz6

theorem State.latch_keeps {a b : Bool} {s0 : State} (s : State) (j : Judged) (others : Bool) (injAct : Bool) (h : Keeps a b s0 s) :
    Keeps a b s0 (State.latch s j others injAct) := by
  unfold State.latch
  extract_lets z1 z2 z3 z4 z5 z6 z7 z8 z9 z10
  have hz2 : Keeps a b s0 z2 := by
    unfold z2
    apply State.setFld_keeps
    apply State.setReg_keeps
    exact h
  clear_value z2
  have hz3 : Keeps a b s0 z3 := by
    unfold z3
    apply State.setReg_keeps
    apply State.setReg_keeps
    exact hz2
  clear_value z3
  have hz4 : Keeps a b s0 z4 := by
    unfold z4
    apply State.restAbort_keeps
    apply State.lhAbort_keeps
    apply State.newReport_keeps
    exact hz3
  clear_value z4
  have hz5 : Keeps a b s0 z5 := by
    unfold z5
    split
    · apply State.freezeTrigger_keeps
      exact hz4
    · exact hz4
  clear_value z5
  have hz9 : Keeps a b s0 z9 := by
    unfold z9
    refine Keeps.update (s := z5) ?_
    exact hz5
  clear_value z9
  split
  · refine Keeps.update (s := z9) ?_
    exact hz9
  · exact hz9

theorem State.takeSnap_keeps {a b : Bool} {s0 : State} (s : State) (first : Option Judged) (h : Keeps a b s0 s) :
    Keeps a b s0 (State.takeSnap s first) := by
  unfold State.takeSnap
  split
  · refine Keeps.update (s := s) ?_
    exact h
  · exact h

theorem State.latchFirst_keeps {a b : Bool} {s0 : State} (s : State) (first : Option Judged) (several : Bool) (injAct : Bool) (h : Keeps a b s0 s) :
    Keeps a b s0 (State.latchFirst s first several injAct) := by
  unfold State.latchFirst
  split
  · apply State.latch_keeps
    exact h
  · exact h

theorem State.collect_keeps {a b : Bool} {s0 : State} (s : State) (state0 : Nat) (first : Option Judged) (js : List Judged) (injAct : Bool) (h : Keeps a b s0 s) :
    Keeps a b s0 (State.collect s state0 first js injAct) := by
  unfold State.collect
  extract_lets z1 z2 z3 z4 z5
  have hz3 : Keeps a b s0 z3 := by
    unfold z3
    apply Keeps.foldl
    · intro y6 y7 y8
      apply State.countRaise_keeps
      exact y8
    · exact h
  clear_value z3
  have hz4 : Keeps a b s0 z4 := by
    unfold z4
    apply Keeps.foldl
    · intro y9 y10 y11
      apply State.logRaise_keeps
      exact y11
    · exact hz3
  clear_value z4
  have hz5 : Keeps a b s0 z5 := by
    unfold z5
    apply State.critStore_keeps
    apply State.latchFirst_keeps
    apply State.queueReacts_keeps
    exact hz4
  clear_value z5
  apply State.takeSnap_keeps
  apply State.mergeRest_keeps
  exact hz5

theorem State.raiseAll_keeps {a b : Bool} {s0 : State} (s : State) (l : List Raise) (injAct : optParam Bool false) (h : Keeps a b s0 s) :
    Keeps a b s0 (State.raiseAll s l injAct) := by
  unfold State.raiseAll
  split
  · exact h
  · apply State.wakeRaise_keeps
    apply State.collect_keeps
    exact h

theorem State.raise1_keeps {a b : Bool} {s0 : State} (s : State) (n : Nat) (h : Keeps a b s0 s) :
    Keeps a b s0 (State.raise1 s n) := by
  unfold State.raise1
  apply State.raiseAll_keeps
  exact h

theorem State.resnap_keeps {a b : Bool} {s0 : State} (s : State) (was : Nat) (h : Keeps a b s0 s) :
    Keeps a b s0 (State.resnap s was) := by
  unfold State.resnap
  split
  · refine Keeps.update (s := s) ?_
    exact h
  · exact h

end Sys2Proof.Machine
end

