-- ==== Sys2Proof/Laws/KeepsPmbus.lean ====
section
/-! SUPPORT. What each operation of `Machine/Pmbus.lean` keeps: one lemma per operation that answers a state. -/

set_option Elab.async false

namespace Sys2Proof.Machine

theorem State.setPort_keeps {a b : Bool} {s0 : State} (s : State) (p : Fin 4) (x : PmbPort) (h : Keeps a b s0 s) :
    Keeps a b s0 (State.setPort s p x) := by
  unfold State.setPort
  refine Keeps.update (s := s) ?_
  exact h

theorem State.kick_keeps {a b : Bool} {s0 : State} (s : State) (p : Fin 4) (h : Keeps a b s0 s) :
    Keeps a b s0 (State.kick s p) := by
  unfold State.kick
  extract_lets z1
  split
  · exact h
  · split
    · apply State.setPort_keeps
      exact h
    · split
      · apply State.setPort_keeps
        exact h
      · split
        · apply State.setPort_keeps
          exact h
        · split
          · split
            · apply State.setPort_keeps
              exact h
            · apply State.setPort_keeps
              exact h
          · apply State.setPort_keeps
            exact h

theorem State.queueTx_keeps {a b : Bool} {s0 : State} (s : State) (p : Fin 4) (l : List PmbTx) (h : Keeps a b s0 s) :
    Keeps a b s0 (State.queueTx s p l) := by
  unfold State.queueTx
  extract_lets z1
  apply State.kick_keeps
  apply State.setPort_keeps
  exact h

theorem State.marginTx_keeps {a b : Bool} {s0 : State} (s : State) (r : Rail) (step : Int) (h : Keeps a b s0 s) :
    Keeps a b s0 (State.marginTx s r step) := by
  unfold State.marginTx
  extract_lets z1 z2 z3 z4 z5
  have hz3 : Keeps a b s0 z3 := by
    unfold z3
    apply State.setCh_keeps
    exact h
  clear_value z3
  apply State.queueTx_keeps
  exact hz3

theorem State.dropTx_keeps {a b : Bool} {s0 : State} (s : State) (p : Fin 4) (q : PmbTx → Bool) (h : Keeps a b s0 s) :
    Keeps a b s0 (s.dropTx p q) := State.setPort_keeps _ _ _ h

theorem State.storePoll_keeps {a b : Bool} {s0 : State} (s : State) (r : Rail) (got : List (BitVec 16)) (h : Keeps a b s0 s) :
    Keeps a b s0 (State.storePoll s r got) := by
  unfold State.storePoll
  split
  · extract_lets z1 z2 z3 z4 z5 z6
    apply State.setBit_keeps
    apply State.setReg_keeps
    apply State.setReg_keeps
    exact h
  · exact h

theorem State.dropPreamble_keeps {a b : Bool} {s0 : State} (s : State) (r : Rail) (h : Keeps a b s0 s) :
    Keeps a b s0 (State.dropPreamble s r) := by
  unfold State.dropPreamble
  extract_lets z1 z2
  have hz1 : Keeps a b s0 z1 := by
    unfold z1
    apply State.dropTx_keeps
    exact h
  apply State.setPort_keeps
  exact hz1

theorem State.startPreamble_keeps {a b : Bool} {s0 : State} (s : State) (r : Rail) (h : Keeps a b s0 s) :
    Keeps a b s0 (State.startPreamble s r) := by
  unfold State.startPreamble
  extract_lets z1 z2 z3
  clear_value z1
  apply State.queueTx_keeps
  exact h

end Sys2Proof.Machine
end

