-- ==== Sys2Proof/Laws/KeepsChannel.lean ====
section
/-! SUPPORT. What each operation of `Machine/Channel.lean` keeps: one lemma per operation that answers a state. -/

set_option Elab.async false

namespace Sys2Proof.Machine

theorem State.settleRst_keeps {a b : Bool} {s0 : State} (s : State) (k : Fin 8) (h : Keeps a b s0 s) :
    Keeps a b s0 (State.settleRst s k) := by
  unfold State.settleRst
  extract_lets z1
  split
  · refine Keeps.update (s := s) ?_
    exact h
  · split
    · split
      · refine Keeps.update (s := s) ?_
        exact h
      · refine Keeps.update (s := s) ?_
        exact h
    · exact h

theorem Cyc.s_keeps {a b : Bool} {s0 : State} (self : Cyc) (h : Keeps a b s0 self.s) :
    Keeps a b s0 (Cyc.s self) := by
  unfold Cyc.s
  exact h

theorem Cyc.raise_keeps {a b : Bool} {s0 : State} (c : Cyc) (n : Nat) (h : Keeps a b s0 c.s) :
    Keeps a b s0 (Cyc.raise c n).s := by
  unfold Cyc.raise
  exact h

theorem State.switchUv_keeps {a b : Bool} {s0 : State} (s : State) (r : Rail) (h : Keeps a b s0 s) :
    Keeps a b s0 (State.switchUv s r) := by
  unfold State.switchUv
  split
  · exact h
  · extract_lets z1 z2 z3
    apply State.setCh_keeps
    exact h

theorem State.enter_keeps {a b : Bool} {s0 : State} (s : State) (r : Rail) (st : RailState) (h : Keeps a b s0 s) :
    Keeps a b s0 (State.enter s r st) := by
  unfold State.enter
  extract_lets z1 z2 z3 z4 z5
  have hz3 : Keeps a b s0 z3 := by
    unfold z3
    split
    · apply State.lhAbort_keeps
      exact h
    · exact h
  clear_value z3
  have hz5 : Keeps a b s0 z5 := by
    unfold z5
    apply State.setCh_keeps
    exact hz3
  clear_value z5
  split
  · apply State.switchUv_keeps
    exact hz5
  · exact hz5

theorem State.toOff_keeps {a b : Bool} {s0 : State} (s : State) (r : Rail) (h : Keeps a b s0 s) :
    Keeps a b s0 (State.toOff s r) := by
  unfold State.toOff
  extract_lets z1 z2
  have hz1 : Keeps a b s0 z1 := by
    unfold z1
    apply State.enter_keeps
    exact h
  clear_value z1
  apply State.setCh_keeps
  exact hz1

theorem State.stop_keeps {a b : Bool} {s0 : State} (s : State) (r : Rail) (h : Keeps a b s0 s) :
    Keeps a b s0 (State.stop s r) := by
  unfold State.stop
  extract_lets z1 z2
  have hz1 : Keeps a b s0 z1 := by
    unfold z1
    split
    · apply State.dropPreamble_keeps
      exact h
    · exact h
  clear_value z1
  apply State.setCh_keeps
  exact hz1

theorem State.blankOc_keeps {a b : Bool} {s0 : State} (s : State) (r : Rail) (h : Keeps a b s0 s) :
    Keeps a b s0 (State.blankOc s r) := by
  unfold State.blankOc
  split
  · exact h
  · apply State.setCh_keeps
    exact h

theorem State.blankUv_keeps {a b : Bool} {s0 : State} (s : State) (r : Rail) (h : Keeps a b s0 s) :
    Keeps a b s0 (State.blankUv s r) := by
  unfold State.blankUv
  split
  · exact h
  · extract_lets z1 z2 z3
    apply State.setCh_keeps
    exact h

theorem State.blankOv_keeps {a b : Bool} {s0 : State} (s : State) (r : Rail) (h : Keeps a b s0 s) :
    Keeps a b s0 (State.blankOv s r) := by
  unfold State.blankOv
  split
  · exact h
  · apply State.setCh_keeps
    exact h

theorem State.blankAll_keeps {a b : Bool} {s0 : State} (s : State) (r : Rail) (h : Keeps a b s0 s) :
    Keeps a b s0 (State.blankAll s r) := by
  unfold State.blankAll
  apply State.blankOc_keeps
  apply State.blankUv_keeps
  apply State.blankOv_keeps
  exact h

theorem State.marginDrop_keeps {a b : Bool} {s0 : State} (s : State) (r : Rail) (h : Keeps a b s0 s) :
    Keeps a b s0 (State.marginDrop s r) := by
  unfold State.marginDrop
  extract_lets z1 z2 z3 z4 z5
  have hz1 : Keeps a b s0 z1 := by
    unfold z1
    apply State.setStep_keeps
    exact h
  clear_value z1
  have hz2 : Keeps a b s0 z2 := by
    unfold z2
    apply State.blankAll_keeps
    exact hz1
  clear_value z2
  have hz4 : Keeps a b s0 z4 := by
    unfold z4
    apply State.setCh_keeps
    exact hz2
  clear_value z4
  split
  · apply State.marginTx_keeps
    exact hz4
  · apply State.setCh_keeps
    exact hz1

theorem State.toFalling_keeps {a b : Bool} {s0 : State} (s : State) (r : Rail) (h : Keeps a b s0 s) :
    Keeps a b s0 (State.toFalling s r) := by
  unfold State.toFalling
  extract_lets z1 z2 z3 z4
  have hz2 : Keeps a b s0 z2 := by
    unfold z2
    apply State.enter_keeps
    apply State.stop_keeps
    exact h
  clear_value z2
  have hz4 : Keeps a b s0 z4 := by
    unfold z4
    apply State.setCh_keeps
    exact hz2
  clear_value z4
  split
  · apply State.marginDrop_keeps
    exact hz4
  · exact hz4

theorem State.startSlew_keeps {a b : Bool} {s0 : State} (s : State) (r : Rail) (h : Keeps a b s0 s) :
    Keeps a b s0 (State.startSlew s r) := by
  unfold State.startSlew
  extract_lets z1 z2 z3
  have hz1 : Keeps a b s0 z1 := by
    unfold z1
    apply State.blankAll_keeps
    exact h
  clear_value z1
  have hz3 : Keeps a b s0 z3 := by
    unfold z3
    apply State.setCh_keeps
    exact hz1
  clear_value z3
  split
  · apply State.marginTx_keeps
    exact hz3
  · apply State.setCh_keeps
    exact hz1

theorem Cyc.flag_keeps {a b : Bool} {s0 : State} (c : Cyc) (r : Rail) (i : Nat) (h : Keeps a b s0 c.s) :
    Keeps a b s0 (Cyc.flag c r i).s := by
  unfold Cyc.flag
  apply Cyc.map_keeps
  · intro y1 y2
    apply State.flag_keeps
    exact y2
  · exact h

theorem Cyc.sideEffect_keeps {a b : Bool} {s0 : State} (c : Cyc) (r : Rail) (k : Cause) (won : Bool) (h : Keeps a b s0 c.s) :
    Keeps a b s0 (Cyc.sideEffect c r k won).s := by
  unfold Cyc.sideEffect
  split
  · split
    · extract_lets z1
      have hz1 : Keeps a b s0 z1.s := by
        unfold z1
        apply Cyc.flag_keeps
        exact h
      clear_value z1
      exact hz1
    · extract_lets z2
      have hz2 : Keeps a b s0 z2.s := by
        unfold z2
        apply Cyc.flag_keeps
        exact h
      clear_value z2
      exact hz2
    · exact h
  · split
    · extract_lets z3 z4
      clear_value z3
      have hz4 : Keeps a b s0 z4.s := by
        unfold z4
        apply Cyc.flag_keeps
        apply Cyc.flag_keeps
        exact h
      clear_value z4
      split
      · apply Cyc.raise_keeps
        exact hz4
      · apply Cyc.raise_keeps
        exact hz4
      · split
        · exact hz4
        · apply Cyc.raise_keeps
          exact hz4
      · exact hz4
    · apply Cyc.flag_keeps
      apply Cyc.flag_keeps
      exact h
    · extract_lets z5 z6
      have hz5 : Keeps a b s0 z5.s := by
        unfold z5
        apply Cyc.flag_keeps
        exact h
      clear_value z5
      have hz6 : Keeps a b s0 z6.s := by
        unfold z6
        apply Cyc.flag_keeps
        exact hz5
      clear_value z6
      split
      · split
        · apply Cyc.raise_keeps
          exact hz6
        · exact hz6
      · split
        · apply Cyc.raise_keeps
          exact hz6
        · exact hz6
      · exact hz5
    · apply Cyc.map_keeps
      · intro y7 y8
        apply State.setCh_keeps
        exact y8
      · exact h
    · extract_lets z9
      have hz9 : Keeps a b s0 z9.s := by
        unfold z9
        apply Cyc.flag_keeps
        exact h
      clear_value z9
      exact hz9
    · split
      · exact h
      · split
        · extract_lets z10
          have hz10 : Keeps a b s0 z10.s := by
            unfold z10
            apply Cyc.flag_keeps
            exact h
          clear_value z10
          exact hz10
        · extract_lets z11
          have hz11 : Keeps a b s0 z11.s := by
            unfold z11
            apply Cyc.flag_keeps
            exact h
          clear_value z11
          exact hz11
        · extract_lets z12
          have hz12 : Keeps a b s0 z12.s := by
            unfold z12
            apply Cyc.flag_keeps
            exact h
          clear_value z12
          exact hz12
        · split
          · exact h
          · extract_lets z13
            have hz13 : Keeps a b s0 z13.s := by
              unfold z13
              apply Cyc.flag_keeps
              exact h
            clear_value z13
            exact hz13
        · exact h
    · exact h

theorem State.judgePg_keeps {a b : Bool} {s0 : State} (s : State) (r : Rail) (h : Keeps a b s0 s) :
    Keeps a b s0 (State.judgePg s r) := by
  unfold State.judgePg
  apply State.setCh_keeps
  exact h

theorem State.toTripped_keeps {a b : Bool} {s0 : State} (s : State) (r : Rail) (cause : BitVec 3) (h : Keeps a b s0 s) :
    Keeps a b s0 (State.toTripped s r cause) := by
  unfold State.toTripped
  extract_lets z1 z2 z3 z4
  have hz2 : Keeps a b s0 z2 := by
    unfold z2
    apply State.enter_keeps
    apply State.stop_keeps
    exact h
  clear_value z2
  have hz4 : Keeps a b s0 z4 := by
    unfold z4
    apply State.setCh_keeps
    exact hz2
  clear_value z4
  split
  · apply State.marginDrop_keeps
    exact hz4
  · exact hz4

theorem State.clearLatches_keeps {a b : Bool} {s0 : State} (s : State) (r : Rail) (m : Word) (h : Keeps a b s0 s) :
    Keeps a b s0 (State.clearLatches s r m) := by
  unfold State.clearLatches
  extract_lets z1 z2 z3 z4
  clear_value z1
  clear_value z2
  clear_value z3
  apply State.clrReg_keeps
  exact h

theorem State.startPeriod_keeps {a b : Bool} {s0 : State} (s : State) (r : Rail) (h : Keeps a b s0 s) :
    Keeps a b s0 (State.startPeriod s r) := by
  unfold State.startPeriod
  apply State.setCh_keeps
  exact h

theorem State.startStage_keeps {a b : Bool} {s0 : State} (s : State) (r : Rail) (h : Keeps a b s0 s) :
    Keeps a b s0 (State.startStage s r) := by
  unfold State.startStage
  extract_lets z1 z2 z3
  have hz2 : Keeps a b s0 z2 := by
    unfold z2
    apply State.setCh_keeps
    exact h
  clear_value z2
  have hz3 : Keeps a b s0 z3 := by
    unfold z3
    apply State.blankAll_keeps
    exact hz2
  clear_value z3
  split
  · exact hz3
  · apply State.startPeriod_keeps
    exact hz3

theorem State.toRising_keeps {a b : Bool} {s0 : State} (s : State) (r : Rail) (h : Keeps a b s0 s) :
    Keeps a b s0 (State.toRising s r) := by
  unfold State.toRising
  extract_lets z1 z2 z3 z4
  have hz1 : Keeps a b s0 z1 := by
    unfold z1
    apply State.enter_keeps
    apply State.setStep_keeps
    exact h
  clear_value z1
  have hz3 : Keeps a b s0 z3 := by
    unfold z3
    apply State.setCh_keeps
    exact hz1
  clear_value z3
  split
  · apply State.startPreamble_keeps
    apply State.setCh_keeps
    exact hz3
  · apply State.startStage_keeps
    exact hz3

theorem State.applyR41_keeps {a b : Bool} {s0 : State} (s : State) (r : Rail) (h : Keeps a b s0 s) :
    Keeps a b s0 (State.applyR41 s r) := by
  unfold State.applyR41
  split
  · apply State.toRising_keeps
    exact h
  · extract_lets z1 z2
    have hz1 : Keeps a b s0 z1 := by
      unfold z1
      apply State.enter_keeps
      exact h
    clear_value z1
    apply State.setCh_keeps
    exact hz1

theorem Cyc.backoffEnd_keeps {a b : Bool} {s0 : State} (c : Cyc) (r : Rail) (h : Keeps a b s0 c.s) :
    Keeps a b s0 (Cyc.backoffEnd c r).s := by
  unfold Cyc.backoffEnd
  extract_lets z1 z2 z3 z4 z5
  have hz1 : Keeps a b s0 z1.s := by
    unfold z1
    apply Cyc.map_keeps
    · intro y6 y7
      apply State.clearLatches_keeps
      exact y7
    · exact h
  clear_value z1
  have hz3 : Keeps a b s0 z3.s := by
    unfold z3
    apply Cyc.map_keeps
    · intro y8 y9
      apply State.count_keeps
      apply State.setCh_keeps
      exact y9
    · exact hz1
  clear_value z3
  have hz5 : Keeps a b s0 z5.s := by
    unfold z5
    apply Cyc.map_keeps
    · intro y10 y11
      apply State.toTripped_keeps
      exact y11
    · exact hz3
  clear_value z5
  split
  · split
    · apply Cyc.map_keeps
      · intro y12 y13
        apply State.setCh_keeps
        exact y13
      · exact hz3
    · exact hz5
  · apply Cyc.map_keeps
    · intro y14 y15
      apply State.applyR41_keeps
      exact y15
    · exact hz1

theorem Cyc.transition_keeps {a b : Bool} {s0 : State} (c : Cyc) (r : Rail) (k : Cause) (h : Keeps a b s0 c.s) :
    Keeps a b s0 (Cyc.transition c r k).s := by
  unfold Cyc.transition
  split
  · apply Cyc.raise_keeps
    apply Cyc.flag_keeps
    apply Cyc.flag_keeps
    apply Cyc.map_keeps
    · intro y1 y2
      apply State.toTripped_keeps
      exact y2
    · exact h
  · apply Cyc.raise_keeps
    apply Cyc.flag_keeps
    apply Cyc.flag_keeps
    apply Cyc.map_keeps
    · intro y3 y4
      apply State.toTripped_keeps
      exact y4
    · exact h
  · apply Cyc.raise_keeps
    apply Cyc.flag_keeps
    apply Cyc.flag_keeps
    apply Cyc.map_keeps
    · intro y5 y6
      apply State.toTripped_keeps
      exact y6
    · exact h
  · split
    · apply Cyc.map_keeps
      · intro y7 y8
        apply State.setCh_keeps
        exact y8
      · exact h
    · apply Cyc.map_keeps
      · intro y9 y10
        apply State.toFalling_keeps
        exact y10
      · exact h
  · split
    · apply Cyc.map_keeps
      · intro y11 y12
        apply State.setCh_keeps
        exact y12
      · exact h
    · apply Cyc.map_keeps
      · intro y13 y14
        extract_lets z15 z16
        have hz15 : Keeps a b s0 z15 := by
          unfold z15
          apply State.enter_keeps
          exact y14
        clear_value z15
        apply State.setCh_keeps
        exact hz15
      · exact h
  · apply Cyc.raise_keeps
    apply Cyc.flag_keeps
    apply Cyc.map_keeps
    · intro y17 y18
      apply State.toTripped_keeps
      exact y18
    · exact h
  · split
    · extract_lets z19 z20 z21
      clear_value z19
      have hz20 : Keeps a b s0 z20.s := by
        unfold z20
        apply Cyc.map_keeps
        · intro y22 y23
          extract_lets z24 z25
          have hz24 : Keeps a b s0 z24 := by
            unfold z24
            apply State.enter_keeps
            exact y23
          clear_value z24
          apply State.setCh_keeps
          exact hz24
        · exact h
      clear_value z20
      have hz21 : Keeps a b s0 z21.s := by
        unfold z21
        apply Cyc.flag_keeps
        exact hz20
      clear_value z21
      split
      · apply Cyc.raise_keeps
        apply Cyc.flag_keeps
        exact hz21
      · exact hz21
    · apply Cyc.raise_keeps
      apply Cyc.flag_keeps
      apply Cyc.map_keeps
      · intro y26 y27
        apply State.toTripped_keeps
        exact y27
      · exact h
    · extract_lets z28 z29
      clear_value z28
      have hz29 : Keeps a b s0 z29.s := by
        unfold z29
        apply Cyc.flag_keeps
        apply Cyc.map_keeps
        · intro y30 y31
          apply State.toOff_keeps
          exact y31
        · exact h
      clear_value z29
      split
      · exact hz29
      · apply Cyc.raise_keeps
        apply Cyc.flag_keeps
        exact hz29
  · apply Cyc.backoffEnd_keeps
    exact h
  · apply Cyc.map_keeps
    · intro y32 y33
      extract_lets z34 z35
      have hz34 : Keeps a b s0 z34 := by
        unfold z34
        apply State.enter_keeps
        exact y33
      clear_value z34
      apply State.setCh_keeps
      exact hz34
    · exact h
  · split
    · apply Cyc.map_keeps
      · intro y36 y37
        apply State.toRising_keeps
        exact y37
      · exact h
    · apply Cyc.map_keeps
      · intro y38 y39
        apply State.toOff_keeps
        exact y39
      · exact h
  · apply Cyc.map_keeps
    · intro y40 y41
      apply State.applyR41_keeps
      apply State.setCh_keeps
      exact y41
    · exact h
  · apply Cyc.map_keeps
    · intro y42 y43
      extract_lets z44 z45
      have hz44 : Keeps a b s0 z44 := by
        unfold z44
        apply State.setStep_keeps
        exact y43
      clear_value z44
      have hz45 : Keeps a b s0 z45 := by
        unfold z45
        split
        · apply State.enter_keeps
          exact hz44
        · exact hz44
      clear_value z45
      apply State.startSlew_keeps
      exact hz45
    · exact h

theorem Cyc.settle_keeps {a b : Bool} {s0 : State} (n : Nat) (c : Cyc) (r : Rail) (h : Keeps a b s0 c.s) :
    Keeps a b s0 (Cyc.settle n c r).s := by
  induction n generalizing c with
  | zero => exact h
  | succ n ih =>
    unfold Cyc.settle
    have h1 := Cyc.map_keeps c (fun s => s.judgePg r) (fun s h => State.judgePg_keeps s r h) h
    extract_lets c1 x due
    have h1 : Keeps a b s0 c1.s := h1
    clear_value c1
    split
    · split
      · exact Cyc.transition_keeps _ _ _ h1
      · split
        · exact ih _ (Cyc.transition_keeps _ _ _ h1)
        · exact h1
    · split
      · exact h1
      · split
        · exact ih _ (Cyc.transition_keeps _ _ _ h1)
        · split
          · exact ih _ (Cyc.transition_keeps _ _ _ h1)
          · exact h1
    · split
      · exact h1
      · split
        · exact ih _ (Cyc.transition_keeps _ _ _ h1)
        · split
          · exact ih _ (Cyc.transition_keeps _ _ _ h1)
          · exact h1
    · exact h1

theorem Cyc.causes_keeps {a b : Bool} {s0 : State} (c : Cyc) (r : Rail) (l : List Cause) (h : Keeps a b s0 c.s) :
    Keeps a b s0 (Cyc.causes c r l).s := by
  unfold Cyc.causes
  extract_lets z1 z2 z3 z4
  have hz2 : Keeps a b s0 z2.s := by
    unfold z2
    apply Cyc.forAll_keeps
    · intro y5 y6 y7
      apply Cyc.sideEffect_keeps
      exact y7
    · exact h
  clear_value z2
  have hz3 : Keeps a b s0 z3.s := by
    unfold z3
    split
    · apply Cyc.transition_keeps
      exact hz2
    · exact hz2
  clear_value z3
  have hz4 : Keeps a b s0 z4.s := by
    unfold z4
    apply Cyc.forAll_keeps
    · intro y8 y9 y10
      apply Cyc.sideEffect_keeps
      exact y10
    · exact hz3
  clear_value z4
  apply Cyc.settle_keeps
  exact hz4

theorem Cyc.hits_keeps {a b : Bool} {s0 : State} (c : Cyc) (l : List Hit) (h : Keeps a b s0 c.s) :
    Keeps a b s0 (Cyc.hits c l).s := by
  unfold Cyc.hits
  apply Cyc.forAll_keeps
  · intro y1 y2 y3
    apply Cyc.causes_keeps
    exact y3
  · exact h

theorem State.powerCmps_keeps {a b : Bool} {s0 : State} (s : State) (r : Rail) (h : Keeps a b s0 s) :
    Keeps a b s0 (State.powerCmps s r) := by
  unfold State.powerCmps
  split
  · exact h
  · apply State.setCh_keeps
    exact h

theorem State.settleRsts_keeps {a b : Bool} {s0 : State} (s : State) (h : Keeps a b s0 s) :
    Keeps a b s0 (State.settleRsts s) := by
  unfold State.settleRsts
  apply State.forAll_keeps
  · intro y1 y2 y3
    apply State.settleRst_keeps
    exact y3
  · exact h

theorem State.hitLevel_keeps {a b : Bool} {s0 : State} (s : State) (x : Hit) (h : Keeps a b s0 s) (t : State)
    (ht : s.hitLevel x = some t) : Keeps a b s0 t := by
  unfold State.hitLevel at ht
  dsimp only at ht
  split at ht
  · split at ht
    · cases ht; exact State.setCh_keeps _ _ _ h
    · cases ht
  · split at ht
    · cases ht; exact State.setCh_keeps _ _ _ h
    · cases ht
  · split at ht
    · split at ht
      · split at ht
        · cases ht; exact (State.setCh_keeps _ _ _ h).update
        · cases ht; exact State.setCh_keeps _ _ _ (State.setCh_keeps _ _ _ h)
      · split at ht
        · cases ht
        · cases ht; exact State.setCh_keeps _ _ _ (State.setCh_keeps _ _ _ h)
    · cases ht
  · split at ht
    · cases ht
    · split at ht
      · cases ht
        refine Keeps.cond ?_ ?_
        · exact State.flag_keeps _ _ _ (State.setCh_keeps _ _ _ h)
        · exact State.setCh_keeps _ _ _ h
      · split at ht
        · cases ht; exact State.setCh_keeps _ _ _ h
        · cases ht
  · split at ht
    · cases ht; exact State.flag_keeps _ _ _ (State.setCh_keeps _ _ _ h)
    · cases ht
  · split at ht
    · cases ht; exact h
    · cases ht
  · split at ht
    · cases ht; exact h
    · cases ht
  · split at ht
    · cases ht; exact h
    · cases ht
  · cases ht
  · cases ht
  · cases ht; exact h

theorem Cyc.hitsWith_keeps {a b : Bool} {s0 : State} (c : Cyc) (own co : List Hit) (h : Keeps a b s0 c.s) :
    Keeps a b s0 (c.hitsWith own co).s := by
  unfold Cyc.hitsWith
  have h1 := Keeps.foldlFst (a := a) (b := b) (s0 := s0) (fun (x : State × List Hit) h => match x.1.hitLevel h with
    | some s => (s, x.2 ++ [h])
    | none => x) (by
      intro p x hp
      split
      · exact State.hitLevel_keeps _ _ hp _ ‹_›
      · exact hp) co (c.s, own) h
  exact Cyc.hits_keeps _ _ h1

end Sys2Proof.Machine
end

