-- ==== Sys2Proof/Laws/KeepsDomain.lean ====
section
/-! SUPPORT. What each operation of `Machine/Domain.lean` keeps: one lemma per operation that answers a state. -/

set_option Elab.async false

namespace Sys2Proof.Machine

theorem State.grantHitch_keeps {a b : Bool} {s0 : State} (s : State) (d : DomId) (h : Keeps a b s0 s) :
    Keeps a b s0 (State.grantHitch s d) := by
  unfold State.grantHitch
  extract_lets z1
  split
  · split
    · exact h
    · apply State.setDom_keeps
      exact h
  · exact h

theorem Cyc.releaseTripped_keeps {a b : Bool} {s0 : State} (c : Cyc) (d : DomId) (h : Keeps a b s0 c.s) :
    Keeps a b s0 (Cyc.releaseTripped c d).s := by
  unfold Cyc.releaseTripped
  apply Cyc.forAll_keeps
  · intro y1 y2 y3
    apply Cyc.settle_keeps
    apply Cyc.map_keeps
    · intro y4 y5
      apply State.toFalling_keeps
      exact y5
    · exact y3
  · exact h

theorem Cyc.endProg_keeps {a b : Bool} {s0 : State} (c : Cyc) (d : DomId) (last : BitVec 3) (h : Keeps a b s0 c.s) :
    Keeps a b s0 (Cyc.endProg c d last).s := by
  unfold Cyc.endProg
  extract_lets z1 z2
  have hz2 : Keeps a b s0 z2.s := by
    unfold z2
    apply Cyc.map_keeps
    · intro y3 y4
      apply State.setDom_keeps
      exact y4
    · exact h
  clear_value z2
  split
  · apply Cyc.releaseTripped_keeps
    exact hz2
  · exact hz2

theorem Cyc.cutRank_keeps {a b : Bool} {s0 : State} (c : Cyc) (g : List DomId) (h : Keeps a b s0 c.s) :
    Keeps a b s0 (Cyc.cutRank c g).s := by
  unfold Cyc.cutRank
  extract_lets z1 z2 z3
  have hz2 : Keeps a b s0 z2.s := by
    unfold z2
    apply Cyc.map_keeps
    · intro y4 y5
      apply State.orReg_keeps
      exact y5
    · exact h
  clear_value z2
  have hz3 : Keeps a b s0 z3.s := by
    unfold z3
    apply Cyc.forAll_keeps
    · intro y6 y7 y8
      extract_lets z9
      have hz9 : Keeps a b s0 z9.s := by
        unfold z9
        apply Cyc.map_keeps
        · intro y10 y11
          extract_lets z12 z13 z14
          apply State.setDom_keeps
          split
          · apply State.setWk_keeps
            exact y11
          · apply State.setWk_keeps
            exact y11
          · exact y11
        · exact y8
      clear_value z9
      split
      · exact hz9
      · apply Cyc.endProg_keeps
        exact hz9
      · apply Cyc.endProg_keeps
        exact hz9
    · exact hz2
  clear_value z3
  apply Cyc.hits_keeps
  exact hz3

theorem State.openDevShadow_keeps {a b : Bool} {s0 : State} (s : State) (injOnly : Bool) (rails : List Rail) (h : Keeps a b s0 s) :
    Keeps a b s0 (State.openDevShadow s injOnly rails) := by
  unfold State.openDevShadow
  split
  · exact h
  · extract_lets z1 z2
    clear_value z1
    refine Keeps.update (s := s) ?_
    exact h

theorem State.withdrawUp_keeps {a b : Bool} {s0 : State} (s : State) (d : DomId) (h : Keeps a b s0 s) :
    Keeps a b s0 (State.withdrawUp s d) := by
  unfold State.withdrawUp
  split
  · apply State.setDom_keeps
    exact h
  · exact h

theorem Cyc.order_keeps {a b : Bool} {s0 : State} (c : Cyc) (d : DomId) (p : Prog) (src : BitVec 3) (h : Keeps a b s0 c.s) :
    Keeps a b s0 (Cyc.order c d p src).s := by
  unfold Cyc.order
  apply Cyc.map_keeps
  · intro y1 y2
    extract_lets z3 z4 z5 z6
    have hz5 : Keeps a b s0 z5 := by
      unfold z5
      apply State.setDom_keeps
      exact y2
    clear_value z5
    split
    · apply State.setWk_keeps
      exact hz5
    · apply State.setWk_keeps
      exact hz5
    · exact hz5
  · exact h

theorem Cyc.offReq_keeps {a b : Bool} {s0 : State} (c : Cyc) (d : DomId) (src : BitVec 3) (h : Keeps a b s0 c.s) :
    Keeps a b s0 (Cyc.offReq c d src).1.s := by
  unfold Cyc.offReq
  split
  · dsimp only
    apply Cyc.map_keeps
    · intro y1 y2
      apply State.setDom_keeps
      exact y2
    · exact h
  · split
    · exact h
    · extract_lets z3 z4 z5
      have hz3 : Keeps a b s0 z3.s := by
        unfold z3
        apply Cyc.map_keeps
        · intro y6 y7
          apply State.withdrawUp_keeps
          exact y7
        · exact h
      clear_value z3
      have hz4 : Keeps a b s0 z4.s := by
        unfold z4
        split
        · exact hz3
        · apply Cyc.map_keeps
          · intro y8 y9
            apply State.setDom_keeps
            exact y9
          · exact hz3
      clear_value z4
      split
      · exact hz4
      · dsimp only
        apply Cyc.order_keeps
        exact hz4

theorem State.openShadow_keeps {a b : Bool} {s0 : State} (s : State) (d : DomId) (injOnly : Bool) (rails : List Rail) (h : Keeps a b s0 s) :
    Keeps a b s0 (State.openShadow s d injOnly rails) := by
  unfold State.openShadow
  split
  · exact h
  · apply State.forAll_keeps
    · intro y1 y2 y3
      extract_lets z4 z5
      clear_value z4
      refine Keeps.update (s := y1) ?_
      exact y3
    · exact h

theorem Cyc.groupOffs_keeps {a b : Bool} {s0 : State} (c : Cyc) (l : List React) (h : Keeps a b s0 c.s) :
    Keeps a b s0 (Cyc.groupOffs c l).s := by
  unfold Cyc.groupOffs
  extract_lets z1
  have hz1 : Keeps a b s0 z1.s := by
    unfold z1
    apply Cyc.hits_keeps
    exact h
  clear_value z1
  apply Cyc.forAll_keeps
  · intro y2 y3 y4
    extract_lets z5 z6
    have hz6 : Keeps a b s0 z6.1.s := by
      unfold z6
      apply Cyc.offReq_keeps
      exact y4
    clear_value z6
    split
    · apply Cyc.map_keeps
      · intro y7 y8
        apply State.openShadow_keeps
        exact y8
      · exact hz6
    · exact hz6
  · exact hz1

theorem Cyc.downDisables_keeps {a b : Bool} {s0 : State} (c : Cyc) (d : DomId) (h : Keeps a b s0 c.s) :
    Keeps a b s0 (Cyc.downDisables c d).s := by
  unfold Cyc.downDisables
  apply Cyc.hits_keeps
  exact h

theorem Cyc.wickEnded_keeps {a b : Bool} {s0 : State} (c : Cyc) (w : WickId) (faulted : Bool) (h : Keeps a b s0 c.s) :
    Keeps a b s0 (Cyc.wickEnded c w faulted).s := by
  unfold Cyc.wickEnded
  split
  · exact h
  · split
    · apply Cyc.endProg_keeps
      exact h
    · apply Cyc.endProg_keeps
      exact h
    · apply Cyc.endProg_keeps
      exact h
    · apply Cyc.map_keeps
      · intro y1 y2
        apply State.withdrawUp_keeps
        exact y2
      · apply Cyc.endProg_keeps
        exact h
    · exact h

theorem State.startWick_keeps {a b : Bool} {s0 : State} (s : State) (w : WickId) (a' : BitVec 12) (h : Keeps a b s0 s) :
    Keeps a b s0 (State.startWick s w a') := by
  unfold State.startWick
  apply State.setWk_keeps
  exact h

theorem State.releaseOverrides_keeps {a b : Bool} {s0 : State} (s : State) (d : DomId) (h : Keeps a b s0 s) :
    Keeps a b s0 (State.releaseOverrides s d) := by
  unfold State.releaseOverrides
  apply State.forAll_keeps
  · intro y1 y2 y3
    split
    · apply State.setFld_keeps
      exact y3
    · exact y3
  · exact h

theorem Cyc.beginProg_keeps {a b : Bool} {s0 : State} (c : Cyc) (d : DomId) (p : Prog) (src : BitVec 3) (h : Keeps a b s0 c.s) :
    Keeps a b s0 (Cyc.beginProg c d p src).s := by
  unfold Cyc.beginProg
  extract_lets z1
  have hz1 : Keeps a b s0 z1.s := by
    unfold z1
    apply Cyc.map_keeps
    · intro y2 y3
      apply State.setDom_keeps
      apply State.startWick_keeps
      exact y3
    · exact h
  clear_value z1
  split
  · apply Cyc.downDisables_keeps
    exact hz1
  · apply Cyc.map_keeps
    · intro y4 y5
      apply State.releaseOverrides_keeps
      exact y5
    · exact hz1

theorem Cyc.launchOne_keeps {a b : Bool} {s0 : State} (c : Cyc) (d : DomId) (h : Keeps a b s0 c.s) :
    Keeps a b s0 (Cyc.launchOne c d).s := by
  unfold Cyc.launchOne
  split
  · apply Cyc.beginProg_keeps
    split
    · exact h
    · apply Cyc.endProg_keeps
      exact h
  · exact h

theorem Cyc.launch_keeps {a b : Bool} {s0 : State} (n : Nat) (l : List DomId) (c : Cyc) (h : Keeps a b s0 c.s) :
    Keeps a b s0 (Cyc.launch n l c).s := by
  induction n generalizing l c with
  | zero => exact h
  | succ n ih =>
    unfold Cyc.launch
    extract_lets go downs c1 deps
    have h1 : Keeps a b s0 c1.s := Cyc.forAll_keeps _ _ _ (fun c d h => Cyc.launchOne_keeps c d h) h
    clear_value c1
    split
    · exact h1
    · exact ih _ _ (Cyc.forAll_keeps _ _ _ (fun c d h => Cyc.offReq_keeps c d 4 h) h1)

theorem Cyc.onReq_keeps {a b : Bool} {s0 : State} (c : Cyc) (d : DomId) (src : BitVec 3) (h : Keeps a b s0 c.s) :
    Keeps a b s0 (Cyc.onReq c d src).s := by
  unfold Cyc.onReq
  extract_lets z1
  split
  · apply Cyc.map_keeps
    · intro y2 y3
      apply State.setDom_keeps
      exact y3
    · exact h
  · split
    · exact h
    · split
      · apply Cyc.map_keeps
        · intro y4 y5
          apply State.setDom_keeps
          exact y5
        · exact h
      · split
        · exact h
        · apply Cyc.order_keeps
          exact h

theorem Cyc.onNow_keeps {a b : Bool} {s0 : State} (c : Cyc) (d : DomId) (src : BitVec 3) (h : Keeps a b s0 c.s) :
    Keeps a b s0 (Cyc.onNow c d src).s := by
  unfold Cyc.onNow
  apply Cyc.launch_keeps
  apply Cyc.onReq_keeps
  exact h

theorem State.releaseHitch_keeps {a b : Bool} {s0 : State} (s : State) (d : DomId) (h : Keeps a b s0 s) :
    Keeps a b s0 (State.releaseHitch s d) := by
  unfold State.releaseHitch
  apply State.grantHitch_keeps
  apply State.setDom_keeps
  apply State.withdrawUp_keeps
  exact h

theorem Cyc.shutRanks_keeps {a b : Bool} {s0 : State} (n : Nat) (c : Cyc) (h : Keeps a b s0 c.s) :
    Keeps a b s0 (Cyc.shutRanks n c).s := by
  induction n generalizing c with
  | zero => exact Cyc.map_keeps _ _ (fun s h => h.update) (Cyc.hits_keeps _ _ h)
  | succ n ih =>
    unfold Cyc.shutRanks
    extract_lets g c1 c2
    have h1 : Keeps a b s0 c1.s := Cyc.map_keeps _ _ (fun s h => (State.setFld_keeps s _ _ _ _ h).update) h
    clear_value c1
    have h2 : Keeps a b s0 c2.s := Cyc.forAll_keeps _ _ _ (fun c d h => Cyc.offReq_keeps _ _ _ h) h1
    clear_value c2
    split
    · exact ih _ h2
    · split
      · exact ih _ (Cyc.cutRank_keeps _ _ h2)
      · exact h2

theorem Cyc.shutFrom_keeps {a b : Bool} {s0 : State} (n : Nat) (c : Cyc) (h : Keeps a b s0 c.s) :
    Keeps a b s0 (Cyc.shutFrom n c).s := by
  unfold Cyc.shutFrom
  extract_lets z1
  have hz1 : Keeps a b s0 z1.s := by
    unfold z1
    apply Cyc.shutRanks_keeps
    exact h
  clear_value z1
  apply Cyc.launch_keeps
  exact hz1

theorem Cyc.offNow_keeps {a b : Bool} {s0 : State} (c : Cyc) (d : DomId) (src : BitVec 3) (h : Keeps a b s0 c.s) :
    Keeps a b s0 (Cyc.offNow c d src).s := by
  unfold Cyc.offNow
  apply Cyc.launch_keeps
  apply Cyc.offReq_keeps
  exact h

theorem Cyc.startShutdown_keeps {a b : Bool} {s0 : State} (c : Cyc) (h : Keeps a b s0 c.s) :
    Keeps a b s0 (Cyc.startShutdown c).1.s := by
  unfold Cyc.startShutdown
  split
  · exact h
  · extract_lets z1
    have hz1 : Keeps a b s0 z1.s := by
      unfold z1
      apply Cyc.map_keeps
      · intro y2 y3
        apply State.forAll_keeps
        · intro y4 y5 y6
          apply State.withdrawUp_keeps
          exact y6
        · exact y3
      · exact h
    clear_value z1
    dsimp only
    apply Cyc.shutRanks_keeps
    exact hz1

theorem Cyc.finish_keeps {a b : Bool} {s0 : State} (c : Cyc) (injAct : optParam Bool false) (h : Keeps a b s0 c.s) :
    Keeps a b s0 (Cyc.finish c injAct) := by
  unfold Cyc.finish
  extract_lets z1 z2 z3 z4 z5
  have hz2 : Keeps a b s0 z2.s := by
    unfold z2
    split
    · exact h
    · apply Cyc.launch_keeps
      apply Cyc.groupOffs_keeps
      exact h
  clear_value z2
  have hz3 : Keeps a b s0 z3 := by
    unfold z3
    apply State.raiseAll_keeps
    exact hz2
  clear_value z3
  apply State.settleRsts_keeps
  refine Keeps.update (s := z3) ?_
  exact hz3

theorem Cyc.retry_keeps {a b : Bool} {s0 : State} (c : Cyc) (x : React) (h : Keeps a b s0 c.s) :
    Keeps a b s0 (Cyc.retry c x).s := by
  unfold Cyc.retry
  extract_lets z1 z2
  have hz2 : Keeps a b s0 z2.s := by
    unfold z2
    apply Cyc.map_keeps
    · intro y3 y4
      extract_lets z5 z6
      have hz5 : Keeps a b s0 z5 := by
        unfold z5
        apply State.enter_keeps
        exact y4
      clear_value z5
      apply State.count_keeps
      apply State.setCh_keeps
      exact hz5
    · exact h
  clear_value z2
  split
  · apply Cyc.map_keeps
    · intro y7 y8
      apply State.openShadow_keeps
      exact y8
    · exact hz2
  · exact hz2

theorem Cyc.react_keeps {a b : Bool} {s0 : State} (c : Cyc) (l : List React) (h : Keeps a b s0 c.s) :
    Keeps a b s0 (Cyc.react c l).s := by
  unfold Cyc.react
  extract_lets z1 z2 z3 z4 z5 z6 z7 z8 z9
  have hz5 : Keeps a b s0 z5.s := by
    unfold z5
    apply Cyc.map_keeps
    · intro y10 y11
      refine Keeps.update (s := y10) ?_
      exact y11
    · exact h
  clear_value z5
  have hz6 : Keeps a b s0 z6.1.s := by
    unfold z6
    apply Cyc.startShutdown_keeps
    exact hz5
  clear_value z6
  have hz7 : Keeps a b s0 z7.s := by
    unfold z7
    split
    · exact h
    · split
      · apply Cyc.map_keeps
        · intro y12 y13
          extract_lets z14 z15
          have hz15 : Keeps a b s0 z15 := by
            unfold z15
            refine Keeps.update (s := y12) ?_
            exact y13
          clear_value z15
          apply State.openDevShadow_keeps
          exact hz15
        · exact hz6
      · exact hz6
  clear_value z7
  have hz8 : Keeps a b s0 z8.s := by
    unfold z8
    apply Cyc.groupOffs_keeps
    exact hz7
  clear_value z8
  have hz9 : Keeps a b s0 z9.s := by
    unfold z9
    apply Cyc.forAll_keeps
    · intro y16 y17 y18
      split
      · apply Cyc.retry_keeps
        exact y18
      · exact y18
    · exact hz8
  clear_value z9
  apply Cyc.launch_keeps
  exact hz9

/-- A cycle keeps what its function keeps. -/
theorem State.cyc_keeps {a b : Bool} {s0 : State} (s : State) (f : Cyc → Cyc)
    (hf : ∀ c : Cyc, Keeps a b s0 c.s → Keeps a b s0 (f c).s) (h : Keeps a b s0 s) : Keeps a b s0 (s.cyc f) :=
  Cyc.finish_keeps _ _ (hf _ h)

end Sys2Proof.Machine
end

