-- ==== Sys2Proof/Laws/KeepsComparators.lean ====
section
/-! SUPPORT. What each operation of `Machine/Comparators.lean` keeps: one lemma per operation that answers a state. -/

set_option Elab.async false

namespace Sys2Proof.Machine

theorem State.cmpEdge_keeps {a b : Bool} {s0 : State} (s : State) (b' : Nat) (i : Fin 16) (h : Keeps a b s0 s) :
    Keeps a b s0 (State.cmpEdge s b' i) := by
  unfold State.cmpEdge
  split
  · apply State.orReg_keeps
    exact h
  · apply State.orReg_keeps
    exact h
  · apply State.flag_keeps
    exact h
  · apply State.flag_keeps
    exact h
  · apply State.flag_keeps
    exact h
  · apply State.flag_keeps
    exact h
  · apply State.flag_keeps
    exact h
  · apply State.flag_keeps
    exact h
  · apply State.flag_keeps
    exact h
  · exact h

theorem Cyc.uvLevel_keeps {a b : Bool} {s0 : State} (c : Cyc) (r : Rail) (active : Bool) (co : List Hit) (h : Keeps a b s0 c.s) :
    Keeps a b s0 (Cyc.uvLevel c r active co).s := by
  unfold Cyc.uvLevel
  extract_lets z1 z2 z3 z4 z5
  have hz3 : Keeps a b s0 z3.s := by
    unfold z3
    apply Cyc.map_keeps
    · intro y6 y7
      apply State.setCh_keeps
      exact y7
    · exact h
  clear_value z3
  have hz4 : Keeps a b s0 z4.s := by
    unfold z4
    apply Cyc.flag_keeps
    exact hz3
  clear_value z4
  split
  · apply Cyc.hitsWith_keeps
    exact hz3
  · split
    · apply Cyc.settle_keeps
      apply Cyc.hitsWith_keeps
      exact hz3
    · apply Cyc.settle_keeps
      apply Cyc.hitsWith_keeps
      exact hz4

theorem execUvCrossing_keeps {a b : Bool} {s0 : State} (r : Rail) (active : Bool) (co : List Hit) (s : State) (h : Keeps a b s0 s) :
    KeepsNext a b s0 (execUvCrossing r active co s) := by
  unfold execUvCrossing
  apply KeepsNext.of
  split
  · exact h
  · apply State.cyc_keeps
    · intro y1 y2
      apply Cyc.uvLevel_keeps
      exact y2
    · exact h

theorem execPmbusPollPass_keeps {a b : Bool} {s0 : State} (p : Fin 4) (s : State) (h : Keeps a b s0 s) :
    KeepsNext a b s0 (execPmbusPollPass p s) := by
  unfold execPmbusPollPass
  apply KeepsNext.of
  extract_lets z1 z2
  split
  · exact h
  · split
    · apply State.setPort_keeps
      exact h
    · apply State.kick_keeps
      apply State.setPort_keeps
      exact h

theorem State.marginTxEnd_keeps {a b : Bool} {s0 : State} (s : State) (r : Rail) (step : Int) (id : Nat) (last : Bool) (res : PmbResult) (h : Keeps a b s0 s) :
    Keeps a b s0 (State.marginTxEnd s r step id last res) := by
  unfold State.marginTxEnd
  extract_lets z1 z2 z3 z4 z5 z6
  have hz2 : Keeps a b s0 z2 := by
    unfold z2
    apply State.orReg_keeps
    exact h
  clear_value z2
  have hz3 : Keeps a b s0 z3 := by
    unfold z3
    apply State.dropTx_keeps
    exact hz2
  clear_value z3
  have hz4 : Keeps a b s0 z4 := by
    unfold z4
    apply State.blankAll_keeps
    apply State.setStep_keeps
    exact hz3
  clear_value z4
  have hz6 : Keeps a b s0 z6 := by
    unfold z6
    apply State.setCh_keeps
    exact hz4
  clear_value z6
  split
  · split
    · apply State.setCh_keeps
      exact h
    · exact h
  · split
    · exact hz2
    · split
      · apply State.setCh_keeps
        exact hz2
      · apply State.marginTx_keeps
        exact hz6

theorem execPrebiasTimeout_keeps {a b : Bool} {s0 : State} (r : Rail) (co : List Hit) (s : State) (h : Keeps a b s0 s) :
    KeepsNext a b s0 (execPrebiasTimeout r co s) := by
  unfold execPrebiasTimeout
  apply KeepsNext.of
  split
  · exact h
  · apply State.cyc_keeps
    · intro y1 y2
      apply Cyc.hitsWith_keeps
      exact y2
    · exact h

theorem Cyc.ocCycle_keeps {a b : Bool} {s0 : State} (c : Cyc) (r : Rail) (h : Keeps a b s0 c.s) :
    Keeps a b s0 (Cyc.ocCycle c r).s := by
  unfold Cyc.ocCycle
  extract_lets z1 z2 z3
  split
  · exact h
  · split
    · exact h
    · split
      · apply Cyc.raise_keeps
        apply Cyc.map_keeps
        · intro y4 y5
          apply State.setCh_keeps
          exact y5
        · exact h
      · apply Cyc.map_keeps
        · intro y6 y7
          apply State.setCh_keeps
          exact y7
        · exact h

theorem execSwitchingPeriodStart_keeps {a b : Bool} {s0 : State} (r : Rail) (s : State) (h : Keeps a b s0 s) :
    KeepsNext a b s0 (execSwitchingPeriodStart r s) := by
  unfold execSwitchingPeriodStart
  apply KeepsNext.of
  split
  · exact h
  · apply State.cyc_keeps
    · intro y1 y2
      extract_lets z3 z4
      have hz4 : Keeps a b s0 z4.s := by
        unfold z4
        apply Cyc.map_keeps
        · intro y5 y6
          apply State.startPeriod_keeps
          split
          · exact y6
          · apply State.setCh_keeps
            exact y6
        · exact y2
      clear_value z4
      split
      · apply Cyc.ocCycle_keeps
        exact hz4
      · exact hz4
    · exact h

theorem execToffExpiry_keeps {a b : Bool} {s0 : State} (r : Rail) (co : List Hit) (s : State) (h : Keeps a b s0 s) :
    KeepsNext a b s0 (execToffExpiry r co s) := by
  unfold execToffExpiry
  apply KeepsNext.of
  split
  · exact h
  · apply State.cyc_keeps
    · intro y1 y2
      apply Cyc.hitsWith_keeps
      exact y2
    · exact h

theorem Cyc.ovLevel_keeps {a b : Bool} {s0 : State} (c : Cyc) (r : Rail) (active : Bool) (co : List Hit) (h : Keeps a b s0 c.s) :
    Keeps a b s0 (Cyc.ovLevel c r active co).s := by
  unfold Cyc.ovLevel
  extract_lets z1 z2 z3
  have hz3 : Keeps a b s0 z3.s := by
    unfold z3
    apply Cyc.map_keeps
    · intro y4 y5
      apply State.setCh_keeps
      exact y5
    · exact h
  clear_value z3
  split
  · apply Cyc.hitsWith_keeps
    exact hz3
  · split
    · apply Cyc.hitsWith_keeps
      exact hz3
    · apply Cyc.settle_keeps
      apply Cyc.hitsWith_keeps
      apply Cyc.flag_keeps
      exact hz3

theorem execOvCrossing_keeps {a b : Bool} {s0 : State} (r : Rail) (active : Bool) (co : List Hit) (s : State) (h : Keeps a b s0 s) :
    KeepsNext a b s0 (execOvCrossing r active co s) := by
  unfold execOvCrossing
  apply KeepsNext.of
  split
  · exact h
  · apply State.cyc_keeps
    · intro y1 y2
      apply Cyc.ovLevel_keeps
      exact y2
    · exact h

theorem State.slewDone_keeps {a b : Bool} {s0 : State} (s : State) (r : Rail) (h : Keeps a b s0 s) :
    Keeps a b s0 (State.slewDone s r) := by
  unfold State.slewDone
  extract_lets z1 z2 z3
  have hz2 : Keeps a b s0 z2 := by
    unfold z2
    apply State.setCh_keeps
    exact h
  clear_value z2
  have hz3 : Keeps a b s0 z3 := by
    unfold z3
    apply State.blankAll_keeps
    exact hz2
  clear_value z3
  split
  · apply State.enter_keeps
    exact hz3
  · exact hz3

theorem execPmbusSlewComplete_keeps {a b : Bool} {s0 : State} (r : Rail) (s : State) (h : Keeps a b s0 s) :
    KeepsNext a b s0 (execPmbusSlewComplete r s) := by
  unfold execPmbusSlewComplete
  apply KeepsNext.of
  split
  · exact h
  · apply State.cyc_keeps
    · intro y1 y2
      apply Cyc.map_keeps
      · intro y3 y4
        apply State.slewDone_keeps
        exact y4
      · exact y2
    · exact h

theorem State.chFlagsPut_keeps {a b : Bool} {s0 : State} (s : State) (r : Rail) (v : Word) (h : Keeps a b s0 s) :
    Keeps a b s0 (State.chFlagsPut s r v) := by
  unfold State.chFlagsPut
  apply State.cyc_keeps
  · intro y1 y2
    extract_lets z3
    have hz3 : Keeps a b s0 z3.s := by
      unfold z3
      apply Cyc.map_keeps
      · intro y4 y5
        apply State.clearLatches_keeps
        exact y5
      · exact y2
    clear_value z3
    split
    · split
      · apply Cyc.settle_keeps
        apply Cyc.map_keeps
        · intro y6 y7
          apply State.toFalling_keeps
          exact y7
        · exact hz3
      · exact hz3
    · exact hz3
  · exact h

theorem execChFlagsWrite_keeps {a b : Bool} {s0 : State} (u_who : Who) (r : Rail) (v : Word) (hw : Word) (s : State) (h : Keeps a b s0 s) :
    KeepsNext a b s0 (execChFlagsWrite u_who r v hw s) := by
  unfold execChFlagsWrite
  apply KeepsNext.of
  apply State.fab_keeps
  · intro y1 y2
    apply State.chFlagsPut_keeps
    exact y2
  · exact h

theorem Cyc.ocLevel_keeps {a b : Bool} {s0 : State} (c : Cyc) (r : Rail) (active : Bool) (co : List Hit) (h : Keeps a b s0 c.s) :
    Keeps a b s0 (Cyc.ocLevel c r active co).s := by
  unfold Cyc.ocLevel
  split
  · apply Cyc.settle_keeps
    apply Cyc.hitsWith_keeps
    apply Cyc.flag_keeps
    exact h
  · split
    · apply Cyc.hitsWith_keeps
      exact h
    · apply Cyc.hitsWith_keeps
      apply Cyc.ocCycle_keeps
      apply Cyc.flag_keeps
      exact h

theorem Cyc.auxLevel_keeps {a b : Bool} {s0 : State} (c : Cyc) (n : Fin 16) (high : Bool) (active : Bool) (co : List Hit) (h : Keeps a b s0 c.s) :
    Keeps a b s0 (Cyc.auxLevel c n high active co).s := by
  unfold Cyc.auxLevel
  extract_lets z1 z2 z3 z4
  have hz2 : Keeps a b s0 z2.s := by
    unfold z2
    apply Cyc.map_keeps
    · intro y5 y6
      refine Keeps.update (s := y5) ?_
      exact y6
    · exact h
  clear_value z2
  have hz4 : Keeps a b s0 z4.s := by
    unfold z4
    apply Cyc.hitsWith_keeps
    apply Cyc.map_keeps
    · intro y7 y8
      apply State.orReg_keeps
      exact y8
    · exact hz2
  clear_value z4
  split
  · split
    · apply Cyc.hitsWith_keeps
      exact hz2
    · apply Cyc.ocLevel_keeps
      exact hz2
  · split
    · apply Cyc.map_keeps
      · intro y9 y10
        apply State.orReg_keeps
        exact y10
      · exact hz4
    · exact hz4

theorem execAuxCrossing_keeps {a b : Bool} {s0 : State} (n : Fin 16) (high : Bool) (active : Bool) (co : List Hit) (s : State) (h : Keeps a b s0 s) :
    KeepsNext a b s0 (execAuxCrossing n high active co s) := by
  unfold execAuxCrossing
  extract_lets z1
  clear_value z1
  apply KeepsNext.of
  split
  · split
    · exact h
    · apply State.cyc_keeps
      · intro y2 y3
        apply Cyc.auxLevel_keeps
        exact y3
      · exact h
  · split
    · exact h
    · apply State.cyc_keeps
      · intro y4 y5
        apply Cyc.auxLevel_keeps
        exact y5
      · exact h

theorem State.templateEnd_keeps {a b : Bool} {s0 : State} (s : State) (w : WickId) (read : Bool) (vr : Fin 8) (byte : Bool) (res : PmbResult) (h : Keeps a b s0 s) :
    Keeps a b s0 (State.templateEnd s w read vr byte res) := by
  unfold State.templateEnd
  extract_lets z1
  split
  · split
    · extract_lets z2
      apply State.setWk_keeps
      exact h
    · apply State.setWk_keeps
      exact h
  · exact h

theorem execBackoffExpiry_keeps {a b : Bool} {s0 : State} (r : Rail) (co : List Hit) (s : State) (h : Keeps a b s0 s) :
    KeepsNext a b s0 (execBackoffExpiry r co s) := by
  unfold execBackoffExpiry
  apply KeepsNext.of
  split
  · exact h
  · apply State.cyc_keeps
    · intro y1 y2
      apply Cyc.hitsWith_keeps
      exact y2
    · exact h

theorem State.pollEnd_keeps {a b : Bool} {s0 : State} (s : State) (p : Fin 4) (r : Rail) (i : Fin 4) (addr : BitVec 7) (res : PmbResult) (h : Keeps a b s0 s) :
    Keeps a b s0 (State.pollEnd s p r i addr res) := by
  unfold State.pollEnd
  extract_lets z1 z2 z3
  have hz3 : Keeps a b s0 z3 := by
    unfold z3
    apply State.setPort_keeps
    exact h
  clear_value z3
  split
  · apply State.setPort_keeps
    exact h
  · split
    · apply State.setPort_keeps
      exact h
    · split
      · apply State.setBit_keeps
        exact hz3
      · apply State.storePoll_keeps
        exact hz3

theorem execRetryCountReset_keeps {a b : Bool} {s0 : State} (r : Rail) (s : State) (h : Keeps a b s0 s) :
    KeepsNext a b s0 (execRetryCountReset r s) := by
  unfold execRetryCountReset
  apply KeepsNext.of
  split
  · exact h
  · apply State.setCh_keeps
    exact h

theorem State.pmbFlags_keeps {a b : Bool} {s0 : State} (s : State) (r : Rail) (cmd : BitVec 8) (res : PmbResult) (h : Keeps a b s0 s) :
    Keeps a b s0 (State.pmbFlags s r cmd res) := by
  unfold State.pmbFlags
  split
  · apply State.flag_keeps
    exact h
  · split
    · apply State.flag_keeps
      exact h
    · exact h

theorem State.pmbDone_keeps {a b : Bool} {s0 : State} (s : State) (p : Fin 4) (res : PmbResult) (h : Keeps a b s0 s) :
    Keeps a b s0 (State.pmbDone s p res) := by
  unfold State.pmbDone
  split
  · exact h
  · extract_lets z1 z2
    have hz2 : Keeps a b s0 z2 := by
      unfold z2
      split
      · apply State.pmbFlags_keeps
        exact h
      · exact h
    clear_value z2
    apply State.kick_keeps
    split
    · apply State.pmbFlags_keeps
      dsimp only [z1]
      apply State.setPort_keeps
      exact h
    · apply State.marginTxEnd_keeps
      apply State.pmbFlags_keeps
      dsimp only [z1]
      apply State.setPort_keeps
      exact h
    · dsimp only [z1]
      apply State.setPort_keeps
      exact h
    · apply State.templateEnd_keeps
      dsimp only [z1]
      apply State.setPort_keeps
      exact hz2
    · apply State.pollEnd_keeps
      apply State.pmbFlags_keeps
      exact h

theorem execSelfTestTurn_keeps {a : Bool} {s0 : State} (b' : Fin 11) (s : State) (h : Keeps a false s0 s) :
    KeepsNext a false s0 (execSelfTestTurn b' s) := by
  unfold execSelfTestTurn
  apply KeepsNext.of
  split
  · exact h
  · split
    · extract_lets z1 z2 z3
      have hz3 : Keeps a false s0 z3 := by
        unfold z3
        refine Keeps.update (s := s) ?_
        exact h
      clear_value z3
      split
      · apply State.cyc_keeps
        · intro y4 y5
          apply Cyc.raise_keeps
          exact y5
        · apply State.orReg_keeps
          exact hz3
      · exact hz3
    · extract_lets z6 z7 z8
      have hz7 : Keeps a false s0 z7 := by
        unfold z7
        apply State.setBit_keeps
        apply State.setFld_keeps
        exact h
      clear_value z7
      refine Keeps.update (s := z7) ?_
      exact hz7

theorem State.setCmpOut_keeps {a b : Bool} {s0 : State} (s : State) (b' : Nat) (i : Fin 16) (v : Bool) (h : Keeps a b s0 s) :
    Keeps a b s0 (State.setCmpOut s b' i v) := by
  unfold State.setCmpOut
  split
  · refine Keeps.update (s := s) ?_
    exact h
  · refine Keeps.update (s := s) ?_
    exact h
  · apply State.setCh_keeps
    exact h
  · apply State.setCh_keeps
    exact h
  · apply State.setCh_keeps
    exact h
  · apply State.setCh_keeps
    exact h
  · apply State.setCh_keeps
    exact h
  · apply State.setCh_keeps
    exact h
  · exact h

theorem Cyc.cmpLevel_keeps {a b : Bool} {s0 : State} (c : Cyc) (b' : Nat) (i : Fin 16) (active : Bool) (h : Keeps a b s0 c.s) :
    Keeps a b s0 (Cyc.cmpLevel c b' i active).s := by
  unfold Cyc.cmpLevel
  split
  · apply Cyc.auxLevel_keeps
    exact h
  · apply Cyc.auxLevel_keeps
    exact h
  · extract_lets z1 z2 z3
    have hz3 : Keeps a b s0 z3.s := by
      unfold z3
      apply Cyc.map_keeps
      · intro y4 y5
        apply State.setCh_keeps
        exact y5
      · exact h
    clear_value z3
    split
    · exact hz3
    · apply Cyc.ocLevel_keeps
      exact hz3
  · apply Cyc.ovLevel_keeps
    exact h
  · apply Cyc.ovLevel_keeps
    exact h
  · apply Cyc.ovLevel_keeps
    exact h
  · apply Cyc.ovLevel_keeps
    exact h
  · apply Cyc.uvLevel_keeps
    exact h
  · exact h

theorem Cyc.restoreCmp_keeps {a b : Bool} {s0 : State} (c : Cyc) (b' : Nat) (i : Fin 16) (pre : Bool) (out : Bool) (h : Keeps a b s0 c.s) :
    Keeps a b s0 (Cyc.restoreCmp c b' i pre out).s := by
  unfold Cyc.restoreCmp
  extract_lets z1 z2
  clear_value z1
  have hz2 : Keeps a b s0 z2.s := by
    unfold z2
    apply Cyc.map_keeps
    · intro y3 y4
      apply State.setCmpOut_keeps
      exact y4
    · exact h
  clear_value z2
  split
  · exact h
  · split
    · split
      · apply Cyc.settle_keeps
        exact hz2
      · exact hz2
    · split
      · split
        · exact h
        · apply Cyc.map_keeps
          · intro y5 y6
            apply State.cmpEdge_keeps
            exact y6
          · exact h
      · apply Cyc.cmpLevel_keeps
        exact h

theorem execSelfTestBankEnd_keeps {a : Bool} {s0 : State} (out : BitVec 16) (s : State) (h : Keeps a false s0 s) :
    KeepsNext a false s0 (execSelfTestBankEnd out s) := by
  unfold execSelfTestBankEnd
  apply KeepsNext.of
  split
  · exact h
  · apply State.cyc_keeps
    · intro y1 y2
      extract_lets z3 z4 z5 z6
      have hz5 : Keeps a false s0 z5.s := by
        unfold z5
        apply Cyc.map_keeps
        · intro y7 y8
          extract_lets z9 z10
          have hz9 : Keeps a false s0 z9 := by
            unfold z9
            apply State.orReg_keeps
            exact y8
          clear_value z9
          have hz10 : Keeps a false s0 z10 := by
            unfold z10
            apply State.setBit_keeps
            exact hz9
          clear_value z10
          refine Keeps.update (s := z10) ?_
          exact hz10
        · exact y2
      clear_value z5
      have hz6 : Keeps a false s0 z6.s := by
        unfold z6
        split
        · exact hz5
        · apply Cyc.raise_keeps
          exact hz5
      clear_value z6
      apply Cyc.forAll_keeps
      · intro y11 y12 y13
        apply Cyc.restoreCmp_keeps
        exact y13
      · exact hz6
    · exact h

theorem execSoftStartEnd_keeps {a b : Bool} {s0 : State} (r : Rail) (co : List Hit) (s : State) (h : Keeps a b s0 s) :
    KeepsNext a b s0 (execSoftStartEnd r co s) := by
  unfold execSoftStartEnd
  apply KeepsNext.of
  split
  · exact h
  · apply State.cyc_keeps
    · intro y1 y2
      apply Cyc.settle_keeps
      apply Cyc.hitsWith_keeps
      apply Cyc.map_keeps
      · intro y3 y4
        apply State.setCh_keeps
        exact y4
      · exact y2
    · exact h

theorem execOcCrossing_keeps {a b : Bool} {s0 : State} (r : Rail) (active : Bool) (co : List Hit) (s : State) (h : Keeps a b s0 s) :
    KeepsNext a b s0 (execOcCrossing r active co s) := by
  unfold execOcCrossing
  apply KeepsNext.of
  split
  · exact h
  · apply State.cyc_keeps
    · intro y1 y2
      extract_lets z3 z4 z5
      have hz5 : Keeps a b s0 z5.s := by
        unfold z5
        apply Cyc.map_keeps
        · intro y6 y7
          apply State.setCh_keeps
          exact y7
        · exact y2
      clear_value z5
      split
      · apply Cyc.hitsWith_keeps
        exact hz5
      · apply Cyc.ocLevel_keeps
        exact hz5
    · exact h

theorem State.chMargin_keeps {a b : Bool} {s0 : State} (s : State) (who : Who) (r : Rail) (v : Word) (h : Keeps a b s0 s) :
    Keeps a b s0 (State.chMargin s who r v).1 := by
  unfold State.chMargin
  extract_lets z1 z2 z3 z4 z5
  have hz4 : Keeps a b s0 z4.1 := by
    unfold z4
    dsimp only
    apply State.flag_keeps
    exact h
  clear_value z4
  clear_value z5
  split
  · exact hz4
  · split
    · exact hz4
    · split
      · exact hz4
      · dsimp only
        apply State.cyc_keeps
        · intro y6 y7
          split
          · split
            · apply Cyc.map_keeps
              · intro y8 y9
                apply State.blankAll_keeps
                exact y9
              · apply Cyc.map_keeps
                · intro y10 y11
                  apply State.setReg_keeps
                  exact y11
                · exact y7
            · split
              · apply Cyc.flag_keeps
                apply Cyc.map_keeps
                · intro y12 y13
                  apply State.blankAll_keeps
                  exact y13
                · apply Cyc.map_keeps
                  · intro y14 y15
                    apply State.setReg_keeps
                    exact y15
                  · exact y7
              · apply Cyc.hits_keeps
                apply Cyc.map_keeps
                · intro y16 y17
                  apply State.blankAll_keeps
                  exact y17
                · apply Cyc.map_keeps
                  · intro y18 y19
                    apply State.setReg_keeps
                    exact y19
                  · exact y7
          · split
            · apply Cyc.map_keeps
              · intro y20 y21
                apply State.setReg_keeps
                exact y21
              · exact y7
            · split
              · apply Cyc.flag_keeps
                apply Cyc.map_keeps
                · intro y22 y23
                  apply State.setReg_keeps
                  exact y23
                · exact y7
              · apply Cyc.hits_keeps
                apply Cyc.map_keeps
                · intro y24 y25
                  apply State.setReg_keeps
                  exact y25
                · exact y7
        · exact h

theorem execSmbusTimeout_keeps {a b : Bool} {s0 : State} (p : Fin 4) (s : State) (h : Keeps a b s0 s) :
    KeepsNext a b s0 (execSmbusTimeout p s) := by
  unfold execSmbusTimeout
  apply KeepsNext.of
  apply State.pmbDone_keeps
  exact h

theorem State.coverMark_keeps {a b : Bool} {s0 : State} (s : State) (b' : Nat) (rail : Option Rail) (h : Keeps a b s0 s) :
    Keeps a b s0 (State.coverMark s b' rail) := by
  unfold State.coverMark
  extract_lets z1
  have hz1 : Keeps a b s0 z1 := by
    unfold z1
    apply State.setBit_keeps
    exact h
  clear_value z1
  split
  · split
    · exact hz1
    · apply State.orReg_keeps
      exact hz1
  · exact hz1

theorem execBlankingEnd_keeps {a b : Bool} {s0 : State} (k : CmpId) (active : Bool) (co : List Hit) (s : State) (h : Keeps a b s0 s) :
    KeepsNext a b s0 (execBlankingEnd k active co s) := by
  unfold execBlankingEnd
  apply KeepsNext.of
  split
  · split
    · exact h
    · apply State.cyc_keeps
      · intro y1 y2
        extract_lets z3 z4 z5 z6 z7
        clear_value z4
        clear_value z5
        have hz6 : Keeps a b s0 z6.s := by
          unfold z6
          apply Cyc.map_keeps
          · intro y8 y9
            apply State.setCh_keeps
            exact y9
          · exact y2
        clear_value z6
        have hz7 : Keeps a b s0 z7.s := by
          unfold z7
          split
          · apply Cyc.map_keeps
            · intro y10 y11
              apply State.coverMark_keeps
              exact y11
            · exact hz6
          · exact hz6
        clear_value z7
        apply Cyc.settle_keeps
        apply Cyc.hitsWith_keeps
        exact hz7
      · exact h
  · split
    · exact h
    · apply State.cyc_keeps
      · intro y12 y13
        extract_lets z14 z15 z16 z17 z18 z19
        clear_value z15
        clear_value z16
        have hz17 : Keeps a b s0 z17.s := by
          unfold z17
          apply Cyc.map_keeps
          · intro y20 y21
            apply State.setCh_keeps
            exact y21
          · exact y13
        clear_value z17
        have hz18 : Keeps a b s0 z18.s := by
          unfold z18
          split
          · apply Cyc.flag_keeps
            exact hz17
          · exact hz17
        clear_value z18
        have hz19 : Keeps a b s0 z19.s := by
          unfold z19
          split
          · apply Cyc.map_keeps
            · intro y22 y23
              apply State.coverMark_keeps
              exact y23
            · exact hz18
          · exact hz18
        clear_value z19
        apply Cyc.settle_keeps
        apply Cyc.hitsWith_keeps
        exact hz19
      · exact h
  · split
    · exact h
    · apply State.cyc_keeps
      · intro y24 y25
        extract_lets z26 z27 z28 z29
        clear_value z27
        clear_value z28
        have hz29 : Keeps a b s0 z29.s := by
          unfold z29
          apply Cyc.map_keeps
          · intro y30 y31
            extract_lets z32
            have hz32 : Keeps a b s0 z32 := by
              unfold z32
              apply State.setCh_keeps
              exact y31
            clear_value z32
            split
            · split
              · refine Keeps.update (s := z32) ?_
                exact hz32
              · exact hz32
            · exact hz32
          · exact y25
        clear_value z29
        split
        · apply Cyc.ocLevel_keeps
          split
          · apply Cyc.map_keeps
            · intro y33 y34
              apply State.coverMark_keeps
              exact y34
            · exact hz29
          · exact hz29
        · apply Cyc.hitsWith_keeps
          exact hz29
      · exact h
  · split
    · exact h
    · apply State.cyc_keeps
      · intro y35 y36
        extract_lets z37 z38 z39 z40 z41
        clear_value z38
        clear_value z39
        have hz41 : Keeps a b s0 z41.s := by
          unfold z41
          apply Cyc.map_keeps
          · intro y42 y43
            apply State.setCh_keeps
            exact y43
          · exact y36
        clear_value z41
        split
        · apply Cyc.ocLevel_keeps
          split
          · apply Cyc.map_keeps
            · intro y44 y45
              apply State.coverMark_keeps
              exact y45
            · exact hz41
          · exact hz41
        · apply Cyc.hitsWith_keeps
          exact hz41
      · exact h

theorem execTonExpiry_keeps {a b : Bool} {s0 : State} (r : Rail) (co : List Hit) (s : State) (h : Keeps a b s0 s) :
    KeepsNext a b s0 (execTonExpiry r co s) := by
  unfold execTonExpiry
  apply KeepsNext.of
  split
  · exact h
  · apply State.cyc_keeps
    · intro y1 y2
      apply Cyc.hitsWith_keeps
      exact y2
    · exact h

theorem execPmbusTransactionDone_keeps {a b : Bool} {s0 : State} (p : Fin 4) (res : PmbResult) (s : State) (h : Keeps a b s0 s) :
    KeepsNext a b s0 (execPmbusTransactionDone p res s) := by
  unfold execPmbusTransactionDone
  apply KeepsNext.of
  apply State.pmbDone_keeps
  exact h

theorem execChMarginWrite_keeps {a b : Bool} {s0 : State} (who : Who) (r : Rail) (v : Word) (s : State) (h : Keeps a b s0 s) :
    KeepsNext a b s0 (execChMarginWrite who r v s) := by
  unfold execChMarginWrite
  apply KeepsNext.of
  apply State.fab_keeps
  · intro y1 y2
    apply State.chMargin_keeps
    exact y2
  · exact h

theorem execSelfTestPhase_keeps {a : Bool} {s0 : State} (out : BitVec 16) (s : State) (h : Keeps a false s0 s) :
    KeepsNext a false s0 (execSelfTestPhase out s) := by
  unfold execSelfTestPhase
  apply KeepsNext.of
  split
  · exact h
  · extract_lets z1 z2 z3 z4 z5 z6 z7 z8 z9 z10 z11
    clear_value z5
    clear_value z7
    clear_value z8
    refine Keeps.update (s := s) ?_
    exact h

theorem execMarginSlewMove_keeps {a b : Bool} {s0 : State} (r : Rail) (s : State) (h : Keeps a b s0 s) :
    KeepsNext a b s0 (execMarginSlewMove r s) := by
  unfold execMarginSlewMove
  apply KeepsNext.of
  split
  · exact h
  · apply State.cyc_keeps
    · intro y1 y2
      apply Cyc.map_keeps
      · intro y3 y4
        extract_lets z5 z6 z7 z8
        split
        · apply State.slewDone_keeps
          exact y4
        · apply State.setCh_keeps
          exact y4
      · exact y2
    · exact h

theorem execPreambleEnd_keeps {a b : Bool} {s0 : State} (r : Rail) (s : State) (h : Keeps a b s0 s) :
    KeepsNext a b s0 (execPreambleEnd r s) := by
  unfold execPreambleEnd
  apply KeepsNext.of
  split
  · exact h
  · apply State.cyc_keeps
    · intro y1 y2
      apply Cyc.settle_keeps
      apply Cyc.map_keeps
      · intro y3 y4
        apply State.startStage_keeps
        apply State.setCh_keeps
        exact y4
      · exact y2
    · exact h

end Sys2Proof.Machine
end

