-- ==== Sys2Proof/Laws/KeepsLinks.lean ====
section
/-! SUPPORT. What each operation of `Machine/Links.lean` keeps: one lemma per operation that answers a state. -/

set_option Elab.async false

namespace Sys2Proof.Machine

theorem State.raEnd_keeps {a b : Bool} {s0 : State} (s : State) (stat : Nat) (status : Nat) (h : Keeps a b s0 s) :
    Keeps a b s0 (State.raEnd s stat status) := by
  unfold State.raEnd
  apply State.setBit_keeps
  apply State.setFld_keeps
  exact h

theorem State.takeSeq_keeps {a b : Bool} {s0 : State} (s : State) (h : Keeps a b s0 s) :
    Keeps a b s0 (State.takeSeq s) := by
  unfold State.takeSeq
  refine Keeps.update (s := s) ?_
  exact h

theorem State.setRPort_keeps {a b : Bool} {s0 : State} (s : State) (portB : Bool) (p : RingPort) (h : Keeps a b s0 s) :
    Keeps a b s0 (State.setRPort s portB p) := by
  unfold State.setRPort
  refine Keeps.update (s := s) ?_
  exact h

theorem State.rStart_keeps {a b : Bool} {s0 : State} (s : State) (portB : Bool) (x : RingTx) (rest : List RingTx) (h : Keeps a b s0 s) :
    Keeps a b s0 (State.rStart s portB x rest) := by
  unfold State.rStart
  extract_lets z1 z2 z3
  have hz2 : Keeps a b s0 z2 := by
    unfold z2
    refine Keeps.update (s := s) ?_
    exact h
  clear_value z2
  apply State.setRPort_keeps
  exact hz2

theorem State.rOut_keeps {a b : Bool} {s0 : State} (s : State) (portB : Bool) (x : RingTx) (h : Keeps a b s0 s) :
    Keeps a b s0 (State.rOut s portB x) := by
  unfold State.rOut
  extract_lets z1
  split
  · apply State.rStart_keeps
    exact h
  · apply State.setRPort_keeps
    exact h

theorem State.rBoth_keeps {a b : Bool} {s0 : State} (s : State) (f : RingFrame) (h : Keeps a b s0 s) :
    Keeps a b s0 (State.rBoth s f) := by
  unfold State.rBoth
  apply State.rOut_keeps
  apply State.rOut_keeps
  exact h

theorem State.rSend_keeps {a b : Bool} {s0 : State} (s : State) (dst : Byte) (b' : RingBody) (h : Keeps a b s0 s) :
    Keeps a b s0 (State.rSend s dst b') := by
  unfold State.rSend
  split
  · apply State.takeSeq_keeps
    apply State.rBoth_keeps
    exact h
  · exact h

theorem State.rngGo_keeps {a b : Bool} {s0 : State} (s : State) (write : Bool) (target : BitVec 6) (h : Keeps a b s0 s) :
    Keeps a b s0 (State.rngGo s write target).1 := by
  unfold State.rngGo
  split
  · dsimp only
    apply State.orReg_keeps
    exact h
  · split
    · dsimp only
      apply State.raEnd_keeps
      exact h
    · extract_lets z1 z2 z3 z4
      have hz3 : Keeps a b s0 z3 := by
        unfold z3
        apply State.rSend_keeps
        apply State.setBit_keeps
        exact h
      clear_value z3
      dsimp only
      refine Keeps.update (s := z3) ?_
      exact hz3

theorem execRngGo_keeps {a b : Bool} {s0 : State} (u_who : Who) (write : Bool) (target : BitVec 6) (s : State) (h : Keeps a b s0 s) :
    KeepsNext a b s0 (execRngGo u_who write target s) := by
  unfold execRngGo
  apply KeepsNext.of
  apply State.fab_keeps
  · intro y1 y2
    apply State.rngGo_keeps
    exact y2
  · exact h

theorem State.rWithdraw_keeps {a b : Bool} {s0 : State} (s : State) (n : BitVec 6) (id : BitVec 8) (h : Keeps a b s0 s) :
    Keeps a b s0 (State.rWithdraw s n id) := by
  unfold State.rWithdraw
  extract_lets z1 z2
  refine Keeps.update (s := s) ?_
  exact h

theorem State.tEvent_keeps {a : Bool} {s0 : State} (s : State) (arrive : Bool) (id : BitVec 8) (h : Keeps a false s0 s) :
    Keeps a false s0 (State.tEvent s arrive id) := by
  unfold State.tEvent
  refine Keeps.update (s := s) ?_
  exact h

theorem State.tWithdraw_keeps {a : Bool} {s0 : State} (s : State) (n : Fin 16) (id : BitVec 8) (h : Keeps a false s0 s) :
    Keeps a false s0 (State.tWithdraw s n id) := by
  unfold State.tWithdraw
  extract_lets z1 z2
  refine Keeps.update (s := s) ?_
  exact h

theorem State.barrierLeave_keeps {a : Bool} {s0 : State} (s : State) (ring : Bool) (id : BitVec 8) (h : Keeps a false s0 s) :
    Keeps a false s0 (State.barrierLeave s ring id) := by
  unfold State.barrierLeave
  split
  · exact h
  · split
    · apply State.rWithdraw_keeps
      apply State.rSend_keeps
      exact h
    · split
      · apply State.tEvent_keeps
        exact h
      · apply State.tWithdraw_keeps
        exact h

theorem State.leaveBarrier_keeps {a : Bool} {s0 : State} (s : State) (w : WickId) (ring : Bool) (id : BitVec 8) (h : Keeps a false s0 s) :
    Keeps a false s0 (State.leaveBarrier s w ring id) := by
  unfold State.leaveBarrier
  split
  · exact h
  · apply State.barrierLeave_keeps
    exact h

theorem State.refreshQuiet_keeps {a b : Bool} {s0 : State} (s : State) (portB : Bool) (h : Keeps a b s0 s) :
    Keeps a b s0 (State.refreshQuiet s portB) := by
  unfold State.refreshQuiet
  extract_lets z1
  split
  · apply State.setRPort_keeps
    exact h
  · exact h

theorem State.lockDrop_keeps {a b : Bool} {s0 : State} (s : State) (portB : Bool) (h : Keeps a b s0 s) :
    Keeps a b s0 (State.lockDrop s portB) := by
  unfold State.lockDrop
  split
  · exact h
  · extract_lets z1 z2 z3
    have hz1 : Keeps a b s0 z1 := by
      unfold z1
      apply State.refreshQuiet_keeps
      exact h
    clear_value z1
    have hz3 : Keeps a b s0 z3 := by
      unfold z3
      apply State.setRPort_keeps
      apply State.setBit_keeps
      exact hz1
    clear_value z3
    apply State.setFld_keeps
    exact hz3

theorem State.pfEmpty_keeps {a b : Bool} {s0 : State} (s : State) (h : Keeps a b s0 s) :
    Keeps a b s0 (State.pfEmpty s) := by
  unfold State.pfEmpty
  refine Keeps.update (s := s) ?_
  exact h

theorem State.pfClearTo_keeps {a b : Bool} {s0 : State} (s : State) (tc : BitVec 64) (h : Keeps a b s0 s) :
    Keeps a b s0 (State.pfClearTo s tc) := by
  unfold State.pfClearTo
  extract_lets z1 z2
  have hz1 : Keeps a b s0 z1 := by
    unfold z1
    apply State.pfEmpty_keeps
    exact h
  clear_value z1
  refine Keeps.update (s := z1) ?_
  exact hz1

theorem State.pfClrAll_keeps {a b : Bool} {s0 : State} (s : State) (h : Keeps a b s0 s) :
    Keeps a b s0 (State.pfClrAll s) := by
  unfold State.pfClrAll
  apply State.rSend_keeps
  apply State.pfClearTo_keeps
  exact h

theorem State.setTime_keeps {a b : Bool} {s0 : State} (s : State) (t' : BitVec 64) (step : Bool) (h : Keeps a b s0 s) :
    Keeps a b s0 (State.setTime s t' step) := by
  unfold State.setTime
  refine Keeps.update (s := s) ?_
  exact h

theorem State.tset_keeps {a b : Bool} {s0 : State} (s : State) (h : Keeps a b s0 s) :
    Keeps a b s0 (State.tset s).1 := by
  unfold State.tset
  split
  · dsimp only
    apply State.setTime_keeps
    exact h
  · dsimp only
    apply State.orReg_keeps
    exact h

theorem State.forward_keeps {a : Bool} {s0 : State} (s : State) (h' : RingHead) (b' : RingBody) (h : Keeps a false s0 s) :
    Keeps a false s0 (State.forward s h' b') := by
  unfold State.forward
  split
  · exact h
  · extract_lets z1
    split
    · exact h
    · exact h
    · apply State.draw_keeps
      apply State.rOut_keeps
      exact h
    · apply State.rOut_keeps
      exact h

/-- Receiving a frame keeps what its action keeps. -/
theorem State.receive1_keeps {a : Bool} {s0 : State} (s : State) (g : RingHead) (m : RingBody) (spliced : Bool)
    (act : State → State) (hact : ∀ s, Keeps a false s0 s → Keeps a false s0 (act s)) (h : Keeps a false s0 s) :
    Keeps a false s0 (s.receive1 g m spliced act) := by
  unfold State.receive1
  split
  · exact h
  split
  · exact State.startWake_keeps h
  have h1 := State.forward_keeps s.startWake g m (State.startWake_keeps h)
  extract_lets s1 r s2 link
  have h1 : Keeps a false s0 s1 := h1
  have h2 : Keeps a false s0 s2 := h1.update
  clear_value s1 s2
  split
  · split
    · exact h1
    · exact State.raise1_keeps _ _ (State.orReg_keeps _ _ _ h1)
  · split
    · exact h1
    · split
      · exact hact _ h2
      · exact h2

theorem State.leaveMaster_keeps {a b : Bool} {s0 : State} (s : State) (h : Keeps a b s0 s) :
    Keeps a b s0 (State.leaveMaster s) := by
  unfold State.leaveMaster
  split
  · extract_lets z1 z2
    have hz1 : Keeps a b s0 z1 := by
      unfold z1
      apply State.setBit_keeps
      apply State.setBit_keeps
      exact h
    clear_value z1
    refine Keeps.update (s := z1) ?_
    exact hz1
  · exact h

theorem State.loseSync_keeps {a b : Bool} {s0 : State} (s : State) (h : Keeps a b s0 s) :
    Keeps a b s0 (State.loseSync s) := by
  unfold State.loseSync
  extract_lets z1 z2
  have hz2 : Keeps a b s0 z2 := by
    unfold z2
    refine Keeps.update (s := s) ?_
    exact h
  clear_value z2
  split
  · apply State.raise1_keeps
    apply State.orReg_keeps
    apply State.setBit_keeps
    exact hz2
  · exact hz2

theorem State.correct_keeps {a : Bool} {s0 : State} (s : State) (twice : List Nat) (t' : BitVec 64) (corrPs : Int) (tstep : Bool) (h : Keeps a false s0 s) :
    Keeps a false s0 (State.correct s twice t' corrPs tstep) := by
  unfold State.correct
  extract_lets z1 z2 z3 z4 z5 z6 z7 z8 z9 z10 z11 z12
  have hz3 : Keeps a false s0 z3 := by
    unfold z3
    apply State.setFld_keeps
    exact h
  clear_value z3
  have hz4 : Keeps a false s0 z4 := by
    unfold z4
    apply State.orReg_keeps
    exact hz3
  clear_value z4
  have hz5 : Keeps a false s0 z5 := by
    unfold z5
    split
    · exact hz4
    · apply State.loseSync_keeps
      exact hz4
  clear_value z5
  have hz6 : Keeps a false s0 z6 := by
    unfold z6
    apply State.setTime_keeps
    exact hz5
  clear_value z6
  have hz10 : Keeps a false s0 z10 := by
    unfold z10
    apply State.setTime_keeps
    exact hz3
  clear_value z10
  have hz12 : Keeps a false s0 z12 := by
    unfold z12
    apply State.draw_keeps
    refine Keeps.update (s := z10) ?_
    exact hz10
  clear_value z12
  split
  · refine Keeps.update (s := z6) ?_
    exact hz6
  · split
    · apply State.setBit_keeps
      exact hz12
    · exact hz12

theorem State.takeTime_keeps {a : Bool} {s0 : State} (s : State) (h' : RingHead) (time : BitVec 64) (corrPs : Int) (tstep : Bool) (h : Keeps a false s0 s) :
    Keeps a false s0 (State.takeTime s h' time corrPs tstep) := by
  unfold State.takeTime
  split
  · exact h
  · extract_lets z1 z2
    have hz1 : Keeps a false s0 z1 := by
      unfold z1
      apply State.setFld_keeps
      apply State.leaveMaster_keeps
      exact h
    clear_value z1
    split
    · apply State.correct_keeps
      exact hz1
    · exact hz1

theorem State.takeLantern_keeps {a b : Bool} {s0 : State} (s : State) (l : Lantern) (h : Keeps a b s0 s) :
    Keeps a b s0 (State.takeLantern s l) := by
  unfold State.takeLantern
  split
  · exact h
  · apply State.raise1_keeps
    apply State.pfEnter_keeps
    exact h

theorem State.releaseWicks_keeps {a b : Bool} {s0 : State} (s : State) (ring : Bool) (id : BitVec 8) (h : Keeps a b s0 s) :
    Keeps a b s0 (State.releaseWicks s ring id) := by
  unfold State.releaseWicks
  apply State.forAll_keeps
  · intro y1 y2 y3
    apply State.setWk_keeps
    exact y3
  · exact h

theorem State.rArrive_keeps {a b : Bool} {s0 : State} (s : State) (n : BitVec 6) (id : BitVec 8) (h : Keeps a b s0 s) :
    Keeps a b s0 (State.rArrive s n id) := by
  unfold State.rArrive
  extract_lets z1 z2 z3
  split
  · apply State.releaseWicks_keeps
    refine Keeps.update (s := s) ?_
    exact h
  · refine Keeps.update (s := s) ?_
    exact h

theorem State.setSignal_keeps {a b : Bool} {s0 : State} (s : State) (w : WickId) (n : Fin 16) (h : Keeps a b s0 s) :
    Keeps a b s0 (State.setSignal s w n) := by
  unfold State.setSignal
  apply State.setWk_keeps
  exact h

theorem State.takeRingSig_keeps {a b : Bool} {s0 : State} (s : State) (h' : RingHead) (w : WickId) (n : Fin 16) (h : Keeps a b s0 s) :
    Keeps a b s0 (State.takeRingSig s h' w n) := by
  unfold State.takeRingSig
  apply State.rSend_keeps
  apply State.setSignal_keeps
  exact h

theorem State.endRemote_keeps {a b : Bool} {s0 : State} (s : State) (w : WickId) (ring : Bool) (fail : Bool) (h : Keeps a b s0 s) :
    Keeps a b s0 (State.endRemote s w ring fail) := by
  unfold State.endRemote
  split
  · split
    · apply State.setWk_keeps
      exact h
    · exact h
  · exact h

theorem State.takeSigack_keeps {a b : Bool} {s0 : State} (s : State) (seq : BitVec 16) (h : Keeps a b s0 s) :
    Keeps a b s0 (State.takeSigack s seq) := by
  unfold State.takeSigack
  split
  · apply State.endRemote_keeps
    refine Keeps.update (s := s) ?_
    exact h
  · exact h

theorem State.linkEvent_keeps {a : Bool} {s0 : State} (s : State) (e : LinkEvent) (h : Keeps a false s0 s) :
    Keeps a false s0 (State.linkEvent s e) := by
  unfold State.linkEvent
  split
  · apply State.lockDrop_keeps
    exact h
  · apply State.fab_keeps
    · intro y1 y2
      apply State.pfEmpty_keeps
      exact y2
    · exact h
  · apply State.fab_keeps
    · intro y3 y4
      apply State.pfClrAll_keeps
      exact y4
    · exact h
  · apply State.fab_keeps
    · intro y5 y6
      apply State.tset_keeps
      exact y6
    · exact h
  · apply State.receive1_keeps
    · intro y7 y8
      apply State.takeTime_keeps
      exact y8
    · exact h
  · apply State.receive1_keeps
    · intro y9 y10
      apply State.takeLantern_keeps
      exact y10
    · exact h
  · apply State.receive1_keeps
    · intro y11 y12
      apply State.pfClearTo_keeps
      exact y12
    · exact h
  · apply State.receive1_keeps
    · intro y13 y14
      apply State.rArrive_keeps
      exact y14
    · exact h
  · apply State.receive1_keeps
    · intro y15 y16
      apply State.rWithdraw_keeps
      exact y16
    · exact h
  · apply State.receive1_keeps
    · intro y17 y18
      apply State.takeRingSig_keeps
      exact y18
    · exact h
  · apply State.receive1_keeps
    · intro y19 y20
      apply State.takeSigack_keeps
      exact y20
    · exact h

theorem State.linkEvents_keeps {a : Bool} {s0 : State} (s : State) (l : List LinkEvent) (lo : Nat) (n : Nat) (h : Keeps a false s0 s) :
    Keeps a false s0 (State.linkEvents s l lo n) := by
  unfold State.linkEvents
  apply Keeps.foldl
  · intro y1 y2 y3
    apply State.linkEvent_keeps
    exact y3
  · exact h

/-- The frame and what else reaches the links in its cycle keep what its action keeps. -/
theorem State.receive_keeps {a : Bool} {s0 : State} (s : State) (g : RingArrival) (m : RingBody) (spliced : Bool)
    (act : State → State) (hact : ∀ s, Keeps a false s0 s → Keeps a false s0 (act s)) (h : Keeps a false s0 s) :
    Keeps a false s0 (s.receive g m spliced act) := by
  unfold State.receive
  exact State.linkEvents_keeps _ _ _ _ (State.receive1_keeps _ _ _ _ _ hact (State.linkEvents_keeps _ _ _ _ h))

theorem execWithdraw_keeps {a : Bool} {s0 : State} (h' : RingArrival) (id : BitVec 8) (s : State) (h : Keeps a false s0 s) :
    KeepsNext a false s0 (execWithdraw h' id s) := by
  unfold execWithdraw
  apply KeepsNext.of
  apply State.receive_keeps
  · intro y1 y2
    apply State.rWithdraw_keeps
    exact y2
  · exact h

theorem State.sigOutcome_keeps {a : Bool} {s0 : State} (s : State) (w : Option WickId) (origin : Fin 16) (x : TetherSig) (ok : Bool) (h : Keeps a false s0 s) :
    Keeps a false s0 (State.sigOutcome s w origin x ok) := by
  unfold State.sigOutcome
  split
  · apply State.endRemote_keeps
    exact h
  · split
    · exact h
    · refine Keeps.update (s := s) ?_
      exact h

theorem State.tetherLoss_keeps {a : Bool} {s0 : State} (s : State) (h : Keeps a false s0 s) :
    Keeps a false s0 (State.tetherLoss s) := by
  unfold State.tetherLoss
  split
  · exact h
  · extract_lets z1 z2 z3
    have hz2 : Keeps a false s0 z2 := by
      unfold z2
      refine Keeps.update (s := s) ?_
      exact h
    clear_value z2
    have hz3 : Keeps a false s0 z3 := by
      unfold z3
      apply State.setFld_keeps
      apply State.orReg_keeps
      exact hz2
    clear_value z3
    apply State.raise1_keeps
    exact hz3

theorem State.noteEpoch_keeps {a : Bool} {s0 : State} (s : State) (e : BitVec 8) (h : Keeps a false s0 s) :
    Keeps a false s0 (State.noteEpoch s e) := by
  unfold State.noteEpoch
  extract_lets z1 z2 z3 z4
  have hz2 : Keeps a false s0 z2 := by
    unfold z2
    refine Keeps.update (s := s) ?_
    exact h
  clear_value z2
  have hz3 : Keeps a false s0 z3 := by
    unfold z3
    apply State.setFld_keeps
    apply State.setFld_keeps
    exact hz2
  clear_value z3
  split
  · apply State.setFld_keeps
    exact hz2
  · split
    · exact hz2
    · refine Keeps.update (s := z3) ?_
      exact hz3

theorem State.tSend_keeps {a : Bool} {s0 : State} (s : State) (f : TetherFrame) (h : Keeps a false s0 s) :
    Keeps a false s0 (State.tSend s f) := by
  unfold State.tSend
  refine Keeps.update (s := s) ?_
  exact h

/-- Taking a frame keeps what its action keeps. -/
theorem State.tTake_keeps {a : Bool} {s0 : State} (s : State) (g : TetherHead) (ty : Byte) (ver : Nat)
    (act : State → State × Option TetherAnswer) (hact : ∀ s, Keeps a false s0 s → Keeps a false s0 (act s).1)
    (h : Keeps a false s0 s) : Keeps a false s0 (s.tTake g ty ver act) := by
  unfold State.tTake
  extract_lets s1 s2 s3 q u v
  have h1 : Keeps a false s0 s1 := .cond (State.tetherLoss_keeps _ h) h
  have h2 : Keeps a false s0 s2 := .cond (State.startWake_keeps h1) h1
  have h3 : Keeps a false s0 s3 := State.noteEpoch_keeps _ _ h2
  have hq : Keeps a false s0 q.1 := by
    unfold q
    split
    · exact h3
    · exact hact _ h3
  unfold u v
  clear_value q s3 s2
  refine .cond h2 (.cond (State.setFld_keeps _ _ _ _ _ h2) (.cond h2 ?_))
  split
  · exact State.tSend_keeps _ _ h3
  · split
    · exact hq
    · exact .cond hq (State.tSend_keeps _ _ hq.update)

theorem State.takeConfirm_keeps {a : Bool} {s0 : State} (s : State) (c : BitVec 16) (h : Keeps a false s0 s) :
    Keeps a false s0 (State.takeConfirm s c) := by
  unfold State.takeConfirm
  split
  · apply State.endRemote_keeps
    refine Keeps.update (s := s) ?_
    exact h
  · exact h

theorem execTthPoll_keeps {a : Bool} {s0 : State} (h' : TetherHead) (dly : Option (BitVec 16)) (confirms : List (BitVec 16)) (s : State) (h : Keeps a false s0 s) :
    KeepsNext a false s0 (execTthPoll h' dly confirms s) := by
  unfold execTthPoll
  apply KeepsNext.of
  apply State.tTake_keeps
  · intro y1 y2
    extract_lets z3 z4 z5 z6 z7
    clear_value z3
    have hz5 : Keeps a false s0 z5 := by
      unfold z5
      split
      · apply State.forAll_keeps
        · intro y8 y9 y10
          apply State.takeConfirm_keeps
          exact y10
        · refine Keeps.update (s := y1) ?_
          exact y2
      · exact y2
    clear_value z5
    dsimp only
    split
    · refine Keeps.update (s := z5) ?_
      exact hz5
    · exact hz5
  · exact h

theorem execTthHello_keeps {a : Bool} {s0 : State} (h' : TetherHead) (minVer : BitVec 8) (maxVer : BitVec 8) (s : State) (h : Keeps a false s0 s) :
    KeepsNext a false s0 (execTthHello h' minVer maxVer s) := by
  unfold execTthHello
  apply KeepsNext.of
  apply State.tTake_keeps
  · intro y1 y2
    split
    · exact y2
    · dsimp only
      apply State.setFld_keeps
      exact y2
  · exact h

theorem State.closeSplice_keeps {a b : Bool} {s0 : State} (s : State) (h : Keeps a b s0 s) :
    Keeps a b s0 (State.closeSplice s) := by
  unfold State.closeSplice
  extract_lets z1 z2
  have hz1 : Keeps a b s0 z1 := by
    unfold z1
    apply State.setBit_keeps
    apply State.setBit_keeps
    apply State.setBit_keeps
    exact h
  clear_value z1
  refine Keeps.update (s := z1) ?_
  exact hz1

theorem State.rngCtl_keeps {a b : Bool} {s0 : State} (s : State) (v : Word) (h : Keeps a b s0 s) :
    Keeps a b s0 (State.rngCtl s v) := by
  unfold State.rngCtl
  extract_lets z1
  have hz1 : Keeps a b s0 z1 := by
    unfold z1
    apply State.setReg_keeps
    exact h
  clear_value z1
  split
  · apply State.closeSplice_keeps
    exact hz1
  · exact hz1

theorem execRngCtlWrite_keeps {a b : Bool} {s0 : State} (u_who : Who) (v : Word) (s : State) (h : Keeps a b s0 s) :
    KeepsNext a b s0 (execRngCtlWrite u_who v s) := by
  unfold execRngCtlWrite
  apply KeepsNext.of
  apply State.fab_keeps
  · intro y1 y2
    apply State.rngCtl_keeps
    exact y2
  · exact h

theorem State.giveUp_keeps {a : Bool} {s0 : State} (s : State) (n : Fin 16) (why : TetherWhy) (h : Keeps a false s0 s) :
    Keeps a false s0 (State.giveUp s n why) := by
  unfold State.giveUp
  extract_lets z1 z2
  have hz1 : Keeps a false s0 z1 := by
    unfold z1
    split
    · apply State.raEnd_keeps
      exact h
    · apply State.sigOutcome_keeps
      exact h
    · exact h
  clear_value z1
  have hz2 : Keeps a false s0 z2 := by
    unfold z2
    apply State.setBit_keeps
    apply State.setBit_keeps
    exact hz1
  clear_value z2
  split
  · exact hz1
  · apply State.raise1_keeps
    apply State.orReg_keeps
    exact hz2

theorem State.tKick_keeps {a : Bool} {s0 : State} (l : List (Fin 16)) (s : State) (h : Keeps a false s0 s) :
    Keeps a false s0 (State.tKick l s) := by
  induction l generalizing s with
  | nil =>
    unfold State.tKick
    split
    · exact h
    · exact State.tSend_keeps _ _ h.update
    · exact h
  | cons n l ih =>
    unfold State.tKick
    split
    · exact h
    · exact State.tSend_keeps _ _ h.update
    · dsimp only
      split
      · exact ih _ h.update
      · exact State.tSend_keeps _ _ (Keeps.update h.update)

theorem State.tQueue_keeps {a : Bool} {s0 : State} (s : State) (dst : Fin 16) (b' : TetherBody) (why : TetherWhy) (h : Keeps a false s0 s) :
    Keeps a false s0 (State.tQueue s dst b' why) := by
  unfold State.tQueue
  extract_lets z1 z2
  apply State.tKick_keeps
  refine Keeps.update (s := s) ?_
  exact h

theorem State.relaySig_keeps {a : Bool} {s0 : State} (s : State) (n : Fin 16) (x : TetherSig) (h : Keeps a false s0 s) :
    Keeps a false s0 (State.relaySig s n x) := by
  unfold State.relaySig
  split
  · apply State.sigOutcome_keeps
    apply State.setSignal_keeps
    exact h
  · split
    · apply State.sigOutcome_keeps
      exact h
    · apply State.tQueue_keeps
      exact h

theorem State.timeStepped_keeps {a : Bool} {s0 : State} (s : State) (h : Keeps a false s0 s) :
    Keeps a false s0 (State.timeStepped s) := h.update

theorem State.dropSig_keeps {a : Bool} {s0 : State} (s : State) (w : WickId) (h : Keeps a false s0 s) :
    Keeps a false s0 (State.dropSig s w) := by
  unfold State.dropSig
  extract_lets z1 z2 z3 z4
  refine Keeps.update (s := s) ?_
  exact h

theorem execTetherSigTimeout_keeps {a : Bool} {s0 : State} (w : WickId) (s : State) (h : Keeps a false s0 s) :
    KeepsNext a false s0 (execTetherSigTimeout w s) := by
  unfold execTetherSigTimeout
  apply KeepsNext.of
  split
  · exact h
  · split
    · apply State.endRemote_keeps
      apply State.dropSig_keeps
      exact h
    · exact h

theorem State.portFault_keeps {a b : Bool} {s0 : State} (s : State) (portB : Bool) (h : Keeps a b s0 s) :
    Keeps a b s0 (State.portFault s portB) := by
  unfold State.portFault
  extract_lets z1 z2 z3
  have hz1 : Keeps a b s0 z1 := by
    unfold z1
    apply State.refreshQuiet_keeps
    exact h
  clear_value z1
  have hz3 : Keeps a b s0 z3 := by
    unfold z3
    apply State.setRPort_keeps
    exact hz1
  clear_value z3
  split
  · apply State.raise1_keeps
    apply State.orReg_keeps
    exact hz3
  · exact hz1

theorem execRingLockLoss_keeps {a b : Bool} {s0 : State} (portB : Bool) (s : State) (h : Keeps a b s0 s) :
    KeepsNext a b s0 (execRingLockLoss portB s) := by
  unfold execRingLockLoss
  apply KeepsNext.of
  split
  · exact h
  · apply State.portFault_keeps
    exact h

theorem execSigack_keeps {a : Bool} {s0 : State} (h' : RingArrival) (seq : BitVec 16) (s : State) (h : Keeps a false s0 s) :
    KeepsNext a false s0 (execSigack h' seq s) := by
  unfold execSigack
  apply KeepsNext.of
  apply State.receive_keeps
  · intro y1 y2
    apply State.takeSigack_keeps
    exact y2
  · exact h

theorem execPfclr_keeps {a b : Bool} {s0 : State} (u_who : Who) (s : State) (h : Keeps a b s0 s) :
    KeepsNext a b s0 (execPfclr u_who s) := by
  unfold execPfclr
  apply KeepsNext.of
  apply State.fab_keeps
  · intro y1 y2
    apply State.pfEmpty_keeps
    exact y2
  · exact h

theorem execTetherDelayMeasure_keeps {a : Bool} {s0 : State} (s : State) (h : Keeps a false s0 s) :
    KeepsNext a false s0 (execTetherDelayMeasure s) := by
  unfold execTetherDelayMeasure
  apply KeepsNext.of
  split
  · exact h
  · apply State.forAll_keeps
    · intro y1 y2 y3
      apply State.tQueue_keeps
      exact y3
    · exact h

theorem State.slaveFault_keeps {a : Bool} {s0 : State} (s : State) (n : Fin 16) (v2 : Bool) (r : SlaveReport) (h : Keeps a false s0 s) :
    Keeps a false s0 (State.slaveFault s n v2 r) := by
  unfold State.slaveFault
  extract_lets z1 z2 z3 z4 z5 z6 z7 z8
  have hz5 : Keeps a false s0 z5 := by
    unfold z5
    refine Keeps.update (s := s) ?_
    exact h
  clear_value z5
  have hz7 : Keeps a false s0 z7 := by
    unfold z7
    apply State.raise1_keeps
    apply State.pfEnter_keeps
    exact hz5
  clear_value z7
  split
  · refine Keeps.update (s := s) ?_
    exact h
  · split
    · exact h
    · split
      · refine Keeps.update (s := z7) ?_
        exact hz7
      · exact hz7

theorem State.tBroadcast_keeps {a : Bool} {s0 : State} (s : State) (b' : TetherBody) (h : Keeps a false s0 s) :
    Keeps a false s0 (State.tBroadcast s b') := by
  unfold State.tBroadcast
  extract_lets z1 z2
  apply State.tSend_keeps
  refine Keeps.update (s := s) ?_
  exact h

theorem State.tArrive_keeps {a : Bool} {s0 : State} (s : State) (n : Fin 16) (id : BitVec 8) (h : Keeps a false s0 s) :
    Keeps a false s0 (State.tArrive s n id) := by
  unfold State.tArrive
  extract_lets z1 z2 z3 z4
  have hz4 : Keeps a false s0 z4 := by
    unfold z4
    refine Keeps.update (s := s) ?_
    exact h
  clear_value z4
  split
  · apply State.tBroadcast_keeps
    split
    · apply State.releaseWicks_keeps
      exact hz4
    · exact hz4
  · refine Keeps.update (s := s) ?_
    exact h

theorem State.raAnswer_keeps {a b : Bool} {s0 : State} (s : State) (stat : Nat) (data : Nat) (write : Bool) (st : BitVec 8) (w : Word) (h : Keeps a b s0 s) :
    Keeps a b s0 (State.raAnswer s stat data write st w) := by
  unfold State.raAnswer
  apply State.raEnd_keeps
  split
  · apply State.setReg_keeps
    exact h
  · exact h

theorem State.takeAnswer_keeps {a : Bool} {s0 : State} (s : State) (n : Fin 16) (why : TetherWhy) (a' : TetherAnswer) (h : Keeps a false s0 s) :
    Keeps a false s0 (State.takeAnswer s n why a') := by
  unfold State.takeAnswer
  split
  · extract_lets z1 z2
    have hz2 : Keeps a false s0 z2 := by
      unfold z2
      apply State.setReg_keeps
      exact h
    clear_value z2
    split
    · apply State.orReg_keeps
      exact h
    · split
      · apply State.tQueue_keeps
        exact hz2
      · exact hz2
  · split
    · apply State.orReg_keeps
      exact h
    · exact h
  · extract_lets z3 z4 z5
    clear_value z3
    have hz4 : Keeps a false s0 z4 := by
      unfold z4
      apply State.slaveFault_keeps
      exact h
    clear_value z4
    have hz5 : Keeps a false s0 z5 := by
      unfold z5
      apply State.forAll_keeps
      · intro y6 y7 y8
        split
        · apply State.tArrive_keeps
          exact y8
        · apply State.tWithdraw_keeps
          exact y8
      · exact hz4
    clear_value z5
    split
    · exact hz4
    · split
      · apply State.relaySig_keeps
        exact hz5
      · exact hz5
  · apply State.raAnswer_keeps
    exact h
  · apply State.raAnswer_keeps
    exact h
  · apply State.raAnswer_keeps
    exact h
  · apply State.sigOutcome_keeps
    exact h
  · apply State.sigOutcome_keeps
    exact h
  · apply State.setFld_keeps
    exact h
  · exact h

theorem State.answered_keeps {a : Bool} {s0 : State} (s : State) (src : Fin 16) (tag : BitVec 16) (crcOk : Bool) (a' : TetherAnswer) (h : Keeps a false s0 s) :
    Keeps a false s0 (State.answered s src tag crcOk a') := by
  unfold State.answered
  extract_lets z1 z2
  have hz1 : Keeps a false s0 z1 := by
    unfold z1
    split
    · apply State.startWake_keeps
      exact h
    · exact h
  clear_value z1
  split
  · exact hz1
  · split
    · apply State.setFld_keeps
      exact hz1
    · split
      · split
        · extract_lets z3
          have hz3 : Keeps a false s0 z3 := by
            unfold z3
            apply State.takeAnswer_keeps
            refine Keeps.update (s := z1) ?_
            exact hz1
          clear_value z3
          apply State.tKick_keeps
          exact hz3
        · exact hz1
      · exact hz1

theorem State.endTime_keeps {a : Bool} {s0 : State} (s : State) (h : Keeps a false s0 s) :
    Keeps a false s0 (State.endTime s) := by
  unfold State.endTime
  split
  · exact h.update
  · dsimp only
    split
    · exact State.timeStepped_keeps _ h.update
    · exact h.update

theorem State.enterOwn_keeps {a b : Bool} {s0 : State} (s : State) (h : Keeps a b s0 s) :
    Keeps a b s0 (State.enterOwn s) := by
  unfold State.enterOwn
  extract_lets z1 z2
  apply State.forAll_keeps
  · intro y3 y4 y5
    apply State.pfEnter_keeps
    exact y5
  · refine Keeps.update (s := s) ?_
    exact h

theorem State.endCycle_keeps {a : Bool} {s0 : State} (s : State) (h : Keeps a false s0 s) :
    Keeps a false s0 (State.endCycle s) := by
  unfold State.endCycle
  split
  · apply State.endTime_keeps
    apply State.enterOwn_keeps
    exact h
  · exact h

theorem execTetherAnswerTimeout_keeps {a : Bool} {s0 : State} (s : State) (h : Keeps a false s0 s) :
    KeepsNext a false s0 (execTetherAnswerTimeout s) := by
  unfold execTetherAnswerTimeout
  apply KeepsNext.of
  split
  · exact h
  · split
    · exact h
    · extract_lets z1 z2
      have hz1 : Keeps a false s0 z1 := by
        unfold z1
        apply State.setFld_keeps
        exact h
      clear_value z1
      apply State.tSend_keeps
      refine Keeps.update (s := z1) ?_
      exact hz1
    · extract_lets z3 z4
      have hz4 : Keeps a false s0 z4 := by
        unfold z4
        apply State.giveUp_keeps
        refine Keeps.update (s := s) ?_
        exact h
      clear_value z4
      apply State.tKick_keeps
      exact hz4

theorem execTetherTimeStale_keeps {a b : Bool} {s0 : State} (s : State) (h : Keeps a b s0 s) :
    KeepsNext a b s0 (execTetherTimeStale s) := by
  unfold execTetherTimeStale
  apply KeepsNext.of
  split
  · apply State.setBit_keeps
    exact h
  · exact h

theorem execTthTime_keeps {a : Bool} {s0 : State} (h' : TetherHead) (time : BitVec 64) (synced : Bool) (u_tstep : Bool) (s : State) (h : Keeps a false s0 s) :
    KeepsNext a false s0 (execTthTime h' time synced u_tstep s) := by
  unfold execTthTime
  apply KeepsNext.of
  apply State.tTake_keeps
  · intro y1 y2
    split
    · exact y2
    · extract_lets z3 z4
      have hz4 : Keeps a false s0 z4 := by
        unfold z4
        apply State.setTime_keeps
        exact y2
      clear_value z4
      dsimp only
      apply State.setBit_keeps
      exact hz4
  · exact h

theorem State.sigRing_keeps {a b : Bool} {s0 : State} (s : State) (w : WickId) (node : BitVec 6) (tw : WickId) (n : Fin 16) (h : Keeps a b s0 s) :
    Keeps a b s0 (State.sigRing s w node tw n).1 := by
  unfold State.sigRing
  split
  · exact h
  · split
    · dsimp only
      apply State.setSignal_keeps
      exact h
    · extract_lets z1 z2 z3
      have hz2 : Keeps a b s0 z2 := by
        unfold z2
        apply State.rSend_keeps
        exact h
      clear_value z2
      dsimp only
      refine Keeps.update (s := z2) ?_
      exact hz2

theorem execSpliceOpen_keeps {a b : Bool} {s0 : State} (s : State) (h : Keeps a b s0 s) :
    KeepsNext a b s0 (execSpliceOpen s) := by
  unfold execSpliceOpen
  apply KeepsNext.of
  split
  · exact h
  · apply State.setBit_keeps
    exact h

theorem execRingTimeSend_keeps {a b : Bool} {s0 : State} (s : State) (h : Keeps a b s0 s) :
    KeepsNext a b s0 (execRingTimeSend s) := by
  unfold execRingTimeSend
  apply KeepsNext.of
  split
  · exact h
  · extract_lets z1 z2
    have hz1 : Keeps a b s0 z1 := by
      unfold z1
      apply State.rSend_keeps
      exact h
    clear_value z1
    refine Keeps.update (s := z1) ?_
    exact hz1

theorem State.takeDresp_keeps {a b : Bool} {s0 : State} (s : State) (portB : Bool) (residencePs : Nat) (roundTripPs : Nat) (h : Keeps a b s0 s) :
    Keeps a b s0 (State.takeDresp s portB residencePs roundTripPs) := by
  unfold State.takeDresp
  extract_lets z1 z2 z3 z4 z5 z6 z7
  have hz5 : Keeps a b s0 z5 := by
    unfold z5
    refine Keeps.update (s := s) ?_
    exact h
  clear_value z5
  split
  · exact hz5
  · apply State.setReg_keeps
    exact hz5

theorem execRingLockGain_keeps {a b : Bool} {s0 : State} (portB : Bool) (s : State) (h : Keeps a b s0 s) :
    KeepsNext a b s0 (execRingLockGain portB s) := by
  unfold execRingLockGain
  apply KeepsNext.of
  split
  · exact h
  · apply State.setRPort_keeps
    apply State.setBit_keeps
    exact h

theorem execTetherDiscovery_keeps {a : Bool} {s0 : State} (s : State) (h : Keeps a false s0 s) :
    KeepsNext a false s0 (execTetherDiscovery s) := by
  unfold execTetherDiscovery
  apply KeepsNext.of
  split
  · exact h
  · apply State.forAll_keeps
    · intro y1 y2 y3
      apply State.tQueue_keeps
      exact y3
    · exact h

theorem execRingLockDrop_keeps {a b : Bool} {s0 : State} (portB : Bool) (s : State) (h : Keeps a b s0 s) :
    KeepsNext a b s0 (execRingLockDrop portB s) := by
  unfold execRingLockDrop
  apply KeepsNext.of
  apply State.lockDrop_keeps
  exact h

theorem State.rNext_keeps {a b : Bool} {s0 : State} (s : State) (portB : Bool) (h : Keeps a b s0 s) :
    Keeps a b s0 (State.rNext s portB) := by
  unfold State.rNext
  extract_lets z1
  split
  · split
    · apply State.rStart_keeps
      exact h
    · exact h
  · exact h

theorem State.rLink_keeps {a b : Bool} {s0 : State} (s : State) (portB : Bool) (b' : RingBody) (h : Keeps a b s0 s) :
    Keeps a b s0 (State.rLink s portB b') := by
  unfold State.rLink
  split
  · apply State.takeSeq_keeps
    apply State.rOut_keeps
    exact h
  · exact h

theorem execRingDelayTimer_keeps {a b : Bool} {s0 : State} (s : State) (h : Keeps a b s0 s) :
    KeepsNext a b s0 (execRingDelayTimer s) := by
  unfold execRingDelayTimer
  apply KeepsNext.of
  apply State.rLink_keeps
  apply State.rLink_keeps
  exact h

theorem State.sigTether_keeps {a : Bool} {s0 : State} (s : State) (w : WickId) (x : TetherSig) (h : Keeps a false s0 s) :
    Keeps a false s0 (State.sigTether s w x).1 := by
  unfold State.sigTether
  split
  · dsimp only
    apply State.setSignal_keeps
    exact h
  · split
    · dsimp only
      refine Keeps.update (s := s) ?_
      exact h
    · split
      · exact h
      · dsimp only
        apply State.tQueue_keeps
        exact h

theorem execLanternSend_keeps {a b : Bool} {s0 : State} (s : State) (h : Keeps a b s0 s) :
    KeepsNext a b s0 (execLanternSend s) := by
  unfold execLanternSend
  apply KeepsNext.of
  split
  · exact h
  · extract_lets z1 z2 z3 z4 z5
    have hz2 : Keeps a b s0 z2 := by
      unfold z2
      refine Keeps.update (s := s) ?_
      exact h
    clear_value z2
    have hz4 : Keeps a b s0 z4 := by
      unfold z4
      apply State.rSend_keeps
      exact hz2
    clear_value z4
    split
    · exact hz2
    · refine Keeps.update (s := z4) ?_
      exact hz4

theorem execTetherTimeSend_keeps {a : Bool} {s0 : State} (s : State) (h : Keeps a false s0 s) :
    KeepsNext a false s0 (execTetherTimeSend s) := by
  unfold execTetherTimeSend
  apply KeepsNext.of
  split
  · exact h
  · extract_lets z1 z2
    have hz1 : Keeps a false s0 z1 := by
      unfold z1
      apply State.tBroadcast_keeps
      exact h
    clear_value z1
    refine Keeps.update (s := z1) ?_
    exact hz1

theorem execSyncLossTimeout_keeps {a b : Bool} {s0 : State} (s : State) (h : Keeps a b s0 s) :
    KeepsNext a b s0 (execSyncLossTimeout s) := by
  unfold execSyncLossTimeout
  apply KeepsNext.of
  split
  · exact h
  · apply State.loseSync_keeps
    exact h

theorem execTetherLoss_keeps {a : Bool} {s0 : State} (s : State) (h : Keeps a false s0 s) :
    KeepsNext a false s0 (execTetherLoss s) := by
  unfold execTetherLoss
  apply KeepsNext.of
  apply State.tetherLoss_keeps
  exact h

theorem State.takeResp_keeps {a b : Bool} {s0 : State} (s : State) (seq : BitVec 16) (status : BitVec 8) (word : Word) (h : Keeps a b s0 s) :
    Keeps a b s0 (State.takeResp s seq status word) := by
  unfold State.takeResp
  split
  · split
    · apply State.raAnswer_keeps
      refine Keeps.update (s := s) ?_
      exact h
    · exact h
  · exact h

theorem execTset_keeps {a b : Bool} {s0 : State} (u_who : Who) (s : State) (h : Keeps a b s0 s) :
    KeepsNext a b s0 (execTset u_who s) := by
  unfold execTset
  apply KeepsNext.of
  apply State.fab_keeps
  · intro y1 y2
    apply State.tset_keeps
    exact y2
  · exact h

theorem execTetherAnswer_keeps {a : Bool} {s0 : State} (src : Fin 16) (tag : BitVec 16) (crcOk : Bool) (a' : TetherAnswer) (co : List LinkEvent) (s : State) (h : Keeps a false s0 s) :
    KeepsNext a false s0 (execTetherAnswer src tag crcOk a' co s) := by
  unfold execTetherAnswer
  apply KeepsNext.of
  apply State.linkEvents_keeps
  apply State.answered_keeps
  apply State.linkEvents_keeps
  exact h

theorem execTthRelease_keeps {a : Bool} {s0 : State} (h' : TetherHead) (id : BitVec 8) (s : State) (h : Keeps a false s0 s) :
    KeepsNext a false s0 (execTthRelease h' id s) := by
  unfold execTthRelease
  apply KeepsNext.of
  apply State.tTake_keeps
  · intro y1 y2
    dsimp only
    apply State.releaseWicks_keeps
    exact y2
  · exact h

theorem execRingSigTimeout_keeps {a : Bool} {s0 : State} (w : WickId) (s : State) (h : Keeps a false s0 s) :
    KeepsNext a false s0 (execRingSigTimeout w s) := by
  unfold execRingSigTimeout
  apply KeepsNext.of
  split
  · apply State.endRemote_keeps
    apply State.dropSig_keeps
    exact h
  · exact h

theorem execPollRound_keeps {a : Bool} {s0 : State} (s : State) (h : Keeps a false s0 s) :
    KeepsNext a false s0 (execPollRound s) := by
  unfold execPollRound
  apply KeepsNext.of
  split
  · exact h
  · extract_lets z1 z2
    apply State.tKick_keeps
    refine Keeps.update (s := s) ?_
    exact h

theorem execRingSig_keeps {a : Bool} {s0 : State} (h' : RingArrival) (w : WickId) (n : Fin 16) (s : State) (h : Keeps a false s0 s) :
    KeepsNext a false s0 (execRingSig h' w n s) := by
  unfold execRingSig
  apply KeepsNext.of
  apply State.receive_keeps
  · intro y1 y2
    apply State.takeRingSig_keeps
    exact y2
  · exact h

theorem execRingRaTimeout_keeps {a b : Bool} {s0 : State} (s : State) (h : Keeps a b s0 s) :
    KeepsNext a b s0 (execRingRaTimeout s) := by
  unfold execRingRaTimeout
  apply KeepsNext.of
  split
  · apply State.raEnd_keeps
    refine Keeps.update (s := s) ?_
    exact h
  · exact h

theorem execPfclear_keeps {a : Bool} {s0 : State} (h' : RingArrival) (tc : BitVec 64) (s : State) (h : Keeps a false s0 s) :
    KeepsNext a false s0 (execPfclear h' tc s) := by
  unfold execPfclear
  apply KeepsNext.of
  apply State.receive_keeps
  · intro y1 y2
    apply State.pfClearTo_keeps
    exact y2
  · exact h

theorem execArrive_keeps {a : Bool} {s0 : State} (h' : RingArrival) (id : BitVec 8) (s : State) (h : Keeps a false s0 s) :
    KeepsNext a false s0 (execArrive h' id s) := by
  unfold execArrive
  apply KeepsNext.of
  apply State.receive_keeps
  · intro y1 y2
    apply State.rArrive_keeps
    exact y2
  · exact h

theorem execDreq_keeps {a : Bool} {s0 : State} (h' : RingArrival) (s : State) (h : Keeps a false s0 s) :
    KeepsNext a false s0 (execDreq h' s) := by
  unfold execDreq
  apply KeepsNext.of
  apply State.receive_keeps
  · intro y1 y2
    apply State.draw_keeps
    apply State.rLink_keeps
    exact y2
  · exact h

theorem execTimeMasterTakeover_keeps {a b : Bool} {s0 : State} (s : State) (h : Keeps a b s0 s) :
    KeepsNext a b s0 (execTimeMasterTakeover s) := by
  unfold execTimeMasterTakeover
  apply KeepsNext.of
  split
  · exact h
  · apply State.setFld_keeps
    apply State.setBit_keeps
    apply State.setBit_keeps
    exact h

theorem execLanternRepeat_keeps {a b : Bool} {s0 : State} (s : State) (h : Keeps a b s0 s) :
    KeepsNext a b s0 (execLanternRepeat s) := by
  unfold execLanternRepeat
  apply KeepsNext.of
  split
  · exact h
  · extract_lets z1 z2
    have hz2 : Keeps a b s0 z2 := by
      unfold z2
      refine Keeps.update (s := s) ?_
      exact h
    clear_value z2
    split
    · apply State.rBoth_keeps
      exact hz2
    · exact hz2

theorem execDresp_keeps {a : Bool} {s0 : State} (h' : RingArrival) (residencePs : Nat) (roundTripPs : Nat) (s : State) (h : Keeps a false s0 s) :
    KeepsNext a false s0 (execDresp h' residencePs roundTripPs s) := by
  unfold execDresp
  apply KeepsNext.of
  apply State.receive_keeps
  · intro y1 y2
    apply State.takeDresp_keeps
    exact y2
  · exact h

theorem execRingCrcFailure_keeps {a b : Bool} {s0 : State} (portB : Bool) (frame : List Byte) (s : State) (h : Keeps a b s0 s) :
    KeepsNext a b s0 (execRingCrcFailure portB frame s) := by
  unfold execRingCrcFailure
  apply KeepsNext.of
  split
  · exact h
  · extract_lets z1 z2 z3 z4 z5
    have hz1 : Keeps a b s0 z1 := by
      unfold z1
      apply State.startWake_keeps
      exact h
    clear_value z1
    have hz2 : Keeps a b s0 z2 := by
      unfold z2
      split
      · apply State.rOut_keeps
        exact hz1
      · exact hz1
    clear_value z2
    have hz3 : Keeps a b s0 z3 := by
      unfold z3
      apply State.setFld_keeps
      exact hz2
    clear_value z3
    split
    · apply State.portFault_keeps
      apply State.setRPort_keeps
      exact hz3
    · apply State.setRPort_keeps
      exact hz3

theorem execLantern_keeps {a : Bool} {s0 : State} (h' : RingArrival) (l : Lantern) (s : State) (h : Keeps a false s0 s) :
    KeepsNext a false s0 (execLantern h' l s) := by
  unfold execLantern
  apply KeepsNext.of
  apply State.receive_keeps
  · intro y1 y2
    apply State.takeLantern_keeps
    exact y2
  · exact h

theorem State.tthGo_keeps {a : Bool} {s0 : State} (s : State) (write : Bool) (target : BitVec 6) (h : Keeps a false s0 s) :
    Keeps a false s0 (State.tthGo s write target).1 := by
  unfold State.tthGo
  split
  · dsimp only
    apply State.orReg_keeps
    exact h
  · split
    · dsimp only
      apply State.raEnd_keeps
      exact h
    · extract_lets z1 z2
      split
      · dsimp only
        apply State.raEnd_keeps
        exact h
      · dsimp only
        apply State.tQueue_keeps
        apply State.setBit_keeps
        exact h

theorem execResp_keeps {a : Bool} {s0 : State} (h' : RingArrival) (seq : BitVec 16) (status : BitVec 8) (word : Word) (s : State) (h : Keeps a false s0 s) :
    KeepsNext a false s0 (execResp h' seq status word s) := by
  unfold execResp
  apply KeepsNext.of
  apply State.receive_keeps
  · intro y1 y2
    apply State.takeResp_keeps
    exact y2
  · exact h

theorem execRingTime_keeps {a : Bool} {s0 : State} (h' : RingArrival) (time : BitVec 64) (corrPs : Int) (tstep : Bool) (s : State) (h : Keeps a false s0 s) :
    KeepsNext a false s0 (execRingTime h' time corrPs tstep s) := by
  unfold execRingTime
  apply KeepsNext.of
  apply State.receive_keeps
  · intro y1 y2
    apply State.takeTime_keeps
    exact y2
  · exact h

theorem State.barrierArrive_keeps {a : Bool} {s0 : State} (s : State) (ring : Bool) (id : BitVec 8) (h : Keeps a false s0 s) :
    Keeps a false s0 (State.barrierArrive s ring id) := by
  unfold State.barrierArrive
  split
  · exact h
  · split
    · split
      · apply State.rArrive_keeps
        apply State.rSend_keeps
        exact h
      · exact h
    · split
      · exact h
      · split
        · apply State.tEvent_keeps
          exact h
        · apply State.tArrive_keeps
          exact h

theorem execTthGo_keeps {a : Bool} {s0 : State} (u_who : Who) (write : Bool) (target : BitVec 6) (s : State) (h : Keeps a false s0 s) :
    KeepsNext a false s0 (execTthGo u_who write target s) := by
  unfold execTthGo
  apply KeepsNext.of
  apply State.fab_keeps
  · intro y1 y2
    apply State.tthGo_keeps
    exact y2
  · exact h

theorem execTthTdly_keeps {a : Bool} {s0 : State} (h' : TetherHead) (s : State) (h : Keeps a false s0 s) :
    KeepsNext a false s0 (execTthTdly h' s) := by
  unfold execTthTdly
  apply KeepsNext.of
  apply State.tTake_keeps
  · intro y1 y2
    exact y2
  · exact h

theorem execTthSig_keeps {a : Bool} {s0 : State} (h' : TetherHead) (w : WickId) (n : Fin 16) (s : State) (h : Keeps a false s0 s) :
    KeepsNext a false s0 (execTthSig h' w n s) := by
  unfold execTthSig
  apply KeepsNext.of
  apply State.tTake_keeps
  · intro y1 y2
    dsimp only
    apply State.setSignal_keeps
    exact y2
  · exact h

theorem execPfclrall_keeps {a b : Bool} {s0 : State} (u_who : Who) (s : State) (h : Keeps a b s0 s) :
    KeepsNext a b s0 (execPfclrall u_who s) := by
  unfold execPfclrall
  apply KeepsNext.of
  apply State.fab_keeps
  · intro y1 y2
    apply State.pfClrAll_keeps
    exact y2
  · exact h

end Sys2Proof.Machine
end

