-- ==== Sys2Proof/Laws/KeepsStore.lean ====
section
/-! SUPPORT. What each operation of `Machine/Store.lean` keeps: one lemma per operation that answers a state. -/

set_option Elab.async false

namespace Sys2Proof.Machine

theorem State.increment_keeps {a : Bool} {s0 : State} (s : State) (n : Nat) (h : Keeps a false s0 s) :
    Keeps a false s0 (State.increment s n) := by
  unfold State.increment
  extract_lets z1 z2 z3
  have hz3 : Keeps a false s0 z3 := by
    unfold z3
    apply State.pokeByte_keeps
    exact h
  clear_value z3
  split
  · apply State.orReg_keeps
    exact h
  · split
    · apply State.poke_keeps
      apply State.poke_keeps
      exact hz3
    · exact hz3

theorem execCounterIncrement_keeps {a : Bool} {s0 : State} (s : State) (h : Keeps a false s0 s) :
    KeepsNext a false s0 (execCounterIncrement s) := by
  unfold execCounterIncrement
  apply KeepsNext.of
  split
  · exact h
  · split
    · exact h
    · apply State.increment_keeps
      refine Keeps.update (s := s) ?_
      exact h

theorem State.zeroCounter_keeps {a : Bool} {s0 : State} (s : State) (n : Nat) (h : Keeps a false s0 s) :
    Keeps a false s0 (State.zeroCounter s n) := by
  unfold State.zeroCounter
  apply State.poke_keeps
  apply State.poke_keeps
  apply State.poke_keeps
  exact h

theorem State.cntInit_keeps {a : Bool} {s0 : State} (s : State) (n : Fin 32) (h : Keeps a false s0 s) :
    Keeps a false s0 (State.cntInit s n).1 := by
  unfold State.cntInit
  split
  · dsimp only
    apply State.orReg_keeps
    exact h
  · split
    · exact h
    · dsimp only
      apply State.zeroCounter_keeps
      exact h

theorem execInit_keeps {a : Bool} {s0 : State} (u_who : Who) (n : Fin 32) (s : State) (h : Keeps a false s0 s) :
    KeepsNext a false s0 (execInit u_who n s) := by
  unfold execInit
  apply KeepsNext.of
  apply State.fab_keeps
  · intro y1 y2
    apply State.cntInit_keeps
    exact y2
  · exact h

theorem State.storeNext_keeps {a b : Bool} {s0 : State} (n : Nat) (s : State) (h : Keeps a b s0 s) :
    Keeps a b s0 (State.storeNext n s) := by
  induction n generalizing s with
  | zero =>
    unfold State.storeNext
    split
    · exact h
    · rename_i j hj
      have hset : ∀ k : StoreRun, k.cur = j.cur → Keeps a b s0 (s.setRun (some k)) := fun k hk =>
        h.updateRun _ (fun c i hi => by cases hi; rw [hk]; exact c.page j hj)
      extract_lets first j2 k2
      split
      · exact h
      have h2 : j2.cur = j.cur := by unfold j2; split <;> rfl
      clear_value j2
      split
      · refine .cond (hset _ h2) (h.updateRun _ (fun c i hi x hx => ?_))
        cases hi
        cases hx
        exact c.sram.pageOf _
      · extract_lets u
        exact .cond (hset _ h2) (.cond (hset _ h2) (hset _ h2))
  | succ n ih =>
    unfold State.storeNext
    split
    · exact h
    · rename_i j hj
      have hset : ∀ k : StoreRun, k.cur = j.cur → Keeps a b s0 (s.setRun (some k)) := fun k hk =>
        h.updateRun _ (fun c i hi => by cases hi; rw [hk]; exact c.page j hj)
      extract_lets first j2 k2
      split
      · exact h
      have h2 : j2.cur = j.cur := by unfold j2; split <;> rfl
      clear_value j2
      split
      · refine .cond (hset _ h2) (h.updateRun _ (fun c i hi x hx => ?_))
        cases hi
        cases hx
        exact c.sram.pageOf _
      · extract_lets u
        exact .cond (hset _ h2) (.cond (hset _ h2) (ih _ (hset _ h2)))

theorem State.noteStored_keeps {a b : Bool} {s0 : State} (s : State) (k : Nat) (h : Keeps a b s0 s) :
    Keeps a b s0 (State.noteStored s k) := by
  unfold State.noteStored
  split
  · apply State.setBit_keeps
    exact h
  · exact h

theorem State.setRun_keeps {a b : Bool} {s0 : State} (s : State) (j : Option StoreRun) (h : Keeps a b s0 s)
    (hj : s.Canonical → ∀ k, j = some k → ∀ c, k.cur = some c → Memory.wf factoryByte c.2) :
    Keeps a b s0 (s.setRun j) := h.updateRun _ hj

theorem State.tear_keeps {s0 : State} (s : State) (h : Keeps false false s0 s) : Keeps false false s0 s.tear := by
  unfold State.tear
  split
  · refine State.draw_keeps _ (h.trans ⟨rfl, rfl, fun c => ?_, fun h => (nomatch h), fun h => nomatch h⟩)
    exact ⟨c.regs, c.sram, c.shadow.setPage (MapWf.pageFrom _ _) _, c.tlmMem, c.imem, c.page⟩
  · exact h

theorem State.pageDone_keeps {s0 : State} (s : State) (verified : Bool) (h : Keeps false false s0 s) :
    Keeps false false s0 (s.pageDone verified) := by
  unfold State.pageDone
  split
  · rename_i hrun
    dsimp only
    split
    · refine State.storeNext_keeps _ _ (State.noteStored_keeps _ _ (h.trans ⟨rfl, rfl, fun c => ?_, fun h => (nomatch h),
        fun h => nomatch h⟩))
      refine ⟨c.regs, c.sram, c.shadow.setPage (c.page _ hrun _ rfl) _, c.tlmMem, c.imem, fun j hj x hx => ?_⟩
      cases hj
      cases hx
    · refine State.storeNext_keeps _ _ (State.raise1_keeps _ _ (State.orReg_keeps _ _ _ (Keeps.update (State.mark_keeps _
        (State.setRun_keeps _ _ (State.tear_keeps _ h) (fun _ j hj x hx => ?_))))))
      cases hj
      cases hx
  · exact h

theorem State.kpsStore_keeps {a b : Bool} {s0 : State} (s : State) (h : Keeps a b s0 s) :
    Keeps a b s0 (State.kpsStore s) := by
  unfold State.kpsStore
  apply State.requestStore_keeps
  exact h

theorem State.setLastStore_keeps {a b : Bool} {s0 : State} (s : State) (pages : Nat) (us : Nat) (h : Keeps a b s0 s) :
    Keeps a b s0 (State.setLastStore s pages us) := by
  unfold State.setLastStore
  apply State.setReg_keeps
  exact h

theorem State.armAutosave_keeps {a b : Bool} {s0 : State} (s : State) (h : Keeps a b s0 s) :
    Keeps a b s0 (State.armAutosave s) := by
  unfold State.armAutosave
  refine Keeps.update (s := s) ?_
  exact h

theorem execAutosave_keeps {a b : Bool} {s0 : State} (s : State) (h : Keeps a b s0 s) :
    KeepsNext a b s0 (execAutosave s) := by
  unfold execAutosave
  apply KeepsNext.of
  split
  · exact h
  · split
    · apply State.armAutosave_keeps
      exact h
    · apply State.requestStore_keeps
      refine Keeps.update (s := s) ?_
      exact h

theorem State.sealRec_keeps {a : Bool} {s0 : State} (s : State) (slot : Nat) (h : Keeps a false s0 s) :
    Keeps a false s0 (State.sealRec s slot) := by
  unfold State.sealRec
  apply State.poke_keeps
  exact h

theorem State.rewriteHeader_keeps {a : Bool} {s0 : State} (s : State) (h : Keeps a false s0 s) :
    Keeps a false s0 (State.rewriteHeader s) := by
  unfold State.rewriteHeader
  extract_lets z1 z2 z3 z4
  have hz2 : Keeps a false s0 z2 := by
    unfold z2
    apply State.sealRec_keeps
    apply State.poke_keeps
    exact h
  clear_value z2
  have hz3 : Keeps a false s0 z3 := by
    unfold z3
    apply State.setBit_keeps
    exact hz2
  clear_value z3
  refine Keeps.update (s := z3) ?_
  exact hz3

theorem execHeaderRewrite_keeps {a : Bool} {s0 : State} (s : State) (h : Keeps a false s0 s) :
    KeepsNext a false s0 (execHeaderRewrite s) := by
  unfold execHeaderRewrite
  refine .of ?_
  have h1 := State.rewriteHeader_keeps s h
  extract_lets wait s1 crit fl s2 s3
  have h1 : Keeps a false s0 s1 := h1
  have h2 : Keeps a false s0 s2 := h1.update
  have h3 : Keeps a false s0 s3 := by
    unfold s3
    split
    · exact State.requestStore_keeps _ _ _ h2
    · exact h2
  clear_value s3
  split
  · exact h
  split
  · rename_i j hj
    split
    · refine State.storeNext_keeps _ _ (State.setRun_keeps _ _ h3 (fun c i hi x hx => ?_))
      cases hi
      exact c.page j hj x hx
    · exact h3
  · exact h3

theorem execStore_keeps {a b : Bool} {s0 : State} (u_who : Who) (s : State) (h : Keeps a b s0 s) :
    KeepsNext a b s0 (execStore u_who s) := by
  unfold execStore
  apply KeepsNext.of
  apply State.fab_keeps
  · intro y1 y2
    apply State.kpsStore_keeps
    exact y2
  · exact h

theorem execStoreShadowReady_keeps {a b : Bool} {s0 : State} (s : State) (h : Keeps a b s0 s) :
    KeepsNext a b s0 (execStoreShadowReady s) := by
  unfold execStoreShadowReady
  refine .of ?_
  split
  · rename_i j hj
    split
    · exact h
    · refine State.storeNext_keeps _ _ (State.setRun_keeps _ _ h (fun c i hi x hx => ?_))
      cases hi
      exact c.page j hj x hx
  · exact h

theorem execStorePageDone_keeps {s0 : State} (verified : Bool) (s : State) (h : Keeps false false s0 s) :
    KeepsNext false false s0 (execStorePageDone verified s) := by
  unfold execStorePageDone
  apply KeepsNext.of
  split
  · apply State.pageDone_keeps
    exact h
  · exact h

theorem State.endStore_keeps {a b : Bool} {s0 : State} (s : State) (j : StoreRun) (h : Keeps a b s0 s) :
    Keeps a b s0 (s.endStore j) := by
  unfold State.endStore
  have h1 := State.armAutosave_keeps _ (State.count_keeps _ 3 (State.setLastStore_keeps _ j.written
    ((s.cycle - j.startAt) / 100) (State.setRun_keeps s none h (fun _ _ hi => nomatch hi))))
  extract_lets s1 s2
  have h1 : Keeps a b s0 s2 := h1
  clear_value s2
  split
  · exact h1
  · exact State.beginStore_keeps _ _ _ h1.update

theorem State.kpsStoreAll_keeps {a b : Bool} {s0 : State} (s : State) (h : Keeps a b s0 s) :
    Keeps a b s0 (State.kpsStoreAll s) := by
  unfold State.kpsStoreAll
  apply State.requestStore_keeps
  exact h

theorem State.newRecord_keeps {a : Bool} {s0 : State} (s : State) (magic : Word) (body : List Byte) (isOpen : Bool) (h : Keeps a false s0 s) :
    Keeps a false s0 (State.newRecord s magic body isOpen) := by
  unfold State.newRecord
  extract_lets z1 z2 z3 z4 z5 z6 z7
  have hz4 : Keeps a false s0 z4 := by
    unfold z4
    apply State.poke_keeps
    exact h
  clear_value z4
  have hz5 : Keeps a false s0 z5 := by
    unfold z5
    apply State.sealRec_keeps
    exact hz4
  clear_value z5
  have hz7 : Keeps a false s0 z7 := by
    unfold z7
    refine Keeps.update (s := z5) ?_
    exact hz5
  clear_value z7
  apply State.setReg_keeps
  apply State.setReg_keeps
  exact hz7

theorem State.openEvent_keeps {a : Bool} {s0 : State} (s : State) (h : Keeps a false s0 s) :
    Keeps a false s0 (State.openEvent s) := by
  unfold State.openEvent
  apply State.count_keeps
  apply State.newRecord_keeps
  exact h

theorem State.appendEntry_keeps {a : Bool} {s0 : State} (s : State) (e : List Byte) (h : Keeps a false s0 s) :
    Keeps a false s0 (State.appendEntry s e) := by
  unfold State.appendEntry
  extract_lets z1 z2 z3 z4
  clear_value z1
  have hz2 : Keeps a false s0 z2 := by
    unfold z2
    split
    · exact h
    · apply State.openEvent_keeps
      exact h
  clear_value z2
  apply State.sealRec_keeps
  apply State.poke_keeps
  apply State.poke_keeps
  exact hz2

theorem State.startPowerFailStore_keeps {a b : Bool} {s0 : State} (s : State) (h : Keeps a b s0 s) :
    Keeps a b s0 s.startPowerFailStore := by
  unfold State.startPowerFailStore
  extract_lets k s1
  have h1 : Keeps a b s0 s1 := h.update
  split
  · exact State.beginStore_keeps _ _ _ h1
  · rename_i j hj
    refine State.storeNext_keeps _ _ (h1.updateRun _ (fun c i hi x hx => ?_))
    cases hi
    exact c.page j hj x hx

theorem State.cntInc_keeps {a b : Bool} {s0 : State} (s : State) (n : Fin 32) (h : Keeps a b s0 s) :
    Keeps a b s0 (State.cntInc s n).1 := by
  unfold State.cntInc
  split
  · dsimp only
    apply State.orReg_keeps
    exact h
  · dsimp only
    apply State.count_keeps
    exact h

theorem execStoreall_keeps {a b : Bool} {s0 : State} (u_who : Who) (s : State) (h : Keeps a b s0 s) :
    KeepsNext a b s0 (execStoreall u_who s) := by
  unfold execStoreall
  apply KeepsNext.of
  apply State.fab_keeps
  · intro y1 y2
    apply State.kpsStoreAll_keeps
    exact y2
  · exact h

theorem execLogEntryWrite_keeps {a : Bool} {s0 : State} (s : State) (h : Keeps a false s0 s) :
    KeepsNext a false s0 (execLogEntryWrite s) := by
  unfold execLogEntryWrite
  apply KeepsNext.of
  split
  · exact h
  · split
    · extract_lets z1 z2
      have hz2 : Keeps a false s0 z2 := by
        unfold z2
        apply State.setBit_keeps
        refine Keeps.update (s := s) ?_
        exact h
      clear_value z2
      apply State.appendEntry_keeps
      exact hz2
    · split
      · split
        · split
          · apply State.appendEntry_keeps
            apply State.setWk_keeps
            exact h
          · exact h
        · apply State.appendEntry_keeps
          refine Keeps.update (s := s) ?_
          exact h
      · apply State.appendEntry_keeps
        apply State.setWk_keeps
        exact h
      · exact h

theorem execInc_keeps {a b : Bool} {s0 : State} (u_who : Who) (n : Fin 32) (s : State) (h : Keeps a b s0 s) :
    KeepsNext a b s0 (execInc u_who n s) := by
  unfold execInc
  apply KeepsNext.of
  apply State.fab_keeps
  · intro y1 y2
    apply State.cntInc_keeps
    exact y2
  · exact h

theorem execVholdCrossing_keeps {a b : Bool} {s0 : State} (rising : Bool) (s : State) (h : Keeps a b s0 s) :
    KeepsNext a b s0 (execVholdCrossing rising s) := by
  unfold execVholdCrossing
  apply KeepsNext.of
  split
  · exact h
  · exact h
  · apply State.setBit_keeps
    exact h

theorem execEmberComplete_keeps {a : Bool} {s0 : State} (s : State) (h : Keeps a false s0 s) :
    KeepsNext a false s0 (execEmberComplete s) := by
  unfold execEmberComplete
  apply KeepsNext.of
  split
  · exact h
  · split
    · exact h
    · extract_lets z1 z2 z3 z4 z5 z6
      have hz2 : Keeps a false s0 z2 := by
        unfold z2
        apply State.count_keeps
        apply State.newRecord_keeps
        exact h
      clear_value z2
      have hz3 : Keeps a false s0 z3 := by
        unfold z3
        apply State.setFld_keeps
        apply State.setReg_keeps
        exact hz2
      clear_value z3
      clear_value z4
      have hz6 : Keeps a false s0 z6 := by
        unfold z6
        refine Keeps.update (s := z3) ?_
        exact hz3
      clear_value z6
      apply State.storeNext_keeps
      split
      · apply State.requestStore_keeps
        exact hz6
      · exact hz6

end Sys2Proof.Machine
end

