-- ==== Sys2Proof/Laws/KeepsReserve.lean ====
section
/-! SUPPORT. What each operation of `Machine/Reserve.lean` keeps: one lemma per operation that answers a state. -/

set_option Elab.async false

namespace Sys2Proof.Machine

theorem RsvCyc.s_keeps {a b : Bool} {s0 : State} (self : RsvCyc) (h : Keeps a b s0 self.s) :
    Keeps a b s0 (RsvCyc.s self) := by
  unfold RsvCyc.s
  exact h

theorem RsvCyc.with_keeps {a b : Bool} {s0 : State} (c : RsvCyc) (n : Nat) (f : State → State)
    (hf : ∀ s, Keeps a b s0 s → Keeps a b s0 (f s)) (h : Keeps a b s0 c.s) : Keeps a b s0 (c.with n f).s := hf _ h

theorem State.setRsv_keeps {a b : Bool} {s0 : State} (s : State) (v : Reserve) (h : Keeps a b s0 s) :
    Keeps a b s0 (State.setRsv s v) := by
  unfold State.setRsv
  refine Keeps.update (s := s) ?_
  exact h

theorem State.pairOff_keeps {a b : Bool} {s0 : State} (s : State) (h : Keeps a b s0 s) :
    Keeps a b s0 (State.pairOff s) := by
  unfold State.pairOff
  apply State.setRsv_keeps
  exact h

theorem State.tripPair_keeps {a b : Bool} {s0 : State} (s : State) (flag : Nat) (h : Keeps a b s0 s) :
    Keeps a b s0 (State.tripPair s flag) := by
  unfold State.tripPair
  extract_lets z1 z2 z3 z4
  have hz2 : Keeps a b s0 z2 := by
    unfold z2
    apply State.pairOff_keeps
    exact h
  clear_value z2
  have hz4 : Keeps a b s0 z4 := by
    unfold z4
    apply State.setRsv_keeps
    exact hz2
  clear_value z4
  apply State.orReg_keeps
  exact hz4

theorem RsvCyc.trip_keeps {a b : Bool} {s0 : State} (c : RsvCyc) (flag : Nat) (h : Keeps a b s0 c.s) :
    Keeps a b s0 (RsvCyc.trip c flag).s := by
  unfold RsvCyc.trip
  extract_lets z1
  have hz1 : Keeps a b s0 z1.s := by
    unfold z1
    apply RsvCyc.with_keeps
    · intro y2 y3
      apply State.tripPair_keeps
      exact y3
    · exact h
  clear_value z1
  exact hz1

theorem State.writeRecord_keeps {a : Bool} {s0 : State} (s : State) (a' : Nat) (l : List Byte) (h : Keeps a false s0 s) :
    Keeps a false s0 (State.writeRecord s a' l) := by
  unfold State.writeRecord
  split
  · exact h
  · apply State.poke_keeps
    exact h

theorem State.saveCapacity_keeps {a : Bool} {s0 : State} (s : State) (q : Nat) (h : Keeps a false s0 s) :
    Keeps a false s0 (State.saveCapacity s q) := by
  unfold State.saveCapacity
  extract_lets z1 z2
  apply State.writeRecord_keeps
  exact h

theorem State.learnEnd_keeps {a : Bool} {s0 : State} (s : State) (h : Keeps a false s0 s) :
    Keeps a false s0 (State.learnEnd s) := by
  unfold State.learnEnd
  extract_lets z1 z2 z3 z4 z5 z6
  have hz3 : Keeps a false s0 z3 := by
    unfold z3
    apply State.setRsv_keeps
    exact h
  clear_value z3
  have hz5 : Keeps a false s0 z5 := by
    unfold z5
    apply State.saveCapacity_keeps
    apply State.setFld_keeps
    exact hz3
  clear_value z5
  split
  · exact h
  · split
    · apply State.count_keeps
      apply State.orReg_keeps
      apply State.setRsv_keeps
      exact hz5
    · apply State.orReg_keeps
      exact hz3

theorem State.saveState_keeps {a : Bool} {s0 : State} (s : State) (h : Keeps a false s0 s) :
    Keeps a false s0 (State.saveState s) := by
  unfold State.saveState
  extract_lets z1
  apply State.writeRecord_keeps
  exact h

theorem RsvCyc.cutoff_keeps {a : Bool} {s0 : State} (c : RsvCyc) (h : Keeps a false s0 c.s) :
    Keeps a false s0 (RsvCyc.cutoff c).s := by
  unfold RsvCyc.cutoff
  extract_lets z1 z2 z3 z4
  have hz1 : Keeps a false s0 z1 := by
    unfold z1
    exact h
  clear_value z1
  have hz4 : Keeps a false s0 z4.s := by
    unfold z4
    apply RsvCyc.with_keeps
    · intro y5 y6
      extract_lets z7 z8 z9 z10
      have hz7 : Keeps a false s0 z7 := by
        unfold z7
        apply State.learnEnd_keeps
        exact y6
      clear_value z7
      have hz9 : Keeps a false s0 z9 := by
        unfold z9
        apply State.setRsv_keeps
        exact hz7
      clear_value z9
      have hz10 : Keeps a false s0 z10 := by
        unfold z10
        apply State.setFld_keeps
        apply State.orReg_keeps
        exact hz9
      clear_value z10
      split
      · apply State.saveState_keeps
        exact hz10
      · exact hz10
    · exact h
  clear_value z4
  split
  · exact h
  · split
    · apply RsvCyc.with_keeps
      · intro y11 y12
        apply State.orReg_keeps
        exact y12
      · exact hz4
    · exact hz4

theorem RsvCyc.map_keeps {a b : Bool} {s0 : State} (c : RsvCyc) (f : State → State)
    (hf : ∀ s, Keeps a b s0 s → Keeps a b s0 (f s)) (h : Keeps a b s0 c.s) : Keeps a b s0 (c.map f).s := hf _ h

theorem State.setChg_keeps {a b : Bool} {s0 : State} (s : State) (c : ChgState) (h : Keeps a b s0 s) :
    Keeps a b s0 (State.setChg s c) := by
  unfold State.setChg
  extract_lets z1 z2 z3
  clear_value z3
  apply State.setRsv_keeps
  exact h

theorem RsvCyc.overvoltage_keeps {a b : Bool} {s0 : State} (c : RsvCyc) (h : Keeps a b s0 c.s) :
    Keeps a b s0 (RsvCyc.overvoltage c).s := by
  unfold RsvCyc.overvoltage
  split
  · exact h
  · apply RsvCyc.with_keeps
    · intro y1 y2
      extract_lets z3 z4 z5
      have hz4 : Keeps a b s0 z4 := by
        unfold z4
        apply State.setRsv_keeps
        exact y2
      clear_value z4
      have hz5 : Keeps a b s0 z5 := by
        unfold z5
        split
        · exact hz4
        · apply State.setChg_keeps
          exact hz4
      clear_value z5
      apply State.orReg_keeps
      exact hz5
    · exact h

theorem State.rearm_keeps {a b : Bool} {s0 : State} (s : State) (h : Keeps a b s0 s) :
    Keeps a b s0 (State.rearm s) := by
  unfold State.rearm
  apply State.setRsv_keeps
  exact h

theorem State.closeSecond_keeps {a b : Bool} {s0 : State} (s : State) (h : Keeps a b s0 s) :
    Keeps a b s0 (State.closeSecond s) := by
  unfold State.closeSecond
  extract_lets z1
  apply State.setRsv_keeps
  exact h

theorem State.measure_keeps {a b : Bool} {s0 : State} (s : State) (i : Rat) (v : Rat) (rm : Rat) (h : Keeps a b s0 s) :
    Keeps a b s0 (State.measure s i v rm) := by
  unfold State.measure
  extract_lets z1 z2 z3 z4 z5 z6 z7 z8
  apply State.setRsv_keeps
  exact h

theorem State.predict_keeps {a b : Bool} {s0 : State} (s : State) (i : Rat) (h : Keeps a b s0 s) :
    Keeps a b s0 (State.predict s i) := by
  unfold State.predict
  extract_lets z1 z2 z3 z4 z5
  apply State.setRsv_keeps
  exact h

theorem State.kalman_keeps {a b : Bool} {s0 : State} (s : State) (i : Rat) (v : Rat) (rm : Rat) (h : Keeps a b s0 s) :
    Keeps a b s0 (State.kalman s i v rm) := by
  unfold State.kalman
  apply State.measure_keeps
  apply State.predict_keeps
  exact h

theorem State.restUpdate_keeps {a : Bool} {s0 : State} (s : State) (h : Keeps a false s0 s) :
    Keeps a false s0 (State.restUpdate s) := by
  unfold State.restUpdate
  extract_lets z1 z2
  have hz1 : Keeps a false s0 z1 := by
    unfold z1
    apply State.kalman_keeps
    exact h
  clear_value z1
  apply State.saveState_keeps
  apply State.setFld_keeps
  apply State.setRsv_keeps
  exact hz1

theorem State.floorCheck_keeps {a b : Bool} {s0 : State} (s : State) (h : Keeps a b s0 s) :
    Keeps a b s0 (State.floorCheck s) := by
  unfold State.floorCheck
  extract_lets z1
  split
  · split
    · exact h
    · apply State.orReg_keeps
      apply State.setRsv_keeps
      exact h
  · apply State.setRsv_keeps
    exact h

theorem State.report_keeps {a b : Bool} {s0 : State} (s : State) (i : Rat) (v : Rat) (h : Keeps a b s0 s) :
    Keeps a b s0 (State.report s i v) := by
  unfold State.report
  extract_lets z1 z2 z3 z4 z5 z6 z7 z8 z9 z10 z11 z12 z13 z14
  have hz1 : Keeps a b s0 z1 := by
    unfold z1
    apply State.floorCheck_keeps
    exact h
  clear_value z1
  have hz5 : Keeps a b s0 z5 := by
    unfold z5
    apply State.setReg_keeps
    exact hz1
  clear_value z5
  have hz7 : Keeps a b s0 z7 := by
    unfold z7
    apply State.setReg_keeps
    exact hz5
  clear_value z7
  have hz10 : Keeps a b s0 z10 := by
    unfold z10
    apply State.setRsv_keeps
    exact hz7
  clear_value z10
  have hz11 : Keeps a b s0 z11 := by
    unfold z11
    apply State.setReg_keeps
    exact hz10
  clear_value z11
  have hz13 : Keeps a b s0 z13 := by
    unfold z13
    apply State.setFld_keeps
    exact hz11
  clear_value z13
  apply State.setFld_keeps
  exact hz13

theorem RsvCyc.restEnd_keeps {a : Bool} {s0 : State} (c : RsvCyc) (h : Keeps a false s0 c.s) :
    Keeps a false s0 (RsvCyc.restEnd c).s := by
  unfold RsvCyc.restEnd
  extract_lets z1 z2 z3 z4 z5 z6
  have hz1 : Keeps a false s0 z1 := by
    unfold z1
    exact h
  clear_value z1
  have hz2 : Keeps a false s0 z2 := by
    unfold z2
    split
    · exact hz1
    · apply State.closeSecond_keeps
      exact hz1
  clear_value z2
  have hz3 : Keeps a false s0 z3 := by
    unfold z3
    apply State.restUpdate_keeps
    exact hz2
  clear_value z3
  have hz4 : Keeps a false s0 z4 := by
    unfold z4
    split
    · exact hz1
    · apply State.report_keeps
      exact hz3
  clear_value z4
  have hz6 : Keeps a false s0 z6 := by
    unfold z6
    apply State.endPause_keeps
    apply State.setRsv_keeps
    exact hz4
  clear_value z6
  split
  · exact h
  · dsimp only
    apply State.count_keeps
    apply State.orReg_keeps
    exact hz6

theorem RsvCyc.cause_keeps {a : Bool} {s0 : State} (c : RsvCyc) (y1 : RsvCause) (h : Keeps a false s0 c.s) :
    Keeps a false s0 (RsvCyc.cause c y1).s := by
  unfold RsvCyc.cause
  split
  · split
    · apply RsvCyc.trip_keeps
      exact h
    · exact h
  · split
    · apply RsvCyc.trip_keeps
      exact h
    · exact h
  · apply RsvCyc.cutoff_keeps
    exact h
  · apply RsvCyc.map_keeps
    · intro y1 y2
      apply State.restAbort_keeps
      exact y2
    · exact h
  · apply RsvCyc.overvoltage_keeps
    exact h
  · split
    · exact h
    · apply RsvCyc.map_keeps
      · intro y3 y4
        apply State.rearm_keeps
        exact y4
      · exact h
  · split
    · exact h
    · apply RsvCyc.map_keeps
      · intro y5 y6
        apply State.rearm_keeps
        exact y6
      · exact h
  · apply RsvCyc.restEnd_keeps
    exact h

/-- The causes of a cycle keep what the command's own cause keeps. -/
theorem RsvCyc.order_keeps {a : Bool} {s0 : State} (c : RsvCyc) (co : List RsvCause) (rank : Nat) (own : RsvCyc → RsvCyc)
    (top : Nat) (hown : ∀ c, Keeps a false s0 c.s → Keeps a false s0 (own c).s) (h : Keeps a false s0 c.s) :
    Keeps a false s0 (c.order co rank own top).s := by
  unfold RsvCyc.order
  apply Keeps.foldlRsv _ _ _ _ h
  intro c r hc
  apply Keeps.foldlRsv _ (fun c x hc => RsvCyc.cause_keeps c x hc)
  split
  · exact hown _ hc
  · exact hc

theorem State.tempCheck_keeps {a b : Bool} {s0 : State} (s : State) (h : Keeps a b s0 s) :
    Keeps a b s0 (State.tempCheck s).1 := by
  unfold State.tempCheck
  extract_lets z1 z2
  split
  · dsimp only
    split
    · exact h
    · apply State.setRsv_keeps
      exact h
  · extract_lets z3 z4 z5 z6 z7
    clear_value z3
    clear_value z4
    clear_value z5
    clear_value z6
    have hz7 : Keeps a b s0 z7 := by
      unfold z7
      apply State.setRsv_keeps
      exact h
    clear_value z7
    dsimp only
    split
    · apply State.orReg_keeps
      exact hz7
    · exact hz7

theorem State.settleRsv_keeps {a b : Bool} {s0 : State} (s : State) (h : Keeps a b s0 s) :
    Keeps a b s0 (State.settleRsv s).1 := by
  unfold State.settleRsv
  extract_lets z1 z2 z3 z4 z5
  have hz1 : Keeps a b s0 z1.1 := by
    unfold z1
    apply State.tempCheck_keeps
    exact h
  clear_value z1
  have hz2 : Keeps a b s0 z2 := by
    unfold z2
    exact hz1
  clear_value z2
  have hz4 : Keeps a b s0 z4 := by
    unfold z4
    split
    · apply State.setRsv_keeps
      exact hz2
    · exact hz2
  clear_value z4
  have hz5 : Keeps a b s0 z5 := by
    unfold z5
    split
    · split
      · exact hz4
      · apply State.setChg_keeps
        exact hz4
    · split
      · apply State.setChg_keeps
        exact hz4
      · split
        · exact hz4
        · apply State.setChg_keeps
          exact hz4
      · split
        · exact hz4
        · apply State.setChg_keeps
          exact hz4
      · split
        · exact hz4
        · apply State.setChg_keeps
          exact hz4
      · split
        · exact hz4
        · apply State.setChg_keeps
          exact hz4
      · split
        · exact hz4
        · apply State.setChg_keeps
          exact hz4
      · exact hz4
      · exact hz4
  clear_value z5
  exact hz5

theorem State.rsvRaise_keeps {a b : Bool} {s0 : State} (s : State) (l : List Raise) (h : Keeps a b s0 s) :
    Keeps a b s0 (State.rsvRaise s l) := by
  unfold State.rsvRaise
  extract_lets z1
  have hz1 : Keeps a b s0 z1.1 := by
    unfold z1
    apply State.settleRsv_keeps
    exact h
  clear_value z1
  split
  · exact hz1
  · apply State.raiseAll_keeps
    exact hz1

theorem RsvCyc.run_keeps {a : Bool} {s0 : State} (c : RsvCyc) (co : List RsvCause) (rank : Nat) (own : RsvCyc → RsvCyc)
    (hown : ∀ c, Keeps a false s0 c.s → Keeps a false s0 (own c).s) (h : Keeps a false s0 c.s) :
    Keeps a false s0 (c.run co rank own) := by
  unfold RsvCyc.run
  exact State.rsvRaise_keeps _ _ (RsvCyc.order_keeps _ _ _ _ _ hown h)

theorem State.rsvCycle_keeps {a : Bool} {s0 : State} (s : State) (co : List RsvCause) (rank : Nat)
    (own : RsvCyc → RsvCyc) (hown : ∀ c, Keeps a false s0 c.s → Keeps a false s0 (own c).s) (h : Keeps a false s0 s) :
    Keeps a false s0 (s.rsvCycle co rank own) := RsvCyc.run_keeps _ _ _ _ hown h

theorem State.rsvCause_keeps {a : Bool} {s0 : State} (s : State) (co : List RsvCause) (x : RsvCause) (h : Keeps a false s0 s) :
    Keeps a false s0 (State.rsvCause s co x) := by
  unfold State.rsvCause
  apply State.rsvCycle_keeps
  · intro y1 y2
    apply RsvCyc.cause_keeps
    exact y2
  · exact h

theorem execRearm_keeps {a : Bool} {s0 : State} (u_who : Who) (co : List RsvCause) (s : State) (h : Keeps a false s0 s) :
    KeepsNext a false s0 (execRearm u_who co s) := by
  unfold execRearm
  apply KeepsNext.of
  apply State.fab_keeps
  · intro y1 y2
    apply State.rsvCause_keeps
    exact y2
  · exact h

theorem State.rsvRefuse_keeps {a b : Bool} {s0 : State} (s : State) (h : Keeps a b s0 s) :
    Keeps a b s0 (State.rsvRefuse s) := by
  unfold State.rsvRefuse
  apply State.orReg_keeps
  exact h

theorem State.forgetCapacity_keeps {a b : Bool} {s0 : State} (s : State) (h : Keeps a b s0 s) :
    Keeps a b s0 (State.forgetCapacity s) := by
  unfold State.forgetCapacity
  apply State.setFld_keeps
  apply State.setRsv_keeps
  exact h

theorem State.estReinit_keeps {a b : Bool} {s0 : State} (s : State) (h : Keeps a b s0 s) :
    Keeps a b s0 (State.estReinit s) := by
  unfold State.estReinit
  extract_lets z1 z2
  apply State.orReg_keeps
  apply State.setRsv_keeps
  exact h

theorem State.ampHours_keeps {a b : Bool} {s0 : State} (s : State) (i : Rat) (h : Keeps a b s0 s) :
    Keeps a b s0 (State.ampHours s i) := by
  unfold State.ampHours
  extract_lets z1 z2 z3 z4 z5
  have hz4 : Keeps a b s0 z4 := by
    unfold z4
    apply State.setRsv_keeps
    exact h
  clear_value z4
  have hz5 : Keeps a b s0 z5 := by
    unfold z5
    apply State.forAll_keeps
    · intro y6 y7 y8
      apply State.count_keeps
      exact y8
    · exact hz4
  clear_value z5
  apply State.forAll_keeps
  · intro y9 y10 y11
    apply State.count_keeps
    exact y11
  · exact hz5

theorem State.estStart_keeps {a b : Bool} {s0 : State} (s : State) (h : Keeps a b s0 s) :
    Keeps a b s0 (State.estStart s) := by
  unfold State.estStart
  extract_lets z1 z2 z3 z4 z5 z6 z7 z8 z9 z10 z11 z12
  have hz2 : Keeps a b s0 z2 := by
    unfold z2
    split
    · apply State.setFld_keeps
      apply State.setRsv_keeps
      exact h
    · apply State.forgetCapacity_keeps
      exact h
  clear_value z2
  have hz4 : Keeps a b s0 z4 := by
    unfold z4
    apply State.setRsv_keeps
    exact hz2
  clear_value z4
  have hz9 : Keeps a b s0 z9 := by
    unfold z9
    apply State.setRsv_keeps
    exact hz4
  clear_value z9
  have hz10 : Keeps a b s0 z10 := by
    unfold z10
    apply State.setFld_keeps
    exact hz9
  clear_value z10
  have hz11 : Keeps a b s0 z11 := by
    unfold z11
    split
    · split
      · exact hz10
      · apply State.predict_keeps
        exact hz10
    · apply State.estReinit_keeps
      exact hz4
  clear_value z11
  apply State.setRsv_keeps
  apply State.ampHours_keeps
  apply State.ampHours_keeps
  exact hz11

theorem State.estCfg_keeps {a b : Bool} {s0 : State} (s : State) (v : Word) (h : Keeps a b s0 s) :
    Keeps a b s0 (State.estCfg s v).1 := by
  unfold State.estCfg
  extract_lets z1 z2 z3 z4 z5
  clear_value z3
  have hz4 : Keeps a b s0 z4 := by
    unfold z4
    apply State.setReg_keeps
    exact h
  clear_value z4
  split
  · dsimp only
    apply State.rsvRefuse_keeps
    exact h
  · split
    · dsimp only
      split
      · apply State.estStart_keeps
        exact hz4
      · exact hz4
    · split
      · exact hz4
      · dsimp only
        apply State.setRsv_keeps
        exact hz4

theorem execEstcfgWrite_keeps {a b : Bool} {s0 : State} (u_who : Who) (v : Word) (s : State) (h : Keeps a b s0 s) :
    KeepsNext a b s0 (execEstcfgWrite u_who v s) := by
  unfold execEstcfgWrite
  apply KeepsNext.of
  apply State.fab_keeps
  · intro y1 y2
    apply State.estCfg_keeps
    exact y2
  · exact h

theorem State.chgFull_keeps {a : Bool} {s0 : State} (s : State) (h : Keeps a false s0 s) :
    Keeps a false s0 (State.chgFull s) := by
  unfold State.chgFull
  extract_lets z1 z2
  have hz1 : Keeps a false s0 z1 := by
    unfold z1
    apply State.setChg_keeps
    exact h
  clear_value z1
  split
  · apply State.saveState_keeps
    apply State.setRsv_keeps
    exact hz1
  · exact hz1

theorem State.rsvSettle_keeps {a b : Bool} {s0 : State} (s : State) (h : Keeps a b s0 s) :
    Keeps a b s0 (State.rsvSettle s) := by
  unfold State.rsvSettle
  apply State.rsvRaise_keeps
  exact h

theorem execOringOff_keeps {a b : Bool} {s0 : State} (s : State) (h : Keeps a b s0 s) :
    KeepsNext a b s0 (execOringOff s) := by
  unfold execOringOff
  apply KeepsNext.of
  split
  · apply State.rsvSettle_keeps
    apply State.pairOff_keeps
    exact h
  · exact h

theorem State.estUpdate_keeps {a : Bool} {s0 : State} (s : State) (h : Keeps a false s0 s) :
    Keeps a false s0 (State.estUpdate s) := by
  unfold State.estUpdate
  extract_lets z1
  split
  · exact h
  · split
    · apply State.restUpdate_keeps
      apply State.setRsv_keeps
      exact h
    · apply State.kalman_keeps
      exact h

theorem State.estSecond_keeps {a b : Bool} {s0 : State} (s : State) (h : Keeps a b s0 s) :
    Keeps a b s0 (State.estSecond s) := by
  unfold State.estSecond
  extract_lets z1 z2 z3
  have hz3 : Keeps a b s0 z3 := by
    unfold z3
    apply State.setRsv_keeps
    exact h
  clear_value z3
  split
  · apply State.setFld_keeps
    exact hz3
  · exact hz3

theorem State.learnTick_keeps {a b : Bool} {s0 : State} (s : State) (i : Rat) (h : Keeps a b s0 s) :
    Keeps a b s0 (State.learnTick s i) := by
  unfold State.learnTick
  extract_lets z1 z2 z3 z4
  clear_value z2
  clear_value z3
  clear_value z4
  apply State.setRsv_keeps
  exact h

theorem State.estTick_keeps {a : Bool} {s0 : State} (s : State) (h : Keeps a false s0 s) :
    Keeps a false s0 (State.estTick s).s := by
  unfold State.estTick
  extract_lets z1 z2 z3 z4 z5 z6 z7 z8
  clear_value z1
  have hz3 : Keeps a false s0 z3 := by
    unfold z3
    apply State.closeSecond_keeps
    exact h
  clear_value z3
  have hz4 : Keeps a false s0 z4 := by
    unfold z4
    apply State.estUpdate_keeps
    apply State.estSecond_keeps
    split
    · apply State.estReinit_keeps
      exact hz3
    · exact hz3
  clear_value z4
  have hz7 : Keeps a false s0 z7 := by
    unfold z7
    apply State.setRsv_keeps
    exact hz4
  clear_value z7
  have hz8 : Keeps a false s0 z8 := by
    unfold z8
    apply State.report_keeps
    apply State.ampHours_keeps
    apply State.learnTick_keeps
    exact hz7
  clear_value z8
  exact hz8

theorem State.startRest_keeps {a b : Bool} {s0 : State} (s : State) (h : Keeps a b s0 s) :
    Keeps a b s0 (State.startRest s) := by
  unfold State.startRest
  extract_lets z1 z2
  have hz2 : Keeps a b s0 z2 := by
    unfold z2
    apply State.setRsv_keeps
    exact h
  clear_value z2
  split
  · apply State.setChg_keeps
    exact hz2
  · exact hz2

theorem State.estRun_keeps {a : Bool} {s0 : State} (s : State) (co : List RsvCause) (h : Keeps a false s0 s) :
    Keeps a false s0 (State.estRun s co) := by
  unfold State.estRun
  extract_lets z1
  have hz1 : Keeps a false s0 z1 := by
    unfold z1
    apply RsvCyc.run_keeps
    · intro y2 y3
      dsimp only [id_eq]
      exact y3
    · apply State.estTick_keeps
      exact h
  clear_value z1
  split
  · apply State.resnap_keeps
    apply State.startRest_keeps
    exact hz1
  · exact hz1

theorem execEstimatorTick_keeps {a : Bool} {s0 : State} (aoMa : Int) (co : List RsvCause) (s : State) (h : Keeps a false s0 s) :
    KeepsNext a false s0 (execEstimatorTick aoMa co s) := by
  unfold execEstimatorTick
  apply KeepsNext.of
  extract_lets z1 z2 z3 z4
  have hz3 : Keeps a false s0 z3 := by
    unfold z3
    split
    · apply State.setRsv_keeps
      exact h
    · exact h
  clear_value z3
  split
  · exact h
  · split
    · split
      · apply State.estRun_keeps
        exact hz3
      · apply State.rsvCycle_keeps
        · intro y5 y6
          dsimp only [id_eq]
          exact y6
        · exact hz3
    · apply State.rsvCycle_keeps
      · intro y7 y8
        dsimp only [id_eq]
        exact y8
      · apply State.setRsv_keeps
        exact hz3

theorem execRestnow_keeps {a b : Bool} {s0 : State} (u_who : Who) (s : State) (h : Keeps a b s0 s) :
    KeepsNext a b s0 (execRestnow u_who s) := by
  unfold execRestnow
  apply KeepsNext.of
  apply State.fab_keeps
  · intro y1 y2
    split
    · apply State.rsvRefuse_keeps
      exact y2
    · apply State.setRsv_keeps
      exact y2
  · exact h

theorem execDischargeLimitChange_keeps {a : Bool} {s0 : State} (limiting : Bool) (s : State) (h : Keeps a false s0 s) :
    KeepsNext a false s0 (execDischargeLimitChange limiting s) := by
  unfold execDischargeLimitChange
  apply KeepsNext.of
  split
  · exact h
  · extract_lets z1 z2 z3
    have hz3 : Keeps a false s0 z3 := by
      unfold z3
      apply State.setRsv_keeps
      exact h
    clear_value z3
    split
    · apply State.rsvCause_keeps
      exact hz3
    · exact hz3

theorem State.chgRelease_keeps {a b : Bool} {s0 : State} (s : State) (h : Keeps a b s0 s) :
    Keeps a b s0 (State.chgRelease s) := by
  unfold State.chgRelease
  split
  · apply State.setChg_keeps
    exact h
  · exact h

theorem State.rsvFlags_keeps {a b : Bool} {s0 : State} (s : State) (v : Word) (h : Keeps a b s0 s) :
    Keeps a b s0 (State.rsvFlags s v) := by
  unfold State.rsvFlags
  apply State.rsvSettle_keeps
  apply State.chgRelease_keeps
  apply State.clrReg_keeps
  exact h

theorem execRsvFlagsWrite_keeps {a b : Bool} {s0 : State} (u_who : Who) (v : Word) (hw : Word) (s : State) (h : Keeps a b s0 s) :
    KeepsNext a b s0 (execRsvFlagsWrite u_who v hw s) := by
  unfold execRsvFlagsWrite
  apply KeepsNext.of
  apply State.fab_keeps
  · intro y1 y2
    apply State.rsvFlags_keeps
    exact y2
  · exact h

theorem State.clrLrn_keeps {a : Bool} {s0 : State} (s : State) (h : Keeps a false s0 s) :
    Keeps a false s0 (State.clrLrn s) := by
  unfold State.clrLrn
  extract_lets z1
  have hz1 : Keeps a false s0 z1 := by
    unfold z1
    apply State.forgetCapacity_keeps
    exact h
  clear_value z1
  split
  · exact hz1
  · apply State.poke_keeps
    exact hz1

theorem execClrlrn_keeps {a : Bool} {s0 : State} (u_who : Who) (s : State) (h : Keeps a false s0 s) :
    KeepsNext a false s0 (execClrlrn u_who s) := by
  unfold execClrlrn
  apply KeepsNext.of
  apply State.fab_keeps
  · intro y1 y2
    split
    · apply State.rsvRefuse_keeps
      exact y2
    · apply State.clrLrn_keeps
      exact y2
  · exact h

theorem State.setSupply_keeps {a b : Bool} {s0 : State} (s : State) (i : Rat) (h : Keeps a b s0 s) :
    Keeps a b s0 (State.setSupply s i) := by
  unfold State.setSupply
  extract_lets z1 z2 z3
  clear_value z3
  apply State.setRsv_keeps
  exact h

theorem execCurrentLimitTimeout_keeps {a : Bool} {s0 : State} (co : List RsvCause) (s : State) (h : Keeps a false s0 s) :
    KeepsNext a false s0 (execCurrentLimitTimeout co s) := by
  unfold execCurrentLimitTimeout
  apply KeepsNext.of
  apply State.rsvCause_keeps
  exact h

theorem execScheduledRestEnd_keeps {a : Bool} {s0 : State} (co : List RsvCause) (s : State) (h : Keeps a false s0 s) :
    KeepsNext a false s0 (execScheduledRestEnd co s) := by
  unfold execScheduledRestEnd
  apply KeepsNext.of
  apply State.rsvCause_keeps
  exact h

theorem State.currentSample_keeps {a b : Bool} {s0 : State} (s : State) (x : Int) (h : Keeps a b s0 s) :
    Keeps a b s0 (State.currentSample s x) := by
  unfold State.currentSample
  extract_lets z1 z2 z3 z4
  have hz2 : Keeps a b s0 z2 := by
    unfold z2
    apply State.setSupply_keeps
    exact h
  clear_value z2
  clear_value z4
  apply State.setRsv_keeps
  exact hz2

theorem execOringOn_keeps {a b : Bool} {s0 : State} (s : State) (h : Keeps a b s0 s) :
    KeepsNext a b s0 (execOringOn s) := by
  unfold execOringOn
  apply KeepsNext.of
  split
  · exact h
  · extract_lets z1 z2 z3
    clear_value z2
    apply State.rsvSettle_keeps
    apply State.setRsv_keeps
    exact h

theorem RsvCyc.charger_keeps {a : Bool} {s0 : State} (c : RsvCyc) (cellMv : Nat) (h : Keeps a false s0 c.s) :
    Keeps a false s0 (RsvCyc.charger c cellMv).s := by
  unfold RsvCyc.charger
  extract_lets z1 z2 z3
  have hz2 : Keeps a false s0 z2.1 := by
    unfold z2
    apply State.settleRsv_keeps
    apply State.setRsv_keeps
    exact h
  clear_value z2
  have hz3 : Keeps a false s0 z3 := by
    unfold z3
    apply State.chgRelease_keeps
    exact hz2
  clear_value z3
  dsimp only
  split
  · split
    · exact hz3
    · split
      · apply State.chgFull_keeps
        exact hz3
      · split
        · exact hz3
        · split
          · apply State.setChg_keeps
            exact hz3
          · apply State.setChg_keeps
            exact hz3
  · split
    · apply State.setChg_keeps
      exact hz3
    · exact hz3
  · split
    · apply State.setChg_keeps
      exact hz3
    · exact hz3
  · split
    · apply State.setChg_keeps
      exact hz3
    · exact hz3
  · exact hz3

theorem execChargerTransition_keeps {a : Bool} {s0 : State} (cellMv : Nat) (co : List RsvCause) (s : State) (h : Keeps a false s0 s) :
    KeepsNext a false s0 (execChargerTransition cellMv co s) := by
  unfold execChargerTransition
  apply KeepsNext.of
  apply State.rsvCycle_keeps
  · intro y1 y2
    apply RsvCyc.charger_keeps
    exact y2
  · exact h

theorem execAutoRearm_keeps {a : Bool} {s0 : State} (co : List RsvCause) (s : State) (h : Keeps a false s0 s) :
    KeepsNext a false s0 (execAutoRearm co s) := by
  unfold execAutoRearm
  apply KeepsNext.of
  apply State.rsvCause_keeps
  exact h

theorem RsvCyc.chgFault_keeps {a b : Bool} {s0 : State} (c : RsvCyc) (bit : Nat) (h : Keeps a b s0 c.s) :
    Keeps a b s0 (RsvCyc.chgFault c bit).s := by
  unfold RsvCyc.chgFault
  apply RsvCyc.with_keeps
  · intro y1 y2
    apply State.orReg_keeps
    apply State.setChg_keeps
    exact y2
  · exact h

theorem execChargeTermination_keeps {a : Bool} {s0 : State} (co : List RsvCause) (s : State) (h : Keeps a false s0 s) :
    KeepsNext a false s0 (execChargeTermination co s) := by
  unfold execChargeTermination
  apply KeepsNext.of
  apply State.rsvCycle_keeps
  · intro y1 y2
    split
    · apply RsvCyc.map_keeps
      · intro y3 y4
        apply State.chgFull_keeps
        exact y4
      · exact y2
    · exact y2
  · exact h

theorem execShortCircuitTrip_keeps {a : Bool} {s0 : State} (co : List RsvCause) (s : State) (h : Keeps a false s0 s) :
    KeepsNext a false s0 (execShortCircuitTrip co s) := by
  unfold execShortCircuitTrip
  apply KeepsNext.of
  apply State.rsvCause_keeps
  exact h

theorem execCutoff_keeps {a : Bool} {s0 : State} (co : List RsvCause) (s : State) (h : Keeps a false s0 s) :
    KeepsNext a false s0 (execCutoff co s) := by
  unfold execCutoff
  apply KeepsNext.of
  apply State.rsvCause_keeps
  exact h

theorem State.vinSample_keeps {a b : Bool} {s0 : State} (s : State) (x : Int) (h : Keeps a b s0 s) :
    Keeps a b s0 (State.vinSample s x) := by
  unfold State.vinSample
  extract_lets z1
  split
  · apply State.setRsv_keeps
    exact h
  · apply State.restAbort_keeps
    apply State.setRsv_keeps
    exact h

theorem execReinit_keeps {a b : Bool} {s0 : State} (u_who : Who) (s : State) (h : Keeps a b s0 s) :
    KeepsNext a b s0 (execReinit u_who s) := by
  unfold execReinit
  apply KeepsNext.of
  apply State.fab_keeps
  · intro y1 y2
    split
    · apply State.rsvRefuse_keeps
      exact y2
    · apply State.setRsv_keeps
      exact y2
  · exact h

theorem execChargeTimeout_keeps {a : Bool} {s0 : State} (co : List RsvCause) (s : State) (h : Keeps a false s0 s) :
    KeepsNext a false s0 (execChargeTimeout co s) := by
  unfold execChargeTimeout
  apply KeepsNext.of
  apply State.rsvCycle_keeps
  · intro y1 y2
    split
    · apply RsvCyc.map_keeps
      · intro y3 y4
        apply State.setRsv_keeps
        exact y4
      · apply RsvCyc.chgFault_keeps
        exact y2
    · exact y2
  · exact h

theorem execEstimatorStateSave_keeps {a : Bool} {s0 : State} (s : State) (h : Keeps a false s0 s) :
    KeepsNext a false s0 (execEstimatorStateSave s) := by
  unfold execEstimatorStateSave
  apply KeepsNext.of
  split
  · apply State.saveState_keeps
    exact h
  · exact h

theorem execPrechargeTimeout_keeps {a : Bool} {s0 : State} (co : List RsvCause) (s : State) (h : Keeps a false s0 s) :
    KeepsNext a false s0 (execPrechargeTimeout co s) := by
  unfold execPrechargeTimeout
  apply KeepsNext.of
  apply State.rsvCycle_keeps
  · intro y1 y2
    split
    · apply RsvCyc.chgFault_keeps
      exact y2
    · exact y2
  · exact h

theorem execPackOvervoltage_keeps {a : Bool} {s0 : State} (co : List RsvCause) (s : State) (h : Keeps a false s0 s) :
    KeepsNext a false s0 (execPackOvervoltage co s) := by
  unfold execPackOvervoltage
  apply KeepsNext.of
  apply State.rsvCause_keeps
  exact h

theorem State.voltageSample_keeps {a b : Bool} {s0 : State} (s : State) (x : Int) (h : Keeps a b s0 s) :
    Keeps a b s0 (State.voltageSample s x) := by
  unfold State.voltageSample
  extract_lets z1
  apply State.setRsv_keeps
  exact h

theorem execSenseFault_keeps {a : Bool} {s0 : State} (co : List RsvCause) (s : State) (h : Keeps a false s0 s) :
    KeepsNext a false s0 (execSenseFault co s) := by
  unfold execSenseFault
  apply KeepsNext.of
  apply State.rsvCycle_keeps
  · intro y1 y2
    split
    · apply RsvCyc.chgFault_keeps
      exact y2
    · exact y2
  · exact h

end Sys2Proof.Machine
end

