-- ==== Sys2Proof/Laws/KeepsTelemetry.lean ====
section
/-! SUPPORT. What each operation of `Machine/Telemetry.lean` keeps: one lemma per operation that answers a state. -/

set_option Elab.async false

namespace Sys2Proof.Machine

theorem State.unfreeze_keeps {a b : Bool} {s0 : State} (s : State) (h : Keeps a b s0 s) :
    Keeps a b s0 (State.unfreeze s) := by
  unfold State.unfreeze
  split
  · exact h
  · apply State.setBit_keeps
    exact h

theorem State.dieSample_keeps {a : Bool} {s0 : State} (s : State) (p : Point) (h : Keeps a false s0 s) :
    Keeps a false s0 (State.dieSample s p) := by
  unfold State.dieSample
  split
  · exact h
  · extract_lets z1 z2
    clear_value z1
    refine Keeps.update (s := s) ?_
    exact h

theorem Cyc.coverSample_keeps {a b : Bool} {s0 : State} (c : Cyc) (p : Point) (code : BitVec 16) (h : Keeps a b s0 c.s) :
    Keeps a b s0 (c.coverSample p code).s := by
  unfold Cyc.coverSample
  dsimp only
  split
  · exact h
  split
  · exact h
  split
  · exact Cyc.map_keeps _ _ (fun s h => State.coverMark_keeps _ _ _ h) (Cyc.cmpLevel_keeps _ _ _ _ h)
  · exact Cyc.cmpLevel_keeps _ _ _ _ h

theorem State.lhCapture_keeps {a b : Bool} {s0 : State} (s : State) (amps : Bool) (code : BitVec 16) (h : Keeps a b s0 s) :
    Keeps a b s0 (State.lhCapture s amps code) := by
  unfold State.lhCapture
  split
  · split
    · refine Keeps.update (s := s) ?_
      exact h
    · exact h
  · exact h

/-- A conversion's word keeps, where it is taken at all. -/
theorem State.takeWord_keeps {a : Bool} {s0 : State} (s : State) (p : Point) (code : BitVec 16) (kind : ConvKind)
    (h : Keeps a false s0 s) : KeepsOpt a false s0 (State.takeWord s p code kind) := by
  unfold State.takeWord
  extract_lets c
  split
  · exact .ite (.some h) .none
  · refine .ite .none fun x hx => ?_
    obtain ⟨g, -, rfl⟩ := Option.map_eq_some_iff.mp hx
    exact h.update
  · refine .ite .none fun x hx => ?_
    obtain ⟨g, -, rfl⟩ := Option.map_eq_some_iff.mp hx
    exact h.update
  · rename_i r u _ w
    have hu : Keeps a false s0 u := State.lhCapture_keeps _ _ _ h
    clear_value u
    refine .ite .none (.ite (.some hu) fun x hx => ?_)
    obtain ⟨g, -, rfl⟩ := Option.map_eq_some_iff.mp hx
    exact hu.update

theorem State.minMax_keeps {a b : Bool} {s0 : State} (s : State) (p : Nat) (v : Int) (h : Keeps a b s0 s) :
    Keeps a b s0 (State.minMax s p v) := by
  unfold State.minMax
  extract_lets z1
  have hz1 : Keeps a b s0 z1 := by
    unfold z1
    split
    · apply State.setFld_keeps
      exact h
    · exact h
  clear_value z1
  split
  · apply State.setFld_keeps
    exact hz1
  · exact hz1

theorem State.feed_keeps {a : Bool} {s0 : State} (s : State) (p : Point) (x : Int) (h : Keeps a false s0 s) :
    Keeps a false s0 (State.feed s p x) := by
  unfold State.feed
  extract_lets z1 z2 z3 z4 z5 z6 z7 z8 z9 z10
  have hz1 : Keeps a false s0 z1 := by
    unfold z1
    apply State.setFld_keeps
    exact h
  clear_value z1
  have hz2 : Keeps a false s0 z2 := by
    unfold z2
    split
    · apply State.setFld_keeps
      exact hz1
    · exact hz1
  clear_value z2
  have hz10 : Keeps a false s0 z10 := by
    unfold z10
    dsimp only [z5]
    refine Keeps.update (s := z2) ?_
    exact hz2
  clear_value z10
  split
  · dsimp only [z5]
    refine Keeps.update (s := z2) ?_
    exact hz2
  · apply State.minMax_keeps
    split
    · apply State.setFld_keeps
      exact hz10
    · exact hz10

theorem State.refSample_keeps {a b : Bool} {s0 : State} (s : State) (p : Point) (code : BitVec 16) (h : Keeps a b s0 s) :
    Keeps a b s0 (State.refSample s p code) := by
  unfold State.refSample
  extract_lets z1 z2
  split
  · dsimp only [z2]
    refine Keeps.update (s := s) ?_
    exact h
  · dsimp only [z2]
    refine Keeps.update (s := s) ?_
    exact h
  · dsimp only [z2]
    refine Keeps.update (s := s) ?_
    exact h
  · exact h

theorem State.reserveSample_keeps {a b : Bool} {s0 : State} (s : State) (p : Point) (x : Int) (h : Keeps a b s0 s) :
    Keeps a b s0 (State.reserveSample s p x) := by
  unfold State.reserveSample
  extract_lets z1
  have hz1 : Keeps a b s0 z1 := by
    unfold z1
    split
    · apply State.vinSample_keeps
      exact h
    · apply State.voltageSample_keeps
      exact h
    · apply State.currentSample_keeps
      exact h
    · exact h
  clear_value z1
  split
  · apply State.rsvSettle_keeps
    exact hz1
  · exact hz1

theorem State.freshen_keeps {a b : Bool} {s0 : State} (s : State) (p : Point) (kind : ConvKind) (early : Bool) (h : Keeps a b s0 s) :
    Keeps a b s0 (State.freshen s p kind early) := by
  unfold State.freshen
  extract_lets z1 z2 z3
  clear_value z2
  have hz3 : Keeps a b s0 z3 := by
    unfold z3
    refine Keeps.update (s := s) ?_
    exact h
  clear_value z3
  split
  · apply State.pumpTlm_keeps
    split
    · exact hz3
    · apply State.setBit_keeps
      exact hz3
  · split
    · exact h
    · apply State.setBit_keeps
      refine Keeps.update (s := s) ?_
      exact h

theorem State.feedPoint_keeps {a : Bool} {s0 : State} (s : State) (p : Point) (code : BitVec 16) (kind : ConvKind) (early : Bool) (h : Keeps a false s0 s) :
    Keeps a false s0 (State.feedPoint s p code kind early) := by
  unfold State.feedPoint
  extract_lets z1 z2 z3 z4
  have hz3 : Keeps a false s0 z3 := by
    unfold z3
    apply State.feed_keeps
    refine Keeps.update (s := s) ?_
    exact h
  clear_value z3
  have hz4 : Keeps a false s0 z4 := by
    unfold z4
    split
    · apply State.refSample_keeps
      exact hz3
    · exact hz3
  clear_value z4
  apply State.dieSample_keeps
  apply State.reserveSample_keeps
  apply State.freshen_keeps
  exact hz4

theorem execAdcConversion_keeps {a : Bool} {s0 : State} (p : Point) (code : BitVec 16) (kind : ConvKind) (early : Bool)
    (s : State) (h : Keeps a false s0 s) : KeepsNext a false s0 (execAdcConversion p code kind early s) := by
  unfold execAdcConversion
  refine .of ?_
  split
  · exact h
  split
  · exact h
  · rename_i u feeds hu
    have hu : Keeps a false s0 u := State.takeWord_keeps s p code kind h _ hu
    extract_lets v
    have hv : Keeps a false s0 v := by
      unfold v
      exact .cond (State.setBit_keeps _ _ _ _ hu) hu
    clear_value v
    split
    · exact hv
    · refine State.cyc_keeps _ _ (fun c hc => ?_) hv
      extract_lets d
      have hd : Keeps a false s0 d.s := State.feedPoint_keeps _ _ _ _ _ hc
      clear_value d
      split
      · exact hd
      · exact Cyc.coverSample_keeps _ _ _ hd

theorem State.setScan_keeps {a b : Bool} {s0 : State} (s : State) (c : Scan) (h : Keeps a b s0 s) :
    Keeps a b s0 (State.setScan s c) := by
  unfold State.setScan
  refine Keeps.update (s := s) ?_
  exact h

theorem State.rawWords_keeps {a : Bool} {s0 : State} (s : State) (g f w : Nat) (l : List (Option (BitVec 16)))
    (h : Keeps a false s0 s) : Keeps a false s0 (s.rawWords g f w l) := by
  induction l generalizing s w with
  | nil => exact h
  | cons x t ih =>
    cases x with
    | none => exact ih _ _ h
    | some c => exact ih _ _ (State.tlmPoke_keeps _ _ (State.tlmPoke_keeps _ _ h))

theorem execRawFrameWrite_keeps {a : Bool} {s0 : State} (lost : List (Fin 256)) (s : State) (h : Keeps a false s0 s) :
    KeepsNext a false s0 (execRawFrameWrite lost s) := by
  unfold execRawFrameWrite
  apply KeepsNext.of
  split
  · exact h
  · extract_lets z1 z2 z3
    have hz2 : Keeps a false s0 z2 := by
      unfold z2
      apply State.setScan_keeps
      exact h
    clear_value z2
    have hz3 : Keeps a false s0 z3 := by
      unfold z3
      apply State.rawWords_keeps
      refine Keeps.update (s := z2) ?_
      exact hz2
    clear_value z3
    split
    · exact hz2
    · split
      · exact hz3
      · apply State.setFld_keeps
        apply State.setBit_keeps
        exact hz3

theorem State.lhReport_keeps {a b : Bool} {s0 : State} (s : State) (r : Nat) (fc : Nat) (pm : Nat) (status : Nat) (cest : Nat) (h : Keeps a b s0 s) :
    Keeps a b s0 (State.lhReport s r fc pm status cest) := by
  unfold State.lhReport
  apply State.setReg_keeps
  apply State.setReg_keeps
  exact h

theorem State.loseFrame_keeps {a b : Bool} {s0 : State} (s : State) (h : Keeps a b s0 s) :
    Keeps a b s0 (State.loseFrame s) := by
  unfold State.loseFrame
  split
  · exact h
  · extract_lets z1 z2
    have hz2 : Keeps a b s0 z2 := by
      unfold z2
      apply State.setScan_keeps
      exact h
    clear_value z2
    split
    · apply State.setFld_keeps
      apply State.setBit_keeps
      exact hz2
    · exact hz2

theorem State.endFrame_keeps {a b : Bool} {s0 : State} (s : State) (h : Keeps a b s0 s) :
    Keeps a b s0 (State.endFrame s) := by
  unfold State.endFrame
  extract_lets z1 z2 z3 z4 z5 z6 z7 z8
  have hz1 : Keeps a b s0 z1 := by
    unfold z1
    apply State.loseFrame_keeps
    exact h
  clear_value z1
  have hz2 : Keeps a b s0 z2 := by
    unfold z2
    split
    · apply State.raise1_keeps
      apply State.setBit_keeps
      exact hz1
    · exact hz1
  clear_value z2
  clear_value z5
  clear_value z6
  clear_value z7
  have hz8 : Keeps a b s0 z8 := by
    unfold z8
    apply State.setScan_keeps
    exact hz2
  clear_value z8
  split
  · exact hz1
  · split
    · apply State.setBit_keeps
      apply State.setScan_keeps
      exact hz2
    · split
      · apply State.setScan_keeps
        exact hz2
      · split
        · apply State.setBit_keeps
          exact hz8
        · exact hz8

theorem State.tlmRefuse_keeps {a b : Bool} {s0 : State} (s : State) (h : Keeps a b s0 s) :
    Keeps a b s0 (State.tlmRefuse s).1 := by
  unfold State.tlmRefuse
  dsimp only
  apply State.orReg_keeps
  exact h

theorem State.tlmCtl_keeps {a b : Bool} {s0 : State} (s : State) (v : Word) (h : Keeps a b s0 s) :
    Keeps a b s0 (State.tlmCtl s v).1 := by
  unfold State.tlmCtl
  split
  · apply State.tlmRefuse_keeps
    exact h
  · dsimp only
    apply State.setReg_keeps
    exact h

theorem State.clrMm_keeps {a b : Bool} {s0 : State} (s : State) (p : Nat) (h : Keeps a b s0 s) :
    Keeps a b s0 (State.clrMm s p) := by
  unfold State.clrMm
  apply State.setReg_keeps
  exact h

theorem State.clrPk_keeps {a b : Bool} {s0 : State} (s : State) (p : Nat) (h : Keeps a b s0 s) :
    Keeps a b s0 (State.clrPk s p) := by
  unfold State.clrPk
  apply State.setFld_keeps
  exact h

theorem State.tlmCmd_keeps {a b : Bool} {s0 : State} (s : State) (mm : Bool) (pk : Bool) (all : Bool) (pt : BitVec 7) (h : Keeps a b s0 s) :
    Keeps a b s0 (State.tlmCmd s mm pk all pt).1 := by
  unfold State.tlmCmd
  split
  · apply State.tlmRefuse_keeps
    exact h
  · extract_lets z1
    have hz1 : Keeps a b s0 z1 := by
      unfold z1
      split
      · apply State.forAll_keeps
        · intro y2 y3 y4
          apply State.clrMm_keeps
          exact y4
        · exact h
      · exact h
    clear_value z1
    dsimp only
    split
    · apply State.forAll_keeps
      · intro y5 y6 y7
        apply State.clrPk_keeps
        exact y7
      · exact hz1
    · exact hz1

theorem State.tlmStore_keeps {a b : Bool} {s0 : State} (s : State) (a' : Nat) (v : Word) (ok : Bool) (h : Keeps a b s0 s) :
    Keeps a b s0 (State.tlmStore s a' v ok).1 := by
  unfold State.tlmStore
  split
  · apply State.tlmRefuse_keeps
    exact h
  · dsimp only
    apply State.setReg_keeps
    exact h

theorem State.lhPoke_keeps {a : Bool} {s0 : State} (s : State) (a' : Nat) (l : List Byte) (h : Keeps a false s0 s) :
    Keeps a false s0 (State.lhPoke s a' l) := by
  unfold State.lhPoke
  split
  · apply State.setBit_keeps
    exact h
  · split
    · exact h
    · apply State.poke_keeps
      exact h

theorem State.rebase_keeps {a : Bool} {s0 : State} (s : State) (l : List Rail) (h : Keeps a false s0 s) :
    Keeps a false s0 (State.rebase s l) := by
  unfold State.rebase
  apply State.forAll_keeps
  · intro y1 y2 y3
    extract_lets z4 z5
    have hz5 : Keeps a false s0 z5 := by
      unfold z5
      refine Keeps.update (s := y1) ?_
      exact y3
    clear_value z5
    apply State.lhPoke_keeps
    exact hz5
  · exact h

theorem State.tlmFilt_keeps {a : Bool} {s0 : State} (s : State) (p : Point) (v : Word) (h : Keeps a false s0 s) :
    Keeps a false s0 (State.tlmFilt s p v).1 := by
  unfold State.tlmFilt
  split
  · apply State.tlmRefuse_keeps
    exact h
  · extract_lets z1
    have hz1 : Keeps a false s0 z1 := by
      unfold z1
      apply State.setReg_keeps
      exact h
    clear_value z1
    dsimp only
    refine Keeps.update (s := z1) ?_
    exact hz1

theorem State.tlmWrite_keeps {a : Bool} {s0 : State} (s : State) (x : Nat) (v : Word) (h : Keeps a false s0 s) :
    KeepsOpt a false s0 (s.tlmWrite x v) := by
  have clr : ∀ m : Word, KeepsOpt a false s0 (some (s.clrReg x m, true)) := fun m =>
    KeepsOpt.some (State.clrReg_keeps _ _ _ h)
  have sto : ∀ (m : Word) (ok : Bool), KeepsOpt a false s0 (some (s.tlmStore x m ok)) := fun m ok =>
    KeepsOpt.some (State.tlmStore_keeps _ _ _ _ h)
  unfold State.tlmWrite
  refine .ite (.some (State.tlmCtl_keeps _ _ h)) (.ite (clr _) (.ite (.some (State.tlmCmd_keeps _ _ _ _ _ h))
    (.ite (sto _ _) (.ite (clr _) (.ite ?_ (.ite (sto _ _) (.ite (sto _ _) (.ite ?_ (.ite (sto _ _) (.ite (sto _ _)
    (.ite (clr _) (.ite ?_ (.ite (clr _) (.ite ?_ .none))))))))))))))
  · have h1 : Keeps a false s0 (if tst v 0 then s.unfreeze else s) := by
      split
      · exact State.unfreeze_keeps _ h
      · exact h
    refine .some ?_
    split
    · exact State.freezeTrigger_keeps _ h1
    · exact h1
  · have h1 := State.tlmStore_keeps s x (v &&& 0xC0FFFFFF#32) (decide (1 ≤ wfld v 23 16)) h
    refine .some ?_
    split
    · exact State.lhAbort_keeps _ h1
    · exact h1
  · refine .some ?_
    split
    · exact State.rebase_keeps _ _ h
    · exact h
  · dsimp only
    split
    · exact clr _
    · exact .some (State.tlmFilt_keeps _ _ _ h)
    · exact .none

theorem execUnfreeze_keeps {a b : Bool} {s0 : State} (u_who : Who) (s : State) (h : Keeps a b s0 s) :
    KeepsNext a b s0 (execUnfreeze u_who s) := by
  unfold execUnfreeze
  apply KeepsNext.of
  apply State.fab_keeps
  · intro y1 y2
    apply State.unfreeze_keeps
    exact y2
  · exact h

theorem execClrpk_keeps {a b : Bool} {s0 : State} (u_who : Who) (all : Bool) (pt : BitVec 7) (s : State) (h : Keeps a b s0 s) :
    KeepsNext a b s0 (execClrpk u_who all pt s) := by
  unfold execClrpk
  apply KeepsNext.of
  apply State.fab_keeps
  · intro y1 y2
    apply State.tlmCmd_keeps
    exact y2
  · exact h

theorem State.takeSettings_keeps {a b : Bool} {s0 : State} (s : State) (h : Keeps a b s0 s) :
    Keeps a b s0 (State.takeSettings s) := by
  unfold State.takeSettings
  extract_lets z1 z2 z3 z4 z5
  clear_value z3
  split
  · apply State.setScan_keeps
    exact h
  · split
    · apply State.setScan_keeps
      exact h
    · apply State.setScan_keeps
      exact h

theorem State.startBurst_keeps {a b : Bool} {s0 : State} (s : State) (ctl : Word) (h : Keeps a b s0 s) :
    Keeps a b s0 (State.startBurst s ctl) := by
  unfold State.startBurst
  split
  · exact h
  · split
    · exact h
    · extract_lets z1 z2 z3
      apply State.setScan_keeps
      exact h

theorem State.startFrame_keeps {a b : Bool} {s0 : State} (s : State) (h : Keeps a b s0 s) :
    Keeps a b s0 (State.startFrame s) := by
  unfold State.startFrame
  apply State.setScan_keeps
  exact h

theorem State.idleFrame_keeps {a b : Bool} {s0 : State} (s : State) (h : Keeps a b s0 s) :
    Keeps a b s0 (State.idleFrame s) := by
  unfold State.idleFrame
  extract_lets z1
  apply State.pumpTlm_keeps
  apply State.setScan_keeps
  exact h

theorem execScanFrame_keeps {a b : Bool} {s0 : State} (s : State) (h : Keeps a b s0 s) :
    KeepsNext a b s0 (execScanFrame s) := by
  unfold execScanFrame
  apply KeepsNext.of
  split
  · exact h
  · extract_lets z1 z2
    have hz1 : Keeps a b s0 z1 := by
      unfold z1
      apply State.takeSettings_keeps
      apply State.endFrame_keeps
      exact h
    clear_value z1
    have hz2 : Keeps a b s0 z2 := by
      unfold z2
      apply State.startBurst_keeps
      exact hz1
    clear_value z2
    split
    · apply State.startFrame_keeps
      exact hz2
    · apply State.idleFrame_keeps
      exact hz2

theorem execTlmCtlWrite_keeps {a b : Bool} {s0 : State} (u_who : Who) (v : Word) (s : State) (h : Keeps a b s0 s) :
    KeepsNext a b s0 (execTlmCtlWrite u_who v s) := by
  unfold execTlmCtlWrite
  apply KeepsNext.of
  apply State.fab_keeps
  · intro y1 y2
    apply State.tlmCtl_keeps
    exact y2
  · exact h

theorem execLhCaptureEnd_keeps {a b : Bool} {s0 : State} (s : State) (h : Keeps a b s0 s) :
    KeepsNext a b s0 (execLhCaptureEnd s) := by
  unfold execLhCaptureEnd
  apply KeepsNext.of
  split
  · exact h
  · extract_lets z1 z2 z3 z4 z5
    have hz2 : Keeps a b s0 z2 := by
      unfold z2
      apply State.setFld_keeps
      exact h
    clear_value z2
    have hz4 : Keeps a b s0 z4 := by
      unfold z4
      refine Keeps.update (s := z2) ?_
      exact hz2
    clear_value z4
    apply State.setCh_keeps
    exact hz4

theorem State.tlmRequest_keeps {a b : Bool} {s0 : State} (s : State) (p : Point) (h : Keeps a b s0 s) :
    Keeps a b s0 (State.tlmRequest s p) := by
  unfold State.tlmRequest
  extract_lets z1 z2
  have hz1 : Keeps a b s0 z1 := by
    unfold z1
    apply State.setBit_keeps
    exact h
  clear_value z1
  split
  · exact hz1
  · split
    · apply State.pumpTlm_keeps
      refine Keeps.update (s := z1) ?_
      exact hz1
    · split
      · refine Keeps.update (s := z1) ?_
        exact hz1
      · refine Keeps.update (s := z1) ?_
        exact hz1

theorem State.lhGap_keeps {a b : Bool} {s0 : State} (s : State) (r : Nat) (h : Keeps a b s0 s) :
    Keeps a b s0 (State.lhGap s r) := by
  unfold State.lhGap
  refine Keeps.update (s := s) ?_
  exact h

theorem State.lhStatus_keeps {a b : Bool} {s0 : State} (s : State) (r : Nat) (status : Nat) (h : Keeps a b s0 s) :
    Keeps a b s0 (State.lhStatus s r status) := by
  unfold State.lhStatus
  apply State.setFld_keeps
  apply State.setFld_keeps
  exact h

theorem execLhStart_keeps {a b : Bool} {s0 : State} (s : State) (h : Keeps a b s0 s) :
    KeepsNext a b s0 (execLhStart s) := by
  unfold execLhStart
  apply KeepsNext.of
  split
  · exact h
  · split
    · exact h
    · extract_lets z1 z2 z3 z4 z5 z6
      have hz3 : Keeps a b s0 z3 := by
        unfold z3
        apply State.setFld_keeps
        apply State.setFld_keeps
        apply State.setBit_keeps
        exact h
      clear_value z3
      have hz5 : Keeps a b s0 z5 := by
        unfold z5
        apply State.lhFrame_keeps
        refine Keeps.update (s := z3) ?_
        exact hz3
      clear_value z5
      split
      · apply State.lhGap_keeps
        apply State.lhStatus_keeps
        exact h
      · split
        · apply State.setCh_keeps
          exact hz5
        · exact hz5

theorem State.lhLevel_keeps {a b : Bool} {s0 : State} (s : State) (high : Bool) (next : Nat) (h : Keeps a b s0 s) :
    Keeps a b s0 (State.lhLevel s high next) := by
  unfold State.lhLevel
  extract_lets z1 z2 z3
  have hz2 : Keeps a b s0 z2 := by
    unfold z2
    refine Keeps.update (s := s) ?_
    exact h
  clear_value z2
  apply State.setCh_keeps
  exact hz2

theorem State.freezeDone_keeps {a b : Bool} {s0 : State} (s : State) (h : Keeps a b s0 s) :
    Keeps a b s0 (State.freezeDone s) := by
  unfold State.freezeDone
  extract_lets z1
  have hz1 : Keeps a b s0 z1 := by
    unfold z1
    split
    · exact h
    · apply State.setBit_keeps
      exact h
  clear_value z1
  apply State.setBit_keeps
  apply State.setBit_keeps
  exact hz1

theorem State.lhHistory_keeps {a : Bool} {s0 : State} (s : State) (r : Nat) (t' : BitVec 64) (fc : Nat) (pm : Nat) (status : Nat) (cest : Nat) (base : Bool) (h : Keeps a false s0 s) :
    Keeps a false s0 (State.lhHistory s r t' fc pm status cest base) := by
  unfold State.lhHistory
  extract_lets z1 z2
  have hz2 : Keeps a false s0 z2 := by
    unfold z2
    apply State.lhPoke_keeps
    apply State.count_keeps
    exact h
  clear_value z2
  split
  · apply State.lhPoke_keeps
    exact hz2
  · exact hz2

theorem execLhComputeEnd_keeps {a : Bool} {s0 : State} (s : State) (h : Keeps a false s0 s) :
    KeepsNext a false s0 (execLhComputeEnd s) := by
  unfold execLhComputeEnd
  apply KeepsNext.of
  split
  · exact h
  · extract_lets z1 z2 z3 z4 z5 z6 z7 z8 z9 z10 z11 z12 z13 z14 z15 z16 z17
    have hz4 : Keeps a false s0 z4 := by
      unfold z4
      refine Keeps.update (s := s) ?_
      exact h
    clear_value z4
    clear_value z9
    clear_value z11
    clear_value z12
    clear_value z14
    have hz16 : Keeps a false s0 z16 := by
      unfold z16
      refine Keeps.update (s := z4) ?_
      exact hz4
    clear_value z16
    have hz17 : Keeps a false s0 z17 := by
      unfold z17
      apply State.lhFinish_keeps
      apply State.lhHistory_keeps
      apply State.lhReport_keeps
      exact hz16
    clear_value z17
    split
    · apply State.lhFinish_keeps
      apply State.lhHistory_keeps
      apply State.lhReport_keeps
      exact hz4
    · split
      · apply State.lhFinish_keeps
        apply State.lhHistory_keeps
        apply State.lhReport_keeps
        exact hz4
      · split
        · apply State.raise1_keeps
          apply State.orReg_keeps
          exact hz17
        · exact hz17

theorem execClrmm_keeps {a b : Bool} {s0 : State} (u_who : Who) (all : Bool) (pt : BitVec 7) (s : State) (h : Keeps a b s0 s) :
    KeepsNext a b s0 (execClrmm u_who all pt s) := by
  unfold execClrmm
  apply KeepsNext.of
  apply State.fab_keeps
  · intro y1 y2
    apply State.tlmCmd_keeps
    exact y2
  · exact h

theorem execRebase_keeps {a : Bool} {s0 : State} (u_who : Who) (all : Bool) (r : Rail) (s : State) (h : Keeps a false s0 s) :
    KeepsNext a false s0 (execRebase u_who all r s) := by
  unfold execRebase
  apply KeepsNext.of
  apply State.fab_keeps
  · intro y1 y2
    apply State.rebase_keeps
    exact y2
  · exact h

theorem execTlmFiltWrite_keeps {a : Bool} {s0 : State} (u_who : Who) (p : Point) (v : Word) (s : State) (h : Keeps a false s0 s) :
    KeepsNext a false s0 (execTlmFiltWrite u_who p v s) := by
  unfold execTlmFiltWrite
  apply KeepsNext.of
  apply State.fab_keeps
  · intro y1 y2
    apply State.tlmFilt_keeps
    exact y2
  · exact h

theorem execLhExciteStart_keeps {a b : Bool} {s0 : State} (s : State) (h : Keeps a b s0 s) :
    KeepsNext a b s0 (execLhExciteStart s) := by
  unfold execLhExciteStart
  apply KeepsNext.of
  split
  · exact h
  · extract_lets z1 z2 z3
    have hz1 : Keeps a b s0 z1 := by
      unfold z1
      apply State.setFld_keeps
      exact h
    clear_value z1
    have hz3 : Keeps a b s0 z3 := by
      unfold z3
      refine Keeps.update (s := z1) ?_
      exact hz1
    clear_value z3
    apply State.lhLevel_keeps
    exact hz3

theorem execFreeze_keeps {a b : Bool} {s0 : State} (u_who : Who) (s : State) (h : Keeps a b s0 s) :
    KeepsNext a b s0 (execFreeze u_who s) := by
  unfold execFreeze
  apply KeepsNext.of
  apply State.fab_keeps
  · intro y1 y2
    apply State.freezeTrigger_keeps
    exact y2
  · exact h

theorem execFreezeComplete_keeps {a b : Bool} {s0 : State} (s : State) (h : Keeps a b s0 s) :
    KeepsNext a b s0 (execFreezeComplete s) := by
  unfold execFreezeComplete
  apply KeepsNext.of
  split
  · apply State.freezeDone_keeps
    exact h
  · exact h

theorem execBurstStart_keeps {a b : Bool} {s0 : State} (s : State) (h : Keeps a b s0 s) :
    KeepsNext a b s0 (execBurstStart s) := by
  unfold execBurstStart
  apply KeepsNext.of
  apply State.startBurst_keeps
  exact h

theorem execLhPerturbToggle_keeps {a b : Bool} {s0 : State} (s : State) (h : Keeps a b s0 s) :
    KeepsNext a b s0 (execLhPerturbToggle s) := by
  unfold execLhPerturbToggle
  apply KeepsNext.of
  split
  · exact h
  · split
    · exact h
    · split
      · extract_lets z1 z2
        apply State.lhLevel_keeps
        refine Keeps.update (s := s) ?_
        exact h
      · apply State.lhLevel_keeps
        exact h

theorem execLhCalRound_keeps {a : Bool} {s0 : State} (shiftUv : Int) (s : State) (h : Keeps a false s0 s) :
    KeepsNext a false s0 (execLhCalRound shiftUv s) := by
  unfold execLhCalRound
  apply KeepsNext.of
  extract_lets z1 z2 z3 z4 z5 z6 z7 z8 z9 z10 z11 z12 z13
  have hz4 : Keeps a false s0 z4 := by
    unfold z4
    refine Keeps.update (s := s) ?_
    exact h
  have hz7 : Keeps a false s0 z7 := by
    unfold z7
    apply State.lhReport_keeps
    exact hz4
  clear_value z7
  have hz8 : Keeps a false s0 z8 := by
    unfold z8
    apply State.lhHistory_keeps
    exact hz7
  clear_value z8
  have hz12 : Keeps a false s0 z12 := by
    unfold z12
    refine Keeps.update (s := z4) ?_
    exact hz4
  clear_value z12
  split
  · exact h
  · split
    · refine Keeps.update (s := z4) ?_
      exact hz4
    · split
      · apply State.lhFinish_keeps
        refine Keeps.update (s := z8) ?_
        exact hz8
      · apply State.setCh_keeps
        exact hz12

end Sys2Proof.Machine
end

