-- ==== Sys2Proof/Laws/KeepsRecords.lean ====
section
/-! SUPPORT. What each operation of `Machine/Records.lean` keeps: one lemma per operation that answers a state. -/

set_option Elab.async false

namespace Sys2Proof.Machine

theorem State.setOvr_keeps {a b : Bool} {s0 : State} (s : State) (k : Fin 8) (act : Nat) (h : Keeps a b s0 s) :
    Keeps a b s0 (State.setOvr s k act) := by
  unfold State.setOvr
  extract_lets z1 z2 z3
  clear_value z2
  have hz3 : Keeps a b s0 z3 := by
    unfold z3
    apply State.setFld_keeps
    exact h
  clear_value z3
  refine Keeps.update (s := z3) ?_
  exact hz3

theorem execRstovrAuto_keeps {a b : Bool} {s0 : State} (u_who : Who) (k : Fin 8) (s : State) (h : Keeps a b s0 s) :
    KeepsNext a b s0 (execRstovrAuto u_who k s) := by
  unfold execRstovrAuto
  apply KeepsNext.of
  apply State.fab_keeps
  · intro y1 y2
    apply State.setOvr_keeps
    exact y2
  · exact h

theorem State.rstWrite_keeps {a b : Bool} {s0 : State} (s : State) (k : Fin 8) (v : Word) (h : Keeps a b s0 s) :
    Keeps a b s0 (State.rstWrite s k v).1 := by
  unfold State.rstWrite
  split
  · dsimp only
    apply State.orReg_keeps
    exact h
  · extract_lets z1 z2 z3 z4 z5
    have hz3 : Keeps a b s0 z3 := by
      unfold z3
      apply State.setReg_keeps
      exact h
    clear_value z3
    have hz5 : Keeps a b s0 z5 := by
      unfold z5
      split
      · refine Keeps.update (s := z3) ?_
        exact hz3
      · exact hz3
    clear_value z5
    dsimp only
    apply State.settleRst_keeps
    exact hz5

theorem execMrgRstWrite_keeps {a b : Bool} {s0 : State} (u_who : Who) (k : Fin 8) (v : Word) (s : State) (h : Keeps a b s0 s) :
    KeepsNext a b s0 (execMrgRstWrite u_who k v s) := by
  unfold execMrgRstWrite
  apply KeepsNext.of
  apply State.fab_keeps
  · intro y1 y2
    apply State.rstWrite_keeps
    exact y2
  · exact h

theorem State.writeCommit_keeps {a : Bool} {s0 : State} (s : State) (slot : Bool) (n : Nat) (crc : Word) (ver : Word) (h : Keeps a false s0 s) :
    Keeps a false s0 (State.writeCommit s slot n crc ver).1 := by
  unfold State.writeCommit
  extract_lets z1 z2 z3 z4
  clear_value z1
  clear_value z2
  dsimp only
  apply State.poke_keeps
  exact h

theorem execResetPulseEnd_keeps {a b : Bool} {s0 : State} (k : Fin 8) (s : State) (h : Keeps a b s0 s) :
    KeepsNext a b s0 (execResetPulseEnd k s) := by
  unfold execResetPulseEnd
  apply KeepsNext.of
  split
  · exact h
  · extract_lets z1 z2
    have hz1 : Keeps a b s0 z1 := by
      unfold z1
      apply State.setFld_keeps
      exact h
    clear_value z1
    refine Keeps.update (s := z1) ?_
    exact hz1

theorem execResetStretchEnd_keeps {a b : Bool} {s0 : State} (k : Fin 8) (s : State) (h : Keeps a b s0 s) :
    KeepsNext a b s0 (execResetStretchEnd k s) := by
  unfold execResetStretchEnd
  apply KeepsNext.of
  split
  · exact h
  · refine Keeps.update (s := s) ?_
    exact h

theorem State.rstOvrWrite_keeps {a b : Bool} {s0 : State} (s : State) (v : Word) (h : Keeps a b s0 s) :
    Keeps a b s0 (State.rstOvrWrite s v).1 := by
  unfold State.rstOvrWrite
  extract_lets z1
  split
  · dsimp only
    apply State.orReg_keeps
    exact h
  · dsimp only
    apply State.forAll_keeps
    · intro y2 y3 y4
      split
      · exact y4
      · apply State.setOvr_keeps
        exact y4
    · exact h

theorem execRstovrPulse_keeps {a b : Bool} {s0 : State} (u_who : Who) (k : Fin 8) (s : State) (h : Keeps a b s0 s) :
    KeepsNext a b s0 (execRstovrPulse u_who k s) := by
  unfold execRstovrPulse
  apply KeepsNext.of
  apply State.fab_keeps
  · intro y1 y2
    apply State.setOvr_keeps
    exact y2
  · exact h

theorem execRstovrAssert_keeps {a b : Bool} {s0 : State} (u_who : Who) (k : Fin 8) (s : State) (h : Keeps a b s0 s) :
    KeepsNext a b s0 (execRstovrAssert u_who k s) := by
  unfold execRstovrAssert
  apply KeepsNext.of
  apply State.fab_keeps
  · intro y1 y2
    apply State.setOvr_keeps
    exact y2
  · exact h

theorem State.loadImage_keeps {s0 : State} (s : State) (slot : Bool) (n : Nat) (ver : Word)
    (h : Keeps false false s0 s) : Keeps false false s0 (s.loadImage slot n ver) := by
  unfold State.loadImage
  refine State.setReg_keeps _ _ (State.setReg_keeps _ _ (h.trans ⟨rfl, rfl, fun c => ?_, fun h => (nomatch h),
    fun h => nomatch h⟩))
  refine ⟨c.regs, c.sram, c.shadow, c.tlmMem, ⟨List.Pairwise.filter _ ?_, fun e he => ?_⟩, c.page⟩
  · rw [List.pairwise_map]
    exact List.pairwise_lt_range
  · simpa using (List.mem_filter.1 he).2

end Sys2Proof.Machine
end

