-- ==== Sys2Proof/Laws/KeepsWick.lean ====
section
/-! SUPPORT. What each operation of `Machine/Wick.lean` keeps: one lemma per operation that answers a state. -/

set_option Elab.async false

namespace Sys2Proof.Machine

theorem State.advance_keeps {a b : Bool} {s0 : State} (s : State) (w : WickId) (h : Keeps a b s0 s) :
    Keeps a b s0 (State.advance s w) := by
  unfold State.advance
  apply State.mapWk_keeps
  exact h

theorem State.sigWaitOr_keeps {a b : Bool} {s0 : State} (q : State × Option Bool) (w : WickId) (ring : Bool) (target : BitVec 6) (h : Keeps a b s0 q.1) :
    Keeps a b s0 (State.sigWaitOr q w ring target) := by
  unfold State.sigWaitOr
  extract_lets z1
  have hz1 : Keeps a b s0 z1 := by
    unfold z1
    apply State.advance_keeps
    exact h
  clear_value z1
  split
  · apply State.mapWk_keeps
    exact hz1
  · apply State.mapWk_keeps
    exact hz1

theorem execSig_keeps {a : Bool} {s0 : State} (w : WickId) (s : State) (h : Keeps a false s0 s) :
    KeepsNext a false s0 (execSig w s) := by
  unfold execSig
  apply KeepsNext.of
  split
  · split
    · apply State.setSignal_keeps
      apply State.advance_keeps
      exact h
    · split
      · apply State.sigWaitOr_keeps
        apply State.sigTether_keeps
        exact h
      · apply State.sigWaitOr_keeps
        apply State.sigRing_keeps
        exact h
  · exact h

theorem execDisWaitEnd_keeps {a b : Bool} {s0 : State} (w : WickId) (s : State) (h : Keeps a b s0 s) :
    KeepsNext a b s0 (execDisWaitEnd w s) := by
  unfold execDisWaitEnd
  apply KeepsNext.of
  split
  · exact h
  · split
    · split
      · exact h
      · apply State.mapWk_keeps
        exact h
    · exact h

theorem State.goOn_keeps {a b : Bool} {s0 : State} (s : State) (w : WickId) (timeout : Bool) (h : Keeps a b s0 s) :
    Keeps a b s0 (State.goOn s w timeout) := by
  unfold State.goOn
  apply State.mapWk_keeps
  exact h

theorem State.wickStart_keeps {a b : Bool} {s0 : State} (s : State) (w : WickId) (a' : BitVec 12) (h : Keeps a b s0 s) :
    Keeps a b s0 (State.wickStart s w a').1 := by
  unfold State.wickStart
  split
  · dsimp only
    apply State.orReg_keeps
    exact h
  · dsimp only
    apply State.startWick_keeps
    exact h

theorem State.wickStop_keeps {a b : Bool} {s0 : State} (s : State) (w : WickId) (h : Keeps a b s0 s) :
    Keeps a b s0 (State.wickStop s w).1 := by
  unfold State.wickStop
  split
  · dsimp only
    apply State.orReg_keeps
    exact h
  · split
    · dsimp only
      apply State.mapWk_keeps
      exact h
    · dsimp only
      apply State.mapWk_keeps
      exact h
    · exact h

theorem State.wickCmd_keeps {a b : Bool} {s0 : State} (s : State) (w : WickId) (v : Word) (h : Keeps a b s0 s) :
    Keeps a b s0 (State.wickCmd s w v).1 := by
  unfold State.wickCmd
  split
  · dsimp only
    apply State.orReg_keeps
    exact h
  · extract_lets z1
    have hz1 : Keeps a b s0 z1 := by
      unfold z1
      split
      · apply State.setSignal_keeps
        exact h
      · exact h
    clear_value z1
    split
    · apply State.wickStart_keeps
      exact hz1
    · split
      · apply State.wickStop_keeps
        exact hz1
      · exact hz1

theorem Cyc.cref_keeps {a b : Bool} {s0 : State} (c : Cyc) (w : WickId) (b' : Bool) (h : Keeps a b s0 c.s) :
    Keeps a b s0 (Cyc.cref c w b').s := by
  unfold Cyc.cref
  apply Cyc.map_keeps
  · intro y1 y2
    apply State.mapWk_keeps
    exact y2
  · exact h

theorem State.railCmd_keeps {a b : Bool} {s0 : State} (s : State) (w : WickId) (l : List Rail) (k : Cause) (co : List Hit) (h : Keeps a b s0 s) :
    Keeps a b s0 (State.railCmd s w l k co) := by
  unfold State.railCmd
  apply State.cyc_keeps
  · intro y1 y2
    split
    · apply Cyc.cref_keeps
      apply Cyc.hitsWith_keeps
      exact y2
    · extract_lets z3
      have hz3 : Keeps a b s0 z3.s := by
        unfold z3
        apply Cyc.hitsWith_keeps
        exact y2
      clear_value z3
      apply Cyc.cref_keeps
      exact hz3
  · apply State.advance_keeps
    exact h

theorem State.disCmd_keeps {a b : Bool} {s0 : State} (s : State) (w : WickId) (l : List Rail) (co : List Hit) (h : Keeps a b s0 s) :
    Keeps a b s0 (State.disCmd s w l co) := by
  unfold State.disCmd
  split
  · apply State.railCmd_keeps
    exact h
  · split
    · apply State.cyc_keeps
      · intro y1 y2
        apply Cyc.cref_keeps
        apply Cyc.hitsWith_keeps
        exact y2
      · apply State.advance_keeps
        exact h
    · extract_lets z3
      apply State.cyc_keeps
      · intro y4 y5
        extract_lets z6 z7 z8
        have hz6 : Keeps a b s0 z6.s := by
          unfold z6
          apply Cyc.cref_keeps
          apply Cyc.hitsWith_keeps
          exact y5
        clear_value z6
        split
        · exact hz6
        · apply Cyc.map_keeps
          · intro y9 y10
            apply State.mapWk_keeps
            exact y10
          · exact hz6
      · apply State.advance_keeps
        exact h

theorem execDiss_keeps {a b : Bool} {s0 : State} (w : WickId) (co : List Hit) (s : State) (h : Keeps a b s0 s) :
    KeepsNext a b s0 (execDiss w co s) := by
  unfold execDiss
  apply KeepsNext.of
  split
  · apply State.disCmd_keeps
    exact h
  · exact h

theorem State.imgErr_keeps {a b : Bool} {s0 : State} (s : State) (n : Nat) (h : Keeps a b s0 s) :
    Keeps a b s0 (State.imgErr s n) := by
  unfold State.imgErr
  apply State.setFld_keeps
  exact h

theorem State.activate_keeps {a b : Bool} {s0 : State} (s : State) (h : Keeps a b s0 s) : Keeps a b s0 s.activate := by
  have hn := fun n => State.imgErr_keeps s n h
  unfold State.activate
  split
  · exact hn _
  split
  · exact hn _
  split
  · exact hn _
  · exact (hn 0).update

theorem execActivate_keeps {a b : Bool} {s0 : State} (u_who : Who) (s : State) (h : Keeps a b s0 s) :
    KeepsNext a b s0 (execActivate u_who s) := by
  unfold execActivate
  apply KeepsNext.of
  apply State.fab_keeps
  · intro y1 y2
    apply State.activate_keeps
    exact y2
  · exact h

theorem execLog_keeps {a b : Bool} {s0 : State} (w : WickId) (s : State) (h : Keeps a b s0 s) :
    KeepsNext a b s0 (execLog w s) := by
  unfold execLog
  apply KeepsNext.of
  split
  · extract_lets z1 z2 z3
    apply State.mapWk_keeps
    apply State.advance_keeps
    exact h
  · exact h

theorem execHalt_keeps {a b : Bool} {s0 : State} (w : WickId) (s : State) (h : Keeps a b s0 s) :
    KeepsNext a b s0 (execHalt w s) := by
  unfold execHalt
  apply KeepsNext.of
  split
  · apply State.cyc_keeps
    · intro y1 y2
      apply Cyc.wickEnded_keeps
      apply Cyc.map_keeps
      · intro y3 y4
        apply State.mapWk_keeps
        exact y4
      · exact y2
    · exact h
  · exact h

theorem State.leaveQueue_keeps {a b : Bool} {s0 : State} (s : State) (w : WickId) (d : DomId) (h : Keeps a b s0 s) :
    Keeps a b s0 (State.leaveQueue s w d) := by
  unfold State.leaveQueue
  apply State.setDom_keeps
  exact h

theorem Cyc.wickFault_keeps {a b : Bool} {s0 : State} (c : Cyc) (w : WickId) (code : BitVec 4) (h : Keeps a b s0 c.s) :
    Keeps a b s0 (Cyc.wickFault c w code).s := by
  unfold Cyc.wickFault
  apply Cyc.raise_keeps
  apply Cyc.wickEnded_keeps
  apply Cyc.map_keeps
  · intro y1 y2
    apply State.mapWk_keeps
    exact y2
  · exact h

theorem State.wickFault_keeps {a b : Bool} {s0 : State} (s : State) (w : WickId) (code : BitVec 4) (h : Keeps a b s0 s) :
    Keeps a b s0 (State.wickFault s w code) := by
  unfold State.wickFault
  apply State.cyc_keeps
  · intro y1 y2
    apply Cyc.wickFault_keeps
    exact y2
  · exact h

theorem execLoop_keeps {a b : Bool} {s0 : State} (w : WickId) (s : State) (h : Keeps a b s0 s) :
    KeepsNext a b s0 (execLoop w s) := by
  unfold execLoop
  apply KeepsNext.of
  split
  · extract_lets z1 z2
    split
    · apply State.wickFault_keeps
      exact h
    · split
      · apply State.setWk_keeps
        exact h
      · apply State.setWk_keeps
        exact h
  · exact h

theorem execIllegalInstruction_keeps {a b : Bool} {s0 : State} (w : WickId) (s : State) (h : Keeps a b s0 s) :
    KeepsNext a b s0 (execIllegalInstruction w s) := by
  unfold execIllegalInstruction
  apply KeepsNext.of
  split
  · exact h
  · split
    · apply State.wickFault_keeps
      exact h
    · split
      · apply State.wickFault_keeps
        exact h
      · exact h

theorem execRaise_keeps {a b : Bool} {s0 : State} (w : WickId) (co : List Hit) (s : State) (h : Keeps a b s0 s) :
    KeepsNext a b s0 (execRaise w co s) := by
  unfold execRaise
  apply KeepsNext.of
  split
  · apply State.cyc_keeps
    · intro y1 y2
      apply Cyc.raise_keeps
      apply Cyc.hitsWith_keeps
      exact y2
    · apply State.advance_keeps
      exact h
  · exact h

theorem State.abandon_keeps {a : Bool} {s0 : State} (s : State) (w : WickId) (st : WickState) (h : Keeps a false s0 s) :
    Keeps a false s0 (State.abandon s w st) := by
  unfold State.abandon
  split
  · apply State.leaveQueue_keeps
    exact h
  · split
    · exact h
    · apply State.leaveBarrier_keeps
      exact h
  · apply State.dropSig_keeps
    exact h
  · extract_lets z1
    apply State.forAll_keeps
    · intro y2 y3 y4
      extract_lets z5
      apply State.setPort_keeps
      exact y4
    · exact h
  · exact h

theorem State.failHitches_keeps {a b : Bool} {s0 : State} (s : State) (h : Keeps a b s0 s) :
    Keeps a b s0 (State.failHitches s) := by
  unfold State.failHitches
  apply State.forAll_keeps
  · intro y1 y2 y3
    split
    · split
      · exact y3
      · apply State.goOn_keeps
        apply State.leaveQueue_keeps
        exact y3
    · exact y3
  · exact h

theorem State.dropOrders_keeps {a b : Bool} {s0 : State} (s : State) (h : Keeps a b s0 s) :
    Keeps a b s0 (State.dropOrders s) := by
  unfold State.dropOrders
  apply State.forAll_keeps
  · intro y1 y2 y3
    split
    · apply State.setDom_keeps
      exact y3
    · exact y3
  · exact h

theorem State.checkConf_keeps {a b : Bool} {s0 : State} (s : State) (h : Keeps a b s0 s) :
    Keeps a b s0 (State.checkConf s) := by
  unfold State.checkConf
  apply State.failHitches_keeps
  apply State.dropOrders_keeps
  apply State.forAll_keeps
  · intro y1 y2 y3
    extract_lets z4 z5 z6
    clear_value z4
    clear_value z5
    apply State.setDom_keeps
    exact y3
  · exact h

theorem execActivateDone_keeps {s0 : State} (s : State) (h : Keeps false false s0 s) :
    KeepsNext false false s0 (execActivateDone s) := by
  unfold execActivateDone
  apply KeepsNext.of
  split
  · exact h
  · extract_lets z1 z2 z3
    have hz2 : Keeps false false s0 z2 := by
      unfold z2
      refine Keeps.update (s := s) ?_
      exact h
    clear_value z2
    have hz3 : Keeps false false s0 z3 := by
      unfold z3
      split
      · apply State.loadImage_keeps
        exact hz2
      · exact hz2
    clear_value z3
    apply State.settleRsts_keeps
    apply State.checkConf_keeps
    apply State.setBit_keeps
    exact hz3

theorem execWaitEnd_keeps {a b : Bool} {s0 : State} (w : WickId) (s : State) (h : Keeps a b s0 s) :
    KeepsNext a b s0 (execWaitEnd w s) := by
  unfold execWaitEnd
  apply KeepsNext.of
  split
  · apply State.mapWk_keeps
    exact h
  · exact h

theorem execDis_keeps {a b : Bool} {s0 : State} (w : WickId) (co : List Hit) (s : State) (h : Keeps a b s0 s) :
    KeepsNext a b s0 (execDis w co s) := by
  unfold execDis
  apply KeepsNext.of
  split
  · apply State.disCmd_keeps
    exact h
  · exact h

theorem State.setV_keeps {a b : Bool} {s0 : State} (s : State) (w : WickId) (r : Fin 8) (v : Word) (h : Keeps a b s0 s) :
    Keeps a b s0 (State.setV s w r v) := by
  unfold State.setV
  apply State.mapWk_keeps
  exact h

theorem execSetv_keeps {a b : Bool} {s0 : State} (w : WickId) (s : State) (h : Keeps a b s0 s) :
    KeepsNext a b s0 (execSetv w s) := by
  unfold execSetv
  apply KeepsNext.of
  split
  · split
    · apply State.setV_keeps
      apply State.advance_keeps
      exact h
    · apply State.setV_keeps
      apply State.advance_keeps
      exact h
    · apply State.setV_keeps
      apply State.advance_keeps
      exact h
    · split
      · apply State.setV_keeps
        apply State.advance_keeps
        exact h
      · apply State.wickFault_keeps
        exact h
  · exact h

theorem execPmb_keeps {a b : Bool} {s0 : State} (w : WickId) (s : State) (h : Keeps a b s0 s) :
    KeepsNext a b s0 (execPmb w s) := by
  unfold execPmb
  apply KeepsNext.of
  split
  · extract_lets z1 z2 z3 z4 z5 z6 z7 z8 z9 z10 z11
    clear_value z8
    clear_value z9
    have hz10 : Keeps a b s0 z10 := by
      unfold z10
      apply State.advance_keeps
      exact h
    clear_value z10
    have hz11 : Keeps a b s0 z11 := by
      unfold z11
      apply State.mapWk_keeps
      exact hz10
    clear_value z11
    split
    · apply State.wickFault_keeps
      exact h
    · split
      · apply State.mapWk_keeps
        exact hz10
      · apply State.queueTx_keeps
        exact hz11
  · exact h

theorem execDisch_keeps {a b : Bool} {s0 : State} (w : WickId) (co : List Hit) (s : State) (h : Keeps a b s0 s) :
    KeepsNext a b s0 (execDisch w co s) := by
  unfold execDisch
  apply KeepsNext.of
  split
  · apply State.railCmd_keeps
    exact h
  · exact h

theorem execUnhitch_keeps {a b : Bool} {s0 : State} (w : WickId) (s : State) (h : Keeps a b s0 s) :
    KeepsNext a b s0 (execUnhitch w s) := by
  unfold execUnhitch
  apply KeepsNext.of
  split
  · extract_lets z1 z2
    clear_value z1
    have hz2 : Keeps a b s0 z2 := by
      unfold z2
      apply State.mapWk_keeps
      apply State.advance_keeps
      exact h
    clear_value z2
    split
    · apply State.releaseHitch_keeps
      exact hz2
    · exact hz2
  · exact h

theorem State.enCmd_keeps {a b : Bool} {s0 : State} (s : State) (w : WickId) (l : List Rail) (co : List Hit) (h : Keeps a b s0 s) :
    Keeps a b s0 (State.enCmd s w l co) := by
  unfold State.enCmd
  split
  · apply State.cyc_keeps
    · intro y1 y2
      apply Cyc.cref_keeps
      apply Cyc.hitsWith_keeps
      exact y2
    · apply State.advance_keeps
      exact h
  · apply State.railCmd_keeps
    exact h

theorem execRsto_keeps {a b : Bool} {s0 : State} (w : WickId) (write : Option Word) (s : State) (h : Keeps a b s0 s) :
    KeepsNext a b s0 (execRsto w write s) := by
  unfold execRsto
  apply KeepsNext.of
  split
  · extract_lets z1
    have hz1 : Keeps a b s0 z1 := by
      unfold z1
      split
      · apply State.fab_keeps
        · intro y2 y3
          apply State.rstOvrWrite_keeps
          exact y3
        · exact h
      · exact h
    clear_value z1
    apply State.setOvr_keeps
    apply State.advance_keeps
    exact hz1
  · exact h

theorem State.commitDone_keeps {a b : Bool} {s0 : State} (s : State) (h : Keeps a b s0 s) :
    Keeps a b s0 s.commitDone := by
  unfold State.commitDone
  have h1 : Keeps a b s0 ((s.imgErr 0).setBit aSeqStat 29 true) := State.setBit_keeps _ _ _ _ (State.imgErr_keeps _ _ h)
  extract_lets act u k s1
  have h2 : Keeps a b s0 s1 := h1.update
  clear_value s1
  split
  · exact State.activate_keeps _ h2
  · exact h2

theorem State.waitOrGo_keeps {a b : Bool} {s0 : State} (s : State) (w : WickId) (ok : Bool) (dur : Nat) (k : WaitFor) (h : Keeps a b s0 s) :
    Keeps a b s0 (State.waitOrGo s w ok dur k) := by
  unfold State.waitOrGo
  extract_lets z1
  have hz1 : Keeps a b s0 z1 := by
    unfold z1
    apply State.advance_keeps
    exact h
  clear_value z1
  split
  · apply State.mapWk_keeps
    exact hz1
  · split
    · apply State.mapWk_keeps
      exact hz1
    · apply State.mapWk_keeps
      exact hz1

theorem execWsig_keeps {a b : Bool} {s0 : State} (w : WickId) (arr : BitVec 16) (s : State) (h : Keeps a b s0 s) :
    KeepsNext a b s0 (execWsig w arr s) := by
  unfold execWsig
  apply KeepsNext.of
  split
  · extract_lets z1 z2 z3
    clear_value z2
    have hz3 : Keeps a b s0 z3 := by
      unfold z3
      apply State.waitOrGo_keeps
      exact h
    clear_value z3
    apply State.mapWk_keeps
    exact hz3
  · exact h

theorem execSyncSuccess_keeps {a b : Bool} {s0 : State} (w : WickId) (s : State) (h : Keeps a b s0 s) :
    KeepsNext a b s0 (execSyncSuccess w s) := by
  unfold execSyncSuccess
  apply KeepsNext.of
  split
  · exact h
  · split
    · split
      · apply State.goOn_keeps
        exact h
      · exact h
    · exact h

theorem execWait_keeps {a b : Bool} {s0 : State} (w : WickId) (s : State) (h : Keeps a b s0 s) :
    KeepsNext a b s0 (execWait w s) := by
  unfold execWait
  apply KeepsNext.of
  split
  · extract_lets z1 z2
    have hz2 : Keeps a b s0 z2 := by
      unfold z2
      apply State.advance_keeps
      exact h
    clear_value z2
    split
    · exact hz2
    · apply State.mapWk_keeps
      exact hz2
  · exact h

theorem execWsigSuccess_keeps {a b : Bool} {s0 : State} (w : WickId) (arr : BitVec 16) (s : State) (h : Keeps a b s0 s) :
    KeepsNext a b s0 (execWsigSuccess w arr s) := by
  unfold execWsigSuccess
  apply KeepsNext.of
  split
  · exact h
  · split
    · split
      · apply State.mapWk_keeps
        apply State.goOn_keeps
        exact h
      · exact h
    · exact h

theorem execJmp_keeps {a b : Bool} {s0 : State} (w : WickId) (s : State) (h : Keeps a b s0 s) :
    KeepsNext a b s0 (execJmp w s) := by
  unfold execJmp
  apply KeepsNext.of
  split
  · apply State.mapWk_keeps
    exact h
  · exact h

theorem State.stopWick_keeps {a : Bool} {s0 : State} (s : State) (w : WickId) (h : Keeps a false s0 s) :
    Keeps a false s0 (State.stopWick s w) := by
  unfold State.stopWick
  extract_lets z1
  apply State.abandon_keeps
  apply State.mapWk_keeps
  exact h

theorem execWickBoundaryStop_keeps {a : Bool} {s0 : State} (w : WickId) (s : State) (h : Keeps a false s0 s) :
    KeepsNext a false s0 (execWickBoundaryStop w s) := by
  unfold execWickBoundaryStop
  apply KeepsNext.of
  split
  · exact h
  · apply State.cyc_keeps
    · intro y1 y2
      extract_lets z3
      have hz3 : Keeps a false s0 z3.s := by
        unfold z3
        apply Cyc.map_keeps
        · intro y4 y5
          apply State.stopWick_keeps
          exact y5
        · exact y2
      clear_value z3
      split
      · split
        · split
          · apply Cyc.endProg_keeps
            exact hz3
          · exact hz3
        · apply Cyc.wickEnded_keeps
          exact hz3
      · apply Cyc.launch_keeps
        exact hz3
    · exact h

theorem execWaitTimeout_keeps {a : Bool} {s0 : State} (w : WickId) (s : State) (h : Keeps a false s0 s) :
    KeepsNext a false s0 (execWaitTimeout w s) := by
  unfold execWaitTimeout
  apply KeepsNext.of
  split
  · exact h
  · split
    · split
      · exact h
      · apply State.goOn_keeps
        exact h
    · split
      · exact h
      · apply State.goOn_keeps
        exact h
    · split
      · exact h
      · apply State.goOn_keeps
        apply State.leaveQueue_keeps
        exact h
    · split
      · exact h
      · apply State.leaveBarrier_keeps
        apply State.goOn_keeps
        exact h
    · exact h

theorem execWickStart_keeps {a b : Bool} {s0 : State} (u_who : Who) (w : WickId) (a' : BitVec 12) (s : State) (h : Keeps a b s0 s) :
    KeepsNext a b s0 (execWickStart u_who w a' s) := by
  unfold execWickStart
  apply KeepsNext.of
  apply State.fab_keeps
  · intro y1 y2
    apply State.wickStart_keeps
    exact y2
  · exact h

theorem execWickStop_keeps {a b : Bool} {s0 : State} (u_who : Who) (w : WickId) (s : State) (h : Keeps a b s0 s) :
    KeepsNext a b s0 (execWickStop u_who w s) := by
  unfold execWickStop
  apply KeepsNext.of
  apply State.fab_keeps
  · intro y1 y2
    apply State.wickStop_keeps
    exact y2
  · exact h

theorem execChk_keeps {a b : Bool} {s0 : State} (w : WickId) (s : State) (h : Keeps a b s0 s) :
    KeepsNext a b s0 (execChk w s) := by
  unfold execChk
  apply KeepsNext.of
  split
  · split
    · apply State.wickFault_keeps
      exact h
    · split
      · apply State.mapWk_keeps
        exact h
      · apply State.advance_keeps
        exact h
  · exact h

theorem execMarg_keeps {a b : Bool} {s0 : State} (w : WickId) (co : List Hit) (s : State) (h : Keeps a b s0 s) :
    KeepsNext a b s0 (execMarg w co s) := by
  unfold execMarg
  apply KeepsNext.of
  split
  · extract_lets z1 z2 z3 z4
    clear_value z3
    apply State.cyc_keeps
    · intro y5 y6
      split
      · apply Cyc.cref_keeps
        apply Cyc.hitsWith_keeps
        exact y6
      · split
        · apply Cyc.cref_keeps
          apply Cyc.hitsWith_keeps
          apply Cyc.flag_keeps
          exact y6
        · apply Cyc.cref_keeps
          apply Cyc.hitsWith_keeps
          exact y6
    · apply State.advance_keeps
      exact h
  · exact h

theorem execWaitc_keeps {a b : Bool} {s0 : State} (w : WickId) (s : State) (h : Keeps a b s0 s) :
    KeepsNext a b s0 (execWaitc w s) := by
  unfold execWaitc
  apply KeepsNext.of
  split
  · split
    · apply State.wickFault_keeps
      exact h
    · apply State.waitOrGo_keeps
      exact h
  · exact h

theorem execWaitcSuccess_keeps {a b : Bool} {s0 : State} (w : WickId) (s : State) (h : Keeps a b s0 s) :
    KeepsNext a b s0 (execWaitcSuccess w s) := by
  unfold execWaitcSuccess
  apply KeepsNext.of
  split
  · exact h
  · split
    · split
      · apply State.goOn_keeps
        exact h
      · exact h
    · exact h

theorem execCall_keeps {a b : Bool} {s0 : State} (w : WickId) (s : State) (h : Keeps a b s0 s) :
    KeepsNext a b s0 (execCall w s) := by
  unfold execCall
  apply KeepsNext.of
  split
  · extract_lets z1
    split
    · apply State.wickFault_keeps
      exact h
    · apply State.setWk_keeps
      exact h
  · exact h

theorem execEns_keeps {a b : Bool} {s0 : State} (w : WickId) (co : List Hit) (s : State) (h : Keeps a b s0 s) :
    KeepsNext a b s0 (execEns w co s) := by
  unfold execEns
  apply KeepsNext.of
  split
  · apply State.enCmd_keeps
    exact h
  · exact h

theorem execHitch_keeps {a b : Bool} {s0 : State} (w : WickId) (s : State) (h : Keeps a b s0 s) :
    KeepsNext a b s0 (execHitch w s) := by
  unfold execHitch
  apply KeepsNext.of
  split
  · split
    · apply State.mapWk_keeps
      apply State.advance_keeps
      exact h
    · extract_lets z1 z2 z3 z4 z5 z6 z7
      clear_value z1
      have hz3 : Keeps a b s0 z3 := by
        unfold z3
        split
        · apply State.setDom_keeps
          exact h
        · exact h
      clear_value z3
      clear_value z4
      have hz6 : Keeps a b s0 z6 := by
        unfold z6
        apply State.waitOrGo_keeps
        exact hz3
      clear_value z6
      split
      · apply State.setDom_keeps
        exact hz6
      · exact hz6
  · exact h

theorem execAddv_keeps {a b : Bool} {s0 : State} (w : WickId) (s : State) (h : Keeps a b s0 s) :
    KeepsNext a b s0 (execAddv w s) := by
  unfold execAddv
  apply KeepsNext.of
  split
  · extract_lets z1
    apply State.setV_keeps
    apply State.advance_keeps
    exact h
  · exact h

theorem State.commit_keeps {a b : Bool} {s0 : State} (s : State) (act : Bool) (h : Keeps a b s0 s) :
    Keeps a b s0 (State.commit s act) := by
  unfold State.commit
  extract_lets z1 z2
  split
  · apply State.imgErr_keeps
    exact h
  · split
    · apply State.imgErr_keeps
      exact h
    · split
      · apply State.imgErr_keeps
        exact h
      · refine Keeps.update (s := s) ?_
        exact h

theorem execCommit_keeps {a b : Bool} {s0 : State} (u_who : Who) (act : Bool) (s : State) (h : Keeps a b s0 s) :
    KeepsNext a b s0 (execCommit u_who act s) := by
  unfold execCommit
  apply KeepsNext.of
  apply State.fab_keeps
  · intro y1 y2
    apply State.commit_keeps
    exact y2
  · exact h

theorem execHitchSuccess_keeps {a b : Bool} {s0 : State} (w : WickId) (s : State) (h : Keeps a b s0 s) :
    KeepsNext a b s0 (execHitchSuccess w s) := by
  unfold execHitchSuccess
  apply KeepsNext.of
  split
  · exact h
  · split
    · split
      · apply State.goOn_keeps
        apply State.leaveQueue_keeps
        exact h
      · exact h
    · exact h

theorem execLogStallEnd_keeps {a b : Bool} {s0 : State} (w : WickId) (s : State) (h : Keeps a b s0 s) :
    KeepsNext a b s0 (execLogStallEnd w s) := by
  unfold execLogStallEnd
  apply KeepsNext.of
  split
  · exact h
  · split
    · split
      · apply State.mapWk_keeps
        exact h
      · exact h
    · exact h

theorem execCommitComplete_keeps {a : Bool} {s0 : State} (s : State) (h : Keeps a false s0 s) :
    KeepsNext a false s0 (execCommitComplete s) := by
  unfold execCommitComplete
  refine .of ?_
  split
  · exact h
  split
  · exact .cond (State.commitDone_keeps _ h) h
  · split
    · exact Keeps.update (s := s.imgErr 2) (State.imgErr_keeps _ _ h)
    split
    · exact h
    split
    · exact Keeps.update (s := (s.imgErr 4).orReg aKpsStat (bitw 3)) (State.orReg_keeps _ _ _ (State.imgErr_keeps _ _ h))
    · extract_lets q num cov u
      have hq : Keeps a false s0 q.1 := State.writeCommit_keeps _ _ _ _ _ h
      have hu : Keeps a false s0 u := State.requestStore_keeps _ _ _ hq
      clear_value u
      exact hu.update

theorem execSync_keeps {a : Bool} {s0 : State} (w : WickId) (s : State) (h : Keeps a false s0 s) :
    KeepsNext a false s0 (execSync w s) := by
  unfold execSync
  apply KeepsNext.of
  split
  · extract_lets z1 z2 z3 z4 z5 z6 z7
    clear_value z1
    clear_value z4
    have hz5 : Keeps a false s0 z5 := by
      unfold z5
      apply State.mapWk_keeps
      apply State.advance_keeps
      exact h
    clear_value z5
    have hz6 : Keeps a false s0 z6 := by
      unfold z6
      split
      · exact hz5
      · apply State.barrierArrive_keeps
        exact hz5
    clear_value z6
    split
    · dsimp only [z7]
      apply State.mapWk_keeps
      exact hz6
    · split
      · apply State.leaveBarrier_keeps
        dsimp only [z7]
        apply State.mapWk_keeps
        exact hz6
      · exact hz6
  · exact h

theorem execEn_keeps {a b : Bool} {s0 : State} (w : WickId) (co : List Hit) (s : State) (h : Keeps a b s0 s) :
    KeepsNext a b s0 (execEn w co s) := by
  unfold execEn
  apply KeepsNext.of
  split
  · apply State.enCmd_keeps
    exact h
  · exact h

theorem execSigset_keeps {a b : Bool} {s0 : State} (u_who : Who) (w : WickId) (n : Fin 16) (s : State) (h : Keeps a b s0 s) :
    KeepsNext a b s0 (execSigset u_who w n s) := by
  unfold execSigset
  apply KeepsNext.of
  apply State.fab_keeps
  · intro y1 y2
    apply State.setSignal_keeps
    exact y2
  · exact h

theorem execNop_keeps {a b : Bool} {s0 : State} (w : WickId) (s : State) (h : Keeps a b s0 s) :
    KeepsNext a b s0 (execNop w s) := by
  unfold execNop
  apply KeepsNext.of
  split
  · apply State.advance_keeps
    exact h
  · exact h

theorem State.seqCmd_keeps {a b : Bool} {s0 : State} (s : State) (v : Word) (h : Keeps a b s0 s) :
    Keeps a b s0 (State.seqCmd s v) := by
  unfold State.seqCmd
  split
  · apply State.commit_keeps
    exact h
  · split
    · apply State.activate_keeps
      exact h
    · exact h

theorem execRet_keeps {a b : Bool} {s0 : State} (w : WickId) (s : State) (h : Keeps a b s0 s) :
    KeepsNext a b s0 (execRet w s) := by
  unfold execRet
  apply KeepsNext.of
  split
  · split
    · apply State.wickFault_keeps
      exact h
    · apply State.mapWk_keeps
      exact h
  · exact h

theorem execTlm_keeps {a b : Bool} {s0 : State} (w : WickId) (s : State) (h : Keeps a b s0 s) :
    KeepsNext a b s0 (execTlm w s) := by
  unfold execTlm
  apply KeepsNext.of
  split
  · extract_lets z1
    split
    · apply State.tlmRequest_keeps
      apply State.advance_keeps
      exact h
    · apply State.wickFault_keeps
      exact h
  · exact h

theorem execSleephint_keeps {a b : Bool} {s0 : State} (w : WickId) (s : State) (h : Keeps a b s0 s) :
    KeepsNext a b s0 (execSleephint w s) := by
  unfold execSleephint
  apply KeepsNext.of
  split
  · extract_lets z1
    apply State.mapWk_keeps
    apply State.advance_keeps
    exact h
  · exact h

end Sys2Proof.Machine
end

