-- ==== Sys2Proof/Laws/KeepsSequencer.lean ====
section
/-! SUPPORT. What each operation of `Machine/Sequencer.lean` keeps: one lemma per operation that answers a state. -/

set_option Elab.async false

namespace Sys2Proof.Machine

theorem State.reqRefuse_keeps {a b : Bool} {s0 : State} (s : State) (d : DomId) (h : Keeps a b s0 s) :
    Keeps a b s0 (State.reqRefuse s d).1 := by
  unfold State.reqRefuse
  dsimp only
  apply State.setDom_keeps
  exact h

theorem State.ownerHitch_keeps {a b : Bool} {s0 : State} (s : State) (o : Owner) (d : DomId) (h : Keeps a b s0 s) :
    Keeps a b s0 (State.ownerHitch s o d).1 := by
  unfold State.ownerHitch
  extract_lets z1
  split
  · dsimp only
    apply State.setDom_keeps
    exact h
  · apply State.reqRefuse_keeps
    exact h

theorem State.ownerMargin_keeps {a b : Bool} {s0 : State} (s : State) (d : DomId) (r : Rail) (step : Int) (h : Keeps a b s0 s) :
    Keeps a b s0 (State.ownerMargin s d r step).1 := by
  unfold State.ownerMargin
  extract_lets z1
  clear_value z1
  split
  · apply State.reqRefuse_keeps
    exact h
  · split
    · apply State.reqRefuse_keeps
      apply State.flag_keeps
      exact h
    · dsimp only
      apply State.cyc_keeps
      · intro y2 y3
        apply Cyc.hits_keeps
        exact y3
      · exact h

theorem State.dcmd_keeps {a b : Bool} {s0 : State} (s : State) (who : Who) (d : DomId) (op : Nat) (r : Rail) (step : Int) (h : Keeps a b s0 s) :
    Keeps a b s0 (State.dcmd s who d op r step).1 := by
  unfold State.dcmd
  extract_lets z1
  split
  · exact h
  · split
    · exact h
    · split
      · apply State.reqRefuse_keeps
        exact h
      · split
        · split
          · dsimp only
            apply State.releaseHitch_keeps
            exact h
          · apply State.reqRefuse_keeps
            exact h
        · split
          · apply State.reqRefuse_keeps
            exact h
          · split
            · apply State.ownerHitch_keeps
              exact h
            · split
              · apply State.reqRefuse_keeps
                exact h
              · split
                · dsimp only
                  apply State.cyc_keeps
                  · intro y2 y3
                    apply Cyc.onNow_keeps
                    exact y3
                  · exact h
                · dsimp only
                  apply State.cyc_keeps
                  · intro y4 y5
                    apply Cyc.offNow_keeps
                    exact y5
                  · exact h
                · apply State.ownerMargin_keeps
                  exact h

theorem execDcmdMargin_keeps {a b : Bool} {s0 : State} (who : Who) (d : DomId) (r : Rail) (step : BitVec 12) (s : State) (h : Keeps a b s0 s) :
    KeepsNext a b s0 (execDcmdMargin who d r step s) := by
  unfold execDcmdMargin
  apply KeepsNext.of
  apply State.fab_keeps
  · intro y1 y2
    apply State.dcmd_keeps
    exact y2
  · exact h

theorem execShutdownRankTimeout_keeps {a b : Bool} {s0 : State} (s : State) (h : Keeps a b s0 s) :
    KeepsNext a b s0 (execShutdownRankTimeout s) := by
  unfold execShutdownRankTimeout
  apply KeepsNext.of
  split
  · split
    · apply State.cyc_keeps
      · intro y1 y2
        apply Cyc.shutFrom_keeps
        apply Cyc.cutRank_keeps
        exact y2
      · exact h
    · exact h
  · exact h

theorem execDcmdUnhitch_keeps {a b : Bool} {s0 : State} (who : Who) (d : DomId) (s : State) (h : Keeps a b s0 s) :
    KeepsNext a b s0 (execDcmdUnhitch who d s) := by
  unfold execDcmdUnhitch
  apply KeepsNext.of
  apply State.fab_keeps
  · intro y1 y2
    apply State.dcmd_keeps
    exact y2
  · exact h

theorem State.clrCnt_keeps {a b : Bool} {s0 : State} (s : State) (h : Keeps a b s0 s) :
    Keeps a b s0 (State.clrCnt s) := by
  unfold State.clrCnt
  apply State.forAll_keeps
  · intro y1 y2 y3
    apply State.setReg_keeps
    exact y3
  · exact h

theorem execClrcnt_keeps {a b : Bool} {s0 : State} (u_who : Who) (s : State) (h : Keeps a b s0 s) :
    KeepsNext a b s0 (execClrcnt u_who s) := by
  unfold execClrcnt
  apply KeepsNext.of
  apply State.fab_keeps
  · intro y1 y2
    apply State.clrCnt_keeps
    exact y2
  · exact h

theorem State.applyReactions_keeps {a b : Bool} {s0 : State} (s : State) (h : Keeps a b s0 s) :
    Keeps a b s0 (State.applyReactions s) := by
  unfold State.applyReactions
  split
  · exact h
  · apply State.cyc_keeps
    · intro y1 y2
      apply Cyc.react_keeps
      exact y2
    · refine Keeps.update (s := s) ?_
      exact h

theorem execReactionApply_keeps {a b : Bool} {s0 : State} (s : State) (h : Keeps a b s0 s) :
    KeepsNext a b s0 (execReactionApply s) := by
  unfold execReactionApply
  apply KeepsNext.of
  apply State.applyReactions_keeps
  exact h

theorem execShadowClose_keeps {a b : Bool} {s0 : State} (doms : BitVec 16) (device : Bool) (s : State) (h : Keeps a b s0 s) :
    KeepsNext a b s0 (execShadowClose doms device s) := by
  unfold execShadowClose
  apply KeepsNext.of
  extract_lets z1 z2 z3 z4 z5 z6 z7
  have hz3 : Keeps a b s0 z3 := by
    unfold z3
    refine Keeps.update (s := s) ?_
    exact h
  clear_value z3
  have hz7 : Keeps a b s0 z7 := by
    unfold z7
    refine Keeps.update (s := z3) ?_
    exact hz3
  clear_value z7
  split
  · exact hz7
  · apply State.cyc_keeps
    · intro y8 y9
      apply Cyc.react_keeps
      exact y9
    · exact hz7

theorem State.seqStore_keeps {a b : Bool} {s0 : State} (s : State) (a' : Nat) (v : Word) (ok : Bool) (h : Keeps a b s0 s) :
    Keeps a b s0 (State.seqStore s a' v ok).1 := by
  unfold State.seqStore
  split
  · dsimp only
    apply State.setReg_keeps
    exact h
  · dsimp only
    apply State.orReg_keeps
    exact h

theorem State.wickWrite_keeps {a : Bool} {s0 : State} (s : State) (w : WickId) (off : Nat) (v : Word) (h : Keeps a false s0 s) :
    KeepsOpt a false s0 (State.wickWrite s w off v) := by
  unfold State.wickWrite
  split
  · apply KeepsOpt.some
    apply State.seqStore_keeps
    exact h
  · apply KeepsOpt.some
    dsimp only
    apply State.mapWk_keeps
    exact h
  · apply KeepsOpt.some
    dsimp only
    apply State.mapWk_keeps
    exact h
  · apply KeepsOpt.some
    apply State.wickCmd_keeps
    exact h
  · exact KeepsOpt.none

theorem State.reorder_keeps {a b : Bool} {s0 : State} (s : State) (d : DomId) (old : WickId) (h : Keeps a b s0 s) :
    Keeps a b s0 (State.reorder s d old) := by
  unfold State.reorder
  split
  · split
    · exact h
    · apply State.cyc_keeps
      · intro y1 y2
        apply Cyc.launch_keeps
        apply Cyc.order_keeps
        exact y2
      · exact h
  · exact h

theorem State.domWrite_keeps {a : Bool} {s0 : State} (s : State) (who : Who) (d : DomId) (off : Nat) (v : Word) (h : Keeps a false s0 s) :
    KeepsOpt a false s0 (State.domWrite s who d off v) := by
  unfold State.domWrite
  extract_lets z1 z2 z3 z4 z5 z6 z7 z8
  clear_value z2
  clear_value z4
  have hz5 : Keeps a false s0 z5.1 := by
    unfold z5
    apply State.seqStore_keeps
    exact h
  clear_value z5
  have hz6 : Keeps a false s0 z6.1 := by
    unfold z6
    apply State.seqStore_keeps
    exact h
  clear_value z6
  have hz7 : Keeps a false s0 z7.1 := by
    unfold z7
    apply State.seqStore_keeps
    exact h
  clear_value z7
  split
  · apply KeepsOpt.some
    split
    · dsimp only
      apply State.settleRsts_keeps
      apply State.reorder_keeps
      apply State.checkConf_keeps
      exact hz5
    · exact hz5
  · apply KeepsOpt.some
    split
    · dsimp only
      apply State.settleRsts_keeps
      apply State.checkConf_keeps
      exact hz6
    · exact hz6
  · apply KeepsOpt.some
    split
    · dsimp only
      apply State.settleRsts_keeps
      exact hz7
    · exact hz7
  · apply KeepsOpt.some
    split
    · dsimp only
      apply State.settleRsts_keeps
      exact hz7
    · exact hz7
  · apply KeepsOpt.some
    apply State.seqStore_keeps
    exact h
  · apply KeepsOpt.some
    dsimp only
    apply State.setDom_keeps
    exact h
  · apply KeepsOpt.some
    apply State.dcmd_keeps
    exact h
  · exact KeepsOpt.none

theorem State.disarmAll_keeps {a b : Bool} {s0 : State} (s : State) (h : Keeps a b s0 s) :
    Keeps a b s0 (State.disarmAll s) := by
  unfold State.disarmAll
  apply State.forAll_keeps
  · intro y1 y2 y3
    apply State.setReg_keeps
    exact y3
  · exact h

theorem State.fire_keeps {a b : Bool} {s0 : State} (s : State) (disarm : Bool) (co : List Hit) (h : Keeps a b s0 s) :
    Keeps a b s0 (State.fire s disarm co) := by
  unfold State.fire
  extract_lets z1 z2 z3 z4 z5 z6 z7 z8 z9 z10 z11 z12 z13
  clear_value z2
  have hz3 : Keeps a b s0 z3 := by
    unfold z3
    apply State.setBit_keeps
    exact h
  clear_value z3
  have hz4 : Keeps a b s0 z4 := by
    unfold z4
    split
    · apply State.disarmAll_keeps
      exact hz3
    · exact hz3
  clear_value z4
  have hz6 : Keeps a b s0 z6.s := by
    unfold z6
    exact hz4
  clear_value z6
  have hz8 : Keeps a b s0 z8.s := by
    unfold z8
    apply Cyc.forAll_keeps
    · intro y14 y15 y16
      split
      · apply Cyc.map_keeps
        · intro y17 y18
          split
          · apply State.setCh_keeps
            exact y18
          · exact y18
        · exact y16
      · exact y16
    · exact hz6
  clear_value z8
  have hz9 : Keeps a b s0 z9.s := by
    unfold z9
    apply Cyc.hitsWith_keeps
    exact hz8
  clear_value z9
  have hz10 : Keeps a b s0 z10.s := by
    unfold z10
    apply Cyc.forAll_keeps
    · intro y19 y20 y21
      apply Cyc.map_keeps
      · intro y22 y23
        apply State.setCh_keeps
        exact y23
      · apply Cyc.flag_keeps
        exact y21
    · exact hz9
  clear_value z10
  have hz11 : Keeps a b s0 z11.s := by
    unfold z11
    split
    · exact hz10
    · apply Cyc.forAll_keeps
      · intro y24 y25 y26
        split
        · split
          · apply Cyc.map_keeps
            · intro y27 y28
              apply State.setCh_keeps
              exact y28
            · exact y26
          · exact y26
        · exact y26
      · exact hz10
  clear_value z11
  apply Cyc.finish_keeps
  exact hz11

theorem State.fltClear_keeps {a b : Bool} {s0 : State} (s : State) (h : Keeps a b s0 s) :
    Keeps a b s0 (State.fltClear s).1 := by
  unfold State.fltClear
  split
  · dsimp only
    apply State.orReg_keeps
    exact h
  · extract_lets z1 z2 z3 z4 z5
    have hz1 : Keeps a b s0 z1 := by
      unfold z1
      apply State.setFld_keeps
      exact h
    clear_value z1
    have hz2 : Keeps a b s0 z2 := by
      unfold z2
      apply State.setReg_keeps
      apply State.setReg_keeps
      apply State.setReg_keeps
      apply State.setReg_keeps
      exact hz1
    clear_value z2
    clear_value z3
    have hz5 : Keeps a b s0 z5 := by
      unfold z5
      refine Keeps.update (s := z2) ?_
      exact hz2
    clear_value z5
    dsimp only
    split
    · apply State.requestStore_keeps
      exact hz5
    · exact hz5

theorem execClear_keeps {a b : Bool} {s0 : State} (u_who : Who) (s : State) (h : Keeps a b s0 s) :
    KeepsNext a b s0 (execClear u_who s) := by
  unfold execClear
  apply KeepsNext.of
  apply State.fab_keeps
  · intro y1 y2
    apply State.fltClear_keeps
    exact y2
  · exact h

theorem execDcmdOn_keeps {a b : Bool} {s0 : State} (who : Who) (d : DomId) (react : Bool) (s : State) (h : Keeps a b s0 s) :
    KeepsNext a b s0 (execDcmdOn who d react s) := by
  unfold execDcmdOn
  apply KeepsNext.of
  apply State.fab_keeps
  · intro y1 y2
    apply State.dcmd_keeps
    exact y2
  · split
    · apply State.applyReactions_keeps
      exact h
    · exact h

theorem State.injRefuse_keeps {a b : Bool} {s0 : State} (s : State) (h : Keeps a b s0 s) :
    Keeps a b s0 (State.injRefuse s).1 := by
  unfold State.injRefuse
  dsimp only
  apply State.orReg_keeps
  exact h

theorem State.injCmd_keeps {a b : Bool} {s0 : State} (s : State) (fire : Bool) (disarm : Bool) (co : List Hit) (h : Keeps a b s0 s) :
    Keeps a b s0 (State.injCmd s fire disarm co).1 := by
  unfold State.injCmd
  split
  · apply State.injRefuse_keeps
    exact h
  · dsimp only
    split
    · apply State.fire_keeps
      exact h
    · split
      · apply State.disarmAll_keeps
        exact h
      · exact h

theorem execFire_keeps {a b : Bool} {s0 : State} (u_who : Who) (andDisarm : Bool) (co : List Hit) (s : State) (h : Keeps a b s0 s) :
    KeepsNext a b s0 (execFire u_who andDisarm co s) := by
  unfold execFire
  apply KeepsNext.of
  apply State.fab_keeps
  · intro y1 y2
    apply State.injCmd_keeps
    exact y2
  · exact h

theorem execPendingUpStart_keeps {a b : Bool} {s0 : State} (d : DomId) (s : State) (h : Keeps a b s0 s) :
    KeepsNext a b s0 (execPendingUpStart d s) := by
  unfold execPendingUpStart
  apply KeepsNext.of
  extract_lets z1 z2
  clear_value z2
  split
  · exact h
  · apply State.cyc_keeps
    · intro y3 y4
      apply Cyc.launch_keeps
      apply Cyc.order_keeps
      apply Cyc.map_keeps
      · intro y5 y6
        apply State.setDom_keeps
        exact y6
      · exact y4
    · exact h

theorem execDcmdHitch_keeps {a b : Bool} {s0 : State} (who : Who) (d : DomId) (s : State) (h : Keeps a b s0 s) :
    KeepsNext a b s0 (execDcmdHitch who d s) := by
  unfold execDcmdHitch
  apply KeepsNext.of
  apply State.fab_keeps
  · intro y1 y2
    apply State.dcmd_keeps
    exact y2
  · exact h

theorem State.fltWrite_keeps {a : Bool} {s0 : State} (s : State) (a' : Nat) (v : Word) (h : Keeps a false s0 s) :
    KeepsOpt a false s0 (State.fltWrite s a' v) := by
  unfold State.fltWrite
  extract_lets z1 z2 z3 z4
  have hz3 : Keeps a false s0 z3.1 := by
    unfold z3
    split
    · apply State.fltClear_keeps
      exact h
    · exact h
  clear_value z3
  split
  · apply KeepsOpt.some
    dsimp only [z2]
    split
    · dsimp only
      apply State.orReg_keeps
      exact h
    · dsimp only
      apply State.setReg_keeps
      exact h
  · split
    · apply KeepsOpt.some
      dsimp only
      apply State.clrReg_keeps
      exact h
    · split
      · apply KeepsOpt.some
        split
        · dsimp only
          apply State.clrCnt_keeps
          exact hz3
        · exact hz3
      · split
        · apply KeepsOpt.some
          split
          · apply State.injRefuse_keeps
            exact h
          · dsimp only
            apply State.setReg_keeps
            exact h
        · split
          · apply KeepsOpt.some
            apply State.injCmd_keeps
            exact h
          · split
            · apply KeepsOpt.some
              split
              · apply State.injRefuse_keeps
                exact h
              · dsimp only
                apply State.setReg_keeps
                exact h
            · split
              · apply KeepsOpt.some
                dsimp only
                apply State.clrReg_keeps
                exact h
              · split
                · apply KeepsOpt.some
                  dsimp only [z2]
                  split
                  · dsimp only
                    apply State.orReg_keeps
                    exact h
                  · dsimp only
                    apply State.setReg_keeps
                    exact h
                · split
                  · apply KeepsOpt.some
                    dsimp only [z2]
                    split
                    · dsimp only
                      apply State.orReg_keeps
                      exact h
                    · dsimp only
                      apply State.setReg_keeps
                      exact h
                  · exact KeepsOpt.none

theorem execShutdownRankDone_keeps {a b : Bool} {s0 : State} (s : State) (h : Keeps a b s0 s) :
    KeepsNext a b s0 (execShutdownRankDone s) := by
  unfold execShutdownRankDone
  apply KeepsNext.of
  split
  · split
    · exact h
    · apply State.cyc_keeps
      · intro y1 y2
        apply Cyc.shutFrom_keeps
        exact y2
      · exact h
  · exact h

theorem execSystemResetStore_keeps {a b : Bool} {s0 : State} (s : State) (h : Keeps a b s0 s) :
    KeepsNext a b s0 (execSystemResetStore s) := by
  unfold execSystemResetStore
  apply KeepsNext.of
  split
  · exact h
  · extract_lets z1 z2 z3 z4
    clear_value z2
    have hz3 : Keeps a b s0 z3 := by
      unfold z3
      apply State.requestStore_keeps
      exact h
    clear_value z3
    refine Keeps.update (s := z3) ?_
    exact hz3

theorem execDisarm_keeps {a b : Bool} {s0 : State} (u_who : Who) (s : State) (h : Keeps a b s0 s) :
    KeepsNext a b s0 (execDisarm u_who s) := by
  unfold execDisarm
  apply KeepsNext.of
  apply State.fab_keeps
  · intro y1 y2
    apply State.injCmd_keeps
    exact y2
  · exact h

theorem State.breakHitch_keeps {a b : Bool} {s0 : State} (s : State) (d : DomId) (h : Keeps a b s0 s) :
    Keeps a b s0 (State.breakHitch s d) := by
  unfold State.breakHitch
  extract_lets z1
  split
  · exact h
  · apply State.cyc_keeps
    · intro y2 y3
      extract_lets z4 z5 z6
      have hz5 : Keeps a b s0 z5.s := by
        unfold z5
        apply Cyc.raise_keeps
        apply Cyc.map_keeps
        · intro y7 y8
          apply State.count_keeps
          apply State.setDom_keeps
          exact y8
        · exact y3
      clear_value z5
      have hz6 : Keeps a b s0 z6.s := by
        unfold z6
        split
        · exact hz5
        · split
          · apply Cyc.map_keeps
            · intro y9 y10
              apply State.setDom_keeps
              exact y10
            · exact hz5
          · apply Cyc.offNow_keeps
            exact hz5
      clear_value z6
      split
      · apply Cyc.map_keeps
        · intro y11 y12
          apply State.setSignal_keeps
          apply State.setDom_keeps
          exact y12
        · exact hz5
      · apply Cyc.map_keeps
        · intro y13 y14
          apply State.releaseHitch_keeps
          exact y14
        · exact hz6
    · exact h

theorem execHitchBreak_keeps {a b : Bool} {s0 : State} (d : DomId) (s : State) (h : Keeps a b s0 s) :
    KeepsNext a b s0 (execHitchBreak d s) := by
  unfold execHitchBreak
  apply KeepsNext.of
  apply State.breakHitch_keeps
  exact h

theorem execDcmdOff_keeps {a b : Bool} {s0 : State} (who : Who) (d : DomId) (s : State) (h : Keeps a b s0 s) :
    KeepsNext a b s0 (execDcmdOff who d s) := by
  unfold execDcmdOff
  apply KeepsNext.of
  apply State.fab_keeps
  · intro y1 y2
    apply State.dcmd_keeps
    exact y2
  · exact h

theorem execShutdownEnd_keeps {a b : Bool} {s0 : State} (s : State) (h : Keeps a b s0 s) :
    KeepsNext a b s0 (execShutdownEnd s) := by
  unfold execShutdownEnd
  apply KeepsNext.of
  split
  · refine Keeps.update (s := s) ?_
    exact h
  · exact h

theorem State.seqWrite_keeps {a : Bool} {s0 : State} (s : State) (who : Who) (x : Nat) (v : Word)
    (h : Keeps a false s0 s) : KeepsOpt a false s0 (s.seqWrite who x v) := by
  have clr : ∀ m : Word, KeepsOpt a false s0 (some (s.clrReg x m, true)) := fun m =>
    KeepsOpt.some (State.clrReg_keeps _ _ _ h)
  have sto : ∀ (m : Word) (ok : Bool), KeepsOpt a false s0 (some (s.seqStore x m ok)) := fun m ok =>
    KeepsOpt.some (State.seqStore_keeps _ _ _ _ h)
  unfold State.seqWrite
  refine .ite (sto _ _) (.ite (clr _) (.ite (.some (State.seqCmd_keeps _ _ h)) (.ite (sto _ _) (.ite (sto _ _)
    (.ite (sto _ _) (.ite (sto _ _) (.ite (State.wickWrite_keeps _ _ _ _ h) (.ite (.some ?_) (.ite (sto _ _)
    (.ite (clr _) (.ite (State.domWrite_keeps _ _ _ _ _ h) .none)))))))))))
  split
  · exact State.orReg_keeps _ _ _ h
  · exact State.orReg_keeps _ _ _ h
  · exact State.setV_keeps _ _ _ _ h

theorem State.mrgWrite_keeps {a : Bool} {s0 : State} (s : State) (a' : Nat) (v : Word) (h : Keeps a false s0 s) :
    KeepsOpt a false s0 (State.mrgWrite s a' v) := by
  unfold State.mrgWrite
  extract_lets z1
  split
  · apply KeepsOpt.some
    dsimp only
    apply State.clrReg_keeps
    exact h
  · split
    · apply KeepsOpt.some
      dsimp only
      apply State.clrReg_keeps
      exact h
    · split
      · apply KeepsOpt.some
        dsimp only
        apply State.clrReg_keeps
        exact h
      · split
        · apply KeepsOpt.some
          split
          · dsimp only
            apply State.orReg_keeps
            exact h
          · dsimp only
            apply State.setReg_keeps
            exact h
        · split
          · apply KeepsOpt.some
            apply State.rstWrite_keeps
            exact h
          · split
            · apply KeepsOpt.some
              apply State.rstOvrWrite_keeps
              exact h
            · exact KeepsOpt.none

end Sys2Proof.Machine
end

