-- ==== Sys2Proof/Laws/KeepsManager.lean ====
section
/-! SUPPORT. What each operation of `Machine/Manager.lean` keeps: one lemma per operation that answers a state. -/

set_option Elab.async false

namespace Sys2Proof.Machine

theorem State.manage_keeps {a b : Bool} {s0 : State} (s : State) (h : Keeps a b s0 s) :
    Keeps a b s0 (State.manage s) := by
  unfold State.manage
  split
  · apply State.startWake_keeps
    exact h
  · exact h

end Sys2Proof.Machine
end

