-- ==== Sys2Proof/Laws/KeepsProtect.lean ====
section
/-! SUPPORT. What each operation of `Machine/Protect.lean` keeps: one lemma per operation that answers a state. -/

set_option Elab.async false

namespace Sys2Proof.Machine

theorem State.stopErase_keeps {a : Bool} {s0 : State} (s : State) (h : Keeps a false s0 s) :
    Keeps a false s0 (State.stopErase s) := by
  unfold State.stopErase
  extract_lets z1 z2
  have hz1 : Keeps a false s0 z1 := by
    unfold z1
    apply State.setBit_keeps
    exact h
  clear_value z1
  refine Keeps.update (s := z1) ?_
  exact hz1

theorem State.closeSession_keeps {a : Bool} {s0 : State} (s : State) (p : Fin 2) (i : Fin 4) (h : Keeps a false s0 s) :
    Keeps a false s0 (State.closeSession s p i) := by
  unfold State.closeSession
  extract_lets z1 z2 z3
  have hz2 : Keeps a false s0 z2 := by
    unfold z2
    apply State.setSess_keeps
    exact h
  clear_value z2
  split
  · exact h
  · refine Keeps.update (s := z2) ?_
    exact hz2

theorem State.closeAll_keeps {a : Bool} {s0 : State} (s : State) (h : Keeps a false s0 s) :
    Keeps a false s0 (State.closeAll s) := by
  unfold State.closeAll
  apply State.forAll_keeps
  · intro y1 y2 y3
    apply State.forAll_keeps
    · intro y4 y5 y6
      apply State.closeSession_keeps
      exact y6
    · exact y3
  · exact h

theorem State.startErase_keeps {a : Bool} {s0 : State} (s : State) (h : Keeps a false s0 s) :
    Keeps a false s0 (State.startErase s) := by
  unfold State.startErase
  split
  · exact h
  · extract_lets z1 z2
    have hz1 : Keeps a false s0 z1 := by
      unfold z1
      apply State.setBit_keeps
      exact h
    clear_value z1
    refine Keeps.update (s := z1) ?_
    exact hz1

theorem State.fabricActions_keeps {a : Bool} {s0 : State} (s : State) (close : Bool) (erase : Bool) (h : Keeps a false s0 s) :
    Keeps a false s0 (State.fabricActions s close erase) := by
  unfold State.fabricActions
  extract_lets z1
  have hz1 : Keeps a false s0 z1 := by
    unfold z1
    split
    · apply State.closeAll_keeps
      exact h
    · exact h
  clear_value z1
  split
  · apply State.startErase_keeps
    exact hz1
  · exact hz1

theorem State.alarm_keeps {a : Bool} {s0 : State} (s : State) (i : Fin 5) (h : Keeps a false s0 s) :
    Keeps a false s0 (State.alarm s i) := by
  unfold State.alarm
  extract_lets z1 z2 z3 z4 z5 z6 z7 z8
  clear_value z1
  have hz2 : Keeps a false s0 z2 := by
    unfold z2
    apply State.orReg_keeps
    exact h
  clear_value z2
  have hz3 : Keeps a false s0 z3 := by
    unfold z3
    split
    · apply State.count_keeps
      exact hz2
    · exact hz2
  clear_value z3
  clear_value z4
  clear_value z5
  have hz6 : Keeps a false s0 z6 := by
    unfold z6
    apply State.startWake_keeps
    exact hz3
  clear_value z6
  have hz8 : Keeps a false s0 z8 := by
    unfold z8
    split
    · refine Keeps.update (s := z6) ?_
      exact hz6
    · apply State.fabricActions_keeps
      exact hz3
  clear_value z8
  split
  · apply State.raise1_keeps
    exact hz8
  · exact hz8

theorem State.detection_keeps {a : Bool} {s0 : State} (s : State) (i : Fin 5) (on : Bool) (h : Keeps a false s0 s) :
    Keeps a false s0 (State.detection s i on) := by
  unfold State.detection
  extract_lets z1 z2 z3 z4
  clear_value z1
  have hz4 : Keeps a false s0 z4 := by
    unfold z4
    refine Keeps.update (s := s) ?_
    exact h
  clear_value z4
  split
  · apply State.alarm_keeps
    exact hz4
  · exact hz4

theorem State.glitch_keeps {a : Bool} {s0 : State} (s : State) (i : Fin 5) (en : Nat) (active : Bool) (h : Keeps a false s0 s) :
    Keeps a false s0 (State.glitch s i en active) := by
  unfold State.glitch
  split
  · apply State.detection_keeps
    exact h
  · exact h

theorem State.clockGlitch_keeps {a : Bool} {s0 : State} (s : State) (active : Bool) (h : Keeps a false s0 s) :
    Keeps a false s0 (State.clockGlitch s active) := by
  unfold State.clockGlitch
  split
  · exact h
  · apply State.glitch_keeps
    exact h

theorem State.endErase_keeps {s0 : State} (s : State) (h : Keeps false false s0 s) : Keeps false false s0 s.endErase := by
  unfold State.endErase
  have h1 := State.poke_keeps (List.replicate 0x80 0) 0x3C000 h
  extract_lets s1 run k p s2
  have h1 : Keeps false false s0 s1 := h1
  clear_value s1
  have h2 : Keeps false false s0 s2 := by
    refine h1.trans ⟨rfl, rfl, fun c => ⟨c.regs, c.sram, c.shadow.filter _, c.tlmMem, c.imem, fun j hj x hx => ?_⟩,
      fun h => (nomatch h), fun h => nomatch h⟩
    obtain ⟨k, hk, rfl⟩ := Option.map_eq_some_iff.1 hj
    obtain ⟨y, hy, rfl⟩ := Option.map_eq_some_iff.1 hx
    exact (c.page k hk y hy).filter _
  exact State.storeNext_keeps _ _ (State.orReg_keeps _ _ _ (State.setBit_keeps _ _ _ _ h2))

theorem State.endTail_keeps {s0 : State} (s : State) (h : Keeps false false s0 s) : Keeps false false s0 s.endTail :=
  h.trans ⟨rfl, rfl, fun c => ⟨c.regs, c.sram.filter _, c.shadow.filter _, c.tlmMem, c.imem, c.page⟩,
    fun h => (nomatch h), fun h => nomatch h⟩

theorem execKeyEraseDone_keeps {s0 : State} (s : State) (h : Keeps false false s0 s) :
    KeepsNext false false s0 (execKeyEraseDone s) := by
  unfold execKeyEraseDone
  apply KeepsNext.of
  split
  · exact h
  · split
    · apply State.endErase_keeps
      exact h
    · split
      · apply State.endTail_keeps
        exact h
      · exact h

theorem execTemperatureGlitch_keeps {a : Bool} {s0 : State} (active : Bool) (s : State) (h : Keeps a false s0 s) :
    KeepsNext a false s0 (execTemperatureGlitch active s) := by
  unfold execTemperatureGlitch
  apply KeepsNext.of
  apply State.glitch_keeps
  exact h

theorem State.lateActions_keeps {a : Bool} {s0 : State} (s : State) (h : Keeps a false s0 s) :
    Keeps a false s0 (State.lateActions s) := by
  unfold State.lateActions
  extract_lets z1
  apply State.fabricActions_keeps
  refine Keeps.update (s := s) ?_
  exact h

theorem State.alarmClear_keeps {a b : Bool} {s0 : State} (s : State) (v : Word) (h : Keeps a b s0 s) :
    Keeps a b s0 (State.alarmClear s v) := by
  unfold State.alarmClear
  apply State.clrReg_keeps
  exact h

theorem State.tampCfg_keeps {a : Bool} {s0 : State} (s : State) (v : Word) (h : Keeps a false s0 s) :
    Keeps a false s0 (State.tampCfg s v) := by
  unfold State.tampCfg
  extract_lets z1 z2 z3 z4
  have hz1 : Keeps a false s0 z1 := by
    unfold z1
    apply State.setReg_keeps
    exact h
  clear_value z1
  have hz3 : Keeps a false s0 z3 := by
    unfold z3
    dsimp only [z2]
    split
    · split
      · split
        · split
          · split
            · exact hz1
            · apply State.detection_keeps
              exact hz1
          · apply State.detection_keeps
            split
            · exact hz1
            · apply State.detection_keeps
              exact hz1
        · apply State.detection_keeps
          split
          · split
            · exact hz1
            · apply State.detection_keeps
              exact hz1
          · apply State.detection_keeps
            split
            · exact hz1
            · apply State.detection_keeps
              exact hz1
      · apply State.detection_keeps
        split
        · split
          · split
            · exact hz1
            · apply State.detection_keeps
              exact hz1
          · apply State.detection_keeps
            split
            · exact hz1
            · apply State.detection_keeps
              exact hz1
        · apply State.detection_keeps
          split
          · split
            · exact hz1
            · apply State.detection_keeps
              exact hz1
          · apply State.detection_keeps
            split
            · exact hz1
            · apply State.detection_keeps
              exact hz1
    · apply State.detection_keeps
      split
      · split
        · split
          · split
            · exact hz1
            · apply State.detection_keeps
              exact hz1
          · apply State.detection_keeps
            split
            · exact hz1
            · apply State.detection_keeps
              exact hz1
        · apply State.detection_keeps
          split
          · split
            · exact hz1
            · apply State.detection_keeps
              exact hz1
          · apply State.detection_keeps
            split
            · exact hz1
            · apply State.detection_keeps
              exact hz1
      · apply State.detection_keeps
        split
        · split
          · split
            · exact hz1
            · apply State.detection_keeps
              exact hz1
          · apply State.detection_keeps
            split
            · exact hz1
            · apply State.detection_keeps
              exact hz1
        · apply State.detection_keeps
          split
          · split
            · exact hz1
            · apply State.detection_keeps
              exact hz1
          · apply State.detection_keeps
            split
            · exact hz1
            · apply State.detection_keeps
              exact hz1
  clear_value z3
  refine Keeps.update (s := z3) ?_
  exact hz3

theorem State.loopSample_keeps {a : Bool} {s0 : State} (s : State) (loop1 : Bool) (sensed : Bool) (h : Keeps a false s0 s) :
    Keeps a false s0 (State.loopSample s loop1 sensed) := by
  unfold State.loopSample
  extract_lets z1 z2 z3 z4 z5 z6 z7
  clear_value z2
  clear_value z3
  clear_value z5
  have hz7 : Keeps a false s0 z7 := by
    unfold z7
    refine Keeps.update (s := s) ?_
    exact h
  clear_value z7
  split
  · exact h
  · apply State.detection_keeps
    exact hz7

theorem execVoltageGlitch_keeps {a : Bool} {s0 : State} (active : Bool) (s : State) (h : Keeps a false s0 s) :
    KeepsNext a false s0 (execVoltageGlitch active s) := by
  unfold execVoltageGlitch
  apply KeepsNext.of
  apply State.glitch_keeps
  exact h

theorem execTamperLoopSample_keeps {a : Bool} {s0 : State} (loop1 : Bool) (sensed : Bool) (s : State) (h : Keeps a false s0 s) :
    KeepsNext a false s0 (execTamperLoopSample loop1 sensed s) := by
  unfold execTamperLoopSample
  apply KeepsNext.of
  apply State.loopSample_keeps
  exact h

theorem execErase_keeps {a : Bool} {s0 : State} (u_who : Who) (s : State) (h : Keeps a false s0 s) :
    KeepsNext a false s0 (execErase u_who s) := by
  unfold execErase
  apply KeepsNext.of
  apply State.fab_keeps
  · intro y1 y2
    apply State.startErase_keeps
    exact y2
  · exact h

theorem execClockGlitch_keeps {a : Bool} {s0 : State} (active : Bool) (s : State) (h : Keeps a false s0 s) :
    KeepsNext a false s0 (execClockGlitch active s) := by
  unfold execClockGlitch
  apply KeepsNext.of
  apply State.clockGlitch_keeps
  exact h

end Sys2Proof.Machine
end

