-- ==== Sys2Proof/Laws/KeepsFabric.lean ====
section
/-! SUPPORT. What each operation of `Machine/Fabric.lean` keeps: one lemma per operation that answers a state. -/

set_option Elab.async false

namespace Sys2Proof.Machine

theorem State.setLocks_keeps {a : Bool} {s0 : State} (s : State) (v : Word) (h : Keeps a false s0 s) :
    Keeps a false s0 (State.setLocks s v) := by
  unfold State.setLocks
  extract_lets z1 z2
  have hz1 : Keeps a false s0 z1 := by
    unfold z1
    apply State.orReg_keeps
    exact h
  clear_value z1
  have hz2 : Keeps a false s0 z2 := by
    unfold z2
    split
    · refine Keeps.update (s := z1) ?_
      exact hz1
    · exact hz1
  clear_value z2
  split
  · apply State.disarmAll_keeps
    exact hz2
  · exact hz2

theorem execLockProg_keeps {a : Bool} {s0 : State} (u_who : Who) (s : State) (h : Keeps a false s0 s) :
    KeepsNext a false s0 (execLockProg u_who s) := by
  unfold execLockProg
  apply KeepsNext.of
  apply State.fab_keeps
  · intro y1 y2
    apply State.setLocks_keeps
    exact y2
  · exact h

theorem State.retime_keeps {a : Bool} {s0 : State} (s : State) (p : Fin 2) (old : Nat) (new : Nat) (h : Keeps a false s0 s) :
    Keeps a false s0 (State.retime s p old new) := by
  unfold State.retime
  split
  · exact h
  · apply State.forAll_keeps
    · intro y1 y2 y3
      extract_lets z4
      split
      · exact y3
      · apply State.setSess_keeps
        exact y3
    · exact h

theorem State.hstWrite_keeps {a : Bool} {s0 : State} (s : State) (a' : Nat) (v : Word) (h : Keeps a false s0 s) :
    KeepsOpt a false s0 (State.hstWrite s a' v) := by
  unfold State.hstWrite
  extract_lets z1 z2 z3 z4
  have hz2 : Keeps a false s0 z2.1 := by
    unfold z2
    dsimp only
    apply State.orReg_keeps
    exact h
  clear_value z2
  split
  · apply KeepsOpt.some
    split
    · exact hz2
    · dsimp only
      apply State.retime_keeps
      apply State.setReg_keeps
      exact h
  · split
    · apply KeepsOpt.some
      dsimp only
      apply State.clrReg_keeps
      exact h
    · split
      · apply KeepsOpt.some
        dsimp only
        split
        · apply State.closeSession_keeps
          exact h
        · exact h
      · split
        · apply KeepsOpt.some
          split
          · exact hz2
          · dsimp only
            apply State.setReg_keeps
            exact h
        · exact KeepsOpt.none

theorem State.tRecheck_keeps {a : Bool} {s0 : State} (s : State) (h : Keeps a false s0 s) :
    Keeps a false s0 (State.tRecheck s) := by
  unfold State.tRecheck
  split
  · exact h
  · apply State.forAll_keeps
    · intro y1 y2 y3
      extract_lets z4 z5 z6
      have hz6 : Keeps a false s0 z6 := by
        unfold z6
        refine Keeps.update (s := y1) ?_
        exact y3
      clear_value z6
      split
      · apply State.tBroadcast_keeps
        split
        · apply State.releaseWicks_keeps
          exact hz6
        · exact hz6
      · exact y3
    · exact h

theorem State.setJtag_keeps {a : Bool} {s0 : State} (s : State) (i : JtagIr) (out : BitVec 64) (h : Keeps a false s0 s) :
    Keeps a false s0 (State.setJtag s i out) := by
  unfold State.setJtag
  refine Keeps.update (s := s) ?_
  exact h

theorem execJtagSamplePreload_keeps {a : Bool} {s0 : State} (s : State) (h : Keeps a false s0 s) :
    KeepsNext a false s0 (execJtagSamplePreload s) := by
  unfold execJtagSamplePreload
  apply KeepsNext.of
  apply State.setJtag_keeps
  exact h

theorem State.rngCmd_keeps {a b : Bool} {s0 : State} (s : State) (v : Word) (h : Keeps a b s0 s) :
    Keeps a b s0 (State.rngCmd s v).1 := by
  unfold State.rngCmd
  extract_lets z1 z2
  have hz1 : Keeps a b s0 z1 := by
    unfold z1
    split
    · apply State.pfEmpty_keeps
      exact h
    · exact h
  clear_value z1
  have hz2 : Keeps a b s0 z2 := by
    unfold z2
    split
    · apply State.pfClrAll_keeps
      exact hz1
    · exact hz1
  clear_value z2
  split
  · apply State.tset_keeps
    exact hz2
  · exact hz2

theorem State.keyRef_keeps {a b : Bool} {s0 : State} (s : State) (h : Keeps a b s0 s) :
    Keeps a b s0 (State.keyRef s).1 := by
  unfold State.keyRef
  dsimp only
  apply State.setBit_keeps
  exact h

theorem State.storeRead_keeps {a b : Bool} {s0 : State} (s : State) (who : Who) (a' : Nat) (n : Nat) (h : Keeps a b s0 s) :
    Keeps a b s0 (State.storeRead s who a' n).1 := by
  unfold State.storeRead
  extract_lets z1
  split
  · dsimp only
    apply State.keyRef_keeps
    exact h
  · split
    · exact h
    · exact h

theorem State.protRef_keeps {a b : Bool} {s0 : State} (s : State) (h : Keeps a b s0 s) :
    Keeps a b s0 (State.protRef s).1 := by
  unfold State.protRef
  dsimp only
  apply State.orReg_keeps
  exact h

theorem State.regionWrite_keeps {a b : Bool} {s0 : State} (s : State) (who : Who) (x : Nat) (h : Keeps a b s0 s) :
    Keeps a b s0 (s.regionWrite who x).1 := by
  have hp := fun s (h : Keeps a b s0 s) => State.protRef_keeps s h
  unfold State.regionWrite
  extract_lets id bp o
  have hb : Keeps a b s0 (bp s).1 := by
    unfold bp
    apply Keeps.ite
    · exact hp _ h
    · exact h
  clear_value bp
  repeat' apply Keeps.ite
  all_goals first
    | exact h
    | exact hb
    | exact hp _ h
    | exact hp _ (State.orReg_keeps _ _ _ h)

theorem State.mayStore_keeps {a b : Bool} {s0 : State} (s : State) (who : Who) (x : Nat) (h : Keeps a b s0 s) :
    Keeps a b s0 (s.mayStore who x).1 := by
  have hq := State.regionWrite_keeps s who x h
  unfold State.mayStore
  exact .ite (.ite (State.protRef_keeps _ (State.keyRef_keeps _ hq)) hq) hq

theorem State.storeWrite_keeps {a : Bool} {s0 : State} (s : State) (who : Who) (a' : Nat) (l : List Byte) (h : Keeps a false s0 s) :
    Keeps a false s0 (State.storeWrite s who a' l).1 := by
  unfold State.storeWrite
  extract_lets z1
  have hz1 : Keeps a false s0 z1.1 := by
    unfold z1
    apply State.mayStore_keeps
    exact h
  clear_value z1
  split
  · exact hz1
  · dsimp only
    split
    · exact hz1
    · apply State.poke_keeps
      exact hz1

/-- A channel store keeps what its follow-up keeps. -/
theorem State.chStore_keeps {a b : Bool} {s0 : State} (s : State) (r : Rail) (x : Nat) (v : Word) (ok : Bool)
    (follow : State → State) (hf : ∀ s, Keeps a b s0 s → Keeps a b s0 (follow s)) (h : Keeps a b s0 s) :
    Keeps a b s0 (s.chStore r x v ok follow).1 := by
  unfold State.chStore
  exact .ite (State.flag_keeps _ _ _ h) (hf _ (State.setReg_keeps x v h))

theorem State.chWrite_keeps {a : Bool} {s0 : State} (s : State) (who : Who) (a' : Nat) (v : Word) (h : Keeps a false s0 s) :
    KeepsOpt a false s0 (State.chWrite s who a' v) := by
  unfold State.chWrite
  extract_lets z1 z2 z3 z4 z5
  clear_value z3
  have hz4 : Keeps a false s0 z4.1 := by
    unfold z4
    apply State.chStore_keeps
    · intro y6 y7
      apply State.powerCmps_keeps
      exact y7
    · exact h
  clear_value z4
  split
  · exact KeepsOpt.none
  · split
    · apply KeepsOpt.some
      dsimp only
      apply State.settleRsts_keeps
      exact hz4
    · apply KeepsOpt.some
      apply State.chStore_keeps
      · intro y8 y9
        dsimp only [id_eq]
        exact y9
      · exact h
    · apply KeepsOpt.some
      apply State.chStore_keeps
      · intro y10 y11
        apply State.blankOv_keeps
        exact y11
      · exact h
    · apply KeepsOpt.some
      apply State.chStore_keeps
      · intro y12 y13
        apply State.blankUv_keeps
        exact y13
      · exact h
    · split
      · apply KeepsOpt.some
        split
        · dsimp only
          apply State.flag_keeps
          exact h
        · exact h
      · apply KeepsOpt.some
        apply State.chStore_keeps
        · intro y14 y15
          apply State.blankOc_keeps
          exact y15
        · exact h
    · apply KeepsOpt.some
      apply State.chStore_keeps
      · intro y16 y17
        dsimp only [id_eq]
        exact y17
      · exact h
    · apply KeepsOpt.some
      apply State.chStore_keeps
      · intro y18 y19
        dsimp only [id_eq]
        exact y19
      · exact h
    · apply KeepsOpt.some
      apply State.chStore_keeps
      · intro y20 y21
        apply State.blankUv_keeps
        exact y21
      · exact h
    · apply KeepsOpt.some
      apply State.chStore_keeps
      · intro y22 y23
        dsimp only [id_eq]
        exact y23
      · exact h
    · apply KeepsOpt.some
      apply State.chMargin_keeps
      exact h
    · apply KeepsOpt.some
      dsimp only
      apply State.chFlagsPut_keeps
      exact h
    · apply KeepsOpt.some
      apply State.chStore_keeps
      · intro y24 y25
        dsimp only [id_eq]
        exact y25
      · exact h
    · exact KeepsOpt.none

theorem State.monStore_keeps {a b : Bool} {s0 : State} (s : State) (a' : Nat) (v : Word) (ok : Bool) (h : Keeps a b s0 s) :
    Keeps a b s0 (State.monStore s a' v ok).1 := by
  unfold State.monStore
  split
  · dsimp only
    apply State.setBit_keeps
    exact h
  · dsimp only
    apply State.setReg_keeps
    exact h

theorem State.monWrite_keeps {a : Bool} {s0 : State} (s : State) (a' : Nat) (v : Word) (h : Keeps a false s0 s) :
    KeepsOpt a false s0 (State.monWrite s a' v) := by
  unfold State.monWrite
  extract_lets z1 z2 z3 z4 z5 z6 z7
  have hz3 : Keeps a false s0 z3.1 := by
    unfold z3
    apply State.monStore_keeps
    exact h
  clear_value z3
  clear_value z4
  have hz5 : Keeps a false s0 z5.1 := by
    unfold z5
    apply State.monStore_keeps
    exact h
  clear_value z5
  have hz6 : Keeps a false s0 z6 := by
    unfold z6
    exact hz5
  clear_value z6
  split
  · apply KeepsOpt.some
    split
    · split
      · dsimp only
        apply State.blankOc_keeps
        exact hz3
      · exact hz3
    · exact hz3
  · split
    · apply KeepsOpt.some
      dsimp only
      apply State.clrReg_keeps
      exact h
    · split
      · apply KeepsOpt.some
        dsimp only
        apply State.clrReg_keeps
        exact h
      · split
        · apply KeepsOpt.some
          apply State.monStore_keeps
          exact h
        · split
          · apply KeepsOpt.some
            split
            · dsimp only
              refine Keeps.update (s := z6) ?_
              exact hz6
            · exact hz5
          · split
            · apply KeepsOpt.some
              dsimp only
              apply State.clrReg_keeps
              exact h
            · split
              · apply KeepsOpt.some
                dsimp only
                apply State.clrReg_keeps
                exact h
              · exact KeepsOpt.none

theorem State.kpsWrite_keeps {a : Bool} {s0 : State} (s : State) (a' : Nat) (v : Word) (h : Keeps a false s0 s) :
    KeepsOpt a false s0 (State.kpsWrite s a' v) := by
  unfold State.kpsWrite
  extract_lets z1 z2 z3
  have hz1 : Keeps a false s0 z1.1 := by
    unfold z1
    dsimp only
    apply State.orReg_keeps
    exact h
  clear_value z1
  clear_value z2
  split
  · apply KeepsOpt.some
    split
    · exact hz1
    · dsimp only
      apply State.setReg_keeps
      exact h
  · split
    · apply KeepsOpt.some
      dsimp only
      apply State.clrReg_keeps
      exact h
    · split
      · apply KeepsOpt.some
        dsimp only
        split
        · apply State.kpsStoreAll_keeps
          exact h
        · split
          · apply State.kpsStore_keeps
            exact h
          · exact h
      · split
        · apply KeepsOpt.some
          split
          · exact hz1
          · split
            · apply State.cntInc_keeps
              exact h
            · split
              · apply State.cntInit_keeps
                exact h
              · exact h
        · exact KeepsOpt.none

theorem State.rsvCmd_keeps {a : Bool} {s0 : State} (s : State) (v : Word) (h : Keeps a false s0 s) :
    Keeps a false s0 (State.rsvCmd s v).1 := by
  unfold State.rsvCmd
  extract_lets z1 z2 z3 z4 z5 z6
  have hz1 : Keeps a false s0 z1 := by
    unfold z1
    split
    · apply State.rearm_keeps
      exact h
    · exact h
  clear_value z1
  clear_value z2
  have hz4 : Keeps a false s0 z4 := by
    unfold z4
    split
    · apply State.setRsv_keeps
      exact hz1
    · exact hz1
  clear_value z4
  have hz6 : Keeps a false s0 z6 := by
    unfold z6
    split
    · apply State.setRsv_keeps
      exact hz4
    · exact hz4
  clear_value z6
  split
  · dsimp only
    apply State.rsvRefuse_keeps
    exact hz1
  · dsimp only
    split
    · apply State.clrLrn_keeps
      exact hz6
    · exact hz6

theorem State.rsvWrite_keeps {a : Bool} {s0 : State} (s : State) (a' : Nat) (v : Word) (h : Keeps a false s0 s) :
    KeepsOpt a false s0 (State.rsvWrite s a' v) := by
  unfold State.rsvWrite
  split
  · apply KeepsOpt.some
    dsimp only
    apply State.rsvFlags_keeps
    exact h
  · split
    · apply KeepsOpt.some
      apply State.rsvCmd_keeps
      exact h
    · split
      · apply KeepsOpt.some
        apply State.estCfg_keeps
        exact h
      · split
        · apply KeepsOpt.some
          dsimp only
          apply State.rsvRefuse_keeps
          exact h
        · split
          · exact KeepsOpt.none
          · extract_lets z1 z2 z3
            have hz2 : Keeps a false s0 z2 := by
              unfold z2
              apply State.setReg_keeps
              exact h
            clear_value z2
            have hz3 : Keeps a false s0 z3 := by
              unfold z3
              split
              · apply State.restAbort_keeps
                exact hz2
              · exact hz2
            clear_value z3
            apply KeepsOpt.some
            split
            · dsimp only
              apply State.rsvRefuse_keeps
              exact h
            · dsimp only
              apply State.rsvSettle_keeps
              exact hz3

theorem State.setReq_keeps {a : Bool} {s0 : State} (s : State) (n : Fin 13) (q : ArbReq) (h : Keeps a false s0 s) :
    Keeps a false s0 (State.setReq s n q) := by
  unfold State.setReq
  refine Keeps.update (s := s) ?_
  exact h

theorem State.applyCommit_keeps {a : Bool} {s0 : State} (s : State) (h : Keeps a false s0 s) :
    Keeps a false s0 (State.applyCommit s) := by
  unfold State.applyCommit
  extract_lets z1
  have hz1 : Keeps a false s0 z1 := by
    unfold z1
    apply State.forAll_keeps
    · intro y2 y3 y4
      apply State.setReg_keeps
      exact y4
    · exact h
  clear_value z1
  apply State.forAll_keeps
  · intro y5 y6 y7
    apply State.setReq_keeps
    exact y7
  · exact hz1

theorem State.arbCommit_keeps {a : Bool} {s0 : State} (s : State) (h : Keeps a false s0 s) :
    Keeps a false s0 (State.arbCommit s).1 := by
  unfold State.arbCommit
  split
  · dsimp only
    apply State.orReg_keeps
    exact h
  · split
    · dsimp only
      apply State.orReg_keeps
      exact h
    · dsimp only
      apply State.applyCommit_keeps
      exact h

theorem State.arbWrite_keeps {a : Bool} {s0 : State} (s : State) (a' : Nat) (v : Word) (h : Keeps a false s0 s) :
    KeepsOpt a false s0 (State.arbWrite s a' v) := by
  unfold State.arbWrite
  extract_lets z1 z2
  have hz2 : Keeps a false s0 z2 := by
    unfold z2
    split
    · apply State.setReg_keeps
      exact h
    · exact h
  clear_value z2
  split
  · apply KeepsOpt.some
    dsimp only
    apply State.clrReg_keeps
    exact h
  · split
    · apply KeepsOpt.some
      split
      · apply State.arbCommit_keeps
        exact hz2
      · exact hz2
    · split
      · apply KeepsOpt.some
        dsimp only
        apply State.clrReg_keeps
        exact h
      · split
        · apply KeepsOpt.some
          split
          · dsimp only
            apply State.orReg_keeps
            exact h
          · dsimp only
            apply State.setReg_keeps
            exact h
        · exact KeepsOpt.none

theorem State.tthRegWrite_keeps {a : Bool} {s0 : State} (s : State) (a' : Nat) (v : Word) (h : Keeps a false s0 s) :
    KeepsOpt a false s0 (State.tthRegWrite s a' v) := by
  unfold State.tthRegWrite
  extract_lets z1 z2 z3
  have hz2 : Keeps a false s0 z2.1 := by
    unfold z2
    dsimp only [z1]
    split
    · dsimp only
      apply State.orReg_keeps
      exact h
    · dsimp only
      apply State.setReg_keeps
      exact h
  clear_value z2
  have hz3 : Keeps a false s0 z3.1 := by
    unfold z3
    dsimp only [z1]
    split
    · dsimp only
      apply State.orReg_keeps
      exact h
    · dsimp only
      apply State.setReg_keeps
      exact h
  clear_value z3
  split
  · apply KeepsOpt.some
    split
    · dsimp only
      apply State.tRecheck_keeps
      exact hz2
    · exact hz2
  · split
    · apply KeepsOpt.some
      split
      · dsimp only
        apply State.tRecheck_keeps
        exact hz3
      · exact hz3
    · split
      · apply KeepsOpt.some
        dsimp only
        apply State.clrReg_keeps
        exact h
      · split
        · apply KeepsOpt.some
          split
          · apply State.tthGo_keeps
            exact h
          · exact h
        · split
          · apply KeepsOpt.some
            dsimp only
            apply State.setReg_keeps
            exact h
          · exact KeepsOpt.none

theorem State.rngCfg_keeps {a b : Bool} {s0 : State} (s : State) (v : Word) (h : Keeps a b s0 s) :
    Keeps a b s0 (State.rngCfg s v).1 := by
  unfold State.rngCfg
  split
  · dsimp only
    apply State.orReg_keeps
    exact h
  · extract_lets z1 z2
    have hz1 : Keeps a b s0 z1 := by
      unfold z1
      apply State.setReg_keeps
      exact h
    clear_value z1
    have hz2 : Keeps a b s0 z2 := by
      unfold z2
      split
      · exact hz1
      · apply State.leaveMaster_keeps
        exact hz1
    clear_value z2
    dsimp only
    split
    · exact hz2
    · apply State.closeSplice_keeps
      exact hz2

theorem State.rRecheck_keeps {a b : Bool} {s0 : State} (s : State) (h : Keeps a b s0 s) :
    Keeps a b s0 (State.rRecheck s) := by
  unfold State.rRecheck
  apply State.forAll_keeps
  · intro y1 y2 y3
    extract_lets z4 z5
    split
    · apply State.releaseWicks_keeps
      refine Keeps.update (s := y1) ?_
      exact y3
    · exact y3
  · exact h

theorem State.rngRegWrite_keeps {a : Bool} {s0 : State} (s : State) (a' : Nat) (v : Word) (h : Keeps a false s0 s) :
    KeepsOpt a false s0 (State.rngRegWrite s a' v) := by
  unfold State.rngRegWrite
  split
  · apply KeepsOpt.some
    apply State.rngCfg_keeps
    exact h
  · split
    · apply KeepsOpt.some
      dsimp only
      apply State.rngCtl_keeps
      exact h
    · split
      · apply KeepsOpt.some
        dsimp only
        apply State.clrReg_keeps
        exact h
      · split
        · apply KeepsOpt.some
          apply State.rngCmd_keeps
          exact h
        · split
          · apply KeepsOpt.some
            dsimp only
            apply State.setReg_keeps
            exact h
          · split
            · apply KeepsOpt.some
              split
              · dsimp only
                apply State.orReg_keeps
                exact h
              · dsimp only
                apply State.rRecheck_keeps
                apply State.setReg_keeps
                exact h
            · split
              · apply KeepsOpt.some
                split
                · apply State.rngGo_keeps
                  exact h
                · exact h
              · exact KeepsOpt.none

theorem State.pwrWrite_keeps {a : Bool} {s0 : State} (s : State) (a' : Nat) (v : Word) (h : Keeps a false s0 s) :
    KeepsOpt a false s0 (State.pwrWrite s a' v) := by
  unfold State.pwrWrite
  extract_lets z1
  split
  · apply KeepsOpt.some
    dsimp only [z1]
    split
    · dsimp only
      apply State.orReg_keeps
      exact h
    · dsimp only
      apply State.setReg_keeps
      exact h
  · split
    · apply KeepsOpt.some
      dsimp only
      apply State.clrReg_keeps
      exact h
    · split
      · apply KeepsOpt.some
        dsimp only
        apply State.clrReg_keeps
        exact h
      · split
        · apply KeepsOpt.some
          dsimp only [z1]
          split
          · dsimp only
            apply State.orReg_keeps
            exact h
          · dsimp only
            apply State.setReg_keeps
            exact h
        · exact KeepsOpt.none

theorem State.secWrite_keeps {a : Bool} {s0 : State} (s : State) (a' : Nat) (v : Word) (h : Keeps a false s0 s) :
    KeepsOpt a false s0 (State.secWrite s a' v) := by
  unfold State.secWrite
  extract_lets z1
  have hz1 : Keeps a false s0 z1.1 := by
    unfold z1
    dsimp only
    apply State.orReg_keeps
    exact h
  clear_value z1
  split
  · apply KeepsOpt.some
    dsimp only
    apply State.setLocks_keeps
    exact h
  · split
    · apply KeepsOpt.some
      dsimp only
      apply State.clrReg_keeps
      exact h
    · split
      · apply KeepsOpt.some
        dsimp only
        split
        · apply State.startErase_keeps
          exact h
        · exact h
      · split
        · apply KeepsOpt.some
          split
          · exact hz1
          · dsimp only
            apply State.setReg_keeps
            exact h
        · split
          · apply KeepsOpt.some
            split
            · exact hz1
            · dsimp only
              apply State.tampCfg_keeps
              exact h
          · split
            · apply KeepsOpt.some
              split
              · exact hz1
              · dsimp only
                apply State.setReg_keeps
                exact h
            · split
              · apply KeepsOpt.some
                dsimp only
                apply State.alarmClear_keeps
                exact h
              · exact KeepsOpt.none

theorem State.regWrite_keeps {a : Bool} {s0 : State} (s : State) (who : Who) (x : Nat) (v : Word)
    (h : Keeps a false s0 s) : Keeps a false s0 (s.regWrite who x v).1 := by
  have key : ∀ o : Option (State × Bool), KeepsOpt a false s0 o → Keeps a false s0 (o.getD (s, true)).1 := by
    intro o ho
    cases o with
    | none => exact h
    | some q => exact ho q rfl
  unfold State.regWrite
  refine key _ ?_
  split
  · exact State.chWrite_keeps _ _ _ _ h
  · exact State.monWrite_keeps _ _ _ h
  · exact State.tlmWrite_keeps _ _ _ h
  · exact State.seqWrite_keeps _ _ _ _ h
  · exact State.fltWrite_keeps _ _ _ h
  · exact State.mrgWrite_keeps _ _ _ h
  · exact State.kpsWrite_keeps _ _ _ h
  · exact State.rsvWrite_keeps _ _ _ h
  · exact State.arbWrite_keeps _ _ _ h
  · exact State.hstWrite_keeps _ _ _ h
  · split
    · exact State.tthRegWrite_keeps _ _ _ h
    · exact State.rngRegWrite_keeps _ _ _ h
  · exact State.pwrWrite_keeps _ _ _ h
  · exact State.secWrite_keeps _ _ _ h
  · exact KeepsOpt.none

theorem State.transfer_keeps {a : Bool} {s0 : State} (s : State) (t' : Transfer) (h : Keeps a false s0 s) :
    Keeps a false s0 (State.transfer s t').1 := by
  unfold State.transfer
  split
  · exact h
  · split
    · split
      · extract_lets z1
        have hz1 : Keeps a false s0 z1.1 := by
          unfold z1
          apply State.storeWrite_keeps
          exact h
        clear_value z1
        exact hz1
      · extract_lets z2
        have hz2 : Keeps a false s0 z2.1 := by
          unfold z2
          apply State.storeRead_keeps
          exact h
        clear_value z2
        exact hz2
    · split
      · split
        · split
          · dsimp only
            apply Keeps.foldlFst
            · intro y3 y4 y5
              dsimp only
              apply State.tlmPoke_keeps
              exact y5
            · exact h
          · exact h
        · exact h
      · split
        · split
          · extract_lets z6
            have hz6 : Keeps a false s0 z6.1 := by
              unfold z6
              apply State.regWrite_keeps
              exact h
            clear_value z6
            exact hz6
          · exact h
        · exact h

theorem execJtagPrivate_keeps {a : Bool} {s0 : State} (t' : Transfer) (s : State) (h : Keeps a false s0 s) :
    KeepsNext a false s0 (execJtagPrivate t' s) := by
  unfold execJtagPrivate
  apply KeepsNext.of
  split
  · apply State.setJtag_keeps
    exact h
  · split
    · apply State.setJtag_keeps
      exact h
    · extract_lets z1
      have hz1 : Keeps a false s0 z1.1 := by
        unfold z1
        apply State.transfer_keeps
        exact h
      clear_value z1
      split
      · apply State.setJtag_keeps
        exact hz1
      · apply State.setJtag_keeps
        exact hz1

theorem execLockBp_keeps {a : Bool} {s0 : State} (u_who : Who) (s : State) (h : Keeps a false s0 s) :
    KeepsNext a false s0 (execLockBp u_who s) := by
  unfold execLockBp
  apply KeepsNext.of
  apply State.fab_keeps
  · intro y1 y2
    apply State.setLocks_keeps
    exact y2
  · exact h

theorem execJtagBypass_keeps {a : Bool} {s0 : State} (s : State) (h : Keeps a false s0 s) :
    KeepsNext a false s0 (execJtagBypass s) := by
  unfold execJtagBypass
  apply KeepsNext.of
  apply State.setJtag_keeps
  exact h

theorem State.read32_keeps {a : Bool} {s0 : State} (s : State) (who : Who) (a' : Nat) (h : Keeps a false s0 s) :
    Keeps a false s0 (State.read32 s who a').1 := by
  unfold State.read32
  extract_lets z1
  have hz1 : Keeps a false s0 z1.1 := by
    unfold z1
    apply State.transfer_keeps
    exact h
  clear_value z1
  exact hz1

theorem execArbCommit_keeps {a : Bool} {s0 : State} (u_who : Who) (andClear : Bool) (s : State) (h : Keeps a false s0 s) :
    KeepsNext a false s0 (execArbCommit u_who andClear s) := by
  unfold execArbCommit
  apply KeepsNext.of
  apply State.fab_keeps
  · intro y1 y2
    apply State.arbCommit_keeps
    split
    · apply State.setReg_keeps
      exact y2
    · exact y2
  · exact h

theorem execJtagExtest_keeps {a : Bool} {s0 : State} (s : State) (h : Keeps a false s0 s) :
    KeepsNext a false s0 (execJtagExtest s) := by
  unfold execJtagExtest
  apply KeepsNext.of
  apply State.setJtag_keeps
  exact h

theorem State.write32_keeps {a : Bool} {s0 : State} (s : State) (who : Who) (a' : Nat) (v : Word) (hw : Word) (h : Keeps a false s0 s) :
    Keeps a false s0 (State.write32 s who a' v hw).1 := by
  unfold State.write32
  extract_lets z1
  have hz1 : Keeps a false s0 z1.1 := by
    unfold z1
    apply State.transfer_keeps
    exact h
  clear_value z1
  exact hz1

theorem execRingWrite_keeps {a : Bool} {s0 : State} (h' : RingArrival) (addr : Word) (data : Word) (hw : Word) (s : State) (h : Keeps a false s0 s) :
    KeepsNext a false s0 (execRingWrite h' addr data hw s) := by
  unfold execRingWrite
  apply KeepsNext.of
  apply State.receive_keeps
  · intro y1 y2
    extract_lets z3
    have hz3 : Keeps a false s0 z3.1 := by
      unfold z3
      split
      · apply State.write32_keeps
        exact y2
      · exact y2
    clear_value z3
    apply State.rSend_keeps
    exact hz3
  · exact h

theorem State.secEvent_keeps {a : Bool} {s0 : State} (s : State) (e : SecEvent) (h : Keeps a false s0 s) :
    Keeps a false s0 (State.secEvent s e) := by
  unfold State.secEvent
  split
  · apply State.loopSample_keeps
    exact h
  · apply State.glitch_keeps
    exact h
  · apply State.glitch_keeps
    exact h
  · apply State.clockGlitch_keeps
    exact h
  · apply State.fab_keeps
    · intro y1 y2
      apply State.startErase_keeps
      exact y2
    · exact h
  · apply State.fab_keeps
    · intro y3 y4
      apply State.setLocks_keeps
      exact y4
    · exact h

theorem State.secEvents_keeps {a : Bool} {s0 : State} (s : State) (l : List SecEvent) (h : Keeps a false s0 s) :
    Keeps a false s0 (State.secEvents s l) := by
  unfold State.secEvents
  apply Keeps.foldl
  · intro y1 y2 y3
    apply State.secEvent_keeps
    exact y3
  · exact h

theorem execLockCfg_keeps {a : Bool} {s0 : State} (u_who : Who) (s : State) (h : Keeps a false s0 s) :
    KeepsNext a false s0 (execLockCfg u_who s) := by
  unfold execLockCfg
  apply KeepsNext.of
  apply State.fab_keeps
  · intro y1 y2
    apply State.setLocks_keeps
    exact y2
  · exact h

theorem execJtagIdcode_keeps {a : Bool} {s0 : State} (s : State) (h : Keeps a false s0 s) :
    KeepsNext a false s0 (execJtagIdcode s) := by
  unfold execJtagIdcode
  apply KeepsNext.of
  apply State.setJtag_keeps
  exact h

theorem execLockDebug_keeps {a : Bool} {s0 : State} (u_who : Who) (s : State) (h : Keeps a false s0 s) :
    KeepsNext a false s0 (execLockDebug u_who s) := by
  unfold execLockDebug
  apply KeepsNext.of
  apply State.fab_keeps
  · intro y1 y2
    apply State.setLocks_keeps
    exact y2
  · exact h

theorem execTthRead_keeps {a : Bool} {s0 : State} (h' : TetherHead) (addr : Word) (s : State) (h : Keeps a false s0 s) :
    KeepsNext a false s0 (execTthRead h' addr s) := by
  unfold execTthRead
  apply KeepsNext.of
  apply State.tTake_keeps
  · intro y1 y2
    extract_lets z3
    have hz3 : Keeps a false s0 z3.1 := by
      unfold z3
      apply State.read32_keeps
      exact y2
    clear_value z3
    exact hz3
  · exact h

theorem execRegisterWrite_keeps {a : Bool} {s0 : State} (who : Who) (a' : Nat) (v : Word) (hw : Word) (s : State) (h : Keeps a false s0 s) :
    KeepsNext a false s0 (execRegisterWrite who a' v hw s) := by
  unfold execRegisterWrite
  apply KeepsNext.of
  split
  · exact h
  · apply State.write32_keeps
    exact h

theorem execArbClrcnt_keeps {a b : Bool} {s0 : State} (u_who : Who) (s : State) (h : Keeps a b s0 s) :
    KeepsNext a b s0 (execArbClrcnt u_who s) := by
  unfold execArbClrcnt
  apply KeepsNext.of
  apply State.fab_keeps
  · intro y1 y2
    apply State.setReg_keeps
    exact y2
  · exact h

theorem execLockKey_keeps {a : Bool} {s0 : State} (u_who : Who) (s : State) (h : Keeps a false s0 s) :
    KeepsNext a false s0 (execLockKey u_who s) := by
  unfold execLockKey
  apply KeepsNext.of
  apply State.fab_keeps
  · intro y1 y2
    apply State.setLocks_keeps
    exact y2
  · exact h

theorem execTthWrite_keeps {a : Bool} {s0 : State} (h' : TetherHead) (addr : Word) (data : Word) (hw : Word) (s : State) (h : Keeps a false s0 s) :
    KeepsNext a false s0 (execTthWrite h' addr data hw s) := by
  unfold execTthWrite
  apply KeepsNext.of
  apply State.tTake_keeps
  · intro y1 y2
    extract_lets z3
    have hz3 : Keeps a false s0 z3.1 := by
      unfold z3
      apply State.write32_keeps
      exact y2
    clear_value z3
    exact hz3
  · exact h

theorem execLockInject_keeps {a : Bool} {s0 : State} (u_who : Who) (s : State) (h : Keeps a false s0 s) :
    KeepsNext a false s0 (execLockInject u_who s) := by
  unfold execLockInject
  apply KeepsNext.of
  apply State.fab_keeps
  · intro y1 y2
    apply State.setLocks_keeps
    exact y2
  · exact h

theorem execRingRead_keeps {a : Bool} {s0 : State} (h' : RingArrival) (addr : Word) (s : State) (h : Keeps a false s0 s) :
    KeepsNext a false s0 (execRingRead h' addr s) := by
  unfold execRingRead
  apply KeepsNext.of
  apply State.receive_keeps
  · intro y1 y2
    extract_lets z3
    have hz3 : Keeps a false s0 z3.1 := by
      unfold z3
      split
      · exact y2
      · apply State.read32_keeps
        exact y2
    clear_value z3
    apply State.rSend_keeps
    exact hz3
  · exact h

end Sys2Proof.Machine
end

