-- ==== Sys2Proof/Laws/KeepsArbiter.lean ====
section
/-! SUPPORT. What each operation of `Machine/Arbiter.lean` keeps: one lemma per operation that answers a state. -/

set_option Elab.async false

namespace Sys2Proof.Machine

theorem State.loseRound_keeps {a : Bool} {s0 : State} (s : State) (n : Fin 13) (h : Keeps a false s0 s) :
    Keeps a false s0 (State.loseRound s n).1 := by
  unfold State.loseRound
  extract_lets z1
  split
  · dsimp only
    apply State.setReq_keeps
    exact h
  · dsimp only
    apply State.orReg_keeps
    apply State.setReq_keeps
    exact h

theorem State.loseRounds_keeps {a : Bool} {s0 : State} (s : State) (l : List (Fin 13)) (h : Keeps a false s0 s) :
    Keeps a false s0 (State.loseRounds s l) := by
  unfold State.loseRounds
  extract_lets z1
  have hz1 : Keeps a false s0 z1.1 := by
    unfold z1
    apply Keeps.foldlFst
    · intro y2 y3 y4
      dsimp only
      apply State.loseRound_keeps
      exact y4
    · exact h
  clear_value z1
  split
  · apply State.raise1_keeps
    exact hz1
  · exact hz1

theorem State.grantOne_keeps {a : Bool} {s0 : State} (s : State) (h : Keeps a false s0 s) :
    Keeps a false s0 (State.grantOne s) := by
  unfold State.grantOne
  split
  · exact h
  · extract_lets z1 z2 z3 z4
    split
    · exact h
    · extract_lets z5
      have hz5 : Keeps a false s0 z5 := by
        unfold z5
        refine Keeps.update (s := s) ?_
        exact h
      clear_value z5
      apply State.loseRounds_keeps
      apply State.setReq_keeps
      exact hz5

theorem State.completeFlight_keeps {a : Bool} {s0 : State} (s : State) (h : Keeps a false s0 s) :
    Keeps a false s0 (State.completeFlight s) := by
  unfold State.completeFlight
  split
  · exact h
  · extract_lets z1 z2 z3 z4
    have hz2 : Keeps a false s0 z2.1 := by
      unfold z2
      apply State.transfer_keeps
      refine Keeps.update (s := s) ?_
      exact h
    clear_value z2
    have hz3 : Keeps a false s0 z3 := by
      unfold z3
      exact hz2
    clear_value z3
    refine Keeps.update (s := z3) ?_
    exact hz3

theorem State.preempt_keeps {a : Bool} {s0 : State} (s : State) (h : Keeps a false s0 s) :
    Keeps a false s0 (State.preempt s) := by
  unfold State.preempt
  split
  · exact h
  · extract_lets z1 z2 z3
    have hz3 : Keeps a false s0 z3 := by
      unfold z3
      apply State.setReq_keeps
      refine Keeps.update (s := s) ?_
      exact h
    clear_value z3
    apply State.setReg_keeps
    exact hz3

theorem State.arbCycle_keeps {a : Bool} {s0 : State} (s : State) (h : Keeps a false s0 s) :
    Keeps a false s0 (State.arbCycle s) := by
  unfold State.arbCycle
  extract_lets z1 z2
  have hz1 : Keeps a false s0 z1 := by
    unfold z1
    split
    · apply State.completeFlight_keeps
      exact h
    · exact h
  clear_value z1
  split
  · apply State.grantOne_keeps
    exact hz1
  · split
    · apply State.grantOne_keeps
      apply State.preempt_keeps
      exact hz1
    · apply State.loseRounds_keeps
      refine Keeps.update (s := z1) ?_
      exact hz1

theorem State.presentReq_keeps {a : Bool} {s0 : State} (s : State) (t' : Transfer) (h : Keeps a false s0 s) :
    Keeps a false s0 (State.presentReq s t') := by
  unfold State.presentReq
  extract_lets z1 z2
  split
  · exact h
  · apply State.setReq_keeps
    exact h

theorem execGrant_keeps {a : Bool} {s0 : State} (present : List Transfer) (s : State) (h : Keeps a false s0 s) :
    KeepsNext a false s0 (execGrant present s) := by
  unfold execGrant
  apply KeepsNext.of
  split
  · exact h
  · apply State.forAll_keeps
    · intro y1 y2 y3
      apply State.presentReq_keeps
      exact y3
    · apply State.arbCycle_keeps
      exact h

theorem execWindowBoundary_keeps {a : Bool} {s0 : State} (s : State) (h : Keeps a false s0 s) :
    KeepsNext a false s0 (execWindowBoundary s) := by
  unfold execWindowBoundary
  refine .of ?_
  split
  · exact h
  · extract_lets u v
    have hu : Keeps a false s0 u := .cond (State.completeFlight_keeps _ h) h
    clear_value u
    exact State.forAll_keeps _ _ (fun s n h => State.setReq_keeps _ _ _ h) (hu.update (hb := fun h => nomatch h))

theorem execTransferComplete_keeps {a : Bool} {s0 : State} (co : List SecEvent) (s : State) (h : Keeps a false s0 s) :
    KeepsNext a false s0 (execTransferComplete co s) := by
  unfold execTransferComplete
  apply KeepsNext.of
  extract_lets z1
  have hz1 : Keeps a false s0 z1 := by
    unfold z1
    apply State.secEvents_keeps
    exact h
  clear_value z1
  split
  · apply State.completeFlight_keeps
    exact hz1
  · exact hz1

end Sys2Proof.Machine
end

