-- ==== Sys2Proof/Laws/KeepsHost.lean ====
section
/-! SUPPORT. What each operation of `Machine/Host.lean` keeps: one lemma per operation that answers a state. -/

set_option Elab.async false

namespace Sys2Proof.Machine

theorem State.cacheResponse_keeps {a : Bool} {s0 : State} (s : State) (p : Fin 2) (i : Fin 4) (etag : Nat) (r : Response) (frame : Word × BitVec 16) (h : Keeps a false s0 s) :
    Keeps a false s0 (State.cacheResponse s p i etag r frame) := by
  unfold State.cacheResponse
  extract_lets z1 z2
  split
  · exact h
  · apply State.setSess_keeps
    exact h

theorem State.queueResponse_keeps {a : Bool} {s0 : State} (s : State) (p : Fin 2) (r : Response) (h : Keeps a false s0 s) :
    Keeps a false s0 (State.queueResponse s p r) := by
  unfold State.queueResponse
  refine Keeps.update (s := s) ?_
  exact h

theorem State.answer_keeps {a : Bool} {s0 : State} (s : State) (f : HostFrame) (etag : Nat) (status : Byte) (payload : List Byte) (h : Keeps a false s0 s) :
    Keeps a false s0 (State.answer s f etag status payload) := by
  unfold State.answer
  extract_lets z1
  apply State.cacheResponse_keeps
  apply State.queueResponse_keeps
  exact h

theorem State.finishRequest_keeps {a : Bool} {s0 : State} (s : State) (p : Fin 2) (i : Fin 4) (q : Request) (stop : Option Byte) (h : Keeps a false s0 s) :
    Keeps a false s0 (State.finishRequest s p i q stop) := by
  unfold State.finishRequest
  extract_lets z1 z2 z3 z4 z5 z6
  have hz2 : Keeps a false s0 z2 := by
    unfold z2
    apply State.setSess_keeps
    exact h
  clear_value z2
  clear_value z3
  apply State.cacheResponse_keeps
  apply State.queueResponse_keeps
  exact hz2

theorem State.uhpAbortRun_keeps {a : Bool} {s0 : State} (s : State) (f : HostFrame) (etag : Nat) (h : Keeps a false s0 s) :
    Keeps a false s0 (State.uhpAbortRun s f etag) := by
  unfold State.uhpAbortRun
  split
  · apply State.answer_keeps
    exact h
  · extract_lets z1
    clear_value z1
    split
    · apply State.answer_keeps
      exact h
    · apply State.answer_keeps
      apply State.finishRequest_keeps
      exact h

theorem State.frmErr_keeps {a b : Bool} {s0 : State} (s : State) (p : Fin 2) (h : Keeps a b s0 s) :
    Keeps a b s0 (State.frmErr s p) := by
  unfold State.frmErr
  apply State.setFld_keeps
  exact h

theorem State.chkErr_keeps {a b : Bool} {s0 : State} (s : State) (p : Fin 2) (h : Keeps a b s0 s) :
    Keeps a b s0 (State.chkErr s p) := by
  unfold State.chkErr
  apply State.setFld_keeps
  exact h

theorem State.touch_keeps {a : Bool} {s0 : State} (s : State) (p : Fin 2) (i : Fin 4) (h : Keeps a false s0 s) :
    Keeps a false s0 (State.touch s p i) := by
  unfold State.touch
  extract_lets z1 z2
  split
  · apply State.setSess_keeps
    exact h
  · exact h

theorem State.begin_keeps {a b : Bool} {s0 : State} (s : State) (f : HostFrame) (etag : Nat) (h : Keeps a b s0 s) :
    Keeps a b s0 (State.begin s f etag).1 := by
  unfold State.begin
  exact h

theorem State.setExec_keeps {a : Bool} {s0 : State} (s : State) (p : Fin 2) (i : Fin 4) (q : Request) (h : Keeps a false s0 s) :
    Keeps a false s0 (State.setExec s p i q) := by
  unfold State.setExec
  apply State.setSess_keeps
  exact h

theorem State.rereads_keeps {a : Bool} {s0 : State} (s : State) (f : HostFrame) (c : Cached) (h : Keeps a false s0 s) :
    Keeps a false s0 (State.rereads s f c) := by
  unfold State.rereads
  extract_lets z1
  apply State.setExec_keeps
  exact h

theorem State.helloRefused_keeps {a : Bool} {s0 : State} (s : State) (f : HostFrame) (etag : Nat) (status : Byte) (h : Keeps a false s0 s) :
    Keeps a false s0 (State.helloRefused s f etag status) := by
  unfold State.helloRefused
  extract_lets z1
  apply State.queueResponse_keeps
  exact h

/-- A frame that is judged keeps what the operation's run keeps. -/
theorem State.uhpTake_keeps {a : Bool} {s0 : State} (s : State) (f : HostFrame) (run : State → Nat → State)
    (hrun : ∀ s n, Keeps a false s0 s → Keeps a false s0 (run s n)) (h : Keeps a false s0 s) :
    Keeps a false s0 (s.uhpTake f run) := by
  unfold State.uhpTake
  extract_lets p i x auth size etag s1 s2 n busy s3 u s4
  have h1 : Keeps a false s0 s1 := State.chkErr_keeps s p h
  have h2 : Keeps a false s0 s2 := State.touch_keeps s p i h
  have h3 : Keeps a false s0 s3 := State.orReg_keeps _ _ _ h2
  have h4 : Keeps a false s0 s4 := .cond (State.setSess_keeps _ _ _ _ h2) h2
  clear_value s4 s3 s2 s1 busy etag auth
  refine .cond h (.cond (State.frmErr_keeps _ _ h) (.cond (.cond (State.raise1_keeps _ _ (State.orReg_keeps _ _ _ h1)) h1)
    (.cond (State.orReg_keeps _ _ _ h2) ?_)))
  split
  · split
    · exact State.queueResponse_keeps _ _ _ h2
    · exact .cond (State.orReg_keeps _ _ _ h2) (State.rereads_keeps _ _ _ h2)
  refine .cond (State.queueResponse_keeps _ _ _ h3) ?_
  split
  · exact .cond (State.helloRefused_keeps _ _ _ _ h4) (State.answer_keeps _ _ _ _ _ h4)
  · exact hrun _ _ h4

theorem State.uhp_keeps {a : Bool} {s0 : State} (s : State) (f : HostFrame) (op : Byte) (run : State → Nat → State)
    (hrun : ∀ s n, Keeps a false s0 s → Keeps a false s0 (run s n)) (h : Keeps a false s0 s) :
    Keeps a false s0 (s.uhp f op run) := by
  unfold State.uhp
  refine Keeps.cond h ?_
  extract_lets s1 s2
  have h1 : Keeps a false s0 s1 := State.secEvents_keeps _ _ h
  refine Keeps.cond h1 ?_
  have h2 : Keeps a false s0 s2 := State.startWake_keeps h1
  clear_value s2
  exact Keeps.cond (State.uhpTake_keeps _ _ _ hrun h2) h2.update

theorem State.uhpByeRun_keeps {a : Bool} {s0 : State} (s : State) (f : HostFrame) (etag : Nat) (h : Keeps a false s0 s) :
    Keeps a false s0 (State.uhpByeRun s f etag) := by
  unfold State.uhpByeRun
  extract_lets z1
  apply State.queueResponse_keeps
  apply State.closeSession_keeps
  exact h

theorem execUhpBye_keeps {a : Bool} {s0 : State} (f : HostFrame) (s : State) (h : Keeps a false s0 s) :
    KeepsNext a false s0 (execUhpBye f s) := by
  unfold execUhpBye
  apply KeepsNext.of
  apply State.uhp_keeps
  · intro y1 y2 y3
    apply State.uhpByeRun_keeps
    exact y3
  · exact h

theorem State.carryOn_keeps {a : Bool} {s0 : State} (s : State) (p : Fin 2) (i : Fin 4) (q : Request) (h : Keeps a false s0 s) :
    Keeps a false s0 (State.carryOn s p i q) := by
  unfold State.carryOn
  split
  · exact h
  · apply State.setExec_keeps
    exact h

theorem State.uhpRunRun_keeps {a : Bool} {s0 : State} (s : State) (f : HostFrame) (etag : Nat) (h : Keeps a false s0 s) :
    Keeps a false s0 (State.uhpRunRun s f etag) := by
  unfold State.uhpRunRun
  extract_lets z1 z2 z3 z4 z5
  have hz4 : Keeps a false s0 z4 := by
    unfold z4
    apply State.forAll_keeps
    · intro y6 y7 y8
      apply State.setV_keeps
      exact y8
    · exact h
  clear_value z4
  have hz5 : Keeps a false s0 z5.1 := by
    unfold z5
    apply State.wickStart_keeps
    exact hz4
  clear_value z5
  split
  · apply State.setExec_keeps
    exact h
  · apply State.setExec_keeps
    exact hz5

theorem execUhpRun_keeps {a : Bool} {s0 : State} (f : HostFrame) (s : State) (h : Keeps a false s0 s) :
    KeepsNext a false s0 (execUhpRun f s) := by
  unfold execUhpRun
  apply KeepsNext.of
  apply State.uhp_keeps
  · intro y1 y2 y3
    apply State.uhpRunRun_keeps
    exact y3
  · exact h

theorem State.v1Hitch_keeps {a b : Bool} {s0 : State} (s : State) (p : Fin 2) (i : Fin 4) (h : Keeps a b s0 s) :
    Keeps a b s0 (State.v1Hitch s p i) := by
  unfold State.v1Hitch
  extract_lets z1
  apply State.forAll_keeps
  · intro y2 y3 y4
    apply State.dcmd_keeps
    apply State.breakHitch_keeps
    exact y4
  · exact h

theorem State.hello_keeps {a : Bool} {s0 : State} (s : State) (f : HostFrame) (h : Keeps a false s0 s) :
    Keeps a false s0 (State.hello s f) := by
  unfold State.hello
  extract_lets z1 z2 z3
  have hz3 : Keeps a false s0 z3 := by
    unfold z3
    apply State.closeSession_keeps
    exact h
  clear_value z3
  split
  split
  · apply State.helloRefused_keeps
    exact h
  · extract_lets z4 z5 z6 z7 z8 z9 z10
    have hz5 : Keeps a false s0 z5 := by
      unfold z5
      split
      · apply State.setReg_keeps
        exact hz3
      · exact hz3
    clear_value z5
    have hz8 : Keeps a false s0 z8 := by
      unfold z8
      apply State.touch_keeps
      apply State.setSess_keeps
      exact hz5
    clear_value z8
    have hz9 : Keeps a false s0 z9 := by
      unfold z9
      split
      · apply State.v1Hitch_keeps
        exact hz8
      · exact hz8
    clear_value z9
    apply State.cacheResponse_keeps
    apply State.queueResponse_keeps
    exact hz9

theorem execUhpHello_keeps {a : Bool} {s0 : State} (f : HostFrame) (s : State) (h : Keeps a false s0 s) :
    KeepsNext a false s0 (execUhpHello f s) := by
  unfold execUhpHello
  apply KeepsNext.of
  apply State.uhp_keeps
  · intro y1 y2 y3
    apply State.hello_keeps
    exact y3
  · exact h

theorem State.moveEvent_keeps {a : Bool} {s0 : State} (s : State) (p : Fin 2) (i : Fin 4) (q : Request) (hw : HwBits) (h : Keeps a false s0 s) :
    Keeps a false s0 (State.moveEvent s p i q hw).1 := by
  unfold State.moveEvent
  extract_lets z1
  split
  · extract_lets z2
    have hz2 : Keeps a false s0 z2.1 := by
      unfold z2
      apply State.read32_keeps
      exact h
    clear_value z2
    exact hz2
  · extract_lets z3
    have hz3 : Keeps a false s0 z3.1 := by
      unfold z3
      apply State.write32_keeps
      exact h
    clear_value z3
    exact hz3
  · exact h

theorem State.hostRead_keeps {a : Bool} {s0 : State} (s : State) (p : Fin 2) (i : Fin 4) (v1 : Bool) (a' : Word) (size : Nat) (h : Keeps a false s0 s) :
    Keeps a false s0 (State.hostRead s p i v1 a' size).1 := by
  unfold State.hostRead
  split
  · exact h
  · extract_lets z1
    have hz1 : Keeps a false s0 z1.1 := by
      unfold z1
      apply State.transfer_keeps
      exact h
    clear_value z1
    exact hz1

theorem State.v1Write_keeps {a : Bool} {s0 : State} (s : State) (p : Fin 2) (i : Fin 4) (a' : Nat) (v : Word) (hw : HwBits) (h : Keeps a false s0 s) :
    Keeps a false s0 (State.v1Write s p i a' v hw).1 := by
  unfold State.v1Write
  extract_lets z1 z2 z3
  split
  · exact h
  · split
    · extract_lets z4 z5 z6
      have hz5 : Keeps a false s0 z5.1 := by
        unfold z5
        dsimp only [z2]
        apply State.write32_keeps
        exact h
      clear_value z5
      have hz6 : Keeps a false s0 z6.1 := by
        unfold z6
        dsimp only [z2]
        apply State.write32_keeps
        exact hz5
      clear_value z6
      split
      · exact h
      · split
        · split
          · exact h
          · apply State.dcmd_keeps
            exact h
        · dsimp only [z2]
          apply State.write32_keeps
          exact h
        · exact h
        · exact hz6
    · extract_lets z7
      have hz7 : Keeps a false s0 z7.1 := by
        unfold z7
        dsimp only [z2]
        apply State.write32_keeps
        exact h
      clear_value z7
      dsimp only
      split
      · exact hz7
      · apply State.setOvr_keeps
        exact hz7
    · exact h

theorem State.hostWrite_keeps {a : Bool} {s0 : State} (s : State) (p : Fin 2) (i : Fin 4) (v1 : Bool) (a' : Word) (size : Nat) (data : Nat) (hw : HwBits) (h : Keeps a false s0 s) :
    Keeps a false s0 (State.hostWrite s p i v1 a' size data hw).1 := by
  unfold State.hostWrite
  split
  · apply State.v1Write_keeps
    exact h
  · extract_lets z1
    have hz1 : Keeps a false s0 z1.1 := by
      unfold z1
      apply State.transfer_keeps
      exact h
    clear_value z1
    exact hz1

theorem State.moveWord_keeps {a : Bool} {s0 : State} (s : State) (p : Fin 2) (i : Fin 4) (q : Request) (hw : HwBits) (h : Keeps a false s0 s) :
    Keeps a false s0 (State.moveWord s p i q hw).1 := by
  unfold State.moveWord
  extract_lets z1 z2 z3 z4
  clear_value z1
  have hz3 : Keeps a false s0 z3.1 := by
    unfold z3
    apply State.hostRead_keeps
    exact h
  clear_value z3
  split
  · apply State.moveEvent_keeps
    exact h
  · split
    · exact hz3
    · split
      · exact h
      · extract_lets z5
        have hz5 : Keeps a false s0 z5.1 := by
          unfold z5
          apply State.hostWrite_keeps
          exact h
        clear_value z5
        split
        · exact hz5
        · exact hz5

theorem State.turn_keeps {a : Bool} {s0 : State} (s : State) (hw : HwBits) (h : Keeps a false s0 s) :
    Keeps a false s0 (State.turn s hw) := by
  unfold State.turn
  apply State.forAll_keeps
  · intro y1 y2 y3
    split
    · exact y3
    · extract_lets z4
      have hz4 : Keeps a false s0 z4.1 := by
        unfold z4
        apply State.moveWord_keeps
        exact y3
      clear_value z4
      apply State.carryOn_keeps
      exact hz4
  · exact h

theorem State.turns_keeps {a : Bool} {s0 : State} (s : State) (n : Nat) (hw : HwBits) (h : Keeps a false s0 s) :
    Keeps a false s0 (State.turns s n hw) := by
  unfold State.turns
  apply State.forAll_keeps
  · intro y1 y2 y3
    apply State.turn_keeps
    exact y3
  · exact h

theorem State.uhpRmwRun_keeps {a : Bool} {s0 : State} (s : State) (f : HostFrame) (etag : Nat) (hw : Word) (h : Keeps a false s0 s) :
    Keeps a false s0 (State.uhpRmwRun s f etag hw) := by
  unfold State.uhpRmwRun
  extract_lets z1 z2 z3 z4 z5 z6
  have hz4 : Keeps a false s0 z4.1 := by
    unfold z4
    apply State.read32_keeps
    apply State.setExec_keeps
    exact h
  clear_value z4
  have hz6 : Keeps a false s0 z6.1 := by
    unfold z6
    apply State.write32_keeps
    exact hz4
  clear_value z6
  split
  · apply State.carryOn_keeps
    exact hz4
  · apply State.carryOn_keeps
    exact hz6

theorem State.turnsFor_keeps {a : Bool} {s0 : State} (n : Nat) (s : State) (p : Fin 2) (i : Fin 4) (hw : HwBits)
    (h : Keeps a false s0 s) : Keeps a false s0 (State.turnsFor n s p i hw) := by
  induction n generalizing s with
  | zero => exact h
  | succ n ih =>
    unfold State.turnsFor
    split
    · exact ih _ (State.turn_keeps _ _ h)
    · exact h

theorem execUhpRmw_keeps {a : Bool} {s0 : State} (f : HostFrame) (hw : Word) (s : State) (h : Keeps a false s0 s) :
    KeepsNext a false s0 (execUhpRmw f hw s) := by
  unfold execUhpRmw
  apply KeepsNext.of
  apply State.uhp_keeps
  · intro y1 y2 y3
    apply State.uhpRmwRun_keeps
    exact y3
  · exact h

theorem State.uhpMove_keeps {a : Bool} {s0 : State} (s : State) (f : HostFrame) (etag : Nat) (moved : Nat) (hw : HwBits) (h : Keeps a false s0 s) :
    Keeps a false s0 (State.uhpMove s f etag moved hw) := by
  unfold State.uhpMove
  extract_lets z1 z2
  apply State.turns_keeps
  apply State.setExec_keeps
  exact h

theorem execUhpWrite_keeps {a : Bool} {s0 : State} (f : HostFrame) (moved : Nat) (hw : HwBits) (s : State) (h : Keeps a false s0 s) :
    KeepsNext a false s0 (execUhpWrite f moved hw s) := by
  unfold execUhpWrite
  apply KeepsNext.of
  apply State.uhp_keeps
  · intro y1 y2 y3
    apply State.uhpMove_keeps
    exact y3
  · exact h

theorem execHostRead_keeps {a : Bool} {s0 : State} (p : Fin 2) (transport : Byte) (count : Nat) (s : State) (h : Keeps a false s0 s) :
    KeepsNext a false s0 (execHostRead p transport count s) := by
  unfold execHostRead
  apply KeepsNext.of
  split
  · exact h
  · split
    · split
      · exact h
      · apply State.frmErr_keeps
        apply State.startWake_keeps
        exact h
    · extract_lets z1 z2 z3
      have hz1 : Keeps a false s0 z1 := by
        unfold z1
        apply State.startWake_keeps
        exact h
      clear_value z1
      refine Keeps.update (s := z1) ?_
      exact hz1

theorem execUhpRead_keeps {a : Bool} {s0 : State} (f : HostFrame) (moved : Nat) (hw : HwBits) (s : State) (h : Keeps a false s0 s) :
    KeepsNext a false s0 (execUhpRead f moved hw s) := by
  unfold execUhpRead
  apply KeepsNext.of
  apply State.uhp_keeps
  · intro y1 y2 y3
    apply State.uhpMove_keeps
    exact y3
  · exact h

theorem State.responseReady_keeps {a : Bool} {s0 : State} (s : State) (p : Fin 2) (i : Fin 4) (hw : HwBits) (h : Keeps a false s0 s) :
    Keeps a false s0 (State.responseReady s p i hw) := by
  unfold State.responseReady
  split
  · exact h
  · split
    · exact h
    · extract_lets z1
      have hz1 : Keeps a false s0 z1 := by
        unfold z1
        apply State.turnsFor_keeps
        exact h
      clear_value z1
      split
      · apply State.finishRequest_keeps
        exact hz1
      · exact hz1

theorem State.uhpStoreRun_keeps {a : Bool} {s0 : State} (s : State) (f : HostFrame) (etag : Nat) (h : Keeps a false s0 s) :
    Keeps a false s0 (State.uhpStoreRun s f etag) := by
  unfold State.uhpStoreRun
  extract_lets z1 z2 z3 z4 z5
  have hz4 : Keeps a false s0 z4 := by
    unfold z4
    split
    · apply State.kpsStoreAll_keeps
      exact h
    · apply State.kpsStore_keeps
      exact h
  clear_value z4
  split
  · apply State.setExec_keeps
    exact hz4
  · split
    · apply State.setExec_keeps
      exact hz4
    · apply State.setExec_keeps
      exact hz4

theorem State.uhpRequestRun_keeps {a : Bool} {s0 : State} (s : State) (f : HostFrame) (etag : Nat) (h : Keeps a false s0 s) :
    Keeps a false s0 (State.uhpRequestRun s f etag) := by
  unfold State.uhpRequestRun
  extract_lets z1 z2 z3
  have hz3 : Keeps a false s0 z3.1 := by
    unfold z3
    apply State.dcmd_keeps
    exact h
  clear_value z3
  apply State.setExec_keeps
  exact hz3

theorem State.uhpEventsRun_keeps {a : Bool} {s0 : State} (s : State) (f : HostFrame) (etag : Nat) (moved : Nat) (hw : HwBits) (h : Keeps a false s0 s) :
    Keeps a false s0 (State.uhpEventsRun s f etag moved hw) := by
  unfold State.uhpEventsRun
  extract_lets z1 z2 z3
  apply State.turns_keeps
  apply State.setExec_keeps
  exact h

theorem State.heldFrame_keeps {a : Bool} {s0 : State} (hw : HwBits) (s : State) (f : HostFrame) (h : Keeps a false s0 s) :
    Keeps a false s0 (State.heldFrame hw s f) := by
  unfold State.heldFrame
  split
  · apply State.uhpTake_keeps
    · intro y1 y2 y3
      apply State.uhpMove_keeps
      exact y3
    · exact h
  · split
    · apply State.uhpTake_keeps
      · intro y4 y5 y6
        apply State.uhpRmwRun_keeps
        exact y6
      · exact h
    · split
      · apply State.uhpTake_keeps
        · intro y7 y8 y9
          apply State.uhpRequestRun_keeps
          exact y9
        · exact h
      · split
        · apply State.uhpTake_keeps
          · intro y10 y11 y12
            apply State.uhpRunRun_keeps
            exact y12
          · exact h
        · split
          · apply State.uhpTake_keeps
            · intro y13 y14 y15
              apply State.uhpStoreRun_keeps
              exact y15
            · exact h
          · split
            · apply State.uhpTake_keeps
              · intro y16 y17 y18
                apply State.uhpEventsRun_keeps
                exact y18
              · exact h
            · split
              · apply State.uhpTake_keeps
                · intro y19 y20 y21
                  apply State.uhpAbortRun_keeps
                  exact y21
                · exact h
              · split
                · apply State.uhpTake_keeps
                  · intro y22 y23 y24
                    apply State.uhpByeRun_keeps
                    exact y24
                  · exact h
                · apply State.uhpTake_keeps
                  · intro y25 y26 y27
                    apply State.hello_keeps
                    exact y27
                  · exact h

theorem execUhpAbort_keeps {a : Bool} {s0 : State} (f : HostFrame) (s : State) (h : Keeps a false s0 s) :
    KeepsNext a false s0 (execUhpAbort f s) := by
  unfold execUhpAbort
  apply KeepsNext.of
  apply State.uhp_keeps
  · intro y1 y2 y3
    apply State.uhpAbortRun_keeps
    exact y3
  · exact h

theorem execUhpRequest_keeps {a : Bool} {s0 : State} (f : HostFrame) (s : State) (h : Keeps a false s0 s) :
    KeepsNext a false s0 (execUhpRequest f s) := by
  unfold execUhpRequest
  apply KeepsNext.of
  apply State.uhp_keeps
  · intro y1 y2 y3
    apply State.uhpRequestRun_keeps
    exact y3
  · exact h

theorem execClose_keeps {a : Bool} {s0 : State} (u_who : Who) (p : Fin 2) (i : Fin 4) (s : State) (h : Keeps a false s0 s) :
    KeepsNext a false s0 (execClose u_who p i s) := by
  unfold execClose
  apply KeepsNext.of
  apply State.fab_keeps
  · intro y1 y2
    apply State.closeSession_keeps
    exact y2
  · exact h

theorem State.runHeld_keeps {a : Bool} {s0 : State} (s : State) (hw : HwBits) (h : Keeps a false s0 s) :
    Keeps a false s0 (State.runHeld s hw) := by
  unfold State.runHeld
  apply State.forAll_keeps
  · intro y1 y2 y3
    apply State.heldFrame_keeps
    exact y3
  · refine Keeps.update (s := s) ?_
    exact h

theorem execUhpEvents_keeps {a : Bool} {s0 : State} (f : HostFrame) (moved : Nat) (hw : HwBits) (s : State) (h : Keeps a false s0 s) :
    KeepsNext a false s0 (execUhpEvents f moved hw s) := by
  unfold execUhpEvents
  apply KeepsNext.of
  apply State.uhp_keeps
  · intro y1 y2 y3
    apply State.uhpEventsRun_keeps
    exact y3
  · exact h

theorem execResponseReady_keeps {a : Bool} {s0 : State} (p : Fin 2) (i : Fin 4) (hw : HwBits) (co : List SecEvent) (s : State) (h : Keeps a false s0 s) :
    KeepsNext a false s0 (execResponseReady p i hw co s) := by
  unfold execResponseReady
  apply KeepsNext.of
  apply State.responseReady_keeps
  apply State.secEvents_keeps
  exact h

theorem execSessionTimeout_keeps {a : Bool} {s0 : State} (p : Fin 2) (i : Fin 4) (s : State) (h : Keeps a false s0 s) :
    KeepsNext a false s0 (execSessionTimeout p i s) := by
  unfold execSessionTimeout
  apply KeepsNext.of
  split
  · apply State.closeSession_keeps
    exact h
  · exact h

theorem execUhpStore_keeps {a : Bool} {s0 : State} (f : HostFrame) (s : State) (h : Keeps a false s0 s) :
    KeepsNext a false s0 (execUhpStore f s) := by
  unfold execUhpStore
  apply KeepsNext.of
  apply State.uhp_keeps
  · intro y1 y2 y3
    apply State.uhpStoreRun_keeps
    exact y3
  · exact h

end Sys2Proof.Machine
end

