-- ==== Sys2Proof/Laws/KeepsPower.lean ====
section
/-! SUPPORT. What each operation of `Machine/Power.lean` keeps: one lemma per operation that answers a state. -/

set_option Elab.async false

namespace Sys2Proof.Machine

theorem execAoCrystalFail_keeps {a : Bool} {s0 : State} (s : State) (h : Keeps a false s0 s) :
    KeepsNext a false s0 (execAoCrystalFail s) := by
  unfold execAoCrystalFail
  apply KeepsNext.of
  split
  · exact h
  · extract_lets z1 z2
    have hz1 : Keeps a false s0 z1 := by
      unfold z1
      apply State.orReg_keeps
      apply State.setBit_keeps
      exact h
    clear_value z1
    apply State.raise1_keeps
    refine Keeps.update (s := z1) ?_
    exact hz1

theorem State.setVin_keeps {a : Bool} {s0 : State} (s : State) (v : VinLevel) (ok : Bool) (h : Keeps a false s0 s) :
    Keeps a false s0 (State.setVin s v ok) := by
  unfold State.setVin
  apply State.rsvSettle_keeps
  apply State.setBit_keeps
  refine Keeps.update (s := s) ?_
  exact h

theorem State.setPhase_keeps {a : Bool} {s0 : State} (s : State) (ph : Phase) (h : Keeps a false s0 s) :
    Keeps a false s0 (State.setPhase s ph) := by
  unfold State.setPhase
  refine Keeps.update (s := s) ?_
  exact h

theorem execPllLocked_keeps {a : Bool} {s0 : State} (s : State) (h : Keeps a false s0 s) :
    KeepsNext a false s0 (execPllLocked s) := by
  unfold execPllLocked
  apply KeepsNext.of
  split
  · apply State.setPhase_keeps
    apply State.setBit_keeps
    exact h
  · exact h

theorem Repair.poke_keeps {a : Bool} {s0 : State} (q : Repair) (x : Nat) (l : List Byte) (h : Keeps a false s0 q.s) :
    Keeps a false s0 (q.poke x l).s := State.poke_keeps _ _ h

theorem Repair.journal_keeps {a b : Bool} {s0 : State} (q : Repair) (h : Keeps a b s0 q.s) :
    Keeps a b s0 q.journal.s := by
  unfold Repair.journal
  dsimp only [Repair.note]
  split
  · exact h
  · split
    · exact h
    · exact State.mark_keeps _ h

theorem Repair.choose_keeps {a : Bool} {s0 : State} (q : Repair) (c : Choice) (base : Bool → Nat) (len roll bad tie : Nat)
    (h : Keeps a false s0 q.s) : Keeps a false s0 (q.choose c base len roll bad tie).s := by
  unfold Repair.choose
  split
  · exact h
  · exact h
  · exact h
  · exact h
  · exact Repair.poke_keeps _ _ _ (State.orReg_keeps _ _ _ h)

theorem Repair.counter_keeps {a : Bool} {s0 : State} (q : Repair) (n : Nat) (h : Keeps a false s0 q.s) :
    Keeps a false s0 (q.counter n).s := by
  have hrep : ∀ (q : Repair) (l : Nat), Keeps a false s0 q.s →
      Keeps a false s0 (((q.note (bitw 7)).poke (cntBase n + 0x100) (lapBytes l ++ lapBytes l)).s.orReg aCntRep (bitw n)) :=
    fun q l h => State.orReg_keeps _ _ _ (Repair.poke_keeps _ _ _ h)
  unfold Repair.counter
  extract_lets s1 x1 u v rep q1
  have h1 : Keeps a false s0 q1.s := by
    unfold q1
    split
    · exact State.orReg_keeps _ _ _ h
    · exact h
  clear_value q1
  split
  · exact State.orReg_keeps _ _ _ (Repair.poke_keeps _ _ _ (Repair.poke_keeps _ _ _ h))
  · extract_lets m q2
    have h2 : Keeps a false s0 q2.s := by
      unfold q2
      split
      · exact h1
      · exact hrep _ _ h1
    clear_value q2
    split
    · exact hrep _ _ h2
    · exact h2

theorem Repair.log_keeps {a : Bool} {s0 : State} (q : Repair) (h : Keeps a false s0 q.s) : Keeps a false s0 q.log.s := by
  have hf : ∀ (l : List Nat) (q : Repair), Keeps a false s0 q.s →
      Keeps a false s0 (l.foldl (fun q k => q.poke (recBase k) [0, 0, 0, 0]) q).s := by
    intro l
    induction l with
    | nil => exact fun _ h => h
    | cons x t ih => exact fun q h => ih _ (Repair.poke_keeps _ _ _ h)
  unfold Repair.log
  extract_lets torn bad q1 q2 s1 good seq
  have h0 : Keeps a false s0 q1.s := hf bad q h
  clear_value q1
  have h1 : Keeps a false s0 s1 := h0
  clear_value good s1
  split
  · exact State.setReg_keeps _ _ (State.setReg_keeps _ _ h1)
  · exact State.setReg_keeps _ _ (State.setReg_keeps _ _ h1)

theorem State.repair_keeps {a : Bool} {s0 : State} (s : State) (h : Keeps a false s0 s) : Keeps a false s0 s.repair := by
  have hf : ∀ (l : List Nat) (q : Repair), Keeps a false s0 q.s → Keeps a false s0 (l.foldl Repair.counter q).s := by
    intro l
    induction l with
    | nil => exact fun _ h => h
    | cons x t ih => exact fun q h => ih _ (Repair.counter_keeps _ _ h)
  unfold State.repair
  have h0 := State.setReg_keeps aCntBad 0 (State.setReg_keeps aCntRep 0 h)
  extract_lets q0 q1 cfg q2 q3 q4 q5 s1 k p s2
  have h1 : Keeps a false s0 q1.s := Repair.journal_keeps _ h0
  have h2 : Keeps a false s0 q2.s := Repair.choose_keeps _ _ _ _ _ _ _ h1
  have h3 : Keeps a false s0 q3.s := Repair.choose_keeps _ _ _ _ _ _ _ h2
  have h4 : Keeps a false s0 q4.s := hf (List.range 32) q3 h3
  have h5 : Keeps a false s0 q5.s := Repair.log_keeps _ h4
  have h6 : Keeps a false s0 s1 := State.setReg_keeps _ _ h5
  clear_value s1
  have h7 : Keeps a false s0 s2 := h6.update
  clear_value s2
  split
  · exact h7
  · exact State.beginStore_keeps _ _ _ h7

theorem execRecallDone_keeps {a : Bool} {s0 : State} (s : State) (h : Keeps a false s0 s) :
    KeepsNext a false s0 (execRecallDone s) := by
  unfold execRecallDone
  refine .of ?_
  split
  · refine State.repair_keeps _ (h.trans ⟨rfl, rfl, fun c => ?_, fun _ => ⟨rfl, rfl⟩, fun h => nomatch h⟩)
    exact ⟨c.regs, c.shadow, c.shadow, c.tlmMem, c.imem, c.page⟩
  · exact h

theorem State.autoStarts_keeps {a b : Bool} {s0 : State} (s : State) (h : Keeps a b s0 s) :
    Keeps a b s0 (State.autoStarts s) := by
  unfold State.autoStarts
  split
  · exact h
  · extract_lets z1 z2
    have hz1 : Keeps a b s0 z1 := by
      unfold z1
      apply State.forAll_keeps
      · intro y3 y4 y5
        split
        · apply State.wickStart_keeps
          exact y5
        · exact y5
      · exact h
    clear_value z1
    apply State.cyc_keeps
    · intro y6 y7
      apply Cyc.launch_keeps
      apply Cyc.forAll_keeps
      · intro y8 y9 y10
        apply Cyc.onReq_keeps
        exact y10
      · exact y7
    · exact hz1

theorem State.countUnclean_keeps {a b : Bool} {s0 : State} (s : State) (h : Keeps a b s0 s) :
    Keeps a b s0 (State.countUnclean s) := by
  unfold State.countUnclean
  split
  · apply State.count_keeps
    exact h
  · exact h

theorem State.startTimers_keeps {a : Bool} {s0 : State} (s : State) (h : Keeps a false s0 s) :
    Keeps a false s0 (State.startTimers s) := by
  unfold State.startTimers
  extract_lets z1 z2 z3 z4 z5 z6
  have hz2 : Keeps a false s0 z2 := by
    unfold z2
    split
    · apply State.estStart_keeps
      exact h
    · refine Keeps.update (s := s) ?_
      exact h
  clear_value z2
  have hz4 : Keeps a false s0 z4 := by
    unfold z4
    refine Keeps.update (s := z2) ?_
    exact hz2
  clear_value z4
  have hz5 : Keeps a false s0 z5 := by
    unfold z5
    split
    · exact hz4
    · apply State.setFld_keeps
      exact hz4
  clear_value z5
  split
  · refine Keeps.update (s := z5) ?_
    exact hz5
  · exact hz5

theorem State.startCounters_keeps {a b : Bool} {s0 : State} (s : State) (h : Keeps a b s0 s) :
    Keeps a b s0 (State.startCounters s) := by
  unfold State.startCounters
  extract_lets z1 z2 z3
  have hz2 : Keeps a b s0 z2 := by
    unfold z2
    split
    · apply State.count_keeps
      exact h
    · exact h
  clear_value z2
  have hz3 : Keeps a b s0 z3 := by
    unfold z3
    apply State.count_keeps
    exact hz2
  clear_value z3
  split
  · apply State.count_keeps
    exact hz3
  · exact hz3

theorem State.enterRun_keeps {a : Bool} {s0 : State} (s : State) (h : Keeps a false s0 s) :
    Keeps a false s0 (State.enterRun s) := by
  unfold State.enterRun
  extract_lets z1 z2 z3 z4 z5 z6 z7 z8
  clear_value z1
  clear_value z2
  have hz3 : Keeps a false s0 z3 := by
    unfold z3
    apply State.setPhase_keeps
    exact h
  clear_value z3
  have hz4 : Keeps a false s0 z4 := by
    unfold z4
    apply State.setBit_keeps
    apply State.setBit_keeps
    exact hz3
  clear_value z4
  have hz5 : Keeps a false s0 z5 := by
    unfold z5
    apply State.setBit_keeps
    exact hz4
  clear_value z5
  have hz8 : Keeps a false s0 z8 := by
    unfold z8
    refine Keeps.update (s := z5) ?_
    exact hz5
  clear_value z8
  apply State.rsvRaise_keeps
  apply State.autoStarts_keeps
  apply State.countUnclean_keeps
  apply State.startTimers_keeps
  apply State.startCounters_keeps
  exact hz8

theorem execBootRun_keeps {a : Bool} {s0 : State} (dieTenths : Int) (s : State) (h : Keeps a false s0 s) :
    KeepsNext a false s0 (execBootRun dieTenths s) := by
  unfold execBootRun
  apply KeepsNext.of
  extract_lets z1
  clear_value z1
  split
  · apply State.enterRun_keeps
    exact h
  · exact h

theorem State.beginRestart_keeps {a : Bool} {s0 : State} (s : State) (cause : BitVec 3) (h : Keeps a false s0 s) :
    Keeps a false s0 (State.beginRestart s cause) := by
  unfold State.beginRestart
  extract_lets z1 z2 z3
  have hz1 : Keeps a false s0 z1 := by
    unfold z1
    apply State.setFld_keeps
    exact h
  clear_value z1
  have hz3 : Keeps a false s0 z3 := by
    unfold z3
    refine Keeps.update (s := z1) ?_
    exact hz1
  clear_value z3
  split
  · apply State.repair_keeps
    apply State.setPhase_keeps
    exact hz3
  · apply State.setPhase_keeps
    exact hz3

theorem State.freezeAtReset_keeps {a b : Bool} {s0 : State} (s : State) (h : Keeps a b s0 s) :
    Keeps a b s0 (State.freezeAtReset s).1 := by
  unfold State.freezeAtReset
  split
  · exact h
  · extract_lets z1
    dsimp only
    apply State.freezeDone_keeps
    exact h

theorem State.resetRegs_wf (s : State) (h : MapWf resetWord s.regs) : MapWf resetWord s.resetRegs := by
  have key : ∀ (x u : Nat × Word), (if alwaysOn x.1 || oringReg x.1 || x.1 == aFrzTL || x.1 == aFrzTH then some x else
      let m : Word := if x.1 = aRawStat then 0xC03F0000#32 else if x.1 = aKpsStat then bitw 25 else 0
      if x.2 &&& m = 0 then none else some (x.1, x.2 &&& m)) = some u →
      u = x ∨ (u.1 = x.1 ∧ resetWord x.1 = 0 ∧ u.2 ≠ 0) := by
    intro x u hu
    split at hu
    · exact .inl (Option.some.inj hu).symm
    · extract_lets m at hu
      have hm : m = 0 ∨ resetWord x.1 = 0 := by
        unfold m
        split
        · rename_i h1
          exact .inr (by rw [h1]; decide)
        · split
          · rename_i h1
            exact .inr (by rw [h1]; decide)
          · exact .inl rfl
      clear_value m
      split at hu
      · exact nomatch hu
      · rename_i hne
        have hu := Option.some.inj hu
        subst hu
        refine .inr ⟨rfl, hm.resolve_left (fun hm => hne ?_), hne⟩
        rw [hm]
        simp
  unfold State.resetRegs
  refine ⟨?_, fun e he => ?_⟩
  · rw [List.pairwise_filterMap]
    refine h.1.imp (fun {x y} hxy u hu v hv => ?_)
    have hu : u.1 = x.1 := (key _ _ hu).elim (fun h => by rw [h]) And.left
    have hv : v.1 = y.1 := (key _ _ hv).elim (fun h => by rw [h]) And.left
    rw [hu, hv]
    exact hxy
  · obtain ⟨x, hx, he⟩ := List.mem_filterMap.1 he
    rcases key _ _ he with h1 | ⟨h1, h2, h3⟩
    · rw [h1]
      exact h.2 _ hx
    · rw [h1, h2]
      exact h3

theorem State.deviceReset_keeps {s0 : State} (s : State) (h : Keeps false false s0 s) :
    Keeps false false s0 s.deviceReset := by
  unfold State.deviceReset
  have h1 := State.tear_keeps _ (State.freezeAtReset_keeps _ h)
  extract_lets q s1 p z k t
  have h1 : Keeps false false s0 s1 := h1
  have h2 : Keeps false false s0 t := by
    refine h1.trans ⟨rfl, rfl, fun c => ⟨State.resetRegs_wf _ c.regs, c.sram, c.shadow, c.tlmMem, ?_, ?_⟩,
      fun h => (nomatch h), fun h => nomatch h⟩
    · exact ⟨List.Pairwise.nil, fun e he => nomatch he⟩
    · exact fun j hj => nomatch hj
  clear_value t
  split
  · exact State.setFld_keeps _ _ _ _ _ h2
  · exact h2

theorem execSystemResetRestart_keeps {s0 : State} (s : State) (h : Keeps false false s0 s) :
    KeepsNext false false s0 (execSystemResetRestart s) := by
  unfold execSystemResetRestart
  apply KeepsNext.of
  split
  · extract_lets z1
    clear_value z1
    split
    · apply State.beginRestart_keeps
      apply State.deviceReset_keeps
      exact h
    · exact h
  · exact h

theorem State.enterState_keeps {a : Bool} {s0 : State} (s : State) (st : PowerState) (h : Keeps a false s0 s) :
    Keeps a false s0 (State.enterState s st) := by
  unfold State.enterState
  extract_lets z1 z2
  have hz2 : Keeps a false s0 z2 := by
    unfold z2
    refine Keeps.update (s := s) ?_
    exact h
  clear_value z2
  split
  · apply State.setBit_keeps
    exact hz2
  · exact hz2

theorem execEnterPowerState_keeps {a : Bool} {s0 : State} (wake : Bool) (s : State) (h : Keeps a false s0 s) :
    KeepsNext a false s0 (execEnterPowerState wake s) := by
  unfold execEnterPowerState
  apply KeepsNext.of
  split
  · apply State.startWake_keeps
    exact h
  · split
    · exact h
    · split
      · exact h
      · split
        · exact h
        · apply State.enterState_keeps
          exact h

theorem execDeviceReset_keeps {s0 : State} (s : State) (h : Keeps false false s0 s) :
    KeepsNext false false s0 (execDeviceReset s) := by
  unfold execDeviceReset
  apply KeepsNext.of
  split
  · apply State.deviceReset_keeps
    exact h
  · exact h

theorem execVinFall_keeps {a : Bool} {s0 : State} (s : State) (h : Keeps a false s0 s) :
    KeepsNext a false s0 (execVinFall s) := by
  unfold execVinFall
  apply KeepsNext.of
  split
  · exact h
  · apply State.startWake_keeps
    apply State.setVin_keeps
    exact h

theorem State.answerStores_keeps {a : Bool} {s0 : State} (s : State) (ended : Nat → Bool) (h : Keeps a false s0 s) :
    Keeps a false s0 (s.answerStores ended) := by
  unfold State.answerStores
  refine State.forAll_keeps _ _ (fun s p h => State.forAll_keeps _ _ (fun s i h => ?_) h) h
  split
  · split
    · exact State.setExec_keeps _ _ _ _ h
    · exact h
  · exact h

theorem State.powerFailStart_keeps {a : Bool} {s0 : State} (s : State) (h : Keeps a false s0 s) :
    Keeps a false s0 (State.powerFailStart s) := by
  unfold State.powerFailStart
  extract_lets z1 z2 z3 z4 z5 z6 z7 z8 z9
  have hz1 : Keeps a false s0 z1 := by
    unfold z1
    apply State.lateActions_keeps
    exact h
  clear_value z1
  have hz2 : Keeps a false s0 z2 := by
    unfold z2
    apply State.restAbort_keeps
    apply State.setBit_keeps
    apply State.setBit_keeps
    apply State.setFld_keeps
    exact hz1
  clear_value z2
  have hz3 : Keeps a false s0 z3 := by
    unfold z3
    apply State.count_keeps
    exact hz2
  clear_value z3
  have hz7 : Keeps a false s0 z7 := by
    unfold z7
    refine Keeps.update (s := z3) ?_
    exact hz3
  clear_value z7
  have hz9 : Keeps a false s0 z9 := by
    unfold z9
    apply State.cyc_keeps
    · intro y10 y11
      apply Cyc.hits_keeps
      apply Cyc.raise_keeps
      exact y11
    · exact hz7
  clear_value z9
  apply State.rsvSettle_keeps
  apply State.answerStores_keeps
  apply State.startPowerFailStore_keeps
  exact hz9

theorem State.powerDown_keeps {s0 : State} (s : State) (h : Keeps false false s0 s) :
    Keeps false false s0 s.powerDown := by
  unfold State.powerDown
  have h1 := State.tear_keeps s h
  extract_lets s1 p z r t
  have h1 : Keeps false false s0 s1 := h1
  have h2 : Keeps false false s0 t := by
    refine h1.trans ⟨rfl, rfl, fun c => ⟨c.regs.filter _, ?_, c.shadow, ?_, ?_, ?_⟩,
      fun h => (nomatch h), fun h => nomatch h⟩
    · exact ⟨List.Pairwise.nil, fun e he => nomatch he⟩
    · exact ⟨List.Pairwise.nil, fun e he => nomatch he⟩
    · exact ⟨List.Pairwise.nil, fun e he => nomatch he⟩
    · exact fun j hj => nomatch hj
  clear_value t
  exact State.setBit_keeps _ _ _ _ (State.setBit_keeps _ _ _ _ (State.setBit_keeps _ _ _ _ h2))

theorem execVinLowQualified_keeps {s0 : State} (s : State) (h : Keeps false false s0 s) :
    KeepsNext false false s0 (execVinLowQualified s) := by
  unfold execVinLowQualified
  apply KeepsNext.of
  split
  · exact h
  · split
    · exact h
    · apply State.setFld_keeps
      exact h
    · apply State.setFld_keeps
      exact h
    · split
      · apply State.powerFailStart_keeps
        exact h
      · apply State.startWake_keeps
        refine Keeps.update (s := s) ?_
        exact h
    · apply State.powerDown_keeps
      apply State.setFld_keeps
      exact h

theorem execVinQualified_keeps {a : Bool} {s0 : State} (s : State) (h : Keeps a false s0 s) :
    KeepsNext a false s0 (execVinQualified s) := by
  unfold execVinQualified
  refine .of ?_
  split
  · exact h
  extract_lets s1 s2 p
  have h1 : Keeps a false s0 s1 := by
    refine h.trans ⟨rfl, rfl, fun c => ?_, fun _ => ⟨rfl, rfl⟩, fun h => nomatch h⟩
    exact ⟨c.regs.filter _, c.sram, c.shadow, c.tlmMem, c.imem, c.page⟩
  exact Keeps.update (State.setFld_keeps _ _ _ _ _ (State.setBit_keeps _ _ _ _ (State.setBit_keeps _ _ _ _
    (State.setFld_keeps _ _ _ _ _ h1))))

theorem execReferenceCrystalFail_keeps {a : Bool} {s0 : State} (s : State) (h : Keeps a false s0 s) :
    KeepsNext a false s0 (execReferenceCrystalFail s) := by
  unfold execReferenceCrystalFail
  apply KeepsNext.of
  split
  · exact h
  · extract_lets z1 z2 z3 z4 z5 z6
    clear_value z1
    have hz2 : Keeps a false s0 z2 := by
      unfold z2
      apply State.orReg_keeps
      apply State.setBit_keeps
      exact h
    clear_value z2
    have hz5 : Keeps a false s0 z5 := by
      unfold z5
      refine Keeps.update (s := z2) ?_
      exact hz2
    clear_value z5
    have hz6 : Keeps a false s0 z6 := by
      unfold z6
      split
      · apply State.orReg_keeps
        apply State.setBit_keeps
        exact hz5
      · exact hz5
    clear_value z6
    apply State.raiseAll_keeps
    apply State.leaveMaster_keeps
    exact hz6

theorem execJtagReset_keeps {s0 : State} (s : State) (h : Keeps false false s0 s) :
    KeepsNext false false s0 (execJtagReset s) := by
  unfold execJtagReset
  apply KeepsNext.of
  split
  · apply State.beginRestart_keeps
    apply State.deviceReset_keeps
    exact h
  · exact h

theorem execWakeStart_keeps {a b : Bool} {s0 : State} (k : WakeKind) (s : State) (h : Keeps a b s0 s) :
    KeepsNext a b s0 (execWakeStart k s) := by
  unfold execWakeStart
  apply KeepsNext.of
  split
  · apply State.startWake_keeps
    exact h
  · exact h

theorem execResetnRelease_keeps {a : Bool} {s0 : State} (s : State) (h : Keeps a false s0 s) :
    KeepsNext a false s0 (execResetnRelease s) := by
  unfold execResetnRelease
  apply KeepsNext.of
  split
  · apply State.beginRestart_keeps
    exact h
  · exact h

theorem State.loadFrom_keeps {s0 : State} (s : State) (b' : Bool) (h : Keeps false false s0 s) :
    Keeps false false s0 (State.loadFrom s b') := by
  unfold State.loadFrom
  apply State.loadImage_keeps
  exact h

theorem execImageLoaded_keeps {s0 : State} (s : State) (h : Keeps false false s0 s) :
    KeepsNext false false s0 (execImageLoaded s) := by
  unfold execImageLoaded
  apply KeepsNext.of
  split
  · exact h
  · extract_lets z1 z2 z3 z4
    clear_value z1
    clear_value z2
    have hz3 : Keeps false false s0 z3 := by
      unfold z3
      apply State.setPhase_keeps
      exact h
    clear_value z3
    have hz4 : Keeps false false s0 z4 := by
      unfold z4
      split
      · split
        · apply State.loadFrom_keeps
          exact hz3
        · split
          · split
            · apply State.raise1_keeps
              apply State.setBit_keeps
              apply State.loadFrom_keeps
              exact hz3
            · apply State.raise1_keeps
              apply State.setBit_keeps
              exact hz3
          · apply State.raise1_keeps
            apply State.setBit_keeps
            exact hz3
      · apply State.raise1_keeps
        apply State.setBit_keeps
        exact hz3
    clear_value z4
    apply State.settleRsts_keeps
    apply State.checkConf_keeps
    exact hz4

theorem execThermalShutdown_keeps {a : Bool} {s0 : State} (s : State) (h : Keeps a false s0 s) :
    KeepsNext a false s0 (execThermalShutdown s) := by
  unfold execThermalShutdown
  apply KeepsNext.of
  split
  · exact h
  · extract_lets z1 z2 z3
    have hz1 : Keeps a false s0 z1 := by
      unfold z1
      apply State.setBit_keeps
      exact h
    clear_value z1
    have hz3 : Keeps a false s0 z3 := by
      unfold z3
      refine Keeps.update (s := z1) ?_
      exact hz1
    clear_value z3
    apply State.cyc_keeps
    · intro y4 y5
      apply Cyc.hits_keeps
      exact y5
    · exact hz3

theorem execStoreComplete_keeps {a : Bool} {s0 : State} (s : State) (h : Keeps a false s0 s) :
    KeepsNext a false s0 (execStoreComplete s) := by
  unfold execStoreComplete
  apply KeepsNext.of
  split
  · split
    · exact h
    · extract_lets z1
      apply State.answerStores_keeps
      apply State.endStore_keeps
      exact h
  · exact h

theorem execPfsAbandon_keeps {s0 : State} (s : State) (h : Keeps false false s0 s) :
    KeepsNext false false s0 (execPfsAbandon s) := by
  unfold execPfsAbandon
  apply KeepsNext.of
  extract_lets z1 z2 z3
  have hz1 : Keeps false false s0 z1 := by
    unfold z1
    apply State.stopErase_keeps
    exact h
  clear_value z1
  have hz3 : Keeps false false s0 z3 := by
    unfold z3
    refine Keeps.update (s := z1) ?_
    exact hz1
  clear_value z3
  split
  · apply State.powerDown_keeps
    apply State.setBit_keeps
    apply State.setBit_keeps
    exact hz3
  · apply State.storeNext_keeps
    exact hz1

theorem execVinRise_keeps {a : Bool} {s0 : State} (band : Bool) (s : State) (h : Keeps a false s0 s) :
    KeepsNext a false s0 (execVinRise band s) := by
  unfold execVinRise
  extract_lets z1
  apply KeepsNext.of
  split
  · exact h
  · apply State.setVin_keeps
    exact h
  · apply State.setVin_keeps
    exact h
  · apply State.setVin_keeps
    exact h

theorem execVhokWaitLimit_keeps {a : Bool} {s0 : State} (s : State) (h : Keeps a false s0 s) :
    KeepsNext a false s0 (execVhokWaitLimit s) := by
  unfold execVhokWaitLimit
  apply KeepsNext.of
  split
  · refine Keeps.update (s := s) ?_
    exact h
  · exact h

theorem execAlwaysOnPowerUp_keeps {a : Bool} {s0 : State} (aoCrystal : Bool) (s : State) (h : Keeps a false s0 s) :
    KeepsNext a false s0 (execAlwaysOnPowerUp aoCrystal s) := by
  unfold execAlwaysOnPowerUp
  apply KeepsNext.of
  split
  · apply State.setPhase_keeps
    apply State.setBit_keeps
    exact h
  · exact h

theorem execRepairDone_keeps {a : Bool} {s0 : State} (s : State) (h : Keeps a false s0 s) :
    KeepsNext a false s0 (execRepairDone s) := by
  unfold execRepairDone
  apply KeepsNext.of
  split
  · apply State.setPhase_keeps
    split
    · apply State.armAutosave_keeps
      exact h
    · exact h
  · exact h

theorem execPllLockReturn_keeps {a b : Bool} {s0 : State} (s : State) (h : Keeps a b s0 s) :
    KeepsNext a b s0 (execPllLockReturn s) := by
  unfold execPllLockReturn
  apply KeepsNext.of
  split
  · apply State.setBit_keeps
    exact h
  · exact h

theorem execAlwaysOnPowerLoss_keeps {s0 : State} (s : State) (h : Keeps false false s0 s) :
    KeepsNext false false s0 (execAlwaysOnPowerLoss s) := by
  have h1 := State.tear_keeps s h
  refine ⟨_, rfl, h1.trans ⟨rfl, rfl, fun c => ⟨?_, ?_, c.shadow, ?_, ?_, ?_⟩, fun h => (nomatch h), fun h => nomatch h⟩⟩
  · exact ⟨List.Pairwise.nil, fun e he => nomatch he⟩
  · exact ⟨List.Pairwise.nil, fun e he => nomatch he⟩
  · exact ⟨List.Pairwise.nil, fun e he => nomatch he⟩
  · exact ⟨List.Pairwise.nil, fun e he => nomatch he⟩
  · exact fun j hj => nomatch hj

theorem applyEntry_keeps {a : Bool} {s0 : State} (b' : Bool) (x : State × Nat × Nat) (k : Nat) (h : Keeps a false s0 x.1) :
    Keeps a false s0 (applyEntry b' x k).1 := by
  unfold applyEntry
  extract_lets z1 z2 z3
  have hz3 : Keeps a false s0 z3.1 := by
    unfold z3
    split
    · apply State.regWrite_keeps
      exact h
    · exact h
  clear_value z3
  split
  · exact hz3
  · exact hz3

theorem execRefClockReady_keeps {a : Bool} {s0 : State} (crystal : Bool) (aoCrystal : Bool) (s : State) (h : Keeps a false s0 s) :
    KeepsNext a false s0 (execRefClockReady crystal aoCrystal s) := by
  unfold execRefClockReady
  apply KeepsNext.of
  split
  · apply State.setPhase_keeps
    apply State.setBit_keeps
    apply State.setBit_keeps
    exact h
  · exact h

theorem execThermalWarning_keeps {a : Bool} {s0 : State} (s : State) (h : Keeps a false s0 s) :
    KeepsNext a false s0 (execThermalWarning s) := by
  unfold execThermalWarning
  apply KeepsNext.of
  split
  · exact h
  · apply State.raise1_keeps
    extract_lets z1 z2
    have hz1 : Keeps a false s0 z1 := by
      unfold z1
      apply State.setBit_keeps
      exact h
    clear_value z1
    refine Keeps.update (s := z1) ?_
    exact hz1

theorem execPowerFailStoreEnd_keeps {s0 : State} (s : State) (h : Keeps false false s0 s) :
    KeepsNext false false s0 (execPowerFailStoreEnd s) := by
  unfold execPowerFailStoreEnd
  refine .of ?_
  split
  · split
    · exact State.powerDown_keeps _ (Keeps.update (State.setBit_keeps _ _ _ _ (State.setBit_keeps _ _ _ _
        (State.setRun_keeps s none h (fun _ _ hi => nomatch hi)))))
    · exact h
  · exact h

theorem execPllLockLoss_keeps {a b : Bool} {s0 : State} (s : State) (h : Keeps a b s0 s) :
    KeepsNext a b s0 (execPllLockLoss s) := by
  unfold execPllLockLoss
  apply KeepsNext.of
  split
  · exact h
  · apply State.raise1_keeps
    apply State.orReg_keeps
    apply State.setBit_keeps
    exact h

theorem execWakeComplete_keeps {a : Bool} {s0 : State} (hw : HwBits) (co : List SecEvent) (s : State) (h : Keeps a false s0 s) :
    KeepsNext a false s0 (execWakeComplete hw co s) := by
  unfold execWakeComplete
  apply KeepsNext.of
  split
  · apply State.secEvents_keeps
    exact h
  · extract_lets z1 z2 z3 z4
    have hz1 : Keeps a false s0 z1 := by
      unfold z1
      split
      · apply State.setBit_keeps
        exact h
      · exact h
    clear_value z1
    have hz3 : Keeps a false s0 z3 := by
      unfold z3
      refine Keeps.update (s := z1) ?_
      exact hz1
    clear_value z3
    have hz4 : Keeps a false s0 z4 := by
      unfold z4
      apply State.secEvents_keeps
      apply State.lateActions_keeps
      exact hz3
    clear_value z4
    split
    · apply State.powerFailStart_keeps
      exact hz4
    · apply State.runHeld_keeps
      exact hz4

theorem execVinBandMs_keeps {a : Bool} {s0 : State} (s : State) (h : Keeps a false s0 s) :
    KeepsNext a false s0 (execVinBandMs s) := by
  unfold execVinBandMs
  apply KeepsNext.of
  split
  · extract_lets z1 z2 z3
    have hz3 : Keeps a false s0 z3 := by
      unfold z3
      apply State.setFld_keeps
      refine Keeps.update (s := s) ?_
      exact h
    clear_value z3
    split
    · apply State.setBit_keeps
      exact hz3
    · exact hz3
  · extract_lets z4 z5 z6
    have hz6 : Keeps a false s0 z6 := by
      unfold z6
      apply State.setFld_keeps
      refine Keeps.update (s := s) ?_
      exact h
    clear_value z6
    split
    · apply State.setBit_keeps
      exact hz6
    · exact hz6
  · exact h

theorem execInternalSuppliesReady_keeps {a : Bool} {s0 : State} (straps : Straps) (s : State) (h : Keeps a false s0 s) :
    KeepsNext a false s0 (execInternalSuppliesReady straps s) := by
  unfold execInternalSuppliesReady
  apply KeepsNext.of
  split
  · refine Keeps.update (s := s) ?_
    exact h
  · exact h

theorem State.bootCommit_keeps {a : Bool} {s0 : State} (s : State) (h : Keeps a false s0 s) :
    Keeps a false s0 (State.bootCommit s) := by
  unfold State.bootCommit
  split
  · apply State.orReg_keeps
    exact h
  · apply State.applyCommit_keeps
    exact h

theorem State.applySet_keeps {a : Bool} {s0 : State} (s : State) (h : Keeps a false s0 s) :
    Keeps a false s0 (State.applySet s) := by
  unfold State.applySet
  split
  · apply State.setFld_keeps
    exact h
  · extract_lets z1 z2 z3
    have hz3 : Keeps a false s0 z3.1 := by
      unfold z3
      apply Keeps.foldlFst
      · intro y4 y5 y6
        apply applyEntry_keeps
        exact y6
      · exact h
    clear_value z3
    apply State.setReg_keeps
    apply State.setReg_keeps
    exact hz3

theorem execConfigSetApplied_keeps {a : Bool} {s0 : State} (s : State) (h : Keeps a false s0 s) :
    KeepsNext a false s0 (execConfigSetApplied s) := by
  unfold execConfigSetApplied
  refine .of ?_
  split
  · exact h
  extract_lets old s1 s2 keep r s3 s4 clock s5
  have h1 : Keeps a false s0 s1 := by
    refine h.trans ⟨rfl, rfl, fun c => ?_, fun _ => ⟨rfl, rfl⟩, fun h => nomatch h⟩
    exact ⟨c.regs.filter _, c.sram, c.shadow, c.tlmMem, c.imem, c.page⟩
  have h2 : Keeps a false s0 s2 := State.bootCommit_keeps _ (State.setPhase_keeps _ _ (State.applySet_keeps _ h1))
  have h3 : Keeps a false s0 s3 := State.setRsv_keeps _ _ h2
  have h4 : Keeps a false s0 s4 := State.settleRsts_keeps _ (State.rsvSettle_keeps _ h3)
  have h5 : Keeps a false s0 s5 := State.raiseAll_keeps _ _ _ h4
  clear_value s5
  split
  · exact State.startErase_keeps _ h5
  · exact h5

theorem execThermalRearm_keeps {a : Bool} {s0 : State} (s : State) (h : Keeps a false s0 s) :
    KeepsNext a false s0 (execThermalRearm s) := by
  unfold execThermalRearm
  apply KeepsNext.of
  split
  · exact h
  · extract_lets z1 z2
    have hz1 : Keeps a false s0 z1 := by
      unfold z1
      apply State.setBit_keeps
      exact h
    clear_value z1
    refine Keeps.update (s := z1) ?_
    exact hz1

end Sys2Proof.Machine
end

