-- ==== Sys2Proof/Laws/KeepsStep.lean ====
section
/-! SUPPORT. What every command keeps, from the lemma of its meaning. -/

set_option Elab.async false

namespace Sys2Proof.Machine

/-- Every command keeps the queue, the cycle and the canonical form. -/
theorem exec_keeps (i : Instr) (s : State) : KeepsNext false false s (exec i s) := by
  cases i with
  | nop w => exact execNop_keeps w s (Keeps.rfl' s)
  | halt w => exact execHalt_keeps w s (Keeps.rfl' s)
  | en w co => exact execEn_keeps w co s (Keeps.rfl' s)
  | dis w co => exact execDis_keeps w co s (Keeps.rfl' s)
  | ens w co => exact execEns_keeps w co s (Keeps.rfl' s)
  | diss w co => exact execDiss_keeps w co s (Keeps.rfl' s)
  | disch w co => exact execDisch_keeps w co s (Keeps.rfl' s)
  | wait w => exact execWait_keeps w s (Keeps.rfl' s)
  | waitc w => exact execWaitc_keeps w s (Keeps.rfl' s)
  | chk w => exact execChk_keeps w s (Keeps.rfl' s)
  | jmp w => exact execJmp_keeps w s (Keeps.rfl' s)
  | call w => exact execCall_keeps w s (Keeps.rfl' s)
  | ret w => exact execRet_keeps w s (Keeps.rfl' s)
  | loop w => exact execLoop_keeps w s (Keeps.rfl' s)
  | marg w co => exact execMarg_keeps w co s (Keeps.rfl' s)
  | sig w => exact execSig_keeps w s (Keeps.rfl' s)
  | wsig w arr => exact execWsig_keeps w arr s (Keeps.rfl' s)
  | hitch w => exact execHitch_keeps w s (Keeps.rfl' s)
  | unhitch w => exact execUnhitch_keeps w s (Keeps.rfl' s)
  | log w => exact execLog_keeps w s (Keeps.rfl' s)
  | raise w co => exact execRaise_keeps w co s (Keeps.rfl' s)
  | sync w => exact execSync_keeps w s (Keeps.rfl' s)
  | setv w => exact execSetv_keeps w s (Keeps.rfl' s)
  | addv w => exact execAddv_keeps w s (Keeps.rfl' s)
  | tlm w => exact execTlm_keeps w s (Keeps.rfl' s)
  | rsto w write => exact execRsto_keeps w write s (Keeps.rfl' s)
  | sleephint w => exact execSleephint_keeps w s (Keeps.rfl' s)
  | pmb w => exact execPmb_keeps w s (Keeps.rfl' s)
  | illegalInstruction w => exact execIllegalInstruction_keeps w s (Keeps.rfl' s)
  | waitEnd w => exact execWaitEnd_keeps w s (Keeps.rfl' s)
  | waitTimeout w => exact execWaitTimeout_keeps w s (Keeps.rfl' s)
  | waitcSuccess w => exact execWaitcSuccess_keeps w s (Keeps.rfl' s)
  | wsigSuccess w arr => exact execWsigSuccess_keeps w arr s (Keeps.rfl' s)
  | hitchSuccess w => exact execHitchSuccess_keeps w s (Keeps.rfl' s)
  | syncSuccess w => exact execSyncSuccess_keeps w s (Keeps.rfl' s)
  | logStallEnd w => exact execLogStallEnd_keeps w s (Keeps.rfl' s)
  | disWaitEnd w => exact execDisWaitEnd_keeps w s (Keeps.rfl' s)
  | wickBoundaryStop w => exact execWickBoundaryStop_keeps w s (Keeps.rfl' s)
  | wickStart who w addr => exact execWickStart_keeps who w addr s (Keeps.rfl' s)
  | wickStop who w => exact execWickStop_keeps who w s (Keeps.rfl' s)
  | sigset who w num => exact execSigset_keeps who w num s (Keeps.rfl' s)
  | commit who andActivate => exact execCommit_keeps who andActivate s (Keeps.rfl' s)
  | commitComplete => exact execCommitComplete_keeps s (Keeps.rfl' s)
  | activate who => exact execActivate_keeps who s (Keeps.rfl' s)
  | activateDone => exact execActivateDone_keeps s (Keeps.rfl' s)
  | ovCrossing r active co => exact execOvCrossing_keeps r active co s (Keeps.rfl' s)
  | uvCrossing r active co => exact execUvCrossing_keeps r active co s (Keeps.rfl' s)
  | ocCrossing r active co => exact execOcCrossing_keeps r active co s (Keeps.rfl' s)
  | auxCrossing n high active co => exact execAuxCrossing_keeps n high active co s (Keeps.rfl' s)
  | blankingEnd c active co => exact execBlankingEnd_keeps c active co s (Keeps.rfl' s)
  | switchingPeriodStart r => exact execSwitchingPeriodStart_keeps r s (Keeps.rfl' s)
  | softStartEnd r co => exact execSoftStartEnd_keeps r co s (Keeps.rfl' s)
  | tonExpiry r co => exact execTonExpiry_keeps r co s (Keeps.rfl' s)
  | toffExpiry r co => exact execToffExpiry_keeps r co s (Keeps.rfl' s)
  | prebiasTimeout r co => exact execPrebiasTimeout_keeps r co s (Keeps.rfl' s)
  | backoffExpiry r co => exact execBackoffExpiry_keeps r co s (Keeps.rfl' s)
  | retryCountReset r => exact execRetryCountReset_keeps r s (Keeps.rfl' s)
  | preambleEnd r => exact execPreambleEnd_keeps r s (Keeps.rfl' s)
  | pmbusPollPass port => exact execPmbusPollPass_keeps port s (Keeps.rfl' s)
  | pmbusTransactionDone port res => exact execPmbusTransactionDone_keeps port res s (Keeps.rfl' s)
  | smbusTimeout port => exact execSmbusTimeout_keeps port s (Keeps.rfl' s)
  | marginSlewMove r => exact execMarginSlewMove_keeps r s (Keeps.rfl' s)
  | pmbusSlewComplete r => exact execPmbusSlewComplete_keeps r s (Keeps.rfl' s)
  | chFlagsWrite who r v hw => exact execChFlagsWrite_keeps who r v hw s (Keeps.rfl' s)
  | chMarginWrite who r v => exact execChMarginWrite_keeps who r v s (Keeps.rfl' s)
  | selfTestTurn bank => exact execSelfTestTurn_keeps bank s (Keeps.rfl' s)
  | selfTestPhase out => exact execSelfTestPhase_keeps out s (Keeps.rfl' s)
  | selfTestBankEnd out => exact execSelfTestBankEnd_keeps out s (Keeps.rfl' s)
  | scanFrame => exact execScanFrame_keeps s (Keeps.rfl' s)
  | adcConversion p code kind early => exact execAdcConversion_keeps p code kind early s (Keeps.rfl' s)
  | burstStart => exact execBurstStart_keeps s (Keeps.rfl' s)
  | rawFrameWrite lost => exact execRawFrameWrite_keeps lost s (Keeps.rfl' s)
  | freeze who => exact execFreeze_keeps who s (Keeps.rfl' s)
  | freezeComplete => exact execFreezeComplete_keeps s (Keeps.rfl' s)
  | unfreeze who => exact execUnfreeze_keeps who s (Keeps.rfl' s)
  | clrmm who all pt => exact execClrmm_keeps who all pt s (Keeps.rfl' s)
  | clrpk who all pt => exact execClrpk_keeps who all pt s (Keeps.rfl' s)
  | tlmFiltWrite who p v => exact execTlmFiltWrite_keeps who p v s (Keeps.rfl' s)
  | tlmCtlWrite who v => exact execTlmCtlWrite_keeps who v s (Keeps.rfl' s)
  | lhStart => exact execLhStart_keeps s (Keeps.rfl' s)
  | lhCalRound shiftUv => exact execLhCalRound_keeps shiftUv s (Keeps.rfl' s)
  | lhExciteStart => exact execLhExciteStart_keeps s (Keeps.rfl' s)
  | lhPerturbToggle => exact execLhPerturbToggle_keeps s (Keeps.rfl' s)
  | lhCaptureEnd => exact execLhCaptureEnd_keeps s (Keeps.rfl' s)
  | lhComputeEnd => exact execLhComputeEnd_keeps s (Keeps.rfl' s)
  | rebase who all r => exact execRebase_keeps who all r s (Keeps.rfl' s)
  | dcmdHitch who d => exact execDcmdHitch_keeps who d s (Keeps.rfl' s)
  | dcmdUnhitch who d => exact execDcmdUnhitch_keeps who d s (Keeps.rfl' s)
  | dcmdOn who d react => exact execDcmdOn_keeps who d react s (Keeps.rfl' s)
  | dcmdOff who d => exact execDcmdOff_keeps who d s (Keeps.rfl' s)
  | dcmdMargin who d r step => exact execDcmdMargin_keeps who d r step s (Keeps.rfl' s)
  | pendingUpStart d => exact execPendingUpStart_keeps d s (Keeps.rfl' s)
  | hitchBreak d => exact execHitchBreak_keeps d s (Keeps.rfl' s)
  | reactionApply => exact execReactionApply_keeps s (Keeps.rfl' s)
  | shutdownRankDone => exact execShutdownRankDone_keeps s (Keeps.rfl' s)
  | shutdownRankTimeout => exact execShutdownRankTimeout_keeps s (Keeps.rfl' s)
  | shutdownEnd => exact execShutdownEnd_keeps s (Keeps.rfl' s)
  | systemResetStore => exact execSystemResetStore_keeps s (Keeps.rfl' s)
  | systemResetRestart => exact execSystemResetRestart_keeps s (Keeps.rfl' s)
  | emberComplete => exact execEmberComplete_keeps s (Keeps.rfl' s)
  | headerRewrite => exact execHeaderRewrite_keeps s (Keeps.rfl' s)
  | shadowClose doms device => exact execShadowClose_keeps doms device s (Keeps.rfl' s)
  | logEntryWrite => exact execLogEntryWrite_keeps s (Keeps.rfl' s)
  | clear who => exact execClear_keeps who s (Keeps.rfl' s)
  | clrcnt who => exact execClrcnt_keeps who s (Keeps.rfl' s)
  | fire who andDisarm co => exact execFire_keeps who andDisarm co s (Keeps.rfl' s)
  | disarm who => exact execDisarm_keeps who s (Keeps.rfl' s)
  | resetStretchEnd k => exact execResetStretchEnd_keeps k s (Keeps.rfl' s)
  | resetPulseEnd k => exact execResetPulseEnd_keeps k s (Keeps.rfl' s)
  | rstovrAuto who k => exact execRstovrAuto_keeps who k s (Keeps.rfl' s)
  | rstovrAssert who k => exact execRstovrAssert_keeps who k s (Keeps.rfl' s)
  | rstovrPulse who k => exact execRstovrPulse_keeps who k s (Keeps.rfl' s)
  | mrgRstWrite who k v => exact execMrgRstWrite_keeps who k v s (Keeps.rfl' s)
  | store who => exact execStore_keeps who s (Keeps.rfl' s)
  | storeall who => exact execStoreall_keeps who s (Keeps.rfl' s)
  | autosave => exact execAutosave_keeps s (Keeps.rfl' s)
  | storeShadowReady => exact execStoreShadowReady_keeps s (Keeps.rfl' s)
  | storePageDone verified => exact execStorePageDone_keeps verified s (Keeps.rfl' s)
  | storeComplete => exact execStoreComplete_keeps s (Keeps.rfl' s)
  | powerFailStoreEnd => exact execPowerFailStoreEnd_keeps s (Keeps.rfl' s)
  | pfsAbandon => exact execPfsAbandon_keeps s (Keeps.rfl' s)
  | vholdCrossing rising => exact execVholdCrossing_keeps rising s (Keeps.rfl' s)
  | inc who n => exact execInc_keeps who n s (Keeps.rfl' s)
  | init who n => exact execInit_keeps who n s (Keeps.rfl' s)
  | counterIncrement => exact execCounterIncrement_keeps s (Keeps.rfl' s)
  | internalSuppliesReady straps => exact execInternalSuppliesReady_keeps straps s (Keeps.rfl' s)
  | refClockReady crystal aoCrystal => exact execRefClockReady_keeps crystal aoCrystal s (Keeps.rfl' s)
  | bootRun dieTenths => exact execBootRun_keeps dieTenths s (Keeps.rfl' s)
  | chargerTransition cellMv co => exact execChargerTransition_keeps cellMv co s (Keeps.rfl' s)
  | prechargeTimeout co => exact execPrechargeTimeout_keeps co s (Keeps.rfl' s)
  | chargeTimeout co => exact execChargeTimeout_keeps co s (Keeps.rfl' s)
  | chargeTermination co => exact execChargeTermination_keeps co s (Keeps.rfl' s)
  | senseFault co => exact execSenseFault_keeps co s (Keeps.rfl' s)
  | packOvervoltage co => exact execPackOvervoltage_keeps co s (Keeps.rfl' s)
  | oringOn => exact execOringOn_keeps s (Keeps.rfl' s)
  | oringOff => exact execOringOff_keeps s (Keeps.rfl' s)
  | currentLimitTimeout co => exact execCurrentLimitTimeout_keeps co s (Keeps.rfl' s)
  | shortCircuitTrip co => exact execShortCircuitTrip_keeps co s (Keeps.rfl' s)
  | autoRearm co => exact execAutoRearm_keeps co s (Keeps.rfl' s)
  | rearm who co => exact execRearm_keeps who co s (Keeps.rfl' s)
  | restnow who => exact execRestnow_keeps who s (Keeps.rfl' s)
  | reinit who => exact execReinit_keeps who s (Keeps.rfl' s)
  | clrlrn who => exact execClrlrn_keeps who s (Keeps.rfl' s)
  | cutoff co => exact execCutoff_keeps co s (Keeps.rfl' s)
  | estimatorTick aoMa co => exact execEstimatorTick_keeps aoMa co s (Keeps.rfl' s)
  | scheduledRestEnd co => exact execScheduledRestEnd_keeps co s (Keeps.rfl' s)
  | estimatorStateSave => exact execEstimatorStateSave_keeps s (Keeps.rfl' s)
  | estcfgWrite who v => exact execEstcfgWrite_keeps who v s (Keeps.rfl' s)
  | rsvFlagsWrite who v hw => exact execRsvFlagsWrite_keeps who v hw s (Keeps.rfl' s)
  | grant present => exact execGrant_keeps present s (Keeps.rfl' s)
  | transferComplete co => exact execTransferComplete_keeps co s (Keeps.rfl' s)
  | windowBoundary => exact execWindowBoundary_keeps s (Keeps.rfl' s)
  | arbCommit who andClear => exact execArbCommit_keeps who andClear s (Keeps.rfl' s)
  | arbClrcnt who => exact execArbClrcnt_keeps who s (Keeps.rfl' s)
  | uhpHello f => exact execUhpHello_keeps f s (Keeps.rfl' s)
  | uhpRead f moved hw => exact execUhpRead_keeps f moved hw s (Keeps.rfl' s)
  | uhpWrite f moved hw => exact execUhpWrite_keeps f moved hw s (Keeps.rfl' s)
  | uhpRmw f hw => exact execUhpRmw_keeps f hw s (Keeps.rfl' s)
  | uhpRequest f => exact execUhpRequest_keeps f s (Keeps.rfl' s)
  | uhpRun f => exact execUhpRun_keeps f s (Keeps.rfl' s)
  | uhpStore f => exact execUhpStore_keeps f s (Keeps.rfl' s)
  | uhpEvents f moved hw => exact execUhpEvents_keeps f moved hw s (Keeps.rfl' s)
  | uhpAbort f => exact execUhpAbort_keeps f s (Keeps.rfl' s)
  | uhpBye f => exact execUhpBye_keeps f s (Keeps.rfl' s)
  | hostRead port transport count => exact execHostRead_keeps port transport count s (Keeps.rfl' s)
  | responseReady port session hw co => exact execResponseReady_keeps port session hw co s (Keeps.rfl' s)
  | sessionTimeout port session => exact execSessionTimeout_keeps port session s (Keeps.rfl' s)
  | close who port session => exact execClose_keeps who port session s (Keeps.rfl' s)
  | tetherDiscovery => exact execTetherDiscovery_keeps s (Keeps.rfl' s)
  | pollRound => exact execPollRound_keeps s (Keeps.rfl' s)
  | tetherTimeSend => exact execTetherTimeSend_keeps s (Keeps.rfl' s)
  | tetherDelayMeasure => exact execTetherDelayMeasure_keeps s (Keeps.rfl' s)
  | tetherAnswer src tag crcOk a co => exact execTetherAnswer_keeps src tag crcOk a co s (Keeps.rfl' s)
  | tetherAnswerTimeout => exact execTetherAnswerTimeout_keeps s (Keeps.rfl' s)
  | tetherLoss => exact execTetherLoss_keeps s (Keeps.rfl' s)
  | tetherSigTimeout w => exact execTetherSigTimeout_keeps w s (Keeps.rfl' s)
  | tthGo who write target => exact execTthGo_keeps who write target s (Keeps.rfl' s)
  | tthHello h minVer maxVer => exact execTthHello_keeps h minVer maxVer s (Keeps.rfl' s)
  | tthPoll h dly confirms => exact execTthPoll_keeps h dly confirms s (Keeps.rfl' s)
  | tthRead h addr => exact execTthRead_keeps h addr s (Keeps.rfl' s)
  | tthWrite h addr data hw => exact execTthWrite_keeps h addr data hw s (Keeps.rfl' s)
  | tthSig h w n => exact execTthSig_keeps h w n s (Keeps.rfl' s)
  | tthTime h time synced tstep => exact execTthTime_keeps h time synced tstep s (Keeps.rfl' s)
  | tthRelease h id => exact execTthRelease_keeps h id s (Keeps.rfl' s)
  | tthTdly h => exact execTthTdly_keeps h s (Keeps.rfl' s)
  | ringTime h time corrPs tstep => exact execRingTime_keeps h time corrPs tstep s (Keeps.rfl' s)
  | dreq h => exact execDreq_keeps h s (Keeps.rfl' s)
  | dresp h residencePs roundTripPs => exact execDresp_keeps h residencePs roundTripPs s (Keeps.rfl' s)
  | lantern h l => exact execLantern_keeps h l s (Keeps.rfl' s)
  | pfclear h tc => exact execPfclear_keeps h tc s (Keeps.rfl' s)
  | ringSig h w n => exact execRingSig_keeps h w n s (Keeps.rfl' s)
  | sigack h seq => exact execSigack_keeps h seq s (Keeps.rfl' s)
  | arrive h id => exact execArrive_keeps h id s (Keeps.rfl' s)
  | withdraw h id => exact execWithdraw_keeps h id s (Keeps.rfl' s)
  | ringRead h addr => exact execRingRead_keeps h addr s (Keeps.rfl' s)
  | ringWrite h addr data hw => exact execRingWrite_keeps h addr data hw s (Keeps.rfl' s)
  | resp h seq status word => exact execResp_keeps h seq status word s (Keeps.rfl' s)
  | ringDelayTimer => exact execRingDelayTimer_keeps s (Keeps.rfl' s)
  | ringTimeSend => exact execRingTimeSend_keeps s (Keeps.rfl' s)
  | timeMasterTakeover => exact execTimeMasterTakeover_keeps s (Keeps.rfl' s)
  | syncLossTimeout => exact execSyncLossTimeout_keeps s (Keeps.rfl' s)
  | lanternSend => exact execLanternSend_keeps s (Keeps.rfl' s)
  | lanternRepeat => exact execLanternRepeat_keeps s (Keeps.rfl' s)
  | ringSigTimeout w => exact execRingSigTimeout_keeps w s (Keeps.rfl' s)
  | ringRaTimeout => exact execRingRaTimeout_keeps s (Keeps.rfl' s)
  | ringLockLoss portB => exact execRingLockLoss_keeps portB s (Keeps.rfl' s)
  | spliceOpen => exact execSpliceOpen_keeps s (Keeps.rfl' s)
  | rngCtlWrite who v => exact execRngCtlWrite_keeps who v s (Keeps.rfl' s)
  | rngGo who write target => exact execRngGo_keeps who write target s (Keeps.rfl' s)
  | tset who => exact execTset_keeps who s (Keeps.rfl' s)
  | pfclr who => exact execPfclr_keeps who s (Keeps.rfl' s)
  | pfclrall who => exact execPfclrall_keeps who s (Keeps.rfl' s)
  | wakeStart k => exact execWakeStart_keeps k s (Keeps.rfl' s)
  | jtagPrivate t => exact execJtagPrivate_keeps t s (Keeps.rfl' s)
  | lockCfg who => exact execLockCfg_keeps who s (Keeps.rfl' s)
  | lockProg who => exact execLockProg_keeps who s (Keeps.rfl' s)
  | lockBp who => exact execLockBp_keeps who s (Keeps.rfl' s)
  | lockKey who => exact execLockKey_keeps who s (Keeps.rfl' s)
  | lockDebug who => exact execLockDebug_keeps who s (Keeps.rfl' s)
  | lockInject who => exact execLockInject_keeps who s (Keeps.rfl' s)
  | erase who => exact execErase_keeps who s (Keeps.rfl' s)
  | keyEraseDone => exact execKeyEraseDone_keeps s (Keeps.rfl' s)
  | tamperLoopSample loop1 sensed => exact execTamperLoopSample_keeps loop1 sensed s (Keeps.rfl' s)
  | voltageGlitch active => exact execVoltageGlitch_keeps active s (Keeps.rfl' s)
  | temperatureGlitch active => exact execTemperatureGlitch_keeps active s (Keeps.rfl' s)
  | clockGlitch active => exact execClockGlitch_keeps active s (Keeps.rfl' s)
  | registerWrite who addr v hw => exact execRegisterWrite_keeps who addr v hw s (Keeps.rfl' s)
  | alwaysOnPowerUp aoCrystal => exact execAlwaysOnPowerUp_keeps aoCrystal s (Keeps.rfl' s)
  | tetherTimeStale => exact execTetherTimeStale_keeps s (Keeps.rfl' s)
  | ringLockGain portB => exact execRingLockGain_keeps portB s (Keeps.rfl' s)
  | ringLockDrop portB => exact execRingLockDrop_keeps portB s (Keeps.rfl' s)
  | ringCrcFailure portB frame => exact execRingCrcFailure_keeps portB frame s (Keeps.rfl' s)
  | dischargeLimitChange limiting => exact execDischargeLimitChange_keeps limiting s (Keeps.rfl' s)
  | vinFall => exact execVinFall_keeps s (Keeps.rfl' s)
  | vinLowQualified => exact execVinLowQualified_keeps s (Keeps.rfl' s)
  | vinRise band => exact execVinRise_keeps band s (Keeps.rfl' s)
  | vinQualified => exact execVinQualified_keeps s (Keeps.rfl' s)
  | vinBandMs => exact execVinBandMs_keeps s (Keeps.rfl' s)
  | pllLocked => exact execPllLocked_keeps s (Keeps.rfl' s)
  | recallDone => exact execRecallDone_keeps s (Keeps.rfl' s)
  | repairDone => exact execRepairDone_keeps s (Keeps.rfl' s)
  | configSetApplied => exact execConfigSetApplied_keeps s (Keeps.rfl' s)
  | imageLoaded => exact execImageLoaded_keeps s (Keeps.rfl' s)
  | vhokWaitLimit => exact execVhokWaitLimit_keeps s (Keeps.rfl' s)
  | enterPowerState wake => exact execEnterPowerState_keeps wake s (Keeps.rfl' s)
  | wakeComplete hw co => exact execWakeComplete_keeps hw co s (Keeps.rfl' s)
  | referenceCrystalFail => exact execReferenceCrystalFail_keeps s (Keeps.rfl' s)
  | aoCrystalFail => exact execAoCrystalFail_keeps s (Keeps.rfl' s)
  | pllLockLoss => exact execPllLockLoss_keeps s (Keeps.rfl' s)
  | pllLockReturn => exact execPllLockReturn_keeps s (Keeps.rfl' s)
  | thermalWarning => exact execThermalWarning_keeps s (Keeps.rfl' s)
  | thermalShutdown => exact execThermalShutdown_keeps s (Keeps.rfl' s)
  | thermalRearm => exact execThermalRearm_keeps s (Keeps.rfl' s)
  | deviceReset => exact execDeviceReset_keeps s (Keeps.rfl' s)
  | resetnRelease => exact execResetnRelease_keeps s (Keeps.rfl' s)
  | jtagReset => exact execJtagReset_keeps s (Keeps.rfl' s)
  | jtagBypass => exact execJtagBypass_keeps s (Keeps.rfl' s)
  | jtagIdcode => exact execJtagIdcode_keeps s (Keeps.rfl' s)
  | jtagSamplePreload => exact execJtagSamplePreload_keeps s (Keeps.rfl' s)
  | jtagExtest => exact execJtagExtest_keeps s (Keeps.rfl' s)
  | alwaysOnPowerLoss => exact execAlwaysOnPowerLoss_keeps s (Keeps.rfl' s)

/-- A command that loads and stores nothing keeps the shadow array and the instruction memory. -/
theorem exec_keeps_store (i : Instr) (hi : i.loadsOrStores = false) (s : State) : KeepsNext true false s (exec i s) := by
  cases i with
  | nop w => exact execNop_keeps w s (Keeps.rfl' s)
  | halt w => exact execHalt_keeps w s (Keeps.rfl' s)
  | en w co => exact execEn_keeps w co s (Keeps.rfl' s)
  | dis w co => exact execDis_keeps w co s (Keeps.rfl' s)
  | ens w co => exact execEns_keeps w co s (Keeps.rfl' s)
  | diss w co => exact execDiss_keeps w co s (Keeps.rfl' s)
  | disch w co => exact execDisch_keeps w co s (Keeps.rfl' s)
  | wait w => exact execWait_keeps w s (Keeps.rfl' s)
  | waitc w => exact execWaitc_keeps w s (Keeps.rfl' s)
  | chk w => exact execChk_keeps w s (Keeps.rfl' s)
  | jmp w => exact execJmp_keeps w s (Keeps.rfl' s)
  | call w => exact execCall_keeps w s (Keeps.rfl' s)
  | ret w => exact execRet_keeps w s (Keeps.rfl' s)
  | loop w => exact execLoop_keeps w s (Keeps.rfl' s)
  | marg w co => exact execMarg_keeps w co s (Keeps.rfl' s)
  | sig w => exact execSig_keeps w s (Keeps.rfl' s)
  | wsig w arr => exact execWsig_keeps w arr s (Keeps.rfl' s)
  | hitch w => exact execHitch_keeps w s (Keeps.rfl' s)
  | unhitch w => exact execUnhitch_keeps w s (Keeps.rfl' s)
  | log w => exact execLog_keeps w s (Keeps.rfl' s)
  | raise w co => exact execRaise_keeps w co s (Keeps.rfl' s)
  | sync w => exact execSync_keeps w s (Keeps.rfl' s)
  | setv w => exact execSetv_keeps w s (Keeps.rfl' s)
  | addv w => exact execAddv_keeps w s (Keeps.rfl' s)
  | tlm w => exact execTlm_keeps w s (Keeps.rfl' s)
  | rsto w write => exact execRsto_keeps w write s (Keeps.rfl' s)
  | sleephint w => exact execSleephint_keeps w s (Keeps.rfl' s)
  | pmb w => exact execPmb_keeps w s (Keeps.rfl' s)
  | illegalInstruction w => exact execIllegalInstruction_keeps w s (Keeps.rfl' s)
  | waitEnd w => exact execWaitEnd_keeps w s (Keeps.rfl' s)
  | waitTimeout w => exact execWaitTimeout_keeps w s (Keeps.rfl' s)
  | waitcSuccess w => exact execWaitcSuccess_keeps w s (Keeps.rfl' s)
  | wsigSuccess w arr => exact execWsigSuccess_keeps w arr s (Keeps.rfl' s)
  | hitchSuccess w => exact execHitchSuccess_keeps w s (Keeps.rfl' s)
  | syncSuccess w => exact execSyncSuccess_keeps w s (Keeps.rfl' s)
  | logStallEnd w => exact execLogStallEnd_keeps w s (Keeps.rfl' s)
  | disWaitEnd w => exact execDisWaitEnd_keeps w s (Keeps.rfl' s)
  | wickBoundaryStop w => exact execWickBoundaryStop_keeps w s (Keeps.rfl' s)
  | wickStart who w addr => exact execWickStart_keeps who w addr s (Keeps.rfl' s)
  | wickStop who w => exact execWickStop_keeps who w s (Keeps.rfl' s)
  | sigset who w num => exact execSigset_keeps who w num s (Keeps.rfl' s)
  | commit who andActivate => exact execCommit_keeps who andActivate s (Keeps.rfl' s)
  | commitComplete => exact execCommitComplete_keeps s (Keeps.rfl' s)
  | activate who => exact execActivate_keeps who s (Keeps.rfl' s)
  | ovCrossing r active co => exact execOvCrossing_keeps r active co s (Keeps.rfl' s)
  | uvCrossing r active co => exact execUvCrossing_keeps r active co s (Keeps.rfl' s)
  | ocCrossing r active co => exact execOcCrossing_keeps r active co s (Keeps.rfl' s)
  | auxCrossing n high active co => exact execAuxCrossing_keeps n high active co s (Keeps.rfl' s)
  | blankingEnd c active co => exact execBlankingEnd_keeps c active co s (Keeps.rfl' s)
  | switchingPeriodStart r => exact execSwitchingPeriodStart_keeps r s (Keeps.rfl' s)
  | softStartEnd r co => exact execSoftStartEnd_keeps r co s (Keeps.rfl' s)
  | tonExpiry r co => exact execTonExpiry_keeps r co s (Keeps.rfl' s)
  | toffExpiry r co => exact execToffExpiry_keeps r co s (Keeps.rfl' s)
  | prebiasTimeout r co => exact execPrebiasTimeout_keeps r co s (Keeps.rfl' s)
  | backoffExpiry r co => exact execBackoffExpiry_keeps r co s (Keeps.rfl' s)
  | retryCountReset r => exact execRetryCountReset_keeps r s (Keeps.rfl' s)
  | preambleEnd r => exact execPreambleEnd_keeps r s (Keeps.rfl' s)
  | pmbusPollPass port => exact execPmbusPollPass_keeps port s (Keeps.rfl' s)
  | pmbusTransactionDone port res => exact execPmbusTransactionDone_keeps port res s (Keeps.rfl' s)
  | smbusTimeout port => exact execSmbusTimeout_keeps port s (Keeps.rfl' s)
  | marginSlewMove r => exact execMarginSlewMove_keeps r s (Keeps.rfl' s)
  | pmbusSlewComplete r => exact execPmbusSlewComplete_keeps r s (Keeps.rfl' s)
  | chFlagsWrite who r v hw => exact execChFlagsWrite_keeps who r v hw s (Keeps.rfl' s)
  | chMarginWrite who r v => exact execChMarginWrite_keeps who r v s (Keeps.rfl' s)
  | selfTestTurn bank => exact execSelfTestTurn_keeps bank s (Keeps.rfl' s)
  | selfTestPhase out => exact execSelfTestPhase_keeps out s (Keeps.rfl' s)
  | selfTestBankEnd out => exact execSelfTestBankEnd_keeps out s (Keeps.rfl' s)
  | scanFrame => exact execScanFrame_keeps s (Keeps.rfl' s)
  | adcConversion p code kind early => exact execAdcConversion_keeps p code kind early s (Keeps.rfl' s)
  | burstStart => exact execBurstStart_keeps s (Keeps.rfl' s)
  | rawFrameWrite lost => exact execRawFrameWrite_keeps lost s (Keeps.rfl' s)
  | freeze who => exact execFreeze_keeps who s (Keeps.rfl' s)
  | freezeComplete => exact execFreezeComplete_keeps s (Keeps.rfl' s)
  | unfreeze who => exact execUnfreeze_keeps who s (Keeps.rfl' s)
  | clrmm who all pt => exact execClrmm_keeps who all pt s (Keeps.rfl' s)
  | clrpk who all pt => exact execClrpk_keeps who all pt s (Keeps.rfl' s)
  | tlmFiltWrite who p v => exact execTlmFiltWrite_keeps who p v s (Keeps.rfl' s)
  | tlmCtlWrite who v => exact execTlmCtlWrite_keeps who v s (Keeps.rfl' s)
  | lhStart => exact execLhStart_keeps s (Keeps.rfl' s)
  | lhCalRound shiftUv => exact execLhCalRound_keeps shiftUv s (Keeps.rfl' s)
  | lhExciteStart => exact execLhExciteStart_keeps s (Keeps.rfl' s)
  | lhPerturbToggle => exact execLhPerturbToggle_keeps s (Keeps.rfl' s)
  | lhCaptureEnd => exact execLhCaptureEnd_keeps s (Keeps.rfl' s)
  | lhComputeEnd => exact execLhComputeEnd_keeps s (Keeps.rfl' s)
  | rebase who all r => exact execRebase_keeps who all r s (Keeps.rfl' s)
  | dcmdHitch who d => exact execDcmdHitch_keeps who d s (Keeps.rfl' s)
  | dcmdUnhitch who d => exact execDcmdUnhitch_keeps who d s (Keeps.rfl' s)
  | dcmdOn who d react => exact execDcmdOn_keeps who d react s (Keeps.rfl' s)
  | dcmdOff who d => exact execDcmdOff_keeps who d s (Keeps.rfl' s)
  | dcmdMargin who d r step => exact execDcmdMargin_keeps who d r step s (Keeps.rfl' s)
  | pendingUpStart d => exact execPendingUpStart_keeps d s (Keeps.rfl' s)
  | hitchBreak d => exact execHitchBreak_keeps d s (Keeps.rfl' s)
  | reactionApply => exact execReactionApply_keeps s (Keeps.rfl' s)
  | shutdownRankDone => exact execShutdownRankDone_keeps s (Keeps.rfl' s)
  | shutdownRankTimeout => exact execShutdownRankTimeout_keeps s (Keeps.rfl' s)
  | shutdownEnd => exact execShutdownEnd_keeps s (Keeps.rfl' s)
  | systemResetStore => exact execSystemResetStore_keeps s (Keeps.rfl' s)
  | emberComplete => exact execEmberComplete_keeps s (Keeps.rfl' s)
  | headerRewrite => exact execHeaderRewrite_keeps s (Keeps.rfl' s)
  | shadowClose doms device => exact execShadowClose_keeps doms device s (Keeps.rfl' s)
  | logEntryWrite => exact execLogEntryWrite_keeps s (Keeps.rfl' s)
  | clear who => exact execClear_keeps who s (Keeps.rfl' s)
  | clrcnt who => exact execClrcnt_keeps who s (Keeps.rfl' s)
  | fire who andDisarm co => exact execFire_keeps who andDisarm co s (Keeps.rfl' s)
  | disarm who => exact execDisarm_keeps who s (Keeps.rfl' s)
  | resetStretchEnd k => exact execResetStretchEnd_keeps k s (Keeps.rfl' s)
  | resetPulseEnd k => exact execResetPulseEnd_keeps k s (Keeps.rfl' s)
  | rstovrAuto who k => exact execRstovrAuto_keeps who k s (Keeps.rfl' s)
  | rstovrAssert who k => exact execRstovrAssert_keeps who k s (Keeps.rfl' s)
  | rstovrPulse who k => exact execRstovrPulse_keeps who k s (Keeps.rfl' s)
  | mrgRstWrite who k v => exact execMrgRstWrite_keeps who k v s (Keeps.rfl' s)
  | store who => exact execStore_keeps who s (Keeps.rfl' s)
  | storeall who => exact execStoreall_keeps who s (Keeps.rfl' s)
  | autosave => exact execAutosave_keeps s (Keeps.rfl' s)
  | storeShadowReady => exact execStoreShadowReady_keeps s (Keeps.rfl' s)
  | storeComplete => exact execStoreComplete_keeps s (Keeps.rfl' s)
  | vholdCrossing rising => exact execVholdCrossing_keeps rising s (Keeps.rfl' s)
  | inc who n => exact execInc_keeps who n s (Keeps.rfl' s)
  | init who n => exact execInit_keeps who n s (Keeps.rfl' s)
  | counterIncrement => exact execCounterIncrement_keeps s (Keeps.rfl' s)
  | internalSuppliesReady straps => exact execInternalSuppliesReady_keeps straps s (Keeps.rfl' s)
  | refClockReady crystal aoCrystal => exact execRefClockReady_keeps crystal aoCrystal s (Keeps.rfl' s)
  | bootRun dieTenths => exact execBootRun_keeps dieTenths s (Keeps.rfl' s)
  | chargerTransition cellMv co => exact execChargerTransition_keeps cellMv co s (Keeps.rfl' s)
  | prechargeTimeout co => exact execPrechargeTimeout_keeps co s (Keeps.rfl' s)
  | chargeTimeout co => exact execChargeTimeout_keeps co s (Keeps.rfl' s)
  | chargeTermination co => exact execChargeTermination_keeps co s (Keeps.rfl' s)
  | senseFault co => exact execSenseFault_keeps co s (Keeps.rfl' s)
  | packOvervoltage co => exact execPackOvervoltage_keeps co s (Keeps.rfl' s)
  | oringOn => exact execOringOn_keeps s (Keeps.rfl' s)
  | oringOff => exact execOringOff_keeps s (Keeps.rfl' s)
  | currentLimitTimeout co => exact execCurrentLimitTimeout_keeps co s (Keeps.rfl' s)
  | shortCircuitTrip co => exact execShortCircuitTrip_keeps co s (Keeps.rfl' s)
  | autoRearm co => exact execAutoRearm_keeps co s (Keeps.rfl' s)
  | rearm who co => exact execRearm_keeps who co s (Keeps.rfl' s)
  | restnow who => exact execRestnow_keeps who s (Keeps.rfl' s)
  | reinit who => exact execReinit_keeps who s (Keeps.rfl' s)
  | clrlrn who => exact execClrlrn_keeps who s (Keeps.rfl' s)
  | cutoff co => exact execCutoff_keeps co s (Keeps.rfl' s)
  | estimatorTick aoMa co => exact execEstimatorTick_keeps aoMa co s (Keeps.rfl' s)
  | scheduledRestEnd co => exact execScheduledRestEnd_keeps co s (Keeps.rfl' s)
  | estimatorStateSave => exact execEstimatorStateSave_keeps s (Keeps.rfl' s)
  | estcfgWrite who v => exact execEstcfgWrite_keeps who v s (Keeps.rfl' s)
  | rsvFlagsWrite who v hw => exact execRsvFlagsWrite_keeps who v hw s (Keeps.rfl' s)
  | grant present => exact execGrant_keeps present s (Keeps.rfl' s)
  | transferComplete co => exact execTransferComplete_keeps co s (Keeps.rfl' s)
  | windowBoundary => exact execWindowBoundary_keeps s (Keeps.rfl' s)
  | arbCommit who andClear => exact execArbCommit_keeps who andClear s (Keeps.rfl' s)
  | arbClrcnt who => exact execArbClrcnt_keeps who s (Keeps.rfl' s)
  | uhpHello f => exact execUhpHello_keeps f s (Keeps.rfl' s)
  | uhpRead f moved hw => exact execUhpRead_keeps f moved hw s (Keeps.rfl' s)
  | uhpWrite f moved hw => exact execUhpWrite_keeps f moved hw s (Keeps.rfl' s)
  | uhpRmw f hw => exact execUhpRmw_keeps f hw s (Keeps.rfl' s)
  | uhpRequest f => exact execUhpRequest_keeps f s (Keeps.rfl' s)
  | uhpRun f => exact execUhpRun_keeps f s (Keeps.rfl' s)
  | uhpStore f => exact execUhpStore_keeps f s (Keeps.rfl' s)
  | uhpEvents f moved hw => exact execUhpEvents_keeps f moved hw s (Keeps.rfl' s)
  | uhpAbort f => exact execUhpAbort_keeps f s (Keeps.rfl' s)
  | uhpBye f => exact execUhpBye_keeps f s (Keeps.rfl' s)
  | hostRead port transport count => exact execHostRead_keeps port transport count s (Keeps.rfl' s)
  | responseReady port session hw co => exact execResponseReady_keeps port session hw co s (Keeps.rfl' s)
  | sessionTimeout port session => exact execSessionTimeout_keeps port session s (Keeps.rfl' s)
  | close who port session => exact execClose_keeps who port session s (Keeps.rfl' s)
  | tetherDiscovery => exact execTetherDiscovery_keeps s (Keeps.rfl' s)
  | pollRound => exact execPollRound_keeps s (Keeps.rfl' s)
  | tetherTimeSend => exact execTetherTimeSend_keeps s (Keeps.rfl' s)
  | tetherDelayMeasure => exact execTetherDelayMeasure_keeps s (Keeps.rfl' s)
  | tetherAnswer src tag crcOk a co => exact execTetherAnswer_keeps src tag crcOk a co s (Keeps.rfl' s)
  | tetherAnswerTimeout => exact execTetherAnswerTimeout_keeps s (Keeps.rfl' s)
  | tetherLoss => exact execTetherLoss_keeps s (Keeps.rfl' s)
  | tetherSigTimeout w => exact execTetherSigTimeout_keeps w s (Keeps.rfl' s)
  | tthGo who write target => exact execTthGo_keeps who write target s (Keeps.rfl' s)
  | tthHello h minVer maxVer => exact execTthHello_keeps h minVer maxVer s (Keeps.rfl' s)
  | tthPoll h dly confirms => exact execTthPoll_keeps h dly confirms s (Keeps.rfl' s)
  | tthRead h addr => exact execTthRead_keeps h addr s (Keeps.rfl' s)
  | tthWrite h addr data hw => exact execTthWrite_keeps h addr data hw s (Keeps.rfl' s)
  | tthSig h w n => exact execTthSig_keeps h w n s (Keeps.rfl' s)
  | tthTime h time synced tstep => exact execTthTime_keeps h time synced tstep s (Keeps.rfl' s)
  | tthRelease h id => exact execTthRelease_keeps h id s (Keeps.rfl' s)
  | tthTdly h => exact execTthTdly_keeps h s (Keeps.rfl' s)
  | ringTime h time corrPs tstep => exact execRingTime_keeps h time corrPs tstep s (Keeps.rfl' s)
  | dreq h => exact execDreq_keeps h s (Keeps.rfl' s)
  | dresp h residencePs roundTripPs => exact execDresp_keeps h residencePs roundTripPs s (Keeps.rfl' s)
  | lantern h l => exact execLantern_keeps h l s (Keeps.rfl' s)
  | pfclear h tc => exact execPfclear_keeps h tc s (Keeps.rfl' s)
  | ringSig h w n => exact execRingSig_keeps h w n s (Keeps.rfl' s)
  | sigack h seq => exact execSigack_keeps h seq s (Keeps.rfl' s)
  | arrive h id => exact execArrive_keeps h id s (Keeps.rfl' s)
  | withdraw h id => exact execWithdraw_keeps h id s (Keeps.rfl' s)
  | ringRead h addr => exact execRingRead_keeps h addr s (Keeps.rfl' s)
  | ringWrite h addr data hw => exact execRingWrite_keeps h addr data hw s (Keeps.rfl' s)
  | resp h seq status word => exact execResp_keeps h seq status word s (Keeps.rfl' s)
  | ringDelayTimer => exact execRingDelayTimer_keeps s (Keeps.rfl' s)
  | ringTimeSend => exact execRingTimeSend_keeps s (Keeps.rfl' s)
  | timeMasterTakeover => exact execTimeMasterTakeover_keeps s (Keeps.rfl' s)
  | syncLossTimeout => exact execSyncLossTimeout_keeps s (Keeps.rfl' s)
  | lanternSend => exact execLanternSend_keeps s (Keeps.rfl' s)
  | lanternRepeat => exact execLanternRepeat_keeps s (Keeps.rfl' s)
  | ringSigTimeout w => exact execRingSigTimeout_keeps w s (Keeps.rfl' s)
  | ringRaTimeout => exact execRingRaTimeout_keeps s (Keeps.rfl' s)
  | ringLockLoss portB => exact execRingLockLoss_keeps portB s (Keeps.rfl' s)
  | spliceOpen => exact execSpliceOpen_keeps s (Keeps.rfl' s)
  | rngCtlWrite who v => exact execRngCtlWrite_keeps who v s (Keeps.rfl' s)
  | rngGo who write target => exact execRngGo_keeps who write target s (Keeps.rfl' s)
  | tset who => exact execTset_keeps who s (Keeps.rfl' s)
  | pfclr who => exact execPfclr_keeps who s (Keeps.rfl' s)
  | pfclrall who => exact execPfclrall_keeps who s (Keeps.rfl' s)
  | wakeStart k => exact execWakeStart_keeps k s (Keeps.rfl' s)
  | jtagPrivate t => exact execJtagPrivate_keeps t s (Keeps.rfl' s)
  | lockCfg who => exact execLockCfg_keeps who s (Keeps.rfl' s)
  | lockProg who => exact execLockProg_keeps who s (Keeps.rfl' s)
  | lockBp who => exact execLockBp_keeps who s (Keeps.rfl' s)
  | lockKey who => exact execLockKey_keeps who s (Keeps.rfl' s)
  | lockDebug who => exact execLockDebug_keeps who s (Keeps.rfl' s)
  | lockInject who => exact execLockInject_keeps who s (Keeps.rfl' s)
  | erase who => exact execErase_keeps who s (Keeps.rfl' s)
  | tamperLoopSample loop1 sensed => exact execTamperLoopSample_keeps loop1 sensed s (Keeps.rfl' s)
  | voltageGlitch active => exact execVoltageGlitch_keeps active s (Keeps.rfl' s)
  | temperatureGlitch active => exact execTemperatureGlitch_keeps active s (Keeps.rfl' s)
  | clockGlitch active => exact execClockGlitch_keeps active s (Keeps.rfl' s)
  | registerWrite who addr v hw => exact execRegisterWrite_keeps who addr v hw s (Keeps.rfl' s)
  | alwaysOnPowerUp aoCrystal => exact execAlwaysOnPowerUp_keeps aoCrystal s (Keeps.rfl' s)
  | tetherTimeStale => exact execTetherTimeStale_keeps s (Keeps.rfl' s)
  | ringLockGain portB => exact execRingLockGain_keeps portB s (Keeps.rfl' s)
  | ringLockDrop portB => exact execRingLockDrop_keeps portB s (Keeps.rfl' s)
  | ringCrcFailure portB frame => exact execRingCrcFailure_keeps portB frame s (Keeps.rfl' s)
  | dischargeLimitChange limiting => exact execDischargeLimitChange_keeps limiting s (Keeps.rfl' s)
  | vinFall => exact execVinFall_keeps s (Keeps.rfl' s)
  | vinRise band => exact execVinRise_keeps band s (Keeps.rfl' s)
  | vinQualified => exact execVinQualified_keeps s (Keeps.rfl' s)
  | vinBandMs => exact execVinBandMs_keeps s (Keeps.rfl' s)
  | pllLocked => exact execPllLocked_keeps s (Keeps.rfl' s)
  | recallDone => exact execRecallDone_keeps s (Keeps.rfl' s)
  | repairDone => exact execRepairDone_keeps s (Keeps.rfl' s)
  | configSetApplied => exact execConfigSetApplied_keeps s (Keeps.rfl' s)
  | vhokWaitLimit => exact execVhokWaitLimit_keeps s (Keeps.rfl' s)
  | enterPowerState wake => exact execEnterPowerState_keeps wake s (Keeps.rfl' s)
  | wakeComplete hw co => exact execWakeComplete_keeps hw co s (Keeps.rfl' s)
  | referenceCrystalFail => exact execReferenceCrystalFail_keeps s (Keeps.rfl' s)
  | aoCrystalFail => exact execAoCrystalFail_keeps s (Keeps.rfl' s)
  | pllLockLoss => exact execPllLockLoss_keeps s (Keeps.rfl' s)
  | pllLockReturn => exact execPllLockReturn_keeps s (Keeps.rfl' s)
  | thermalWarning => exact execThermalWarning_keeps s (Keeps.rfl' s)
  | thermalShutdown => exact execThermalShutdown_keeps s (Keeps.rfl' s)
  | thermalRearm => exact execThermalRearm_keeps s (Keeps.rfl' s)
  | resetnRelease => exact execResetnRelease_keeps s (Keeps.rfl' s)
  | jtagBypass => exact execJtagBypass_keeps s (Keeps.rfl' s)
  | jtagIdcode => exact execJtagIdcode_keeps s (Keeps.rfl' s)
  | jtagSamplePreload => exact execJtagSamplePreload_keeps s (Keeps.rfl' s)
  | jtagExtest => exact execJtagExtest_keeps s (Keeps.rfl' s)
  | _ => exact nomatch hi

/-- A command that stays in the fabric keeps what lies outside it. -/
theorem exec_keeps_quiet (i : Instr) (hi : i.staysInFabric = true) (s : State) : KeepsNext true true s (exec i s) := by
  cases i with
  | nop w => exact execNop_keeps w s (Keeps.rfl' s)
  | halt w => exact execHalt_keeps w s (Keeps.rfl' s)
  | en w co => exact execEn_keeps w co s (Keeps.rfl' s)
  | dis w co => exact execDis_keeps w co s (Keeps.rfl' s)
  | ens w co => exact execEns_keeps w co s (Keeps.rfl' s)
  | diss w co => exact execDiss_keeps w co s (Keeps.rfl' s)
  | disch w co => exact execDisch_keeps w co s (Keeps.rfl' s)
  | wait w => exact execWait_keeps w s (Keeps.rfl' s)
  | waitc w => exact execWaitc_keeps w s (Keeps.rfl' s)
  | chk w => exact execChk_keeps w s (Keeps.rfl' s)
  | jmp w => exact execJmp_keeps w s (Keeps.rfl' s)
  | call w => exact execCall_keeps w s (Keeps.rfl' s)
  | ret w => exact execRet_keeps w s (Keeps.rfl' s)
  | loop w => exact execLoop_keeps w s (Keeps.rfl' s)
  | marg w co => exact execMarg_keeps w co s (Keeps.rfl' s)
  | wsig w arr => exact execWsig_keeps w arr s (Keeps.rfl' s)
  | hitch w => exact execHitch_keeps w s (Keeps.rfl' s)
  | unhitch w => exact execUnhitch_keeps w s (Keeps.rfl' s)
  | log w => exact execLog_keeps w s (Keeps.rfl' s)
  | raise w co => exact execRaise_keeps w co s (Keeps.rfl' s)
  | setv w => exact execSetv_keeps w s (Keeps.rfl' s)
  | addv w => exact execAddv_keeps w s (Keeps.rfl' s)
  | tlm w => exact execTlm_keeps w s (Keeps.rfl' s)
  | rsto w write => exact execRsto_keeps w write s (Keeps.rfl' s)
  | sleephint w => exact execSleephint_keeps w s (Keeps.rfl' s)
  | pmb w => exact execPmb_keeps w s (Keeps.rfl' s)
  | illegalInstruction w => exact execIllegalInstruction_keeps w s (Keeps.rfl' s)
  | waitEnd w => exact execWaitEnd_keeps w s (Keeps.rfl' s)
  | waitcSuccess w => exact execWaitcSuccess_keeps w s (Keeps.rfl' s)
  | wsigSuccess w arr => exact execWsigSuccess_keeps w arr s (Keeps.rfl' s)
  | hitchSuccess w => exact execHitchSuccess_keeps w s (Keeps.rfl' s)
  | syncSuccess w => exact execSyncSuccess_keeps w s (Keeps.rfl' s)
  | logStallEnd w => exact execLogStallEnd_keeps w s (Keeps.rfl' s)
  | disWaitEnd w => exact execDisWaitEnd_keeps w s (Keeps.rfl' s)
  | wickStart who w addr => exact execWickStart_keeps who w addr s (Keeps.rfl' s)
  | wickStop who w => exact execWickStop_keeps who w s (Keeps.rfl' s)
  | sigset who w num => exact execSigset_keeps who w num s (Keeps.rfl' s)
  | commit who andActivate => exact execCommit_keeps who andActivate s (Keeps.rfl' s)
  | activate who => exact execActivate_keeps who s (Keeps.rfl' s)
  | ovCrossing r active co => exact execOvCrossing_keeps r active co s (Keeps.rfl' s)
  | uvCrossing r active co => exact execUvCrossing_keeps r active co s (Keeps.rfl' s)
  | ocCrossing r active co => exact execOcCrossing_keeps r active co s (Keeps.rfl' s)
  | auxCrossing n high active co => exact execAuxCrossing_keeps n high active co s (Keeps.rfl' s)
  | blankingEnd c active co => exact execBlankingEnd_keeps c active co s (Keeps.rfl' s)
  | switchingPeriodStart r => exact execSwitchingPeriodStart_keeps r s (Keeps.rfl' s)
  | softStartEnd r co => exact execSoftStartEnd_keeps r co s (Keeps.rfl' s)
  | tonExpiry r co => exact execTonExpiry_keeps r co s (Keeps.rfl' s)
  | toffExpiry r co => exact execToffExpiry_keeps r co s (Keeps.rfl' s)
  | prebiasTimeout r co => exact execPrebiasTimeout_keeps r co s (Keeps.rfl' s)
  | backoffExpiry r co => exact execBackoffExpiry_keeps r co s (Keeps.rfl' s)
  | retryCountReset r => exact execRetryCountReset_keeps r s (Keeps.rfl' s)
  | preambleEnd r => exact execPreambleEnd_keeps r s (Keeps.rfl' s)
  | pmbusPollPass port => exact execPmbusPollPass_keeps port s (Keeps.rfl' s)
  | pmbusTransactionDone port res => exact execPmbusTransactionDone_keeps port res s (Keeps.rfl' s)
  | smbusTimeout port => exact execSmbusTimeout_keeps port s (Keeps.rfl' s)
  | marginSlewMove r => exact execMarginSlewMove_keeps r s (Keeps.rfl' s)
  | pmbusSlewComplete r => exact execPmbusSlewComplete_keeps r s (Keeps.rfl' s)
  | chFlagsWrite who r v hw => exact execChFlagsWrite_keeps who r v hw s (Keeps.rfl' s)
  | chMarginWrite who r v => exact execChMarginWrite_keeps who r v s (Keeps.rfl' s)
  | scanFrame => exact execScanFrame_keeps s (Keeps.rfl' s)
  | burstStart => exact execBurstStart_keeps s (Keeps.rfl' s)
  | freeze who => exact execFreeze_keeps who s (Keeps.rfl' s)
  | freezeComplete => exact execFreezeComplete_keeps s (Keeps.rfl' s)
  | unfreeze who => exact execUnfreeze_keeps who s (Keeps.rfl' s)
  | clrmm who all pt => exact execClrmm_keeps who all pt s (Keeps.rfl' s)
  | clrpk who all pt => exact execClrpk_keeps who all pt s (Keeps.rfl' s)
  | tlmCtlWrite who v => exact execTlmCtlWrite_keeps who v s (Keeps.rfl' s)
  | lhStart => exact execLhStart_keeps s (Keeps.rfl' s)
  | lhExciteStart => exact execLhExciteStart_keeps s (Keeps.rfl' s)
  | lhPerturbToggle => exact execLhPerturbToggle_keeps s (Keeps.rfl' s)
  | lhCaptureEnd => exact execLhCaptureEnd_keeps s (Keeps.rfl' s)
  | dcmdHitch who d => exact execDcmdHitch_keeps who d s (Keeps.rfl' s)
  | dcmdUnhitch who d => exact execDcmdUnhitch_keeps who d s (Keeps.rfl' s)
  | dcmdOn who d react => exact execDcmdOn_keeps who d react s (Keeps.rfl' s)
  | dcmdOff who d => exact execDcmdOff_keeps who d s (Keeps.rfl' s)
  | dcmdMargin who d r step => exact execDcmdMargin_keeps who d r step s (Keeps.rfl' s)
  | pendingUpStart d => exact execPendingUpStart_keeps d s (Keeps.rfl' s)
  | hitchBreak d => exact execHitchBreak_keeps d s (Keeps.rfl' s)
  | reactionApply => exact execReactionApply_keeps s (Keeps.rfl' s)
  | shutdownRankDone => exact execShutdownRankDone_keeps s (Keeps.rfl' s)
  | shutdownRankTimeout => exact execShutdownRankTimeout_keeps s (Keeps.rfl' s)
  | shutdownEnd => exact execShutdownEnd_keeps s (Keeps.rfl' s)
  | systemResetStore => exact execSystemResetStore_keeps s (Keeps.rfl' s)
  | shadowClose doms device => exact execShadowClose_keeps doms device s (Keeps.rfl' s)
  | clear who => exact execClear_keeps who s (Keeps.rfl' s)
  | clrcnt who => exact execClrcnt_keeps who s (Keeps.rfl' s)
  | fire who andDisarm co => exact execFire_keeps who andDisarm co s (Keeps.rfl' s)
  | disarm who => exact execDisarm_keeps who s (Keeps.rfl' s)
  | resetStretchEnd k => exact execResetStretchEnd_keeps k s (Keeps.rfl' s)
  | resetPulseEnd k => exact execResetPulseEnd_keeps k s (Keeps.rfl' s)
  | rstovrAuto who k => exact execRstovrAuto_keeps who k s (Keeps.rfl' s)
  | rstovrAssert who k => exact execRstovrAssert_keeps who k s (Keeps.rfl' s)
  | rstovrPulse who k => exact execRstovrPulse_keeps who k s (Keeps.rfl' s)
  | mrgRstWrite who k v => exact execMrgRstWrite_keeps who k v s (Keeps.rfl' s)
  | store who => exact execStore_keeps who s (Keeps.rfl' s)
  | storeall who => exact execStoreall_keeps who s (Keeps.rfl' s)
  | autosave => exact execAutosave_keeps s (Keeps.rfl' s)
  | storeShadowReady => exact execStoreShadowReady_keeps s (Keeps.rfl' s)
  | vholdCrossing rising => exact execVholdCrossing_keeps rising s (Keeps.rfl' s)
  | inc who n => exact execInc_keeps who n s (Keeps.rfl' s)
  | oringOn => exact execOringOn_keeps s (Keeps.rfl' s)
  | oringOff => exact execOringOff_keeps s (Keeps.rfl' s)
  | restnow who => exact execRestnow_keeps who s (Keeps.rfl' s)
  | reinit who => exact execReinit_keeps who s (Keeps.rfl' s)
  | estcfgWrite who v => exact execEstcfgWrite_keeps who v s (Keeps.rfl' s)
  | rsvFlagsWrite who v hw => exact execRsvFlagsWrite_keeps who v hw s (Keeps.rfl' s)
  | arbClrcnt who => exact execArbClrcnt_keeps who s (Keeps.rfl' s)
  | ringDelayTimer => exact execRingDelayTimer_keeps s (Keeps.rfl' s)
  | ringTimeSend => exact execRingTimeSend_keeps s (Keeps.rfl' s)
  | timeMasterTakeover => exact execTimeMasterTakeover_keeps s (Keeps.rfl' s)
  | syncLossTimeout => exact execSyncLossTimeout_keeps s (Keeps.rfl' s)
  | lanternSend => exact execLanternSend_keeps s (Keeps.rfl' s)
  | lanternRepeat => exact execLanternRepeat_keeps s (Keeps.rfl' s)
  | ringRaTimeout => exact execRingRaTimeout_keeps s (Keeps.rfl' s)
  | ringLockLoss portB => exact execRingLockLoss_keeps portB s (Keeps.rfl' s)
  | spliceOpen => exact execSpliceOpen_keeps s (Keeps.rfl' s)
  | rngCtlWrite who v => exact execRngCtlWrite_keeps who v s (Keeps.rfl' s)
  | rngGo who write target => exact execRngGo_keeps who write target s (Keeps.rfl' s)
  | tset who => exact execTset_keeps who s (Keeps.rfl' s)
  | pfclr who => exact execPfclr_keeps who s (Keeps.rfl' s)
  | pfclrall who => exact execPfclrall_keeps who s (Keeps.rfl' s)
  | wakeStart k => exact execWakeStart_keeps k s (Keeps.rfl' s)
  | tetherTimeStale => exact execTetherTimeStale_keeps s (Keeps.rfl' s)
  | ringLockGain portB => exact execRingLockGain_keeps portB s (Keeps.rfl' s)
  | ringLockDrop portB => exact execRingLockDrop_keeps portB s (Keeps.rfl' s)
  | ringCrcFailure portB frame => exact execRingCrcFailure_keeps portB frame s (Keeps.rfl' s)
  | pllLockLoss => exact execPllLockLoss_keeps s (Keeps.rfl' s)
  | pllLockReturn => exact execPllLockReturn_keeps s (Keeps.rfl' s)
  | _ => exact nomatch hi

end Sys2Proof.Machine
end

