-- ==== Sys2Proof/Machine/Pins.lean ====
section
/-! DEFINITION. What the remaining pins show in each phase: the table of R563. The pins ENx and RSTOUTk stand in
Flags.lean and Channel.lean (R24, R326). -/

namespace Sys2Proof.Machine

/-- The columns of R563's table. -/
inductive PinColumn where
  | unpowered | boot | after
  deriving DecidableEq, Repr

/-- What a pin shows. `input`: an input with its 100 kΩ pull-down; `pulled`: held by a 100 kΩ resistor to its switch node or
ground; `current`: a current in codes of 200 µA / 2,047; `switching`: driven by the running charger; `biased`: TTHA at
least 200 mV above TTHB; `spliced`: joined to the other ring port. -/
inductive PinState where
  | highZ | input | pulled | high | low | released | pulledLow
  | current (code : Int)
  | switching | transmitting | biased | spliced | open
  deriving DecidableEq, Repr

/-- The column that holds (R563): unpowered until the internal supplies are in regulation, and "Reset and boot" until the
configuration set is applied, as R326 divides the two for RSTOUTk (DEDUCED, log 16). -/
def State.pinColumn (s : State) : PinColumn :=
  if s.cfgLoaded then .after else if s.power.supplies then .boot else .unpowered

/-- One row of the table: what the pin shows unpowered, in reset and boot, and after. -/
def State.pin (s : State) (unpowered boot after : PinState) : PinState :=
  match s.pinColumn with
  | .unpowered => unpowered
  | .boot => boot
  | .after => after

/-- GPIO0 to GPIO15: high while DISx is asserted (R31). -/
def State.gpioPin (s : State) (g : Fin 16) : PinState := s.pin .highZ .input (if s.disx g then .high else .input)

/-- MG0 to MG47: the current of the present margin code (R306) with the loop-health step (R153); none on the PMBus path. -/
def State.mgPin (s : State) (x : Fin 48) : PinState :=
  let r : Rail := x.natAdd 16
  s.pin .highZ .highZ (.current ((if s.bit (aChMargin r) 30 then 0 else (s.ch r).path) + (s.ch r).perturb))

/-- CHG_HGA, CHG_LGA, CHG_HGB and CHG_LGB: the gates rest low unless the charger switches (R381). -/
def State.chgGates (s : State) : PinState := s.pin .pulled .low (if chgRuns s.reserve.chg then .switching else .low)

/-- TAMP0O and TAMP1O: high in static mode, the bit of the sequence in dynamic mode (R548). -/
def State.tampOut (s : State) (i : Fin 2) : PinState :=
  s.pin .highZ .low
    (if !s.bit aTampCfg (28 + 2 * i.val) || (s.protect.prbs[i]).getLsbD 6 then .high else .low)

/-- IRQ0 to IRQ3, open-drain (R303). -/
def State.irqPin (s : State) (n : Fin 4) : PinState := s.pin .highZ .released (if s.irq n then .pulledLow else .released)

/-- IO0 to IO3: driven only while CS is low and the port sends; `level` is what it sends. -/
def State.ioPin (s : State) (csLow sends level : Bool) : PinState :=
  s.pin .highZ .highZ (if csLow && sends then (if level then .high else .low) else .highZ)

/-- SDA, PMBnSDA and PMBnSCL, open-drain; `pulls`: the port pulls the line low. -/
def State.openDrainPin (s : State) (pulls : Bool) : PinState :=
  s.pin .highZ .released (if pulls then .pulledLow else .released)

/-- TTHA and TTHB: the transmitter is on only while the node sends a frame; a master with EN 1 biases the idle bus (R468,
R469). -/
def State.tetherPin (s : State) (sends : Bool) : PinState :=
  s.pin .highZ .highZ (if sends then .transmitting else if !s.slave && s.tetherEn then .biased else .highZ)

/-- RAOP, RAON, RBOP and RBON: spliced unless the switches are open (R485). -/
def State.ringPin (s : State) : PinState := s.pin .spliced .spliced (if s.ringLive then .open else .spliced)

/-- TDO: driven only in Shift-DR and Shift-IR; `out` is the bit shifted out. -/
def State.tdoPin (s : State) (shifts out : Bool) : PinState :=
  let p : PinState := if shifts then (if out then .high else .low) else .highZ
  s.pin .highZ p p

end Sys2Proof.Machine
end

