-- ==== Sys2Proof/WellFormed.lean ====
section
/-! DEFINITION. Which commands the outside can send: checks that the types of Syntax.lean do not make. Each check asks
one kind of operand; a command that carries none of its kind passes it. -/

namespace Sys2Proof

/-- A transfer names an address of 32 bits and moves 1, 4 or 8 bytes, and its data fits them (R410). -/
def Transfer.wellFormed (t : Transfer) : Bool :=
  [1, 4, 8].contains t.size && t.addr < 2 ^ 32 && t.data.toNat < 2 ^ (8 * t.size)

/-- A UHP frame is as long as its parts where its header is whole (R436). -/
def HostFrame.wellFormed (f : HostFrame) : Bool :=
  f.count < 11 || f.count == 11 + f.payload.length + f.check.length

/-- The further causes of the command's cycle. -/
def Instr.coincident : Instr → List Hit
  | .en _ co | .dis _ co | .ens _ co | .diss _ co | .disch _ co | .marg _ co | .raise _ co => co
  | .ovCrossing _ _ co | .uvCrossing _ _ co | .ocCrossing _ _ co | .auxCrossing _ _ _ co | .blankingEnd _ _ co => co
  | .softStartEnd _ co | .prebiasTimeout _ co => co
  | .tonExpiry _ co | .toffExpiry _ co | .backoffExpiry _ co | .fire _ _ co => co
  | _ => []

/-- The UHP frame the command brings. -/
def Instr.hostFrame : Instr → Option HostFrame
  | .uhpHello f | .uhpRmw f _ | .uhpRequest f | .uhpRun f => some f
  | .uhpStore f | .uhpAbort f | .uhpBye f => some f
  | .uhpRead f _ _ | .uhpWrite f _ _ | .uhpEvents f _ _ => some f
  | _ => none

/-- The bits that the command tells as set in the cycles of its writes. -/
def Instr.hwBits : Instr → HwBits
  | .uhpRead _ _ hw | .uhpWrite _ _ hw | .uhpEvents _ _ hw | .responseReady _ _ hw _ => hw
  | .wakeComplete hw _ => hw
  | _ => []

/-- The further causes that reach the reserve in the command's cycle. -/
def Instr.rsvCauses : Instr → List RsvCause
  | .chargerTransition _ co | .prechargeTimeout co | .chargeTimeout co | .chargeTermination co | .senseFault co => co
  | .packOvervoltage co | .currentLimitTimeout co | .shortCircuitTrip co | .autoRearm co | .rearm _ co => co
  | .cutoff co | .estimatorTick _ co | .scheduledRestEnd co => co
  | _ => []

/-- What else reaches the links in the cycle of a frame's end. -/
def Instr.linkEvents : Instr → List LinkEvent
  | .ringTime h _ _ _ | .dreq h | .dresp h _ _ | .lantern h _ | .pfclear h _ | .ringSig h _ _ | .sigack h _ => h.co
  | .arrive h _ | .withdraw h _ | .ringRead h _ | .ringWrite h _ _ _ | .resp h _ _ _ => h.co
  | .tetherAnswer _ _ _ _ co => co
  | _ => []

/-- What of R551 comes ahead of the command in its cycle. -/
def Instr.secEvents (i : Instr) : List SecEvent :=
  match i with
  | .responseReady _ _ _ co | .transferComplete co | .wakeComplete _ co => co
  | i => (i.hostFrame.map (·.co)).getD []

/-- The transfers the command presents. -/
def Instr.transfers : Instr → List Transfer
  | .grant present => present
  | .jtagPrivate t => [t]
  | _ => []

/-- The other operands lie in their ranges: every requester presents one transfer a cycle (R419) and the JTAG port moves
words (R540); a shadow that closes is some domain's or the device's; a cell voltage has 16 bits; the master has no TADDR to
answer from, and sends at most four confirmations (R508); the words that a frame write loses are told once; a register
stands at a word address; a ring frame has at least its header and CRC (R490). -/
def Instr.inRange : Instr → Bool
  | .grant present => decide (present.map (·.who)).Nodup
  | .jtagPrivate t => t.size != 1
  | .rawFrameWrite lost => decide lost.Nodup
  | .shadowClose doms device => doms != 0 || device
  | .chargerTransition cellMv _ => cellMv < 2 ^ 16
  | .tetherAnswer src _ _ _ _ => src != 0
  | .tthPoll _ _ confirms => confirms.length ≤ 4
  | .registerWrite _ addr _ _ => addr % 4 == 0 && addr < 2 ^ 32
  | .ringCrcFailure _ frame => 16 ≤ frame.length
  | _ => true

/-- The command is one that can be sent. -/
def Instr.wellFormed (i : Instr) : Bool :=
  decide i.coincident.Nodup && decide (i.hwBits.map (·.1)).Nodup && decide i.rsvCauses.Nodup && decide i.linkEvents.Nodup
    && decide i.secEvents.Nodup
    && i.hostFrame.all HostFrame.wellFormed && i.transfers.all Transfer.wellFormed && i.inRange

end Sys2Proof
end

