-- ==== Sys2Proof/Tests/Slice0.lean ====
section
/-! SUPPORT. The model's own tests: ill-formed commands that WellFormed refuses, words and values of the spec's worked
examples, and for every statement with hypotheses a state and operands that meet them, clause by clause. -/

set_option Elab.async false
set_option linter.unusedVariables false

open Sys2Proof Sys2Proof.Machine

namespace Sys2Proof.Tests

/-! Small states -/

def r0 : State := State.reset
/-- A device in RUN with no configuration. -/
def up : State := { State.reset with power := { State.reset.power with phase := .run, vin := .above, recallDue := false } }
def upV : State := (up.setBit aMonVin 0 true)
def im (s : State) (l : List (Nat × Word)) : State := { s with imem := l }
def wrun (s : State) (w : WickId) (pc : BitVec 12) : State := s.setWk w { s.wk w with st := .run, pc := pc }
/-- wick w in RUN at pc with one word there. -/
def prog (s : State) (o : Op) (w : WickId := 2) (pc : BitVec 12 := 5) : State :=
  wrun (im (s.setReg aSeqLive 0x1000) [(pc.toNat, encodeOp o)]) w pc
def go (i : Instr) (s : State) : State := match exec i s with | .next t => t | _ => s
def chs (s : State) (r : Rail) (f : Chan → Chan) : State := s.setCh r (f (s.ch r))
def use (s : State) (r : Rail) : State := s.orReg (aChCfg r) 0x20000000
def sevs (s : State) : State := (List.range 24).foldl (fun s k => s.setReg (aSev k) 0xAAAAAAAA) s
def pbr (s : State) : State := (s.setReg (aChCfg 20) 0x34500000).setReg (aChCfg 21) 0x34600000
def prt (s : State) (p : Fin 4) (x : PmbPort) : State := { s with ports := s.ports.set p x }
def stp (s : State) (r : Rail) (v : Int) : State := s.setStep r v
def dm (s : State) : State := (s.setReg (aDCfg 1) 0x80090000).setReg (aDRail 1 0) 8
def own1 (s : State) (o : Owner) : State := s.setDom 1 { s.dom 1 with owner := o }
def lan : Lantern := { time := 77, src := 3, sev := 2, inj := false, inexact := false, teth := false, node := 9, taddr := 0, number := 1 }

/-- Entry k of a list of states. -/
def at_ (l : List State) (k : Nat) : State := l.getD k State.reset

/-! One ill-formed command for each check of WellFormed -/

def badTransfer : Transfer := { who := .pmbus, addr := 0x10000000, write := false, size := 2, data := 0 }
def goodTransfer : Transfer := { badTransfer with size := 4 }
def twice : List Hit := [⟨3, .enable⟩, ⟨3, .enable⟩]
def badFrame : HostFrame :=
  { port := 0, transport := 0x51, sync := 0xA5, ver := 3, session := 0, dir := false, rsvd := false, tag := 1
    op := 0, addr := 0, len := 4, payload := [1, 2], check := [3, 4], count := 16 }

theorem test_wf_transfer_size : badTransfer.wellFormed = false ∧ goodTransfer.wellFormed = true := by decide
theorem test_wf_transfer_address : Transfer.wellFormed { goodTransfer with addr := 2 ^ 32 } = false := by decide
theorem test_wf_transfer_data : Transfer.wellFormed { goodTransfer with data := 2 ^ 32 } = false := by decide
theorem test_wf_frame_count : badFrame.wellFormed = false ∧ HostFrame.wellFormed { badFrame with count := 15 } = true := by
  decide
theorem test_wf_further_causes :
    ∀ i ∈ [Instr.en 0 twice, .dis 0 twice, .disch 0 twice, .marg 0 twice, .raise 0 twice, .ovCrossing 3 true twice,
      .uvCrossing 3 true twice, .ocCrossing 3 true twice, .tonExpiry 3 twice, .toffExpiry 3 twice,
      .backoffExpiry 3 twice, .fire .tether false twice], i.wellFormed = false := by decide
theorem test_wf_uhp :
    ∀ i ∈ [Instr.uhpHello badFrame, .uhpRead badFrame 0 [], .uhpWrite badFrame 0 [], .uhpRmw badFrame 0, .uhpRequest badFrame,
      .uhpRun badFrame, .uhpStore badFrame, .uhpEvents badFrame 0 [], .uhpAbort badFrame, .uhpBye badFrame],
      i.wellFormed = false := by decide
theorem test_wf_raw_frame :
    (Instr.rawFrameWrite [0, 0]).wellFormed = false ∧ (Instr.rawFrameWrite [0, 255]).wellFormed = true := by decide
theorem test_wf_shadow_close : (Instr.shadowClose 0 false).wellFormed = false := by decide
theorem test_wf_charger : (Instr.chargerTransition 65536 []).wellFormed = false := by decide
theorem test_wf_grant :
    (Instr.grant [badTransfer]).wellFormed = false ∧ (Instr.grant [goodTransfer, goodTransfer]).wellFormed = false := by
  decide
theorem test_wf_tether_answer : (Instr.tetherAnswer 0 0 true (.sig 0) []).wellFormed = false := by decide
theorem test_wf_poll_confirmations :
    (Instr.tthPoll { dst := 1, epoch := 0, tag := 0, crcOk := true } none [1, 2, 3, 4, 5]).wellFormed = false := by decide
theorem test_wf_jtag : (Instr.jtagPrivate { goodTransfer with size := 1 }).wellFormed = false := by decide
theorem test_wf_register_write :
    (Instr.registerWrite .tether 0x10000002 0 0).wellFormed = false
      ∧ (Instr.registerWrite .tether (2 ^ 32) 0 0).wellFormed = false := by decide
theorem test_wf_same_cycle :
    (Instr.rearm .tether [.shortTrip, .shortTrip]).wellFormed = false
      ∧ (Instr.responseReady 0 0 [(aFltStat, 1), (aFltStat, 2)] []).wellFormed = false
      ∧ (Instr.arrive { portB := false, src := 1, dst := 0xFF, hops := 0, seq := 0, co := [.pfclr, .pfclr] } 0).wellFormed
        = false := by decide
theorem test_wf_ahead_of_it :
    (Instr.responseReady 0 0 [] [.erase, .erase]).wellFormed = false
      ∧ (Instr.wakeComplete [] [.clock true, .clock true]).wellFormed = false
      ∧ (Instr.wakeComplete [(aFltStat, 1), (aFltStat, 2)] []).wellFormed = false
      ∧ (Instr.ens 0 twice).wellFormed = false ∧ (Instr.blankingEnd (.uv 3) true twice).wellFormed = false
      ∧ (Instr.tetherAnswer 1 0 true (.sig 0) [.pfclr, .pfclr]).wellFormed = false
      ∧ (Instr.wakeComplete [] [.clock true, .clock false]).wellFormed = true := by decide
theorem test_wf_ring_crc : (Instr.ringCrcFailure false (List.replicate 15 0)).wellFormed = false := by decide

/-! Words and values of the spec's worked examples -/

/-- 04_tornum_instructions.md, encoding the start of d1_up: the words of the example, encoded. -/
theorem test_tornum_encodes :
    encodeOp (.setv 7 (.time 0 500000)) = 0x57C7A120 ∧ encodeOp (.en (.imm 4)) = 0x08000004
      ∧ encodeOp (.waitc { cc := 2, neg := false, arg := 0x20 } 7) = 0x1C208007
      ∧ encodeOp (.wait 0 10000) = 0x18002710 ∧ encodeOp (.rsto 1 0) = 0x64000008 := by decide

/-- The same example: after 0x00A, V7 holds 0x0100_C350. -/
theorem test_setv_time :
    (match execSetv 2 (prog up (.setv 7 (.time 1 50000))) with
      | .next t => t.vreg 2 7
      | _ => 0) = 0x0100C350 := by decide +kernel

/-- 15_register_map.md, the registers of rail X4. -/
theorem test_addresses_of_x4 :
    aChState 20 = 0x10001428 ∧ aVal 52 = 0x10021340 ∧ aFilt 52 = 0x1002134C ∧ aPmbVi 4 = 0x10022020
      ∧ aPmbTs 4 = 0x10022024 ∧ aMgk 4 = 0x10050050 ∧ aStFail 3 = 0x1001009C ∧ aPend 3 = 0x1004008C
      ∧ aInjArm 3 = 0x1004004C ∧ aSev 6 = 0x100400D8 ∧ aCnt 25 = 0x10040264 := by decide

/-- R348 and R361: the check word of a new counter's lap copies is the CRC-16 of six zero bytes. -/
theorem test_lap_copy_check : crc16 (List.replicate 6 0) = 0x0E10 := by decide +kernel

/-- R553: after reset ID_PART reads 0x6448. -/
theorem test_id_part : State.reset.regRead 0x100F0000 = 0x6448 := by decide +kernel

/-- R349: the order of sequence numbers wraps. -/
theorem test_newer : newer 5 4 = true ∧ newer 4 5 = false ∧ newer 0 0xFFFFFFFF = true := by decide

/-- RFC 4493, example 1 (log 19): the CMAC of no bytes. -/
theorem test_cmac :
    cmac [0x2B, 0x7E, 0x15, 0x16, 0x28, 0xAE, 0xD2, 0xA6, 0xAB, 0xF7, 0x15, 0x88, 0x09, 0xCF, 0x4F, 0x3C] []
      = [0xBB, 0x1D, 0x69, 0x29, 0xE9, 0x59, 0x37, 0x28, 0x7F, 0xA3, 0x7D, 0x12, 0x9B, 0x75, 0x67, 0x46] := by
  decide +kernel

/-- IEEE 754 (R406): the patterns of 1, of -0.375 and of the least subnormal number, both ways. -/
theorem test_binary32 :
    toBinary32 1 = 0x3F800000 ∧ toBinary32 (-3 / 8) = 0xBEC00000 ∧ toBinary32 (1 / 2 ^ 149) = 1
      ∧ fromBinary32 0x3F800000 = some 1 ∧ fromBinary32 0x7F800000 = none := by decide +kernel

/-- The decay of one second over 1 s is 0.36787944 (R393), the square root of 2 is 1.41421356 (R396). -/
theorem test_approximations :
    (expNeg 1 * 100000000).floor = 36787944 ∧ (ratSqrt 2 * 100000000).floor = 141421356
      ∧ (lnTwo * 100000000).floor = 69314718 ∧ (piRat * 100000000).floor = 314159265
      ∧ (ratArctan 3 * 100000000).floor = 124904577 := by decide +kernel

/-- R23: ENx of X4 while deasserted, for ENMODE 0 and 1 and ENPOL 0 and 1, and before the set is loaded (R24). -/
theorem test_en_pin :
    (use up 20).enPin 20 = .drivenLow ∧ (up.setReg (aChCfg 20) 0x20000080).enPin 20 = .drivenHigh
      ∧ (up.setReg (aChCfg 20) 0x20000100).enPin 20 = .pulledLow
      ∧ (up.setReg (aChCfg 20) 0x20000180).enPin 20 = .released ∧ State.reset.enPin 20 = .highZ := by decide +kernel

/-- R563, the table's rows of IRQn, TAMPnO, the charger's gates and GPIOg: unpowered, in the boot, and after it. -/
theorem test_pins :
    (State.reset.irqPin 0, State.reset.tampOut 0, State.reset.chgGates, State.reset.gpioPin 0)
        = (.highZ, .highZ, .pulled, .highZ)
      ∧ (let s : State := { State.reset with power := { State.reset.power with phase := .locked, supplies := true } }
        (s.irqPin 0, s.tampOut 0, s.chgGates, s.gpioPin 0) = (.released, .low, .low, .input))
      ∧ (up.irqPin 0, up.tampOut 0, up.chgGates, up.gpioPin 0) = (.released, .high, .low, .input) := by decide +kernel

/-! For every statement with hypotheses, a state and operands that meet them -/

namespace Flow
def loopW (s : State) (lc : BitVec 16) : State := s.mapWk 2 (fun x => { x with lc := lc, lstart := 3, lend := 5, ldepth := 0 })
def poolControlFlow0 : List State := [prog up .nop, loopW (prog up .nop) 1, loopW (prog up .nop) 7, prog up (.jmp (.imm 9)), loopW (prog up (.jmp (.imm 9))) 4, prog up (.jmp (.reg 3)), prog up (.chk { cc := 0, neg := false, arg := 0} 9), prog up (.chk { cc := 0, neg := true, arg := 0} 1020), prog up (.call (.imm 9)), (prog up .ret).mapWk 2 (fun x => { x with stack := [7, 8] }), prog up (.loop (.imm 3) 9), prog up (.loop (.imm 0) 9)]
end Flow

namespace Waits
def w5 (s : State) (f : Wick → Wick) : State := s.mapWk 2 f
def pool1 : List State := [prog up (.log 200 3), (w5 (prog up (.log 200 3)) (fun x => { x with logBuf := some ⟨1,2,3⟩ })), prog up (.sleephint 1 9), prog up (.sleephint 1 0), prog up (.wait 2 9), prog up (.wait 2 0)]
def full (s : State) : State := w5 s (fun x => { x with stack := [1,2,3,4] })
def loopy (s : State) : State := w5 s (fun x => { x with lc := 3, ldepth := 0, lstart := 4, lend := 9 })
def badc : Cond := { cc := 1, neg := true, arg := 511 }
def upsev : State := (List.range 24).foldl (fun s k => s.setReg (aSev k) 0xAAAAAAAA) up
def pool2 : List State := [full (prog up (.call (.imm 9))), prog up .ret, loopy (prog up (.loop (.imm 9) 9)), prog up (.loop (.imm 9) 3), prog up (.waitc badc 3), prog up (.chk badc 9), prog up (.tlm (.imm 127)),
  (prog up .nop).setReg aSeqLive 3, (prog up .nop).setReg aSeqLive 0 , { prog up .nop with imem := [(5, 0xFC000000)] }, prog up .halt, prog upsev .halt, full (prog upsev (.call (.imm 9)))]
def dom1 (s : State) : State := (s.setReg (aDCfg 1) 0x80090000)
def vt (s : State) : State := w5 s (fun x => { x with v := x.v.set 6 0x00001000 })
def okc : Cond := { cc := 0, neg := false, arg := 0 }
def okn : Cond := { cc := 0, neg := true, arg := 0 }
def pool4 : List State := [prog up (.waitc okc 3), prog up (.waitc okn 3), vt (prog up (.waitc okc 6)), vt (prog up (.waitc okn 6)), prog up (.wsig 0 true 3), prog up (.wsig 9 true 3), vt (prog up (.wsig 9 false 6)), w5 (prog up (.wsig 9 true 3)) (fun x => { x with sigs := 13}),
 w5 (vt (prog up (.wsig 9 true 6))) (fun x => { x with sigs := 1}), w5 (vt (prog up (.wsig 9 false 6))) (fun x => { x with sigs := 1}),
 prog up (.hitch 1 6), prog (dom1 up) (.hitch 1 6), dom1 (prog up (.hitch 1 6) 9), vt (prog (own1 (dom1 up) (.host 0 1)) (.hitch 1 6)), vt (prog (own1 (dom1 up) (.wick 2)) (.hitch 1 6)),
 prog up (.sync 1 9 6), vt (prog up (.sync 1 9 6)), vt (prog up (.sync 2 9 6)), prog up (.sync 2 9 6)]
def wt (s : State) (k : WaitFor) : State := w5 s (fun x => { x with st := .wait k, deadline := some 99, hint := some 77, pc := 4 })
def pool5 : List State := [wt up .time, wt up (.cond 0 false 0), wt up (.cond 0 true 0), wt up (.flags 9 true), w5 (wt up (.flags 9 true)) (fun x => { x with sigs := 29 }), wt (own1 (dom1 up) (.wick 2)) (.hitch 1),
  wt ((dom1 up).setDom 1 { queue := [3, 2, 5] }) (.hitch 1), w5 (wt up (.barrier true 9)) (fun x => { x with released := true}), wt up (.logger 1 2 3), wt up (.dis false [3]), wt up (.dis true [3])]
def pool6 : List State := [up.setReg aSeqLive 100, (prog up .nop), (prog (dom1 up) .nop 9).setDom 1 { prog := .up }, (w5 up (fun x => {x with st := .fault, fault := true, fcode := 3, sfail := true, epoch := 255, stack := [4] })).setReg aSeqLive 100]
end Waits

namespace Crossings
def u0 (r : Rail) : State := use up r
def pool0 (f : Rail → State → List State) : List State := (f 3 (u0 3)) ++ (f 20 (u0 20)) ++ (f 3 (sevs (u0 3))).take 3
def allSt : List RailState := [.off,.rising,.on,.margined,.falling,.discharging,.tripped,.retryWait]
def pV (r : Rail) (s : State) : List State := allSt.flatMap (fun k => [chs s r (fun x => { x with st := k, started := true, enCmd := true, pg := true }), chs s r (fun x => { x with st := k, ov := { out := true }, uv := { out := true } }),
    chs s r (fun x => { x with st := k, ov := { out := true, blank := some 9 } }) ]) ++ [(chs s r (fun x => { x with st := .on, pg := true })).setReg (aChReact r) 0]
def poolVoltageWindows0 : List State := pool0 pV ++ ((pV 3 (use up 3)).map (fun s => s.setReg (aChReact 3) 0x00000155))
def pT (r : Rail) (s : State) : List State :=
  let s := s.setReg (aChToff r) 0x1000009
  [ chs s r (fun x => { x with st := .rising, ton := some 99, started := true }),
   chs s r (fun x => { x with st := .falling, toff := some 99}), chs s r (fun x => { x with st := .discharging, toff := some 99, discharge := true}), chs s r (fun x => { x with st := .discharging, toff := some 99, discharge := true, offtRaised := true}),
   chs s r (fun x => { x with st := .discharging, toff := some 99, discharge := true, pend := true, enCmd := true}),
   (chs s r (fun x => { x with st := .retryWait, backoff := some 99})).orReg (aChCfg r) 0x10, chs s r (fun x => { x with st := .on, stable := some 99, retries := 3}),
   chs s r (fun x => { x with st := .rising, ramp := true, started := true }), chs s r (fun x => { x with st := .on, ov := { out := false, blank := some 9 } }), chs s r (fun x => { x with st := .on, ov := { out := true, blank := some 9 } }) ]
def poolChannelTimers1 : List State := pool0 pT ++ (pT 3 (use up 3)).map (fun s => (s.setReg (aDCfg 1) 0x80090000).setReg (aDRail 1 0) 8)
end Crossings

namespace Current
def pO (s : State) : List State := [ (chs s 3 (fun x => { x with st := .on, started := true })).setReg (aChOc 3) 0x1000, chs s 3 (fun x => { x with st := .on, started := true }), (chs s 3 (fun x => { x with st := .on, started := true, cycTrip := true, ocRun := 4 })).setReg (aOcRun 0) 0x05050505,
 (chs s 3 (fun x => { x with st := .rising, started := true, ocRun := 4 })).setReg (aChOc 3) 0x1000, s.setReg (aMonAux 3) 0x01000010, (s.setReg (aMonAux 3) 0x01000010).setReg (aMonAux 4) 0xA9000000, { s with aux := s.aux.set 3 { high := true, low := true }}]
def poolOverCurrent0 : List State := pO (use up 3) ++ pO (sevs (use up 3))
end Current

namespace Pmbus
def poolVoltageWindows0 : List State := [chs (use up 3) 3 (fun x => { x with st := .rising, uv := {out := true}, started := true})]
def pb (s : State) : State := (s.setReg (aChCfg 20) 0x34500000).setReg (aChCfg 21) 0x34600000
def wkp (s : State) : State := s.mapWk 2 (fun x => { x with st := .wait .pmbus, hint := some 3 })
def poolP : List State := [pb up, prt (pbr up) 1 { pass := true }, prt (pbr up) 1 { pass := true, cur := some { owner := .poll 20 0, addr := 0x0A, cmd := 0x8B, data := 0 } },
  prt (pbr up) 1 { pass := true, cur := some { owner := .poll 20 3, addr := 0x0A, cmd := 0x79, data := 0 } }, prt (pbr up) 1 { pass := true, pollLeft := [21], cur := some { owner := .poll 20 3, addr := 0x0A, cmd := 0x79, data := 0 } }, prt (wkp up) 1 { cur := some { owner := .template 2 true 3, addr := 0x0A, cmd := 0x79, data := 0 } }, prt (wkp up) 1 { cur := some { owner := .template 2 true 3, addr := 0x0A, cmd := 1, data := 0 } },
  prt (wkp up) 1 { cur := some { owner := .template 2 false 3, addr := 0x0A, cmd := 1, data := 0 } }]
def poolM : List State := [3, 20].flatMap (fun r =>
 [stp (chs (use up r) r (fun x => { x with st := .margined, slew := true, slewAt := some 9 })) r 50, stp (chs (use up r) r (fun x => { x with st := .margined, slew := true, slewAt := some 9, path := 70 })) r 10,
 stp (chs (use up r) r (fun x => { x with st := .margined, slew := true, slewAt := some 9, path := 1 })) r 0, chs (sevs (use up r)) r (fun x => { x with st := .margined, slew := true, slewAt := some 9, path := -1 })])
 ++ [(stp (chs (use up 20) 20 (fun x => { x with st := .margined, slew := true, slewAt := some 9 })) 20 50).orReg (aChMargin 20) 0x40000000,
  (chs (pbr up) 20 (fun x => { x with st := .rising, pmbw := true })).setReg (aChBlank 20) 9]
def poolPmbusAndMarginSlews1 : List State := poolP ++ poolM
def poolC : List State := [3, 20].flatMap (fun r => [chs (use up r) r (fun x => { x with st := .on, started := true }), (chs (use up r) r (fun x => { x with st := .on, started := true })).setReg (aChFlags r) 0xFFFFFFFF,
  (chs (use up r) r (fun x => { x with st := .tripped, trip := 1})).setReg (aChFlags r) 0x9, (chs (use (sevs (dm up)) r) r (fun x => { x with st := .tripped, trip := 1})).setReg (aChFlags r) 0x9, chs (use (dm up) r) r (fun x => { x with st := .on, started := true })])
def ts (b : Nat) (ph : Nat) (s : State) : State := { s with selfTest := { s.selfTest with phase := ph } }.setReg aStStat (0x80000000 + BitVec.ofNat 32 (b * 2^27))
def poolS : List State := [up.setReg aStCtl 0xE00007FF, (use up 3).setReg aStCtl 0xE00007FF, ts 0 3 (use (up.setReg aStCtl 0xE00007FF) 3), ts 1 3 (use (up.setReg aStCtl 0xE00007FF) 3), ts 0 7 (use (up.setReg aStCtl 0xE00007FF) 3), ts 0 5 up, 
  ts 0 11 (use up 3), { ts 0 11 (use (sevs up) 3) with selfTest := { phase := 11, fail := 8, nj := 4} }, ts 9 11 up]
end Pmbus

namespace PmbusMore
def poolPmbusAndMarginSlews0 : List State := [prt (pbr up) 2 { pollLeft := [21] }]
def poolC : List State := [3, 20].flatMap (fun r => [
  ((chs (use up r) r (fun x => { x with st := .tripped, trip := 1})).setReg (aChFlags r) 0x9).setReg (aChToff r) 9, ((chs (use (sevs (dm up)) r) r (fun x => { x with st := .tripped, trip := 1})).setReg (aChFlags r) 0x9).setReg (aChToff r) 9])
end PmbusMore

namespace Rails
def lowr (s : State) (r : Rail) : State := chs (use s r) r (fun x => { x with uv := { out := true } })
def seta (s : State) : State := s.setReg (aSeqSet 1 0) 0x00100008
def poolE : List State := [prog (lowr up 3) (.en (.imm 3)), prog (lowr (lowr (sevs up) 20) 20) (.en (.imm 20)), prog (seta (lowr (lowr up 3) 20)) (.ens 1),
 prog (chs (use up 3) 3 (fun x => { x with st := .margined, started := true, path := 3, slew := true })) (.dis (.imm 3)), (prog (seta (chs (use (chs (use up 3) 3 (fun x => { x with st := .on, started := true })) 20) 20 (fun x => { x with st := .rising, started := true })) ) (.diss 1)).setReg (aChToff 3) 9,
 ((prog (dm (chs (use up 3) 3 (fun x => { x with st := .on, started := true }))) (.dis (.imm 3)) 9).setDom 1 { prog := .down }).setReg (aChToff 3) 99,
 ((prog ((dm (chs (use up 3) 3 (fun x => { x with st := .on, started := true }))).setReg (aDCfg 1) 0xC0090000) (.dis (.imm 3)) 9).setDom 1 { prog := .down }).setReg (aChToff 3) 99]
def poolD : List State := [prog (dm up) (.en (.imm 3)), prog (dm up) (.dis (.reg 3)), (prog (dm up) (.marg (.imm 3) (.imm 5))), prog (seta (dm up)) (.ens 1), (prog ((use up 3).setReg (aChToff 3) 9) (.disch (.imm 3))),
  prog (chs (use up 3) 3 (fun x => { x with st := .on, started := true })) (.marg (.imm 3) (.imm 5)), prog (chs (use up 3) 3 (fun x => { x with st := .on, started := true })) (.marg (.imm 3) (.imm 2047)),
  prog (chs (use (sevs up) 3) 3 (fun x => { x with st := .on, started := true })) (.marg (.imm 3) (.imm 4095))]
def stopW (s : State) : State := s.mapWk 2 (fun x => { x with st := .run, stop := true, hint := some 3, pc := 7 })
def poolB : List State := [stopW up, stopW (sevs up), ((stopW (dm up)).setReg (aDCfg 1) 0x80020000).setDom 1 { prog := .up, next := some (.down, 0)}]
end Rails

namespace RailsWick
def slv (s : State) : State := { s with tether := { s.tether with straps := { trole := false, taddr := 5, haddr := 0 } } }
def mm (s : State) : State := { s with tether := { s.tether with straps := { trole := true, taddr := 0, haddr := 0 } } }
def rg : State := ((mm up).setReg aRngCfg 0xE0000005).setReg aRngStat 0
def tmpl (s : State) (ty cmd port : Nat) (v : Word) : State := (prog (s.setReg (aPmbt 3) (BitVec.ofNat 32 (0x80000000 + port * 2^29 + 10 * 2^22 + ty * 2 ^ 19 + cmd))) (.pmb 3 2)).mapWk 2 (fun x => { x with v := x.v.set 2 v })
def poolW : List State := [prog up (.sig 0 0 3 9), prog up (.sig 0 0 2 9), prog up (.unhitch 1), prog (own1 (dm up) (.wick 2)) (.unhitch 1), (prog (own1 (dm up) (.wick 2)) (.unhitch 1)).setDom 1 { owner := .wick 2, queue := [3, 9], pendUp := true },
  (prog (own1 (dm up) (.wick 2)) (.unhitch 1)).setDom 1 { owner := .wick 2, queue := [], pendUp := true },
  prog (up.setReg (aRst 1) 0x80000005) (.rsto 2 1), prog (up.setReg (aRst 1) 0x80000000) (.rsto 2 1), prog up (.rsto 0 1),
  prog ((mm up).setReg aTthCfg 0x04000000) (.sig 1 5 3 9), prog (((mm up).setReg aTthCfg 0x04000000).setReg (aTthSlv 5) 0xA0000000) (.sig 1 5 3 9), prog (mm up) (.sig 1 0 3 9), prog (mm up) (.sig 1 0 2 9), slv (prog up (.sig 1 5 3 9)),
  slv (prog (up.setReg aTthCfg 0x04000000) (.sig 1 0 3 9)), slv (prog (up.setReg aTthCfg 0x04000000) (.sig 1 5 3 9)), prog up (.sig 2 0 3 9), prog rg (.sig 2 5 3 9), prog rg (.sig 2 40 3 9),
  tmpl up 1 (0x01 + 2 * 0) 1 0x80, tmpl up 1 1 1 0x40, tmpl up 2 0x21 1 0x12345, tmpl (pbr up) 2 0x21 1 0x12345, tmpl up 0 3 1 0, tmpl (prt up 1 { cur := some { owner := .poll 20 0, addr := 10, cmd := 0x8B, data := 0 } }) 4 0x8B 1 0,
  (prog (own1 up (.wick 2)) (.unhitch 1)).setDom 1 { owner := .wick 2, queue := [3, 9], pendUp := true },
  { prog (up.setReg (aVal 3) 0x80000001) (.tlm (.imm 3)) with scan := { up.scan with running := some 1 } }, prog (up.setReg (aRst 1) 0x80000000) (.rsto 1 1), prog up (.rsto 1 1), prog (up.setReg (aPmbt 3) (BitVec.ofNat 32 (0x80000000 + 1 * 2^29 + 10 * 2^22 + 4 * 2 ^ 19 + 0x8B))) (.pmb 3 2)]
end RailsWick

namespace Scan
def sc (s : State) (f : Scan → Scan) : State := { s with scan := f s.scan }
def rawOn (s : State) : State := (s.setReg aRawCtl 0x80000005)
def poolT : List State := [up.setReg aTlmCtl 0x80050009, sc (rawOn up) (fun x => { x with inFrame := true, frame := 63 }), sc (sevs (rawOn up)) (fun x => { x with inFrame := true, frame := 6, refBad := #v[15, 3, 0]}),
 sc up (fun x => { x with burstAt := some 3, ctl := 0xC0050009}), sc (up.setReg (aFilt 3) 0x00020000) (fun x => { x with due := some 63 }), (up.setReg aRawStat 0x80000000), sc (up.setReg aRawStat 0x20000000) (fun x => { x with postLeft := 0 }), up.setReg aRawStat 0x40000000, sc up (fun x => { x with inFrame := true, frameTime := 0x123456789A }),
 up.setReg aLock 1, use (sevs up) 3]
end Scan

namespace Loops
def l0 : State := chs (use (sevs ((up.setReg aLhCtl 0x80000000).setReg (aLhSel 0) 8)) 3) 3 (fun x => { x with st := .on, started := true })
def l1 : State := (chs (use (sevs ((up.setReg aLhCtl 0xC0000000).setReg (aLhSel 0) 0x100000)) 20) 20 (fun x => { x with st := .on, started := true })).setReg (aChVset 20) 1000
def seqL (s : State) : List State := let a := go .lhStart s; let b := go (.lhCalRound 2000) a; let c := go .lhExciteStart b; let d := go .lhPerturbToggle c; let e := go .lhCaptureEnd d; [s, a, b, c, d, e, (go (.lhCalRound 1) (go (.lhCalRound 1) (go (.lhCalRound 1) a)))]
def poolLoopHealth0 : List State := seqL l0 ++ seqL l1 ++ [up.pokeByte 0x25240 9]
end Loops

namespace Pack
def rs (s : State) (f : Reserve → Reserve) : State := { s with reserve := f s.reserve }
def rcfg (s : State) : State := ((((((s.setReg aRsvCfg 0x8400000A).setReg aRsvChg 0x8E100000).setReg aMonVin 1).setReg aRsvChgT 0x32100000).setReg aRsvProt 0xED800000).setReg aRsvOring 0x80140A05)
def allC : List ChgState := [.off,.wait,.pre,.cc,.cv,.full,.pause,.fault]
def poolG : List State := allC.flatMap (fun c => [rs (rcfg up) (fun x => { x with chg := c, overV := c == .off }), rs (rcfg (sevs up)) (fun x => { x with chg := c })]) ++ [(rs (rcfg up) (fun x => { x with chg := .fault })).setReg aRsvFlags 0x1C8, rs up (fun x => { x with chg := .cv }), rs (rcfg up) (fun x => { x with chg := .cv, present := true }), rs ((rcfg up).setReg aRsvChg 0x0E100000) (fun x => { x with chg := .off })]
def poolO : List State := [rcfg up, rs (rcfg up) (fun x => { x with chg := .cc }), rs (rcfg up) (fun x => { x with orOn := true }), rs (rcfg (sevs up)) (fun x => { x with orOn := true, ilim := true, ilimAt := some 9, rearmAt := some 7 }), (rs (rcfg (sevs up)) (fun x => { x with orOn := true, ilim := true, ilimAt := some 9, chg := .cc })).setReg aRsvOring 0x80140A00, rs (up.setReg aRsvCfg 0x80000000) (fun x => { x with rearmAt := some 9, scoff := true })]
def asl (s : State) (k : PowerState) : State := { s with power := { s.power with state := k } }
def ecfg (s : State) : State := (s.setReg aEstCfg 0xA3282710)
def ic (s : State) : State := rs (ecfg (rcfg s)) (fun x => { x with iSum := -7000, iCnt := 7, vSum := 90000, vCnt := 6, evalid := true, s := 1/2 })
def poolEs : List State := [ic up, ic (sevs up), ic { up with power := { up.power with phase := .inputLow } }, up.setReg aLock 1, up, (rcfg up).setReg aEstCfg 0x23280000, ecfg (rcfg up), ecfg (rcfg { up with power := { up.power with phase := .inputLow } }), rs (ecfg (rcfg up)) (fun x => { x with rest := true, restAt := some 8 }), rs (ecfg (rcfg (sevs up))) (fun x => { x with supply := true, orOn := true, s := 1, evalid := true }), (ecfg (up.setReg aRsvCfg 0x80000000)), { (ecfg (up.setReg aRsvCfg 0x80000000)) with power := { up.power with phase := .inputLow } }, asl (ic up) .nap, asl (ic up) .doze]
end Pack

namespace Keeping
def kp (s : State) (f : Keeper → Keeper) : State := { s with keeper := f s.keeper }
def sr (k : StoreKind) : StoreRun := { kind := k, ready := false, left := (List.range 256).map (fun k => (k, false)), cur := none, written := 0, startAt := 0, pass2 := false, waitRewrite := false }
def dirt (s : State) : State := s.pokeByte 0x1005 9
def a0 : State := kp (dirt up) (fun x => { x with run := some (sr .store) })
def a1 : State := go .storeShadowReady a0
def a2 : State := go (.storePageDone true) a1
def au (s : State) : State := s.setReg aKpsCtl 60
def poolK : List State := [au (kp (dirt up) (fun x => { x with lastEnd := some 0 })), au (kp up (fun x => { x with lastEnd := some 5 })), au (kp (dirt up) (fun x => { x with lastEnd := some 0, locked := true })), up, kp (dirt up) (fun x => { x with lastEnd := some 0 }), kp up (fun x => { x with lastEnd := some 0 }), (kp up (fun x => { x with lastEnd := some 0 })).setReg aKpsCtl 60, kp up (fun x => { x with locked := true, lastEnd := some 0 }),
  kp (dirt up) (fun x => { x with run := some { sr .store with left := [(4, false), (9, true)] }}), a0, a1, a2, kp a1 (fun x => { x with run := x.run.map (fun r => { r with left := [], cur := some (4, [(0x1005, 7)]) }) }), { a2 with cycle := 12345 }, kp { a2 with cycle := 12345 } (fun x => { x with locked := true }), kp (sevs { a1 with cycle := 12345 }) (fun x => { x with run := x.run.map (fun r => { r with left := [] }) })]
def poolP : List State := [kp a2 (fun x => { x with run := x.run.map (fun r => { r with kind := .powerFail, pass2 := true }) }), kp a0 (fun x => { x with run := some { sr .powerFail with ready := true }, liveMark := true }), { a0 with power := { a0.power with phase := .powerFail } }]
def poolPowerFailStore1 : List State := poolP ++ [chs (use ((poolP.getD 0 State.reset).mapWk 3 (fun x => { x with st := .run })) 3) 3 (fun x => { x with st := .on, started := true})]
def poolN : List State := [kp up (fun x => { x with cntQueue := [3, 5] }), kp (go (.init .ringA 20) up) (fun x => { x with cntQueue := [20] })] ++ 
  [ (List.range 251).foldl (fun s _ => go .counterIncrement (kp s (fun x => { x with cntQueue := [20] }))) up].flatMap (fun s => [kp s (fun x => { x with cntQueue := [20] }), go .counterIncrement (kp s (fun x => { x with cntQueue := [20, 20] }))])
end Keeping

namespace Outputs
def rsto (s : State) (x : RstOut) : State := { s with resets := s.resets.set 1 x }
def poolR : List State := [rsto up { stretch := some 9 }, rsto (up.setReg aRstOvr 0x8) { pulse := some 9 }, up, up.setReg (aRst 1) 0x80000005, up.setReg aLock 1, dm up, (dm up).setReg (aRst 1) 0x80000105]
end Outputs

namespace Requests
def tow (o : Owner) (s : State) : State := s.setDom 1 { s.dom 1 with owner := o }
def w9 (s : State) (k : WickState) : State := s.mapWk 9 (fun x => { x with st := k })
def onr (s : State) : State := chs (use s 3) 3 (fun x => { x with st := .on, started := true })
def poolDo : List State := [dm up, tow .tether (dm up), tow (.host 0 1) (dm up), tow .tether (onr (dm up)), w9 (tow .tether (onr (dm up))) .halted, (tow .tether (dm up)).setDom 1 { owner := .tether, pendUp := true, last := 2 },
  (dm up).setDom 1 { owner := .wick 5, epoch := 7, pendUp := true }, (((dm up).setReg (aDCfg 1) 0xA0090000)).setDom 1 { owner := .wick 5, epoch := 7, pendUp := true }]
end Requests

namespace Collecting
def rct (c : BitVec 2) : React := { rail := 3, ev := .ov, code := c, injected := false }
def fl (s : State) (f : Faults → Faults) : State := { s with faults := f s.faults }
def trp (s : State) : State := ((chs (use s 3) 3 (fun x => { x with st := .tripped, trip := 1 })).setReg (aChToff 3) 9).setReg (aChReact 3) 0x03050155
def poolF : List State := [prog up (.raise 3), prog (sevs up) (.raise 3), prog ((sevs up).setReg (aCnt 89) 0xFFFFFFFF) (.raise 3), fl (trp up) (fun x => { x with reacts := [[rct 1], [rct 2]] }), fl (trp up) (fun x => { x with reacts := [[rct 2]] })]
def sh (s : State) (k : ShutPhase) : State := { s with shut := k }
def poolH : List State := [sh (chs (use up 3) 3 (fun x => { x with st := .on, started := true })) (.rank 0 []), sh ((dm (up.mapWk 9 (fun x => { x with st := .run }))).setDom 1 { prog := .down }) (.rank 0 [1]), sh up .final, fl up (fun x => { x with sysReset := true })]
def e0 : State := go (.raise 2 []) (prog (sevs up) (.raise 3))
def e1 : State := go .emberComplete e0
def e2 : State := fl e1 (fun x => { x with rewrite := true })
def fi (s : State) : State := (s.setReg (aInjArm 0) 0x8000)
def poolL : List State := [e0, e1, e2, go .logEntryWrite e1, up, up.setReg aLock 32, fi up, (fi (chs (use up 3) 3 (fun x => { x with st := .on, started := true }))).setReg aInjCtl 0x80000000, fl up (fun x => { x with devShadow := some { injOnly := false, exempt := [], endAt := some 7 }, shadows := x.shadows.set 3 (some { injOnly := false, exempt := [], endAt := some 7 }) })]
def poolCollectorCommands2 : List State := poolL ++ [fl (go .logEntryWrite e1) (fun x => { x with queue := e0.faults.queue })]
end Collecting

namespace Booting
def ph (s : State) (p : Phase) (v : VinLevel := .above) : State := { s with power := { s.power with phase := p, vin := v } }
def onr (s : State) : State := chs (use s 3) 3 (fun x => { x with st := .on, started := true })
def poolV : List State := [up, onr (upV.mapWk 2 (fun x => { x with st := .run })), ph (onr (upV.mapWk 2 (fun x => { x with st := .run }))) .run .below, ph (sevs (onr upV)) .run .below, ph r0 .loaded .below, ph (r0.setReg aMonVin 0x00630002) .inputLow .above, ph (r0.setReg aMonVin 0xFFFF0006) .inputLow .above, ph up .inputLow .band, ph r0 .unpowered .below, ph (ph r0 .inputLow .above) .inputLow]
def poolInputSupervision0 : List State := poolV ++ [ph (sevs (onr r0)) .inputLow .above]
def cm (s : State) : State :=
  let i1 := up.setReg aSeqImg 0x80000003
  let i1c := i1.setReg aSeqImgCrc (i1.imageCrc true 3)
  let a := go .commitComplete { i1c with keeper := { i1.keeper with commit := true }}
  { s with sram := a.sram, shadow := a.shadow }
def poolBt : List State := [ph r0 .regulators, ph r0 .supplies, ph r0 .reference, ph (r0.pokeByte 0x500 8) .locked, { ph (cm r0) .locked with shadow := (cm r0).sram}, ph r0 .recalled, { ph (cm r0) .recalled with power := { r0.power with phase := .recalled, recalled := true }, keeper := { r0.keeper with liveMark := true, tornPage := some 4 } },
  ph r0 .repaired, ph (cm r0) .configured, ph r0 .configured, ph (r0.setReg aKpsStat 0x02000000) .loaded, { ph r0 .loaded with power := { r0.power with phase := .loaded, vhokLimit := true }}, (let s := ph (r0.setReg aKpsStat 0x02000000) .loaded; { s with scan := { s.scan with nextAt := some 9 } })]
end Booting

namespace Power
def onr (s : State) : State := chs (use s 3) 3 (fun x => { x with st := .on, started := true })
def ps (s : State) (k : PowerState) : State := { s with power := { s.power with state := k } }
def wk1 (s : State) : State := { s with power := { s.power with waking := true, state := .hibernate } }
def idleC : State := up.setReg aPwrCtl 0xC0000000
def clk (s : State) : State := (s.setReg aClkStat 0xE0000000).setReg aRngStat 0x80000000
def poolPw : List State := [up, idleC, ps up .nap, ps (clk up) .hibernate, wk1 up, clk up, clk (sevs up), onr up, sevs (chs (use (onr up) 20) 20 (fun x => { x with st := .on, started := true })), { onr up with power := { up.power with warnArmed := false, hot := true } }]
def ph (s : State) (p : Phase) (v : VinLevel := .above) : State := { s with power := { s.power with phase := p, vin := v } }
def full : State := let s := (sevs (onr up)).pokeByte 0x500 7; let s := s.setDom 1 { owner := .tether, prog := .up }; { (clk s) with faults := { s.faults with sysReset := true, sysStore := some 0 }, keeper := { s.keeper with number := 3 }, shadow := [(0x501, 4)] }
def full2 : State := { full with doms := Vector.replicate 16 {}, keeper := { full.keeper with run := some { kind := .store, ready := true, left := [], cur := some (1, []), written := 0, startAt := 0, pass2 := false, waitRewrite := false }}}
def poolRs : List State := [full, full2] ++ [full, full2].flatMap (fun s => [go .deviceReset s, go .jtagReset s, go .systemResetRestart s])  ++ [ph full .unpowered]
end Power

namespace Locks
def poolLk : List State := [up, up.setReg aLock 0x3F, (up.setReg (aInjArm 0) 9).setReg (aInjArm 11) 3, (use up 3).setReg aSeqStat 3, { up with power := { up.power with phase := .configured } }]
def er : State := go (.erase .tether) ((up.pokeByte 0x3C001 8).pokeByte 0x500 8)
def poolKeyErase1 : List State := [up, er, { er with shadow := [(0x3C002, 6), (0x3C099, 6)] , keeper := { er.keeper with run := some { kind := .store, ready := true, left := [], cur := some (240, [(0x3C002, 6), (0x3C099, 6)]), written := 0, startAt := 0, pass2 := false, waitRewrite := false } } }, { (up.pokeByte 0x3C001 8) with protect := { up.protect with eraseTail := true } }]
def tc (s : State) : State := s.setReg aTampCfg 0x2E000003
def poolTm : List State := [tc up, { tc up with protect := { up.protect with miss := #v[1, 0], detect := 0 } }, { tc up with protect := { up.protect with miss := #v[2, 0], detect := 0 } }, { (tc up).setReg aAlarmAct 2 with hosts := up.hosts.set 0 { (up.hosts[0]) with sess := (up.hosts[0]).sess.set 1 { isOpen := true } } }, { (tc up).setReg aAlarmAct 7 with power := { up.power with state := .nap } }, { (tc up).setReg aAlarmAct 7 with power := { up.power with state := .doze } }]
def poolJtagPort3 : List State := [up, r0, up.setReg aLock 16]
def t1 : Transfer := { who := .tether, addr := aFltStat, write := false, size := 4, data := 3 }
def rq (s : State) (n : Fin 13) (q : ArbReq) : State := { s with arb := { s.arb with reqs := s.arb.reqs.set n q } }
def poolA : List State := [up, rq up 10 { wait := some t1, cred := 5, age := 3 }, rq (rq up 10 { wait := some t1, cred := 5, age := 3 }) 3 { wait := some { t1 with who := .store, addr := 0x100 }, cred := 5, age := 65535 }, rq (rq up 10 { wait := some t1, cred := 5, age := 3 }) 3 { wait := some { t1 with who := .store, addr := 0x100 }, cred := 5, age := 2 },
  { up with arb := { up.arb with flight := some (10, t1, 3) } }, (up.setReg (aArbLive 3) 0x20100), up.setReg aLock 1, (up.setReg (aArbPrio 3) 0x400).setReg (aArbPrio 4) 1]
end Locks

namespace Writes
def poolAddvRule0 : List State := [prog up (.addv 1 2 (.reg 3)), prog up (.addv 1 1 (.imm 524287)), prog up (.addv 1 1 (.imm 5))]
def poolWickRegisterWrites1 : List State := [prog up .nop, up]
def poolBlockProtectionLock2 : List State := [up.setReg aLock 4, (up.setReg aLock 4).setReg aKpsCtl 0x80000000]
def poolInjectionLock3 : List State := [up.setReg aLock 32, (up.setReg (aInjArm 3) 0xFFF).setReg (aInjArm 11) 7]
def poolArbiterWrites4 : List State := [up.setReg aLock 1, (up.setReg aArbPre 9).setReg aArbStarve 0x1FFF, ((up.setReg aArbPre 9).setReg aArbStarve 0x1FFF).setReg aLock 1, (up.setReg aArbStat 3)]
end Writes

namespace Hosts
def op1 (s : State) (x : Session) : State := { s with hosts := (s.hosts.set 0 { (s.hosts[0]) with sess := (s.hosts[0]).sess.set 1 x, queue := (s.hosts[0]).queue }).set 1 { (s.hosts[1]) with sess := (s.hosts[1]).sess.set 1 x } }
def sx : Session := { isOpen := true, ver := 3, epoch := 4, tmoAt := some 99 }
def rq0 : Request := { tag := 9, etag := 0, op := opRead, ver := 3, cursor := 0x10040004, words := [], reads := 1, got := [1,2,3,4], refusedAt := none, echo := 0x10040000, waitStore := none, payload := [], status := stOk, since := 0 }
def hostsOpen (s : State) : State := (s.setReg (aHstCfg 0) 0x00000000).setReg (aHstCfg 1) 0
def u1 : State := hostsOpen up
def rsp : Response := { ver := 3, session := 1, tag := 3, op := 2, addr := 0, status := 0, payload := [1], check := [1,2] }
def qd (s : State) : State := { s with hosts := s.hosts.set 0 { (s.hosts[0]) with queue := [{ rsp with session := 2}, { rsp with session := 3 }] } }
def poolHs : List State := [u1, op1 u1 sx, op1 (qd u1) sx, op1 u1 { sx with exec := some rq0 }, ((op1 (dm u1) sx).setReg aSeqLive 100).setReg aRngTsetL 0x1234567, op1 (qd u1) { sx with exec := some rq0 }]
end Hosts

namespace HostsMore
def hostsOpen (s : State) : State := (s.setReg (aHstCfg 0) 0x00000000).setReg (aHstCfg 1) 0
def u1 : State := hostsOpen up
def rsp : Response := { ver := 3, session := 1, tag := 3, op := 2, addr := 0, status := 0, payload := [1], check := [1,2] }
def qd (s : State) : State := { s with hosts := s.hosts.set 0 { (s.hosts[0]) with queue := [{ rsp with session := 2}, { rsp with session := 3 }] } }
def poolHostOperations0 : List State := [qd u1]
end HostsMore

namespace Tethers
def tt (s : State) (f : Tether → Tether) : State := { s with tether := f s.tether }
def mst (s : State) : State := (tt s (fun x => { x with straps := { trole := true, taddr := 0, haddr := 0 } })).setReg aTthCfg 0x0406051F
def slv1 (s : State) : State := (s.setReg (aTthSlv 3) 0x90000000).setReg (aTthSlv 5) 0xA0000007
def m0 : State := slv1 (mst up)
def fr (d : BitVec 4) (b : TetherBody) : TetherFrame := { dst := d, src := 0, epoch := 0, tag := 5, body := b }
def poolTm : List State := [mst up, m0, slv1 (mst (sevs up)), tt m0 (fun x => { x with cur := some (fr 3 (.poll none []), .poll, 2) }), tt m0 (fun x => { x with cur := some (fr 3 (.poll none []), .poll, 0) }), tt (slv1 (mst (sevs up))) (fun x => { x with cur := some (fr 3 (.poll none []), .poll, 0) }),
  tt m0 (fun x => { x with cur := some (fr 5 .tdly, .delay, 2) }), tt m0 (fun x => { x with cur := some (fr 3 .tdly, .delay, 0) }), tt m0 (fun x => { x with cur := some (fr 4 (.hello 1 2), .discover, 0) }), tt m0 (fun x => { x with cur := some (fr 4 (.hello 1 2), .discover, 3), queue := [(fr 3 .tdly, .delay)] })]
def sl (s : State) (ver : BitVec 32) : State := ((tt s (fun x => { x with straps := { trole := false, taddr := 6, haddr := 0 }, heard := true, armed := false })).setReg aTthCfg 0x0406051F).setReg aTthStat (ver <<< 14)
def pfl (s : State) : State := { s with power := { s.power with phase := .powerFail } }
def poolTs : List State := [sl up 0, sl up 1, sl up 2, tt (sl (up.setReg aFltFirst 0x12345) 2) (fun x => { x with dly := some 100, events := [(true, 4)], cache := List.replicate 8 (3, fr 0 .tdly) }), tt (sl up 2) (fun x => { x with cache := [(9, fr 0 .tdly)] }), tt (sl up 2) (fun x => { x with armed := true }),
  tt (sl (sevs up) 1) (fun x => { x with armed := true }), tt ((sl up 2).setReg aTthStat 0xFF00A000) (fun x => { x with armed := true }),
  (sl up 2).mapWk 2 (fun x => { x with st := .wait (.barrier false 5), deadline := some 9 }), tt ((sl up 2).mapWk 2 (fun x => { x with st := .wait (.remote false 5), hint := some 9 })) (fun x => { x with sigs := [(2, ⟨1, 3, 4⟩), (3, ⟨1, 3, 4⟩)] }), pfl (sl up 2), go .tetherLoss (tt (sl up 2) (fun x => { x with armed := true }))]
end Tethers

namespace Rings
def rr (s : State) (f : Ring → Ring) : State := { s with ring := f s.ring }
def rg (s : State) : State := (({ s with tether := { s.tether with straps := { trole := true, taddr := 0, haddr := 0 } } }.setReg aRngCfg 0xE0000005).setReg aRngStat 0)
def pt (n : Nat) : RingPort := { twice := (List.range n).map (fun k => 100000 + k) }
def poolRf : List State := [rg up, rr (rg up) (fun x => { x with ports := #v[pt 15, pt 16], seq := 65535, seqs := [65535] }), rr (rg (sevs up)) (fun x => { x with ports := #v[pt 14, pt 16], time := 1000 }), rr ((rg up).mapWk 2 (fun x => { x with st := .wait (.remote true 5), hint := some 9 })) (fun x => { x with sigs := [(2, 5)] }),
  ((rg up).setReg (aRngBarm 0) 0x220).mapWk 2 (fun x => { x with st := .wait (.barrier true 5) }), rr (((rg up).setReg (aRngBarm 0) 0x220).mapWk 2 (fun x => { x with st := .wait (.barrier true 5) })) (fun x => { x with sets := [(5, 0x20)] }), (rg up).setReg aRngCfg 0xC0000005,
  rr (rg up) (fun x => { x with ra := some (5, false) }), rr (rg up) (fun x => { x with ra := some (5, true), seen := [(9, 33)] }), { rg up with power := { up.power with phase := .powerFail } }]
def lan2 : Lantern := { lan with number := 9 }
def poolRc : List State := [rg up, (rg up).setReg aRngStat 0xC0000000, (rg (sevs up)).setReg aRngStat 0x80000000, rr (rg up) (fun x => { x with due := [lan2, lan] }), rr (rg up) (fun x => { x with again := [({ src := 5, dst := 255, hops := 63, seq := 4, body := .lantern lan2 }, 2), ({ src := 5, dst := 255, hops := 63, seq := 4, body := .lantern lan2 }, 1)] }),
 rr (rg up) (fun x => { x with again := [({ src := 5, dst := 255, hops := 63, seq := 4, body := .lantern lan2 }, 1)] }), (rg up).setReg aClkStat 0x80000000, rr ((rg up).mapWk 2 (fun x => { x with st := .wait (.remote true 5), hint := some 9 })) (fun x => { x with sigs := [(2, 5), (3, 6)] }), rr (rg up) (fun x => { x with ra := some (5, false) }),
 (rg (sevs up)).setReg aRngStat 0x18000000, rr ((rg (sevs up)).setReg aRngStat 0x18000000) (fun x => { x with ports := #v[{ since := some 0, fails := List.replicate 14 0 }, { since := some 0, quiet := false }] }), rr (rg (sevs up)) (fun x => { x with best := some lan }), (rg up).setReg aRngStat 0x60000000]
end Rings

namespace Setv
def w5 (s : State) (f : Wick → Wick) : State := s.setWk 2 (f (s.wk 2))
def withUp (s : State) (p : Prog) : State := (let s := s.setReg (aDCfg 1) 0x80090000; s.setDom 1 { s.dom 1 with prog := p })
def upsev := sevs up
def pool3 : List State := [prog up (.setv 3 (.const 9)), prog up (.setv 3 (.const 2000000)), prog up (.setv 3 (.upper 9)), prog up (.setv 3 (.time 2 9)), prog up (.setv 3 (.source 3 (.imm 0))),
 prog { up with ring := { up.ring with time := 0x123456789ABCDEF } } (.setv 3 (.source 4 (.imm 0))), w5 (prog up (.setv 3 (.source 7 (.imm 0)))) (fun x => { x with lc := 7 }), w5 (prog up (.setv 3 (.source 8 (.reg 4)))) (fun x => {x with sigs := 77}),
 prog up (.setv 3 (.source 1 (.imm 124))), prog up (.setv 3 (.source 6 (.imm 64))), prog up (.setv 3 (.source 7 (.imm 1))),
 prog upsev (.setv 3 (.source 1 (.imm 124))) 9, prog (withUp upsev .up) (.setv 3 (.source 6 (.imm 64))) 9, prog (withUp upsev .down) (.setv 3 (.source 7 (.imm 1))) 9,
 prog (up.setReg (aVal 117) 0x80018001) (.setv 3 (.source 0 (.imm 117))), prog (up.setReg (aLast 20) 0x8001F001) (.setv 3 (.source 1 (.imm 20))), prog (up.setReg (aLast 20) 0x8001F001) (.setv 3 (.source 2 (.imm 20))),
 prog (up.setReg (aLast 120) 0x8001F001) (.setv 3 (.source 2 (.imm 120))), prog (up.setReg (aLast 123) 0x8001F001) (.setv 3 (.source 2 (.imm 123))),prog (up.setReg (aLast 116) 0x8001F001) (.setv 3 (.source 1 (.imm 116))),
 prog (use up 7) (.setv 3 (.source 5 (.imm 7))), prog ((use up 7).setReg (aChFlags 7) 3) (.setv 3 (.source 6 (.imm 7)))]
end Setv

namespace RingTimes
def rg (s : State) : State := (({ s with tether := { s.tether with straps := { trole := true, taddr := 0, haddr := 0 } } }.setReg aRngCfg 0xE0000005).setReg aRngStat 0)
def timed : State := (let n := rg up; { n with ring := { n.ring with ports := n.ring.ports.set 1 { twice := List.replicate 16 1 } } })
def poolRingFrames0 : List State := [timed]
end RingTimes

namespace TetherTimes
def tt (s : State) (f : Tether → Tether) : State := { s with tether := f s.tether }
def fr (d : BitVec 4) (b : TetherBody) : TetherFrame := { dst := d, src := 0, epoch := 0, tag := 5, body := b }
def sl (s : State) (ver : BitVec 32) : State := ((tt s (fun x => { x with straps := { trole := false, taddr := 6, haddr := 0 }, heard := true, armed := false })).setReg aTthCfg 0x0406051F).setReg aTthStat (ver <<< 14)
def poolTs : List State := [sl up 0, sl up 1, sl up 2, tt (sl (up.setReg aFltFirst 0x12345) 2) (fun x => { x with dly := some 100, events := [(true, 4)], cache := List.replicate 8 (3, fr 0 .tdly) }), tt (sl up 2) (fun x => { x with cache := [(9, fr 0 .tdly)] }), tt (sl up 2) (fun x => { x with armed := true }),
  tt (sl (sevs up) 1) (fun x => { x with armed := true }), tt ((sl up 2).setReg aTthStat 0xFF00A000) (fun x => { x with armed := true }),
  (sl up 2).mapWk 2 (fun x => { x with st := .wait (.barrier false 5), deadline := some 9 }), tt ((sl up 2).mapWk 2 (fun x => { x with st := .wait (.remote false 5), hint := some 9 })) (fun x => { x with sigs := [(2, ⟨1, 3, 4⟩), (3, ⟨1, 3, 4⟩)] })]
def poolTetherSlave0 : List State := [poolTs.getD 3 State.reset]
end TetherTimes

namespace FlowMore
def w5 (s : State) (f : Wick → Wick) : State := s.mapWk 2 f
def badc : Cond := { cc := 0x11, neg := true, arg := 125 }
def pool2 : List State := [prog up (.waitc badc 3), prog up (.chk badc 9), prog (sevs up) (.pmb 3 1), prog up (.setv 3 (.source 1 (.imm 124))), prog (sevs up) (.setv 3 (.source 6 (.imm 64))), prog up (.setv 3 (.source 7 (.imm 1)))]
def live (s : State) : State := s.setReg aRngCfg 0x80000009
def rngUp : State := { (live up).setBit aRngStat 29 false with power := up.power }
def vt (s : State) : State := w5 s (fun x => { x with v := x.v.set 6 0x00001000 })
def dom1 (s : State) : State := (s.setReg (aDCfg 1) 0x80090000)
def pool4 : List State := [prog rngUp (.hitch 1 6), dom1 (prog up (.hitch 1 6)), vt (prog (own1 (dom1 up) (.host 0 1)) (.hitch 1 6)), (prog (own1 (dom1 up) (.host 0 1)) (.hitch 1 6)), vt (prog (own1 (dom1 up) (.wick 2)) (.hitch 1 6)), vt (prog (dom1 up) (.hitch 1 6)),
  vt (prog ((dom1 up).setDom 1 { queue := [5] }) (.hitch 1 6)), prog ((dom1 up).setDom 1 { queue := [5] }) (.hitch 1 6)]
def wt (s : State) (k : WaitFor) : State := w5 s (fun x => { x with st := .wait k, deadline := some 99, hint := some 77, pc := 4 })
def pool5 : List State := [w5 (wt up (.barrier true 9)) (fun x => { x with released := true}), wt up (.barrier true 9), wt up (.barrier false 9), wt up (.logger 1 2 3), wt up (.dis false [3]), wt up (.dis true [3]), wt (own1 (dom1 up) (.wick 2)) (.hitch 1),
  wt ((dom1 up).setDom 1 { queue := [3, 2, 5] }) (.hitch 1), wt (own1 (dom1 up) (.host 0 1)) (.hitch 1)]
end FlowMore

namespace RailsMore
def pT (r : Rail) (s : State) : List State :=
  let s := s.setReg (aChToff r) 0x1000009
  [ chs s r (fun x => { x with st := .on, ov := { out := false, blank := some 9 } }), chs s r (fun x => { x with st := .on, uv := { out := false, blank := some 9 } }), chs (s.setReg (aChReact r) 0x155) r (fun x => { x with st := .on, uv := { out := true, blank := some 9 } }),
   chs s r (fun x => { x with st := .on, oc := { out := true, blank := some 9 } }), chs s r (fun x => { x with st := .on, oc := { out := false, blank := some 9 } }), chs s r (fun x => { x with st := .on, leading := some 9 }), chs s r (fun x => { x with st := .on, leading := some 9, oc := { out := true, blank := some 9 } }),
   chs s r (fun x => { x with st := .falling, toff := some 99}), chs s r (fun x => { x with st := .falling, toff := some 99, uv := {out := true}}),
   (chs s r (fun x => { x with st := .retryWait, backoff := some 99, retries := 7})).setReg (aChCfg r) 0x30000010,
   chs s r (fun x => { x with st := .rising, ramp := true, started := true, uvNew := true })]
def poolChannelTimers0 : List State := pT 3 (use up 3) ++ pT 20 (use (sevs up) 20) ++ pT 20 ((use (sevs up) 20).orReg (aChCfg 20) 0x10) ++ pT 3 (use (up.setReg (aChBlank 3) 0x00010002) 3)
def seta (s : State) : State := s.setReg (aSeqSet 1 0) 0x00100008
def poolD : List State := [prog (dm up) (.en (.imm 3)), prog (dm up) (.dis (.reg 3)), prog (dm up) (.dis (.imm 3)), prog (dm up) (.disch (.imm 3)), (prog (dm up) (.marg (.imm 3) (.imm 5))), prog (seta (dm up)) (.ens 1), prog (seta (dm up)) (.diss 1), (prog ((use up 3).setReg (aChToff 3) 9) (.disch (.imm 3))),
  prog (use up 3) (.disch (.imm 3)), prog ((use up 3).setReg (aChToff 3) 9) (.disch (.imm 3)), prog (((use up 20).setReg (aChToff 20) 9).orReg (aChCfg 20) 0x10) (.disch (.imm 20)),
  prog (chs (use up 3) 3 (fun x => { x with st := .on, started := true })) (.marg (.imm 3) (.imm 5)), prog (chs (use up 3) 3 (fun x => { x with st := .on, started := true })) (.marg (.imm 3) (.imm 2047)),
  prog (chs (use (sevs up) 3) 3 (fun x => { x with st := .on, started := true })) (.marg (.imm 3) (.imm 4095)), prog (chs (use (sevs up) 3) 3 (fun x => { x with st := .on, started := true })) (.marg (.imm 3) (.imm 2048))]
end RailsMore

namespace ImagesMore
def imgS (s : State) (l : List Word) : State := (l.zipIdx.foldl (fun (s : State) (x : Word × Nat) => s.poke (0x34000 + 4 * x.2) (leBytes 4 x.1.toNat)) s)
def i1 : State := imgS (up.setReg aSeqImg 0x80000003) [1,2,3]
def i1c : State := i1.setReg aSeqImgCrc (i1.imageCrc true 3)
def halted (s : State) : State := { s with wicks := Vector.replicate 16 { st := .halted } }
def st1 : State := go (.commit .ringA false) i1
def st2 : State := go (.commit .ringA true) i1c
def st3 : State := go .commitComplete (go (.commit .ringA false) i1c)
def st4 : State := { st3 with keeper := { st3.keeper with run := none }}
def st5 : State := go .commitComplete st4
def st6 : State := go .activateDone { st5 with keeper := { st5.keeper with activating := true }}
def st7 : State := (go (.commit .ringA false) ((st6.setReg aSeqImg 2).setReg aSeqImgCrc (st6.imageCrc false 2)))
def poolI : List State := [st6, st7, go .commitComplete st7, up.setReg aLock 2, up.setReg aKpsCtl 0x40000000, up, up.setReg aSeqImg 0x80001FFF, up.setReg aSeqImg 3, i1, i1c, (halted up).setReg aSeqStat 0x20000000, up.mapWk 2 (fun x => { x with st := .run }),
  st1, st2, st3, st4, st5, (go (.commit .ringA false) i1c).setReg aKpsCtl 0x40000000, { st5 with keeper := { st5.keeper with activating := true }}]
end ImagesMore

namespace ScanMore
def sc (s : State) (f : Scan → Scan) : State := { s with scan := f s.scan }
def rawOn (s : State) : State := (s.setReg aRawCtl 0x80000005)
def fr : Frame := { words := (Vector.replicate 256 (some 0x1234)).set 250 none }
def poolT : List State := [up.setReg aTlmCtl 0x80050009, sc (up.setReg aTlmCtl 0x80050009) (fun x => { x with nextAt := some 0 }), sc (rawOn up) (fun x => { x with inFrame := true, frame := 63, nextAt := some 0 }), sc (sevs (rawOn up)) (fun x => { x with inFrame := true, frame := 6, refBad := #v[15, 3, 0], nextAt := some 0}),
 sc up (fun x => { x with burstAt := some 0, ctl := 0xC0050009}), sc (rawOn up) (fun x => { x with due := some (true, 63), prev := fr }), sc (rawOn up) (fun x => { x with due := some (false, 5), prev := fr }),
 sc (up.setReg (aFilt 3) 0x00020000) (fun x => { x with inFrame := true, ctl := 0x80000000 }), sc (up.setReg (aFilt 3) 0x00020000) (fun x => { x with inFrame := true, ctl := 0x80000000, codes := Vector.replicate 124 7 }),
 (up.setReg aRawStat 0x80000000), sc (up.setReg aRawStat 0x20000000) (fun x => { x with postLeft := 0 }), up.setReg aRawStat 0x40000000, sc (rawOn up) (fun x => { x with inFrame := true, frameTime := 0x123456789A }), (up.setReg aRawStat 0x80000000).setReg aRawCtl 0x80000000,
 up.setReg aLock 1, use (sevs up) 3]
end ScanMore

namespace BootMore
def ph (s : State) (p : Phase) (v : VinLevel := .above) : State := { s with power := { s.power with phase := p, vin := v } }
def onr (s : State) : State := chs (use s 3) 3 (fun x => { x with st := .on, started := true })
def nap (s : State) : State := { s with power := { s.power with state := .nap } }
def poolV : List State := [ph (nap (onr upV)) .run .below, ph (upV.setReg aMonVin 0x00630003) .powerFail .below, ph (upV.setReg aMonVin 0x00630003) .inputLow .below, ph (onr (upV.mapWk 2 (fun x => { x with st := .wait .time }))) .run .below, ph ((sevs (onr upV)).setReg aMonVin 0x00630001) .run .below]
def cm (s : State) : State :=
  let i1 := up.setReg aSeqImg 0x80000003
  let i1c := i1.setReg aSeqImgCrc (i1.imageCrc true 3)
  let a := go .commitComplete (go (.commit .ringA false) i1c)
  { s with sram := a.sram, shadow := a.shadow }
def poolBt : List State := [ph (cm r0) .configured, ph r0 .configured, { ph (cm r0) .locked with shadow := (cm r0).sram}, { ph (cm r0) .recalled with power := { r0.power with phase := .recalled, recalled := true }, keeper := { r0.keeper with liveMark := true, tornPage := some 4, lastEnd := some 8 } },
  { ph r0 .locked with shadow := [(0x20000, 5), (0x20101, 3), (0x3FC00, 8), (0x0403, 0x4B), (0x402, 0x50), (0x400, 1)], keeper := { r0.keeper with liveMark := true, tornPage := some 4, abandonMark := true, dirty := 7 } }]
def t1 : Transfer := { who := .tether, addr := aFltStat, write := false, size := 4, data := 3 }
def poolA : List State := [{ up with arb := { up.arb with flight := some (10, t1, 0) } }, { up with arb := { up.arb with flight := some (10, t1, 1) } }, { up with arb := { up.arb with count := 8192, reqs := up.arb.reqs.set 3 { cred := 9 } } }, { (up.setReg (aArbLive 3) 0x20100) with arb := { up.arb with count := 9000 } }]
end BootMore

namespace RingsMore
def rr (s : State) (f : Ring → Ring) : State := { s with ring := f s.ring }
def rg (s : State) : State := (({ s with tether := { s.tether with straps := { trole := true, taddr := 0, haddr := 0 } } }.setReg aRngCfg 0xE0000005).setReg aRngStat 0)
def poolRc : List State := [rr (rg up) (fun x => { x with ports := #v[{ busyTo := 0 }, { busyTo := 0, since := some 9 }] }), rr (rg up) (fun x => { x with again := [({ src := 5, dst := 255, hops := 63, seq := 4, body := .lantern lan }, 2), ({ src := 5, dst := 255, hops := 63, seq := 4, body := .lantern lan }, 1)] }), rr (rg up) (fun x => { x with due := [lan] }), (rg up).setReg aRngStat 0x60000000]
end RingsMore

namespace HostReads
def op1 (s : State) (x : Session) : State := { s with hosts := (s.hosts.set 0 { (s.hosts[0]) with sess := (s.hosts[0]).sess.set 1 x, queue := (s.hosts[0]).queue }) }
def sx : Session := { isOpen := true, ver := 3, epoch := 4, tmoAt := some 99 }
def rq0 : Request := { tag := 9, etag := 0, op := opRead, ver := 3, cursor := 0x10040004, words := [], reads := 1, got := [1,2,3,4], refusedAt := none, echo := 0x10040000, waitStore := none, payload := [], status := stOk, since := 0 }
def rsp : Response := { ver := 3, session := 1, tag := 3, op := 2, addr := 0, status := 0, payload := [1], check := [1,2] }
def qd (s : State) (p : Fin 2 := 0) : State := { s with hosts := s.hosts.set p { (s.hosts[p]) with queue := [{ rsp with session := 2}, { rsp with session := 3 }] } }
def poolHs : List State := [op1 up { sx with exec := some rq0 }, op1 (qd up) { sx with exec := some rq0 }, qd up, qd up 1]
end HostReads

namespace HostEvents
def op1 (s : State) (x : Session) : State := { s with hosts := (s.hosts.set 0 { (s.hosts[0]) with sess := (s.hosts[0]).sess.set 1 x, queue := (s.hosts[0]).queue }) }
def sx : Session := { isOpen := true, ver := 3, epoch := 4, tmoAt := some 99 }
def rq0 : Request := { tag := 9, etag := 0, op := opRead, ver := 3, cursor := 0x10040004, words := [], reads := 1, got := [1,2,3,4], refusedAt := none, echo := 0x10040000, waitStore := none, payload := [], status := stOk, since := 0 }
def evq : Request := { rq0 with op := opEvents, reads := 0, events := [aFltStat], got := [] }
def nap (s : State) (k : PowerState := .nap) : State := { s with power := { s.power with state := k } }
def poolHr : List State := [op1 up { sx with exec := some evq }, nap up]
end HostEvents

namespace WaitsMore
def w5 (s : State) (f : Wick → Wick) : State := s.mapWk 2 f
def wt (s : State) (k : WaitFor) : State := w5 s (fun x => { x with st := .wait k, deadline := some 99, hint := some 77, pc := 4 })
def slv (s : State) : State := { s with tether := { s.tether with straps := { trole := false, taddr := 5, haddr := 0 } } }
def mm (s : State) : State := { s with tether := { s.tether with straps := { trole := true, taddr := 0, haddr := 0 }, sets := [(9, 5), (7, 3)] } }
def rg (s : State) : State := (((mm s).setReg aRngCfg 0xE0000005).setReg aRngStat 0)
def rs (s : State) : State := { s with ring := { s.ring with sets := [(9, 0x21), (7, 0x22)] } }
def nw (s : State) : State := w5 s (fun x => { x with nowhere := true })
def o3 (s : State) : State := s.mapWk 3 (fun x => { x with st := .wait (.barrier false 9) })
def pool5 : List State := [nw (wt up (.barrier true 9)), nw (wt (mm up) (.barrier false 9)), wt (mm up) (.barrier false 9), wt (slv up) (.barrier false 9), wt (rs (rg up)) (.barrier true 9), wt (rs (mm up)) (.barrier true 9),
  o3 (wt (mm up) (.barrier false 9)), wt ((mm up).setReg aTthCfg 0x04000000) (.barrier false 9), w5 (wt up (.dis false [3])) (fun x => { x with logBuf := none }), wt (up) (.barrier false 9)]
end WaitsMore

namespace RequestsMore
def tow (o : Owner) (s : State) : State := s.setDom 1 { s.dom 1 with owner := o }
def w9 (s : State) (k : WickState) : State := s.mapWk 9 (fun x => { x with st := k })
def bz (s : State) : State := w9 (tow .tether (dm s)) .run
def bd (s : State) (f : Domain → Domain) : State := s.setDom 1 (f (s.dom 1))
def poolDo : List State := [bz up, bd (bz up) (fun d => { d with pendUp := true }), bd (bz up) (fun d => { d with prog := .up }), bd (bz (sevs up)) (fun d => { d with prog := .up, pendUp := true, last := 2 }), bd (bz up) (fun d => { d with prog := .down, src := 2 }),
  bd (bz up) (fun d => { d with prog := .up, next := some (.down, 2), offAt := some 0 }), bd (bz up) (fun d => { d with next := some (.down, 2), offAt := some 0 }), bd (bz up) (fun d => { d with next := some (.down, 2), offAt := none })]
end RequestsMore

namespace PowerMore
def slp (s : State) (p : PowerState) (f : Protect → Protect) : State := { s with power := { s.power with state := p, waking := true }, protect := f s.protect }
def open1 (s : State) : State := s.setSess 0 1 { s.sess 0 1 with isOpen := true, ver := 3 }
def poolPw : List State := [slp (open1 up) .nap (fun p => { p with lateClose := true }), slp (open1 up) .hibernate (fun p => { p with lateErase := true }), slp (open1 up) .doze id,
  { slp (open1 (sevs up)) .nap (fun p => { p with lateClose := true, lateErase := true }) with power := { up.power with state := .nap, waking := true, failDue := true } },
  { up.setReg aTampCfg 0x0E000000 with power := { up.power with state := .run } }, { (up.setReg aTampCfg 0x0E000000).setReg aAlarmAct 0xF with power := { up.power with state := .doze, waking := true } }]
end PowerMore

namespace IdleStates
def rg (s : State) : State := (({ s with tether := { s.tether with straps := { trole := true, taddr := 0, haddr := 0 } } }.setReg aRngCfg 0xE0000005).setReg aRngStat 0)
def rr (s : State) (f : Ring → Ring) : State := { s with ring := f s.ring }
def wtg (s : State) (b : RingBody) (bt : Nat) : State := rr s (fun r => { r with ports := r.ports.map (fun p => { p with waiting := [.own (s.rFrame 0xFF b)], busyTo := bt }) })
def poolS : List State := [State.reset, up, rr up (fun r => { r with next := some (77, true) }), rr up (fun r => { r with next := some (77, false) }), rr State.reset (fun r => { r with next := some (77, true), own := [(0, lan)] }),
  rr up (fun r => { r with own := [(0, lan)] }), rr up (fun r => { r with own := [(0, lan), (1, lan)] }), rr up (fun r => { r with own := [(1, lan)], best := some { lan with number := 7 } }),
  wtg (rg up) (.time 5 0 false) 9, wtg (rg up) (.time 5 0 false) 0, wtg (rg up) .dreq 0, wtg (rr (rg up) (fun r => { r with next := some (9, true) })) (.time 5 0 false) 0,
  { up with power := { up.power with state := .nap } }, { up with power := { up.power with state := .doze } }, { up.setReg (aChCfg 3) 0x20000000 with power := { up.power with state := .nap, since := 5 } }, { chs (use up 3) 3 (fun x => { x with st := .rising }) with power := { up.power with state := .nap } }]
end IdleStates

namespace More
def logE : LogEntry := { source := 0x166, sev := 2, time := 0, dom := none, conseq := false, injected := false, duringDown := false, merged := false }
def lateE : LogEntry := { logE with time := 5 }
def opened : State := { up.setReg aLogIdx 0x8000 with faults := { up.faults with queue := [lateE, logE, logE] } }
def dozing : State := { up with power := { up.power with state := .doze } }
def stored : State := { State.reset with regs := [(aSeqLive, 5)], pending := [.nop 3] }
end More

theorem test_hypotheses_StepIdle :
    ∃ s : State, s.pending = [] :=
  ⟨(at_ IdleStates.poolS 0), by decide +kernel⟩

theorem test_hypotheses_StepKeepsCanonical :
    ∃ s t : State, s.Canonical ∧ step s = .next t :=
  ⟨More.stored, _, by unfold More.stored; constructor <;> decide, rfl⟩

theorem test_hypotheses_ShadowAndImageKept :
    ∃ (c : Instr) (s t : State), c.loadsOrStores = false ∧ exec c s = .next t :=
  ⟨.nop 3, up, _, rfl, rfl⟩

theorem test_hypotheses_FabricCommandsKeepTheRest :
    ∃ (c : Instr) (s t : State), c.staysInFabric = true ∧ exec c s = .next t :=
  ⟨.nop 3, up, _, rfl, rfl⟩

theorem test_hypotheses_TornumRoundTrip :
    ∃ o : Op, o.legal = true :=
  ⟨.loop (.imm 8191) 4095, by decide⟩

theorem test_hypotheses_TornumWords :
    ∃ op : Fin 64, 0x1C ≤ op.val :=
  ⟨0x1C, by decide⟩

theorem test_hypotheses_ControlFlow :
    (∃ s : State, ∃ w : WickId, s.current w = some .nop)
    ∧ (∃ s : State, ∃ w : WickId, ∃ x : Ref (Fin 4096), s.current w = some (.jmp x))
    ∧ (∃ s : State, ∃ w : WickId, ∃ c : Cond, ∃ off : Fin 1024, s.current w = some (.chk c off) ∧ c.badOperand =
      false)
    ∧ (∃ s : State, ∃ w : WickId, ∃ x : Ref (Fin 4096), s.current w = some (.call x) ∧ (s.wk w).stack.length < 4)
    ∧ (∃ s : State, ∃ w : WickId, ∃ a : BitVec 12, ∃ l : List (BitVec 12), s.current w = some .ret ∧ (s.wk w).stack =
      a :: l)
    ∧ (∃ s : State, ∃ w : WickId, ∃ n : Ref (Fin 8192), ∃ e : Fin 4096, s.current w = some (.loop n e) ∧ (s.wk w).lc
      = 0 ∧ (s.wk w).pc.toNat + 1 ≤ e.val ∧ e.val < s.liveLen ∧ endBarred (s.imemWord e.val) = false) :=
  ⟨⟨(at_ Flow.poolControlFlow0 0), 2, by decide +kernel⟩,
    ⟨(at_ Flow.poolControlFlow0 3), 2, (.imm 9), by decide +kernel⟩,
    ⟨(at_ Flow.poolControlFlow0 6), 2, ({ cc := 0, neg := false, arg := 0 }), 9, by decide +kernel⟩,
    ⟨(at_ Flow.poolControlFlow0 8), 2, (.imm 9), by decide +kernel⟩,
    ⟨(at_ Flow.poolControlFlow0 9), 2, 7, ([0x8#12]), by decide +kernel⟩,
    ⟨(at_ Flow.poolControlFlow0 10), 2, (.imm 3), 9, by decide +kernel⟩⟩

theorem test_hypotheses_PlainInstructions :
    (∃ s : State, ∃ w : WickId, ∃ code : Fin 256, ∃ vr : Fin 8, s.current w = some (.log code vr))
    ∧ (∃ s : State, ∃ w : WickId, ∃ u : Fin 4, ∃ n : Fin 16777216, s.current w = some (.sleephint u n))
    ∧ (∃ s : State, ∃ w : WickId, ∃ u : Fin 4, ∃ n : Fin 16777216, s.current w = some (.wait u n)) :=
  ⟨⟨(at_ Waits.pool1 0), 2, 200, 3, by decide +kernel⟩,
    ⟨(at_ Waits.pool1 2), 2, 1, 9, by decide +kernel⟩,
    ⟨(at_ Waits.pool1 4), 2, 2, 9, by decide +kernel⟩⟩

theorem test_hypotheses_HaltAndFaults :
    (∃ s : State, ∃ w : WickId, s.progOf w = none ∧ ∃ x, s.current w = some (.call x) ∧ 4 ≤ (s.wk w).stack.length)
    ∧ (∃ s : State, ∃ w : WickId, s.progOf w = none ∧ s.current w = some .ret ∧ (s.wk w).stack = [])
    ∧ (∃ s : State, ∃ w : WickId, s.progOf w = none ∧ ∃ n, ∃ e : Fin 4096, s.current w = some (.loop n e) ∧ ((s.wk
      w).lc ≠ 0 ∨ e.val < (s.wk w).pc.toNat + 1 ∨ s.liveLen ≤ e.val ∨ endBarred (s.imemWord e.val) = true))
    ∧ (∃ s : State, ∃ w : WickId, s.progOf w = none ∧ ∃ c, ∃ v, s.current w = some (.waitc c v) ∧ c.badOperand = true)
    ∧ (∃ s : State, ∃ w : WickId, s.progOf w = none ∧ ∃ c, ∃ o, s.current w = some (.chk c o) ∧ c.badOperand = true)
    ∧ (∃ s : State, ∃ w : WickId, s.progOf w = none ∧ ∃ p, s.current w = some (.tlm p) ∧ 124 ≤ s.operand w 7 p)
    ∧ (∃ s : State, ∃ w : WickId, s.progOf w = none ∧ ∃ vd : Fin 8, ∃ k : Fin 32, ∃ a : Ref (Fin 32768), s.current w
      = some (.setv vd (.source k a)) ∧ (k.val < 3 ∧ 124 ≤ s.operand w 32 a ∨ (k = 5 ∨ k = 6) ∧ 64 ≤ s.operand w 32 a
      ∨ (k = 3 ∨ k = 4 ∨ k = 7 ∨ k = 8) ∧ s.operand w 32 a ≠ 0))
    ∧ (∃ s : State, ∃ w : WickId, s.progOf w = none ∧ ∃ k, ∃ v, s.current w = some (.pmb k v) ∧ s.bit (aPmbt k) 31 =
      false)
    ∧ (∃ s : State, ∃ w : WickId, s.progOf w = none ∧ s.mayIssue w = true ∧ s.liveLen ≤ (s.wk w).pc.toNat)
    ∧ (∃ s : State, ∃ w : WickId, s.progOf w = none ∧ s.mayIssue w = true ∧ (s.wk w).pc.toNat < s.liveLen ∧ decodeOp
      (s.imemWord (s.wk w).pc.toNat) = none)
    ∧ (∃ s : State, ∃ w : WickId, s.current w = some .halt ∧ s.progOf w = none) :=
  ⟨⟨(at_ Waits.pool2 0), 2, by decide +kernel, (.imm 9), by decide +kernel⟩,
    ⟨(at_ Waits.pool2 1), 2, by decide +kernel⟩,
    ⟨(at_ Waits.pool2 2), 2, by decide +kernel, (.imm 9), 9, by decide +kernel⟩,
    ⟨(at_ FlowMore.pool2 0), 2, by decide +kernel, ({ cc := 17, neg := true, arg := 125 }), 3, by decide +kernel⟩,
    ⟨(at_ FlowMore.pool2 1), 2, by decide +kernel, ({ cc := 17, neg := true, arg := 125 }), 9, by decide +kernel⟩,
    ⟨(at_ Waits.pool2 6), 2, by decide +kernel, (.imm 127), by decide +kernel⟩,
    ⟨(at_ FlowMore.pool2 3), 2, by decide +kernel, 3, 1, (.imm 124), by decide +kernel⟩,
    ⟨(at_ FlowMore.pool2 2), 2, by decide +kernel, 3, 1, by decide +kernel⟩,
    ⟨(at_ Waits.pool2 7), 2, by decide +kernel⟩,
    ⟨(at_ Waits.pool2 9), 2, by decide +kernel⟩,
    ⟨(at_ Waits.pool2 10), 2, by decide +kernel⟩⟩

theorem test_hypotheses_SetvRule :
    (∃ s : State, ∃ w : WickId, ∃ vd : Fin 8, ∃ i : Fin 2097152, s.current w = some (.setv vd (.const i)))
    ∧ (∃ s : State, ∃ w : WickId, ∃ vd : Fin 8, ∃ i : Fin 2048, s.current w = some (.setv vd (.upper i)))
    ∧ (∃ s : State, ∃ w : WickId, ∃ vd : Fin 8, ∃ u : Fin 4, ∃ n : Fin 524288, s.current w = some (.setv vd (.time u
      n)))
    ∧ (∃ s : State, ∃ w : WickId, ∃ vd : Fin 8, ∃ k : Fin 32, ∃ a : Ref (Fin 32768), ∃ v : Word, s.current w = some
      (.setv vd (.source k a)) ∧ s.operand w 32 a = 0 ∧ ((k = 3 ∧ v = BitVec.ofNat 32 (s.ring.time.toNat % 2 ^ 32) ∨
      k = 4 ∧ v = BitVec.ofNat 32 (s.ring.time.toNat / 2 ^ 32) ∨ k = 7 ∧ v = BitVec.ofNat 32 (s.wk w).lc.toNat ∨ k =
      8 ∧ v = BitVec.ofNat 32 (s.wk w).sigs.toNat)))
    ∧ (∃ s : State, ∃ w : WickId, ∃ vd : Fin 8, ∃ k : Fin 32, ∃ a : Ref (Fin 32768), ∃ v : Word, s.current w = some
      (.setv vd (.source k a)) ∧ s.operand w 32 a < 64 ∧ ((k = 5 ∧ v = s.chState (Fin.ofNat 64 (s.operand w 32 a)) ∨
      k = 6 ∧ v = s.chFlags (Fin.ofNat 64 (s.operand w 32 a)))))
    ∧ (∃ s : State, ∃ w : WickId, ∃ vd : Fin 8, ∃ k : Fin 32, ∃ a : Ref (Fin 32768), ∃ p : Nat, ∃ v : BitVec 16,
      s.current w = some (.setv vd (.source k a)) ∧ s.operand w 32 a = p ∧ p < 124 ∧ ((k = 0 ∧ v = (s.reg (aVal
      p)).extractLsb' 0 16 ∨ k = 1 ∧ v = (s.reg (aLast p)).extractLsb' 0 16 ∨ k = 2 ∧ v = (s.reg (aLast
      p)).extractLsb' 16 16)))
    ∧ (∃ s : State, ∃ w : WickId, ∃ vd : Fin 8, ∃ k : Fin 32, ∃ a : Ref (Fin 32768), s.current w = some (.setv vd
      (.source k a)) ∧ ((k.val < 3 ∧ 124 ≤ s.operand w 32 a ∨ (k = 5 ∨ k = 6) ∧ 64 ≤ s.operand w 32 a ∨ (k = 3 ∨ k =
      4 ∨ k = 7 ∨ k = 8) ∧ s.operand w 32 a ≠ 0))) :=
  ⟨⟨(at_ Setv.pool3 0), 2, 3, 9, by decide +kernel⟩,
    ⟨(at_ Setv.pool3 2), 2, 3, 9, by decide +kernel⟩,
    ⟨(at_ Setv.pool3 3), 2, 3, 2, 9, by decide +kernel⟩,
    ⟨(at_ Setv.pool3 4), 2, 3, 3, (.imm 0), 0x0, by decide +kernel⟩,
    ⟨(at_ Setv.pool3 20), 2, 3, 5, (.imm 7), 0x0, by decide +kernel⟩,
    ⟨(at_ Setv.pool3 14), 2, 3, 0, (.imm 117), 117, 0x8001, by decide +kernel⟩,
    ⟨(at_ Setv.pool3 8), 2, 3, 1, (.imm 124), by decide +kernel⟩⟩

theorem test_hypotheses_WaitingInstructions :
    (∃ s : State, ∃ w : WickId, ∃ c : Cond, ∃ v : Fin 8, s.current w = some (.waitc c v) ∧ c.badOperand = false)
    ∧ (∃ s : State, ∃ w : WickId, ∃ m : Fin 65536, ∃ all : Bool, ∃ v : Fin 8, s.current w = some (.wsig m all v))
    ∧ (∃ s : State, ∃ w : WickId, ∃ d : DomId, ∃ v : Fin 8, s.current w = some (.hitch d v) ∧ ((s.takesPart d = false
      ∨ s.pwick d = w)))
    ∧ (∃ s : State, ∃ w : WickId, ∃ d : DomId, ∃ v : Fin 8, s.current w = some (.hitch d v) ∧ s.takesPart d = true ∧
      s.pwick d ≠ w ∧ (s.dom d).owner = .none ∧ (s.dom d).queue = [])
    ∧ (∃ s : State, ∃ w : WickId, ∃ d : DomId, ∃ v : Fin 8, s.current w = some (.hitch d v) ∧ s.takesPart d = true ∧
      s.pwick d ≠ w ∧ (¬ ((s.dom d).owner = .none ∧ (s.dom d).queue = [])) ∧ s.owns (.wick w) d = true)
    ∧ (∃ s : State, ∃ w : WickId, ∃ d : DomId, ∃ v : Fin 8, s.current w = some (.hitch d v) ∧ s.takesPart d = true ∧
      s.pwick d ≠ w ∧ (¬ ((s.dom d).owner = .none ∧ (s.dom d).queue = [])) ∧ s.owns (.wick w) d = false ∧ s.vtime w v
      < 16)
    ∧ (∃ s : State, ∃ w : WickId, ∃ d : DomId, ∃ v : Fin 8, s.current w = some (.hitch d v) ∧ s.takesPart d = true ∧
      s.pwick d ≠ w ∧ (¬ ((s.dom d).owner = .none ∧ (s.dom d).queue = [])) ∧ s.owns (.wick w) d = false ∧ 16 ≤
      s.vtime w v)
    ∧ (∃ s : State, ∃ w : WickId, ∃ sc : Fin 4, ∃ id : Fin 256, ∃ v : Fin 8, s.current w = some (.sync sc id v) ∧
      ((sc = 1 ∧ s.tBarriers = false ∨ sc = 2 ∧ s.ringLive = false))) :=
  ⟨⟨(at_ Waits.pool4 0), 2, ({ cc := 0, neg := false, arg := 0 }), 3, by decide +kernel⟩,
    ⟨(at_ Waits.pool4 4), 2, 0, true, 3, by decide +kernel⟩,
    ⟨(at_ Waits.pool4 10), 2, 1, 6, by decide +kernel⟩,
    ⟨(at_ Waits.pool4 11), 2, 1, 6, by decide +kernel⟩,
    ⟨(at_ Waits.pool4 14), 2, 1, 6, by decide +kernel⟩,
    ⟨(at_ FlowMore.pool4 3), 2, 1, 6, by decide +kernel⟩,
    ⟨(at_ Waits.pool4 13), 2, 1, 6, by decide +kernel⟩,
    ⟨(at_ Waits.pool4 15), 2, 1, 9, 6, by decide +kernel⟩⟩

theorem test_hypotheses_WaitEnds :
    (∃ s : State, ∃ w : WickId, s.mayEnd w = true ∧ (s.wk w).st = .wait .time)
    ∧ (∃ s : State, ∃ w : WickId, s.mayEnd w = true ∧ ∃ cc, ∃ neg, ∃ arg, (s.wk w).st = .wait (.cond cc neg arg) ∧
      s.test w cc.toNat arg.toNat = !neg)
    ∧ (∃ s : State, ∃ w : WickId, s.mayEnd w = true ∧ ∃ cc, ∃ neg, ∃ arg, (s.wk w).st = .wait (.cond cc neg arg) ∧
      s.test w cc.toNat arg.toNat = neg)
    ∧ (∃ s : State, ∃ w : WickId, s.mayEnd w = true ∧ ∃ m, ∃ all, (s.wk w).st = .wait (.flags m all) ∧ (s.wk
      w).sigTest m all = true)
    ∧ (∃ s : State, ∃ w : WickId, s.mayEnd w = true ∧ ∃ m, ∃ all, (s.wk w).st = .wait (.flags m all) ∧ (s.wk
      w).sigTest m all = false)
    ∧ (∃ s : State, ∃ w : WickId, s.mayEnd w = true ∧ ∃ d, (s.wk w).st = .wait (.hitch d) ∧ s.owns (.wick w) d = true)
    ∧ (∃ s : State, ∃ w : WickId, s.mayEnd w = true ∧ ∃ d, (s.wk w).st = .wait (.hitch d) ∧ s.owns (.wick w) d =
      false)
    ∧ (∃ s : State, ∃ w : WickId, s.mayEnd w = true ∧ ∃ ring, ∃ id, (s.wk w).st = .wait (.barrier ring id) ∧ (s.wk
      w).released = true)
    ∧ (∃ s : State, ∃ w : WickId, s.mayEnd w = true ∧ ∃ ring, ∃ id, (s.wk w).st = .wait (.barrier ring id) ∧ (s.wk
      w).released = false ∧ (((s.wk w).nowhere = true ∨ ∃ u, u ≠ w ∧ u ∈ s.atBarrier ring id)))
    ∧ (∃ s : State, ∃ w : WickId, s.mayEnd w = true ∧ ∃ ring, ∃ id, (s.wk w).st = .wait (.barrier ring id) ∧ (s.wk
      w).released = false ∧ (s.wk w).nowhere = false ∧ ((∀ u, u ≠ w → u ∉ s.atBarrier ring id)))
    ∧ (∃ s : State, ∃ w : WickId, s.mayEnd w = true ∧ ∃ c, ∃ v, ∃ time, (s.wk w).st = .wait (.logger c v time) ∧
      (s.wk w).logBuf = none)
    ∧ (∃ s : State, ∃ w : WickId, s.mayEnd w = true ∧ ∃ thr, ∃ l, (s.wk w).st = .wait (.dis thr l) ∧ ((thr = true → ∀
      r ∈ l, (s.ch r).st ≠ .falling))) :=
  ⟨⟨(at_ Waits.pool5 0), 2, by decide +kernel⟩,
    ⟨(at_ Waits.pool5 1), 2, by decide +kernel, 0, false, 0, by decide +kernel⟩,
    ⟨(at_ Waits.pool5 2), 2, by decide +kernel, 0, true, 0, by decide +kernel⟩,
    ⟨(at_ Waits.pool5 4), 2, by decide +kernel, 9, true, by decide +kernel⟩,
    ⟨(at_ Waits.pool5 3), 2, by decide +kernel, 9, true, by decide +kernel⟩,
    ⟨(at_ Waits.pool5 5), 2, by decide +kernel, 1, by decide +kernel⟩,
    ⟨(at_ Waits.pool5 6), 2, by decide +kernel, 1, by decide +kernel⟩,
    ⟨(at_ Waits.pool5 7), 2, by decide +kernel, true, 9, by decide +kernel⟩,
    ⟨(at_ WaitsMore.pool5 0), 2, by decide +kernel, true, 9, by decide +kernel⟩,
    ⟨(at_ FlowMore.pool5 1), 2, by decide +kernel, true, 9, by decide +kernel⟩,
    ⟨(at_ FlowMore.pool5 3), 2, by decide +kernel, 1, 2, 3, by decide +kernel⟩,
    ⟨(at_ Waits.pool5 9), 2, by decide +kernel, false, ([3]), by decide +kernel⟩⟩

theorem test_hypotheses_WickCommands :
    (∃ s : State, ∃ w : WickId, s.serves = true ∧ ∃ a : BitVec 12, s.progOf w = none ∧ (s.wk w).st ∈ [WickState.idle,
      .halted, .fault] ∧ a.toNat < s.liveLen)
    ∧ (∃ s : State, ∃ w : WickId, s.serves = true ∧ ∃ a : BitVec 12, ((s.progOf w ≠ none ∨ (s.wk w).st ∉
      [WickState.idle, .halted, .fault] ∨ s.liveLen ≤ a.toNat)))
    ∧ (∃ s : State, ∃ w : WickId, s.serves = true ∧ s.progOf w = none ∧ (s.wk w).st ∉ [WickState.idle, .halted,
      .fault])
    ∧ (∃ s : State, ∃ w : WickId, s.serves = true ∧ s.progOf w = none ∧ (s.wk w).st ∈ [WickState.idle, .halted,
      .fault])
    ∧ (∃ s : State, ∃ w : WickId, s.serves = true ∧ s.progOf w ≠ none)
    ∧ (∃ s : State, s.serves = true)
    ∧ (∃ s : State, ∃ w : WickId, (s.wk w).stop = true ∧ (s.wk w).st = .run ∧ s.progOf w = none ∧ ((∀ d, (s.dom
      d).next = none)))
    ∧ (∃ s : State, ∃ w : WickId, ∃ d : DomId, (s.wk w).stop = true ∧ (s.wk w).st = .run ∧ s.pwick d = w ∧
      s.takesPart d = true ∧ (s.dom d).next = some (.down, 0) ∧ (s.dom d).prog = .up ∧ ((∀ e, e ≠ d → (s.dom e).next
      = none)) ∧ ((∀ e, s.dependsOn e d = false)) ∧ ((∀ r ∈ s.railsOf d, (s.ch r).st ≠ .retryWait ∧ (s.ch r).pend =
      false))) :=
  ⟨⟨(at_ Waits.pool6 0), 0, by decide +kernel, 0, by decide +kernel⟩,
    ⟨(at_ Waits.pool6 0), 0, by decide +kernel, 4095, by decide +kernel⟩,
    ⟨(at_ Waits.pool6 1), 2, by decide +kernel⟩,
    ⟨(at_ Waits.pool6 0), 0, by decide +kernel⟩,
    ⟨(at_ Waits.pool6 2), 9, by decide +kernel⟩,
    ⟨(at_ Waits.pool6 0), by decide +kernel⟩,
    ⟨(at_ Rails.poolB 0), 2, by decide +kernel⟩,
    ⟨(at_ Rails.poolB 2), 2, 1, by decide +kernel⟩⟩

theorem test_hypotheses_VoltageWindows :
    (∃ s : State, ∃ r : Rail, s.use r = true ∧ s.isolated (bankOv r) = false ∧ (s.ch r).ov.out = false ∧ (s.ch
      r).ov.blank = none ∧ (s.ch r).st ∈ [RailState.rising, .on, .margined, .falling, .retryWait])
    ∧ (∃ s : State, ∃ r : Rail, s.use r = true ∧ s.isolated (bankOv r) = false ∧ (s.ch r).ov.out = false ∧ (s.ch
      r).ov.blank = none ∧ (s.ch r).st = .off)
    ∧ (∃ s : State, ∃ r : Rail, s.use r = true ∧ s.isolated (bankOv r) = false ∧ ∃ active, ∃ e, (s.ch r).ov.out ≠
      active ∧ (s.ch r).ov.blank = some e)
    ∧ (∃ s : State, ∃ r : Rail, s.use r = true ∧ s.isolated (bankOv r) = false ∧ (s.ch r).ov.out = true ∧ (s.ch
      r).ov.blank = none ∧ (s.ch r).st = .on)
    ∧ (∃ s : State, ∃ r : Rail, s.use r = true ∧ s.isolated (bankUv r) = false ∧ s.power.state ≠ .hibernate ∧ (s.ch
      r).uv.blank = none ∧ (s.ch r).uv.out = false ∧ (s.ch r).st = .on ∧ s.reactOf r .uv ≠ 0)
    ∧ (∃ s : State, ∃ r : Rail, s.use r = true ∧ s.isolated (bankUv r) = false ∧ s.power.state ≠ .hibernate ∧ (s.ch
      r).uv.blank = none ∧ (s.ch r).uv.out = false ∧ (s.ch r).st = .on ∧ s.reactOf r .uv = 0 ∧ (s.ch r).ov.blank =
      none)
    ∧ (∃ s : State, ∃ r : Rail, s.use r = true ∧ s.isolated (bankUv r) = false ∧ s.power.state ≠ .hibernate ∧ (s.ch
      r).uv.blank = none ∧ (s.ch r).uv.out = true ∧ (s.ch r).st = .rising ∧ (s.ch r).ov.blank = none ∧ (s.ch
      r).ov.out = false ∧ (s.ch r).ramp = false ∧ (s.ch r).pmbw = false)
    ∧ (∃ s : State, ∃ r : Rail, s.use r = true ∧ s.isolated (bankUv r) = false ∧ s.power.state ≠ .hibernate ∧ (s.ch
      r).uv.blank = none ∧ (s.ch r).uv.out = false ∧ (s.ch r).st = .falling ∧ (s.ch r).pend = false) :=
  ⟨⟨(at_ Crossings.poolVoltageWindows0 3), 3, by decide +kernel⟩,
    ⟨(at_ Crossings.poolVoltageWindows0 0), 3, by decide +kernel⟩,
    ⟨(at_ Crossings.poolVoltageWindows0 2), 3, by decide +kernel, by decide +kernel, false, 9, by decide +kernel⟩,
    ⟨(at_ Crossings.poolVoltageWindows0 7), 3, by decide +kernel⟩,
    ⟨(at_ Crossings.poolVoltageWindows0 59), 3, by decide +kernel⟩,
    ⟨(at_ Crossings.poolVoltageWindows0 6), 3, by decide +kernel⟩,
    ⟨(at_ Pmbus.poolVoltageWindows0 0), 3, by decide +kernel⟩,
    ⟨(at_ Crossings.poolVoltageWindows0 12), 3, by decide +kernel⟩⟩

theorem test_hypotheses_OverCurrent :
    (∃ s : State, ∃ r : Rail, s.use r = true ∧ isExt r = false ∧ s.isolated 2 = false ∧ s.power.state ≠ .hibernate ∧
      (s.ch r).oc.out = false ∧ (s.ch r).oc.blank = none ∧ (s.ch r).leading = none ∧ s.bit (aChOc r) 12 = true ∧
      (s.ch r).st ∈ [RailState.rising, .on])
    ∧ (∃ s : State, ∃ r : Rail, s.use r = true ∧ isExt r = false ∧ s.isolated 2 = false ∧ s.power.state ≠ .hibernate
      ∧ (s.ch r).oc.out = false ∧ (s.ch r).oc.blank = none ∧ (s.ch r).leading = none ∧ s.bit (aChOc r) 12 = false ∧
      (s.ch r).st = .on ∧ (s.ch r).started = true ∧ (s.ch r).cycTrip = false ∧ ((s.fld (aOcRun (r / 4)) (8 * (r % 4)
      + 7) (8 * (r % 4)) = 0 ∨ (s.ch r).ocRun + 1 < s.fld (aOcRun (r / 4)) (8 * (r % 4) + 7) (8 * (r % 4)))))
    ∧ (∃ s : State, ∃ r : Rail, isExt r = false ∧ (s.ch r).started = true ∧ (s.ch r).st = .on ∧ (s.ch r).oc.out =
      false)
    ∧ (∃ s : State, ∃ n : Fin 16, ∃ high : Bool, ∃ active : Bool, s.powered = true ∧ s.isolated (if high then 9 else
      10) = false ∧ ((high = true → s.auxRail n = none)) ∧ (if high then (s.aux[n]).high else (s.aux[n]).low) ≠
      active ∧ ((high = false → active = true → s.fld (aMonAux n) 9 0 ≠ 0))) :=
  ⟨⟨(at_ Current.poolOverCurrent0 0), 3, by decide +kernel⟩,
    ⟨(at_ Current.poolOverCurrent0 1), 3, by decide +kernel⟩,
    ⟨(at_ Current.poolOverCurrent0 0), 3, by decide +kernel⟩,
    ⟨(at_ Current.poolOverCurrent0 0), 3, true, true, by decide +kernel⟩⟩

theorem test_hypotheses_ChannelTimers :
    (∃ s : State, ∃ r : Rail, s.use r = true ∧ (s.ch r).st = .rising ∧ (s.ch r).ton ≠ none)
    ∧ (∃ s : State, ∃ r : Rail, s.use r = true ∧ (s.ch r).st = .falling ∧ (s.ch r).toff ≠ none ∧ (s.ch r).pend =
      false ∧ (s.ch r).uv.out = false ∧ (s.ch r).uv.blank = none ∧ (s.ch r).uvNew = false ∧ s.fld (aChToff r) 23 0 ≠
      0)
    ∧ (∃ s : State, ∃ r : Rail, s.use r = true ∧ (s.ch r).st = .discharging ∧ (s.ch r).toff ≠ none ∧ (s.ch r).pend =
      false)
    ∧ (∃ s : State, ∃ r : Rail, s.use r = true ∧ (s.ch r).st = .discharging ∧ (s.ch r).toff ≠ none ∧ (s.ch r).pend =
      true)
    ∧ (∃ s : State, ∃ r : Rail, s.use r = true ∧ (s.ch r).st = .retryWait ∧ (s.ch r).backoff ≠ none ∧ (s.ch r).ov.out
      = false ∧ (s.ch r).uv.out = false ∧ s.ocAct r = false ∧ (s.ch r).uv.blank = none ∧ (s.ch r).uvNew = false ∧
      s.bit (aChCfg r) 4 = true ∧ s.fld (aChToff r) 23 0 ≠ 0)
    ∧ (∃ s : State, ∃ r : Rail, s.use r = true ∧ (s.ch r).stable ≠ none)
    ∧ (∃ s : State, ∃ r : Rail, s.use r = true ∧ (s.ch r).st = .rising ∧ (s.ch r).ramp = true ∧ (s.ch r).uv.blank =
      none ∧ (s.ch r).uvNew = false ∧ (s.ch r).ov.blank = none ∧ (s.ch r).ov.out = false ∧ (s.ch r).uv.out = false ∧
      (s.ch r).pmbw = false)
    ∧ (∃ s : State, ∃ r : Rail, ∃ e : Nat, s.use r = true ∧ (s.ch r).st = .on ∧ (s.ch r).ov.blank = some e ∧
      s.isolated (bankOv r) = false)
    ∧ (∃ s : State, ∃ r : Rail, ∃ e : Nat, s.use r = true ∧ (s.ch r).st = .on ∧ (s.ch r).uv.blank = some e ∧
      s.isolated (bankUv r) = false ∧ s.reactOf r .uv ≠ 0)
    ∧ (∃ s : State, ∃ r : Rail, ∃ e : Nat, s.use r = true ∧ (s.ch r).st = .on ∧ (s.ch r).uv.blank = some e ∧
      s.isolated (bankUv r) = false)
    ∧ (∃ s : State, ∃ r : Rail, ∃ e : Nat, s.use r = true ∧ (s.ch r).st = .on ∧ isExt r = false ∧ s.isolated 2 =
      false ∧ (s.ch r).oc.blank = some e)
    ∧ (∃ s : State, ∃ r : Rail, ∃ e : Nat, s.use r = true ∧ (s.ch r).st = .on ∧ isExt r = false ∧ s.isolated 2 =
      false ∧ (s.ch r).leading = some e) :=
  ⟨⟨(at_ Crossings.poolChannelTimers1 0), 3, by decide +kernel⟩,
    ⟨(at_ Crossings.poolChannelTimers1 1), 3, by decide +kernel⟩,
    ⟨(at_ Crossings.poolChannelTimers1 2), 3, by decide +kernel⟩,
    ⟨(at_ Crossings.poolChannelTimers1 4), 3, by decide +kernel⟩,
    ⟨(at_ Crossings.poolChannelTimers1 5), 3, by decide +kernel⟩,
    ⟨(at_ Crossings.poolChannelTimers1 6), 3, by decide +kernel⟩,
    ⟨(at_ Crossings.poolChannelTimers1 7), 3, by decide +kernel⟩,
    ⟨(at_ Crossings.poolChannelTimers1 8), 3, 9, by decide +kernel⟩,
    ⟨(at_ RailsMore.poolChannelTimers0 2), 3, 9, by decide +kernel⟩,
    ⟨(at_ RailsMore.poolChannelTimers0 1), 3, 9, by decide +kernel⟩,
    ⟨(at_ RailsMore.poolChannelTimers0 3), 3, 9, by decide +kernel⟩,
    ⟨(at_ RailsMore.poolChannelTimers0 5), 3, 9, by decide +kernel⟩⟩

theorem test_hypotheses_PmbusAndMarginSlews :
    (∃ s : State, ∃ p : Fin 4, ∃ r : Rail, ∃ l : List Rail, s.pollList p = r :: l ∧ s.awake = true ∧ s.ports[p].pass
      = false ∧ s.ports[p].cur = none ∧ s.ports[p].queue = [])
    ∧ (∃ s : State, ∃ p : Fin 4, ∃ r : Rail, ∃ l : List Rail, s.pollList p = r :: l ∧ s.awake = true ∧
      s.ports[p].pass = true)
    ∧ (∃ s : State, ∃ p : Fin 4, ∃ r : Rail, ∃ i : Fin 3, ∃ tx : PmbTx, s.ports[p].cur = some tx ∧ tx.owner = .poll r
      i.castSucc ∧ tx.cmd ≠ 0x79 ∧ s.awake = true ∧ r ∈ s.pollList p ∧ tx.addr = s.pmbAddr r)
    ∧ (∃ s : State, ∃ p : Fin 4, ∃ r : Rail, ∃ tx : PmbTx, s.ports[p].cur = some tx ∧ tx.owner = .poll r 3 ∧ s.awake
      = true ∧ r ∈ s.pollList p ∧ tx.addr = s.pmbAddr r)
    ∧ (∃ s : State, ∃ p : Fin 4, ∃ w : WickId, ∃ read : Bool, ∃ vr : Fin 8, ∃ tx : PmbTx, s.ports[p].cur = some tx ∧
      tx.owner = .template w read vr ∧ (s.wk w).st = .wait .pmbus ∧ s.boundRail p tx.addr = none)
    ∧ (∃ s : State, ∃ r : Rail, (s.ch r).slew = true ∧ (s.ch r).slewAt ≠ none ∧ s.pmbPath r = false ∧ (s.ch r).path +
      (if isExt r then 16 else 1) < s.step r)
    ∧ (∃ s : State, ∃ r : Rail, (s.ch r).slew = true ∧ (s.ch r).slewAt ≠ none ∧ s.pmbPath r = false ∧ s.step r + (if
      isExt r then 16 else 1) < (s.ch r).path)
    ∧ (∃ s : State, ∃ r : Rail, (s.ch r).slew = true ∧ (s.ch r).slewAt ≠ none ∧ s.pmbPath r = false ∧ s.step r = 0 ∧
      (s.ch r).st = .margined ∧ ((s.ch r).path = 1 ∨ (s.ch r).path = -1))
    ∧ (∃ s : State, ∃ r : Rail, (s.ch r).slew = true ∧ (s.ch r).slewAt ≠ none ∧ s.pmbPath r = true ∧ s.step r ≠ 0)
    ∧ (∃ s : State, ∃ r : Rail, s.use r = true ∧ (s.ch r).pmbw = true ∧ s.preambleLeft r = false ∧ (s.ch r).st =
      .rising ∧ isExt r = true ∧ s.blankLen r ≠ 0 ∧ (s.ch r).pg = false) :=
  ⟨⟨(at_ PmbusMore.poolPmbusAndMarginSlews0 0), 1, 20, ([21]), by decide +kernel⟩,
    ⟨(at_ Pmbus.poolPmbusAndMarginSlews1 4), 1, 20, ([21]), by decide +kernel⟩,
    ⟨(at_ Pmbus.poolPmbusAndMarginSlews1 2), 1, 20, 0,
      ({ owner := PmbOwner.poll 20 0, addr := 0xa#7, cmd := 0x8b#8, data := 0x0#16 }), by decide +kernel⟩,
    ⟨(at_ Pmbus.poolPmbusAndMarginSlews1 3), 1, 20,
      ({ owner := PmbOwner.poll 20 3, addr := 0xa#7, cmd := 0x79#8, data := 0x0#16 }), by decide +kernel⟩,
    ⟨(at_ Pmbus.poolPmbusAndMarginSlews1 5), 1, 2, true, 3,
      ({ owner := PmbOwner.template 2 true 3, addr := 0xa#7, cmd := 0x79#8, data := 0x0#16 }), by decide +kernel⟩,
    ⟨(at_ Pmbus.poolPmbusAndMarginSlews1 8), 3, by decide +kernel⟩,
    ⟨(at_ Pmbus.poolPmbusAndMarginSlews1 9), 3, by decide +kernel⟩,
    ⟨(at_ Pmbus.poolPmbusAndMarginSlews1 10), 3, by decide +kernel⟩,
    ⟨(at_ Pmbus.poolPmbusAndMarginSlews1 16), 20, by decide +kernel⟩,
    ⟨(at_ Pmbus.poolPmbusAndMarginSlews1 17), 20, by decide +kernel⟩⟩

theorem test_hypotheses_ChannelWrites :
    (∃ s : State, ∃ r : Rail, s.serves = true ∧ (s.ch r).st = .on ∧ (s.ch r).ov.out = false ∧ (s.ch r).uv.out = false
      ∧ s.ocAct r = false)
    ∧ (∃ s : State, ∃ r : Rail, ∃ v : Word, ∃ hw : Word, s.serves = true ∧ (s.ch r).st = .tripped ∧ (s.ch r).trip = 1
      ∧ (s.ch r).ov.out = false ∧ (s.ch r).uv.out = false ∧ s.ocAct r = false ∧ (s.ch r).uv.blank = none ∧ (s.ch
      r).uvNew = false ∧ v.getLsbD 3 = true ∧ hw.getLsbD 3 = false ∧ s.fld (aChToff r) 23 0 ≠ 0)
    ∧ (∃ s : State, ∃ who : Who, ∃ r : Rail, ∃ v : Word, s.serves = true ∧ s.use r = true ∧ (s.ch r).st = .on ∧
      s.pmbPath r = false ∧ v.getLsbD 30 = false ∧ s.bit (aChMargin r) 30 = false ∧ v.getLsbD 31 = s.bit (aChMargin
      r) 31 ∧ sgn 12 (wfld v 11 0) ≠ s.step r ∧ s.stepOk r false (sgn 12 (wfld v 11 0)) = true ∧ s.stepRight who r =
      true)
    ∧ (∃ s : State, ∃ who : Who, ∃ r : Rail, ∃ v : Word, s.serves = true ∧ sgn 12 (wfld v 11 0) ≠ s.step r ∧
      (s.stepRight who r = false ∨ s.stepOk r (isExt r && v.getLsbD 30) (sgn 12 (wfld v 11 0)) = false)) :=
  ⟨⟨(at_ Pmbus.poolC 0), 3, by decide +kernel⟩,
    ⟨(at_ PmbusMore.poolC 0), 3, 4294967295, 0, by decide +kernel⟩,
    ⟨(at_ Pmbus.poolC 0), (.host 0 1), 3, 1, by decide +kernel⟩,
    ⟨(at_ Pmbus.poolC 0), (.host 0 1), 3, 305419896, by decide +kernel⟩⟩

theorem test_hypotheses_SelfTestRuns :
    (∃ s : State, ∃ b : Fin 11, s.bit aStCtl 31 = true ∧ s.dueBank = some b.val ∧ s.bit aStStat 31 = false ∧ s.awake
      = true ∧ s.skipTurn b = false)
    ∧ (∃ s : State, s.bit aStStat 31 = true ∧ s.selfTest.phase < 11)
    ∧ (∃ s : State, ∃ out : BitVec 16, s.bit aStStat 31 = true ∧ s.selfTest.phase = 11 ∧ s.testBank < 11 ∧ ((∀ i,
      s.cmpUsed s.testBank i = true → s.cmpOut s.testBank i = out.getLsbD i.val ∧ s.selfTest.pre.getLsbD i.val =
      out.getLsbD i.val))) :=
  ⟨⟨(at_ Pmbus.poolS 0), 0, by decide +kernel⟩,
    ⟨(at_ Pmbus.poolS 2), by decide +kernel⟩,
    ⟨(at_ Pmbus.poolS 6), 0, by decide +kernel⟩⟩

theorem test_hypotheses_DischargeAndMargin :
    (∃ s : State, ∃ w : WickId, ∃ r : Rail, s.hasRight w r = false ∧ ∃ a, s.current w = some (.en a) ∧ s.railOf w a =
      r)
    ∧ (∃ s : State, ∃ w : WickId, ∃ r : Rail, s.hasRight w r = false ∧ ∃ a, s.current w = some (.dis a) ∧ s.railOf w
      a = r)
    ∧ (∃ s : State, ∃ w : WickId, ∃ r : Rail, s.hasRight w r = false ∧ ∃ a, s.current w = some (.disch a) ∧ s.railOf
      w a = r)
    ∧ (∃ s : State, ∃ w : WickId, ∃ r : Rail, s.hasRight w r = false ∧ ∃ a, ∃ b, s.current w = some (.marg a b) ∧
      s.railOf w a = r)
    ∧ (∃ s : State, ∃ w : WickId, ∃ r : Rail, s.hasRight w r = false ∧ ∃ k, s.current w = some (.ens k) ∧ r ∈
      s.setRails k)
    ∧ (∃ s : State, ∃ w : WickId, ∃ r : Rail, s.hasRight w r = false ∧ ∃ k, s.current w = some (.diss k) ∧ r ∈
      s.setRails k)
    ∧ (∃ s : State, ∃ w : WickId, ∃ a : Ref Rail, ∃ r : Rail, s.current w = some (.disch a) ∧ s.railOf w a = r ∧
      s.hasRight w r = true ∧ s.use r = true ∧ (s.ch r).st = .off ∧ (s.ch r).uv.out = false ∧ (s.ch r).uv.blank =
      none ∧ (s.ch r).uvNew = false ∧ s.fld (aChToff r) 23 0 ≠ 0)
    ∧ (∃ s : State, ∃ w : WickId, ∃ a : Ref Rail, ∃ b : Ref (Fin 4096), ∃ r : Rail, ∃ v : Int, s.current w = some
      (.marg a b) ∧ s.railOf w a = r ∧ sgn 12 (s.operand w 12 b) = v ∧ s.hasRight w r = true ∧ (s.ch r).st = .on ∧
      s.use r = true ∧ s.pmbPath r = false ∧ s.stepOk r false v = true ∧ v ≠ s.step r)
    ∧ (∃ s : State, ∃ w : WickId, ∃ a : Ref Rail, ∃ b : Ref (Fin 4096), ∃ r : Rail, ∃ v : Int, s.current w = some
      (.marg a b) ∧ s.railOf w a = r ∧ sgn 12 (s.operand w 12 b) = v ∧ s.hasRight w r = true ∧ (s.ch r).st = .on ∧
      s.stepOk r (s.pmbPath r) v = false) :=
  ⟨⟨(at_ Rails.poolD 0), 2, 3, by decide +kernel, (.imm 3), by decide +kernel⟩,
    ⟨(at_ RailsMore.poolD 2), 2, 3, by decide +kernel, (.imm 3), by decide +kernel⟩,
    ⟨(at_ RailsMore.poolD 3), 2, 3, by decide +kernel, (.imm 3), by decide +kernel⟩,
    ⟨(at_ Rails.poolD 2), 2, 3, by decide +kernel, (.imm 3), (.imm 5), by decide +kernel⟩,
    ⟨(at_ Rails.poolD 3), 2, 3, by decide +kernel, 1, by decide +kernel⟩,
    ⟨(at_ RailsMore.poolD 6), 2, 3, by decide +kernel, 1, by decide +kernel⟩,
    ⟨(at_ Rails.poolD 4), 2, (.imm 3), 3, by decide +kernel⟩,
    ⟨(at_ Rails.poolD 5), 2, (.imm 3), (.imm 5), 3, 5, by decide +kernel⟩,
    ⟨(at_ Rails.poolD 6), 2, (.imm 3), (.imm 2047), 3, 2047, by decide +kernel⟩⟩

theorem test_hypotheses_EnableAndDisable :
    (∃ s : State, ∃ w : WickId, s.downOf w = none ∧ ∃ a, s.current w = some (.en a) ∧ s.mayEnable w (s.railOf w a))
    ∧ (∃ s : State, ∃ w : WickId, s.downOf w = none ∧ ∃ k, s.current w = some (.ens k) ∧ ((∀ r ∈ s.setRails k,
      s.mayEnable w r)))
    ∧ (∃ s : State, ∃ w : WickId, s.downOf w = none ∧ ∃ a, s.current w = some (.dis a) ∧ s.mayDisable w (s.railOf w
      a))
    ∧ (∃ s : State, ∃ w : WickId, s.downOf w = none ∧ ∃ k, s.current w = some (.diss k) ∧ ((∀ r ∈ s.setRails k,
      s.mayDisable w r)))
    ∧ (∃ s : State, ∃ w : WickId, ∃ a : Ref Rail, ∃ d : DomId, ∃ e : DomId, ∃ r : Rail, s.current w = some (.dis a) ∧
      s.railOf w a = r ∧ s.downOf w = some d ∧ s.hasRight w r = true ∧ s.domOf r = some e ∧ s.use r = true ∧ (s.ch
      r).st = .on) :=
  ⟨⟨(at_ Rails.poolE 0), 2, by decide +kernel, (.imm 3), by decide +kernel, by unfold State.mayEnable; decide +kernel⟩,
    ⟨(at_ Rails.poolE 2), 2, by decide +kernel, 1, by decide +kernel, by unfold State.mayEnable; decide +kernel⟩,
    ⟨(at_ Rails.poolE 3), 2, by decide +kernel, (.imm 3), by decide +kernel, by unfold State.mayDisable; decide +kernel⟩,
    ⟨(at_ Rails.poolE 4), 2, by decide +kernel, 1, by decide +kernel, by unfold State.mayDisable; decide +kernel⟩,
    ⟨(at_ Rails.poolE 5), 9, (.imm 3), 1, 1, 3, by decide +kernel⟩⟩

theorem test_hypotheses_OtherWickCommands :
    (∃ s : State, ∃ w : WickId, ∃ tw : WickId, ∃ nd : Fin 64, ∃ n : Fin 16, s.current w = some (.sig 0 nd tw n))
    ∧ (∃ s : State, ∃ w : WickId, ∃ tw : WickId, ∃ nd : Fin 64, ∃ n : Fin 16, s.current w = some (.sig 1 nd tw n) ∧
      nd.val < 16 ∧ nd.val = s.taddr.toNat)
    ∧ (∃ s : State, ∃ w : WickId, ∃ tw : WickId, ∃ nd : Fin 64, ∃ n : Fin 16, s.current w = some (.sig 1 nd tw n) ∧
      nd.val < 16 ∧ nd.val ≠ s.taddr.toNat ∧ s.slave = true)
    ∧ (∃ s : State, ∃ w : WickId, ∃ tw : WickId, ∃ nd : Fin 64, ∃ n : Fin 16, s.current w = some (.sig 1 nd tw n) ∧
      nd.val < 16 ∧ nd.val ≠ s.taddr.toNat ∧ s.slave = false ∧ s.tMaster = true ∧ s.present (Fin.ofNat 16 nd.val) =
      true ∧ s.slvVer (Fin.ofNat 16 nd.val) = 2)
    ∧ (∃ s : State, ∃ w : WickId, ∃ tw : WickId, ∃ nd : Fin 64, ∃ n : Fin 16, s.current w = some (.sig 1 nd tw n) ∧
      nd.val < 16 ∧ nd.val ≠ s.taddr.toNat ∧ s.slave = false ∧ (s.tMaster = false ∨ s.present (Fin.ofNat 16 nd.val) =
      false ∨ s.slvVer (Fin.ofNat 16 nd.val) ≠ 2))
    ∧ (∃ s : State, ∃ w : WickId, ∃ tw : WickId, ∃ nd : Fin 64, ∃ n : Fin 16, s.current w = some (.sig 2 nd tw n) ∧
      s.ringLive = false)
    ∧ (∃ s : State, ∃ w : WickId, ∃ tw : WickId, ∃ nd : Fin 64, ∃ n : Fin 16, s.current w = some (.sig 2 nd tw n) ∧
      s.ringLive = true ∧ nd.val = s.node.toNat)
    ∧ (∃ s : State, ∃ w : WickId, ∃ tw : WickId, ∃ nd : Fin 64, ∃ n : Fin 16, s.current w = some (.sig 2 nd tw n) ∧
      s.ringLive = true ∧ nd.val ≠ s.node.toNat ∧ ((∀ b, s.idlePort b)))
    ∧ (∃ s : State, ∃ w : WickId, ∃ d : DomId, s.current w = some (.unhitch d) ∧ s.owns (.wick w) d = false)
    ∧ (∃ s : State, ∃ w : WickId, ∃ d : DomId, s.current w = some (.unhitch d) ∧ s.owns (.wick w) d = true ∧ (s.dom
      d).queue = [])
    ∧ (∃ s : State, ∃ w : WickId, ∃ d : DomId, s.current w = some (.unhitch d) ∧ ∃ v, ∃ l, s.owns (.wick w) d = true
      ∧ s.takesPart d = true ∧ (s.dom d).queue = v :: l ∧ v ≠ w)
    ∧ (∃ s : State, ∃ w : WickId, ∃ p : Ref (Fin 128), ∃ q : Point, s.current w = some (.tlm p) ∧ s.operand w 7 p =
      q.val ∧ s.scan.queue = [] ∧ s.scan.running ≠ none ∧ s.scan.waiting = [] ∧ s.lhBusy = false)
    ∧ (∃ s : State, ∃ w : WickId, ∃ act : Fin 4, ∃ k : Fin 8, s.current w = some (.rsto act k) ∧ act ≠ 3)
    ∧ (∃ s : State, ∃ w : WickId, ∃ k : Fin 32, ∃ vr : Fin 8, ∃ p : Fin 4, s.current w = some (.pmb k vr) ∧ s.bit
      (aPmbt k) 31 = true ∧ s.fld (aPmbt k) 30 29 = p.val)
    ∧ (∃ (s : State) (w : WickId) (act : Fin 4) (k : Fin 8) (who : Who) (v hw : Word) (u : State), s.current w = some
      (.rsto act k) ∧ s.serves = true ∧ exec (.registerWrite who aRstOvr v hw) s = .next u) :=
  ⟨⟨(at_ RailsWick.poolW 0), 2, 3, 0, 9, by decide +kernel⟩,
    ⟨(at_ RailsWick.poolW 11), 2, 3, 0, 9, by decide +kernel⟩,
    ⟨(at_ RailsWick.poolW 14), 2, 3, 0, 9, by decide +kernel⟩,
    ⟨(at_ RailsWick.poolW 10), 2, 3, 5, 9, by decide +kernel⟩,
    ⟨(at_ RailsWick.poolW 9), 2, 3, 5, 9, by decide +kernel⟩,
    ⟨(at_ RailsWick.poolW 16), 2, 3, 0, 9, by decide +kernel⟩,
    ⟨(at_ RailsWick.poolW 17), 2, 3, 5, 9, by decide +kernel⟩,
    ⟨(at_ RailsWick.poolW 18), 2, 3, 40, 9, by decide +kernel, by decide +kernel, by decide +kernel,
      by unfold State.idlePort; decide +kernel⟩,
    ⟨(at_ RailsWick.poolW 2), 2, 1, by decide +kernel⟩,
    ⟨(at_ RailsWick.poolW 3), 2, 1, by decide +kernel⟩,
    ⟨(at_ RailsWick.poolW 4), 2, 1, by decide +kernel, 3, ([9]), by decide +kernel⟩,
    ⟨(at_ RailsWick.poolW 26), 2, (.imm 3), 3, by decide +kernel⟩,
    ⟨(at_ RailsWick.poolW 6), 2, 2, 1, by decide +kernel⟩,
    ⟨(at_ RailsWick.poolW 20), 2, 3, 2, 1, by decide +kernel⟩,
    ⟨prog up (.rsto 1 3), 2, 1, 3, .tether, 5, 0, _, by decide +kernel, by decide +kernel, rfl⟩⟩

theorem test_hypotheses_Images :
    (∃ s : State, s.serves = true ∧ (s.lockProg = true ∨ s.fld aKpsCtl 31 30 ≠ 0))
    ∧ (∃ s : State, s.serves = true ∧ s.lockProg = false ∧ s.fld aKpsCtl 31 30 = 0 ∧ ((s.fld aSeqImg 12 0 = 0 ∨ 4096
      < s.fld aSeqImg 12 0)))
    ∧ (∃ s : State, s.serves = true ∧ s.lockProg = false ∧ s.fld aKpsCtl 31 30 = 0 ∧ 0 < s.fld aSeqImg 12 0 ∧ s.fld
      aSeqImg 12 0 ≤ 4096 ∧ s.bit aSeqImg 31 = s.bit aSeqLive 31)
    ∧ (∃ s : State, s.serves = true ∧ s.lockProg = false ∧ s.fld aKpsCtl 31 30 = 0 ∧ 0 < s.fld aSeqImg 12 0 ∧ s.fld
      aSeqImg 12 0 ≤ 4096 ∧ s.bit aSeqImg 31 ≠ s.bit aSeqLive 31)
    ∧ (∃ s : State, s.serves = true ∧ s.lockProg = false ∧ ((∀ w, (s.wk w).st = .halted)) ∧ s.bit aSeqStat 29 = true)
    ∧ (∃ s : State, s.serves = true ∧ ∃ w, s.lockProg = false ∧ (s.wk w).st = .run)
    ∧ (∃ s : State, ∃ k : Fin 2, ∃ n : Nat, ∃ crc : Word, ∃ ver : Word, s.keeper.commit = true ∧ s.keeper.img = (k,
      n, crc, ver) ∧ s.fabricOn = true ∧ s.keeper.commitStore = none ∧ s.imageCrc (k == 1) n ≠ crc)
    ∧ (∃ s : State, ∃ k : Fin 2, ∃ n : Nat, ∃ crc : Word, ∃ ver : Word, s.keeper.commit = true ∧ s.keeper.img = (k,
      n, crc, ver) ∧ s.fabricOn = true ∧ s.keeper.commitStore = none ∧ s.imageCrc (k == 1) n = crc ∧ s.keeper.locked
      = false ∧ s.bpCovers (cmtBase false) = true)
    ∧ (∃ s : State, ∃ k : Fin 2, ∃ n : Nat, ∃ crc : Word, ∃ ver : Word, s.keeper.commit = true ∧ s.keeper.img = (k,
      n, crc, ver) ∧ s.fabricOn = true ∧ s.keeper.commitStore = none ∧ s.imageCrc (k == 1) n = crc ∧ s.keeper.locked
      = false ∧ s.bpCovers (cmtBase false) = false ∧ s.keeper.run = none)
    ∧ (∃ s : State, ∃ k : Fin 2, ∃ n : Nat, ∃ crc : Word, ∃ ver : Word, s.keeper.commit = true ∧ s.keeper.img = (k,
      n, crc, ver) ∧ s.fabricOn = true ∧ ∃ m, s.keeper.commitStore = some m ∧ s.keeper.commitAct = false ∧ (m <
      s.keeper.number ∨ (m = s.keeper.number ∧ s.keeper.run = none)))
    ∧ (∃ s : State, ∃ b : Bool, s.keeper.activating = true ∧ s.fabricOn = true ∧ s.cmtChoice.copy? = some b) :=
  ⟨⟨(at_ ImagesMore.poolI 3), by decide +kernel⟩,
    ⟨(at_ ImagesMore.poolI 5), by decide +kernel⟩,
    ⟨(at_ ImagesMore.poolI 0), by decide +kernel⟩,
    ⟨(at_ ImagesMore.poolI 1), by decide +kernel⟩,
    ⟨(at_ ImagesMore.poolI 10), by decide +kernel⟩,
    ⟨(at_ ImagesMore.poolI 11), by decide +kernel, 2, by decide +kernel⟩,
    ⟨(at_ ImagesMore.poolI 12), 1, 3, 0x0, 0x0, by decide +kernel⟩,
    ⟨(at_ ImagesMore.poolI 17), 1, 3, 0xb0e02293, 0x0, by decide +kernel⟩,
    ⟨(at_ ImagesMore.poolI 1), 0, 2, 0x6522df69, 0x0, by decide +kernel⟩,
    ⟨(at_ ImagesMore.poolI 15), 1, 3, 0xb0e02293, 0x0, by decide +kernel, by decide +kernel, by decide +kernel, 1,
      by decide +kernel⟩,
    ⟨(at_ ImagesMore.poolI 18), false, by decide +kernel⟩⟩

theorem test_hypotheses_TelemetryCommands :
    (∃ s : State, s.awake = true ∧ s.power.state = .run ∧ s.onGrid = true ∧ s.scan.due = none ∧ s.scan.inFrame =
      false ∧ s.bit aTlmCtl 31 = true ∧ s.bit aTlmCtl 30 = false)
    ∧ (∃ s : State, s.awake = true ∧ s.power.state = .run ∧ s.onGrid = true ∧ s.scan.due = none ∧ s.scan.inFrame =
      true ∧ s.scan.frameDoze = false ∧ s.scan.frameBoot = false ∧ s.bit aRawCtl 31 = true ∧ s.bit aRawStat 29 =
      false ∧ ((∀ i : Fin 3, s.scan.refBad[i] < 16)))
    ∧ (∃ s : State, ∃ b : Nat, ∃ c : Word, s.scan.burstAt = some b ∧ b ≤ s.cycle ∧ s.cycle < b + 100000 * wfld
      s.scan.ctl 15 0 ∧ c = (if s.scan.nextAt.all (fun k => k ≤ s.cycle) then s.reg aTlmCtl else s.scan.ctl))
    ∧ (∃ s : State, ∃ p : Point, s.scans = true ∧ s.bit aStStat 31 = false ∧ s.scan.inFrame = true ∧
      s.scan.cur.words[p.val]? = some none ∧ p ≠ 112 ∧ p ≠ 114 ∧ p ≠ 115 ∧ p.val ≠ 96 + s.fld aRsvCfg 22 19)
    ∧ (∃ s : State, ∃ half : Bool, ∃ f : Nat, s.scan.due = some (half, f) ∧ f < 64 ∧ s.bit aRawCtl 31 = true ∧
      s.power.phase = .run ∧ s.power.state = .run)
    ∧ (∃ s : State, s.serves = true ∧ s.bit aRawStat 29 = false ∧ s.bit aRawStat 30 = false)
    ∧ (∃ s : State, s.serves = true ∧ ((s.bit aRawStat 29 = true ∨ s.bit aRawStat 30 = true)))
    ∧ (∃ s : State, s.serves = true ∧ s.bit aRawStat 29 = true ∧ s.scan.postLeft = 0 ∧ s.scan.due = none)
    ∧ (∃ s : State, s.serves = true ∧ s.bit aRawStat 29 = false)
    ∧ (∃ s : State, s.serves = true ∧ s.bit aRawStat 29 = true)
    ∧ (∃ s : State, s.serves = true ∧ ∃ p : BitVec 7, p.toNat < 124)
    ∧ (∃ s : State, s.serves = true ∧ ∃ p : BitVec 7, 124 ≤ p.toNat)
    ∧ (∃ s : State, s.serves = true)
    ∧ (∃ s : State, s.serves = true ∧ ∃ v : Word, s.lockCfg = false ∧ wfld v 19 16 ≤ 10)
    ∧ (∃ s : State, s.serves = true ∧ s.lockCfg = false)
    ∧ (∃ s : State, s.serves = true ∧ s.lockCfg = true) :=
  ⟨⟨(at_ Scan.poolT 0), by decide +kernel⟩,
    ⟨(at_ Scan.poolT 1), by decide +kernel⟩,
    ⟨(at_ ScanMore.poolT 4), 0, 0x0, by decide +kernel⟩,
    ⟨(at_ Scan.poolT 1), 0, by decide +kernel⟩,
    ⟨(at_ ScanMore.poolT 5), true, 63, by decide +kernel⟩,
    ⟨(at_ Scan.poolT 0), by decide +kernel⟩,
    ⟨(at_ Scan.poolT 6), by decide +kernel⟩,
    ⟨(at_ Scan.poolT 6), by decide +kernel⟩,
    ⟨(at_ Scan.poolT 0), by decide +kernel⟩,
    ⟨(at_ Scan.poolT 6), by decide +kernel⟩,
    ⟨(at_ Scan.poolT 0), by decide +kernel, 0, by decide +kernel⟩,
    ⟨(at_ Scan.poolT 0), by decide +kernel, 127, by decide +kernel⟩,
    ⟨(at_ Scan.poolT 0), by decide +kernel⟩,
    ⟨(at_ Scan.poolT 0), by decide +kernel, 0, by decide +kernel⟩,
    ⟨(at_ Scan.poolT 0), by decide +kernel⟩,
    ⟨(at_ Scan.poolT 9), by decide +kernel⟩⟩

theorem test_hypotheses_LoopHealth :
    (∃ s : State, ∃ r : Rail, s.bit aLhCtl 31 = true ∧ s.lhBusy = false ∧ s.awake = true ∧ s.lhNext = some r.val ∧
      (s.ch r).st = .on ∧ s.pmbPath r = false ∧ s.use r = true)
    ∧ (∃ s : State, ∃ uv : Int, s.lhBusy = true ∧ s.fld aLhStat 24 23 = 1 ∧ isExt s.lhRail = true ∧ s.lh.calDone =
      false ∧ 3 * (s.vset s.lhRail : Int) ≤ 2 * uv ∧ 2 * uv ≤ 5 * (s.vset s.lhRail : Int))
    ∧ (∃ s : State, ∃ uv : Int, s.lhBusy = true ∧ s.fld aLhStat 24 23 = 1 ∧ isExt s.lhRail = true ∧ s.lh.calDone =
      false ∧ ((2 * uv < 3 * (s.vset s.lhRail : Int) ∨ 5 * (s.vset s.lhRail : Int) < 2 * uv)) ∧ 3 ≤ s.lh.rounds)
    ∧ (∃ s : State, s.lhBusy = true ∧ s.fld aLhStat 24 23 = 1 ∧ s.lh.calDone = true)
    ∧ (∃ s : State, s.lhBusy = true ∧ ∃ k : Nat, ∃ x : LhRun, ∃ high : Bool, s.fld aLhStat 24 23 = 2 ∧ s.lh.toggleAt
      = some k ∧ k ≤ s.cycle ∧ s.lh.runs.getLast? = some x ∧ high = (if s.bit aLhCtl 30 then (prbsNext
      s.lh.prbs).getLsbD 6 else !x.high))
    ∧ (∃ s : State, s.lhBusy = true ∧ s.fld aLhStat 24 23 = 2)
    ∧ (∃ s : State, s.lhBusy = true ∧ s.fld aLhStat 24 23 = 3)
    ∧ (∃ s : State, s.serves = true ∧ s.fld aKpsCtl 31 30 = 0 ∧ s.keeper.locked = false) :=
  ⟨⟨(at_ Loops.poolLoopHealth0 0), 3, by decide +kernel⟩,
    ⟨(at_ Loops.poolLoopHealth0 8), 2000, by decide +kernel⟩,
    ⟨(at_ Loops.poolLoopHealth0 13), 0, by decide +kernel⟩,
    ⟨(at_ Loops.poolLoopHealth0 1), by decide +kernel⟩,
    ⟨(at_ Loops.poolLoopHealth0 3), by decide +kernel, 0, ({ high := true, volts := [], amps := [] }), false,
      by decide +kernel⟩,
    ⟨(at_ Loops.poolLoopHealth0 3), by decide +kernel⟩,
    ⟨(at_ Loops.poolLoopHealth0 5), by decide +kernel⟩,
    ⟨(at_ Loops.poolLoopHealth0 0), by decide +kernel⟩⟩

theorem test_hypotheses_Charger :
    (∃ s : State, ∃ mv : Nat, ∃ c : ChgState, s.calm ∧ 2000 ≤ mv ∧ mv ≤ s.vov ∧ (((s.reserve.chg = .wait ∧ mv <
      s.vpre ∧ c = .pre) ∨ (s.reserve.chg = .wait ∧ s.vpre ≤ mv ∧ mv + s.vrch < s.vcv ∧ c = .cc) ∨ (s.reserve.chg =
      .wait ∧ s.vpre ≤ mv ∧ s.vcv ≤ mv + s.vrch ∧ c = .full) ∨ (s.reserve.chg = .pre ∧ s.vpre ≤ mv ∧ c = .cc) ∨
      (s.reserve.chg = .pre ∧ mv < s.vpre ∧ c = .pre) ∨ (s.reserve.chg = .cc ∧ s.vcv ≤ mv ∧ c = .cv) ∨ (s.reserve.chg
      = .cc ∧ mv < s.vcv ∧ c = .cc) ∨ (s.reserve.chg = .full ∧ mv + s.vrch < s.vcv ∧ c = .cc) ∨ (s.reserve.chg =
      .full ∧ s.vcv ≤ mv + s.vrch ∧ c = .full))))
    ∧ (∃ s : State, s.calm ∧ s.reserve.present = true ∧ s.reserve.chg = .cv)
    ∧ (∃ s : State, s.reserve.rest = false ∧ s.bit aRsvCfg 23 = false ∧ s.chgEn = true ∧ s.reserve.chg = .pre)
    ∧ (∃ s : State, s.reserve.rest = false ∧ s.bit aRsvCfg 23 = false ∧ s.chgEn = true ∧ s.reserve.chg ∈
      [ChgState.pre, .cc, .cv])
    ∧ (∃ s : State, s.reserve.rest = false ∧ s.bit aRsvCfg 23 = false ∧ s.chgEn = true ∧ s.reserve.chg ∈
      [ChgState.cc, .cv])
    ∧ (∃ s : State, s.reserve.rest = false ∧ s.bit aRsvCfg 23 = false ∧ s.chgEn = true ∧ s.reserve.chg ≠ .off)
    ∧ (∃ s : State, s.reserve.rest = false ∧ s.bit aRsvCfg 23 = false ∧ s.rsvEn = true ∧ s.chgEn = false ∧
      s.reserve.chg = .off)
    ∧ (∃ s : State, ∃ v : Word, ∃ hw : Word, s.serves = true ∧ s.calm ∧ s.reserve.chg = .fault ∧ s.reserve.overV =
      false ∧ s.reg aRsvFlags &&& ~~~(v &&& ~~~hw &&& 0x7FFF) &&& faultFlags = 0) :=
  ⟨⟨(at_ Pack.poolG 2), 2000, ChgState.pre, by unfold State.calm; decide +kernel, by decide +kernel⟩,
    ⟨(at_ Pack.poolG 18), by unfold State.calm; decide +kernel, by decide +kernel⟩,
    ⟨(at_ Pack.poolG 4), by decide +kernel⟩,
    ⟨(at_ Pack.poolG 4), by decide +kernel⟩,
    ⟨(at_ Pack.poolG 6), by decide +kernel⟩,
    ⟨(at_ Pack.poolG 2), by decide +kernel⟩,
    ⟨(at_ Pack.poolG 19), by decide +kernel⟩,
    ⟨(at_ Pack.poolG 14), 0, 0, by decide +kernel, by unfold State.calm; decide +kernel, by decide +kernel⟩⟩

theorem test_hypotheses_OringPair :
    (∃ s : State, s.bit aRsvCfg 23 = false ∧ s.oringEn = true ∧ s.rsvBlock = false ∧ s.reserve.orOn = false)
    ∧ (∃ s : State, s.bit aRsvCfg 23 = false ∧ s.reserve.orOn = true)
    ∧ (∃ s : State, s.bit aRsvCfg 23 = false ∧ s.reserve.rest = false ∧ s.reserve.ilimAt ≠ none)
    ∧ (∃ s : State, s.bit aRsvCfg 23 = false ∧ s.reserve.rest = false ∧ s.oringEn = true)
    ∧ (∃ s : State, ∃ b : Bool, s.reserve.orOn = true ∧ s.reserve.ilim ≠ b ∧ s.fld aRsvOring 15 8 ≠ 0)
    ∧ (∃ s : State, s.reserve.rearmAt ≠ none)
    ∧ (∃ s : State, s.serves = true)
    ∧ (∃ s : State, s.serves = true ∧ s.bit aRsvCfg 23 = false ∧ s.reserve.rest = false ∧ s.oringEn = true)
    ∧ (∃ s : State, s.oringEn = true)
    ∧ (∃ s : State, s.reserve.ilimAt ≠ none) :=
  ⟨⟨(at_ Pack.poolO 0), by decide +kernel⟩,
    ⟨(at_ Pack.poolO 2), by decide +kernel⟩,
    ⟨(at_ Pack.poolO 3), by decide +kernel⟩,
    ⟨(at_ Pack.poolO 0), by decide +kernel⟩,
    ⟨(at_ Pack.poolO 2), true, by decide +kernel⟩,
    ⟨(at_ Pack.poolO 3), by decide +kernel⟩,
    ⟨(at_ Pack.poolO 0), by decide +kernel⟩,
    ⟨(at_ Pack.poolO 0), by decide +kernel⟩,
    ⟨(at_ Pack.poolO 0), by decide +kernel⟩,
    ⟨(at_ Pack.poolO 3), by decide +kernel⟩⟩

theorem test_hypotheses_ReserveEstimator :
    (∃ s : State, s.serves = true ∧ s.lockCfg = true)
    ∧ (∃ s : State, s.serves = true ∧ s.lockCfg = false)
    ∧ (∃ s : State, s.serves = true ∧ s.lockCfg = false ∧ s.keeper.locked = false)
    ∧ (∃ s : State, ∃ v : Word, s.serves = true ∧ s.lockCfg = false ∧ v.getLsbD 31 = false ∧ s.bit aEstCfg 31 = false
      ∧ 9000 ≤ wfld v 29 16 ∧ wfld v 29 16 ≤ 10000 ∧ 1 ≤ wfld v 15 0)
    ∧ (∃ s : State, s.estEn = true ∧ s.power.phase ≠ .run)
    ∧ (∃ s : State, s.estEn = true ∧ s.power.phase = .run ∧ s.fabricOn = true)
    ∧ (∃ s : State, s.estEn = true ∧ s.power.phase = .run ∧ s.asleep = true ∧ s.fabricOn = false)
    ∧ (∃ s : State, s.reserve.rest = true)
    ∧ (∃ s : State, s.estEn = true ∧ s.power.phase = .run ∧ s.fabricOn = true ∧ s.keeper.locked = false)
    ∧ (∃ s : State, s.rsvEn = true ∧ s.reserve.supply = true ∧ s.reserve.learn = false ∧ s.reserve.rest = false ∧
      s.bit aRsvCfg 23 = false) :=
  ⟨⟨(at_ Pack.poolEs 3), by decide +kernel⟩,
    ⟨(at_ Pack.poolEs 0), by decide +kernel⟩,
    ⟨(at_ Pack.poolEs 0), by decide +kernel⟩,
    ⟨(at_ Pack.poolEs 4), 589824100, by decide +kernel⟩,
    ⟨(at_ Pack.poolEs 2), by decide +kernel⟩,
    ⟨(at_ Pack.poolEs 0), by decide +kernel⟩,
    ⟨(at_ Pack.poolEs 12), by decide +kernel⟩,
    ⟨(at_ Pack.poolEs 8), by decide +kernel⟩,
    ⟨(at_ Pack.poolEs 0), by decide +kernel⟩,
    ⟨(at_ Pack.poolEs 9), by decide +kernel⟩⟩

theorem test_hypotheses_StoreController :
    (∃ s : State, s.serves = true ∧ s.keeper.locked = false ∧ s.keeper.run = none)
    ∧ (∃ s : State, s.serves = true ∧ s.keeper.locked = true)
    ∧ (∃ s : State, s.autosaveAt ≠ none ∧ s.fabricOn = true ∧ s.keeper.dirty ≠ 0 ∧ s.keeper.locked = false ∧
      s.keeper.run = none)
    ∧ (∃ s : State, s.autosaveAt ≠ none ∧ s.fabricOn = true ∧ s.keeper.dirty = 0)
    ∧ (∃ s : State, ∃ j : StoreRun, ∃ k : Nat, ∃ b : Bool, ∃ l : List (Nat × Bool), s.fabricOn = true ∧ s.keeper.run
      = some j ∧ j.ready = false ∧ j.kind = .store ∧ j.cur = none ∧ j.waitRewrite = false ∧ j.left = (k, b) :: l ∧ (b
      || s.dirty k) = true ∧ k ≠ 240 ∧ s.emberPage ≠ some k)
    ∧ (∃ s : State, ∃ j : StoreRun, ∃ k : Nat, ∃ cells : List Host.Cell, s.fabricOn = true ∧ s.keeper.run = some j ∧
      j.cur = some (k, cells) ∧ j.left = [] ∧ j.kind ≠ .powerFail)
    ∧ (∃ s : State, ∃ j : StoreRun, s.fabricOn = true ∧ s.storeFinished = some j ∧ j.kind ≠ .powerFail ∧
      s.keeper.pending = [] ∧ ((∀ p i, (s.sess p i).exec = none))) :=
  ⟨⟨(at_ Keeping.poolK 0), by decide +kernel⟩,
    ⟨(at_ Keeping.poolK 2), by decide +kernel⟩,
    ⟨(at_ Keeping.poolK 0), by decide +kernel⟩,
    ⟨(at_ Keeping.poolK 1), by decide +kernel⟩,
    ⟨(at_ Keeping.poolK 8),
      ({ kind := StoreKind.store, ready := false, left := [(4, false), (9, true)], cur := none, written := 0, startAt := 0, pass1 := false, pass2 := false, waitRewrite := false }),
      4, false, ([(9, true)]), by decide +kernel⟩,
    ⟨(at_ Keeping.poolK 12),
      ({ kind := StoreKind.store, ready := true, left := [], cur := some (4, [(4101, 0x7#8)]), written := 0, startAt := 0, pass1 := false, pass2 := false, waitRewrite := false }),
      4, ([(4101, 0x7#8)]), by decide +kernel⟩,
    ⟨(at_ Keeping.poolK 11),
      ({ kind := StoreKind.store, ready := true, left := [], cur := none, written := 1, startAt := 0, pass1 := false, pass2 := false, waitRewrite := false }),
      by decide +kernel⟩⟩

theorem test_hypotheses_PowerFailStore :
    (∃ s : State, ∃ j : StoreRun, s.storeFinished = some j ∧ j.kind = .powerFail ∧ j.pass2 = true)
    ∧ (∃ s : State, ∃ j : StoreRun, s.keeper.run = some j ∧ j.kind = .powerFail ∧ j.cur = none)
    ∧ (∃ s : State, s.power.phase ≠ .unpowered ∧ s.power.phase ≠ .inputLow) :=
  ⟨⟨(at_ Keeping.poolPowerFailStore1 0),
      ({ kind := StoreKind.powerFail, ready := true, left := [], cur := none, written := 1, startAt := 0, pass1 := false, pass2 := true, waitRewrite := false }),
      by decide +kernel⟩,
    ⟨(at_ Keeping.poolPowerFailStore1 0),
      ({ kind := StoreKind.powerFail, ready := true, left := [], cur := none, written := 1, startAt := 0, pass1 := false, pass2 := true, waitRewrite := false }),
      by decide +kernel⟩,
    ⟨(at_ Keeping.poolPowerFailStore1 0), by decide +kernel⟩⟩

theorem test_hypotheses_SpreadCounters :
    (∃ s : State, ∃ n : Fin 32, ∃ q : List (Fin 32), s.keeper.cntQueue = n :: q ∧ s.keeper.ended = false ∧ s.serves =
      true ∧ s.thermoBad n = false ∧ s.position n ≤ 251 ∧ 252 * s.lap n + s.position n < 2 ^ 48 - 1)
    ∧ (∃ s : State, ∃ n : Fin 32, s.serves = true ∧ 16 ≤ n.val ∧ s.keeper.locked = false ∧ s.keeper.cntQueue.length <
      32)
    ∧ (∃ s : State, ∃ n : Fin 32, s.serves = true ∧ 16 ≤ n.val ∧ s.keeper.locked = false ∧ s.lockCfg = false)
    ∧ (∃ s : State, ∃ n : Fin 32, s.serves = true ∧ n.val < 16) :=
  ⟨⟨(at_ Keeping.poolN 0), 3, ([5]), by decide +kernel⟩,
    ⟨(at_ Keeping.poolN 0), 20, by decide +kernel⟩,
    ⟨(at_ Keeping.poolN 0), 20, by decide +kernel⟩,
    ⟨(at_ Keeping.poolN 0), 0, by decide +kernel⟩⟩

theorem test_hypotheses_ResetOutputs :
    (∃ s : State, ∃ k : Fin 8, s.resets[k].stretch ≠ none)
    ∧ (∃ s : State, ∃ k : Fin 8, s.resets[k].pulse ≠ none)
    ∧ (∃ s : State, s.serves = true)
    ∧ (∃ s : State, s.serves = true ∧ s.lockCfg = true)
    ∧ (∃ s : State, s.serves = true ∧ ∃ v : Word, s.lockCfg = false ∧ ((∀ d : DomId, d.val = wfld v 11 8 →
      s.takesPart d = false))) :=
  ⟨⟨(at_ Outputs.poolR 0), 1, by decide +kernel⟩,
    ⟨(at_ Outputs.poolR 1), 1, by decide +kernel⟩,
    ⟨(at_ Outputs.poolR 0), by decide +kernel⟩,
    ⟨(at_ Outputs.poolR 4), by decide +kernel⟩,
    ⟨(at_ Outputs.poolR 0), by decide +kernel, 0, by decide +kernel⟩⟩

theorem test_hypotheses_DomainRequests :
    (∃ s : State, ∃ who : Who, ∃ d : DomId, s.serves = true ∧ s.power.phase = .run ∧ s.sdact = false ∧ s.takesPart d
      = true ∧ ownerOf who ≠ .none ∧ (s.dom d).owner = .none ∧ (s.dom d).queue = [])
    ∧ (∃ s : State, ∃ who : Who, ∃ d : DomId, s.serves = true ∧ s.power.phase = .run ∧ s.sdact = false ∧ s.takesPart
      d = true ∧ ownerOf who ≠ .none ∧ s.owns (ownerOf who) d = true ∧ (s.dom d).queue = [])
    ∧ (∃ s : State, ∃ who : Who, ∃ d : DomId, s.serves = true ∧ s.power.phase = .run ∧ s.sdact = false ∧ s.takesPart
      d = true ∧ ownerOf who ≠ .none ∧ ∃ r : Rail, ∃ v : BitVec 12, s.owns (ownerOf who) d = true ∧ s.domOf r = some
      d ∧ (s.dom d).prog = .none ∧ s.use r = true ∧ (s.ch r).st = .on ∧ s.pmbPath r = false ∧ s.stepOk r false
      v.toInt = true ∧ v.toInt ≠ s.step r)
    ∧ (∃ s : State, ∃ who : Who, ∃ d : DomId, s.serves = true ∧ s.power.phase = .run ∧ s.sdact = false ∧ s.takesPart
      d = true ∧ ownerOf who ≠ .none ∧ s.owns (ownerOf who) d = false)
    ∧ (∃ s : State, ∃ who : Who, ∃ d : DomId, s.serves = true ∧ s.sdact = false ∧ s.takesPart d = true ∧
      s.power.phase = .run ∧ (s.dom d).prog = .none ∧ (s.dom d).next = none ∧ (((s.wk (s.pwick d)).st = .idle ∨ (s.wk
      (s.pwick d)).st = .halted ∨ (s.wk (s.pwick d)).st = .fault)) ∧ ownerOf who ≠ .none ∧ s.owns (ownerOf who) d =
      true)
    ∧ (∃ s : State, ∃ who : Who, ∃ d : DomId, s.serves = true ∧ s.sdact = false ∧ s.takesPart d = true ∧
      s.power.phase = .run ∧ (s.dom d).prog = .none ∧ (s.dom d).next = none ∧ (((s.wk (s.pwick d)).st = .idle ∨ (s.wk
      (s.pwick d)).st = .halted ∨ (s.wk (s.pwick d)).st = .fault)) ∧ ownerOf who ≠ .none ∧ s.owns (ownerOf who) d =
      true ∧ ((∀ e, s.dependsOn e d = false)) ∧ ((∀ r ∈ s.railsOf d, (s.ch r).st ≠ .retryWait ∧ (s.ch r).pend =
      false)))
    ∧ (∃ s : State, ∃ d : DomId, s.serves = true ∧ s.sdact = false ∧ s.takesPart d = true ∧ s.power.phase = .run ∧
      (s.dom d).prog = .none ∧ (s.dom d).next = none ∧ (((s.wk (s.pwick d)).st = .idle ∨ (s.wk (s.pwick d)).st =
      .halted ∨ (s.wk (s.pwick d)).st = .fault)) ∧ (s.dom d).pendUp = true ∧ (s.dom d).last = 2 ∧ ((∀ r ∈ s.railsOf
      d, (s.ch r).st ≠ .falling ∧ (s.ch r).st ≠ .discharging)))
    ∧ (∃ s : State, ∃ who : Who, ∃ d : DomId, s.serves = true ∧ s.sdact = false ∧ s.takesPart d = true ∧
      s.power.phase = .run ∧ ownerOf who ≠ .none ∧ s.owns (ownerOf who) d = true ∧ (s.wk (s.pwick d)).st = .run ∧
      (s.dom d).prog = .none ∧ (s.dom d).next = none)
    ∧ (∃ s : State, ∃ who : Who, ∃ d : DomId, s.serves = true ∧ s.sdact = false ∧ s.takesPart d = true ∧
      s.power.phase = .run ∧ ownerOf who ≠ .none ∧ s.owns (ownerOf who) d = true ∧ (s.wk (s.pwick d)).st = .run ∧
      (s.dom d).prog = .up ∧ (s.dom d).next = none)
    ∧ (∃ s : State, ∃ who : Who, ∃ d : DomId, s.serves = true ∧ s.sdact = false ∧ s.takesPart d = true ∧
      s.power.phase = .run ∧ ownerOf who ≠ .none ∧ s.owns (ownerOf who) d = true ∧ (s.wk (s.pwick d)).st = .run ∧
      ((s.dom d).prog = .down ∨ ((s.dom d).next = some (.down, 2) ∧ (s.dom d).offAt = some s.cycle)))
    ∧ (∃ s : State, ∃ d : DomId, s.power.phase = .run ∧ (s.dom d).owner ≠ .none ∧ (s.dom d).epoch ≠ s.epochOf (s.dom
      d).owner ∧ s.fld (aDCfg d) 29 28 = 0 ∧ (s.dom d).queue = [])
    ∧ (∃ s : State, ∃ d : DomId, s.power.phase = .run ∧ (s.dom d).owner ≠ .none ∧ (s.dom d).epoch ≠ s.epochOf (s.dom
      d).owner ∧ s.fld (aDCfg d) 29 28 = 2 ∧ (s.dom d).owner ≠ .wick 0) :=
  ⟨⟨(at_ Requests.poolDo 0), (.host 0 1), 1, by decide +kernel⟩,
    ⟨(at_ Requests.poolDo 1), .tether, 1, by decide +kernel⟩,
    ⟨(at_ Requests.poolDo 3), .tether, 1, by decide +kernel, by decide +kernel, by decide +kernel, by decide +kernel,
      by decide +kernel, 3, 1, by decide +kernel⟩,
    ⟨(at_ Requests.poolDo 0), (.host 0 1), 1, by decide +kernel⟩,
    ⟨(at_ Requests.poolDo 1), .tether, 1, by decide +kernel⟩,
    ⟨(at_ Requests.poolDo 1), .tether, 1, by decide +kernel⟩,
    ⟨(at_ Requests.poolDo 5), 1, by decide +kernel⟩,
    ⟨(at_ RequestsMore.poolDo 0), .tether, 1, by decide +kernel⟩,
    ⟨(at_ RequestsMore.poolDo 2), .tether, 1, by decide +kernel⟩,
    ⟨(at_ RequestsMore.poolDo 4), .tether, 1, by decide +kernel⟩,
    ⟨(at_ Requests.poolDo 6), 1, by decide +kernel⟩,
    ⟨(at_ Requests.poolDo 7), 1, by decide +kernel⟩⟩

theorem test_hypotheses_RaisesAndReactions :
    (∃ s : State, ∃ w : WickId, ∃ n : Fin 8, s.current w = some (.raise n))
    ∧ (∃ s : State, ∃ x : React, ∃ l : List (List React), s.faults.reacts = [x] :: l ∧ s.domOf x.rail = none ∧ (s.ch
      x.rail).st = .tripped ∧ s.use x.rail = true ∧ x.code = 1 ∧ (s.ch x.rail).retries.toNat < s.fld (aChReact
      x.rail) 26 24)
    ∧ (∃ s : State, ∃ x : React, ∃ l : List (List React), s.faults.reacts = [x] :: l ∧ s.domOf x.rail = none ∧ (s.ch
      x.rail).st = .tripped ∧ s.use x.rail = true ∧ x.code = 2 ∧ (s.ch x.rail).uv.blank = none ∧ (s.ch x.rail).uvNew
      = false ∧ (s.ch x.rail).uv.out = false ∧ s.fld (aChToff x.rail) 23 0 ≠ 0) :=
  ⟨⟨(at_ Collecting.poolF 0), 2, 3, by decide +kernel⟩,
    ⟨(at_ Collecting.poolF 3), ({ rail := 3, ev := EvType.ov, code := 0x1#2, injected := false }),
      ([[{ rail := 3, ev := EvType.ov, code := 0x2#2, injected := false }]]), by decide +kernel⟩,
    ⟨(at_ Collecting.poolF 4), ({ rail := 3, ev := EvType.ov, code := 0x2#2, injected := false }), ([]),
      by decide +kernel⟩⟩

theorem test_hypotheses_ShutdownRule :
    (∃ s : State, ∃ g : List DomId, s.shut = .rank 0 g ∧ s.groupBusy g = false)
    ∧ (∃ s : State, ∃ g : List DomId, s.shut = .rank 0 g ∧ s.groupBusy g = true)
    ∧ (∃ s : State, s.shut = .final)
    ∧ (∃ s : State, s.faults.sysReset = true ∧ s.faults.sysStore = none ∧ s.shut = .idle ∧ s.fltState ≠ 1 ∧
      s.power.phase = .run ∧ s.fabricOn = true ∧ s.keeper.run = none ∧ s.keeper.locked = false) :=
  ⟨⟨(at_ Collecting.poolH 0), ([]), by decide +kernel⟩,
    ⟨(at_ Collecting.poolH 1), ([1]), by decide +kernel⟩,
    ⟨(at_ Collecting.poolH 2), by decide +kernel⟩,
    ⟨(at_ Collecting.poolH 3), by decide +kernel⟩⟩

theorem test_hypotheses_CollectorCommands :
    (∃ (s : State) (b : Snapshot), s.faults.snap = some b ∧ s.fltState = 1 ∧ s.faults.critPend = false ∧ s.fabricOn =
      true)
    ∧ (∃ s : State, s.fltState = 2 ∧ s.faults.rewrite = true ∧ s.faults.critPend = false ∧ s.keeper.locked = false ∧
      s.keeper.run = none ∧ s.fabricOn = true)
    ∧ (∃ (s : State) (e : LogEntry) (l q : List LogEntry), s.loggerFree = true ∧ s.faults.startPend = false ∧
      s.faults.queue = l ++ e :: q ∧ (∀ x ∈ l, e.time < x.time) ∧ (∀ x ∈ q, e.time ≤ x.time) ∧ s.oldestLog = none ∧
      s.bit aLogIdx 15 = true ∧ (s.byte (recBase (s.fld aLogIdx 30 24) + 0x10)).toNat < 61)
    ∧ (∃ s : State, s.serves = true ∧ s.fltState = 2 ∧ s.faults.critPend = false)
    ∧ (∃ s : State, s.serves = true ∧ s.fltState ≠ 2)
    ∧ (∃ s : State, s.serves = true)
    ∧ (∃ s : State, s.serves = true ∧ s.lockInject = false)
    ∧ (∃ s : State, s.serves = true ∧ s.lockInject = true)
    ∧ (∃ s : State, s.serves = true ∧ s.lockInject = false ∧ s.bit aInjCtl 31 = false)
    ∧ (∃ s : State, s.serves = true ∧ ∃ r : Rail, s.lockInject = false ∧ s.bit aInjCtl 31 = true ∧ s.armed = [railSrc
      r .ov] ∧ (s.ch r).st = .on)
    ∧ (∃ s : State, s.faults.deferred = []) :=
  ⟨⟨{ up.setReg aFltStat 0x40000000 with faults := { snap := some [1, 2] } }, [1, 2], by decide +kernel⟩,
    ⟨(at_ Collecting.poolCollectorCommands2 2), by decide +kernel⟩,
    ⟨More.opened, More.logE, [More.lateE], [More.logE], by decide +kernel⟩,
    ⟨(at_ Collecting.poolCollectorCommands2 1), by decide +kernel⟩,
    ⟨(at_ Collecting.poolCollectorCommands2 0), by decide +kernel⟩,
    ⟨(at_ Collecting.poolCollectorCommands2 0), by decide +kernel⟩,
    ⟨(at_ Collecting.poolCollectorCommands2 0), by decide +kernel⟩,
    ⟨(at_ Collecting.poolCollectorCommands2 5), by decide +kernel⟩,
    ⟨(at_ Collecting.poolCollectorCommands2 0), by decide +kernel⟩,
    ⟨(at_ Collecting.poolCollectorCommands2 7), by decide +kernel, 3, by decide +kernel⟩,
    ⟨(at_ Collecting.poolCollectorCommands2 0), by decide +kernel⟩⟩

theorem test_hypotheses_InputSupervision :
    (∃ s : State, s.power.phase ≠ .unpowered ∧ s.power.vin ≠ .below)
    ∧ (∃ s : State, s.power.vin = .below ∧ s.power.phase = .run ∧ s.fabricOn = true)
    ∧ (∃ s : State, s.power.vin = .below ∧ s.power.phase = .run ∧ s.fabricOn = false)
    ∧ (∃ s : State, s.power.vin = .below ∧ ((s.power.phase = .inputLow ∨ s.power.phase = .powerFail)))
    ∧ (∃ s : State, s.power.vin = .below ∧ s.power.phase = .loaded)
    ∧ (∃ s : State, s.power.phase = .run)
    ∧ (∃ s : State, s.power.phase = .inputLow ∧ s.power.vin = .above)
    ∧ (∃ s : State, s.power.phase = .inputLow) :=
  ⟨⟨(at_ Booting.poolInputSupervision0 0), by decide +kernel⟩,
    ⟨(at_ Booting.poolInputSupervision0 2), by decide +kernel⟩,
    ⟨(at_ BootMore.poolV 0), by decide +kernel⟩,
    ⟨(at_ BootMore.poolV 1), by decide +kernel⟩,
    ⟨(at_ Booting.poolInputSupervision0 4), by decide +kernel⟩,
    ⟨(at_ Booting.poolInputSupervision0 0), by decide +kernel⟩,
    ⟨(at_ Booting.poolInputSupervision0 5), by decide +kernel⟩,
    ⟨(at_ Booting.poolInputSupervision0 5), by decide +kernel⟩⟩

theorem test_hypotheses_BootSteps :
    (∃ s : State, s.power.phase = .regulators)
    ∧ (∃ s : State, s.power.phase = .supplies)
    ∧ (∃ s : State, s.power.phase = .reference)
    ∧ (∃ s : State, s.power.phase = .locked ∧ s.power.recallDue = true)
    ∧ (∃ s : State, s.power.phase = .recalled ∧ s.keeper.run = none)
    ∧ (∃ s : State, s.power.phase = .repaired ∧ s.power.set = none ∧ s.protect.eraseMark = false)
    ∧ (∃ s : State, ∃ b, s.power.phase = .configured ∧ s.cmtChoice.copy? = some b ∧ s.imagePasses b = true)
    ∧ (∃ s : State, s.power.phase = .configured ∧ s.cmtChoice = .none)
    ∧ (∃ s : State, ∃ n : Int, s.power.phase = .loaded ∧ ((s.bit aKpsStat 25 = true ∨ s.power.vhokLimit = true)) ∧ n
      ≤ 1400 ∧ s.scanned = true ∧ s.erasing = false ∧ s.bit aSeqCtl 31 = false)
    ∧ (∃ s : State, ((s.power.phase ∈ [Phase.regulators, .supplies, .reference, .locked, .recalled, .repaired,
      .configured, .loaded] ∨ (s.power.phase = .inReset ∧ s.power.recallDue = true)))) :=
  ⟨⟨(at_ Booting.poolBt 0), by decide +kernel⟩,
    ⟨(at_ Booting.poolBt 1), by decide +kernel⟩,
    ⟨(at_ Booting.poolBt 2), by decide +kernel⟩,
    ⟨(at_ Booting.poolBt 3), by decide +kernel⟩,
    ⟨(at_ Booting.poolBt 5), by decide +kernel⟩,
    ⟨(at_ Booting.poolBt 7), by decide +kernel⟩,
    ⟨(at_ BootMore.poolBt 0), false, by decide +kernel⟩,
    ⟨(at_ Booting.poolBt 8), by decide +kernel⟩,
    ⟨(at_ Booting.poolBt 12), 0, by decide +kernel⟩,
    ⟨(at_ Booting.poolBt 0), by decide +kernel⟩⟩

theorem test_hypotheses_PowerStatesAndClocks :
    (∃ s : State, s.power.phase = .run ∧ s.power.waking = false ∧ s.deepest ≠ 0)
    ∧ (∃ s : State, ∃ k : WakeKind, s.wakeSource k = true)
    ∧ (∃ s : State, ∃ k : WakeKind, s.wakeSource k = false)
    ∧ (∃ s : State, s.power.waking = true ∧ s.protect.lateClose = false ∧ s.protect.lateErase = false ∧
      s.power.failDue = false ∧ s.power.held = [])
    ∧ (∃ s : State, s.power.waking = true ∧ s.power.held = [] ∧ s.power.failDue = false)
    ∧ (∃ s : State, s.power.waking = true ∧ s.power.failDue = true)
    ∧ (∃ e : SecEvent, ∃ f : SecEvent, secOrder e ≠ secOrder f)
    ∧ (∃ s : State, s.supplied = true ∧ s.bit aClkStat 31 = true)
    ∧ (∃ s : State, s.power.phase ≠ .unpowered ∧ s.bit aClkStat 30 = true)
    ∧ (∃ s : State, s.supplied = true ∧ s.bit aClkStat 29 = true)
    ∧ (∃ s : State, (s.powered = true ∨ (s.power.phase = .inReset ∧ s.power.recallDue = false)) ∧ s.power.state ≠
      .hibernate)
    ∧ (∃ s : State, s.configured = true ∧ s.power.warnArmed = true)
    ∧ (∃ s : State, s.configured = true) :=
  ⟨⟨(at_ Power.poolPw 1), by decide +kernel⟩,
    ⟨(at_ Power.poolPw 0), WakeKind.hostSelect, by decide +kernel⟩,
    ⟨(at_ Power.poolPw 0), WakeKind.known, by decide +kernel⟩,
    ⟨(at_ Power.poolPw 4), by decide +kernel⟩,
    ⟨(at_ Power.poolPw 4), by decide +kernel⟩,
    ⟨(at_ PowerMore.poolPw 3), by decide +kernel⟩,
    ⟨(SecEvent.voltage true), SecEvent.erase, by decide +kernel⟩,
    ⟨(at_ Power.poolPw 3), by decide +kernel⟩,
    ⟨(at_ Power.poolPw 3), by decide +kernel⟩,
    ⟨(at_ Power.poolPw 3), by decide +kernel⟩,
    ⟨(at_ Power.poolPw 0), by decide +kernel⟩,
    ⟨(at_ Power.poolPw 0), by decide +kernel⟩,
    ⟨(at_ Power.poolPw 0), by decide +kernel⟩⟩

theorem test_hypotheses_Resets :
    (∃ s : State, ((s.power.phase = .run ∨ s.booting = true)))
    ∧ (∃ s : State, s.power.phase = .inReset)
    ∧ (∃ s : State, ∃ n : Nat, s.power.phase = .run ∧ s.faults.sysReset = true ∧ s.shut = .idle ∧ s.faults.sysStore =
      some n ∧ ((n < s.keeper.number ∨ (n = s.keeper.number ∧ s.keeper.run = none))))
    ∧ (∃ s : State, s.power.phase = .unpowered) :=
  ⟨⟨(at_ Power.poolRs 0), by decide +kernel⟩,
    ⟨(at_ Power.poolRs 2), by decide +kernel⟩,
    ⟨(at_ Power.poolRs 0), 0, by decide +kernel⟩,
    ⟨(at_ Power.poolRs 8), by decide +kernel⟩⟩

theorem test_hypotheses_LocksAndWrites :
    (∃ s : State, s.serves = true)
    ∧ (∃ s : State, s.serves = true ∧ s.lockCfg = false)
    ∧ (∃ s : State, s.serves = true ∧ s.lockCfg = true) :=
  ⟨⟨(at_ Locks.poolLk 0), by decide +kernel⟩,
    ⟨(at_ Locks.poolLk 0), by decide +kernel⟩,
    ⟨(at_ Locks.poolLk 1), by decide +kernel⟩⟩

theorem test_hypotheses_KeyErase :
    (∃ s : State, s.serves = true ∧ s.erasing = false)
    ∧ (∃ s : State, s.fabricOn = true ∧ s.erasing = true)
    ∧ (∃ s : State, s.fabricOn = true ∧ s.erasing = false ∧ s.protect.eraseTail = true) :=
  ⟨⟨(at_ Locks.poolKeyErase1 0), by decide +kernel⟩,
    ⟨(at_ Locks.poolKeyErase1 1), by decide +kernel⟩,
    ⟨(at_ Locks.poolKeyErase1 3), by decide +kernel⟩⟩

theorem test_hypotheses_TamperDetection :
    (∃ s : State, s.tamperRuns = true ∧ s.asleep = false ∧ s.bit aTampCfg 29 = true ∧ s.bit aTampCfg 28 = false ∧
      s.reg aAlarmAct = 0 ∧ s.protect.miss[(0 : Fin 2)] + 1 < max 1 (s.fld aTampCfg 7 0))
    ∧ (∃ s : State, s.tamperRuns = true ∧ s.asleep = false ∧ s.bit aTampCfg 29 = true ∧ s.bit aTampCfg 28 = false ∧
      s.reg aAlarmAct = 0 ∧ max 1 (s.fld aTampCfg 7 0) ≤ s.protect.miss[(0 : Fin 2)] + 1 ∧ s.protect.miss[(0 : Fin
      2)] < 256 ∧ s.protect.detect.getLsbD 0 = false)
    ∧ (∃ s : State, s.tamperRuns = true ∧ s.asleep = false ∧ s.bit aTampCfg 29 = true ∧ s.bit aTampCfg 28 = false ∧
      s.reg aAlarmAct = 0)
    ∧ (∃ s : State, s.tamperRuns = true ∧ s.asleep = false ∧ s.bit aTampCfg 25 = true)
    ∧ (∃ s : State, s.tamperRuns = true ∧ s.asleep = false ∧ s.bit aTampCfg 26 = true)
    ∧ (∃ s : State, s.tamperRuns = true ∧ s.asleep = false ∧ s.bit aTampCfg 27 = true ∧ s.power.state ≠ .hibernate)
    ∧ (∃ s : State, s.tamperRuns = true ∧ s.asleep = true ∧ s.bit aTampCfg 25 = true ∧ s.protect.detect.getLsbD 2 =
      false) :=
  ⟨⟨(at_ Locks.poolTm 0), by decide +kernel⟩,
    ⟨(at_ Locks.poolTm 2), by decide +kernel⟩,
    ⟨(at_ Locks.poolTm 0), by decide +kernel⟩,
    ⟨(at_ Locks.poolTm 0), by decide +kernel⟩,
    ⟨(at_ Locks.poolTm 0), by decide +kernel⟩,
    ⟨(at_ Locks.poolTm 0), by decide +kernel⟩,
    ⟨(at_ Locks.poolTm 4), by decide +kernel⟩⟩

theorem test_hypotheses_JtagPort :
    (∃ s : State, ∃ a : Nat, s.jtagOpen = true ∧ s.serves = true ∧ regWindow a = true ∧ a % 4 = 0)
    ∧ (∃ s : State, s.jtagOpen = false) :=
  ⟨⟨(at_ Locks.poolJtagPort3 0), 269090836, by decide +kernel⟩,
    ⟨(at_ Locks.poolJtagPort3 1), by decide +kernel⟩⟩

theorem test_hypotheses_ArbiterCommands :
    (∃ s : State, ∃ g : Fin 13, ∃ tr : Transfer, s.fabricRuns = true ∧ s.arb.flight = none ∧ s.arb.reqs[g].wait =
      some tr ∧ ((∀ n : Fin 13, s.arb.reqs[n].cred + s.arb.reqs[n].age < 2 ^ 20)) ∧ ((∀ n : Fin 13, n ≠ g →
      s.arb.reqs[n].wait ≠ none → s.effClass n < s.effClass g ∨ (s.effClass n = s.effClass g ∧ s.arb.reqs[n].cred +
      s.arb.reqs[n].age < s.arb.reqs[g].cred + s.arb.reqs[g].age) ∨ (s.effClass n = s.effClass g ∧ s.arb.reqs[n].cred
      + s.arb.reqs[n].age = s.arb.reqs[g].cred + s.arb.reqs[g].age ∧ g < n))))
    ∧ (∃ s : State, s.fabricRuns = true ∧ s.arb.flight = none ∧ ((∀ n : Fin 13, s.arb.reqs[n].wait = none)))
    ∧ (∃ s : State, ∃ n : Fin 13, ∃ x : Transfer, s.fabricRuns = true ∧ s.arb.flight = some (n, x, 0) ∧ x.write =
      false ∧ x.size = 4 ∧ x.addr % 4 = 0 ∧ regWindow x.addr = true)
    ∧ (∃ s : State, s.fabricRuns = true ∧ 8192 ≤ s.arb.count ∧ s.flightEnds = false)
    ∧ (∃ s : State, s.serves = true ∧ s.lockCfg = true)
    ∧ (∃ s : State, s.serves = true ∧ s.lockCfg = false ∧ 1024 < s.weights aArbPrio)
    ∧ (∃ s : State, s.serves = true ∧ s.lockCfg = false ∧ s.weights aArbPrio ≤ 1024)
    ∧ (∃ s : State, s.serves = true) :=
  ⟨⟨(at_ Locks.poolA 1), 10,
      ({ who := Who.tether, addr := 268697604, write := false, size := 4, data := 0x3#64, hw := 0x0#32 }),
      by decide +kernel⟩,
    ⟨(at_ Locks.poolA 0), by decide +kernel⟩,
    ⟨(at_ BootMore.poolA 0), 10,
      ({ who := Who.tether, addr := 268697604, write := false, size := 4, data := 0x3#64, hw := 0x0#32 }),
      by decide +kernel⟩,
    ⟨(at_ BootMore.poolA 2), by decide +kernel⟩,
    ⟨(at_ Locks.poolA 6), by decide +kernel⟩,
    ⟨(at_ Locks.poolA 7), by decide +kernel⟩,
    ⟨(at_ Locks.poolA 0), by decide +kernel⟩,
    ⟨(at_ Locks.poolA 0), by decide +kernel⟩⟩

theorem test_hypotheses_HostSessions :
    (∃ s : State, ∃ f : HostFrame, frameSound f opHello ∧ s.hears f ∧ f.len = 0 ∧ f.addr = 0 ∧ f.ver = 3 ∧ (s.sess
      f.port f.session).isOpen = false ∧ (s.sess f.port f.session).exec = none ∧ (s.sess f.port f.session).cache = [])
    ∧ (∃ s : State, ∃ f : HostFrame, frameSound f opBye ∧ s.hears f ∧ s.inSession f ∧ f.len = 0 ∧ f.addr = 0 ∧
      (s.sess f.port f.session).exec = none)
    ∧ (∃ s : State, ∃ p : Fin 2, ∃ i : Fin 4, (s.sess p i).isOpen = true ∧ (s.sess p i).tmoAt ≠ none)
    ∧ (∃ s : State, ∃ p : Fin 2, ∃ i : Fin 4, s.serves = true ∧ (s.sess p i).isOpen = true) :=
  ⟨⟨(at_ Hosts.poolHs 0),
      ({ port := 0, transport := 0x51#8, sync := 0xa5#8, ver := 0x3#4, session := 1, dir := false, rsvd := false, tag := 0x4d#16, op := 0x1#8, addr := 0x0#32, len := 0x0#16, payload := [], check := [0xf4#8, 0xc7#8], count := 13, co := [] }),
      by unfold frameSound; decide +kernel, by unfold State.hears; decide +kernel, by decide +kernel⟩,
    ⟨(at_ Hosts.poolHs 1),
      ({ port := 0, transport := 0x51#8, sync := 0xa5#8, ver := 0x3#4, session := 1, dir := false, rsvd := false, tag := 0x4d#16, op := 0xa#8, addr := 0x0#32, len := 0x0#16, payload := [], check := [0xdb#8, 0x8c#8], count := 13, co := [] }),
      by unfold frameSound; decide +kernel, by unfold State.hears; decide +kernel,
      by unfold State.inSession; decide +kernel, by decide +kernel⟩,
    ⟨(at_ Hosts.poolHs 1), 1, 1, by decide +kernel⟩,
    ⟨(at_ Hosts.poolHs 1), 1, 1, by decide +kernel⟩⟩

theorem test_hypotheses_HostOperations :
    (∃ s : State, ∃ f : HostFrame, s.hears f ∧ s.inSession f ∧ (s.sess f.port f.session).exec = none ∧ frameSound f
      opRead ∧ f.len.toNat % 4 = 0 ∧ f.len.toNat ≤ 1024 ∧ f.addr.toNat % 4 = 0)
    ∧ (∃ s : State, ∃ f : HostFrame, s.hears f ∧ s.inSession f ∧ (s.sess f.port f.session).exec = none ∧ frameSound f
      opWrite ∧ f.len.toNat % 4 = 0 ∧ f.len.toNat ≤ 1024 ∧ f.addr.toNat % 4 = 0)
    ∧ (∃ s : State, ∃ f : HostFrame, s.hears f ∧ s.inSession f ∧ (s.sess f.port f.session).exec = none ∧ frameSound f
      opRmw ∧ f.len = 8 ∧ f.addr.toNat = aRngTsetL)
    ∧ (∃ s : State, ∃ f : HostFrame, s.hears f ∧ s.inSession f ∧ (s.sess f.port f.session).exec = none ∧ ∃ d : DomId,
      frameSound f opRequest ∧ f.len = 6 ∧ f.addr = 0 ∧ f.payload = [BitVec.ofNat 8 d.val, 1, 0, 0, 0, 0] ∧ s.sdact =
      false ∧ s.takesPart d = true ∧ (s.dom d).owner = .none ∧ (s.dom d).queue = [])
    ∧ (∃ s : State, ∃ f : HostFrame, s.hears f ∧ s.inSession f ∧ (s.sess f.port f.session).exec = none ∧ ∃ w :
      WickId, frameSound f opRun ∧ f.len = 4 ∧ f.payload = [BitVec.ofNat 8 w.val, 0, 0, 0] ∧ f.addr.toNat < 4096 ∧
      f.addr.toNat < s.liveLen ∧ s.progOf w = none ∧ (s.wk w).st = .idle)
    ∧ (∃ s : State, ∃ f : HostFrame, s.hears f ∧ s.inSession f ∧ (s.sess f.port f.session).exec = none ∧ frameSound f
      opStore ∧ f.len = 1 ∧ f.addr = 0 ∧ f.payload = [0] ∧ s.keeper.locked = false ∧ s.keeper.run = none)
    ∧ (∃ s : State, ∃ f : HostFrame, s.hears f ∧ s.inSession f ∧ (s.sess f.port f.session).exec = none ∧ ∃ b : Bool,
      frameSound f opEvents ∧ f.len = 1 ∧ f.addr = 0 ∧ f.payload = [if b then 1 else 0])
    ∧ (∃ s : State, ∃ f : HostFrame, s.hostListens f.port = true ∧ s.fabricOn = false ∧ f.op = opRead ∧ f.co = [])
    ∧ (∃ s : State, ∃ f : HostFrame, frameSound f opAbort ∧ s.hears f ∧ s.inSession f ∧ f.len = 2 ∧ f.addr = 0 ∧
      (s.sess f.port f.session).exec = none)
    ∧ (∃ s : State, ∃ f : HostFrame, frameSound f opAbort ∧ s.hears f ∧ s.inSession f ∧ f.len = 2 ∧ f.addr = 0 ∧ ∃ q
      : Request, (s.sess f.port f.session).exec = some q ∧ q.op = opRead ∧ q.tag.toNat = pb f 0 + 256 * pb f 1)
    ∧ (∃ s : State, ∃ p : Fin 2, ∃ i : Fin 4, ∃ q : Request, (s.sess p i).exec = some q ∧ ((∀ p' i', (p', i') ≠ (p,
      i) → (s.sess p' i').exec = none)) ∧ q.waitStore = none ∧ q.op = opRead ∧ q.ver = 3 ∧ q.reads = 1 ∧ q.words = []
      ∧ q.events = [] ∧ q.clears = [] ∧ q.refusedAt = none ∧ q.status = stOk ∧ regWindow q.cursor.toNat = true ∧
      q.cursor.toNat % 4 = 0)
    ∧ (∃ s : State, ∃ p : Fin 2, ∃ i : Fin 4, ∃ q : Request, ∃ a : Nat, (s.sess p i).exec = some q ∧ ((∀ p' i', (p',
      i') ≠ (p, i) → (s.sess p' i').exec = none)) ∧ q.waitStore = none ∧ q.op = opEvents ∧ q.reads = 0 ∧ q.words = []
      ∧ q.events = [a] ∧ q.clears = [] ∧ q.refusedAt = none ∧ q.status = stOk ∧ regWindow a = true ∧ a % 4 = 0)
    ∧ (∃ s : State, ∃ p : Fin 2, ∃ b : Byte, ∃ r : Response, ∃ l : List Response, s.hostReads p = true ∧
      s.transportOk p b 0x52 0xD2 = true ∧ (s.hosts[p]).queue = r :: l)
    ∧ (∃ (s : State) (f : HostFrame) (hw : HwBits) (l : List SecEvent) (u : State), s.power.waking = false ∧ exec
      (.wakeComplete hw l) s = .next u ∧ f.op = 0) :=
  ⟨⟨(at_ Hosts.poolHs 1),
      ({ port := 0, transport := 0x51#8, sync := 0xa5#8, ver := 0x3#4, session := 1, dir := false, rsvd := false, tag := 0x4d#16, op := 0x2#8, addr := 0x10040004#32, len := 0x4#16, payload := [], check := [0x81#8, 0x5c#8], count := 13, co := [] }),
      by unfold State.hears; decide +kernel, by unfold State.inSession; decide +kernel, by decide +kernel,
      by unfold frameSound; decide +kernel, by decide +kernel⟩,
    ⟨(at_ Hosts.poolHs 1),
      ({ port := 0, transport := 0x51#8, sync := 0xa5#8, ver := 0x3#4, session := 1, dir := false, rsvd := false, tag := 0x4d#16, op := 0x3#8, addr := 0x10040004#32, len := 0x4#16, payload := [0x1#8, 0x2#8, 0x3#8, 0x4#8], check := [0x29#8, 0xe3#8], count := 17, co := [] }),
      by unfold State.hears; decide +kernel, by unfold State.inSession; decide +kernel, by decide +kernel,
      by unfold frameSound; decide +kernel, by decide +kernel⟩,
    ⟨(at_ Hosts.poolHs 1),
      ({ port := 0, transport := 0x51#8, sync := 0xa5#8, ver := 0x3#4, session := 1, dir := false, rsvd := false, tag := 0x4d#16, op := 0x4#8, addr := 0x100a1018#32, len := 0x8#16, payload := [0x1#8, 0x2#8, 0x3#8, 0x4#8, 0x5#8, 0x6#8, 0x7#8, 0x8#8], check := [0xe9#8, 0x58#8], count := 21, co := [] }),
      by unfold State.hears; decide +kernel, by unfold State.inSession; decide +kernel, by decide +kernel,
      by unfold frameSound; decide +kernel, by decide +kernel⟩,
    ⟨(at_ Hosts.poolHs 4),
      ({ port := 0, transport := 0x51#8, sync := 0xa5#8, ver := 0x3#4, session := 1, dir := false, rsvd := false, tag := 0x4d#16, op := 0x5#8, addr := 0x0#32, len := 0x6#16, payload := [0x1#8, 0x1#8, 0x0#8, 0x0#8, 0x0#8, 0x0#8], check := [0xb6#8, 0xaa#8], count := 19, co := [] }),
      by unfold State.hears; decide +kernel, by unfold State.inSession; decide +kernel, by decide +kernel, 1,
      by unfold frameSound; decide +kernel, by decide +kernel⟩,
    ⟨(at_ Hosts.poolHs 4),
      ({ port := 0, transport := 0x51#8, sync := 0xa5#8, ver := 0x3#4, session := 1, dir := false, rsvd := false, tag := 0x4d#16, op := 0x6#8, addr := 0x5#32, len := 0x4#16, payload := [0x2#8, 0x0#8, 0x0#8, 0x0#8], check := [0x1f#8, 0xdd#8], count := 17, co := [] }),
      by unfold State.hears; decide +kernel, by unfold State.inSession; decide +kernel, by decide +kernel, 2,
      by unfold frameSound; decide +kernel, by decide +kernel⟩,
    ⟨(at_ Hosts.poolHs 1),
      ({ port := 0, transport := 0x51#8, sync := 0xa5#8, ver := 0x3#4, session := 1, dir := false, rsvd := false, tag := 0x4d#16, op := 0x7#8, addr := 0x0#32, len := 0x1#16, payload := [0x0#8], check := [0x50#8, 0xea#8], count := 14, co := [] }),
      by unfold State.hears; decide +kernel, by unfold State.inSession; decide +kernel, by decide +kernel,
      by unfold frameSound; decide +kernel, by decide +kernel⟩,
    ⟨(at_ Hosts.poolHs 1),
      ({ port := 0, transport := 0x51#8, sync := 0xa5#8, ver := 0x3#4, session := 1, dir := false, rsvd := false, tag := 0x4d#16, op := 0x8#8, addr := 0x0#32, len := 0x1#16, payload := [0x0#8], check := [0x92#8, 0x33#8], count := 14, co := [] }),
      by unfold State.hears; decide +kernel, by unfold State.inSession; decide +kernel, by decide +kernel, false,
      by unfold frameSound; decide +kernel, by decide +kernel⟩,
    ⟨(at_ HostEvents.poolHr 1),
      ({ port := 0, transport := 0x51#8, sync := 0xa5#8, ver := 0x3#4, session := 1, dir := false, rsvd := false, tag := 0x4d#16, op := 0x2#8, addr := 0x10040004#32, len := 0x4#16, payload := [], check := [0x81#8, 0x5c#8], count := 13, co := [] }),
      by decide +kernel⟩,
    ⟨(at_ Hosts.poolHs 1),
      ({ port := 0, transport := 0x51#8, sync := 0xa5#8, ver := 0x3#4, session := 1, dir := false, rsvd := false, tag := 0x4d#16, op := 0x9#8, addr := 0x0#32, len := 0x2#16, payload := [0x9#8, 0x0#8], check := [0x57#8, 0x5e#8], count := 15, co := [] }),
      by unfold frameSound; decide +kernel, by unfold State.hears; decide +kernel,
      by unfold State.inSession; decide +kernel, by decide +kernel⟩,
    ⟨(at_ Hosts.poolHs 3),
      ({ port := 0, transport := 0x51#8, sync := 0xa5#8, ver := 0x3#4, session := 1, dir := false, rsvd := false, tag := 0x4d#16, op := 0x9#8, addr := 0x0#32, len := 0x2#16, payload := [0x9#8, 0x0#8], check := [0x57#8, 0x5e#8], count := 15, co := [] }),
      by unfold frameSound; decide +kernel, by unfold State.hears; decide +kernel,
      by unfold State.inSession; decide +kernel, by decide +kernel, by decide +kernel,
      ({ tag := 0x9#16, etag := 0, op := 0x2#8, ver := 0x3#4, cursor := 0x10040004#32, words := [], reads := 1, events := [], clears := [], got := [0x1#8, 0x2#8, 0x3#8, 0x4#8], refusedAt := none, echo := 0x10040000#32, waitStore := none, payload := [], since := 0, status := 0x0#8 }),
      by decide +kernel⟩,
    ⟨(at_ HostReads.poolHs 0), 0, 1,
      ({ tag := 0x9#16, etag := 0, op := 0x2#8, ver := 0x3#4, cursor := 0x10040004#32, words := [], reads := 1, events := [], clears := [], got := [0x1#8, 0x2#8, 0x3#8, 0x4#8], refusedAt := none, echo := 0x10040000#32, waitStore := none, payload := [], since := 0, status := 0x0#8 }),
      by decide +kernel⟩,
    ⟨(at_ HostEvents.poolHr 0), 0, 1,
      ({ tag := 0x9#16, etag := 0, op := 0x8#8, ver := 0x3#4, cursor := 0x10040004#32, words := [], reads := 0, events := [268697604], clears := [], got := [], refusedAt := none, echo := 0x10040000#32, waitStore := none, payload := [], since := 0, status := 0x0#8 }),
      268697604, by decide +kernel⟩,
    ⟨(at_ HostsMore.poolHostOperations0 0), 0, 82,
      ({ ver := 0x3#4, session := 2, tag := 0x3#16, op := 0x2#8, addr := 0x0#32, status := 0x0#8, payload := [0x1#8], check := [0x1#8, 0x2#8] }),
      ([{ ver := 0x3#4, session := 3, tag := 0x3#16, op := 0x2#8, addr := 0x0#32, status := 0x0#8, payload := [0x1#8], check := [0x1#8, 0x2#8] }]),
      by decide +kernel⟩,
    ⟨More.dozing, badFrame, [], [.loop true true], _, by decide +kernel, rfl, by decide +kernel⟩⟩

theorem test_hypotheses_TetherMaster :
    (∃ s : State, s.tRuns = true)
    ∧ (∃ s : State, s.tRuns = true ∧ s.tether.cur = none ∧ s.tether.queue = [] ∧ s.tether.round = [] ∧ ∃ n, ∃ r,
      (List.finRange 16).filter (fun n => n ≠ 0 && s.present n) = n :: r ∧ s.slvVer n = 1)
    ∧ (∃ s : State, s.tRuns = true ∧ ∃ n : Fin 16, ∃ f, ∃ k, ∃ hi, s.tether.cur = some (f, .discover, k) ∧
      s.tether.queue = [] ∧ s.tether.round = [] ∧ f.dst.toNat = n.val ∧ s.fld aTthCfg 25 25 = 0 ∧ hi = 1)
    ∧ (∃ s : State, s.tRuns = true ∧ ∃ n : Fin 16, ∃ f, ∃ k, s.tether.cur = some (f, .delay, k) ∧ s.tether.queue = []
      ∧ s.tether.round = [] ∧ f.dst.toNat = n.val)
    ∧ (∃ s : State, s.tRuns = true ∧ ∃ f, ∃ why, ∃ k, s.tether.cur = some (f, why, k + 1))
    ∧ (∃ s : State, s.tRuns = true ∧ ∃ n : Fin 16, ∃ f, s.tether.cur = some (f, .poll, 0) ∧ s.tether.queue = [] ∧
      s.tether.round = [] ∧ f.dst.toNat = n.val ∧ s.present n = true)
    ∧ (∃ s : State, s.tRuns = true ∧ ∃ n : Fin 16, s.serves = true ∧ s.bit aTthRaStat 31 = false ∧ n ≠ 0 ∧ s.present
      n = true) :=
  ⟨⟨(at_ Tethers.poolTm 0), by decide +kernel⟩,
    ⟨(at_ Tethers.poolTm 1), by decide +kernel, by decide +kernel, by decide +kernel, by decide +kernel, 3, ([5]),
      by decide +kernel⟩,
    ⟨(at_ Tethers.poolTm 8), by decide +kernel, 4,
      ({ dst := 0x4#4, src := 0x0#4, epoch := 0x0#8, tag := 0x5#16, body := TetherBody.hello 0x1#8 0x2#8 }), 0, 1,
      by decide +kernel⟩,
    ⟨(at_ Tethers.poolTm 6), by decide +kernel, 5,
      ({ dst := 0x5#4, src := 0x0#4, epoch := 0x0#8, tag := 0x5#16, body := TetherBody.tdly }), 2, by decide +kernel⟩,
    ⟨(at_ Tethers.poolTm 3), by decide +kernel,
      ({ dst := 0x3#4, src := 0x0#4, epoch := 0x0#8, tag := 0x5#16, body := TetherBody.poll none [] }),
      TetherWhy.poll, 1, by decide +kernel⟩,
    ⟨(at_ Tethers.poolTm 4), by decide +kernel, 3,
      ({ dst := 0x3#4, src := 0x0#4, epoch := 0x0#8, tag := 0x5#16, body := TetherBody.poll none [] }),
      by decide +kernel⟩,
    ⟨(at_ Tethers.poolTm 1), by decide +kernel, 3, by decide +kernel⟩⟩

theorem test_hypotheses_TetherSlave :
    (∃ s : State, ∃ h : TetherHead, s.takesOwn h 0 ∧ s.power.phase ≠ .powerFail ∧ ∃ lo : BitVec 8, ∃ hi : BitVec 8,
      lo.toNat ≤ 2 ∧ hi ≠ 0)
    ∧ (∃ s : State, ∃ h : TetherHead, s.takesOwn h 0 ∧ s.power.phase ≠ .powerFail ∧ ∃ lo : BitVec 8, ∃ hi : BitVec 8,
      (2 < lo.toNat ∨ hi = 0))
    ∧ (∃ s : State, ∃ h : TetherHead, s.takesOwn h 1 ∧ s.power.phase ≠ .powerFail ∧ s.tVer = 1)
    ∧ (∃ s : State, ∃ h : TetherHead, s.takesOwn h 2 ∧ s.power.phase ≠ .powerFail ∧ s.tVer = 2 ∧ s.tether.sigs = [])
    ∧ (∃ s : State, ∃ h : TetherHead, ∃ a : Word, s.takesOwn h 1 ∧ s.power.phase ≠ .powerFail ∧ regWindow a.toNat =
      true ∧ a.toNat % 4 = 0)
    ∧ (∃ s : State, ∃ h : TetherHead, ∃ a : Word, s.takesOwn h 1 ∧ s.power.phase ≠ .powerFail ∧ a.toNat = aRngTsetL)
    ∧ (∃ s : State, ∃ h : TetherHead, ∃ a : Word, s.takesOwn h 1 ∧ s.power.phase ≠ .powerFail ∧ a.toNat % 4 ≠ 0)
    ∧ (∃ s : State, ∃ h : TetherHead, s.takesOwn h 2 ∧ s.power.phase ≠ .powerFail)
    ∧ (∃ s : State, ∃ h : TetherHead, ∃ d : BitVec 16, s.takes h 2 ∧ h.dst = 0 ∧ s.power.phase ≠ .powerFail ∧
      s.tether.dly = some d)
    ∧ (∃ s : State, ∃ h : TetherHead, s.takes h 2 ∧ h.dst = 0 ∧ s.power.phase ≠ .powerFail)
    ∧ (∃ s : State, ∃ h : TetherHead, ∃ f : TetherFrame, s.takes h 2 ∧ h.dst = s.taddr ∧ h.dst ≠ 0 ∧
      s.tether.cache.find? (fun e => e.1 == h.tag) = some (h.tag, f))
    ∧ (∃ s : State, ∃ h : TetherHead, s.slave = true ∧ s.tetherEn = true ∧ s.cfgLoaded = true ∧ s.fabricOn = true ∧
      h.loss = false ∧ h.crcOk = false)
    ∧ (∃ s : State, ∃ h : TetherHead, s.power.phase = .powerFail ∧ s.takesOwn h 1)
    ∧ (∃ s : State, ∃ h : TetherHead, s.power.phase = .powerFail ∧ s.takesOwn h 2)
    ∧ (∃ s : State, ∃ u : State, exec .tetherLoss s = .next u)
    ∧ (∃ s : State, s.slave = true ∧ s.tetherEn = true ∧ s.power.phase = .run ∧ s.fld aTthCfg 15 8 ≠ 0 ∧
      s.tether.armed = true)
    ∧ (∃ s : State, ∃ w : WickId, ∃ x : BitVec 6, s.slave = true ∧ (s.wk w).st = .wait (.remote false x))
    ∧ (∃ s : State, s.slave = true) :=
  ⟨⟨(at_ Tethers.poolTs 0), ({ dst := 0x6#4, epoch := 0x0#8, tag := 0x9#16, crcOk := true, loss := false }),
      by unfold State.takesOwn State.takes; decide +kernel, by decide +kernel, 0, 1, by decide +kernel⟩,
    ⟨(at_ Tethers.poolTs 0), ({ dst := 0x6#4, epoch := 0x0#8, tag := 0x9#16, crcOk := true, loss := false }),
      by unfold State.takesOwn State.takes; decide +kernel, by decide +kernel, 0, 0, by decide +kernel⟩,
    ⟨(at_ Tethers.poolTs 1), ({ dst := 0x6#4, epoch := 0x0#8, tag := 0x9#16, crcOk := true, loss := false }),
      by unfold State.takesOwn State.takes; decide +kernel, by decide +kernel⟩,
    ⟨(at_ Tethers.poolTs 2), ({ dst := 0x6#4, epoch := 0x0#8, tag := 0x9#16, crcOk := true, loss := false }),
      by unfold State.takesOwn State.takes; decide +kernel, by decide +kernel⟩,
    ⟨(at_ Tethers.poolTs 1), ({ dst := 0x6#4, epoch := 0x0#8, tag := 0x9#16, crcOk := true, loss := false }), 269094936,
      by unfold State.takesOwn State.takes; decide +kernel, by decide +kernel⟩,
    ⟨(at_ Tethers.poolTs 1), ({ dst := 0x6#4, epoch := 0x0#8, tag := 0x9#16, crcOk := true, loss := false }), 269094936,
      by unfold State.takesOwn State.takes; decide +kernel, by decide +kernel⟩,
    ⟨(at_ Tethers.poolTs 1), ({ dst := 0x6#4, epoch := 0x0#8, tag := 0x9#16, crcOk := true, loss := false }), 1,
      by unfold State.takesOwn State.takes; decide +kernel, by decide +kernel⟩,
    ⟨(at_ Tethers.poolTs 2), ({ dst := 0x6#4, epoch := 0x0#8, tag := 0x9#16, crcOk := true, loss := false }),
      by unfold State.takesOwn State.takes; decide +kernel, by decide +kernel⟩,
    ⟨(at_ TetherTimes.poolTetherSlave0 0),
      ({ dst := 0x0#4, epoch := 0x0#8, tag := 0x9#16, crcOk := true, loss := false }), 100,
      by unfold State.takes; decide +kernel, by decide +kernel⟩,
    ⟨(at_ Tethers.poolTs 2), ({ dst := 0x0#4, epoch := 0x0#8, tag := 0x9#16, crcOk := true, loss := false }),
      by unfold State.takes; decide +kernel, by decide +kernel⟩,
    ⟨(at_ Tethers.poolTs 4), ({ dst := 0x6#4, epoch := 0x0#8, tag := 0x9#16, crcOk := true, loss := false }),
      ({ dst := 0x0#4, src := 0x0#4, epoch := 0x0#8, tag := 0x5#16, body := TetherBody.tdly }),
      by unfold State.takes; decide +kernel, by decide +kernel⟩,
    ⟨(at_ Tethers.poolTs 0), ({ dst := 0x6#4, epoch := 0x0#8, tag := 0x9#16, crcOk := false, loss := false }),
      by decide +kernel⟩,
    ⟨(at_ Tethers.poolTs 10), ({ dst := 0x6#4, epoch := 0x0#8, tag := 0x9#16, crcOk := true, loss := false }),
      by decide +kernel, by unfold State.takesOwn State.takes; decide +kernel⟩,
    ⟨(at_ Tethers.poolTs 10), ({ dst := 0x6#4, epoch := 0x0#8, tag := 0x9#16, crcOk := true, loss := false }),
      by decide +kernel, by unfold State.takesOwn State.takes; decide +kernel⟩,
    ⟨(at_ Tethers.poolTs 0), _, rfl⟩,
    ⟨(at_ Tethers.poolTs 5), by decide +kernel⟩,
    ⟨(at_ Tethers.poolTs 9), 2, 5, by decide +kernel⟩,
    ⟨(at_ Tethers.poolTs 0), by decide +kernel⟩⟩

theorem test_hypotheses_RingFrames :
    (∃ s : State, ∃ h : RingArrival, s.ringHears h ∧ ((∀ b, s.idlePort b)) ∧ s.bit aRngStat 30 = false ∧
      (s.ring.ports[portIx h.portB]).twice.length ≠ 16)
    ∧ (∃ s : State, ∃ h : RingArrival, s.ringHears h ∧ ((∀ b, s.idlePort b)) ∧ ∃ time : BitVec 64, ∃ corr : Int,
      s.bit aRngStat 30 = false ∧ (s.ring.ports[portIx h.portB]).twice.length = 16 ∧ ∃ off : Int, off = 32 * (10000 *
      (time - s.now).toInt + corr) + ((s.ring.ports[portIx h.portB]).twice.foldl (· + ·) 0 : Nat) ∧ off.natAbs ≤ 32 *
      1000000)
    ∧ (∃ s : State, ∃ h : RingArrival, s.ringHears h ∧ ((∀ b, s.idlePort b)) ∧ s.ring.best = none ∧ s.ring.run = none
      ∧ s.ring.clearAt = none)
    ∧ (∃ s : State, ∃ h : RingArrival, s.ringHears h ∧ ((∀ b, s.idlePort b)))
    ∧ (∃ s : State, ∃ h : RingArrival, s.ringHears h ∧ ((∀ b, s.idlePort b)) ∧ ∃ w : WickId, ∃ q : BitVec 16, ∃ x :
      BitVec 6, s.ring.sigs = [(w, q)] ∧ (s.wk w).st = .wait (.remote true x))
    ∧ (∃ s : State, ∃ h : RingArrival, s.ringHears h ∧ ((∀ b, s.idlePort b)) ∧ ∃ a : Word, s.power.phase ≠ .powerFail
      ∧ regWindow a.toNat = true ∧ a.toNat % 4 = 0)
    ∧ (∃ s : State, ∃ h : RingArrival, s.ringHears h ∧ ((∀ b, s.idlePort b)) ∧ s.power.phase = .powerFail)
    ∧ (∃ s : State, ∃ h : RingArrival, s.ringHears h ∧ ((∀ b, s.idlePort b)) ∧ ∃ a : Word, s.bit aRngCfg 29 = true ∧
      s.power.phase ≠ .powerFail ∧ a.toNat = aRngTsetL)
    ∧ (∃ s : State, ∃ h : RingArrival, s.ringHears h ∧ ((∀ b, s.idlePort b)) ∧ ((s.bit aRngCfg 29 = false ∨
      s.power.phase = .powerFail)))
    ∧ (∃ s : State, ∃ h : RingArrival, s.ringHears h ∧ ((∀ b, s.idlePort b)) ∧ ∃ q : BitVec 16, ∃ write : Bool,
      s.ring.ra = some (q, write))
    ∧ (∃ s : State, ∃ h : RingArrival, s.ringFirst h ∧ s.idlePort h.portB)
    ∧ (∃ s : State, ∃ h : RingArrival, s.ringFirst h)
    ∧ (∃ s : State, ∃ h : RingArrival, s.ringFirst h ∧ h.dst ≠ 0xFF ∧ h.dst ≠ s.node.setWidth 8 ∧ h.hops ≠ 0)
    ∧ (∃ s : State, ∃ h : RingArrival, h.co = [] ∧ s.ringLive = true ∧ s.fabricOn = true ∧ h.src ≠ s.node ∧ (h.src,
      h.seq) ∈ s.ring.seen ∧ h.hops = 0) :=
  ⟨⟨(at_ Rings.poolRf 0),
      ({ toRingHead := { portB := true, src := 0x9#6, dst := 0x5#8, hops := 0xa#8, seq := 0x21#16 }, co := [] }),
      by unfold State.ringHears State.ringFirst; decide +kernel, by unfold State.idlePort; decide +kernel,
      by decide +kernel⟩,
    ⟨(at_ RingTimes.poolRingFrames0 0),
      ({ toRingHead := { portB := true, src := 0x9#6, dst := 0x5#8, hops := 0xa#8, seq := 0x21#16 }, co := [] }),
      by unfold State.ringHears State.ringFirst; decide +kernel, by unfold State.idlePort; decide +kernel, 0, 0,
      by decide +kernel, by decide +kernel, 16, by decide +kernel⟩,
    ⟨(at_ Rings.poolRf 0),
      ({ toRingHead := { portB := true, src := 0x9#6, dst := 0x5#8, hops := 0xa#8, seq := 0x21#16 }, co := [] }),
      by unfold State.ringHears State.ringFirst; decide +kernel, by unfold State.idlePort; decide +kernel,
      by decide +kernel⟩,
    ⟨(at_ Rings.poolRf 0),
      ({ toRingHead := { portB := true, src := 0x9#6, dst := 0x5#8, hops := 0xa#8, seq := 0x21#16 }, co := [] }),
      by unfold State.ringHears State.ringFirst; decide +kernel, by unfold State.idlePort; decide +kernel⟩,
    ⟨(at_ Rings.poolRf 3),
      ({ toRingHead := { portB := true, src := 0x9#6, dst := 0x5#8, hops := 0xa#8, seq := 0x21#16 }, co := [] }),
      by unfold State.ringHears State.ringFirst; decide +kernel, by unfold State.idlePort; decide +kernel, 2, 5, 5,
      by decide +kernel⟩,
    ⟨(at_ Rings.poolRf 0),
      ({ toRingHead := { portB := true, src := 0x9#6, dst := 0x5#8, hops := 0xa#8, seq := 0x21#16 }, co := [] }),
      by unfold State.ringHears State.ringFirst; decide +kernel, by unfold State.idlePort; decide +kernel, 269094936,
      by decide +kernel⟩,
    ⟨(at_ Rings.poolRf 9),
      ({ toRingHead := { portB := true, src := 0x9#6, dst := 0x5#8, hops := 0xa#8, seq := 0x21#16 }, co := [] }),
      by unfold State.ringHears State.ringFirst; decide +kernel, by unfold State.idlePort; decide +kernel,
      by decide +kernel⟩,
    ⟨(at_ Rings.poolRf 0),
      ({ toRingHead := { portB := true, src := 0x9#6, dst := 0x5#8, hops := 0xa#8, seq := 0x21#16 }, co := [] }),
      by unfold State.ringHears State.ringFirst; decide +kernel, by unfold State.idlePort; decide +kernel, 269094936,
      by decide +kernel⟩,
    ⟨(at_ Rings.poolRf 6),
      ({ toRingHead := { portB := true, src := 0x9#6, dst := 0x5#8, hops := 0xa#8, seq := 0x21#16 }, co := [] }),
      by unfold State.ringHears State.ringFirst; decide +kernel, by unfold State.idlePort; decide +kernel,
      by decide +kernel⟩,
    ⟨(at_ Rings.poolRf 7),
      ({ toRingHead := { portB := true, src := 0x9#6, dst := 0x5#8, hops := 0xa#8, seq := 0x21#16 }, co := [] }),
      by unfold State.ringHears State.ringFirst; decide +kernel, by unfold State.idlePort; decide +kernel, 5, false,
      by decide +kernel⟩,
    ⟨(at_ Rings.poolRf 0),
      ({ toRingHead := { portB := true, src := 0x9#6, dst := 0x5#8, hops := 0xa#8, seq := 0x21#16 }, co := [] }),
      by unfold State.ringFirst; decide +kernel, by unfold State.idlePort; decide +kernel⟩,
    ⟨(at_ Rings.poolRf 0),
      ({ toRingHead := { portB := true, src := 0x9#6, dst := 0x5#8, hops := 0xa#8, seq := 0x21#16 }, co := [] }),
      by unfold State.ringFirst; decide +kernel⟩,
    ⟨(at_ Rings.poolRf 0),
      ({ toRingHead := { portB := false, src := 0x9#6, dst := 0x0#8, hops := 0x3#8, seq := 0x21#16 }, co := [] }),
      by unfold State.ringFirst; decide +kernel, by decide +kernel⟩,
    ⟨(at_ Rings.poolRf 8),
      ({ toRingHead := { portB := false, src := 0x9#6, dst := 0xff#8, hops := 0x0#8, seq := 0x21#16 }, co := [] }),
      by decide +kernel⟩⟩

theorem test_hypotheses_RingCommands :
    (∃ s : State, s.ringLive = true ∧ ((∀ b, s.idlePort b)))
    ∧ (∃ s : State, s.ringLive = true ∧ ((∀ b, s.idlePort b)) ∧ s.bit aRngStat 30 = true)
    ∧ (∃ s : State, s.ringLive = true ∧ ((∀ b, s.idlePort b)) ∧ s.bit aRngCfg 30 = true ∧ s.crystal = true ∧ s.bit
      aRngStat 30 = false)
    ∧ (∃ s : State, s.ringLive = true ∧ ((∀ b, s.idlePort b)) ∧ s.bit aRngStat 30 = false ∧ s.bit aRngStat 31 = true)
    ∧ (∃ s : State, s.ringLive = true ∧ ((∀ b, s.idlePort b)) ∧ ∃ l, ∃ q, s.ring.due = l :: q)
    ∧ (∃ s : State, s.ringLive = true ∧ ((∀ b, s.idlePort b)) ∧ ∃ f, ∃ k, ∃ q, ∃ l, s.ring.again = (f, k) :: q ∧
      f.body = .lantern l)
    ∧ (∃ s : State, s.ringLive = true ∧ ((∀ b, s.idlePort b)) ∧ ∃ w : WickId, ∃ x : BitVec 6, (s.wk w).st = .wait
      (.remote true x))
    ∧ (∃ s : State, s.ringLive = true ∧ ((∀ b, s.idlePort b)) ∧ s.ring.ra ≠ none)
    ∧ (∃ s : State, s.ringLive = true ∧ ((∀ b, s.idlePort b)) ∧ ∃ b : Bool, s.bit aRngStat (lockBit b) = false)
    ∧ (∃ s : State, s.ringLive = true ∧ ((∀ b, s.idlePort b)) ∧ ∃ b : Bool, s.bit aRngStat (lockBit b) = true)
    ∧ (∃ s : State, s.ringLive = true ∧ ((∀ b, s.idlePort b)) ∧ ∃ b : Bool, s.bit aRngStat (lockBit b) = false ∧
      (s.ring.ports[portIx b]).quiet = true)
    ∧ (∃ s : State, s.ringLive = true ∧ ((∀ b, s.idlePort b)) ∧ ∃ b : Bool, (s.ring.ports[portIx b]).fails.length <
      15)
    ∧ (∃ s : State, s.ringLive = true ∧ ((∀ b, s.idlePort b)) ∧ ∃ v : Word, s.serves = true ∧ v.getLsbD 31 = true)
    ∧ (∃ s : State, s.ringLive = true ∧ ((∀ b, s.idlePort b)) ∧ s.serves = true ∧ s.bit aRngRaStat 31 = false)
    ∧ (∃ s : State, s.ringLive = true ∧ ((∀ b, s.idlePort b)) ∧ s.serves = true ∧ s.bit aRngStat 30 = true)
    ∧ (∃ s : State, s.ringLive = true ∧ ((∀ b, s.idlePort b)) ∧ s.serves = true ∧ s.bit aRngStat 30 = false)
    ∧ (∃ s : State, s.ringLive = true ∧ ((∀ b, s.idlePort b)) ∧ s.serves = true)
    ∧ (∃ s : State, s.ringLive = true ∧ ((∀ b, s.idlePort b)) ∧ ∃ u : State, u.ringRx = true ∧ u.bit aRngCtl 31 =
      false) :=
  ⟨⟨(at_ Rings.poolRc 0), by decide +kernel, by unfold State.idlePort; decide +kernel⟩,
    ⟨(at_ Rings.poolRc 1), by decide +kernel, by unfold State.idlePort; decide +kernel, by decide +kernel⟩,
    ⟨(at_ Rings.poolRc 6), by decide +kernel, by unfold State.idlePort; decide +kernel, by decide +kernel⟩,
    ⟨(at_ Rings.poolRc 2), by decide +kernel, by unfold State.idlePort; decide +kernel, by decide +kernel⟩,
    ⟨(at_ Rings.poolRc 3), by decide +kernel, by unfold State.idlePort; decide +kernel,
      ({ time := 0x4d#64, src := 0x3#9, sev := 0x2#2, inj := false, inexact := false, teth := false, node := 0x9#6, taddr := 0x0#4, number := 0x9#16 }),
      ([{ time := 0x4d#64, src := 0x3#9, sev := 0x2#2, inj := false, inexact := false, teth := false, node := 0x9#6, taddr := 0x0#4, number := 0x1#16 }]),
      by decide +kernel⟩,
    ⟨(at_ RingsMore.poolRc 1), by decide +kernel, by unfold State.idlePort; decide +kernel,
      ({ src := 0x5#6, dst := 0xff#8, hops := 0x3f#8, seq := 0x4#16, body := RingBody.lantern { time := 0x4d#64, src := 0x3#9, sev := 0x2#2, inj := false, inexact := false, teth := false, node := 0x9#6, taddr := 0x0#4, number := 0x1#16 } }),
      2,
      ([({ src := 0x5#6, dst := 0xff#8, hops := 0x3f#8, seq := 0x4#16, body := RingBody.lantern { time := 0x4d#64, src := 0x3#9, sev := 0x2#2, inj := false, inexact := false, teth := false, node := 0x9#6, taddr := 0x0#4, number := 0x1#16 } },
      1)]),
      ({ time := 0x4d#64, src := 0x3#9, sev := 0x2#2, inj := false, inexact := false, teth := false, node := 0x9#6, taddr := 0x0#4, number := 0x1#16 }),
      by decide +kernel⟩,
    ⟨(at_ Rings.poolRc 7), by decide +kernel, by unfold State.idlePort; decide +kernel, 2, 5, by decide +kernel⟩,
    ⟨(at_ Rings.poolRc 8), by decide +kernel, by unfold State.idlePort; decide +kernel, by decide +kernel⟩,
    ⟨(at_ Rings.poolRc 0), by decide +kernel, by unfold State.idlePort; decide +kernel, false, by decide +kernel⟩,
    ⟨(at_ Rings.poolRc 9), by decide +kernel, by unfold State.idlePort; decide +kernel, false, by decide +kernel⟩,
    ⟨(at_ Rings.poolRc 0), by decide +kernel, by unfold State.idlePort; decide +kernel, false, by decide +kernel⟩,
    ⟨(at_ Rings.poolRc 0), by decide +kernel, by unfold State.idlePort; decide +kernel, false, by decide +kernel⟩,
    ⟨(at_ Rings.poolRc 0), by decide +kernel, by unfold State.idlePort; decide +kernel, 4294967295, by decide +kernel⟩,
    ⟨(at_ Rings.poolRc 0), by decide +kernel, by unfold State.idlePort; decide +kernel, by decide +kernel⟩,
    ⟨(at_ Rings.poolRc 1), by decide +kernel, by unfold State.idlePort; decide +kernel, by decide +kernel⟩,
    ⟨(at_ Rings.poolRc 0), by decide +kernel, by unfold State.idlePort; decide +kernel, by decide +kernel⟩,
    ⟨(at_ Rings.poolRc 0), by decide +kernel, by unfold State.idlePort; decide +kernel, by decide +kernel⟩,
    ⟨(at_ Rings.poolRc 0), by decide +kernel, by unfold State.idlePort; decide +kernel, (at_ Rings.poolRc 0),
      by decide +kernel⟩⟩

theorem test_hypotheses_AddvRule :
    (∃ s : State, ∃ w : WickId, ∃ vd : Fin 8, ∃ va : Fin 8, ∃ vb : Fin 8, s.current w = some (.addv vd va (.reg vb)))
    ∧ (∃ s : State, ∃ w : WickId, ∃ vd : Fin 8, ∃ va : Fin 8, ∃ i : Fin 524288, s.current w = some (.addv vd va (.imm
      i))) :=
  ⟨⟨(at_ Writes.poolAddvRule0 0), 2, 1, 2, 3, by decide +kernel⟩,
    ⟨(at_ Writes.poolAddvRule0 1), 2, 1, 1, 524287, by decide +kernel⟩⟩

theorem test_hypotheses_WickRegisterWrites :
    (∃ (s : State) (w : WickId), s.serves = true ∧ (s.wk w).st = .run)
    ∧ (∃ (s : State) (w : WickId) (x : WaitFor), s.serves = true ∧ (s.wk w).st = .wait x)
    ∧ (∃ s : State, ∃ w : WickId, s.serves = true ∧ (s.wk w).st ∈ [WickState.idle, .halted, .fault]) :=
  ⟨⟨prog up .nop, 2, by decide +kernel⟩,
    ⟨up.mapWk 2 (fun x => { x with st := .wait .time }), 2, .time, by decide +kernel⟩,
    ⟨(at_ Writes.poolWickRegisterWrites1 0), 0, by decide +kernel⟩⟩

theorem test_hypotheses_BlockProtectionLock :
    ∃ s : State, ∃ v : Word, s.serves = true ∧ s.lockBp = true ∧ v.extractLsb' 30 2 ≠ (s.reg aKpsCtl).extractLsb' 30 2 :=
  ⟨(at_ Writes.poolBlockProtectionLock2 0), 4294967295, by decide +kernel⟩

theorem test_hypotheses_InjectionLock :
    (∃ s : State, ∃ a : Nat, s.serves = true ∧ s.lockInject = true ∧ ((a = aInjCtl ∨ a = aInjCmd ∨ ∃ k, k < 12 ∧ a =
      aInjArm k)))
    ∧ (∃ s : State, s.serves = true ∧ s.lockInject = true)
    ∧ (∃ s : State, ∃ v : Word, s.serves = true ∧ v.getLsbD 5 = true) :=
  ⟨⟨(at_ Writes.poolInjectionLock3 0), 268697648, by decide +kernel⟩,
    ⟨(at_ Writes.poolInjectionLock3 0), by decide +kernel⟩,
    ⟨(at_ Writes.poolInjectionLock3 0), 4294967295, by decide +kernel⟩⟩

theorem test_hypotheses_ArbiterWrites :
    (∃ s : State, ∃ v : Word, s.serves = true ∧ ((s.lockCfg = true ∨ wfld v 17 16 = 3 ∨ 1024 < wfld v 10 0)))
    ∧ (∃ s : State, ∃ v : Word, s.serves = true ∧ s.lockCfg = false ∧ wfld v 17 16 ≠ 3 ∧ wfld v 10 0 ≤ 1024)
    ∧ (∃ s : State, ∃ v : Word, s.serves = true ∧ s.lockCfg = true ∧ v.getLsbD 31 = true)
    ∧ (∃ s : State, ∃ v : Word, s.serves = true ∧ v.getLsbD 31 = false)
    ∧ (∃ s : State, s.serves = true) :=
  ⟨⟨(at_ Writes.poolArbiterWrites4 0), 0, by decide +kernel⟩,
    ⟨(at_ Writes.poolArbiterWrites4 1), 0, by decide +kernel⟩,
    ⟨(at_ Writes.poolArbiterWrites4 0), 4294967295, by decide +kernel⟩,
    ⟨(at_ Writes.poolArbiterWrites4 0), 0, by decide +kernel⟩,
    ⟨(at_ Writes.poolArbiterWrites4 0), by decide +kernel⟩⟩

end Sys2Proof.Tests
end

section
/-! SUPPORT. Fields of words and readings as numbers: what `put` writes bit by bit, sign extension of a constant, and the
stored readings in the format of their point (R124). -/

namespace Sys2Proof.Machine

/-- The bits of a field just put are those of the value; every other bit is as before. -/
theorem getLsbD_put (w : Word) {hi lo : Nat} (v : Nat) (h : lo ≤ hi) {i : Nat} (h32 : i < 32) :
    (put w hi lo v).getLsbD i = if lo ≤ i ∧ i ≤ hi then v.testBit (i - lo) else w.getLsbD i := by
  simp only [put, fmask, BitVec.getLsbD_or, BitVec.getLsbD_and, BitVec.getLsbD_not, BitVec.getLsbD_ofNat,
    Nat.testBit_mul_two_pow, Nat.testBit_mod_two_pow, Nat.testBit_two_pow_sub_one, h32, decide_true, Bool.true_and]
  by_cases h1 : lo ≤ i <;> by_cases h2 : i ≤ hi
  · have : i - lo < hi + 1 - lo := by omega
    simp [h1, h2, this]
  · have : ¬ i - lo < hi + 1 - lo := by omega
    simp [h1, h2, this]
  · simp [h1]
  · simp [h1]

theorem put_upper (w : Word) (i : Nat) :
    put w 31 21 i = BitVec.ofNat 32 (i * 2 ^ 21 + w.toNat % 2 ^ 21) := by
  apply BitVec.eq_of_getLsbD_eq
  intro j hj
  rw [getLsbD_put w i (by decide) hj, BitVec.getLsbD_ofNat, Nat.mul_comm,
    Nat.testBit_two_pow_mul_add _ (Nat.mod_lt _ (by decide)), Nat.testBit_mod_two_pow]
  by_cases h : j < 21
  · simp [h, hj, BitVec.getLsbD, show ¬ 21 ≤ j by omega]
  · simp [h, hj, show 21 ≤ j by omega, show j ≤ 31 by omega]

theorem put_time {u n : Nat} (hu : u < 2 ^ 2) (hn : n < 2 ^ 24) :
    put (put 0 25 24 u) 23 0 n = BitVec.ofNat 32 (u * 2 ^ 24 + n) := by
  apply BitVec.eq_of_getLsbD_eq
  intro j hj
  rw [getLsbD_put _ n (by decide) hj, getLsbD_put _ u (by decide) hj, BitVec.getLsbD_ofNat, Nat.mul_comm,
    Nat.testBit_two_pow_mul_add _ hn]
  by_cases h : j < 24
  · simp [h, hj, show j ≤ 23 by omega]
  · have hbit : 25 < j → u.testBit (j - 24) = false := fun hj =>
      Nat.testBit_lt_two_pow (hu.trans_le (Nat.pow_le_pow_right (by decide) (by omega)))
    by_cases hj' : j ≤ 25
    · simp [h, hj, hj', show ¬ j ≤ 23 by omega, show 24 ≤ j by omega]
    · simp [h, hj, hj', show ¬ j ≤ 23 by omega, hbit (by omega)]

/-- A constant of `k + 1` bits, sign-extended. -/
theorem signExtend_ofNat {k m i : Nat} (hi : i < 2 ^ (k + 1)) :
    (BitVec.ofNat (k + 1) i).signExtend m = BitVec.ofInt m (if i < 2 ^ k then i else (i : Int) - 2 ^ (k + 1)) := by
  have hn : (BitVec.ofNat (k + 1) i).toNat = i := by
    rw [BitVec.toNat_ofNat, Nat.mod_eq_of_lt hi]
  have h2 : 2 ^ (k + 1) = 2 * 2 ^ k := Nat.pow_succ'
  rw [BitVec.signExtend, BitVec.toInt_eq_toNat_cond, hn]
  congr 1
  have : 2 * i < 2 ^ (k + 1) ↔ i < 2 ^ k := by omega
  simp only [this]
  norm_cast

theorem wfld_low (w : Word) : wfld w 15 0 = (w.extractLsb' 0 16).toNat := by
  simp [wfld, BitVec.extractLsb'_toNat]

theorem wfld_high (w : Word) : wfld w 31 16 = (w.extractLsb' 16 16).toNat := by
  simp [wfld, BitVec.extractLsb'_toNat, Nat.shiftRight_eq_div_pow]

theorem sgn_toNat (v : BitVec 16) : sgn 16 v.toNat = v.toInt := by
  rw [sgn, Nat.mod_eq_of_lt v.isLt, BitVec.toInt_eq_toNat_cond]
  have := v.isLt
  split <;> split <;> omega

/-- The formats of R124. -/
theorem ptSigned_iff (p : Nat) : ptSigned p = true ↔ 16 ≤ p ∧ p ≤ 47 ∨ p = 115 ∨ 117 ≤ p ∧ p ≤ 120 := by
  simp [ptSigned, or_assoc]

/-- A stored reading as a word: extended by the sign where its point's format is signed. -/
theorem ofInt_ptVal (p : Nat) (v : BitVec 16) :
    BitVec.ofInt 32 (ptVal p v.toNat)
      = if 16 ≤ p ∧ p ≤ 47 ∨ p = 115 ∨ 117 ≤ p ∧ p ≤ 120 then v.signExtend 32 else v.setWidth 32 := by
  simp only [ptVal, ptSigned_iff, sgn_toNat]
  split
  · rfl
  · apply BitVec.eq_of_toNat_eq
    simp

end Sys2Proof.Machine
end

section
/-! SUPPORT. What an update of one wick, and of one register, changes and leaves. -/

namespace Sys2Proof.Machine

@[simp] theorem Wick.advance_v (x : Wick) : x.advance.v = x.v := by
  unfold Wick.advance Wick.bodyEnd
  split <;> rfl

/-- Mapping a wick changes that wick and nothing else. -/
theorem State.mapWk_wickBecomes (s : State) (w : WickId) (f : Wick → Wick) :
    s.WickBecomes w (f (s.wk w)) (s.mapWk w f) :=
  ⟨rfl, s.wk_mapWk_self w f, fun _ hu => s.wk_mapWk_ne hu f⟩

theorem State.setV_wickBecomes (s : State) (w : WickId) (r : Fin 8) (v : Word) :
    s.WickBecomes w { s.wk w with v := (s.wk w).v.set r v } (s.setV w r v) :=
  s.mapWk_wickBecomes w (fun x => { x with v := x.v.set r v })

/-- A wick goes on and writes a register of V0 to V7: nothing else changes. -/
theorem State.advance_setV_wickBecomes (s : State) (w : WickId) (r : Fin 8) (v : Word) :
    s.WickBecomes w { (s.wk w).advance with v := (s.wk w).v.set r v } ((s.advance w).setV w r v) := by
  refine ⟨rfl, ?_, fun u hu => ?_⟩
  · simp [State.setV]
  · rw [State.setV, State.wk_mapWk_ne _ hu, State.wk_advance_ne _ hu]

/-- An instruction that goes on and writes `v` to a register of V0 to V7, `v` being what a rule asks. -/
theorem State.writesV {s : State} {w : WickId} {i : Instr} {r : Fin 8} {v v' : Word}
    (h : exec i s = .next ((s.advance w).setV w r v)) (hv : v = v') :
    ∃ t, exec i s = .next t ∧ s.WickBecomes w { (s.wk w).advance with v := (s.wk w).v.set r v' } t :=
  ⟨_, h, hv ▸ s.advance_setV_wickBecomes w r v⟩

/-- Setting bits of a register changes no other and nothing else. -/
theorem State.orReg_regsBecome (s : State) (a : Nat) (m : Word) : s.RegsBecome [a] (s.orReg a m) :=
  ⟨rfl, fun _ hb => s.reg_orReg_ne (mt List.mem_singleton.2 hb) m⟩

end Sys2Proof.Machine
end

section
/-! SUPPORT. A wick fault changes no wick but its own. The end of the program that the wick ran (R236) moves tripped rails
(R52), which then settle: none of the transitions they meet touches a wick, and none escalates to GROUP_OFF (R60), so no
program starts in the cycle. -/

namespace Sys2Proof.Machine

/-! What a rail transition leaves alone: the wicks -/

theorem Collects.wicks {s t : State} (h : Collects s t) : t.wicks = s.wicks := by
  rw [h.fields]

section
variable (s : State)

@[simp] theorem State.lhAbort_wicks : s.lhAbort.wicks = s.wicks := (State.lhAbort_collects s (Collects.rfl' s)).wicks

@[simp] theorem State.kick_wicks (p : Fin 4) : (s.kick p).wicks = s.wicks := by
  unfold State.kick
  dsimp only
  repeat' split
  all_goals rfl

@[simp] theorem State.queueTx_wicks (p : Fin 4) (l : List PmbTx) : (s.queueTx p l).wicks = s.wicks := by
  simp [State.queueTx]

@[simp] theorem State.dropPreamble_wicks (r : Rail) : (s.dropPreamble r).wicks = s.wicks := rfl

@[simp] theorem State.startPreamble_wicks (r : Rail) : (s.startPreamble r).wicks = s.wicks := by
  simp [State.startPreamble]

@[simp] theorem State.marginTx_wicks (r : Rail) (v : Int) : (s.marginTx r v).wicks = s.wicks := by
  simp [State.marginTx]

@[simp] theorem State.blankOv_wicks (r : Rail) : (s.blankOv r).wicks = s.wicks := by
  unfold State.blankOv
  split <;> rfl

@[simp] theorem State.blankUv_wicks (r : Rail) : (s.blankUv r).wicks = s.wicks := by
  unfold State.blankUv
  split <;> rfl

@[simp] theorem State.blankOc_wicks (r : Rail) : (s.blankOc r).wicks = s.wicks := by
  unfold State.blankOc
  split <;> rfl

@[simp] theorem State.blankAll_wicks (r : Rail) : (s.blankAll r).wicks = s.wicks := by
  simp [State.blankAll]

@[simp] theorem State.switchUv_wicks (r : Rail) : (s.switchUv r).wicks = s.wicks := by
  unfold State.switchUv
  split <;> rfl

@[simp] theorem State.setStep_wicks (r : Rail) (v : Int) : (s.setStep r v).wicks = s.wicks := rfl

@[simp] theorem State.marginDrop_wicks (r : Rail) : (s.marginDrop r).wicks = s.wicks := by
  unfold State.marginDrop
  dsimp only
  split <;> simp

@[simp] theorem State.enter_wicks (r : Rail) (st : RailState) : (s.enter r st).wicks = s.wicks := by
  unfold State.enter
  dsimp only
  split <;> split <;> simp

@[simp] theorem State.stop_wicks (r : Rail) : (s.stop r).wicks = s.wicks := by
  unfold State.stop
  dsimp only
  split <;> simp

@[simp] theorem State.startStage_wicks (r : Rail) : (s.startStage r).wicks = s.wicks := by
  unfold State.startStage
  dsimp only
  split <;> simp [State.startPeriod]

@[simp] theorem State.toRising_wicks (r : Rail) : (s.toRising r).wicks = s.wicks := by
  unfold State.toRising
  dsimp only
  rw [apply_ite State.wicks]
  simp

@[simp] theorem State.toTripped_wicks (r : Rail) (k : BitVec 3) : (s.toTripped r k).wicks = s.wicks := by
  unfold State.toTripped
  dsimp only
  split <;> simp

@[simp] theorem State.toFalling_wicks (r : Rail) : (s.toFalling r).wicks = s.wicks := by
  unfold State.toFalling
  dsimp only
  split <;> simp

@[simp] theorem State.toOff_wicks (r : Rail) : (s.toOff r).wicks = s.wicks := by
  simp [State.toOff]

@[simp] theorem State.withdrawUp_wicks (d : DomId) : (s.withdrawUp d).wicks = s.wicks := by
  unfold State.withdrawUp
  split <;> rfl

end

/-! A cycle that has neither changed a wick nor escalated a rail since `c` -/

/-- Since `c` no wick has changed and no reaction has escalated to GROUP_OFF. -/
structure Cyc.SameWicks (c d : Cyc) : Prop where
  wicks : d.s.wicks = c.s.wicks
  groupOff : d.groupOff = c.groupOff

namespace Cyc.SameWicks

variable {c d : Cyc}

theorem rfl' (c : Cyc) : c.SameWicks c := ⟨rfl, rfl⟩

theorem trans {e : Cyc} (h : c.SameWicks d) (k : d.SameWicks e) : c.SameWicks e :=
  ⟨k.wicks.trans h.wicks, k.groupOff.trans h.groupOff⟩

theorem map (h : c.SameWicks d) {f : State → State} (hf : (f d.s).wicks = d.s.wicks) : c.SameWicks (d.map f) :=
  ⟨hf.trans h.wicks, h.groupOff⟩

theorem flag (h : c.SameWicks d) (r : Rail) (i : Nat) : c.SameWicks (d.flag r i) := h.map rfl

theorem raise (h : c.SameWicks d) (n : Nat) : c.SameWicks (d.raise n) := ⟨h.wicks, h.groupOff⟩

theorem forAll {α : Type} {f : Cyc → α → Cyc} (hf : ∀ d x, c.SameWicks d → c.SameWicks (f d x)) (l : List α)
    (h : c.SameWicks d) : c.SameWicks (d.forAll l f) := by
  induction l generalizing d with
  | nil => exact h
  | cons x l ih => exact ih (hf d x h)

theorem powerGood (h : c.SameWicks d) (r : Rail) : c.SameWicks (d.transition r .powerGood) := by
  simp only [Cyc.transition]
  exact h.map (by simp)

theorem tonExpiry (h : c.SameWicks d) (r : Rail) : c.SameWicks (d.transition r .tonExpiry) := by
  simp only [Cyc.transition]
  exact ((h.map (by simp)).flag r 8).raise _

theorem belowVoff (h : c.SameWicks d) (r : Rail) : c.SameWicks (d.transition r .belowVoff) := by
  simp only [Cyc.transition]
  split
  · exact h.map (by simp)
  · exact h.map (by simp)

theorem toffExpiry (h : c.SameWicks d) (r : Rail) : c.SameWicks (d.transition r .toffExpiry) := by
  simp only [Cyc.transition]
  split
  · split
    · exact (((h.map (by simp)).flag r 10).flag r 9).raise _
    · exact (h.map (by simp)).flag r 10
  · exact ((h.map (by simp)).flag r 8).raise _
  · split
    · exact (h.map (by simp)).flag r 11
    · exact (((h.map (by simp)).flag r 11).flag r 9).raise _

/-- A settling rail meets power-good, the two timeouts and the fall below VOFF alone. -/
theorem settle (n : Nat) (h : c.SameWicks d) (r : Rail) : c.SameWicks (Cyc.settle n d r) := by
  induction n generalizing d with
  | zero => exact h
  | succ n ih =>
    have hj : c.SameWicks (d.map (fun s => s.judgePg r)) := h.map rfl
    simp only [Cyc.settle]
    generalize d.map (fun s => s.judgePg r) = e at hj
    split
    · split
      · exact hj.powerGood r
      · split
        · exact ih (hj.tonExpiry r)
        · exact hj
    case h_4 => exact hj
    all_goals
      split
      · exact hj
      · split
        · exact ih (hj.belowVoff r)
        · split
          · exact ih (hj.toffExpiry r)
          · exact hj

theorem releaseTripped (h : c.SameWicks d) (m : DomId) : c.SameWicks (d.releaseTripped m) :=
  forAll (fun _ r hd => settle 5 (hd.map (by simp)) r) _ h

theorem endProg (h : c.SameWicks d) (m : DomId) (last : BitVec 3) : c.SameWicks (d.endProg m last) := by
  have hm := h.map (f := fun s => s.setDom m { s.dom m with prog := .none, last := last }) rfl
  unfold Cyc.endProg
  dsimp only
  split
  · exact hm.releaseTripped m
  · exact hm

/-- The end of a domain's program touches no wick. -/
theorem wickEnded (h : c.SameWicks d) (w : WickId) (faulted : Bool) : c.SameWicks (d.wickEnded w faulted) := by
  unfold Cyc.wickEnded
  split
  · exact h
  · split
    · exact h.endProg _ _
    · exact h.endProg _ _
    · exact h.endProg _ _
    · exact (h.endProg _ _).map (by simp)
    · exact h

end Cyc.SameWicks

/-- The end of a cycle in which no rail escalates touches no wick. -/
theorem Cyc.finish_wicks {c : Cyc} (h : c.groupOff = []) (inj : Bool) : (c.finish inj).wicks = c.s.wicks := by
  obtain ⟨u, hu, he⟩ := Cyc.finish_collects c h inj
  rw [he, ← hu.wicks]

/-- A wick just after its fault (R175, R177). -/
def Wick.faulted (x : Wick) (code : BitVec 4) : Wick :=
  { x with st := .fault, fault := true, fcode := code, deadline := none }.bump

/-- A wick fault, with the end of the program that the wick ran, changes no wick but the faulting one. -/
theorem State.wickFault_wicks (s : State) (w : WickId) (code : BitVec 4) :
    (s.wickFault w code).wicks = (s.mapWk w (·.faulted code)).wicks := by
  have h : Cyc.SameWicks { s := s.mapWk w (·.faulted code) } (Cyc.wickFault { s := s } w code) :=
    ((Cyc.SameWicks.rfl' _).wickEnded w true).raise (srcWick w)
  rw [State.wickFault, State.cyc, Cyc.finish_wicks h.groupOff]
  exact h.wicks

theorem State.wk_wickFault_self (s : State) (w : WickId) (code : BitVec 4) :
    (s.wickFault w code).wk w = (s.wk w).faulted code := by
  rw [State.wk, State.wickFault_wicks]
  exact s.wk_mapWk_self w _

end Sys2Proof.Machine
end

section
/-! SUPPORT. A 32-bit register write (R410 to R413), and the write of SEQ_WVn_k (R228). -/

namespace Sys2Proof.Machine

theorem le_of_regWindow {a : Nat} (h : regWindow a = true) : 0x10000000 ≤ a := by
  simp only [regWindow, Bool.or_eq_true, Bool.and_eq_true, decide_eq_true_eq] at h
  omega

/-- An aligned 32-bit write in the register windows is the register's write. -/
theorem State.write32_eq_regWrite {a : Nat} (hw : regWindow a = true) (h4 : a % 4 = 0) (s : State) (who : Who)
    (v ev : Word) : s.write32 who a v ev = s.regWrite who a (landed a v ev) := by
  have ha := le_of_regWindow hw
  have hk : ¬ a < 0x40000 := by omega
  have ht : ¬ a < 0x50000 := by omega
  simp [State.write32, State.transfer, shapeOk, h4, hw, hk, ht]

/-- REGISTER_WRITE on a device that serves registers. -/
theorem execRegisterWrite_eq {s : State} {a : Nat} (hs : s.serves = true) (hw : regWindow a = true) (h4 : a % 4 = 0)
    (who : Who) (v ev : Word) :
    exec (.registerWrite who a v ev) s = .next (s.regWrite who a (landed a v ev)).1 := by
  rw [exec, execRegisterWrite, hs, hw, State.write32_eq_regWrite hw h4]
  rfl

/-- A register without W1C bits takes the word as written. -/
theorem landed_of_eventBits {a : Nat} (h : eventBits a = 0) (v ev : Word) : landed a v ev = v := by
  unfold landed
  split
  · rfl
  · rw [h]
    exact (congrArg (v &&& ~~~·) BitVec.and_zero).trans BitVec.and_allOnes

/-! SEQ_WVn_k -/

theorem aWV_eq (w : WickId) (k : Fin 8) : aWV w k = 0x10030300 + 0x20 * w.val + 4 * k.val := by
  rw [aWV, aSeq]
  omega

theorem regWindow_aWV (w : WickId) (k : Fin 8) : regWindow (aWV w k) = true := by
  have h := aWV_eq w k
  simp only [regWindow, Bool.or_eq_true, Bool.and_eq_true, decide_eq_true_eq]
  omega

theorem aWV_aligned (w : WickId) (k : Fin 8) : aWV w k % 4 = 0 := by
  have h := aWV_eq w k
  omega

theorem aWV_block (w : WickId) (k : Fin 8) : aWV w k / 0x10000 = 0x1003 := by
  have h := aWV_eq w k
  omega

theorem eventBits_aWV (w : WickId) (k : Fin 8) : eventBits (aWV w k) = 0 := by
  have h := aWV_eq w k
  simp only [eventBits, aWV_block]
  rw [if_neg (by omega), if_neg (by omega), if_neg (by omega), if_neg (by omega)]

/-- A write of SEQ_WVn_k, refused in RUN and WAIT and taken in the other states of the wick. -/
theorem State.regWrite_aWV (s : State) (who : Who) (w : WickId) (k : Fin 8) (v : Word) :
    (((s.wk w).st = .run ∨ ∃ x, (s.wk w).st = .wait x) →
      s.regWrite who (aWV w k) v = (s.orReg aSeqStat (bitw 0), false))
    ∧ ((s.wk w).st ∈ [WickState.idle, .halted, .fault] → s.regWrite who (aWV w k) v = (s.setV w k v, true)) := by
  have hoff : aWV w k - 0x10030000 = 0x300 + 0x20 * w.val + 4 * k.val := by
    rw [aWV_eq]
    omega
  have hne : ∀ b < 0x300, aWV w k ≠ aSeq b := by
    intro b hb
    rw [aWV, aSeq, aSeq]
    omega
  have hlow : ∀ b ≤ 0x300, ¬ 0x300 + 0x20 * w.val + 4 * k.val < b := by omega
  have hin : 0x300 ≤ 0x300 + 0x20 * w.val + 4 * k.val ∧ 0x300 + 0x20 * w.val + 4 * k.val < 0x500 := by omega
  have hw : (Fin.ofNat 16 ((0x300 + 0x20 * w.val + 4 * k.val - 0x300) / 0x20) : WickId) = w := Fin.ext (by simp; omega)
  have hk : Fin.ofNat 8 ((0x300 + 0x20 * w.val + 4 * k.val) % 0x20 / 4) = k := Fin.ext (by simp; omega)
  simp only [State.regWrite, aWV_block, State.seqWrite, hoff, aSeqCtl, aSeqStat, aSeqCmd, aSeqImg, aSeqImgCrc, aSeqImgVer]
  rw [if_neg (hne _ (by decide)), if_neg (hne _ (by decide)), if_neg (hne _ (by decide)), if_neg (hne _ (by decide)),
    if_neg (not_or.2 ⟨hne _ (by decide), hne _ (by decide)⟩), if_neg (fun h => hlow _ (by decide) h.2),
    if_neg (fun h => hlow _ (by decide) h.2), if_neg (fun h => hlow _ (by decide) h.2), if_pos hin, hw, hk]
  constructor
  · rintro (h | ⟨x, h⟩) <;> simp [h]
  · simp only [List.mem_cons, List.not_mem_nil, or_false]
    rintro (h | h | h) <;> simp [h]

/-- REGISTER_WRITE of SEQ_WVn_k is the register's write with the word as written. -/
theorem execRegisterWrite_aWV {s : State} (hs : s.serves = true) (who : Who) (w : WickId) (k : Fin 8) (v ev : Word) :
    exec (.registerWrite who (aWV w k) v ev) s = .next (s.regWrite who (aWV w k) v).1 := by
  rw [execRegisterWrite_eq hs (regWindow_aWV w k) (aWV_aligned w k), landed_of_eventBits (eventBits_aWV w k)]

end Sys2Proof.Machine
end

section
/-! PROOF. SETV (R215, R216). -/

namespace Sys2Proof.Machine

/-! The four forms -/

theorem execSetv_const {s : State} {w : WickId} {vd : Fin 8} {i : Fin 2097152}
    (h : s.current w = some (.setv vd (.const i))) :
    exec (.setv w) s = .next ((s.advance w).setV w vd ((BitVec.ofNat 21 i.val).signExtend 32)) := by
  simp [exec, execSetv, h]

theorem execSetv_upper {s : State} {w : WickId} {vd : Fin 8} {i : Fin 2048}
    (h : s.current w = some (.setv vd (.upper i))) :
    exec (.setv w) s = .next ((s.advance w).setV w vd (put (s.vreg w vd) 31 21 i.val)) := by
  simp [exec, execSetv, h]

theorem execSetv_time {s : State} {w : WickId} {vd : Fin 8} {u : Fin 4} {n : Fin 524288}
    (h : s.current w = some (.setv vd (.time u n))) :
    exec (.setv w) s = .next ((s.advance w).setV w vd (put (put 0 25 24 u.val) 23 0 n.val)) := by
  simp [exec, execSetv, h]

/-- A source whose argument is in range. -/
theorem execSetv_source {s : State} {w : WickId} {vd : Fin 8} {k : Fin 32} {a : Ref (Fin 32768)} {v : Word}
    (h : s.current w = some (.setv vd (.source k a))) (hv : s.source w k (s.operand w 32 a) = some v) :
    exec (.setv w) s = .next ((s.advance w).setV w vd v) := by
  simp [exec, execSetv, h, hv]

/-- A source whose argument is out of range. -/
theorem execSetv_badSource {s : State} {w : WickId} {vd : Fin 8} {k : Fin 32} {a : Ref (Fin 32768)}
    (h : s.current w = some (.setv vd (.source k a))) (hv : s.source w k (s.operand w 32 a) = none) :
    exec (.setv w) s = .next (s.wickFault w 5) := by
  simp [exec, execSetv, h, hv]

/-! The sources of R216 -/

/-- Ring time, LC and the signal flags take the argument 0. -/
theorem State.source_zero {s : State} {w : WickId} {k : Fin 32} {v : Word}
    (h : k = 3 ∧ v = BitVec.ofNat 32 (s.ring.time.toNat % 2 ^ 32) ∨ k = 4 ∧ v = BitVec.ofNat 32 (s.ring.time.toNat / 2 ^ 32)
      ∨ k = 7 ∧ v = BitVec.ofNat 32 (s.wk w).lc.toNat ∨ k = 8 ∧ v = BitVec.ofNat 32 (s.wk w).sigs.toNat) :
    s.source w k 0 = some v := by
  obtain ⟨rfl, rfl⟩ | ⟨rfl, rfl⟩ | ⟨rfl, rfl⟩ | ⟨rfl, rfl⟩ := h
  · exact congrArg some (BitVec.eq_of_toNat_eq (by simp [State.now]))
  · exact congrArg some (BitVec.eq_of_toNat_eq (by simp [State.now, Nat.shiftRight_eq_div_pow]))
  · exact congrArg some (BitVec.eq_of_toNat_eq (by simp))
  · exact congrArg some (BitVec.eq_of_toNat_eq (by simp))

/-- CH_STATE and CH_FLAGS of a rail. -/
theorem State.source_rail {s : State} {w : WickId} {k : Fin 32} {n : Nat} {v : Word} (hn : n < 64)
    (h : k = 5 ∧ v = s.chState (Fin.ofNat 64 n) ∨ k = 6 ∧ v = s.chFlags (Fin.ofNat 64 n)) :
    s.source w k n = some v := by
  obtain ⟨rfl, rfl⟩ | ⟨rfl, rfl⟩ := h <;> exact if_neg (Nat.not_le.2 hn)

/-- VAL, LAST and PEAK of a point, extended by its result format. -/
theorem State.source_point {s : State} {w : WickId} {k : Fin 32} {p : Nat} {v : BitVec 16} (hp : p < 124)
    (h : k = 0 ∧ v = (s.reg (aVal p)).extractLsb' 0 16 ∨ k = 1 ∧ v = (s.reg (aLast p)).extractLsb' 0 16
      ∨ k = 2 ∧ v = (s.reg (aLast p)).extractLsb' 16 16) :
    s.source w k p
      = some (if 16 ≤ p ∧ p ≤ 47 ∨ p = 115 ∨ 117 ≤ p ∧ p ≤ 120 then v.signExtend 32 else v.setWidth 32) := by
  rw [← ofInt_ptVal]
  obtain ⟨rfl, rfl⟩ | ⟨rfl, rfl⟩ | ⟨rfl, rfl⟩ := h
  · rw [← wfld_low]
    exact if_neg (Nat.not_le.2 hp)
  · rw [← wfld_low]
    exact if_neg (Nat.not_le.2 hp)
  · rw [← wfld_high]
    exact if_neg (Nat.not_le.2 hp)

/-- An argument beyond the points, beyond the rails, or not 0 where the source takes none. -/
theorem State.source_eq_none {s : State} {w : WickId} {k : Fin 32} {n : Nat}
    (h : k.val < 3 ∧ 124 ≤ n ∨ (k = 5 ∨ k = 6) ∧ 64 ≤ n ∨ (k = 3 ∨ k = 4 ∨ k = 7 ∨ k = 8) ∧ n ≠ 0) :
    s.source w k n = none := by
  obtain ⟨hk, hn⟩ | ⟨rfl | rfl, hn⟩ | ⟨rfl | rfl | rfl | rfl, hn⟩ := h
  · obtain hk | hk | hk : k.val = 0 ∨ k.val = 1 ∨ k.val = 2 := by omega
    all_goals
      rw [hk]
      exact if_pos hn
  · exact if_pos hn
  · exact if_pos hn
  all_goals exact if_neg hn

theorem execSetv_fault {s : State} {w : WickId} {vd : Fin 8} {k : Fin 32} {a : Ref (Fin 32768)}
    (h : s.current w = some (.setv vd (.source k a))) (hv : s.source w k (s.operand w 32 a) = none) :
    ∃ t, exec (.setv w) s = .next t ∧ (t.wk w).st = .fault ∧ (t.wk w).fcode = 5 ∧ (t.wk w).v = (s.wk w).v := by
  refine ⟨_, execSetv_badSource h hv, ?_⟩
  rw [State.wk_wickFault_self]
  exact ⟨rfl, rfl, rfl⟩

/-- Settles O14, form by form and, for the fourth form, source by source. -/
theorem setvRule : Obligations.SetvRule := by
  unfold Obligations.SetvRule
  refine ⟨fun s w vd i h => State.writesV (execSetv_const h) ?const,
    fun s w vd i h => State.writesV (execSetv_upper h) (put_upper _ _),
    fun s w vd u n h => State.writesV (execSetv_time h) (put_time u.isLt (n.isLt.trans (by decide))),
    fun s w vd k a v h ha hv => State.writesV (execSetv_source h ?zero) rfl,
    fun s w vd k a v h ha hv => State.writesV (execSetv_source h (State.source_rail ha hv)) rfl,
    fun s w vd k a p v h ha hp hv => State.writesV (execSetv_source h ?point) rfl,
    fun s w vd k a h hbad => execSetv_fault h (State.source_eq_none hbad)⟩
  case const =>
    rw [signExtend_ofNat (k := 20) i.isLt]
    norm_num
  case zero =>
    rw [ha]
    exact State.source_zero hv
  case point =>
    rw [ha]
    exact State.source_point hp hv

end Sys2Proof.Machine
end

section
/-! PROOF. ADDV (R217). -/

namespace Sys2Proof.Machine

theorem execAddv_reg {s : State} {w : WickId} {vd va vb : Fin 8} (h : s.current w = some (.addv vd va (.reg vb))) :
    exec (.addv w) s = .next ((s.advance w).setV w vd (s.vreg w va + s.vreg w vb)) := by
  simp [exec, execAddv, h]

theorem execAddv_imm {s : State} {w : WickId} {vd va : Fin 8} {i : Fin 524288}
    (h : s.current w = some (.addv vd va (.imm i))) :
    exec (.addv w) s = .next ((s.advance w).setV w vd (s.vreg w va + (BitVec.ofNat 19 i.val).signExtend 32)) := by
  simp [exec, execAddv, h]

/-- Settles O56, form by form. -/
theorem addvRule : Obligations.AddvRule := by
  unfold Obligations.AddvRule
  refine ⟨fun s w vd va vb h => State.writesV (execAddv_reg h) rfl,
    fun s w vd va i h => State.writesV (execAddv_imm h) ?_⟩
  rw [signExtend_ofNat (k := 18) i.isLt]
  norm_num

end Sys2Proof.Machine
end

section
/-! PROOF. Writes of the wick registers (R228). -/

namespace Sys2Proof.Machine

/-- Settles O57: the write is refused in RUN and WAIT and taken in IDLE, HALTED and FAULT. -/
theorem wickRegisterWrites : Obligations.WickRegisterWrites := by
  unfold Obligations.WickRegisterWrites
  intro s who w k v hw hs
  obtain ⟨refused, taken⟩ := s.regWrite_aWV who w k v
  rw [execRegisterWrite_aWV hs]
  refine ⟨fun h => ?_, fun h => ?_⟩
  · rw [refused h]
    exact ⟨_, rfl, s.orReg_regsBecome _ _, s.reg_orReg_self _ _⟩
  · rw [taken h]
    exact ⟨_, rfl, s.setV_wickBecomes w k v⟩

end Sys2Proof.Machine
end

section
/-! SUPPORT. The write of KPS_CTL under LOCK_BP (R336). -/

namespace Sys2Proof.Machine

/-- A field as a number is the number of its slice. -/
theorem wfld_eq_toNat (w : Word) (hi lo : Nat) : wfld w hi lo = (w.extractLsb' lo (hi + 1 - lo)).toNat := by
  rw [wfld, BitVec.extractLsb'_toNat, Nat.shiftRight_eq_div_pow]

/-- Two words differ in a field as numbers exactly where their slices differ. -/
theorem wfld_ne_iff (v w : Word) (hi lo : Nat) :
    wfld v hi lo ≠ wfld w hi lo ↔ v.extractLsb' lo (hi + 1 - lo) ≠ w.extractLsb' lo (hi + 1 - lo) := by
  rw [wfld_eq_toNat, wfld_eq_toNat, ne_eq, BitVec.toNat_inj]

/-- With LOCK_BP set, the store controller answers a write that changes BP with CFG_REF alone. -/
theorem State.kpsWrite_aKpsCtl_refused {s : State} {v : Word} (hl : s.lockBp = true)
    (hbp : wfld v 31 30 ≠ s.fld aKpsCtl 31 30) :
    s.kpsWrite aKpsCtl v = some (s.orReg aKpsStat (bitw 0), false) := by
  have hchanges : (s.lockBp && wfld v 31 30 != s.fld aKpsCtl 31 30) = true := by
    rw [hl, Bool.true_and, bne_iff_ne]
    exact hbp
  simp only [State.kpsWrite, if_true, hchanges, Bool.true_or]

/-- A register write in the store controller's block is the controller's; one that it does not take is ignored. -/
theorem State.regWrite_kpsBlock {a : Nat} (ha : a / 0x10000 = 0x1006) (s : State) (who : Who) (v : Word) :
    s.regWrite who a v = (s.kpsWrite a v).getD (s, true) := by
  simp only [State.regWrite, ha]

/-- A 32-bit write of KPS_CTL, which has no W1C bit, is the store controller's write of the word as written. -/
theorem State.write32_aKpsCtl (s : State) (who : Who) (v ev : Word) :
    s.write32 who aKpsCtl v ev = (s.kpsWrite aKpsCtl v).getD (s, true) := by
  rw [State.write32_eq_regWrite (by decide) (by decide), landed_of_eventBits (by decide),
    State.regWrite_kpsBlock (by decide)]

/-- REGISTER_WRITE does what the 32-bit write does. -/
theorem execRegisterWrite_eq_write32 {s : State} {a : Nat} (hs : s.serves = true) (hw : regWindow a = true) (who : Who)
    (v ev : Word) : exec (.registerWrite who a v ev) s = .next (s.write32 who a v ev).1 := by
  rw [exec, execRegisterWrite, hs, hw]
  rfl

end Sys2Proof.Machine
end

section
/-! PROOF. LOCK_BP and KPS_CTL.BP (R336). -/

namespace Sys2Proof.Machine

/-- Settles O58: the write is the store controller's, which answers it with CFG_REF and leaves every other register. -/
theorem blockProtectionLock : Obligations.BlockProtectionLock := by
  unfold Obligations.BlockProtectionLock
  intro s who v ev hs hl hbp
  have hne : wfld v 31 30 ≠ s.fld aKpsCtl 31 30 := (wfld_ne_iff v _ 31 30).2 hbp
  have hrefused : s.write32 who aKpsCtl v ev = (s.orReg aKpsStat (bitw 0), false) := by
    rw [State.write32_aKpsCtl, State.kpsWrite_aKpsCtl_refused hl hne, Option.getD_some]
  rw [execRegisterWrite_eq_write32 hs (by decide), hrefused]
  exact ⟨rfl, _, rfl, s.orReg_regsBecome _ _, s.reg_orReg_self _ _⟩

end Sys2Proof.Machine
end

section
/-! SUPPORT. The writes of the arbiter's registers (R424, R426). -/

namespace Sys2Proof.Machine

/-! What a change of registers leaves -/

/-- Storing a register's word changes no other and nothing else. -/
theorem State.setReg_regsBecome (s : State) (a : Nat) (v : Word) : s.RegsBecome [a] (s.setReg a v) :=
  ⟨rfl, fun _ hb => s.reg_setReg_ne (mt List.mem_singleton.2 hb) v⟩

/-- Clearing bits of a register changes no other and nothing else. -/
theorem State.clrReg_regsBecome (s : State) (a : Nat) (m : Word) : s.RegsBecome [a] (s.clrReg a m) :=
  s.setReg_regsBecome a _

theorem State.RegsBecome.trans {s t u : State} {l m : List Nat} (h : s.RegsBecome l t) (k : t.RegsBecome m u) :
    s.RegsBecome (m ++ l) u := by
  obtain ⟨hrest, hregs⟩ := h
  obtain ⟨krest, kregs⟩ := k
  refine ⟨?_, fun a ha => ?_⟩
  · rw [krest, hrest]
  · obtain ⟨hm, hl⟩ := not_or.1 (mt List.mem_append.2 ha)
    rw [kregs a hm, hregs a hl]

/-! The arbiter's block -/

/-- The W1C bits of a word that are left beside the events of the cycle (R11). -/
theorem landed_and_eventBits {a : Nat} (ha : a ≠ aLock) (v ev : Word) :
    landed a v ev &&& eventBits a = v &&& ~~~ev &&& eventBits a := by
  rw [landed, if_neg ha]
  ext i hi
  simp only [BitVec.getElem_and, BitVec.getElem_not]
  cases (eventBits a)[i] <;> simp

/-- A 32-bit write in the arbiter's block is the arbiter's; one that it does not take is ignored. -/
theorem State.write32_arbBlock {a : Nat} (ha : a / 0x10000 = 0x1008) (h4 : a % 4 = 0) (s : State) (who : Who)
    (v ev : Word) : s.write32 who a v ev = (s.arbWrite a (landed a v ev)).getD (s, true) := by
  have hw : regWindow a = true := by
    simp only [regWindow, Bool.or_eq_true, Bool.and_eq_true, decide_eq_true_eq]
    omega
  rw [State.write32_eq_regWrite hw h4]
  simp only [State.regWrite, ha]

/-! ARB_STAT and ARB_STARVE -/

/-- A register of the arbiter whose write clears its W1C bits: an event of the same cycle stays (R11). -/
theorem State.write32_arbW1c {s : State} {a : Nat} (ha : a / 0x10000 = 0x1008) (h4 : a % 4 = 0)
    (hclr : ∀ w, s.arbWrite a w = some (s.clrReg a (w &&& eventBits a), true)) (who : Who) (v ev : Word) :
    s.write32 who a v ev = (s.clrReg a (v &&& ~~~ev &&& eventBits a), true) := by
  have hne : a ≠ aLock := by
    rintro rfl
    exact absurd ha (by decide)
  rw [State.write32_arbBlock ha h4, hclr, landed_and_eventBits hne, Option.getD_some]

theorem State.write32_aArbStat (s : State) (who : Who) (v ev : Word) :
    s.write32 who aArbStat v ev = (s.clrReg aArbStat (v &&& ~~~ev &&& 3), true) :=
  State.write32_arbW1c (by decide) (by decide) (fun _ => rfl) who v ev

theorem State.write32_aArbStarve (s : State) (who : Who) (v ev : Word) :
    s.write32 who aArbStarve v ev = (s.clrReg aArbStarve (v &&& ~~~ev &&& 0x1FFF), true) :=
  State.write32_arbW1c (by decide) (by decide) (fun _ => rfl) who v ev

/-! ARB_COMMIT -/

/-- CLRCNT of a word written to ARB_COMMIT (R424). -/
def State.clrcnt (s : State) (v : Word) : State := if tst v 30 then s.setReg aArbPre 0 else s

theorem State.clrcnt_regsBecome (s : State) (v : Word) : s.RegsBecome [aArbPre] (s.clrcnt v) := by
  unfold State.clrcnt
  split
  · exact s.setReg_regsBecome _ _
  · exact ⟨rfl, fun _ _ => rfl⟩

theorem State.reg_clrcnt_aArbPre (s : State) (v : Word) :
    (s.clrcnt v).reg aArbPre = if v.getLsbD 30 then 0 else s.reg aArbPre := by
  rw [State.clrcnt, apply_ite (State.reg · aArbPre), State.reg_setReg_self]
  rfl

theorem State.reg_clrcnt_ne (s : State) {a : Nat} (ha : a ≠ aArbPre) (v : Word) : (s.clrcnt v).reg a = s.reg a :=
  (s.clrcnt_regsBecome v).2 a (mt List.mem_singleton.1 ha)

theorem State.clrcnt_lockCfg (s : State) (v : Word) : (s.clrcnt v).lockCfg = s.lockCfg :=
  congrArg (tst · 0) (s.reg_clrcnt_ne (by decide) v)

/-- CLRCNT acts first, whether or not the word has COMMIT and whether or not COMMIT is refused. -/
theorem State.write32_aArbCommit (s : State) (who : Who) (v ev : Word) :
    s.write32 who aArbCommit v ev = if v.getLsbD 31 then (s.clrcnt v).arbCommit else (s.clrcnt v, true) := by
  rw [State.write32_arbBlock (by decide) (by decide), landed_of_eventBits (by decide), State.arbWrite,
    if_neg (by decide), if_pos rfl]
  rfl

/-- COMMIT under LOCK_CFG is refused. -/
theorem State.arbCommit_locked {s : State} (hl : s.lockCfg = true) :
    s.arbCommit = (s.orReg aArbStat (bitw 0), false) := by
  rw [State.arbCommit, if_pos hl]

/-! ARB_PRIOn -/

theorem aArbPrio_eq (n : Nat) : aArbPrio n = 0x10080040 + 4 * n := by
  rw [aArbPrio, aArb]
  omega

theorem regWindow_aArbPrio (n : Fin 13) : regWindow (aArbPrio n) = true := by
  have h := aArbPrio_eq n
  simp only [regWindow, Bool.or_eq_true, Bool.and_eq_true, decide_eq_true_eq]
  omega

theorem eventBits_aArbPrio (n : Fin 13) : eventBits (aArbPrio n) = 0 := by
  have h := aArbPrio_eq n
  have hblock : aArbPrio n / 0x10000 = 0x1008 := by omega
  simp only [eventBits, hblock]
  rw [if_neg (by omega), if_neg (by omega)]

theorem State.arbWrite_aArbPrio (s : State) (n : Fin 13) (v : Word) :
    s.arbWrite (aArbPrio n) v
      = some (if s.lockCfg = true ∨ wfld v 17 16 = 3 ∨ 1024 < wfld v 10 0 then (s.orReg aArbStat (bitw 0), false)
          else (s.setReg (aArbPrio n) (v &&& 0x307FF), true)) := by
  have h := aArbPrio_eq n
  have hne : ∀ b < 0x10080040, aArbPrio n ≠ b := by omega
  rw [State.arbWrite, if_neg (hne _ (by decide)), if_neg (hne _ (by decide)), if_neg (hne _ (by decide)),
    if_pos (by omega)]
  simp only [Bool.or_eq_true, decide_eq_true_eq, or_assoc]
  rfl

/-- A write of ARB_PRIOn, refused under LOCK_CFG or for a field out of range and taken otherwise. -/
theorem State.write32_aArbPrio (s : State) (who : Who) (n : Fin 13) (v ev : Word) :
    s.write32 who (aArbPrio n) v ev
      = if s.lockCfg = true ∨ wfld v 17 16 = 3 ∨ 1024 < wfld v 10 0 then (s.orReg aArbStat (bitw 0), false)
        else (s.setReg (aArbPrio n) (v &&& 0x307FF), true) := by
  have h := aArbPrio_eq n
  rw [State.write32_arbBlock (by omega) (by omega), landed_of_eventBits (eventBits_aArbPrio n),
    State.arbWrite_aArbPrio, Option.getD_some]

end Sys2Proof.Machine
end

section
/-! PROOF. Writes of ARB_PRIOn, ARB_COMMIT and the arbiter's W1C bits (R426). -/

namespace Sys2Proof.Machine

/-- Settles O60, register by register; CLRCNT acts before COMMIT is judged, so it acts beside a refused COMMIT too. -/
theorem arbiterWrites : Obligations.ArbiterWrites := by
  unfold Obligations.ArbiterWrites
  intro s who v ev hs
  refine ⟨fun n hbad => ?prioRefused, fun n hl hclass hweight => ?prioTaken, fun hl hcommit => ?commitLocked,
    fun hcommit => ?noCommit, ?stat, ?starve⟩
  case prioRefused =>
    rw [execRegisterWrite_eq_write32 hs (regWindow_aArbPrio n), s.write32_aArbPrio who n, if_pos hbad]
    exact ⟨rfl, _, rfl, s.orReg_regsBecome _ _, s.reg_orReg_self _ _⟩
  case prioTaken =>
    have hok : ¬ (s.lockCfg = true ∨ wfld v 17 16 = 3 ∨ 1024 < wfld v 10 0) := by
      simp [hl, hclass, hweight]
    rw [execRegisterWrite_eq_write32 hs (regWindow_aArbPrio n), s.write32_aArbPrio who n, if_neg hok]
    exact ⟨_, rfl, s.setReg_regsBecome _ _, s.reg_setReg_self _ _⟩
  case commitLocked =>
    have hrefused : s.write32 who aArbCommit v ev = ((s.clrcnt v).orReg aArbStat (bitw 0), false) := by
      rw [State.write32_aArbCommit, if_pos hcommit, State.arbCommit_locked ((s.clrcnt_lockCfg v).trans hl)]
    rw [execRegisterWrite_eq_write32 hs (by decide), hrefused]
    refine ⟨rfl, _, rfl, (s.clrcnt_regsBecome v).trans (State.orReg_regsBecome _ _ _), ?_, ?_⟩
    · rw [State.reg_orReg_self, s.reg_clrcnt_ne (by decide)]
      rfl
    · rw [State.reg_orReg_ne _ (by decide), s.reg_clrcnt_aArbPre]
  case noCommit =>
    rw [execRegisterWrite_eq_write32 hs (by decide), State.write32_aArbCommit, if_neg (Bool.eq_false_iff.1 hcommit)]
    exact ⟨_, rfl, s.clrcnt_regsBecome v, s.reg_clrcnt_aArbPre v⟩
  case stat =>
    rw [execRegisterWrite_eq_write32 hs (by decide), State.write32_aArbStat]
    exact ⟨_, rfl, s.clrReg_regsBecome _ _, s.reg_clrReg_self _ _⟩
  case starve =>
    rw [execRegisterWrite_eq_write32 hs (by decide), State.write32_aArbStarve]
    exact ⟨_, rfl, s.clrReg_regsBecome _ _, s.reg_clrReg_self _ _⟩

end Sys2Proof.Machine
end

section
/-! PROOF. The queue, the canonical form, and what the commands keep: from the laws of `KeepsStep.lean`. -/

namespace Sys2Proof.Machine

/-- Settles O1: the front command runs, by the definition of a step. -/
theorem stepRunsFront : Obligations.StepRunsFront := fun _ _ _ => rfl

/-- Settles O3, from what every command keeps. -/
theorem execKeepsQueueAndTime : Obligations.ExecKeepsQueueAndTime := by
  unfold Obligations.ExecKeepsQueueAndTime
  intro c s
  obtain ⟨t, ht, hkeeps⟩ := exec_keeps c s
  exact ⟨t, ht, hkeeps.pending, hkeeps.cycle⟩

/-! The state after reset -/

/-- An empty map is in canonical form. -/
theorem MapWf.nil {α : Type} (d : Nat → α) : MapWf d [] := ⟨List.Pairwise.nil, fun _ he => nomatch he⟩

/-- Settles O4: every map is empty, so it reads its default, and every part is at its first value. -/
theorem resetState : Obligations.ResetState := by
  unfold Obligations.ResetState
  refine ⟨fun a => rfl, fun r => ?rails, fun w => ?wicks, fun d => ?domains, fun a => rfl, fun a => rfl, rfl, rfl⟩
  all_goals simp [State.ch, State.wk, State.dom, State.reset]

/-- Settles O5: every map is empty and no page is being written. -/
theorem resetCanonical : Obligations.ResetCanonical where
  regs := MapWf.nil _
  sram := MapWf.nil _
  shadow := MapWf.nil _
  tlmMem := MapWf.nil _
  imem := MapWf.nil _
  page := fun _ hrun => nomatch hrun

/-! The canonical form under a step -/

/-- The canonical form does not read the clock or the arbiter. -/
theorem State.Canonical.setTime {s : State} (h : s.Canonical) (n : Nat) (a : Arb) (l : List Instr) :
    { s with cycle := n, arb := a, pending := l }.Canonical :=
  ⟨h.regs, h.sram, h.shadow, h.tlmMem, h.imem, h.page⟩

theorem State.Canonical.tick {s : State} (h : s.Canonical) : s.tick.Canonical := by
  have hend : s.endCycle.Canonical := (State.endCycle_keeps (a := false) s (Keeps.rfl' s)).canon h
  have hclock := hend.setTime (s.endCycle.cycle + 1)
    { s.endCycle.arb with count := s.endCycle.arb.count
        + if !s.fabricRuns then 0 else if s.power.state == .doze then 1 else 8 } s.endCycle.pending
  exact (State.manage_keeps (a := false) (b := false) _
    (State.rNext_keeps _ true (State.rNext_keeps _ false (Keeps.rfl' _)))).canon hclock

/-- Settles O6: a command keeps the canonical form by `exec_keeps`, and so does each part of an idle cycle. -/
theorem stepKeepsCanonical : Obligations.StepKeepsCanonical := by
  unfold Obligations.StepKeepsCanonical
  intro s t hs hstep
  unfold step at hstep
  split at hstep
  · cases hstep
    exact hs.tick
  case h_2 c l hpending =>
    obtain ⟨u, hu, hkeeps⟩ := exec_keeps c { s with pending := l }
    rw [hu] at hstep
    cases hstep
    exact hkeeps.canon (hs.setTime s.cycle s.arb l)

/-! What commands leave alone -/

/-- Settles O7, from what a command that loads and stores nothing keeps. -/
theorem shadowAndImageKept : Obligations.ShadowAndImageKept := by
  unfold Obligations.ShadowAndImageKept
  intro c s t hc ht
  obtain ⟨u, hu, hkeeps⟩ := exec_keeps_store c hc s
  rw [hu] at ht
  cases ht
  obtain ⟨hshadow, himem⟩ := hkeeps.store rfl
  exact ⟨fun a => by simp only [State.shadowByte, hshadow], fun a => by simp only [State.imemWord, himem]⟩

/-- Settles O8, from what a command that stays in the fabric keeps. -/
theorem fabricCommandsKeepTheRest : Obligations.FabricCommandsKeepTheRest := by
  unfold Obligations.FabricCommandsKeepTheRest
  intro c s t hc ht
  obtain ⟨u, hu, hkeeps⟩ := exec_keeps_quiet c hc s
  rw [hu] at ht
  cases ht
  obtain ⟨hshadow, himem⟩ := hkeeps.store rfl
  obtain ⟨hsram, htlm, hfilters, htest, harb, hhosts, htether, hpower, hprotect, hfree⟩ := hkeeps.quiet rfl
  refine ⟨fun a => ⟨by simp only [State.byte, hsram], by simp only [State.shadowByte, hshadow],
    by simp only [State.tlmByte, htlm]⟩, ?_⟩
  rw [← hsram, ← hshadow, ← htlm, ← himem, ← hfilters, ← htest, ← harb, ← hhosts, ← htether, ← hpower, ← hprotect,
    ← hfree, ← hkeeps.cycle, ← hkeeps.pending]

end Sys2Proof.Machine
end

section
/-! SUPPORT. What the parts of an idle cycle change: the plant-first record, ring time, the ring ports and the wake. -/

namespace Sys2Proof.Machine

/-! Own lanterns enter the record (R502, R504) -/

theorem State.pfEnter_frame (s : State) (l : Lantern) :
    s.pfEnter l = { s with ring := { s.ring with best := (s.pfEnter l).ring.best, run := (s.pfEnter l).ring.run } } := by
  unfold State.pfEnter
  repeat' split
  all_goals rfl

theorem State.forAll_pfEnter_frame (l : List (Nat × Lantern)) (s : State) :
    s.forAll l (fun s e => s.pfEnter e.2) = { s with ring := { s.ring with
      best := (s.forAll l (fun s e => s.pfEnter e.2)).ring.best
      run := (s.forAll l (fun s e => s.pfEnter e.2)).ring.run } } := by
  unfold State.forAll
  induction l generalizing s with
  | nil => rfl
  | cons e l ih =>
    have hstep := s.pfEnter_frame e.2
    rw [List.foldl_cons, ih, hstep]

theorem State.enterOwn_frame (s : State) :
    s.enterOwn = { s with ring := { s.ring with
      own := s.ring.own.filter (fun e => s.cycle < e.1), best := s.enterOwn.ring.best, run := s.enterOwn.ring.run } } :=
  State.forAll_pfEnter_frame _ _

/-- With no own lantern due the record stays. -/
theorem State.enterOwn_notDue {s : State} (h : ∀ e ∈ s.ring.own, s.cycle < e.1) :
    s.enterOwn.ring.best = s.ring.best ∧ s.enterOwn.ring.run = s.ring.run := by
  have hdue : s.ring.own.filter (fun e => e.1 ≤ s.cycle) = [] :=
    List.filter_eq_nil_iff.2 fun e he => by simpa using h e he
  simp only [State.enterOwn, hdue]
  exact ⟨rfl, rfl⟩

/-- One own lantern that is due becomes the best of an empty record that nothing has cleared. -/
theorem State.enterOwn_empty {s : State} {k : Nat} {l : Lantern} (hown : s.ring.own = [(k, l)]) (hk : k ≤ s.cycle)
    (hbest : s.ring.best = none) (hrun : s.ring.run = none) (hclear : s.ring.clearAt = none) :
    s.enterOwn.ring.best = some l ∧ s.enterOwn.ring.run = none := by
  simp [State.enterOwn, hown, hk, State.forAll, State.pfEnter, State.pfKnown, State.pfStale, hbest, hrun, hclear]

/-! Ring time (R495, R501) -/

theorem RingPort.mark_waiting_nil (p : RingPort) (h : p.waiting = []) : { p with waiting := p.waiting.map RingTx.mark } = p := by
  rw [h, List.map_nil, ← h]

theorem State.endTime_frame (s : State) :
    s.endTime = { s with
      tether := { s.tether with tstep := s.endTime.tether.tstep }
      ring := { s.ring with
        time := s.endTime.ring.time, next := none, tstep := s.endTime.ring.tstep, ports := s.endTime.ring.ports } } := by
  unfold State.endTime
  split
  case h_1 h => rw [← h]
  case h_2 =>
    dsimp only
    split <;> rfl

theorem State.endTime_time (s : State) :
    s.endTime.ring.time = (s.ring.next.map (·.1)).getD (s.ring.time + 1) := by
  unfold State.endTime
  split
  case h_1 h => simp [h]
  case h_2 h =>
    dsimp only
    split <;> simp [State.timeStepped, h]

/-- A change that TSET has not made leaves TSTEP and the ports. -/
theorem State.endTime_unstepped {s : State} (h : ∀ x, s.ring.next ≠ some (x, true)) :
    s.endTime.tether.tstep = s.tether.tstep ∧ s.endTime.ring.tstep = s.ring.tstep
      ∧ s.endTime.ring.ports = s.ring.ports := by
  unfold State.endTime
  split
  case h_1 => exact ⟨rfl, rfl, rfl⟩
  case h_2 x step hnext =>
    have hstep : step = false := Bool.eq_false_iff.2 fun hs => h x (hs ▸ hnext)
    subst hstep
    exact ⟨rfl, rfl, rfl⟩

/-- TSET makes TSTEP due on the tether, and on the ring where no frame waits. -/
theorem State.endTime_stepped {s : State} {x : BitVec 64} (h : s.ring.next = some (x, true)) :
    s.endTime.tether.tstep = true
      ∧ ((∀ p : Fin 2, (s.ring.ports[p]).waiting = []) → s.endTime.ring.tstep = true) := by
  simp only [State.endTime, h]
  refine ⟨rfl, fun hw => ?_⟩
  have hport : (s.ring.ports[0]).waiting = [] := hw 0
  have hmem : s.ring.ports[0] ∈ s.ring.ports.toList := Vector.mem_toList_iff.2 (Vector.getElem_mem _)
  simp only [if_true, State.timeStepped, Bool.not_eq_true', List.all_eq_false]
  exact ⟨_, hmem, by simp [hport]⟩

/-- A port that no frame waits for keeps its place through a step of ring time. -/
theorem State.endTime_port (s : State) (p : Fin 2) (h : (s.ring.ports[p]).waiting = []) :
    s.endTime.ring.ports[p] = s.ring.ports[p] := by
  unfold State.endTime
  split
  case h_1 => rfl
  case h_2 =>
    dsimp only
    split
    · simp only [State.timeStepped, Fin.getElem_fin, Vector.getElem_map]
      exact RingPort.mark_waiting_nil _ h
    · rfl

/-! The end of a cycle -/

theorem State.endCycle_frame (s : State) :
    s.endCycle = { s with
      tether := { s.tether with tstep := s.endCycle.tether.tstep }
      ring := { s.ring with
        time := s.endCycle.ring.time, next := if s.powered then none else s.ring.next
        own := if s.powered then s.ring.own.filter (fun e => s.cycle < e.1) else s.ring.own
        best := s.endCycle.ring.best, run := s.endCycle.ring.run
        tstep := s.endCycle.ring.tstep, ports := s.endCycle.ring.ports } } := by
  unfold State.endCycle
  split
  · rw [State.endTime_frame s.enterOwn, s.enterOwn_frame]
  · rfl

/-! Ring ports (R492) -/

theorem State.rNext_frame (s : State) (b : Bool) :
    s.rNext b = { s with ring := { s.ring with ports := (s.rNext b).ring.ports, sent := (s.rNext b).ring.sent } } := by
  unfold State.rNext
  dsimp only
  repeat' split
  all_goals rfl

theorem State.rNext_idle {s : State} {b : Bool} (h : (s.ring.ports[portIx b]).waiting = []) : s.rNext b = s := by
  simp only [State.rNext, h]

theorem State.rNext_port_ne (s : State) (b : Bool) {p : Fin 2} (hp : p ≠ portIx b) :
    (s.rNext b).ring.ports[p] = s.ring.ports[p] := by
  have hne : (portIx b).val ≠ p.val := fun h => hp (Fin.ext h.symm)
  unfold State.rNext
  dsimp only
  repeat' split
  all_goals simp [State.rStart, State.setRPort, hne]

theorem State.rNext_port_self (s : State) {b : Bool} {p : Fin 2} (hp : p = portIx b) {x : RingTx} {l : List RingTx}
    (h : (s.ring.ports[p]).waiting = x :: l) :
    (s.rNext b).ring.ports[p] = if (s.ring.ports[p]).busyTo ≤ 5 * s.cycle then
        { s.ring.ports[p] with busyTo := 5 * s.cycle + 16 * x.chars, waiting := l } else s.ring.ports[p] := by
  subst hp
  simp only [State.rNext, h]
  split
  · simp [State.rStart, State.setRPort]
  · rfl

/-- Both ports look for their next frame. -/
def State.rNexts (s : State) : State := (s.rNext false).rNext true

theorem State.rNexts_frame (s : State) :
    s.rNexts = { s with ring := { s.ring with ports := s.rNexts.ring.ports, sent := s.rNexts.ring.sent } } := by
  unfold State.rNexts
  rw [State.rNext_frame (s.rNext false) true, s.rNext_frame false]

theorem State.rNexts_cycle (s : State) : (s.rNext false).cycle = s.cycle := by rw [s.rNext_frame false]

theorem State.rNexts_port_idle (s : State) (p : Fin 2) (h : (s.ring.ports[p]).waiting = []) :
    s.rNexts.ring.ports[p] = s.ring.ports[p] := by
  match p with
  | 0 =>
    rw [State.rNexts, State.rNext_port_ne _ true (by decide), State.rNext_idle h]
  | 1 =>
    have hstay := s.rNext_port_ne false (p := 1) (by decide)
    rw [State.rNexts, State.rNext_idle (b := true) (by rw [← h, ← hstay]; rfl), hstay]

theorem State.rNexts_port (s : State) (p : Fin 2) {x : RingTx} {l : List RingTx}
    (h : (s.ring.ports[p]).waiting = x :: l) :
    s.rNexts.ring.ports[p] = if (s.ring.ports[p]).busyTo ≤ 5 * s.cycle then
        { s.ring.ports[p] with busyTo := 5 * s.cycle + 16 * x.chars, waiting := l } else s.ring.ports[p] := by
  match p with
  | 0 =>
    rw [State.rNexts, State.rNext_port_ne _ true (by decide), s.rNext_port_self (b := false) (p := 0) rfl h]
  | 1 =>
    have hstay := s.rNext_port_ne false (p := 1) (by decide)
    rw [State.rNexts, State.rNext_port_self _ (b := true) (p := 1) rfl (by rw [hstay, h]), hstay, s.rNexts_cycle]

theorem State.rNexts_sent (s : State) (h : ∀ p : Fin 2, (s.ring.ports[p]).waiting = []) :
    s.rNexts.ring.sent = s.ring.sent := by
  rw [State.rNexts, State.rNext_idle (b := false) (h 0), State.rNext_idle (b := true) (h 1)]

end Sys2Proof.Machine
end

section
/-! PROOF. The idle cycle. -/

namespace Sys2Proof.Machine

/-! The power manager (R529, R531) -/

theorem State.manage_frame (s : State) :
    s.manage = { s with power := { s.power with waking := s.manage.power.waking } } := by
  unfold State.manage State.startWake
  repeat' split
  all_goals rfl

theorem State.manage_awake {s : State} (h : s.asleep = false) : s.manage = s := by
  simp [State.manage, h]

/-- A cause that allows no sleep state starts the wake. -/
theorem State.manage_held {s : State} (h : s.asleep = true) (hd : s.deepest = 0) : s.manage.power.waking = true := by
  have hstate : s.power.state ≠ .run := by simpa using (Bool.and_eq_true_iff.1 h).2
  have hcode : 0 < s.power.state.code := by
    cases hs : s.power.state
    case run => exact absurd hs hstate
    all_goals decide
  simp [State.manage, State.startWake, h, hd, hcode]

/-- The state at the end of an idle cycle, before the ring ports and the power manager look at it. -/
def State.clocked (s : State) : State :=
  { s.endCycle with
    cycle := s.cycle + 1
    arb := { s.arb with count := s.arb.count + if s.fabricRuns then (if s.power.state = .doze then 1 else 8) else 0 } }

theorem State.tick_eq (s : State) : s.tick = s.clocked.rNexts.manage := by
  have hcount : (if !s.fabricRuns then 0 else if s.power.state == .doze then 1 else 8)
      = if s.fabricRuns then (if s.power.state = .doze then 1 else 8) else 0 := by
    cases s.fabricRuns <;> simp
  have hend := s.endCycle_frame
  rw [State.tick, State.rNexts, State.clocked, hcount, hend]

theorem State.clocked_frame (s : State) :
    s.clocked = { s with
      cycle := s.cycle + 1
      arb := { s.arb with
        count := s.arb.count + if s.fabricRuns then (if s.power.state = .doze then 1 else 8) else 0 }
      tether := { s.tether with tstep := s.endCycle.tether.tstep }
      ring := { s.ring with
        time := s.endCycle.ring.time, next := if s.powered then none else s.ring.next
        own := if s.powered then s.ring.own.filter (fun e => s.cycle < e.1) else s.ring.own
        best := s.endCycle.ring.best, run := s.endCycle.ring.run
        tstep := s.endCycle.ring.tstep, ports := s.endCycle.ring.ports } } := by
  rw [State.clocked, s.endCycle_frame]

theorem State.clocked_ports (s : State) : s.clocked.ring.ports = s.endCycle.ring.ports := rfl

theorem State.clocked_port_idle (s : State) (p : Fin 2) (h : (s.ring.ports[p]).waiting = []) :
    s.clocked.ring.ports[p] = s.ring.ports[p] := by
  rw [s.clocked_ports, State.endCycle]
  split
  · have hw : (s.enterOwn.ring.ports[p]).waiting = [] := by rw [s.enterOwn_frame]; exact h
    rw [State.endTime_port _ p hw, s.enterOwn_frame]
  · rfl

theorem State.tick_frame (s : State) :
    s.tick = { s.clocked with
      power := { s.power with waking := s.tick.power.waking }
      ring := { s.clocked.ring with ports := s.clocked.rNexts.ring.ports, sent := s.clocked.rNexts.ring.sent } } := by
  rw [State.tick_eq, State.manage_frame, State.rNexts_frame, s.clocked_frame]

/-- Settles O2: the parts of the cycle one by one; ring time and the record at its end, then the ports, then the wake. -/
theorem stepIdle : Obligations.StepIdle := by
  unfold Obligations.StepIdle
  intro s hpending
  have htick := s.tick_frame
  have hclock := s.clocked_frame
  have hports : s.tick.ring.ports = s.clocked.rNexts.ring.ports := by rw [htick]
  have hbest : s.tick.ring.best = s.endCycle.ring.best := by rw [htick, hclock]
  have hrun : s.tick.ring.run = s.endCycle.ring.run := by rw [htick, hclock]
  have htime : s.tick.ring.time = s.endCycle.ring.time := by rw [htick, hclock]
  have hstep : s.tick.ring.tstep = s.endCycle.ring.tstep := by rw [htick, hclock]
  have hteth : s.tick.tether.tstep = s.endCycle.tether.tstep := by rw [htick, hclock]
  have hsent : s.tick.ring.sent = s.clocked.rNexts.ring.sent := by rw [htick]
  refine ⟨s.tick, by simp only [step, hpending], ?frame, ?awake, ?held, ?time, ?notDue, ?due, ?stepped, ?unstepped,
    ?idle, ?sent, ?waiting⟩
  case frame =>
    rw [hports, hbest, hrun, htime, hstep, hteth, hsent]
    exact htick.trans (by rw [hclock])
  case awake =>
    intro h
    have hrest : s.clocked.rNexts.asleep = false := by
      rw [State.rNexts_frame, hclock]
      exact h
    rw [State.tick_eq, State.manage_awake hrest, State.rNexts_frame, hclock]
  case held =>
    intro h hd
    rw [State.tick_eq]
    apply State.manage_held
    · rw [State.rNexts_frame, hclock]
      exact h
    · rw [State.rNexts_frame, hclock]
      exact hd
  case time =>
    rw [htime, State.endCycle]
    split
    · rw [State.endTime_time, s.enterOwn_frame]
      cases s.ring.next <;> rfl
    · rfl
  case notDue =>
    rw [hbest, hrun, State.endCycle]
    rintro (hoff | hlater)
    · rw [hoff]
      exact ⟨rfl, rfl⟩
    · split
      · rw [State.endTime_frame]
        exact State.enterOwn_notDue hlater
      · exact ⟨rfl, rfl⟩
  case due =>
    intro k l hon hown hk hb hr hc
    rw [hbest, hrun, State.endCycle, if_pos hon, State.endTime_frame]
    exact State.enterOwn_empty hown hk hb hr hc
  case stepped =>
    intro x hon hnext
    have hnext' : s.enterOwn.ring.next = some (x, true) := by rw [s.enterOwn_frame, ← hnext]
    obtain ⟨hte, hri⟩ := State.endTime_stepped hnext'
    rw [hteth, hstep, State.endCycle, if_pos hon]
    exact ⟨hte, fun hw => hri fun p => by rw [s.enterOwn_frame]; exact hw p⟩
  case unstepped =>
    rw [hteth, hstep, State.endCycle]
    rintro (hoff | hnext)
    · rw [hoff]
      exact ⟨rfl, rfl⟩
    · split
      · obtain ⟨hte, hri, -⟩ := State.endTime_unstepped (s := s.enterOwn) (by rw [s.enterOwn_frame]; exact hnext)
        rw [hte, hri, s.enterOwn_frame]
        exact ⟨rfl, rfl⟩
      · exact ⟨rfl, rfl⟩
  case idle =>
    intro p hw
    have hstay := s.clocked_port_idle p hw
    rw [hports, State.rNexts_port_idle _ p (by rw [hstay, hw]), hstay]
  case sent =>
    intro hw
    rw [hsent, State.rNexts_sent _ (fun p => by rw [s.clocked_port_idle p (hw p), hw p]), hclock]
  case waiting =>
    intro p x l hnext hw
    have hstay : s.clocked.ring.ports = s.ring.ports := by
      rw [s.clocked_ports, State.endCycle]
      split
      · obtain ⟨-, -, hp⟩ := State.endTime_unstepped (s := s.enterOwn) (by rw [s.enterOwn_frame]; exact hnext)
        rw [hp, s.enterOwn_frame]
      · rfl
    have hcycle : s.clocked.cycle = s.cycle + 1 := rfl
    rw [hports, State.rNexts_port _ p (x := x) (l := l) (by rw [hstay, hw]), hstay, hcycle]

end Sys2Proof.Machine
end

section
/-! PROOF. The Tornum encoder and decoder (R193, R194): every field stands at its place in the word, so the decoder reads
back the operation, legal or not; R177 then passes the legal ones. -/

namespace Sys2Proof.Machine

/-- A field of a word, by its place. -/
theorem nfld_eq {w hi lo v : Nat} (h : w / 2 ^ lo % 2 ^ (hi + 1 - lo) = v) : nfld w hi lo = v := h

theorem ffld_eq {w lo k : Nat} {x : Fin (2 ^ k)} (h : w / 2 ^ lo % 2 ^ k = x.val) : ffld w lo k = x := Fin.ext h

/-- The decoder reads back every operation that the encoder writes, format by format. -/
theorem decodeFields_encodeNat (o : Op) : decodeFields (encodeNat o) = some o := by
  cases o with
  | nop => rfl
  | halt =>
    generalize hw : encodeNat _ = w
    simp only [encodeNat, opWord] at hw
    obtain ⟨hop, hn1⟩ : nfld w 31 26 = 1 ∧ nfld w 25 0 = 0 :=
      ⟨nfld_eq (by omega), nfld_eq (by omega)⟩
    simp [decodeFields, hop, hn1]
  | ret =>
    generalize hw : encodeNat _ = w
    simp only [encodeNat, opWord] at hw
    obtain ⟨hop, hn1⟩ : nfld w 31 26 = 11 ∧ nfld w 25 0 = 0 :=
      ⟨nfld_eq (by omega), nfld_eq (by omega)⟩
    simp [decodeFields, hop, hn1]
  | en a =>
    cases a with
    | imm x =>
      generalize hw : encodeNat _ = w
      simp only [encodeNat, opWord, Ref.ind, Ref.regv, Ref.immv] at hw
      obtain ⟨hop, hn1, hn2, hx⟩ : nfld w 31 26 = 2 ∧ nfld w 25 10 = 0 ∧ nfld w 9 9 = 0 ∧ ffld w 0 6 = x :=
        ⟨nfld_eq (by omega), nfld_eq (by omega), nfld_eq (by omega), ffld_eq (by omega)⟩
      simp [decodeFields, hop, hn1, hn2, hx, refOf]
    | reg r =>
      generalize hw : encodeNat _ = w
      simp only [encodeNat, opWord, Ref.ind, Ref.regv, Ref.immv] at hw
      obtain ⟨hop, hn1, hn2, hn3, hr⟩ : nfld w 31 26 = 2 ∧ nfld w 25 10 = 0 ∧ nfld w 9 9 = 1 ∧ nfld w 5 0 = 0 ∧
          ffld w 6 3 = r :=
        ⟨nfld_eq (by omega), nfld_eq (by omega), nfld_eq (by omega), nfld_eq (by omega), ffld_eq (by omega)⟩
      simp [decodeFields, hop, hn1, hn2, hn3, hr, refOf]
  | dis a =>
    cases a with
    | imm x =>
      generalize hw : encodeNat _ = w
      simp only [encodeNat, opWord, Ref.ind, Ref.regv, Ref.immv] at hw
      obtain ⟨hop, hn1, hn2, hx⟩ : nfld w 31 26 = 3 ∧ nfld w 25 10 = 0 ∧ nfld w 9 9 = 0 ∧ ffld w 0 6 = x :=
        ⟨nfld_eq (by omega), nfld_eq (by omega), nfld_eq (by omega), ffld_eq (by omega)⟩
      simp [decodeFields, hop, hn1, hn2, hx, refOf]
    | reg r =>
      generalize hw : encodeNat _ = w
      simp only [encodeNat, opWord, Ref.ind, Ref.regv, Ref.immv] at hw
      obtain ⟨hop, hn1, hn2, hn3, hr⟩ : nfld w 31 26 = 3 ∧ nfld w 25 10 = 0 ∧ nfld w 9 9 = 1 ∧ nfld w 5 0 = 0 ∧
          ffld w 6 3 = r :=
        ⟨nfld_eq (by omega), nfld_eq (by omega), nfld_eq (by omega), nfld_eq (by omega), ffld_eq (by omega)⟩
      simp [decodeFields, hop, hn1, hn2, hn3, hr, refOf]
  | disch a =>
    cases a with
    | imm x =>
      generalize hw : encodeNat _ = w
      simp only [encodeNat, opWord, Ref.ind, Ref.regv, Ref.immv] at hw
      obtain ⟨hop, hn1, hn2, hx⟩ : nfld w 31 26 = 24 ∧ nfld w 25 10 = 0 ∧ nfld w 9 9 = 0 ∧ ffld w 0 6 = x :=
        ⟨nfld_eq (by omega), nfld_eq (by omega), nfld_eq (by omega), ffld_eq (by omega)⟩
      simp [decodeFields, hop, hn1, hn2, hx, refOf]
    | reg r =>
      generalize hw : encodeNat _ = w
      simp only [encodeNat, opWord, Ref.ind, Ref.regv, Ref.immv] at hw
      obtain ⟨hop, hn1, hn2, hn3, hr⟩ : nfld w 31 26 = 24 ∧ nfld w 25 10 = 0 ∧ nfld w 9 9 = 1 ∧ nfld w 5 0 = 0 ∧
          ffld w 6 3 = r :=
        ⟨nfld_eq (by omega), nfld_eq (by omega), nfld_eq (by omega), nfld_eq (by omega), ffld_eq (by omega)⟩
      simp [decodeFields, hop, hn1, hn2, hn3, hr, refOf]
  | ens k =>
    generalize hw : encodeNat _ = w
    simp only [encodeNat, opWord] at hw
    obtain ⟨hop, hn1, hk⟩ : nfld w 31 26 = 4 ∧ nfld w 25 3 = 0 ∧ ffld w 0 3 = k :=
      ⟨nfld_eq (by omega), nfld_eq (by omega), ffld_eq (by omega)⟩
    simp [decodeFields, hop, hn1, hk]
  | diss k =>
    generalize hw : encodeNat _ = w
    simp only [encodeNat, opWord] at hw
    obtain ⟨hop, hn1, hk⟩ : nfld w 31 26 = 5 ∧ nfld w 25 3 = 0 ∧ ffld w 0 3 = k :=
      ⟨nfld_eq (by omega), nfld_eq (by omega), ffld_eq (by omega)⟩
    simp [decodeFields, hop, hn1, hk]
  | wait u c =>
    generalize hw : encodeNat _ = w
    simp only [encodeNat, opWord] at hw
    obtain ⟨hop, hu, hc⟩ : nfld w 31 26 = 6 ∧ ffld w 24 2 = u ∧ ffld w 0 24 = c :=
      ⟨nfld_eq (by omega), ffld_eq (by omega), ffld_eq (by omega)⟩
    simp [decodeFields, hop, hu, hc]
  | sleephint u c =>
    generalize hw : encodeNat _ = w
    simp only [encodeNat, opWord] at hw
    obtain ⟨hop, hu, hc⟩ : nfld w 31 26 = 26 ∧ ffld w 24 2 = u ∧ ffld w 0 24 = c :=
      ⟨nfld_eq (by omega), ffld_eq (by omega), ffld_eq (by omega)⟩
    simp [decodeFields, hop, hu, hc]
  | waitc c vt =>
    obtain ⟨cc, neg, arg⟩ := c
    cases neg with
    | false =>
      generalize hw : encodeNat _ = w
      simp only [encodeNat, opWord, Cond.bits, Bool.toNat_false] at hw
      obtain ⟨hop, hn1, hn2, hcc, harg, hvt⟩ : nfld w 31 26 = 7 ∧ nfld w 9 3 = 0 ∧ nfld w 19 19 = 0 ∧ ffld w 20 6
          = cc ∧ ffld w 10 9 = arg ∧ ffld w 0 3 = vt :=
        ⟨nfld_eq (by omega), nfld_eq (by omega), nfld_eq (by omega), ffld_eq (by omega), ffld_eq (by omega), ffld_eq
         (by omega)⟩
      simp [decodeFields, hop, hn1, hn2, hcc, harg, hvt]
    | true =>
      generalize hw : encodeNat _ = w
      simp only [encodeNat, opWord, Cond.bits, Bool.toNat_true] at hw
      obtain ⟨hop, hn1, hn2, hcc, harg, hvt⟩ : nfld w 31 26 = 7 ∧ nfld w 9 3 = 0 ∧ nfld w 19 19 = 1 ∧ ffld w 20 6
          = cc ∧ ffld w 10 9 = arg ∧ ffld w 0 3 = vt :=
        ⟨nfld_eq (by omega), nfld_eq (by omega), nfld_eq (by omega), ffld_eq (by omega), ffld_eq (by omega), ffld_eq
         (by omega)⟩
      simp [decodeFields, hop, hn1, hn2, hcc, harg, hvt]
  | chk c off =>
    obtain ⟨cc, neg, arg⟩ := c
    cases neg with
    | false =>
      generalize hw : encodeNat _ = w
      simp only [encodeNat, opWord, Cond.bits, Bool.toNat_false] at hw
      obtain ⟨hop, hn1, hcc, harg, hoff⟩ : nfld w 31 26 = 8 ∧ nfld w 19 19 = 0 ∧ ffld w 20 6 = cc ∧ ffld w 10 9 =
          arg ∧ ffld w 0 10 = off :=
        ⟨nfld_eq (by omega), nfld_eq (by omega), ffld_eq (by omega), ffld_eq (by omega), ffld_eq (by omega)⟩
      simp [decodeFields, hop, hn1, hcc, harg, hoff]
    | true =>
      generalize hw : encodeNat _ = w
      simp only [encodeNat, opWord, Cond.bits, Bool.toNat_true] at hw
      obtain ⟨hop, hn1, hcc, harg, hoff⟩ : nfld w 31 26 = 8 ∧ nfld w 19 19 = 1 ∧ ffld w 20 6 = cc ∧ ffld w 10 9 =
          arg ∧ ffld w 0 10 = off :=
        ⟨nfld_eq (by omega), nfld_eq (by omega), ffld_eq (by omega), ffld_eq (by omega), ffld_eq (by omega)⟩
      simp [decodeFields, hop, hn1, hcc, harg, hoff]
  | jmp a =>
    cases a with
    | imm x =>
      generalize hw : encodeNat _ = w
      simp only [encodeNat, opWord, Ref.ind, Ref.regv, Ref.immv] at hw
      obtain ⟨hop, hn1, hn2, hx⟩ : nfld w 31 26 = 9 ∧ nfld w 25 16 = 0 ∧ nfld w 15 15 = 0 ∧ ffld w 0 12 = x :=
        ⟨nfld_eq (by omega), nfld_eq (by omega), nfld_eq (by omega), ffld_eq (by omega)⟩
      simp [decodeFields, hop, hn1, hn2, hx, refOf]
    | reg r =>
      generalize hw : encodeNat _ = w
      simp only [encodeNat, opWord, Ref.ind, Ref.regv, Ref.immv] at hw
      obtain ⟨hop, hn1, hn2, hn3, hr⟩ : nfld w 31 26 = 9 ∧ nfld w 25 16 = 0 ∧ nfld w 15 15 = 1 ∧ nfld w 11 0 = 0 ∧
          ffld w 12 3 = r :=
        ⟨nfld_eq (by omega), nfld_eq (by omega), nfld_eq (by omega), nfld_eq (by omega), ffld_eq (by omega)⟩
      simp [decodeFields, hop, hn1, hn2, hn3, hr, refOf]
  | call a =>
    cases a with
    | imm x =>
      generalize hw : encodeNat _ = w
      simp only [encodeNat, opWord, Ref.ind, Ref.regv, Ref.immv] at hw
      obtain ⟨hop, hn1, hn2, hx⟩ : nfld w 31 26 = 10 ∧ nfld w 25 16 = 0 ∧ nfld w 15 15 = 0 ∧ ffld w 0 12 = x :=
        ⟨nfld_eq (by omega), nfld_eq (by omega), nfld_eq (by omega), ffld_eq (by omega)⟩
      simp [decodeFields, hop, hn1, hn2, hx, refOf]
    | reg r =>
      generalize hw : encodeNat _ = w
      simp only [encodeNat, opWord, Ref.ind, Ref.regv, Ref.immv] at hw
      obtain ⟨hop, hn1, hn2, hn3, hr⟩ : nfld w 31 26 = 10 ∧ nfld w 25 16 = 0 ∧ nfld w 15 15 = 1 ∧ nfld w 11 0 = 0
          ∧ ffld w 12 3 = r :=
        ⟨nfld_eq (by omega), nfld_eq (by omega), nfld_eq (by omega), nfld_eq (by omega), ffld_eq (by omega)⟩
      simp [decodeFields, hop, hn1, hn2, hn3, hr, refOf]
  | loop n e =>
    cases n with
    | imm x =>
      generalize hw : encodeNat _ = w
      simp only [encodeNat, opWord, Ref.ind, Ref.regv, Ref.immv] at hw
      obtain ⟨hop, hn1, hx, he⟩ : nfld w 31 26 = 12 ∧ nfld w 25 25 = 0 ∧ ffld w 12 13 = x ∧ ffld w 0 12 = e :=
        ⟨nfld_eq (by omega), nfld_eq (by omega), ffld_eq (by omega), ffld_eq (by omega)⟩
      simp [decodeFields, hop, hn1, hx, he]
    | reg r =>
      generalize hw : encodeNat _ = w
      simp only [encodeNat, opWord, Ref.ind, Ref.regv, Ref.immv] at hw
      obtain ⟨hop, hn1, hn2, hr, he⟩ : nfld w 31 26 = 12 ∧ nfld w 25 25 = 1 ∧ nfld w 24 15 = 0 ∧ ffld w 12 3 = r ∧
          ffld w 0 12 = e :=
        ⟨nfld_eq (by omega), nfld_eq (by omega), nfld_eq (by omega), ffld_eq (by omega), ffld_eq (by omega)⟩
      simp [decodeFields, hop, hn1, hn2, hr, he]
  | marg a b =>
    cases a with
    | imm x =>
      cases b with
      | imm y =>
        generalize hw : encodeNat _ = w
        simp only [encodeNat, opWord, Ref.ind, Ref.regv, Ref.immv] at hw
        obtain ⟨hop, hn1, hn2, hn3, hx, hy⟩ : nfld w 31 26 = 13 ∧ nfld w 17 12 = 0 ∧ nfld w 25 25 = 0 ∧ nfld w 24
            24 = 0 ∧ ffld w 18 6 = x ∧ ffld w 0 12 = y :=
          ⟨nfld_eq (by omega), nfld_eq (by omega), nfld_eq (by omega), nfld_eq (by omega), ffld_eq (by omega), ffld_eq
           (by omega)⟩
        simp [decodeFields, hop, hn1, hn2, hn3, hx, hy]
      | reg q =>
        generalize hw : encodeNat _ = w
        simp only [encodeNat, opWord, Ref.ind, Ref.regv, Ref.immv] at hw
        obtain ⟨hop, hn1, hn2, hn3, hn4, hx, hq⟩ : nfld w 31 26 = 13 ∧ nfld w 17 12 = 0 ∧ nfld w 25 25 = 0 ∧ nfld
            w 24 24 = 1 ∧ nfld w 11 3 = 0 ∧ ffld w 18 6 = x ∧ ffld w 0 3 = q :=
          ⟨nfld_eq (by omega), nfld_eq (by omega), nfld_eq (by omega), nfld_eq (by omega), nfld_eq (by omega), ffld_eq
           (by omega), ffld_eq (by omega)⟩
        simp [decodeFields, hop, hn1, hn2, hn3, hn4, hx, hq]
    | reg r =>
      cases b with
      | imm y =>
        generalize hw : encodeNat _ = w
        simp only [encodeNat, opWord, Ref.ind, Ref.regv, Ref.immv] at hw
        obtain ⟨hop, hn1, hn2, hn3, hn4, hr, hy⟩ : nfld w 31 26 = 13 ∧ nfld w 17 12 = 0 ∧ nfld w 25 25 = 1 ∧ nfld
            w 23 21 = 0 ∧ nfld w 24 24 = 0 ∧ ffld w 18 3 = r ∧ ffld w 0 12 = y :=
          ⟨nfld_eq (by omega), nfld_eq (by omega), nfld_eq (by omega), nfld_eq (by omega), nfld_eq (by omega), ffld_eq
           (by omega), ffld_eq (by omega)⟩
        simp [decodeFields, hop, hn1, hn2, hn3, hn4, hr, hy]
      | reg q =>
        generalize hw : encodeNat _ = w
        simp only [encodeNat, opWord, Ref.ind, Ref.regv, Ref.immv] at hw
        obtain ⟨hop, hn1, hn2, hn3, hn4, hn5, hr, hq⟩ : nfld w 31 26 = 13 ∧ nfld w 17 12 = 0 ∧ nfld w 25 25 = 1 ∧
            nfld w 23 21 = 0 ∧ nfld w 24 24 = 1 ∧ nfld w 11 3 = 0 ∧ ffld w 18 3 = r ∧ ffld w 0 3 = q :=
          ⟨nfld_eq (by omega), nfld_eq (by omega), nfld_eq (by omega), nfld_eq (by omega), nfld_eq (by omega), nfld_eq
           (by omega), ffld_eq (by omega), ffld_eq (by omega)⟩
        simp [decodeFields, hop, hn1, hn2, hn3, hn4, hn5, hr, hq]
  | sig sc nd u n =>
    generalize hw : encodeNat _ = w
    simp only [encodeNat, opWord] at hw
    obtain ⟨hop, hn1, hn2, hsc, hnd, hu, hn⟩ : nfld w 31 26 = 14 ∧ nfld w 23 18 = 0 ∧ nfld w 11 8 = 0 ∧ ffld w 24
        2 = sc ∧ ffld w 12 6 = nd ∧ ffld w 4 4 = u ∧ ffld w 0 4 = n :=
      ⟨nfld_eq (by omega), nfld_eq (by omega), nfld_eq (by omega), ffld_eq (by omega), ffld_eq (by omega), ffld_eq (by
       omega), ffld_eq (by omega)⟩
    simp [decodeFields, hop, hn1, hn2, hsc, hnd, hu, hn]
  | wsig m all vt =>
    cases all with
    | false =>
      generalize hw : encodeNat _ = w
      simp only [encodeNat, opWord, Bool.toNat_false] at hw
      obtain ⟨hop, hn1, hn2, hm, hvt⟩ : nfld w 31 26 = 15 ∧ nfld w 8 3 = 0 ∧ nfld w 9 9 = 0 ∧ ffld w 10 16 = m ∧
          ffld w 0 3 = vt :=
        ⟨nfld_eq (by omega), nfld_eq (by omega), nfld_eq (by omega), ffld_eq (by omega), ffld_eq (by omega)⟩
      simp [decodeFields, hop, hn1, hn2, hm, hvt]
    | true =>
      generalize hw : encodeNat _ = w
      simp only [encodeNat, opWord, Bool.toNat_true] at hw
      obtain ⟨hop, hn1, hn2, hm, hvt⟩ : nfld w 31 26 = 15 ∧ nfld w 8 3 = 0 ∧ nfld w 9 9 = 1 ∧ ffld w 10 16 = m ∧
          ffld w 0 3 = vt :=
        ⟨nfld_eq (by omega), nfld_eq (by omega), nfld_eq (by omega), ffld_eq (by omega), ffld_eq (by omega)⟩
      simp [decodeFields, hop, hn1, hn2, hm, hvt]
  | hitch d vt =>
    generalize hw : encodeNat _ = w
    simp only [encodeNat, opWord] at hw
    obtain ⟨hop, hn1, hn2, hd, hvt⟩ : nfld w 31 26 = 16 ∧ nfld w 25 8 = 0 ∧ nfld w 3 3 = 0 ∧ ffld w 4 4 = d ∧ ffld
        w 0 3 = vt :=
      ⟨nfld_eq (by omega), nfld_eq (by omega), nfld_eq (by omega), ffld_eq (by omega), ffld_eq (by omega)⟩
    simp [decodeFields, hop, hn1, hn2, hd, hvt]
  | unhitch d =>
    generalize hw : encodeNat _ = w
    simp only [encodeNat, opWord] at hw
    obtain ⟨hop, hn1, hn2, hd⟩ : nfld w 31 26 = 17 ∧ nfld w 25 8 = 0 ∧ nfld w 3 0 = 0 ∧ ffld w 4 4 = d :=
      ⟨nfld_eq (by omega), nfld_eq (by omega), nfld_eq (by omega), ffld_eq (by omega)⟩
    simp [decodeFields, hop, hn1, hn2, hd]
  | log c vr =>
    generalize hw : encodeNat _ = w
    simp only [encodeNat, opWord] at hw
    obtain ⟨hop, hn1, hc, hvr⟩ : nfld w 31 26 = 18 ∧ nfld w 17 3 = 0 ∧ ffld w 18 8 = c ∧ ffld w 0 3 = vr :=
      ⟨nfld_eq (by omega), nfld_eq (by omega), ffld_eq (by omega), ffld_eq (by omega)⟩
    simp [decodeFields, hop, hn1, hc, hvr]
  | raise sw =>
    generalize hw : encodeNat _ = w
    simp only [encodeNat, opWord] at hw
    obtain ⟨hop, hn1, hsw⟩ : nfld w 31 26 = 19 ∧ nfld w 25 3 = 0 ∧ ffld w 0 3 = sw :=
      ⟨nfld_eq (by omega), nfld_eq (by omega), ffld_eq (by omega)⟩
    simp [decodeFields, hop, hn1, hsw]
  | sync sc id vt =>
    generalize hw : encodeNat _ = w
    simp only [encodeNat, opWord] at hw
    obtain ⟨hop, hn1, hsc, hid, hvt⟩ : nfld w 31 26 = 20 ∧ nfld w 15 3 = 0 ∧ ffld w 24 2 = sc ∧ ffld w 16 8 = id ∧
        ffld w 0 3 = vt :=
      ⟨nfld_eq (by omega), nfld_eq (by omega), ffld_eq (by omega), ffld_eq (by omega), ffld_eq (by omega)⟩
    simp [decodeFields, hop, hn1, hsc, hid, hvt]
  | setv vd f =>
    cases f with
    | const i =>
      generalize hw : encodeNat _ = w
      simp only [encodeNat, opWord, SetvForm.bits] at hw
      obtain ⟨hop, hn1, hvd, hi⟩ : nfld w 31 26 = 21 ∧ nfld w 22 21 = 0 ∧ ffld w 23 3 = vd ∧ ffld w 0 21 = i :=
        ⟨nfld_eq (by omega), nfld_eq (by omega), ffld_eq (by omega), ffld_eq (by omega)⟩
      simp [decodeFields, hop, hn1, hvd, hi]
    | upper i =>
      generalize hw : encodeNat _ = w
      simp only [encodeNat, opWord, SetvForm.bits] at hw
      obtain ⟨hop, hn1, hn2, hvd, hi⟩ : nfld w 31 26 = 21 ∧ nfld w 22 21 = 1 ∧ nfld w 20 11 = 0 ∧ ffld w 23 3 = vd
          ∧ ffld w 0 11 = i :=
        ⟨nfld_eq (by omega), nfld_eq (by omega), nfld_eq (by omega), ffld_eq (by omega), ffld_eq (by omega)⟩
      simp [decodeFields, hop, hn1, hn2, hvd, hi]
    | time u c =>
      generalize hw : encodeNat _ = w
      simp only [encodeNat, opWord, SetvForm.bits] at hw
      obtain ⟨hop, hn1, hvd, hu, hc⟩ : nfld w 31 26 = 21 ∧ nfld w 22 21 = 2 ∧ ffld w 23 3 = vd ∧ ffld w 19 2 = u ∧
          ffld w 0 19 = c :=
        ⟨nfld_eq (by omega), nfld_eq (by omega), ffld_eq (by omega), ffld_eq (by omega), ffld_eq (by omega)⟩
      simp [decodeFields, hop, hn1, hvd, hu, hc]
    | source k a =>
      cases a with
      | imm x =>
        generalize hw : encodeNat _ = w
        simp only [encodeNat, opWord, SetvForm.bits] at hw
        obtain ⟨hop, hn1, hn2, hvd, hk, hx⟩ : nfld w 31 26 = 21 ∧ nfld w 22 21 = 3 ∧ nfld w 15 15 = 0 ∧ ffld w 23
            3 = vd ∧ ffld w 16 5 = k ∧ ffld w 0 15 = x :=
          ⟨nfld_eq (by omega), nfld_eq (by omega), nfld_eq (by omega), ffld_eq (by omega), ffld_eq (by omega), ffld_eq
           (by omega)⟩
        simp [decodeFields, hop, hn1, hn2, hvd, hk, hx]
      | reg r =>
        generalize hw : encodeNat _ = w
        simp only [encodeNat, opWord, SetvForm.bits] at hw
        obtain ⟨hop, hn1, hn2, hn3, hvd, hk, hr⟩ : nfld w 31 26 = 21 ∧ nfld w 22 21 = 3 ∧ nfld w 15 15 = 1 ∧ nfld
            w 14 3 = 0 ∧ ffld w 23 3 = vd ∧ ffld w 16 5 = k ∧ ffld w 0 3 = r :=
          ⟨nfld_eq (by omega), nfld_eq (by omega), nfld_eq (by omega), nfld_eq (by omega), ffld_eq (by omega), ffld_eq
           (by omega), ffld_eq (by omega)⟩
        simp [decodeFields, hop, hn1, hn2, hn3, hvd, hk, hr]
  | addv vd va b =>
    cases b with
    | imm x =>
      generalize hw : encodeNat _ = w
      simp only [encodeNat, opWord] at hw
      obtain ⟨hop, hn1, hvd, hva, hx⟩ : nfld w 31 26 = 22 ∧ nfld w 19 19 = 1 ∧ ffld w 23 3 = vd ∧ ffld w 20 3 = va
          ∧ ffld w 0 19 = x :=
        ⟨nfld_eq (by omega), nfld_eq (by omega), ffld_eq (by omega), ffld_eq (by omega), ffld_eq (by omega)⟩
      simp [decodeFields, hop, hn1, hvd, hva, hx]
    | reg r =>
      generalize hw : encodeNat _ = w
      simp only [encodeNat, opWord] at hw
      obtain ⟨hop, hn1, hn2, hvd, hva, hr⟩ : nfld w 31 26 = 22 ∧ nfld w 19 19 = 0 ∧ nfld w 15 0 = 0 ∧ ffld w 23 3
          = vd ∧ ffld w 20 3 = va ∧ ffld w 16 3 = r :=
        ⟨nfld_eq (by omega), nfld_eq (by omega), nfld_eq (by omega), ffld_eq (by omega), ffld_eq (by omega), ffld_eq
         (by omega)⟩
      simp [decodeFields, hop, hn1, hn2, hvd, hva, hr]
  | tlm a =>
    cases a with
    | imm x =>
      generalize hw : encodeNat _ = w
      simp only [encodeNat, opWord, Ref.ind, Ref.regv, Ref.immv] at hw
      obtain ⟨hop, hn1, hn2, hx⟩ : nfld w 31 26 = 23 ∧ nfld w 25 11 = 0 ∧ nfld w 10 10 = 0 ∧ ffld w 0 7 = x :=
        ⟨nfld_eq (by omega), nfld_eq (by omega), nfld_eq (by omega), ffld_eq (by omega)⟩
      simp [decodeFields, hop, hn1, hn2, hx, refOf]
    | reg r =>
      generalize hw : encodeNat _ = w
      simp only [encodeNat, opWord, Ref.ind, Ref.regv, Ref.immv] at hw
      obtain ⟨hop, hn1, hn2, hn3, hr⟩ : nfld w 31 26 = 23 ∧ nfld w 25 11 = 0 ∧ nfld w 10 10 = 1 ∧ nfld w 6 0 = 0 ∧
          ffld w 7 3 = r :=
        ⟨nfld_eq (by omega), nfld_eq (by omega), nfld_eq (by omega), nfld_eq (by omega), ffld_eq (by omega)⟩
      simp [decodeFields, hop, hn1, hn2, hn3, hr, refOf]
  | rsto act out =>
    generalize hw : encodeNat _ = w
    simp only [encodeNat, opWord] at hw
    obtain ⟨hop, hn1, hact, hout⟩ : nfld w 31 26 = 25 ∧ nfld w 25 5 = 0 ∧ ffld w 3 2 = act ∧ ffld w 0 3 = out :=
      ⟨nfld_eq (by omega), nfld_eq (by omega), ffld_eq (by omega), ffld_eq (by omega)⟩
    simp [decodeFields, hop, hn1, hact, hout]
  | pmb t vr =>
    generalize hw : encodeNat _ = w
    simp only [encodeNat, opWord] at hw
    obtain ⟨hop, hn1, ht, hvr⟩ : nfld w 31 26 = 27 ∧ nfld w 25 8 = 0 ∧ ffld w 3 5 = t ∧ ffld w 0 3 = vr :=
      ⟨nfld_eq (by omega), nfld_eq (by omega), ffld_eq (by omega), ffld_eq (by omega)⟩
    simp [decodeFields, hop, hn1, ht, hvr]

/-! The encoder's number has 32 bits -/

theorem Ref.ind_le {α : Type} (a : Ref α) : a.ind ≤ 1 := by
  cases a <;> simp [Ref.ind]

/-- A register field and an immediate field are not both in use. -/
theorem Ref.fields_lt {n : Nat} (hn : 8 ≤ n) (a : Ref (Fin n)) : a.regv < 8 ∧ a.regv + a.immv < n := by
  cases a with
  | imm x => exact ⟨by simp [Ref.regv], by simp [Ref.regv, Ref.immv]⟩
  | reg r => exact ⟨r.isLt, by simp only [Ref.regv, Ref.immv]; omega⟩

theorem Cond.bits_lt (c : Cond) : c.bits + 2 ^ 10 ≤ 2 ^ 26 := by
  have := c.neg.toNat_le
  simp only [Cond.bits]
  omega

theorem SetvForm.bits_lt (f : SetvForm) : f.bits < 2 ^ 23 := by
  cases f with
  | source k a => cases a <;> simp only [SetvForm.bits] <;> omega
  | _ => simp only [SetvForm.bits]; omega

theorem encodeNat_lt (o : Op) : encodeNat o < 2 ^ 32 := by
  cases o with
  | en a | dis a | disch a | tlm a | jmp a | call a =>
    have := a.ind_le
    have := a.fields_lt (by decide)
    simp only [encodeNat, opWord]
    omega
  | loop a e =>
    have := a.ind_le
    have := a.fields_lt (by decide)
    simp only [encodeNat, opWord]
    omega
  | marg a b =>
    have := a.ind_le
    have := a.fields_lt (by decide)
    have := b.ind_le
    have := b.fields_lt (by decide)
    simp only [encodeNat, opWord]
    omega
  | waitc c _ | chk c _ =>
    have := c.bits_lt
    simp only [encodeNat, opWord]
    omega
  | wsig m all vt =>
    have := all.toNat_le
    simp only [encodeNat, opWord]
    omega
  | setv vd f =>
    have := f.bits_lt
    simp only [encodeNat, opWord]
    omega
  | addv vd va b =>
    cases b <;> simp only [encodeNat, opWord] <;> omega
  | _ =>
    simp only [encodeNat, opWord]
    omega

/-- Settles O9: the word holds the encoder's number whole, the decoder reads it back, and the operation is legal. -/
theorem tornumRoundTrip : Obligations.TornumRoundTrip := by
  unfold Obligations.TornumRoundTrip
  intro o ho
  have hword : (encodeOp o).toNat = encodeNat o := by
    rw [encodeOp, BitVec.toNat_ofNat, Nat.mod_eq_of_lt (encodeNat_lt o)]
  simp only [decodeOp, hword, decodeFields_encodeNat, ho, if_true]

/-- Settles O10: the words are fixed and the reserved opcodes are 36, so the decoder itself answers. -/
theorem tornumWords : Obligations.TornumWords := by
  unfold Obligations.TornumWords
  decide

end Sys2Proof.Machine
end

section
/-! SUPPORT. A wick goes on and passes control (R203): what `advance` and `transfer` change. -/

namespace Sys2Proof.Machine

/-- The end of a loop's body turns the loop. -/
theorem Wick.bodyEnd_eq_turned (x : Wick) : x.bodyEnd = x.turned := by
  have hlast : x.lc = 1 ↔ x.lc - 1 = 0 := by bv_omega
  simp only [Wick.bodyEnd, Wick.turned, hlast, ne_eq, ite_not]

theorem Wick.looping_iff (x : Wick) : x.looping = true ↔ x.inLoop := by
  simp [Wick.looping, Wick.inLoop]

theorem Wick.advance_eq (x : Wick) : x.advance =
    if x.lc ≠ 0 ∧ x.stack.length = x.ldepth ∧ x.pc = x.lend then x.turned else { x with pc := x.pc + 1 } := by
  simp [Wick.advance, Wick.bodyEnd_eq_turned, Wick.looping, and_assoc]

/-- A transfer passes control to its target. -/
theorem Wick.transfer_goes (x : Wick) (a : BitVec 12) : x.goes (x.transfer a) a := by
  refine ⟨fun hno => ?_, fun hin hout => ?_, fun hin hlow hhigh => ?_⟩
  · simp [Wick.transfer, mt x.looping_iff.1 hno]
  · simp [Wick.transfer, x.looping_iff.2 hin, hout]
  · simp [Wick.transfer, x.looping_iff.2 hin, BitVec.not_lt.2 hlow, BitVec.not_lt.2 hhigh, Wick.bodyEnd_eq_turned]

theorem Wick.transfer_stack (x : Wick) (a : BitVec 12) : (x.transfer a).stack = x.stack := by
  unfold Wick.transfer
  split
  · rfl
  split
  · rfl
  split <;> rfl

theorem State.setWk_wickBecomes (s : State) (w : WickId) (x : Wick) : s.WickBecomes w x (s.setWk w x) :=
  ⟨rfl, s.wk_setWk_self w x, fun _ hu => s.wk_setWk_ne hu x⟩

theorem State.advance_wickBecomes (s : State) (w : WickId) : s.WickBecomes w (s.wk w).advance (s.advance w) :=
  s.mapWk_wickBecomes w Wick.advance

/-- One wick's successive changes are one change. -/
theorem State.WickBecomes.mapWk {s t : State} {w : WickId} {x : Wick} (h : s.WickBecomes w x t) (f : Wick → Wick) :
    s.WickBecomes w (f x) (t.mapWk w f) := by
  obtain ⟨hrest, hself, hothers⟩ := h
  refine ⟨?_, ?_, fun u hu => ?_⟩
  · rw [State.mapWk, State.setWk, hrest]
  · rw [State.wk_mapWk_self, hself]
  · rw [State.wk_mapWk_ne _ hu, hothers u hu]

theorem State.WickBecomes.wk {s t : State} {w : WickId} {x : Wick} (h : s.WickBecomes w x t) : t.wk w = x := h.2.1

/-- An answer whose one wick is as a rule asks. -/
theorem State.WickBecomes.answer {s t : State} {w : WickId} {x y : Wick} {i : Instr} (h : exec i s = .next t)
    (ht : s.WickBecomes w x t) (hxy : x = y) : ∃ t, exec i s = .next t ∧ s.WickBecomes w y t :=
  ⟨t, h, hxy ▸ ht⟩

end Sys2Proof.Machine
end

section
/-! PROOF. NOP, JMP, CHK, CALL, RET and LOOP (R198 to R204). -/

namespace Sys2Proof.Machine

section
variable {s : State} {w : WickId}

theorem execNop_eq (h : s.current w = some .nop) : exec (.nop w) s = .next (s.advance w) := by
  simp [exec, execNop, h]

theorem execJmp_eq {x : Ref (Fin 4096)} (h : s.current w = some (.jmp x)) :
    exec (.jmp w) s = .next (s.mapWk w (fun y => y.transfer (BitVec.ofNat 12 (s.operand w 12 x)))) := by
  simp [exec, execJmp, h]

/-- CHK with a legal condition: its OFFSET is signed. -/
theorem execChk_eq {c : Cond} {off : Fin 1024} (h : s.current w = some (.chk c off)) (hc : c.badOperand = false) :
    exec (.chk w) s = .next (if s.holds w c then
      s.mapWk w (fun x => x.transfer
        (x.pc + BitVec.ofInt 12 (if off.val < 512 then off.val else (off.val : Int) - 1024)))
      else s.advance w) := by
  have hoff := signExtend_ofNat (k := 9) (m := 12) off.isLt
  norm_num at hoff
  simp [exec, execChk, h, hc, hoff]

theorem execCall_eq {x : Ref (Fin 4096)} (h : s.current w = some (.call x)) (hd : (s.wk w).stack.length < 4) :
    exec (.call w) s = .next (s.setWk w { s.wk w with
      stack := ((s.wk w).pc + 1) :: (s.wk w).stack, pc := BitVec.ofNat 12 (s.operand w 12 x) }) := by
  simp [exec, execCall, h, Nat.not_le.2 hd]

theorem execRet_eq {a : BitVec 12} {l : List (BitVec 12)} (h : s.current w = some .ret) (hl : (s.wk w).stack = a :: l) :
    exec (.ret w) s = .next (s.mapWk w (fun x => { x.transfer a with stack := l })) := by
  simp [exec, execRet, h, hl]

theorem execLoop_eq {n : Ref (Fin 8192)} {e : Fin 4096} (h : s.current w = some (.loop n e)) (hlc : (s.wk w).lc = 0)
    (hpc : (s.wk w).pc.toNat + 1 ≤ e.val) (hlen : e.val < s.liveLen) (hend : endBarred (s.imemWord e.val) = false) :
    exec (.loop w) s = .next (s.setWk w (if s.operand w 16 n = 0 then { s.wk w with pc := BitVec.ofNat 12 (e.val + 1) }
      else { s.wk w with
        lc := BitVec.ofNat 16 (s.operand w 16 n), lstart := (s.wk w).pc + 1, lend := BitVec.ofNat 12 e.val
        ldepth := (s.wk w).stack.length, pc := (s.wk w).pc + 1 })) := by
  simp only [exec, execLoop, h, hlc, hend, Nat.not_lt.2 hpc, Nat.not_le.2 hlen]
  simp only [ne_eq, not_true_eq_false, decide_false, Bool.or_false, Bool.false_eq_true, if_false]
  split <;> rfl

end

/-- Settles O11, instruction by instruction. -/
theorem controlFlow : Obligations.ControlFlow := by
  unfold Obligations.ControlFlow
  refine ⟨⟨fun s w h => ?nop, fun s w x h => ?jmp⟩, fun s w c off h hc => ?chk, fun s w x h hd => ?call,
    fun s w a l h hl => ?ret, fun s w n e h hlc hpc hlen hend => ?loop⟩
  case nop => exact (s.advance_wickBecomes w).answer (execNop_eq h) (s.wk w).advance_eq
  case jmp =>
    refine ⟨_, execJmp_eq h, ?_⟩
    have ht := s.mapWk_wickBecomes w (fun y => y.transfer (BitVec.ofNat 12 (s.operand w 12 x)))
    rw [ht.wk]
    exact ⟨ht, (s.wk w).transfer_goes _⟩
  case chk =>
    refine ⟨_, execChk_eq h hc, ?_⟩
    cases hh : s.holds w c with
    | true =>
      rw [if_pos rfl]
      have ht := s.mapWk_wickBecomes w (fun x => x.transfer
        (x.pc + BitVec.ofInt 12 (if off.val < 512 then off.val else (off.val : Int) - 1024)))
      rw [ht.wk]
      exact ⟨ht, fun _ => (s.wk w).transfer_goes _, (fun h => nomatch h)⟩
    | false =>
      have ht := s.advance_wickBecomes w
      rw [if_neg Bool.false_ne_true, ht.wk]
      exact ⟨ht, (fun h => nomatch h), fun _ => rfl⟩
  case call => exact (s.setWk_wickBecomes w _).answer (execCall_eq h hd) rfl
  case ret =>
    refine ⟨_, execRet_eq h hl, ?_⟩
    have ht := s.mapWk_wickBecomes w (fun x => { x.transfer a with stack := l })
    rw [ht.wk]
    refine ⟨ht, rfl, ?_⟩
    have hgoes := (s.wk w).transfer_goes a
    have hstack := (s.wk w).transfer_stack a
    rw [← hstack]
    exact hgoes
  case loop => exact (s.setWk_wickBecomes w _).answer (execLoop_eq h hlc hpc hlen hend) rfl

end Sys2Proof.Machine
end

section
/-! PROOF. LOG, SLEEPHINT and WAIT (R185, R186, R212, R220). -/

namespace Sys2Proof.Machine

/-- A time operand's cycles, by its unit. -/
theorem unitCycles_eq (u : Fin 4) (n : Nat) : unitCycles u.val n = n * [1, 100, 100000, 100000000][u.val]! := by
  match u with
  | 0 => exact (Nat.mul_one n).symm
  | 1 => exact Nat.mul_comm _ _
  | 2 => exact Nat.mul_comm _ _
  | 3 => exact Nat.mul_comm _ _

theorem unitCycles_eq_zero (u : Fin 4) (n : Nat) : unitCycles u.val n = 0 ↔ n = 0 := by
  match u with
  | 0 => exact Iff.rfl
  | 1 | 2 | 3 => simp [unitCycles]

@[simp] theorem Wick.advance_logBuf (x : Wick) : x.advance.logBuf = x.logBuf := by
  unfold Wick.advance Wick.bodyEnd
  split <;> rfl

section
variable {s : State} {w : WickId}

theorem execLog_eq {code : Fin 256} {vr : Fin 8} (h : s.current w = some (.log code vr)) :
    exec (.log w) s = .next ((s.advance w).mapWk w (fun x =>
      if x.logBuf.isNone then
        { x with logBuf := some { code := BitVec.ofNat 8 code.val, value := s.vreg w vr, time := s.now } }
      else { x with st := .wait (.logger (BitVec.ofNat 8 code.val) (s.vreg w vr) s.now) })) := by
  simp only [exec, execLog, h]

theorem execSleephint_eq {u : Fin 4} {n : Fin 16777216} (h : s.current w = some (.sleephint u n)) :
    exec (.sleephint w) s = .next ((s.advance w).mapWk w (fun x =>
      { x with hint := if unitCycles u n = 0 then none else some (s.cycle + unitCycles u n) })) := by
  simp only [exec, execSleephint, h]
  rfl

theorem execWait_zero {u : Fin 4} {n : Fin 16777216} (h : s.current w = some (.wait u n)) (hn : n.val = 0) :
    exec (.wait w) s = .next (s.advance w) := by
  simp [exec, execWait, h, (unitCycles_eq_zero u n).2 hn]

theorem execWait_pos {u : Fin 4} {n : Fin 16777216} (h : s.current w = some (.wait u n)) (hn : n.val ≠ 0) :
    exec (.wait w) s = .next ((s.advance w).mapWk w (fun x =>
      { x with st := .wait .time, deadline := some (s.cycle + unitCycles u n) })) := by
  simp only [exec, execWait, h, if_neg (mt (unitCycles_eq_zero u n).1 hn)]
  rfl

end

/-- Settles O12, instruction by instruction. -/
theorem plainInstructions : Obligations.PlainInstructions := by
  unfold Obligations.PlainInstructions
  refine ⟨fun s w code vr h => ?log, fun s w u n h => ?sleephint, fun s w u n h => ?wait⟩
  all_goals have hgo := s.advance_wickBecomes w
  case log =>
    refine (hgo.mapWk _).answer (execLog_eq h) ?_
    simp only [Wick.advance_logBuf, Option.isNone_iff_eq_none, State.now]
  case sleephint =>
    refine (hgo.mapWk _).answer (execSleephint_eq h) ?_
    simp only [unitCycles_eq_zero]
    rw [unitCycles_eq]
  case wait =>
    by_cases hn : n.val = 0
    · exact hgo.answer (execWait_zero h hn) (if_pos hn).symm
    · refine (hgo.mapWk _).answer (execWait_pos h hn) ?_
      rw [if_neg hn, unitCycles_eq]

end Sys2Proof.Machine
end

section
/-! SUPPORT. What a command's cycle leaves alone (`State.CycleOf`): the laws of the relation, and the end of a cycle. -/

namespace Sys2Proof.Machine

namespace State.CycleOf

variable {s t u : State} {rails rails' : List Rail} {regs regs' : List Nat}

theorem refl (s : State) (rails : List Rail) (regs : List Nat) : s.CycleOf rails regs s :=
  ⟨rfl, fun _ _ => rfl, fun _ _ _ => rfl⟩

theorem trans (h : s.CycleOf rails regs t) (k : t.CycleOf rails regs u) : s.CycleOf rails regs u := by
  obtain ⟨hfields, hch, hreg⟩ := h
  obtain ⟨kfields, kch, kreg⟩ := k
  refine ⟨?_, fun q hq => ?_, fun a ha hn => (kreg a ha hn).trans (hreg a ha hn)⟩
  · have hpower : u.power = { s.power with waking := u.power.waking } := by
      have k' := congrArg State.power kfields
      have h' := congrArg State.power hfields
      dsimp only at k' h'
      rw [h'] at k'
      exact k'
    calc u = _ := kfields
      _ = _ := by rw [hfields]
  · rw [kch q hq, hch q hq]

theorem mono (h : s.CycleOf rails regs t) (hr : rails ⊆ rails') (hg : regs ⊆ regs') : s.CycleOf rails' regs' t := by
  obtain ⟨hfields, hch, hreg⟩ := h
  exact ⟨hfields, fun q hq => hch q (fun h => hq (hr h)), fun a ha hn => hreg a ha (fun h => hn (hg h))⟩

end State.CycleOf

/-- The collector's work is part of a command's cycle. -/
theorem Collects.cycleOf {s t : State} (h : Collects s t) : s.CycleOf [] [] t := by
  obtain ⟨hfields, hreg, hch⟩ := h
  exact ⟨by rw [hfields], fun q _ => hch q, fun a ha _ => hreg a ha⟩

/-- Other reset outputs are part of a command's cycle. -/
theorem State.CycleOf.resets (s : State) (r : Vector RstOut 8) : s.CycleOf [] [] { s with resets := r } :=
  ⟨rfl, fun _ _ => rfl, fun _ _ _ => rfl⟩

/-- The end of a cycle in which no rail escalates is the collector's work and the judging of the reset outputs. -/
theorem Cyc.finish_cycleOf (c : Cyc) (hg : c.groupOff = []) (inj : Bool) : c.s.CycleOf [] [] (c.finish inj) := by
  obtain ⟨u, hu, he⟩ := Cyc.finish_collects c hg inj
  rw [he]
  exact hu.cycleOf.trans (State.CycleOf.resets u _)

theorem State.CycleOf.wk {s t : State} {rails : List Rail} {regs : List Nat} (h : s.CycleOf rails regs t) (u : WickId) :
    t.wk u = s.wk u := by
  obtain ⟨hfields, -, -⟩ := h
  rw [hfields]
  rfl

theorem State.CycleOf.dom {s t : State} {rails : List Rail} {regs : List Nat} (h : s.CycleOf rails regs t) (d : DomId) :
    t.dom d = s.dom d := by
  obtain ⟨hfields, -, -⟩ := h
  rw [hfields]
  rfl

/-- A cycle that starts with a change of one wick. -/
theorem State.WickBecomes.wickCycle {s t u : State} {w : WickId} {x : Wick} (h : s.WickBecomes w x t)
    (k : t.CycleOf [] [] u) : s.WickCycle w x u := by
  obtain ⟨hrest, hself, hothers⟩ := h
  have hwicks : u.wicks = t.wicks := by
    obtain ⟨hfields, -, -⟩ := k
    rw [hfields]
  refine ⟨?_, (k.wk w).trans hself, fun v hv => (k.wk v).trans (hothers v hv)⟩
  rw [hwicks, ← hrest]
  exact k

end Sys2Proof.Machine
end

section
/-! PROOF. Wick faults and HALT (R175, R177). -/

namespace Sys2Proof.Machine

theorem Cyc.wickEnded_of_progOf {c : Cyc} {w : WickId} (h : c.s.progOf w = none) (faulted : Bool) :
    c.wickEnded w faulted = c := by
  simp [Cyc.wickEnded, h]

/-- The programs are the domains', not the wicks'. -/
theorem State.progOf_mapWk (s : State) (u : WickId) (f : Wick → Wick) (w : WickId) : (s.mapWk u f).progOf w = s.progOf w :=
  rfl

/-- The fault of a wick that runs no domain's program ends no program. -/
theorem Cyc.wickFault_of_progOf {c : Cyc} {w : WickId} (h : c.s.progOf w = none) (code : BitVec 4) :
    c.wickFault w code = (c.map (fun s => s.mapWk w (·.faulted code))).raise (srcWick w) := by
  rw [Cyc.wickFault, Cyc.wickEnded_of_progOf (by exact h)]
  rfl

theorem State.wickFault_faulted {s : State} {w : WickId} (h : s.progOf w = none) (code : BitVec 4) :
    s.Faulted w code (s.wickFault w code) := by
  rw [State.wickFault, State.cyc, Cyc.wickFault_of_progOf h]
  exact (s.mapWk_wickBecomes w (·.faulted code)).wickCycle (Cyc.finish_cycleOf _ rfl false)

theorem exec_faulted {s : State} {w : WickId} {code : BitVec 4} {i : Instr} (hprog : s.progOf w = none)
    (h : exec i s = .next (s.wickFault w code)) : ∃ t, exec i s = .next t ∧ s.Faulted w code t :=
  ⟨_, h, State.wickFault_faulted hprog code⟩

/-! Which instructions fault -/

section
variable {s : State} {w : WickId}

theorem execCall_full {x : Ref (Fin 4096)} (h : s.current w = some (.call x)) (hd : 4 ≤ (s.wk w).stack.length) :
    exec (.call w) s = .next (s.wickFault w 3) := by
  simp [exec, execCall, h, hd]

theorem execRet_empty (h : s.current w = some .ret) (hl : (s.wk w).stack = []) :
    exec (.ret w) s = .next (s.wickFault w 3) := by
  simp [exec, execRet, h, hl]

theorem execLoop_bad {n : Ref (Fin 8192)} {e : Fin 4096} (h : s.current w = some (.loop n e))
    (hbad : (s.wk w).lc ≠ 0 ∨ e.val < (s.wk w).pc.toNat + 1 ∨ s.liveLen ≤ e.val ∨ endBarred (s.imemWord e.val) = true) :
    exec (.loop w) s = .next (s.wickFault w 4) := by
  have hcond : (decide ((s.wk w).lc ≠ 0) || decide (e.val < (s.wk w).pc.toNat + 1) || decide (s.liveLen ≤ e.val)
      || endBarred (s.imemWord e.val)) = true := by
    simpa only [Bool.or_eq_true, decide_eq_true_eq, or_assoc] using hbad
  simp only [exec, execLoop, h, hcond, if_true]

theorem execWaitc_bad {c : Cond} {v : Fin 8} (h : s.current w = some (.waitc c v)) (hc : c.badOperand = true) :
    exec (.waitc w) s = .next (s.wickFault w 5) := by
  simp [exec, execWaitc, h, hc]

theorem execChk_bad {c : Cond} {o : Fin 1024} (h : s.current w = some (.chk c o)) (hc : c.badOperand = true) :
    exec (.chk w) s = .next (s.wickFault w 5) := by
  simp [exec, execChk, h, hc]

theorem execTlm_bad {p : Ref (Fin 128)} (h : s.current w = some (.tlm p)) (hp : 124 ≤ s.operand w 7 p) :
    exec (.tlm w) s = .next (s.wickFault w 5) := by
  simp [exec, execTlm, h, Nat.not_lt.2 hp]

theorem execPmb_invalid {k : Fin 32} {v : Fin 8} (h : s.current w = some (.pmb k v)) (hv : s.bit (aPmbt k) 31 = false) :
    exec (.pmb w) s = .next (s.wickFault w 5) := by
  have hbit : tst (s.reg (aPmbt k)) 31 = false := hv
  simp [exec, execPmb, h, hbit]

theorem execIllegal_range (h : s.mayIssue w = true) (hpc : s.liveLen ≤ (s.wk w).pc.toNat) :
    exec (.illegalInstruction w) s = .next (s.wickFault w 2) := by
  simp [exec, execIllegalInstruction, h, hpc]

theorem execIllegal_word (h : s.mayIssue w = true) (hpc : (s.wk w).pc.toNat < s.liveLen)
    (hop : decodeOp (s.imemWord (s.wk w).pc.toNat) = none) :
    exec (.illegalInstruction w) s = .next (s.wickFault w 1) := by
  simp [exec, execIllegalInstruction, h, Nat.not_le.2 hpc, hop]

/-- HALT of a wick that runs no domain's program. -/
theorem execHalt_eq (h : s.current w = some .halt) (hprog : s.progOf w = none) :
    exec (.halt w) s = .next (Cyc.finish { s := s.mapWk w (fun x => { x with st := .halted }.bump) }) := by
  have hended := Cyc.wickEnded_of_progOf (c := { s := s.mapWk w (fun x => { x with st := .halted }.bump) }) hprog false
  simp only [exec, execHalt, h, State.cyc, Cyc.map, hended]

end

/-- Settles O13: each of the listed cases is a wick fault, and a fault outside a program is one wick's change in a
collector's cycle; so is HALT. -/
theorem haltAndFaults : Obligations.HaltAndFaults := by
  unfold Obligations.HaltAndFaults
  refine ⟨fun s w hp => ?faults, fun s w h hp => ?halt⟩
  case faults =>
    exact ⟨fun _ h hd => exec_faulted hp (execCall_full h hd), fun h hl => exec_faulted hp (execRet_empty h hl),
      fun _ _ h hbad => exec_faulted hp (execLoop_bad h hbad), fun _ _ h hc => exec_faulted hp (execWaitc_bad h hc),
      fun _ _ h hc => exec_faulted hp (execChk_bad h hc), fun _ h hn => exec_faulted hp (execTlm_bad h hn),
      fun _ _ _ h hbad => exec_faulted hp (execSetv_badSource h (State.source_eq_none hbad)),
      fun _ _ h hv => exec_faulted hp (execPmb_invalid h hv), fun h hpc => exec_faulted hp (execIllegal_range h hpc),
      fun h hpc hop => exec_faulted hp (execIllegal_word h hpc hop)⟩
  case halt =>
    have hself := s.mapWk_wickBecomes w (fun x => { x with st := .halted }.bump)
    exact ⟨_, execHalt_eq h hp, hself.wickCycle (Cyc.finish_cycleOf _ rfl false)⟩

end Sys2Proof.Machine
end

section
/-! SUPPORT. A waiting instruction at its issue (R187). -/

namespace Sys2Proof.Machine

@[simp] theorem Wick.advance_sigs (x : Wick) : x.advance.sigs = x.sigs := by
  unfold Wick.advance Wick.bodyEnd
  split <;> rfl

/-- A wick after the issue of a waiting instruction: it goes on with the outcome, or waits until its deadline. -/
def Wick.issued (x : Wick) (ok : Bool) (cycle dur : Nat) (k : WaitFor) : Wick :=
  if ok then { x.advance with tout := false }
  else if dur < 16 then { x.advance with tout := true }
  else { x.advance with st := .wait k, deadline := some (cycle + dur) }

theorem State.waitOrGo_wickBecomes (s : State) (w : WickId) (ok : Bool) (dur : Nat) (k : WaitFor) :
    s.WickBecomes w ((s.wk w).issued ok s.cycle dur k) (s.waitOrGo w ok dur k) := by
  have hgo := s.advance_wickBecomes w
  unfold State.waitOrGo Wick.issued
  dsimp only
  split
  · exact hgo.mapWk _
  split
  · exact hgo.mapWk _
  · exact hgo.mapWk _

@[simp] theorem Wick.issued_sigs (x : Wick) (ok : Bool) (cycle dur : Nat) (k : WaitFor) :
    (x.issued ok cycle dur k).sigs = x.sigs := by
  unfold Wick.issued
  split
  · exact x.advance_sigs
  split <;> exact x.advance_sigs

/-- WSIG's test, in words. -/
theorem Wick.sigTest_iff (x : Wick) (m : Fin 65536) (all : Bool) :
    x.sigTest (BitVec.ofNat 16 m.val) all = true ↔
      m.val = 0 ∨ (if all then x.sigs &&& BitVec.ofNat 16 m.val = BitVec.ofNat 16 m.val
        else x.sigs &&& BitVec.ofNat 16 m.val ≠ 0) := by
  have hzero : BitVec.ofNat 16 m.val = 0 ↔ m.val = 0 := by bv_omega
  simp only [Wick.sigTest, Bool.or_eq_true, beq_iff_eq, hzero]
  cases all <;> simp

/-! HITCH -/

theorem State.hitchBarred_iff (s : State) (w : WickId) (d : DomId) :
    s.hitchBarred w d = true ↔ s.takesPart d = false ∨ s.pwick d = w := by
  simp [State.hitchBarred]

theorem State.setDom_frame (s : State) (d : DomId) (x : Domain) : s.setDom d x = { s with doms := (s.setDom d x).doms } :=
  rfl

/-- A wick that takes a hitch owns it. -/
theorem State.owns_setDom_self (s : State) (w : WickId) (d : DomId) (x : Domain) (ho : x.owner = .wick w)
    (he : x.epoch = (s.wk w).epoch) : (s.setDom d x).owns (.wick w) d = true := by
  have hwk : (s.setDom d x).wk w = s.wk w := rfl
  simp [State.owns, State.epochOf, ho, he, hwk]

/-- A change of one domain and then of one wick. -/
theorem State.WickBecomes.ofDom {s t : State} {w : WickId} {d : DomId} {x : Domain} {y : Wick}
    (h : (s.setDom d x).WickBecomes w y t) :
    t = { s with wicks := t.wicks, doms := t.doms } ∧ t.dom d = x ∧ (∀ e, e ≠ d → t.dom e = s.dom e)
      ∧ t.wk w = y ∧ ∀ u, u ≠ w → t.wk u = s.wk u := by
  obtain ⟨hrest, hself, hothers⟩ := h
  have hdoms : t.doms = (s.setDom d x).doms := by rw [hrest]
  refine ⟨?_, ?_, fun e he => ?_, hself, hothers⟩
  · rw [hdoms]
    exact hrest
  · rw [State.dom, hdoms]
    exact s.dom_setDom_self d x
  · rw [State.dom, hdoms]
    exact s.dom_setDom_ne he x

/-- A change of one wick and then of one domain. -/
theorem State.WickBecomes.setDom {s t : State} {w : WickId} {y : Wick} (h : s.WickBecomes w y t) (d : DomId)
    (x : Domain) : t.setDom d x = { s with wicks := (t.setDom d x).wicks, doms := (t.setDom d x).doms }
      ∧ (t.setDom d x).dom d = x ∧ (∀ e, e ≠ d → (t.setDom d x).dom e = s.dom e)
      ∧ (t.setDom d x).wk w = y ∧ ∀ u, u ≠ w → (t.setDom d x).wk u = s.wk u := by
  obtain ⟨hrest, hself, hothers⟩ := h
  have hdom : ∀ e, t.dom e = s.dom e := fun e => by rw [hrest]; rfl
  refine ⟨?_, t.dom_setDom_self d x, fun e he => ?_, hself, hothers⟩
  · exact congrArg (fun u : State => { u with doms := (t.setDom d x).doms }) hrest
  · rw [t.dom_setDom_ne he, hdom]

end Sys2Proof.Machine
end

section
/-! PROOF. WAITC, WSIG, HITCH and SYNC at their issue (R187, R208, R210, R510, R511). -/

namespace Sys2Proof.Machine

section
variable {s : State} {w : WickId}

theorem execWaitc_eq {c : Cond} {v : Fin 8} (h : s.current w = some (.waitc c v)) (hc : c.badOperand = false) :
    exec (.waitc w) s = .next (s.waitOrGo w (s.holds w c) (s.vtime w v)
      (.cond (BitVec.ofNat 6 c.cc.val) c.neg (BitVec.ofNat 9 c.arg.val))) := by
  simp [exec, execWaitc, h, hc]

theorem execWsig_eq {arr : BitVec 16} {m : Fin 65536} {all : Bool} {v : Fin 8}
    (h : s.current w = some (.wsig m all v)) :
    exec (.wsig w arr) s = .next ((s.waitOrGo w ((s.wk w).sigTest (BitVec.ofNat 16 m.val) all) (s.vtime w v)
      (.flags (BitVec.ofNat 16 m.val) all)).mapWk w (fun x => { x with
        sigs := (if (s.wk w).sigTest (BitVec.ofNat 16 m.val) all then x.sigs &&& ~~~(BitVec.ofNat 16 m.val) else x.sigs)
          ||| arr })) := by
  simp only [exec, execWsig, h]

theorem execHitch_barred {d : DomId} {v : Fin 8} (h : s.current w = some (.hitch d v))
    (hb : s.takesPart d = false ∨ s.pwick d = w) :
    exec (.hitch w) s = .next ((s.advance w).mapWk w (fun x => { x with tout := true })) := by
  simp only [exec, execHitch, h, (s.hitchBarred_iff w d).2 hb, if_true]

/-- HITCH of a free domain. -/
theorem execHitch_free {d : DomId} {v : Fin 8} (h : s.current w = some (.hitch d v)) (hp : s.takesPart d = true)
    (hw : s.pwick d ≠ w) (ho : (s.dom d).owner = .none) (hq : (s.dom d).queue = []) :
    exec (.hitch w) s = .next ((s.setDom d { s.dom d with owner := .wick w, epoch := (s.wk w).epoch }).waitOrGo w true
      (s.vtime w v) (.hitch d)) := by
  have hb : s.hitchBarred w d = false := by simp [State.hitchBarred, hp, hw]
  have howns : (s.setDom d { s.dom d with owner := .wick w, epoch := (s.wk w).epoch }).owns (.wick w) d = true :=
    s.owns_setDom_self w d _ rfl rfl
  have hf : ((s.dom d).owner == .none && (s.dom d).queue.isEmpty) = true := by
    simp [ho, hq]
  simp only [exec, execHitch, h, hb, hf, if_true, howns, Bool.not_true, Bool.false_and, Bool.false_eq_true, if_false]
  rfl

/-- HITCH of a domain that is not free. -/
theorem execHitch_taken {d : DomId} {v : Fin 8} (h : s.current w = some (.hitch d v)) (hp : s.takesPart d = true)
    (hw : s.pwick d ≠ w) (hfree : ¬ ((s.dom d).owner = .none ∧ (s.dom d).queue = [])) :
    exec (.hitch w) s = .next (
      let t := s.waitOrGo w (s.owns (.wick w) d) (s.vtime w v) (.hitch d)
      if !s.owns (.wick w) d && 16 ≤ s.vtime w v then t.setDom d { s.dom d with queue := (s.dom d).queue ++ [w] }
      else t) := by
  have hb : s.hitchBarred w d = false := by simp [State.hitchBarred, hp, hw]
  have hf : ((s.dom d).owner == .none && (s.dom d).queue.isEmpty) = false := by
    simpa [Bool.and_eq_true, List.isEmpty_iff] using hfree
  have hdom : (s.waitOrGo w (s.owns (.wick w) d) (s.vtime w v) (.hitch d)).dom d = s.dom d := by
    obtain ⟨hrest, -, -⟩ := s.waitOrGo_wickBecomes w (s.owns (.wick w) d) (s.vtime w v) (.hitch d)
    rw [hrest]
    rfl
  simp only [exec, execHitch, h, hb, hf, Bool.false_eq_true, if_false, hdom]

/-- SYNC of a scope in which the device has no barriers. -/
theorem execSync_nowhere {sc : Fin 4} {id : Fin 256} {v : Fin 8} (h : s.current w = some (.sync sc id v))
    (hsc : sc = 1 ∧ s.tBarriers = false ∨ sc = 2 ∧ s.ringLive = false) :
    exec (.sync w) s = .next (
      let t := (s.advance w).mapWk w (fun x => { x with
        st := .wait (.barrier (sc == 2) (BitVec.ofNat 8 id.val)), deadline := some (s.cycle + s.vtime w v)
        released := false, nowhere := true })
      if s.vtime w v < 16 then
        t.mapWk w (fun x => { x with st := .run, deadline := none, released := false, tout := true })
      else t) := by
  have hring : (sc.val == 2) = (sc == 2) := by
    obtain ⟨rfl, -⟩ | ⟨rfl, -⟩ := hsc <;> rfl
  have hno : (!if sc == 2 then s.ringLive else s.tBarriers) = true := by
    obtain ⟨rfl, ht⟩ | ⟨rfl, hr⟩ := hsc
    · simp [ht]
    · simp [hr]
  simp only [exec, execSync, h, hring, hno, if_true, State.leaveBarrier, State.wk_mapWk_self, Bool.false_eq_true, if_false]
  rfl

end

/-- Settles O15, instruction by instruction; each is one wick's change, and a HITCH's one domain's besides. -/
theorem waitingInstructions : Obligations.WaitingInstructions := by
  unfold Obligations.WaitingInstructions
  refine ⟨⟨fun s w c v h hc => ?waitc, fun s w arr m all v h => ?wsig, fun s w d v h => ?hitch⟩,
    fun s w sc id v h hsc => ?sync⟩
  case waitc => exact (s.waitOrGo_wickBecomes w _ _ _).answer (execWaitc_eq h hc) rfl
  case wsig =>
    refine ((s.waitOrGo_wickBecomes w _ _ _).mapWk _).answer (execWsig_eq h) ?_
    simp only [Wick.issued_sigs, ← Wick.sigTest_iff]
    cases (s.wk w).sigTest (BitVec.ofNat 16 m.val) all
    · simp only [Wick.issued, Bool.false_eq_true, if_false]
      split <;> rfl
    · rfl
  case hitch =>
    refine ⟨fun hb => ?_, fun hp hw => ⟨fun ho hq => ?_, fun hfree => ⟨fun howns => ?_, fun howns hd => ?_,
      fun howns hd => ?_⟩⟩⟩
    · exact ((s.advance_wickBecomes w).mapWk _).answer (execHitch_barred h hb) rfl
    · obtain ⟨hrest, hdom, hdoms, hself, hothers⟩ := (State.waitOrGo_wickBecomes
        (s.setDom d { s.dom d with owner := .wick w, epoch := (s.wk w).epoch }) w true (s.vtime w v) (.hitch d)).ofDom
      exact ⟨_, execHitch_free h hp hw ho hq, hrest, hdom, hdoms, hself, hothers⟩
    all_goals
      have hgo := s.waitOrGo_wickBecomes w (s.owns (.wick w) d) (s.vtime w v) (.hitch d)
      have hexec := execHitch_taken h hp hw hfree
      rw [howns] at hgo hexec
    · exact hgo.answer hexec rfl
    · rw [if_neg (by simp [hd])] at hexec
      exact hgo.answer hexec (if_pos hd)
    · rw [if_pos (by simp [hd])] at hexec
      have hissued : (s.wk w).issued false s.cycle (s.vtime w v) (.hitch d) = _ := if_neg (Nat.not_lt.2 hd)
      rw [hissued] at hgo
      exact ⟨_, hexec, by
        obtain ⟨hrest, hdom, hdoms, hself, hothers⟩ := hgo.setDom d _
        exact ⟨hrest, hdom, hdoms, hself, hothers⟩⟩
  case sync =>
    have harrive := (s.advance_wickBecomes w).mapWk (fun x => { x with
        st := .wait (.barrier (sc == 2) (BitVec.ofNat 8 id.val)), deadline := some (s.cycle + s.vtime w v)
        released := false, nowhere := true })
    refine ⟨_, execSync_nowhere h hsc, ?_⟩
    dsimp only
    split
    · exact harrive.mapWk _
    · exact harrive

end Sys2Proof.Machine
end

section
/-! SUPPORT. Arrivals at barriers, and what a wick leaves behind that leaves one (R214, R510, R511). -/

namespace Sys2Proof.Machine

/-! The arrivals by barrier ID -/

section
variable {k : Nat} (l : List (BitVec 8 × BitVec k)) (id : BitVec 8) (v : BitVec k)

theorem arrivals_setArrivals_self : arrivals (setArrivals l id v) id = v := by
  have hfind : (l.filter (fun e => e.1 != id)).find? (fun e => e.1 == id) = none :=
    List.find?_eq_none.2 fun e he => by simpa using (List.mem_filter.1 he).2
  unfold arrivals setArrivals
  split
  · next hv => rw [hfind, hv]; rfl
  · rw [List.find?_append, hfind]
    simp

theorem arrivals_setArrivals_ne {j : BitVec 8} (hj : j ≠ id) : arrivals (setArrivals l id v) j = arrivals l j := by
  have hfind : (l.filter (fun e => e.1 != id)).find? (fun e => e.1 == j) = l.find? (fun e => e.1 == j) := by
    rw [List.find?_filter]
    congr 1
    funext e
    by_cases he : e.1 = j
    · simp [he, hj]
    · simp [he]
  unfold arrivals setArrivals
  split
  · rw [hfind]
  · rw [List.find?_append, hfind]
    simp [Ne.symm hj]

end

/-! Frames of this node -/

theorem State.rOut_frame (s : State) (b : Bool) (x : RingTx) :
    s.rOut b x = { s with ring := { s.ring with ports := (s.rOut b x).ring.ports, sent := (s.rOut b x).ring.sent } } := by
  unfold State.rOut
  dsimp only
  split <;> rfl

theorem State.rSend_frame (s : State) (dst : Byte) (b : RingBody) :
    s.rSend dst b = { s with ring := { s.ring with
      ports := (s.rSend dst b).ring.ports, sent := (s.rSend dst b).ring.sent
      seq := (s.rSend dst b).ring.seq, seqs := (s.rSend dst b).ring.seqs } } := by
  unfold State.rSend
  split
  · rw [State.takeSeq, State.rBoth, State.rOut_frame (State.rOut _ _ _), State.rOut_frame s]
  · rfl

/-! Leaving a barrier -/

/-- A wick that no longer waits is not at the barrier; every other is as before. -/
theorem State.mem_atBarrier_of_wickBecomes {s t : State} {w : WickId} {x : Wick} (h : s.WickBecomes w x t) (ring : Bool)
    (id : BitVec 8) (hx : x.st = .run) (u : WickId) :
    u ∈ t.atBarrier ring id ↔ u ≠ w ∧ u ∈ s.atBarrier ring id := by
  obtain ⟨-, hself, hothers⟩ := h
  by_cases hu : u = w
  · subst hu
    simp [State.atBarrier, hself, hx]
  · simp [State.atBarrier, hothers u hu, hu]

theorem State.barrierLeave_stays {s : State} {ring : Bool} {id : BitVec 8} (h : s.atBarrier ring id ≠ []) :
    s.barrierLeave ring id = s := by
  simp [State.barrierLeave, h]

theorem State.barrierLeave_ring {s : State} {id : BitVec 8} (h : s.atBarrier true id = []) :
    s.barrierLeave true id = { s with ring := (s.barrierLeave true id).ring }
      ∧ arrivals (s.barrierLeave true id).ring.sets id
        = arrivals s.ring.sets id &&& ~~~BitVec.ofNat 64 (2 ^ s.node.toNat)
      ∧ ∀ j, j ≠ id → arrivals (s.barrierLeave true id).ring.sets j = arrivals s.ring.sets j := by
  have hsets : (s.rSend 0xFF (.withdraw id)).ring.sets = s.ring.sets := by rw [State.rSend_frame]
  have hleave : s.barrierLeave true id = (s.rSend 0xFF (.withdraw id)).rWithdraw s.node id := by
    simp [State.barrierLeave, h]
  rw [hleave]
  simp only [State.rWithdraw, hsets]
  refine ⟨?_, arrivals_setArrivals_self _ _ _, fun j hj => arrivals_setArrivals_ne _ _ _ hj⟩
  rw [State.rSend_frame]

theorem State.barrierLeave_slave {s : State} {id : BitVec 8} (h : s.atBarrier false id = []) (hs : s.slave = true) :
    s.barrierLeave false id = { s with tether := { s.tether with events := s.tether.events ++ [(false, id)] } } := by
  simp [State.barrierLeave, h, hs, State.tEvent]

theorem State.barrierLeave_master {s : State} {id : BitVec 8} (h : s.atBarrier false id = []) (hs : s.slave = false) :
    s.barrierLeave false id
      = { s with tether := { s.tether with sets := setArrivals s.tether.sets id (arrivals s.tether.sets id &&& ~~~1) } } := by
  simp [State.barrierLeave, h, hs, State.tWithdraw]

end Sys2Proof.Machine
end

section
/-! PROOF. The ends of waits (R176, R187, R189, R208, R210, R212, R214, R252). -/

namespace Sys2Proof.Machine

section
variable {s : State} {w : WickId}

/-- The wick goes on with the outcome. -/
theorem State.goOn_wickBecomes (s : State) (w : WickId) (timeout : Bool) :
    s.WickBecomes w { (s.wk w).woken with tout := timeout } (s.goOn w timeout) :=
  s.mapWk_wickBecomes w (fun x => { x.resume with tout := timeout })

theorem execWaitEnd_eq (h : s.mayEnd w = true) (hst : (s.wk w).st = .wait .time) :
    exec (.waitEnd w) s = .next (s.mapWk w Wick.resume) := by
  simp [exec, execWaitEnd, h, hst]

theorem execWaitcSuccess_eq (h : s.mayEnd w = true) {cc : BitVec 6} {neg : Bool} {arg : BitVec 9}
    (hst : (s.wk w).st = .wait (.cond cc neg arg)) (htest : s.test w cc.toNat arg.toNat = !neg) :
    exec (.waitcSuccess w) s = .next (s.goOn w false) := by
  simp [exec, execWaitcSuccess, h, hst, htest]

theorem execWaitTimeout_cond (h : s.mayEnd w = true) {cc : BitVec 6} {neg : Bool} {arg : BitVec 9}
    (hst : (s.wk w).st = .wait (.cond cc neg arg)) (htest : s.test w cc.toNat arg.toNat = neg) :
    exec (.waitTimeout w) s = .next (s.goOn w true) := by
  simp [exec, execWaitTimeout, h, hst, htest]

theorem execWsigSuccess_eq (h : s.mayEnd w = true) {m : BitVec 16} {all : Bool} (arr : BitVec 16)
    (hst : (s.wk w).st = .wait (.flags m all)) (htest : (s.wk w).sigTest m all = true) :
    exec (.wsigSuccess w arr) s
      = .next ((s.goOn w false).mapWk w (fun x => { x with sigs := (x.sigs &&& ~~~m) ||| arr })) := by
  simp [exec, execWsigSuccess, h, hst, htest]

theorem execWaitTimeout_flags (h : s.mayEnd w = true) {m : BitVec 16} {all : Bool}
    (hst : (s.wk w).st = .wait (.flags m all)) (htest : (s.wk w).sigTest m all = false) :
    exec (.waitTimeout w) s = .next (s.goOn w true) := by
  simp [exec, execWaitTimeout, h, hst, htest]

theorem execHitchSuccess_eq (h : s.mayEnd w = true) {d : DomId} (hst : (s.wk w).st = .wait (.hitch d))
    (howns : s.owns (.wick w) d = true) : exec (.hitchSuccess w) s = .next ((s.leaveQueue w d).goOn w false) := by
  simp [exec, execHitchSuccess, h, hst, howns]

theorem execWaitTimeout_hitch (h : s.mayEnd w = true) {d : DomId} (hst : (s.wk w).st = .wait (.hitch d))
    (howns : s.owns (.wick w) d = false) : exec (.waitTimeout w) s = .next ((s.leaveQueue w d).goOn w true) := by
  simp [exec, execWaitTimeout, h, hst, howns]

theorem execSyncSuccess_eq (h : s.mayEnd w = true) {ring : Bool} {id : BitVec 8}
    (hst : (s.wk w).st = .wait (.barrier ring id)) (hr : (s.wk w).released = true) :
    exec (.syncSuccess w) s = .next (s.goOn w false) := by
  simp [exec, execSyncSuccess, h, hst, hr]

theorem execWaitTimeout_barrier (h : s.mayEnd w = true) {ring : Bool} {id : BitVec 8}
    (hst : (s.wk w).st = .wait (.barrier ring id)) (hr : (s.wk w).released = false) :
    exec (.waitTimeout w) s
      = .next (if (s.wk w).nowhere then s.goOn w true else (s.goOn w true).barrierLeave ring id) := by
  have hno : ((s.goOn w true).wk w).nowhere = (s.wk w).nowhere := by
    rw [(s.goOn_wickBecomes w true).wk]
    rfl
  simp [exec, execWaitTimeout, h, hst, hr, State.leaveBarrier, hno]

theorem execLogStallEnd_eq (h : s.mayEnd w = true) {c : BitVec 8} {v : Word} {time : BitVec 64}
    (hst : (s.wk w).st = .wait (.logger c v time)) (hbuf : (s.wk w).logBuf = none) :
    exec (.logStallEnd w) s = .next (s.mapWk w (fun x =>
      { x.resume with logBuf := some { code := c, value := v, time := time } })) := by
  simp [exec, execLogStallEnd, h, hst, hbuf]

theorem execDisWaitEnd_eq (h : s.mayEnd w = true) {thr : Bool} {l : List Rail} (hst : (s.wk w).st = .wait (.dis thr l))
    (hl : thr = true → ∀ r ∈ l, (s.ch r).st ≠ .falling) :
    exec (.disWaitEnd w) s = .next (s.mapWk w Wick.resume) := by
  have hnone : (thr && l.any (fun r => (s.ch r).st == .falling)) = false := by
    cases thr
    · rfl
    · simpa using hl rfl
  simp [exec, execDisWaitEnd, h, hst, hnone]

end

/-- The end of a HITCH's wait, with or without success: the wick goes on and leaves the queue. -/
theorem State.leaveQueue_goOn (s : State) (w : WickId) (d : DomId) (timeout : Bool) (t : State)
    (ht : t = (s.leaveQueue w d).goOn w timeout) :
    t = { s with wicks := t.wicks, doms := t.doms } ∧ t.wk w = { (s.wk w).woken with tout := timeout }
      ∧ (∀ u, u ≠ w → t.wk u = s.wk u) ∧ t.dom d = { s.dom d with queue := (s.dom d).queue.filter (fun u => u != w) }
      ∧ ∀ e, e ≠ d → t.dom e = s.dom e := by
  subst ht
  obtain ⟨hrest, hdom, hdoms, hself, hothers⟩ := ((s.leaveQueue w d).goOn_wickBecomes w timeout).ofDom
  exact ⟨hrest, hself, hothers, hdom, hdoms⟩

/-- A wick leaves a barrier at which no other wick of the device waits. -/
theorem State.goOn_barrierLeave_last {s : State} {w : WickId} {ring : Bool} {id : BitVec 8}
    (h : ∀ u, u ≠ w → u ∉ s.atBarrier ring id) (t : State) (ht : t = (s.goOn w true).barrierLeave ring id) :
    { s with ring := t.ring, tether := t.tether }.WickBecomes w { (s.wk w).woken with tout := true } t
      ∧ (ring = true → t.tether = s.tether
        ∧ arrivals t.ring.sets id = arrivals s.ring.sets id &&& ~~~BitVec.ofNat 64 (2 ^ s.node.toNat)
        ∧ ∀ j, j ≠ id → arrivals t.ring.sets j = arrivals s.ring.sets j)
      ∧ (ring = false → t.ring = s.ring
        ∧ (s.slave = true → t.tether = { s.tether with events := s.tether.events ++ [(false, id)] })
        ∧ (s.slave = false → t.tether = { s.tether with sets := t.tether.sets }
          ∧ arrivals t.tether.sets id = arrivals s.tether.sets id &&& ~~~1
          ∧ ∀ j, j ≠ id → arrivals t.tether.sets j = arrivals s.tether.sets j)) := by
  have hgo := s.goOn_wickBecomes w true
  have hempty : (s.goOn w true).atBarrier ring id = [] := List.eq_nil_iff_forall_not_mem.2 fun u hu =>
    let ⟨hne, hmem⟩ := (State.mem_atBarrier_of_wickBecomes hgo ring id rfl u).1 hu
    h u hne hmem
  obtain ⟨-, hself, hothers⟩ := hgo
  subst ht
  cases ring with
  | true =>
    obtain ⟨hframe, hid, hothers'⟩ := State.barrierLeave_ring hempty
    generalize (s.goOn w true).barrierLeave true id = t at hframe hid hothers'
    refine ⟨⟨?_, ?_, fun u hu => ?_⟩, fun _ => ⟨?_, hid, hothers'⟩, (fun h => nomatch h)⟩
    · rw [hframe]
      rfl
    · rw [hframe]
      exact hself
    · rw [hframe]
      exact hothers u hu
    · rw [hframe]
      rfl
  | false =>
    cases hs : s.slave with
    | true =>
      rw [State.barrierLeave_slave hempty hs]
      exact ⟨⟨rfl, hself, hothers⟩, (fun h => nomatch h), fun _ => ⟨rfl, fun _ => rfl, (fun h => nomatch h)⟩⟩
    | false =>
      rw [State.barrierLeave_master hempty hs]
      exact ⟨⟨rfl, hself, hothers⟩, (fun h => nomatch h), fun _ => ⟨rfl, (fun h => nomatch h), fun _ =>
        ⟨rfl, arrivals_setArrivals_self _ _ _, fun j hj => arrivals_setArrivals_ne _ _ _ hj⟩⟩⟩

/-- Settles O16, wait by wait. -/
theorem waitEnds : Obligations.WaitEnds := by
  unfold Obligations.WaitEnds
  intro s w h
  refine ⟨fun hst => ?time, fun cc neg arg hst => ⟨fun ht => ?cond, fun ht => ?condTimeout⟩,
    fun m all hst => ⟨fun arr ht => ?flags, fun ht => ?flagsTimeout⟩,
    fun d hst => ⟨fun ho => ?hitch, fun ho => ?hitchTimeout⟩,
    fun ring id hst => ⟨fun hr => ?released, fun hr hstay => ?stays, fun hr hno hlast => ?last⟩,
    fun c v time hst hbuf => ?logger, fun thr l hst hl => ?dis⟩
  case time => exact (s.mapWk_wickBecomes w Wick.resume).answer (execWaitEnd_eq h hst) rfl
  case cond => exact (s.goOn_wickBecomes w false).answer (execWaitcSuccess_eq h hst ht) rfl
  case condTimeout => exact (s.goOn_wickBecomes w true).answer (execWaitTimeout_cond h hst ht) rfl
  case flags => exact ((s.goOn_wickBecomes w false).mapWk _).answer (execWsigSuccess_eq h arr hst ht) rfl
  case flagsTimeout => exact (s.goOn_wickBecomes w true).answer (execWaitTimeout_flags h hst ht) rfl
  case hitch => exact ⟨_, execHitchSuccess_eq h hst ho, s.leaveQueue_goOn w d false _ rfl⟩
  case hitchTimeout => exact ⟨_, execWaitTimeout_hitch h hst ho, s.leaveQueue_goOn w d true _ rfl⟩
  case released => exact (s.goOn_wickBecomes w false).answer (execSyncSuccess_eq h hst hr) rfl
  case stays =>
    refine (s.goOn_wickBecomes w true).answer ?_ rfl
    rw [execWaitTimeout_barrier h hst hr]
    split
    · rfl
    · next hno =>
      obtain hno' | ⟨u, hu, hmem⟩ := hstay
      · exact absurd hno' hno
      · rw [State.barrierLeave_stays (List.ne_nil_of_mem
          ((State.mem_atBarrier_of_wickBecomes (s.goOn_wickBecomes w true) ring id rfl u).2 ⟨hu, hmem⟩))]
  case last =>
    refine ⟨_, execWaitTimeout_barrier h hst hr, ?_⟩
    rw [hno]
    exact State.goOn_barrierLeave_last hlast _ rfl
  case logger => exact (s.mapWk_wickBecomes w _).answer (execLogStallEnd_eq h hst hbuf) rfl
  case dis => exact (s.mapWk_wickBecomes w Wick.resume).answer (execDisWaitEnd_eq h hst hl) rfl

end Sys2Proof.Machine
end

section
/-! SUPPORT. The stop of a wick that runs, and the program that starts in its place (R176, R235, R236). -/

namespace Sys2Proof.Machine

theorem Cyc.hits_nil (c : Cyc) : c.hits [] = c := by
  simp [Cyc.hits, Cyc.forAll]

theorem Cyc.hitsWith_nil (c : Cyc) (own : List Hit) : c.hitsWith own [] = c.hits own := rfl

/-- A wick just after its stop (R175, R176, R220). -/
def Wick.stopped (x : Wick) : Wick :=
  { x with st := .halted, hint := none, deadline := none, stop := false, epoch := x.epoch + 1 }

/-- A running wick has no wait to abandon. -/
theorem State.stopWick_run {s : State} {w : WickId} (h : (s.wk w).st = .run) :
    s.stopWick w = s.mapWk w Wick.stopped := by
  simp only [State.stopWick, h, State.abandon]
  rfl

/-! Which domains take part, and which rails are theirs, is set by registers and SEQ_DSTATd.CONF -/

section
variable {s t : State} (hregs : t.regs = s.regs) (hconf : ∀ e, (t.dom e).conf = (s.dom e).conf)
include hregs hconf

theorem State.takesPart_congr (d : DomId) : t.takesPart d = s.takesPart d := by
  simp only [State.takesPart, State.bit, State.reg, hregs, hconf]

theorem State.domOf_congr (r : Rail) : t.domOf r = s.domOf r := by
  simp only [State.domOf, State.takesPart_congr hregs hconf, State.names, State.bit, State.reg, hregs]

theorem State.railsOf_congr (d : DomId) : t.railsOf d = s.railsOf d := by
  simp only [State.railsOf, State.domOf_congr hregs hconf]

end

theorem State.conf_setDom (s : State) (d : DomId) {x : Domain} (hx : x.conf = (s.dom d).conf) (e : DomId) :
    ((s.setDom d x).dom e).conf = (s.dom e).conf := by
  by_cases he : e = d
  · subst he
    rw [s.dom_setDom_self, hx]
  · rw [s.dom_setDom_ne he]

theorem State.setDom_setDom (s : State) (d : DomId) (x y : Domain) : (s.setDom d x).setDom d y = s.setDom d y := by
  simp [State.setDom]

/-- A cycle that starts with changes of wicks and domains. -/
theorem State.CycleOf.ofWicksDoms {s t u : State} {rails : List Rail} {regs : List Nat} (h : u.CycleOf rails regs t)
    (hu : u = { s with wicks := u.wicks, doms := u.doms }) :
    { s with wicks := t.wicks, doms := t.doms }.CycleOf rails regs t := by
  have hparts : t.wicks = u.wicks ∧ t.doms = u.doms := by
    obtain ⟨hfields, -, -⟩ := h
    rw [hfields]
    exact ⟨rfl, rfl⟩
  rw [hparts.1, hparts.2, ← hu]
  exact h

/-! The cycle in which a domain's down-program replaces its up-program -/

/-- A down-program disables the rails of its domain that wait to rise again (R239). -/
theorem Cyc.downDisables_none {c : Cyc} {d : DomId}
    (h : ∀ r ∈ c.s.railsOf d, (c.s.ch r).st ≠ .retryWait ∧ (c.s.ch r).pend = false) : c.downDisables d = c := by
  have hnone : (c.s.railsOf d).filter (fun r => (c.s.ch r).st == .retryWait || (c.s.ch r).pend) = [] := by
    refine List.filter_eq_nil_iff.2 fun r hr => ?_
    obtain ⟨hst, hpend⟩ := h r hr
    simp [hst, hpend]
  rw [Cyc.downDisables, hnone, List.map_nil, Cyc.hits_nil]

/-- A program of domain `d` starts on its wick, which is at rest, the outcome of the last one being `last`. -/
def State.started (s : State) (d : DomId) (p : Prog) (src last : BitVec 3) : State :=
  (s.startWick (s.pwick d) (s.entry d p)).setDom d { s.dom d with prog := p, last := last, src := src, next := none }

theorem State.started_frame (s : State) (d : DomId) (p : Prog) (src last : BitVec 3) :
    s.started d p src last = { s with wicks := (s.started d p src last).wicks, doms := (s.started d p src last).doms } :=
  rfl

/-- The program's wick, just started. -/
def Wick.startedAt (x : Wick) (a : BitVec 12) : Wick :=
  { x with
    st := .run, pc := a, stack := [], lc := 0, tout := false, cref := false, pmbf := false, sfail := false
    hint := none, fcode := 0, deadline := none, stop := false, released := false, epoch := x.epoch + 1 }

theorem State.started_wk (s : State) (d : DomId) (p : Prog) (src last : BitVec 3) :
    (s.started d p src last).wk (s.pwick d) = (s.wk (s.pwick d)).startedAt (s.entry d p) :=
  s.wk_setWk_self _ _

theorem State.started_wk_ne (s : State) {d : DomId} {u : WickId} (hu : u ≠ s.pwick d) (p : Prog) (src last : BitVec 3) :
    (s.started d p src last).wk u = s.wk u :=
  s.wk_setWk_ne hu _

theorem State.started_dom (s : State) (d : DomId) (p : Prog) (src last : BitVec 3) :
    (s.started d p src last).dom d = { s.dom d with prog := p, last := last, src := src, next := none } :=
  State.dom_setDom_self _ _ _

theorem State.started_dom_ne (s : State) {d e : DomId} (he : e ≠ d) (p : Prog) (src last : BitVec 3) :
    (s.started d p src last).dom e = s.dom e :=
  State.dom_setDom_ne _ he _

theorem State.started_conf (s : State) (d : DomId) (p : Prog) (src last : BitVec 3) (e : DomId) :
    ((s.started d p src last).dom e).conf = (s.dom e).conf :=
  State.conf_setDom (s.startWick (s.pwick d) (s.entry d p)) d
    (x := { s.dom d with prog := p, last := last, src := src, next := none }) rfl e

/-- The down-program that an off request has ordered replaces the up-program, whose outcome is 3 (R236). -/
theorem Cyc.launchOne_down {c : Cyc} {d : DomId} {src : BitVec 3} (hnext : (c.s.dom d).next = some (.down, src))
    (hprog : (c.s.dom d).prog = .up) (hrails : ∀ r ∈ c.s.railsOf d, (c.s.ch r).st ≠ .retryWait ∧ (c.s.ch r).pend = false) :
    c.launchOne d = c.map (fun s => s.started d .down src 3) := by
  have hended : c.launchOne d
      = (c.map (fun s => s.setDom d { s.dom d with prog := .none, last := 3 })).beginProg d .down src := by
    simp [Cyc.launchOne, hnext, Cyc.endProg, hprog]
  have hself := c.s.dom_setDom_self d { c.s.dom d with prog := .none, last := 3 }
  have hstart : ((c.s.setDom d { c.s.dom d with prog := .none, last := 3 }).startWick (c.s.pwick d)
        (c.s.entry d .down)).setDom d
          { (c.s.setDom d { c.s.dom d with prog := .none, last := 3 }).dom d with prog := .down, src := src, next := none }
      = c.s.started d .down src 3 := by
    rw [hself]
    exact (c.s.startWick (c.s.pwick d) (c.s.entry d .down)).setDom_setDom d _ _
  have hbegun : c.launchOne d = (c.map (fun s => s.started d .down src 3)).downDisables d :=
    hended.trans (congrArg (fun s => Cyc.downDisables { c with s := s } d) hstart)
  have hsame : (c.s.started d .down src 3).railsOf d = c.s.railsOf d :=
    State.railsOf_congr (s := c.s) (t := c.s.started d .down src 3) rfl (c.s.started_conf d .down src 3) d
  rw [hbegun, Cyc.downDisables_none]
  intro r hr
  exact hrails r (hsame ▸ hr)

/-- A down-program that is ordered starts, and no domain depends on this one, so the cascade ends with it (R250). -/
theorem Cyc.launch_down {c : Cyc} {d : DomId} {src : BitVec 3} (n : Nat) (hcan : c.s.canLaunch d = true)
    (hnext : (c.s.dom d).next = some (.down, src)) (hprog : (c.s.dom d).prog = .up)
    (hrails : ∀ r ∈ c.s.railsOf d, (c.s.ch r).st ≠ .retryWait ∧ (c.s.ch r).pend = false)
    (hdep : ∀ e, c.s.dependsOn e d = false) :
    Cyc.launch (n + 1) [d] c = c.map (fun s => s.started d .down src 3) := by
  have hgo : [d].filter c.s.canLaunch = [d] := by simp [hcan]
  have hdowns : [d].filter c.s.downOrdered = [d] := by simp [State.downOrdered, hnext]
  have hdep' : ∀ e, (c.s.started d .down src 3).dependsOn e d = false := hdep
  have hone : c.forAll [d] Cyc.launchOne = c.map (fun s => s.started d .down src 3) := Cyc.launchOne_down hnext hprog hrails
  have hnone : allDoms.filter (fun (e : DomId) => (c.map (fun s => s.started d .down src 3)).s.bit (aDCfg e) 26
      && [d].any (fun f => (c.map (fun s => s.started d .down src 3)).s.dependsOn e f)) = [] :=
    List.filter_eq_nil_iff.2 fun e _ => by
      simp only [Cyc.map, List.any_cons, List.any_nil, hdep', Bool.or_false, Bool.and_false, Bool.false_eq_true,
        not_false_eq_true]
  simp only [Cyc.launch, hgo, hdowns, hone, hnone, List.isEmpty_nil, if_true]

/-- The one domain of a kind is the first of its kind. -/
theorem find?_allDoms {p : DomId → Bool} {d : DomId} (hd : p d = true) (hne : ∀ e, e ≠ d → p e = false) :
    allDoms.find? p = some d := by
  cases h : allDoms.find? p with
  | none => exact absurd hd (List.find?_eq_none.1 h d (List.mem_finRange d))
  | some e =>
    by_contra hed
    exact absurd (List.find?_some h) (by simp [hne e (fun he => hed (congrArg some he))])

end Sys2Proof.Machine
end

section
/-! PROOF. START, STOP, SIGSET and the boundary stop (R173 to R176, R209, R237). -/

namespace Sys2Proof.Machine

/-- The effect of a fabric write while the fabric serves registers. -/
theorem State.fab_serves {s : State} (h : s.serves = true) (f : State → State) : s.fab f = f s := by
  rw [State.fab, if_pos h]

section
variable {s : State} {w : WickId}

theorem State.canStart_iff (s : State) (w : WickId) (a : BitVec 12) :
    s.canStart w a = true ↔ (s.wk w).st ∈ [WickState.idle, .halted, .fault] ∧ a.toNat < s.liveLen := by
  cases hst : (s.wk w).st <;> simp [State.canStart, hst]

theorem execWickStart_taken (hs : s.serves = true) (who : Who) {a : BitVec 12} (hp : s.progOf w = none)
    (hc : s.canStart w a = true) : exec (.wickStart who w a) s = .next (s.startWick w a) := by
  simp [exec, execWickStart, State.fab_serves hs, State.wickStart, hp, hc]

theorem execWickStart_refused (hs : s.serves = true) (who : Who) {a : BitVec 12}
    (h : s.progOf w ≠ none ∨ s.canStart w a = false) :
    exec (.wickStart who w a) s = .next (s.orReg aSeqStat (bitw 0)) := by
  have hbad : ((s.progOf w).isSome || !s.canStart w a) = true := by
    simpa [Option.isSome_iff_ne_none] using h
  simp only [exec, execWickStart, State.fab_serves hs, State.wickStart, hbad, if_true]

theorem execWickStop_busy (hs : s.serves = true) (who : Who) (hp : s.progOf w = none)
    (hst : (s.wk w).st ∉ [WickState.idle, .halted, .fault]) :
    exec (.wickStop who w) s = .next (s.mapWk w (fun x => { x with stop := true })) := by
  cases hx : (s.wk w).st
  case run => simp [exec, execWickStop, State.fab_serves hs, State.wickStop, hp, hx]
  case wait k => simp [exec, execWickStop, State.fab_serves hs, State.wickStop, hp, hx]
  all_goals simp [hx] at hst

theorem execWickStop_rest (hs : s.serves = true) (who : Who) (hp : s.progOf w = none)
    (hst : (s.wk w).st ∈ [WickState.idle, .halted, .fault]) : exec (.wickStop who w) s = .next s := by
  simp only [List.mem_cons, List.not_mem_nil, or_false] at hst
  obtain hx | hx | hx := hst <;> simp [exec, execWickStop, State.fab_serves hs, State.wickStop, hp, hx]

theorem execWickStop_refused (hs : s.serves = true) (who : Who) (hp : s.progOf w ≠ none) :
    exec (.wickStop who w) s = .next (s.orReg aSeqStat (bitw 0)) := by
  simp [exec, execWickStop, State.fab_serves hs, State.wickStop, Option.isSome_iff_ne_none, hp]

theorem execSigset_eq (hs : s.serves = true) (who : Who) (n : Fin 16) :
    exec (.sigset who w n) s = .next (s.setSignal w n) := by
  rw [exec, execSigset, State.fab_serves hs]

/-- A wick that no domain needs only stops. -/
theorem execWickBoundaryStop_plain (hstop : (s.wk w).stop = true) (hst : (s.wk w).st = .run) (hp : s.progOf w = none)
    (hnext : ∀ d, (s.dom d).next = none) :
    exec (.wickBoundaryStop w) s = .next (Cyc.finish { s := s.mapWk w Wick.stopped }) := by
  have hnone : allDoms.find? (fun d => (s.mapWk w Wick.stopped).pwick d == w && (s.mapWk w Wick.stopped).canLaunch d)
      = none := List.find?_eq_none.2 fun d _ => by
    simp [State.canLaunch, hnext d]
  have hp' : (s.mapWk w Wick.stopped).progOf w = none := hp
  simp only [exec, execWickBoundaryStop, hstop, State.cyc, Cyc.map, State.stopWick_run hst, hnone, hp', Bool.not_true,
    Bool.false_eq_true, if_false, Cyc.wickEnded, ite_self]

/-- A wick whose domain has ordered its down-program stops and starts that program. -/
theorem execWickBoundaryStop_down {d : DomId} (hstop : (s.wk w).stop = true) (hst : (s.wk w).st = .run)
    (hw : s.pwick d = w) (hpart : s.takesPart d = true) (hnext : (s.dom d).next = some (.down, 0))
    (hprog : (s.dom d).prog = .up) (hothers : ∀ e, e ≠ d → (s.dom e).next = none)
    (hdep : ∀ e, s.dependsOn e d = false)
    (hrails : ∀ r ∈ s.railsOf d, (s.ch r).st ≠ .retryWait ∧ (s.ch r).pend = false) :
    exec (.wickBoundaryStop w) s = .next (Cyc.finish { s := (s.mapWk w Wick.stopped).started d .down 0 3 }) := by
  have hself : (s.mapWk w Wick.stopped).wk w = (s.wk w).stopped := s.wk_mapWk_self w _
  have hcan : (s.mapWk w Wick.stopped).canLaunch d = true := by
    have hpw : (s.mapWk w Wick.stopped).pwick d = w := hw
    have htp : (s.mapWk w Wick.stopped).takesPart d = true := hpart
    simp [State.canLaunch, hnext, hpw, htp, hself, Wick.stopped]
  have hfind : allDoms.find? (fun d => (s.mapWk w Wick.stopped).pwick d == w && (s.mapWk w Wick.stopped).canLaunch d)
      = some d := by
    refine find?_allDoms ?_ fun e he => ?_
    · have hpw : (s.mapWk w Wick.stopped).pwick d = w := hw
      simp [hpw, hcan]
    · simp [State.canLaunch, hothers e he]
  have hlaunch := Cyc.launch_down (c := { s := s.mapWk w Wick.stopped }) 16 hcan hnext hprog hrails hdep
  simp only [exec, execWickBoundaryStop, hstop, State.cyc, Cyc.map, State.stopWick_run hst, hfind, hlaunch, Bool.not_true,
    Bool.false_eq_true, if_false]

end

/-- Settles O17, command by command. -/
theorem wickCommands : Obligations.WickCommands := by
  unfold Obligations.WickCommands
  refine ⟨fun s who w hs => ⟨fun a hp hst ha => ?start, fun a hbad => ?startRefused,
    fun hp => ⟨fun hst => ?stop, fun hst => ?stopRest⟩, fun hp => ?stopRefused, fun n => ?sigset⟩,
    fun s w hstop hst hp hnext => ?boundary,
    fun s w d hstop hst hw hpart hnext hprog hothers hdep hrails => ?down⟩
  case start =>
    exact (s.setWk_wickBecomes w _).answer (execWickStart_taken hs who hp ((s.canStart_iff w a).2 ⟨hst, ha⟩)) rfl
  case startRefused =>
    have hbad' : s.progOf w ≠ none ∨ s.canStart w a = false := hbad.imp_right fun h => Bool.eq_false_iff.2 fun hc =>
      have ⟨hst, ha⟩ := (s.canStart_iff w a).1 hc
      h.elim (fun h => h hst) (fun h => Nat.not_lt.2 h ha)
    exact ⟨_, execWickStart_refused hs who hbad', s.orReg_regsBecome _ _, s.reg_orReg_self _ _⟩
  case stop => exact (s.mapWk_wickBecomes w _).answer (execWickStop_busy hs who hp hst) rfl
  case stopRest => exact ⟨s, execWickStop_rest hs who hp hst, rfl⟩
  case stopRefused => exact ⟨_, execWickStop_refused hs who hp, s.orReg_regsBecome _ _, s.reg_orReg_self _ _⟩
  case sigset => exact (s.setWk_wickBecomes w _).answer (execSigset_eq hs who n) rfl
  case boundary =>
    exact ⟨_, execWickBoundaryStop_plain hstop hst hp hnext,
      (s.mapWk_wickBecomes w Wick.stopped).wickCycle (Cyc.finish_cycleOf _ rfl false)⟩
  case down =>
    refine ⟨_, execWickBoundaryStop_down hstop hst hw hpart hnext hprog hothers hdep hrails, ?_⟩
    have hend := Cyc.finish_cycleOf { s := (s.mapWk w Wick.stopped).started d .down 0 3 } rfl false
    generalize Cyc.finish { s := (s.mapWk w Wick.stopped).started d .down 0 3 } = t at hend
    subst hw
    have hself := (s.mapWk (s.pwick d) Wick.stopped).started_wk d .down 0 3
    have hwick : t.wk (s.pwick d) = (s.wk (s.pwick d)).stopped.startedAt (s.entry d .down) :=
      (hend.wk _).trans (hself.trans (congrArg (Wick.startedAt · (s.entry d .down)) (s.wk_mapWk_self _ Wick.stopped)))
    refine ⟨hend.ofWicksDoms rfl, by rw [hwick]; rfl, by rw [hwick]; rfl, ?_, fun u hu => ?_, ?_, fun e he => ?_⟩
    · rw [hwick]
      exact BitVec.add_assoc _ 1 1
    · exact (hend.wk u).trans ((State.started_wk_ne (s.mapWk (s.pwick d) Wick.stopped) hu .down 0 3).trans
        (s.wk_mapWk_ne hu _))
    · exact (hend.dom d).trans (State.started_dom _ d .down 0 3)
    · exact (hend.dom e).trans (State.started_dom_ne _ he .down 0 3)

end Sys2Proof.Machine
end


section
/-! PROOFS. The SRAM after a write of several bytes, and the spread counters: an increment, INC and INIT (O35). -/

namespace Sys2Proof.Machine
open Sys2Proof

/-! Bytes as numbers -/

@[simp] theorem leBytes_length (n v : Nat) : (leBytes n v).length = n := by
  induction n generalizing v with
  | zero => rfl
  | succ n ih => simp [leBytes, ih]

theorem leNat_leBytes (n v : Nat) : leNat (leBytes n v) = v % 256 ^ n := by
  induction n generalizing v with
  | zero => simp [leBytes, leNat, Nat.mod_one]
  | succ n ih => rw [leBytes, leNat, ih, BitVec.toNat_ofNat, show 256 ^ (n + 1) = 256 * 256 ^ n from Nat.pow_succ', Nat.mod_mul]

theorem leNat_leBytes_of_lt {n v : Nat} (h : v < 256 ^ n) : leNat (leBytes n v) = v := by
  rw [leNat_leBytes, Nat.mod_eq_of_lt h]

/-! What a write of bytes changes -/

theorem State.poke_frame (l : List Byte) (s : State) (a : Nat) :
    s.poke a l = { s with sram := (s.poke a l).sram, keeper := { s.keeper with dirty := (s.poke a l).keeper.dirty } } := by
  induction l generalizing s a with
  | nil => rfl
  | cons b l ih => rw [State.poke, ih]; rfl

/-- A state that differs in the SRAM and in a keeper of a known form. -/
theorem State.eq_sram_keeper {s t : State} {k : Keeper} (h : t = { s with sram := t.sram, keeper := k }) :
    t = { s with sram := t.sram, keeper := t.keeper } := by
  have hk : t.keeper = k := congrArg State.keeper h
  exact h.trans (congrArg (fun k => { s with sram := t.sram, keeper := k }) hk.symm)

theorem State.byte_congr {s t : State} (h : t.sram = s.sram) (a : Nat) : t.byte a = s.byte a := by
  simp [State.byte, h]

theorem State.byte_poke_add (l : List Byte) (s : State) (a i : Nat) (hi : i < l.length) :
    (s.poke a l).byte (a + i) = l[i] := by
  induction l generalizing s a i with
  | nil => simp at hi
  | cons b l ih =>
    cases i with
    | zero =>
      rw [State.poke, State.byte_poke_ne _ _ _ _ (Or.inl (by omega))]
      simp
    | succ i =>
      rw [State.poke, show a + (i + 1) = a + 1 + i by omega, ih _ _ _ (by simpa using hi)]
      rfl

@[simp] theorem State.bytes_length (s : State) (a n : Nat) : (s.bytes a n).length = n := by simp [State.bytes]

theorem State.bytes_getElem {s : State} {a n i : Nat} (hi : i < (s.bytes a n).length) : (s.bytes a n)[i] = s.byte (a + i) := by
  simp [State.bytes]

theorem State.bytes_congr {s t : State} {a n : Nat} (h : ∀ i < n, t.byte (a + i) = s.byte (a + i)) :
    t.bytes a n = s.bytes a n := by
  unfold State.bytes
  exact List.map_congr_left fun i hi => h i (List.mem_range.mp hi)

theorem State.bytes_poke_sub (s : State) (a : Nat) (l : List Byte) (k n : Nat) (h : k + n ≤ l.length) :
    (s.poke a l).bytes (a + k) n = (l.drop k).take n := by
  apply List.ext_getElem
  · simp; omega
  · intro i hi _
    rw [State.bytes_length] at hi
    rw [State.bytes_getElem, Nat.add_assoc, State.byte_poke_add _ _ _ _ (by omega), List.getElem_take, List.getElem_drop]

theorem State.bytes_poke_self (s : State) (a : Nat) (l : List Byte) : (s.poke a l).bytes a l.length = l := by
  simpa using s.bytes_poke_sub a l 0 l.length (by omega)

theorem State.bytes_poke_ne (s : State) {a c n : Nat} (l : List Byte) (h : c + n ≤ a ∨ a + l.length ≤ c) :
    (s.poke a l).bytes c n = s.bytes c n :=
  State.bytes_congr fun i _ => State.byte_poke_ne _ _ _ _ (by omega)

theorem State.bytes_pokeByte_ne (s : State) {a c n : Nat} (b : Byte) (h : c + n ≤ a ∨ a + 1 ≤ c) :
    (s.pokeByte a b).bytes c n = s.bytes c n :=
  State.bytes_congr fun i _ => State.byte_pokeByte_ne _ (by omega) _

theorem State.bytes_pokeByte (s : State) {a n i : Nat} (b : Byte) :
    (s.pokeByte (a + i) b).bytes a n = (s.bytes a n).set i b := by
  apply List.ext_getElem
  · simp
  · intro j hj _
    rw [State.bytes_getElem, List.getElem_set, State.bytes_getElem]
    by_cases h : i = j
    · subst h; simp
    · rw [if_neg h, State.byte_pokeByte_ne _ (by omega)]

/-! The lap copies and the cells of a counter -/

@[simp] theorem lapBytes_length (l : Nat) : (lapBytes l).length = 8 := by simp [lapBytes]

theorem State.lapCopy_congr {s t : State} {a : Nat} (h : t.bytes a 8 = s.bytes a 8) : t.lapCopy a = s.lapCopy a := by
  have hb : ∀ i < 8, t.byte (a + i) = s.byte (a + i) := fun i hi => by
    have := congrArg (·[i]?) h
    simpa [State.bytes, hi] using this
  simp only [State.lapCopy]
  rw [State.bytes_congr (s := s) (t := t) (a := a) (n := 6) (fun i hi => hb i (by omega)),
    State.bytes_congr (s := s) (t := t) (a := a + 6) (n := 2) (fun i hi => by rw [Nat.add_assoc]; exact hb _ (by omega))]

theorem State.lapCopy_poke_self (s : State) (a l : Nat) (hl : l < 2 ^ 48) : (s.poke a (lapBytes l)).lapCopy a = some l := by
  have h6 : (s.poke a (lapBytes l)).bytes a 6 = leBytes 6 l := by
    have := s.bytes_poke_sub a (lapBytes l) 0 6 (by simp)
    rw [Nat.add_zero] at this
    rw [this, List.drop_zero, lapBytes, List.take_append_of_le_length (by simp), List.take_of_length_le (by simp)]
  have h2 : (s.poke a (lapBytes l)).bytes (a + 6) 2 = leBytes 2 (crc16 (leBytes 6 l)).toNat := by
    rw [s.bytes_poke_sub a (lapBytes l) 6 2 (by simp), lapBytes, List.drop_left' (by simp),
      List.take_of_length_le (by simp)]
  simp only [State.lapCopy, h6, h2]
  rw [leNat_leBytes_of_lt (crc16 _).isLt, leNat_leBytes_of_lt (by omega), if_pos rfl]

/-- Both lap copies of a counter. -/
def State.laps (s : State) (n : Nat) : Option Nat × Option Nat :=
  (s.lapCopy (cntBase n + 0x100), s.lapCopy (cntBase n + 0x108))

theorem State.lap_of_laps {s t : State} {n : Nat} (h : t.laps n = s.laps n) : t.lap n = s.lap n := by
  obtain ⟨h1, h2⟩ := Prod.mk.inj h
  simp [State.lap, h1, h2]

theorem State.laps_of_byte {s t : State} {n : Nat} (h : ∀ a, cntBase n + 252 ≤ a → t.byte a = s.byte a) :
    t.laps n = s.laps n := by
  unfold State.laps
  rw [State.lapCopy_congr (State.bytes_congr (s := s) (t := t) fun i _ => h _ (by omega)),
    State.lapCopy_congr (State.bytes_congr (s := s) (t := t) fun i _ => h _ (by omega))]

/-- A counter with both lap copies written. -/
def State.pokeLaps (s : State) (n l : Nat) : State :=
  (s.poke (cntBase n + 0x100) (lapBytes l)).poke (cntBase n + 0x108) (lapBytes l)

theorem State.pokeLaps_laps (s : State) (n : Nat) {l : Nat} (hl : l < 2 ^ 48) : (s.pokeLaps n l).laps n = (some l, some l) := by
  unfold State.laps State.pokeLaps
  rw [State.lapCopy_poke_self _ _ _ hl, State.lapCopy_congr (State.bytes_poke_ne _ _ (by simp)),
    State.lapCopy_poke_self _ _ _ hl]

theorem State.lap_pokeLaps (s : State) (n : Nat) {l : Nat} (hl : l < 2 ^ 48) : (s.pokeLaps n l).lap n = l := by
  obtain ⟨h1, h2⟩ := Prod.mk.inj (s.pokeLaps_laps n hl)
  simp [State.lap, h1, h2]

theorem State.byte_pokeLaps (s : State) (n l a : Nat) (h : a < cntBase n + 0x100 ∨ cntBase n + 0x110 ≤ a) :
    (s.pokeLaps n l).byte a = s.byte a := by
  unfold State.pokeLaps
  rw [State.byte_poke_ne _ _ _ _ (by simp; omega), State.byte_poke_ne _ _ _ _ (by simp; omega)]

theorem State.cells_pokeLaps (s : State) (n l : Nat) : (s.pokeLaps n l).bytes (cntBase n) 252 = s.bytes (cntBase n) 252 :=
  State.bytes_congr fun i _ => s.byte_pokeLaps n l _ (by omega)

theorem State.pokeLaps_frame (s : State) (n l : Nat) : s.pokeLaps n l =
    { s with sram := (s.pokeLaps n l).sram, keeper := { s.keeper with dirty := (s.pokeLaps n l).keeper.dirty } } := by
  unfold State.pokeLaps
  rw [State.poke_frame, State.poke_frame (lapBytes l) s]

/-! A cell more -/

theorem takeWhile_set_length {l : List Byte} {f : Byte} {p : Nat} (hp : (l.takeWhile (· == f)).length = p) (hl : p < l.length)
    (hd : (l.drop p).contains f = false) : ((l.set p f).takeWhile (· == f)).length = p + 1 := by
  induction l generalizing p with
  | nil => simp at hl
  | cons b l ih =>
    by_cases hb : b = f
    · subst hb
      cases p with
      | zero => simp at hp
      | succ p => simpa using ih (p := p) (by simpa using hp) (by simpa using hl) (by simpa using hd)
    · have hp0 : p = 0 := by rw [← hp]; simp [hb]
      subst hp0
      have hmem : f ∉ l := by
        have : f ∉ b :: l := by simpa using hd
        exact fun h => this (List.mem_cons_of_mem _ h)
      have hnil : l.takeWhile (· == f) = [] := by
        cases l with
        | nil => rfl
        | cons c l =>
          have hc : c ≠ f := fun h => hmem (by simp [h])
          simp [hc]
      simp [hnil]

theorem takeWhile_eq_nil_of_forall {l : List Byte} {f g : Byte} (h : ∀ b ∈ l, b = f) (hfg : f ≠ g) :
    l.takeWhile (· == g) = [] := by
  cases l with
  | nil => rfl
  | cons b l => simp [h b (by simp), hfg]

theorem eq_of_takeWhile_length {l : List Byte} {f : Byte} (h : (l.takeWhile (· == f)).length = l.length) : ∀ b ∈ l, b = f := by
  have hl : l.takeWhile (· == f) = l := (List.takeWhile_prefix _).eq_of_length h
  intro b hb
  rw [← hl] at hb
  simpa using List.mem_takeWhile_imp hb

theorem fillOf_succ_ne (l : Nat) : fillOf l ≠ fillOf (l + 1) := by
  unfold fillOf
  obtain h | h := Nat.mod_two_eq_zero_or_one l
  · rw [if_pos h, if_neg (by omega)]; decide
  · rw [if_neg (by omega), if_pos (by omega)]; decide

/-! The increment -/

section
variable (s : State) (n : Nat)

/-- The counter with its next cell filled. -/
def State.fillNext : State := s.pokeByte (cntBase n + s.position n) (fillOf (s.lap n))

theorem State.lap_fillNext (hp : s.position n ≤ 251) : (s.fillNext n).lap n = s.lap n :=
  State.lap_of_laps (State.laps_of_byte fun a ha => State.byte_pokeByte_ne _ (by omega) _)

theorem State.position_fillNext (hb : s.thermoBad n = false) (hp : s.position n ≤ 251) :
    (s.fillNext n).position n = s.position n + 1 := by
  unfold State.position
  rw [s.lap_fillNext n hp, State.fillNext, State.bytes_pokeByte]
  exact takeWhile_set_length rfl (by rw [State.bytes_length]; omega) hb

theorem State.increment_inLap (hp : s.position n < 251) (hc : 252 * s.lap n + s.position n < 2 ^ 48 - 1) :
    s.increment n = s.fillNext n := by
  simp only [State.increment]
  rw [if_neg (by omega), if_neg (by omega)]
  rfl

theorem State.increment_lapEnd (hp : s.position n = 251) (hc : 252 * s.lap n + s.position n < 2 ^ 48 - 1) :
    s.increment n = (s.fillNext n).pokeLaps n (s.lap n + 1) := by
  simp only [State.increment]
  rw [if_neg (by omega), if_pos hp]
  rfl

/-- The counter counts on by one. -/
theorem State.counter_increment (hb : s.thermoBad n = false) (hp : s.position n ≤ 251)
    (hc : 252 * s.lap n + s.position n < 2 ^ 48 - 1) : (s.increment n).counter n = s.counter n + 1 := by
  have hnow : s.counter n = 252 * s.lap n + s.position n := Nat.min_eq_left (by omega)
  have hpos := s.position_fillNext n hb hp
  obtain hlt | heq := Nat.lt_or_eq_of_le hp
  · rw [s.increment_inLap n hlt hc, hnow, State.counter, s.lap_fillNext n hp, hpos]
    omega
  · have hlap : ((s.fillNext n).pokeLaps n (s.lap n + 1)).lap n = s.lap n + 1 := State.lap_pokeLaps _ _ (by omega)
    have hfull : ∀ b ∈ (s.fillNext n).bytes (cntBase n) 252, b = fillOf (s.lap n) := by
      apply eq_of_takeWhile_length
      rw [← s.lap_fillNext n hp, State.bytes_length]
      exact hpos.trans (by omega)
    have hzero : ((s.fillNext n).pokeLaps n (s.lap n + 1)).position n = 0 := by
      rw [State.position, hlap, State.cells_pokeLaps, takeWhile_eq_nil_of_forall hfull (fillOf_succ_ne _)]
      rfl
    rw [s.increment_lapEnd n heq hc, hnow, State.counter, hlap, hzero]
    omega

theorem State.increment_byte (hp : s.position n ≤ 251) (hc : 252 * s.lap n + s.position n < 2 ^ 48 - 1) (a : Nat)
    (ha : a < cntBase n ∨ cntBase n + 0x200 ≤ a) : (s.increment n).byte a = s.byte a := by
  have hfill : (s.fillNext n).byte a = s.byte a := State.byte_pokeByte_ne _ (by omega) _
  obtain hlt | heq := Nat.lt_or_eq_of_le hp
  · rw [s.increment_inLap n hlt hc, hfill]
  · rw [s.increment_lapEnd n heq hc, State.byte_pokeLaps _ _ _ _ (by omega), hfill]

theorem State.increment_frame (hp : s.position n ≤ 251) (hc : 252 * s.lap n + s.position n < 2 ^ 48 - 1) : s.increment n =
    { s with sram := (s.increment n).sram, keeper := { s.keeper with dirty := (s.increment n).keeper.dirty } } := by
  obtain hlt | heq := Nat.lt_or_eq_of_le hp
  · rw [s.increment_inLap n hlt hc]; rfl
  · rw [s.increment_lapEnd n heq hc, State.pokeLaps_frame]; rfl

end

theorem execCounterIncrement_eq {s : State} {n : Fin 32} {q : List (Fin 32)} (hq : s.keeper.cntQueue = n :: q)
    (he : s.keeper.ended = false) (hs : s.serves = true) :
    execCounterIncrement s = .next ({ s with keeper := { s.keeper with cntQueue := q } }.increment n) := by
  simp [execCounterIncrement, hq, he, hs]

/-! INC and INIT -/

theorem State.zeroCounter_eq (s : State) (n : Nat) :
    s.zeroCounter n = (s.poke (cntBase n) (List.replicate 252 0)).pokeLaps n 0 := by
  unfold State.zeroCounter State.pokeLaps
  with_reducible rfl

/-- Cells written with a byte that is not the fill value, and both lap copies: the counter holds no increment of lap 0. -/
theorem State.counter_pokeLaps_poke (s : State) (n : Nat) {l : List Byte} (hl : l.length = 252) (h0 : ∀ b ∈ l, b = 0) :
    ((s.poke (cntBase n) l).pokeLaps n 0).counter n = 0 := by
  have hlap := State.lap_pokeLaps (s.poke (cntBase n) l) n (l := 0) (by decide)
  have hcells : ((s.poke (cntBase n) l).pokeLaps n 0).bytes (cntBase n) 252 = l := by
    rw [State.cells_pokeLaps, ← hl, State.bytes_poke_self]
  have hpos : ((s.poke (cntBase n) l).pokeLaps n 0).position n = 0 := by
    rw [State.position, hlap, hcells, takeWhile_eq_nil_of_forall h0 (by decide), List.length_nil]
  rw [State.counter, hlap, hpos, Nat.mul_zero, Nat.add_zero, Nat.zero_min]

theorem State.counter_zeroCounter (s : State) (n : Nat) : (s.zeroCounter n).counter n = 0 := by
  rw [State.zeroCounter_eq]
  exact s.counter_pokeLaps_poke n List.length_replicate fun b hb => List.eq_of_mem_replicate hb

theorem State.laps_zeroCounter (s : State) (n : Nat) : (s.zeroCounter n).laps n = (some 0, some 0) := by
  rw [State.zeroCounter_eq]
  exact State.pokeLaps_laps _ n (by decide)

theorem State.poke_pokeLaps_frame (s : State) (a n k : Nat) (l : List Byte) : (s.poke a l).pokeLaps n k =
    { s with
      sram := ((s.poke a l).pokeLaps n k).sram
      keeper := { s.keeper with dirty := ((s.poke a l).pokeLaps n k).keeper.dirty } } := by
  rw [State.pokeLaps_frame, State.poke_frame]

theorem State.zeroCounter_frame (s : State) (n : Nat) : s.zeroCounter n =
    { s with sram := (s.zeroCounter n).sram, keeper := { s.keeper with dirty := (s.zeroCounter n).keeper.dirty } } := by
  rw [State.zeroCounter_eq]
  exact s.poke_pokeLaps_frame _ n 0 _

theorem State.zeroCounter_byte (s : State) (n a : Nat) (ha : a < cntBase n ∨ cntBase n + 0x200 ≤ a) :
    (s.zeroCounter n).byte a = s.byte a := by
  rw [State.zeroCounter_eq, State.byte_pokeLaps _ _ _ _ (by omega),
    State.byte_poke_ne _ _ _ _ (by rw [List.length_replicate]; omega)]

theorem State.cntInc_user {s : State} {n : Fin 32} (hn : 16 ≤ n.val) (hl : s.keeper.locked = false)
    (hq : s.keeper.cntQueue.length < 32) :
    (s.cntInc n).1 = { s with keeper := { s.keeper with cntQueue := s.keeper.cntQueue ++ [n] } } := by
  simp [State.cntInc, State.count, hl, show ¬ n.val < 16 by omega, show ¬ 32 ≤ s.keeper.cntQueue.length by omega]

theorem State.cntInit_user {s : State} {n : Fin 32} (hn : 16 ≤ n.val) (hl : s.keeper.locked = false)
    (hc : s.lockCfg = false) : (s.cntInit n).1 = s.zeroCounter n := by
  simp [State.cntInit, hl, hc, show ¬ n.val < 16 by omega]

theorem State.cntInc_device {s : State} {n : Fin 32} (hn : n.val < 16) : (s.cntInc n).1 = s.orReg aKpsStat (bitw 0) := by
  simp [State.cntInc, hn]

theorem State.cntInit_device {s : State} {n : Fin 32} (hn : n.val < 16) : (s.cntInit n).1 = s.orReg aKpsStat (bitw 0) := by
  simp [State.cntInit, hn]

/-- Settles O35: an increment fills the next cell, and at the end of a lap the lap copies make the full row an empty one. -/
theorem spreadCounters : Obligations.SpreadCounters := by
  unfold Obligations.SpreadCounters
  refine ⟨?_, ?_⟩
  · intro s n q hq he hs hb hp hc
    have hframe := State.increment_frame { s with keeper := { s.keeper with cntQueue := q } } n hp hc
    have hbyte := State.increment_byte { s with keeper := { s.keeper with cntQueue := q } } n hp hc
    refine ⟨_, execCounterIncrement_eq hq he hs, ?_, ?_, ?_, ?_⟩
    · exact State.counter_increment _ n hb hp hc
    · exact congrArg (fun t => t.keeper.cntQueue) hframe
    · exact hbyte
    · exact State.eq_sram_keeper (s := s) hframe
  · intro s who n hs
    refine ⟨fun hn hl hq => ⟨_, rfl, ?_⟩, fun hn hl hc => ⟨_, rfl, ?_⟩, fun hn => ⟨⟨_, rfl, ?_⟩, ⟨_, rfl, ?_⟩⟩⟩
    · rw [State.fab_serves hs, State.cntInc_user hn hl hq]
    · rw [State.fab_serves hs, State.cntInit_user hn hl hc]
      obtain ⟨h1, h2⟩ := Prod.mk.inj (s.laps_zeroCounter n)
      refine ⟨s.counter_zeroCounter n, h1, h2, s.zeroCounter_byte n, ?_⟩
      exact State.eq_sram_keeper (s.zeroCounter_frame n)
    · rw [State.fab_serves hs, State.cntInc_device hn]
      exact ⟨s.orReg_regsBecome _ _, by simp [bitw]⟩
    · rw [State.fab_serves hs, State.cntInit_device hn]
      exact ⟨s.orReg_regsBecome _ _, by simp [bitw]⟩

end Sys2Proof.Machine
end


section
/-! PROOFS. Fields of a word after `put`, and the reset outputs: stretch, pulse, override and binding (O36). -/

namespace Sys2Proof.Machine
open Sys2Proof

/-! Fields after a write of a field -/

theorem testBit_wfld (w : Word) (hi lo i : Nat) :
    (wfld w hi lo).testBit i = (decide (i < hi + 1 - lo) && w.getLsbD (lo + i)) := by
  rw [wfld, Nat.testBit_mod_two_pow, Nat.testBit_div_two_pow, BitVec.testBit_toNat, Nat.add_comm i lo]

theorem wfld_put_self (w : Word) {hi lo : Nat} (v : Nat) (h : lo ≤ hi) (h32 : hi < 32) :
    wfld (put w hi lo v) hi lo = v % 2 ^ (hi + 1 - lo) := by
  apply Nat.eq_of_testBit_eq
  intro i
  rw [testBit_wfld, Nat.testBit_mod_two_pow]
  by_cases hi' : i < hi + 1 - lo
  · rw [getLsbD_put w v h (by omega), if_pos ⟨by omega, by omega⟩, Nat.add_sub_cancel_left]
  · simp [hi']

theorem getLsbD_put_ne (w : Word) {hi lo i : Nat} (v : Nat) (h : lo ≤ hi) (hi' : i < lo ∨ hi < i) :
    (put w hi lo v).getLsbD i = w.getLsbD i := by
  by_cases h32 : i < 32
  · rw [getLsbD_put w v h h32, if_neg (by omega)]
  · rw [BitVec.getLsbD_of_ge _ _ (by omega), BitVec.getLsbD_of_ge _ _ (by omega)]

theorem wfld_put_ne (w : Word) {hi lo hi' lo' : Nat} (v : Nat) (h : lo ≤ hi) (hd : hi' < lo ∨ hi < lo') :
    wfld (put w hi lo v) hi' lo' = wfld w hi' lo' := by
  apply Nat.eq_of_testBit_eq
  intro i
  rw [testBit_wfld, testBit_wfld]
  by_cases hlt : i < hi' + 1 - lo'
  · rw [getLsbD_put_ne w v h (by omega)]
  · simp [hlt]

theorem State.fld_setFld_self (s : State) (a : Nat) {hi lo : Nat} (v : Nat) (h : lo ≤ hi) (h32 : hi < 32) :
    (s.setFld a hi lo v).fld a hi lo = v % 2 ^ (hi + 1 - lo) := by
  rw [State.fld, State.reg_setFld_self, wfld_put_self _ _ h h32]

theorem State.fld_setFld_ne (s : State) (a : Nat) {hi lo hi' lo' : Nat} (v : Nat) (h : lo ≤ hi) (hd : hi' < lo ∨ hi < lo') :
    (s.setFld a hi lo v).fld a hi' lo' = s.fld a hi' lo' := by
  rw [State.fld, State.reg_setFld_self, wfld_put_ne _ _ h hd, State.fld]

/-! Overrides -/

section
variable (s : State) (k : Fin 8)

/-- The state with an override and its pulse. -/
def State.withOvr (v : Nat) (pulse : Timer) : State :=
  { s.setFld aRstOvr (2 * k.val + 1) (2 * k.val) v with resets := s.resets.set k { s.resets[k] with pulse := pulse } }

theorem State.withOvr_overrideIs {v : Nat} (hv : v < 4) (pulse : Timer) : s.OverrideIs k v pulse (s.withOvr k v pulse) := by
  refine ⟨rfl, ?_, by simp [State.withOvr], fun j hj => ⟨?_, ?_⟩, fun a ha => s.reg_setFld_ne ha _ _ _⟩
  · refine (s.fld_setFld_self aRstOvr v (by omega) (by omega)).trans (Nat.mod_eq_of_lt ?_)
    rwa [show 2 * k.val + 1 + 1 - 2 * k.val = 2 by omega]
  · have hne : k.val ≠ j.val := fun h => hj (Fin.ext h.symm)
    simp [State.withOvr, hne]
  · have hne : k.val ≠ j.val := fun h => hj (Fin.ext h.symm)
    exact s.fld_setFld_ne aRstOvr v (by omega) (by omega)

theorem State.setOvr_auto : s.setOvr k 0 = s.withOvr k 0 none := rfl

theorem State.setOvr_assert : s.setOvr k 1 = s.withOvr k 1 none := rfl

theorem State.setOvr_pulse (h : s.rstStretch k ≠ 0) : s.setOvr k 2 = s.withOvr k 2 (some (s.cycle + s.rstStretch k)) := by
  simp [State.setOvr, State.withOvr, State.timer, h]

theorem State.setOvr_pulse_zero (h : s.rstStretch k = 0) : s.setOvr k 2 = s.withOvr k 0 none := by
  simp [State.setOvr, State.withOvr, h]

theorem execResetPulseEnd_eq (h : s.resets[k].pulse ≠ none) :
    execResetPulseEnd k s = .next (s.withOvr k 0 none) := by
  have hs : (s.resets[k].pulse).isNone = false := by simpa [Option.isSome_iff_ne_none] using h
  rw [execResetPulseEnd, hs]
  rfl

theorem execResetStretchEnd_eq (h : s.resets[k].stretch ≠ none) : execResetStretchEnd k s =
    .next { s with resets := s.resets.set k { s.resets[k] with auto := false, stretch := none } } := by
  have hs : (s.resets[k].stretch).isNone = false := by simpa [Option.isSome_iff_ne_none] using h
  rw [execResetStretchEnd, hs]
  rfl

/-! The binding of an output -/

/-- The AUTO rule of an output whose domain takes no part. -/
def State.autoAsserted : State := { s with resets := s.resets.set k { s.resets[k] with auto := true, stretch := none } }

theorem State.settleRst_noPart (h : s.takesPart (s.rstDom k) = false) : s.settleRst k = s.autoAsserted k := by
  simp [State.settleRst, State.rstPg, h, State.autoAsserted]

theorem State.autoAsserted_autoAsserted : (s.autoAsserted k).autoAsserted k = s.autoAsserted k := by
  simp [State.autoAsserted]

theorem State.rstWrite_locked (v : Word) (hl : s.lockCfg = true) : (s.rstWrite k v).1 = s.orReg aMrgStat (bitw 0) := by
  simp [State.rstWrite, hl]

/-- The register with the bits it has. -/
def State.rstWritten (v : Word) : State := s.setReg (aRst k) (v &&& 0x80000FFF#32)

theorem State.reg_rstWritten_self (v : Word) : (s.rstWritten k v).reg (aRst k) = v &&& 0x80000FFF#32 := by
  simp [State.rstWritten]

theorem State.reg_rstWritten_ne (v : Word) {a : Nat} (h : a ≠ aRst k) : (s.rstWritten k v).reg a = s.reg a :=
  s.reg_setReg_ne h _

theorem aDCfg_ne_aRst (d : DomId) : aDCfg d ≠ aRst k := by
  simp only [aDCfg, aDom, aSeq, aRst, aMrg]
  omega

theorem State.rstWritten_takesPart (v : Word) (d : DomId) : (s.rstWritten k v).takesPart d = s.takesPart d := by
  have hreg := s.reg_rstWritten_ne k v (aDCfg_ne_aRst k d)
  rw [State.takesPart, State.takesPart, State.bit, State.bit, hreg]
  rfl

theorem wfld_and_rstMask (v : Word) : wfld (v &&& 0x80000FFF#32) 11 8 = wfld v 11 8 := by
  apply Nat.eq_of_testBit_eq
  intro i
  rw [testBit_wfld, testBit_wfld]
  by_cases hi : i < 4
  · obtain rfl | rfl | rfl | rfl : i = 0 ∨ i = 1 ∨ i = 2 ∨ i = 3 := by omega
    all_goals simp
  · simp [hi]

theorem State.rstWritten_rstDom (v : Word) : ((s.rstWritten k v).rstDom k).val = wfld v 11 8 := by
  have hlt : wfld v 11 8 < 16 := Nat.mod_lt _ (by decide)
  have hfld : (s.rstWritten k v).fld (aRst k) 11 8 = wfld v 11 8 := by
    rw [State.fld, State.reg_rstWritten_self, wfld_and_rstMask]
  exact (congrArg (· % 16) hfld).trans (Nat.mod_eq_of_lt hlt)

theorem State.rstWrite_noPart (v : Word) (hl : s.lockCfg = false)
    (h : ∀ d : DomId, d.val = wfld v 11 8 → s.takesPart d = false) :
    (s.rstWrite k v).1 = (s.rstWritten k v).autoAsserted k := by
  have hpart : (s.rstWritten k v).takesPart ((s.rstWritten k v).rstDom k) = false := by
    rw [State.rstWritten_takesPart]
    exact h _ (s.rstWritten_rstDom k v)
  have hset : (s.rstWritten k v).settleRst k = (s.rstWritten k v).autoAsserted k := State.settleRst_noPart _ k hpart
  have hset' : ((s.rstWritten k v).autoAsserted k).settleRst k = (s.rstWritten k v).autoAsserted k :=
    ((s.rstWritten k v).autoAsserted k).settleRst_noPart k hpart |>.trans (State.autoAsserted_autoAsserted _ k)
  simp only [State.rstWrite, hl, Bool.false_eq_true, if_false]
  split
  · exact hset'
  · exact hset

theorem State.rstOut_autoAsserted (hrun : s.power.phase = .run) (hen : s.bit (aRst k) 31 = true) :
    (s.autoAsserted k).rstOut k = true := by
  have hcfg : (s.autoAsserted k).cfgLoaded = true := by simp [State.cfgLoaded, State.autoAsserted, hrun]
  have hen' : (s.autoAsserted k).bit (aRst k) 31 = true := hen
  rw [State.rstOut, hcfg, if_pos rfl, hen']
  simp [State.autoAsserted]

end

/-- Settles O36: each command of an output sets its override with its pulse, or binds it and leaves it to the AUTO rule. -/
theorem resetOutputs : Obligations.ResetOutputs := by
  unfold Obligations.ResetOutputs
  intro s who k
  refine ⟨fun h => ⟨_, execResetStretchEnd_eq s k h, rfl, fun j hj => ?_, by simp⟩,
    fun h => ⟨_, execResetPulseEnd_eq s k h, s.withOvr_overrideIs k (by decide) none⟩,
    fun hs => ⟨⟨_, rfl, ?_⟩, ⟨_, rfl, ?_⟩, ⟨_, rfl, fun hk => ?_, fun hk => ?_⟩, fun v => ⟨fun hl => ⟨_, rfl, ?_⟩,
      fun hl h => ⟨_, rfl, ?_⟩⟩⟩⟩
  · have hne : k.val ≠ j.val := fun h => hj (Fin.ext h.symm)
    simp [hne]
  · rw [State.fab_serves hs, State.setOvr_auto]
    exact s.withOvr_overrideIs k (by decide) none
  · rw [State.fab_serves hs, State.setOvr_assert]
    exact s.withOvr_overrideIs k (by decide) none
  · rw [State.fab_serves hs, s.setOvr_pulse k hk]
    exact s.withOvr_overrideIs k (by decide) _
  · rw [State.fab_serves hs, s.setOvr_pulse_zero k hk]
    exact s.withOvr_overrideIs k (by decide) _
  · rw [State.fab_serves hs, s.rstWrite_locked k v hl]
    exact ⟨s.orReg_regsBecome _ _, by simp [bitw]⟩
  · rw [State.fab_serves hs, s.rstWrite_noPart k v hl h]
    refine ⟨rfl, s.reg_rstWritten_self k v, fun a ha => s.reg_rstWritten_ne k v ha, by simp [State.autoAsserted, State.rstWritten],
      fun j hj => ?_, fun h31 hrun => State.rstOut_autoAsserted _ k hrun ?_⟩
    · have hne : k.val ≠ j.val := fun h => hj (Fin.ext h.symm)
      simp [State.autoAsserted, State.rstWritten, hne]
    · rw [State.bit, State.reg_rstWritten_self, tst]
      simp [h31]

end Sys2Proof.Machine
end


section
/-! SUPPORT. What a report of the fault collector leaves alone beside what `Collects` says: every register but those of
the report itself, the reserve but for the abort of a scheduled rest (R404), the keeper but for its store requests, and
the ring but for the own lanterns; and that no bit of FLT_STAT below STATE is cleared. -/

namespace Sys2Proof.Machine
open Sys2Proof

/-- A register that the collector writes: raw capture and loop health, the report and its counts, KPS_LOGIDX, and
RSV_FLAGS where it aborts a rest. -/
def reportReg (a : Nat) : Prop :=
  (aRawStat ≤ a ∧ a ≤ aFrzTH) ∨ (aLhStat ≤ a ∧ a < aLhCmd) ∨ a = aFltStat ∨ (aFltFirst ≤ a ∧ a ≤ aFltEmber)
    ∨ (aPend 0 ≤ a ∧ a < aSev 0) ∨ aCnt 0 ≤ a ∧ a < aMrgStat ∨ a = aLogIdx ∨ a = aRsvFlags

/-! A wake -/

theorem State.startWake_power_congr {s t : State} (h : t.power = s.power) : t.startWake.power = s.startWake.power := by
  rw [State.startWake_power, State.startWake_power, State.asleep, State.asleep, h]

/-- A wake that has started starts again as it is. -/
theorem State.startWake_power_again {s t : State} (h : t.power = s.startWake.power) : t.startWake.power = s.startWake.power := by
  rw [State.startWake_power, State.startWake_power, State.asleep, State.asleep, h, State.startWake_power, State.asleep,
    Bool.or_assoc, Bool.or_self]

/-- `t` differs from `s` in these parts at most as a report of the collector makes it differ. -/
structure Reports (s t : State) : Prop where
  regs : ∀ a, ¬ reportReg a → t.reg a = s.reg a
  keeper : t.keeper = { s.keeper with
    run := t.keeper.run, pending := t.keeper.pending, number := t.keeper.number, last := t.keeper.last }
  busy : s.keeper.run ≠ none → t.keeper = { s.keeper with pending := t.keeper.pending }
  reserve : t.reserve = { s.reserve with
    rest := t.reserve.rest, restAt := t.reserve.restAt, restAbortAt := t.reserve.restAbortAt, chg := t.reserve.chg
    elapsedFrom := t.reserve.elapsedFrom }
  rest : s.reserve.rest = false → t.reserve = s.reserve ∧ t.reg aRsvFlags = s.reg aRsvFlags
  ring : t.ring = { s.ring with number := t.ring.number, own := t.ring.own, due := t.ring.due }
  wake : t.power = s.power ∨ t.power = s.startWake.power
  flt : ∀ i, i < 30 → s.bit aFltStat i = true → t.bit aFltStat i = true

namespace Reports

theorem refl (s : State) : Reports s s := 
  ⟨fun _ _ => rfl, rfl, fun _ => rfl, rfl, fun _ => ⟨rfl, rfl⟩, rfl, .inl rfl, fun _ _ h => h⟩

theorem trans {s t u : State} (h : Reports s t) (k : Reports t u) : Reports s u := by
  refine ⟨fun a ha => (k.regs a ha).trans (h.regs a ha), ?_, fun hb => ?_, ?_, fun hr => ?_, ?_, ?_, fun i hi hb =>
    k.flt i hi (h.flt i hi hb)⟩
  · rw [k.keeper, h.keeper]
  · have ht := h.busy hb
    rw [k.busy (by rw [ht]; exact hb), ht]
  · rw [k.reserve, h.reserve]
  · obtain ⟨hv, hf⟩ := h.rest hr
    obtain ⟨kv, kf⟩ := k.rest (by rw [hv]; exact hr)
    exact ⟨kv.trans hv, kf.trans hf⟩
  · rw [k.ring, h.ring]
  · rcases h.wake with hp | hp
    · rcases k.wake with kp | kp
      · exact .inl (kp.trans hp)
      · exact .inr (kp.trans (State.startWake_power_congr hp))
    · rcases k.wake with kp | kp
      · exact .inr (kp.trans hp)
      · exact .inr (kp.trans (State.startWake_power_again hp))

theorem power {s t : State} (h : Reports s t) : t.power = s.power ∨ t.power = { s.power with waking := true } := by
  rcases h.wake with hp | hp
  · exact .inl hp
  · rw [State.startWake_power] at hp
    cases hs : s.asleep
    · exact .inl (by rw [hp, hs, Bool.or_false])
    · exact .inr (by rw [hp, hs, Bool.or_true])

/-- A change of other parts of the state. -/
theorem same {s t : State} (hr : t.regs = s.regs) (hk : t.keeper = s.keeper) (hv : t.reserve = s.reserve)
    (hg : t.ring = s.ring) (hp : t.power = s.power := by rfl) : Reports s t := by
  have hreg : ∀ a, t.reg a = s.reg a := fun a => by rw [State.reg, hr, State.reg]
  exact ⟨fun a _ => hreg a, by rw [hk], fun _ => by rw [hk], by rw [hv], fun _ => ⟨hv, hreg _⟩, by rw [hg], .inl hp, fun i _ => by rw [State.bit, State.bit, hreg]; exact id⟩

theorem foldl {α : Type} {f : State → α → State} (hf : ∀ s x, Reports s (f s x)) (l : List α) (s : State) :
    Reports s (l.foldl f s) := by
  induction l generalizing s with
  | nil => exact refl s
  | cons x l ih => exact (hf s x).trans (ih _)

theorem setReg (s : State) {x : Nat} (v : Word) (hx : reportReg x) (hf : x ≠ aRsvFlags) (hs : x ≠ aFltStat) :
    Reports s (s.setReg x v) := by
  refine ⟨fun a ha => s.reg_setReg_ne ?_ v, rfl, fun _ => rfl, rfl, fun _ => ⟨rfl, s.reg_setReg_ne (Ne.symm hf) v⟩, rfl,
    .inl rfl, fun i _ => ?_⟩
  · rintro rfl
    exact ha hx
  · rw [State.bit, State.bit, s.reg_setReg_ne (Ne.symm hs) v]
    exact id

/-- A write of FLT_STAT that clears none of its bits below STATE. -/
theorem setFltStat (s : State) {v : Word} (h : ∀ i, i < 30 → tst (s.reg aFltStat) i = true → tst v i = true) :
    Reports s (s.setReg aFltStat v) := by
  refine ⟨fun a ha => s.reg_setReg_ne ?_ v, rfl, fun _ => rfl, rfl, fun _ => ⟨rfl, s.reg_setReg_ne (by decide) v⟩, rfl,
    .inl rfl, fun i hi hb => ?_⟩
  · rintro rfl
    exact ha (by simp [reportReg])
  · rw [State.bit, s.reg_setReg_self]
    exact h i hi hb

/-- A change of the store requests alone. -/
theorem requests {s t : State} (h : t = { s with keeper := { s.keeper with
    run := t.keeper.run, pending := t.keeper.pending, number := t.keeper.number, last := t.keeper.last } })
    (hb : s.keeper.run ≠ none → t.keeper = { s.keeper with pending := t.keeper.pending }) : Reports s t := by
  have hr : t.regs = s.regs := by rw [h]
  have hv : t.reserve = s.reserve := by rw [h]
  have hg : t.ring = s.ring := by rw [h]
  have hp : t.power = s.power := by rw [h]
  have hreg : ∀ a, t.reg a = s.reg a := fun a => by rw [State.reg, hr, State.reg]
  exact ⟨fun a _ => hreg a, congrArg State.keeper h, hb, by rw [hv], fun _ => ⟨hv, hreg _⟩, by rw [hg], .inl hp, fun i _ => by rw [State.bit, State.bit, hreg]; exact id⟩

end Reports

/-! Each operation of the collector -/

theorem State.countRaise_reports (s : State) (n : Nat) (hn : n < 363) : Reports s (s.countRaise n) := by
  refine Reports.setReg s _ ?_ ?_ ?_ <;> simp only [reportReg, aCnt, aFlt, aMrgStat, aMrg, aRsvFlags, aRsv, aFltStat] <;> omega

theorem State.orReg_pend_reports (s : State) {n : Nat} (m : Word) (hn : n < 363) : Reports s (s.orReg (aPend (n / 32)) m) := by
  refine Reports.setReg s _ ?_ ?_ ?_ <;> simp only [reportReg, aPend, aSev, aFlt, aRsvFlags, aRsv, aFltStat] <;> omega

theorem State.orReg_fltStat_reports (s : State) (m : Word) : Reports s (s.orReg aFltStat m) :=
  Reports.setFltStat s fun i _ h => by
    rw [tst] at h ⊢
    rw [BitVec.getLsbD_or, h, Bool.true_or]

theorem State.logRaise_reports (s : State) (j : Judged) (hn : j.x.src < 363) : Reports s (s.logRaise j) := by
  have hpend := s.orReg_pend_reports (bitw (j.x.src % 32)) hn
  unfold State.logRaise
  dsimp only
  split
  · split
    · exact hpend.trans (State.orReg_fltStat_reports _ _)
    · exact hpend.trans (Reports.same rfl rfl rfl rfl)
  · exact hpend

theorem State.mergeOne_reports (s : State) (j : Judged) : Reports s (s.mergeOne j) := by
  have hfirst : Reports s (s.orReg aFltFirst (bitw 1)) := Reports.setReg s _ (by unfold reportReg; decide) (by decide) (by decide)
  have hmerge : ∀ (t : State) (hi lo v : Nat), Reports t (t.setFld aFltMerge hi lo v) := fun t hi lo v =>
    Reports.setReg t _ (by unfold reportReg; decide) (by decide) (by decide)
  unfold State.mergeOne
  dsimp only
  split
  · exact (hfirst.trans (hmerge _ _ _ _)).trans (hmerge _ _ _ _)
  · exact hfirst.trans (hmerge _ _ _ _)

theorem State.requestStore_reports (s : State) (kind : StoreKind) (pages : List (Nat × Bool)) :
    Reports s (s.requestStore kind pages) := by
  unfold State.requestStore
  split
  · exact Reports.refl s
  · split
    case h_1 hr => exact Reports.requests rfl (fun hb => absurd hr hb)
    case h_2 =>
      split
      · exact Reports.refl s
      · exact Reports.requests rfl (fun _ => rfl)

theorem State.critStore_reports (s : State) (state0 : Nat) (js : List Judged) : Reports s (s.critStore state0 js) := by
  unfold State.critStore
  split
  · split
    · exact s.requestStore_reports _ _
    · exact Reports.same rfl rfl rfl rfl
  · exact Reports.refl s

theorem State.pumpTlm_reports (s : State) : Reports s s.pumpTlm := by
  unfold State.pumpTlm
  split
  · exact Reports.refl s
  · exact Reports.same rfl rfl rfl rfl

theorem State.lhFrame_reports (s : State) (starts : Bool) : Reports s (s.lhFrame starts) := by
  unfold State.lhFrame
  split
  · exact Reports.refl s
  · split
    · exact Reports.refl s
    · exact Reports.same rfl rfl rfl rfl

theorem State.setReg_lhStat_reports (s : State) (v : Word) : Reports s (s.setReg aLhStat v) :=
  Reports.setReg s v (by unfold reportReg; decide) (by decide) (by decide)

theorem State.lhFinish_reports (s : State) : Reports s s.lhFinish := by
  have hch : Reports s (s.setCh s.lhRail { s.ch s.lhRail with perturb := 0 }) := Reports.same rfl rfl rfl rfl
  have hlh : ∀ t : State, Reports t { t with lh := { t.lh with
      next := s.lhRail.val + 1, toggleAt := none, runs := [], gapAt := t.timer (t.fld aLhCtl 15 0 * 100000000) } } :=
    fun t => Reports.same rfl rfl rfl rfl
  exact (((hch.trans (State.setReg_lhStat_reports _ _)).trans (State.lhFrame_reports _ _)).trans (hlh _)).trans
    (State.pumpTlm_reports _)

theorem State.lhAbort_reports (s : State) : Reports s s.lhAbort := by
  have h0 : ∀ (t : State) (v : Word), Reports t (t.setReg (aLhRes 0) v) := fun t v =>
    Reports.setReg t v (by unfold reportReg; decide) (by decide) (by decide)
  have h1 : ∀ (t : State) (v : Word), Reports t (t.setReg (aLhRes 1) v) := fun t v =>
    Reports.setReg t v (by unfold reportReg; decide) (by decide) (by decide)
  unfold State.lhAbort
  split
  · exact (((h0 _ _).trans (h1 _ _)).trans (State.setReg_lhStat_reports _ _)).trans (State.lhFinish_reports _)
  · exact Reports.refl s

theorem State.endPause_reserve (s : State) : s.endPause = { s with reserve := { s.reserve with
    chg := s.endPause.reserve.chg, elapsedFrom := s.endPause.reserve.elapsedFrom } } := by
  unfold State.endPause
  extract_lets v back
  split <;> rfl

theorem State.restAbort_reports (s : State) : Reports s s.restAbort := by
  unfold State.restAbort
  split
  case isTrue h =>
    have hp := State.endPause_reserve { s with reserve := { s.reserve with
      rest := false, restAt := none, restAbortAt := some s.cycle } }
    refine ⟨fun a ha => ?_, ?_, fun _ => ?_, ?_, fun hr => absurd h (by simp [hr]), ?_, .inl ?_, fun i _ => ?_⟩
    · rw [State.reg_orReg_ne _ (fun h => ha (by simp [reportReg, h])), hp]
      rfl
    · rw [State.orReg_keeper, hp]
    · rw [State.orReg_keeper, hp]
    · rw [State.orReg_reserve, hp]
    · rw [State.orReg_ring, hp]
    · rw [State.orReg_power, hp]
    · rw [State.bit, State.bit, State.reg_orReg_ne _ (by decide), hp]
      exact id
  · exact Reports.refl s

theorem State.setReg_rawStat_reports (s : State) (v : Word) : Reports s (s.setReg aRawStat v) :=
  Reports.setReg s v (by unfold reportReg; decide) (by decide) (by decide)

theorem State.freezeTrigger_reports (s : State) : Reports s s.freezeTrigger := by
  have hl : ∀ (t : State) (v : Word), Reports t (t.setReg aFrzTL v) := fun t v =>
    Reports.setReg t v (by unfold reportReg; decide) (by decide) (by decide)
  have hh : ∀ (t : State) (v : Word), Reports t (t.setReg aFrzTH v) := fun t v =>
    Reports.setReg t v (by unfold reportReg; decide) (by decide) (by decide)
  have hscan : ∀ (t : State) (c : Scan), Reports t { t with scan := c } := fun t c => Reports.same rfl rfl rfl rfl
  unfold State.freezeTrigger
  split
  · exact s.setReg_rawStat_reports _
  · extract_lets c s2 s3 s4 n s6
    have h6 : Reports s s6 := ((((s.setReg_rawStat_reports _).trans (State.setReg_rawStat_reports _ _)).trans (hl _ _)).trans
      (hh _ _)).trans (hscan _ _)
    split
    · exact h6.trans (State.setReg_rawStat_reports _ _)
    · exact h6

theorem State.newReport_reports (s : State) : Reports s s.newReport := by
  have hember : Reports s (s.setBit aFltEmber 31 false) := Reports.setReg s _ (by unfold reportReg; decide) (by decide) (by decide)
  have hlog : ∀ t : State, Reports t (t.setBit aLogIdx 15 false) := fun t =>
    Reports.setReg t _ (by unfold reportReg; decide) (by decide) (by decide)
  exact (hember.trans (hlog _)).trans (Reports.same rfl rfl rfl rfl)

/-- A lantern of one's own is a change of the ring that a report makes. -/
theorem Reports.lantern {s t : State} (hr : t.regs = s.regs) (hk : t.keeper = s.keeper) (hv : t.reserve = s.reserve)
    (hg : t.ring = { s.ring with number := t.ring.number, own := t.ring.own, due := t.ring.due })
    (hp : t.power = s.power := by rfl) : Reports s t := by
  have hreg : ∀ a, t.reg a = s.reg a := fun a => by rw [State.reg, hr, State.reg]
  exact ⟨fun a _ => hreg a, by rw [hk], fun _ => by rw [hk], by rw [hv], fun _ => ⟨hv, hreg _⟩, hg, .inl hp,
    fun i _ => by rw [State.bit, State.bit, hreg]; exact id⟩

theorem State.latch_reports (s : State) (j : Judged) (others injAct : Bool) : Reports s (s.latch j others injAct) := by
  have hstat : ∀ t : State, Reports t (t.setFld aFltStat 31 30 1) := fun t =>
    Reports.setFltStat t fun i hi h => by
      rw [tst] at h ⊢
      rw [getLsbD_put_ne _ _ (by decide) (.inl hi), h]
  have hfirst : ∀ (t : State) (v : Word), Reports t (t.setReg aFltFirst v) := fun t v =>
    Reports.setReg t v (by unfold reportReg; decide) (by decide) (by decide)
  have hlo : ∀ (t : State) (v : Word), Reports t (t.setReg aFltFirstTL v) := fun t v =>
    Reports.setReg t v (by unfold reportReg; decide) (by decide) (by decide)
  have hhi : ∀ (t : State) (v : Word), Reports t (t.setReg aFltFirstTH v) := fun t v =>
    Reports.setReg t v (by unfold reportReg; decide) (by decide) (by decide)
  have hfreeze : ∀ t : State, Reports t (if t.bit aRawCtl 30 then t.freezeTrigger else t) := fun t => by
    split
    · exact t.freezeTrigger_reports
    · exact Reports.refl t
  unfold State.latch
  extract_lets w s2 s3 s4 s5 num l r s9
  have h5 : Reports s s5 := (((((((hfirst _ _).trans (hstat _)).trans (hlo _ _)).trans (hhi _ _)).trans
    (State.newReport_reports _)).trans (State.lhAbort_reports _)).trans (State.restAbort_reports _)).trans (hfreeze _)
  have h9 : Reports s s9 := h5.trans (Reports.lantern rfl rfl rfl rfl)
  split
  · exact h9.trans (Reports.lantern rfl rfl rfl rfl)
  · exact h9

theorem State.latchFirst_reports (s : State) (first : Option Judged) (several injAct : Bool) :
    Reports s (s.latchFirst first several injAct) := by
  unfold State.latchFirst
  split
  · exact s.latch_reports _ _ _
  · exact Reports.refl s

theorem State.mergeRest_reports (s : State) (state0 : Nat) (rest : List Judged) : Reports s (s.mergeRest state0 rest) := by
  have h := Reports.foldl State.mergeOne_reports rest s
  unfold State.mergeRest
  dsimp only
  split
  · exact h
  · exact h.trans (Reports.same rfl rfl rfl rfl)

theorem State.takeSnap_reports (s : State) (first : Option Judged) : Reports s (s.takeSnap first) := by
  unfold State.takeSnap
  split
  · exact Reports.same rfl rfl rfl rfl
  · exact Reports.refl s

theorem Reports.foldl_mem {α : Type} {f : State → α → State} {l : List α} (hf : ∀ x ∈ l, ∀ s, Reports s (f s x)) (s : State) :
    Reports s (l.foldl f s) := by
  induction l generalizing s with
  | nil => exact refl s
  | cons x l ih => exact (hf x (by simp) s).trans (ih (fun y hy => hf y (by simp [hy])) _)

theorem State.collect_reports (s : State) (state0 : Nat) (first : Option Judged) (js : List Judged) (injAct : Bool)
    (hjs : ∀ j ∈ js, j.x.src < 363) : Reports s (s.collect state0 first js injAct) := by
  have hsrc : ∀ (f : Judged → Bool), ∀ j ∈ js.map (fun j => { j with merged := f j }), j.x.src < 363 := by
    intro f j hj
    obtain ⟨k, hk, rfl⟩ := List.mem_map.mp hj
    exact hjs k hk
  unfold State.collect
  extract_lets cands marked s3 s4 s5
  have h3 : Reports s s3 := Reports.foldl_mem (fun j hj t => t.countRaise_reports _ (hsrc _ j hj)) s
  have h4 : Reports s3 s4 :=
    Reports.foldl_mem (fun j hj t => t.logRaise_reports j (hsrc _ j (List.mem_filter.mp hj).1)) s3
  have hq : Reports s4 (s4.queueReacts marked) := Reports.same rfl rfl rfl rfl
  have h5 : Reports s4 s5 := (hq.trans (State.latchFirst_reports _ _ _ _)).trans (State.critStore_reports _ _ _)
  exact ((h3.trans h4).trans h5).trans ((State.mergeRest_reports _ _ _).trans (State.takeSnap_reports _ _))

theorem State.startWake_reports (s : State) : Reports s s.startWake := by
  unfold State.startWake
  split
  · rename_i h
    exact ⟨fun _ _ => rfl, rfl, fun _ => rfl, rfl, fun _ => ⟨rfl, rfl⟩, rfl,
      .inr (by rw [State.startWake_power, h, Bool.or_true]), fun _ _ h => h⟩
  · exact Reports.refl s

theorem State.wakeRaise_reports (s : State) (js : List Judged) : Reports s (s.wakeRaise js) := by
  unfold State.wakeRaise
  split
  · exact Reports.refl s
  · exact s.startWake_reports

theorem mem_insRaise {x y : Raise} {l : List Raise} (h : y ∈ insRaise x l) : y = x ∨ y ∈ l := by
  induction l with
  | nil => simpa [insRaise] using h
  | cons z l ih =>
    rw [insRaise] at h
    split at h
    · simpa using h
    · split at h
      · rcases List.mem_cons.mp h with rfl | h
        · split <;> simp
        · simp [h]
      · rcases List.mem_cons.mp h with rfl | h
        · simp
        · rcases ih h with rfl | h <;> simp [*]

theorem mem_foldr_insRaise {y : Raise} {l : List Raise} (h : y ∈ l.foldr insRaise []) : y ∈ l := by
  induction l with
  | nil => simp at h
  | cons x l ih =>
    rcases mem_insRaise h with rfl | h
    · simp
    · simp [ih h]

theorem State.judgedAll_src (s : State) (l : List Raise) : ∀ j ∈ s.judgedAll l, j.x.src < 363 := by
  intro j hj
  obtain ⟨x, hx, rfl⟩ := List.mem_map.mp hj
  have hmem := mem_foldr_insRaise hx
  simp only [List.mem_filter, Bool.and_eq_true, decide_eq_true_eq] at hmem
  exact hmem.2.1

theorem State.raiseAll_reports (s : State) (l : List Raise) (injAct : Bool) : Reports s (s.raiseAll l injAct) := by
  unfold State.raiseAll
  split
  · exact Reports.refl s
  · exact (s.collect_reports _ _ _ _ (s.judgedAll_src l)).trans (State.wakeRaise_reports _ _)

theorem State.raise1_reports (s : State) (n : Nat) : Reports s (s.raise1 n) := s.raiseAll_reports _ _

end Sys2Proof.Machine
end


section
/-! PROOFS. A cycle of the reserve: its conditions, its causes in the order of R391 and its raises; the ORing pair (O31). -/

namespace Sys2Proof.Machine
open Sys2Proof

/-! The conditions of the reserve -/

/-- `t` differs from `s` in the reserve and RSV_FLAGS alone, and SCOFF and its re-arm stand. -/
structure RsvOnly (s t : State) : Prop where
  fields : t = { s with regs := t.regs, reserve := t.reserve }
  regs : ∀ a, a ≠ aRsvFlags → t.reg a = s.reg a
  scoff : t.reserve.scoff = s.reserve.scoff
  rearmAt : t.reserve.rearmAt = s.reserve.rearmAt

namespace RsvOnly

theorem refl (s : State) : RsvOnly s s := ⟨rfl, fun _ _ => rfl, rfl, rfl⟩

theorem trans {s t u : State} (h : RsvOnly s t) (k : RsvOnly t u) : RsvOnly s u := by
  refine ⟨?_, fun a ha => (k.regs a ha).trans (h.regs a ha), k.scoff.trans h.scoff, k.rearmAt.trans h.rearmAt⟩
  rw [k.fields, h.fields]

/-- A change of the reserve that leaves SCOFF and its re-arm. -/
theorem setRsv (s : State) {v : Reserve} (h1 : v.scoff = s.reserve.scoff) (h2 : v.rearmAt = s.reserve.rearmAt) :
    RsvOnly s (s.setRsv v) := ⟨rfl, fun _ _ => rfl, h1, h2⟩

theorem orReg (s : State) (m : Word) : RsvOnly s (s.orReg aRsvFlags m) :=
  ⟨rfl, fun _ ha => s.reg_orReg_ne ha m, rfl, rfl⟩

theorem cycleOf {s t : State} (h : RsvOnly s t) : s.CycleOf [] [] t := by
  have hch : t.chans = s.chans := by rw [h.fields]
  refine ⟨by rw [h.fields], fun q _ => ?_, fun a ha _ => h.regs a ?_⟩
  · rw [State.ch, hch, State.ch]
  · rintro rfl
    revert ha
    unfold ownReg
    decide

end RsvOnly

theorem State.setChg_rsvOnly (s : State) (c : ChgState) : RsvOnly s (s.setChg c) := RsvOnly.setRsv s rfl rfl

theorem State.tempCheck_rsvOnly (s : State) : RsvOnly s s.tempCheck.1 := by
  unfold State.tempCheck
  split
  · dsimp only
    split
    · exact RsvOnly.refl s
    · exact RsvOnly.setRsv s rfl rfl
  · dsimp only
    split
    · refine RsvOnly.trans ?_ (RsvOnly.orReg _ _)
      exact RsvOnly.setRsv s rfl rfl
    · exact RsvOnly.setRsv s rfl rfl

/-- The pair of a state whose conditions block it is off. -/
def State.blockPair (s : State) : State :=
  if s.reserve.orOn && (s.rsvBlock || !s.oringEn) then
    s.setRsv { s.reserve with orOn := false, ilim := false, ilimAt := none } else s

/-- The charger in OFF or WAIT where a condition of R381 fails. -/
def State.blockChg (s : State) : State :=
  if !s.chgEn then (if s.reserve.chg == .off then s else s.setChg .off)
  else match s.reserve.chg with
    | .off => s.setChg .wait
    | .pre | .cc | .cv | .full | .pause => if s.chgReady || s.reserve.rest then s else s.setChg .wait
    | .wait | .fault => s

theorem State.settleRsv_eq (s : State) :
    s.settleRsv = (s.tempCheck.1.blockPair.blockChg, if s.tempCheck.2 then [{ src := srcReserve }] else []) := rfl

theorem State.blockPair_rsvOnly (s : State) : RsvOnly s s.blockPair := by
  unfold State.blockPair
  split
  · exact RsvOnly.setRsv s rfl rfl
  · exact RsvOnly.refl s

theorem State.blockChg_cases (s : State) : s.blockChg = s ∨ ∃ c, s.blockChg = s.setChg c := by
  unfold State.blockChg
  split
  · split
    · exact .inl rfl
    · exact .inr ⟨_, rfl⟩
  · split
    case h_1 => exact .inr ⟨_, rfl⟩
    case h_7 => exact .inl rfl
    case h_8 => exact .inl rfl
    all_goals
      split
      · exact .inl rfl
      · exact .inr ⟨_, rfl⟩

theorem State.blockChg_rsvOnly (s : State) : RsvOnly s s.blockChg := by
  rcases s.blockChg_cases with h | ⟨c, h⟩
  · rw [h]
    exact RsvOnly.refl s
  · rw [h]
    exact s.setChg_rsvOnly c

theorem State.settleRsv_rsvOnly (s : State) : RsvOnly s s.settleRsv.1 :=
  (s.tempCheck_rsvOnly.trans (State.blockPair_rsvOnly _)).trans (State.blockChg_rsvOnly _)

/-- No temperature is measured: no window stands. -/
def State.noTemp (s : State) : State :=
  s.setRsv { s.reserve with tchg := false, tdis := false, outC := false, outD := false }

theorem State.tempCheck_unmeasured {s : State} (h : s.bit aRsvCfg 23 = false) : s.tempCheck = (s.noTemp, false) := by
  have hp : s.packTemp = none := by simp [State.packTemp, h]
  simp [State.tempCheck, hp, h, State.noTemp]

theorem State.settleRsv_unmeasured {s : State} (h : s.bit aRsvCfg 23 = false) :
    s.settleRsv = (s.noTemp.blockPair.blockChg, []) := by
  rw [State.settleRsv_eq, State.tempCheck_unmeasured h]
  rfl

/-- What the conditions of an unmeasured pack change lies in the reserve. -/
theorem State.settled_unmeasured (s : State) :
    s.noTemp.blockPair.blockChg = { s with reserve := s.noTemp.blockPair.blockChg.reserve } := by
  have hpair : ∀ t : State, t.blockPair = { t with reserve := t.blockPair.reserve } := fun t => by
    unfold State.blockPair
    split <;> rfl
  have hchg : ∀ t : State, t.blockChg = { t with reserve := t.blockChg.reserve } := fun t => by
    rcases t.blockChg_cases with h | ⟨c, h⟩
    · rw [h]
    · rw [h]; rfl
  rw [hchg, hpair]
  rfl

theorem State.blockPair_off {s : State} (h : s.reserve.orOn = false) : s.blockPair = s := by
  simp [State.blockPair, h]

theorem State.blockChg_kept {s : State} (h : s.chgEn = false ∧ s.reserve.chg = .off
    ∨ s.chgEn = true ∧ s.reserve.chg ∈ [ChgState.wait, .fault]) : s.blockChg = s := by
  rcases h with ⟨he, hc⟩ | ⟨he, hc⟩
  · simp [State.blockChg, he, hc]
  · simp only [List.mem_cons, List.not_mem_nil, or_false] at hc
    rcases hc with hc | hc <;> simp [State.blockChg, he, hc]

theorem Reserve.eq_noTemp {v : Reserve} (h1 : v.tchg = false) (h2 : v.tdis = false) (h3 : v.outC = false)
    (h4 : v.outD = false) : { v with tchg := false, tdis := false, outC := false, outD := false } = v := by
  cases v
  simp_all

/-- The conditions of a reserve that stands still change nothing. -/
theorem State.settleRsv_still {s : State} (h : s.still) : s.settleRsv = (s, []) := by
  obtain ⟨h23, htc, htd, hoc, hod, hor, hchg⟩ := h
  have hno : s.noTemp = s := congrArg s.setRsv (Reserve.eq_noTemp htc htd hoc hod)
  rw [State.settleRsv_unmeasured h23, hno, State.blockPair_off hor, State.blockChg_kept hchg]

/-! The end of a cycle -/

theorem State.rsvRaise_nil_of {s : State} (h : s.settleRsv.2 = []) : s.rsvRaise [] = s.settleRsv.1 := by
  simp [State.rsvRaise, h]

theorem State.rsvRaise_cons (s : State) (x : Raise) (l : List Raise) :
    s.rsvRaise (x :: l) = s.settleRsv.1.raiseAll (x :: l ++ s.settleRsv.2) := by
  simp [State.rsvRaise]

/-- The end of a cycle is what the conditions leave, and then the collector's work. -/
theorem State.rsvRaise_ends (s : State) (l : List Raise) :
    Collects s.settleRsv.1 (s.rsvRaise l) ∧ Reports s.settleRsv.1 (s.rsvRaise l) := by
  unfold State.rsvRaise
  dsimp only
  split
  · exact ⟨Collects.rfl' _, Reports.refl _⟩
  · exact ⟨State.raiseAll_collects _ _ false (Collects.rfl' _), State.raiseAll_reports _ _ false⟩

theorem State.rsvRaise_cycleOf (s : State) (l : List Raise) : s.CycleOf [] [] (s.rsvRaise l) :=
  s.settleRsv_rsvOnly.cycleOf.trans (s.rsvRaise_ends l).1.cycleOf

theorem State.rsvRaise_scoff (s : State) (l : List Raise) : (s.rsvRaise l).reserve.scoff = s.reserve.scoff := by
  obtain ⟨-, hrep⟩ := s.rsvRaise_ends l
  rw [hrep.reserve]
  exact s.settleRsv_rsvOnly.scoff

theorem State.rsvRaise_rearmAt (s : State) (l : List Raise) : (s.rsvRaise l).reserve.rearmAt = s.reserve.rearmAt := by
  obtain ⟨-, hrep⟩ := s.rsvRaise_ends l
  rw [hrep.reserve]
  exact s.settleRsv_rsvOnly.rearmAt

theorem State.settled_rest (s : State) : s.noTemp.blockPair.blockChg.reserve.rest = s.reserve.rest := by
  have hpair : ∀ t : State, t.blockPair.reserve.rest = t.reserve.rest := fun t => by
    unfold State.blockPair
    split <;> rfl
  have hchg : ∀ t : State, t.blockChg.reserve.rest = t.reserve.rest := fun t => by
    rcases t.blockChg_cases with h | ⟨c, h⟩
    · rw [h]
    · rw [h]; rfl
  rw [hchg, hpair]
  rfl

/-- Without a rest and a temperature the end of a cycle leaves what the conditions leave of the reserve, and RSV_FLAGS. -/
theorem State.rsvRaise_unmeasured {s : State} (h23 : s.bit aRsvCfg 23 = false) (hr : s.reserve.rest = false) (l : List Raise) :
    (s.rsvRaise l).reserve = s.noTemp.blockPair.blockChg.reserve ∧ (s.rsvRaise l).reg aRsvFlags = s.reg aRsvFlags := by
  obtain ⟨-, hrep⟩ := s.rsvRaise_ends l
  rw [State.settleRsv_unmeasured h23] at hrep
  obtain ⟨hv, hf⟩ := hrep.rest (s.settled_rest.trans hr)
  refine ⟨hv, hf.trans ?_⟩
  rw [s.settled_unmeasured]
  rfl

/-! The order of R391 -/

theorem RsvCyc.order_nil (c : RsvCyc) (rank : Nat) (own : RsvCyc → RsvCyc) (top : Nat) :
    c.order [] rank own top = if rank < top then own c else c := by
  induction top with
  | zero => rfl
  | succ n ih =>
    simp only [RsvCyc.order, List.filter_nil, List.foldl_nil] at ih ⊢
    rw [List.range_succ, List.foldl_append, ih]
    by_cases h : rank < n
    · rw [if_pos h, if_pos (by omega)]
      simp [show n ≠ rank by omega]
    · by_cases h' : n = rank
      · simp [h']
      · rw [if_neg h, if_neg (by omega)]
        simp [h']

theorem RsvCyc.latches_nil {c : RsvCyc} (h : c.raises = []) : c.latches = false := by
  simp [RsvCyc.latches, h, State.judgedAll, State.occurring, firstOf, bestCand]

/-- The cycle of one cause, with no rest that a first fault could abort. -/
theorem State.rsvCycle_alone {s : State} {rank : Nat} {own : RsvCyc → RsvCyc} (hrank : rank < 8)
    (h : s.reserve.rest = false ∨ (own { s := s }).raises = []) :
    s.rsvCycle [] rank own = (own { s := s }).s.rsvRaise (own { s := s }).raises := by
  have hco : (s.reserve.rest && (RsvCyc.order { s := s } [] rank own 6).latches) = false := by
    rcases h with h | h
    · simp [h]
    · rw [RsvCyc.latches_nil, Bool.and_false]
      rw [RsvCyc.order_nil]
      split
      · exact h
      · rfl
  simp only [State.rsvCycle, RsvCyc.run, hco, Bool.false_eq_true, if_false]
  rw [RsvCyc.order_nil, if_pos hrank]

theorem State.rsvCause_alone {s : State} {x : RsvCause}
    (h : s.reserve.rest = false ∨ (RsvCyc.cause { s := s } x).raises = []) :
    s.rsvCause [] x = (RsvCyc.cause { s := s } x).s.rsvRaise (RsvCyc.cause { s := s } x).raises :=
  State.rsvCycle_alone (by cases x <;> decide) h

/-! Trips -/

/-- SCOFF and the re-arm of AUTOR. -/
def State.tripTimer (s : State) : Timer :=
  if s.fld aRsvOring 7 0 = 0 then none else some (s.cycle + 100000000 * s.fld aRsvOring 7 0)

theorem State.tripPair_eq (s : State) (flag : Nat) : s.tripPair flag = { s.orReg aRsvFlags (bitw flag) with
    reserve := { s.reserve with
      orOn := false, ilim := false, ilimAt := none, fullBefore := false, scoff := true, rearmAt := s.tripTimer } } := rfl

/-- The end of a cycle in which the pair has tripped. -/
theorem State.pairTripped {s : State} (h23 : s.bit aRsvCfg 23 = false) (hr : s.reserve.rest = false) (flag : Nat)
    (l : List Raise) : s.PairTripped (bitw flag) ((s.tripPair flag).rsvRaise l) := by
  have hcyc : s.CycleOf [] [] (s.tripPair flag) := by
    refine ⟨rfl, fun _ _ => rfl, fun a ha _ => s.reg_orReg_ne ?_ _⟩
    rintro rfl
    revert ha
    unfold ownReg
    decide
  have h23' : (s.tripPair flag).bit aRsvCfg 23 = false := by
    rw [← h23, State.bit, State.bit]
    exact congrArg (tst · 23) (s.reg_orReg_ne (by decide) _)
  obtain ⟨hv, hf⟩ := State.rsvRaise_unmeasured h23' hr l
  have hscoff : ((s.tripPair flag).rsvRaise l).reserve.scoff = true := State.rsvRaise_scoff _ l
  have hor : ∀ t : State, t.blockChg.reserve.orOn = t.reserve.orOn := fun t => by
    rcases t.blockChg_cases with h | ⟨c, h⟩
    · rw [h]
    · rw [h]; rfl
  refine ⟨hcyc.trans (State.rsvRaise_cycleOf _ l), hscoff, ?_, by simp [State.rsvBlock, hscoff], ?_,
    State.rsvRaise_rearmAt _ l⟩
  · rw [hv, hor, State.blockPair_off rfl]
    rfl
  · exact hf.trans (s.reg_orReg_self _ _)

/-- The pair has tripped in this cycle. -/
def RsvCyc.pairTripped (c : RsvCyc) : Prop := c.tripped = true ∧ c.s.reserve.scoff = true

/-! What no cause but a re-arm does: SCOFF stands -/

theorem State.forAll_count_reserve {α : Type} (s : State) (n : Fin 32) (l : List α) :
    (s.forAll l (fun s _ => s.count n)).reserve = s.reserve := by
  have hcount : ∀ s : State, (s.count n).reserve = s.reserve := fun s => by
    unfold State.count
    split
    · rfl
    · split <;> rfl
  unfold State.forAll
  induction l generalizing s with
  | nil => rfl
  | cons x l ih => exact (ih _).trans (hcount s)

theorem State.count_reserve (s : State) (n : Fin 32) : (s.count n).reserve = s.reserve := s.forAll_count_reserve n [()]

theorem State.writeRecord_reserve (s : State) (a : Nat) (l : List Byte) : (s.writeRecord a l).reserve = s.reserve := by
  unfold State.writeRecord
  split
  · rfl
  · rw [State.poke_frame]

theorem State.saveState_reserve (s : State) : s.saveState.reserve = s.reserve := s.writeRecord_reserve _ _
theorem State.saveCapacity_reserve (s : State) (q : Nat) : (s.saveCapacity q).reserve = s.reserve := s.writeRecord_reserve _ _

theorem State.learnEnd_scoff (s : State) : s.learnEnd.reserve.scoff = s.reserve.scoff := by
  unfold State.learnEnd
  dsimp only
  split
  · rfl
  · split
    · simp [State.count_reserve, State.saveCapacity_reserve, State.setRsv]
    · rfl

theorem State.restUpdate_scoff (s : State) : s.restUpdate.reserve.scoff = s.reserve.scoff := by
  unfold State.restUpdate
  dsimp only
  rw [State.saveState_reserve]
  rfl

theorem State.floorCheck_scoff (s : State) : s.floorCheck.reserve.scoff = s.reserve.scoff := by
  unfold State.floorCheck
  dsimp only
  split
  · split <;> rfl
  · rfl

theorem State.report_scoff (s : State) (i v : Rat) : (s.report i v).reserve.scoff = s.reserve.scoff :=
  s.floorCheck_scoff

theorem State.endPause_scoff (s : State) : s.endPause.reserve.scoff = s.reserve.scoff := by
  rw [State.endPause_reserve]

theorem State.restAbort_scoff (s : State) : s.restAbort.reserve.scoff = s.reserve.scoff := by
  rw [s.restAbort_reports.reserve]

/-- The end of a scheduled rest before its rest is over: the update of the estimator. -/
def RsvCyc.restUpdated (c : RsvCyc) : State :=
  if !c.s.estEn then c.s
  else
    let s := if c.s.reserve.vCnt = 0 then c.s else c.s.closeSecond
    let s := s.restUpdate
    s.report s.reserve.iMean s.reserve.vMean

theorem RsvCyc.restUpdated_scoff (c : RsvCyc) : c.restUpdated.reserve.scoff = c.s.reserve.scoff := by
  unfold RsvCyc.restUpdated
  split
  · rfl
  · dsimp only
    rw [State.report_scoff, State.restUpdate_scoff]
    split <;> rfl

theorem RsvCyc.restEnd_pairTripped {c : RsvCyc} (h : c.pairTripped) : c.restEnd.pairTripped := by
  unfold RsvCyc.restEnd
  dsimp only
  split
  · exact h
  · refine ⟨h.1, ?_⟩
    dsimp only
    rw [State.count_reserve, State.orReg_reserve, State.endPause_scoff]
    exact c.restUpdated_scoff.trans h.2

/-- The cutoff of a pack that supplies. -/
def State.emptied (s : State) : State :=
  let s := s.learnEnd
  let s := s.setRsv { s.reserve with empty := true, floor := false, s := 0, orOn := false, ilim := false, ilimAt := none }
  let s := (s.orReg aRsvFlags (bitw 4)).setFld aSoc 15 0 0
  if s.estEn && s.power.phase == .run then s.saveState else s

theorem State.emptied_scoff (s : State) : s.emptied.reserve.scoff = s.reserve.scoff := by
  unfold State.emptied
  dsimp only
  split
  · rw [State.saveState_reserve]
    exact s.learnEnd_scoff
  · exact s.learnEnd_scoff

theorem RsvCyc.cutoff_pairTripped {c : RsvCyc} (h : c.pairTripped) : c.cutoff.pairTripped := by
  unfold RsvCyc.cutoff
  dsimp only
  split
  · exact h
  · have hs : c.s.emptied.reserve.scoff = true := c.s.emptied_scoff.trans h.2
    split
    · exact ⟨h.1, hs⟩
    · exact ⟨h.1, hs⟩

theorem RsvCyc.overvoltage_pairTripped {c : RsvCyc} (h : c.pairTripped) : c.overvoltage.pairTripped := by
  unfold RsvCyc.overvoltage
  split
  · exact h
  · refine ⟨h.1, ?_⟩
    dsimp only [RsvCyc.with]
    split
    · exact h.2
    · exact h.2

theorem RsvCyc.trip_pairTripped (c : RsvCyc) (flag : Nat) : (c.trip flag).pairTripped := ⟨rfl, rfl⟩

/-- A pair that has tripped in the cycle stays blocked by SCOFF, whatever else acts (R388). -/
theorem RsvCyc.cause_pairTripped {c : RsvCyc} (h : c.pairTripped) (x : RsvCause) : (c.cause x).pairTripped := by
  unfold RsvCyc.cause
  cases x with
  | shortTrip =>
    dsimp only
    split
    · exact c.trip_pairTripped 1
    · exact h
  | limitTimeout =>
    dsimp only
    split
    · exact c.trip_pairTripped 2
    · exact h
  | cutoff => exact RsvCyc.cutoff_pairTripped h
  | abort => exact ⟨h.1, (State.restAbort_scoff _).trans h.2⟩
  | overvoltage => exact RsvCyc.overvoltage_pairTripped h
  | rearm =>
    dsimp only
    rw [h.1, if_pos rfl]
    exact h
  | autoRearm =>
    dsimp only
    rw [h.1, Bool.true_or, if_pos rfl]
    exact h
  | restEnd => exact RsvCyc.restEnd_pairTripped h

theorem RsvCyc.foldl_cause_pairTripped {c : RsvCyc} (h : c.pairTripped) (co : List RsvCause) :
    (co.foldl RsvCyc.cause c).pairTripped := by
  induction co generalizing c with
  | nil => exact h
  | cons x co ih => exact ih (RsvCyc.cause_pairTripped h x)

/-- The causes of one rank of R391, the own one ahead. -/
def RsvCyc.rankStep (co : List RsvCause) (rank : Nat) (own : RsvCyc → RsvCyc) (c : RsvCyc) (r : Nat) : RsvCyc :=
  (co.filter (fun x => rsvRank x == r)).foldl RsvCyc.cause (if r = rank then own c else c)

theorem RsvCyc.order_eq (c : RsvCyc) (co : List RsvCause) (rank : Nat) (own : RsvCyc → RsvCyc) (top : Nat) :
    c.order co rank own top = (List.range top).foldl (RsvCyc.rankStep co rank own) c := rfl

theorem RsvCyc.rankStep_zero (c : RsvCyc) (co : List RsvCause) (own : RsvCyc → RsvCyc) : c.rankStep co 1 own 0 = c := by
  have h : co.filter (fun x => rsvRank x == 0) = [] := by
    rw [List.filter_eq_nil_iff]
    intro x _
    cases x <;> decide
  rw [RsvCyc.rankStep, h]
  rfl

/-- A cause of rank 1 that trips the pair comes first. -/
theorem RsvCyc.order_pairTripped {c : RsvCyc} (co : List RsvCause) {own : RsvCyc → RsvCyc} (h : (own c).pairTripped) :
    (c.order co 1 own 8).pairTripped := by
  have hlater : ∀ (l : List Nat) (d : RsvCyc), d.pairTripped → (∀ r ∈ l, r ≠ 1) →
      (l.foldl (RsvCyc.rankStep co 1 own) d).pairTripped := by
    intro l
    induction l with
    | nil => exact fun _ hd _ => hd
    | cons r l ih =>
      intro d hd hl
      refine ih _ ?_ (fun q hq => hl q (by simp [hq]))
      rw [RsvCyc.rankStep, if_neg (hl r (by simp))]
      exact RsvCyc.foldl_cause_pairTripped hd _
  rw [RsvCyc.order_eq, show List.range 8 = 0 :: 1 :: [2, 3, 4, 5, 6, 7] from rfl, List.foldl_cons, RsvCyc.rankStep_zero,
    List.foldl_cons]
  refine hlater _ _ ?_ (by decide)
  rw [RsvCyc.rankStep, if_pos rfl]
  exact RsvCyc.foldl_cause_pairTripped h _

theorem State.rsvCycle_scoff {s : State} (co : List RsvCause) {own : RsvCyc → RsvCyc} (h : (own { s := s }).pairTripped) :
    (s.rsvCycle co 1 own).reserve.scoff = true := by
  unfold State.rsvCycle RsvCyc.run
  dsimp only
  rw [State.rsvRaise_scoff]
  exact (RsvCyc.order_pairTripped _ h).2

/-! The commands of the pair -/

/-- The conditions act on an unmeasured pack: the reserve alone changes. -/
theorem State.rsvSettle_unmeasured {s : State} (h : s.bit aRsvCfg 23 = false) :
    s.rsvSettle = s.noTemp.blockPair.blockChg := by
  rw [State.rsvSettle, State.rsvRaise_nil_of (by rw [State.settleRsv_unmeasured h]), State.settleRsv_unmeasured h]

theorem State.rsvSettle_setRsv {s : State} (h : s.bit aRsvCfg 23 = false) (v : Reserve) :
    (s.setRsv v).rsvSettle = { s with reserve := (s.setRsv v).rsvSettle.reserve } := by
  rw [State.rsvSettle_unmeasured (s := s.setRsv v) h]
  exact State.settled_unmeasured _

theorem State.blockChg_orOn (s : State) : s.blockChg.reserve.orOn = s.reserve.orOn := by
  rcases s.blockChg_cases with h | ⟨c, h⟩
  · rw [h]
  · rw [h]; rfl

/-- A pair that may conduct is not switched off. -/
theorem State.blockPair_allowed {s : State} (he : s.oringEn = true) (hb : s.rsvBlock = false) : s.blockPair = s := by
  simp [State.blockPair, he, hb]

theorem State.noTemp_rsvBlock {s : State} (h : s.rsvBlock = false) : s.noTemp.rsvBlock = false := by
  have h' : (s.reserve.scoff || s.reserve.empty || s.reserve.rest || (s.bit aRsvOring 30 && s.reserve.tdis)) = false := h
  simp only [Bool.or_eq_false_iff] at h'
  obtain ⟨⟨⟨h1, h2⟩, h3⟩, -⟩ := h'
  simp [State.rsvBlock, State.noTemp, State.setRsv, h1, h2, h3]

/-- The reserve with its pair on: a full charger begins a learning discharge. -/
def Reserve.conducting (v : Reserve) : Reserve :=
  if v.chg == .full then { v with fullBefore := true, learn := false, qd := 0, tLo := none, tHi := none, orOn := true }
  else { v with fullBefore := false, orOn := true }

theorem Reserve.conducting_orOn (v : Reserve) : v.conducting.orOn = true := by
  unfold Reserve.conducting
  split <;> rfl

theorem Reserve.conducting_blocks (v : Reserve) : v.conducting.scoff = v.scoff ∧ v.conducting.empty = v.empty
    ∧ v.conducting.rest = v.rest ∧ v.conducting.tdis = v.tdis ∧ v.conducting.chg = v.chg := by
  unfold Reserve.conducting
  split <;> exact ⟨rfl, rfl, rfl, rfl, rfl⟩

theorem execOringOn_eq {s : State} (he : s.oringEn = true) (hb : s.rsvBlock = false) (ho : s.reserve.orOn = false) :
    execOringOn s = .next (s.setRsv s.reserve.conducting).rsvSettle := by
  simp only [execOringOn, he, hb, ho, Bool.not_true, Bool.or_false, Bool.false_eq_true, if_false, Reserve.conducting]
  split
  · rfl
  · rfl

theorem State.oringOn_reserve {s : State} (h23 : s.bit aRsvCfg 23 = false) (he : s.oringEn = true) (hb : s.rsvBlock = false) :
    (s.setRsv s.reserve.conducting).rsvSettle = (s.setRsv s.reserve.conducting).noTemp.blockChg := by
  have hblock : (s.setRsv s.reserve.conducting).rsvBlock = false := by
    obtain ⟨h1, h2, h3, h4, -⟩ := s.reserve.conducting_blocks
    rw [← hb]
    simp only [State.rsvBlock, State.setRsv, h1, h2, h3, h4]
    rfl
  rw [State.rsvSettle_unmeasured (s := s.setRsv s.reserve.conducting) h23,
    State.blockPair_allowed (s := (s.setRsv s.reserve.conducting).noTemp) he (State.noTemp_rsvBlock hblock)]

theorem State.blockChg_conducting {s : State} (he : s.chgEn = true) (hc : s.reserve.chg = .cc) (ho : s.reserve.orOn = true)
    (hr : s.reserve.rest = false) : s.blockChg = s.setChg .wait := by
  have hready : s.chgReady = false := by simp [State.chgReady, ho]
  simp [State.blockChg, he, hc, hready, hr]

theorem RsvCyc.cause_shortTrip {s : State} (h : s.oringEn = true) :
    RsvCyc.cause { s := s } .shortTrip = RsvCyc.trip { s := s } 1 := if_pos h

theorem RsvCyc.cause_limitTimeout {s : State} (h : s.reserve.ilimAt ≠ none) :
    RsvCyc.cause { s := s } .limitTimeout = RsvCyc.trip { s := s } 2 := if_pos (Option.isSome_iff_ne_none.mpr h)

theorem RsvCyc.cause_autoRearm {s : State} (h : s.reserve.rearmAt ≠ none) :
    RsvCyc.cause { s := s } .autoRearm = { s := s.rearm } := by
  have hs : (s.reserve.rearmAt).isNone = false := by simpa [Option.isSome_iff_ne_none] using h
  simp [RsvCyc.cause, hs, RsvCyc.map]

theorem State.rearm_cycleOf (s : State) : s.CycleOf [] [] s.rearm := ⟨rfl, fun _ _ => rfl, fun _ _ _ => rfl⟩

/-- The end of a cycle in which the pair was re-armed. -/
theorem State.rearmed (s : State) :
    s.CycleOf [] [] (s.rearm.rsvRaise []) ∧ (s.rearm.rsvRaise []).reserve.scoff = false
      ∧ (s.rearm.rsvRaise []).reserve.rearmAt = none
      ∧ (s.still → s.rearm.rsvRaise [] = { s with reserve := { s.reserve with scoff := false, rearmAt := none } }) := by
  refine ⟨s.rearm_cycleOf.trans (s.rearm.rsvRaise_cycleOf []), s.rearm.rsvRaise_scoff [], s.rearm.rsvRaise_rearmAt [],
    fun h => ?_⟩
  have hstill : s.rearm.still := h
  rw [State.rsvRaise_nil_of (by rw [State.settleRsv_still hstill]), State.settleRsv_still hstill]
  rfl

theorem State.rearm_alone (s : State) : s.rsvCause [] .rearm = s.rearm.rsvRaise [] := State.rsvCause_alone (.inr rfl)

/-- A re-arm in the cycle of a short circuit has no effect: the trip comes first. -/
theorem State.rearm_short {s : State} (hr : s.reserve.rest = false) (he : s.oringEn = true) :
    s.rsvCause [.shortTrip] .rearm = (RsvCyc.trip { s := s } 1).s.rsvRaise (RsvCyc.trip { s := s } 1).raises := by
  have horder : RsvCyc.order { s := s } [.shortTrip] 5 (fun c => c.cause .rearm) 8 = RsvCyc.trip { s := s } 1 := by
    have hstep : RsvCyc.order { s := s } [.shortTrip] 5 (fun c => c.cause .rearm) 8
        = (RsvCyc.cause { s := s } .shortTrip).cause .rearm := rfl
    rw [hstep, RsvCyc.cause_shortTrip he]
    rfl
  have hco : (s.reserve.rest && (RsvCyc.order { s := s } [.shortTrip] 5 (fun c => c.cause .rearm) 6).latches) = false := by
    simp [hr]
  simp only [State.rsvCause, rsvRank, State.rsvCycle, RsvCyc.run, hco, Bool.false_eq_true, if_false, horder]

theorem execDischargeLimitChange_eq {s : State} {b : Bool} (ho : s.reserve.orOn = true) (hi : s.reserve.ilim ≠ b)
    (hn : s.fld aRsvOring 15 8 ≠ 0) : execDischargeLimitChange b s = .next { s with reserve := { s.reserve with
      ilim := b, ilimAt := if b then some (s.cycle + 100000 * s.fld aRsvOring 15 8) else none } } := by
  simp [execDischargeLimitChange, ho, hi, hn, State.setRsv, State.timer]

theorem execOringOff_eq {s : State} (ho : s.reserve.orOn = true) : execOringOff s = .next s.pairOff.rsvSettle := by
  simp [execOringOff, ho]

theorem State.oringOff_reserve {s : State} (h23 : s.bit aRsvCfg 23 = false) :
    s.pairOff.rsvSettle = s.pairOff.noTemp.blockChg := by
  rw [State.rsvSettle_unmeasured (s := s.pairOff) h23, State.blockPair_off rfl]

theorem State.blockChg_limit (s : State) : s.blockChg.reserve.ilim = s.reserve.ilim
    ∧ s.blockChg.reserve.ilimAt = s.reserve.ilimAt := by
  rcases s.blockChg_cases with h | ⟨c, h⟩
  · rw [h]; exact ⟨rfl, rfl⟩
  · rw [h]; exact ⟨rfl, rfl⟩

/-- Settles O31: each command of the pair changes the reserve as its own cause does, and then the conditions of R381 and
R389 act; a trip comes ahead of a re-arm by the order of R391. -/
theorem oringPair : Obligations.OringPair := by
  unfold Obligations.OringPair
  refine ⟨fun s h23 => ⟨fun he hb ho => ?_, fun ho => ?_, fun hr hi => ?_, fun hr he => ?_⟩,
    fun s b ho hi hn => ⟨_, execDischargeLimitChange_eq ho hi hn, rfl⟩,
    fun s who => ⟨fun hr => ?_, fun hs => ⟨?_, fun h23 hr he => ?_⟩⟩, fun s co => ⟨fun he => ?_, fun hi => ?_⟩⟩
  · refine ⟨_, execOringOn_eq he hb ho, State.rsvSettle_setRsv h23 _, ?_, fun hen hc hr => ?_⟩
    · rw [State.oringOn_reserve h23 he hb, State.blockChg_orOn]
      exact s.reserve.conducting_orOn
    · obtain ⟨-, -, hrest, -, hchg⟩ := s.reserve.conducting_blocks
      rw [State.oringOn_reserve h23 he hb, State.blockChg_conducting (s := (s.setRsv s.reserve.conducting).noTemp) hen (hchg.trans hc) s.reserve.conducting_orOn
        (hrest.trans hr)]
      rfl
  · obtain ⟨hilim, hat⟩ := s.pairOff.noTemp.blockChg_limit
    refine ⟨_, execOringOff_eq ho, State.rsvSettle_setRsv h23 _, ?_, ?_, ?_⟩
    · rw [State.oringOff_reserve h23, State.blockChg_orOn]; rfl
    · rw [State.oringOff_reserve h23, hilim]; rfl
    · rw [State.oringOff_reserve h23, hat]; rfl
  · refine ⟨_, rfl, ?_⟩
    rw [State.rsvCause_alone (.inl hr), RsvCyc.cause_limitTimeout hi]
    exact State.pairTripped h23 hr 2 _
  · refine ⟨_, rfl, ?_⟩
    rw [State.rsvCause_alone (.inl hr), RsvCyc.cause_shortTrip he]
    exact State.pairTripped h23 hr 1 _
  · refine ⟨_, rfl, ?_⟩
    rw [State.rsvCause_alone (.inr (by rw [RsvCyc.cause_autoRearm hr])), RsvCyc.cause_autoRearm hr]
    exact s.rearmed
  · refine ⟨_, rfl, ?_⟩
    rw [State.fab_serves hs, State.rearm_alone]
    exact s.rearmed
  · refine ⟨_, rfl, ?_⟩
    rw [State.fab_serves hs, State.rearm_short hr he]
    exact State.pairTripped h23 hr 1 _
  · refine ⟨_, rfl, State.rsvCycle_scoff co ?_⟩
    rw [RsvCyc.cause_shortTrip he]
    exact RsvCyc.trip_pairTripped _ 1
  · refine ⟨_, rfl, State.rsvCycle_scoff co ?_⟩
    rw [RsvCyc.cause_limitTimeout hi]
    exact RsvCyc.trip_pairTripped _ 2

end Sys2Proof.Machine
end


section
/-! PROOFS. The charger: its transitions by a cell voltage, its faults and the release from FAULT (O30). -/

namespace Sys2Proof.Machine
open Sys2Proof

/-! The conditions of a reserve whose pair is off -/

/-- The conditions change nothing but the temperature bits of a charger that they let run, wait or stand in FAULT. -/
theorem State.settleRsv_running {s : State} (h23 : s.bit aRsvCfg 23 = false) (hor : s.reserve.orOn = false)
    (hen : s.chgEn = true) (hc : s.reserve.chg ∈ [ChgState.wait, .fault] ∨ s.reserve.chg ≠ .off ∧ s.noTemp.chgReady = true) :
    s.settleRsv = (s.noTemp, []) := by
  have hoff : s.noTemp.blockPair = s.noTemp := State.blockPair_off hor
  rw [State.settleRsv_unmeasured h23, hoff]
  rcases hc with hc | ⟨hc, hready⟩
  · rw [State.blockChg_kept (s := s.noTemp) (.inr ⟨hen, hc⟩)]
  · have hen' : s.noTemp.chgEn = true := hen
    have hkeep : s.noTemp.blockChg = s.noTemp := by
      unfold State.blockChg
      rw [hen', hready]
      cases hchg : s.reserve.chg
      case off => exact absurd hchg hc
      all_goals simp [State.noTemp, State.setRsv, hchg]
    rw [hkeep]

/-- The end of a quiet cycle of such a reserve. -/
theorem State.rsvRaise_running {s : State} (h23 : s.bit aRsvCfg 23 = false) (hor : s.reserve.orOn = false)
    (hen : s.chgEn = true) (hc : s.reserve.chg ∈ [ChgState.wait, .fault] ∨ s.reserve.chg ≠ .off ∧ s.noTemp.chgReady = true) :
    s.rsvRaise [] = s.noTemp := by
  have h := State.settleRsv_running h23 hor hen hc
  rw [State.rsvRaise_nil_of (by rw [h]), h]

/-! Transitions -/

/-- The charger's state by the cell voltage, apart from FULL's record, in a calm reserve. -/
def State.chargerNext (s : State) (mv : Nat) : State :=
  match s.reserve.chg with
  | .wait =>
    if s.vpre ≤ mv ∧ s.vcv ≤ mv + s.vrch then s.chgFull else if mv < s.vpre then s.setChg .pre else s.setChg .cc
  | .pre => if s.vpre ≤ mv then s.setChg .cc else s
  | .cc => if s.vcv ≤ mv then s.setChg .cv else s
  | .full => if mv + s.vrch < s.vcv then s.setChg .cc else s
  | _ => s

/-- What a transition leaves alone: everything but the charger's state, and the stored record. -/
structure Charges (s : State) (c : ChgState) (t : State) : Prop where
  fields : t = { s with reserve := t.reserve, sram := t.sram, keeper := t.keeper }
  chg : t.reserve.chg = c
  present : t.reserve.present = s.reserve.present
  overV : t.reserve.overV = s.reserve.overV
  orOn : t.reserve.orOn = s.reserve.orOn
  rest : t.reserve.rest = s.reserve.rest

theorem State.setChg_charges (s : State) (c : ChgState) : Charges s c (s.setChg c) := ⟨rfl, rfl, rfl, rfl, rfl, rfl⟩

theorem Charges.stays {s : State} {c : ChgState} (h : s.reserve.chg = c) : Charges s c s := ⟨rfl, h, rfl, rfl, rfl, rfl⟩

theorem State.writeRecord_frame (s : State) (a : Nat) (l : List Byte) :
    s.writeRecord a l = { s with sram := (s.writeRecord a l).sram, keeper := (s.writeRecord a l).keeper } := by
  unfold State.writeRecord
  split
  · rfl
  · exact State.eq_sram_keeper (State.poke_frame _ _ _)

theorem State.chgFull_charges (s : State) : Charges s .full s.chgFull := by
  unfold State.chgFull
  dsimp only
  split
  · have h : ∀ t : State, Charges s .full t → Charges s .full t.saveState := fun t ht => by
      have hf := t.writeRecord_frame 0x24000
      have hv := t.saveState_reserve
      refine ⟨?_, by rw [hv]; exact ht.chg, by rw [hv]; exact ht.present, by rw [hv]; exact ht.overV,
        by rw [hv]; exact ht.orOn, by rw [hv]; exact ht.rest⟩
      rw [State.saveState, hf, ht.fields]
    exact h _ ⟨rfl, rfl, rfl, rfl, rfl, rfl⟩
  · exact s.setChg_charges .full

/-- The moves of O30 as the model finds them. -/
def State.chgMoves (s : State) (mv : Nat) (c : ChgState) : Prop :=
  (s.reserve.chg = .wait ∧ mv < s.vpre ∧ c = .pre)
    ∨ (s.reserve.chg = .wait ∧ s.vpre ≤ mv ∧ mv + s.vrch < s.vcv ∧ c = .cc)
    ∨ (s.reserve.chg = .wait ∧ s.vpre ≤ mv ∧ s.vcv ≤ mv + s.vrch ∧ c = .full)
    ∨ (s.reserve.chg = .pre ∧ s.vpre ≤ mv ∧ c = .cc) ∨ (s.reserve.chg = .pre ∧ mv < s.vpre ∧ c = .pre)
    ∨ (s.reserve.chg = .cc ∧ s.vcv ≤ mv ∧ c = .cv) ∨ (s.reserve.chg = .cc ∧ mv < s.vcv ∧ c = .cc)
    ∨ (s.reserve.chg = .full ∧ mv + s.vrch < s.vcv ∧ c = .cc)
    ∨ (s.reserve.chg = .full ∧ s.vcv ≤ mv + s.vrch ∧ c = .full)

theorem State.chargerNext_charges {s : State} {mv : Nat} {c : ChgState} (h : s.chgMoves mv c) :
    Charges s c (s.chargerNext mv) := by
  unfold State.chargerNext
  rcases h with ⟨hs, h1, rfl⟩ | ⟨hs, h1, h2, rfl⟩ | ⟨hs, h1, h2, rfl⟩ | ⟨hs, h1, rfl⟩ | ⟨hs, h1, rfl⟩ | ⟨hs, h1, rfl⟩
    | ⟨hs, h1, rfl⟩ | ⟨hs, h1, rfl⟩ | ⟨hs, h1, rfl⟩ <;> simp only [hs]
  · rw [if_neg (by omega), if_pos h1]
    exact s.setChg_charges _
  · rw [if_neg (by omega), if_neg (by omega)]
    exact s.setChg_charges _
  · rw [if_pos ⟨h1, h2⟩]
    exact s.chgFull_charges
  · rw [if_pos h1]
    exact s.setChg_charges _
  · rw [if_neg (by omega)]
    exact Charges.stays hs
  · rw [if_pos h1]
    exact s.setChg_charges _
  · rw [if_neg (by omega)]
    exact Charges.stays hs
  · rw [if_pos h1]
    exact s.setChg_charges _
  · rw [if_neg (by omega)]
    exact Charges.stays hs

theorem State.chgMoves_running {s : State} {mv : Nat} {c : ChgState} (h : s.chgMoves mv c) :
    s.reserve.chg ≠ .off ∧ s.reserve.chg ≠ .fault ∧ c ≠ .off := by
  rcases h with ⟨hs, -, rfl⟩ | ⟨hs, -, -, rfl⟩ | ⟨hs, -, -, rfl⟩ | ⟨hs, -, rfl⟩ | ⟨hs, -, rfl⟩ | ⟨hs, -, rfl⟩
    | ⟨hs, -, rfl⟩ | ⟨hs, -, rfl⟩ | ⟨hs, -, rfl⟩ <;> simp [hs]

/-- The reserve that has seen a cell voltage. -/
def State.seen (s : State) (mv : Nat) : State :=
  (s.setRsv { s.reserve with present := 2000 ≤ mv, overV := s.vov < mv }).noTemp

theorem State.chgReady_of {s : State} (h0 : s.bit aMonVin 0 = true) (h1 : s.bit aMonVin 1 = false)
    (hor : s.reserve.orOn = false) (hp : s.reserve.present = true) (ht : s.reserve.tchg = false)
    (hr : s.reserve.rest = false) : s.chgReady = true := by
  simp [State.chgReady, h0, h1, hor, hp, ht, hr]

theorem State.calm_ready {s : State} (h : s.calm) (hp : s.reserve.present = true) : s.noTemp.chgReady = true := by
  obtain ⟨-, -, -, -, -, hr, hor, hv0, hv1⟩ := h
  exact State.chgReady_of (s := s.noTemp) hv0 hv1 hor hp rfl hr

theorem State.charger_calm {s : State} {mv : Nat} {c : ChgState} (h : s.calm) (hlo : 2000 ≤ mv) (hm : s.chgMoves mv c) :
    RsvCyc.charger { s := s } mv = { s := (s.seen mv).chargerNext mv } := by
  obtain ⟨hoff, hfault, -⟩ := State.chgMoves_running hm
  have hcalm : (s.setRsv { s.reserve with present := decide (2000 ≤ mv), overV := decide (s.vov < mv) }).calm := h
  have hready : (s.seen mv).chgReady = true := State.calm_ready hcalm (decide_eq_true hlo)
  obtain ⟨hawake, hen, h23, -, -, -, hor, -⟩ := hcalm
  have hset := State.settleRsv_running h23 hor hen (.inr ⟨hoff, hready⟩)
  have hrel : (s.seen mv).chgRelease = s.seen mv := by
    have hf : ((s.seen mv).reserve.chg == .fault) = false := beq_eq_false_iff_ne.mpr hfault
    simp [State.chgRelease, hf]
  have hawake' : (s.seen mv).awake = true := hawake
  simp only [RsvCyc.charger, hset]
  rw [show (s.setRsv { s.reserve with present := decide (2000 ≤ mv), overV := decide (s.vov < mv) }).noTemp = s.seen mv
    from rfl, hrel, hready, hawake']
  cases hc : (s.seen mv).reserve.chg <;> simp [State.chargerNext, hc]

/-- After a transition the conditions change nothing more. -/
theorem State.charges_end {s t : State} {c : ChgState} (h : s.calm) (hp : s.reserve.present = true) (ht : Charges s c t)
    (hc : c ≠ .off) : Charges s c (t.rsvRaise []) := by
  obtain ⟨-, hen, h23, -, -, hr, hor, hv0, hv1⟩ := h
  have hregs : t.regs = s.regs := by rw [ht.fields]
  have hbit : ∀ a i, t.bit a i = s.bit a i := fun a i => by simp [State.bit, State.reg, hregs]
  have hready : t.noTemp.chgReady = true :=
    State.chgReady_of (s := t.noTemp) ((hbit _ _).trans hv0) ((hbit _ _).trans hv1) (ht.orOn.trans hor)
      (ht.present.trans hp) rfl (ht.rest.trans hr)
  have hen' : t.chgEn = true := by
    rw [← hen, State.chgEn, State.rsvEn, hbit, hbit]
    rfl
  rw [State.rsvRaise_running ((hbit _ _).trans h23) (ht.orOn.trans hor) hen' (.inr ⟨by rw [ht.chg]; exact hc, hready⟩)]
  exact ⟨by rw [State.noTemp, State.setRsv, ht.fields], ht.chg, ht.present, ht.overV, ht.orOn, ht.rest⟩

/-! Faults -/

theorem State.noTemp_fault {s : State} (hen : s.chgEn = true) (hc : s.reserve.chg = .fault) :
    s.noTemp.blockPair.blockChg.reserve.chg = .fault := by
  have hpair : s.noTemp.blockPair.reserve.chg = .fault ∧ s.noTemp.blockPair.chgEn = true := by
    unfold State.blockPair
    split <;> exact ⟨hc, hen⟩
  rw [State.blockChg_kept (.inr ⟨hpair.2, by simp [hpair.1]⟩)]
  exact hpair.1

/-- The charger in FAULT at the end of a cycle with a raise. -/
theorem State.chargerFaulted {s t : State} {f : Nat} (h23 : s.bit aRsvCfg 23 = false) (hr : s.reserve.rest = false)
    (hen : s.chgEn = true) (ht : t = { s.orReg aRsvFlags (bitw f) with reserve := t.reserve })
    (hc : t.reserve.chg = .fault) (hrest : t.reserve.rest = s.reserve.rest) (l : List Raise) :
    s.ChargerFaulted (bitw f) (t.rsvRaise l) := by
  have hreg : ∀ a, a ≠ aRsvFlags → t.reg a = s.reg a := fun a ha => by
    rw [ht]
    exact s.reg_orReg_ne ha _
  have hflags : t.reg aRsvFlags = s.reg aRsvFlags ||| bitw f := by
    rw [ht]
    exact s.reg_orReg_self _ _
  have hcyc : s.CycleOf [] [] t := by
    refine ⟨by rw [ht]; rfl, fun q _ => by rw [ht]; rfl, fun a ha _ => hreg a ?_⟩
    rintro rfl
    revert ha
    unfold ownReg
    decide
  have h23' : t.bit aRsvCfg 23 = false := by rw [State.bit, hreg _ (by decide)]; exact h23
  have hen' : t.chgEn = true := by
    rw [State.chgEn, State.rsvEn, State.bit, State.bit, hreg _ (by decide), hreg _ (by decide)]
    exact hen
  obtain ⟨hv, hf⟩ := State.rsvRaise_unmeasured h23' (hrest.trans hr) l
  exact ⟨hcyc.trans (t.rsvRaise_cycleOf l), by rw [hv]; exact State.noTemp_fault hen' hc, hf.trans hflags⟩

/-- A charger that faults, from a cause of the last rank. -/
theorem State.chgFault_cycle {s : State} {f : Nat} {own : RsvCyc → RsvCyc} (h23 : s.bit aRsvCfg 23 = false)
    (hr : s.reserve.rest = false) (hen : s.chgEn = true) (hown : own { s := s } = RsvCyc.chgFault { s := s } f) :
    s.ChargerFaulted (bitw f) (s.rsvCycle [] 7 own) := by
  rw [State.rsvCycle_alone (by decide) (.inl hr), hown]
  exact State.chargerFaulted (t := (s.setChg .fault).orReg aRsvFlags (bitw f)) h23 hr hen rfl rfl rfl _

/-- The timeout of a charge shows the limit it has reached. -/
def State.chargeTimedOut (s : State) : State :=
  let t := (s.setChg .fault).orReg aRsvFlags (bitw 6)
  t.setRsv { t.reserve with elapsed := max t.reserve.elapsed (60000000000 * t.fld aRsvChgT 7 0) }

theorem State.chargeTimeout_eq {s : State} (hr : s.reserve.rest = false) (hc : s.reserve.chg ∈ [ChgState.pre, .cc, .cv]) :
    execChargeTimeout [] s = .next (s.chargeTimedOut.rsvRaise [{ src := srcCharger }]) := by
  have hruns : chgRuns s.reserve.chg = true := by
    simp only [List.mem_cons, List.not_mem_nil, or_false] at hc
    rcases hc with h | h | h <;> simp [chgRuns, h]
  rw [execChargeTimeout, State.rsvCycle_alone (by decide) (.inl hr)]
  simp only [hruns, if_true]
  rfl

/-- The over-voltage of a pack whose charger runs, and of one whose charger stands in OFF. -/
theorem RsvCyc.overvoltage_charging {s : State} (he : s.rsvEn = true) (hc : s.reserve.chg ≠ .off) :
    RsvCyc.cause { s := s } .overvoltage =
      { s := ((s.setRsv { s.reserve with overV := true }).setChg .fault).orReg aRsvFlags (bitw 3)
        raises := [{ src := srcReserve }] } := by
  have hoff : (s.reserve.chg == .off) = false := by simpa using hc
  simp [RsvCyc.cause, RsvCyc.overvoltage, he, RsvCyc.with, State.setRsv, hoff]

theorem RsvCyc.overvoltage_off {s : State} (he : s.rsvEn = true) (hc : s.reserve.chg = .off) :
    RsvCyc.cause { s := s } .overvoltage =
      { s := (s.setRsv { s.reserve with overV := true }).orReg aRsvFlags (bitw 3), raises := [{ src := srcReserve }] } := by
  simp [RsvCyc.cause, RsvCyc.overvoltage, he, RsvCyc.with, State.setRsv, hc]

theorem State.noTemp_off {s : State} (hen : s.chgEn = false) (hc : s.reserve.chg = .off) (ho : s.reserve.overV = true) :
    s.noTemp.blockPair.blockChg.reserve.chg = .off ∧ s.noTemp.blockPair.blockChg.reserve.overV = true := by
  have hpair : s.noTemp.blockPair.reserve.chg = .off ∧ s.noTemp.blockPair.chgEn = false
      ∧ s.noTemp.blockPair.reserve.overV = true := by
    unfold State.blockPair
    split <;> exact ⟨hc, hen, ho⟩
  obtain ⟨hc', hen', ho'⟩ := hpair
  rw [State.blockChg_kept (.inl ⟨hen', hc'⟩)]
  exact ⟨hc', ho'⟩

/-- An over-voltage while the charger is disabled sets the flag alone. -/
theorem State.overvoltage_disabled {s : State} (h23 : s.bit aRsvCfg 23 = false) (hr : s.reserve.rest = false)
    (he : s.rsvEn = true) (hen : s.chgEn = false) (hc : s.reserve.chg = .off) :
    s.CycleOf [] [] (s.rsvCause [] .overvoltage) ∧ (s.rsvCause [] .overvoltage).reserve.chg = .off
      ∧ (s.rsvCause [] .overvoltage).reserve.overV = true
      ∧ (s.rsvCause [] .overvoltage).reg aRsvFlags = s.reg aRsvFlags ||| bitw 3 := by
  rw [State.rsvCause_alone (.inl hr), RsvCyc.overvoltage_off he hc]
  have hreg : ∀ a, a ≠ aRsvFlags →
      ((s.setRsv { s.reserve with overV := true }).orReg aRsvFlags (bitw 3)).reg a = s.reg a := fun a ha =>
    (s.setRsv { s.reserve with overV := true }).reg_orReg_ne ha _
  have hcyc : s.CycleOf [] [] ((s.setRsv { s.reserve with overV := true }).orReg aRsvFlags (bitw 3)) := by
    refine ⟨rfl, fun q _ => rfl, fun a ha _ => hreg a ?_⟩
    rintro rfl
    revert ha
    unfold ownReg
    decide
  have h23' : ((s.setRsv { s.reserve with overV := true }).orReg aRsvFlags (bitw 3)).bit aRsvCfg 23 = false := by
    rw [State.bit, hreg _ (by decide)]
    exact h23
  have hen' : ((s.setRsv { s.reserve with overV := true }).orReg aRsvFlags (bitw 3)).chgEn = false := by
    rw [State.chgEn, State.rsvEn, State.bit, State.bit, hreg _ (by decide), hreg _ (by decide)]
    exact hen
  obtain ⟨hv, hf⟩ := State.rsvRaise_unmeasured h23' hr [{ src := srcReserve }]
  obtain ⟨h1, h2⟩ := State.noTemp_off (s := (s.setRsv { s.reserve with overV := true }).orReg aRsvFlags (bitw 3)) hen' hc rfl
  exact ⟨hcyc.trans (State.rsvRaise_cycleOf _ _), by rw [hv]; exact h1, by rw [hv]; exact h2,
    hf.trans ((s.setRsv { s.reserve with overV := true }).reg_orReg_self _ _)⟩

/-! The release from FAULT -/

theorem State.chgRelease_of {s : State} (hc : s.reserve.chg = .fault) (hf : s.reg aRsvFlags &&& faultFlags = 0)
    (ho : s.reserve.overV = false) : s.chgRelease = s.setChg .wait := by
  simp [State.chgRelease, hf, hc, ho]

/-- Flags of RSV_FLAGS cleared, none of FAULT left. -/
theorem State.clrFlags_released {s : State} (h : s.calm) (hc : s.reserve.chg = .fault) (ho : s.reserve.overV = false)
    {m : Word} (hf : s.reg aRsvFlags &&& ~~~m &&& faultFlags = 0) :
    (s.clrReg aRsvFlags m).chgRelease.rsvSettle = ((s.clrReg aRsvFlags m).setChg .wait).noTemp := by
  have hreg : ∀ a, a ≠ aRsvFlags → (s.clrReg aRsvFlags m).reg a = s.reg a := fun a ha => s.reg_clrReg_ne ha _
  have hclr : (s.clrReg aRsvFlags m).reg aRsvFlags &&& faultFlags = 0 := by
    rw [s.reg_clrReg_self]
    exact hf
  obtain ⟨-, hen, h23, -, -, -, hor, -⟩ := h
  rw [State.chgRelease_of (s := s.clrReg aRsvFlags m) hc hclr ho, State.rsvSettle]
  refine State.rsvRaise_running ?_ hor ?_ (.inl (by simp [State.setChg, State.setRsv]))
  · exact (congrArg (tst · 23) (hreg _ (by decide))).trans h23
  · have he : ∀ a i, a ≠ aRsvFlags → ((s.clrReg aRsvFlags m).setChg .wait).bit a i = s.bit a i :=
      fun a i ha => congrArg (tst · i) (hreg a ha)
    rw [State.chgEn, State.rsvEn, he _ _ (by decide), he _ _ (by decide)]
    exact hen

/-- Settles O30: a voltage moves a calm charger as its state says and the conditions of R381 then change nothing; a fault
stays until its flags are clear. -/
theorem charger : Obligations.Charger := by
  unfold Obligations.Charger
  refine ⟨⟨fun s mv c h hlo hhi hm => ?_, fun s h hp hc => ?_⟩, ⟨fun s hr h23 => ⟨fun hen => ⟨fun hc => ?_, fun hc => ?_,
    fun hc => ?_, fun hc => ?_⟩, fun he hen hc => ⟨_, rfl, State.overvoltage_disabled h23 hr he hen hc⟩⟩,
    fun s who v hw hs h hc ho hf => ?_⟩⟩
  · have hready := State.charger_calm h hlo hm
    have hcalm : (s.seen mv).calm := by
      obtain ⟨h1, h2, h3, -, -, h6, h7, h8, h9⟩ := h
      exact ⟨h1, h2, h3, rfl, rfl, h6, h7, h8, h9⟩
    obtain ⟨-, -, hoff⟩ := State.chgMoves_running hm
    have hend := State.charges_end hcalm (decide_eq_true hlo) (State.chargerNext_charges (s := s.seen mv) hm) hoff
    obtain ⟨-, -, -, -, -, hr, -⟩ := h
    refine ⟨_, rfl, ?_⟩
    rw [State.rsvCycle_alone (by decide) (.inl hr), hready]
    refine ⟨?_, hend.chg, hend.present.trans (decide_eq_true hlo), hend.overV.trans (decide_eq_false (by omega))⟩
    rw [hend.fields]
    rfl
  · have hend := State.charges_end h hp s.chgFull_charges (by decide)
    obtain ⟨-, -, -, -, -, hr, -⟩ := h
    refine ⟨_, rfl, ?_⟩
    rw [State.rsvCycle_alone (by decide) (.inl hr)]
    simp only [hc, beq_self_eq_true, if_true]
    exact ⟨hend.fields, hend.chg⟩
  · exact ⟨_, rfl, State.chgFault_cycle (f := 7) h23 hr hen (by simp [hc])⟩
  · exact ⟨_, State.chargeTimeout_eq hr hc, State.chargerFaulted (f := 6) (t := s.chargeTimedOut) h23 hr hen rfl rfl rfl _⟩
  · refine ⟨_, rfl, State.chgFault_cycle (f := 8) h23 hr hen ?_⟩
    simp only [List.mem_cons, List.not_mem_nil, or_false] at hc
    rcases hc with h | h <;> simp [h]
  · have he : s.rsvEn = true := by
      rw [State.chgEn, Bool.and_eq_true] at hen
      exact hen.1
    refine ⟨_, rfl, ?_⟩
    rw [State.rsvCause_alone (.inl hr), RsvCyc.overvoltage_charging he hc]
    exact State.chargerFaulted (f := 3)
      (t := ((s.setRsv { s.reserve with overV := true }).setChg .fault).orReg aRsvFlags (bitw 3)) h23 hr hen rfl rfl rfl _
  · refine ⟨_, rfl, ?_⟩
    rw [State.fab_serves hs, State.rsvFlags, State.clrFlags_released (m := v &&& ~~~hw &&& 0x7FFF#32) h hc ho hf]
    exact ⟨s.reg_clrReg_self _ _, rfl, fun a ha => s.reg_clrReg_ne ha _, rfl⟩

end Sys2Proof.Machine
end


section
/-! PROOFS. The store controller: requests, pages and ends (O33), the power-fail store (O34) and the key erase (O46). -/

namespace Sys2Proof.Machine
open Sys2Proof

/-! Maps by their keys -/

theorem look_append {α : Type} (l m : List (Nat × α)) (a : Nat) : look (l ++ m) a = (look l a).or (look m a) := by
  induction l with
  | nil => simp [look]
  | cons e l ih =>
    obtain ⟨k, v⟩ := e
    by_cases h : k = a
    · simp [look, h]
    · simp [look, h, ih]

theorem look_filter_key {α : Type} (m : List (Nat × α)) (p : Nat → Bool) (a : Nat) :
    look (m.filter (fun e => p e.1)) a = if p a then look m a else none := by
  induction m with
  | nil => simp [look]
  | cons e m ih =>
    obtain ⟨k, v⟩ := e
    by_cases hp : p k = true
    · rw [List.filter_cons_of_pos (by simpa using hp)]
      by_cases h : k = a
      · subst h
        simp [look, hp]
      · simp [look, h, ih]
    · rw [List.filter_cons_of_neg (by simpa using hp), ih]
      by_cases h : k = a
      · subst h
        simp [hp]
      · simp [look, h]

theorem look_setPage (m : List Host.Cell) (k : Nat) (cells : List Host.Cell) (a : Nat) :
    look (setPage m k cells) a = if a / 0x400 = k then look cells a else look m a := by
  rw [setPage, pageOf, look_append, look_append, look_filter_key m (fun x => decide (x / 0x400 < k)),
    look_filter_key cells (fun x => x / 0x400 == k), look_filter_key m (fun x => decide (k < x / 0x400))]
  by_cases h : a / 0x400 = k
  · simp [h]
  · obtain h' | h' := Nat.lt_or_gt_of_ne h
    · simp [h, h', show ¬ k < a / 0x400 by omega]
    · simp [h, h', show ¬ a / 0x400 < k by omega]

theorem State.shadowByte_setPage {s t : State} {k : Nat} {cells : List Host.Cell} (h : t.shadow = setPage s.shadow k cells)
    (a : Nat) : t.shadowByte a = if a / 0x400 = k then (look cells a).getD (factoryByte a) else s.shadowByte a := by
  rw [State.shadowByte, h, look_setPage, State.shadowByte]
  split <;> rfl

theorem State.shadowByte_congr {s t : State} (h : t.shadow = s.shadow) (a : Nat) : t.shadowByte a = s.shadowByte a := by
  rw [State.shadowByte, h, State.shadowByte]

/-! The engine -/

/-- The engine's next page changes nothing but the keeper. -/
theorem State.storeNext_frame (n : Nat) (s : State) : s.storeNext n = { s with keeper := (s.storeNext n).keeper } := by
  induction n generalizing s with
  | zero =>
    unfold State.storeNext
    dsimp only
    repeat' split
    all_goals rfl
  | succ n ih =>
    unfold State.storeNext
    dsimp only
    repeat' split
    any_goals rfl
    all_goals
      rw [ih]
      rfl

theorem State.setRun_self {s : State} {j : StoreRun} (h : s.keeper.run = some j) : s.setRun (some j) = s := by
  rw [State.setRun, ← h]

/-- A store with no page left, but a power-fail store, takes none. -/
theorem State.storeNext_nothingLeft {s : State} {j : StoreRun} (n : Nat) (hr : s.keeper.run = some j)
    (hk : j.kind ≠ .powerFail) (hl : j.left = []) : s.storeNext n = s := by
  have hpf : (j.kind == .powerFail) = false := beq_eq_false_iff_ne.mpr hk
  have hself : s.setRun (some { j with left := [] }) = s := by
    rw [← hl]
    exact State.setRun_self hr
  unfold State.storeNext
  simp only [hr, hpf, Bool.false_and, Bool.or_false, Bool.false_eq_true, if_false, hl, State.nextPage]
  split
  · rfl
  · simpa [bne, hpf] using hself

/-- A store takes the first page it has to reach when it may: the page is copied, clean, and the journal names it. -/
theorem State.storeNext_takes {s : State} {j : StoreRun} {k : Nat} {b : Bool} {l : List (Nat × Bool)} (n : Nat)
    (hr : s.keeper.run = some j) (hk : j.kind ≠ .powerFail) (hready : j.ready = true) (hc : j.cur = none)
    (hw : j.waitRewrite = false) (hl : j.left = (k, b) :: l) (hd : (b || s.dirty k) = true) (h240 : k ≠ 240)
    (he : s.emberPage ≠ some k) : s.storeNext n = { s with keeper := { s.keeper with
      run := some { j with left := l, cur := some (k, pageOf s.sram k) }
      dirty := s.keeper.dirty &&& ~~~(BitVec.ofNat 256 (2 ^ k)), tornPage := some k } } := by
  have hpf : (j.kind == .powerFail) = false := beq_eq_false_iff_ne.mpr hk
  have herase : s.erasePage k = false := by simp [State.erasePage, h240]
  have hnext : s.nextPage ((k, b) :: l) = (l, some k) := by
    simp only [State.nextPage, he, if_false, hd, Bool.true_or, if_true]
  unfold State.storeNext
  simp [hr, hpf, hready, hc, hw, hl, hnext, herase]

theorem State.requestStore_begins {s : State} (kind : StoreKind) (pages : List (Nat × Bool)) (hl : s.keeper.locked = false)
    (hr : s.keeper.run = none) : s.requestStore kind pages = s.beginStore kind pages := by
  simp [State.requestStore, hl, hr]

theorem State.requestStore_locked {s : State} (kind : StoreKind) (pages : List (Nat × Bool)) (hl : s.keeper.locked = true) :
    s.requestStore kind pages = s := by
  simp [State.requestStore, hl]

theorem State.beginStore_begun (s : State) (kind : StoreKind) (pages : List (Nat × Bool)) :
    s.StoreBegun kind pages s.keeper.lastEnd (s.beginStore kind pages) := rfl

/-! A page has been written -/

/-- The running store with its page written. -/
def StoreRun.pageWritten (j : StoreRun) : StoreRun := { j with cur := none, written := j.written + 1 }

theorem State.noteStored_frame (s : State) (k : Nat) : s.noteStored k = { s with regs := (s.noteStored k).regs } := by
  unfold State.noteStored
  split <;> rfl

/-- A page whose write has been verified is in the shadow array. -/
def State.pageStored (s : State) (j : StoreRun) (k : Nat) (cells : List Host.Cell) : State :=
  { s with
    shadow := setPage s.shadow k cells
    keeper := { s.keeper with run := some j.pageWritten, tornPage := none } }.noteStored k

theorem State.pageStored_frame (s : State) (j : StoreRun) (k : Nat) (cells : List Host.Cell) : s.pageStored j k cells =
    { s with
      regs := (s.pageStored j k cells).regs, shadow := setPage s.shadow k cells
      keeper := { s.keeper with run := some j.pageWritten, tornPage := none } } :=
  State.noteStored_frame _ k

/-- A page whose write has failed its verify is dirty again, and SFAIL is set. -/
def State.pageFailed (s : State) (j : StoreRun) (k : Nat) : State :=
  let t := (s.tear.setRun (some j.pageWritten)).mark (0x400 * k)
  { t with keeper := { t.keeper with tornPage := none } }.orReg aKpsStat (bitw 2)

section
variable {s : State} {j : StoreRun} {k : Nat} {cells : List Host.Cell}

theorem State.pageDone_true (hr : s.keeper.run = some j) (hc : j.cur = some (k, cells)) :
    s.pageDone true = (s.pageStored j k cells).storeNext 1 := by
  obtain ⟨kind, ready, left, cur, written, startAt, pass1, pass2, wr⟩ := j
  obtain rfl : cur = some (k, cells) := hc
  simp only [State.pageDone, hr, if_true]
  rfl

theorem State.pageDone_false (hr : s.keeper.run = some j) (hc : j.cur = some (k, cells)) :
    s.pageDone false = ((s.pageFailed j k).raise1 srcStore).storeNext 1 := by
  obtain ⟨kind, ready, left, cur, written, startAt, pass1, pass2, wr⟩ := j
  obtain rfl : cur = some (k, cells) := hc
  simp only [State.pageDone, hr, Bool.false_eq_true, if_false]
  rfl

theorem State.tear_frame (s : State) : s.tear = { s with shadow := s.tear.shadow, free := s.tear.free } := by
  unfold State.tear
  split <;> rfl

theorem State.tear_shadow (hr : s.keeper.run = some j) (hc : j.cur = some (k, cells)) :
    s.tear.shadow = setPage s.shadow k (pageFrom k (Config.tornByte s.free)) := by
  obtain ⟨kind, ready, left, cur, written, startAt, pass1, pass2, wr⟩ := j
  obtain rfl : cur = some (k, cells) := hc
  simp only [State.tear, hr]
  rfl

theorem State.tear_noPage (h : ∀ j, s.keeper.run = some j → j.cur = none) : s.tear = s := by
  unfold State.tear
  split
  case h_1 hr => exact absurd (h _ hr) (by simp)
  case h_2 => rfl

theorem State.pageFailed_frame (s : State) (j : StoreRun) (k : Nat) : s.pageFailed j k =
    { s with
      regs := (s.pageFailed j k).regs, shadow := s.tear.shadow, free := s.tear.free
      keeper := { s.keeper with
        run := some j.pageWritten, tornPage := none, dirty := s.keeper.dirty ||| BitVec.ofNat 256 (2 ^ k) } } := by
  have hk : 0x400 * k / 0x400 = k := Nat.mul_div_cancel_left k (by decide)
  unfold State.pageFailed
  rw [s.tear_frame]
  simp only [State.mark, hk]
  rfl

theorem getLsbD_ofNat_two_pow (k : Nat) : (BitVec.ofNat 256 (2 ^ k)).getLsbD k = decide (k < 256) := by
  simp only [BitVec.getLsbD_ofNat, Nat.testBit_two_pow_self, Bool.and_true]

end

/-! Bits of a register -/

theorem tst_setb (w : Word) {i : Nat} (hi : i < 32) (b : Bool) (k : Nat) :
    tst (setb w i b) k = if k = i then b else tst w k := by
  have hbit : (bitw i).getLsbD k = decide (k = i) := by
    rw [bitw, BitVec.getLsbD_ofNat, Nat.testBit_two_pow]
    by_cases h : k = i
    · simp [h, hi]
    · simp [h, Ne.symm h]
  unfold tst setb
  cases b
  · by_cases h : k = i
    · subst h; simp [hbit]
    · have hk : k < 32 ∨ 32 ≤ k := Nat.lt_or_ge k 32
      simp only [Bool.false_eq_true, if_false, BitVec.getLsbD_and, BitVec.getLsbD_not, hbit]
      rcases hk with hk | hk
      · simp [h, hk]
      · simp [h, BitVec.getLsbD_of_ge _ _ hk]
  · by_cases h : k = i
    · subst h; simp [hbit]
    · simp [hbit, h]

theorem State.bit_setBit_self (s : State) (a : Nat) {i : Nat} (hi : i < 32) (b : Bool) : (s.setBit a i b).bit a i = b := by
  rw [State.bit, State.reg_setBit_self, tst_setb _ hi, if_pos rfl]

theorem State.bit_setBit_other (s : State) (a : Nat) {i k : Nat} (hi : i < 32) (hk : k ≠ i) (b : Bool) :
    (s.setBit a i b).bit a k = s.bit a k := by
  rw [State.bit, State.reg_setBit_self, tst_setb _ hi, if_neg hk, State.bit]

theorem State.bit_setBit_ne (s : State) {a c : Nat} (h : c ≠ a) (i k : Nat) (b : Bool) :
    (s.setBit a i b).bit c k = s.bit c k := by
  rw [State.bit, s.reg_setBit_ne h, State.bit]

theorem State.setBit_regsBecome (s : State) (a i : Nat) (b : Bool) : s.RegsBecome [a] (s.setBit a i b) :=
  s.setReg_regsBecome a _

/-! The end of a store -/

/-- The store's report. -/
def State.lastStore (s : State) (j : StoreRun) : State :=
  ((s.setRun none).setLastStore j.written ((s.cycle - j.startAt) / 100)).count 3

theorem State.endStore_alone {s : State} (j : StoreRun) (h : s.keeper.pending = []) :
    s.endStore j = (s.lastStore j).armAutosave := by
  have hcount : ∀ (t : State) (n : Fin 32), (t.count n).keeper.pending = t.keeper.pending := fun t n => by
    unfold State.count
    split
    · rfl
    · split <;> rfl
  have hp : (s.lastStore j).armAutosave.keeper.pending = [] := (hcount _ 3).trans h
  have hq : (((s.setRun none).setLastStore j.written ((s.cycle - j.startAt) / 100)).count 3).armAutosave.keeper.pending = [] := hp
  unfold State.endStore
  simp only [hq]
  rfl

theorem State.forAll_unchanged {α : Type} {s : State} {l : List α} {f : State → α → State} (h : ∀ x ∈ l, f s x = s) :
    s.forAll l f = s := by
  unfold State.forAll
  induction l with
  | nil => rfl
  | cons x l ih =>
    rw [List.foldl_cons, h x (by simp)]
    exact ih fun y hy => h y (by simp [hy])

/-- No host request executes that could wait for the store. -/
theorem State.answerStores_idle {s : State} (h : ∀ p i, (s.sess p i).exec = none) (ended : Nat → Bool) :
    s.answerStores ended = s := by
  refine State.forAll_unchanged fun p _ => State.forAll_unchanged fun i _ => ?_
  simp only [h p i]

theorem State.count_frame (s : State) (n : Fin 32) :
    s.count n = { s with regs := (s.count n).regs, keeper := (s.count n).keeper } := by
  unfold State.count
  split
  · rfl
  · split <;> rfl

theorem State.count_reg_ne (s : State) (n : Fin 32) {a : Nat} (h : a ≠ aKpsStat) : (s.count n).reg a = s.reg a := by
  unfold State.count
  split
  · rfl
  · split
    · exact s.reg_orReg_ne h _
    · rfl

theorem State.count_queue {s : State} (n : Fin 32) (hl : s.keeper.locked = false) (hq : s.keeper.cntQueue = []) :
    (s.count n).keeper.cntQueue = [n] := by
  simp [State.count, hl, hq]

theorem State.lastStore_run (s : State) (j : StoreRun) : (s.lastStore j).keeper.run = none := by
  unfold State.lastStore State.count
  split
  · rfl
  · split <;> rfl

theorem State.lastStore_frame (s : State) (j : StoreRun) :
    s.lastStore j = { s with regs := (s.lastStore j).regs, keeper := (s.lastStore j).keeper } := by
  unfold State.lastStore
  rw [State.count_frame]
  rfl

theorem State.lastStore_reg (s : State) (j : StoreRun) : (s.lastStore j).reg aLastSt =
    put (put 0 15 0 (min ((s.cycle - j.startAt) / 100) 65535)) 24 16 (min j.written 256) :=
  (State.count_reg_ne _ 3 (by decide)).trans ((s.setRun none).reg_setReg_self _ _)

theorem execStoreComplete_eq {s : State} {j : StoreRun} (hf : s.storeFinished = some j) (hk : j.kind ≠ .powerFail)
    (hon : s.fabricOn = true) (hp : s.keeper.pending = []) (hx : ∀ p i, (s.sess p i).exec = none) :
    execStoreComplete s = .next (s.lastStore j).armAutosave := by
  have hpf : (j.kind == .powerFail) = false := beq_eq_false_iff_ne.mpr hk
  have hx' : ∀ p i, (((s.lastStore j).armAutosave).sess p i).exec = none := fun p i => by
    rw [State.lastStore_frame]
    exact hx p i
  simp only [execStoreComplete, hf, hpf, hon, Bool.not_true, Bool.or_false, Bool.false_eq_true, if_false,
    State.endStore_alone j hp]
  rw [State.answerStores_idle hx']

/-! Requests -/

theorem execAutosave_dirty {s : State} (ha : s.autosaveAt ≠ none) (hon : s.fabricOn = true) (hd : s.keeper.dirty ≠ 0) :
    execAutosave s = .next ({ s with keeper := { s.keeper with lastEnd := none } }.requestStore .autosave dirtyPages) := by
  have hs : (s.autosaveAt).isNone = false := by simpa [Option.isSome_iff_ne_none] using ha
  simp only [execAutosave, hs, hon, Bool.not_true, Bool.or_false, Bool.false_eq_true, if_false]
  rw [if_neg hd]

theorem execAutosave_clean {s : State} (ha : s.autosaveAt ≠ none) (hon : s.fabricOn = true) (hd : s.keeper.dirty = 0) :
    execAutosave s = .next s.armAutosave := by
  have hs : (s.autosaveAt).isNone = false := by simpa [Option.isSome_iff_ne_none] using ha
  simp only [execAutosave, hs, hon, Bool.not_true, Bool.or_false, Bool.false_eq_true, if_false]
  rw [if_pos hd]

theorem execStoreShadowReady_eq {s : State} {j : StoreRun} (hr : s.keeper.run = some j) (hj : j.ready = false)
    (hon : s.fabricOn = true) :
    execStoreShadowReady s = .next ((s.setRun (some { j with ready := true })).storeNext 1) := by
  simp [execStoreShadowReady, hr, hj, hon]

theorem execStorePageDone_eq {s : State} (hon : s.fabricOn = true) (v : Bool) :
    execStorePageDone v s = .next (s.pageDone v) := by
  simp [execStorePageDone, hon]

section
variable {s : State} {j : StoreRun} {k : Nat} {cells : List Host.Cell}

/-- After a verified last page nothing is left to take. -/
theorem State.pageDone_last (hr : s.keeper.run = some j) (hc : j.cur = some (k, cells)) (hl : j.left = [])
    (hk : j.kind ≠ .powerFail) : s.pageDone true = s.pageStored j k cells := by
  rw [State.pageDone_true hr hc]
  refine State.storeNext_nothingLeft (j := j.pageWritten) 1 ?_ hk hl
  rw [State.pageStored_frame]

/-- After a failed last page nothing is left to take. -/
theorem State.pageDone_lastFailed (hr : s.keeper.run = some j) (hc : j.cur = some (k, cells)) (hl : j.left = [])
    (hk : j.kind ≠ .powerFail) : s.pageDone false = (s.pageFailed j k).raise1 srcStore := by
  have hrun : (s.pageFailed j k).keeper.run = some j.pageWritten := by rw [State.pageFailed_frame]
  rw [State.pageDone_false hr hc]
  refine State.storeNext_nothingLeft (j := j.pageWritten) 1 ?_ hk hl
  rw [(State.raise1_reports _ _).busy (by simp [hrun])]
  exact hrun

theorem State.pageFailed_raised (hr : s.keeper.run = some j) (hc : j.cur = some (k, cells)) :
    ((s.pageFailed j k).raise1 srcStore).dirty k = decide (k < 256)
      ∧ ((s.pageFailed j k).raise1 srcStore).bit aKpsStat 2 = true
      ∧ (∀ a, a / 0x400 ≠ k → ((s.pageFailed j k).raise1 srcStore).shadowByte a = s.shadowByte a)
      ∧ ∀ a, ((s.pageFailed j k).raise1 srcStore).byte a = s.byte a := by
  have hcol := State.raise1_collects (s.pageFailed j k) srcStore (Collects.rfl' _)
  have hrep := (s.pageFailed j k).raise1_reports srcStore
  have hdirty : (s.pageFailed j k).keeper.dirty = s.keeper.dirty ||| BitVec.ofNat 256 (2 ^ k) := by
    rw [State.pageFailed_frame]
  have hshadow : (s.pageFailed j k).shadow = setPage s.shadow k (pageFrom k (Config.tornByte s.free)) := by
    rw [State.pageFailed_frame]
    exact State.tear_shadow hr hc
  have hbit : (s.pageFailed j k).bit aKpsStat 2 = true := by
    unfold State.pageFailed
    dsimp only
    rw [State.bit, State.reg_orReg_self, tst, BitVec.getLsbD_or]
    simp [bitw]
  refine ⟨?_, ?_, fun a ha => ?_, fun a => ?_⟩
  · rw [State.dirty, hrep.keeper]
    dsimp only
    rw [hdirty, BitVec.getLsbD_or, getLsbD_ofNat_two_pow]
    by_cases h : k < 256
    · simp [h]
    · simp [h, BitVec.getLsbD_of_ge _ _ (Nat.le_of_not_lt h)]
  · rw [State.bit, hrep.regs _ (by unfold reportReg; decide)]
    exact hbit
  · rw [State.shadowByte_congr (s := s.pageFailed j k) (by rw [hcol.fields]), State.shadowByte_setPage hshadow, if_neg ha]
  · refine State.byte_congr ?_ a
    rw [hcol.fields]
    dsimp only
    rw [State.pageFailed_frame]

end

/-- Settles O33: the engine takes one page at a time and the running store changes the keeper and the page's shadow alone. -/
theorem storeController : Obligations.StoreController := by
  unfold Obligations.StoreController
  refine ⟨⟨fun s who hs => ⟨fun hl hr => ⟨⟨_, rfl, ?_⟩, ⟨_, rfl, ?_⟩⟩, fun hl => ⟨?_, ?_⟩⟩, fun s ha hon =>
    ⟨fun hd hl hr => ?_, fun hd => ⟨_, execAutosave_clean ha hon hd, rfl⟩⟩⟩, ⟨?_, ?_, ?_⟩⟩
  · rw [State.fab_serves hs, State.kpsStore, State.requestStore_begins _ _ hl hr]
    exact s.beginStore_begun _ _
  · rw [State.fab_serves hs, State.kpsStoreAll, State.requestStore_begins _ _ hl hr]
    exact s.beginStore_begun _ _
  · show execStore who s = _
    rw [execStore, State.fab_serves hs, State.kpsStore, State.requestStore_locked _ _ hl]
  · show execStoreall who s = _
    rw [execStoreall, State.fab_serves hs, State.kpsStoreAll, State.requestStore_locked _ _ hl]
  · refine ⟨_, execAutosave_dirty ha hon hd, ?_⟩
    rw [State.requestStore_begins (s := { s with keeper := { s.keeper with lastEnd := none } }) _ _ hl hr]
    rfl
  · intro s j k b l hon hr hj hk hc hw hl hd h240 he
    have hnext := State.storeNext_takes (s := s.setRun (some { j with ready := true })) 1 rfl
      (by rw [hk]; decide) rfl hc hw hl hd h240 he
    refine ⟨_, execStoreShadowReady_eq hr hj hon, ?_⟩
    rw [hnext]
    exact ⟨rfl, rfl, rfl, _, rfl, rfl, rfl, rfl, rfl⟩
  · intro s j k cells hon hr hc hl hk
    refine ⟨⟨_, execStorePageDone_eq hon true, ?_⟩, ⟨_, execStorePageDone_eq hon false, ?_⟩⟩
    · rw [State.pageDone_last hr hc hl hk]
      have hf := s.pageStored_frame j k cells
      refine ⟨fun a => State.shadowByte_setPage (by rw [hf]) a, fun a => State.byte_congr (by rw [hf]) a, ?_, ?_, ?_⟩
      · rw [hf]
      · rw [hf]
      · rw [hf]; rfl
    · rw [State.pageDone_lastFailed hr hc hl hk]
      exact State.pageFailed_raised hr hc
  · intro s j hon hf hk hp hx
    have hframe := s.lastStore_frame j
    refine ⟨_, execStoreComplete_eq hf hk hon hp hx, s.lastStore_run j, s.lastStore_reg j, fun hl hq =>
      State.count_queue 3 hl hq, fun a => ⟨State.byte_congr ?_ a, State.shadowByte_congr ?_ a⟩⟩
    · rw [hframe]; rfl
    · rw [hframe]; rfl

/-! The power-fail store -/

theorem State.reg_filtered {s t : State} {p : Nat → Bool} (h : t.regs = s.regs.filter (fun e => p e.1)) {a : Nat}
    (ha : p a = true) : t.reg a = s.reg a := by
  rw [State.reg, h, look_filter_key, if_pos ha, State.reg]

/-- The registers that stand when the device powers down. -/
def downReg (a : Nat) : Bool := alwaysOn a || oringReg a || a == aEstCfg

/-- The state that a power-down leaves, but for MON_VIN and PWR_CLKSTAT. -/
def State.lowState (s : State) : State :=
  let s := s.tear
  let p := s.power
  { State.reset with
    regs := s.regs.filter (fun e => downReg e.1)
    shadow := s.shadow, keeper := s.keeper.journal
    reserve := { s.reserve.kept with tickAt := s.reserve.tickAt }
    tether := { sent := s.tether.sent }, ring := { sent := s.ring.sent }
    power := { phase := .inputLow, vin := p.vin, xFailed := p.xFailed, aoFailed := p.aoFailed }
    protect := { eraseMark := s.protect.eraseMark, eraseTail := s.erasing || s.protect.eraseTail }
    cycle := s.cycle, free := s.free, pending := s.pending }

theorem State.powerDown_eq (s : State) :
    s.powerDown = ((s.lowState.setBit aMonVin 1 true).setBit aMonVin 0 false).setBit aClkStat 29 false := rfl

theorem State.lowState_reg (s : State) {a : Nat} (h : downReg a = true) : s.lowState.reg a = s.reg a := by
  have ht : s.lowState.reg a = s.tear.reg a := State.reg_filtered (p := downReg) rfl h
  rw [ht, s.tear_frame]
  rfl

/-- What a power-down shows beside the registers it keeps. -/
theorem State.powerDown_shows (s : State) : s.powerDown.power.phase = .inputLow ∧ s.powerDown.bit aMonVin 1 = true
    ∧ s.powerDown.bit aMonVin 0 = false ∧ (∀ r, (s.powerDown.ch r).st = .off) ∧ ∀ w, (s.powerDown.wk w).st = .idle := by
  rw [State.powerDown_eq]
  refine ⟨rfl, ?_, ?_, fun r => ?_, fun w => ?_⟩
  · rw [State.bit_setBit_ne _ (by decide), State.bit_setBit_other _ _ (by decide) (by decide),
      State.bit_setBit_self _ _ (by decide)]
  · rw [State.bit_setBit_ne _ (by decide), State.bit_setBit_self _ _ (by decide)]
  · have h : (State.reset.ch r).st = .off := by simp [State.ch, State.reset]
    exact h
  · have h : (State.reset.wk w).st = .idle := by simp [State.wk, State.reset]
    exact h

theorem State.powerDown_rstCause (s : State) (i : Nat) : s.powerDown.bit aRstCause i = s.bit aRstCause i := by
  rw [State.powerDown_eq, State.bit_setBit_ne _ (by decide), State.bit_setBit_ne _ (by decide),
    State.bit_setBit_ne _ (by decide), State.bit, s.lowState_reg (by decide), State.bit]

theorem State.powerDown_shadow {s : State} (h : ∀ j, s.keeper.run = some j → j.cur = none) : s.powerDown.shadow = s.shadow := by
  have ht : s.powerDown.shadow = s.tear.shadow := rfl
  rw [ht, State.tear_noPage h]

theorem State.powerDown_journal {s : State} : s.powerDown.keeper = s.keeper.journal := by
  have ht : s.powerDown.keeper = s.tear.keeper.journal := rfl
  rw [ht, s.tear_frame]

/-- The power-fail store has ended. -/
def State.pfDone (s : State) : State :=
  let s := ((s.setRun none).setBit aRstCause 3 true).setBit aRstCause 4 false
  { s with keeper := { s.keeper with liveMark := false } }

theorem execPowerFailStoreEnd_eq {s : State} {j : StoreRun} (hf : s.storeFinished = some j) (hk : j.kind = .powerFail)
    (hp : j.pass2 = true) : execPowerFailStoreEnd s = .next s.pfDone.powerDown := by
  simp only [execPowerFailStoreEnd, hf, hk, hp, beq_self_eq_true, Bool.and_self, if_true]
  rfl

/-- The power-fail store is abandoned. -/
def State.pfAbandoned (s : State) : State :=
  let s := s.stopErase
  let s := { s with keeper := { s.keeper with abandonMark := true } }
  (s.setBit aRstCause 4 true).setBit aRstCause 3 false

theorem execPfsAbandon_eq {s : State} {j : StoreRun} (hr : s.keeper.run = some j) (hk : j.kind = .powerFail) :
    execPfsAbandon s = .next s.pfAbandoned.powerDown := by
  have h : s.stopErase.keeper.run.any (fun j => j.kind == .powerFail) = true := by
    rw [show s.stopErase.keeper.run = some j from hr, Option.any_some, hk]
    rfl
  unfold execPfsAbandon
  dsimp only
  rw [if_pos h]
  rfl

theorem execVholdCrossing_eq {s : State} (h1 : s.power.phase ≠ .unpowered) (h2 : s.power.phase ≠ .inputLow) (b : Bool) :
    execVholdCrossing b s = .next (s.setBit aKpsStat 25 b) := by
  unfold execVholdCrossing
  split
  · exact absurd ‹_› h1
  · exact absurd ‹_› h2
  · rfl

/-- Settles O34: both ends power the device down with no page in progress, so no page of the shadow array is torn. -/
theorem powerFailStore : Obligations.PowerFailStore := by
  unfold Obligations.PowerFailStore
  refine ⟨fun s j hf hk hp => ?_, fun s j hr hk hc => ?_, fun s b h1 h2 => ?_⟩
  · obtain ⟨hphase, hv1, hv0, hch, hwk⟩ := s.pfDone.powerDown_shows
    refine ⟨_, execPowerFailStoreEnd_eq hf hk hp, hphase, ?_, ?_, ?_, hv1, hv0, fun a => State.shadowByte_congr ?_ a, hch, hwk⟩
    · rw [State.powerDown_journal]; rfl
    · rw [State.powerDown_rstCause]
      exact (State.bit_setBit_other _ _ (by decide) (by decide) _).trans (State.bit_setBit_self _ _ (by decide) _)
    · rw [State.powerDown_rstCause]
      exact State.bit_setBit_self _ _ (by decide) _
    · exact State.powerDown_shadow (s := s.pfDone) (fun j hj => nomatch hj)
  · obtain ⟨hphase, -⟩ := s.pfAbandoned.powerDown_shows
    refine ⟨_, execPfsAbandon_eq hr hk, hphase, ?_, ?_, ?_, ?_, fun a => State.shadowByte_congr ?_ a⟩
    · rw [State.powerDown_journal]; rfl
    · rw [State.powerDown_journal]; rfl
    · rw [State.powerDown_rstCause]
      exact (State.bit_setBit_other _ _ (by decide) (by decide) _).trans (State.bit_setBit_self _ _ (by decide) _)
    · rw [State.powerDown_rstCause]
      exact State.bit_setBit_self _ _ (by decide) _
    · refine State.powerDown_shadow (s := s.pfAbandoned) fun i hi => ?_
      have hij : i = j := Option.some.inj (hi.symm.trans hr)
      rw [hij, hc]
  · exact ⟨_, execVholdCrossing_eq h1 h2 b, s.setBit_regsBecome _ _ _, s.bit_setBit_self _ (by decide) _,
      fun i hi => s.bit_setBit_other _ (by decide) hi _⟩

/-! The key erase -/

theorem State.byte_poke_zeros (s : State) (a n c : Nat) :
    (s.poke a (List.replicate n 0)).byte c = if a ≤ c ∧ c < a + n then 0 else s.byte c := by
  by_cases h : a ≤ c ∧ c < a + n
  · rw [if_pos h, show c = a + (c - a) by omega, State.byte_poke_add _ _ _ _ (by rw [List.length_replicate]; omega),
      List.getElem_replicate]
  · rw [if_neg h, State.byte_poke_ne _ _ _ _ (by rw [List.length_replicate]; omega)]

theorem look_noKeys (m : List Host.Cell) (a : Nat) :
    (look (noKeys m) a).getD (factoryByte a) = if 0x3C000 ≤ a ∧ a < 0x3C080 then 0 else (look m a).getD (factoryByte a) := by
  have hkeys : noKeys m = m.filter (fun e => decide (e.1 < 0x3C000) || decide (0x3C080 ≤ e.1)) := by
    simp [noKeys]
  rw [hkeys, look_filter_key m (fun x => decide (x < 0x3C000) || decide (0x3C080 ≤ x))]
  by_cases h : 0x3C000 ≤ a ∧ a < 0x3C080
  · have hno : (decide (a < 0x3C000) || decide (0x3C080 ≤ a)) = false := by simp; omega
    rw [hno, if_pos h]
    simp [factoryByte, show ¬ a < 0x24000 by omega]
  · have hyes : (decide (a < 0x3C000) || decide (0x3C080 ≤ a)) = true := by simp; omega
    rw [hyes, if_neg h, if_pos rfl]

/-- The slots of the SRAM and of the shadow hold 0, and a copy that a store is writing holds no key. Irreducible, so that no
comparison of states evaluates the bytes written. -/
@[irreducible] def State.keysErased (s : State) : State :=
  let t := s.poke 0x3C000 (List.replicate 0x80 0)
  { t with
    shadow := noKeys t.shadow
    keeper := { t.keeper with run := t.keeper.run.map (fun j => { j with cur := j.cur.map (fun c => (c.1, noKeys c.2)) }) }
    protect := { t.protect with eraseMark := false, eraseTail := false } }

theorem State.endErase_eq (s : State) :
    s.endErase = ((s.keysErased.setBit aSecStat 31 false).orReg aSecStat (bitw 2)).storeNext 1 := by
  unfold State.endErase State.keysErased
  with_reducible rfl

theorem State.keysErased_frame (s : State) : s.keysErased = { s with
    sram := s.keysErased.sram, shadow := noKeys s.shadow, keeper := s.keysErased.keeper
    protect := { s.protect with eraseMark := false, eraseTail := false } } := by
  unfold State.keysErased
  generalize List.replicate 0x80 (0 : Byte) = l
  dsimp only
  rw [State.poke_frame]

theorem State.keysErased_byte (s : State) (a : Nat) :
    s.keysErased.byte a = if 0x3C000 ≤ a ∧ a < 0x3C080 then 0 else s.byte a := by
  have h : s.keysErased.sram = (s.poke 0x3C000 (List.replicate 0x80 0)).sram := by
    unfold State.keysErased
    with_reducible rfl
  rw [State.byte_congr h, State.byte_poke_zeros]

/-- Settles O46: the erase writes 0 to the slots in both memories and takes them out of a copy that a store is writing. -/
theorem keyErase : Obligations.KeyErase := by
  unfold Obligations.KeyErase
  refine ⟨fun s who hs he => ⟨_, rfl, ?_⟩, fun s hon he => ?_, fun s hon he ht => ?_⟩
  · have hstart : s.startErase = { s.setBit aSecStat 31 true with protect := { s.protect with eraseMark := true } } := by
      simp [State.startErase, he]
    rw [State.fab_serves hs, hstart]
    exact ⟨s.bit_setBit_self _ (by decide) _, rfl, rfl, fun a ha => s.reg_setBit_ne ha _ _⟩
  · have hrun : execKeyEraseDone s = .next s.endErase := by simp [execKeyEraseDone, hon, he]
    have hk := s.keysErased_frame
    have hf : s.endErase = { (s.keysErased.setBit aSecStat 31 false).orReg aSecStat (bitw 2) with
        keeper := s.endErase.keeper } := by
      rw [s.endErase_eq]
      exact State.storeNext_frame 1 _
    have hreg : s.endErase.reg aSecStat = setb (s.keysErased.reg aSecStat) 31 false ||| bitw 2 := by
      rw [hf]
      exact (State.reg_orReg_self _ _ _).trans (by rw [State.reg_setBit_self])
    refine ⟨_, hrun, ?_, ?_, ?_, fun a => ?_, fun a => ?_, ?_⟩
    · rw [State.erasing, State.bit, hreg, tst, BitVec.getLsbD_or]
      rw [← tst, tst_setb _ (by decide), if_pos rfl]
      rfl
    · rw [State.bit, hreg, tst, BitVec.getLsbD_or]
      simp [bitw]
    · rw [hf]
      exact congrArg (fun t => t.protect.eraseMark) hk
    · rw [← s.keysErased_byte a]
      exact State.byte_congr (by rw [hf]; rfl) a
    · have hsh : s.endErase.shadow = noKeys s.shadow := by
        rw [hf]
        exact congrArg State.shadow hk
      rw [State.shadowByte, hsh, look_noKeys, State.shadowByte]
    · rw [hf]
      dsimp only
      rw [hk]
      rfl
  · have hrun : execKeyEraseDone s = .next s.endTail := by simp [execKeyEraseDone, hon, he, ht]
    exact ⟨_, hrun, fun a => look_noKeys s.sram a, fun a => look_noKeys s.shadow a, rfl⟩

end Sys2Proof.Machine
end


section
/-! PROOFS. The locks and register writes (O45), tamper detection (O47) and the JTAG port (O48). -/

namespace Sys2Proof.Machine
open Sys2Proof

/-! Locks -/

theorem State.reg_congr {s t : State} (h : t.regs = s.regs) (a : Nat) : t.reg a = s.reg a := by
  rw [State.reg, h, State.reg]

theorem State.bit_congr {s t : State} {a : Nat} (h : t.reg a = s.reg a) (i : Nat) : t.bit a i = s.bit a i := by
  rw [State.bit, h, State.bit]

/-- Registers of a list, each set to 0. -/
theorem State.forAll_zero {l : List Nat} (f : Nat → Nat) (s : State) :
    s.RegsBecome (l.map f) (s.forAll l (fun s k => s.setReg (f k) 0))
      ∧ ∀ k ∈ l, (s.forAll l (fun s k => s.setReg (f k) 0)).reg (f k) = 0 := by
  unfold State.forAll
  induction l generalizing s with
  | nil => exact ⟨⟨rfl, fun _ _ => rfl⟩, fun k hk => nomatch hk⟩
  | cons j l ih =>
    obtain ⟨⟨hrest, hregs⟩, hzero⟩ := ih (s.setReg (f j) 0)
    refine ⟨⟨hrest.trans rfl, fun a ha => ?_⟩, fun k hk => ?_⟩
    · rw [List.map_cons, List.mem_cons, not_or] at ha
      exact (hregs a ha.2).trans (s.reg_setReg_ne ha.1 _)
    · by_cases hkl : f k ∈ l.map f
      · obtain ⟨i, hi, he⟩ := List.mem_map.mp hkl
        rw [← he]
        exact hzero i hi
      · obtain rfl : k = j := (List.mem_cons.mp hk).resolve_right fun h => hkl (List.mem_map_of_mem h)
        exact (hregs _ hkl).trans (s.reg_setReg_self _ _)

theorem State.setLocks_plain (s : State) {v : Word} (h6 : v &&& 0x3F = v) (h4 : tst v 4 = false) (h5 : tst v 5 = false) :
    s.setLocks v = s.orReg aLock v := by
  simp only [State.setLocks, h6, h4, h5, Bool.false_eq_true, if_false]

theorem State.setLocks_debug (s : State) :
    s.setLocks (bitw 4) = { s.orReg aLock (bitw 4) with protect := s.protect.closeJtag } := by
  have h4 : tst (bitw 4) 4 = true := by decide
  have h5 : tst (bitw 4) 5 = false := by decide
  have h6 : bitw 4 &&& 0x3F = bitw 4 := by decide
  simp only [State.setLocks, h4, h5, h6, Bool.false_eq_true, if_false, if_true, State.orReg_protect]

theorem State.setLocks_inject (s : State) : s.setLocks (bitw 5) = (s.orReg aLock (bitw 5)).disarmAll := by
  have h4 : tst (bitw 5) 4 = false := by decide
  have h5 : tst (bitw 5) 5 = true := by decide
  have h6 : bitw 5 &&& 0x3F = bitw 5 := by decide
  simp only [State.setLocks, h4, h5, h6, Bool.false_eq_true, if_false, if_true]

theorem Protect.closeJtag_eq (p : Protect) : p.closeJtag =
    if p.jtag = .extest ∨ p.jtag = .priv then { p with jtag := .bypass, jtagOut := 0 } else p := by
  simp [Protect.closeJtag]

/-- A lock that guards nothing else. -/
theorem State.setLocks_locks {s : State} (hs : s.serves = true) {v : Word} (h6 : v &&& 0x3F = v) (h4 : tst v 4 = false)
    (h5 : tst v 5 = false) : s.RegsBecome [aLock] (s.fab (fun s => s.setLocks v))
      ∧ (s.fab (fun s => s.setLocks v)).reg aLock = s.reg aLock ||| v := by
  rw [State.fab_serves hs, s.setLocks_plain h6 h4 h5]
  exact ⟨s.orReg_regsBecome _ _, s.reg_orReg_self _ _⟩

theorem aInjArm_ne_aLock {k : Nat} (h : k < 12) : aInjArm k ≠ aLock := by
  simp only [aInjArm, aFlt, aLock, aSec]
  omega

theorem State.setLocks_inject_locks (s : State) :
    s.RegsBecome (aLock :: (List.range 12).map aInjArm) (s.setLocks (bitw 5))
      ∧ (s.setLocks (bitw 5)).reg aLock = s.reg aLock ||| 32 ∧ ∀ k, k < 12 → (s.setLocks (bitw 5)).reg (aInjArm k) = 0 := by
  obtain ⟨⟨hrest, hregs⟩, hzero⟩ := State.forAll_zero (l := List.range 12) aInjArm (s.orReg aLock (bitw 5))
  rw [s.setLocks_inject]
  refine ⟨⟨hrest.trans rfl, fun a ha => ?_⟩, ?_, fun k hk => hzero k (List.mem_range.mpr hk)⟩
  · rw [List.mem_cons, not_or] at ha
    exact (hregs a ha.2).trans (s.reg_orReg_ne ha.1 _)
  · refine (hregs aLock fun h => ?_).trans (s.reg_orReg_self _ _)
    obtain ⟨k, hk, he⟩ := List.mem_map.mp h
    exact aInjArm_ne_aLock (List.mem_range.mp hk) he

/-! Register writes -/

theorem State.regWrite_aPwrCtl (s : State) (who : Who) (v : Word) : s.regWrite who aPwrCtl v =
    if s.lockCfg then (s.orReg aPwrStat (bitw 0), false) else (s.setReg aPwrCtl (v &&& 0xC0000000#32), true) := by
  have hb : aPwrCtl / 0x10000 = 0x100B := by decide
  simp only [State.regWrite, hb, State.pwrWrite, true_or, if_true, Bool.not_true, Bool.or_false, Option.getD_some]

theorem State.regWrite_aSeqStat (s : State) (who : Who) (v : Word) :
    s.regWrite who aSeqStat v = (s.clrReg aSeqStat (v &&& 3), true) := by
  have hb : aSeqStat / 0x10000 = 0x1003 := by decide
  have h1 : aSeqStat ≠ aSeqCtl := by decide
  simp only [State.regWrite, hb, State.seqWrite, h1, if_false, if_true, Option.getD_some]

section
variable (r : Rail)

theorem aCh_window {off : Nat} (h : off < 0x100) (h4 : off % 4 = 0) : regWindow (aCh r off) = true ∧ aCh r off % 4 = 0
    ∧ aCh r off / 0x10000 = 0x1000 ∧ aCh r off % 0x10000 = 0x100 * r.val + off := by
  have ha : aCh r off = 0x10000000 + (0x100 * r.val + off) := by rw [aCh]; omega
  refine ⟨?_, by omega, by omega, by omega⟩
  simp only [regWindow, Bool.or_eq_true, Bool.and_eq_true, decide_eq_true_eq]
  omega

theorem eventBits_aCh {off : Nat} (h : off < 0x100) (h4 : off % 4 = 0) (hf : off ≠ 0x2C) : eventBits (aCh r off) = 0 := by
  obtain ⟨-, -, hb, hm⟩ := aCh_window r h h4
  simp only [eventBits, hb, hm]
  rw [if_neg (by omega)]

/-- A write of a channel register goes to its rail by its offset. -/
theorem State.regWrite_aCh (s : State) (who : Who) {off : Nat} (h : off < 0x100) (h4 : off % 4 = 0) (v : Word) :
    s.regWrite who (aCh r off) v = (s.chWrite who (aCh r off) v).getD (s, true) := by
  obtain ⟨-, -, hb, -⟩ := aCh_window r h h4
  simp only [State.regWrite, hb]

theorem aCh_parts {off : Nat} (h : off < 0x100) (h4 : off % 4 = 0) : ¬ 0x4000 ≤ aCh r off % 0x10000
    ∧ (Fin.ofNat 64 (aCh r off % 0x10000 / 0x100) : Rail) = r ∧ aCh r off % 0x10000 % 0x100 = off := by
  obtain ⟨-, -, -, hm⟩ := aCh_window r h h4
  refine ⟨by omega, Fin.ext ?_, by omega⟩
  simp only [Fin.ofNat, hm]
  omega

theorem State.chWrite_aChState (s : State) (who : Who) (v : Word) : s.chWrite who (aChState r) v = none := by
  obtain ⟨h1, -, h3⟩ := aCh_parts r (off := 0x28) (by decide) (by decide)
  simp only [State.chWrite, aChState, h1, if_false, h3]

theorem State.chWrite_aChTon (s : State) (who : Who) (v : Word) :
    s.chWrite who (aChTon r) v = some (s.chStore r (aChTon r) (v &&& 0x03FFFFFF#32) true) := by
  obtain ⟨h1, h2, h3⟩ := aCh_parts r (off := 0x14) (by decide) (by decide)
  simp only [State.chWrite, aChTon, h1, if_false, h2, h3]

theorem execRegisterWrite_aCh {s : State} (hs : s.serves = true) (who : Who) {off : Nat} (h : off < 0x100) (h4 : off % 4 = 0)
    (hf : off ≠ 0x2C) (v hw : Word) : exec (.registerWrite who (aCh r off) v hw) s =
      .next ((s.chWrite who (aCh r off) v).getD (s, true)).1 := by
  obtain ⟨hwin, hal, -, -⟩ := aCh_window r h h4
  rw [execRegisterWrite_eq hs hwin hal, landed_of_eventBits (eventBits_aCh r h h4 hf), s.regWrite_aCh r who h h4]

end

/-- Settles O45: each lock and each write goes to its register; what a lock guards follows it. -/
theorem locksAndWrites : Obligations.LocksAndWrites := by
  unfold Obligations.LocksAndWrites
  refine ⟨fun s who hs => ⟨⟨_, rfl, State.setLocks_locks hs (by decide) (by decide) (by decide)⟩,
    ⟨_, rfl, State.setLocks_locks hs (by decide) (by decide) (by decide)⟩,
    ⟨_, rfl, State.setLocks_locks hs (by decide) (by decide) (by decide)⟩,
    ⟨_, rfl, State.setLocks_locks hs (by decide) (by decide) (by decide)⟩, ⟨_, rfl, ?_⟩, ⟨_, rfl, ?_⟩⟩,
    fun s who v hw r hs => ⟨fun hl => ?_, fun hl => ?_, ?_, fun hl => ?_, ?_⟩⟩
  · rw [State.fab_serves hs, s.setLocks_debug]
    exact ⟨s.orReg_regsBecome _ _, s.reg_orReg_self _ _, s.protect.closeJtag_eq⟩
  · rw [State.fab_serves hs]
    exact s.setLocks_inject_locks
  · have hx := execRegisterWrite_eq hs (a := aPwrCtl) (by decide) (by decide) who v hw
    rw [landed_of_eventBits (by decide), s.regWrite_aPwrCtl, hl] at hx
    exact ⟨_, hx, s.setReg_regsBecome _ _, s.reg_setReg_self _ _⟩
  · have hx := execRegisterWrite_eq hs (a := aPwrCtl) (by decide) (by decide) who v hw
    rw [landed_of_eventBits (by decide), s.regWrite_aPwrCtl, hl] at hx
    exact ⟨_, hx, s.orReg_regsBecome _ _, s.reg_orReg_self _ _⟩
  · have hx := execRegisterWrite_aCh r hs who (off := 0x28) (by decide) (by decide) (by decide) v hw
    rwa [← aChState, s.chWrite_aChState] at hx
  · have hx := execRegisterWrite_aCh r hs who (off := 0x14) (by decide) (by decide) (by decide) v hw
    have hstore : s.chStore r (aChTon r) (v &&& 0x03FFFFFF#32) true = (s.setReg (aChTon r) (v &&& 0x03FFFFFF#32), true) := by
      simp [State.chStore, hl]
    rw [← aChTon, s.chWrite_aChTon, hstore] at hx
    exact ⟨_, hx, s.setReg_regsBecome _ _, s.reg_setReg_self _ _⟩
  · have hx := execRegisterWrite_eq hs (a := aSeqStat) (by decide) (by decide) who v hw
    have hmask : landed aSeqStat v hw &&& 3 = v &&& ~~~hw &&& 3 :=
      (landed_and_eventBits (a := aSeqStat) (by decide) v hw)
    rw [s.regWrite_aSeqStat, hmask] at hx
    exact ⟨_, hx, s.clrReg_regsBecome _ _, s.reg_clrReg_self _ _⟩

/-! Tamper detection -/

theorem getLsbD_detect_on (x : BitVec 5) (i : Fin 5) : (x ||| BitVec.ofNat 5 (2 ^ i.val)).getLsbD i = true := by
  rw [BitVec.getLsbD_or, BitVec.getLsbD_ofNat, Nat.testBit_two_pow_self]
  simp [i.isLt]

theorem getLsbD_detect_off (x : BitVec 5) (i : Fin 5) : (x &&& ~~~(BitVec.ofNat 5 (2 ^ i.val))).getLsbD i = false := by
  rw [BitVec.getLsbD_and, BitVec.getLsbD_not, BitVec.getLsbD_ofNat, Nat.testBit_two_pow_self]
  simp [i.isLt]

/-- The present detection of a source. -/
def State.detectIs (s : State) (i : Fin 5) (on : Bool) : State :=
  { s with protect := { s.protect with
    detect := if on then s.protect.detect ||| BitVec.ofNat 5 (2 ^ i.val)
      else s.protect.detect &&& ~~~(BitVec.ofNat 5 (2 ^ i.val)) } }

theorem State.detectIs_detect (s : State) (i : Fin 5) (on : Bool) : (s.detectIs i on).protect.detect.getLsbD i = on := by
  cases on
  · exact getLsbD_detect_off _ i
  · exact getLsbD_detect_on _ i

theorem State.detection_eq (s : State) (i : Fin 5) (on : Bool) : s.detection i on =
    if on && !s.protect.detect.getLsbD i then (s.detectIs i on).alarm i else s.detectIs i on := rfl

theorem State.detection_level {s : State} {i : Fin 5} {on : Bool} (h : on = false ∨ s.protect.detect.getLsbD i = true) :
    s.detection i on = s.detectIs i on := by
  rw [s.detection_eq]
  rcases h with h | h <;> simp [h]

theorem State.detection_rise {s : State} {i : Fin 5} (h : s.protect.detect.getLsbD i = false) :
    s.detection i true = (s.detectIs i true).alarm i := by
  rw [s.detection_eq, h]
  rfl

/-- The latch bit of a source, and the count of its first detection. -/
def State.latchAlarm (s : State) (i : Fin 5) : State :=
  if !s.bit aAlarm i then (s.orReg aAlarm (bitw i)).count 12 else s.orReg aAlarm (bitw i)

theorem State.latchAlarm_frame (s : State) (i : Fin 5) :
    s.latchAlarm i = { s with regs := (s.latchAlarm i).regs, keeper := (s.latchAlarm i).keeper } := by
  unfold State.latchAlarm
  split
  · rw [State.count_frame]
    rfl
  · rfl

theorem State.latchAlarm_bit (s : State) (i : Fin 5) : (s.latchAlarm i).bit aAlarm i = true := by
  have hor : (s.orReg aAlarm (bitw i)).bit aAlarm i = true := by
    rw [State.bit, State.reg_orReg_self, tst, BitVec.getLsbD_or, bitw, BitVec.getLsbD_ofNat, Nat.testBit_two_pow_self]
    simp [show i.val < 32 by omega]
  unfold State.latchAlarm
  split
  · rw [State.bit_congr (State.count_reg_ne _ _ (by decide))]
    exact hor
  · exact hor

theorem State.latchAlarm_reg (s : State) (i : Fin 5) {a : Nat} (h1 : a ≠ aAlarm) (h2 : a ≠ aKpsStat) :
    (s.latchAlarm i).reg a = s.reg a := by
  unfold State.latchAlarm
  split
  · rw [State.count_reg_ne _ _ h2, State.reg_orReg_ne _ h1]
  · rw [State.reg_orReg_ne _ h1]

/-- The actions of an alarm but its raise: at once, or with the RUN after a sleep state. -/
def State.alarmActs (s : State) : State :=
  if s.asleep then { s.startWake with protect := { s.protect with
    lateClose := s.protect.lateClose || s.bit aAlarmAct 1, lateErase := s.protect.lateErase || s.bit aAlarmAct 3 } }
  else s.fabricActions (s.bit aAlarmAct 1) (s.bit aAlarmAct 3)

theorem State.alarm_eq (s : State) (i : Fin 5) : s.alarm i =
    if !s.bit aAlarm i && ((s.latchAlarm i).alarmActs).bit aAlarmAct 0 then
      ((s.latchAlarm i).alarmActs).raise1 srcTamper else (s.latchAlarm i).alarmActs := by
  unfold State.alarm State.alarmActs State.latchAlarm
  dsimp only

theorem State.closeSession_frame (s : State) (p : Fin 2) (i : Fin 4) :
    s.closeSession p i = { s with hosts := (s.closeSession p i).hosts } := by
  unfold State.closeSession
  dsimp only
  split <;> rfl

theorem State.forAll_closes {α : Type} {f : State → α → State} (hf : ∀ s x, f s x = { s with hosts := (f s x).hosts })
    (s : State) (l : List α) : s.forAll l f = { s with hosts := (s.forAll l f).hosts } := by
  unfold State.forAll
  induction l generalizing s with
  | nil => rfl
  | cons x l ih =>
    rw [List.foldl_cons, ih, hf s x]

theorem State.closeAll_frame (s : State) : s.closeAll = { s with hosts := s.closeAll.hosts } :=
  State.forAll_closes (fun s p => State.forAll_closes (fun s i => s.closeSession_frame p i) s _) s _

theorem State.closeSession_closed (s : State) (p : Fin 2) (i : Fin 4) : ((s.closeSession p i).sess p i).isOpen = false := by
  unfold State.closeSession
  dsimp only
  split
  case isTrue h => simpa using h
  case isFalse h => simp [State.sess, State.setSess]

theorem State.closeSession_keepsClosed (s : State) (p q : Fin 2) (i j : Fin 4) (h : (s.sess q j).isOpen = false) :
    ((s.closeSession p i).sess q j).isOpen = false := by
  by_cases he : p = q ∧ i = j
  · obtain ⟨rfl, rfl⟩ := he
    exact s.closeSession_closed p i
  · have hsame : (s.closeSession p i).sess q j = s.sess q j := by
      unfold State.closeSession
      dsimp only
      split
      · rfl
      · by_cases hp : p = q
        · subst hp
          have hij : i.val ≠ j.val := fun h => he ⟨rfl, Fin.ext h⟩
          simp [State.sess, State.setSess, hij]
        · have hpq : p.val ≠ q.val := fun h => hp (Fin.ext h)
          simp [State.sess, State.setSess, hpq]
    rw [hsame]
    exact h

theorem State.forAll_reaches {α : Type} {f : State → α → State} {P : State → Prop} {l : List α} {x : α} (hx : x ∈ l)
    (hset : ∀ s, P (f s x)) (hkeep : ∀ s y, P s → P (f s y)) (s : State) : P (s.forAll l f) := by
  have hrest : ∀ (l : List α) (s : State), P s → P (s.forAll l f) := by
    intro l
    induction l with
    | nil => exact fun s h => h
    | cons y l ih => exact fun s h => ih _ (hkeep s y h)
  induction l generalizing s with
  | nil => exact absurd hx (by simp)
  | cons y l ih =>
    rcases List.mem_cons.mp hx with rfl | h
    · exact hrest l _ (hset s)
    · exact ih h _

theorem State.closeAll_closed (s : State) (p : Fin 2) (i : Fin 4) : (s.closeAll.sess p i).isOpen = false := by
  refine State.forAll_reaches (P := fun s => (s.sess p i).isOpen = false) (List.mem_finRange p) (fun s => ?_)
    (fun s q h => ?_) s
  · exact State.forAll_reaches (P := fun s => (s.sess p i).isOpen = false) (List.mem_finRange i)
      (fun s => s.closeSession_closed p i) (fun s j h => s.closeSession_keepsClosed p p j i h) s
  · unfold State.forAll
    generalize List.finRange 4 = l
    induction l generalizing s with
    | nil => exact h
    | cons j l ih => exact ih _ (s.closeSession_keepsClosed q p j i h)

theorem State.startErase_frame (s : State) :
    s.startErase = { s with regs := s.startErase.regs, protect := s.startErase.protect } := by
  unfold State.startErase
  split <;> rfl

theorem State.startErase_reg (s : State) {a : Nat} (h : a ≠ aSecStat) : s.startErase.reg a = s.reg a := by
  unfold State.startErase
  split
  · rfl
  · exact s.reg_setBit_ne h _ _

theorem State.startErase_detect (s : State) : s.startErase.protect.detect = s.protect.detect := by
  unfold State.startErase
  split <;> rfl

/-- What the actions of an alarm leave: the latch bits and the detections stand, and with CLOSE every session is closed. -/
theorem State.fabricActions_leaves (s : State) (close erase : Bool) : (∀ a, a ≠ aSecStat →
    (s.fabricActions close erase).reg a = s.reg a) ∧ (s.fabricActions close erase).protect.detect = s.protect.detect
      ∧ (close = true → ∀ p i, ((s.fabricActions close erase).sess p i).isOpen = false) := by
  have hclose : ∀ t : State, (∀ a, t.closeAll.reg a = t.reg a) ∧ t.closeAll.protect = t.protect := fun t =>
    ⟨State.reg_congr (by rw [t.closeAll_frame]), by rw [t.closeAll_frame]⟩
  have hsess : ∀ (t : State) (p : Fin 2) (i : Fin 4), t.startErase.sess p i = t.sess p i := fun t p i => by
    rw [t.startErase_frame]
    rfl
  unfold State.fabricActions
  cases close <;> cases erase <;> simp only [Bool.false_eq_true, if_false, if_true]
  · exact ⟨fun _ _ => trivial, trivial, (fun h => nomatch h)⟩
  · exact ⟨fun a ha => s.startErase_reg ha, s.startErase_detect, (fun h => nomatch h)⟩
  · exact ⟨fun a _ => (hclose s).1 a, by simp [(hclose s).2], fun _ p i => s.closeAll_closed p i⟩
  · refine ⟨fun a ha => (State.startErase_reg _ ha).trans ((hclose s).1 a), ?_, fun _ p i => ?_⟩
    · exact (State.startErase_detect _).trans (by simp [(hclose s).2])
    · exact (congrArg Session.isOpen (hsess s.closeAll p i)).trans (s.closeAll_closed p i)

theorem State.alarmActs_awake {s : State} (h : s.asleep = false) :
    s.alarmActs = s.fabricActions (s.bit aAlarmAct 1) (s.bit aAlarmAct 3) := by
  rw [State.alarmActs, h]
  rfl

theorem State.latchAlarm_asleep (s : State) (i : Fin 5) : (s.latchAlarm i).asleep = s.asleep := by
  rw [s.latchAlarm_frame]
  rfl

theorem State.latchAlarm_act (s : State) (i : Fin 5) (k : Nat) : (s.latchAlarm i).bit aAlarmAct k = s.bit aAlarmAct k :=
  State.bit_congr (s.latchAlarm_reg i (by decide) (by decide)) k

/-- What a detection of a source, awake, leaves standing. -/
theorem State.alarm_awake {s : State} (h : s.asleep = false) (i : Fin 5) : (s.alarm i).bit aAlarm i = true
    ∧ (s.alarm i).protect.detect = s.protect.detect
      ∧ (s.bit aAlarmAct 1 = true → ∀ p j, ((s.alarm i).sess p j).isOpen = false) := by
  have hactsEq := State.alarmActs_awake ((s.latchAlarm_asleep i).trans h)
  obtain ⟨hreg, hdet, hclosed⟩ := (s.latchAlarm i).fabricActions_leaves ((s.latchAlarm i).bit aAlarmAct 1)
    ((s.latchAlarm i).bit aAlarmAct 3)
  rw [← hactsEq] at hreg hdet hclosed
  have hacts : (s.latchAlarm i).alarmActs.bit aAlarm i = true ∧ (s.latchAlarm i).alarmActs.protect.detect = s.protect.detect
      ∧ (s.bit aAlarmAct 1 = true → ∀ p j, ((s.latchAlarm i).alarmActs.sess p j).isOpen = false) := by
    refine ⟨(State.bit_congr (hreg _ (by decide)) _).trans (s.latchAlarm_bit i), hdet.trans ?_, fun hc =>
      hclosed ((s.latchAlarm_act i 1).trans hc)⟩
    rw [s.latchAlarm_frame]
  obtain ⟨h1, h2, h3⟩ := hacts
  rw [s.alarm_eq]
  split
  · have hcol := State.raise1_collects (s.latchAlarm i).alarmActs srcTamper (Collects.rfl' _)
    have hrep := (s.latchAlarm i).alarmActs.raise1_reports srcTamper
    refine ⟨(State.bit_congr (hrep.regs _ (by unfold reportReg; decide)) _).trans h1, ?_, fun hc p j => ?_⟩
    · rw [hcol.fields]
      exact h2
    · rw [hcol.fields]
      exact h3 hc p j
  · exact ⟨h1, h2, h3⟩

theorem State.detection_detects {s : State} (h : s.asleep = false) (i : Fin 5) (on : Bool) :
    s.detects i on (s.detection i on) := by
  cases on with
  | false =>
    rw [State.detection_level (.inl rfl)]
    exact ⟨s.detectIs_detect i false, fun _ => rfl, (fun h => nomatch h)⟩
  | true =>
    cases hd : s.protect.detect.getLsbD i with
    | true =>
      rw [State.detection_level (.inr hd)]
      refine ⟨s.detectIs_detect i true, (fun h => nomatch h), fun _ hd' => ?_⟩
      rw [hd] at hd'
      exact nomatch hd'
    | false =>
      obtain ⟨h1, h2, h3⟩ := State.alarm_awake (s := s.detectIs i true) h i
      rw [State.detection_rise hd]
      exact ⟨by rw [h2]; exact s.detectIs_detect i true, (fun h => nomatch h), fun _ _ => ⟨h1, h3⟩⟩

theorem State.glitch_watched {s : State} (hr : s.tamperRuns = true) {en : Nat} (he : s.bit aTampCfg en = true) (i : Fin 5)
    (on : Bool) : s.glitch i en on = s.detection i on := by
  simp [State.glitch, hr, he]

/-! The static loop -/

/-- The mismatches of loop 0 counted. -/
def State.missed (s : State) (n : Nat) : State :=
  { s with protect := { s.protect with miss := s.protect.miss.set (0 : Fin 2) n } }

theorem State.loopSample_static {s : State} (hr : s.tamperRuns = true) (h29 : s.bit aTampCfg 29 = true)
    (h28 : s.bit aTampCfg 28 = false) (sensed : Bool) : s.loopSample false sensed =
      let n := if sensed then 0 else min (s.protect.miss[(0 : Fin 2)] + 1) 256
      (s.missed n).detection 0 (decide (max 1 (s.fld aTampCfg 7 0) ≤ n)) := by
  cases sensed <;> simp [State.loopSample, hr, h29, h28, State.missed]
  all_goals rfl

theorem State.missed_miss (s : State) (n : Nat) : (s.missed n).protect.miss[(0 : Fin 2)] = n := by
  simp [State.missed]

/-- A detection with no action chosen. -/
theorem State.alarm_quiet {s : State} (h : s.asleep = false) (ha : s.reg aAlarmAct = 0) (i : Fin 5) :
    s.alarm i = s.latchAlarm i := by
  have hact : ∀ k, (s.latchAlarm i).bit aAlarmAct k = false := fun k => by
    rw [s.latchAlarm_act, State.bit, ha]
    exact BitVec.getLsbD_zero
  have hacts : (s.latchAlarm i).alarmActs = s.latchAlarm i := by
    rw [State.alarmActs_awake ((s.latchAlarm_asleep i).trans h), hact, hact]
    rfl
  rw [s.alarm_eq, hacts, hact, Bool.and_false]
  rfl

/-! A sleep state -/

theorem State.alarmActs_asleep {s : State} (h : s.asleep = true) : s.alarmActs = { s with
    power := { s.power with waking := true }
    protect := { s.protect with
      lateClose := s.protect.lateClose || s.bit aAlarmAct 1, lateErase := s.protect.lateErase || s.bit aAlarmAct 3 } } := by
  rw [State.alarmActs, h, State.startWake, h]
  rfl

theorem State.alarm_asleep {s : State} (h : s.asleep = true) (i : Fin 5) : (s.alarm i).bit aAlarm i = true
    ∧ (s.alarm i).power = { s.power with waking := true }
    ∧ (s.alarm i).protect.lateClose = (s.protect.lateClose || s.bit aAlarmAct 1)
    ∧ (s.alarm i).protect.lateErase = (s.protect.lateErase || s.bit aAlarmAct 3)
    ∧ (s.alarm i).hosts = s.hosts ∧ (s.alarm i).erasing = s.erasing := by
  have hactsEq := State.alarmActs_asleep ((s.latchAlarm_asleep i).trans h)
  rw [s.latchAlarm_act, s.latchAlarm_act] at hactsEq
  have hlf := s.latchAlarm_frame i
  have hreg : ∀ a, (s.latchAlarm i).alarmActs.reg a = (s.latchAlarm i).reg a := fun a => by
    rw [hactsEq]
    rfl
  have hpower : (s.latchAlarm i).alarmActs.power = { s.power with waking := true } := by
    rw [hactsEq]
    dsimp only
    rw [hlf]
  have hprotect : (s.latchAlarm i).alarmActs.protect = { s.protect with
      lateClose := s.protect.lateClose || s.bit aAlarmAct 1, lateErase := s.protect.lateErase || s.bit aAlarmAct 3 } := by
    rw [hactsEq]
    dsimp only
    rw [hlf]
  have hhosts : (s.latchAlarm i).alarmActs.hosts = s.hosts := by
    rw [hactsEq]
    dsimp only
    rw [hlf]
  have hbit : (s.latchAlarm i).alarmActs.bit aAlarm i = true := (State.bit_congr (hreg _) _).trans (s.latchAlarm_bit i)
  have herase : (s.latchAlarm i).alarmActs.erasing = s.erasing :=
    State.bit_congr ((hreg aSecStat).trans (s.latchAlarm_reg i (by decide) (by decide))) 31
  rw [s.alarm_eq]
  split
  · have hcol := State.raise1_collects (s.latchAlarm i).alarmActs srcTamper (Collects.rfl' _)
    have hrep := (s.latchAlarm i).alarmActs.raise1_reports srcTamper
    have hp : ((s.latchAlarm i).alarmActs.raise1 srcTamper).protect = (s.latchAlarm i).alarmActs.protect := by
      rw [hcol.fields]
    refine ⟨(State.bit_congr (hrep.regs _ (by unfold reportReg; decide)) _).trans hbit, ?_, by rw [hp, hprotect],
      by rw [hp, hprotect], ?_, (State.bit_congr (hrep.regs _ (by unfold reportReg; decide)) _).trans herase⟩
    · rcases hrep.power with hw | hw <;> rw [hw, hpower]
    · rw [hcol.fields]
      exact hhosts
  · exact ⟨hbit, hpower, by rw [hprotect], by rw [hprotect], hhosts, herase⟩

/-- Settles O47: the level of a source is its detection, and its rise is an alarm, whose actions wait for RUN in a sleep
state. -/
theorem tamperDetection : Obligations.TamperDetection := by
  unfold Obligations.TamperDetection
  refine ⟨fun s hr hs h29 h28 ha => ⟨fun hlt => ?_, fun hle h256 hd => ?_, ?_⟩, fun s on hr hs => ⟨fun he => ?_, fun he => ?_,
    fun he hh => ?_⟩, fun s hr hs he hd => ?_⟩
  · have hfld : s.fld aTampCfg 7 0 < 256 := Nat.mod_lt _ (by decide)
    have hn : min (s.protect.miss[(0 : Fin 2)] + 1) 256 = s.protect.miss[(0 : Fin 2)] + 1 := by omega
    have hx := State.loopSample_static hr h29 h28 false
    simp only [Bool.false_eq_true, if_false, hn, decide_eq_false (Nat.not_le.mpr hlt)] at hx
    rw [State.detection_level (.inl rfl)] at hx
    exact ⟨_, congrArg Host.Outcome.next hx, rfl, s.missed_miss _, State.detectIs_detect _ 0 false⟩
  · have hn : min (s.protect.miss[(0 : Fin 2)] + 1) 256 = s.protect.miss[(0 : Fin 2)] + 1 := by omega
    have hx := State.loopSample_static hr h29 h28 false
    simp only [Bool.false_eq_true, if_false, hn, decide_eq_true hle] at hx
    rw [State.detection_rise (s := s.missed (s.protect.miss[(0 : Fin 2)] + 1)) (i := 0) hd,
      State.alarm_quiet (s := (s.missed (s.protect.miss[(0 : Fin 2)] + 1)).detectIs 0 true) hs ha] at hx
    have hlf := ((s.missed (s.protect.miss[(0 : Fin 2)] + 1)).detectIs 0 true).latchAlarm_frame 0
    refine ⟨_, congrArg Host.Outcome.next hx, ?_, State.latchAlarm_bit _ 0, ?_⟩
    · rw [hlf]
      exact State.detectIs_detect _ 0 true
    · rw [hlf]
      rfl
  · have hx := State.loopSample_static hr h29 h28 true
    simp only [if_true, decide_eq_false (show ¬ max 1 (s.fld aTampCfg 7 0) ≤ 0 by omega)] at hx
    rw [State.detection_level (.inl rfl)] at hx
    exact ⟨_, congrArg Host.Outcome.next hx, rfl, s.missed_miss _, State.detectIs_detect _ 0 false⟩
  · exact ⟨_, congrArg Host.Outcome.next (State.glitch_watched hr he 2 on), State.detection_detects hs 2 on⟩
  · exact ⟨_, congrArg Host.Outcome.next (State.glitch_watched hr he 3 on), State.detection_detects hs 3 on⟩
  · have hclk : s.clockGlitch on = s.glitch 4 27 on := by simp [State.clockGlitch, hh]
    exact ⟨_, congrArg Host.Outcome.next (hclk.trans (State.glitch_watched hr he 4 on)), State.detection_detects hs 4 on⟩
  · have hx := (State.glitch_watched hr he 2 true).trans (State.detection_rise hd)
    exact ⟨_, congrArg Host.Outcome.next hx, State.alarm_asleep (s := s.detectIs 2 true) hs 2⟩

/-! The JTAG port -/

theorem jtagIdcode_parts (n : Nat) : (BitVec.ofNat 64 (n % 16 * 2 ^ 28 + 0x06448547)).getLsbD 0 = true
    ∧ (BitVec.ofNat 64 (n % 16 * 2 ^ 28 + 0x06448547)).extractLsb' 12 16 = 0x6448 := by
  have hlt : n % 16 < 16 := Nat.mod_lt _ (by decide)
  generalize n % 16 = m at hlt
  interval_cases m <;> decide

theorem State.transfer_regRead (s : State) {x : Transfer} (hw : x.write = false) (hsz : x.size = 4)
    (h : regWindow x.addr = true) (h4 : x.addr % 4 = 0) : s.transfer x = (s, true, (s.regRead x.addr).setWidth 64) := by
  have ha := le_of_regWindow h
  have hk : ¬ x.addr < 0x40000 := by omega
  have ht : ¬ x.addr < 0x50000 := by omega
  simp [State.transfer, shapeOk, hsz, h4, h, hk, ht, hw]

/-- Settles O48: the port holds the instruction and its word; one that reads a register is a transfer of requester 12. -/
theorem jtagPort : Obligations.JtagPort := by
  unfold Obligations.JtagPort
  refine fun s => ⟨⟨_, rfl, rfl⟩, ⟨_, rfl, rfl, jtagIdcode_parts _⟩, ⟨_, rfl, rfl⟩, ⟨_, rfl, rfl⟩,
    fun who d a ho hs hw h4 => ?_, fun x ho => ?_⟩
  · have hx := s.transfer_regRead (x := { who := .protection, addr := a, write := false, size := 4, data := d }) rfl rfl hw h4
    have hp : execJtagPrivate { who := who, addr := a, write := false, size := 4, data := d } s =
        .next (s.setJtag .priv ((s.regRead a).setWidth 64)) := by
      simp only [execJtagPrivate, ho, hs, hx, Bool.not_true, Bool.false_eq_true, if_false, if_true]
    exact ⟨_, hp, rfl⟩
  · have hp : execJtagPrivate x s = .next (s.setJtag .bypass 0) := by simp [execJtagPrivate, ho]
    exact ⟨_, hp, rfl⟩

end Sys2Proof.Machine
end


section
/-! PROOFS. The arbiter: the grant and the lost rounds, presentation, completion, the window and COMMIT (O49). -/

namespace Sys2Proof.Machine
open Sys2Proof

/-! Requesters one by one -/

/-- `t` differs from `s` at most in the arbiter's requests. -/
def State.ReqsOnly (s t : State) : Prop := t = { s with arb := { s.arb with reqs := t.arb.reqs } }

theorem State.setReq_self (s : State) (n : Fin 13) (q : ArbReq) : (s.setReq n q).arb.reqs[n] = q := by
  simp [State.setReq]

theorem State.setReq_ne (s : State) {n m : Fin 13} (h : m ≠ n) (q : ArbReq) : (s.setReq n q).arb.reqs[m] = s.arb.reqs[m] := by
  have hne : n.val ≠ m.val := fun e => h (Fin.ext e.symm)
  simp [State.setReq, hne]

/-- Requests changed one by one, each by its own content and what the requests do not change. -/
theorem State.forAll_setReq {G : State → Fin 13 → ArbReq → ArbReq} (hG : ∀ s n q, G (s.setReq n q) = G s) {l : List (Fin 13)}
    (hl : l.Nodup) (s : State) :
    s.ReqsOnly (s.forAll l (fun s n => s.setReq n (G s n s.arb.reqs[n])))
      ∧ (∀ n ∈ l, (s.forAll l (fun s n => s.setReq n (G s n s.arb.reqs[n]))).arb.reqs[n] = G s n s.arb.reqs[n])
      ∧ ∀ n ∉ l, (s.forAll l (fun s n => s.setReq n (G s n s.arb.reqs[n]))).arb.reqs[n] = s.arb.reqs[n] := by
  unfold State.forAll
  induction l generalizing s with
  | nil => exact ⟨rfl, (fun n hn => nomatch hn), fun n _ => rfl⟩
  | cons k l ih =>
    obtain ⟨hk, hl⟩ := List.nodup_cons.mp hl
    obtain ⟨hframe, hin, hout⟩ := ih hl (s.setReq k (G s k s.arb.reqs[k]))
    refine ⟨hframe, fun n hn => ?_, fun n hn => ?_⟩
    · rcases List.mem_cons.mp hn with rfl | hn
      · exact (hout _ hk).trans (s.setReq_self _ _)
      · have hne : n ≠ k := fun h => hk (h ▸ hn)
        exact (hin n hn).trans ((congrFun (congrFun (hG ..) n) _).trans (congrArg (G s n) (s.setReq_ne hne _)))
    · rw [List.mem_cons, not_or] at hn
      exact (hout n hn.2).trans (s.setReq_ne hn.1 _)

/-! The lost rounds -/

/-- What a lost round does to a request. -/
def ArbReq.lost (q : ArbReq) : ArbReq := if q.age < 65535 then { q with age := q.age + 1 } else { q with starved := true }

theorem State.loseRound_reqs (s : State) (n m : Fin 13) : (s.loseRound n).1.arb.flight = s.arb.flight
    ∧ (s.loseRound n).1.arb.reqs[m] = if m = n then (s.arb.reqs[m]).lost else s.arb.reqs[m] := by
  unfold State.loseRound ArbReq.lost
  by_cases hm : m = n
  · subst hm
    dsimp only
    split
    · exact ⟨rfl, by rw [if_pos rfl]; exact s.setReq_self _ _⟩
    · exact ⟨rfl, by rw [if_pos rfl]; exact s.setReq_self _ _⟩
  · rw [if_neg hm]
    dsimp only
    split
    · exact ⟨rfl, s.setReq_ne hm _⟩
    · exact ⟨rfl, s.setReq_ne hm _⟩

/-- The requesters of a list lose the round, each once; the raise of ARB_STARVE changes no request. -/
theorem State.loseRounds_reqs {l : List (Fin 13)} (hl : l.Nodup) (s : State) : (s.loseRounds l).arb.flight = s.arb.flight
    ∧ ∀ m, (s.loseRounds l).arb.reqs[m] = if m ∈ l then (s.arb.reqs[m]).lost else s.arb.reqs[m] := by
  have hfold : ∀ (b : Bool) (s : State),
      (l.foldl (fun (x : State × Bool) n => ((x.1.loseRound n).1, (x.1.loseRound n).2 || x.2)) (s, b)).1.arb.flight
        = s.arb.flight
      ∧ ∀ m, (l.foldl (fun (x : State × Bool) n => ((x.1.loseRound n).1, (x.1.loseRound n).2 || x.2)) (s, b)).1.arb.reqs[m]
        = if m ∈ l then (s.arb.reqs[m]).lost else s.arb.reqs[m] := by
    induction l with
    | nil => exact fun b s => ⟨rfl, fun m => by simp⟩
    | cons k l ih =>
      intro b s
      obtain ⟨hk, hl⟩ := List.nodup_cons.mp hl
      obtain ⟨hflight, hreqs⟩ := ih hl ((s.loseRound k).2 || b) (s.loseRound k).1
      refine ⟨hflight.trans (s.loseRound_reqs k k).1, fun m => (hreqs m).trans ?_⟩
      rw [(s.loseRound_reqs k m).2]
      by_cases hm : m = k
      · subst hm
        simp [hk]
      · simp [hm]
  obtain ⟨hflight, hreqs⟩ := hfold false s
  unfold State.loseRounds
  dsimp only
  split
  · have hcol := State.raise1_collects
      (l.foldl (fun (x : State × Bool) n => ((x.1.loseRound n).1, (x.1.loseRound n).2 || x.2)) (s, false)).1 srcArbStarve
      (Collects.rfl' _)
    have harb := congrArg State.arb hcol.fields
    exact ⟨(congrArg Arb.flight harb).trans hflight, fun m => (congrArg (fun a => a.reqs[m]) harb).trans (hreqs m)⟩
  · exact ⟨hflight, hreqs⟩

/-! The requester that R420 prefers -/

/-- Requester g ranks before n. -/
def State.ranksBefore (s : State) (g n : Fin 13) : Prop :=
  s.effClass n < s.effClass g
    ∨ (s.effClass n = s.effClass g ∧ s.arb.reqs[n].cred + s.arb.reqs[n].age < s.arb.reqs[g].cred + s.arb.reqs[g].age)
    ∨ (s.effClass n = s.effClass g ∧ s.arb.reqs[n].cred + s.arb.reqs[n].age = s.arb.reqs[g].cred + s.arb.reqs[g].age ∧ g < n)

section
variable {s : State} {g : Fin 13}

theorem State.prefer_keeps (hb : ∀ n : Fin 13, s.arb.reqs[n].cred + s.arb.reqs[n].age < 2 ^ 20) {n : Fin 13}
    (h : s.ranksBefore g n) : s.prefer g n = g := by
  have hg := hb g
  have hn := hb n
  simp only [State.prefer]
  rw [if_neg]
  rcases h with h | ⟨he, h⟩ | ⟨he, h, -⟩
  · have := Nat.mul_le_mul_right (2 ^ 20) (Nat.succ_le_of_lt h)
    rw [Nat.succ_mul] at this
    omega
  · rw [he]; omega
  · rw [he]; omega

theorem State.prefer_takes (hb : ∀ n : Fin 13, s.arb.reqs[n].cred + s.arb.reqs[n].age < 2 ^ 20) {n : Fin 13}
    (h : s.ranksBefore g n) (hlt : n < g) : s.prefer n g = g := by
  have hg := hb g
  have hn := hb n
  simp only [State.prefer]
  rw [if_pos]
  rcases h with h | ⟨he, h⟩ | ⟨-, -, h⟩
  · have := Nat.mul_le_mul_right (2 ^ 20) (Nat.succ_le_of_lt h)
    rw [Nat.succ_mul] at this
    omega
  · rw [he]; omega
  · exact absurd hlt (lt_asymm h)

/-- Through an ascending list of waiting requesters the preferred one is the one that ranks before all others. -/
theorem State.foldl_prefer (hb : ∀ n : Fin 13, s.arb.reqs[n].cred + s.arb.reqs[n].age < 2 ^ 20) {l : List (Fin 13)} {n : Fin 13}
    (hasc : (n :: l).Pairwise (· < ·)) (hg : g ∈ n :: l) (hbest : ∀ m ∈ n :: l, m ≠ g → s.ranksBefore g m) :
    l.foldl s.prefer n = g := by
  induction l generalizing n with
  | nil => simpa using (List.mem_singleton.mp hg).symm
  | cons m l ih =>
    obtain ⟨hn, hasc'⟩ := List.pairwise_cons.mp hasc
    have hpref : s.prefer n m = n ∨ s.prefer n m = m := by
      simp only [State.prefer]
      split
      · exact .inr rfl
      · exact .inl rfl
    rw [List.foldl_cons]
    by_cases hng : n = g
    · subst hng
      rw [State.prefer_keeps hb (hbest m (by simp) (ne_of_gt (hn m (by simp))))]
      refine ih (List.pairwise_cons.mpr ⟨fun k hk => hn k (by simp [hk]), (List.pairwise_cons.mp hasc').2⟩) (by simp) ?_
      intro k hk hne
      rcases List.mem_cons.mp hk with rfl | hk
      · exact absurd rfl hne
      · exact hbest k (by simp [hk]) hne
    · have hgl : g ∈ m :: l := (List.mem_cons.mp hg).resolve_left (Ne.symm hng)
      by_cases hmg : m = g
      · subst hmg
        rw [State.prefer_takes hb (hbest n (by simp) hng) (hn m (by simp))]
        exact ih hasc' (by simp) fun k hk hne => hbest k (by simp [List.mem_cons.mp hk |>.resolve_left hne]) hne
      · have hgl' : g ∈ l := (List.mem_cons.mp hgl).resolve_left (Ne.symm hmg)
        rcases hpref with hp | hp
        · rw [hp]
          refine ih (List.pairwise_cons.mpr ⟨fun k hk => hn k (by simp [hk]), (List.pairwise_cons.mp hasc').2⟩)
            (by simp [hgl']) ?_
          intro k hk hne
          rcases List.mem_cons.mp hk with rfl | hk
          · exact hbest k (by simp) hne
          · exact hbest k (by simp [hk]) hne
        · rw [hp]
          refine ih hasc' (by simp [hgl']) ?_
          intro k hk hne
          exact hbest k (List.mem_cons_of_mem _ hk) hne

theorem State.mem_waiters (s : State) (n : Fin 13) : n ∈ s.waiters ↔ s.arb.reqs[n].wait ≠ none := by
  simp [State.waiters, allReqs, Option.isSome_iff_ne_none]

theorem State.waiters_ascending (s : State) : s.waiters.Pairwise (· < ·) :=
  (List.pairwise_lt_finRange 13).filter _

theorem State.waiters_nodup (s : State) : s.waiters.Nodup := (List.nodup_finRange 13).filter _

/-- The state in which the granted transfer is in flight. -/
def State.granted (s : State) (g : Fin 13) (tr : Transfer) : State :=
  { s with arb := { s.arb with flight := some (g, tr, s.transferCycles tr - 1) } }.setReq g
    { wait := none, cred := s.arb.reqs[g].cred - 1, age := 0, starved := false }

theorem State.grantOne_eq {tr : Transfer} (hw : s.arb.reqs[g].wait = some tr)
    (hb : ∀ n : Fin 13, s.arb.reqs[n].cred + s.arb.reqs[n].age < 2 ^ 20)
    (hbest : ∀ n : Fin 13, n ≠ g → s.arb.reqs[n].wait ≠ none → s.ranksBefore g n) :
    s.grantOne = (s.granted g tr).loseRounds (s.waiters.filter (· != g)) := by
  have hmem : g ∈ s.waiters := (s.mem_waiters g).mpr (fun h => nomatch hw.symm.trans h)
  have hasc := s.waiters_ascending
  have hbest' : ∀ m ∈ s.waiters, m ≠ g → s.ranksBefore g m := fun m hm hne => hbest m hne ((s.mem_waiters m).mp hm)
  unfold State.grantOne
  split
  case h_1 h =>
    rw [h] at hmem
    exact nomatch hmem
  case h_2 n l h =>
    rw [h] at hmem hasc hbest'
    have hfold := State.foldl_prefer hb hasc hmem hbest'
    simp only [hfold, hw, h]
    rfl

theorem State.arbCycle_idle (h : s.arb.flight = none) : s.arbCycle = s.grantOne := by
  simp [State.arbCycle, State.flightEnds, h]

theorem execGrant_eq (hr : s.fabricRuns = true) (present : List Transfer) :
    execGrant present s = .next (s.arbCycle.forAll present State.presentReq) := by
  simp [execGrant, hr]

theorem State.granted_self (s : State) (g : Fin 13) (tr : Transfer) : (s.granted g tr).arb.reqs[g] =
    { wait := none, cred := s.arb.reqs[g].cred - 1, age := 0, starved := false } := State.setReq_self _ _ _

theorem State.granted_ne (s : State) {g n : Fin 13} (h : n ≠ g) (tr : Transfer) :
    (s.granted g tr).arb.reqs[n] = s.arb.reqs[n] := State.setReq_ne _ h _

/-- A grant with no transfer in flight. -/
theorem State.grantOne_grants {tr : Transfer} (hw : s.arb.reqs[g].wait = some tr)
    (hb : ∀ n : Fin 13, s.arb.reqs[n].cred + s.arb.reqs[n].age < 2 ^ 20)
    (hbest : ∀ n : Fin 13, n ≠ g → s.arb.reqs[n].wait ≠ none → s.ranksBefore g n) :
    s.grantOne.arb.flight = some (g, tr, s.transferCycles tr - 1)
      ∧ s.grantOne.arb.reqs[g] = { wait := none, cred := s.arb.reqs[g].cred - 1, age := 0, starved := false }
      ∧ (∀ n : Fin 13, n ≠ g → s.arb.reqs[n].wait ≠ none → s.arb.reqs[n].age < 65535 →
        s.grantOne.arb.reqs[n] = { s.arb.reqs[n] with age := s.arb.reqs[n].age + 1 })
      ∧ ∀ n : Fin 13, s.arb.reqs[n].wait = none → s.grantOne.arb.reqs[n] = s.arb.reqs[n] := by
  obtain ⟨hflight, hreqs⟩ := State.loseRounds_reqs (s.waiters_nodup.filter (· != g)) (s.granted g tr)
  rw [State.grantOne_eq hw hb hbest]
  refine ⟨hflight, ?_, fun n hn hwait hage => ?_, fun n hwait => ?_⟩
  · rw [hreqs, if_neg (by simp), State.granted_self]
  · have hmem : n ∈ s.waiters.filter (· != g) := List.mem_filter.mpr ⟨(s.mem_waiters n).mpr hwait, by simpa using hn⟩
    rw [hreqs, if_pos hmem, s.granted_ne hn, ArbReq.lost, if_pos hage]
  · have hng : n ≠ g := fun h => by
      rw [h, hw] at hwait
      exact nomatch hwait
    have hmem : n ∉ s.waiters.filter (· != g) := fun h => (s.mem_waiters n).mp (List.mem_filter.mp h).1 hwait
    rw [hreqs, if_neg hmem, s.granted_ne hng]

end

/-! The other commands -/

theorem State.grantOne_none {s : State} (h : ∀ n : Fin 13, s.arb.reqs[n].wait = none) : s.grantOne = s := by
  have hw : s.waiters = [] := List.filter_eq_nil_iff.mpr fun n _ hn => by
    rw [h n] at hn
    exact nomatch hn
  simp only [State.grantOne, hw]

theorem State.presentReq_idle {s : State} {x : Transfer} (hf : s.arb.flight = none)
    (h : ∀ n : Fin 13, s.arb.reqs[n].wait = none) :
    s.presentReq x = s.setReq (whoId x.who) { s.arb.reqs[whoId x.who] with wait := some x } := by
  simp only [State.presentReq, hf, h, Option.isSome_none, Option.any_none, Bool.or_self, Bool.false_eq_true, if_false]

theorem State.completeFlight_read {s : State} {n : Fin 13} {x : Transfer} (hf : s.arb.flight = some (n, x, 0))
    (hw : x.write = false) (hsz : x.size = 4) (h4 : x.addr % 4 = 0) (h : regWindow x.addr = true) :
    s.completeFlight = { s with arb := { s.arb with
      flight := none
      lastRead := some (n, false, (({ s with arb := { s.arb with flight := none } } : State).regRead x.addr).setWidth 64) } } := by
  have ht := State.transfer_regRead ({ s with arb := { s.arb with flight := none } } : State) hw hsz h h4
  simp only [State.completeFlight, hf, ht]
  rfl

theorem execTransferComplete_ends {s : State} (hr : s.fabricRuns = true) (he : s.flightEnds = true) :
    execTransferComplete [] s = .next s.completeFlight := by
  have hco : s.secEvents [] = s := rfl
  simp only [execTransferComplete, hco, hr, he, Bool.and_self, if_true]

theorem execWindowBoundary_eq {s : State} {rest : Nat} (hr : s.fabricRuns = true) (hc : 8192 ≤ s.arb.count)
    (he : s.flightEnds = false) (hrest : s.arb.count - 8192 = rest) :
    exec .windowBoundary s = .next (({ s with arb := { s.arb with count := rest } } : State).forAll allReqs
      (fun s n => s.setReq n { s.arb.reqs[n] with cred := s.liveWeight n })) := by
  have hn : ¬ s.arb.count < 8192 := by omega
  change execWindowBoundary s = _
  simp [execWindowBoundary, hr, hn, he, hrest]

/-- A window boundary gives every requester its weight as credit. -/
theorem State.window_reqs (s : State) :
    s.ReqsOnly (s.forAll allReqs (fun s n => s.setReq n { s.arb.reqs[n] with cred := s.liveWeight n }))
      ∧ ∀ n : Fin 13, (s.forAll allReqs (fun s n => s.setReq n { s.arb.reqs[n] with cred := s.liveWeight n })).arb.reqs[n]
        = { s.arb.reqs[n] with cred := s.liveWeight n } := by
  obtain ⟨hframe, hreqs, -⟩ := State.forAll_setReq
    (G := fun s n q => { q with cred := s.liveWeight n }) (fun _ _ _ => rfl) (l := allReqs) (List.nodup_finRange 13) s
  exact ⟨hframe, fun n => hreqs n (List.mem_finRange n)⟩

/-! COMMIT -/

theorem aArbLive_ne_aArbPrio (m n : Fin 13) : aArbLive m ≠ aArbPrio n := by
  simp only [aArbLive, aArbPrio, aArb]
  omega

theorem aArbLive_inj {m n : Fin 13} (h : aArbLive m = aArbLive n) : m = n := by
  simp only [aArbLive, aArb] at h
  exact Fin.ext (by omega)

/-- The shadows made live, requester by requester. -/
theorem State.forAll_live (l : List (Fin 13)) (s : State) :
    s.RegsBecome (l.map (fun n : Fin 13 => aArbLive n.val)) (s.forAll l (fun s n => s.setReg (aArbLive n) (s.reg (aArbPrio n))))
      ∧ ∀ n ∈ l, (s.forAll l (fun s n => s.setReg (aArbLive n) (s.reg (aArbPrio n)))).reg (aArbLive n) = s.reg (aArbPrio n) := by
  unfold State.forAll
  induction l generalizing s with
  | nil => exact ⟨⟨rfl, fun _ _ => rfl⟩, (fun n hn => nomatch hn)⟩
  | cons k l ih =>
    obtain ⟨⟨hrest, hregs⟩, hlive⟩ := ih (s.setReg (aArbLive k) (s.reg (aArbPrio k)))
    have hprio : ∀ n : Fin 13, (s.setReg (aArbLive k) (s.reg (aArbPrio k))).reg (aArbPrio n) = s.reg (aArbPrio n) := fun n =>
      s.reg_setReg_ne (aArbLive_ne_aArbPrio k n).symm _
    refine ⟨⟨hrest.trans rfl, fun a ha => ?_⟩, fun n hn => ?_⟩
    · rw [List.map_cons, List.mem_cons, not_or] at ha
      exact (hregs a ha.2).trans (s.reg_setReg_ne ha.1 _)
    · by_cases hnl : n ∈ l
      · exact (hlive n hnl).trans (hprio n)
      · obtain rfl : n = k := (List.mem_cons.mp hn).resolve_right hnl
        refine (hregs _ fun h => hnl ?_).trans (s.reg_setReg_self _ _)
        obtain ⟨m, hm, he⟩ := List.mem_map.mp h
        exact aArbLive_inj he ▸ hm

theorem State.applyCommit_applies (s : State) :
    s.applyCommit = { s with regs := s.applyCommit.regs, arb := { s.arb with reqs := s.applyCommit.arb.reqs } }
      ∧ (∀ n : Fin 13, s.applyCommit.reg (aArbLive n) = s.reg (aArbPrio n)
        ∧ s.applyCommit.arb.reqs[n] = { s.arb.reqs[n] with cred := min (s.arb.reqs[n]).cred (s.fld (aArbPrio n) 10 0) })
      ∧ ∀ a, a ∉ (List.range 13).map aArbLive → s.applyCommit.reg a = s.reg a := by
  obtain ⟨⟨hrest, hregs⟩, hlive⟩ := State.forAll_live allReqs s
  obtain ⟨hframe, hreqs, -⟩ := State.forAll_setReq
    (G := fun s n q => { q with cred := min q.cred (s.liveWeight n) }) (fun _ _ _ => rfl) (l := allReqs) (List.nodup_finRange 13)
    (s.forAll allReqs (fun s n => s.setReg (aArbLive n) (s.reg (aArbPrio n))))
  have hreg : ∀ a, s.applyCommit.reg a = (s.forAll allReqs (fun s n => s.setReg (aArbLive n) (s.reg (aArbPrio n)))).reg a :=
    State.reg_congr (by rw [State.applyCommit, hframe])
  have hreqs0 : ∀ n : Fin 13,
      (s.forAll allReqs (fun s n => s.setReg (aArbLive n) (s.reg (aArbPrio n)))).arb.reqs[n] = s.arb.reqs[n] :=
    fun n => by rw [hrest]
  refine ⟨?_, fun n => ⟨(hreg _).trans (hlive n (List.mem_finRange n)), ?_⟩, fun a ha => (hreg a).trans (hregs a fun h => ha ?_)⟩
  · rw [State.applyCommit, hframe, hrest]
  · refine (hreqs n (List.mem_finRange n)).trans ?_
    rw [hreqs0, State.liveWeight, State.fld, hlive n (List.mem_finRange n)]
    rfl
  · obtain ⟨m, -, he⟩ := List.mem_map.mp h
    exact List.mem_map.mpr ⟨m, List.mem_range.mpr m.isLt, he⟩

/-- CLRCNT beside a COMMIT, or not. -/
theorem State.clrBeside (s : State) (clear : Bool) : s.RegsBecome [aArbPre] (if clear then s.setReg aArbPre 0 else s)
    ∧ (if clear then s.setReg aArbPre 0 else s).reg aArbPre = if clear then 0 else s.reg aArbPre := by
  cases clear with
  | false => exact ⟨⟨rfl, fun _ _ => rfl⟩, rfl⟩
  | true => exact ⟨s.setReg_regsBecome aArbPre 0, s.reg_setReg_self _ _⟩

theorem State.weights_congr {s t : State} (h : ∀ n, t.reg (aArbPrio n) = s.reg (aArbPrio n)) :
    t.weights aArbPrio = s.weights aArbPrio := by
  simp only [State.weights, State.fld, h]

theorem aArbPre_ne_aArbPrio (n : Nat) : aArbPrio n ∉ [aArbPre] := by
  simp only [List.mem_singleton, aArbPrio, aArbPre, aArb]
  omega

theorem aArbPre_not_live : aArbPre ∉ (List.range 13).map aArbLive := by decide

/-- A COMMIT refused with a bit of ARB_STAT, CLRCNT acting beside it. -/
theorem State.commitRefused (s : State) (clear : Bool) (m : Word) :
    s.RegsBecome [aArbStat, aArbPre] ((if clear then s.setReg aArbPre 0 else s).orReg aArbStat m)
      ∧ ((if clear then s.setReg aArbPre 0 else s).orReg aArbStat m).reg aArbStat = s.reg aArbStat ||| m
      ∧ ((if clear then s.setReg aArbPre 0 else s).orReg aArbStat m).reg aArbPre = if clear then 0 else s.reg aArbPre := by
  obtain ⟨⟨hrest, hregs⟩, hpre⟩ := s.clrBeside clear
  generalize (if clear then s.setReg aArbPre 0 else s) = c at hrest hregs hpre
  obtain ⟨horest, horegs⟩ := c.orReg_regsBecome aArbStat m
  refine ⟨⟨?_, fun a ha => ?_⟩, ?_, (horegs aArbPre (by decide)).trans hpre⟩
  · rw [horest, hrest]
  · rw [List.mem_cons, not_or] at ha
    exact (horegs a (by simpa using ha.1)).trans (hregs a ha.2)
  · rw [State.orReg, State.reg_setReg_self, hregs aArbStat (by decide)]

theorem State.arbCommit_beyondSum {s : State} (hl : s.lockCfg = false) (hw : 1024 < s.weights aArbPrio) :
    s.arbCommit = (s.orReg aArbStat (bitw 1), false) := by
  rw [State.arbCommit, if_neg (by simp [hl]), if_pos hw]

theorem State.arbCommit_accepted {s : State} (hl : s.lockCfg = false) (hw : s.weights aArbPrio ≤ 1024) :
    s.arbCommit = (s.applyCommit, true) := by
  rw [State.arbCommit, if_neg (by simp [hl]), if_neg (Nat.not_lt.mpr hw)]

theorem execArbCommit_eq {s : State} (h : s.serves = true) (who : Who) (clear : Bool) :
    execArbCommit who clear s = .next ((if clear then s.setReg aArbPre 0 else s).arbCommit).1 := by
  rw [execArbCommit, State.fab_serves h]

/-- What COMMIT reads, CLRCNT beside it leaves. -/
theorem State.clrBeside_lockCfg (s : State) (clear : Bool) :
    (if clear then s.setReg aArbPre 0 else s).lockCfg = s.lockCfg := by
  cases clear with
  | false => rfl
  | true => exact congrArg (fun r : Word => r.getLsbD 0) (s.reg_setReg_ne (by decide) 0)

theorem State.clrBeside_weights (s : State) (clear : Bool) :
    (if clear then s.setReg aArbPre 0 else s).weights aArbPrio = s.weights aArbPrio :=
  State.weights_congr fun n => (s.clrBeside clear).1.2 _ (aArbPre_ne_aArbPrio n)

/-- Settles O49, command by command: the grant takes what the fold over the ascending waiters prefers, and COMMIT
turns on the lock and the sum of the weights. -/
theorem arbiterCommands : Obligations.ArbiterCommands := by
  unfold Obligations.ArbiterCommands
  refine ⟨fun s g tr hr hf hw hb hbest => ?_, fun s x hr hf hnone => ?_, fun s n x hr hf hw hsz h4 hwin => ?_,
    fun s hr hc he => ?_, fun s who clear hs => ⟨fun hl => ?_, fun hl hsum => ?_, fun hl hsum => ?_, ?_⟩⟩
  · refine ⟨s.grantOne, (execGrant_eq hr []).trans ?_, State.grantOne_grants hw hb hbest⟩
    rw [State.arbCycle_idle hf]
    rfl
  · refine ⟨s.setReq (whoId x.who) { s.arb.reqs[whoId x.who] with wait := some x }, (execGrant_eq hr [x]).trans ?_,
      rfl, s.setReq_self _ _, fun n hn => s.setReq_ne hn _⟩
    rw [State.arbCycle_idle hf, State.grantOne_none hnone]
    exact congrArg Host.Outcome.next (State.presentReq_idle hf hnone)
  · have he : s.flightEnds = true := by simp [State.flightEnds, hf]
    exact ⟨_, execTransferComplete_ends hr he, State.completeFlight_read hf hw hsz h4 hwin⟩
  · obtain ⟨rest, hrest⟩ : ∃ rest, s.arb.count - 8192 = rest := ⟨_, rfl⟩
    have hx := execWindowBoundary_eq hr hc he hrest
    rw [hrest]
    obtain ⟨hframe, hreqs⟩ := State.window_reqs ({ s with arb := { s.arb with count := rest } } : State)
    exact ⟨_, hx, hframe, hreqs⟩
  · refine ⟨_, execArbCommit_eq hs who clear, ?_⟩
    rw [State.arbCommit_locked ((s.clrBeside_lockCfg clear).trans hl)]
    exact s.commitRefused clear (bitw 0)
  · refine ⟨_, execArbCommit_eq hs who clear, ?_⟩
    rw [State.arbCommit_beyondSum ((s.clrBeside_lockCfg clear).trans hl) (by rwa [s.clrBeside_weights])]
    exact s.commitRefused clear (bitw 1)
  · refine ⟨_, execArbCommit_eq hs who clear, ?_⟩
    rw [State.arbCommit_accepted ((s.clrBeside_lockCfg clear).trans hl) (by rwa [s.clrBeside_weights])]
    obtain ⟨⟨hrest, hregs⟩, hpre⟩ := s.clrBeside clear
    generalize (if clear then s.setReg aArbPre 0 else s) = c at hrest hregs hpre
    obtain ⟨hframe, hlive, hregs'⟩ := c.applyCommit_applies
    have hprio : ∀ n, c.reg (aArbPrio n) = s.reg (aArbPrio n) := fun n => hregs _ (aArbPre_ne_aArbPrio n)
    have hreqs : c.arb.reqs = s.arb.reqs := by rw [hrest]
    refine ⟨?_, fun n => ⟨(hlive n).1.trans (hprio n), (hlive n).2.trans ?_⟩,
      (hregs' _ aArbPre_not_live).trans hpre, fun a ha hal => (hregs' a hal).trans (hregs a (by simpa using ha))⟩
    · rw [hframe, hrest]
    · rw [hreqs, State.fld, hprio]
      rfl
  · exact ⟨_, congrArg Host.Outcome.next (State.fab_serves hs _), s.setReg_regsBecome aArbPre 0, s.reg_setReg_self _ _⟩

end Sys2Proof.Machine
end


section
/-! PROOFS. The host ports: what a frame that is heard does, sessions opening and closing (O50). -/

namespace Sys2Proof.Machine
open Sys2Proof

/-! Ports and sessions -/

/-- `t` differs from `s` at most in the named session, and in the queue and the answer of its port. -/
def State.HostsTo (s t : State) (p : Fin 2) (i : Fin 4) : Prop := t = { s with hosts := t.hosts } ∧ s.otherSessions t p i

section
variable {s t u : State} {p : Fin 2} {i : Fin 4}

theorem State.HostsTo.refl (s : State) (p : Fin 2) (i : Fin 4) : s.HostsTo s p i := ⟨rfl, fun _ _ _ => rfl, fun _ _ => rfl⟩

theorem State.HostsTo.trans (h : s.HostsTo t p i) (k : t.HostsTo u p i) : s.HostsTo u p i := by
  obtain ⟨hrest, hsess, hhosts⟩ := h
  obtain ⟨krest, ksess, khosts⟩ := k
  exact ⟨by rw [krest, hrest], fun q j hne => (ksess q j hne).trans (hsess q j hne),
    fun q hne => (khosts q hne).trans (hhosts q hne)⟩

/-- The port p set anew. -/
theorem State.hosts_set_self (s : State) (p : Fin 2) (h : HostPort) : (s.hosts.set p h)[p] = h := by simp

theorem State.hosts_set_ne (s : State) {p q : Fin 2} (hq : q ≠ p) (h : HostPort) : (s.hosts.set p h)[q] = s.hosts[q] := by
  have hne : p.val ≠ q.val := fun e => hq (Fin.ext e.symm)
  simp [hne]

theorem State.hostsTo_set {h : HostPort} (hs : ∀ j, j ≠ i → h.sess[j] = (s.hosts[p]).sess[j]) :
    s.HostsTo { s with hosts := s.hosts.set p h } p i := by
  refine ⟨rfl, fun q j hne => ?_, fun q hq => s.hosts_set_ne hq h⟩
  by_cases hq : q = p
  · subst hq
    have hj : j ≠ i := fun e => hne (by rw [e])
    exact (congrArg (fun h : HostPort => h.sess[j]) (s.hosts_set_self q h)).trans (hs j hj)
  · exact congrArg (fun h : HostPort => h.sess[j]) (s.hosts_set_ne hq h)

theorem State.setSess_hostsTo (s : State) (p : Fin 2) (i : Fin 4) (x : Session) : s.HostsTo (s.setSess p i x) p i :=
  State.hostsTo_set fun j hj => by
    have hne : i.val ≠ j.val := fun e => hj (Fin.ext e.symm)
    simp [hne]

theorem State.queueResponse_hostsTo (s : State) (p : Fin 2) (i : Fin 4) (r : Response) : s.HostsTo (s.queueResponse p r) p i :=
  State.hostsTo_set fun _ _ => rfl

theorem State.queue_setSess (s : State) (p : Fin 2) (i : Fin 4) (x : Session) :
    ((s.setSess p i x).hosts[p]).queue = (s.hosts[p]).queue := by
  simp [State.setSess]

theorem State.queue_queueResponse (s : State) (p : Fin 2) (r : Response) :
    ((s.queueResponse p r).hosts[p]).queue = (s.hosts[p]).queue ++ [r] :=
  congrArg HostPort.queue (s.hosts_set_self p _)

theorem State.sess_queueResponse (s : State) (p : Fin 2) (i : Fin 4) (r : Response) :
    (s.queueResponse p r).sess p i = s.sess p i := by
  simp [State.queueResponse, State.sess]

/-! The time-out and the cache -/

theorem State.touch_closed (h : (s.sess p i).isOpen = false) : s.touch p i = s := by
  simp [State.touch, h]

theorem State.touch_open (h : (s.sess p i).isOpen = true) :
    ∃ tmo, s.touch p i = s.setSess p i { s.sess p i with tmoAt := tmo } := by
  simp only [State.touch, h, if_true]
  exact ⟨_, rfl⟩

theorem State.touch_effect (s : State) (p : Fin 2) (i : Fin 4) : s.HostsTo (s.touch p i) p i
    ∧ ((s.touch p i).hosts[p]).queue = (s.hosts[p]).queue
    ∧ ∃ tmo, (s.touch p i).sess p i = { s.sess p i with tmoAt := tmo } := by
  by_cases h : (s.sess p i).isOpen = true
  · obtain ⟨tmo, ht⟩ := State.touch_open h
    rw [ht]
    exact ⟨s.setSess_hostsTo p i _, s.queue_setSess p i _, tmo, s.sess_setSess_self p i _⟩
  · rw [State.touch_closed (Bool.eq_false_iff.mpr h)]
    exact ⟨.refl s p i, rfl, (s.sess p i).tmoAt, rfl⟩

theorem State.cacheResponse_effect (s : State) (p : Fin 2) (i : Fin 4) (etag : Nat) (r : Response) (fr : Word × BitVec 16) :
    s.HostsTo (s.cacheResponse p i etag r fr) p i
    ∧ ((s.cacheResponse p i etag r fr).hosts[p]).queue = (s.hosts[p]).queue
    ∧ ∃ c, (s.cacheResponse p i etag r fr).sess p i = { s.sess p i with cache := c } := by
  unfold State.cacheResponse
  dsimp only
  split
  · exact ⟨.refl s p i, rfl, (s.sess p i).cache, rfl⟩
  · exact ⟨s.setSess_hostsTo p i _, s.queue_setSess p i _, _, s.sess_setSess_self p i _⟩

/-- A response queued and cached. -/
theorem State.queueCache_effect (s : State) (p : Fin 2) (i : Fin 4) (etag : Nat) (r : Response) (fr : Word × BitVec 16) :
    s.HostsTo ((s.queueResponse p r).cacheResponse p i etag r fr) p i
    ∧ (((s.queueResponse p r).cacheResponse p i etag r fr).hosts[p]).queue = (s.hosts[p]).queue ++ [r]
    ∧ ∃ c, ((s.queueResponse p r).cacheResponse p i etag r fr).sess p i = { s.sess p i with cache := c } := by
  obtain ⟨hto, hqueue, c, hsess⟩ := (s.queueResponse p r).cacheResponse_effect p i etag r fr
  exact ⟨(s.queueResponse_hostsTo p i r).trans hto, hqueue.trans (s.queue_queueResponse p r), c,
    hsess.trans (by rw [s.sess_queueResponse])⟩

/-- A request answered at once. -/
theorem State.answer_effect (s : State) (f : HostFrame) (etag : Nat) (status : Byte) (payload : List Byte) :
    s.HostsTo (s.answer f etag status payload) f.port f.session
    ∧ (∃ c, (s.answer f etag status payload).sess f.port f.session = { s.sess f.port f.session with cache := c })
    ∧ ∃ r, ((s.answer f etag status payload).hosts[f.port]).queue = (s.hosts[f.port]).queue ++ [r]
      ∧ r.status = status ∧ r.session = f.session ∧ r.tag = f.tag ∧ r.op = f.op := by
  obtain ⟨hto, hqueue, hsess⟩ := s.queueCache_effect f.port f.session etag
    (s.respond f.port f.session f.ver f.tag etag f.op f.addr status payload) (f.addr, f.len)
  exact ⟨hto, hsess, _, hqueue, rfl, rfl, rfl, rfl⟩

/-! Closing -/

theorem State.closeSession_isClosed (h : (s.sess p i).isOpen = false) : s.closeSession p i = s := by
  simp [State.closeSession, h]

theorem State.closeSession_effect (h : (s.sess p i).isOpen = true) : s.HostsTo (s.closeSession p i) p i
    ∧ (s.closeSession p i).sess p i = { epoch := (s.sess p i).epoch + 1 }
    ∧ ((s.closeSession p i).hosts[p]).queue = (s.hosts[p]).queue.filter (fun r => r.session != i) := by
  have hclose : s.closeSession p i = { s.setSess p i { epoch := (s.sess p i).epoch + 1 } with
      hosts := (s.setSess p i { epoch := (s.sess p i).epoch + 1 }).hosts.set p
        { (s.setSess p i { epoch := (s.sess p i).epoch + 1 }).hosts[p] with
          queue := ((s.setSess p i { epoch := (s.sess p i).epoch + 1 }).hosts[p]).queue.filter (fun r => r.session != i) } } := by
    simp only [State.closeSession, h, Bool.not_true, Bool.false_eq_true, if_false]
  rw [hclose]
  refine ⟨(s.setSess_hostsTo p i _).trans (State.hostsTo_set fun _ _ => rfl), ?_, ?_⟩
  · exact (congrArg (fun h : HostPort => h.sess[i]) (State.hosts_set_self _ p _)).trans (s.sess_setSess_self p i _)
  · exact (congrArg HostPort.queue (State.hosts_set_self _ p _)).trans (by rw [s.queue_setSess])

end

/-! A frame that is heard -/

section
variable {s : State} {f : HostFrame} {op : Byte}

theorem opListed_of (h : frameSound f op) : f.op = op := h.1

theorem checkOf_none_length (e : Nat) (l : List Byte) : (checkOf none e l).length = 2 := leBytes_length _ _

theorem State.readByte_of_request {p : Fin 2} {b : Byte} (h : s.transportOk p b 0x51 0xD1 = true) : s.readByte p b = false := by
  rcases p with ⟨_ | _ | _, hp⟩
  case zero =>
    simp only [State.transportOk, Bool.or_eq_true, Bool.and_eq_true, beq_iff_eq] at h
    simp only [State.readByte, State.transportOk]
    rcases h with (h | rfl) | ⟨rfl, -⟩
    · simp at h
    · simp
    · simp
  case succ.zero => rfl
  case succ.succ => omega

theorem State.hostOpen_startWake (p : Fin 2) : s.startWake.hostListens p = s.hostListens p ∧ s.startWake.fabricOn = s.fabricOn := by
  constructor
  · simp [State.hostListens, State.startWake_power]
  · simp [State.fabricOn, State.startWake_power]

/-- The checks of a frame that come before R576, all of them kept. -/
theorem State.uhpTake_executes {run : State → Nat → State} (hf : frameSound f op)
    (htrans : s.transportOk f.port f.transport 0x51 0xD1 = true) (hwait : s.waitingResponses f.port f.session = 0)
    (hauth : ((s.sess f.port f.session).isOpen && (s.sess f.port f.session).auth && f.op != opHello) = false)
    (hfree : op = opAbort ∨ (s.sess f.port f.session).exec = none)
    (hcache : ∀ c ∈ (s.sess f.port f.session).cache, c.etag ≠ (s.sess f.port f.session).etagOf f.tag)
    (hjudge : (s.touch f.port f.session).judge f = none) :
    s.uhpTake f run = run (s.touch f.port f.session) ((s.sess f.port f.session).etagOf f.tag) := by
  obtain ⟨rfl, hsync, -, -, hlen, hcount, hcheck⟩ := hf
  obtain ⟨-, hqueue, tmo, htouch⟩ := s.touch_effect f.port f.session
  have hsize : (if f.op == opRead then 0 else f.len.toNat) = f.payload.length := by simpa using hlen.symm
  have hcheck2 : f.check.length = 2 := hcheck ▸ checkOf_none_length _ _
  have hrest : (s.touch f.port f.session).waitingResponses f.port f.session = 0 := by
    rw [State.waitingResponses, hqueue]
    exact hwait
  have hfind : (s.sess f.port f.session).cache.find? (fun c => c.etag == (s.sess f.port f.session).etagOf f.tag) = none :=
    List.find?_eq_none.mpr fun c hc h => hcache c hc (by simpa using h)
  have hbusy : (if f.op == opAbort then decide (2 ≤ 0 + (s.sess f.port f.session).exec.isSome.toNat)
      else (s.sess f.port f.session).exec.isSome || decide (0 < 0)) = false := by
    split
    · have := Bool.toNat_le (s.sess f.port f.session).exec.isSome
      simp only [decide_eq_false_iff_not]
      omega
    · next h =>
      have hexec := hfree.resolve_left fun e => h (by simp [e])
      simp [hexec]
  have hcheck' : (f.check != checkOf none ((s.sess f.port f.session).etagOf f.tag) (requestBytes f)) = false := by
    rw [hcheck]
    exact bne_self_eq_false _
  have hcount' : (f.count != 11 + f.payload.length + 2) = false := by
    simp only [bne_eq_false_iff_eq]
    omega
  simp only [State.uhpTake, State.readByte_of_request htrans, htrans, hsync, hauth, hsize, hcheck2, hcount', hcheck', hrest,
    hbusy, hfind, hjudge, bne_self_eq_false, Bool.not_true, Bool.or_self, Bool.false_eq_true, if_false, Bool.false_and]

/-- A sound frame to an open port, of a session without authentication with room for its answer, that repeats no tag and
breaks no check of R576, executes. -/
theorem State.uhp_executes {run : State → Nat → State} (hf : frameSound f op) (hh : s.hears f)
    (hauth : ((s.sess f.port f.session).isOpen && (s.sess f.port f.session).auth && f.op != opHello) = false)
    (hfree : op = opAbort ∨ (s.sess f.port f.session).exec = none)
    (hcache : ∀ c ∈ (s.sess f.port f.session).cache, c.etag ≠ (s.sess f.port f.session).etagOf f.tag)
    (hjudge : (s.startWake.touch f.port f.session).judge f = none) :
    s.uhp f op run = run (s.startWake.touch f.port f.session) ((s.sess f.port f.session).etagOf f.tag) := by
  obtain ⟨hco, hopen, htrans, hwait⟩ := hh
  obtain ⟨hlis, hfab⟩ := Bool.and_eq_true_iff.mp hopen
  have hnot : (opListed f.op && f.op != op) = false := by simp [hf.1]
  have hsec : s.secEvents f.co = s := by rw [hco]; rfl
  have hsess : s.startWake.sess f.port f.session = s.sess f.port f.session := by simp [State.sess]
  have htake : s.uhp f op run = s.startWake.uhpTake f run := by
    simp only [State.uhp, hnot, hsec, hlis, (s.hostOpen_startWake f.port).2, hfab, Bool.not_true, Bool.false_eq_true, if_false, if_true]
  have htrans' : s.startWake.transportOk f.port f.transport 0x51 0xD1 = true := by
    rw [← htrans]
    simp [State.transportOk]
  have hwait' : s.startWake.waitingResponses f.port f.session = 0 := by
    rw [← hwait]
    simp [State.waitingResponses]
  rw [htake, State.uhpTake_executes hf htrans' hwait' (by rwa [hsess]) (by rwa [hsess]) (by rwa [hsess]) hjudge, hsess]

theorem State.judge_hello (hf : frameSound f opHello) (hl : f.len = 0) (ha : f.addr = 0) : s.judge f = none := by
  obtain ⟨hop, -, hdir, hrsvd, -⟩ := hf
  have hlen : lengthBad f = false := by simp [lengthBad, hop, hl, opHello, opRead, opWrite, opRmw, opRequest, opRun, opStore, opEvents, opAbort, opBye]
  have hlay : layoutBad f = false := by simp [layoutBad, hop, hl, ha, opHello, opRequest, opRun, opStore, opEvents]
  have hlist : opListed opHello = true := by decide
  have halign : (opHello == opRead || opHello == opWrite || opHello == opRmw) = false := by decide
  simp only [State.judge, hdir, hrsvd, hop, hlist, hlen, hlay, halign, BEq.rfl, Bool.not_true, Bool.false_and, Bool.or_self,
    Bool.false_eq_true, if_false]

/-- A frame of an open session that keeps length, alignment and layout breaks no check of R576. -/
theorem State.judge_inSession (hf : frameSound f op) (hin : s.inSession f) (hop : op ≠ opHello) (hlist : opListed op = true)
    (hlen : lengthBad f = false)
    (halign : ((f.op == opRead || f.op == opWrite || f.op == opRmw) && f.addr.toNat % 4 != 0) = false)
    (hlay : layoutBad f = false) : s.judge f = none := by
  obtain ⟨rfl, -, hdir, hrsvd, -⟩ := hf
  obtain ⟨hopen, hauth, hver, hfver, -, hbit⟩ := hin
  have hhello : (f.op == opHello) = false := by simpa using hop
  have hdenied : s.denied f = false := by simp [State.denied, hbit, hauth]
  have hversion : ((3 : BitVec 4).toNat != (3 : BitVec 2).toNat) = false := by decide
  have hone : ((3 : BitVec 2) == 1) = false := by decide
  simp only [State.judge, hdir, hrsvd, hhello, hopen, hver, hfver, hlist, hlen, halign, hlay, hdenied, hversion, hone,
    Bool.not_false, Bool.not_true, Bool.and_false, Bool.false_and, Bool.or_self, Bool.false_eq_true, if_false]

theorem State.inSession_touch (h : s.inSession f) : (s.startWake.touch f.port f.session).inSession f := by
  obtain ⟨hopen, hauth, hver, hfver, hcache, hbit⟩ := h
  obtain ⟨⟨hrest, -⟩, -, tmo, htouch⟩ := s.startWake.touch_effect f.port f.session
  have hsess : s.startWake.sess f.port f.session = s.sess f.port f.session := by simp [State.sess]
  have hreg : (s.startWake.touch f.port f.session).bit (aHstCfg f.port) 28 = s.bit (aHstCfg f.port) 28 := by
    rw [hrest]
    exact s.startWake_bit _ _
  rw [State.inSession, htouch, hsess, hreg]
  exact ⟨hopen, hauth, hver, hfver, hcache, hbit⟩

/-- A sound frame of an open session of version 3 without authentication executes. -/
theorem State.uhp_inSession {run : State → Nat → State} (hf : frameSound f op) (hh : s.hears f) (hin : s.inSession f)
    (hop : op ≠ opHello) (hlist : opListed op = true) (hfree : op = opAbort ∨ (s.sess f.port f.session).exec = none)
    (hlen : lengthBad f = false)
    (halign : ((f.op == opRead || f.op == opWrite || f.op == opRmw) && f.addr.toNat % 4 != 0) = false)
    (hlay : layoutBad f = false) :
    s.uhp f op run = run (s.startWake.touch f.port f.session) f.tag.toNat := by
  have hjudge := State.judge_inSession hf (State.inSession_touch hin) hop hlist hlen halign hlay
  obtain ⟨-, hauth, -, -, hcache, -⟩ := hin
  have hetag : (s.sess f.port f.session).etagOf f.tag = f.tag.toNat := by simp [Session.etagOf, hauth]
  rw [State.uhp_executes hf hh (by simp [hauth]) hfree (by rwa [hetag]) hjudge, hetag]

end

/-! HELLO -/

theorem State.vmin_le (s : State) (p : Fin 2) : s.vmin p ≤ 3 := by
  have h : s.fld (aHstCfg p) 30 29 < 2 ^ 2 := Nat.mod_lt _ (by decide)
  unfold State.vmin
  omega

/-- The session that a HELLO of version 3 without authentication opens. -/
def Session.opened (x : Session) (tag : BitVec 16) : Session :=
  { isOpen := true, auth := false, ver := 3, kslot := 0, epoch := x.epoch, key := [], etag := tag.toNat }

/-- A HELLO of version 3 alone, without authentication, of a session that is closed. -/
theorem State.hello_eq {s : State} {f : HostFrame} (hl : f.len = 0) (hv : f.ver = 3)
    (hclosed : (s.sess f.port f.session).isOpen = false) :
    ∃ r t, s.hello f = (t.queueResponse f.port r).cacheResponse f.port f.session f.tag.toNat r (f.addr, f.len)
      ∧ t = (s.setSess f.port f.session ((s.sess f.port f.session).opened f.tag)).touch f.port f.session
      ∧ r.status = stOk ∧ r.session = f.session ∧ r.tag = f.tag ∧ r.op = f.op := by
  have hasks : helloAsks f = (3, 3, false, 0, []) := by simp [helloAsks, hl, hv]
  have hfails : s.helloFails f = none := by simp [State.helloFails, hasks, s.vmin_le f.port]
  simp only [State.hello, hasks, hfails, State.closeSession_isClosed hclosed, min_self, Bool.false_eq_true, if_false,
    show ¬ (3 = 1) by decide]
  exact ⟨_, _, rfl, rfl, rfl, rfl, rfl, rfl⟩

theorem State.hello_opens {s : State} {f : HostFrame} (hl : f.len = 0) (hv : f.ver = 3)
    (hclosed : (s.sess f.port f.session).isOpen = false) :
    s.HostsTo (s.hello f) f.port f.session
      ∧ (∃ tmo c, (s.hello f).sess f.port f.session = { (s.sess f.port f.session).opened f.tag with tmoAt := tmo, cache := c })
      ∧ ∃ r, ((s.hello f).hosts[f.port]).queue = (s.hosts[f.port]).queue ++ [r]
        ∧ r.status = stOk ∧ r.session = f.session ∧ r.tag = f.tag ∧ r.op = f.op := by
  obtain ⟨r, t, hhello, ht, hr⟩ := State.hello_eq hl hv hclosed
  obtain ⟨hto, hqueue, c, hsess⟩ := t.queueCache_effect f.port f.session f.tag.toNat r (f.addr, f.len)
  obtain ⟨tto, tqueue, tmo, tsess⟩ :=
    (s.setSess f.port f.session ((s.sess f.port f.session).opened f.tag)).touch_effect f.port f.session
  rw [← ht] at tto tqueue tsess
  rw [hhello]
  refine ⟨((s.setSess_hostsTo _ _ _).trans tto).trans hto, ⟨tmo, c, ?_⟩, r, ?_, hr⟩
  · rw [hsess, tsess, s.sess_setSess_self]
  · rw [hqueue, tqueue, s.queue_setSess]

/-! BYE and the other ways to close -/

theorem State.uhpByeRun_closes {s : State} {f : HostFrame} (etag : Nat) (h : (s.sess f.port f.session).isOpen = true) :
    s.HostsTo (s.uhpByeRun f etag) f.port f.session
      ∧ (s.uhpByeRun f etag).sess f.port f.session = { epoch := (s.sess f.port f.session).epoch + 1 }
      ∧ ∃ r, ((s.uhpByeRun f etag).hosts[f.port]).queue
          = (s.hosts[f.port]).queue.filter (fun r => r.session != f.session) ++ [r]
        ∧ r.status = stOk ∧ r.session = f.session ∧ r.tag = f.tag ∧ r.op = f.op := by
  obtain ⟨hto, hsess, hqueue⟩ := State.closeSession_effect h
  refine ⟨hto.trans (State.queueResponse_hostsTo _ _ _ _), (State.sess_queueResponse _ _ _ _).trans hsess, _,
    (State.queue_queueResponse _ _ _).trans (by rw [hqueue]), rfl, rfl, rfl, rfl⟩

/-- A session with no response waiting: discarding its responses leaves the queue. -/
theorem State.filter_queue_of_none {s : State} {p : Fin 2} {i : Fin 4} (h : s.waitingResponses p i = 0) :
    (s.hosts[p]).queue.filter (fun r => r.session != i) = (s.hosts[p]).queue := by
  have hnil := List.eq_nil_of_length_eq_zero h
  refine List.filter_eq_self.mpr fun r hr => ?_
  have := List.filter_eq_nil_iff.mp hnil r hr
  simpa using this

/-- What a frame's session was before the wake and the time-out, of which it changes neither. -/
theorem State.heard (s : State) (p : Fin 2) (i : Fin 4) : (s.startWake.touch p i) = { s.startWake with hosts := (s.startWake.touch p i).hosts }
    ∧ s.otherSessions (s.startWake.touch p i) p i
    ∧ ((s.startWake.touch p i).hosts[p]).queue = (s.hosts[p]).queue
    ∧ ∃ tmo, (s.startWake.touch p i).sess p i = { s.sess p i with tmoAt := tmo } := by
  have hhosts : s.startWake.hosts = s.hosts := s.startWake_hosts
  obtain ⟨⟨hrest, hsess, hothers⟩, hqueue, htmo⟩ := s.startWake.touch_effect p i
  simp only [State.sess, hhosts] at hsess hothers hqueue htmo
  exact ⟨hrest, ⟨hsess, hothers⟩, hqueue, htmo⟩

/-- The heard frame's effect on the hosts, from the effect on the state after the time-out. -/
theorem State.HostsTo.heard {s t : State} {p : Fin 2} {i : Fin 4} (h : (s.startWake.touch p i).HostsTo t p i) :
    t = { s.startWake with hosts := t.hosts } ∧ s.otherSessions t p i := by
  obtain ⟨hrest, ⟨hsess, hothers⟩, -⟩ := s.heard p i
  obtain ⟨krest, ksess, kothers⟩ := h
  exact ⟨by rw [krest, hrest], fun q j hne => (ksess q j hne).trans (hsess q j hne),
    fun q hne => (kothers q hne).trans (hothers q hne)⟩

/-- Settles O50: each command's effect on its own session, and on no other. -/
theorem hostSessions : Obligations.HostSessions := by
  unfold Obligations.HostSessions
  refine ⟨fun s f hf hh hl ha hv hclosed hexec hcache => ?_, fun s f hf hh hin hl ha hexec => ?_,
    fun s p i hopen htmo => ?_, fun s who p i hs hopen => ?_⟩
  · obtain ⟨-, -, hqueue0, tmo0, hsess0⟩ := s.heard f.port f.session
    have hclosed0 : ((s.startWake.touch f.port f.session).sess f.port f.session).isOpen = false := by rw [hsess0, hclosed]
    obtain ⟨hto, ⟨tmo, c, hsess⟩, r, hqueue, hst, hses, htag, hop⟩ := State.hello_opens hl hv hclosed0
    have huhp := State.uhp_executes (run := fun s _ => s.hello f) hf hh (by simp [hclosed]) (.inr hexec) (by simp [hcache])
      (State.judge_hello hf hl ha)
    refine ⟨_, r, congrArg Host.Outcome.next huhp, hto.heard.1, hto.heard.2, ?_, ?_, ?_, ?_,
      by rw [hqueue, hqueue0], hst, hses, htag, hop.trans hf.1⟩
    all_goals rw [hsess]
    any_goals rfl
    simp only [Session.opened, hsess0]
  · have hnot : opBye ≠ opHello := by decide
    obtain ⟨-, -, hqueue0, tmo0, hsess0⟩ := s.heard f.port f.session
    have hopen0 : ((s.startWake.touch f.port f.session).sess f.port f.session).isOpen = true := by rw [hsess0, hin.1]
    obtain ⟨hto, hsess, r, hqueue, hst, hses, htag, hop⟩ := State.uhpByeRun_closes f.tag.toNat hopen0
    have huhp := State.uhp_inSession (run := fun s e => s.uhpByeRun f e) hf hh hin hnot (by decide) (.inr hexec)
      (by simp [lengthBad, hf.1, hl, opHello, opRead, opWrite, opRmw, opRequest, opRun, opStore, opEvents, opAbort, opBye])
      (by rw [hf.1]; rfl) (by simp [layoutBad, hf.1, ha, opHello, opRequest, opRun, opStore, opEvents, opBye])
    refine ⟨_, r, congrArg Host.Outcome.next huhp, hto.heard.1, hto.heard.2, ?_, ?_, hst, hses, htag, hop.trans hf.1⟩
    · rw [hsess, hsess0]
    · have hwait0 : (s.startWake.touch f.port f.session).waitingResponses f.port f.session = 0 := by
        rw [State.waitingResponses, hqueue0]
        exact hh.2.2.2
      rw [hqueue, State.filter_queue_of_none hwait0, hqueue0]
  · obtain ⟨⟨hrest, hothers⟩, hsess, hqueue⟩ := State.closeSession_effect hopen
    refine ⟨_, congrArg Host.Outcome.next (if_pos ?_), hrest, hothers, hsess, hqueue⟩
    exact Option.isSome_iff_ne_none.mpr htmo
  · obtain ⟨⟨hrest, hothers⟩, hsess, hqueue⟩ := State.closeSession_effect hopen
    exact ⟨_, congrArg Host.Outcome.next (State.fab_serves hs _), hrest, hothers, hsess, hqueue⟩

end Sys2Proof.Machine
end


section
/-! PROOFS. Host operations: their effect at arrival, their words and their responses, and the read of a port (O51). -/

namespace Sys2Proof.Machine
open Sys2Proof

/-! A request that executes -/

section
variable {s : State} {p : Fin 2} {i : Fin 4}

theorem State.setExec_effect (s : State) (p : Fin 2) (i : Fin 4) (q : Request) : s.HostsTo (s.setExec p i q) p i
    ∧ (s.setExec p i q).sess p i = { s.sess p i with exec := some q }
    ∧ ((s.setExec p i q).hosts[p]).queue = (s.hosts[p]).queue :=
  ⟨s.setSess_hostsTo p i _, s.sess_setSess_self p i _, s.queue_setSess p i _⟩

/-- A frame that is heard and puts its request into execution. -/
theorem State.setExec_heard (s : State) (p : Fin 2) (i : Fin 4) (q : Request) :
    (s.startWake.touch p i).setExec p i q = { s.startWake with hosts := ((s.startWake.touch p i).setExec p i q).hosts }
      ∧ s.otherSessions ((s.startWake.touch p i).setExec p i q) p i
      ∧ (((s.startWake.touch p i).setExec p i q).sess p i).exec = some q
      ∧ (((s.startWake.touch p i).setExec p i q).hosts[p]).queue = (s.hosts[p]).queue := by
  obtain ⟨hto, hsess, hqueue⟩ := (s.startWake.touch p i).setExec_effect p i q
  obtain ⟨-, -, hqueue0, -⟩ := s.heard p i
  exact ⟨hto.heard.1, hto.heard.2, by rw [hsess], hqueue.trans hqueue0⟩

theorem State.exec_setExec (s : State) (p : Fin 2) (i : Fin 4) (q : Request) : ((s.setExec p i q).sess p i).exec = some q := by
  rw [(s.setExec_effect p i q).2.1]

theorem State.carryOn_eq (q : Request) (h : (s.sess p i).exec ≠ none) : s.carryOn p i q = s.setExec p i q := by
  simp [State.carryOn, h]

end

/-! READ, WRITE and EVENTS at their arrival -/

theorem State.turns_zero (s : State) (hw : HwBits) : s.turns 0 hw = s := rfl

section
variable {s : State} {f : HostFrame}

theorem State.uhpMove_read (hop : f.op = opRead) (etag : Nat) (hw : HwBits) : s.uhpMove f etag 0 hw =
    s.setExec f.port f.session { (s.begin f etag).2 with reads := f.len.toNat / 4 } := by
  simp only [State.uhpMove, hop, BEq.rfl, if_true, State.turns_zero]

theorem State.uhpMove_write (hop : f.op = opWrite) (etag : Nat) (hw : HwBits) : s.uhpMove f etag 0 hw =
    s.setExec f.port f.session { (s.begin f etag).2 with words := leWords f.payload } := by
  have h : (opWrite == opRead) = false := by decide
  simp only [State.uhpMove, hop, h, Bool.false_eq_true, if_false, State.turns_zero]

/-- The registers that EVENTS reads, and those that it clears behind them. -/
def Request.listsEvents (q : Request) (clear : Bool) : Request :=
  { q with events := [aFltStat, aFltFirst] ++ (List.range 12).map aPend
           clears := if clear then ((List.range 12).map aPend).map (fun a => (a, 0)) else [] }

theorem State.uhpEventsRun_eq (etag : Nat) (hw : HwBits) : s.uhpEventsRun f etag 0 hw =
    s.setExec f.port f.session ((s.begin f etag).2.listsEvents (pb f 0 = 1)) := by
  simp only [State.uhpEventsRun, State.turns_zero, Request.listsEvents, decide_eq_true_eq]

/-! RMW -/

theorem State.regRead_aRngTsetL (s : State) : s.regRead aRngTsetL = s.reg aRngTsetL := by
  have hb : aRngTsetL / 0x10000 = 0x100A := by decide
  have hoff : aRngTsetL % 0x10000 = 0x1018 := by decide
  simp only [State.regRead, hb, hoff]
  simp

theorem State.write32_aRngTsetL (s : State) (who : Who) (v ev : Word) :
    s.write32 who aRngTsetL v ev = (s.setReg aRngTsetL v, true) := by
  have hb : aRngTsetL / 0x10000 = 0x100A := by decide
  have hoff : ¬ aRngTsetL % 0x10000 < 0x1000 := by decide
  have h1 : aRngTsetL ≠ aRngCfg := by decide
  have h2 : aRngTsetL ≠ aRngCtl := by decide
  have h3 : aRngTsetL ≠ aRngStat := by decide
  have h4 : aRngTsetL ≠ aRngCmd := by decide
  rw [State.write32_eq_regWrite (by decide) (by decide), landed_of_eventBits (by decide)]
  simp only [State.regWrite, hb, hoff, State.rngRegWrite, h1, h2, h3, h4, if_false, true_or, if_true, Option.getD_some]

theorem State.read32_regRead {a : Nat} (h : regWindow a = true) (h4 : a % 4 = 0) (s : State) (who : Who) :
    s.read32 who a = (s, true, s.regRead a) := by
  have ht := s.transfer_regRead (x := { who := who, addr := a, write := false, size := 4, data := 0 }) rfl rfl h h4
  simp only [State.read32, ht]
  simp

/-- The request of an RMW that has moved its words. -/
def Request.modified (q : Request) (old : Word) : Request := { q with payload := wordBytes old, status := stOk }

theorem State.uhpRmwRun_aRngTsetL (ha : f.addr.toNat = aRngTsetL) (etag : Nat) (hw : Word) : s.uhpRmwRun f etag hw =
    ((s.setExec f.port f.session (s.begin f etag).2).setReg aRngTsetL
      (s.reg aRngTsetL &&& ~~~(pword f 0) ||| (pword f 4 &&& pword f 0))).setExec f.port f.session
      ((s.begin f etag).2.modified (s.reg aRngTsetL)) := by
  have hev : ~~~(eventBits aRngTsetL) = BitVec.allOnes 32 := by decide
  have hreg : (s.setExec f.port f.session (s.begin f etag).2).reg aRngTsetL = s.reg aRngTsetL := rfl
  simp only [State.uhpRmwRun, ha, State.read32_regRead (show regWindow aRngTsetL = true by decide) (by decide),
    State.write32_aRngTsetL, State.regRead_aRngTsetL, hev, BitVec.and_allOnes, hreg, Bool.not_true, Bool.false_eq_true, if_false,
    if_true]
  refine State.carryOn_eq _ ?_
  have := State.exec_setExec s f.port f.session (s.begin f etag).2
  exact fun h => nomatch this.symm.trans h

end

/-! REQUEST, RUN and STORE -/

section
variable {s : State} {f : HostFrame}

theorem State.uhpRequestRun_hitch {d : DomId} (hp : f.payload = [BitVec.ofNat 8 d.val, 1, 0, 0, 0, 0]) (hsd : s.sdact = false)
    (ht : s.takesPart d = true) (ho : (s.dom d).owner = .none) (hq : (s.dom d).queue = []) (etag : Nat) :
    ∃ q, s.uhpRequestRun f etag = (s.setDom d { s.dom d with
        owner := .host f.port f.session, epoch := (s.sess f.port f.session).epoch }).setExec f.port f.session q
      ∧ q.status = stOk := by
  have hd : (Fin.ofNat 16 (pb f 0) : DomId) = d := by
    have := d.isLt
    have hpb : pb f 0 = d.val := by simp [pb, hp]; omega
    rw [hpb]
    exact Fin.ext (by simp)
  have h1 : pb f 1 = 1 := by simp [pb, hp]
  have howner : ownerOf (.host f.port f.session) = Owner.host f.port f.session := rfl
  have hfree : ((s.dom d).owner == .none && (s.dom d).queue.isEmpty) = true := by simp [ho, hq]
  have hdcmd : ∀ r step, s.dcmd (.host f.port f.session) d 1 r step = (s.setDom d { s.dom d with
      owner := .host f.port f.session, epoch := (s.sess f.port f.session).epoch }, true) := fun r step => by
    simp only [State.dcmd, howner, hsd, ht, State.ownerHitch, hfree, Bool.or_true, if_true]
    rfl
  simp only [State.uhpRequestRun, hd, h1, hdcmd]
  exact ⟨_, rfl, rfl⟩

theorem State.uhpRunRun_starts {w : WickId} (hp : f.payload = [BitVec.ofNat 8 w.val, 0, 0, 0]) (hlive : f.addr.toNat < s.liveLen)
    (ha : f.addr.toNat < 4096) (hprog : s.progOf w = none) (hst : (s.wk w).st = .idle) (etag : Nat) :
    ∃ q, s.uhpRunRun f etag = (s.startWick w (BitVec.ofNat 12 f.addr.toNat)).setExec f.port f.session q ∧ q.status = stOk := by
  have hw : (Fin.ofNat 16 (pb f 0) : WickId) = w := by
    have := w.isLt
    have hpb : pb f 0 = w.val := by simp [pb, hp]; omega
    rw [hpb]
    exact Fin.ext (by simp)
  have h1 : pb f 1 = 0 := by simp [pb, hp]
  have hcan : s.canStart w (BitVec.ofNat 12 f.addr.toNat) = true :=
    (s.canStart_iff w _).mpr ⟨by simp [hst], by simpa [Nat.mod_eq_of_lt ha] using hlive⟩
  have hstart : s.wickStart w (BitVec.ofNat 12 f.addr.toNat) = (s.startWick w (BitVec.ofNat 12 f.addr.toNat), true) := by
    simp only [State.wickStart, hprog, hcan, Option.isSome_none, Bool.not_true, Bool.or_self, Bool.false_eq_true, if_false]
  simp only [State.uhpRunRun, hw, h1, hprog, hcan, State.forAll, List.range_zero, List.foldl_nil, hstart, Option.isSome_none,
    Bool.not_true, Bool.or_self, Bool.false_eq_true, if_false]
  exact ⟨_, rfl, rfl⟩

theorem State.uhpStoreRun_begins (hp : f.payload = [0]) (hl : s.keeper.locked = false) (hr : s.keeper.run = none) (etag : Nat) :
    s.uhpStoreRun f etag = (s.beginStore .store dirtyPages).setExec f.port f.session (s.begin f etag).2 := by
  have h0 : pb f 0 = 0 := by simp [pb, hp]
  have hstore : s.kpsStore = s.beginStore .store dirtyPages := State.requestStore_begins _ _ hl hr
  simp [State.uhpStoreRun, h0, hstore]

/-! ABORT -/

theorem State.uhpAbortRun_none (h : (s.sess f.port f.session).exec = none) (etag : Nat) :
    s.uhpAbortRun f etag = s.answer f etag stNotFound [] := by
  simp only [State.uhpAbortRun, h]

theorem State.uhpAbortRun_read {q : Request} (h : (s.sess f.port f.session).exec = some q) (hop : q.op = opRead)
    (htag : q.tag.toNat = pb f 0 + 256 * pb f 1) (etag : Nat) :
    s.uhpAbortRun f etag = (s.finishRequest f.port f.session q (some stAborted)).answer f etag stOk [] := by
  have hne : (q.tag.toNat != pb f 0 + 256 * pb f 1) = false := by simp [htag]
  simp only [State.uhpAbortRun, h, hop, hne, BEq.rfl, Bool.true_or, Bool.not_true, Bool.or_self, Bool.false_eq_true, if_false]

end

/-- What the end of a request does to its session and its port. -/
theorem State.finishRequest_effect (s : State) (p : Fin 2) (i : Fin 4) (q : Request) (stop : Option Byte) :
    s.HostsTo (s.finishRequest p i q stop) p i ∧ ((s.finishRequest p i q stop).sess p i).exec = none
    ∧ ∃ r, ((s.finishRequest p i q stop).hosts[p]).queue = (s.hosts[p]).queue ++ [r] ∧ r.tag = q.tag
      ∧ (∀ b, stop = some b → r.status = b)
      ∧ (stop = none → q.refusedAt = none → r.status = q.status ∧ r.addr = q.echo)
      ∧ (q.op = opRead ∨ q.op = opEvents → r.payload = q.got) := by
  obtain ⟨r, hr, htag, hstatus, hok, hpay⟩ : ∃ r, s.finishRequest p i q stop
        = ((s.setSess p i { s.sess p i with exec := none }).queueResponse p r).cacheResponse p i q.etag r
          (q.echo, BitVec.ofNat 16 (q.got.length + 4 * q.reads)) ∧ r.tag = q.tag
      ∧ (∀ b, stop = some b → r.status = b)
      ∧ (stop = none → q.refusedAt = none → r.status = q.status ∧ r.addr = q.echo)
      ∧ (q.op = opRead ∨ q.op = opEvents → r.payload = q.got) := by
    refine ⟨_, rfl, rfl, ?_, ?_, ?_⟩
    · rintro b rfl
      rfl
    · rintro rfl hn
      simp [State.respond, hn]
    · intro h
      rcases h with h | h
      · simp [State.respond, h]
      · simp [State.respond, h]
  obtain ⟨hto, hqueue, c, hsess⟩ := (s.setSess p i { s.sess p i with exec := none }).queueCache_effect p i q.etag r
    (q.echo, BitVec.ofNat 16 (q.got.length + 4 * q.reads))
  rw [hr]
  exact ⟨(s.setSess_hostsTo p i _).trans hto, by rw [hsess, s.sess_setSess_self],
    r, by rw [hqueue, s.queue_setSess], htag, hstatus, hok, hpay⟩

/-! The turns of requester 7 -/

/-- A list of lists of which one alone is not empty. -/
theorem flatMap_of_one {α β : Type} {l : List α} {a : α} {g : α → List β} (hl : l.Nodup) (ha : a ∈ l)
    (hg : ∀ b ∈ l, b ≠ a → g b = []) : l.flatMap g = g a := by
  induction l with
  | nil => exact nomatch ha
  | cons b l ih =>
    obtain ⟨hb, hl⟩ := List.nodup_cons.mp hl
    rw [List.flatMap_cons]
    by_cases hab : b = a
    · subst hab
      have hnil : l.flatMap g = [] :=
        List.flatMap_eq_nil_iff.mpr fun c hc => hg c (List.mem_cons_of_mem _ hc) fun e => hb (e ▸ hc)
      rw [hnil, List.append_nil]
    · have hal : a ∈ l := (List.mem_cons.mp ha).resolve_left (Ne.symm hab)
      rw [hg b List.mem_cons_self hab, List.nil_append, ih hl hal fun c hc => hg c (List.mem_cons_of_mem _ hc)]

section
variable {s : State} {p : Fin 2} {i : Fin 4} {q : Request}

/-- With one request executing, it alone has its turn. -/
theorem State.turnOrder_one (h : (s.sess p i).exec = some q) (hnone : ∀ p' i', (p', i') ≠ (p, i) → (s.sess p' i').exec = none) :
    s.turnOrder = [(p, i)] := by
  have hports : (List.finRange 2).flatMap (fun p => (List.finRange 4).filterMap (fun i =>
      (s.sess p i).exec.map (fun q => (q.since, p, i)))) = [(q.since, p, i)] := by
    rw [flatMap_of_one (List.nodup_finRange 2) (List.mem_finRange p), List.filterMap_eq_flatMap_toList,
      flatMap_of_one (List.nodup_finRange 4) (List.mem_finRange i), h]
    · rfl
    · intro j _ hj
      rw [hnone p j fun e => hj (Prod.mk.inj e).2]
      rfl
    · intro p' _ hp
      refine List.filterMap_eq_nil_iff.mpr fun j _ => ?_
      rw [hnone p' j fun e => hp (Prod.mk.inj e).1]
      rfl
  rw [State.turnOrder, hports, List.foldr_cons, List.foldr_nil, insTurn, List.map_cons, List.map_nil]

theorem State.turn_one (h : (s.sess p i).exec = some q) (hnone : ∀ p' i', (p', i') ≠ (p, i) → (s.sess p' i').exec = none)
    (hw : HwBits) : s.turn hw = (s.moveWord p i q hw).1.carryOn p i (s.moveWord p i q hw).2 := by
  rw [State.turn, State.turnOrder_one h hnone]
  simp only [State.forAll, List.foldl_cons, List.foldl_nil, h]

/-- A request with one word left, the only one that executes, moves it and ends. -/
theorem State.responseReady_last {q' : Request} (h : (s.sess p i).exec = some q)
    (hnone : ∀ p' i', (p', i') ≠ (p, i) → (s.sess p' i').exec = none) (hwait : q.waitStore = none) (hleft : q.left = 1)
    (hw : HwBits) (hmove : s.moveWord p i q hw = (s, q')) :
    s.responseReady p i hw = (s.setExec p i q').finishRequest p i q' none := by
  have hturn : s.turn hw = s.setExec p i q' := by
    rw [State.turn_one h hnone, hmove]
    exact State.carryOn_eq q' fun e => nomatch h.symm.trans e
  have hpos : decide (0 < 1) = true := rfl
  simp only [State.responseReady, h, hwait, hleft, State.turnsFor, Option.any_some, Option.isSome_none, Bool.false_eq_true,
    if_false, hpos, if_true, hturn, State.exec_setExec]

/-- The effect on the hosts of a request's last word. -/
theorem State.lastWord_effect (q' : Request) (hop : q'.op = opRead ∨ q'.op = opEvents) (href : q'.refusedAt = none) :
    s.HostsTo ((s.setExec p i q').finishRequest p i q' none) p i
      ∧ (((s.setExec p i q').finishRequest p i q' none).sess p i).exec = none
      ∧ ∃ r, (((s.setExec p i q').finishRequest p i q' none).hosts[p]).queue = (s.hosts[p]).queue ++ [r]
        ∧ r.status = q'.status ∧ r.payload = q'.got ∧ r.tag = q'.tag ∧ r.addr = q'.echo := by
  obtain ⟨hto, -, hqueue⟩ := s.setExec_effect p i q'
  obtain ⟨hto', hexec, r, hqueue', htag, -, hok, hpay⟩ := (s.setExec p i q').finishRequest_effect p i q' none
  exact ⟨hto.trans hto', hexec, r, by rw [hqueue', hqueue], (hok rfl href).1, hpay hop, htag, (hok rfl href).2⟩

/-- The bytes of a word as its lowest four bytes. -/
theorem leBytes_four (v : Word) : leBytes 4 v.toNat = wordBytes v := by
  simp only [leBytes, wordBytes, List.cons.injEq, and_true]
  refine ⟨?_, ?_, ?_, ?_⟩
  all_goals
    apply BitVec.eq_of_toNat_eq
    rw [BitVec.toNat_ofNat, BitVec.extractLsb'_toNat, Nat.shiftRight_eq_div_pow]
  all_goals omega

theorem State.hostRead_register {a : Word} (h : regWindow a.toNat = true) (h4 : a.toNat % 4 = 0) :
    s.hostRead p i false a 4 = (s, true, wordBytes (s.regRead a.toNat)) := by
  have ht := s.transfer_regRead (x := { who := .host p i, addr := a.toNat, write := false, size := 4, data := 0 }) rfl rfl h h4
  have hset : ((s.regRead a.toNat).setWidth 64).toNat = (s.regRead a.toNat).toNat := by
    rw [BitVec.toNat_setWidth]
    exact Nat.mod_eq_of_lt (by have := (s.regRead a.toNat).isLt; omega)
  simp only [State.hostRead, Bool.false_eq_true, if_false, ht, hset, leBytes_four]

/-- The last word of a READ of version 3. -/
def Request.readLast (q : Request) (w : Word) : Request :=
  { q with cursor := q.cursor + BitVec.ofNat 32 4, reads := 0, got := q.got ++ wordBytes w }

theorem State.moveWord_read (hop : q.op = opRead) (hver : q.ver = 3) (hreads : q.reads = 1)
    (h : regWindow q.cursor.toNat = true) (h4 : q.cursor.toNat % 4 = 0) (hw : HwBits) :
    s.moveWord p i q hw = (s, q.readLast (s.regRead q.cursor.toNat)) := by
  have hne : (opRead == opEvents) = false := by decide
  have hv : (q.ver == 1) = false := by rw [hver]; decide
  have hpair : pairAt false q.cursor 1 = false := by simp [pairAt]
  simp only [State.moveWord, hop, hne, hv, hreads, hpair, Bool.false_eq_true, if_false, Nat.lt_one_iff, if_true, Nat.mul_one,
    State.hostRead_register h h4, Nat.sub_self, Request.readLast]

/-- The last register of EVENTS. -/
def Request.eventLast (q : Request) (w : Word) : Request := { q with events := [], got := q.got ++ wordBytes w }

theorem State.moveWord_event {a : Nat} (hop : q.op = opEvents) (hev : q.events = [a]) (hcl : q.clears = [])
    (h : regWindow a = true) (h4 : a % 4 = 0) (hw : HwBits) :
    s.moveWord p i q hw = (s, q.eventLast (s.regRead a)) := by
  simp only [State.moveWord, hop, BEq.rfl, if_true, State.moveEvent, hev, hcl, State.read32_regRead h h4, List.map_nil,
    Request.eventLast]

end

/-! Frames that are held, and frames behind the causes of their cycle -/

theorem State.uhp_held {s : State} {f : HostFrame} {op : Byte} {run : State → Nat → State} (hl : s.hostListens f.port = true)
    (hoff : s.fabricOn = false) (hop : f.op = op) (hco : f.co = []) :
    s.uhp f op run = { s with power := { s.power with waking := s.power.waking || s.asleep, held := s.power.held ++ [f] } } := by
  have hnot : (opListed f.op && f.op != op) = false := by simp [hop]
  have hsec : s.secEvents f.co = s := by rw [hco]; rfl
  have hoff' : s.startWake.fabricOn = false := (s.hostOpen_startWake f.port).2.trans hoff
  have hwake : s.startWake = { s with power := { s.power with waking := s.power.waking || s.asleep } } := by
    have hp := s.startWake_power
    unfold State.startWake at hp ⊢
    split
    · next h => rw [h, Bool.or_true]
    · next h => rw [Bool.eq_false_iff.mpr h, Bool.or_false]
  have hf : ({ f with co := [] } : HostFrame) = f := by rw [← hco]
  simp only [State.uhp, hnot, hsec, hl, hoff', hf, Bool.not_true, Bool.false_eq_true, if_false]
  rw [hwake]

/-- A frame acts behind the causes of its cycle. -/
theorem State.uhp_behind {s : State} {f : HostFrame} {l : List SecEvent} {op : Byte} {run run' : State → Nat → State}
    (hop : f.op = op) (h : run = run') : s.uhp { f with co := l } op run = (s.secEvents l).uhp { f with co := [] } op run' := by
  subst h
  have hnot : (opListed f.op && f.op != op) = false := by simp [hop]
  simp only [State.uhp, hnot, Bool.false_eq_true, if_false]
  rfl

theorem execWakeComplete_awake {s : State} (h : s.power.waking = false) (hw : HwBits) (l : List SecEvent) :
    execWakeComplete hw l s = .next (s.secEvents l) := by
  simp [execWakeComplete, h]

/-! The read of a port -/

theorem execHostRead_eq {s : State} {p : Fin 2} {b : Byte} {n : Nat} {r : Response} {l : List Response}
    (hr : s.hostReads p = true) (ht : s.transportOk p b 0x52 0xD2 = true) (hq : (s.hosts[p]).queue = r :: l) :
    execHostRead p b n s = .next { s.startWake with hosts := s.hosts.set p { s.hosts[p] with
      out := s.portStatus p :: ((responseBytes r).take n
        ++ if p = 0 then [] else List.replicate (n - (responseBytes r).length) 0xFF)
      queue := if (responseBytes r).length ≤ n then l else r :: l } } := by
  have hstatus : s.startWake.portStatus p = s.portStatus p := by simp [State.portStatus, State.sess]
  have hhosts : s.startWake.hosts = s.hosts := s.startWake_hosts
  simp only [execHostRead, hr, ht, hhosts, hq, State.clockedOut, hstatus, Bool.not_true, Bool.false_eq_true, if_false]

/-! The checks of R576, operation by operation -/

section
variable {s : State} {f : HostFrame} {run : State → Nat → State}

/-- A READ or WRITE of whole aligned words executes. -/
theorem State.uhp_words {op : Byte} (hop : op = opRead ∨ op = opWrite) (hf : frameSound f op) (hh : s.hears f) (hin : s.inSession f)
    (hexec : (s.sess f.port f.session).exec = none) (h4 : f.len.toNat % 4 = 0) (hle : f.len.toNat ≤ 1024)
    (hal : f.addr.toNat % 4 = 0) : s.uhp f op run = run (s.startWake.touch f.port f.session) f.tag.toNat := by
  have hle' : ¬ 1024 < f.len.toNat := by omega
  rcases hop with rfl | rfl
  · exact State.uhp_inSession hf hh hin (by decide) (by decide) (.inr hexec)
      (by simp [lengthBad, hf.1, h4, hle', opHello, opRead, opWrite, opRmw, opRequest, opRun, opStore, opEvents, opAbort, opBye])
      (by simp [hal])
      (by simp [layoutBad, hf.1, opHello, opRead, opRequest, opRun, opStore, opEvents, opAbort, opBye])
  · exact State.uhp_inSession hf hh hin (by decide) (by decide) (.inr hexec)
      (by simp [lengthBad, hf.1, h4, hle', opHello, opRead, opWrite, opRmw, opRequest, opRun, opStore, opEvents, opAbort, opBye])
      (by simp [hal])
      (by simp [layoutBad, hf.1, opHello, opWrite, opRequest, opRun, opStore, opEvents, opAbort, opBye])

theorem State.uhp_rmw (hf : frameSound f opRmw) (hh : s.hears f) (hin : s.inSession f)
    (hexec : (s.sess f.port f.session).exec = none) (hl : f.len = 8) (hal : f.addr.toNat % 4 = 0) :
    s.uhp f opRmw run = run (s.startWake.touch f.port f.session) f.tag.toNat :=
  State.uhp_inSession hf hh hin (by decide) (by decide) (.inr hexec)
    (by simp [lengthBad, hf.1, hl, opHello, opRead, opWrite, opRmw, opRequest, opRun, opStore, opEvents, opAbort, opBye])
    (by simp [hal])
    (by simp [layoutBad, hf.1, opHello, opRmw, opRequest, opRun, opStore, opEvents, opAbort, opBye])

theorem State.uhp_hitchRequest {d : DomId} (hf : frameSound f opRequest) (hh : s.hears f) (hin : s.inSession f)
    (hexec : (s.sess f.port f.session).exec = none) (hl : f.len = 6) (ha : f.addr = 0)
    (hp : f.payload = [BitVec.ofNat 8 d.val, 1, 0, 0, 0, 0]) :
    s.uhp f opRequest run = run (s.startWake.touch f.port f.session) f.tag.toNat := by
  have hd : ¬ 15 < d.val % 256 := by
    have := d.isLt
    omega
  exact State.uhp_inSession hf hh hin (by decide) (by decide) (.inr hexec)
    (by simp [lengthBad, hf.1, hl, opHello, opRead, opWrite, opRmw, opRequest, opRun, opStore, opEvents, opAbort, opBye])
    (by simp [hf.1, opRead, opWrite, opRmw, opRequest])
    (by simp [layoutBad, hf.1, ha, hp, pb, sgn, hd, opHello, opRequest, opRun, opStore, opEvents, opAbort, opBye])

theorem State.uhp_run {w : WickId} (hf : frameSound f opRun) (hh : s.hears f) (hin : s.inSession f)
    (hexec : (s.sess f.port f.session).exec = none) (hl : f.len = 4) (ha : f.addr.toNat < 4096)
    (hp : f.payload = [BitVec.ofNat 8 w.val, 0, 0, 0]) :
    s.uhp f opRun run = run (s.startWake.touch f.port f.session) f.tag.toNat := by
  have hd : ¬ 15 < w.val % 256 := by
    have := w.isLt
    omega
  have ha' : ¬ 4095 < f.addr.toNat := by omega
  exact State.uhp_inSession hf hh hin (by decide) (by decide) (.inr hexec)
    (by simp [lengthBad, hf.1, hl, hp, pb, opHello, opRead, opWrite, opRmw, opRequest, opRun, opStore, opEvents, opAbort, opBye])
    (by simp [hf.1, opRead, opWrite, opRmw, opRun])
    (by simp [layoutBad, hf.1, ha', hp, pb, hd, opHello, opRequest, opRun, opStore, opEvents, opAbort, opBye])

/-- A STORE or EVENTS of one byte of parameters, 0 or 1, executes. -/
theorem State.uhp_oneByte {op : Byte} (hop : op = opStore ∨ op = opEvents) (hf : frameSound f op) (hh : s.hears f)
    (hin : s.inSession f) (hexec : (s.sess f.port f.session).exec = none) (hl : f.len = 1) (ha : f.addr = 0)
    (hp : pb f 0 ≤ 1) : s.uhp f op run = run (s.startWake.touch f.port f.session) f.tag.toNat := by
  have hp1 : ¬ 1 < pb f 0 := by omega
  have hp3 : ¬ 3 < pb f 0 := by omega
  rcases hop with rfl | rfl
  · exact State.uhp_inSession hf hh hin (by decide) (by decide) (.inr hexec)
      (by simp [lengthBad, hf.1, hl, opHello, opRead, opWrite, opRmw, opRequest, opRun, opStore, opEvents, opAbort, opBye])
      (by simp [hf.1, opRead, opWrite, opRmw, opStore])
      (by simp [layoutBad, hf.1, ha, hp3, opHello, opRequest, opRun, opStore, opEvents, opAbort, opBye])
  · exact State.uhp_inSession hf hh hin (by decide) (by decide) (.inr hexec)
      (by simp [lengthBad, hf.1, hl, opHello, opRead, opWrite, opRmw, opRequest, opRun, opStore, opEvents, opAbort, opBye])
      (by simp [hf.1, opRead, opWrite, opRmw, opEvents])
      (by simp [layoutBad, hf.1, ha, hp1, opHello, opRequest, opRun, opStore, opEvents, opAbort, opBye])

theorem State.uhp_abort (hf : frameSound f opAbort) (hh : s.hears f) (hin : s.inSession f) (hl : f.len = 2) (ha : f.addr = 0) :
    s.uhp f opAbort run = run (s.startWake.touch f.port f.session) f.tag.toNat :=
  State.uhp_inSession hf hh hin (by decide) (by decide) (.inl rfl)
    (by simp [lengthBad, hf.1, hl, opHello, opRead, opWrite, opRmw, opRequest, opRun, opStore, opEvents, opAbort, opBye])
    (by simp [hf.1, opRead, opWrite, opRmw, opAbort])
    (by simp [layoutBad, hf.1, ha, opHello, opRequest, opRun, opStore, opEvents, opAbort, opBye])

end

/-! Operations at their arrival -/

section
variable {s : State} {f : HostFrame}

theorem execUhpRmw_arrives (hw : Word) (hf : frameSound f opRmw) (hh : s.hears f) (hin : s.inSession f)
    (hexec : (s.sess f.port f.session).exec = none) (hl : f.len = 8) (ha : f.addr.toNat = aRngTsetL) :
    ∃ t q, exec (.uhpRmw f hw) s = .next t ∧ t = { s.startWake with hosts := t.hosts, regs := t.regs }
      ∧ t.reg aRngTsetL = s.reg aRngTsetL &&& ~~~(pword f 0) ||| (pword f 4 &&& pword f 0)
      ∧ (∀ a, a ≠ aRngTsetL → t.reg a = s.reg a)
      ∧ (t.sess f.port f.session).exec = some q ∧ q.payload = wordBytes (s.reg aRngTsetL) ∧ q.status = stOk := by
  obtain ⟨hrest, -⟩ := s.heard f.port f.session
  have hregs : ∀ a, (s.startWake.touch f.port f.session).reg a = s.reg a := fun a => by
    rw [hrest]
    exact s.startWake_reg a
  refine ⟨_, _, congrArg Host.Outcome.next ((State.uhp_rmw hf hh hin hexec hl (by rw [ha]; decide)).trans
    (State.uhpRmwRun_aRngTsetL ha _ _)), ?_, ?_, fun a hne => ?_, State.exec_setExec _ _ _ _, ?_, rfl⟩
  · generalize s.startWake.touch f.port f.session = t at hrest
    rw [hrest]
    rfl
  · rw [← hregs]
    exact State.reg_setReg_self _ _ _
  · exact (State.reg_setReg_ne _ hne _).trans (hregs a)
  · rw [← hregs]
    rfl

theorem execUhpRequest_arrives {d : DomId} (hf : frameSound f opRequest) (hh : s.hears f) (hin : s.inSession f)
    (hexec : (s.sess f.port f.session).exec = none) (hl : f.len = 6) (ha : f.addr = 0)
    (hp : f.payload = [BitVec.ofNat 8 d.val, 1, 0, 0, 0, 0]) (hsd : s.sdact = false) (htp : s.takesPart d = true)
    (ho : (s.dom d).owner = .none) (hq : (s.dom d).queue = []) :
    ∃ t q, exec (.uhpRequest f) s = .next t ∧ t = { s.startWake with hosts := t.hosts, doms := t.doms }
      ∧ t.dom d = { s.dom d with owner := .host f.port f.session, epoch := (s.sess f.port f.session).epoch }
      ∧ (∀ e, e ≠ d → t.dom e = s.dom e) ∧ (t.sess f.port f.session).exec = some q ∧ q.status = stOk := by
  obtain ⟨hrest, -, -, tmo, hsess⟩ := s.heard f.port f.session
  have hdoms : (s.startWake.touch f.port f.session).doms = s.doms := by rw [hrest]; exact s.startWake_doms
  have hdom : ∀ e, (s.startWake.touch f.port f.session).dom e = s.dom e := fun e => congrArg (fun v => v[e]) hdoms
  have hepoch : ((s.startWake.touch f.port f.session).sess f.port f.session).epoch = (s.sess f.port f.session).epoch := by
    rw [hsess]
  have hsd' : (s.startWake.touch f.port f.session).sdact = false := by rw [hrest]; simpa [State.sdact] using hsd
  have htp' : (s.startWake.touch f.port f.session).takesPart d = true := by
    rw [hrest]
    simpa [State.takesPart, State.dom, State.bit, State.reg] using htp
  obtain ⟨q, hrun, hst⟩ := State.uhpRequestRun_hitch hp hsd' htp' ((congrArg Domain.owner (hdom d)).trans ho)
    ((congrArg Domain.queue (hdom d)).trans hq) f.tag.toNat
  refine ⟨_, q, congrArg Host.Outcome.next ((State.uhp_hitchRequest hf hh hin hexec hl ha hp).trans hrun), ?_, ?_, fun e he => ?_,
    State.exec_setExec _ _ _ _, hst⟩
  · generalize s.startWake.touch f.port f.session = t at hrest
    rw [hrest]
    rfl
  · rw [← hepoch, ← hdom]
    exact State.dom_setDom_self _ d _
  · exact (State.dom_setDom_ne _ he _).trans (hdom e)

theorem execUhpRun_arrives {w : WickId} (hf : frameSound f opRun) (hh : s.hears f) (hin : s.inSession f)
    (hexec : (s.sess f.port f.session).exec = none) (hl : f.len = 4)
    (hp : f.payload = [BitVec.ofNat 8 w.val, 0, 0, 0]) (ha : f.addr.toNat < 4096) (hlive : f.addr.toNat < s.liveLen)
    (hprog : s.progOf w = none) (hst : (s.wk w).st = .idle) :
    ∃ t q, exec (.uhpRun f) s = .next t ∧ t = { s.startWake with hosts := t.hosts, wicks := t.wicks } ∧ (t.wk w).st = .run
      ∧ (t.wk w).pc = BitVec.ofNat 12 f.addr.toNat ∧ (t.wk w).epoch = (s.wk w).epoch + 1
      ∧ (∀ u, u ≠ w → t.wk u = s.wk u) ∧ (t.sess f.port f.session).exec = some q ∧ q.status = stOk := by
  obtain ⟨hrest, -⟩ := s.heard f.port f.session
  have hwk : ∀ u, (s.startWake.touch f.port f.session).wk u = s.wk u := fun u => by
    rw [hrest]
    simp [State.wk]
  have hlive' : f.addr.toNat < (s.startWake.touch f.port f.session).liveLen := by
    rw [hrest]
    simpa [State.liveLen, State.fld, State.reg] using hlive
  have hprog' : (s.startWake.touch f.port f.session).progOf w = none := by
    rw [hrest]
    simpa [State.progOf, State.pwick, State.fld, State.reg, State.dom] using hprog
  obtain ⟨q, hrun, hst'⟩ := State.uhpRunRun_starts hp hlive' ha hprog' ((congrArg Wick.st (hwk w)).trans hst) f.tag.toNat
  refine ⟨_, q, congrArg Host.Outcome.next ((State.uhp_run hf hh hin hexec hl ha hp).trans hrun), ?_, ?_, ?_, ?_, fun u hu => ?_,
    State.exec_setExec _ _ _ _, hst'⟩
  · generalize s.startWake.touch f.port f.session = t at hrest
    rw [hrest]
    rfl
  · exact congrArg Wick.st (State.wk_setWk_self _ w _)
  · exact congrArg Wick.pc (State.wk_setWk_self _ w _)
  · exact (congrArg Wick.epoch (State.wk_setWk_self _ w _)).trans (by rw [← hwk]; rfl)
  · exact (State.wk_setWk_ne _ hu _).trans (hwk u)

theorem execUhpStore_arrives (hf : frameSound f opStore) (hh : s.hears f) (hin : s.inSession f)
    (hexec : (s.sess f.port f.session).exec = none) (hl : f.len = 1) (ha : f.addr = 0)
    (hp : f.payload = [0]) (hlock : s.keeper.locked = false) (hrun : s.keeper.run = none) :
    ∃ t q, exec (.uhpStore f) s = .next t ∧ t = { s.startWake with hosts := t.hosts, keeper := t.keeper }
      ∧ t.keeper.number = s.keeper.number + 1 ∧ t.keeper.last = some .store
      ∧ (∃ j, t.keeper.run = some j ∧ j.kind = .store ∧ j.left = (List.range 256).map (fun k => (k, false)))
      ∧ (t.sess f.port f.session).exec = some q ∧ q.waitStore = none ∧ q.status = stOk := by
  obtain ⟨hrest, -⟩ := s.heard f.port f.session
  have hkeeper : (s.startWake.touch f.port f.session).keeper = s.keeper := by rw [hrest]; exact s.startWake_keeper
  have hrun' := State.uhpStoreRun_begins (s := s.startWake.touch f.port f.session) hp (by rw [hkeeper, hlock])
    (by rw [hkeeper, hrun]) f.tag.toNat
  refine ⟨_, _, congrArg Host.Outcome.next ((State.uhp_oneByte (.inl rfl) hf hh hin hexec hl ha (by simp [pb, hp])).trans hrun'),
    ?_, ?_, rfl, ⟨_, rfl, rfl, rfl⟩, State.exec_setExec _ _ _ _, rfl, rfl⟩
  · generalize s.startWake.touch f.port f.session = t at hrest
    rw [hrest]
    rfl
  · rw [← hkeeper]
    rfl

end

section
variable {s : State} {p : Fin 2} {i : Fin 4} {q : Request}

/-- The last word of a request that it moves without a change of the state. -/
theorem execResponseReady_last {q' : Request} (hexec : (s.sess p i).exec = some q)
    (hnone : ∀ p' i', (p', i') ≠ (p, i) → (s.sess p' i').exec = none) (hwait : q.waitStore = none) (hleft : q.left = 1) (hw : HwBits)
    (hmove : s.moveWord p i q hw = (s, q')) (hop : q'.op = opRead ∨ q'.op = opEvents) (href : q'.refusedAt = none) :
    ∃ t r, exec (.responseReady p i hw []) s = .next t ∧ t = { s with hosts := t.hosts } ∧ s.otherSessions t p i
      ∧ (t.sess p i).exec = none ∧ (t.hosts[p]).queue = (s.hosts[p]).queue ++ [r] ∧ r.status = q'.status
      ∧ r.payload = q'.got ∧ r.tag = q'.tag ∧ r.addr = q'.echo := by
  obtain ⟨⟨hrest, hoth⟩, hnone', r, hqueue, heffect⟩ := State.lastWord_effect (s := s) (p := p) (i := i) q' hop href
  have hexec' : exec (.responseReady p i hw []) s = .next (s.responseReady p i hw) := rfl
  rw [State.responseReady_last hexec hnone hwait hleft hw hmove] at hexec'
  exact ⟨_, r, hexec', hrest, hoth, hnone', hqueue, heffect⟩

end

theorem execHostRead_reads {s : State} {p : Fin 2} {b : Byte} {n : Nat} {r : Response} {l : List Response}
    (hr : s.hostReads p = true) (ht : s.transportOk p b 0x52 0xD2 = true) (hq : (s.hosts[p]).queue = r :: l) :
    ∃ t, exec (.hostRead p b n) s = .next t ∧ t = { s.startWake with hosts := t.hosts } ∧ (∀ q, q ≠ p → t.hosts[q] = s.hosts[q])
      ∧ (n < (responseBytes r).length →
        t.hosts[p] = { s.hosts[p] with out := s.portStatus p :: (responseBytes r).take n })
      ∧ ((responseBytes r).length ≤ n → t.hosts[p] = { s.hosts[p] with
          out := s.portStatus p :: (responseBytes r
            ++ if p = 0 then [] else List.replicate (n - (responseBytes r).length) 0xFF)
          queue := l }) := by
  refine ⟨_, execHostRead_eq hr ht hq, rfl, fun q hq => s.hosts_set_ne hq _, fun hn => ?_, fun hn => ?_⟩
  · refine (s.hosts_set_self p _).trans ?_
    have hpad : n - (responseBytes r).length = 0 := by omega
    rw [if_neg (by omega), hpad, ← hq]
    simp
  · refine (s.hosts_set_self p _).trans ?_
    rw [if_pos hn, List.take_of_length_le hn]

theorem State.uhpAbortRun_ends {s : State} {f : HostFrame} {q : Request} (h : (s.sess f.port f.session).exec = some q)
    (hop : q.op = opRead) (htag : q.tag.toNat = pb f 0 + 256 * pb f 1) (etag : Nat) :
    s.HostsTo (s.uhpAbortRun f etag) f.port f.session ∧ ((s.uhpAbortRun f etag).sess f.port f.session).exec = none
      ∧ ∃ r u, ((s.uhpAbortRun f etag).hosts[f.port]).queue = (s.hosts[f.port]).queue ++ [r, u]
        ∧ r.status = stAborted ∧ r.tag = q.tag ∧ r.payload = q.got ∧ u.status = stOk ∧ u.tag = f.tag := by
  obtain ⟨hto, hnone, r, hqueue, hrtag, hrst, -, hrpay⟩ := s.finishRequest_effect f.port f.session q (some stAborted)
  rw [State.uhpAbortRun_read h hop htag]
  generalize s.finishRequest f.port f.session q (some stAborted) = t at hto hnone hqueue
  obtain ⟨hto', ⟨c, hsess'⟩, u, hqueue', hst, -, hutag, -⟩ := t.answer_effect f etag stOk []
  refine ⟨hto.trans hto', by rw [hsess']; exact hnone, r, u, ?_, hrst _ rfl, hrtag, hrpay (.inl hop), hst, hutag⟩
  rw [hqueue', hqueue, List.append_assoc]
  rfl

theorem execUhpAbort_read {s : State} {f : HostFrame} {q : Request} (hf : frameSound f opAbort) (hh : s.hears f)
    (hin : s.inSession f) (hl : f.len = 2) (ha : f.addr = 0) (hexec : (s.sess f.port f.session).exec = some q)
    (hop : q.op = opRead) (htag : q.tag.toNat = pb f 0 + 256 * pb f 1) :
    ∃ t r u, exec (.uhpAbort f) s = .next t ∧ t = { s.startWake with hosts := t.hosts } ∧ s.otherSessions t f.port f.session
      ∧ (t.sess f.port f.session).exec = none ∧ (t.hosts[f.port]).queue = (s.hosts[f.port]).queue ++ [r, u]
      ∧ r.status = stAborted ∧ r.tag = q.tag ∧ r.payload = q.got ∧ u.status = stOk ∧ u.tag = f.tag := by
  obtain ⟨-, -, hqueue0, tmo, hsess⟩ := s.heard f.port f.session
  have hexec' : ((s.startWake.touch f.port f.session).sess f.port f.session).exec = some q := by rw [hsess, hexec]
  obtain ⟨hto, hnone, r, u, hqueue, heffect⟩ := State.uhpAbortRun_ends hexec' hop htag f.tag.toNat
  have huhp := State.uhp_abort (run := fun s e => s.uhpAbortRun f e) hf hh hin hl ha
  exact ⟨_, r, u, congrArg Host.Outcome.next huhp, hto.heard.1, hto.heard.2, hnone, by rw [hqueue, hqueue0], heffect⟩

/-- Settles O51, operation by operation: the frame that is heard executes, and the turns of requester 7 move its words. -/
theorem hostOperations : Obligations.HostOperations := by
  unfold Obligations.HostOperations
  refine ⟨fun s f hh hin hexec => ⟨fun hw hf h4 hle hal => ?_, fun hw hf h4 hle hal => ?_, fun hw hf hl ha => ?_,
      fun d hf hl ha hp hsd htp ho hq => ?_, fun w hf hl hp ha hlive hprog hst => ?_, fun hf hl ha hp hlock hrun => ?_,
      fun hw b hf hl ha hp => ?_⟩,
    fun s f n hw hlis hoff hop hco => ?_, fun s f l hw hwk u hu x hx hop => ?_,
    fun s f hf hh hin hl ha => ⟨fun hexec => ?_, fun q hexec hop htag => ?_⟩,
    fun s p i q hw hexec hnone hwait hop hver hreads hwords hev hcl href hst hwin h4 => ?_,
    fun s p i q hw a hexec hnone hwait hop hreads hwords hev hcl href hst hwin h4 => ?_,
    fun s p b n r l hr ht hq => ?_⟩
  · obtain ⟨hrest, hoth, hex, hqueue⟩ := s.setExec_heard f.port f.session
      { ((s.startWake.touch f.port f.session).begin f f.tag.toNat).2 with reads := f.len.toNat / 4 }
    refine ⟨_, _, congrArg Host.Outcome.next ((State.uhp_words (.inl rfl) hf hh hin hexec h4 hle hal).trans
      (State.uhpMove_read hf.1 _ _)), hrest, hoth, hex, hf.1, rfl, rfl, rfl, rfl, rfl, hqueue⟩
  · obtain ⟨hrest, hoth, hex, hqueue⟩ := s.setExec_heard f.port f.session
      { ((s.startWake.touch f.port f.session).begin f f.tag.toNat).2 with words := leWords f.payload }
    refine ⟨_, _, congrArg Host.Outcome.next ((State.uhp_words (.inr rfl) hf hh hin hexec h4 hle hal).trans
      (State.uhpMove_write hf.1 _ _)), hrest, hoth, hex, hf.1, rfl, rfl, rfl, hqueue⟩
  · exact execUhpRmw_arrives hw hf hh hin hexec hl ha
  · exact execUhpRequest_arrives hf hh hin hexec hl ha hp hsd htp ho hq
  · exact execUhpRun_arrives hf hh hin hexec hl hp ha hlive hprog hst
  · exact execUhpStore_arrives hf hh hin hexec hl ha hp hlock hrun
  · obtain ⟨hrest, hoth, hex, hqueue⟩ := s.setExec_heard f.port f.session
      (((s.startWake.touch f.port f.session).begin f f.tag.toNat).2.listsEvents (pb f 0 = 1))
    have hpb : pb f 0 = if b then 1 else 0 := by cases b <;> simp [pb, hp]
    refine ⟨_, _, congrArg Host.Outcome.next ((State.uhp_oneByte (.inr rfl) hf hh hin hexec hl ha
      (by rw [hpb]; split <;> simp)).trans (State.uhpEventsRun_eq _ _)), hrest, hex, hf.1, rfl, rfl, rfl, ?_⟩
    cases b <;> simp [Request.listsEvents, hpb]
  · exact ⟨_, congrArg Host.Outcome.next (State.uhp_held hlis hoff hop hco), rfl⟩
  · rw [show exec (.wakeComplete hw l) s = execWakeComplete hw l s from rfl, execWakeComplete_awake hwk] at hu
    obtain rfl := Host.Outcome.next.inj hu
    simp only [List.mem_cons, List.not_mem_nil, or_false] at hx
    rcases hx with rfl | rfl | rfl | rfl | rfl | rfl | rfl | rfl | rfl | rfl
    all_goals exact congrArg Host.Outcome.next (State.uhp_behind hop rfl)
  · obtain ⟨-, -, hqueue0, tmo, hsess⟩ := s.heard f.port f.session
    have hexec' : ((s.startWake.touch f.port f.session).sess f.port f.session).exec = none := by rw [hsess, hexec]
    obtain ⟨hto, -, r, hqueue, hst, -, htag, -⟩ :=
      (s.startWake.touch f.port f.session).answer_effect f f.tag.toNat stNotFound []
    exact ⟨_, r, congrArg Host.Outcome.next ((State.uhp_abort hf hh hin hl ha).trans (State.uhpAbortRun_none hexec' _)),
      hto.heard.1, hto.heard.2, by rw [hqueue, hqueue0], hst, htag⟩
  · exact execUhpAbort_read hf hh hin hl ha hexec hop htag
  · have hleft : q.left = 1 := by simp [Request.left, hreads, hwords, hev, hcl]
    obtain ⟨t, r, hx, hrest, hoth, hex, hqueue, hrst, hpay, htag, haddr⟩ := execResponseReady_last hexec hnone hwait hleft hw
      (State.moveWord_read hop hver hreads hwin h4 hw) (.inl hop) href
    exact ⟨t, r, hx, hrest, hoth, hex, hqueue, hrst.trans hst, hpay, htag, haddr⟩
  · have hleft : q.left = 1 := by simp [Request.left, hreads, hwords, hev, hcl]
    obtain ⟨t, r, hx, hrest, hoth, hex, hqueue, hrst, hpay, htag, -⟩ := execResponseReady_last hexec hnone hwait hleft hw
      (State.moveWord_event hop hev hcl hwin h4 hw) (.inr hop) href
    exact ⟨t, r, hx, hrest, hoth, hex, hqueue, hrst.trans hst, hpay, htag⟩
  · exact execHostRead_reads hr ht hq

end Sys2Proof.Machine
end


section
/-! PROOFS. The repair: what it may write, and the findings that it shows (for O42 and O44). -/

namespace Sys2Proof.Machine
open Sys2Proof

/-! What the repair leaves -/

/-- The registers that the steps of the repair write. -/
def repairRegs : List Nat := [aKpsStat, aCntRep, aCntBad, aLogSeq, aLogIdx]

/-- The addresses that the repair may write: the copies, the spread counters and the magics of the records. -/
def repairable (a : Nat) : Prop := (a < 0x20000 ∧ a % 0x400 < 4) ∨ (0x20000 ≤ a ∧ a < 0x24000) ∨ 0x3A000 ≤ a

/-- What steps of the repair leave: all but some registers, the SRAM in the places the repair may write, and the dirty bits;
of the findings the bits 5, 30 and 31, which are those of the journal. -/
structure Repair.Leads (q t : Repair) : Prop where
  rest : t.s = { q.s with regs := t.s.regs, sram := t.s.sram, keeper := { q.s.keeper with dirty := t.s.keeper.dirty } }
  regs : ∀ a, a ∉ repairRegs → t.s.reg a = q.s.reg a
  bytes : ∀ a, ¬ repairable a → t.s.byte a = q.s.byte a
  word : ∀ i ∈ [5, 30, 31], t.word.getLsbD i = q.word.getLsbD i

section
variable {q t u : Repair}

theorem Repair.Leads.refl (q : Repair) : q.Leads q := ⟨rfl, fun _ _ => rfl, fun _ _ => rfl, fun _ _ => rfl⟩

theorem Repair.Leads.trans (h : q.Leads t) (k : t.Leads u) : q.Leads u where
  rest := by rw [k.rest, h.rest]
  regs a ha := (k.regs a ha).trans (h.regs a ha)
  bytes a ha := (k.bytes a ha).trans (h.bytes a ha)
  word i hi := (k.word i hi).trans (h.word i hi)

theorem Repair.Leads.foldl {α : Type} {f : Repair → α → Repair} {l : List α} (hf : ∀ q : Repair, ∀ x ∈ l, q.Leads (f q x)) (q : Repair) :
    q.Leads (l.foldl f q) := by
  induction l generalizing q with
  | nil => exact .refl q
  | cons x l ih => exact (hf q x (by simp)).trans (ih (fun q y hy => hf q y (by simp [hy])) _)

theorem Repair.note_leads (q : Repair) {w : Word} (hw : ∀ i ∈ [5, 30, 31], w.getLsbD i = false) : q.Leads (q.note w) where
  rest := rfl
  regs _ _ := rfl
  bytes _ _ := rfl
  word i hi := by simp [Repair.note, hw i hi]

theorem Repair.reg_leads (q : Repair) {a : Nat} (ha : a ∈ repairRegs) (v : Word) : q.Leads { q with s := q.s.setReg a v } where
  rest := rfl
  regs _ hb := State.reg_setReg_ne _ (ne_of_mem_of_not_mem ha hb).symm v
  bytes _ _ := rfl
  word _ _ := rfl

theorem Repair.poke_leads (q : Repair) {a : Nat} {l : List Byte} (hl : ∀ i < l.length, repairable (a + i)) :
    q.Leads (q.poke a l) where
  rest := by
    have h := State.poke_frame l q.s a
    simp only [Repair.poke]
    rw [h]
  regs b _ := State.reg_congr (by simp only [Repair.poke]; rw [State.poke_frame l q.s a]) b
  bytes b hb := State.byte_poke_ne _ _ _ _ (by
    by_contra hin
    rw [not_or, not_lt, not_le] at hin
    have := hl (b - a) (by omega)
    rw [Nat.add_sub_cancel' hin.1] at this
    exact hb this)
  word _ _ := rfl

/-! The steps -/

theorem Repair.choose_leads (q : Repair) (c : Choice) {base : Bool → Nat} (hbase : ∀ i, repairable (base true + i)) (len : Nat)
    {roll bad tie : Nat} (hbits : ∀ n ∈ [roll, bad, tie], ∀ i ∈ [5, 30, 31], (bitw n).getLsbD i = false) :
    q.Leads (q.choose c base len roll bad tie) := by
  unfold Repair.choose
  split
  · exact q.note_leads (hbits bad (by simp))
  · exact .refl q
  · exact q.note_leads (hbits roll (by simp))
  · exact .refl q
  · exact ((q.note_leads (hbits tie (by simp))).trans (Repair.reg_leads _ (a := aKpsStat) (by decide) _)).trans
      (Repair.poke_leads _ fun i _ => hbase i)

/-- A write within one spread counter. -/
theorem Repair.counterPoke_leads (q : Repair) {n a : Nat} {l : List Byte} (hn : n < 32) (ha : cntBase n ≤ a)
    (hl : a + l.length ≤ cntBase n + 0x200) : q.Leads (q.poke a l) :=
  q.poke_leads fun i hi => by
    simp only [cntBase] at ha hl
    unfold repairable
    omega

theorem Repair.counter_leads (q : Repair) {n : Nat} (hn : n < 32) : q.Leads (q.counter n) := by
  have hlap : ∀ (q : Repair) l, q.Leads (q.poke (cntBase n + 0x100) (lapBytes l ++ lapBytes l)) := fun q l =>
    q.counterPoke_leads hn (by omega) (by rw [List.length_append, lapBytes_length]; omega)
  have hrep : ∀ (q : Repair) l, q.Leads { (q.note (bitw 7)).poke (cntBase n + 0x100) (lapBytes l ++ lapBytes l) with
      s := ((q.note (bitw 7)).poke (cntBase n + 0x100) (lapBytes l ++ lapBytes l)).s.orReg aCntRep (bitw n) } := fun q l =>
    ((q.note_leads (by decide)).trans (hlap _ l)).trans (Repair.reg_leads _ (by decide) _)
  unfold Repair.counter
  extract_lets s a z1 z2 rep q1
  split
  · have hzero : (q.note (bitw 6)).Leads ((q.note (bitw 6)).poke a (List.replicate 252 0)) :=
      (q.note (bitw 6)).counterPoke_leads hn (le_refl _) (by rw [List.length_replicate]; simp only [a]; omega)
    exact (((q.note_leads (by decide)).trans hzero).trans (hlap _ 0)).trans (Repair.reg_leads _ (by decide) _)
  · extract_lets l q2
    have h1 : q.Leads q1 := by
      simp only [q1]
      split
      · exact Repair.reg_leads q (a := aKpsStat) (by decide) _
      · exact .refl q
    have h2 : q.Leads q2 := by
      simp only [q2]
      split
      · exact h1
      · exact h1.trans (hrep q1 l)
    split
    · exact h2.trans (hrep q2 (l + 1))
    · exact h2

theorem Repair.log_leads (q : Repair) : q.Leads q.log := by
  unfold Repair.log
  have hslots : ∀ k ∈ List.range 128, k < 128 := fun k => List.mem_range.mp
  generalize List.range 128 = slots at hslots ⊢
  extract_lets torn bad q1 q2 s good seq
  have h1 : q.Leads q1 := Repair.Leads.foldl (fun q k hk => q.poke_leads fun i hi => by
    have hk' := hslots k (List.mem_filter.mp hk).1
    have hi' : i < 4 := hi
    unfold repairable recBase
    omega) q
  have h2 : q.Leads q2 := h1.trans (q1.note_leads fun i hi => by
    have hi' : ¬ (8 ≤ i ∧ i ≤ 15) := by
      simp only [List.mem_cons, List.not_mem_nil, or_false] at hi
      omega
    rw [getLsbD_put_ne 0 _ (by omega) (by omega)]
    exact BitVec.getLsbD_zero)
  clear_value good
  cases good with
  | nil => exact (h2.trans (Repair.reg_leads q2 (a := aLogIdx) (by decide) 0)).trans (Repair.reg_leads _ (a := aLogSeq) (by decide) 0)
  | cons k l => exact (h2.trans (Repair.reg_leads q2 (a := aLogSeq) (by decide) _)).trans (Repair.reg_leads _ (a := aLogIdx) (by decide) _)

end

/-! The repair as a whole -/

/-- The findings of step 1 about the LIVE mark and the recall. -/
theorem journalMarks_bits (live recalled : Bool) :
    (at_ (live && recalled) 31 ||| at_ recalled 5).getLsbD 5 = recalled
      ∧ (at_ (live && recalled) 31 ||| at_ recalled 5).getLsbD 30 = false
      ∧ (at_ (live && recalled) 31 ||| at_ recalled 5).getLsbD 31 = (live && recalled) := by
  revert live recalled
  decide

/-- The finding of a torn page. -/
theorem tornFinding_bits (p : Nat) : (bitw 30 ||| put 0 29 22 p).getLsbD 5 = false
    ∧ (bitw 30 ||| put 0 29 22 p).getLsbD 30 = true ∧ (bitw 30 ||| put 0 29 22 p).getLsbD 31 = false := by
  have hput : ∀ i, i < 22 ∨ 29 < i → (put 0 29 22 p).getLsbD i = false := fun i hi => by
    rw [getLsbD_put_ne 0 p (by omega) hi]
    exact BitVec.getLsbD_zero
  simp only [BitVec.getLsbD_or, hput 5 (by omega), hput 30 (by omega), hput 31 (by omega)]
  decide

/-- What step 1 of the repair notes and leaves. -/
theorem Repair.journal_effect (q : Repair) (hw : q.word = 0) :
    q.journal.s = { q.s with keeper := { q.s.keeper with dirty := q.journal.s.keeper.dirty } }
      ∧ q.journal.word.getLsbD 5 = q.s.power.recalled
      ∧ q.journal.word.getLsbD 30 = q.s.keeper.tornPage.isSome
      ∧ q.journal.word.getLsbD 31 = (q.s.keeper.liveMark && q.s.power.recalled) := by
  obtain ⟨h5, h30, h31⟩ := journalMarks_bits q.s.keeper.liveMark q.s.power.recalled
  have hzero : ∀ w : Word, 0 ||| w = w := fun w => BitVec.zero_or
  refine ⟨?_, ?_⟩
  · have hs : q.journal.s = q.s ∨ ∃ a, q.journal.s = q.s.mark a := by
      unfold Repair.journal
      extract_lets k recalled q1
      split
      · exact .inl rfl
      · split
        · exact .inl rfl
        · exact .inr ⟨_, rfl⟩
    rcases hs with h | ⟨a, h⟩
    · rw [h]
    · rw [h]
      rfl
  · cases htorn : q.s.keeper.tornPage with
    | none =>
      have hword : q.journal.word = at_ (q.s.keeper.liveMark && q.s.power.recalled) 31 ||| at_ q.s.power.recalled 5 := by
        simp only [Repair.journal, htorn, Repair.note, hw, hzero]
      rw [hword]
      exact ⟨h5, h30, h31⟩
    | some p =>
      obtain ⟨t5, t30, t31⟩ := tornFinding_bits p
      have hword : q.journal.word = (at_ (q.s.keeper.liveMark && q.s.power.recalled) 31 ||| at_ q.s.power.recalled 5)
          ||| (bitw 30 ||| put 0 29 22 p) := by
        simp only [Repair.journal, htorn]
        split <;> simp only [Repair.note, hw, hzero]
      rw [hword]
      generalize at_ (q.s.keeper.liveMark && q.s.power.recalled) 31 ||| at_ q.s.power.recalled 5 = v at h5 h30 h31 ⊢
      simp only [BitVec.getLsbD_or, h5, t5, h30, t30, h31, t31]
      simp

/-- The state at the end of the repair's steps: KPS_REPAIR shows the findings, and the journal's marks are clear. -/
def Repair.shown (q : Repair) (set : Option Bool) : State :=
  let s := q.s.setReg aRepair q.word
  { s with
    keeper := { s.keeper with liveMark := false, tornPage := none, abandonMark := false }
    power := { s.power with set := set } }

/-- The repair: the journal, the steps that follow it, and, where pages were written, a store of them. -/
theorem State.repair_eq (s : State) : ∃ (q : Repair) (set : Option Bool),
    ({ s := (s.setReg aCntRep 0).setReg aCntBad 0 } : Repair).journal.Leads q
      ∧ (s.repair = q.shown set ∨ ∃ pages, s.repair = (q.shown set).beginStore .record pages) := by
  have hcfg : ∀ i, repairable (cfgBase true + i) := fun i => .inr (.inr (by rw [cfgBase, if_pos rfl]; omega))
  have hcmt : ∀ i, repairable (cmtBase true + i) := fun i => .inr (.inr (by rw [cmtBase, if_pos rfl]; omega))
  generalize hr : s.repair = r
  unfold State.repair at hr
  extract_lets q0 q1 cfg q2 q3 q4 q5 s1 s2 at hr
  have h2 : q1.Leads q2 := q1.choose_leads cfg hcfg _ (by decide)
  have h3 : q2.Leads q3 := q2.choose_leads _ hcmt _ (by decide)
  have h4 : q3.Leads q4 := Repair.Leads.foldl (fun q n hn => q.counter_leads (List.mem_range.mp hn)) q3
  have h5 : q1.Leads q5 := ((h2.trans h3).trans h4).trans q4.log_leads
  refine ⟨q5, cfg.copy?, h5, ?_⟩
  clear_value q5 cfg
  by_cases hp : q5.pages.isEmpty = true
  · rw [if_pos hp] at hr
    exact .inl hr.symm
  · rw [if_neg hp] at hr
    exact .inr ⟨_, hr.symm⟩

/-- What the repair leaves, and what it shows. -/
theorem State.repair_effect (s : State) :
    s.repair = { s with regs := s.repair.regs, sram := s.repair.sram, keeper := s.repair.keeper
                        power := { s.power with set := s.repair.power.set } }
      ∧ (∀ a, a ∉ aRepair :: repairRegs → s.repair.reg a = s.reg a)
      ∧ (∀ a, ¬ repairable a → s.repair.byte a = s.byte a)
      ∧ s.repair.keeper.liveMark = false ∧ s.repair.keeper.tornPage = none ∧ s.repair.keeper.abandonMark = false
      ∧ s.repair.bit aRepair 5 = s.power.recalled
      ∧ s.repair.bit aRepair 30 = s.keeper.tornPage.isSome
      ∧ s.repair.bit aRepair 31 = (s.keeper.liveMark && s.power.recalled) := by
  obtain ⟨q, set, hleads, hr⟩ := s.repair_eq
  obtain ⟨hj, h5, h30, h31⟩ := Repair.journal_effect { s := (s.setReg aCntRep 0).setReg aCntBad 0 } rfl
  obtain ⟨hrest, hregs, hbytes, hword⟩ := hleads
  have hjreg : ∀ a, a ∉ repairRegs → q.s.reg a = s.reg a := fun a ha => by
    have hne : a ≠ aCntRep ∧ a ≠ aCntBad := by
      constructor
      · exact (ne_of_mem_of_not_mem (by decide) ha).symm
      · exact (ne_of_mem_of_not_mem (by decide) ha).symm
    rw [hregs a ha, State.reg_congr (s := (s.setReg aCntRep 0).setReg aCntBad 0) (by rw [hj]) a]
    exact (State.reg_setReg_ne _ hne.2 _).trans (State.reg_setReg_ne _ hne.1 _)
  have hframe : q.shown set = { s with regs := (q.shown set).regs, sram := (q.shown set).sram, keeper := (q.shown set).keeper
                                       power := { s.power with set := set } } := by
    unfold Repair.shown
    rw [hrest, hj]
    rfl
  have hshown : ∀ a, (q.shown set).reg a = if a = aRepair then q.word else q.s.reg a := fun a => by
    by_cases h : a = aRepair
    · rw [if_pos h, h]
      exact State.reg_setReg_self q.s aRepair q.word
    · rw [if_neg h]
      exact State.reg_setReg_ne q.s h q.word
  have hbit : ∀ i, i ∈ [5, 30, 31] → (q.shown set).bit aRepair i
      = ({ s := (s.setReg aCntRep 0).setReg aCntBad 0 } : Repair).journal.word.getLsbD i := fun i hi => by
    rw [State.bit, hshown, if_pos rfl]
    exact hword i hi
  have hbyte : ∀ a, ¬ repairable a → (q.shown set).byte a = s.byte a := fun a ha =>
    (hbytes a ha).trans (State.byte_congr (s := s) (by rw [hj]; rfl) a)
  have hreg : ∀ a, a ∉ aRepair :: repairRegs → (q.shown set).reg a = s.reg a := fun a ha => by
    rw [List.mem_cons, not_or] at ha
    rw [hshown, if_neg ha.1, hjreg a ha.2]
  rcases hr with hr | ⟨pages, hr⟩
  · rw [hr]
    exact ⟨hframe, hreg, hbyte, rfl, rfl, rfl, (hbit 5 (by simp)).trans h5, (hbit 30 (by simp)).trans h30,
      (hbit 31 (by simp)).trans h31⟩
  · rw [hr]
    refine ⟨?_, hreg, hbyte, rfl, rfl, rfl, (hbit 5 (by simp)).trans h5, (hbit 30 (by simp)).trans h30,
      (hbit 31 (by simp)).trans h31⟩
    generalize q.shown set = x at hframe
    rw [hframe]
    rfl

end Sys2Proof.Machine
end


section
/-! PROOFS. Resets and restarts (O44). -/

namespace Sys2Proof.Machine
open Sys2Proof

/-! Registers alone -/

theorem State.RegsBecome.refl (s : State) (l : List Nat) : s.RegsBecome l s := ⟨rfl, fun _ _ => rfl⟩

/-- A further change of the same registers. -/
theorem State.RegsBecome.next {s t u : State} {l : List Nat} (h : s.RegsBecome l t) (k : t.RegsBecome l u) : s.RegsBecome l u := by
  obtain ⟨hrest, hregs⟩ := h
  obtain ⟨krest, kregs⟩ := k
  exact ⟨by rw [krest, hrest], fun a ha => (kregs a ha).trans (hregs a ha)⟩

theorem State.setFld_regsBecome (s : State) (a hi lo v : Nat) : s.RegsBecome [a] (s.setFld a hi lo v) :=
  ⟨rfl, fun _ hb => s.reg_setFld_ne (mt List.mem_singleton.2 hb) _ _ _⟩

/-! The device reset -/

/-- A register kept by a filter that keeps its entry as it is. -/
theorem look_filterMap_kept {α : Type} {f : Nat × α → Option (Nat × α)} {a : Nat} (l : List (Nat × α))
    (hkey : ∀ e e', f e = some e' → e'.1 = e.1) (hkeep : ∀ e, e.1 = a → f e = some e) :
    look (l.filterMap f) a = look l a := by
  induction l with
  | nil => rfl
  | cons e l ih =>
    obtain ⟨k, v⟩ := e
    by_cases h : k = a
    · subst h
      rw [List.filterMap_cons_some (hkeep (k, v) rfl)]
      simp [look]
    · cases hf : f (k, v) with
      | none =>
        rw [List.filterMap_cons_none hf, ih]
        simp [look, h]
      | some e' =>
        obtain ⟨k', v'⟩ := e'
        obtain rfl : k' = k := hkey _ _ hf
        rw [List.filterMap_cons_some hf]
        simp [look, h, ih]

/-- The always-on registers pass a device reset. -/
theorem State.look_resetRegs (s : State) {a : Nat} (ha : alwaysOn a = true) : look s.resetRegs a = look s.regs a := by
  refine look_filterMap_kept s.regs (fun e e' h => ?_) fun e he => ?_
  · dsimp only at h
    split at h
    · exact (congrArg Prod.fst (Option.some.inj h)).symm
    · generalize (if e.1 = aRawStat then 0xC03F0000#32 else if e.1 = aKpsStat then bitw 25 else 0) = m at h
      split at h
      · exact nomatch h
      · exact (congrArg Prod.fst (Option.some.inj h)).symm
  · subst he
    simp [ha]

theorem State.freezeDone_becomes (s : State) : s.RegsBecome [aRawStat] s.freezeDone := by
  unfold State.freezeDone
  extract_lets t
  have ht : s.RegsBecome [aRawStat] t := by
    simp only [t]
    split
    · exact .refl s _
    · exact s.setBit_regsBecome _ _ _
  exact (ht.next (t.setBit_regsBecome _ _ _)).next (State.setBit_regsBecome _ _ _ _)

theorem State.freezeAtReset_becomes (s : State) : s.RegsBecome [aRawStat] s.freezeAtReset.1 := by
  unfold State.freezeAtReset
  split
  · exact .refl s _
  · exact s.freezeDone_becomes

/-- What a torn page leaves in the shadow array does not depend on the registers. -/
theorem State.tear_shadow_regs (s : State) (l : List (Nat × Word)) : ({ s with regs := l } : State).tear.shadow = s.tear.shadow := by
  unfold State.tear
  dsimp only
  cases s.keeper.run with
  | none => rfl
  | some j =>
    obtain ⟨kind, ready, left, cur, written, startAt, pass2, wr⟩ := j
    cases cur <;> rfl

/-- The device in reset, before LOSTFR is shown. -/
def State.heldInReset (s : State) : State :=
  { State.reset with
    regs := s.resetRegs, sram := s.sram, shadow := s.shadow, tlmMem := s.tlmMem
    keeper := { s.keeper.journal with dirty := s.keeper.dirty }
    reserve := s.reserve.kept
    tether := { straps := s.tether.straps, sent := s.tether.sent }, ring := { sent := s.ring.sent }
    power := {
      phase := .inReset, vin := s.power.vin, recallDue := s.power.recallDue, supplies := s.power.supplies
      xFailed := s.power.xFailed, aoFailed := s.power.aoFailed
      vhokLimit := s.power.recallDue && s.power.vhokLimit }
    protect := Protect.closeJtag {
      eraseMark := s.protect.eraseMark, eraseTail := s.protect.eraseTail, jtag := s.protect.jtag
      jtagOut := s.protect.jtagOut }
    cycle := s.cycle, free := s.free, pending := s.pending }

theorem State.deviceReset_becomes (s : State) : s.freezeAtReset.1.tear.heldInReset.RegsBecome [aRawStat] s.deviceReset := by
  cases h : s.freezeAtReset.2 with
  | none =>
    have hd : s.deviceReset = s.freezeAtReset.1.tear.heldInReset := by
      simp only [State.deviceReset, h]
      rfl
    rw [hd]
    exact .refl _ _
  | some f =>
    have hd : s.deviceReset = s.freezeAtReset.1.tear.heldInReset.setFld aRawStat 13 8 f := by
      simp only [State.deviceReset, h]
      rfl
    rw [hd]
    exact State.setFld_regsBecome _ _ _ _ _

/-- What the device in reset holds of the state before. -/
theorem State.heldInReset_shape (s : State) : s.heldInReset.chans = State.reset.chans ∧ s.heldInReset.wicks = State.reset.wicks
    ∧ s.heldInReset.doms = State.reset.doms ∧ s.heldInReset.hosts = State.reset.hosts ∧ s.heldInReset.imem = []
    ∧ s.heldInReset.tlmMem = s.tlmMem ∧ s.heldInReset.sram = s.sram ∧ s.heldInReset.shadow = s.shadow
    ∧ s.heldInReset.keeper.dirty = s.keeper.dirty ∧ s.heldInReset.power.phase = .inReset
    ∧ s.heldInReset.power.recallDue = s.power.recallDue :=
  ⟨rfl, rfl, rfl, rfl, rfl, rfl, rfl, rfl, rfl, rfl, rfl⟩

theorem State.reg_heldInReset (s : State) {a : Nat} (ha : alwaysOn a = true) : s.heldInReset.reg a = s.reg a :=
  congrArg (fun o => Option.getD o (resetWord a)) (s.look_resetRegs ha)

/-- The device in reset, from the state before. -/
theorem State.deviceReset_shape (s : State) : ∃ t : State, t.RegsBecome [aRawStat] s.deviceReset
    ∧ (∀ a, alwaysOn a = true → t.reg a = s.reg a)
    ∧ t.chans = State.reset.chans ∧ t.wicks = State.reset.wicks ∧ t.doms = State.reset.doms ∧ t.hosts = State.reset.hosts
    ∧ t.imem = [] ∧ t.tlmMem = s.tlmMem ∧ t.sram = s.sram ∧ t.shadow = s.tear.shadow ∧ t.keeper.dirty = s.keeper.dirty
    ∧ t.power.phase = .inReset ∧ t.power.recallDue = s.power.recallDue := by
  have hbecomes := s.deviceReset_becomes
  obtain ⟨hrest, hregs⟩ := s.freezeAtReset_becomes
  have htear : s.freezeAtReset.1.tear.shadow = s.tear.shadow := by
    rw [hrest]
    exact s.tear_shadow_regs _
  have hs1 := s.freezeAtReset.1.tear_frame
  generalize s.freezeAtReset.1 = q at *
  obtain ⟨hch, hwk, hdom, hhost, himem, htlm, hsram, hshadow, hdirty, hphase, hdue⟩ := q.tear.heldInReset_shape
  refine ⟨_, hbecomes, fun a ha => ?_, hch, hwk, hdom, hhost, himem, htlm.trans ?_, hsram.trans ?_, hshadow.trans htear,
    hdirty.trans ?_, hphase, hdue.trans ?_⟩
  · have hraw : a ∉ [aRawStat] := by
      rintro h
      obtain rfl := List.mem_singleton.mp h
      exact absurd ha (by decide)
    rw [q.tear.reg_heldInReset ha, State.reg_congr (s := q) (by rw [hs1]) a]
    exact hregs a hraw
  all_goals rw [hs1, hrest]

theorem State.deviceReset_effect (s : State) : s.Restarted s.deviceReset
    ∧ s.deviceReset.power.phase = .inReset ∧ s.deviceReset.sram = s.sram ∧ s.deviceReset.keeper.dirty = s.keeper.dirty
    ∧ s.deviceReset.power.recallDue = s.power.recallDue ∧ s.deviceReset.bit aClkStat 29 = s.bit aClkStat 29 := by
  obtain ⟨t, ⟨hrest, hregs⟩, hon, hch, hwk, hdom, hhost, himem, htlm, hsram, hshadow, hdirty, hphase, hdue⟩ := s.deviceReset_shape
  have hreg : ∀ a, alwaysOn a = true → s.deviceReset.reg a = s.reg a := fun a ha => by
    have hraw : a ∉ [aRawStat] := by
      rintro h
      obtain rfl := List.mem_singleton.mp h
      exact absurd ha (by decide)
    exact (hregs a hraw).trans (hon a ha)
  have hclk := hreg aClkStat (by decide)
  have hmon := hreg aMonVin (by decide)
  have hshadow' : s.keeper.run = none → t.shadow = s.shadow := fun h => by
    rw [hshadow, State.tear_noPage (by simp [h])]
  generalize s.deviceReset = d at *
  rw [hrest] at hclk hmon ⊢
  exact ⟨⟨hch, hwk, hdom, hhost, himem, htlm, hshadow', hmon, hclk⟩, hphase, hsram, hdirty, hdue, State.bit_congr hclk 29⟩

/-! Restarts -/

/-- The state in which a restart with a CAUSE begins. -/
def State.caused (s : State) (cause : BitVec 3) : State :=
  { s.setFld aRstCause 2 0 cause.toNat with power := { s.power with cause := cause } }

theorem State.beginRestart_eq (s : State) (cause : BitVec 3) : s.beginRestart cause =
    if s.power.recallDue then (s.caused cause).setPhase (if s.bit aClkStat 29 then .locked else .regulators)
    else ((s.caused cause).setPhase .recalled).repair := by
  have hclk : (s.caused cause).bit aClkStat 29 = s.bit aClkStat 29 :=
    State.bit_congr (s.reg_setFld_ne (by decide) _ _ _) 29
  unfold State.beginRestart
  cases h : s.power.recallDue with
  | false => simp [h, State.caused]
  | true =>
    rw [← hclk]
    simp [h, State.caused]

theorem State.beginRestart_effect (s : State) (cause : BitVec 3) : s.restartsAt cause (s.beginRestart cause)
    ∧ s.beginRestart cause = { s with
      regs := (s.beginRestart cause).regs, sram := (s.beginRestart cause).sram, keeper := (s.beginRestart cause).keeper
      power := (s.beginRestart cause).power }
    ∧ ∀ a, a ∉ aRstCause :: aRepair :: repairRegs → (s.beginRestart cause).reg a = s.reg a := by
  have hfld : (s.caused cause).fld aRstCause 2 0 = cause.toNat :=
    (s.fld_setFld_self aRstCause _ (by omega) (by omega)).trans (Nat.mod_eq_of_lt cause.isLt)
  have hregs : ∀ a, a ≠ aRstCause → (s.caused cause).reg a = s.reg a := fun a ha => s.reg_setFld_ne ha _ _ _
  rw [State.beginRestart_eq]
  cases hdue : s.power.recallDue with
  | true =>
    rw [if_pos rfl]
    exact ⟨⟨rfl, hfld, fun h => absurd (hdue.symm.trans h) (by decide), fun _ => rfl⟩, rfl,
      fun a ha => hregs a (fun h => ha (by simp [h]))⟩
  | false =>
    rw [if_neg (by decide)]
    obtain ⟨hrest, hrep, -⟩ := ((s.caused cause).setPhase .recalled).repair_effect
    have hcause : ((s.caused cause).setPhase .recalled).repair.reg aRstCause = (s.caused cause).reg aRstCause :=
      hrep aRstCause (by decide)
    generalize ((s.caused cause).setPhase .recalled).repair = x at hrest hrep hcause ⊢
    refine ⟨⟨?_, ?_, fun _ => ?_, fun h => absurd (hdue.symm.trans h) (by decide)⟩, ?_, fun a ha => ?_⟩
    · rw [hrest]
      rfl
    · rw [State.fld, hcause]
      exact hfld
    · rw [hrest]
      rfl
    · rw [hrest]
      rfl
    · rw [List.mem_cons, not_or] at ha
      exact (hrep a ha.2).trans (hregs a ha.1)

/-- A device reset and the restart that follows. -/
theorem State.resetRestart (s : State) (cause : BitVec 3) : s.Restarted (s.deviceReset.beginRestart cause)
    ∧ s.restartsAt cause (s.deviceReset.beginRestart cause) := by
  obtain ⟨⟨hch, hwk, hdom, hhost, himem, htlm, hshadow, hmon, hclk⟩, -, -, -, hdue, hlock⟩ := s.deviceReset_effect
  obtain ⟨⟨hcause, hfld, hrep, hrec⟩, hrest, hregs⟩ := s.deviceReset.beginRestart_effect cause
  have hmon' := (hregs aMonVin (by decide)).trans hmon
  have hclk' := (hregs aClkStat (by decide)).trans hclk
  rw [hdue] at hrep hrec
  rw [hlock] at hrec
  refine ⟨⟨?_, ?_, ?_, ?_, ?_, ?_, ?_, hmon', hclk'⟩, hcause, hfld, hrep, hrec⟩
  all_goals rw [hrest]
  · exact hch
  · exact hwk
  · exact hdom
  · exact hhost
  · exact himem
  · exact htlm
  · exact hshadow

/-! The always-on domain -/

theorem execAlwaysOnPowerLoss_effect (s : State) : ∃ t, execAlwaysOnPowerLoss s = .next t ∧ t.power.phase = .unpowered
    ∧ (∀ a, t.reg a = resetWord a) ∧ (s.keeper.run = none → t.shadow = s.shadow) ∧ ∀ r, (t.ch r).st = .off := by
  refine ⟨_, rfl, rfl, fun _ => rfl, fun h => ?_, fun r => ?_⟩
  · have ht := State.tear_noPage (s := s) (by simp [h])
    exact (congrArg State.shadow ht : s.tear.shadow = s.shadow)
  · simp [State.ch, State.reset]

/-- Settles O44: a restart is a reset followed by the repair, or by the recall that is due. -/
theorem resets : Obligations.Resets := by
  unfold Obligations.Resets
  refine ⟨fun s h => ?_, fun s h => ?_, fun s n hp hsys hshut hstore hend => ?_, fun s => ⟨execAlwaysOnPowerLoss_effect s,
    fun x hp => ?_⟩⟩
  · have hcond : (s.booting || s.power.phase == .run) = true := by
      rcases h with h | h
      · simp [h]
      · simp [h]
    obtain ⟨hre, hphase, hsram, hdirty, -⟩ := s.deviceReset_effect
    exact ⟨⟨_, congrArg Host.Outcome.next (if_pos hcond), hre, hphase, hsram, hdirty⟩,
      ⟨_, congrArg Host.Outcome.next (if_pos hcond), s.resetRestart 2⟩⟩
  · obtain ⟨hat, hrest, -⟩ := s.beginRestart_effect 2
    exact ⟨_, congrArg Host.Outcome.next (if_pos (by simp [h])), hat, hrest⟩
  · have hcond : (s.faults.sysReset && (decide (n < s.keeper.number) || (decide (n = s.keeper.number) && s.keeper.run.isNone))
        && !s.sdact && s.power.phase == .run) = true := by
      rcases hend with h | ⟨h, hr⟩
      · simp [hsys, h, State.sdact, hshut, hp]
      · simp [hsys, h, hr, State.sdact, hshut, hp]
    refine ⟨_, ?_, s.resetRestart 1⟩
    have hexec : exec .systemResetRestart s = execSystemResetRestart s := rfl
    rw [hexec, execSystemResetRestart, hstore]
    exact congrArg Host.Outcome.next (if_pos hcond)
  · exact ⟨_, congrArg Host.Outcome.next (if_pos (by simp [hp])), rfl, s.bit_setBit_self aClkStat (by decide) x, rfl,
      fun a ha => s.reg_setBit_ne ha _ _⟩

end Sys2Proof.Machine
end


section
/-! PROOFS. The boot, step by step (O42). -/

namespace Sys2Proof.Machine
open Sys2Proof

/-! The start entry: no raise writes it -/

/-- `t` owes the log the same start entry as `s`. -/
def State.SameStart (s t : State) : Prop := t.faults.startPend = s.faults.startPend

theorem State.SameStart.trans {s t u : State} (h : s.SameStart t) (k : t.SameStart u) : s.SameStart u := Eq.trans k h

theorem State.SameStart.foldl {α : Type} {f : State → α → State} (hf : ∀ s x, State.SameStart s (f s x)) (l : List α) (s : State) :
    s.SameStart (l.foldl f s) := by
  induction l generalizing s with
  | nil => rfl
  | cons x l ih => exact (hf s x).trans (ih _)

theorem State.logRaise_sameStart (s : State) (j : Judged) : s.SameStart (s.logRaise j) := by
  unfold State.logRaise
  dsimp only
  split
  · split
    · rfl
    · rfl
  · rfl

theorem State.mergeOne_sameStart (s : State) (j : Judged) : s.SameStart (s.mergeOne j) := by
  unfold State.mergeOne
  dsimp only
  split
  · rfl
  · rfl

theorem State.lhAbort_sameStart (s : State) : s.SameStart s.lhAbort := by
  have hframe : ∀ t : State, t.SameStart (t.lhFrame false) := fun t => by
    unfold State.lhFrame
    split
    · rfl
    · split
      · rfl
      · rfl
  have hpump : ∀ t : State, t.SameStart t.pumpTlm := fun t => by
    unfold State.pumpTlm
    split
    · rfl
    · rfl
  have hfinish : ∀ t : State, t.SameStart t.lhFinish := fun t => by
    unfold State.lhFinish
    extract_lets r c s1 s2
    have h2 : t.SameStart s2 := hframe (s1.setBit aLhStat 31 false)
    refine h2.trans (State.SameStart.trans ?_ (hpump _))
    rfl
  unfold State.lhAbort
  split
  · exact hfinish _
  · rfl

theorem State.restAbort_sameStart (s : State) : s.SameStart s.restAbort := by
  unfold State.restAbort
  split
  · unfold State.SameStart
    rw [State.endPause_reserve]
    rfl
  · rfl

theorem State.freezeTrigger_sameStart (s : State) : s.SameStart s.freezeTrigger := by
  unfold State.freezeTrigger
  extract_lets c s1 s2 s3 n s4
  split
  · rfl
  · split
    · exact (rfl : s.SameStart s4)
    · exact (rfl : s.SameStart s4)

theorem State.latch_sameStart (s : State) (j : Judged) (others injAct : Bool) : s.SameStart (s.latch j others injAct) := by
  have hset : ∀ (t : State) (a : Nat) (v : Word), t.SameStart (t.setReg a v) := fun _ _ _ => rfl
  have hnew : ∀ t : State, t.SameStart t.newReport := fun _ => rfl
  have hfreeze : ∀ t : State, t.SameStart (if t.bit aRawCtl 30 then t.freezeTrigger else t) := fun t => by
    split
    · exact t.freezeTrigger_sameStart
    · rfl
  have hring : ∀ (t : State) (v : Ring), t.SameStart { t with ring := v } := fun _ _ => rfl
  unfold State.latch
  extract_lets w s2 s3 s4 s5 num l r s9
  have h5 : s.SameStart s5 := (((((((hset _ _ _).trans (hset _ _ _)).trans (hset _ _ _)).trans (hset _ _ _)).trans (hnew _)).trans
    (State.lhAbort_sameStart _)).trans (State.restAbort_sameStart _)).trans (hfreeze _)
  have h9 : s.SameStart s9 := h5.trans (hring _ _)
  split
  · exact h9.trans (hring _ _)
  · exact h9

theorem State.requestStore_sameStart (s : State) (kind : StoreKind) (pages : List (Nat × Bool)) :
    s.SameStart (s.requestStore kind pages) := by
  unfold State.requestStore
  split
  · rfl
  · split
    · rfl
    · split
      · rfl
      · rfl

theorem State.collect_sameStart (s : State) (state0 : Nat) (first : Option Judged) (js : List Judged) (injAct : Bool) :
    s.SameStart (s.collect state0 first js injAct) := by
  unfold State.collect
  extract_lets cands js' s1 s2 s3
  have hcount : ∀ (t : State) (j : Judged), t.SameStart (t.countRaise j.x.src) := fun _ _ => rfl
  have h1 : s.SameStart s1 := State.SameStart.foldl hcount js' s
  have h2 : s.SameStart s2 := h1.trans (State.SameStart.foldl State.logRaise_sameStart _ s1)
  have hlatch : ∀ t : State, t.SameStart (t.latchFirst first (1 < cands.length) injAct) := fun t => by
    unfold State.latchFirst
    split
    · exact State.latch_sameStart _ _ _ _
    · rfl
  have hcrit : ∀ t : State, t.SameStart (t.critStore state0 js') := fun t => by
    unfold State.critStore
    split
    · split
      · exact State.requestStore_sameStart _ _ _
      · rfl
    · rfl
  have h3 : s.SameStart s3 := ((h2.trans (show s2.SameStart (s2.queueReacts js') from rfl)).trans (hlatch _)).trans (hcrit _)
  have hmerge : ∀ (t : State) rest, t.SameStart (t.mergeRest state0 rest) := fun t rest => by
    have hfold : t.SameStart (rest.foldl State.mergeOne t) := State.SameStart.foldl State.mergeOne_sameStart rest t
    unfold State.mergeRest
    extract_lets before t1
    split
    · exact hfold
    · exact hfold
  have hsnap : ∀ t : State, t.SameStart (t.takeSnap first) := fun t => by
    unfold State.takeSnap
    split
    · rfl
    · rfl
  exact (h3.trans (hmerge _ _)).trans (hsnap _)

theorem State.raiseAll_sameStart (s : State) (l : List Raise) (injAct : Bool) : s.SameStart (s.raiseAll l injAct) := by
  have hwake : ∀ (t : State) js, t.SameStart (t.wakeRaise js) := fun t js => by
    unfold State.wakeRaise
    split
    · rfl
    · exact congrArg Faults.startPend t.startWake_faults
  unfold State.raiseAll
  split
  · rfl
  · exact (State.collect_sameStart _ _ _ _ _).trans (hwake _ _)

/-! What the boot's steps leave -/

/-- Registers in which a step of the boot shows itself, or by which the next goes. -/
def bootRegs : List Nat := [aMonVin, aRstCause, aSeqCtl, aSev 20, aSeqStat]

/-- `t` has the parts of `s` by which the boot goes on, and rails, wicks, domains and the image. -/
structure State.BootKeeps (s t : State) : Prop where
  wicks : t.wicks = s.wicks
  doms : t.doms = s.doms
  chans : ∀ r, (t.ch r).st = (s.ch r).st
  imem : t.imem = s.imem
  phase : t.power.phase = s.power.phase
  mark : t.keeper.liveMark = s.keeper.liveMark
  pend : s.SameStart t
  scoff : t.reserve.scoff = s.reserve.scoff
  protect : t.protect = s.protect
  regs : ∀ a ∈ bootRegs, t.reg a = s.reg a

namespace State.BootKeeps
variable {s t u : State}

theorem refl (s : State) : s.BootKeeps s :=
  ⟨rfl, rfl, fun _ => rfl, rfl, rfl, rfl, rfl, rfl, rfl, fun _ _ => rfl⟩

theorem trans (h : s.BootKeeps t) (k : t.BootKeeps u) : s.BootKeeps u where
  wicks := k.wicks.trans h.wicks
  doms := k.doms.trans h.doms
  chans r := (k.chans r).trans (h.chans r)
  imem := k.imem.trans h.imem
  phase := k.phase.trans h.phase
  mark := k.mark.trans h.mark
  pend := h.pend.trans k.pend
  scoff := k.scoff.trans h.scoff
  protect := k.protect.trans h.protect
  regs a ha := (k.regs a ha).trans (h.regs a ha)

/-- Registers alone that are none of the boot's. -/
theorem of_regs {l : List Nat} (h : s.RegsBecome l t) (hl : ∀ a ∈ bootRegs, a ∉ l) : s.BootKeeps t := by
  obtain ⟨hrest, hregs⟩ := h
  have hch : t.chans = s.chans := by rw [hrest]
  refine ⟨?_, ?_, fun r => by rw [State.ch, hch, State.ch], ?_, ?_, ?_, ?_, ?_, ?_, fun a ha => hregs a (hl a ha)⟩
  all_goals
    rw [hrest]
  rfl

theorem forAll {α : Type} {l : List α} {f : State → α → State} (hf : ∀ s x, State.BootKeeps s (f s x)) (s : State) :
    s.BootKeeps (s.forAll l f) := by
  unfold State.forAll
  induction l generalizing s with
  | nil => exact refl s
  | cons x l ih => exact (hf s x).trans (ih _)

end State.BootKeeps

theorem State.setRsv_bootKeeps (s : State) {v : Reserve} (h : v.scoff = s.reserve.scoff) : s.BootKeeps (s.setRsv v) :=
  ⟨rfl, rfl, fun _ => rfl, rfl, rfl, rfl, rfl, h, rfl, fun _ _ => rfl⟩

theorem State.raiseAll_bootKeeps (s : State) (l : List Raise) (injAct : Bool) : s.BootKeeps (s.raiseAll l injAct) := by
  obtain ⟨hfields, -, hch⟩ := State.raiseAll_collects s l injAct (Collects.rfl' s)
  have hrep := s.raiseAll_reports l injAct
  have hpend := s.raiseAll_sameStart l injAct
  generalize s.raiseAll l injAct = t at *
  refine ⟨?_, ?_, fun r => by rw [hch r], ?_, ?_, ?_, hpend, ?_, ?_, fun a ha => hrep.regs a ?_⟩
  · rw [hfields]
  · rw [hfields]
  · rw [hfields]
  · rw [hfields]
  · rw [hrep.keeper]
  · rw [hrep.reserve]
  · rw [hfields]
  · revert ha a
    unfold reportReg
    decide

theorem State.rsvRaise_bootKeeps (s : State) (l : List Raise) : s.BootKeeps (s.rsvRaise l) := by
  have honly := s.settleRsv_rsvOnly
  have h1 : s.BootKeeps s.settleRsv.1 := by
    obtain ⟨hfields, hregs, hscoff, -⟩ := honly
    generalize s.settleRsv.1 = t at *
    have hch : t.chans = s.chans := by rw [hfields]
    refine ⟨?_, ?_, fun r => by rw [State.ch, hch, State.ch], ?_, ?_, ?_, ?_, hscoff, ?_, fun a ha => hregs a ?_⟩
    · rw [hfields]
    · rw [hfields]
    · rw [hfields]
    · rw [hfields]
    · rw [hfields]
    · rw [hfields]
      rfl
    · rw [hfields]
    · revert ha a
      decide
  unfold State.rsvRaise
  dsimp only
  split
  · exact h1
  · exact h1.trans (State.raiseAll_bootKeeps _ _ _)

theorem State.settleRsts_bootKeeps (s : State) : s.BootKeeps s.settleRsts := by
  rw [s.settleRsts_fields]
  exact ⟨rfl, rfl, fun _ => rfl, rfl, rfl, rfl, rfl, rfl, rfl, fun _ _ => rfl⟩

theorem State.count_bootKeeps (s : State) (n : Fin 32) : s.BootKeeps (s.count n) := by
  unfold State.count
  split
  · exact .refl s
  · split
    · exact .of_regs (s.orReg_regsBecome _ _) (by decide)
    · exact ⟨rfl, rfl, fun _ => rfl, rfl, rfl, rfl, rfl, rfl, rfl, fun _ _ => rfl⟩

/-! The estimator's start and the timers -/

theorem State.ampHours_bootKeeps (s : State) (i : Rat) : s.BootKeeps (s.ampHours i) := by
  have hcounts : ∀ (t : State) (n : Nat) (k : Fin 32), t.BootKeeps (t.forAll (List.range n) (fun s _ => s.count k)) :=
    fun t n k => .forAll (fun s _ => s.count_bootKeeps k) t
  unfold State.ampHours
  extract_lets v out inn s1 s2
  have h1 : s.BootKeeps s1 := s.setRsv_bootKeeps rfl
  exact (h1.trans (hcounts _ _ _)).trans (hcounts _ _ _)

theorem State.estStart_bootKeeps (s : State) : s.BootKeeps s.estStart := by
  have hrsv : ∀ (t : State) (v : Reserve), v.scoff = t.reserve.scoff → t.BootKeeps (t.setRsv v) := fun t v => t.setRsv_bootKeeps
  have hsoh : ∀ (t : State) hi lo v, t.BootKeeps (t.setFld aSoh hi lo v) := fun t hi lo v =>
    .of_regs (t.setFld_regsBecome _ _ _ _) (by decide)
  have hv1 : ∀ (t : State) hi lo v, t.BootKeeps (t.setFld aV1 hi lo v) := fun t hi lo v =>
    .of_regs (t.setFld_regsBecome _ _ _ _) (by decide)
  have hflag : ∀ (t : State) m, t.BootKeeps (t.orReg aRsvFlags m) := fun t m =>
    .of_regs (t.orReg_regsBecome _ _) (by decide)
  have hforget : ∀ t : State, t.BootKeeps t.forgetCapacity := fun t => (hrsv t _ (by rfl)).trans (hsoh _ _ _ _)
  have hreinit : ∀ t : State, t.BootKeeps t.estReinit := fun t => (hrsv t _ (by rfl)).trans (hflag _ _)
  have hpredict : ∀ (t : State) i, t.BootKeeps (t.predict i) := fun t i => hrsv t _ rfl
  unfold State.estStart
  extract_lets r0 s1 r1 s2 out inn p11 r2 s3 s4 s5
  have h1 : s.BootKeeps s1 := by
    simp only [s1]
    split
    · exact (hrsv s _ (by rfl)).trans (hsoh _ _ _ _)
    · exact hforget s
  have h2 : s1.BootKeeps s2 := hrsv s1 _ rfl
  have h4 : s2.BootKeeps s4 := (hrsv s2 _ (by rfl)).trans (hv1 _ _ _ _)
  have h5 : s2.BootKeeps s5 := by
    simp only [s5]
    split
    · split
      · exact h4
      · exact h4.trans (hpredict _ _)
    · exact hreinit s2
  exact ((((h1.trans h2).trans h5).trans (State.ampHours_bootKeeps _ _)).trans (State.ampHours_bootKeeps _ _)).trans
    (hrsv _ _ rfl)

theorem State.startTimers_bootKeeps (s : State) : s.BootKeeps s.startTimers := by
  unfold State.startTimers
  extract_lets r0 s1 tst s2 s3
  have h1 : s.BootKeeps s1 := by
    simp only [s1]
    split
    · exact s.estStart_bootKeeps
    · exact s.setRsv_bootKeeps rfl
  have h2 : s1.BootKeeps s2 := ⟨rfl, rfl, fun _ => rfl, rfl, rfl, rfl, rfl, rfl, rfl, fun _ _ => rfl⟩
  have h3 : s2.BootKeeps s3 := by
    simp only [s3]
    split
    · exact .refl s2
    · exact .of_regs (s2.setFld_regsBecome _ _ _ _) (by decide)
  split
  · exact ((h1.trans h2).trans h3).trans ⟨rfl, rfl, fun _ => rfl, rfl, rfl, rfl, rfl, rfl, rfl, fun _ _ => rfl⟩
  · exact (h1.trans h2).trans h3

theorem State.startCounters_bootKeeps (s : State) : s.BootKeeps s.startCounters := by
  unfold State.startCounters
  extract_lets w s1 s2
  have h1 : s.BootKeeps s1 := by
    simp only [s1]
    split
    · exact s.count_bootKeeps 0
    · exact .refl s
  have h2 : s.BootKeeps s2 := h1.trans (s1.count_bootKeeps 1)
  split
  · exact h2.trans (s2.count_bootKeeps 6)
  · exact h2

theorem State.countUnclean_bootKeeps (s : State) : s.BootKeeps s.countUnclean := by
  unfold State.countUnclean
  split
  · exact s.count_bootKeeps 15
  · exact .refl s

theorem State.autoStarts_none {s : State} (h : s.bit aSeqCtl 31 = false) : s.autoStarts = s := by
  simp [State.autoStarts, h]

/-- The state in RUN before its counters and timers start. -/
def State.runEntered (s : State) : State :=
  let s1 := ((s.setPhase .run).setBit aMonVin 3 (s.bit aMonVin 2)).setBit aMonVin 2 false
  let s2 := s1.setBit aRstCause 5 (!s.bit aKpsStat 25)
  { s2 with keeper := { s2.keeper with liveMark := true }, faults := { s2.faults with startPend := true } }

theorem State.enterRun_eq (s : State) : s.enterRun = s.runEntered.startCounters.startTimers.countUnclean.autoStarts.rsvRaise
    (if s.bit aKpsStat 25 then [] else [{ src := srcStore }]) := rfl

theorem State.enterRun_bootKeeps {s : State} (h : s.bit aSeqCtl 31 = false) : s.runEntered.BootKeeps s.enterRun := by
  have hto := ((s.runEntered.startCounters_bootKeeps.trans (State.startTimers_bootKeeps _)).trans (State.countUnclean_bootKeeps _))
  have hctl : s.runEntered.startCounters.startTimers.countUnclean.bit aSeqCtl 31 = false := by
    rw [← h]
    refine State.bit_congr ((hto.regs aSeqCtl (by decide)).trans ?_) 31
    simp only [State.runEntered]
    exact ((State.reg_setBit_ne _ (by decide) _ _).trans (State.reg_setBit_ne _ (by decide) _ _)).trans
      (State.reg_setBit_ne _ (by decide) _ _)
  rw [State.enterRun_eq, State.autoStarts_none hctl]
  exact hto.trans (State.rsvRaise_bootKeeps _ _)

theorem State.enterRun_shows {s : State} (h : s.bit aSeqCtl 31 = false) : s.enterRun.power.phase = .run
    ∧ s.enterRun.keeper.liveMark = true ∧ s.enterRun.faults.startPend = true
    ∧ s.enterRun.bit aMonVin 3 = s.bit aMonVin 2 ∧ s.enterRun.bit aMonVin 2 = false
    ∧ s.enterRun.bit aRstCause 5 = !s.bit aKpsStat 25
    ∧ s.enterRun.wicks = s.wicks ∧ s.enterRun.doms = s.doms := by
  have hk := State.enterRun_bootKeeps h
  have hmon : s.enterRun.reg aMonVin
      = (((s.setPhase .run).setBit aMonVin 3 (s.bit aMonVin 2)).setBit aMonVin 2 false).reg aMonVin :=
    (hk.regs aMonVin (by decide)).trans (State.reg_setBit_ne _ (by decide) _ _)
  refine ⟨hk.phase, hk.mark, hk.pend, ?_, ?_, ?_, hk.wicks, hk.doms⟩
  · rw [State.bit_congr hmon 3, State.bit_setBit_other _ _ (by decide) (by decide)]
    exact State.bit_setBit_self _ _ (by decide) _
  · rw [State.bit_congr hmon 2]
    exact State.bit_setBit_self _ _ (by decide) _
  · exact (State.bit_congr (hk.regs aRstCause (by decide)) 5).trans (State.bit_setBit_self _ _ (by decide) _)

/-! The configuration set -/

theorem State.bootCommit_bootKeeps (s : State) : s.BootKeeps s.bootCommit := by
  unfold State.bootCommit
  split
  · exact .of_regs (s.orReg_regsBecome _ _) (by decide)
  · obtain ⟨hrest, -, hregs⟩ := s.applyCommit_applies
    generalize s.applyCommit = t at *
    have hch : t.chans = s.chans := by rw [hrest]
    refine ⟨?_, ?_, fun r => by rw [State.ch, hch, State.ch], ?_, ?_, ?_, ?_, ?_, ?_, fun a ha => hregs a ?_⟩
    · rw [hrest]
    · rw [hrest]
    · rw [hrest]
    · rw [hrest]
    · rw [hrest]
    · rw [hrest]
      rfl
    · rw [hrest]
    · rw [hrest]
    · revert ha a
      decide

/-- The state with the configuration set where there is none: STORE is CRITICAL. -/
def State.unconfigured (s : State) : State :=
  (({ s with regs := s.regs.filter (fun e => !oringReg e.1) } : State).setFld (aSev 20) 9 8 3).setPhase .configured

theorem execConfigSetApplied_none {s : State} (hp : s.power.phase = .repaired) (hset : s.power.set = none)
    (herase : s.protect.eraseMark = false) :
    ∃ t, execConfigSetApplied s = .next t ∧ s.unconfigured.BootKeeps t := by
  have hne : (s.power.phase != .repaired) = false := by simp [hp]
  have happly : ({ s with regs := s.regs.filter (fun e => !oringReg e.1) } : State).applySet.setPhase .configured
      = s.unconfigured := by
    simp only [State.applySet, hset]
    rfl
  have hcommit := s.unconfigured.bootCommit_bootKeeps
  simp only [execConfigSetApplied, hne, Bool.false_eq_true, if_false, happly]
  generalize s.unconfigured.bootCommit = c at hcommit ⊢
  have hto : ∀ (v : Reserve) (l : List Raise), v.scoff = s.reserve.scoff →
      s.unconfigured.BootKeeps ((c.setRsv v).rsvSettle.settleRsts.raiseAll l) := fun v l hv =>
    (((hcommit.trans (c.setRsv_bootKeeps (hv.trans hcommit.scoff.symm))).trans (State.rsvRaise_bootKeeps _ _)).trans
      (State.settleRsts_bootKeeps _)).trans (State.raiseAll_bootKeeps _ _ _)
  have hmark : ∀ (v : Reserve) (l : List Raise), v.scoff = s.reserve.scoff →
      ((c.setRsv v).rsvSettle.settleRsts.raiseAll l).protect.eraseMark = false := fun v l hv =>
    (congrArg Protect.eraseMark (hto v l hv).protect).trans herase
  exact ⟨_, congrArg Host.Outcome.next (if_neg (Bool.eq_false_iff.mp (hmark _ _ (by rfl)))), hto _ _ (by rfl)⟩

/-! Images -/

/-- `t` differs from `s` at most in its wicks and domains. -/
def State.WicksDoms (s t : State) : Prop := t = { s with wicks := t.wicks, doms := t.doms }

theorem State.WicksDoms.trans {s t u : State} (h : s.WicksDoms t) (k : t.WicksDoms u) : s.WicksDoms u := by
  unfold State.WicksDoms at *
  rw [k, h]

theorem State.WicksDoms.forAll {α : Type} {f : State → α → State} (hf : ∀ s x, State.WicksDoms s (f s x)) (l : List α) (s : State) :
    s.WicksDoms (s.forAll l f) := by
  unfold State.forAll
  induction l generalizing s with
  | nil => exact Eq.refl s
  | cons x l ih => exact (hf s x).trans (ih _)

/-- The check of the domains changes wicks and domains alone. -/
theorem State.checkConf_wicksDoms (s : State) : s.WicksDoms s.checkConf := by
  have hdrop : ∀ s : State, s.WicksDoms s.dropOrders := State.WicksDoms.forAll (fun s d => by
    split
    · exact Eq.refl _
    · exact Eq.refl _) _
  have hfail : ∀ s : State, s.WicksDoms s.failHitches := State.WicksDoms.forAll (fun s w => by
    split
    · split
      · exact Eq.refl _
      · exact Eq.refl _
    · exact Eq.refl _) _
  have hset : ∀ (t : State) (d : DomId) (x : Domain), t.WicksDoms (t.setDom d x) := fun _ _ _ => Eq.refl _
  exact ((State.WicksDoms.forAll (fun t d => hset t d _) _ _).trans (hdrop _)).trans (hfail _)

/-- The words of an image as a map: those that are not 0 are listed. -/
theorem look_words (g : Nat → Word) (l : List Nat) (a : Nat) :
    (look ((l.map (fun i => (i, g i))).filter (fun e => e.2 ≠ 0)) a).getD 0 = if a ∈ l then g a else 0 := by
  induction l with
  | nil => rfl
  | cons i l ih =>
    by_cases h0 : g i = 0
    · rw [List.map_cons, List.filter_cons_of_neg (by simp [h0]), ih]
      by_cases hai : a = i
      · subst hai
        simp [h0]
      · simp [hai]
    · rw [List.map_cons, List.filter_cons_of_pos (by simpa using h0)]
      by_cases hai : i = a
      · subst hai
        simp [look]
      · simp only [look, hai, if_false, ih, List.mem_cons, Ne.symm hai, false_or]

/-- The loaded image. -/
theorem State.loadImage_effect (s : State) (slot : Bool) (n : Nat) (ver : Word) :
    s.loadImage slot n ver = { s with regs := (s.loadImage slot n ver).regs, imem := (s.loadImage slot n ver).imem }
      ∧ (∀ i, (s.loadImage slot n ver).imemWord i = if i < n then s.sramWord (slotBase slot + 4 * i) else 0)
      ∧ (s.loadImage slot n ver).reg aSeqLiveVer = ver
      ∧ ∀ a, a ∉ [aSeqLive, aSeqLiveVer] → (s.loadImage slot n ver).reg a = s.reg a := by
  refine ⟨rfl, fun i => ?_, State.reg_setReg_self _ _ _, fun a ha => ?_⟩
  · have h := look_words (fun i => s.sramWord (slotBase slot + 4 * i)) (List.range n) i
    simp only [List.mem_range] at h
    exact h
  · rw [List.mem_cons, not_or, List.mem_singleton] at ha
    exact (State.reg_setReg_ne _ ha.2 _).trans (State.reg_setReg_ne _ ha.1 _)

/-- The end of the image's step: the check of the domains and the reset outputs leave image, registers and power. -/
theorem State.imageEnd_leaves (s : State) : s.checkConf.settleRsts
    = { s with wicks := s.checkConf.wicks, doms := s.checkConf.doms, resets := s.checkConf.settleRsts.resets } := by
  rw [s.checkConf.settleRsts_fields]
  have h := s.checkConf_wicksDoms
  unfold State.WicksDoms at h
  generalize s.checkConf = t at h
  rw [h]

theorem execImageLoaded_passes {s : State} {b : Bool} (hp : s.power.phase = .configured) (hc : s.cmtChoice.copy? = some b)
    (hi : s.imagePasses b = true) : execImageLoaded s = .next ((s.setPhase .loaded).loadFrom b).checkConf.settleRsts := by
  have hne : (s.power.phase != .configured) = false := by simp [hp]
  have hi' : (s.setPhase .loaded).imagePasses b = true := hi
  simp only [execImageLoaded, hne, Bool.false_eq_true, if_false, hc, hi', if_true]

theorem execImageLoaded_none {s : State} (hp : s.power.phase = .configured) (hc : s.cmtChoice = .none) :
    execImageLoaded s = .next (((s.setPhase .loaded).setBit aSeqStat 30 true).raise1 srcStore).checkConf.settleRsts := by
  have hne : (s.power.phase != .configured) = false := by simp [hp]
  simp only [execImageLoaded, hne, Bool.false_eq_true, if_false, hc, Choice.copy?]

/-- The state between the recall and its repair. -/
def State.recalled (s : State) : State :=
  { s with
    sram := s.shadow, keeper := { s.keeper with dirty := 0 }
    power := { s.power with phase := .recalled, recallDue := false, recalled := true } }

/-- Settles O42: each step of the boot from its own phase; what the steps leave is said once, by `State.BootKeeps` and
`State.repair_effect`. -/
theorem bootSteps : Obligations.BootSteps := by
  unfold Obligations.BootSteps
  intro s
  refine ⟨fun x hp => ?_, fun x a hp => ?_, fun hp => ?_, fun hp hdue => ?_, fun hp hrun => ?_, fun hp hset herase => ?_,
    fun b hp hc hi => ?_, fun hp hc => ?_, fun n hp hready hn hscan herase hauto => ?_, fun hphase => ?_⟩
  · exact ⟨_, congrArg Host.Outcome.next (if_pos (by simp [hp])), rfl⟩
  · refine ⟨_, congrArg Host.Outcome.next (if_pos (by simp [hp])), rfl, ?_, State.bit_setBit_self _ _ (by decide) _, rfl,
      fun b hb => (State.reg_setBit_ne _ hb _ _).trans (State.reg_setBit_ne _ hb _ _)⟩
    exact (State.bit_setBit_other _ aClkStat (by decide) (by decide) _).trans (s.bit_setBit_self aClkStat (by decide) _)
  · exact ⟨_, congrArg Host.Outcome.next (if_pos (by simp [hp])), rfl, s.bit_setBit_self aClkStat (by decide) true, rfl,
      fun b hb => s.reg_setBit_ne hb _ _⟩
  · have hb : (s.power.phase == .locked && s.power.recallDue) = true := by simp [hp, hdue]
    have hx : exec .recallDone s = .next s.recalled.repair := congrArg Host.Outcome.next (if_pos hb)
    obtain ⟨hrest, -, hbytes, hlive, htorn, haband, h5, h30, h31⟩ := s.recalled.repair_effect
    refine ⟨_, hx, ?_, ?_, ?_, ?_, fun a ha => ?_, hlive, htorn, haband, h5, h31.trans (Bool.and_true _), h30⟩
    · generalize s.recalled.repair = x at hrest
      rw [hrest]
      rfl
    · rw [hrest]
      rfl
    · rw [hrest]
      rfl
    · rw [hrest]
      rfl
    · refine hbytes a ?_
      unfold repairable
      omega
  · have hb : (s.power.phase == .recalled && s.keeper.run.isNone) = true := by simp [hp, hrun]
    have hx : exec .repairDone s = .next ((if s.keeper.lastEnd.isNone then s.armAutosave else s).setPhase .repaired) :=
      congrArg Host.Outcome.next (if_pos hb)
    refine ⟨_, hx, ?_⟩
    cases hlast : s.keeper.lastEnd with
    | none => exact ⟨rfl, rfl⟩
    | some n =>
      simp only [Option.isNone_some, Bool.false_eq_true, if_false, Option.getD_some]
      refine ⟨rfl, ?_⟩
      rw [← hlast]
      rfl
  · obtain ⟨t, hx, hk⟩ := execConfigSetApplied_none hp hset herase
    have hsev : s.unconfigured.fld (aSev 20) 9 8 = 3 :=
      (State.fld_setFld_self ({ s with regs := s.regs.filter (fun e => !oringReg e.1) } : State) (aSev 20) 3 (by omega) (by omega)).trans
        (by decide)
    refine ⟨t, hx, hk.phase, ?_, hk.wicks, ?_, hk.scoff⟩
    · have hs : t.sev srcStore = t.fld (aSev 20) 9 8 := rfl
      rw [hs, State.fld, hk.regs (aSev 20) (by decide)]
      exact hsev
    · refine Vector.ext fun r hr => ?_
      rw [Vector.getElem_map, Vector.getElem_map]
      exact hk.chans ⟨r, hr⟩
  · have hx := execImageLoaded_passes hp hc hi
    obtain ⟨hrest, hwords, hver, hregs⟩ :=
      (s.setPhase .loaded).loadImage_effect (s.cmtSlot b) (s.cmtLen b) (s.cmtVer b)
    have hleaves := ((s.setPhase .loaded).loadFrom b).imageEnd_leaves
    have hload : (s.setPhase .loaded).loadFrom b
        = (s.setPhase .loaded).loadImage (s.cmtSlot b) (s.cmtLen b) (s.cmtVer b) := rfl
    rw [← hload] at hrest hwords hver hregs
    generalize (s.setPhase .loaded).loadFrom b = l at *
    have hreg : ∀ a, l.checkConf.settleRsts.reg a = l.reg a := State.reg_congr (by rw [hleaves])
    refine ⟨_, hx, ?_, fun i => ?_, (hreg _).trans hver,
      State.bit_congr ((hreg aSeqStat).trans (hregs aSeqStat (by decide))) 30⟩
    · rw [hleaves, hrest]
      rfl
    · rw [State.imemWord, hleaves]
      exact hwords i
  · have hx := execImageLoaded_none hp hc
    have hk := ((s.setPhase .loaded).setBit aSeqStat 30 true).raiseAll_bootKeeps [{ src := srcStore }] false
    have hleaves := (((s.setPhase .loaded).setBit aSeqStat 30 true).raise1 srcStore).imageEnd_leaves
    have hraise : ((s.setPhase .loaded).setBit aSeqStat 30 true).raise1 srcStore
        = ((s.setPhase .loaded).setBit aSeqStat 30 true).raiseAll [{ src := srcStore }] false := rfl
    rw [← hraise] at hk
    generalize ((s.setPhase .loaded).setBit aSeqStat 30 true).raise1 srcStore = l at *
    have hreg : l.checkConf.settleRsts.reg aSeqStat = l.reg aSeqStat := State.reg_congr (by rw [hleaves]) _
    refine ⟨_, hx, ?_, ?_, ?_⟩
    · rw [hleaves]
      exact hk.phase
    · rw [State.bit_congr (hreg.trans (hk.regs aSeqStat (by decide))) 30]
      exact State.bit_setBit_self _ _ (by decide) _
    · rw [hleaves]
      exact hk.imem
  · have hb : (s.power.phase == .loaded && (s.bit aKpsStat 25 || s.power.vhokLimit || (s.power.cause != 0 && !s.bit aRepair 5))
        && s.scanned && decide (n ≤ 1400) && !s.erasing) = true := by
      rcases hready with h | h
      · simp [hp, h, hscan, hn, herase]
      · simp [hp, h, hscan, hn, herase]
    exact ⟨_, congrArg Host.Outcome.next (if_pos hb), State.enterRun_shows hauto⟩
  · refine ⟨_, congrArg Host.Outcome.next (if_pos ?_), rfl⟩
    rcases hphase with h | ⟨h, hdue⟩
    · simp only [List.mem_cons, List.not_mem_nil, or_false] at h
      rcases h with h | h | h | h | h | h | h | h
      all_goals simp [State.booting, h]
    · simp [h, hdue]

end Sys2Proof.Machine
end

section
/-! SUPPORT. The rail machine, operation by operation: a channel apart from its loop-health perturbation
(`State.rail`), what an operation on a rail leaves alone (`State.CycleOf`), and the rail it leaves behind. -/

namespace Sys2Proof.Machine
open Sys2Proof

/-! A channel without its perturbation, which the collector may take away -/

/-- A channel with no loop-health perturbation. -/
def Chan.calm (x : Chan) : Chan := { x with perturb := 0 }

/-- A rail's channel apart from its loop-health perturbation. -/
def State.rail (s : State) (r : Rail) : Chan := (s.ch r).calm

/-- Every field of a channel but the perturbation is the rail's. -/
theorem State.ch_fields (s : State) (r : Rail) :
    (s.ch r).st = (s.rail r).st ∧ (s.ch r).pend = (s.rail r).pend ∧ (s.ch r).enCmd = (s.rail r).enCmd
    ∧ (s.ch r).started = (s.rail r).started ∧ (s.ch r).ramp = (s.rail r).ramp ∧ (s.ch r).pmbw = (s.rail r).pmbw
    ∧ (s.ch r).pg = (s.rail r).pg ∧ (s.ch r).trip = (s.rail r).trip ∧ (s.ch r).retries = (s.rail r).retries
    ∧ (s.ch r).ov = (s.rail r).ov ∧ (s.ch r).uv = (s.rail r).uv ∧ (s.ch r).uvNew = (s.rail r).uvNew
    ∧ (s.ch r).oc = (s.rail r).oc ∧ (s.ch r).leading = (s.rail r).leading ∧ (s.ch r).cycTrip = (s.rail r).cycTrip
    ∧ (s.ch r).ocRun = (s.rail r).ocRun ∧ (s.ch r).ton = (s.rail r).ton ∧ (s.ch r).toff = (s.rail r).toff
    ∧ (s.ch r).backoff = (s.rail r).backoff ∧ (s.ch r).stable = (s.rail r).stable
    ∧ (s.ch r).discharge = (s.rail r).discharge ∧ (s.ch r).offtRaised = (s.rail r).offtRaised
    ∧ (s.ch r).path = (s.rail r).path ∧ (s.ch r).slew = (s.rail r).slew ∧ (s.ch r).slewAt = (s.rail r).slewAt
    ∧ (s.ch r).steps = (s.rail r).steps ∧ (s.ch r).change = (s.rail r).change :=
  ⟨rfl, rfl, rfl, rfl, rfl, rfl, rfl, rfl, rfl, rfl, rfl, rfl, rfl, rfl, rfl, rfl, rfl, rfl, rfl, rfl, rfl, rfl, rfl, rfl, rfl,
    rfl, rfl⟩

/-- Channels that are alike but for the perturbation. -/
theorem Chan.eq_of_calm {x y : Chan} (h : x.calm = y.calm) : x = { y with perturb := x.perturb } := by
  obtain ⟨_⟩ := x
  obtain ⟨_⟩ := y
  unfold Chan.calm at h
  injection h
  subst_vars
  rfl

theorem Chan.calm_of_eq {x y : Chan} (h : x = { y with perturb := x.perturb }) : x.calm = y.calm := by
  rw [h]
  rfl

theorem State.ch_of_rail {t : State} {r : Rail} {x : Chan} (h : t.rail r = x.calm) :
    t.ch r = { x with perturb := (t.ch r).perturb } :=
  Chan.eq_of_calm h

/-- What a rail shows of its channel: any field but the perturbation. -/
theorem State.shows {t : State} {r : Rail} {x : Chan} {α : Sort _} (f : Chan → α) (h : t.rail r = x)
    (hf : ∀ c : Chan, f c = f c.calm := by intro c; rfl) : f (t.ch r) = f x := by
  rw [hf, ← h]
  rfl

section
variable {s t u : State} {rails rails' : List Rail} {regs : List Nat}

theorem State.CycleOf.rail (h : s.CycleOf rails regs t) {q : Rail} (hq : q ∉ rails) : t.rail q = s.rail q :=
  Chan.calm_of_eq (h.2.1 q hq)

/-- The rule by which a list of rails is known to be all that act. -/
theorem State.CycleOf.ofRails (h : s.CycleOf rails regs t) (hr : ∀ q, q ∉ rails' → t.rail q = s.rail q) :
    s.CycleOf rails' regs t :=
  ⟨h.1, fun q hq => Chan.eq_of_calm (hr q hq), h.2.2⟩

theorem State.CycleOf.reg (h : s.CycleOf rails regs t) {a : Nat} (ha : ownReg a) (hn : a ∉ regs) : t.reg a = s.reg a :=
  h.2.2 a ha hn

end

/-! The registers of a channel -/

theorem ownReg_aCh (r : Rail) {off : Nat} (h : off < 0x100) : ownReg (aCh r off) := by
  simp only [ownReg, aCh]
  omega

theorem ownReg_flags (r : Rail) : ownReg (aChFlags r) := ownReg_aCh r (by decide)
theorem ownReg_margin (r : Rail) : ownReg (aChMargin r) := ownReg_aCh r (by decide)

theorem aCh_inj {r q : Rail} {a b : Nat} (ha : a < 0x100) (hb : b < 0x100) : aCh r a = aCh q b ↔ r = q ∧ a = b := by
  simp only [aCh, Fin.ext_iff]
  omega

/-- A register that the rail machine writes: CH_FLAGS or CH_MARGIN of some channel. -/
def railReg (a : Nat) : Prop := ∃ r : Rail, a = aChFlags r ∨ a = aChMargin r

theorem railReg_flags (r : Rail) : railReg (aChFlags r) := ⟨r, .inl rfl⟩
theorem railReg_margin (r : Rail) : railReg (aChMargin r) := ⟨r, .inr rfl⟩

theorem not_railReg_aCh (r : Rail) {off : Nat} (h : off < 0x100) (hm : off ≠ 0x24) (hf : off ≠ 0x2C) :
    ¬ railReg (aCh r off) := by
  rintro ⟨q, hq | hq⟩
  · exact hf ((aCh_inj h (by decide)).1 hq).2
  · exact hm ((aCh_inj h (by decide)).1 hq).2

theorem not_railReg_of_le {a : Nat} (h : 0x10010000 ≤ a) : ¬ railReg a := by
  rintro ⟨q, hq | hq⟩
  · simp only [aChFlags, aCh] at hq
    omega
  · simp only [aChMargin, aCh] at hq
    omega

/-! What a rail's operations read -/

/-- `t` has the settings of `s`: the registers of channels, monitors and sequencer but CH_FLAGS and CH_MARGIN, the AUX
inputs and the time. -/
structure State.SameConf (s t : State) : Prop where
  cycle : t.cycle = s.cycle
  aux : t.aux = s.aux
  reg : ∀ a, ownReg a → ¬ railReg a → t.reg a = s.reg a

namespace State.SameConf

variable {s t : State}

theorem refl (s : State) : s.SameConf s := ⟨rfl, rfl, fun _ _ _ => rfl⟩

theorem trans {u : State} (h : s.SameConf t) (k : t.SameConf u) : s.SameConf u :=
  ⟨k.cycle.trans h.cycle, k.aux.trans h.aux, fun a ha hn => (k.reg a ha hn).trans (h.reg a ha hn)⟩

theorem ofCycle {rails : List Rail} {regs : List Nat} (h : s.CycleOf rails regs t) (hr : ∀ a ∈ regs, railReg a) :
    s.SameConf t :=
  ⟨by rw [h.1], by rw [h.1], fun a ha hn => h.reg ha (fun hm => hn (hr a hm))⟩

theorem aCh (h : s.SameConf t) (r : Rail) {off : Nat} (ho : off < 0x100) (hm : off ≠ 0x24) (hf : off ≠ 0x2C) :
    t.reg (aCh r off) = s.reg (aCh r off) :=
  h.reg _ (ownReg_aCh r ho) (not_railReg_aCh r ho hm hf)

theorem bitCfg (h : s.SameConf t) (r : Rail) (i : Nat) : t.bit (aChCfg r) i = s.bit (aChCfg r) i := by
  rw [State.bit, State.bit, aChCfg, h.aCh r (by decide) (by decide) (by decide)]

theorem fldCfg (h : s.SameConf t) (r : Rail) (i j : Nat) : t.fld (aChCfg r) i j = s.fld (aChCfg r) i j := by
  rw [State.fld, State.fld, aChCfg, h.aCh r (by decide) (by decide) (by decide)]

theorem use (h : s.SameConf t) (r : Rail) : t.use r = s.use r := h.bitCfg r 29

theorem timer (h : s.SameConf t) (n : Nat) : t.timer n = s.timer n := by
  rw [State.timer, State.timer, h.cycle]

theorem blankLen (h : s.SameConf t) (r : Rail) : t.blankLen r = s.blankLen r := by
  rw [State.blankLen, State.blankLen, State.fld, State.fld, aChBlank, h.aCh r (by decide) (by decide) (by decide)]

theorem blankTimer (h : s.SameConf t) (r : Rail) (x : Timer) : t.blankTimer r x = s.blankTimer r x := by
  rw [State.blankTimer, State.blankTimer, h.blankLen, h.timer]

theorem toffTimer (h : s.SameConf t) (r : Rail) : t.toffTimer r = s.toffTimer r := by
  rw [State.toffTimer, State.toffTimer, h.timer, State.fld, State.fld, State.fld, State.fld, aChToff,
    h.aCh r (by decide) (by decide) (by decide)]

theorem tonTimer (h : s.SameConf t) (r : Rail) : t.tonTimer r = s.tonTimer r := by
  rw [State.tonTimer, State.tonTimer, h.timer, State.fld, State.fld, State.fld, State.fld, aChTon,
    h.aCh r (by decide) (by decide) (by decide)]

theorem fldReact (h : s.SameConf t) (r : Rail) (i j : Nat) : t.fld (aChReact r) i j = s.fld (aChReact r) i j := by
  rw [State.fld, State.fld, aChReact, h.aCh r (by decide) (by decide) (by decide)]

theorem reactOf (h : s.SameConf t) (r : Rail) (e : EvType) : t.reactOf r e = s.reactOf r e := h.fldReact r _ _

theorem pmbLost (h : s.SameConf t) (r : Rail) : t.pmbLost r = s.pmbLost r := by
  simp only [State.pmbLost, h.bitCfg, h.fldCfg]

theorem gpioLost (h : s.SameConf t) (r : Rail) : t.gpioLost r = s.gpioLost r := by
  simp only [State.gpioLost, h.bitCfg, h.fldCfg]

theorem bound (h : s.SameConf t) (r : Rail) : t.bound r = s.bound r := by
  rw [State.bound, State.bound, h.bitCfg, h.pmbLost]

theorem pmbPort (h : s.SameConf t) (r : Rail) : t.pmbPort r = s.pmbPort r := by
  simp only [State.pmbPort, h.fldCfg]

theorem pmbAddr (h : s.SameConf t) (r : Rail) : t.pmbAddr r = s.pmbAddr r := by
  simp only [State.pmbAddr, h.fldCfg]

theorem pollList (h : s.SameConf t) (p : Fin 4) : t.pollList p = s.pollList p := by
  simp only [State.pollList, h.bound, h.pmbPort]

/-- A register beyond those of the channels. -/
theorem regBeyond (h : s.SameConf t) {a : Nat} (ha : ownReg a) (hle : 0x10010000 ≤ a) : t.reg a = s.reg a :=
  h.reg a ha (not_railReg_of_le hle)

theorem bitAux (h : s.SameConf t) (n : Fin 16) (i : Nat) : t.bit (aMonAux n) i = s.bit (aMonAux n) i := by
  rw [State.bit, State.bit, h.regBeyond (by simp only [ownReg, aMonAux, aMon]; omega) (by simp only [aMonAux, aMon]; omega)]

theorem fldAux (h : s.SameConf t) (n : Fin 16) (i j : Nat) : t.fld (aMonAux n) i j = s.fld (aMonAux n) i j := by
  rw [State.fld, State.fld, h.regBeyond (by simp only [ownReg, aMonAux, aMon]; omega) (by simp only [aMonAux, aMon]; omega)]

theorem boundAux (h : s.SameConf t) (r : Rail) : t.boundAux r = s.boundAux r := by
  have hbinds : ∀ n : Fin 16, t.auxBinds n r = s.auxBinds n r := fun n => by
    rw [State.auxBinds, State.auxBinds, h.bitAux, h.fldAux]
  simp only [State.boundAux, hbinds]

/-- The domain of a rail, where the configurations are the same. -/
theorem bitDom (h : s.SameConf t) (d : DomId) {off : Nat} (ho : off < 0x20) (i : Nat) :
    t.bit (aDom d off) i = s.bit (aDom d off) i := by
  rw [State.bit, State.bit, h.regBeyond]
  · simp only [ownReg, aDom, aSeq]
    omega
  · simp only [aDom, aSeq]
    omega

theorem takesPart (h : s.SameConf t) {d : DomId} (hd : (t.dom d).conf = (s.dom d).conf) :
    t.takesPart d = s.takesPart d := by
  rw [State.takesPart, State.takesPart, aDCfg, h.bitDom d (by decide), hd]

theorem domOf (h : s.SameConf t) (hd : ∀ d, (t.dom d).conf = (s.dom d).conf) (r : Rail) : t.domOf r = s.domOf r := by
  have hn : ∀ d : DomId, t.names d r = s.names d r := fun d => by
    rw [State.names, State.names, aDRail, h.bitDom d (by omega)]
  simp only [State.domOf, h.takesPart (hd _), hn]

theorem ocHold (h : s.SameConf t) (r : Rail) : t.ocHold r = s.ocHold r := by
  rw [State.ocHold, State.ocHold, State.bit, State.bit, aChOc, h.aCh r (by decide) (by decide) (by decide)]

end State.SameConf

end Sys2Proof.Machine
end

section
/-! SUPPORT. The operations of the rail machine, one by one: each leaves alone what a command's cycle leaves alone, and
the rail it leaves behind is an update of the rail before. -/

namespace Sys2Proof.Machine
open Sys2Proof

section
variable (s : State) (r : Rail)

/-! The channel and the registers -/

theorem State.setCh_cycleOf (x : Chan) : s.CycleOf [r] [] (s.setCh r x) :=
  ⟨rfl, fun _ hq => by rw [s.ch_setCh_ne (mt List.mem_singleton.2 hq)], fun _ _ _ => rfl⟩

@[simp] theorem State.rail_setCh_self (x : Chan) : (s.setCh r x).rail r = x.calm := by
  rw [State.rail, s.ch_setCh_self]

theorem State.orReg_cycleOf (a : Nat) (m : Word) : s.CycleOf [] [a] (s.orReg a m) :=
  ⟨rfl, fun _ _ => rfl, fun _ _ hn => s.reg_orReg_ne (mt List.mem_singleton.2 hn) m⟩

theorem State.flag_cycleOf (i : Nat) : s.CycleOf [] [aChFlags r] (s.flag r i) := s.orReg_cycleOf _ _

@[simp] theorem State.rail_flag (i : Nat) (q : Rail) : (s.flag r i).rail q = s.rail q := rfl

theorem State.clrReg_cycleOf (a : Nat) (m : Word) : s.CycleOf [] [a] (s.clrReg a m) :=
  ⟨rfl, fun _ _ => rfl, fun b _ hn => (s.clrReg_regsBecome a m).2 b hn⟩

theorem State.setFld_cycleOf (a hi lo v : Nat) : s.CycleOf [] [a] (s.setFld a hi lo v) :=
  ⟨rfl, fun _ _ => rfl, fun b _ hn => (s.setFld_regsBecome a hi lo v).2 b hn⟩

theorem State.setStep_cycleOf (v : Int) : s.CycleOf [] [aChMargin r] (s.setStep r v) := s.setFld_cycleOf _ _ _ _

@[simp] theorem State.rail_setStep (v : Int) (q : Rail) : (s.setStep r v).rail q = s.rail q := rfl

theorem State.setPort_cycleOf (p : Fin 4) (x : PmbPort) : s.CycleOf [] [] (s.setPort p x) :=
  ⟨rfl, fun _ _ => rfl, fun _ _ _ => rfl⟩

@[simp] theorem State.rail_perturb : (s.rail r).perturb = 0 := rfl

/-! Ports -/

/-- What a port does next changes ports alone. -/
theorem State.kick_frame (p : Fin 4) : s.kick p = { s with ports := (s.kick p).ports } := by
  unfold State.kick
  dsimp only
  repeat' split
  all_goals rfl

theorem State.CycleOf.ofPorts {t : State} (h : t = { s with ports := t.ports }) : s.CycleOf [] [] t := by
  rw [h]
  exact ⟨rfl, fun _ _ => rfl, fun _ _ _ => rfl⟩

theorem State.rail_ofPorts {t : State} (h : t = { s with ports := t.ports }) : t.rail r = s.rail r := by
  rw [h]
  rfl

theorem State.queueTx_frame (p : Fin 4) (l : List PmbTx) : s.queueTx p l = { s with ports := (s.queueTx p l).ports } := by
  rw [State.queueTx, State.kick_frame]
  rfl

theorem State.dropPreamble_frame : s.dropPreamble r = { s with ports := (s.dropPreamble r).ports } := rfl

theorem State.startPreamble_frame : s.startPreamble r = { s with ports := (s.startPreamble r).ports } := by
  rw [State.startPreamble, State.queueTx_frame]

theorem State.marginTx_frame (v : Int) :
    s.marginTx r v = { s with
      chans := (s.setCh r { s.ch r with change := (s.ch r).change + 1 }).chans, ports := (s.marginTx r v).ports } := by
  rw [State.marginTx, State.queueTx_frame]
  rfl

theorem State.marginTx_cycleOf (v : Int) : s.CycleOf [r] [] (s.marginTx r v) := by
  have h : (s.setCh r { s.ch r with change := (s.ch r).change + 1 }).CycleOf [] [] (s.marginTx r v) :=
    State.CycleOf.ofPorts _ (by rw [State.marginTx_frame]; rfl)
  exact (s.setCh_cycleOf r _).trans (h.mono (by simp) (by simp))

theorem State.rail_marginTx (v : Int) : (s.marginTx r v).rail r = { s.rail r with change := (s.rail r).change + 1 } := by
  have h : (s.marginTx r v).rail r = (s.setCh r { s.ch r with change := (s.ch r).change + 1 }).rail r := by
    rw [State.marginTx_frame]
    rfl
  rw [h, State.rail_setCh_self]
  rfl

/-! Blanking -/

theorem State.blankOv_cycleOf : s.CycleOf [r] [] (s.blankOv r) := by
  unfold State.blankOv
  split
  · exact .refl s _ _
  · exact s.setCh_cycleOf r _

theorem State.blankUv_cycleOf : s.CycleOf [r] [] (s.blankUv r) := by
  unfold State.blankUv
  split
  · exact .refl s _ _
  · exact s.setCh_cycleOf r _

theorem State.blankOc_cycleOf : s.CycleOf [r] [] (s.blankOc r) := by
  unfold State.blankOc
  split
  · exact .refl s _ _
  · exact s.setCh_cycleOf r _

theorem State.switchUv_cycleOf : s.CycleOf [r] [] (s.switchUv r) := by
  unfold State.switchUv
  split
  · exact .refl s _ _
  · exact s.setCh_cycleOf r _

theorem State.rail_blankOv : (s.blankOv r).rail r = { s.rail r with
    ov := { (s.rail r).ov with
      blank := if s.ovExempt r || !s.use r then (s.rail r).ov.blank else s.blankTimer r (s.rail r).ov.blank } } := by
  unfold State.blankOv
  split
  · rfl
  · rw [State.rail_setCh_self]
    rfl

theorem State.rail_blankUv : (s.blankUv r).rail r = { s.rail r with
    uv := { (s.rail r).uv with blank := if s.use r then s.blankTimer r (s.rail r).uv.blank else (s.rail r).uv.blank }
    uvNew := if s.use r then (s.rail r).uvNew && (s.blankTimer r (s.rail r).uv.blank).isNone else (s.rail r).uvNew } := by
  unfold State.blankUv
  cases hu : s.use r
  · rfl
  · rw [if_neg (by simp), if_pos rfl, if_pos rfl]
    dsimp only
    rw [State.rail_setCh_self]
    rfl

theorem State.rail_blankOc : (s.blankOc r).rail r = { s.rail r with
    oc := { (s.rail r).oc with blank := if s.use r then s.blankTimer r (s.rail r).oc.blank else (s.rail r).oc.blank } } := by
  unfold State.blankOc
  cases hu : s.use r
  · rfl
  · rw [if_neg (by simp), if_pos rfl, State.rail_setCh_self]
    rfl

theorem State.rail_switchUv : (s.switchUv r).rail r = { s.rail r with
    uv := { (s.rail r).uv with blank := if s.use r then s.blankTimer r (s.rail r).uv.blank else (s.rail r).uv.blank }
    uvNew := if s.use r then (s.blankTimer r (s.rail r).uv.blank).isNone else (s.rail r).uvNew } := by
  unfold State.switchUv
  cases hu : s.use r
  · rfl
  · rw [if_neg (by simp), if_pos rfl, if_pos rfl]
    dsimp only
    rw [State.rail_setCh_self]
    rfl

theorem State.blankAll_cycleOf : s.CycleOf [r] [] (s.blankAll r) :=
  ((s.blankOv_cycleOf r).trans (State.blankUv_cycleOf _ r)).trans (State.blankOc_cycleOf _ r)

/-- Blanking changes the blankings, and whether the under-voltage output is new. -/
theorem State.rail_blankAll : (s.blankAll r).rail r = { s.rail r with
    ov := { (s.rail r).ov with
      blank := if s.ovExempt r || !s.use r then (s.rail r).ov.blank else s.blankTimer r (s.rail r).ov.blank }
    uv := { (s.rail r).uv with blank := if s.use r then s.blankTimer r (s.rail r).uv.blank else (s.rail r).uv.blank }
    uvNew := if s.use r then (s.rail r).uvNew && (s.blankTimer r (s.rail r).uv.blank).isNone else (s.rail r).uvNew
    oc := { (s.rail r).oc with blank := if s.use r then s.blankTimer r (s.rail r).oc.blank else (s.rail r).oc.blank } } := by
  have h1 : s.SameConf (s.blankOv r) := .ofCycle (s.blankOv_cycleOf r) (by simp)
  have h2 : s.SameConf ((s.blankOv r).blankUv r) := h1.trans (.ofCycle (State.blankUv_cycleOf _ r) (by simp))
  rw [State.blankAll, State.rail_blankOc, h2.use, h2.blankTimer, State.rail_blankUv, h1.use, h1.blankTimer,
    State.rail_blankOv]

/-! Entering a state -/

theorem State.rail_lhAbort : s.lhAbort.rail r = s.rail r :=
  (State.lhAbort_collects s (Collects.rfl' s)).cycleOf.rail (List.not_mem_nil)

/-- A state in which the 1 s of R58 runs. -/
def RailState.live (x : RailState) : Bool := x == .on || x == .margined

/-- The 1 s of R58 after a state is entered. -/
def State.stableOf (s : State) (x : Chan) (st : RailState) : Timer :=
  if st.live then (if x.st.live then x.stable else s.timer 100000000) else none

/-- A rail that leaves ON ends the loop-health measurement that runs on it (R159). -/
def State.left (st : RailState) : State :=
  if (s.ch r).st == .on && st != .on && s.lhBusy && s.lhRail == r then s.lhAbort else s

theorem State.left_cycleOf (st : RailState) : s.CycleOf [] [] (s.left r st) := by
  unfold State.left
  split
  · exact (State.lhAbort_collects s (Collects.rfl' s)).cycleOf
  · exact .refl s _ _

/-- The channel that enters a state, before its reference switches. -/
def State.entering (u : State) (st : RailState) : Chan :=
  { u.ch r with st := st, stable := u.stableOf (s.rail r) st, pg := st.window && (s.ch r).pg }

theorem State.enter_eq (st : RailState) : s.enter r st =
    if (s.rail r).st.window != st.window then
      ((s.left r st).setCh r (s.entering r (s.left r st) st)).switchUv r
    else (s.left r st).setCh r (s.entering r (s.left r st) st) := by
  unfold State.enter
  rfl

theorem State.entered_cycleOf (st : RailState) :
    s.CycleOf [r] [] ((s.left r st).setCh r (s.entering r (s.left r st) st)) :=
  ((s.left_cycleOf r st).mono (by simp) (by simp)).trans (State.setCh_cycleOf _ r _)

theorem State.enter_cycleOf (st : RailState) : s.CycleOf [r] [] (s.enter r st) := by
  rw [State.enter_eq]
  split
  · exact (s.entered_cycleOf r st).trans (State.switchUv_cycleOf _ r)
  · exact s.entered_cycleOf r st

/-- The entry into `st` switches the reference of the under-voltage comparator (R35). -/
def State.switches (st : RailState) : Bool := (s.rail r).st.window != st.window && s.use r

/-- The blanking of the under-voltage comparator that starts when its reference switches. -/
def State.uvSwitch : Timer := s.blankTimer r (s.rail r).uv.blank

theorem State.rail_enter (st : RailState) : (s.enter r st).rail r = { s.rail r with
    st := st
    stable := s.stableOf (s.rail r) st
    pg := st.window && (s.rail r).pg
    uv := { (s.rail r).uv with blank := if s.switches r st then s.uvSwitch r else (s.rail r).uv.blank }
    uvNew := if s.switches r st then (s.uvSwitch r).isNone else (s.rail r).uvNew } := by
  have hleft : (s.left r st).rail r = s.rail r := (s.left_cycleOf r st).rail List.not_mem_nil
  have hconf : s.SameConf (s.left r st) := .ofCycle (s.left_cycleOf r st) (by simp)
  have hent : ((s.left r st).setCh r (s.entering r (s.left r st) st)).rail r = { s.rail r with
      st := st, stable := s.stableOf (s.rail r) st, pg := st.window && (s.rail r).pg } := by
    rw [State.rail_setCh_self, State.stableOf, ← hconf.timer]
    exact congrArg (fun x : Chan => { x with
      st := st, stable := (s.left r st).stableOf (s.rail r) st, pg := st.window && (s.ch r).pg }) hleft
  have hconf' : s.SameConf ((s.left r st).setCh r (s.entering r (s.left r st) st)) :=
    .ofCycle (s.entered_cycleOf r st) (by simp)
  rw [State.enter_eq]
  cases hw : (s.rail r).st.window != st.window
  · rw [if_neg (by simp), hent]
    simp [State.switches, hw]
  · rw [if_pos rfl, State.rail_switchUv, hent, hconf'.use, hconf'.blankTimer]
    simp [State.switches, hw, State.uvSwitch]

/-! Stopping, starting -/

theorem State.stop_cycleOf : s.CycleOf [r] [] (s.stop r) := by
  unfold State.stop
  dsimp only
  split
  · exact ((State.CycleOf.ofPorts s (s.dropPreamble_frame r)).mono (by simp) (by simp)).trans (State.setCh_cycleOf _ r _)
  · exact s.setCh_cycleOf r _

/-- A stopped stage. -/
theorem State.rail_stop : (s.stop r).rail r = { s.rail r with
    started := false, enCmd := false, ramp := false, pmbw := false, cycTrip := false, ocRun := 0
    leading := none, ton := none, pg := false } := by
  unfold State.stop
  dsimp only
  rw [State.rail_setCh_self]
  split
  · rfl
  · rfl

theorem State.startPeriod_cycleOf : s.CycleOf [r] [] (s.startPeriod r) := s.setCh_cycleOf r _

theorem State.rail_startPeriod : (s.startPeriod r).rail r = { s.rail r with
    leading := ((s.startPeriod r).rail r).leading, cycTrip := false } := by
  rw [State.startPeriod, State.rail_setCh_self]
  rfl

theorem State.startStage_cycleOf : s.CycleOf [r] [] (s.startStage r) := by
  unfold State.startStage
  dsimp only
  split
  · exact (s.setCh_cycleOf r _).trans (State.blankAll_cycleOf _ r)
  · exact ((s.setCh_cycleOf r _).trans (State.blankAll_cycleOf _ r)).trans (State.startPeriod_cycleOf _ r)

/-- A stage that starts. -/
theorem State.rail_startStage : (s.startStage r).rail r = { s.rail r with
    started := true, ramp := !isExt r, ton := s.tonTimer r, ocRun := 0
    ov := { (s.rail r).ov with
      blank := if s.ovExempt r || !s.use r then (s.rail r).ov.blank else s.blankTimer r (s.rail r).ov.blank }
    uv := { (s.rail r).uv with blank := if s.use r then s.blankTimer r (s.rail r).uv.blank else (s.rail r).uv.blank }
    uvNew := if s.use r then (s.rail r).uvNew && (s.blankTimer r (s.rail r).uv.blank).isNone else (s.rail r).uvNew
    oc := { (s.rail r).oc with blank := if s.use r then s.blankTimer r (s.rail r).oc.blank else (s.rail r).oc.blank }
    leading := ((s.startStage r).rail r).leading, cycTrip := ((s.startStage r).rail r).cycTrip } := by
  unfold State.startStage
  dsimp only
  split
  · rw [State.rail_blankAll, State.rail_setCh_self]
    rfl
  · rw [State.rail_startPeriod, State.rail_blankAll, State.rail_setCh_self]
    rfl

/-! The margin path -/

theorem State.pmbPath_congr {s t : State} {r : Rail} (h : t.bit (aChMargin r) 30 = s.bit (aChMargin r) 30) :
    t.pmbPath r = s.pmbPath r := by
  rw [State.pmbPath, State.pmbPath, h]

theorem State.startSlew_cycleOf : s.CycleOf [r] [] (s.startSlew r) := by
  unfold State.startSlew
  dsimp only
  split
  · exact ((s.blankAll_cycleOf r).trans (State.setCh_cycleOf _ r _)).trans (State.marginTx_cycleOf _ r _)
  · exact (s.blankAll_cycleOf r).trans (State.setCh_cycleOf _ r _)

theorem State.marginDrop_cycleOf : s.CycleOf [r] [aChMargin r] (s.marginDrop r) := by
  have hstep := (s.setStep_cycleOf r 0).mono (rails' := [r]) (regs' := [aChMargin r]) (by simp) (by simp)
  unfold State.marginDrop
  dsimp only
  split
  · refine hstep.trans ?_
    exact (((State.blankAll_cycleOf _ r).trans (State.setCh_cycleOf _ r _)).trans (State.marginTx_cycleOf _ r _)).mono
      (by simp) (by simp)
  · exact hstep.trans ((State.setCh_cycleOf _ r _).mono (by simp) (by simp))

/-- A dropped margin changes the margin path and, with its slew, the blankings. -/
theorem State.rail_marginDrop : (s.marginDrop r).rail r = { s.rail r with
    path := ((s.marginDrop r).rail r).path, slew := ((s.marginDrop r).rail r).slew
    slewAt := ((s.marginDrop r).rail r).slewAt, steps := ((s.marginDrop r).rail r).steps
    change := ((s.marginDrop r).rail r).change
    ov := { (s.rail r).ov with blank := ((s.marginDrop r).rail r).ov.blank }
    uv := { (s.rail r).uv with blank := ((s.marginDrop r).rail r).uv.blank }, uvNew := ((s.marginDrop r).rail r).uvNew
    oc := { (s.rail r).oc with blank := ((s.marginDrop r).rail r).oc.blank } } := by
  unfold State.marginDrop
  dsimp only
  split
  · rw [State.rail_marginTx, State.rail_setCh_self]
    simp [Chan.calm, State.ch_fields, State.rail_blankAll]
  · rw [State.rail_setCh_self]
    rfl

/-! Into TRIPPED, FALLING, OFF and RISING -/

/-- The rail that trips, before its margin drops. -/
def State.tripping (k : BitVec 3) : State :=
  ((s.stop r).enter r .tripped).setCh r { ((s.stop r).enter r .tripped).ch r with
    trip := k, pend := false, discharge := false, toff := none, backoff := none, offtRaised := false }

theorem State.toTripped_eq (k : BitVec 3) : s.toTripped r k =
    if (s.rail r).st == .margined then (s.tripping r k).marginDrop r else s.tripping r k := rfl

/-- The rail that falls, before its margin drops. -/
def State.dropping : State :=
  ((s.stop r).enter r .falling).setCh r { ((s.stop r).enter r .falling).ch r with
    toff := ((s.stop r).enter r .falling).toffTimer r, backoff := none, offtRaised := false }

theorem State.toFalling_eq : s.toFalling r =
    if (s.rail r).st == .margined then (s.dropping r).marginDrop r else s.dropping r := rfl

theorem State.stopEnter_cycleOf (st : RailState) : s.CycleOf [r] [] ((s.stop r).enter r st) :=
  (s.stop_cycleOf r).trans (State.enter_cycleOf _ r st)

/-- A stopped stage enters a state. -/
theorem State.rail_stopEnter (st : RailState) (hst : st.window = false) : ((s.stop r).enter r st).rail r = { s.rail r with
    started := false, enCmd := false, ramp := false, pmbw := false, cycTrip := false, ocRun := 0
    leading := none, ton := none, pg := false, st := st
    stable := s.stableOf (s.rail r) st
    uv := { (s.rail r).uv with blank := if s.switches r st then s.uvSwitch r else (s.rail r).uv.blank }
    uvNew := if s.switches r st then (s.uvSwitch r).isNone else (s.rail r).uvNew } := by
  have hconf : s.SameConf (s.stop r) := .ofCycle (s.stop_cycleOf r) (by simp)
  have hsw : (s.stop r).switches r st = s.switches r st := by
    rw [State.switches, State.switches, hconf.use, State.rail_stop]
  have huv : (s.stop r).uvSwitch r = s.uvSwitch r := by
    rw [State.uvSwitch, State.uvSwitch, hconf.blankTimer, State.rail_stop]
  have hstable : (s.stop r).stableOf ((s.stop r).rail r) st = s.stableOf (s.rail r) st := by
    rw [State.stableOf, State.stableOf, hconf.timer, State.rail_stop]
  rw [State.rail_enter, hsw, huv, hstable, State.rail_stop, hst]
  rfl

theorem State.tripping_cycleOf (k : BitVec 3) : s.CycleOf [r] [] (s.tripping r k) :=
  (s.stopEnter_cycleOf r .tripped).trans (State.setCh_cycleOf _ r _)

theorem State.rail_tripping (k : BitVec 3) : (s.tripping r k).rail r = { s.rail r with
    started := false, enCmd := false, ramp := false, pmbw := false, cycTrip := false, ocRun := 0
    leading := none, ton := none, pg := false, st := .tripped, stable := none
    uv := { (s.rail r).uv with blank := if s.switches r .tripped then s.uvSwitch r else (s.rail r).uv.blank }
    uvNew := if s.switches r .tripped then (s.uvSwitch r).isNone else (s.rail r).uvNew
    trip := k, pend := false, discharge := false, toff := none, backoff := none, offtRaised := false } := by
  rw [State.tripping, State.rail_setCh_self]
  exact congrArg (fun x : Chan => { x with
    trip := k, pend := false, discharge := false, toff := none, backoff := none, offtRaised := false })
    (s.rail_stopEnter r .tripped rfl)

theorem State.dropping_cycleOf : s.CycleOf [r] [] (s.dropping r) :=
  (s.stopEnter_cycleOf r .falling).trans (State.setCh_cycleOf _ r _)

theorem State.rail_dropping : (s.dropping r).rail r = { s.rail r with
    started := false, enCmd := false, ramp := false, pmbw := false, cycTrip := false, ocRun := 0
    leading := none, ton := none, pg := false, st := .falling, stable := none
    uv := { (s.rail r).uv with blank := if s.switches r .falling then s.uvSwitch r else (s.rail r).uv.blank }
    uvNew := if s.switches r .falling then (s.uvSwitch r).isNone else (s.rail r).uvNew
    toff := s.toffTimer r, backoff := none, offtRaised := false } := by
  have hconf : s.SameConf ((s.stop r).enter r .falling) := .ofCycle (s.stopEnter_cycleOf r .falling) (by simp)
  rw [State.dropping, State.rail_setCh_self, hconf.toffTimer]
  exact congrArg (fun x : Chan => { x with toff := s.toffTimer r, backoff := none, offtRaised := false })
    (s.rail_stopEnter r .falling rfl)

theorem State.toTripped_cycleOf (k : BitVec 3) : s.CycleOf [r] [aChMargin r] (s.toTripped r k) := by
  have h := (s.tripping_cycleOf r k).mono (rails' := [r]) (regs' := [aChMargin r]) (by simp) (by simp)
  rw [State.toTripped_eq]
  split
  · exact h.trans (State.marginDrop_cycleOf _ r)
  · exact h

theorem State.toTripped_unmargined {k : BitVec 3} (h : (s.rail r).st ≠ .margined) :
    s.toTripped r k = s.tripping r k := by
  rw [State.toTripped_eq, if_neg (by simpa using h)]

theorem State.toFalling_cycleOf : s.CycleOf [r] [aChMargin r] (s.toFalling r) := by
  have h := (s.dropping_cycleOf r).mono (rails' := [r]) (regs' := [aChMargin r]) (by simp) (by simp)
  rw [State.toFalling_eq]
  split
  · exact h.trans (State.marginDrop_cycleOf _ r)
  · exact h

theorem State.toFalling_unmargined (h : (s.rail r).st ≠ .margined) : s.toFalling r = s.dropping r := by
  rw [State.toFalling_eq, if_neg (by simpa using h)]

theorem State.toOff_cycleOf : s.CycleOf [r] [] (s.toOff r) :=
  (s.enter_cycleOf r .off).trans (State.setCh_cycleOf _ r _)

theorem State.rail_toOff : (s.toOff r).rail r = { s.rail r with
    st := .off, stable := none, pg := false
    uv := { (s.rail r).uv with blank := if s.switches r .off then s.uvSwitch r else (s.rail r).uv.blank }
    uvNew := if s.switches r .off then (s.uvSwitch r).isNone else (s.rail r).uvNew
    toff := none, discharge := false, offtRaised := false } := by
  rw [State.toOff, State.rail_setCh_self]
  exact congrArg (fun x : Chan => { x with toff := none, discharge := false, offtRaised := false })
    (s.rail_enter r .off)

/-! Power-good -/

theorem State.judgePg_cycleOf : s.CycleOf [r] [] (s.judgePg r) := s.setCh_cycleOf r _

theorem State.rail_judgePg : (s.judgePg r).rail r = { s.rail r with pg := s.pgNow r } := by
  rw [State.judgePg, State.rail_setCh_self]
  rfl

theorem State.reg_judgePg (a : Nat) : (s.judgePg r).reg a = s.reg a := rfl


end
end Sys2Proof.Machine
end

section
/-! SUPPORT. A cycle that acts on one rail: one cause, its transition, and what follows from the rail's levels. -/

namespace Sys2Proof.Machine
open Sys2Proof

/-! One cause -/

theorem allRails_filter_eq (r : Rail) : allRails.filter (fun q => r == q) = [r] := by
  revert r
  decide

section
variable (c : Cyc) (r : Rail)

@[simp] theorem Cyc.s_map (f : State → State) : (c.map f).s = f c.s := rfl
@[simp] theorem Cyc.s_flag (i : Nat) : (c.flag r i).s = c.s.flag r i := rfl
@[simp] theorem Cyc.s_raise (n : Nat) : (c.raise n).s = c.s := rfl
@[simp] theorem Cyc.groupOff_map (f : State → State) : (c.map f).groupOff = c.groupOff := rfl
@[simp] theorem Cyc.groupOff_flag (i : Nat) : (c.flag r i).groupOff = c.groupOff := rfl
@[simp] theorem Cyc.groupOff_raise (n : Nat) : (c.raise n).groupOff = c.groupOff := rfl

/-- One cause on one rail: its transition, or what it does without one. -/
theorem Cyc.hits_one (k : Cause) : c.hits [{ rail := r, cause := k }] =
    Cyc.settle 5 (if c.s.hasTransition r k then c.transition r k else c.sideEffect r k false) r := by
  have hrails : allRails.filter (fun q => [({ rail := r, cause := k } : Hit)].any (fun h => h.rail == q)) = [r] := by
    simpa using allRails_filter_eq r
  rw [Cyc.hits, hrails]
  simp only [Cyc.forAll, List.foldl_cons, List.foldl_nil, beq_self_eq_true, List.filter_cons_of_pos, List.filter_nil,
    List.map_cons, List.map_nil, Cyc.causes, List.foldr_cons, List.foldr_nil, insCause, splitCauses]
  split
  · rfl
  · rfl

theorem Cyc.hits_transition {k : Cause} (h : c.s.hasTransition r k = true) :
    c.hitsWith [{ rail := r, cause := k }] [] = Cyc.settle 5 (c.transition r k) r := by
  rw [Cyc.hitsWith_nil, Cyc.hits_one, if_pos h]

theorem Cyc.hits_sideEffect {k : Cause} (h : c.s.hasTransition r k = false) :
    c.hitsWith [{ rail := r, cause := k }] [] = Cyc.settle 5 (c.sideEffect r k false) r := by
  rw [Cyc.hitsWith_nil, Cyc.hits_one, if_neg (by simp [h])]

theorem Cyc.hits_none : c.hitsWith [] [] = c := by
  rw [Cyc.hitsWith_nil, Cyc.hits_nil]

/-- What follows from a rail's levels starts with its power-good (R37). -/
theorem Cyc.ch_judged : (c.map (fun s => s.judgePg r)).s.ch r = { c.s.ch r with pg := c.s.pgNow r } :=
  c.s.ch_setCh_self r _

/-- A rail that nothing moves: its power-good alone is judged. -/
theorem Cyc.settle_rest (n : Nat) (h : (c.s.rail r).st ∉ [RailState.rising, .falling, .discharging]) :
    Cyc.settle (n + 1) c r = c.map (fun s => s.judgePg r) := by
  have hst : ((c.map (fun s => s.judgePg r)).s.ch r).st ∉ [RailState.rising, .falling, .discharging] := by
    rw [c.ch_judged r]
    exact h
  simp only [Cyc.settle]
  split
  case h_4 => rfl
  all_goals
    rename_i hx
    rw [hx] at hst
    exact absurd (by simp) hst

/-- A RISING rail whose power-good has come. -/
theorem Cyc.settle_good (n : Nat) (h : (c.s.rail r).st = .rising) (hpg : (c.s.judgePg r).pgNow r = true) :
    Cyc.settle (n + 1) c r = (c.map (fun s => s.judgePg r)).transition r .powerGood := by
  have hst : (c.s.ch r).st = .rising := h
  simp only [Cyc.settle, c.ch_judged r, hst]
  exact if_pos hpg

/-- A RISING rail whose reference has just switched, or that is blanked, waits. -/
theorem Cyc.settle_rising (n : Nat) (h : (c.s.rail r).st = .rising) (hpg : (c.s.judgePg r).pgNow r = false)
    (huv : (c.s.rail r).uv.blank.isNone = false ∨ (c.s.rail r).uvNew = true) :
    Cyc.settle (n + 1) c r = c.map (fun s => s.judgePg r) := by
  have hst : (c.s.ch r).st = .rising := h
  have hw : (c.s.ch r).uv.blank.isNone = false ∨ (c.s.ch r).uvNew = true := huv
  simp only [Cyc.settle, c.ch_judged r, hst]
  refine (if_neg ?_).trans (if_neg ?_)
  · exact Bool.eq_false_iff.1 hpg
  · rcases hw with hw | hw <;> simp [hw]

/-- A rail on its way down whose detector is not judged yet waits. -/
theorem Cyc.settle_unjudged (n : Nat) (h : (c.s.rail r).st ∈ [RailState.falling, .discharging])
    (huv : ((c.s.rail r).uv.blank.isSome || (c.s.rail r).uvNew) = true) :
    Cyc.settle (n + 1) c r = c.map (fun s => s.judgePg r) := by
  have hmem : (c.s.ch r).st ∈ [RailState.falling, .discharging] := h
  have hst : (c.s.ch r).st = .falling ∨ (c.s.ch r).st = .discharging := by simpa using hmem
  rcases hst with hst | hst
  · simp only [Cyc.settle, c.ch_judged r, hst]
    exact if_pos huv
  · simp only [Cyc.settle, c.ch_judged r, hst]
    exact if_pos huv

/-- A rail on its way down, above VOFF, with its TOFF still to run, waits. -/
theorem Cyc.settle_above (n : Nat) (h : (c.s.rail r).st ∈ [RailState.falling, .discharging])
    (huv : (c.s.rail r).uv.out = false) (ht : ∀ e, (c.s.rail r).toff = some e → c.s.cycle < e) :
    Cyc.settle (n + 1) c r = c.map (fun s => s.judgePg r) := by
  have hmem : (c.s.ch r).st ∈ [RailState.falling, .discharging] := h
  have hst : (c.s.ch r).st = .falling ∨ (c.s.ch r).st = .discharging := by simpa using hmem
  have hbelow : ¬ (c.map (fun s => s.judgePg r)).s.belowVoff r = true := by
    rw [State.belowVoff, State.uvAct, c.ch_judged r]
    simp [State.ch_fields, huv]
  have hdue : ¬ (c.s.ch r).toff.any (fun e => e ≤ (c.map (fun s => s.judgePg r)).s.cycle) = true := by
    cases he : (c.s.ch r).toff with
    | none => simp
    | some e => exact fun hd => absurd (of_decide_eq_true hd) (Nat.not_le.2 (ht e he))
  rcases hst with hst | hst
  · simp only [Cyc.settle, c.ch_judged r, hst, if_neg hbelow, if_neg hdue, ite_self]
  · simp only [Cyc.settle, c.ch_judged r, hst, if_neg hbelow, if_neg hdue, ite_self]

/-- A rail on its way down that is below VOFF. -/
theorem Cyc.settle_below (n : Nat) (h : (c.s.rail r).st ∈ [RailState.falling, .discharging])
    (hb : (c.s.rail r).uv.blank = none) (hn : (c.s.rail r).uvNew = false) (hbelow : (c.s.judgePg r).belowVoff r = true) :
    Cyc.settle (n + 1) c r = Cyc.settle n ((c.map (fun s => s.judgePg r)).transition r .belowVoff) r := by
  have hmem : (c.s.ch r).st ∈ [RailState.falling, .discharging] := h
  have hst : (c.s.ch r).st = .falling ∨ (c.s.ch r).st = .discharging := by simpa using hmem
  have hw : ¬ ((c.s.ch r).uv.blank.isSome || (c.s.ch r).uvNew) = true := by
    simp [State.ch_fields, hb, hn]
  rcases hst with hst | hst
  · simp only [Cyc.settle, c.ch_judged r, hst]
    exact (if_neg hw).trans (if_pos hbelow)
  · simp only [Cyc.settle, c.ch_judged r, hst]
    exact (if_neg hw).trans (if_pos hbelow)

end

/-! Which causes have a transition (R46) -/

section
variable {s : State} {r : Rail}

theorem State.hasTransition_ovCross (hu : s.use r = true)
    (h : (s.rail r).st ∈ [RailState.rising, .on, .margined, .falling, .retryWait]) :
    s.hasTransition r .ovCross = true := by
  have h' : (s.ch r).st ∈ [RailState.rising, .on, .margined, .falling, .retryWait] := h
  simp only [State.hasTransition, hu, Bool.true_and]
  generalize (s.ch r).st = x at h' ⊢
  fin_cases h' <;> rfl

theorem State.hasTransition_ovCross_off (h : (s.rail r).st = .off) : s.hasTransition r .ovCross = false := by
  have h' : (s.ch r).st = .off := h
  simp [State.hasTransition, h']

theorem State.hasTransition_uvCross (h : (s.rail r).st = .on) :
    s.hasTransition r .uvCross = (s.use r && s.reactOf r .uv != 0) := by
  have h' : (s.ch r).st = .on := h
  simp [State.hasTransition, h']

theorem State.hasTransition_powerGood (hu : s.use r = true) (h : (s.rail r).st = .rising) :
    s.hasTransition r .powerGood = s.pgNow r := by
  have h' : (s.ch r).st = .rising := h
  simp [State.hasTransition, h', hu]

theorem State.hasTransition_belowVoff (hu : s.use r = true) (h : (s.rail r).st = .falling) :
    s.hasTransition r .belowVoff = s.belowVoff r := by
  have h' : (s.ch r).st = .falling := h
  simp [State.hasTransition, h', hu]

/-- Power-good of a channel (R37), in use or not. -/
def Chan.good (x : Chan) (use : Bool) : Bool :=
  if !x.st.window then false
  else if x.ov.blank.isSome || x.uv.blank.isSome || x.uvNew then x.pg
  else !(use && x.ov.out && x.ov.blank.isNone) && !(use && x.uv.out && x.uv.blank.isNone && !x.uvNew) && !x.ramp && !x.pmbw

theorem State.pgNow_eq : s.pgNow r = (s.rail r).good (s.use r) := rfl

/-- A good rail that turns on stays good. -/
theorem Chan.good_on {x : Chan} {u : Bool} {t : Timer} (h : x.good u = true) :
    ({ x with st := .on, stable := t, ton := none, pg := true } : Chan).good u = true := by
  unfold Chan.good at h ⊢
  split at h
  · exact absurd h (by simp)
  · rw [if_neg (by simp [RailState.window])]
    split at h <;> simp_all

/-- A power-good that has been judged stays. -/
theorem Chan.good_judged (x : Chan) (u : Bool) : ({ x with pg := x.good u } : Chan).good u = x.good u := by
  unfold Chan.good
  split
  · rfl
  · split <;> simp_all

theorem State.pgNow_judgePg (s : State) (r : Rail) : (s.judgePg r).pgNow r = s.pgNow r := by
  rw [State.pgNow_eq, State.rail_judgePg]
  exact Chan.good_judged (s.rail r) (s.use r)

/-- Power-good of a rail whose comparators are judged (R37). -/
theorem State.pgNow_judged (hw : (s.rail r).st.window = true) (hov : (s.rail r).ov.blank = none)
    (huv : (s.rail r).uv.blank = none) (hn : (s.rail r).uvNew = false) :
    s.pgNow r = (!(s.use r && (s.rail r).ov.out) && !(s.use r && (s.rail r).uv.out) && !(s.rail r).ramp
      && !(s.rail r).pmbw) := by
  simp [State.pgNow, State.ovAct, State.uvAct, State.ch_fields, hw, hov, huv, hn]

theorem State.belowVoff_judged (hw : (s.rail r).st.window = false) (huv : (s.rail r).uv.blank = none)
    (hn : (s.rail r).uvNew = false) : s.belowVoff r = (s.use r && (s.rail r).uv.out) := by
  simp [State.belowVoff, State.uvAct, State.ch_fields, hw, huv, hn]

end

/-! The end of the cycle -/

theorem Cyc.groupOff_settle (n : Nat) (c : Cyc) (r : Rail) : (Cyc.settle n c r).groupOff = c.groupOff :=
  (Cyc.SameWicks.settle n (Cyc.SameWicks.rfl' c) r).groupOff

section
variable {s : State} {c : Cyc} {rails : List Rail} {regs : List Nat} {inj : Bool}

theorem Cyc.finish_acts (h : s.CycleOf rails regs c.s) (hg : c.groupOff = []) : s.CycleOf rails regs (c.finish inj) :=
  h.trans ((c.finish_cycleOf hg inj).mono (by simp) (by simp))

theorem Cyc.rail_finish (hg : c.groupOff = []) (q : Rail) : (c.finish inj).rail q = c.s.rail q :=
  (c.finish_cycleOf hg inj).rail List.not_mem_nil

theorem Cyc.reg_finish (hg : c.groupOff = []) {a : Nat} (ha : ownReg a) : (c.finish inj).reg a = c.s.reg a :=
  (c.finish_cycleOf hg inj).reg ha List.not_mem_nil

end

/-! A rail that trips -/

/-- The rail has tripped with cause `k`: the bits `m` of CH_FLAGS are set, and its stage has stopped. `o` is its
over-voltage comparator. -/
structure State.Trips (s : State) (r : Rail) (k : BitVec 3) (m : Word) (o : Cmp) (t : State) : Prop where
  cycle : s.CycleOf [r] [aChFlags r, aChMargin r] t
  unmargined : (s.rail r).st ≠ .margined → s.CycleOf [r] [aChFlags r] t ∧ (t.rail r).ov = o
  st : (t.rail r).st = .tripped
  trip : (t.rail r).trip = k
  started : (t.rail r).started = false
  enCmd : (t.rail r).enCmd = false
  pg : (t.rail r).pg = false
  pend : (t.rail r).pend = false
  ovOut : (t.rail r).ov.out = o.out
  flags : t.reg (aChFlags r) = s.reg (aChFlags r) ||| m

theorem State.flags_ne_margin (r q : Rail) : aChFlags r ≠ aChMargin q := fun h =>
  absurd ((aCh_inj (by decide) (by decide)).1 h).2 (by decide)

theorem State.toTripped_trips (s : State) (r : Rail) (k : BitVec 3) :
    s.Trips r k 0 (s.rail r).ov (s.toTripped r k) := by
  have hcycle := (s.toTripped_cycleOf r k).mono (rails' := [r]) (regs' := [aChFlags r, aChMargin r]) (by simp) (by simp)
  have hflags : (s.toTripped r k).reg (aChFlags r) = s.reg (aChFlags r) ||| 0 := by
    rw [(s.toTripped_cycleOf r k).reg (ownReg_flags r) (by simpa using State.flags_ne_margin r r)]
    exact BitVec.or_zero.symm
  by_cases hm : (s.rail r).st = .margined
  · have ht : s.toTripped r k = (s.tripping r k).marginDrop r := by rw [State.toTripped_eq, if_pos (by simp [hm])]
    refine ⟨hcycle, fun h => absurd hm h, ?_, ?_, ?_, ?_, ?_, ?_, ?_, hflags⟩
    all_goals rw [ht, State.rail_marginDrop, State.rail_tripping]
  · have ht := s.toTripped_unmargined r (k := k) hm
    refine ⟨hcycle, fun _ => ⟨?_, ?_⟩, ?_, ?_, ?_, ?_, ?_, ?_, ?_, hflags⟩
    · rw [ht]
      exact (s.tripping_cycleOf r k).mono (by simp) (by simp)
    all_goals rw [ht, State.rail_tripping]

namespace State.Trips

variable {s t u : State} {r : Rail} {k : BitVec 3} {m : Word} {o : Cmp}

/-- What comes after a trip: more bits of CH_FLAGS, and nothing of the rail. -/
theorem after (h : s.Trips r k m o t) {m' : Word} (hc : t.CycleOf [] [aChFlags r] u)
    (hf : u.reg (aChFlags r) = t.reg (aChFlags r) ||| m') : s.Trips r k (m ||| m') o u := by
  obtain ⟨hcycle, hunm, hst, htrip, hstart, hen, hpg, hpend, hov, hflags⟩ := h
  have hr : u.rail r = t.rail r := hc.rail List.not_mem_nil
  exact ⟨hcycle.trans (hc.mono (by simp) (by simp)),
    fun hm => ⟨(hunm hm).1.trans (hc.mono (by simp) (by simp)), by rw [hr]; exact (hunm hm).2⟩,
    by rw [hr, hst], by rw [hr, htrip], by rw [hr, hstart], by rw [hr, hen], by rw [hr, hpg], by rw [hr, hpend],
    by rw [hr, hov], by rw [hf, hflags, BitVec.or_assoc]⟩

theorem flag (h : s.Trips r k m o t) (i : Nat) : s.Trips r k (m ||| bitw i) o (t.flag r i) :=
  h.after (t.flag_cycleOf r i) (t.reg_orReg_self _ _)

/-- A tripped rail has no power-good. -/
theorem judgePg (h : s.Trips r k m o t) : s.Trips r k m o (t.judgePg r) := by
  obtain ⟨hcycle, hunm, hst, htrip, hstart, hen, hpg, hpend, hov, hflags⟩ := h
  have hnow : t.pgNow r = false := by
    rw [State.pgNow, (t.ch_fields r).1, hst]
    rfl
  have hr := t.rail_judgePg r
  rw [hnow] at hr
  have hj := t.judgePg_cycleOf r
  exact ⟨hcycle.trans (hj.mono (by simp) (by simp)),
    fun hm => ⟨(hunm hm).1.trans (hj.mono (by simp) (by simp)), by rw [hr]; exact (hunm hm).2⟩,
    by rw [hr]; exact hst, by rw [hr]; exact htrip, by rw [hr]; exact hstart, by rw [hr]; exact hen, by rw [hr],
    by rw [hr]; exact hpend, by rw [hr]; exact hov, hflags⟩

/-- What comes before the trip in its cycle: changes of the rail's levels, and bits of CH_FLAGS. -/
theorem before (h : u.Trips r k m o t) {m' : Word} (hc : s.CycleOf [r] [aChFlags r] u)
    (hst : (u.rail r).st = (s.rail r).st) (hf : u.reg (aChFlags r) = s.reg (aChFlags r) ||| m') :
    s.Trips r k (m' ||| m) o t := by
  obtain ⟨hcycle, hunm, hs, htrip, hstart, hen, hpg, hpend, hov, hflags⟩ := h
  refine ⟨(hc.mono (by simp) (by simp)).trans hcycle, fun hm => ?_, hs, htrip, hstart, hen, hpg, hpend, hov, ?_⟩
  · rw [← hst] at hm
    exact ⟨hc.trans (hunm hm).1, (hunm hm).2⟩
  · rw [hflags, hf, BitVec.or_assoc]

theorem beforeFlags (h : u.Trips r k m o t) (hc : s.CycleOf [r] [] u) (hst : (u.rail r).st = (s.rail r).st) :
    s.Trips r k m o t := by
  have hf : u.reg (aChFlags r) = s.reg (aChFlags r) ||| 0 :=
    (hc.reg (ownReg_flags r) List.not_mem_nil).trans BitVec.or_zero.symm
  have hm : 0 ||| m = m := BitVec.zero_or
  rw [← hm]
  exact h.before (hc.mono (by simp) (by simp)) hst hf

/-- A tripped rail stays where it is. -/
theorem settle {c : Cyc} (h : s.Trips r k m o c.s) : s.Trips r k m o (Cyc.settle 5 c r).s := by
  rw [Cyc.settle_rest c r 4 (by rw [h.st]; decide)]
  exact h.judgePg

/-- The trip at the end of its cycle. -/
theorem finish {c : Cyc} (h : s.Trips r k m o c.s) (hg : c.groupOff = []) (inj : Bool) :
    s.Trips r k m o (c.finish inj) := by
  have ht := h.after (m' := 0) ((c.finish_cycleOf hg inj).mono (by simp) (by simp))
    ((Cyc.reg_finish hg (ownReg_flags r)).trans BitVec.or_zero.symm)
  have hm : m ||| 0 = m := BitVec.or_zero
  rwa [hm] at ht

end State.Trips

/-! A rail that acts in a cycle -/

/-- In the cycle so far rail `r` has become `x`, the bits `m` of its CH_FLAGS are set, and nothing else has acted. -/
structure State.Acts (s : State) (r : Rail) (m : Word) (x : Chan) (c : Cyc) : Prop where
  cycle : s.CycleOf [r] [aChFlags r] c.s
  rail : c.s.rail r = x
  flags : c.s.reg (aChFlags r) = s.reg (aChFlags r) ||| m
  groupOff : c.groupOff = []

/-- A TOFF of some length that starts now is not over (R40). -/
theorem State.toffTimer_later {s : State} {r : Rail} (h : s.fld (aChToff r) 23 0 ≠ 0) :
    ∀ e, s.toffTimer r = some e → s.cycle < e := by
  intro e he
  have hlen : 0 < unitCycles (s.fld (aChToff r) 25 24) (s.fld (aChToff r) 23 0) := by
    unfold unitCycles
    split <;> omega
  rw [State.toffTimer, State.timer, Option.some_inj] at he
  omega

/-- The rail turns ON with its power-good (R37, R46). -/
def State.turnOn (s : State) (r : Rail) : State :=
  (s.enter r .on).setCh r { (s.enter r .on).ch r with ton := none, pg := true }

theorem State.turnOn_cycleOf (s : State) (r : Rail) : s.CycleOf [r] [] (s.turnOn r) :=
  (s.enter_cycleOf r .on).trans (State.setCh_cycleOf _ r _)

theorem State.rail_turnOn (s : State) (r : Rail) (h : (s.rail r).st = .rising) : (s.turnOn r).rail r =
    { s.rail r with st := .on, stable := s.stableOf (s.rail r) .on, ton := none, pg := true } := by
  have hsw : s.switches r .on = false := by
    rw [State.switches, h]
    rfl
  have hent := s.rail_enter r .on
  rw [hsw] at hent
  rw [State.turnOn, State.rail_setCh_self]
  exact congrArg (fun y : Chan => { y with ton := none, pg := true }) hent

theorem Cyc.transition_powerGood (c : Cyc) (r : Rail) :
    c.transition r .powerGood = c.map (fun s => s.turnOn r) := rfl

namespace State.Acts

variable {s : State} {r : Rail} {m : Word} {x y : Chan} {c : Cyc}

theorem start (s : State) (r : Rail) : s.Acts r 0 (s.rail r) { s := s } :=
  ⟨.refl s _ _, rfl, BitVec.or_zero.symm, rfl⟩

/-- A change of the rail. -/
theorem act (h : s.Acts r m x c) {f : State → State} (hf : c.s.CycleOf [r] [] (f c.s)) (hr : (f c.s).rail r = y) :
    s.Acts r m y (c.map f) := by
  obtain ⟨hcycle, -, hflags, hg⟩ := h
  exact ⟨hcycle.trans (hf.mono (by simp) (by simp)), hr, (hf.reg (ownReg_flags r) List.not_mem_nil).trans hflags, hg⟩

theorem flag (h : s.Acts r m x c) (i : Nat) : s.Acts r (m ||| bitw i) x (c.flag r i) := by
  obtain ⟨hcycle, hrail, hflags, hg⟩ := h
  refine ⟨hcycle.trans ((c.s.flag_cycleOf r i).mono (by simp) (by simp)), hrail, ?_, hg⟩
  rw [Cyc.s_flag, State.flag, State.reg_orReg_self, hflags, BitVec.or_assoc]

theorem raise (h : s.Acts r m x c) (n : Nat) : s.Acts r m x (c.raise n) := by
  obtain ⟨hcycle, hrail, hflags, hg⟩ := h
  exact ⟨hcycle, hrail, hflags, hg⟩

/-- The settings of the rail are those of before. -/
theorem conf (h : s.Acts r m x c) : s.SameConf c.s :=
  .ofCycle h.cycle (by simp [railReg_flags])

/-- A rail whose levels move it nowhere. -/
theorem rests (h : s.Acts r m x c) (hst : x.st ∉ [RailState.rising, .falling, .discharging]) :
    s.Acts r m { x with pg := c.s.pgNow r } (Cyc.settle 5 c r) := by
  rw [c.settle_rest r 4 (by rw [h.rail]; exact hst)]
  exact h.act (c.s.judgePg_cycleOf r) (by rw [c.s.rail_judgePg, h.rail])

/-- The end of the cycle. -/
theorem finish (h : s.Acts r m x c) : s.CycleOf [r] [aChFlags r] c.finish ∧ c.finish.rail r = x
    ∧ c.finish.reg (aChFlags r) = s.reg (aChFlags r) ||| m := by
  obtain ⟨hcycle, hrail, hflags, hg⟩ := h
  exact ⟨Cyc.finish_acts hcycle hg, (Cyc.rail_finish hg r).trans hrail,
    (Cyc.reg_finish hg (ownReg_flags r)).trans hflags⟩

/-- A rail on its way down, above VOFF, whose TOFF has just started. -/
theorem above (h : s.Acts r m x c) (hst : x.st ∈ [RailState.falling, .discharging]) (huv : x.uv.out = false)
    (ht : x.toff = s.toffTimer r) (hlen : s.fld (aChToff r) 23 0 ≠ 0) :
    s.Acts r m { x with pg := c.s.pgNow r } (Cyc.settle 5 c r) := by
  rw [c.settle_above r 4 (by rw [h.rail]; exact hst) (by rw [h.rail]; exact huv)]
  · exact h.act (c.s.judgePg_cycleOf r) (by rw [c.s.rail_judgePg, h.rail])
  · intro e he
    rw [h.rail, ht] at he
    rw [h.conf.cycle]
    exact State.toffTimer_later hlen e he

theorem turnsOn (h : s.Acts r m x c) (hst : x.st = .rising) : s.Acts r m
    { x with st := .on, stable := c.s.stableOf x .on, ton := none, pg := true } (c.transition r .powerGood) := by
  refine h.act (f := fun s => s.turnOn r) (c.s.turnOn_cycleOf r) ?_
  rw [State.rail_turnOn _ _ (by rw [h.rail]; exact hst), h.rail]

/-- A RISING rail turns ON with its power-good (R37, R46). -/
theorem good (h : s.Acts r m x c) (hst : x.st = .rising) (hpg : c.s.pgNow r = true) : s.Acts r m
    { x with st := .on, stable := c.s.stableOf x .on, ton := none, pg := true }
    (Cyc.settle 5 (c.transition r .powerGood) r)
      ∧ (Cyc.settle 5 (c.transition r .powerGood) r).s.pgNow r = true := by
  have hact := h.turnsOn hst
  rw [State.pgNow_eq, h.rail, h.conf.use] at hpg
  have hrest := hact.rests (by simp)
  rw [State.pgNow_eq, hact.rail, hact.conf.use, Chan.good_on hpg] at hrest
  refine ⟨hrest, ?_⟩
  rw [State.pgNow_eq, hrest.rail, hrest.conf.use]
  exact Chan.good_on (x := x) hpg

/-- A RISING rail whose levels turn it ON. -/
theorem settlesGood (h : s.Acts r m x c) (hst : x.st = .rising) (hpg : c.s.pgNow r = true) : s.Acts r m
    { x with st := .on, stable := c.s.stableOf x .on, ton := none, pg := true } (Cyc.settle 5 c r) := by
  rw [c.settle_good r 4 (by rw [h.rail]; exact hst) (by rw [State.pgNow_judgePg, hpg])]
  have hj := h.act (f := fun s => s.judgePg r) (c.s.judgePg_cycleOf r) (c.s.rail_judgePg r)
  rw [hpg, h.rail] at hj
  have ht := hj.turnsOn hst
  exact ht

/-- A trip in the cycle so far. -/
theorem trips (h : s.Acts r m x c) {k : BitVec 3} {m' : Word} {o : Cmp} {t : State} (ht : c.s.Trips r k m' o t)
    (hst : x.st = (s.rail r).st) : s.Trips r k (m ||| m') o t :=
  ht.before h.cycle (by rw [h.rail, hst]) h.flags

/-- A cycle so far that sets no bit of CH_FLAGS. -/
theorem quiet (h : s.Acts r 0 x c) : s.CycleOf [r] [] c.s := by
  obtain ⟨hcycle, -, hflags, -⟩ := h
  refine ⟨hcycle.1, hcycle.2.1, fun a ha _ => ?_⟩
  by_cases hf : a = aChFlags r
  · rw [hf, hflags]
    exact BitVec.or_zero
  · exact hcycle.reg ha (by simpa using hf)

theorem finishQuiet (h : s.Acts r 0 x c) : s.CycleOf [r] [] c.finish ∧ c.finish.rail r = x :=
  ⟨Cyc.finish_acts h.quiet h.groupOff, (Cyc.rail_finish h.groupOff r).trans h.rail⟩

end State.Acts

end Sys2Proof.Machine
end

section
/-! Voltage windows (R46 to R48, R88 to R92): crossings of the over-voltage and under-voltage comparators. -/

namespace Sys2Proof.Machine
open Sys2Proof

/-! The trip of a rail by one cause -/

/-- A rail trips with two bits of CH_FLAGS set and a source raised. -/
theorem Cyc.settle_trips (c : Cyc) (r : Rail) (k : BitVec 3) (i j src : Nat) :
    c.s.Trips r k (bitw i ||| bitw j) (c.s.rail r).ov
      (Cyc.settle 5 ((((c.map (fun s => s.toTripped r k)).flag r i).flag r j).raise src) r).s := by
  have ht := ((State.toTripped_trips c.s r k).flag i).flag j
  rw [show (0 : Word) ||| bitw i = bitw i from BitVec.zero_or] at ht
  refine State.Trips.settle ?_
  simpa only [Cyc.s_raise, Cyc.s_flag, Cyc.s_map] using ht

section
variable {s : State} {r : Rail}

theorem exec_ovCrossing (hu : s.use r = true) (hiso : s.isolated (bankOv r) = false) {active : Bool}
    (hout : (s.ch r).ov.out ≠ active) :
    exec (.ovCrossing r active []) s = .next (s.cyc (fun c => c.ovLevel r active [])) := by
  refine congrArg Host.Outcome.next (if_neg ?_)
  simp [hu, hiso, hout]

/-- The state in which an over-voltage comparator has changed its output. -/
def State.ovOut (s : State) (r : Rail) (active : Bool) : State :=
  s.setCh r { s.ch r with ov := { (s.ch r).ov with out := active } }

theorem State.ovOut_cycleOf (s : State) (r : Rail) (active : Bool) : s.CycleOf [r] [] (s.ovOut r active) :=
  s.setCh_cycleOf r _

theorem State.rail_ovOut (s : State) (r : Rail) (active : Bool) :
    (s.ovOut r active).rail r = { s.rail r with ov := { (s.rail r).ov with out := active } } := by
  rw [State.ovOut, State.rail_setCh_self]
  rfl

theorem Cyc.ovLevel_blanked {active : Bool} (hb : (s.ch r).ov.blank.isSome = true) :
    Cyc.ovLevel { s := s } r active [] = { s := s.ovOut r active } := by
  unfold Cyc.ovLevel
  exact (if_pos hb).trans (Cyc.hits_none _)

theorem Cyc.ovLevel_active (hb : (s.ch r).ov.blank = none) :
    Cyc.ovLevel { s := s } r true [] = Cyc.hitsWith { s := s.ovOut r true } [{ rail := r, cause := .ovCross }] [] := by
  unfold Cyc.ovLevel
  exact (if_neg (by simp [hb])).trans (if_pos rfl)

theorem Cyc.ovLevel_inactive (hb : (s.ch r).ov.blank = none) :
    Cyc.ovLevel { s := s } r false [] = Cyc.settle 5 (Cyc.flag { s := s.ovOut r false } r 0) r := by
  unfold Cyc.ovLevel
  refine (if_neg (by simp [hb])).trans ((if_neg (by simp)).trans ?_)
  rw [Cyc.hits_none]
  rfl

/-- An over-voltage that the rail's state answers trips it. -/
theorem Cyc.ovCross_trips (c : Cyc) (r : Rail) (hu : c.s.use r = true)
    (hst : (c.s.rail r).st ∈ [RailState.rising, .on, .margined, .falling, .retryWait]) :
    c.s.Trips r 1 0x9 (c.s.rail r).ov (c.hitsWith [{ rail := r, cause := .ovCross }] []).s
      ∧ (c.hitsWith [{ rail := r, cause := .ovCross }] []).groupOff = c.groupOff := by
  rw [c.hits_transition r (State.hasTransition_ovCross hu hst)]
  exact ⟨c.settle_trips r 1 0 3 (railSrc r .ov), Cyc.groupOff_settle _ _ _⟩

theorem ovCrossing_trips (hu : s.use r = true) (hiso : s.isolated (bankOv r) = false) (hout : (s.ch r).ov.out = false)
    (hb : (s.ch r).ov.blank = none) (hst : (s.ch r).st ∈ [RailState.rising, .on, .margined, .falling, .retryWait]) :
    ∃ t, exec (.ovCrossing r true []) s = .next t ∧ s.Trips r 1 0x9 { (s.rail r).ov with out := true } t := by
  refine ⟨_, exec_ovCrossing hu hiso (by simp [hout]), ?_⟩
  obtain ⟨ht, hg⟩ := Cyc.ovCross_trips { s := s.ovOut r true } r hu (by rw [State.rail_ovOut]; exact hst)
  rw [State.rail_ovOut] at ht
  rw [State.cyc, Cyc.ovLevel_active hb]
  exact (ht.beforeFlags (s.ovOut_cycleOf r true) (by rw [State.rail_ovOut])).finish hg false

theorem State.ovOut_acts (s : State) (r : Rail) (active : Bool) :
    s.Acts r 0 { s.rail r with ov := { (s.rail r).ov with out := active } } { s := s.ovOut r active } :=
  (State.Acts.start s r).act (f := fun s => s.ovOut r active) (s.ovOut_cycleOf r active) (s.rail_ovOut r active)

theorem ovCrossing_off (hu : s.use r = true) (hiso : s.isolated (bankOv r) = false) (hout : (s.ch r).ov.out = false)
    (hb : (s.ch r).ov.blank = none) (hst : (s.ch r).st = .off) :
    ∃ t, exec (.ovCrossing r true []) s = .next t ∧ s.CycleOf [r] [aChFlags r] t
      ∧ (t.ch r).st = .off ∧ (t.ch r).trip = (s.ch r).trip ∧ (t.ch r).ov.out = true
      ∧ t.reg (aChFlags r) = s.reg (aChFlags r) ||| 0x9 := by
  refine ⟨_, exec_ovCrossing hu hiso (by simp [hout]), ?_⟩
  have hoff : ((s.ovOut r true).rail r).st = .off := by rw [s.rail_ovOut]; exact hst
  have hside : Cyc.sideEffect { s := s.ovOut r true } r .ovCross false
      = ((Cyc.flag { s := s.ovOut r true } r 0).flag r 3).raise (railSrc r .ov) := by
    have hu' : (s.ovOut r true).use r = true := hu
    have hoff' : ((s.ovOut r true).ch r).st = .off := hoff
    unfold Cyc.sideEffect
    simp [hu', hoff']
  obtain ⟨hcycle, hrail, hflags⟩ := ((((s.ovOut_acts r true).flag 0).flag 3).raise (railSrc r .ov)).rests (by
    rw [show (s.rail r).st = .off from hst]; decide) |>.finish
  rw [State.cyc, Cyc.ovLevel_active hb,
    Cyc.hits_sideEffect { s := s.ovOut r true } r (State.hasTransition_ovCross_off hoff), hside]
  exact ⟨hcycle, (State.shows (·.st) hrail :).trans hst, (State.shows (·.trip) hrail :),
    (State.shows (·.ov.out) hrail :), hflags⟩

theorem ovCrossing_blanked (hu : s.use r = true) (hiso : s.isolated (bankOv r) = false) {active : Bool}
    (hout : (s.ch r).ov.out ≠ active) {e : Nat} (hb : (s.ch r).ov.blank = some e) :
    ∃ t, exec (.ovCrossing r active []) s = .next t ∧ s.CycleOf [r] [] t
      ∧ t.ch r = { s.ch r with ov := { (s.ch r).ov with out := active }, perturb := (t.ch r).perturb } := by
  refine ⟨_, exec_ovCrossing hu hiso hout, ?_⟩
  obtain ⟨hcycle, hrail⟩ := (s.ovOut_acts r active).finishQuiet
  rw [State.cyc, Cyc.ovLevel_blanked (by simp [hb])]
  exact ⟨hcycle, State.ch_of_rail (x := { s.ch r with ov := { (s.ch r).ov with out := active } }) hrail⟩

theorem ovCrossing_back (hu : s.use r = true) (hiso : s.isolated (bankOv r) = false) (hout : (s.ch r).ov.out = true)
    (hb : (s.ch r).ov.blank = none) (hst : (s.ch r).st = .on) :
    ∃ t, exec (.ovCrossing r false []) s = .next t ∧ s.CycleOf [r] [aChFlags r] t
      ∧ (t.ch r).st = .on ∧ (t.ch r).ov.out = false ∧ t.reg (aChFlags r) = s.reg (aChFlags r) ||| 0x1 := by
  refine ⟨_, exec_ovCrossing hu hiso (by simp [hout]), ?_⟩
  obtain ⟨hcycle, hrail, hflags⟩ := ((s.ovOut_acts r false).flag 0).rests (by
    rw [show (s.rail r).st = .on from hst]; decide) |>.finish
  rw [State.cyc, Cyc.ovLevel_inactive hb]
  exact ⟨hcycle, (State.shows (·.st) hrail :).trans hst, (State.shows (·.ov.out) hrail :), hflags⟩

/-! Under-voltage -/

theorem exec_uvCrossing (hu : s.use r = true) (hiso : s.isolated (bankUv r) = false) (hp : s.power.state ≠ .hibernate)
    {active : Bool} (hout : (s.ch r).uv.out ≠ active) :
    exec (.uvCrossing r active []) s = .next (s.cyc (fun c => c.uvLevel r active [])) := by
  refine congrArg Host.Outcome.next (if_neg ?_)
  simp [hu, hiso, hout, hp]

/-- The state in which an under-voltage comparator has told its output. -/
def State.uvOut (s : State) (r : Rail) (active : Bool) : State :=
  s.setCh r { s.ch r with uv := { (s.ch r).uv with out := active }, uvNew := false }

theorem State.rail_uvOut (s : State) (r : Rail) (active : Bool) : (s.uvOut r active).rail r =
    { s.rail r with uv := { (s.rail r).uv with out := active }, uvNew := false } := by
  rw [State.uvOut, State.rail_setCh_self]
  rfl

/-- The cycle of an under-voltage comparator that has changed: its edge bit is set. -/
def State.uvEdge (s : State) (r : Rail) (active : Bool) : Cyc := Cyc.flag { s := s.uvOut r active } r 1

theorem State.uvEdge_acts (s : State) (r : Rail) (active : Bool) : s.Acts r (bitw 1)
    { s.rail r with uv := { (s.rail r).uv with out := active }, uvNew := false } (s.uvEdge r active) := by
  have h := ((State.Acts.start s r).act (f := fun s => s.uvOut r active) (s.setCh_cycleOf r _)
    (s.rail_uvOut r active)).flag 1
  rwa [show (0 : Word) ||| bitw 1 = bitw 1 from BitVec.zero_or] at h

theorem Cyc.uvLevel_changed {active : Bool} (hout : (s.ch r).uv.out ≠ active) (hb : (s.ch r).uv.blank = none)
    {k : Cause} (hk : k = if active then (if (s.ch r).st.window then .uvCross else .belowVoff) else .powerGood) :
    Cyc.uvLevel { s := s } r active [] = Cyc.settle 5 ((s.uvEdge r active).hitsWith [{ rail := r, cause := k }] []) r := by
  unfold Cyc.uvLevel
  refine (if_neg (by simp [hb])).trans ((if_neg (by simpa using hout)).trans ?_)
  cases active
  · rw [hk]
    rfl
  · rw [hk]
    rfl

theorem uvCrossing_trips (hu : s.use r = true) (hiso : s.isolated (bankUv r) = false) (hp : s.power.state ≠ .hibernate)
    (hb : (s.ch r).uv.blank = none) (hout : (s.ch r).uv.out = false) (hst : (s.ch r).st = .on)
    (hreact : s.reactOf r .uv ≠ 0) :
    ∃ t, exec (.uvCrossing r true []) s = .next t ∧ s.Trips r 2 0x12 (s.rail r).ov t := by
  refine ⟨_, exec_uvCrossing hu hiso hp (by simp [hout]), ?_⟩
  have hacts := s.uvEdge_acts r true
  have htr : (s.uvEdge r true).s.hasTransition r .uvCross = true := by
    rw [State.hasTransition_uvCross (by rw [hacts.rail]; exact hst), hacts.conf.use, hacts.conf.reactOf, hu]
    simpa using hreact
  have ht := hacts.trips (Cyc.settle_trips (s.uvEdge r true) r 2 1 4 (railSrc r .uv)) rfl
  rw [hacts.rail] at ht
  rw [State.cyc, Cyc.uvLevel_changed (k := .uvCross) (by simp [hout]) hb (by simp [hst, RailState.window]),
    Cyc.hits_transition _ r htr]
  exact ht.settle.finish (by rw [Cyc.groupOff_settle, Cyc.groupOff_settle]; rfl) false

theorem uvCrossing_ignored (hu : s.use r = true) (hiso : s.isolated (bankUv r) = false) (hp : s.power.state ≠ .hibernate)
    (hb : (s.ch r).uv.blank = none) (hout : (s.ch r).uv.out = false) (hst : (s.ch r).st = .on)
    (hreact : s.reactOf r .uv = 0) (hov : (s.ch r).ov.blank = none) :
    ∃ t, exec (.uvCrossing r true []) s = .next t ∧ s.CycleOf [r] [aChFlags r] t
      ∧ (t.ch r).st = .on ∧ (t.ch r).pg = false ∧ t.reg (aChFlags r) = s.reg (aChFlags r) ||| 0x12 := by
  refine ⟨_, exec_uvCrossing hu hiso hp (by simp [hout]), ?_⟩
  have hacts := s.uvEdge_acts r true
  have hon : ((s.uvEdge r true).s.rail r).st = .on := by rw [hacts.rail]; exact hst
  have htr : (s.uvEdge r true).s.hasTransition r .uvCross = false := by
    rw [State.hasTransition_uvCross hon, hacts.conf.reactOf, hreact]
    simp
  have hside : (s.uvEdge r true).sideEffect r .uvCross false
      = (((s.uvEdge r true).flag r 1).flag r 4).raise (railSrc r .uv) := by
    have hu' : (s.uvEdge r true).s.use r = true := by rw [hacts.conf.use, hu]
    have hon' : (((s.uvEdge r true).flag r 1).s.ch r).st = .on := hon
    have hr' : (((s.uvEdge r true).flag r 1).flag r 4).s.reactOf r .uv = 0 := by
      rw [((hacts.flag 1).flag 4).conf.reactOf, hreact]
    unfold Cyc.sideEffect
    simp only [hu', hon', hr']
    rfl
  have hrest : (s.rail r).st ∉ [RailState.rising, .falling, .discharging] := by
    rw [show (s.rail r).st = .on from hst]; decide
  have hend := (((hacts.flag 1).flag 4).raise (railSrc r .uv)).rests hrest |>.rests hrest
  have hpg : (Cyc.settle 5 ((((s.uvEdge r true).flag r 1).flag r 4).raise (railSrc r .uv)) r).s.pgNow r = false := by
    have hr := ((((hacts.flag 1).flag 4).raise (railSrc r .uv)).rests hrest)
    rw [State.pgNow_judged, hr.conf.use, hu, hr.rail]
    · simp
    · rw [hr.rail, show (s.rail r).st = .on from hst]; rfl
    · rw [hr.rail]; exact hov
    · rw [hr.rail]; exact hb
    · rw [hr.rail]
  rw [hpg] at hend
  obtain ⟨hcycle, hrail, hflags⟩ := hend.finish
  rw [State.cyc, Cyc.uvLevel_changed (k := .uvCross) (by simp [hout]) hb (by simp [hst, RailState.window]),
    Cyc.hits_sideEffect _ r htr, hside]
  exact ⟨hcycle, (State.shows (·.st) hrail :).trans hst, (State.shows (·.pg) hrail :), hflags⟩

theorem uvCrossing_good (hu : s.use r = true) (hiso : s.isolated (bankUv r) = false) (hp : s.power.state ≠ .hibernate)
    (hb : (s.ch r).uv.blank = none) (hout : (s.ch r).uv.out = true) (hst : (s.ch r).st = .rising)
    (hovb : (s.ch r).ov.blank = none) (hov : (s.ch r).ov.out = false) (hramp : (s.ch r).ramp = false)
    (hpmbw : (s.ch r).pmbw = false) :
    ∃ t, exec (.uvCrossing r false []) s = .next t ∧ s.CycleOf [r] [aChFlags r] t
      ∧ (t.ch r).st = .on ∧ (t.ch r).pg = true ∧ (t.ch r).ton = none
      ∧ t.reg (aChFlags r) = s.reg (aChFlags r) ||| 0x2 := by
  refine ⟨_, exec_uvCrossing hu hiso hp (by simp [hout]), ?_⟩
  have hacts := s.uvEdge_acts r false
  have hrising : ((s.uvEdge r false).s.rail r).st = .rising := by rw [hacts.rail]; exact hst
  have hpg : (s.uvEdge r false).s.pgNow r = true := by
    rw [State.pgNow_judged, hacts.rail]
    · simp [← State.ch_fields, hov, hramp, hpmbw]
    · rw [hrising]; rfl
    · rw [hacts.rail]; exact hovb
    · rw [hacts.rail]; exact hb
    · rw [hacts.rail]
  have htr : (s.uvEdge r false).s.hasTransition r .powerGood = true := by
    rw [State.hasTransition_powerGood (by rw [hacts.conf.use, hu]) hrising, hpg]
  obtain ⟨hon, hgood⟩ := hacts.good hst hpg
  obtain ⟨hcycle, hrail, hflags⟩ := (hon.rests (by simp)).finish
  rw [hgood] at hrail
  rw [State.cyc, Cyc.uvLevel_changed (k := .powerGood) (by simp [hout]) hb (by simp), Cyc.hits_transition _ r htr]
  exact ⟨hcycle, (State.shows (·.st) hrail :), (State.shows (·.pg) hrail :), (State.shows (·.ton) hrail :), hflags⟩

theorem uvCrossing_below (hu : s.use r = true) (hiso : s.isolated (bankUv r) = false) (hp : s.power.state ≠ .hibernate)
    (hb : (s.ch r).uv.blank = none) (hout : (s.ch r).uv.out = false) (hst : (s.ch r).st = .falling)
    (hpend : (s.ch r).pend = false) :
    ∃ t, exec (.uvCrossing r true []) s = .next t ∧ s.CycleOf [r] [aChFlags r] t
      ∧ (t.ch r).st = .off ∧ (t.ch r).discharge = false ∧ (t.ch r).toff = none
      ∧ t.reg (aChFlags r) = s.reg (aChFlags r) ||| 0x2 := by
  refine ⟨_, exec_uvCrossing hu hiso hp (by simp [hout]), ?_⟩
  have hacts := s.uvEdge_acts r true
  have hfalling : ((s.uvEdge r true).s.rail r).st = .falling := by rw [hacts.rail]; exact hst
  have hpend' : ((s.uvEdge r true).s.ch r).pend = false := (State.shows (·.pend) hacts.rail :).trans hpend
  have htr : (s.uvEdge r true).s.hasTransition r .belowVoff = true := by
    have hu' : (s.uvEdge r true).s.use r = true := by rw [hacts.conf.use, hu]
    rw [State.hasTransition_belowVoff hu' hfalling, State.belowVoff_judged, hacts.rail, hu']
    · rfl
    · rw [hfalling]; rfl
    · rw [hacts.rail]; exact hb
    · rw [hacts.rail]
  have hoff : (s.uvEdge r true).transition r .belowVoff = (s.uvEdge r true).map (fun s => s.toOff r) :=
    if_neg (by simp [hpend'])
  have hend := ((hacts.act (f := fun s => s.toOff r) (State.toOff_cycleOf _ r) (State.rail_toOff _ r)).rests
    (by simp)).rests (by simp)
  obtain ⟨hcycle, hrail, hflags⟩ := hend.finish
  rw [State.cyc, Cyc.uvLevel_changed (k := .belowVoff) (by simp [hout]) hb (by simp [hst, RailState.window]),
    Cyc.hits_transition _ r htr, hoff]
  exact ⟨hcycle, (State.shows (·.st) hrail :), (State.shows (·.discharge) hrail :), (State.shows (·.toff) hrail :), hflags⟩

end

/-- Settles O18, crossing by crossing: the cause that the crossing is has its transition or only its flags in the
rail's state, and what follows from the levels leaves the rail there. -/
theorem voltageWindows : Obligations.VoltageWindows := by
  unfold Obligations.VoltageWindows
  refine ⟨fun s r hu hiso => ⟨fun hout hb hst => ?_, fun hout hb hst => ovCrossing_off hu hiso hout hb hst,
    fun active e hout hb => ovCrossing_blanked hu hiso hout hb, fun hout hb hst => ovCrossing_back hu hiso hout hb hst⟩,
    fun s r hu hiso hp hb => ⟨fun hout hst hre => ?_,
      fun hout hst hre hov => uvCrossing_ignored hu hiso hp hb hout hst hre hov,
      fun hout hst hovb hov hramp hpmbw => uvCrossing_good hu hiso hp hb hout hst hovb hov hramp hpmbw,
      fun hout hst hpend => uvCrossing_below hu hiso hp hb hout hst hpend⟩⟩
  · obtain ⟨t, he, ht⟩ := ovCrossing_trips hu hiso hout hb hst
    exact ⟨t, he, ht.cycle, ht.st, ht.trip, ht.started, ht.enCmd, ht.pg, ht.ovOut, ht.flags⟩
  · obtain ⟨t, he, ht⟩ := uvCrossing_trips hu hiso hp hb hout hst hre
    refine ⟨t, he, (ht.unmargined ?_).1, ht.st, ht.trip, ht.started, ht.pg, ht.flags⟩
    rw [show (s.rail r).st = .on from hst]
    decide

end Sys2Proof.Machine
end

section
/-! Over-current (R90, R91, R96, R102 to R105): the hold latch, the cycle latch, and the auxiliary comparators. -/

namespace Sys2Proof.Machine
open Sys2Proof

section
variable {s : State} {r : Rail}

theorem exec_ocCrossing (hu : s.use r = true) (hx : isExt r = false) (hiso : s.isolated 2 = false)
    (hp : s.power.state ≠ .hibernate) (hout : (s.ch r).oc.out = false) (hb : (s.ch r).oc.blank = none)
    (hl : (s.ch r).leading = none) : exec (.ocCrossing r true []) s = .next (s.cyc (fun c =>
      (c.map (fun s' => s'.setCh r { s.ch r with oc := { (s.ch r).oc with out := true } })).ocLevel r true [])) := by
  refine congrArg Host.Outcome.next ((if_neg ?_).trans (congrArg Cyc.finish (if_neg ?_)))
  · simp [hu, hx, hiso, hout, hp]
  · simp [hb, hl]

/-- The cycle of an over-current comparator that has become active. -/
def State.ocOn (s : State) (r : Rail) : Cyc :=
  { s := s.setCh r { s.ch r with oc := { (s.ch r).oc with out := true } } }

theorem State.ocOn_acts (s : State) (r : Rail) :
    s.Acts r 0 { s.rail r with oc := { (s.rail r).oc with out := true } } (s.ocOn r) :=
  (State.Acts.start s r).act (f := fun s => s.setCh r { s.ch r with oc := { (s.ch r).oc with out := true } })
    (s.setCh_cycleOf r _) (s.rail_setCh_self r _)

theorem State.hasTransition_ocHold (hu : s.use r = true) (h : (s.rail r).st ∈ [RailState.rising, .on]) :
    s.hasTransition r .ocHold = true := by
  have h' : (s.ch r).st ∈ [RailState.rising, .on] := h
  simp only [State.hasTransition, hu, Bool.true_and]
  generalize (s.ch r).st = x at h' ⊢
  fin_cases h' <;> rfl

theorem ocCrossing_trips (hu : s.use r = true) (hx : isExt r = false) (hiso : s.isolated 2 = false)
    (hp : s.power.state ≠ .hibernate) (hout : (s.ch r).oc.out = false) (hb : (s.ch r).oc.blank = none)
    (hl : (s.ch r).leading = none) (hlatch : s.bit (aChOc r) 12 = true) (hst : (s.ch r).st ∈ [RailState.rising, .on]) :
    ∃ t, exec (.ocCrossing r true []) s = .next t ∧ s.Trips r 3 0x24 (s.rail r).ov t := by
  refine ⟨_, exec_ocCrossing hu hx hiso hp hout hb hl, ?_⟩
  have hacts := s.ocOn_acts r
  have hhold : (s.ocOn r).s.ocHold r = true := by
    rw [hacts.conf.ocHold, State.ocHold, hlatch]
    simp
  have htr : (s.ocOn r).s.hasTransition r .ocHold = true :=
    State.hasTransition_ocHold (by rw [hacts.conf.use, hu]) (by rw [hacts.rail]; exact hst)
  have ht := hacts.trips (Cyc.settle_trips (s.ocOn r) r 3 2 5 (railSrc r .oc)) rfl
  rw [hacts.rail] at ht
  have hlevel : (s.ocOn r).ocLevel r true [] = (s.ocOn r).hitsWith [{ rail := r, cause := .ocHold }] [] :=
    (if_neg (by simp)).trans (if_pos hhold)
  have hm : (0 : Word) ||| (bitw 2 ||| bitw 5) = 0x24 := by decide
  rw [hm] at ht
  show s.Trips r 3 0x24 (s.rail r).ov (Cyc.finish ((s.ocOn r).ocLevel r true []))
  rw [hlevel, Cyc.hits_transition _ r htr]
  exact ht.finish (by rw [Cyc.groupOff_settle]; rfl) false

/-- A channel whose present switching period is cut, and counted (R90, R91). -/
def Chan.cut (x : Chan) : Chan := { x with cycTrip := true, ocRun := x.ocRun + 1 }

theorem Cyc.ocCycle_cuts (c : Cyc) (r : Rail) (hstart : (c.s.ch r).started = true) (hst : (c.s.ch r).st = .on)
    (hcyc : (c.s.ch r).cycTrip = false)
    (hrun : c.s.fld (aOcRun (r / 4)) (8 * (r % 4) + 7) (8 * (r % 4)) = 0
      ∨ (c.s.ch r).ocRun + 1 < c.s.fld (aOcRun (r / 4)) (8 * (r % 4) + 7) (8 * (r % 4))) :
    c.ocCycle r = c.map (fun s => s.setCh r (c.s.ch r).cut) := by
  unfold Cyc.ocCycle
  refine (if_neg (by simp [hstart, hst, RailState.window])).trans ((if_neg (by simp [hcyc])).trans (if_neg ?_))
  omega

theorem ocCrossing_cuts (hu : s.use r = true) (hx : isExt r = false) (hiso : s.isolated 2 = false)
    (hp : s.power.state ≠ .hibernate) (hout : (s.ch r).oc.out = false) (hb : (s.ch r).oc.blank = none)
    (hl : (s.ch r).leading = none) (hlatch : s.bit (aChOc r) 12 = false) (hst : (s.ch r).st = .on)
    (hstart : (s.ch r).started = true) (hcyc : (s.ch r).cycTrip = false)
    (hrun : s.fld (aOcRun (r / 4)) (8 * (r % 4) + 7) (8 * (r % 4)) = 0
      ∨ (s.ch r).ocRun + 1 < s.fld (aOcRun (r / 4)) (8 * (r % 4) + 7) (8 * (r % 4))) :
    ∃ t, exec (.ocCrossing r true []) s = .next t ∧ s.CycleOf [r] [aChFlags r] t
      ∧ (t.ch r).st = .on ∧ (t.ch r).cycTrip = true ∧ (t.ch r).ocRun = (s.ch r).ocRun + 1
      ∧ t.reg (aChFlags r) = s.reg (aChFlags r) ||| 0x4 := by
  refine ⟨_, exec_ocCrossing hu hx hiso hp hout hb hl, ?_⟩
  have hacts := (s.ocOn_acts r).flag 2
  have hhold : ¬ (s.ocOn r).s.ocHold r = true := by
    rw [(s.ocOn_acts r).conf.ocHold, State.ocHold, hlatch, hx]
    simp
  have hlevel : (s.ocOn r).ocLevel r true [] = ((s.ocOn r).flag r 2).ocCycle r :=
    (if_neg (by simp)).trans ((if_neg hhold).trans (Cyc.hits_none _))
  have hch := hacts.rail
  have hocRun : ((s.ocOn r).flag r 2).s.fld (aOcRun (r / 4)) (8 * (r % 4) + 7) (8 * (r % 4))
      = s.fld (aOcRun (r / 4)) (8 * (r % 4) + 7) (8 * (r % 4)) := by
    rw [State.fld, State.fld, hacts.conf.regBeyond]
    · simp only [ownReg, aOcRun, aMon]
      omega
    · simp only [aOcRun, aMon]
      omega
  have hcut := Cyc.ocCycle_cuts ((s.ocOn r).flag r 2) r ((State.shows (·.started) hch :).trans hstart)
    ((State.shows (·.st) hch :).trans hst) ((State.shows (·.cycTrip) hch :).trans hcyc)
    (by rw [hocRun, (State.shows (·.ocRun) hch :)]; exact hrun)
  obtain ⟨hcycle, hrail, hflags⟩ := (hacts.act (f := fun u => u.setCh r (((s.ocOn r).flag r 2).s.ch r).cut)
    (State.setCh_cycleOf _ r _) (State.rail_setCh_self _ r _)).finish
  have hocRunCh : (((s.ocOn r).flag r 2).s.ch r).ocRun = (s.ch r).ocRun := (State.shows (·.ocRun) hch :)
  have hstCh : (((s.ocOn r).flag r 2).s.ch r).st = .on := (State.shows (·.st) hch :).trans hst
  rw [← hcut, ← hlevel] at hcycle hrail hflags
  exact ⟨hcycle, (State.shows (·.st) hrail :).trans hstCh, (State.shows (·.cycTrip) hrail :),
    (State.shows (·.ocRun) hrail :).trans (congrArg (· + 1) hocRunCh), hflags⟩

/-! The next switching period -/

/-- A new period begins (R91): it starts the count again where the last one was not cut. -/
def State.nextPeriod (s : State) (r : Rail) : State :=
  (if (s.ch r).cycTrip then s else s.setCh r { s.ch r with ocRun := 0 }).startPeriod r

theorem State.nextPeriod_cycleOf (s : State) (r : Rail) : s.CycleOf [r] [] (s.nextPeriod r) := by
  unfold State.nextPeriod
  split
  · exact s.startPeriod_cycleOf r
  · exact (s.setCh_cycleOf r _).trans (State.startPeriod_cycleOf _ r)

theorem State.rail_nextPeriod (s : State) (r : Rail) : (s.nextPeriod r).rail r = { s.rail r with
    cycTrip := false, leading := ((s.nextPeriod r).rail r).leading
    ocRun := if (s.rail r).cycTrip then (s.rail r).ocRun else 0 } := by
  have hcyc : (s.rail r).cycTrip = (s.ch r).cycTrip := rfl
  unfold State.nextPeriod
  rw [State.rail_startPeriod, hcyc]
  split
  · rfl
  · rw [State.rail_setCh_self]
    rfl

theorem switchingPeriodStart_releases (hx : isExt r = false) (hstart : (s.ch r).started = true)
    (hst : (s.ch r).st = .on) (hout : (s.ch r).oc.out = false) :
    ∃ t, exec (.switchingPeriodStart r) s = .next t ∧ s.CycleOf [r] [] t
      ∧ t.ch r = { s.ch r with
        cycTrip := false, leading := (t.ch r).leading, perturb := (t.ch r).perturb
        ocRun := if (s.ch r).cycTrip then (s.ch r).ocRun else 0 } := by
  have hrail := s.rail_nextPeriod r
  have hact : ¬ ((s.nextPeriod r).ocAct r && !(s.nextPeriod r).ocHold r) = true := by
    have hoc : ((s.nextPeriod r).ch r).oc = (s.ch r).oc := (State.shows (·.oc) hrail :)
    rw [State.ocAct, State.ocOut, hx, hoc, hout]
    simp
  have hexec : exec (.switchingPeriodStart r) s = .next (Cyc.finish { s := s.nextPeriod r }) :=
    congrArg Host.Outcome.next ((if_neg (by simp [hx, hstart, hst, RailState.window])).trans
      (congrArg Cyc.finish (if_neg hact)))
  obtain ⟨hcycle, hend⟩ := ((State.Acts.start s r).act (f := fun s => s.nextPeriod r) (s.nextPeriod_cycleOf r)
    hrail).finishQuiet
  refine ⟨_, hexec, hcycle, ?_⟩
  have hlead : ((Cyc.finish { s := s.nextPeriod r }).ch r).leading = ((s.nextPeriod r).rail r).leading :=
    (State.shows (·.leading) hend :)
  rw [← hlead] at hend
  exact State.ch_of_rail (x := { s.ch r with
    cycTrip := false, leading := ((Cyc.finish { s := s.nextPeriod r }).ch r).leading
    ocRun := if (s.ch r).cycTrip then (s.ch r).ocRun else 0 }) hend

end

/-! Auxiliary comparators -/

section
variable {s : State} {n : Fin 16} {high active : Bool}

/-- An AUX input one of whose comparators has changed. -/
def State.auxSet (s : State) (n : Fin 16) (high active : Bool) : State :=
  { s with aux := s.aux.set n (if high then { s.aux[n] with high := active } else { s.aux[n] with low := active }) }

/-- The bit of an AUX comparator. -/
def auxBit (n : Fin 16) (high : Bool) : Nat := n.val + if high then 16 else 0

/-- The cycle of an AUX comparator that serves no rail: its event bit, and its latch bit. -/
def State.auxEvent (s : State) (n : Fin 16) (high active : Bool) : State :=
  let t := (s.auxSet n high active).orReg aAuxFlg (bitw (auxBit n high))
  if active && t.bit (aMonAux n) 24 then t.orReg aAuxLat (bitw (auxBit n high)) else t

theorem Cyc.auxLevel_event (hr : high = true → s.auxRail n = none) :
    (Cyc.auxLevel { s := s } n high active []) = { s := s.auxEvent n high active } := by
  have hrail : (if high then (s.auxSet n high active).auxRail n else none) = none := by
    cases high
    · rfl
    · exact hr rfl
  unfold Cyc.auxLevel State.auxEvent
  dsimp only [Cyc.map]
  rw [show (if high then State.auxRail { s with aux := s.aux.set n (if high then { s.aux[n] with high := active }
    else { s.aux[n] with low := active }) } n else none) = none from hrail]
  dsimp only
  rw [Cyc.hits_none]
  by_cases hl : (active && ((s.auxSet n high active).orReg aAuxFlg (bitw (auxBit n high))).bit (aMonAux n) 24) = true
  · exact (if_pos hl).trans (congrArg (fun s => ({ s := s } : Cyc)) (if_pos hl).symm)
  · exact (if_neg hl).trans (congrArg (fun s => ({ s := s } : Cyc)) (if_neg hl).symm)

theorem auxCrossing_event (hp : s.powered = true) (hiso : s.isolated (if high then 9 else 10) = false)
    (hr : high = true → s.auxRail n = none) (hne : (if high then (s.aux[n]).high else (s.aux[n]).low) ≠ active)
    (hthr : high = false → active = true → s.fld (aMonAux n) 9 0 ≠ 0) :
    exec (.auxCrossing n high active []) s = .next (Cyc.finish { s := s.auxEvent n high active }) := by
  rw [← Cyc.auxLevel_event hr]
  refine congrArg Host.Outcome.next (if_neg ?_)
  simp only [hp, hiso]
  cases high <;> cases active <;> simp_all

theorem State.auxEvent_shows (s : State) (n : Fin 16) (high active : Bool) :
    { s with aux := (s.auxSet n high active).aux }.CycleOf [] [aAuxFlg, aAuxLat] (s.auxEvent n high active)
      ∧ (s.auxEvent n high active).reg aAuxFlg = s.reg aAuxFlg ||| bitw (auxBit n high)
      ∧ (s.auxEvent n high active).reg aAuxLat = if active = true ∧ s.bit (aMonAux n) 24 = true then
          s.reg aAuxLat ||| bitw (auxBit n high) else s.reg aAuxLat := by
  have hflg : aMonAux n ≠ aAuxFlg := by
    simp only [aMonAux, aAuxFlg, aMon]
    omega
  have hlat : aAuxLat ≠ aAuxFlg := by decide
  have hbit : ((s.auxSet n high active).orReg aAuxFlg (bitw (auxBit n high))).bit (aMonAux n) 24
      = s.bit (aMonAux n) 24 := by
    rw [State.bit, State.reg_orReg_ne _ hflg]
    rfl
  have h1 : { s with aux := (s.auxSet n high active).aux }.CycleOf [] [aAuxFlg, aAuxLat]
      ((s.auxSet n high active).orReg aAuxFlg (bitw (auxBit n high))) :=
    (State.orReg_cycleOf _ _ _).mono (by simp) (by simp)
  unfold State.auxEvent
  dsimp only
  rw [hbit]
  by_cases hl : active = true ∧ s.bit (aMonAux n) 24 = true
  · rw [if_pos (by simpa using hl), if_pos hl]
    refine ⟨h1.trans ((State.orReg_cycleOf _ _ _).mono (by simp) (by simp)), ?_, ?_⟩
    · rw [State.reg_orReg_ne _ (Ne.symm hlat), State.reg_orReg_self]
      rfl
    · rw [State.reg_orReg_self, State.reg_orReg_ne _ hlat]
      rfl
  · rw [if_neg (by simpa using hl), if_neg hl]
    refine ⟨h1, State.reg_orReg_self _ _ _, ?_⟩
    rw [State.reg_orReg_ne _ hlat]
    rfl

end

/-- Settles O19: a hold latch trips as one cause, a cycle latch cuts the period, and an AUX comparator that serves no
rail only sets its bits. -/
theorem overCurrent : Obligations.OverCurrent := by
  unfold Obligations.OverCurrent
  refine ⟨fun s r hu hx hiso hp hout hb hl => ⟨fun hlatch hst => ?_, fun hlatch hst hstart hcyc hrun =>
    ocCrossing_cuts hu hx hiso hp hout hb hl hlatch hst hstart hcyc hrun⟩,
    fun s r hx hstart hst hout => switchingPeriodStart_releases hx hstart hst hout,
    fun s n high active hp hiso hr hne hthr => ?_⟩
  · obtain ⟨t, he, ht⟩ := ocCrossing_trips hu hx hiso hp hout hb hl hlatch hst
    refine ⟨t, he, (ht.unmargined ?_).1, ht.st, ht.trip, ht.started, ht.flags⟩
    have hst' : (s.rail r).st ∈ [RailState.rising, .on] := hst
    intro hm
    rw [hm] at hst'
    simp at hst'
  · obtain ⟨hcycle, hflg, hlat⟩ := s.auxEvent_shows n high active
    have hown : ownReg aAuxFlg ∧ ownReg aAuxLat := by
      simp only [ownReg, aAuxFlg, aAuxLat, aMon]
      omega
    have haux : (Cyc.finish { s := s.auxEvent n high active }).aux = (s.auxSet n high active).aux := by
      rw [(Cyc.finish_acts (c := { s := s.auxEvent n high active }) (inj := false) hcycle rfl).1]
    refine ⟨_, auxCrossing_event hp hiso hr hne hthr, ?_, ?_, fun m hm => ?_,
      (Cyc.reg_finish rfl hown.1).trans hflg, (Cyc.reg_finish rfl hown.2).trans hlat⟩
    · rw [haux]
      exact Cyc.finish_acts hcycle rfl
    · rw [haux, State.auxSet]
      cases high <;> simp
    · have hmn : n.val ≠ m.val := fun h => hm (Fin.ext h.symm)
      rw [haux, State.auxSet]
      simp [hmn]

end Sys2Proof.Machine
end

section
/-! The timers of a channel (R39 to R41, R46, R57 to R60), the end of a soft start, and the end of a blanking (R97). -/

namespace Sys2Proof.Machine
open Sys2Proof

section
variable {s : State} {r : Rail}

/-! Timers that trip -/

/-- A rail trips with cause 4 after its TON or its pre-bias interval (R39, R41). -/
theorem Cyc.settle_timeout (c : Cyc) (r : Rail) : c.s.Trips r 4 0x100 (c.s.rail r).ov
    (Cyc.settle 5 (((c.map (fun s => s.toTripped r 4)).flag r 8).raise (railSrc r .onTimeout)) r).s := by
  have ht := (State.toTripped_trips c.s r 4).flag 8
  rw [show (0 : Word) ||| bitw 8 = 0x100 from by decide] at ht
  refine State.Trips.settle ?_
  simpa only [Cyc.s_raise, Cyc.s_flag, Cyc.s_map] using ht

theorem tonExpiry_trips (hu : s.use r = true) (hst : (s.ch r).st = .rising) (ht : (s.ch r).ton ≠ none) :
    ∃ t, exec (.tonExpiry r []) s = .next t ∧ s.Trips r 4 0x100 (s.rail r).ov t := by
  have hton : (s.ch r).ton.isSome = true := by simpa [Option.isSome_iff_ne_none] using ht
  have htr : s.hasTransition r .tonExpiry = true := by simp [State.hasTransition, hu, hst, hton]
  refine ⟨_, congrArg Host.Outcome.next (if_neg (by simpa using ht)), ?_⟩
  rw [State.cyc, Cyc.hits_transition { s := s } r htr]
  exact (Cyc.settle_timeout { s := s } r).finish (Cyc.groupOff_settle _ _ _) false

theorem State.hasTransition_toffExpiry (hu : s.use r = true) (hst : (s.ch r).st ∈ [RailState.falling, .discharging])
    (ht : (s.ch r).toff ≠ none) : s.hasTransition r .toffExpiry = true := by
  have htoff : (s.ch r).toff.isSome = true := by simpa [Option.isSome_iff_ne_none] using ht
  have hst' : (s.ch r).st = .falling ∨ (s.ch r).st = .discharging := by simpa using hst
  rcases hst' with hst' | hst' <;> simp [State.hasTransition, hu, hst', htoff]

theorem prebiasTimeout_trips (hu : s.use r = true) (hst : (s.ch r).st = .discharging) (ht : (s.ch r).toff ≠ none)
    (hpend : (s.ch r).pend = true) :
    ∃ t, exec (.prebiasTimeout r []) s = .next t ∧ s.Trips r 4 0x100 (s.rail r).ov t := by
  have htr := State.hasTransition_toffExpiry hu (by simp [hst]) ht
  have htrans : Cyc.transition { s := s } r .toffExpiry
      = ((Cyc.map { s := s } (fun s => s.toTripped r 4)).flag r 8).raise (railSrc r .onTimeout) := by
    simp [Cyc.transition, hst, hpend]
  refine ⟨_, congrArg Host.Outcome.next (if_neg (by simp [hpend, ht])), ?_⟩
  rw [State.cyc, Cyc.hits_transition { s := s } r htr, htrans]
  exact (Cyc.settle_timeout { s := s } r).finish (Cyc.groupOff_settle _ _ _) false

/-! TOFF -/

/-- The rail enters DISCHARGING with its active discharge, and TOFF starts again (R40). -/
def State.toDischarging (s : State) (r : Rail) (told : Bool) : State :=
  (s.enter r .discharging).setCh r { (s.enter r .discharging).ch r with
    discharge := true, toff := (s.enter r .discharging).toffTimer r, offtRaised := told }

theorem State.toDischarging_cycleOf (s : State) (r : Rail) (told : Bool) : s.CycleOf [r] [] (s.toDischarging r told) :=
  (s.enter_cycleOf r .discharging).trans (State.setCh_cycleOf _ r _)

theorem State.rail_toDischarging (s : State) (r : Rail) (told : Bool) (h : (s.rail r).st.window = false) :
    (s.toDischarging r told).rail r = { s.rail r with
      st := .discharging, stable := none, pg := false
      discharge := true, toff := s.toffTimer r, offtRaised := told } := by
  have hsw : s.switches r .discharging = false := by
    rw [State.switches, h]
    rfl
  have hent := s.rail_enter r .discharging
  rw [hsw] at hent
  have hconf : s.SameConf (s.enter r .discharging) := .ofCycle (s.enter_cycleOf r .discharging) (by simp)
  rw [State.toDischarging, State.rail_setCh_self, hconf.toffTimer]
  exact congrArg (fun y : Chan => { y with discharge := true, toff := s.toffTimer r, offtRaised := told }) hent

theorem toffExpiry_falling (hu : s.use r = true) (hst : (s.ch r).st = .falling) (ht : (s.ch r).toff ≠ none)
    (hpend : (s.ch r).pend = false) (hout : (s.ch r).uv.out = false) (hlen : s.fld (aChToff r) 23 0 ≠ 0) :
    ∃ t, exec (.toffExpiry r []) s = .next t ∧ s.CycleOf [r] [aChFlags r] t
      ∧ (t.ch r).st = .discharging ∧ (t.ch r).discharge = true ∧ (t.ch r).toff = s.toffTimer r
      ∧ t.reg (aChFlags r) = s.reg (aChFlags r) ||| (if s.thresholdOrder r then 0x600 else 0x400) := by
  have htr := State.hasTransition_toffExpiry hu (by simp [hst]) ht
  have hw : (s.rail r).st.window = false := by
    rw [show (s.rail r).st = .falling from hst]
    rfl
  have hacts := ((State.Acts.start s r).act (f := fun u => u.toDischarging r (s.thresholdOrder r))
    (s.toDischarging_cycleOf r _) (s.rail_toDischarging r _ hw)).flag 10
  refine ⟨_, congrArg Host.Outcome.next (if_neg (by simp [hpend, ht])), ?_⟩
  rw [State.cyc, Cyc.hits_transition { s := s } r htr]
  cases hthr : s.thresholdOrder r
  · rw [hthr] at hacts
    have htrans : Cyc.transition { s := s } r .toffExpiry
        = (Cyc.map { s := s } (fun u => u.toDischarging r false)).flag r 10 := by
      simp only [Cyc.transition, hst, hthr]
      rfl
    obtain ⟨hcycle, hrail, hflags⟩ := (hacts.above (by simp) hout rfl hlen).finish
    rw [htrans]
    exact ⟨hcycle, (State.shows (·.st) hrail :), (State.shows (·.discharge) hrail :), (State.shows (·.toff) hrail :), hflags⟩
  · rw [hthr] at hacts
    have htrans : Cyc.transition { s := s } r .toffExpiry
        = (((Cyc.map { s := s } (fun u => u.toDischarging r true)).flag r 10).flag r 9).raise (railSrc r .offTimeout) := by
      simp only [Cyc.transition, hst, hthr]
      rfl
    obtain ⟨hcycle, hrail, hflags⟩ :=
      (((hacts.flag 9).raise (railSrc r .offTimeout)).above (by simp) hout rfl hlen).finish
    rw [htrans]
    exact ⟨hcycle, (State.shows (·.st) hrail :), (State.shows (·.discharge) hrail :), (State.shows (·.toff) hrail :), hflags⟩

theorem toffExpiry_discharging (hu : s.use r = true) (hst : (s.ch r).st = .discharging) (ht : (s.ch r).toff ≠ none)
    (hpend : (s.ch r).pend = false) :
    ∃ t, exec (.toffExpiry r []) s = .next t ∧ s.CycleOf [r] [aChFlags r] t
      ∧ (t.ch r).st = .off ∧ (t.ch r).discharge = false ∧ (t.ch r).toff = none
      ∧ t.reg (aChFlags r) = s.reg (aChFlags r) ||| (if (s.ch r).offtRaised then 0x800 else 0xA00) := by
  have htr := State.hasTransition_toffExpiry hu (by simp [hst]) ht
  have hacts := ((State.Acts.start s r).act (f := fun u => u.toOff r) (s.toOff_cycleOf r) (s.rail_toOff r)).flag 11
  refine ⟨_, congrArg Host.Outcome.next (if_neg (by simp [hpend, ht])), ?_⟩
  rw [State.cyc, Cyc.hits_transition { s := s } r htr]
  cases htold : (s.ch r).offtRaised
  · have htrans : Cyc.transition { s := s } r .toffExpiry
        = (((Cyc.map { s := s } (fun u => u.toOff r)).flag r 11).flag r 9).raise (railSrc r .offTimeout) := by
      simp only [Cyc.transition, hst, hpend, htold]
      rfl
    obtain ⟨hcycle, hrail, hflags⟩ := (((hacts.flag 9).raise (railSrc r .offTimeout)).rests (by simp)).finish
    rw [htrans]
    exact ⟨hcycle, (State.shows (·.st) hrail :), (State.shows (·.discharge) hrail :), (State.shows (·.toff) hrail :), hflags⟩
  · have htrans : Cyc.transition { s := s } r .toffExpiry = (Cyc.map { s := s } (fun u => u.toOff r)).flag r 11 := by
      simp only [Cyc.transition, hst, hpend, htold]
      rfl
    obtain ⟨hcycle, hrail, hflags⟩ := (hacts.rests (by simp)).finish
    rw [htrans]
    exact ⟨hcycle, (State.shows (·.st) hrail :), (State.shows (·.discharge) hrail :), (State.shows (·.toff) hrail :), hflags⟩

/-! Backoff, stability, soft start -/

theorem retryCountReset_resets (h : (s.ch r).stable ≠ none) :
    ∃ t, exec (.retryCountReset r) s = .next t ∧ t = { s with chans := t.chans }
      ∧ t.ch r = { s.ch r with retries := 0, stable := none } ∧ ∀ q, q ≠ r → t.ch q = s.ch q :=
  ⟨_, congrArg Host.Outcome.next (if_neg (by simpa using h)), rfl, s.ch_setCh_self r _, fun _ hq => s.ch_setCh_ne hq _⟩

theorem softStartEnd_good (hst : (s.ch r).st = .rising) (hramp : (s.ch r).ramp = true) (hub : (s.ch r).uv.blank = none)
    (hun : (s.ch r).uvNew = false) (hob : (s.ch r).ov.blank = none) (hov : (s.ch r).ov.out = false)
    (huv : (s.ch r).uv.out = false) (hpmbw : (s.ch r).pmbw = false) :
    ∃ t, exec (.softStartEnd r []) s = .next t ∧ s.CycleOf [r] [] t
      ∧ (t.ch r).st = .on ∧ (t.ch r).ramp = false ∧ (t.ch r).pg = true := by
  have hacts := (State.Acts.start s r).act (f := fun s => s.setCh r { s.ch r with ramp := false })
    (s.setCh_cycleOf r _) (s.rail_setCh_self r _)
  refine ⟨_, congrArg Host.Outcome.next (if_neg (by simp [hramp])), ?_⟩
  rw [State.cyc, Cyc.hits_none]
  have hpg : (Cyc.map { s := s } (fun s => s.setCh r { s.ch r with ramp := false })).s.pgNow r = true := by
    rw [State.pgNow_judged, hacts.rail]
    · simp [Chan.calm, hov, huv, hpmbw]
    · rw [hacts.rail]; exact congrArg RailState.window hst
    · rw [hacts.rail]; exact hob
    · rw [hacts.rail]; exact hub
    · rw [hacts.rail]; exact hun
  obtain ⟨hcycle, hrail⟩ := (hacts.settlesGood hst hpg).finishQuiet
  exact ⟨hcycle, (State.shows (·.st) hrail :), (State.shows (·.ramp) hrail :), (State.shows (·.pg) hrail :)⟩

/-! The end of a blanking -/

/-- The state in which the blanking of the over-voltage comparator has ended. -/
def State.ovEnd (s : State) (r : Rail) (active : Bool) : State :=
  s.setCh r { s.ch r with ov := { out := active, blank := none } }

theorem State.ovEnd_acts (s : State) (r : Rail) (active : Bool) :
    s.Acts r 0 { s.rail r with ov := { out := active, blank := none } } { s := s.ovEnd r active } :=
  (State.Acts.start s r).act (f := fun s => s.ovEnd r active) (s.setCh_cycleOf r _) (s.rail_setCh_self r _)

theorem blankingEnd_ov (hu : s.use r = true) {e : Nat} (hb : (s.ch r).ov.blank = some e)
    (hiso : s.isolated (bankOv r) = false) (active : Bool) :
    exec (.blankingEnd (.ov r) active []) s = .next (Cyc.finish (Cyc.settle 5 (Cyc.hitsWith { s := s.ovEnd r active }
      (if active then [{ rail := r, cause := .ovCross }] else []) []) r)) := by
  have hstart : ¬ (!s.use r || (s.ch r).ov.blank.isNone) = true := by simp [hu, hb]
  refine congrArg Host.Outcome.next ((if_neg hstart).trans (congrArg Cyc.finish ?_))
  dsimp only
  rw [hiso]
  cases active <;> rfl

theorem blankingEnd_ov_trips (hu : s.use r = true) (hst : (s.ch r).st = .on) {e : Nat} (hb : (s.ch r).ov.blank = some e)
    (hiso : s.isolated (bankOv r) = false) :
    ∃ t, exec (.blankingEnd (.ov r) true []) s = .next t ∧ s.Trips r 1 0x9 { out := true, blank := none } t := by
  have hacts := s.ovEnd_acts r true
  obtain ⟨ht, hg⟩ := Cyc.ovCross_trips { s := s.ovEnd r true } r hu
    (by rw [hacts.rail, show (s.rail r).st = .on from hst]; decide)
  have htrip := hacts.trips ht rfl
  rw [hacts.rail] at htrip
  exact ⟨_, blankingEnd_ov hu hb hiso true, htrip.settle.finish (by rw [Cyc.groupOff_settle]; exact hg) false⟩

theorem blankingEnd_ov_ends (hu : s.use r = true) (hst : (s.ch r).st = .on) {e : Nat} (hb : (s.ch r).ov.blank = some e)
    (hiso : s.isolated (bankOv r) = false) :
    ∃ t, exec (.blankingEnd (.ov r) false []) s = .next t ∧ s.CycleOf [r] [] t
      ∧ (t.ch r).st = .on ∧ (t.ch r).ov = { out := false, blank := none } := by
  obtain ⟨hcycle, hrail⟩ := ((s.ovEnd_acts r false).rests (by
    rw [show (s.rail r).st = .on from hst]; decide)).finishQuiet
  refine ⟨_, blankingEnd_ov hu hb hiso false, ?_⟩
  rw [if_neg (by simp), Cyc.hits_none]
  exact ⟨hcycle, (State.shows (·.st) hrail :).trans hst, (State.shows (·.ov) hrail :)⟩

/-- The state in which the blanking of the under-voltage comparator has ended. -/
def State.uvEnd (s : State) (r : Rail) (active : Bool) : State :=
  s.setCh r { s.ch r with uv := { out := active, blank := none }, uvNew := false }

theorem State.uvEnd_acts (s : State) (r : Rail) (active : Bool) :
    s.Acts r 0 { s.rail r with uv := { out := active, blank := none }, uvNew := false } { s := s.uvEnd r active } :=
  (State.Acts.start s r).act (f := fun s => s.uvEnd r active) (s.setCh_cycleOf r _) (s.rail_setCh_self r _)

theorem blankingEnd_uv (hu : s.use r = true) (hst : (s.ch r).st = .on) {e : Nat} (hb : (s.ch r).uv.blank = some e)
    (hiso : s.isolated (bankUv r) = false) (active : Bool) :
    exec (.blankingEnd (.uv r) active []) s = .next (Cyc.finish (Cyc.settle 5 (if active
      then (Cyc.flag { s := s.uvEnd r true } r 1).hitsWith [{ rail := r, cause := .uvCross }] []
      else Cyc.hitsWith { s := s.uvEnd r false } [] []) r)) := by
  have hstart : ¬ (!s.use r || (s.ch r).uv.blank.isNone) = true := by simp [hu, hb]
  refine congrArg Host.Outcome.next ((if_neg hstart).trans (congrArg Cyc.finish ?_))
  have hw : (s.ch r).st.window = true := congrArg RailState.window hst
  dsimp only
  rw [hiso, hw]
  cases active <;> rfl

theorem blankingEnd_uv_trips (hu : s.use r = true) (hst : (s.ch r).st = .on) {e : Nat} (hb : (s.ch r).uv.blank = some e)
    (hiso : s.isolated (bankUv r) = false) (hreact : s.reactOf r .uv ≠ 0) :
    ∃ t, exec (.blankingEnd (.uv r) true []) s = .next t ∧ s.Trips r 2 0x12 (s.rail r).ov t := by
  have hacts := (s.uvEnd_acts r true).flag 1
  have htr : (Cyc.flag { s := s.uvEnd r true } r 1).s.hasTransition r .uvCross = true := by
    rw [State.hasTransition_uvCross (by rw [hacts.rail]; exact hst), hacts.conf.use, hacts.conf.reactOf, hu]
    simpa using hreact
  have ht := hacts.trips (Cyc.settle_trips (Cyc.flag { s := s.uvEnd r true } r 1) r 2 1 4 (railSrc r .uv)) rfl
  rw [hacts.rail] at ht
  have hm : (0 : Word) ||| bitw 1 ||| (bitw 1 ||| bitw 4) = 0x12 := by decide
  rw [hm] at ht
  refine ⟨_, blankingEnd_uv hu hst hb hiso true, ?_⟩
  rw [if_pos rfl, Cyc.hits_transition _ r htr]
  exact ht.settle.finish (by rw [Cyc.groupOff_settle, Cyc.groupOff_settle]; rfl) false

theorem blankingEnd_uv_ends (hu : s.use r = true) (hst : (s.ch r).st = .on) {e : Nat} (hb : (s.ch r).uv.blank = some e)
    (hiso : s.isolated (bankUv r) = false) :
    ∃ t, exec (.blankingEnd (.uv r) false []) s = .next t ∧ s.CycleOf [r] [] t
      ∧ (t.ch r).st = .on ∧ (t.ch r).uv = { out := false, blank := none } := by
  obtain ⟨hcycle, hrail⟩ := ((s.uvEnd_acts r false).rests (by
    rw [show (s.rail r).st = .on from hst]; decide)).finishQuiet
  refine ⟨_, blankingEnd_uv hu hst hb hiso false, ?_⟩
  rw [if_neg (by simp), Cyc.hits_none]
  exact ⟨hcycle, (State.shows (·.st) hrail :).trans hst, (State.shows (·.uv) hrail :)⟩

theorem blankingEnd_oc_ends (hu : s.use r = true) (hst : (s.ch r).st = .on) (hx : isExt r = false)
    (hiso : s.isolated 2 = false) {e : Nat} (hb : (s.ch r).oc.blank = some e) :
    ∃ t, exec (.blankingEnd (.oc r) false []) s = .next t ∧ s.CycleOf [r] [] t ∧ (t.ch r).st = .on
      ∧ (t.ch r).oc = { out := false, blank := none } := by
  have hstart : ¬ (!s.use r || (s.ch r).oc.blank.isNone) = true := by simp [hu, hb]
  have hiso' : s.isolated (bankOc r) = false := by
    rw [bankOc, hx]
    exact hiso
  have hexec : exec (.blankingEnd (.oc r) false []) s
      = .next (Cyc.finish { s := s.setCh r { s.ch r with oc := { out := false, blank := none } } }) := by
    refine congrArg Host.Outcome.next ((if_neg hstart).trans (congrArg Cyc.finish ?_))
    dsimp only
    simp only [hiso', hx, Bool.false_eq_true, if_false, Bool.false_and]
    rw [Cyc.hits_none]
    unfold Cyc.map
    dsimp only
    split
    · rfl
    · rfl
  obtain ⟨hcycle, hrail⟩ := ((State.Acts.start s r).act
    (f := fun s => s.setCh r { s.ch r with oc := { out := false, blank := none } })
    (s.setCh_cycleOf r _) (s.rail_setCh_self r _)).finishQuiet
  exact ⟨_, hexec, hcycle, (State.shows (·.st) hrail :).trans hst, (State.shows (·.oc) hrail :)⟩

theorem blankingEnd_leading_ends (hu : s.use r = true) (hst : (s.ch r).st = .on)
    (hiso : s.isolated 2 = false) {e : Nat} (hb : (s.ch r).leading = some e) :
    ∃ t, exec (.blankingEnd (.leading r) false []) s = .next t ∧ s.CycleOf [r] [] t ∧ (t.ch r).st = .on
      ∧ (t.ch r).leading = none ∧ (t.ch r).oc = { (s.ch r).oc with out := false } := by
  have hstart : ¬ (!s.use r || (s.ch r).leading.isNone) = true := by simp [hu, hb]
  have hexec : exec (.blankingEnd (.leading r) false []) s
      = .next (Cyc.finish { s := s.setCh r { s.ch r with leading := none, oc := { (s.ch r).oc with out := false } } }) := by
    refine congrArg Host.Outcome.next ((if_neg hstart).trans (congrArg Cyc.finish ?_))
    dsimp only
    rw [hiso]
    rfl
  obtain ⟨hcycle, hrail⟩ := ((State.Acts.start s r).act
    (f := fun s => s.setCh r { s.ch r with leading := none, oc := { (s.ch r).oc with out := false } })
    (s.setCh_cycleOf r _) (s.rail_setCh_self r _)).finishQuiet
  exact ⟨_, hexec, hcycle, (State.shows (·.st) hrail :).trans hst, (State.shows (·.leading) hrail :),
    (State.shows (·.oc) hrail :)⟩

/-! Backoff -/

/-- No latch is held: the comparators are inactive. -/
theorem State.clearLatches_idle (s : State) (r : Rail) (m : Word) (hov : s.ovAct r = false) (hoc : s.ocAct r = false)
    (huv : ((s.ch r).st.window && s.uvAct r) = false) : s.clearLatches r m = s.clrReg (aChFlags r) m := by
  have hall : ∀ m : Word, m &&& ~~~(at_ false 3 ||| at_ false 4 ||| at_ false 5) = m := fun _ => BitVec.and_allOnes
  unfold State.clearLatches
  dsimp only
  rw [hov, hoc, huv, hall]

/-- The rail waits in DISCHARGING for its pre-bias to go (R41). -/
def State.toPrebias (s : State) (r : Rail) : State :=
  (s.enter r .discharging).setCh r { (s.enter r .discharging).ch r with
    pend := true, enCmd := true, discharge := true, toff := (s.enter r .discharging).toffTimer r
    backoff := none, offtRaised := false }

theorem State.toPrebias_cycleOf (s : State) (r : Rail) : s.CycleOf [r] [] (s.toPrebias r) :=
  (s.enter_cycleOf r .discharging).trans (State.setCh_cycleOf _ r _)

theorem State.rail_toPrebias (s : State) (r : Rail) (h : (s.rail r).st.window = false) :
    (s.toPrebias r).rail r = { s.rail r with
      st := .discharging, stable := none, pg := false, pend := true, enCmd := true, discharge := true
      toff := s.toffTimer r, backoff := none, offtRaised := false } := by
  have hsw : s.switches r .discharging = false := by
    rw [State.switches, h]
    rfl
  have hent := s.rail_enter r .discharging
  rw [hsw] at hent
  have hconf : s.SameConf (s.enter r .discharging) := .ofCycle (s.enter_cycleOf r .discharging) (by simp)
  rw [State.toPrebias, State.rail_setCh_self, hconf.toffTimer]
  exact congrArg (fun y : Chan => { y with
    pend := true, enCmd := true, discharge := true, toff := s.toffTimer r, backoff := none, offtRaised := false }) hent

theorem State.applyR41_prebias {s : State} {r : Rail} (huv : (s.ch r).uv.out = false) (hb : s.bit (aChCfg r) 4 = true) :
    s.applyR41 r = s.toPrebias r := by
  refine if_neg ?_
  simp [State.belowVoff, State.uvAct, huv, hb]

theorem backoffExpiry_discharges (hu : s.use r = true) (hst : (s.ch r).st = .retryWait) (hk : (s.ch r).backoff ≠ none)
    (hov : (s.ch r).ov.out = false) (huv : (s.ch r).uv.out = false) (hoc : s.ocAct r = false)
    (hcfg : s.bit (aChCfg r) 4 = true) (hlen : s.fld (aChToff r) 23 0 ≠ 0) :
    ∃ t, exec (.backoffExpiry r []) s = .next t ∧ s.CycleOf [r] [aChFlags r] t
      ∧ (t.ch r).st = .discharging ∧ (t.ch r).pend = true ∧ (t.ch r).enCmd = true
      ∧ (t.ch r).discharge = true ∧ t.reg (aChFlags r) = s.reg (aChFlags r) &&& ~~~0x28 := by
  have htr : s.hasTransition r .backoffExpiry = true := by simp [State.hasTransition, hu, hst]
  have hclr : s.clearLatches r (bitw 3 ||| bitw 5) = s.clrReg (aChFlags r) 0x28 :=
    s.clearLatches_idle r _ (by simp [State.ovAct, hov]) hoc (by simp [hst, RailState.window])
  have hpre : s.CycleOf [] [aChFlags r] (s.clrReg (aChFlags r) 0x28) := s.clrReg_cycleOf _ _
  have hreg : (s.clrReg (aChFlags r) 0x28).reg (aChFlags r) = s.reg (aChFlags r) &&& ~~~0x28 := by
    simp [State.clrReg]
  have hbits : ¬ ((s.clrReg (aChFlags r) 0x28).bit (aChFlags r) 3 || (s.clrReg (aChFlags r) 0x28).bit (aChFlags r) 5)
      = true := by
    rw [State.bit, State.bit, hreg]
    simp [tst]
  have hconf : s.SameConf (s.clrReg (aChFlags r) 0x28) := .ofCycle hpre (by simp [railReg_flags])
  have htrans : Cyc.transition { s := s } r .backoffExpiry
      = Cyc.map { s := s.clrReg (aChFlags r) 0x28 } (fun u => u.toPrebias r) := by
    show Cyc.backoffEnd { s := s } r = _
    unfold Cyc.backoffEnd
    dsimp only [Cyc.map]
    rw [hclr, if_neg hbits, State.applyR41_prebias (s := s.clrReg (aChFlags r) 0x28) (by exact huv) (by rw [hconf.bitCfg, hcfg])]
  have hw : ((s.clrReg (aChFlags r) 0x28).rail r).st.window = false := congrArg RailState.window hst
  have hacts := (State.Acts.start (s.clrReg (aChFlags r) 0x28) r).act (f := fun u => u.toPrebias r)
    (State.toPrebias_cycleOf _ r) (State.rail_toPrebias _ r hw)
  have hlen' : (s.clrReg (aChFlags r) 0x28).fld (aChToff r) 23 0 ≠ 0 := by
    rw [State.fld, aChToff, hconf.aCh r (by decide) (by decide) (by decide)]
    exact hlen
  obtain ⟨hcycle, hrail, hflags⟩ := (hacts.above (by simp) huv rfl hlen').finish
  refine ⟨_, congrArg Host.Outcome.next (if_neg (by simpa using hk)), ?_⟩
  rw [State.cyc, Cyc.hits_transition { s := s } r htr, htrans]
  refine ⟨(hpre.mono (by simp) (by simp)).trans hcycle, (State.shows (·.st) hrail :), (State.shows (·.pend) hrail :),
    (State.shows (·.enCmd) hrail :), (State.shows (·.discharge) hrail :), ?_⟩
  rw [hflags, hreg]
  exact BitVec.or_zero

end

/-- Settles O20, timer by timer and blanking by blanking: each is one cause with its transition, or only a level that
the rail's state is judged by. -/
theorem channelTimers : Obligations.ChannelTimers := by
  unfold Obligations.ChannelTimers
  refine ⟨fun s r hu => ⟨fun hst ht => ?_,
    fun hst ht hpend hout _ _ hlen => toffExpiry_falling hu hst ht hpend hout hlen,
    fun hst ht hpend => toffExpiry_discharging hu hst ht hpend, fun hst ht hpend => ?_,
    fun hst hk hov huv hoc _ _ hcfg hlen => backoffExpiry_discharges hu hst hk hov huv hoc hcfg hlen,
    fun h => retryCountReset_resets h,
    fun hst hramp hub hun hob hov huv hpmbw => softStartEnd_good hst hramp hub hun hob hov huv hpmbw⟩,
    fun s r e hu hst => ?_⟩
  · obtain ⟨t, he, h⟩ := tonExpiry_trips hu hst ht
    refine ⟨t, he, (h.unmargined ?_).1, h.st, h.trip, h.started, h.flags⟩
    rw [show (s.rail r).st = .rising from hst]
    decide
  · obtain ⟨t, he, h⟩ := prebiasTimeout_trips hu hst ht hpend
    refine ⟨t, he, (h.unmargined ?_).1, h.st, h.trip, h.pend, h.flags⟩
    rw [show (s.rail r).st = .discharging from hst]
    decide
  · have hm : (s.rail r).st ≠ .margined := by
      rw [show (s.rail r).st = .on from hst]
      decide
    refine ⟨fun hb hiso => ⟨?_, blankingEnd_ov_ends hu hst hb hiso⟩,
      fun hb hiso => ⟨fun hreact => ?_, blankingEnd_uv_ends hu hst hb hiso⟩,
      fun hx hiso => ⟨fun hb => blankingEnd_oc_ends hu hst hx hiso hb, fun hb => blankingEnd_leading_ends hu hst hiso hb⟩⟩
    · obtain ⟨t, he, h⟩ := blankingEnd_ov_trips hu hst hb hiso
      exact ⟨t, he, (h.unmargined hm).1, h.st, h.trip, (h.unmargined hm).2, h.flags⟩
    · obtain ⟨t, he, h⟩ := blankingEnd_uv_trips hu hst hb hiso hreact
      exact ⟨t, he, (h.unmargined hm).1, h.st, h.trip, h.flags⟩

end Sys2Proof.Machine
end

section
/-! Writes of CH_FLAGS and CH_MARGIN (R46, R72 to R74, R309 to R313), and the start of a margin. -/

namespace Sys2Proof.Machine
open Sys2Proof

/-! STEP -/

theorem sgn_unsgn {v : Int} (hlo : -2048 ≤ v) (hhi : v < 2048) : sgn 12 (unsgn 12 v) = v := by
  unfold sgn unsgn
  norm_num
  split <;> omega

theorem State.stepOk_range {s : State} {r : Rail} {b : Bool} {v : Int} (h : s.stepOk r b v = true) :
    -2048 ≤ v ∧ v < 2048 := by
  unfold State.stepOk at h
  split at h
  · simp only [Bool.and_eq_true, decide_eq_true_eq] at h
    omega
  · split at h <;> simp only [Bool.and_eq_true, decide_eq_true_eq] at h <;> omega

theorem State.step_setStep {s : State} {r : Rail} {v : Int} (hlo : -2048 ≤ v) (hhi : v < 2048) :
    (s.setStep r v).step r = v := by
  have h : (s.setStep r v).fld (aChMargin r) 11 0 = unsgn 12 v % 2 ^ 12 := by
    rw [State.setStep, State.fld_setFld_self _ _ _ (by decide) (by decide)]
  have hlt : unsgn 12 v < 2 ^ 12 := by
    unfold unsgn
    omega
  rw [State.step, h, Nat.mod_eq_of_lt hlt, sgn_unsgn hlo hhi]

theorem State.pmbPath_setStep (s : State) (r : Rail) (v : Int) : (s.setStep r v).pmbPath r = s.pmbPath r := by
  rw [State.pmbPath, State.pmbPath, State.bit, State.setStep, State.reg_setFld_self, tst, getLsbD_put_ne _ _ (by decide) (by decide)]
  rfl

theorem State.SameConf.stepOk {s t : State} (h : s.SameConf t) (r : Rail) (b : Bool) (v : Int) :
    t.stepOk r b v = s.stepOk r b v := by
  rw [State.stepOk, State.stepOk, State.cfgConflict, State.cfgConflict, h.bitCfg, h.gpioLost, h.pmbLost]

/-- A rail's PMBus path and STEP do not change with its channel. -/
theorem State.CycleOf.pmbPath {s t : State} {rails : List Rail} {regs : List Nat} (h : s.CycleOf rails regs t)
    {r : Rail} (hn : aChMargin r ∉ regs) : t.pmbPath r = s.pmbPath r := by
  rw [State.pmbPath, State.pmbPath, State.bit, State.bit, h.reg (ownReg_margin r) hn]

theorem State.CycleOf.step {s t : State} {rails : List Rail} {regs : List Nat} (h : s.CycleOf rails regs t)
    {r : Rail} (hn : aChMargin r ∉ regs) : t.step r = s.step r := by
  rw [State.step, State.step, State.fld, State.fld, h.reg (ownReg_margin r) hn]

/-! The start of a margin -/

/-- A slew on the trim or MGx path starts: the path stays until its first move. -/
theorem State.rail_startSlew {s : State} {r : Rail} (h : s.pmbPath r = false) : (s.startSlew r).rail r = { (s.blankAll r).rail r with
    slew := true, slewAt := ((s.startSlew r).rail r).slewAt } := by
  unfold State.startSlew
  dsimp only
  rw [if_neg (by rw [(s.blankAll_cycleOf r).pmbPath List.not_mem_nil, h]; simp), State.rail_setCh_self]
  rfl

section
variable (c : Cyc) (r : Rail) (v : Int)

/-- The cycle of a rail in ON whose STEP becomes `v`, up to the rail's own changes. -/
def Cyc.stepped : Cyc := { c with s := c.s.setStep r v }

theorem Cyc.transition_margin (hst : (c.s.ch r).st = .on) : c.transition r (.margin v) =
    ((c.stepped r v).map (fun s => s.enter r .margined)).map (fun s => s.startSlew r) := by
  have hon : ((c.s.setStep r v).ch r).st == .on := by
    rw [show ((c.s.setStep r v).ch r).st = .on from hst]
    rfl
  simp only [Cyc.transition, Cyc.map]
  rw [if_pos hon]
  rfl

/-- What a margin change of a rail in ON leaves. -/
theorem Cyc.margin_shows (hst : (c.s.rail r).st = .on) (hu : c.s.use r = true) (hp : c.s.pmbPath r = false)
    (hok : c.s.stepOk r false v = true) (hne : v ≠ c.s.step r) (hg : c.groupOff = []) :
    c.s.CycleOf [r] [aChMargin r] (c.hitsWith [{ rail := r, cause := .margin v }] []).s
      ∧ (c.hitsWith [{ rail := r, cause := .margin v }] []).groupOff = []
      ∧ ((c.hitsWith [{ rail := r, cause := .margin v }] []).s.rail r).st = .margined
      ∧ (c.hitsWith [{ rail := r, cause := .margin v }] []).s.step r = v
      ∧ ((c.hitsWith [{ rail := r, cause := .margin v }] []).s.rail r).slew = true
      ∧ ((c.hitsWith [{ rail := r, cause := .margin v }] []).s.rail r).path = (c.s.rail r).path := by
  have hst' : (c.s.ch r).st = .on := hst
  have htr : c.s.hasTransition r (.margin v) = true := by
    simp [State.hasTransition, hst', hu, hp, hok, hne]
  have hpre : c.s.CycleOf [r] [aChMargin r] (c.stepped r v).s :=
    (c.s.setStep_cycleOf r v).mono (by simp) (by simp)
  have hbase : State.Acts (c.stepped r v).s r 0 (c.s.rail r) (c.stepped r v) := by
    have h := State.Acts.start (c.stepped r v).s r
    exact ⟨h.cycle, rfl, h.flags, hg⟩
  have hacts := (hbase.act (f := fun s => s.enter r .margined) (State.enter_cycleOf _ r _) (State.rail_enter _ r _))
  have hpath : ((c.stepped r v).map (fun s => s.enter r .margined)).s.pmbPath r = false := by
    rw [hacts.quiet.pmbPath List.not_mem_nil]
    exact (c.s.pmbPath_setStep r v).trans hp
  have hslew := (hacts.act (f := fun s => s.startSlew r) (State.startSlew_cycleOf _ r) (State.rail_startSlew hpath))
  have hend := hslew.rests (by rw [State.rail_blankAll, hacts.rail]; simp)
  obtain ⟨hlo, hhi⟩ := State.stepOk_range hok
  rw [Cyc.hits_transition c r htr, c.transition_margin r v hst']
  refine ⟨hpre.trans (hend.quiet.mono (by simp) (by simp)), hend.groupOff, ?_, ?_, ?_, ?_⟩
  · rw [hend.rail]
    dsimp only
    rw [State.rail_blankAll, hacts.rail]
  · rw [hend.quiet.step List.not_mem_nil]
    exact State.step_setStep hlo hhi
  · rw [hend.rail]
  · rw [hend.rail]
    dsimp only
    rw [State.rail_blankAll, hacts.rail]
    rfl

end

/-! CH_FLAGS -/

section
variable {s : State} {r : Rail}

theorem State.chFlagsPut_on (v : Word) (hst : (s.ch r).st = .on) (hov : (s.ch r).ov.out = false)
    (huv : (s.ch r).uv.out = false) (hoc : s.ocAct r = false) :
    s.chFlagsPut r v = Cyc.finish { s := s.clrReg (aChFlags r) (v &&& chFlagsMask) } := by
  have hclr := s.clearLatches_idle r (v &&& chFlagsMask) (by simp [State.ovAct, hov]) hoc (by simp [State.uvAct, huv])
  have hst' : ((s.clrReg (aChFlags r) (v &&& chFlagsMask)).ch r).st = .on := hst
  unfold State.chFlagsPut State.cyc
  dsimp only [Cyc.map]
  rw [hclr]
  split
  · rename_i h _
    rw [hst'] at h
    exact absurd h (by decide)
  · rfl

theorem chFlagsWrite_on (hs : s.serves = true) (who : Who) (v hw : Word) (hst : (s.ch r).st = .on)
    (hov : (s.ch r).ov.out = false) (huv : (s.ch r).uv.out = false) (hoc : s.ocAct r = false) :
    ∃ t, exec (.chFlagsWrite who r v hw) s = .next t ∧ s.CycleOf [] [aChFlags r] t
      ∧ t.reg (aChFlags r) = s.reg (aChFlags r) &&& ~~~(v &&& ~~~hw &&& 0x1BF3F) := by
  refine ⟨_, congrArg Host.Outcome.next ((State.fab_serves hs _).trans (State.chFlagsPut_on _ hst hov huv hoc)), ?_, ?_⟩
  · exact Cyc.finish_acts (s.clrReg_cycleOf _ _) rfl
  · rw [Cyc.reg_finish rfl (ownReg_flags r), State.reg_clrReg_self]
    rfl

theorem chFlagsWrite_tripped (hs : s.serves = true) (who : Who) (v hw : Word) (hst : (s.ch r).st = .tripped)
    (htrip : (s.ch r).trip = 1) (hov : (s.ch r).ov.out = false) (huv : (s.ch r).uv.out = false) (hoc : s.ocAct r = false)
    (hv : v.getLsbD 3 = true) (hhw : hw.getLsbD 3 = false) (hlen : s.fld (aChToff r) 23 0 ≠ 0) :
    ∃ t, exec (.chFlagsWrite who r v hw) s = .next t ∧ s.CycleOf [r] [aChFlags r] t
      ∧ (t.ch r).st = .falling ∧ (t.ch r).toff = s.toffTimer r
      ∧ t.reg (aChFlags r) = s.reg (aChFlags r) &&& ~~~(v &&& ~~~hw &&& 0x1BF3F) := by
  have hclr := s.clearLatches_idle r (v &&& ~~~hw &&& chFlagsMask) (by simp [State.ovAct, hov]) hoc
    (by simp [State.uvAct, huv])
  have hpre : s.CycleOf [r] [aChFlags r] (s.clrReg (aChFlags r) (v &&& ~~~hw &&& chFlagsMask)) :=
    (s.clrReg_cycleOf _ _).mono (by simp) (by simp)
  have hreg : (s.clrReg (aChFlags r) (v &&& ~~~hw &&& chFlagsMask)).reg (aChFlags r)
      = s.reg (aChFlags r) &&& ~~~(v &&& ~~~hw &&& 0x1BF3F) := s.reg_clrReg_self _ _
  have hconf : s.SameConf (s.clrReg (aChFlags r) (v &&& ~~~hw &&& chFlagsMask)) :=
    .ofCycle hpre (by simp [railReg_flags])
  have hput : s.chFlagsPut r (v &&& ~~~hw) = Cyc.finish (Cyc.settle 5
      (Cyc.map { s := s.clrReg (aChFlags r) (v &&& ~~~hw &&& chFlagsMask) } (fun u => u.dropping r)) r) := by
    have hst' : ((s.clrReg (aChFlags r) (v &&& ~~~hw &&& chFlagsMask)).ch r).st = .tripped := hst
    have htrip' : tripFlag ((s.clrReg (aChFlags r) (v &&& ~~~hw &&& chFlagsMask)).ch r).trip = some 3 := by
      rw [show ((s.clrReg (aChFlags r) (v &&& ~~~hw &&& chFlagsMask)).ch r).trip = 1 from htrip]
      rfl
    have hcleared : (tst (v &&& ~~~hw) 3
        && !(s.clrReg (aChFlags r) (v &&& ~~~hw &&& chFlagsMask)).bit (aChFlags r) 3) = true := by
      rw [State.bit, hreg]
      have hhw' : hw[3] = false := by simpa using hhw
      simp [tst, hv, hhw']
    have hfall : (s.clrReg (aChFlags r) (v &&& ~~~hw &&& chFlagsMask)).toFalling r
        = (s.clrReg (aChFlags r) (v &&& ~~~hw &&& chFlagsMask)).dropping r :=
      State.toFalling_unmargined _ r (by
        rw [show ((s.clrReg (aChFlags r) (v &&& ~~~hw &&& chFlagsMask)).rail r).st = .tripped from hst]
        decide)
    unfold State.chFlagsPut State.cyc
    dsimp only [Cyc.map]
    rw [hclr, hst', htrip', ← hfall]
    exact congrArg Cyc.finish (if_pos hcleared)
  have hacts := (State.Acts.start (s.clrReg (aChFlags r) (v &&& ~~~hw &&& chFlagsMask)) r).act
    (f := fun u => u.dropping r) (State.dropping_cycleOf _ r) (State.rail_dropping _ r)
  have hlen' : (s.clrReg (aChFlags r) (v &&& ~~~hw &&& chFlagsMask)).fld (aChToff r) 23 0 ≠ 0 := by
    rw [State.fld, aChToff, hconf.aCh r (by decide) (by decide) (by decide)]
    exact hlen
  obtain ⟨hcycle, hrail⟩ := (hacts.above (by simp) huv rfl hlen').finishQuiet
  refine ⟨_, congrArg Host.Outcome.next ((State.fab_serves hs _).trans hput), ?_, (State.shows (·.st) hrail :), ?_, ?_⟩
  · exact hpre.trans (hcycle.mono (by simp) (by simp))
  · exact (State.shows (·.toff) hrail :).trans (hconf.toffTimer r)
  · rw [hcycle.reg (ownReg_flags r) List.not_mem_nil, hreg]

/-! CH_MARGIN -/

/-- The bits that CH_MARGIN has. -/
def marginMask (r : Rail) : Word := if isExt r then 0xF8000FFF#32 else 0xB8000FFF#32

theorem marginMask_step (r : Rail) (v : Word) : wfld (v &&& marginMask r) 11 0 = wfld v 11 0 := by
  refine Nat.eq_of_testBit_eq fun i => ?_
  rw [testBit_wfld, testBit_wfld]
  have hmask : ∀ i < 12, (marginMask r).getLsbD i = true := by
    unfold marginMask
    cases isExt r <;> decide
  by_cases hi : i < 12
  · rw [Nat.zero_add, BitVec.getLsbD_and, hmask i hi, Bool.and_true]
  · simp [hi]

theorem marginMask_path (r : Rail) (v : Word) : (isExt r && tst (v &&& marginMask r) 30) = (isExt r && v.getLsbD 30) := by
  unfold marginMask tst
  cases isExt r <;> simp

theorem State.chMargin_refused {s : State} {who : Who} {r : Rail} {v : Word}
    (hne : sgn 12 (wfld v 11 0) ≠ s.step r)
    (hno : s.stepRight who r = false ∨ s.stepOk r (isExt r && v.getLsbD 30) (sgn 12 (wfld v 11 0)) = false) :
    (s.chMargin who r v).1 = s.flag r 13 := by
  have hstep := marginMask_step r v
  have hpath := marginMask_path r v
  unfold marginMask at hstep hpath
  have hkey : ∀ (a b c : Bool) (x y : State × Bool), (b || c) = true →
      (if a then x else if b then x else if c then x else y) = x := by
    intro a b c x y h
    cases a <;> cases b <;> simp_all
  unfold State.chMargin
  dsimp only
  rw [hstep, hpath]
  refine congrArg Prod.fst (hkey _ _ _ _ _ ?_)
  rcases hno with hno | hno
  · rw [hno]
    simp [hne]
  · rw [hno]
    simp [hne]

theorem chMarginWrite_refused (hs : s.serves = true) (who : Who) (v : Word)
    (hne : sgn 12 (wfld v 11 0) ≠ s.step r)
    (hno : s.stepRight who r = false ∨ s.stepOk r (isExt r && v.getLsbD 30) (sgn 12 (wfld v 11 0)) = false) :
    ∃ t, exec (.chMarginWrite who r v) s = .next t ∧ s.RegsBecome [aChFlags r] t
      ∧ t.reg (aChFlags r) = s.reg (aChFlags r) ||| 0x2000 :=
  ⟨_, congrArg Host.Outcome.next ((State.fab_serves hs _).trans (State.chMargin_refused hne hno)),
    s.orReg_regsBecome _ _, s.reg_orReg_self _ _⟩

/-- The word that a write leaves in CH_MARGIN before STEP changes. -/
def State.marginWord (s : State) (r : Rail) (v : Word) : Word :=
  put (v &&& marginMask r) 11 0 (wfld (s.reg (aChMargin r)) 11 0)

/-- CH_MARGIN with the written bits, STEP as it was. -/
def State.marginPut (s : State) (r : Rail) (v : Word) : State := s.setReg (aChMargin r) (s.marginWord r v)

theorem State.marginPut_cycleOf (s : State) (r : Rail) (v : Word) : s.CycleOf [] [aChMargin r] (s.marginPut r v) :=
  ⟨rfl, fun _ _ => rfl, fun _ _ hn => (s.setReg_regsBecome _ _).2 _ hn⟩

theorem State.step_marginPut (s : State) (r : Rail) (v : Word) : (s.marginPut r v).step r = s.step r := by
  rw [State.step, State.step, State.fld, State.fld, State.marginPut, State.reg_setReg_self, State.marginWord,
    wfld_put_self _ _ (by decide) (by decide)]
  rw [Nat.mod_eq_of_lt]
  exact Nat.mod_lt _ (by decide)

theorem chMarginWrite_margins (hs : s.serves = true) (who : Who) (v : Word) (hu : s.use r = true) (hst : (s.ch r).st = .on)
    (hv30 : v.getLsbD 30 = false) (hm30 : s.bit (aChMargin r) 30 = false)
    (hv31 : v.getLsbD 31 = s.bit (aChMargin r) 31) (hne : sgn 12 (wfld v 11 0) ≠ s.step r)
    (hok : s.stepOk r false (sgn 12 (wfld v 11 0)) = true) (hright : s.stepRight who r = true) :
    ∃ t, exec (.chMarginWrite who r v) s = .next t ∧ s.CycleOf [r] [aChMargin r] t ∧ (t.ch r).st = .margined
      ∧ t.step r = sgn 12 (wfld v 11 0) ∧ (t.ch r).slew = true ∧ (t.ch r).path = (s.ch r).path := by
  have hstep := marginMask_step r v
  have hpre := s.marginPut_cycleOf r v
  have hconf : s.SameConf (s.marginPut r v) := .ofCycle hpre (by simp [railReg_margin])
  have h30 : tst (v &&& marginMask r) 30 = false := by
    rw [tst, BitVec.getLsbD_and, hv30, Bool.false_and]
  have h31 : tst (v &&& marginMask r) 31 = v.getLsbD 31 := by
    unfold marginMask tst
    cases isExt r <;> simp
  have hput30 : (s.marginPut r v).bit (aChMargin r) 30 = false := by
    rw [State.bit, State.marginPut, State.reg_setReg_self, State.marginWord, tst, getLsbD_put_ne _ _ (by decide) (by decide)]
    exact h30
  have hp' : (s.marginPut r v).pmbPath r = false := by
    rw [State.pmbPath, hput30, Bool.and_false]
  have hchain : (s.chMargin who r v).1 = Cyc.finish (Cyc.hitsWith { s := s.marginPut r v }
      [{ rail := r, cause := .margin (sgn 12 (wfld v 11 0)) }] []) := by
    have hA : ¬ (tst (v &&& marginMask r) 30 != tst (s.reg (aChMargin r)) 30 && (s.step r != 0 || (s.ch r).slew)) = true := by
      rw [h30, show tst (s.reg (aChMargin r)) 30 = false from hm30]
      simp
    have hB : ¬ (sgn 12 (wfld (v &&& marginMask r) 11 0) != s.step r
        && !s.stepOk r (isExt r && tst (v &&& marginMask r) 30) (sgn 12 (wfld (v &&& marginMask r) 11 0))) = true := by
      rw [hstep, h30, Bool.and_false, hok]
      simp
    have hC : ¬ (sgn 12 (wfld (v &&& marginMask r) 11 0) != s.step r && !s.stepRight who r) = true := by
      rw [hright]
      simp
    have hD : ¬ (tst (v &&& marginMask r) 31 != tst (s.reg (aChMargin r)) 31) = true := by
      rw [h31, hv31, State.bit]
      simp
    have hE : ¬ sgn 12 (wfld (v &&& marginMask r) 11 0) = (s.marginPut r v).step r := by
      rw [hstep, State.step_marginPut]
      exact hne
    have hF : ¬ (!((s.ch r).st == .on || (s.ch r).st == .margined) || !(s.marginPut r v).use r) = true := by
      rw [hst, hconf.use, hu]
      decide
    refine (congrArg Prod.fst ((if_neg hA).trans ((if_neg hB).trans (if_neg hC)))).trans (congrArg Cyc.finish ?_)
    have hmask : (if isExt r then 0xF8000FFF#32 else 0xB8000FFF#32) = marginMask r := rfl
    dsimp only
    rw [hmask, if_neg hD]
    refine (if_neg hE).trans ((if_neg hF).trans ?_)
    rw [Cyc.hitsWith_nil, ← hstep]
    rfl
  obtain ⟨hcycle, hg, hmarg, hstepv, hslew, hpath⟩ := Cyc.margin_shows { s := s.marginPut r v } r
    (sgn 12 (wfld v 11 0)) hst (by rw [hconf.use, hu]) hp' (by rw [hconf.stepOk, hok]) (by rw [State.step_marginPut]; exact hne)
    rfl
  have hown := ownReg_margin r
  refine ⟨_, congrArg Host.Outcome.next ((State.fab_serves hs _).trans hchain), ?_, ?_, ?_, ?_, ?_⟩
  · exact (hpre.mono (by simp) (by simp)).trans (Cyc.finish_acts hcycle hg)
  · exact (State.shows (·.st) (Cyc.rail_finish hg r) :).trans hmarg
  · rw [State.step, State.fld, Cyc.reg_finish hg hown]
    exact hstepv
  · exact (State.shows (·.slew) (Cyc.rail_finish hg r) :).trans hslew
  · exact (State.shows (·.path) (Cyc.rail_finish hg r) :).trans hpath

end

/-- Settles O22: a write of CH_FLAGS clears what no comparator holds and may end a trip; a write of CH_MARGIN is the
cause of a margin, or is refused. -/
theorem channelWrites : Obligations.ChannelWrites := by
  unfold Obligations.ChannelWrites
  intro s who r v hw hs
  exact ⟨fun hst hov huv hoc => chFlagsWrite_on hs who v hw hst hov huv hoc,
    fun hst htrip hov huv hoc _ _ hv hhw hlen => chFlagsWrite_tripped hs who v hw hst htrip hov huv hoc hv hhw hlen,
    fun hu hst _ hv30 hm30 hv31 hne hok hright =>
      chMarginWrite_margins hs who v hu hst hv30 hm30 hv31 hne hok hright,
    fun hne hno => chMarginWrite_refused hs who v hne hno⟩

end Sys2Proof.Machine
end

section
/-! SUPPORT. Cycles that act on several rails: what a move of one rail leaves alone, rails that fall at a disable and
rails that rise at an enable (R29, R38 to R41, R46). -/

namespace Sys2Proof.Machine
open Sys2Proof

/-! Into RISING -/

section
variable (s : State) (r : Rail)

/-- The rail that rises, before its stage starts. -/
def State.entersRising : State := (s.setStep r 0).enter r .rising

/-- The channel that rises, before its stage starts. -/
def State.risingChan : Chan := { s.entersRising r |>.ch r with
  enCmd := true, pend := false, discharge := false, offtRaised := false, trip := 0, pg := false
  toff := none, backoff := none, path := 0, slew := (s.entersRising r).pmbPath r && ((s.entersRising r).ch r).slew
  slewAt := if (s.entersRising r).pmbPath r then ((s.entersRising r).ch r).slewAt else none, steps := [] }

/-- The rail that rises, before its stage starts. -/
def State.rising : State := (s.entersRising r).setCh r (s.risingChan r)

theorem State.toRising_eq : s.toRising r = if (s.rising r).bound r then
    ((s.rising r).setCh r { (s.rising r).ch r with pmbw := true }).startPreamble r else (s.rising r).startStage r := rfl

theorem State.entersRising_cycleOf : s.CycleOf [r] [aChMargin r] (s.entersRising r) :=
  ((s.setStep_cycleOf r 0).mono (by simp) (by simp)).trans ((State.enter_cycleOf _ r .rising).mono (by simp) (by simp))

theorem State.rising_cycleOf : s.CycleOf [r] [aChMargin r] (s.rising r) :=
  (s.entersRising_cycleOf r).trans ((State.setCh_cycleOf _ r _).mono (by simp) (by simp))

theorem State.toRising_cycleOf : s.CycleOf [r] [aChMargin r] (s.toRising r) := by
  rw [State.toRising_eq]
  split
  · exact ((s.rising_cycleOf r).trans ((State.setCh_cycleOf _ r _).mono (by simp) (by simp))).trans
      ((State.CycleOf.ofPorts _ (State.startPreamble_frame _ r)).mono (by simp) (by simp))
  · exact (s.rising_cycleOf r).trans ((State.startStage_cycleOf _ r).mono (by simp) (by simp))

end

/-! Registers of other blocks -/

/-- `t` has the registers of `s` but those that the rail machine and the collector write, and no bit of FLT_STAT below
STATE is cleared. -/
structure State.OtherRegs (s t : State) : Prop where
  regs : ∀ a, ¬ railReg a → ¬ reportReg a → t.reg a = s.reg a
  flt : ∀ i, i < 30 → s.bit aFltStat i = true → t.bit aFltStat i = true

namespace State.OtherRegs

variable {s t u : State}

theorem refl (s : State) : s.OtherRegs s := ⟨fun _ _ _ => rfl, fun _ _ h => h⟩

theorem trans (h : s.OtherRegs t) (k : t.OtherRegs u) : s.OtherRegs u :=
  ⟨fun a ha hn => (k.regs a ha hn).trans (h.regs a ha hn), fun i hi hb => k.flt i hi (h.flt i hi hb)⟩

theorem same (h : t.regs = s.regs := by rfl) : s.OtherRegs t :=
  ⟨fun a _ _ => State.reg_congr h a, fun i _ hb => (State.bit_congr (State.reg_congr h _) i).trans hb⟩

theorem write {a : Nat} (ha : railReg a) (h : s.RegsBecome [a] t) : s.OtherRegs t := by
  refine ⟨fun b hb _ => h.2 b (fun hm => hb (List.mem_singleton.1 hm ▸ ha)), fun i _ hb => (State.bit_congr (h.2 _ ?_) i).trans hb⟩
  exact fun hm => not_railReg_of_le (by decide) (List.mem_singleton.1 hm ▸ ha)

theorem report (h : Reports s t) : s.OtherRegs t := ⟨fun a _ hn => h.regs a hn, h.flt⟩

end State.OtherRegs

section
variable (s : State) (r : Rail)

theorem State.setStep_others (v : Int) : s.OtherRegs (s.setStep r v) :=
  .write (railReg_margin r) (s.setFld_regsBecome _ _ _ _)

theorem State.blankAll_others : s.OtherRegs (s.blankAll r) := by
  have hov : ∀ u : State, u.OtherRegs (u.blankOv r) := fun u => by
    unfold State.blankOv
    split <;> exact .same
  have huv : ∀ u : State, u.OtherRegs (u.blankUv r) := fun u => by
    unfold State.blankUv
    split <;> exact .same
  have hoc : ∀ u : State, u.OtherRegs (u.blankOc r) := fun u => by
    unfold State.blankOc
    split <;> exact .same
  exact ((hov s).trans (huv _)).trans (hoc _)

theorem State.enter_others (st : RailState) : s.OtherRegs (s.enter r st) := by
  have hleft : s.OtherRegs (s.left r st) := by
    unfold State.left
    split
    · exact .report s.lhAbort_reports
    · exact .refl s
  have hswitch : ∀ u : State, u.OtherRegs (u.switchUv r) := fun u => by
    unfold State.switchUv
    split <;> exact .same
  have hentered : s.OtherRegs ((s.left r st).setCh r (s.entering r (s.left r st) st)) := hleft.trans .same
  rw [State.enter_eq]
  split
  · exact hentered.trans (hswitch _)
  · exact hentered

theorem State.stop_others : s.OtherRegs (s.stop r) := by
  unfold State.stop
  dsimp only
  split <;> exact .same

theorem State.startStage_others : s.OtherRegs (s.startStage r) := by
  unfold State.startStage
  dsimp only
  have hblank : ∀ x : Chan, s.OtherRegs ((s.setCh r x).blankAll r) := fun x =>
    State.OtherRegs.trans (t := s.setCh r x) .same (State.blankAll_others _ r)
  split
  · exact hblank _
  · exact (hblank _).trans .same

theorem State.startPreamble_others : s.OtherRegs (s.startPreamble r) := .same (by rw [State.startPreamble_frame])

theorem State.marginDrop_others : s.OtherRegs (s.marginDrop r) := by
  have hstep := s.setStep_others r 0
  unfold State.marginDrop
  dsimp only
  split
  · refine hstep.trans ((State.blankAll_others _ r).trans (.same ?_))
    rw [State.marginTx_frame]
    rfl
  · exact hstep.trans .same

theorem State.toTripped_others (k : BitVec 3) : s.OtherRegs (s.toTripped r k) := by
  have htrip : s.OtherRegs (s.tripping r k) := ((s.stop_others r).trans (State.enter_others _ r _)).trans .same
  rw [State.toTripped_eq]
  split
  · exact htrip.trans (State.marginDrop_others _ r)
  · exact htrip

theorem State.toFalling_others : s.OtherRegs (s.toFalling r) := by
  have hdrop : s.OtherRegs (s.dropping r) := ((s.stop_others r).trans (State.enter_others _ r _)).trans .same
  rw [State.toFalling_eq]
  split
  · exact hdrop.trans (State.marginDrop_others _ r)
  · exact hdrop

theorem State.toOff_others : s.OtherRegs (s.toOff r) := (s.enter_others r .off).trans .same

theorem State.toDischarging_others (b : Bool) : s.OtherRegs (s.toDischarging r b) := (s.enter_others r .discharging).trans .same

theorem State.turnOn_others : s.OtherRegs (s.turnOn r) := (s.enter_others r .on).trans .same

theorem State.toRising_others : s.OtherRegs (s.toRising r) := by
  have hrise : s.OtherRegs (s.rising r) := ((s.setStep_others r 0).trans (State.enter_others _ r _)).trans .same
  rw [State.toRising_eq]
  split
  · exact (hrise.trans .same).trans (State.startPreamble_others _ r)
  · exact hrise.trans (State.startStage_others _ r)

end

/-! What a move of one rail leaves alone -/

/-- Since `c` rail `r` alone has acted, and no reaction has escalated. -/
structure Cyc.Moves (r : Rail) (c d : Cyc) : Prop where
  cycle : c.s.CycleOf [r] [aChFlags r, aChMargin r] d.s
  others : c.s.OtherRegs d.s
  groupOff : d.groupOff = c.groupOff
  refused : d.refused = c.refused

namespace Cyc.Moves

variable {r : Rail} {c d e : Cyc}

theorem rfl' (r : Rail) (c : Cyc) : Cyc.Moves r c c := ⟨.refl _ _ _, .refl _, rfl, rfl⟩

theorem trans (h : Cyc.Moves r c d) (k : Cyc.Moves r d e) : Cyc.Moves r c e :=
  ⟨h.cycle.trans k.cycle, h.others.trans k.others, k.groupOff.trans h.groupOff, k.refused.trans h.refused⟩

theorem map (h : Cyc.Moves r c d) {f : State → State} {regs : List Nat} (hf : d.s.CycleOf [r] regs (f d.s))
    (ho : d.s.OtherRegs (f d.s)) (hr : regs ⊆ [aChMargin r] := by simp) : Cyc.Moves r c (d.map f) :=
  ⟨h.cycle.trans (hf.mono (List.Subset.refl _) (fun _ ha => List.mem_cons_of_mem _ (hr ha))), h.others.trans ho, h.groupOff, h.refused⟩

theorem flag (h : Cyc.Moves r c d) (i : Nat) : Cyc.Moves r c (d.flag r i) :=
  ⟨h.cycle.trans ((d.s.flag_cycleOf r i).mono (by simp) (by simp)),
    h.others.trans (.write (railReg_flags r) (d.s.orReg_regsBecome _ _)), h.groupOff, h.refused⟩

theorem raise (h : Cyc.Moves r c d) (n : Nat) : Cyc.Moves r c (d.raise n) := ⟨h.cycle, h.others, h.groupOff, h.refused⟩

theorem powerGood (h : Cyc.Moves r c d) : Cyc.Moves r c (d.transition r .powerGood) := 
  h.map (f := fun s => s.turnOn r) (d.s.turnOn_cycleOf r) (d.s.turnOn_others r)

theorem tonExpiry (h : Cyc.Moves r c d) : Cyc.Moves r c (d.transition r .tonExpiry) :=
  ((h.map (f := fun s => s.toTripped r 4) (d.s.toTripped_cycleOf r 4) (d.s.toTripped_others r 4)).flag 8).raise _

theorem belowVoff (h : Cyc.Moves r c d) : Cyc.Moves r c (d.transition r .belowVoff) := by
  simp only [Cyc.transition]
  split
  · exact h.map (f := fun s => s.toRising r) (d.s.toRising_cycleOf r) (d.s.toRising_others r)
  · exact h.map (f := fun s => s.toOff r) (d.s.toOff_cycleOf r) (d.s.toOff_others r)

theorem toffExpiry (h : Cyc.Moves r c d) : Cyc.Moves r c (d.transition r .toffExpiry) := by
  simp only [Cyc.transition]
  split
  · split
    · exact (((h.map (f := fun s => s.toDischarging r _) (d.s.toDischarging_cycleOf r _) (d.s.toDischarging_others r _)).flag 10).flag 9).raise _
    · exact (h.map (f := fun s => s.toDischarging r _) (d.s.toDischarging_cycleOf r _) (d.s.toDischarging_others r _)).flag 10
  · exact ((h.map (f := fun s => s.toTripped r 4) (d.s.toTripped_cycleOf r 4) (d.s.toTripped_others r 4)).flag 8).raise _
  · split
    · exact (h.map (f := fun s => s.toOff r) (d.s.toOff_cycleOf r) (d.s.toOff_others r)).flag 11
    · exact (((h.map (f := fun s => s.toOff r) (d.s.toOff_cycleOf r) (d.s.toOff_others r)).flag 11).flag 9).raise _

/-- A rail settles by itself. -/
theorem settle (n : Nat) (h : Cyc.Moves r c d) : Cyc.Moves r c (Cyc.settle n d r) := by
  induction n generalizing d with
  | zero => exact h
  | succ n ih =>
    have hj : Cyc.Moves r c (d.map (fun s => s.judgePg r)) := h.map (d.s.judgePg_cycleOf r) .same
    simp only [Cyc.settle]
    generalize d.map (fun s => s.judgePg r) = e at hj
    split
    · split
      · exact hj.powerGood
      · split
        · exact ih hj.tonExpiry
        · exact hj
    case h_4 => exact hj
    all_goals
      split
      · exact hj
      · split
        · exact ih hj.belowVoff
        · split
          · exact ih hj.toffExpiry
          · exact hj

theorem disable (h : Cyc.Moves r c d) : Cyc.Moves r c (d.transition r .disable) := by
  simp only [Cyc.transition]
  split
  · exact h.map (f := fun s => s.setCh r _) (d.s.setCh_cycleOf r _) .same
  · exact h.map (f := fun s => s.toFalling r) (d.s.toFalling_cycleOf r) (d.s.toFalling_others r)

theorem disableIdle (h : Cyc.Moves r c d) (won : Bool) : Cyc.Moves r c (d.sideEffect r .disable won) := by
  unfold Cyc.sideEffect
  split
  · exact h
  · exact h.map (f := fun s => s.setCh r _) (d.s.setCh_cycleOf r _) .same

end Cyc.Moves

/-! One cause, on every rail of a list -/

/-- One cause alone, on one rail. -/
theorem Cyc.causes_one (c : Cyc) (r : Rail) (k : Cause) : c.causes r [k] =
    Cyc.settle 5 (if c.s.hasTransition r k then c.transition r k else c.sideEffect r k false) r := by
  cases h : c.s.hasTransition r k
  · simp only [Cyc.causes, List.foldr_cons, List.foldr_nil, insCause, splitCauses, h]
    rfl
  · simp only [Cyc.causes, List.foldr_cons, List.foldr_nil, insCause, splitCauses, h]
    rfl

/-- A disable moves its rail at most. -/
theorem Cyc.causes_disable (c : Cyc) (r : Rail) : Cyc.Moves r c (c.causes r [.disable]) := by
  rw [Cyc.causes_one]
  split
  · exact (Cyc.Moves.rfl' r c).disable.settle 5
  · exact ((Cyc.Moves.rfl' r c).disableIdle false).settle 5

/-- A cause on each of several rails. -/
theorem Cyc.hits_each (c : Cyc) (k : Cause) {l : List Rail} (hl : l.Nodup) :
    c.hits (l.map (fun r => { rail := r, cause := k }))
      = c.forAll (allRails.filter (fun r => l.contains r)) (fun c r => c.causes r [k]) := by
  have hrails : allRails.filter (fun r => (l.map (fun q => ({ rail := q, cause := k } : Hit))).any (fun h => h.rail == r))
      = allRails.filter (fun r => l.contains r) := by
    refine List.filter_congr fun r _ => ?_
    rw [Bool.eq_iff_iff]
    simp
  have hmine : ∀ r ∈ l, ((l.map (fun q => ({ rail := q, cause := k } : Hit))).filter (fun h => h.rail == r)).map (·.cause)
      = [k] := by
    intro r hr
    have hone : l.filter (fun q => q == r) = [r] := by
      rw [List.filter_beq, List.count_eq_one_of_mem hl hr]
      rfl
    rw [List.filter_map, List.map_map]
    show List.map _ (l.filter (fun q => q == r)) = [k]
    rw [hone]
    rfl
  rw [Cyc.hits, hrails]
  refine List.foldl_ext _ _ _ fun d r hr => ?_
  rw [hmine r (by simpa using (List.mem_filter.1 hr).2)]

/-- Each rail of a list acts by itself: what holds of one that acts holds of all, and no other acts. -/
theorem Cyc.forAll_rails {g : Cyc → Rail → Cyc} {I : Cyc → Prop} {P : State → Rail → Prop} {F : State → Rail → Chan → Prop}
    {R : Rail → List Nat} (hR : ∀ r, ∀ a ∈ R r, railReg a)
    (hg : ∀ c r, I c → P c.s r → c.s.CycleOf [r] (R r) (g c r).s ∧ I (g c r) ∧ F c.s r ((g c r).s.rail r))
    (hP : ∀ (s t : State) r, s.SameConf t → t.rail r = s.rail r → P s r → P t r)
    (hF : ∀ (s t : State) r x, s.SameConf t → t.rail r = s.rail r → F t r x → F s r x) {l : List Rail} (hl : l.Nodup)
    {c : Cyc} (hc : I c) (hp : ∀ r ∈ l, P c.s r) :
    c.s.CycleOf l (l.flatMap R) (c.forAll l g).s ∧ I (c.forAll l g) ∧ ∀ r ∈ l, F c.s r ((c.forAll l g).s.rail r) := by
  induction l generalizing c with
  | nil => exact ⟨.refl _ _ _, hc, fun _ hr => absurd hr List.not_mem_nil⟩
  | cons r l ih =>
    obtain ⟨hr, hl⟩ := List.nodup_cons.1 hl
    obtain ⟨hcycle, hi, hf⟩ := hg c r hc (hp r List.mem_cons_self)
    have hconf : c.s.SameConf (g c r).s := .ofCycle hcycle (hR r)
    have hrail : ∀ q ∈ l, (g c r).s.rail q = c.s.rail q := fun q hq =>
      hcycle.rail (by rintro (_ | ⟨_, ⟨⟩⟩); exact hr hq)
    obtain ⟨kcycle, ki, kf⟩ := ih hl hi
      (fun q hq => hP _ _ q hconf (hrail q hq) (hp q (List.mem_cons_of_mem _ hq)))
    refine ⟨?_, ki, fun q hq => ?_⟩
    · exact (hcycle.mono (by simp) (by simp [List.flatMap_cons])).trans
        (kcycle.mono (List.subset_cons_self _ _) (by simp [List.flatMap_cons]))
    · rcases List.mem_cons.1 hq with rfl | hq
      · rw [show (c.forAll (q :: l) g).s.rail q = (g c q).s.rail q from kcycle.rail hr]
        exact hf
      · exact hF _ _ q _ hconf (hrail q hq) (kf q hq)

theorem allRails_nodup : allRails.Nodup := List.nodup_finRange 64

/-! Rails that fall -/

/-- The rail falls: its stage has stopped, and TOFF has started. -/
def State.Fell (s : State) (r : Rail) (x : Chan) : Prop :=
  x.st = .falling ∧ x.enCmd = false ∧ x.started = false ∧ x.toff = s.toffTimer r

/-- The detector of the rail is not judged yet. -/
def Chan.unjudged (x : Chan) : Bool := x.uv.blank.isSome || x.uvNew

section
variable (s : State) (r : Rail)

/-- A blanking of length 0 starts none, and then the output against the new reference is not known. -/
theorem State.uvSwitch_unjudged (t : Timer) : ((s.blankTimer r t).isSome || (s.blankTimer r t).isNone) = true := by
  cases s.blankTimer r t <;> rfl

theorem State.rail_dropping_unjudged (hw : (s.rail r).st.window = true) (hu : s.use r = true) :
    ((s.dropping r).rail r).unjudged = true := by
  have hsw : s.switches r .falling = true := by
    rw [State.switches, hw, hu]
    rfl
  rw [State.rail_dropping]
  simp only [Chan.unjudged, hsw, if_true]
  exact s.uvSwitch_unjudged r _

theorem State.blankAll_unjudged (h : (s.rail r).unjudged = true) : ((s.blankAll r).rail r).unjudged = true := by
  rw [State.rail_blankAll]
  simp only [Chan.unjudged] at h ⊢
  cases hu : s.use r
  · simpa using h
  · simp only [if_true]
    unfold State.blankTimer
    split
    · rename_i hb
      have hnone : (s.rail r).uv.blank = none := by simpa using hb.2
      simpa [hnone] using h
    · rfl

theorem State.marginDrop_unjudged (h : (s.rail r).unjudged = true) : ((s.marginDrop r).rail r).unjudged = true := by
  unfold State.marginDrop
  dsimp only
  split
  · rw [State.rail_marginTx, State.rail_setCh_self]
    exact (s.setStep r 0).blankAll_unjudged r h
  · rw [State.rail_setCh_self]
    exact h

theorem State.toFalling_fell : s.Fell r ((s.toFalling r).rail r) := by
  have hd : s.Fell r ((s.dropping r).rail r) := by
    rw [State.rail_dropping]
    exact ⟨rfl, rfl, rfl, rfl⟩
  rw [State.toFalling_eq]
  split
  · rw [State.rail_marginDrop]
    exact hd
  · exact hd

theorem State.toFalling_unjudged (hw : (s.rail r).st.window = true) (hu : s.use r = true) :
    ((s.toFalling r).rail r).unjudged = true := by
  have hd := s.rail_dropping_unjudged r hw hu
  rw [State.toFalling_eq]
  split
  · exact State.marginDrop_unjudged _ r hd
  · exact hd

end

section
variable (c : Cyc) (r : Rail)

theorem State.hasTransition_disable {s : State} {r : Rail} (hu : s.use r = true)
    (h : (s.rail r).st ∈ [RailState.rising, .on, .margined]) : s.hasTransition r .disable = true := by
  have h' : (s.ch r).st ∈ [RailState.rising, .on, .margined] := h
  simp only [State.hasTransition, hu, Bool.true_and]
  generalize (s.ch r).st = x at h' ⊢
  fin_cases h' <;> rfl

theorem RailState.window_of_running {x : RailState} (h : x ∈ [RailState.rising, .on, .margined]) : x.window = true := by
  fin_cases h <;> rfl

/-- A disable of a rail that runs. -/
theorem Cyc.causes_disable_running (hu : c.s.use r = true) (h : (c.s.rail r).st ∈ [RailState.rising, .on, .margined]) :
    c.causes r [.disable] = (c.map (fun s => s.toFalling r)).map (fun s => s.judgePg r) := by
  have hw := RailState.window_of_running h
  have htrans : c.transition r .disable = c.map (fun s => s.toFalling r) := by
    have hne : (c.s.ch r).st ≠ .discharging := by
      intro hd
      have h' : (c.s.ch r).st ∈ [RailState.rising, .on, .margined] := h
      rw [hd] at h'
      simp at h'
    exact if_neg (by simpa using hne)
  rw [Cyc.causes_one, if_pos (State.hasTransition_disable hu h), htrans]
  refine Cyc.settle_unjudged _ r 4 ?_ (c.s.toFalling_unjudged r hw hu)
  rw [Cyc.s_map, (c.s.toFalling_fell r).1]
  simp

/-- A rail that runs falls at a disable. -/
theorem Cyc.disable_falls (hu : c.s.use r = true) (h : (c.s.rail r).st ∈ [RailState.rising, .on, .margined]) :
    c.s.CycleOf [r] [aChMargin r] (c.causes r [.disable]).s
      ∧ ((c.s.rail r).st ≠ .margined → c.s.CycleOf [r] [] (c.causes r [.disable]).s)
      ∧ (c.causes r [.disable]).groupOff = c.groupOff ∧ (c.causes r [.disable]).refused = c.refused
      ∧ c.s.Fell r ((c.causes r [.disable]).s.rail r) := by
  rw [c.causes_disable_running r hu h]
  have hj := (c.s.toFalling r).judgePg_cycleOf r
  refine ⟨(c.s.toFalling_cycleOf r).trans (hj.mono (by simp) (by simp)), fun hm => ?_, rfl, rfl, ?_⟩
  · refine State.CycleOf.trans ?_ hj
    rw [c.s.toFalling_unmargined r hm]
    exact c.s.dropping_cycleOf r
  · rw [Cyc.s_map, State.rail_judgePg]
    exact c.s.toFalling_fell r

end

/-! Rails that rise -/

/-- The rail rises: its stage has started, and TON runs. -/
def State.Rose (s : State) (r : Rail) (x : Chan) : Prop :=
  x.st = .rising ∧ x.enCmd = true ∧ x.started = true ∧ x.trip = 0 ∧ x.retries = 0 ∧ x.ton = s.tonTimer r ∧ x.pg = false

section
variable (s : State) (r : Rail)

theorem State.rail_rising : (s.rising r).rail r = { (s.entersRising r).rail r with
    enCmd := true, pend := false, discharge := false, offtRaised := false, trip := 0, pg := false
    toff := none, backoff := none, path := 0, slew := (s.risingChan r).slew, slewAt := (s.risingChan r).slewAt
    steps := [] } := by
  rw [State.rising, State.rail_setCh_self]
  rfl

theorem State.entersRising_unjudged (hst : (s.rail r).st = .off) (hu : s.use r = true) :
    ((s.entersRising r).rail r).unjudged = true := by
  have hsw : (s.setStep r 0).switches r .rising = true := by
    have hconf : s.SameConf (s.setStep r 0) := .ofCycle (s.setStep_cycleOf r 0) (by simp [railReg_margin])
    rw [State.switches, State.rail_setStep, hst, hconf.use, hu]
    rfl
  rw [State.entersRising, State.rail_enter]
  simp only [Chan.unjudged, hsw, if_true]
  exact State.uvSwitch_unjudged _ r _

theorem State.startStage_unjudged (h : (s.rail r).unjudged = true) : ((s.startStage r).rail r).unjudged = true := by
  unfold State.startStage
  dsimp only
  split
  · exact State.blankAll_unjudged _ r (by rw [State.rail_setCh_self]; exact h)
  · rw [State.rail_startPeriod]
    exact State.blankAll_unjudged _ r (by rw [State.rail_setCh_self]; exact h)

/-- A rail that is not bound to a regulator and rises. -/
theorem State.toRising_rose (hst : (s.rail r).st = .off) (hu : s.use r = true) (hb : s.bound r = false)
    (hret : (s.rail r).retries = 0) :
    s.Rose r ((s.toRising r).rail r) ∧ ((s.toRising r).rail r).unjudged = true := by
  have hconf : s.SameConf (s.rising r) := .ofCycle (s.rising_cycleOf r) (by simp [railReg_margin])
  have hstage : s.toRising r = (s.rising r).startStage r := by
    rw [State.toRising_eq, if_neg (by rw [hconf.bound, hb]; simp)]
  rw [hstage]
  refine ⟨?_, State.startStage_unjudged _ r ?_⟩
  · rw [State.rail_startStage, State.rail_rising, State.entersRising, State.rail_enter, hconf.tonTimer]
    exact ⟨rfl, rfl, rfl, rfl, hret, rfl, rfl⟩
  · rw [State.rail_rising]
    exact s.entersRising_unjudged r hst hu

end

section
variable (c : Cyc) (r : Rail)

/-- A rail at rest that may rise at once (R41). -/
structure State.Ready (s : State) (r : Rail) : Prop where
  use : s.use r = true
  st : (s.rail r).st = .off
  below : s.belowVoff r = true
  bound : s.bound r = false

/-- The retry count starts again with an enable (R58). -/
def State.freshRetries (s : State) (r : Rail) : State := s.setCh r { s.ch r with retries := 0 }

/-- Where the detector is not judged a power-good that has gone does not come. -/
theorem Chan.good_unjudged {x : Chan} (h : x.unjudged = true) (hpg : x.pg = false) (u : Bool) : x.good u = false := by
  have hb : (x.ov.blank.isSome || x.uv.blank.isSome || x.uvNew) = true := by
    rw [Chan.unjudged] at h
    rw [Bool.or_assoc, h, Bool.or_true]
  unfold Chan.good
  rw [if_pos hb, hpg, ite_self]

theorem Cyc.causes_enable_ready (h : c.s.Ready r) : c.causes r [.enable] =
    (c.map (fun s => (s.freshRetries r).toRising r)).map (fun s => s.judgePg r) := by
  obtain ⟨hu, hst, hbelow, hb⟩ := h
  have hst' : (c.s.ch r).st = .off := hst
  have htr : c.s.hasTransition r .enable = true := by simp [State.hasTransition, hst', hu]
  have hbelow' : (c.s.freshRetries r).belowVoff r = true := by
    have hch : (c.s.freshRetries r).ch r = { c.s.ch r with retries := 0 } := c.s.ch_setCh_self r _
    rw [State.belowVoff, State.uvAct, hch]
    exact hbelow
  have htrans : c.transition r .enable = c.map (fun s => (s.freshRetries r).toRising r) := by
    simp only [Cyc.transition, Cyc.map]
    show { c with s := (c.s.freshRetries r).applyR41 r } = _
    rw [State.applyR41, if_pos (by rw [hbelow', Bool.true_or])]
  have hrail : (c.s.freshRetries r).rail r = { c.s.rail r with retries := 0 } := c.s.rail_setCh_self r _
  obtain ⟨⟨hrise, -, -, -, -, -, hpg⟩, hun⟩ := (c.s.freshRetries r).toRising_rose r (by rw [hrail]; exact hst) hu hb
    (by rw [hrail])
  rw [Cyc.causes_one, if_pos htr, htrans]
  refine Cyc.settle_rising _ r 4 hrise ?_ ?_
  · rw [State.pgNow_judgePg, State.pgNow_eq, Cyc.s_map]
    exact Chan.good_unjudged hun hpg _
  · rw [Chan.unjudged, Bool.or_eq_true] at hun
    exact hun.imp_left (fun hb => by simpa [Option.isSome_iff_ne_none] using hb)

/-- A ready rail rises at an enable. -/
theorem Cyc.enable_rises (h : c.s.Ready r) : c.s.CycleOf [r] [aChMargin r] (c.causes r [.enable]).s
      ∧ (c.causes r [.enable]).groupOff = c.groupOff ∧ (c.causes r [.enable]).refused = c.refused
      ∧ c.s.Rose r ((c.causes r [.enable]).s.rail r) := by
  rw [c.causes_enable_ready r h]
  obtain ⟨hu, hst, hbelow, hb⟩ := h
  have hrail : (c.s.freshRetries r).rail r = { c.s.rail r with retries := 0 } := c.s.rail_setCh_self r _
  have hfresh : c.s.CycleOf [r] [] (c.s.freshRetries r) := c.s.setCh_cycleOf r _
  have hconf : c.s.SameConf (c.s.freshRetries r) := .ofCycle hfresh (by simp)
  obtain ⟨⟨hrise, hen, hstart, htrip, hret, hton, hpg⟩, hun⟩ := (c.s.freshRetries r).toRising_rose r
    (by rw [hrail]; exact hst) hu hb (by rw [hrail])
  refine ⟨?_, rfl, rfl, ?_⟩
  · exact ((hfresh.mono (by simp) (by simp)).trans (State.toRising_cycleOf _ r)).trans
      ((State.judgePg_cycleOf _ r).mono (by simp) (by simp))
  · rw [Cyc.s_map, State.rail_judgePg, Cyc.s_map, State.pgNow_eq]
    exact ⟨hrise, hen, hstart, htrip, hret, hton.trans (hconf.tonTimer r), Chan.good_unjudged hun hpg _⟩

end

end Sys2Proof.Machine
end

section
/-! Rail commands of the wicks (R192, R196, R197, R205, R238): EN, ENS, DIS, DISS, DISCH and MARG. -/

namespace Sys2Proof.Machine
open Sys2Proof

/-! The command right on the way to the following instruction -/

@[simp] theorem Wick.advance_epoch (x : Wick) : x.advance.epoch = x.epoch := by
  rw [Wick.advance_eq]
  split
  · unfold Wick.turned
    split <;> rfl
  · rfl

section
variable (s : State) (w : WickId)

theorem State.advance_domOf (r : Rail) : (s.advance w).domOf r = s.domOf r :=
  State.domOf_congr (s := s) rfl (fun _ => rfl) r

theorem State.advance_owns (d : DomId) : (s.advance w).owns (.wick w) d = s.owns (.wick w) d := by
  have he : ((s.advance w).wk w).epoch = (s.wk w).epoch := by
    rw [State.advance, s.wk_mapWk_self, Wick.advance_epoch]
  rw [State.owns, State.owns, State.epochOf, State.epochOf, he]
  rfl

theorem State.advance_hasRight (r : Rail) : (s.advance w).hasRight w r = s.hasRight w r := by
  unfold State.hasRight
  rw [State.advance_domOf]
  split
  · rfl
  · rw [State.advance_owns]
    rfl

end

/-! The end of a rail command -/

section
variable {s : State} {w : WickId} {rails : List Rail} {regs : List Nat} {c : Cyc}

/-- A cycle that follows a change of wicks. -/
theorem State.CycleOf.withWicks {s t : State} (h : s.CycleOf rails regs t) (l : Vector Wick 16) :
    { s with wicks := l }.CycleOf rails regs { t with wicks := l } := by
  obtain ⟨hfields, hch, hreg⟩ := h
  exact ⟨by rw [hfields], hch, hreg⟩

/-- The end of a rail command, in which the wick changes too. -/
theorem State.CycleOf.ends (h : (s.advance w).CycleOf rails regs c.s) (hg : c.groupOff = []) (f : Wick → Wick) :
    { s with wicks := (c.map (fun s => s.mapWk w f)).finish.wicks }.CycleOf rails regs
        (c.map (fun s => s.mapWk w f)).finish
      ∧ (c.map (fun s => s.mapWk w f)).finish.wk w = f (s.wk w).advance
      ∧ (∀ u, u ≠ w → (c.map (fun s => s.mapWk w f)).finish.wk u = s.wk u)
      ∧ (∀ q, (c.map (fun s => s.mapWk w f)).finish.rail q = c.s.rail q)
      ∧ ∀ a, ownReg a → (c.map (fun s => s.mapWk w f)).finish.reg a = c.s.reg a := by
  have hwk : ∀ u, c.s.wk u = (s.advance w).wk u := h.wk
  have hend := (c.map (fun s => s.mapWk w f)).finish_cycleOf hg false
  have hwicks : (c.map (fun s => s.mapWk w f)).finish.wicks = (c.s.mapWk w f).wicks := by
    rw [hend.1]
    rfl
  have hstart : { s with wicks := (c.s.mapWk w f).wicks }.CycleOf rails regs (c.s.mapWk w f) :=
    h.withWicks (c.s.mapWk w f).wicks
  refine ⟨?_, ?_, fun u hu => ?_, fun q => Cyc.rail_finish (c := c.map (fun s => s.mapWk w f)) hg q,
    fun a ha => Cyc.reg_finish (c := c.map (fun s => s.mapWk w f)) hg ha⟩
  · rw [hwicks]
    exact Cyc.finish_acts (c := c.map (fun s => s.mapWk w f)) hstart hg
  · rw [hend.wk, Cyc.s_map, State.wk_mapWk_self, hwk, State.advance, State.wk_mapWk_self]
  · rw [hend.wk, Cyc.s_map, State.wk_mapWk_ne _ hu, hwk, State.advance, State.wk_mapWk_ne _ hu]

/-- The end of a rail command: CREF tells whether it was refused. -/
theorem State.CycleOf.cref (h : (s.advance w).CycleOf rails regs c.s) (hg : c.groupOff = []) (b : Bool) :
    { s with wicks := (c.cref w b).finish.wicks }.CycleOf rails regs (c.cref w b).finish
      ∧ (c.cref w b).finish.wk w = { (s.wk w).advance with cref := b }
      ∧ (∀ u, u ≠ w → (c.cref w b).finish.wk u = s.wk u)
      ∧ (∀ q, (c.cref w b).finish.rail q = c.s.rail q)
      ∧ ∀ a, ownReg a → (c.cref w b).finish.reg a = c.s.reg a :=
  h.ends hg (fun x => { x with cref := b })

/-! Refusals -/

/-- A rail command that is refused: the wick goes on with CREF set. -/
def State.railRefused (s : State) (w : WickId) : State :=
  ((Cyc.hitsWith { s := s.advance w } [] []).cref w true).finish

theorem State.railRefused_wickCycle (s : State) (w : WickId) :
    s.WickCycle w { (s.wk w).advance with cref := true } (s.railRefused w) := by
  obtain ⟨hcycle, hself, hothers, -⟩ := State.CycleOf.cref (s := s) (w := w)
    (c := Cyc.hitsWith { s := s.advance w } [] []) (State.CycleOf.refl _ [] []) rfl true
  exact ⟨hcycle, hself, hothers⟩

theorem State.railCmd_refused {l : List Rail} {k : Cause} (h : ∃ r ∈ l, s.hasRight w r = false) :
    s.railCmd w l k [] = s.railRefused w := by
  have hno : (!l.all (fun r => (s.advance w).hasRight w r)) = true := by
    simpa [State.advance_hasRight] using h
  unfold State.railCmd State.cyc State.railRefused
  exact congrArg Cyc.finish (if_pos hno)

theorem State.enCmd_refused {l : List Rail} (h : ∃ r ∈ l, s.hasRight w r = false) :
    s.enCmd w l [] = s.railRefused w := by
  unfold State.enCmd
  split
  · rfl
  · exact State.railCmd_refused h

theorem State.disCmd_refused {l : List Rail} (h : ∃ r ∈ l, s.hasRight w r = false) :
    s.disCmd w l [] = s.railRefused w := by
  unfold State.disCmd
  split
  · exact State.railCmd_refused h
  · refine if_pos ?_
    simpa using h

/-- An instruction that is refused. -/
theorem State.refusedBy {i : Instr} (h : exec i s = .next (s.railRefused w)) :
    ∃ t, exec i s = .next t ∧ s.WickCycle w { (s.wk w).advance with cref := true } t :=
  ⟨_, h, s.railRefused_wickCycle w⟩

theorem marg_refused {a : Ref Rail} {b : Ref (Fin 4096)} (h : s.current w = some (.marg a b))
    (hr : s.hasRight w (s.railOf w a) = false) : exec (.marg w []) s = .next (s.railRefused w) := by
  simp only [exec, execMarg, h]
  refine congrArg Host.Outcome.next (congrArg Cyc.finish (if_pos ?_))
  rw [State.advance_hasRight, hr]
  rfl

end

/-- Without the command right every rail command is refused. -/
theorem railCommands_refused (s : State) (w : WickId) (r : Rail) (hr : s.hasRight w r = false) :
    (∀ a, s.current w = some (.en a) → s.railOf w a = r →
      ∃ t, exec (.en w []) s = .next t ∧ s.WickCycle w { (s.wk w).advance with cref := true } t)
    ∧ (∀ a, s.current w = some (.dis a) → s.railOf w a = r →
      ∃ t, exec (.dis w []) s = .next t ∧ s.WickCycle w { (s.wk w).advance with cref := true } t)
    ∧ (∀ a, s.current w = some (.disch a) → s.railOf w a = r →
      ∃ t, exec (.disch w []) s = .next t ∧ s.WickCycle w { (s.wk w).advance with cref := true } t)
    ∧ (∀ a b, s.current w = some (.marg a b) → s.railOf w a = r →
      ∃ t, exec (.marg w []) s = .next t ∧ s.WickCycle w { (s.wk w).advance with cref := true } t)
    ∧ (∀ k, s.current w = some (.ens k) → r ∈ s.setRails k →
      ∃ t, exec (.ens w []) s = .next t ∧ s.WickCycle w { (s.wk w).advance with cref := true } t)
    ∧ ∀ k, s.current w = some (.diss k) → r ∈ s.setRails k →
      ∃ t, exec (.diss w []) s = .next t ∧ s.WickCycle w { (s.wk w).advance with cref := true } t := by
  refine ⟨fun a hi ha => State.refusedBy ?_, fun a hi ha => State.refusedBy ?_, fun a hi ha => State.refusedBy ?_,
    fun a b hi ha => State.refusedBy (marg_refused hi (ha ▸ hr)), fun k hi hk => State.refusedBy ?_,
    fun k hi hk => State.refusedBy ?_⟩
  · simp only [exec, execEn, hi]
    exact congrArg Host.Outcome.next (State.enCmd_refused ⟨r, by simp [ha], hr⟩)
  · simp only [exec, execDis, hi]
    exact congrArg Host.Outcome.next (State.disCmd_refused ⟨r, by simp [ha], hr⟩)
  · simp only [exec, execDisch, hi]
    exact congrArg Host.Outcome.next (State.railCmd_refused ⟨r, by simp [ha], hr⟩)
  · simp only [exec, execEns, hi]
    exact congrArg Host.Outcome.next (State.enCmd_refused ⟨r, hk, hr⟩)
  · simp only [exec, execDiss, hi]
    exact congrArg Host.Outcome.next (State.disCmd_refused ⟨r, hk, hr⟩)

/-! Commands that act -/

section
variable {s : State} {w : WickId}

/-- A rail command under the command right. -/
theorem State.railCmd_acts {l : List Rail} {k : Cause} (h : ∀ r ∈ l, s.hasRight w r = true) {c : Cyc}
    (hc : Cyc.hitsWith { s := s.advance w } (l.map (fun r => { rail := r, cause := k })) [] = c) :
    s.railCmd w l k [] = (c.cref w c.refused).finish := by
  have hok : ¬ (!l.all (fun r => (s.advance w).hasRight w r)) = true := by
    simpa [State.advance_hasRight] using h
  unfold State.railCmd State.cyc
  subst hc
  exact congrArg Cyc.finish (if_neg hok)

/-- Rails that a command reaches one by one. -/
theorem State.railCmd_rails {l : List Rail} {k : Cause} (h : ∀ r ∈ l, s.hasRight w r = true) (hl : l.Nodup)
    {P : State → Rail → Prop} {F : State → Rail → Chan → Prop}
    (hg : ∀ (c : Cyc) r, P c.s r → c.s.CycleOf [r] [aChMargin r] (c.causes r [k]).s
      ∧ (c.causes r [k]).groupOff = c.groupOff ∧ (c.causes r [k]).refused = c.refused
      ∧ F c.s r ((c.causes r [k]).s.rail r))
    (hP : ∀ (s t : State) r, s.SameConf t → t.rail r = s.rail r → P s r → P t r)
    (hF : ∀ (s t : State) r x, s.SameConf t → t.rail r = s.rail r → F t r x → F s r x) (hp : ∀ r ∈ l, P s r) :
    { s with wicks := (s.railCmd w l k []).wicks }.CycleOf l (l.map (fun r : Rail => aChMargin r)) (s.railCmd w l k [])
      ∧ (s.railCmd w l k []).wk w = { (s.wk w).advance with cref := false }
      ∧ (∀ u, u ≠ w → (s.railCmd w l k []).wk u = s.wk u)
      ∧ ∀ r ∈ l, F s r ((s.railCmd w l k []).rail r) := by
  have hadv : s.SameConf (s.advance w) := ⟨rfl, rfl, fun _ _ _ => rfl⟩
  have hmem : ∀ r, r ∈ allRails.filter (fun r => l.contains r) ↔ r ∈ l := fun r => by
    simp [allRails]
  obtain ⟨hcycle, ⟨hgo, href⟩, hf⟩ := Cyc.forAll_rails (g := fun c r => c.causes r [k])
    (I := fun c => c.groupOff = [] ∧ c.refused = false) (P := P) (F := F) (R := fun r => [aChMargin r])
    (fun r a ha => by rw [List.mem_singleton.1 ha]; exact railReg_margin r)
    (fun c r hi hpr => by
      obtain ⟨hcycle, hgo, href, hf⟩ := hg c r hpr
      exact ⟨hcycle, ⟨hgo.trans hi.1, href.trans hi.2⟩, hf⟩)
    hP hF (allRails_nodup.filter (fun r => l.contains r)) (c := { s := s.advance w }) ⟨rfl, rfl⟩
    (fun r hr => hP s (s.advance w) r hadv rfl (hp r ((hmem r).1 hr)))
  have hcmd := State.railCmd_acts h (by rw [Cyc.hitsWith_nil, Cyc.hits_each _ k hl])
  rw [href] at hcmd
  have hcycle' : (s.advance w).CycleOf l (l.map (fun r : Rail => aChMargin r))
      (Cyc.forAll { s := s.advance w } (allRails.filter (fun r => l.contains r)) (fun c r => c.causes r [k])).s := by
    refine hcycle.mono (fun r hr => (hmem r).1 hr) (fun a ha => ?_)
    obtain ⟨r, hr, ha⟩ := List.mem_flatMap.1 ha
    rw [List.mem_singleton.1 ha]
    exact List.mem_map.2 ⟨r, (hmem r).1 hr, rfl⟩
  obtain ⟨kcycle, kself, kothers, krail, -⟩ := hcycle'.cref hgo false
  rw [hcmd]
  refine ⟨kcycle, kself, kothers, fun r hr => ?_⟩
  rw [krail]
  exact hF s (s.advance w) r _ hadv rfl (hf r ((hmem r).2 hr))

/-- The rail is in use, and its stage runs. -/
def State.Running (s : State) (r : Rail) : Prop :=
  s.use r = true ∧ (s.rail r).st ∈ [RailState.rising, .on, .margined]

theorem State.Fell.congr {s t : State} (h : s.SameConf t) {r : Rail} {x : Chan} (hf : t.Fell r x) : s.Fell r x := by
  obtain ⟨hst, hen, hstart, htoff⟩ := hf
  exact ⟨hst, hen, hstart, htoff.trans (h.toffTimer r)⟩

theorem State.Rose.congr {s t : State} (h : s.SameConf t) {r : Rail} {x : Chan} (hf : t.Rose r x) : s.Rose r x := by
  obtain ⟨hst, hen, hstart, htrip, hret, hton, hpg⟩ := hf
  exact ⟨hst, hen, hstart, htrip, hret, hton.trans (h.tonTimer r), hpg⟩

theorem State.Running.congr {s t : State} (h : s.SameConf t) {r : Rail} (hr : t.rail r = s.rail r) (hp : s.Running r) :
    t.Running r := ⟨(h.use r).trans hp.1, by rw [hr]; exact hp.2⟩

theorem State.belowVoff_congr {s t : State} (h : s.SameConf t) {r : Rail} (hr : t.rail r = s.rail r) :
    t.belowVoff r = s.belowVoff r := by
  have hb : ∀ u : State, u.belowVoff r = (!(u.rail r).st.window
      && (u.use r && (u.rail r).uv.out && (u.rail r).uv.blank.isNone && !(u.rail r).uvNew)) := fun _ => rfl
  rw [hb, hb, hr, h.use]

theorem State.Ready.congr {s t : State} (h : s.SameConf t) {r : Rail} (hr : t.rail r = s.rail r) (hp : s.Ready r) :
    t.Ready r := by
  obtain ⟨hu, hst, hbelow, hb⟩ := hp
  exact ⟨(h.use r).trans hu, by rw [hr, hst], (State.belowVoff_congr h hr).trans hbelow, (h.bound r).trans hb⟩

theorem State.railCmd_enabled {l : List Rail} (hl : l.Nodup) (h : ∀ r ∈ l, s.mayEnable w r) :
    s.Enabled w l (s.railCmd w l .enable []) := by
  obtain ⟨hcycle, hself, hothers, hf⟩ := State.railCmd_rails (fun r hr => (h r hr).1) hl (P := State.Ready)
    (F := State.Rose) (fun c r hp => c.enable_rises r hp) (fun s t r hc hr hp => hp.congr hc hr)
    (fun s t r x hc _ hx => hx.congr hc) (fun r hr => ⟨(h r hr).2.1, (h r hr).2.2.1, (h r hr).2.2.2.1, (h r hr).2.2.2.2⟩)
  exact ⟨hcycle, hself, hothers, hf⟩

theorem State.railCmd_disabled {l : List Rail} (hl : l.Nodup) (h : ∀ r ∈ l, s.mayDisable w r) :
    s.Disabled w l (s.railCmd w l .disable []) := by
  obtain ⟨hcycle, hself, hothers, hf⟩ := State.railCmd_rails (fun r hr => (h r hr).1) hl (P := State.Running)
    (F := State.Fell) (fun c r hp => by
      obtain ⟨hcycle, -, hgo, href, hfell⟩ := c.disable_falls r hp.1 hp.2
      exact ⟨hcycle, hgo, href, hfell⟩) (fun s t r hc hr hp => hp.congr hc hr)
    (fun s t r x hc _ hx => hx.congr hc) (fun r hr => (h r hr).2)
  exact ⟨hcycle, hself, hothers, hf⟩

theorem State.setRails_nodup (k : Fin 8) : (s.setRails k).Nodup := allRails_nodup.filter _

end

theorem Cyc.hits_one_causes (c : Cyc) (r : Rail) (k : Cause) :
    c.hitsWith [{ rail := r, cause := k }] [] = c.causes r [k] := by
  rw [Cyc.hitsWith_nil, Cyc.hits_one, Cyc.causes_one]

theorem State.mapWk_mapWk (s : State) (w : WickId) (f g : Wick → Wick) :
    (s.mapWk w f).mapWk w g = s.mapWk w (fun x => g (f x)) := by
  have h : (s.mapWk w f).mapWk w g = (s.setWk w (f (s.wk w))).setWk w (g (f (s.wk w))) := by
    rw [State.mapWk, s.wk_mapWk_self]
    rfl
  rw [h]
  simp [State.setWk, State.mapWk]

/-! DIS in a down-program -/

section
variable {s : State} {w : WickId}

theorem dis_waits {a : Ref Rail} {d e : DomId} {r : Rail} (hi : s.current w = some (.dis a)) (ha : s.railOf w a = r)
    (hd : s.downOf w = some d) (hr : s.hasRight w r = true) (he : s.domOf r = some e) (hu : s.use r = true)
    (hst : (s.ch r).st = .on) :
    ∃ t, exec (.dis w []) s = .next t ∧ { s with wicks := t.wicks }.CycleOf [r] [] t ∧ (t.ch r).st = .falling
      ∧ t.wk w = { (s.wk w).advance with
        cref := false, st := .wait (.dis (s.bit (aDCfg d) 30) [r]), deadline := s.toffTimer r }
      ∧ ∀ u, u ≠ w → t.wk u = s.wk u := by
  have hst' : ((s.advance w).rail r).st = .on := hst
  obtain ⟨-, hcycle, hgo, -, hst2, -, -, htoff⟩ := Cyc.disable_falls { s := s.advance w } r hu (by rw [hst']; simp)
  have hcycle := hcycle (by rw [hst']; simp)
  generalize hc : Cyc.causes { s := s.advance w } r [.disable] = c at hcycle hgo hst2 htoff
  have hadv : s.SameConf (s.advance w) := ⟨rfl, rfl, fun _ _ _ => rfl⟩
  have hconf : s.SameConf c.s := hadv.trans (.ofCycle hcycle (by simp))
  have hdom : c.s.domOf r = some e := by
    rw [hconf.domOf (fun d => by rw [hcycle.dom d]; rfl), he]
  have hbit : c.s.bit (aDCfg d) 30 = s.bit (aDCfg d) 30 := hconf.bitDom d (by decide) 30
  have htoff' : (c.s.ch r).toff = s.toffTimer r := htoff.trans (hadv.toffTimer r)
  have hmoved : ((c.s.ch r).st == .falling && (c.s.domOf r).isSome) = true := by
    rw [hdom, show (c.s.ch r).st = .falling from hst2]
    rfl
  have hends : some (([r].filterMap (fun r => (c.s.ch r).toff)).foldl max c.s.cycle) = s.toffTimer r := by
    rw [hconf.cycle]
    simp only [List.filterMap_cons, List.filterMap_nil, htoff', State.toffTimer, State.timer, List.foldl_cons, List.foldl_nil]
    exact congrArg some (Nat.max_eq_right (Nat.le_add_right _ _))
  have hexec : s.disCmd w [r] [] = ((c.cref w false).map (fun s' => s'.mapWk w (fun x => { x with
      st := .wait (.dis (s.bit (aDCfg d) 30) [r]), deadline := s.toffTimer r }))).finish := by
    have hok : ¬ (!([r] : List Rail).all (fun r => s.hasRight w r)) = true := by simp [hr]
    have hmoved' : (((c.cref w false).s.ch r).st == .falling && ((c.cref w false).s.domOf r).isSome) = true := hmoved
    have hends' : some (([r].filterMap (fun r => ((c.cref w false).s.ch r).toff)).foldl max (c.cref w false).s.cycle)
        = s.toffTimer r := hends
    have hbit' : (c.cref w false).s.bit (aDCfg d) 30 = s.bit (aDCfg d) 30 := hbit
    unfold State.disCmd State.cyc
    rw [hd]
    refine (if_neg hok).trans (congrArg Cyc.finish ?_)
    dsimp only
    simp only [List.filter_singleton, hst, cond_true, List.map_cons, List.map_nil, Cyc.hits_one_causes, hc, hmoved']
    rw [if_neg (by simp)]
    unfold Cyc.map
    dsimp only
    rw [hends', hbit']
  obtain ⟨kcycle, kself, kothers, krail, -⟩ := hcycle.ends (s := s) (w := w) hgo (fun x => { x with
    cref := false, st := .wait (.dis (s.bit (aDCfg d) 30) [r]), deadline := s.toffTimer r })
  have hend : ((c.cref w false).map (fun s' => s'.mapWk w (fun x => { x with
        st := .wait (.dis (s.bit (aDCfg d) 30) [r]), deadline := s.toffTimer r })))
      = c.map (fun s' => s'.mapWk w (fun x => { x with
        cref := false, st := .wait (.dis (s.bit (aDCfg d) 30) [r]), deadline := s.toffTimer r })) := by
    unfold Cyc.cref Cyc.map
    dsimp only
    rw [State.mapWk_mapWk]
  rw [← hend, ← hexec] at kcycle kself kothers krail
  refine ⟨_, ?_, kcycle, (State.shows (·.st) (krail r) :).trans hst2, kself, kothers⟩
  simp only [exec, execDis, hi, ha]

end

/-- Settles O25: rails that may rise or fall do so one by one, each by itself; a down-program's DIS makes its wick
wait for the rail. -/
theorem enableAndDisable : Obligations.EnableAndDisable := by
  unfold Obligations.EnableAndDisable
  refine ⟨fun s w hd => ⟨fun a hi h => ?_, fun k hi h => ?_⟩, fun s w hd => ⟨fun a hi h => ?_, fun k hi h => ?_⟩,
    fun s w a d e r hi ha hd hr he hu hst => dis_waits hi ha hd hr he hu hst⟩
  · refine ⟨_, ?_, State.railCmd_enabled (List.nodup_singleton _) (fun r hr => by rw [List.mem_singleton.1 hr]; exact h)⟩
    simp only [exec, execEn, hi, State.enCmd, hd, Option.isSome_none, Bool.false_eq_true, if_false]
  · refine ⟨_, ?_, State.railCmd_enabled (State.setRails_nodup k) h⟩
    simp only [exec, execEns, hi, State.enCmd, hd, Option.isSome_none, Bool.false_eq_true, if_false]
  · refine ⟨_, ?_, State.railCmd_disabled (List.nodup_singleton _) (fun r hr => by rw [List.mem_singleton.1 hr]; exact h)⟩
    simp only [exec, execDis, hi, State.disCmd, hd]
  · refine ⟨_, ?_, State.railCmd_disabled (State.setRails_nodup k) h⟩
    simp only [exec, execDiss, hi, State.disCmd, hd]

/-! DISCH and MARG -/

section
variable {s : State} {w : WickId}

theorem disch_discharges {a : Ref Rail} {r : Rail} (hi : s.current w = some (.disch a)) (ha : s.railOf w a = r)
    (hr : s.hasRight w r = true) (hu : s.use r = true) (hst : (s.ch r).st = .off) (hout : (s.ch r).uv.out = false)
    (hlen : s.fld (aChToff r) 23 0 ≠ 0) :
    ∃ t, exec (.disch w []) s = .next t ∧ { s with wicks := t.wicks }.CycleOf [r] [] t
      ∧ (t.ch r).st = .discharging ∧ (t.ch r).discharge = true ∧ (t.ch r).toff = s.toffTimer r
      ∧ t.wk w = { (s.wk w).advance with cref := false } ∧ ∀ u, u ≠ w → t.wk u = s.wk u := by
  have hadv : s.SameConf (s.advance w) := ⟨rfl, rfl, fun _ _ _ => rfl⟩
  have hoff : ((s.advance w).ch r).st = .off := hst
  have htr : (s.advance w).hasTransition r .disch = true := by
    have hu' : (s.advance w).use r = true := hu
    simp only [State.hasTransition, hoff, hu']
    rfl
  have htrans : Cyc.transition { s := s.advance w } r .disch
      = Cyc.map { s := s.advance w } (fun u => u.toDischarging r false) := by
    simp only [Cyc.transition, hoff]
    rfl
  have hacts := ((State.Acts.start (s.advance w) r).act (f := fun u => u.toDischarging r false)
    (State.toDischarging_cycleOf _ r _) (State.rail_toDischarging _ r _ (congrArg RailState.window hst))).above (by simp)
    hout rfl hlen
  have hcmd := State.railCmd_acts (s := s) (w := w) (l := [r]) (k := .disch) (by simpa using hr)
    (Cyc.hits_transition { s := s.advance w } r htr)
  have href : (Cyc.settle 5 (Cyc.transition { s := s.advance w } r .disch) r).refused = false := by
    rw [((Cyc.Moves.rfl' r _).settle 5).refused, htrans]
    rfl
  rw [href, htrans] at hcmd
  obtain ⟨kcycle, kself, kothers, krail, -⟩ := hacts.quiet.cref (s := s) (w := w) hacts.groupOff false
  rw [← hcmd] at kcycle kself kothers krail
  have hrail := (krail r).trans hacts.rail
  refine ⟨_, ?_, kcycle, (State.shows (·.st) hrail :), (State.shows (·.discharge) hrail :), (State.shows (·.toff) hrail :),
    kself, kothers⟩
  simp only [exec, execDisch, hi, ha]

/-- MARG of a rail that is on, under the command right. -/
theorem marg_eq {a : Ref Rail} {b : Ref (Fin 4096)} {r : Rail} {v : Int} (hi : s.current w = some (.marg a b))
    (ha : s.railOf w a = r) (hb : sgn 12 (s.operand w 12 b) = v) (hr : s.hasRight w r = true) (hst : (s.ch r).st = .on) :
    exec (.marg w []) s = .next (Cyc.finish (if !s.stepOk r (s.pmbPath r) v then
      (Cyc.flag { s := s.advance w } r 13).cref w true
    else (Cyc.hitsWith { s := s.advance w } [{ rail := r, cause := .margin v }] []).cref w false)) := by
  have hlive : ¬ (!(s.advance w).hasRight w r || !((s.ch r).st == .on || (s.ch r).st == .margined)) = true := by
    rw [State.advance_hasRight, hr, hst]
    decide
  simp only [exec, execMarg, hi, ha, hb]
  refine congrArg Host.Outcome.next (congrArg Cyc.finish ((if_neg hlive).trans ?_))
  rw [Cyc.hits_none]
  rfl

theorem marg_margins {a : Ref Rail} {b : Ref (Fin 4096)} {r : Rail} {v : Int} (hi : s.current w = some (.marg a b))
    (ha : s.railOf w a = r) (hb : sgn 12 (s.operand w 12 b) = v) (hr : s.hasRight w r = true) (hst : (s.ch r).st = .on)
    (hu : s.use r = true) (hp : s.pmbPath r = false) (hok : s.stepOk r false v = true) (hne : v ≠ s.step r) :
    ∃ t, exec (.marg w []) s = .next t ∧ { s with wicks := t.wicks }.CycleOf [r] [aChMargin r] t
      ∧ (t.ch r).st = .margined ∧ t.step r = v ∧ (t.ch r).slew = true
      ∧ t.wk w = { (s.wk w).advance with cref := false } ∧ ∀ u, u ≠ w → t.wk u = s.wk u := by
  obtain ⟨hcycle, hgo, hmarg, hstep, hslew, -⟩ := Cyc.margin_shows { s := s.advance w } r v hst hu hp hok hne rfl
  obtain ⟨kcycle, kself, kothers, krail, kreg⟩ := hcycle.cref (s := s) (w := w) hgo false
  have hexec := marg_eq hi ha hb hr hst
  rw [hp, hok, if_neg (by simp)] at hexec
  refine ⟨_, hexec, kcycle, (State.shows (·.st) (krail r) :).trans hmarg, ?_,
    (State.shows (·.slew) (krail r) :).trans hslew, kself, kothers⟩
  rw [State.step, State.fld, kreg _ (ownReg_margin r)]
  exact hstep

theorem marg_outOfRange {a : Ref Rail} {b : Ref (Fin 4096)} {r : Rail} {v : Int} (hi : s.current w = some (.marg a b))
    (ha : s.railOf w a = r) (hb : sgn 12 (s.operand w 12 b) = v) (hr : s.hasRight w r = true) (hst : (s.ch r).st = .on)
    (hno : s.stepOk r (s.pmbPath r) v = false) :
    ∃ t, exec (.marg w []) s = .next t ∧ { s with wicks := t.wicks }.CycleOf [] [aChFlags r] t
      ∧ t.reg (aChFlags r) = s.reg (aChFlags r) ||| 0x2000
      ∧ t.wk w = { (s.wk w).advance with cref := true } ∧ ∀ u, u ≠ w → t.wk u = s.wk u := by
  obtain ⟨kcycle, kself, kothers, -, kreg⟩ := ((s.advance w).flag_cycleOf r 13).cref (s := s) (w := w)
    (c := Cyc.flag { s := s.advance w } r 13) rfl true
  have hexec := marg_eq hi ha hb hr hst
  rw [hno, if_pos (by simp)] at hexec
  exact ⟨_, hexec, kcycle, (kreg _ (ownReg_flags r)).trans (State.reg_orReg_self _ _ _), kself, kothers⟩

end

/-- Settles O24: without the right a rail command is refused, DISCH and MARG with it are one cause each. -/
theorem dischargeAndMargin : Obligations.DischargeAndMargin := by
  unfold Obligations.DischargeAndMargin
  exact ⟨fun s w r hr => railCommands_refused s w r hr,
    fun s w a r hi ha hr hu hst hout _ _ hlen => disch_discharges hi ha hr hu hst hout hlen,
    fun s w a b r v hi ha hb hr hst => ⟨fun hu hp hok hne => marg_margins hi ha hb hr hst hu hp hok hne,
      fun hno => marg_outOfRange hi ha hb hr hst hno⟩⟩

end Sys2Proof.Machine
end

section
/-! The PMBus ports (R61 to R68) and the slews of a margin (R312 to R318). -/

namespace Sys2Proof.Machine
open Sys2Proof

/-! What a port does next -/

section
variable {s : State} {p : Fin 4}

theorem State.setPort_self (s : State) (p : Fin 4) (x : PmbPort) : (s.setPort p x).ports[p] = x := by
  simp [State.setPort]

theorem State.setPort_ne (s : State) {p q : Fin 4} (h : q ≠ p) (x : PmbPort) : (s.setPort p x).ports[q] = s.ports[q] := by
  have hv : p.val ≠ q.val := fun e => h (Fin.ext e.symm)
  simp [State.setPort, hv]

/-- What a port does next concerns itself alone. -/
theorem State.kick_eq (s : State) (p : Fin 4) : s.kick p = s ∨ ∃ x, s.kick p = s.setPort p x := by
  unfold State.kick
  dsimp only
  split
  · exact .inl rfl
  · refine .inr ?_
    repeat' split
    all_goals exact ⟨_, rfl⟩

theorem State.kick_others (s : State) {p q : Fin 4} (h : q ≠ p) : (s.kick p).ports[q] = s.ports[q] := by
  obtain he | ⟨x, he⟩ := s.kick_eq p
  · rw [he]
  · rw [he, s.setPort_ne h]

theorem State.kick_busy (h : s.ports[p].cur.isSome = true) : s.kick p = s := by
  unfold State.kick
  exact if_pos h

theorem State.setPort_frame (s : State) (p : Fin 4) (x : PmbPort) :
    s.setPort p x = { s with ports := (s.setPort p x).ports } := rfl

/-! Passes and polls -/

/-- An idle port without a queued transaction polls the next regulator of its pass. -/
theorem State.kick_polls {r : Rail} {l : List Rail} (hcur : s.ports[p].cur = none) (hq : s.ports[p].queue = [])
    (ha : s.awake = true) (hl : s.ports[p].pollLeft.dropWhile (fun r => !(s.pollList p).contains r) = r :: l) :
    s.kick p = s.setPort p { s.ports[p] with cur := some (s.pollTx r 0), pollLeft := l, got := [], bad := false } := by
  simp only [State.kick, hcur, hq, ha, hl, Option.isSome_none, Bool.false_eq_true, if_false, Bool.not_true]

theorem pollPass_starts {r : Rail} {l : List Rail} (hl : s.pollList p = r :: l) (ha : s.awake = true)
    (hpass : s.ports[p].pass = false) (hcur : s.ports[p].cur = none) (hq : s.ports[p].queue = []) :
    ∃ t, exec (.pmbusPollPass p) s = .next t ∧ t = { s with ports := t.ports } ∧ (∀ q, q ≠ p → t.ports[q] = s.ports[q])
      ∧ t.ports[p] = { s.ports[p] with
        pass := true, pollLeft := l, passAt := some (s.cycle + 1000000), got := [], bad := false
        cur := some { owner := .poll r 0, addr := s.pmbAddr r, cmd := 0x8B, data := 0 } } := by
  have hkick : exec (.pmbusPollPass p) s = .next ((s.setPort p { s.ports[p] with
      pass := true, pollLeft := r :: l, passAt := s.timer 1000000 }).kick p) := by
    simp only [exec, execPmbusPollPass, hl, ha, hpass]
    rfl
  have hdrop : (r :: l).dropWhile (fun q => !(s.pollList p).contains q) = r :: l := by
    rw [List.dropWhile_cons_of_neg]
    simp [hl]
  have hself := s.setPort_self p { s.ports[p] with pass := true, pollLeft := r :: l, passAt := s.timer 1000000 }
  generalize hu : s.setPort p { s.ports[p] with pass := true, pollLeft := r :: l, passAt := s.timer 1000000 } = u
    at hkick hself
  have huf : u = { s with ports := u.ports } := by rw [← hu]; rfl
  have hlist : u.pollList p = s.pollList p := by rw [huf]; rfl
  have hkicked := State.kick_polls (s := u) (p := p) (r := r) (l := l) (by rw [hself]; exact hcur) (by rw [hself]; exact hq)
    (by rw [huf]; exact ha) (by rw [hself, hlist]; exact hdrop)
  rw [hkicked, hself] at hkick
  refine ⟨_, hkick, ?_, fun q hq => ?_, ?_⟩
  · rw [huf]
    rfl
  · rw [u.setPort_ne hq, ← hu, s.setPort_ne hq]
  · rw [u.setPort_self, huf]
    rfl

theorem pollPass_due {r : Rail} {l : List Rail} (hl : s.pollList p = r :: l) (ha : s.awake = true)
    (hpass : s.ports[p].pass = true) :
    ∃ t, exec (.pmbusPollPass p) s = .next t ∧ t = { s with ports := t.ports } ∧ (∀ q, q ≠ p → t.ports[q] = s.ports[q])
      ∧ t.ports[p] = { s.ports[p] with due := true } := by
  refine ⟨s.setPort p { s.ports[p] with due := true }, ?_, rfl, fun q hq => s.setPort_ne hq _, s.setPort_self p _⟩
  simp only [exec, execPmbusPollPass, hl, ha, hpass]
  rfl

/-- The end of a poll's transaction, before the port goes on. -/
theorem State.pmbDone_poll {r : Rail} {i : Fin 4} {tx : PmbTx} {res : PmbResult} (hcur : s.ports[p].cur = some tx)
    (hown : tx.owner = .poll r i) : s.pmbDone p res = ((s.pmbFlags r tx.cmd res).pollEnd p r i tx.addr res).kick p := by
  unfold State.pmbDone
  rw [hcur]
  simp only [hown]

theorem poll_goes {r : Rail} {i : Fin 3} {tx : PmbTx} {d : BitVec 16} (hcur : s.ports[p].cur = some tx)
    (hown : tx.owner = .poll r i.castSucc) (hcmd : tx.cmd ≠ 0x79) (ha : s.awake = true) (hr : r ∈ s.pollList p)
    (haddr : tx.addr = s.pmbAddr r) :
    ∃ t, exec (.pmbusTransactionDone p (.done d)) s = .next t ∧ t = { s with ports := t.ports }
      ∧ (∀ q, q ≠ p → t.ports[q] = s.ports[q])
      ∧ t.ports[p] = { s.ports[p] with
        got := s.ports[p].got ++ [d]
        cur := some { owner := .poll r i.succ, addr := s.pmbAddr r, cmd := pollCmd i.succ, data := 0 } } := by
  have hflags : s.pmbFlags r tx.cmd (.done d) = s := by
    refine if_neg ?_
    rw [beq_eq_false_iff_ne.2 hcmd]
    simp
  have hgo : ¬ (!s.awake || !(s.pollList p).contains r || s.pmbAddr r != tx.addr) = true := by
    simp [ha, hr, haddr]
  have hend : s.pollEnd p r i.castSucc tx.addr (.done d) = s.setPort p { s.ports[p] with
      got := s.ports[p].got ++ [d], cur := some (s.pollTx r i.succ) } :=
    (if_neg hgo).trans (dif_pos (show i.castSucc.val < 3 from i.isLt))
  have hexec : exec (.pmbusTransactionDone p (.done d)) s = .next (s.setPort p { s.ports[p] with
      got := s.ports[p].got ++ [d], cur := some (s.pollTx r i.succ) }) := by
    refine congrArg Host.Outcome.next ?_
    rw [State.pmbDone_poll hcur hown, hflags, hend]
    refine State.kick_busy ?_
    rw [s.setPort_self]
    rfl
  exact ⟨_, hexec, rfl, fun q hq => s.setPort_ne hq _, s.setPort_self p _⟩

theorem poll_fails {r : Rail} {tx : PmbTx} (hcur : s.ports[p].cur = some tx) (hown : tx.owner = .poll r 3)
    (ha : s.awake = true) (hr : r ∈ s.pollList p) (haddr : tx.addr = s.pmbAddr r) :
    ∃ t, exec (.smbusTimeout p) s = .next t ∧ s.CycleOf [] [aChFlags r] t ∧ (∀ q, q ≠ p → t.ports[q] = s.ports[q])
      ∧ t.reg (aChFlags r) = s.reg (aChFlags r) ||| 0x8000
      ∧ t.reg (aPmbOk ((r.val - 16) / 32)) = s.reg (aPmbOk ((r.val - 16) / 32)) &&& ~~~(bitw ((r.val - 16) % 32)) := by
  have hconf : s.SameConf (s.flag r 15) := .ofCycle (s.flag_cycleOf r 15) (by simp [railReg_flags])
  have hgo : ¬ (!(s.flag r 15).awake || !((s.flag r 15).pollList p).contains r || (s.flag r 15).pmbAddr r != tx.addr)
      = true := by
    rw [hconf.pollList, hconf.pmbAddr, show (s.flag r 15).awake = true from ha]
    simp [hr, haddr]
  have hend : (s.flag r 15).pollEnd p r 3 tx.addr .failed
      = ((s.flag r 15).setPort p { s.ports[p] with got := [], bad := false, cur := none }).setBit
        (aPmbOk ((r.val - 16) / 32)) ((r.val - 16) % 32) false :=
    (if_neg hgo).trans (dif_neg (by decide))
  have hexec : exec (.smbusTimeout p) s = .next ((((s.flag r 15).setPort p { s.ports[p] with
      got := [], bad := false, cur := none }).setBit (aPmbOk ((r.val - 16) / 32)) ((r.val - 16) % 32) false).kick p) := by
    refine congrArg Host.Outcome.next ?_
    rw [State.pmbDone_poll hcur hown]
    exact congrArg (fun u => State.kick u p) hend
  have hok : ¬ ownReg (aPmbOk ((r.val - 16) / 32)) := by
    simp only [ownReg, aPmbOk, aTlm]
    omega
  have hne : aPmbOk ((r.val - 16) / 32) ≠ aChFlags r := fun h => hok (by rw [h]; exact ownReg_flags r)
  refine ⟨_, hexec, ?_, fun q hq => ?_, ?_, ?_⟩
  · refine State.CycleOf.trans ?_ ((State.CycleOf.ofPorts _ (State.kick_frame _ p)).mono (by simp) (by simp))
    refine State.CycleOf.trans (s.flag_cycleOf r 15) ⟨rfl, fun _ _ => rfl, fun a ha _ => ?_⟩
    exact State.reg_setBit_ne _ (fun h => hok (by rw [← h]; exact ha)) _ _
  · rw [State.kick_others _ hq]
    exact State.setPort_ne _ hq _
  · rw [State.kick_frame]
    refine (State.reg_setBit_ne _ (Ne.symm hne) _ _).trans ?_
    exact s.reg_orReg_self _ _
  · rw [State.kick_frame]
    refine (State.reg_setBit_self _ _ _ _).trans ?_
    have hreg : ((s.flag r 15).setPort p { s.ports[p] with got := [], bad := false, cur := none }).reg
        (aPmbOk ((r.val - 16) / 32)) = s.reg (aPmbOk ((r.val - 16) / 32)) := s.reg_orReg_ne hne _
    rw [hreg]
    simp [setb]

/-! Templates -/

theorem State.pmbDone_template {w : WickId} {read : Bool} {vr : Fin 8} {tx : PmbTx} {res : PmbResult}
    (hcur : s.ports[p].cur = some tx) (hown : tx.owner = .template w read vr) (hb : s.boundRail p tx.addr = none) :
    s.pmbDone p res
      = ((s.setPort p { s.ports[p] with cur := none }).templateEnd w read vr (tx.cmd == 0x01) res).kick p := by
  unfold State.pmbDone
  rw [hcur]
  simp only [hown, hb]

/-- The end of a template's transaction wakes its wick. -/
theorem template_ends {w : WickId} {i : Instr} {x : Wick} (h : exec i s = .next (((s.setPort p { s.ports[p] with
    cur := none }).setWk w x).kick p)) :
    ∃ t, exec i s = .next t ∧ t = { s with ports := t.ports, wicks := t.wicks } ∧ t.wk w = x
      ∧ ∀ u, u ≠ w → t.wk u = s.wk u := by
  refine ⟨_, h, ?_, ?_, fun u hu => ?_⟩
  · rw [State.kick_frame]
    rfl
  · rw [State.kick_frame]
    exact State.wk_setWk_self _ w x
  · rw [State.kick_frame]
    exact State.wk_setWk_ne _ hu x

theorem templateEnd_done {w : WickId} {read : Bool} {vr : Fin 8} {byte : Bool} {d : BitVec 16}
    (hst : (s.wk w).st = .wait .pmbus) : s.templateEnd w read vr byte (.done d) = s.setWk w { s.wk w with
      st := .run, pmbf := false
      v := if read then (s.wk w).v.set vr (if byte then (d &&& 0xFF).setWidth 32 else d.setWidth 32) else (s.wk w).v
      hint := none } := by
  unfold State.templateEnd
  simp only [hst]

theorem templateEnd_failed {w : WickId} {read : Bool} {vr : Fin 8} {byte : Bool}
    (hst : (s.wk w).st = .wait .pmbus) : s.templateEnd w read vr byte .failed = s.setWk w { s.wk w with
      st := .run, pmbf := true, hint := none } := by
  unfold State.templateEnd
  simp only [hst]

end

/-! Slews -/

section
variable {s : State} {r : Rail}

/-- A margin path that is short of STEP by more than a move. -/
def State.pathTo (s : State) (r : Rail) (q : Int) : State :=
  s.setCh r { s.ch r with path := q, slewAt := s.timer (s.slewT r) }

/-- The codes of one move (R315). -/
def moveCodes (r : Rail) : Int := if isExt r then 16 else 1

/-- The path after a move towards STEP. -/
def State.movedPath (s : State) (r : Rail) : Int :=
  if (s.ch r).path < s.step r then min ((s.ch r).path + moveCodes r) (s.step r)
  else max ((s.ch r).path - moveCodes r) (s.step r)

/-- The rail after a move of its slew. -/
def State.slewMoved (s : State) (r : Rail) : State :=
  if s.movedPath r = s.step r then s.slewDone r else s.pathTo r (s.movedPath r)

theorem slewMove_eq (hs : (s.ch r).slew = true) (hat : (s.ch r).slewAt ≠ none) (hp : s.pmbPath r = false) :
    exec (.marginSlewMove r) s = .next (Cyc.finish { s := s.slewMoved r }) := by
  refine congrArg Host.Outcome.next (if_neg ?_)
  simp [hs, hat, hp]

/-- A move that stays short of STEP. -/
theorem slewMove_moves (hs : (s.ch r).slew = true) (hat : (s.ch r).slewAt ≠ none) (hp : s.pmbPath r = false) {q : Int}
    (hq : s.movedPath r = q) (hne : q ≠ s.step r) :
    ∃ t, exec (.marginSlewMove r) s = .next t ∧ s.CycleOf [r] [] t ∧ t.ch r = { s.ch r with
      path := q, slewAt := some (s.cycle + s.slewT r), perturb := (t.ch r).perturb } := by
  have hexec := slewMove_eq hs hat hp
  rw [State.slewMoved, hq, if_neg hne] at hexec
  obtain ⟨hcycle, hrail⟩ := ((State.Acts.start s r).act (f := fun s => s.pathTo r q) (s.setCh_cycleOf r _)
    (s.rail_setCh_self r _)).finishQuiet
  exact ⟨_, hexec, hcycle, State.ch_of_rail hrail⟩

/-- A slew that has reached STEP, before a margined rail returns to ON. -/
def State.slewEnded (s : State) (r : Rail) : State :=
  (s.setCh r { s.ch r with slew := false, slewAt := none, steps := [], path := s.step r }).blankAll r

theorem State.slewEnded_cycleOf (s : State) (r : Rail) : s.CycleOf [r] [] (s.slewEnded r) :=
  (s.setCh_cycleOf r _).trans (State.blankAll_cycleOf _ r)

/-- What the end of a slew shows. -/
def State.SlewOver (s : State) (r : Rail) (x : Chan) : Prop :=
  x.path = s.step r ∧ x.steps = [] ∧ x.slew = false ∧ x.slewAt = none

theorem State.rail_slewEnded (s : State) (r : Rail) : s.SlewOver r ((s.slewEnded r).rail r)
    ∧ ((s.slewEnded r).rail r).st = (s.rail r).st := by
  rw [State.slewEnded, State.rail_blankAll, State.rail_setCh_self]
  exact ⟨⟨rfl, rfl, rfl, rfl⟩, rfl⟩

theorem State.slewDone_eq (s : State) (r : Rail) : s.slewDone r =
    if (s.slewEnded r).step r = 0 && ((s.slewEnded r).rail r).st == .margined then (s.slewEnded r).enter r .on
    else s.slewEnded r := rfl

theorem State.slewDone_returns (h : s.step r = 0) (hst : (s.rail r).st = .margined) :
    s.CycleOf [r] [] (s.slewDone r) ∧ s.SlewOver r ((s.slewDone r).rail r) ∧ ((s.slewDone r).rail r).st = .on := by
  obtain ⟨hover, hsame⟩ := s.rail_slewEnded r
  have hstep : (s.slewEnded r).step r = 0 := ((s.slewEnded_cycleOf r).step List.not_mem_nil).trans h
  rw [State.slewDone_eq, if_pos (by simp [hstep, hsame, hst])]
  refine ⟨(s.slewEnded_cycleOf r).trans (State.enter_cycleOf _ r .on), ?_, ?_⟩
  · rw [State.rail_enter]
    exact hover
  · rw [State.rail_enter]

theorem State.slewDone_stays (h : s.step r ≠ 0) :
    s.CycleOf [r] [] (s.slewDone r) ∧ s.SlewOver r ((s.slewDone r).rail r) ∧ ((s.slewDone r).rail r).st = (s.rail r).st := by
  obtain ⟨hover, hsame⟩ := s.rail_slewEnded r
  have hstep : (s.slewEnded r).step r = s.step r := (s.slewEnded_cycleOf r).step List.not_mem_nil
  rw [State.slewDone_eq, if_neg (by simp [hstep, h])]
  exact ⟨s.slewEnded_cycleOf r, hover, hsame⟩

theorem slewMove_returns (hs : (s.ch r).slew = true) (hat : (s.ch r).slewAt ≠ none) (hp : s.pmbPath r = false)
    (hstep : s.step r = 0) (hst : (s.ch r).st = .margined) (hpath : (s.ch r).path = 1 ∨ (s.ch r).path = -1) :
    ∃ t, exec (.marginSlewMove r) s = .next t ∧ s.CycleOf [r] [] t
      ∧ (t.ch r).st = .on ∧ (t.ch r).path = 0 ∧ (t.ch r).slew = false ∧ (t.ch r).slewAt = none := by
  have hmoved : s.movedPath r = s.step r := by
    unfold State.movedPath moveCodes
    rw [hstep]
    split <;> split <;> omega
  obtain ⟨hcycle, ⟨hp0, -, hslew, hnone⟩, hon⟩ := State.slewDone_returns hstep hst
  have hexec := slewMove_eq hs hat hp
  rw [State.slewMoved, if_pos hmoved] at hexec
  obtain ⟨kcycle, krail⟩ := ((State.Acts.start s r).act (f := fun s => s.slewDone r) hcycle rfl).finishQuiet
  exact ⟨_, hexec, kcycle, (State.shows (·.st) krail :).trans hon,
    (State.shows (·.path) krail :).trans (hp0.trans hstep), (State.shows (·.slew) krail :).trans hslew,
    (State.shows (·.slewAt) krail :).trans hnone⟩

theorem pmbusSlewComplete_ends (hs : (s.ch r).slew = true) (hat : (s.ch r).slewAt ≠ none) (hp : s.pmbPath r = true)
    (hstep : s.step r ≠ 0) :
    ∃ t, exec (.pmbusSlewComplete r) s = .next t ∧ s.CycleOf [r] [] t ∧ (t.ch r).st = (s.ch r).st
      ∧ (t.ch r).path = s.step r ∧ (t.ch r).steps = [] ∧ (t.ch r).slew = false ∧ (t.ch r).slewAt = none := by
  obtain ⟨hcycle, ⟨hp0, hsteps, hslew, hnone⟩, hst⟩ := State.slewDone_stays hstep
  have hexec : exec (.pmbusSlewComplete r) s = .next (Cyc.finish { s := s.slewDone r }) := by
    refine congrArg Host.Outcome.next (if_neg ?_)
    simp [hs, hat, hp]
  obtain ⟨kcycle, krail⟩ := ((State.Acts.start s r).act (f := fun s => s.slewDone r) hcycle rfl).finishQuiet
  exact ⟨_, hexec, kcycle, (State.shows (·.st) krail :).trans hst, (State.shows (·.path) krail :).trans hp0,
    (State.shows (·.steps) krail :).trans hsteps, (State.shows (·.slew) krail :).trans hslew,
    (State.shows (·.slewAt) krail :).trans hnone⟩

/-! The end of a preamble -/

/-- A rising rail whose under-voltage comparator is blanked goes on rising. -/
theorem State.Acts.waits {m : Word} {x : Chan} {c : Cyc} (h : s.Acts r m x c) (hst : x.st = .rising)
    (hpg : x.pg = false) (hb : x.uv.blank.isSome = true) : s.Acts r m { x with pg := c.s.pgNow r } (Cyc.settle 5 c r) := by
  have hun : (c.s.rail r).unjudged = true := by
    rw [h.rail, Chan.unjudged, hb, Bool.true_or]
  rw [c.settle_rising r 4 (by rw [h.rail]; exact hst) ?_ ?_]
  · exact h.act (f := fun s => s.judgePg r) (c.s.judgePg_cycleOf r) (by rw [c.s.rail_judgePg, h.rail])
  · rw [State.pgNow_judgePg, State.pgNow_eq]
    exact Chan.good_unjudged hun (by rw [h.rail]; exact hpg) _
  · rw [h.rail]
    exact .inl (by simpa [Option.isSome_iff_ne_none] using hb)

theorem State.blankTimer_runs (hlen : s.blankLen r ≠ 0) (x : Timer) :
    s.blankTimer r x = some (s.cycle + s.blankLen r) := by
  rw [State.blankTimer, if_neg (by simp [hlen])]
  rfl

theorem preambleEnd_starts (hu : s.use r = true) (hp : (s.ch r).pmbw = true) (hl : s.preambleLeft r = false)
    (hst : (s.ch r).st = .rising) (hlen : s.blankLen r ≠ 0) (hpg : (s.ch r).pg = false) :
    ∃ t, exec (.preambleEnd r) s = .next t ∧ s.CycleOf [r] [] t ∧ (t.ch r).st = .rising ∧ (t.ch r).pmbw = false
      ∧ (t.ch r).started = true ∧ (t.ch r).ton = s.tonTimer r ∧ (t.ch r).uv.blank = some (s.cycle + s.blankLen r) := by
  have hclear := s.setCh_cycleOf r { s.ch r with pmbw := false }
  have hconf : s.SameConf (s.setCh r { s.ch r with pmbw := false }) := .ofCycle hclear (by simp)
  have h1 := (State.Acts.start s r).act
    (f := fun s => (s.setCh r { s.ch r with pmbw := false }).startStage r)
    (hclear.trans (State.startStage_cycleOf _ r)) rfl
  have hstart := State.rail_startStage (s.setCh r { s.ch r with pmbw := false }) r
  rw [hconf.tonTimer, State.rail_setCh_self] at hstart
  have huv := congrArg (fun x : Chan => x.uv.blank) hstart
  simp only [hconf.use, hconf.blankTimer, State.blankTimer_runs hlen, hu, if_true] at huv
  have hrise := (congrArg (fun x : Chan => x.st) hstart).trans hst
  obtain ⟨hcycle, hrail⟩ := (h1.waits hrise ((congrArg (fun x : Chan => x.pg) hstart).trans hpg)
    (Option.isSome_iff_exists.2 ⟨_, huv⟩)).finishQuiet
  refine ⟨_, congrArg Host.Outcome.next (if_neg (by simp [hp, hl])), hcycle, ?_⟩
  exact ⟨(State.shows (·.st) hrail :).trans hrise,
    (State.shows (·.pmbw) hrail :).trans (congrArg (fun x : Chan => x.pmbw) hstart),
    (State.shows (·.started) hrail :).trans (congrArg (fun x : Chan => x.started) hstart),
    (State.shows (·.ton) hrail :).trans (congrArg (fun x : Chan => x.ton) hstart),
    (State.shows (·.uv.blank) hrail :).trans huv⟩

end

/-- Settles O21, port by port and slew by slew. -/
theorem pmbusAndMarginSlews : Obligations.PmbusAndMarginSlews := by
  unfold Obligations.PmbusAndMarginSlews
  refine ⟨fun s p => ⟨fun r l hl ha hpass hcur hq => pollPass_starts hl ha hpass hcur hq,
    fun r l hl ha hpass => pollPass_due hl ha hpass,
    fun r i tx d hcur hown hcmd ha hr haddr => poll_goes hcur hown hcmd ha hr haddr,
    fun r tx hcur hown ha hr haddr => poll_fails hcur hown ha hr haddr,
    fun w read vr tx d hcur hown hst hb => ⟨template_ends (p := p) ?_, template_ends (p := p) ?_⟩⟩,
    fun s r hs hat hp => ⟨fun h => slewMove_moves hs hat hp ?_ (by omega), fun h => slewMove_moves hs hat hp ?_ (by omega),
      fun hstep hst hpath => slewMove_returns hs hat hp hstep hst hpath⟩,
    fun s r hs hat hp hstep => pmbusSlewComplete_ends hs hat hp hstep,
    fun s r hu hp hl hst _ hlen hpg => preambleEnd_starts hu hp hl hst hlen hpg⟩
  · refine congrArg Host.Outcome.next ?_
    rw [State.pmbDone_template hcur hown hb, templateEnd_done (by exact hst)]
    simp only [beq_iff_eq]
    rfl
  · refine congrArg Host.Outcome.next ?_
    rw [State.pmbDone_template hcur hown hb, templateEnd_failed (by exact hst)]
    rfl
  · unfold State.movedPath moveCodes
    split at h <;> split <;> omega
  · unfold State.movedPath moveCodes
    split at h <;> split <;> omega

end Sys2Proof.Machine
end

section
/-! O38: a reaction that takes effect while the whole-device shutdown waits for a rank whose ordered program can start. -/

namespace Sys2Proof.Machine
open Sys2Proof

/-- A RETRY of rail 0 is due in RUN while the shutdown waits for domain 0, whose program wick is at rest and whose
up-program is ordered. -/
def orderedDuringRetry : State := { State.reset with
  regs := [(aChCfg 0, bitw 29), (aChReact 0, put 0 26 24 1), (aDCfg 0, bitw 31)]
  chans := (Vector.replicate 64 {}).set 0 { st := .tripped }
  doms := (Vector.replicate 16 {}).set 0 { next := some (.up, 0) }
  shut := .rank 0 [0]
  faults := { reacts := [[{ rail := 0, ev := .ov, code := 1, injected := false }]] }
  power := { phase := .run } }

/-- The reaction's cycle starts the program (R235, R265). -/
theorem orderedDuringRetry_starts : (match exec .reactionApply orderedDuringRetry with
    | .next t => (t.dom 0).prog
    | _ => .none) = .up := by
  decide +kernel

/-- Refutes O38: the cycle of a reaction also starts the programs that the shutdown's rank has ordered, so that a domain
and a wick change. -/
theorem not_raisesAndReactions : ¬ Obligations.RaisesAndReactions := by
  unfold Obligations.RaisesAndReactions
  intro ⟨_, h⟩
  obtain ⟨hretry, -⟩ := h orderedDuringRetry { rail := 0, ev := .ov, code := 1, injected := false } [] rfl (by decide)
    rfl (by decide)
  obtain ⟨t, hexec, ⟨hframe, -⟩, -⟩ := hretry rfl (by decide)
  have hstart := orderedDuringRetry_starts
  rw [hexec, hframe] at hstart
  exact nomatch hstart

end Sys2Proof.Machine
end
section
/-! O39: the limit of a rank whose program's wick already stands. -/

namespace Sys2Proof.Machine
open Sys2Proof

/-- The shutdown waits for domain 0, whose up-program is not over although its wick stands. -/
def standingProgram : State := { State.reset with
  doms := (Vector.replicate 16 {}).set 0 { prog := .up }, shut := .rank 0 [0], power := { phase := .run } }

/-- Only a wick that runs or waits is ordered to stop (R265). -/
theorem standingProgram_not_stopped : (match exec .shutdownRankTimeout standingProgram with
    | .next t => (t.wk 0).stop
    | _ => true) = false := by
  decide +kernel

/-- Refutes O39: at the limit of its rank a program ends, but a wick that stands is not ordered to stop. -/
theorem not_shutdownRule : ¬ Obligations.ShutdownRule := by
  unfold Obligations.ShutdownRule
  intro ⟨h, _⟩
  obtain ⟨t, hexec, -, -, hstop⟩ := (h standingProgram [0] rfl).2 (by decide +kernel)
  obtain ⟨-, -, hwick⟩ := hstop 0 (List.mem_singleton.2 rfl) (by decide) rfl
  have hstands := standingProgram_not_stopped
  rw [hexec] at hstands
  exact absurd (hwick.symm.trans hstands) (by decide)

end Sys2Proof.Machine
end

section
/-! SUPPORT. Fields and bits of a register beside a write of another field or bit. -/

namespace Sys2Proof.Machine
open Sys2Proof

theorem wfld_setb_ne (w : Word) {hi lo i : Nat} (hi32 : i < 32) (hd : i < lo ∨ hi < i) (b : Bool) :
    wfld (setb w i b) hi lo = wfld w hi lo := by
  apply Nat.eq_of_testBit_eq
  intro k
  rw [testBit_wfld, testBit_wfld]
  by_cases hlt : k < hi + 1 - lo
  · have hk := tst_setb w hi32 b (lo + k)
    rw [if_neg (by omega)] at hk
    exact congrArg _ hk
  · simp [hlt]

section
variable (s : State) (a : Nat)

theorem State.fld_setBit_ne {hi lo i : Nat} (hi32 : i < 32) (hd : i < lo ∨ hi < i) (b : Bool) :
    (s.setBit a i b).fld a hi lo = s.fld a hi lo := by
  rw [State.fld, State.reg_setBit_self, wfld_setb_ne _ hi32 hd, State.fld]

theorem State.bit_setFld_ne {hi lo i : Nat} (v : Nat) (h : lo ≤ hi) (hd : i < lo ∨ hi < i) :
    (s.setFld a hi lo v).bit a i = s.bit a i := by
  rw [State.bit, State.reg_setFld_self, tst, getLsbD_put_ne _ v h hd, State.bit, tst]

theorem State.fld_setBit_addr {c : Nat} (h : c ≠ a) (hi lo i : Nat) (b : Bool) :
    (s.setBit a i b).fld c hi lo = s.fld c hi lo := by
  rw [State.fld, s.reg_setBit_ne h, State.fld]

theorem State.fld_setFld_addr {c : Nat} (h : c ≠ a) (hi lo hi' lo' v : Nat) :
    (s.setFld a hi lo v).fld c hi' lo' = s.fld c hi' lo' := by
  rw [State.fld, s.reg_setFld_ne h, State.fld]

theorem State.bit_setFld_addr {c : Nat} (h : c ≠ a) (hi lo i v : Nat) :
    (s.setFld a hi lo v).bit c i = s.bit c i := by
  rw [State.bit, s.reg_setFld_ne h, State.bit]

end

end Sys2Proof.Machine
end

section
/-! O23: the turn, the phases and the end of a bank's self-test (R106 to R114). -/

namespace Sys2Proof.Machine
open Sys2Proof

/-! What a comparator of a bank depends on -/

/-- The channels, the AUX inputs and every register below MON_STSTAT are as before. -/
structure State.SameBanks (s t : State) : Prop where
  chans : t.chans = s.chans
  aux : t.aux = s.aux
  reg : ∀ a, a < aStStat → t.reg a = s.reg a

namespace State.SameBanks

variable {s t : State} (h : s.SameBanks t)
include h

theorem bitAux (n : Fin 16) (i : Nat) : t.bit (aMonAux n) i = s.bit (aMonAux n) i := by
  rw [State.bit, State.bit, h.reg _ (by simp only [aMonAux, aStStat, aMon]; omega)]

theorem fldAux (n : Fin 16) (i j : Nat) : t.fld (aMonAux n) i j = s.fld (aMonAux n) i j := by
  rw [State.fld, State.fld, h.reg _ (by simp only [aMonAux, aStStat, aMon]; omega)]

theorem use (r : Rail) : t.use r = s.use r := by
  rw [State.use, State.use, State.bit, State.bit, h.reg _ (by simp only [aChCfg, aCh, aStStat, aMon]; omega)]

theorem auxConf (n : Fin 16) : t.auxConf n = s.auxConf n := by
  have hany : ∀ m : Nat, m < n.val → (t.bit (aMonAux m) 31 && t.fld (aMonAux m) 30 25 == t.fld (aMonAux n) 30 25)
      = (s.bit (aMonAux m) 31 && s.fld (aMonAux m) 30 25 == s.fld (aMonAux n) 30 25) := fun m hm => by
    rw [h.bitAux ⟨m, by omega⟩, h.fldAux ⟨m, by omega⟩, h.fldAux]
  unfold State.auxConf
  rw [h.bitAux]
  congr 1
  rw [Bool.eq_iff_iff, List.any_eq_true, List.any_eq_true]
  constructor
  · exact fun ⟨m, hm, hx⟩ => ⟨m, hm, (hany m (List.mem_range.1 hm)).symm.trans hx⟩
  · exact fun ⟨m, hm, hx⟩ => ⟨m, hm, (hany m (List.mem_range.1 hm)).trans hx⟩

theorem auxRail (n : Fin 16) : t.auxRail n = s.auxRail n := by
  unfold State.auxRail
  simp only [h.bitAux, h.fldAux, h.auxConf]

theorem bankRail (b : Nat) (i : Fin 16) : t.bankRail b i = s.bankRail b i := by
  simp only [State.bankRail, h.auxRail]

theorem cmpUsed (b : Nat) (i : Fin 16) : t.cmpUsed b i = s.cmpUsed b i := by
  unfold State.cmpUsed
  rw [h.bankRail]
  split
  · exact h.use _
  · rfl

theorem cmpOut (b : Nat) (i : Fin 16) : t.cmpOut b i = s.cmpOut b i := by
  unfold State.cmpOut State.ch
  rw [h.bankRail, h.chans, h.aux]

end State.SameBanks

/-! The turn of a bank -/

section
variable {s : State}

theorem selfTestTurn_isolates {b : Fin 11} (hon : s.bit aStCtl 31 = true) (hdue : s.dueBank = some b.val)
    (hbusy : s.bit aStStat 31 = false) (ha : s.awake = true) (hskip : s.skipTurn b = false) :
    ∃ t, exec (.selfTestTurn b) s = .next t ∧ t = { s with regs := t.regs, selfTest := t.selfTest }
      ∧ (∀ a, a ≠ aStStat → t.reg a = s.reg a) ∧ t.isolated b = true ∧ t.selfTest.phase = 0
      ∧ t.selfTest.skips[b] = 0 ∧ t.selfTest.next = b.val + 1 := by
  refine ⟨_, congrArg Host.Outcome.next ((if_neg (by simp [hon, hdue, hbusy, ha])).trans (if_neg (by simp [hskip]))),
    rfl, fun a hne => ?_, ?_, rfl, Vector.getElem_set_self _, rfl⟩
  · exact (State.reg_setBit_ne _ hne _ _).trans (State.reg_setFld_ne _ hne _ _ _)
  · refine Bool.and_eq_true_iff.2 ⟨State.bit_setBit_self _ _ (by decide) _, beq_iff_eq.2 ?_⟩
    refine (State.fld_setBit_ne _ _ (by decide) (by decide) _).trans ?_
    refine (s.fld_setFld_self aStStat b.val (by decide) (by decide)).trans (Nat.mod_eq_of_lt ?_)
    omega

/-! A phase -/

theorem selfTestPhase_goes {out : BitVec 16} (hbusy : s.bit aStStat 31 = true) (hp : s.selfTest.phase < 11) :
    ∃ t, exec (.selfTestPhase out) s = .next t ∧ t = { s with selfTest := t.selfTest }
      ∧ t.selfTest.phase = s.selfTest.phase + 1
      ∧ (s.selfTest.phase ∈ [3, 7] → s.bit aStCtl 29 = true → bankAbove s.testBank = true →
        t.selfTest.fail = s.selfTest.fail ||| (~~~out &&& bits16 (s.cmpUsed s.testBank))) := by
  have hrun : ¬ ((!s.bit aStStat 31 || 11 ≤ s.selfTest.phase) = true) := by
    simp only [hbusy, Bool.not_true, Bool.false_or, decide_eq_true_eq]
    omega
  refine ⟨_, congrArg Host.Outcome.next (if_neg hrun), rfl, ?_, fun h37 htie habove => ?_⟩
  · dsimp only
    split <;> split <;> rfl
  · have hxor : out ^^^ 0xFFFF = ~~~out := BitVec.xor_allOnes
    have hphase : s.selfTest.phase = 3 ∨ s.selfTest.phase = 7 := by simpa using h37
    rcases hphase with hphase | hphase <;> simp [hphase, htie, habove, ← hxor]

/-! The end of a bank's test -/

/-- A comparator whose output before isolation, as its cover left it and as it is restored are the same comes back as it
is. -/
theorem Cyc.restoreCmp_same {c : Cyc} {b : Nat} {i : Fin 16} {pre out : Bool}
    (h : c.s.cmpUsed b i = true → c.s.cmpOut b i = out ∧ pre = out) : c.restoreCmp b i pre out = c := by
  unfold Cyc.restoreCmp
  dsimp only
  refine if_pos ?_
  cases hu : c.s.cmpUsed b i
  · rfl
  · obtain ⟨hout, hpre⟩ := h hu
    simp [hout, hpre]

theorem Cyc.restoreAll_same {c : Cyc} {b : Nat} {pre out : BitVec 16} (l : List (Fin 16))
    (h : ∀ i, c.s.cmpUsed b i = true → c.s.cmpOut b i = out.getLsbD i.val ∧ pre.getLsbD i.val = out.getLsbD i.val) :
    c.forAll l (fun c i => c.restoreCmp b i (pre.getLsbD i.val) (out.getLsbD i.val)) = c := by
  induction l with
  | nil => rfl
  | cons i l ih =>
    refine Eq.trans ?_ ih
    exact congrArg (fun d => Cyc.forAll d l _) (Cyc.restoreCmp_same (h i))

/-- The test's results have joined the bank's word. -/
def State.testWritten (s : State) : State :=
  (s.orReg (aStFail s.testBank) ((s.selfTest.nj.setWidth 32 <<< 16) ||| s.selfTest.fail.setWidth 32)).setBit aStStat 31 false

/-- And the bank serves again. -/
def State.testEnded (s : State) : State :=
  { s.testWritten with
    selfTest := { s.selfTest with nextAt := s.testWritten.timer (100000 * s.testWritten.fld aStCtl 23 16) } }

theorem aStFail_ne (b : Nat) : aStFail b ≠ aStStat := by
  simp only [aStFail, aStStat, aMon]
  omega

theorem State.testEnded_sameBanks : s.SameBanks s.testEnded := by
  refine ⟨rfl, rfl, fun a ha => ?_⟩
  refine (State.reg_setBit_ne _ (Nat.ne_of_lt ha) _ _).trans (s.reg_orReg_ne (Nat.ne_of_lt ?_) _)
  simp only [aStFail, aStStat, aMon] at ha ⊢
  omega

theorem State.testEnded_cycleOf :
    { s with selfTest := s.testEnded.selfTest }.CycleOf [] [aStFail s.testBank, aStStat] s.testEnded := by
  refine ⟨rfl, fun _ _ => rfl, fun a _ hne => ?_⟩
  simp only [List.mem_cons, List.not_mem_nil, or_false, not_or] at hne
  exact (State.reg_setBit_ne _ hne.2 _ _).trans (s.reg_orReg_ne hne.1 _)

/-- The cycle of the test's end, with the raise of a failed test. -/
def State.testCyc (s : State) : Cyc :=
  if s.selfTest.fail = 0 then { s := s.testEnded } else Cyc.raise { s := s.testEnded } srcSelfTest

theorem State.testCyc_s : s.testCyc.s = s.testEnded ∧ s.testCyc.groupOff = [] := by
  unfold State.testCyc
  split <;> exact ⟨rfl, rfl⟩

theorem selfTestBankEnd_cyc {out : BitVec 16} (hbusy : s.bit aStStat 31 = true) (hp : s.selfTest.phase = 11)
    (hsame : ∀ i, s.cmpUsed s.testBank i = true →
      s.cmpOut s.testBank i = out.getLsbD i.val ∧ s.selfTest.pre.getLsbD i.val = out.getLsbD i.val) :
    ∃ c : Cyc, c.s = s.testEnded ∧ c.groupOff = [] ∧ exec (.selfTestBankEnd out) s = .next c.finish := by
  obtain ⟨hs, hg⟩ := s.testCyc_s
  have hrun : exec (.selfTestBankEnd out) s = .next (Cyc.forAll s.testCyc (List.finRange 16) (fun c i =>
      c.restoreCmp s.testBank i (s.selfTest.pre.getLsbD i.val) (out.getLsbD i.val))).finish := by
    show execSelfTestBankEnd out s = _
    rw [execSelfTestBankEnd, if_neg (by simp [hbusy, hp])]
    rfl
  refine ⟨s.testCyc, hs, hg, ?_⟩
  rw [hrun, Cyc.restoreAll_same]
  intro i hu
  rw [hs, s.testEnded_sameBanks.cmpUsed] at hu
  rw [hs, s.testEnded_sameBanks.cmpOut]
  exact hsame i hu

theorem State.CycleOf.selfTest {t : State} {rails : List Rail} {regs : List Nat} (h : s.CycleOf rails regs t) :
    t.selfTest = s.selfTest := by
  obtain ⟨hfields, -, -⟩ := h
  rw [hfields]

theorem selfTestBankEnd_serves {out : BitVec 16} (hbusy : s.bit aStStat 31 = true) (hp : s.selfTest.phase = 11)
    (hb : s.testBank < 11) (hsame : ∀ i, s.cmpUsed s.testBank i = true →
      s.cmpOut s.testBank i = out.getLsbD i.val ∧ s.selfTest.pre.getLsbD i.val = out.getLsbD i.val) :
    ∃ t, exec (.selfTestBankEnd out) s = .next t
      ∧ { s with selfTest := t.selfTest }.CycleOf [] [aStFail s.testBank, aStStat] t
      ∧ t.bit aStStat 31 = false
      ∧ t.reg (aStFail s.testBank)
        = s.reg (aStFail s.testBank) ||| ((s.selfTest.nj.setWidth 32 <<< 16) ||| s.selfTest.fail.setWidth 32) := by
  obtain ⟨c, hs, hg, hexec⟩ := selfTestBankEnd_cyc hbusy hp hsame
  have hfin := Cyc.finish_cycleOf c hg false
  rw [hs] at hfin
  have hself : c.finish.selfTest = s.testEnded.selfTest := hfin.selfTest
  have hown : ownReg (aStFail s.testBank) := by
    simp only [ownReg, aStFail, aMon]
    omega
  refine ⟨_, hexec, ?_, ?_, ?_⟩
  · rw [hself]
    exact s.testEnded_cycleOf.trans (hfin.mono (by simp) (by simp))
  · rw [State.bit, hfin.reg (by unfold ownReg; decide) List.not_mem_nil]
    exact State.bit_setBit_self _ _ (by decide) _
  · rw [hfin.reg hown List.not_mem_nil]
    exact (State.reg_setBit_ne _ (aStFail_ne _) _ _).trans (s.reg_orReg_self _ _)

end

/-- Settles O23, instant by instant of a bank's test. -/
theorem selfTestRuns : Obligations.SelfTestRuns := by
  unfold Obligations.SelfTestRuns
  exact ⟨fun s b hon hdue hbusy ha hskip => selfTestTurn_isolates hon hdue hbusy ha hskip,
    fun s out hbusy hp => selfTestPhase_goes hbusy hp,
    fun s out hbusy hp hb hsame => selfTestBankEnd_serves hbusy hp hb hsame⟩

end Sys2Proof.Machine
end

section
/-! O37: requests of a domain's owner, the programs they start or order, and the break of a hitch (R229 to R250, R257 to
R268). -/

namespace Sys2Proof.Machine
open Sys2Proof

/-! A pending ON is withdrawn, and a hitch given back -/

/-- A domain whose pending ON is withdrawn (R247). -/
def Domain.withdrawn (x : Domain) : Domain := { x with pendUp := false, pendWd := x.pendUp || x.pendWd }

theorem Domain.withdrawn_of_not {x : Domain} (h : x.pendUp = false) : x.withdrawn = x := by
  cases x
  cases h
  rfl

section
variable {s : State} {d : DomId}

theorem State.setDom_same (s : State) (d : DomId) : s.setDom d (s.dom d) = s := by
  simp [State.setDom, State.dom]

theorem State.withdrawUp_run (h : s.power.phase = .run) : s.withdrawUp d = s.setDom d (s.dom d).withdrawn := by
  unfold State.withdrawUp State.failing
  rw [h]
  cases hp : (s.dom d).pendUp
  · rw [Domain.withdrawn_of_not hp, s.setDom_same]
    rfl
  · simp [Domain.withdrawn, hp]

/-- A hitch that no wick waits for is given back. -/
theorem State.releaseHitch_free (h : s.power.phase = .run) (hq : (s.dom d).queue = []) :
    s.releaseHitch d = s.setDom d { (s.dom d).withdrawn with owner := .none, epoch := 0 } := by
  have hfree : (s.withdrawUp d).setDom d { (s.withdrawUp d).dom d with owner := .none, epoch := 0 }
      = s.setDom d { (s.dom d).withdrawn with owner := .none, epoch := 0 } := by
    rw [State.withdrawUp_run h, State.dom_setDom_self, State.setDom_setDom]
  unfold State.releaseHitch
  rw [hfree]
  unfold State.grantHitch
  rw [State.dom_setDom_self]
  have hq' : (s.dom d).withdrawn.queue = [] := hq
  simp only [hq']

/-! Requests that act at once -/

/-- Of the domains only `d` differs. -/
theorem State.setDom_answer {i : Instr} {x : Domain} (h : exec i s = .next (s.setDom d x)) :
    ∃ t, exec i s = .next t ∧ t = { s with doms := t.doms } ∧ (∀ e, e ≠ d → t.dom e = s.dom e) ∧ t.dom d = x :=
  ⟨_, h, rfl, fun _ he => s.dom_setDom_ne he x, s.dom_setDom_self d x⟩

section
variable {who : Who} (hs : s.serves = true) (hsd : s.sdact = false) (ho : ownerOf who ≠ .none)
include hs hsd ho

theorem dcmdUnhitch_gives (hr : s.power.phase = .run) (hown : s.owns (ownerOf who) d = true)
    (hq : (s.dom d).queue = []) : exec (.dcmdUnhitch who d) s
      = .next (s.setDom d { (s.dom d).withdrawn with owner := .none, epoch := 0 }) := by
  refine congrArg Host.Outcome.next ((State.fab_serves hs _).trans ?_)
  simp [State.dcmd, ho, hsd, hown, State.releaseHitch_free hr hq]

theorem dcmdUnhitch_refused (hown : s.owns (ownerOf who) d = false) : exec (.dcmdUnhitch who d) s
    = .next (s.setDom d { s.dom d with reqRef := true }) := by
  refine congrArg Host.Outcome.next ((State.fab_serves hs _).trans ?_)
  simp [State.dcmd, ho, hsd, hown, State.reqRefuse]

variable (hp : s.takesPart d = true)
include hp

theorem dcmdHitch_takes (hfree : (s.dom d).owner = .none) (hq : (s.dom d).queue = []) :
    exec (.dcmdHitch who d) s
      = .next (s.setDom d { s.dom d with owner := ownerOf who, epoch := s.epochOf (ownerOf who) }) := by
  refine congrArg Host.Outcome.next ((State.fab_serves hs _).trans ?_)
  simp [State.dcmd, ho, hsd, hp, State.ownerHitch, hfree, hq]

theorem dcmdOn_refused (hown : s.owns (ownerOf who) d = false) : exec (.dcmdOn who d false) s
    = .next (s.setDom d { s.dom d with reqRef := true }) := by
  refine congrArg Host.Outcome.next ((State.fab_serves hs _).trans ?_)
  simp [State.dcmd, ho, hsd, hp, hown, State.reqRefuse]

theorem dcmdOff_refused (hown : s.owns (ownerOf who) d = false) : exec (.dcmdOff who d) s
    = .next (s.setDom d { s.dom d with reqRef := true }) := by
  refine congrArg Host.Outcome.next ((State.fab_serves hs _).trans ?_)
  simp [State.dcmd, ho, hsd, hp, hown, State.reqRefuse]

theorem dcmdMargin_refused (hown : s.owns (ownerOf who) d = false) (r : Rail) (v : BitVec 12) :
    exec (.dcmdMargin who d r v) s = .next (s.setDom d { s.dom d with reqRef := true }) := by
  refine congrArg Host.Outcome.next ((State.fab_serves hs _).trans ?_)
  simp [State.dcmd, ho, hsd, hp, hown, State.reqRefuse]

variable (hown : s.owns (ownerOf who) d = true)
include hown

theorem dcmdOn_runs : exec (.dcmdOn who d false) s = .next (Cyc.onNow { s := s } d 0).finish := by
  refine congrArg Host.Outcome.next ((State.fab_serves hs _).trans ?_)
  simp [State.dcmd, ho, hsd, hp, hown, State.cyc]

theorem dcmdOff_runs : exec (.dcmdOff who d) s = .next (Cyc.offNow { s := s } d 0).finish := by
  refine congrArg Host.Outcome.next ((State.fab_serves hs _).trans ?_)
  simp [State.dcmd, ho, hsd, hp, hown, State.cyc]

/-- MARGIN of a rail of the domain, which runs no program. -/
theorem dcmdMargin_margins {r : Rail} {v : BitVec 12} (hdom : s.domOf r = some d) (hprog : (s.dom d).prog = .none)
    (hu : s.use r = true) (hst : (s.ch r).st = .on) (hpmb : s.pmbPath r = false) (hok : s.stepOk r false v.toInt = true)
    (hne : v.toInt ≠ s.step r) :
    ∃ t, exec (.dcmdMargin who d r v) s = .next t ∧ s.CycleOf [r] [aChMargin r] t ∧ (t.ch r).st = .margined
      ∧ t.step r = v.toInt ∧ (t.ch r).slew = true := by
  have hexec : exec (.dcmdMargin who d r v) s
      = .next (Cyc.hitsWith { s := s } [{ rail := r, cause := .margin v.toInt }] []).finish := by
    refine congrArg Host.Outcome.next ((State.fab_serves hs _).trans ?_)
    simp [State.dcmd, ho, hsd, hp, hown, State.ownerMargin, hdom, hprog, hst, hpmb, hok, State.cyc, Cyc.hitsWith_nil]
  obtain ⟨hcycle, hg, hmarg, hstep, hslew, -⟩ := Cyc.margin_shows (c := { s := s }) r v.toInt hst hu hpmb hok hne rfl
  refine ⟨_, hexec, Cyc.finish_acts hcycle hg, ?_, ?_, ?_⟩
  · exact (State.shows (·.st) (Cyc.rail_finish hg r) :).trans hmarg
  · rw [State.step, State.fld, Cyc.reg_finish hg (ownReg_margin r)]
    exact hstep
  · exact (State.shows (·.slew) (Cyc.rail_finish hg r) :).trans hslew

end

/-! Programs that start -/

/-- The wick is at rest (R173). -/
def Wick.rests (x : Wick) : Prop := x.st = .idle ∨ x.st = .halted ∨ x.st = .fault

/-- The domain `d` is now `x`, program `p` starts on its wick, and no other domain, no other wick and no rail acts. -/
def State.Begun (s : State) (d : DomId) (x : Domain) (p : Prog) (t : State) : Prop :=
  t.dom d = x ∧ (∀ e, e ≠ d → t.dom e = s.dom e) ∧ (t.wk (s.pwick d)).st = .run
    ∧ (t.wk (s.pwick d)).pc = s.entry d p ∧ (t.wk (s.pwick d)).epoch = (s.wk (s.pwick d)).epoch + 1
    ∧ (∀ u, u ≠ s.pwick d → t.wk u = s.wk u) ∧ ∀ r, (t.ch r).st = (s.ch r).st

/-- A cycle that starts a program begins it. -/
theorem State.started_begun {u : State} {x : Domain} (p : Prog)
    (hw : u.wicks = ((s.setDom d x).started d p 0 x.last).wicks)
    (hd : u.doms = ((s.setDom d x).started d p 0 x.last).doms) (hc : u.chans = s.chans) :
    s.Begun d { x with prog := p, src := 0, next := none } p (Cyc.finish { s := u }) := by
  have hend := Cyc.finish_cycleOf { s := u } rfl false
  generalize Cyc.finish { s := u } = t at hend
  have hdom : ∀ e, t.dom e = ((s.setDom d x).started d p 0 x.last).dom e := fun e =>
    (hend.dom e).trans (congrArg (fun v : Vector Domain 16 => v[e.val]) hd)
  have hwick : ∀ w, t.wk w = ((s.setDom d x).started d p 0 x.last).wk w := fun w =>
    (hend.wk w).trans (congrArg (fun v : Vector Wick 16 => v[w.val]) hw)
  have hself : t.wk (s.pwick d) = (s.wk (s.pwick d)).startedAt (s.entry d p) :=
    (hwick _).trans ((s.setDom d x).started_wk d p 0 x.last)
  refine ⟨?_, fun e he => ?_, by rw [hself]; rfl, by rw [hself]; rfl, by rw [hself]; rfl, fun w hne => ?_, fun r => ?_⟩
  · rw [hdom, State.started_dom, State.dom_setDom_self]
  · rw [hdom, State.started_dom_ne _ he, State.dom_setDom_ne _ he]
  · exact (hwick w).trans (State.started_wk_ne (s.setDom d x) hne p 0 x.last)
  · exact (State.shows (·.st) (hend.rail List.not_mem_nil) :).trans
      (congrArg (fun v : Vector Chan 64 => v[r.val].st) hc)

theorem State.releaseOverrides_frame (s : State) (d : DomId) :
    s.releaseOverrides d = { s with regs := (s.releaseOverrides d).regs } := by
  refine List.foldlRecOn (motive := fun (t : State) => t = { s with regs := t.regs }) _ _ rfl fun t ht k _ => ?_
  split
  · rw [ht]
    rfl
  · exact ht

/-- Of a program that starts where none runs, and whose domain and wick are as they may be, the cycle brings about no
more than the start. -/
theorem Cyc.launch_up {c : Cyc} (n : Nat) (hcan : c.s.canLaunch d = true) (hnext : (c.s.dom d).next = some (.up, 0))
    (hprog : (c.s.dom d).prog = .none) :
    Cyc.launch (n + 1) [d] c = c.map (fun s => (s.started d .up 0 (s.dom d).last).releaseOverrides d) := by
  have hgo : [d].filter c.s.canLaunch = [d] := by simp [hcan]
  have hdowns : [d].filter c.s.downOrdered = [] := by simp [State.downOrdered, hnext]
  have hone : c.forAll [d] Cyc.launchOne = c.map (fun s => (s.started d .up 0 (s.dom d).last).releaseOverrides d) := by
    simp only [Cyc.forAll, List.foldl_cons, List.foldl_nil, Cyc.launchOne, hnext, hprog]
    rfl
  simp [Cyc.launch, hgo, hdowns, hone]

theorem Cyc.launch_downFirst {c : Cyc} (n : Nat) (hcan : c.s.canLaunch d = true)
    (hnext : (c.s.dom d).next = some (.down, 0)) (hprog : (c.s.dom d).prog = .none)
    (hrails : ∀ r ∈ c.s.railsOf d, (c.s.ch r).st ≠ .retryWait ∧ (c.s.ch r).pend = false)
    (hdep : ∀ e, c.s.dependsOn e d = false) :
    Cyc.launch (n + 1) [d] c = c.map (fun s => s.started d .down 0 (s.dom d).last) := by
  have hgo : [d].filter c.s.canLaunch = [d] := by simp [hcan]
  have hdowns : [d].filter c.s.downOrdered = [d] := by simp [State.downOrdered, hnext]
  have hsame : (c.s.started d .down 0 (c.s.dom d).last).railsOf d = c.s.railsOf d :=
    State.railsOf_congr (s := c.s) (t := c.s.started d .down 0 (c.s.dom d).last) rfl
      (c.s.started_conf d .down 0 (c.s.dom d).last) d
  have hone : c.forAll [d] Cyc.launchOne = c.map (fun s => s.started d .down 0 (s.dom d).last) := by
    have hbegun : c.forAll [d] Cyc.launchOne
        = (c.map (fun s => s.started d .down 0 (s.dom d).last)).downDisables d := by
      simp only [Cyc.forAll, List.foldl_cons, List.foldl_nil, Cyc.launchOne, hnext, hprog]
      rfl
    rw [hbegun, Cyc.downDisables_none]
    intro r hr
    exact hrails r (hsame ▸ hr)
  have hdep' : ∀ e, (c.s.started d .down 0 (c.s.dom d).last).dependsOn e d = false := hdep
  have hnone : allDoms.filter (fun (e : DomId) =>
      (c.map (fun s => s.started d .down 0 (s.dom d).last)).s.bit (aDCfg e) 26
        && [d].any (fun f => (c.map (fun s => s.started d .down 0 (s.dom d).last)).s.dependsOn e f)) = [] :=
    List.filter_eq_nil_iff.2 fun e _ => by
      simp only [Cyc.map, List.any_cons, List.any_nil, hdep', Bool.or_false, Bool.and_false, Bool.false_eq_true,
        not_false_eq_true]
  simp only [Cyc.launch, hgo, hdowns, hone, hnone, List.isEmpty_nil, if_true]

/-- Nothing starts of a domain whose wick is busy, or that has no program ordered. -/
theorem Cyc.launch_none {c : Cyc} (n : Nat) (hcan : c.s.canLaunch d = false) : Cyc.launch (n + 1) [d] c = c := by
  have hgo : [d].filter c.s.canLaunch = [] := by simp [hcan]
  simp [Cyc.launch, hgo, Cyc.forAll]

/-- A domain with a program ordered. -/
def Domain.ordered (x : Domain) (p : Prog) : Domain := { x with next := some (p, 0) }

theorem Cyc.order_rests {c : Cyc} (hw : (c.s.wk (c.s.pwick d)).rests) (p : Prog) :
    c.order d p 0 = c.map (fun s => s.setDom d ((s.dom d).ordered p)) := by
  have hw' : ((c.s.setDom d ((c.s.dom d).ordered p)).wk (c.s.pwick d)).rests := hw
  unfold Cyc.order Cyc.map
  obtain h | h | h := hw' <;> simp only [Domain.ordered] at h <;> simp only [h, Domain.ordered]

theorem State.canLaunch_rests {x : Domain} {p : Prog} (hw : (s.wk (s.pwick d)).rests) (hp : s.takesPart d = true)
    (hx : x.conf = (s.dom d).conf) : (s.setDom d (x.ordered p)).canLaunch d = true := by
  have hpart : (s.setDom d (x.ordered p)).takesPart d = true :=
    (State.takesPart_congr (s := s) (t := s.setDom d (x.ordered p)) rfl (s.conf_setDom d hx) d).trans hp
  have hw' : ((s.setDom d (x.ordered p)).wk ((s.setDom d (x.ordered p)).pwick d)).rests := hw
  unfold State.canLaunch
  rw [hpart, s.dom_setDom_self]
  obtain h | h | h := hw' <;> rw [h] <;> rfl

variable (hw : (s.wk (s.pwick d)).rests) (hp : s.takesPart d = true)
include hw hp

/-- An up-program that is ordered at rest starts. -/
theorem State.up_begun {x : Domain} (hprog : x.prog = .none) (hx : x.conf = (s.dom d).conf) (hn : x.next = none) :
    s.Begun d { x with prog := .up, src := 0 } .up
      (Cyc.finish (Cyc.launch 17 [d] { s := s.setDom d (x.ordered .up) })) := by
  have hself := s.dom_setDom_self d (x.ordered .up)
  rw [Cyc.launch_up 16 (State.canLaunch_rests hw hp hx) (by rw [hself]; rfl) (by rw [hself]; exact hprog)]
  have hframe := ((s.setDom d (x.ordered .up)).started d .up 0 x.last).releaseOverrides_frame d
  have hlast : ((s.setDom d (x.ordered .up)).dom d).last = x.last := by rw [hself]; rfl
  have hbegun := s.started_begun (d := d) (x := x.ordered .up)
    (u := ((s.setDom d (x.ordered .up)).started d .up 0 x.last).releaseOverrides d) .up
    (by rw [hframe]; rfl) (by rw [hframe]; rfl) (by rw [hframe]; rfl)
  rw [Cyc.map, hlast]
  have hdom : ({ x.ordered .up with prog := .up, src := 0, next := none } : Domain) = { x with prog := .up, src := 0 } := by
    cases x
    cases hn
    rfl
  exact hdom ▸ hbegun

/-- A down-program that is ordered at rest starts, where it disables no rail and no domain depends on this one. -/
theorem State.down_begun {x : Domain} (hprog : x.prog = .none) (hx : x.conf = (s.dom d).conf) (hn : x.next = none)
    (hdep : ∀ e, s.dependsOn e d = false)
    (hrails : ∀ r ∈ s.railsOf d, (s.ch r).st ≠ .retryWait ∧ (s.ch r).pend = false) :
    s.Begun d { x with prog := .down, src := 0 } .down
      (Cyc.finish (Cyc.launch 17 [d] { s := s.setDom d (x.ordered .down) })) := by
  have hself := s.dom_setDom_self d (x.ordered .down)
  have hsame : (s.setDom d (x.ordered .down)).railsOf d = s.railsOf d :=
    State.railsOf_congr (s := s) (t := s.setDom d (x.ordered .down)) rfl (s.conf_setDom d hx) d
  have hdep' : ∀ e, (s.setDom d (x.ordered .down)).dependsOn e d = false := hdep
  have hrails' : ∀ r ∈ (s.setDom d (x.ordered .down)).railsOf d,
      ((s.setDom d (x.ordered .down)).ch r).st ≠ .retryWait ∧ ((s.setDom d (x.ordered .down)).ch r).pend = false :=
    fun r hr => hrails r (hsame ▸ hr)
  have hnext : ((s.setDom d (x.ordered .down)).dom d).next = some (.down, 0) := by rw [hself]; rfl
  have hprog' : ((s.setDom d (x.ordered .down)).dom d).prog = .none := by rw [hself]; exact hprog
  have hlaunch := Cyc.launch_downFirst (c := { s := s.setDom d (x.ordered .down) }) 16
    (State.canLaunch_rests hw hp hx) hnext hprog' hrails' hdep'
  rw [hlaunch]
  have hlast : ((s.setDom d (x.ordered .down)).dom d).last = x.last := by rw [hself]; rfl
  have hbegun := s.started_begun (d := d) (x := x.ordered .down)
    (u := (s.setDom d (x.ordered .down)).started d .down 0 x.last) .down rfl rfl rfl
  rw [Cyc.map, hlast]
  have hdom : ({ x.ordered .down with prog := .down, src := 0, next := none } : Domain)
      = { x with prog := .down, src := 0 } := by
    cases x
    cases hn
    rfl
  exact hdom ▸ hbegun

end

/-! Requests while the device runs -/

section
variable {s : State} {d : DomId} (hp : s.takesPart d = true) (hr : s.power.phase = .run)
include hp hr

/-- ON of a domain that runs and orders no program orders the up-program. -/
theorem Cyc.onReq_orders (hprog : (s.dom d).prog = .none) (hn : (s.dom d).next = none) :
    Cyc.onReq { s := s } d 0 = Cyc.order { s := s } d .up 0 := by
  simp [Cyc.onReq, State.failing, hr, hp, hprog, hn, State.downOrdered]

theorem Cyc.onReq_running (hprog : (s.dom d).prog = .up) (hn : (s.dom d).next = none) :
    Cyc.onReq { s := s } d 0 = { s := s } := by
  simp [Cyc.onReq, State.failing, hr, hp, hprog, hn, State.downOrdered]

/-- ON pends while the down-program runs, and beside the device's own order of it (R245, R264). -/
theorem Cyc.onReq_pends
    (h : (s.dom d).prog = .down ∨ ((s.dom d).next = some (.down, 2) ∧ (s.dom d).offAt = some s.cycle)) :
    Cyc.onReq { s := s } d 0 = { s := s.setDom d { s.dom d with pendUp := true } } := by
  obtain h | ⟨hn, hoff⟩ := h
  · simp [Cyc.onReq, State.failing, hr, hp, h, Cyc.map]
  · simp [Cyc.onReq, State.failing, hr, hp, hn, hoff, State.downOrdered, Cyc.map]

/-- OFF of a domain that runs no down-program and orders none orders it, and withdraws a pending ON. -/
theorem Cyc.offReq_orders (hsd : s.sdact = false) (hprog : (s.dom d).prog ≠ .down) (hn : (s.dom d).next = none) :
    (Cyc.offReq { s := s } d 0).1 = Cyc.order { s := s.setDom d (s.dom d).withdrawn } d .down 0 := by
  have hself := s.dom_setDom_self d (s.dom d).withdrawn
  have hn' : (s.dom d).withdrawn.next = none := hn
  have hprog' : ((s.dom d).withdrawn.prog == .down) = false := by simpa [Domain.withdrawn] using hprog
  simp [Cyc.offReq, Cyc.map, State.failing, hr, hp, hsd, State.withdrawUp_run hr, hself, hn', hprog']

end

/-- An order to a wick at rest. -/
theorem Cyc.order_setDom_rests {s : State} {d : DomId} (hw : (s.wk (s.pwick d)).rests) (x : Domain) (p : Prog) :
    Cyc.order { s := s.setDom d x } d p 0 = { s := s.setDom d (x.ordered p) } := by
  rw [Cyc.order_rests (c := { s := s.setDom d x }) (d := d) hw, Cyc.map]
  rw [s.dom_setDom_self, s.setDom_setDom]

/-- An order to a wick that runs, which is to stop first. -/
theorem Cyc.order_setDom_run {s : State} {d : DomId} (hw : (s.wk (s.pwick d)).st = .run) (x : Domain) (p : Prog) :
    Cyc.order { s := s.setDom d x } d p 0
      = { s := (s.setDom d (x.ordered p)).setWk (s.pwick d)
            { (s.setDom d (x.ordered p)).wk (s.pwick d) with stop := true } } := by
  have hset : (s.setDom d x).setDom d { (s.setDom d x).dom d with next := some (p, 0) } = s.setDom d (x.ordered p) := by
    rw [s.dom_setDom_self, s.setDom_setDom]
    rfl
  have hwk : ((s.setDom d (x.ordered p)).wk (s.pwick d)).st = .run := hw
  have hpw : (s.setDom d x).pwick d = s.pwick d := rfl
  unfold Cyc.order Cyc.map
  simp only [hset, hpw, hwk]

/-- Nothing of a domain whose wick runs starts at once. -/
theorem State.canLaunch_run {s : State} {d : DomId} (hw : (s.wk (s.pwick d)).st = .run) : s.canLaunch d = false := by
  unfold State.canLaunch
  rw [hw, Bool.and_false]

/-- A program ordered on a busy wick does not start. -/
theorem State.order_ordered {s : State} {d : DomId} (hw : (s.wk (s.pwick d)).st = .run) (x : Domain) (p : Prog) :
    s.Ordered d (x.ordered p) (Cyc.launch 17 [d] (Cyc.order { s := s.setDom d x } d p 0)).finish := by
  have hcan : ((s.setDom d (x.ordered p)).setWk (s.pwick d) { s.wk (s.pwick d) with stop := true }).canLaunch d
      = false := by
    refine State.canLaunch_run ?_
    exact (congrArg Wick.st (State.wk_setWk_self _ _ _)).trans hw
  have hlaunch : Cyc.launch 17 [d] (Cyc.order { s := s.setDom d x } d p 0)
      = { s := (s.setDom d (x.ordered p)).setWk (s.pwick d) { s.wk (s.pwick d) with stop := true } } :=
    (congrArg (Cyc.launch 17 [d]) (Cyc.order_setDom_run hw x p)).trans (Cyc.launch_none 16 hcan)
  rw [hlaunch]
  have hend := Cyc.finish_cycleOf
    { s := (s.setDom d (x.ordered p)).setWk (s.pwick d) { s.wk (s.pwick d) with stop := true } } rfl false
  generalize Cyc.finish { s := (s.setDom d (x.ordered p)).setWk (s.pwick d) { s.wk (s.pwick d) with stop := true } }
    = t at hend
  have hself := s.dom_setDom_self d (x.ordered p)
  have hother : ∀ e, e ≠ d → (s.setDom d (x.ordered p)).dom e = s.dom e := fun e he => s.dom_setDom_ne he _
  refine ⟨?_, (hend.dom d).trans hself, fun e he => (hend.dom e).trans (hother e he), ?_, fun u hu => ?_⟩
  · exact hend.ofWicksDoms rfl
  · exact (hend.wk _).trans (State.wk_setWk_self _ _ _)
  · exact (hend.wk u).trans (State.wk_setWk_ne _ hu _)

section
variable {s : State} {d : DomId} {who : Who} (hs : s.serves = true) (hsd : s.sdact = false)
  (hp : s.takesPart d = true) (hr : s.power.phase = .run)

include hp hr in
theorem pendingUpStart_begins (hw : (s.wk (s.pwick d)).rests) (hprog : (s.dom d).prog = .none)
    (hn : (s.dom d).next = none) (hup : (s.dom d).pendUp = true) (hlast : (s.dom d).last = 2)
    (hstill : ∀ r ∈ s.railsOf d, (s.ch r).st ≠ .falling ∧ (s.ch r).st ≠ .discharging) :
    ∃ t, exec (.pendingUpStart d) s = .next t
      ∧ s.Begun d { s.dom d with prog := .up, src := 0, pendUp := false } .up t := by
  have hmoving : (s.railsOf d).any (fun r => (s.ch r).st == .falling || (s.ch r).st == .discharging) = false :=
    List.any_eq_false.2 fun r hr => by simp [hstill r hr]
  have hnow : s.progNow d = .none := by simp [State.progNow, hn, hprog]
  refine ⟨_, ?_, State.up_begun hw hp (x := { s.dom d with pendUp := false }) hprog rfl hn⟩
  have horder := Cyc.order_setDom_rests hw { s.dom d with pendUp := false } .up
  rw [← horder]
  simp [exec, execPendingUpStart, hup, hnow, hlast, hmoving, State.failing, hr, hp, State.cyc, Cyc.map]

variable (ho : ownerOf who ≠ .none) (hown : s.owns (ownerOf who) d = true)
include hs hsd hp hr ho hown

theorem dcmdOn_begins (hw : (s.wk (s.pwick d)).rests) (hprog : (s.dom d).prog = .none) (hn : (s.dom d).next = none) :
    ∃ t, exec (.dcmdOn who d false) s = .next t ∧ s.Begun d { s.dom d with prog := .up, src := 0 } .up t := by
  refine ⟨_, dcmdOn_runs hs hsd ho hp hown, ?_⟩
  have horder := Cyc.order_setDom_rests hw (s.dom d) .up
  rw [s.setDom_same] at horder
  rw [Cyc.onNow, Cyc.onReq_orders hp hr hprog hn, horder]
  exact State.up_begun hw hp hprog rfl hn

theorem dcmdOff_begins (hw : (s.wk (s.pwick d)).rests) (hprog : (s.dom d).prog = .none) (hn : (s.dom d).next = none)
    (hdep : ∀ e, s.dependsOn e d = false)
    (hrails : ∀ r ∈ s.railsOf d, (s.ch r).st ≠ .retryWait ∧ (s.ch r).pend = false) :
    ∃ t, exec (.dcmdOff who d) s = .next t
      ∧ s.Begun d { (s.dom d).withdrawn with prog := .down, src := 0 } .down t := by
  refine ⟨_, dcmdOff_runs hs hsd ho hp hown, ?_⟩
  rw [Cyc.offNow, Cyc.offReq_orders hp hr hsd (by simp [hprog]) hn, Cyc.order_setDom_rests hw]
  exact State.down_begun hw hp (x := (s.dom d).withdrawn) hprog rfl hn hdep hrails

variable (hw : (s.wk (s.pwick d)).st = .run)
include hw

theorem dcmdOn_orders (hprog : (s.dom d).prog = .none) (hn : (s.dom d).next = none) :
    ∃ t, exec (.dcmdOn who d false) s = .next t ∧ s.Ordered d { s.dom d with next := some (.up, 0) } t := by
  refine ⟨_, dcmdOn_runs hs hsd ho hp hown, ?_⟩
  rw [Cyc.onNow, Cyc.onReq_orders hp hr hprog hn]
  have h := State.order_ordered hw (s.dom d) .up
  rw [s.setDom_same] at h
  exact h

theorem dcmdOff_orders (hprog : (s.dom d).prog ≠ .down) (hn : (s.dom d).next = none) :
    ∃ t, exec (.dcmdOff who d) s = .next t ∧ s.Ordered d { (s.dom d).withdrawn with next := some (.down, 0) } t := by
  refine ⟨_, dcmdOff_runs hs hsd ho hp hown, ?_⟩
  rw [Cyc.offNow, Cyc.offReq_orders hp hr hsd hprog hn]
  exact State.order_ordered hw (s.dom d).withdrawn .down

theorem dcmdOn_running (hprog : (s.dom d).prog = .up) (hn : (s.dom d).next = none) :
    ∃ t, exec (.dcmdOn who d false) s = .next t ∧ s.CycleOf [] [] t := by
  refine ⟨_, dcmdOn_runs hs hsd ho hp hown, ?_⟩
  rw [Cyc.onNow, Cyc.onReq_running hp hr hprog hn, Cyc.launch_none 16 (State.canLaunch_run hw)]
  exact Cyc.finish_cycleOf { s := s } rfl false

theorem dcmdOn_pends
    (h : (s.dom d).prog = .down ∨ ((s.dom d).next = some (.down, 2) ∧ (s.dom d).offAt = some s.cycle)) :
    ∃ t, exec (.dcmdOn who d false) s = .next t ∧ { s with doms := t.doms }.CycleOf [] [] t
      ∧ t.dom d = { s.dom d with pendUp := true } ∧ ∀ e, e ≠ d → t.dom e = s.dom e := by
  refine ⟨_, dcmdOn_runs hs hsd ho hp hown, ?_⟩
  have hrun : ((s.setDom d { s.dom d with pendUp := true }).wk
      ((s.setDom d { s.dom d with pendUp := true }).pwick d)).st = .run := hw
  rw [Cyc.onNow, Cyc.onReq_pends hp hr h, Cyc.launch_none 16 (State.canLaunch_run hrun)]
  have hend := Cyc.finish_cycleOf { s := s.setDom d { s.dom d with pendUp := true } } rfl false
  have hparts := hend.ofWicksDoms (s := s) rfl
  generalize Cyc.finish { s := s.setDom d { s.dom d with pendUp := true } } = t at hend hparts
  refine ⟨?_, (hend.dom d).trans (s.dom_setDom_self d _), fun e he => (hend.dom e).trans (s.dom_setDom_ne he _)⟩
  have hwicks : t.wicks = s.wicks := by
    obtain ⟨hfields, -, -⟩ := hend
    rw [hfields]
    rfl
  rw [hwicks] at hparts
  exact hparts

end

/-! The break of a hitch -/

section
variable {s : State} {d : DomId} (hr : s.power.phase = .run) (hown : (s.dom d).owner ≠ .none)
  (hep : (s.dom d).epoch ≠ s.epochOf (s.dom d).owner)
include hr hown hep

/-- The hitch's break is counted and shown before its effect. -/
def State.broken (s : State) (d : DomId) : State := (s.setDom d { s.dom d with brk := true }).count 13

omit hr hown hep in
theorem State.broken_frame (s : State) (d : DomId) : s.broken d
    = { s.setDom d { s.dom d with brk := true } with regs := (s.broken d).regs, keeper := (s.broken d).keeper } :=
  State.count_frame _ _

/-- Wick 0 takes a hitch over (R262). -/
def State.takenOver (s : State) (d : DomId) : State :=
  (s.setDom d { s.dom d with owner := .wick 0, epoch := (s.wk 0).epoch }).setSignal 0 15

/-- ORPHAN 0: the hitch is given back. -/
theorem hitchBreak_releases (horph : s.fld (aDCfg d) 29 28 = 0) (hq : (s.dom d).queue = []) :
    ∃ t, exec (.hitchBreak d) s = .next t ∧ (t.dom d).owner = .none ∧ (t.dom d).epoch = 0 ∧ (t.dom d).brk = true
      ∧ (t.dom d).pendUp = false ∧ (t.dom d).prog = (s.dom d).prog ∧ (∀ e, e ≠ d → t.dom e = s.dom e)
      ∧ t.wicks = s.wicks ∧ ∀ r, (t.ch r).st = (s.ch r).st := by
  have hframe := s.broken_frame d
  have hself : (s.broken d).dom d = { s.dom d with brk := true } := by
    rw [hframe]
    exact s.dom_setDom_self d _
  have hfree : (s.broken d).releaseHitch d
      = (s.broken d).setDom d { ((s.broken d).dom d).withdrawn with owner := .none, epoch := 0 } :=
    State.releaseHitch_free (by rw [hframe]; exact hr) (by rw [hself]; exact hq)
  have hexec : exec (.hitchBreak d) s
      = .next (((Cyc.mk (s.broken d) [] [] false).raise srcHitchBroken).map (fun s => s.releaseHitch d)).finish := by
    show Host.Outcome.next (s.breakHitch d) = _
    simp [State.breakHitch, hown, hep, State.cyc, Cyc.map, horph, State.broken]
  have hend := Cyc.finish_cycleOf
    (((Cyc.mk (s.broken d) [] [] false).raise srcHitchBroken).map (fun s => s.releaseHitch d)) rfl false
  refine ⟨_, hexec, ?_⟩
  generalize Cyc.finish (((Cyc.mk (s.broken d) [] [] false).raise srcHitchBroken).map (fun s => s.releaseHitch d))
    = t at hend
  have hend' : ((s.broken d).releaseHitch d).CycleOf [] [] t := hend
  rw [hfree] at hend'
  have hdom : t.dom d = { (Domain.withdrawn { s.dom d with brk := true }) with owner := .none, epoch := 0 } := by
    rw [hend'.dom, State.dom_setDom_self, hself]
  refine ⟨by rw [hdom], by rw [hdom], by rw [hdom]; rfl, by rw [hdom]; rfl, by rw [hdom]; rfl, fun e he => ?_, ?_, fun r => ?_⟩
  · rw [hend'.dom, State.dom_setDom_ne _ he, hframe]
    exact s.dom_setDom_ne he _
  · obtain ⟨hfields, -, -⟩ := hend'
    rw [hfields, hframe]
    rfl
  · have hrail : (s.broken d).rail r = s.rail r := by rw [hframe]; rfl
    exact (State.shows (·.st) ((hend'.rail List.not_mem_nil).trans hrail) :)

omit hr in
/-- ORPHAN 2: wick 0 takes the hitch over and is signalled. -/
theorem hitchBreak_takesOver (horph : s.fld (aDCfg d) 29 28 = 2) (h0 : (s.dom d).owner ≠ .wick 0) :
    ∃ t, exec (.hitchBreak d) s = .next t
      ∧ t.dom d = { s.dom d with owner := .wick 0, epoch := (s.wk 0).epoch, brk := true }
      ∧ (∀ e, e ≠ d → t.dom e = s.dom e) ∧ t.wk 0 = { s.wk 0 with sigs := (s.wk 0).sigs ||| 0x8000 }
      ∧ (∀ u, u ≠ 0 → t.wk u = s.wk u) ∧ ∀ r, (t.ch r).st = (s.ch r).st := by
  have hframe := s.broken_frame d
  have hself : (s.broken d).dom d = { s.dom d with brk := true } := by
    rw [hframe]
    exact s.dom_setDom_self d _
  have hexec : exec (.hitchBreak d) s = .next (((Cyc.mk (s.broken d) [] [] false).raise srcHitchBroken).map
      (fun s => s.takenOver d)).finish := by
    show Host.Outcome.next (s.breakHitch d) = _
    simp [State.breakHitch, hown, hep, State.cyc, Cyc.map, horph, State.broken, h0, State.takenOver]
  have hend := Cyc.finish_cycleOf
    (((Cyc.mk (s.broken d) [] [] false).raise srcHitchBroken).map (fun s => s.takenOver d)) rfl false
  refine ⟨_, hexec, ?_⟩
  generalize Cyc.finish (((Cyc.mk (s.broken d) [] [] false).raise srcHitchBroken).map (fun s => s.takenOver d))
    = t at hend
  have hend' : ((s.broken d).takenOver d).CycleOf [] [] t := hend
  have hwk : ∀ u, (s.broken d).wk u = s.wk u := fun u => by rw [hframe]; rfl
  refine ⟨?_, fun e he => ?_, ?_, fun u hu => ?_, fun r => ?_⟩
  · refine (hend'.dom d).trans ((State.dom_setDom_self (s.broken d) d _).trans ?_)
    rw [hself, hwk]
  · refine (hend'.dom e).trans ((State.dom_setDom_ne (s.broken d) he _).trans ?_)
    rw [hframe]
    exact s.dom_setDom_ne he _
  · refine (hend'.wk 0).trans ((State.wk_setWk_self _ 0 _).trans ?_)
    have h := hwk 0
    rw [← h]
    rfl
  · exact (hend'.wk u).trans ((State.wk_setWk_ne _ hu _).trans (hwk u))
  · have hrail : (s.broken d).rail r = s.rail r := by rw [hframe]; rfl
    exact (State.shows (·.st) ((hend'.rail List.not_mem_nil).trans hrail) :)

end

/-- Settles O37: each request acts on its domain alone, or orders or starts the program its state lets it. -/
theorem domainRequests : Obligations.DomainRequests := by
  unfold Obligations.DomainRequests
  refine ⟨fun s who d hs hr hsd hp ho => ⟨fun hfree hq => ?hitch, fun hown hq => ?unhitch,
      fun r v hown hdom hprog hu hst hpmb hok hne => dcmdMargin_margins hs hsd ho hp hown hdom hprog hu hst hpmb hok hne,
      fun hown => ?refused⟩,
    fun s who d hs hsd hp hr hprog hn hw =>
      ⟨fun ho hown => dcmdOn_begins hs hsd hp hr ho hown hw hprog hn,
       fun ho hown hdep hrails => dcmdOff_begins hs hsd hp hr ho hown hw hprog hn hdep hrails,
       fun hup hlast hstill => pendingUpStart_begins hp hr hw hprog hn hup hlast hstill⟩,
    fun s who d hs hsd hp hr ho hown hw =>
      ⟨fun hprog hn => ⟨dcmdOn_orders hs hsd hp hr ho hown hw hprog hn,
          dcmdOff_orders hs hsd hp hr ho hown hw (by simp [hprog]) hn⟩,
       fun hprog hn => ⟨dcmdOn_running hs hsd hp hr ho hown hw hprog hn,
          dcmdOff_orders hs hsd hp hr ho hown hw (by simp [hprog]) hn⟩,
       fun h => dcmdOn_pends hs hsd hp hr ho hown hw h⟩,
    fun s d hr hown hep => ⟨fun horph hq => hitchBreak_releases hr hown hep horph hq,
      fun horph h0 => hitchBreak_takesOver hown hep horph h0⟩⟩
  case hitch => exact State.setDom_answer (dcmdHitch_takes hs hsd ho hp hfree hq)
  case unhitch => exact State.setDom_answer (dcmdUnhitch_gives hs hsd ho hr hown hq)
  case refused =>
    have hrefused : s.RequestRefused d (s.setDom d { s.dom d with reqRef := true }) :=
      ⟨rfl, s.dom_setDom_self d _, fun _ he => s.dom_setDom_ne he _⟩
    exact ⟨⟨_, dcmdUnhitch_refused hs hsd ho hown, hrefused⟩, ⟨_, dcmdOn_refused hs hsd ho hp hown, hrefused⟩,
      ⟨_, dcmdOff_refused hs hsd ho hp hown, hrefused⟩, fun r v => ⟨_, dcmdMargin_refused hs hsd ho hp hown r v, hrefused⟩⟩

end Sys2Proof.Machine
end

section
/-! SUPPORT. Frames of the tether master that draw an answer (R473, R475), and frames of a ring node on idle ports
(R490, R492). -/

namespace Sys2Proof.Machine
open Sys2Proof

/-! Frames that the tether master queues -/

section
variable {s : State}

/-- The frames asked for are queued in order. -/
def State.tQueues (s : State) (l : List (Fin 16 × TetherBody × TetherWhy)) : State :=
  s.forAll l (fun s q => s.tQueue q.1 q.2.1 q.2.2)

/-- What tells a queued frame from another: where it goes, what it says and why. -/
def tetherKey (q : TetherFrame × TetherWhy) : BitVec 4 × TetherBody × TetherWhy := (q.1.dst, q.1.body, q.2)

def tetherWant (q : Fin 16 × TetherBody × TetherWhy) : BitVec 4 × TetherBody × TetherWhy :=
  (BitVec.ofNat 4 q.1.val, q.2.1, q.2.2)

/-- While an answer is awaited a frame only joins the queue. -/
theorem State.tQueue_busy {x : TetherFrame × TetherWhy × Nat} (h : s.tether.cur = some x) (n : Fin 16) (b : TetherBody)
    (why : TetherWhy) : s.tQueue n b why = { s with tether := { s.tether with
      tag := s.tether.tag + 1, queue := s.tether.queue ++ [(s.tFrame n b, why)] } } := by
  unfold State.tQueue State.tKick
  simp only [h]

/-- On a free tether it is sent at once. -/
theorem State.tQueue_free (hc : s.tether.cur = none) (hq : s.tether.queue = []) (n : Fin 16) (b : TetherBody)
    (why : TetherWhy) : s.tQueue n b why = { s with tether := { s.tether with
      tag := s.tether.tag + 1, cur := some (s.tFrame n b, why, s.fld aTthCfg 18 16), queue := []
      sent := s.tether.sent ++ [s.tFrame n b] } } := by
  unfold State.tQueue State.tKick
  simp only [hc, hq, List.nil_append]
  rfl

theorem State.tQueue_frame (s : State) (n : Fin 16) (b : TetherBody) (why : TetherWhy) : s.tQueue n b why
    = { s with tether := { s.tether with
        tag := s.tether.tag + 1, cur := (s.tQueue n b why).tether.cur, queue := (s.tQueue n b why).tether.queue
        sent := (s.tQueue n b why).tether.sent } } := by
  cases hc : s.tether.cur with
  | some x =>
    rw [State.tQueue_busy hc]
  | none =>
    cases hq : s.tether.queue with
    | nil => rw [State.tQueue_free hc hq]
    | cons x l =>
      unfold State.tQueue State.tKick
      simp only [hc, hq, List.cons_append]
      rfl

theorem State.tQueues_frame (s : State) (l : List (Fin 16 × TetherBody × TetherWhy)) : s.tQueues l
    = { s with tether := { s.tether with
        tag := s.tether.tag + BitVec.ofNat 16 l.length, cur := (s.tQueues l).tether.cur
        queue := (s.tQueues l).tether.queue, sent := (s.tQueues l).tether.sent } } := by
  induction l generalizing s with
  | nil => simp [State.tQueues, State.forAll]
  | cons x l ih =>
    have hrest : s.tQueues (x :: l) = (s.tQueue x.1 x.2.1 x.2.2).tQueues l := rfl
    have htag : s.tether.tag + 1 + BitVec.ofNat 16 l.length = s.tether.tag + BitVec.ofNat 16 (l.length + 1) := by
      rw [BitVec.ofNat_add, BitVec.add_assoc, BitVec.add_comm (1 : BitVec 16)]
      rfl
    have hframe := s.tQueue_frame x.1 x.2.1 x.2.2
    rw [hrest]
    have h := ih (s.tQueue x.1 x.2.1 x.2.2)
    rw [hframe] at h ⊢
    rw [h, List.length_cons, ← htag]

theorem State.tQueues_busy (l : List (Fin 16 × TetherBody × TetherWhy)) {x : TetherFrame × TetherWhy × Nat}
    (h : s.tether.cur = some x) : (s.tQueues l).tether.cur = s.tether.cur ∧ (s.tQueues l).tether.sent = s.tether.sent
      ∧ (s.tQueues l).tether.queue.map tetherKey = s.tether.queue.map tetherKey ++ l.map tetherWant := by
  induction l generalizing s with
  | nil => simp [State.tQueues, State.forAll]
  | cons y l ih =>
    have hrest : s.tQueues (y :: l) = (s.tQueue y.1 y.2.1 y.2.2).tQueues l := rfl
    rw [hrest, State.tQueue_busy h]
    obtain ⟨hcur, hsent, hqueue⟩ := ih (s := { s with tether := { s.tether with
      tag := s.tether.tag + 1, queue := s.tether.queue ++ [(s.tFrame y.1 y.2.1, y.2.2)] } }) h
    refine ⟨hcur, hsent, hqueue.trans ?_⟩
    rw [List.map_append, List.append_assoc]
    rfl

theorem State.tQueues_asks (s : State) (l : List (Fin 16 × TetherBody × TetherWhy)) : s.Asks l (s.tQueues l) := by
  refine ⟨s.tQueues_frame l, fun hc => ?_, fun hc hq _ n b why r hl => ?_⟩
  · obtain ⟨x, hx⟩ := Option.ne_none_iff_exists'.1 hc
    exact State.tQueues_busy l hx
  · subst hl
    have hrest : s.tQueues ((n, b, why) :: r) = (s.tQueue n b why).tQueues r := rfl
    rw [hrest, State.tQueue_free hc hq]
    exact State.tQueues_busy r rfl

theorem State.tQueue_asks (s : State) (n : Fin 16) (b : TetherBody) (why : TetherWhy) :
    s.Asks [(n, b, why)] (s.tQueue n b why) :=
  s.tQueues_asks [(n, b, why)]

end

/-! Frames that a ring node begins on idle ports -/

section
variable {s : State}

/-- The time that a frame carries does not change how long it lasts. -/
theorem RingTx.chars_stamp (x : RingTx) (now : BitVec 64) : (x.stamp now).chars = x.chars := by
  cases x with
  | own f =>
    obtain ⟨src, dst, hops, seq, body⟩ := f
    cases body with
    | time t c ts => simp [RingTx.stamp, RingTx.chars, RingFrame.bytes, RingBody.bytes, RingBody.code, leBytes_length,
        wordBytes]
    | _ => rfl
  | _ => rfl

theorem State.rOut_idle {b : Bool} (h : s.idlePort b) (x : RingTx) :
    s.rOut b x = { s with ring := s.ring.starts s.cycle b (x.stamp s.now) } := by
  obtain ⟨hbusy, hwait⟩ := h
  have hnone : s.ring.ports[portIx b].waiting.isEmpty = true := by rw [hwait]; rfl
  unfold State.rOut Ring.starts
  dsimp only
  rw [if_pos ⟨hbusy, hnone⟩, x.chars_stamp, hwait]
  rfl

/-- A port that begins to send leaves the other. -/
theorem Ring.starts_port_ne (r : Ring) (cycle : Nat) {b c : Bool} (h : c ≠ b) (x : RingTx) :
    (r.starts cycle b x).ports[portIx c] = r.ports[portIx c] := by
  cases b <;> cases c <;> simp_all [Ring.starts, portIx]

theorem State.rBoth_idle (h : ∀ b, s.idlePort b) (f : RingFrame) : 
    s.rBoth f = { s with
      ring := (s.ring.starts s.cycle false ((RingTx.own f).stamp s.now)).starts s.cycle true
        ((RingTx.own f).stamp s.now) } := by
  have hother := s.ring.starts_port_ne s.cycle (b := false) (c := true) (by simp) ((RingTx.own f).stamp s.now)
  have htrue : State.idlePort { s with ring := s.ring.starts s.cycle false ((RingTx.own f).stamp s.now) } true := by
    unfold State.idlePort
    rw [hother]
    exact h true
  rw [State.rBoth, State.rOut_idle (h false), State.rOut_idle htrue]
  rfl

theorem State.rSend_idle (hl : s.ringLive = true) (h : ∀ b, s.idlePort b) (dst : Byte) (b : RingBody)
    (hb : (RingTx.own (s.rFrame dst b)).stamp s.now = .own (s.rFrame dst b)) :
    s.rSend dst b = { s with ring := s.ring.sends s.cycle (s.rFrame dst b) } := by
  rw [State.rSend, if_pos hl, State.rBoth_idle h, hb]
  rfl

end

end Sys2Proof.Machine
end

section
/-! O26: SIG, UNHITCH, TLM, RSTO and PMB at their issue (R146, R206, R211, R218 to R224, R509). -/

namespace Sys2Proof.Machine
open Sys2Proof

/-! SIG -/

/-- A wick with a signal flag set besides. -/
def Wick.signalled (x : Wick) (n : Fin 16) : Wick := { x with sigs := x.sigs ||| BitVec.ofNat 16 (2 ^ n.val) }

theorem Wick.advance_signalled (x : Wick) (n : Fin 16) : (x.signalled n).advance = x.advance.signalled n := by
  have hlen : (x.signalled n).looping = x.looping := rfl
  unfold Wick.advance
  rw [hlen]
  by_cases h : x.looping && x.pc == x.lend
  · have h' : (x.looping && (x.signalled n).pc == (x.signalled n).lend) = true := h
    rw [if_pos h, if_pos h']
    unfold Wick.bodyEnd
    have hlc : (x.signalled n).lc = x.lc := rfl
    rw [hlc]
    split <;> rfl
  · have h' : ¬ (x.looping && (x.signalled n).pc == (x.signalled n).lend) = true := h
    rw [if_neg h, if_neg h']
    rfl

section
variable {s t : State} {w tw : WickId} {x : Wick} {n : Fin 16}

/-- A wick that has gone on signals. -/
theorem State.WickBecomes.signals (h : s.WickBecomes w x t) : s.Signals w x tw n (t.setSignal tw n) := by
  obtain ⟨hrest, hself, hothers⟩ := h
  have hne : ∀ u, u ≠ tw → (t.setSignal tw n).wk u = t.wk u := fun u hu => t.wk_setWk_ne hu _
  have htw : (t.setSignal tw n).wk tw = (t.wk tw).signalled n := t.wk_setWk_self tw _
  refine ⟨?_, fun u hu hut => (hne u hut).trans (hothers u hu), ?_, fun hwt => ?_⟩
  · rw [State.setSignal, State.setWk, hrest]
  · by_cases hwt : w = tw
    · subst hwt
      rw [if_pos rfl, htw, hself]
      rfl
    · rw [if_neg hwt, hne w hwt, hself]
  · rw [htw, hothers tw (Ne.symm hwt)]
    rfl

/-- A signal that is set ahead of the wick's going on. -/
theorem State.setSignal_signals (hf : x = { (s.wk w).advance with sfail := false }) :
    s.Signals w x tw n (((s.setSignal tw n).advance w).mapWk w (fun y => { y with sfail := false })) := by
  obtain ⟨hrest, hself, hothers⟩ :=
    ((s.setSignal tw n).advance_wickBecomes w).mapWk (fun y => { y with sfail := false })
  have hne : ∀ u, u ≠ tw → (s.setSignal tw n).wk u = s.wk u := fun u hu => s.wk_setWk_ne hu _
  have htw : (s.setSignal tw n).wk tw = (s.wk tw).signalled n := s.wk_setWk_self tw _
  generalize ((s.setSignal tw n).advance w).mapWk w (fun y => { y with sfail := false }) = t at hrest hself hothers
  refine ⟨hrest, fun u hu hut => (hothers u hu).trans (hne u hut), ?_, fun hwt => (hothers tw (Ne.symm hwt)).trans htw⟩
  rw [hself, hf]
  by_cases hwt : w = tw
  · subst hwt
    rw [if_pos rfl, htw, Wick.advance_signalled]
    rfl
  · rw [if_neg hwt, hne w hwt]

end

section
variable {s : State} {w tw : WickId} {n : Fin 16}

theorem execSig_here {nd : Fin 64} (h : s.current w = some (.sig 0 nd tw n)) :
    exec (.sig w) s = .next ((s.advance w).setSignal tw n) := by
  simp [exec, execSig, h]

theorem execSig_tether {nd : Fin 64} (h : s.current w = some (.sig 1 nd tw n)) : exec (.sig w) s
    = .next (State.sigWaitOr (s.sigTether w { target := Fin.ofNat 16 nd.val, wick := tw, num := n }) w false
        (BitVec.ofNat 6 nd.val)) := by
  simp [exec, execSig, h]

theorem execSig_ring {nd : Fin 64} (h : s.current w = some (.sig 2 nd tw n)) : exec (.sig w) s
    = .next (State.sigWaitOr (s.sigRing w (BitVec.ofNat 6 nd.val) tw n) w true (BitVec.ofNat 6 nd.val)) := by
  simp [exec, execSig, h]

theorem State.sigTether_own {x : TetherSig} (h : x.target.val = s.taddr.toNat) :
    s.sigTether w x = (s.setSignal x.wick x.num, some false) := if_pos h

theorem State.sigTether_slave {x : TetherSig} (h : x.target.val ≠ s.taddr.toNat) (hs : s.slave = true) :
    s.sigTether w x = ({ s with tether := { s.tether with sigs := s.tether.sigs ++ [(w, x)] } }, none) := by
  rw [State.sigTether, if_neg h, if_pos hs]

theorem State.sigTether_master {x : TetherSig} (h : x.target.val ≠ s.taddr.toNat) (hs : s.slave = false)
    (hm : s.tMaster = true) (hp : s.present x.target = true) (hv : s.slvVer x.target = 2) :
    s.sigTether w x = (s.tQueue x.target (.sig x.wick x.num) (.sig (some w) 0 x), none) := by
  simp [State.sigTether, h, hs, hm, hp, hv]

theorem State.sigTether_fails {x : TetherSig} (h : x.target.val ≠ s.taddr.toNat) (hs : s.slave = false)
    (hno : s.tMaster = false ∨ s.present x.target = false ∨ s.slvVer x.target ≠ 2) :
    s.sigTether w x = (s, some true) := by
  have hbad : (!s.tMaster || !s.present x.target || s.slvVer x.target != 2) = true := by
    simpa [or_assoc] using hno
  rw [State.sigTether, if_neg h, hs, if_neg (by simp), if_pos hbad]

/-- A wick that asks a slave waits for its confirmation. -/
theorem State.Asks.wickWaits {u : State} {l : List (Fin 16 × TetherBody × TetherWhy)} (h : s.Asks l u) (f : Wick → Wick) :
    { s with wicks := (u.mapWk w f).wicks }.Asks l (u.mapWk w f) ∧ (u.mapWk w f).wk w = f (s.wk w)
      ∧ ∀ v, v ≠ w → (u.mapWk w f).wk v = s.wk v := by
  obtain ⟨hfields, hbusy, hfree⟩ := h
  have hwk : ∀ v, u.wk v = s.wk v := fun v => by rw [hfields]; rfl
  refine ⟨⟨?_, hbusy, hfree⟩, ?_, fun v hv => ?_⟩
  · rw [State.mapWk, State.setWk, hfields]
  · rw [State.wk_mapWk_self, hwk]
  · rw [State.wk_mapWk_ne _ hv, hwk]

/-- A wick whose signal is on its way waits. -/
theorem State.sigWaitOr_waits {u : State} (hu : u.wk w = s.wk w) (b : Bool) (q : BitVec 6) :
    u.WickBecomes w { (s.wk w).advance with st := .wait (.remote b q) } (State.sigWaitOr (u, none) w b q) :=
  hu ▸ (u.advance_wickBecomes w).mapWk (fun x => { x with st := .wait (.remote b q) })

theorem State.sigWaitOr_fails (s : State) (w : WickId) (b : Bool) (q : BitVec 6) :
    s.WickBecomes w { (s.wk w).advance with sfail := true } (State.sigWaitOr (s, some true) w b q) :=
  (s.advance_wickBecomes w).mapWk (fun x => { x with sfail := true })

variable {x : TetherSig} (q : BitVec 6)

theorem State.sigTether_signals (h : x.target.val = s.taddr.toNat) :
    s.Signals w { (s.wk w).advance with sfail := false } x.wick x.num (State.sigWaitOr (s.sigTether w x) w false q) := by
  rw [State.sigTether_own h]
  exact State.setSignal_signals rfl

theorem State.sigTether_reports (h : x.target.val ≠ s.taddr.toNat) (hs : s.slave = true) :
    { s with tether := { s.tether with sigs := s.tether.sigs ++ [(w, x)] } }.WickBecomes w
      { (s.wk w).advance with st := .wait (.remote false q) } (State.sigWaitOr (s.sigTether w x) w false q) := by
  rw [State.sigTether_slave h hs]
  exact State.sigWaitOr_waits rfl _ _

theorem State.sigTether_asks (h : x.target.val ≠ s.taddr.toNat) (hs : s.slave = false) (hm : s.tMaster = true)
    (hp : s.present x.target = true) (hv : s.slvVer x.target = 2) :
    { s with wicks := (State.sigWaitOr (s.sigTether w x) w false q).wicks }.Asks
        [(x.target, .sig x.wick x.num, .sig (some w) 0 x)] (State.sigWaitOr (s.sigTether w x) w false q)
      ∧ (State.sigWaitOr (s.sigTether w x) w false q).wk w = { (s.wk w).advance with st := .wait (.remote false q) }
      ∧ ∀ u, u ≠ w → (State.sigWaitOr (s.sigTether w x) w false q).wk u = s.wk u := by
  rw [State.sigTether_master h hs hm hp hv]
  have hasks := (s.tQueue_asks x.target (.sig x.wick x.num) (.sig (some w) 0 x)).wickWaits (w := w)
    (fun y => { y.advance with st := .wait (.remote false q) })
  have hone : (s.tQueue x.target (.sig x.wick x.num) (.sig (some w) 0 x)).mapWk w
        (fun y => { y.advance with st := .wait (.remote false q) })
      = State.sigWaitOr (s.tQueue x.target (.sig x.wick x.num) (.sig (some w) 0 x), none) w false q :=
    (State.mapWk_mapWk _ w Wick.advance (fun y => { y with st := .wait (.remote false q) })).symm
  rw [hone] at hasks
  exact hasks

theorem State.sigTether_refused (h : x.target.val ≠ s.taddr.toNat) (hs : s.slave = false)
    (hno : s.tMaster = false ∨ s.present x.target = false ∨ s.slvVer x.target ≠ 2) :
    s.WickBecomes w { (s.wk w).advance with sfail := true } (State.sigWaitOr (s.sigTether w x) w false q) := by
  rw [State.sigTether_fails h hs hno]
  exact s.sigWaitOr_fails w false q

/-! The same on the ring -/

theorem State.sigRing_refused (hl : s.ringLive = false) (tw : WickId) (n : Fin 16) :
    s.WickBecomes w { (s.wk w).advance with sfail := true } (State.sigWaitOr (s.sigRing w q tw n) w true q) := by
  rw [State.sigRing, hl]
  exact s.sigWaitOr_fails w true q

theorem State.sigRing_signals (hl : s.ringLive = true) (hq : q = s.node) (tw : WickId) (n : Fin 16) :
    s.Signals w { (s.wk w).advance with sfail := false } tw n (State.sigWaitOr (s.sigRing w q tw n) w true q) := by
  have hown : s.sigRing w q tw n = (s.setSignal tw n, some false) := by simp [State.sigRing, hl, hq]
  rw [hown]
  exact State.setSignal_signals rfl

theorem State.sigRing_sends (hl : s.ringLive = true) (hq : q ≠ s.node) (hidle : ∀ b, s.idlePort b) (tw : WickId)
    (n : Fin 16) :
    { s with
      ring := { s.ring.sends s.cycle (s.rFrame (q.setWidth 8) (.sig tw n)) with
        sigs := s.ring.sigs ++ [(w, s.ring.seq)] } }.WickBecomes w
      { (s.wk w).advance with st := .wait (.remote true q) } (State.sigWaitOr (s.sigRing w q tw n) w true q) := by
  have hsends : s.sigRing w q tw n = ({ s with
      ring := { s.ring.sends s.cycle (s.rFrame (q.setWidth 8) (.sig tw n)) with
        sigs := s.ring.sigs ++ [(w, s.ring.seq)] } }, none) := by
    have hq' : (q == s.node) = false := beq_eq_false_iff_ne.mpr hq
    rw [State.sigRing, hl, hq', State.rSend_idle hl hidle _ _ rfl]
    rfl
  rw [hsends]
  exact State.sigWaitOr_waits rfl _ _

end

/-- The target of a SIG of scope tether. -/
def tetherTarget (nd : Fin 64) (tw : WickId) (n : Fin 16) : TetherSig := { target := Fin.ofNat 16 nd.val, wick := tw, num := n }

/-- SIG, scope by scope. -/
theorem sig_effect (s : State) (w tw : WickId) (nd : Fin 64) (n : Fin 16) :
    (s.current w = some (.sig 0 nd tw n) → ∃ t, exec (.sig w) s = .next t ∧ s.Signals w (s.wk w).advance tw n t)
    ∧ (s.current w = some (.sig 1 nd tw n) → nd.val < 16 →
      (nd.val = s.taddr.toNat →
        ∃ t, exec (.sig w) s = .next t ∧ s.Signals w { (s.wk w).advance with sfail := false } tw n t)
      ∧ (nd.val ≠ s.taddr.toNat → s.slave = true →
        ∃ t, exec (.sig w) s = .next t
          ∧ { s with tether := { s.tether with
              sigs := s.tether.sigs ++ [(w, ({ target := Fin.ofNat 16 nd.val, wick := tw, num := n } : TetherSig))]
              } }.WickBecomes w
            { (s.wk w).advance with st := .wait (.remote false (BitVec.ofNat 6 nd.val)) } t)
      ∧ (nd.val ≠ s.taddr.toNat → s.slave = false →
        (s.tMaster = true → s.present (Fin.ofNat 16 nd.val) = true → s.slvVer (Fin.ofNat 16 nd.val) = 2 →
          ∃ t, exec (.sig w) s = .next t ∧ { s with wicks := t.wicks }.Asks [(Fin.ofNat 16 nd.val, .sig tw n,
              .sig (some w) 0 ({ target := Fin.ofNat 16 nd.val, wick := tw, num := n } : TetherSig))] t
            ∧ t.wk w = { (s.wk w).advance with st := .wait (.remote false (BitVec.ofNat 6 nd.val)) }
            ∧ ∀ u, u ≠ w → t.wk u = s.wk u)
        ∧ (s.tMaster = false ∨ s.present (Fin.ofNat 16 nd.val) = false ∨ s.slvVer (Fin.ofNat 16 nd.val) ≠ 2 →
          ∃ t, exec (.sig w) s = .next t ∧ s.WickBecomes w { (s.wk w).advance with sfail := true } t)))
    ∧ (s.current w = some (.sig 2 nd tw n) →
      (s.ringLive = false → ∃ t, exec (.sig w) s = .next t ∧ s.WickBecomes w { (s.wk w).advance with sfail := true } t)
      ∧ (s.ringLive = true → nd.val = s.node.toNat →
        ∃ t, exec (.sig w) s = .next t ∧ s.Signals w { (s.wk w).advance with sfail := false } tw n t)
      ∧ (s.ringLive = true → nd.val ≠ s.node.toNat → (∀ b, s.idlePort b) →
        ∃ t, exec (.sig w) s = .next t
          ∧ { s with ring := { s.ring.sends s.cycle (s.rFrame (BitVec.ofNat 8 nd.val) (.sig tw n)) with
              sigs := s.ring.sigs ++ [(w, s.ring.seq)] } }.WickBecomes w
            { (s.wk w).advance with st := .wait (.remote true (BitVec.ofNat 6 nd.val)) } t)) := by
  refine ⟨fun h => ⟨_, execSig_here h, (s.advance_wickBecomes w).signals⟩, fun h hnd => ?tether, fun h => ?ring⟩
  case tether =>
    have hval : (tetherTarget nd tw n).target.val = nd.val := Nat.mod_eq_of_lt hnd
    have hexec := execSig_tether h
    have hne : nd.val ≠ s.taddr.toNat → (tetherTarget nd tw n).target.val ≠ s.taddr.toNat := fun hown => by
      rw [hval]; exact hown
    exact ⟨fun hown => ⟨_, hexec, State.sigTether_signals _ (hval.trans hown)⟩,
      fun hown hs => ⟨_, hexec, State.sigTether_reports _ (hne hown) hs⟩,
      fun hown hs => ⟨fun hm hp hv => ⟨_, hexec, State.sigTether_asks _ (hne hown) hs hm hp hv⟩,
        fun hno => ⟨_, hexec, State.sigTether_refused _ (hne hown) hs hno⟩⟩⟩
  case ring =>
    have hnode : BitVec.ofNat 6 nd.val = s.node ↔ nd.val = s.node.toNat := by
      rw [← BitVec.toNat_inj, BitVec.toNat_ofNat, Nat.mod_eq_of_lt nd.isLt]
    have hwide : (BitVec.ofNat 6 nd.val).setWidth 8 = BitVec.ofNat 8 nd.val := by
      have := nd.isLt
      bv_omega
    have hexec := execSig_ring h
    refine ⟨fun hl => ⟨_, hexec, State.sigRing_refused _ hl tw n⟩,
      fun hl hown => ⟨_, hexec, State.sigRing_signals _ hl (hnode.2 hown) tw n⟩, fun hl hown hidle => ⟨_, hexec, ?_⟩⟩
    have hsends := State.sigRing_sends (w := w) _ hl (mt hnode.1 hown) hidle tw n
    rw [hwide] at hsends
    exact hsends

/-! UNHITCH -/

section
variable {s : State} {w : WickId} {d : DomId}

/-- A wick that issues runs in RUN. -/
theorem State.current_run {op : Op} (h : s.current w = some op) : s.power.phase = .run := by
  unfold State.current at h
  split at h
  case isTrue hm => simp_all [State.mayIssue, State.slots]
  case isFalse => exact absurd h (by simp)

theorem State.grantHitch_passes (ho : (s.dom d).owner = .none) {v : WickId} {l : List WickId}
    (hq : (s.dom d).queue = v :: l) (hp : s.takesPart d = true) : s.grantHitch d
      = s.setDom d { s.dom d with owner := .wick v, epoch := (s.wk v).epoch, queue := l } := by
  unfold State.grantHitch
  simp only [ho, hq, hp, Bool.not_true, Bool.false_eq_true, if_false]

/-- A hitch that is given up passes to the first wick that waits for it. -/
theorem State.releaseHitch_passes (h : s.power.phase = .run) (hp : s.takesPart d = true) {v : WickId} {l : List WickId}
    (hq : (s.dom d).queue = v :: l) : s.releaseHitch d
      = s.setDom d { (s.dom d).withdrawn with owner := .wick v, epoch := (s.wk v).epoch, queue := l } := by
  have hfree : (s.withdrawUp d).setDom d { (s.withdrawUp d).dom d with owner := .none, epoch := 0 }
      = s.setDom d { (s.dom d).withdrawn with owner := .none, epoch := 0 } := by
    rw [State.withdrawUp_run h, State.dom_setDom_self, State.setDom_setDom]
  have hself := s.dom_setDom_self d { (s.dom d).withdrawn with owner := .none, epoch := 0 }
  have hp' : (s.setDom d { (s.dom d).withdrawn with owner := .none, epoch := 0 }).takesPart d = true :=
    (State.takesPart_congr (s := s) (t := s.setDom d { (s.dom d).withdrawn with owner := .none, epoch := 0 }) rfl
      (s.conf_setDom d rfl) d).trans hp
  rw [State.releaseHitch, hfree, State.grantHitch_passes (by rw [hself]) (by rw [hself]; exact hq) hp', hself,
    s.setDom_setDom]
  rfl

theorem execUnhitch_eq (h : s.current w = some (.unhitch d)) : exec (.unhitch w) s
    = .next (if s.owns (.wick w) d then ((s.advance w).mapWk w (fun x => { x with cref := false })).releaseHitch d
        else (s.advance w).mapWk w (fun x => { x with cref := true })) := by
  cases ho : s.owns (.wick w) d <;> simp [exec, execUnhitch, h, ho]

theorem unhitch_refused (h : s.current w = some (.unhitch d)) (ho : s.owns (.wick w) d = false) :
    ∃ t, exec (.unhitch w) s = .next t ∧ s.WickBecomes w { (s.wk w).advance with cref := true } t := by
  refine ⟨_, execUnhitch_eq h, ?_⟩
  rw [ho]
  exact (s.advance_wickBecomes w).mapWk (fun x => { x with cref := true })

theorem unhitch_frees (h : s.current w = some (.unhitch d)) (ho : s.owns (.wick w) d = true)
    (hq : (s.dom d).queue = []) :
    ∃ t, exec (.unhitch w) s = .next t ∧ t = { s with wicks := t.wicks, doms := t.doms }
      ∧ t.wk w = { (s.wk w).advance with cref := false } ∧ (∀ u, u ≠ w → t.wk u = s.wk u)
      ∧ (t.dom d).owner = .none ∧ (t.dom d).epoch = 0 ∧ (t.dom d).pendUp = false ∧ ∀ e, e ≠ d → t.dom e = s.dom e := by
  have hgoes := (s.advance_wickBecomes w).mapWk (fun x => { x with cref := false })
  have hr : s.power.phase = .run := State.current_run h
  have hfree := State.releaseHitch_free (s := (s.advance w).mapWk w (fun x => { x with cref := false })) hr hq
  refine ⟨_, execUnhitch_eq h, ?_⟩
  rw [ho, if_pos rfl, hfree]
  obtain ⟨hframe, hdom, hdoms, hself, hothers⟩ := hgoes.setDom d
    { (s.dom d).withdrawn with owner := .none, epoch := 0 }
  exact ⟨hframe, hself, hothers, congrArg Domain.owner hdom, congrArg Domain.epoch hdom,
    congrArg Domain.pendUp hdom, hdoms⟩

theorem unhitch_passes (h : s.current w = some (.unhitch d)) (ho : s.owns (.wick w) d = true)
    (hp : s.takesPart d = true) {v : WickId} {l : List WickId} (hq : (s.dom d).queue = v :: l) (hv : v ≠ w) :
    ∃ t, exec (.unhitch w) s = .next t ∧ t = { s with wicks := t.wicks, doms := t.doms }
      ∧ (t.dom d).owner = .wick v ∧ (t.dom d).epoch = (s.wk v).epoch ∧ (t.dom d).queue = l
      ∧ t.wk w = { (s.wk w).advance with cref := false } ∧ (∀ u, u ≠ w → t.wk u = s.wk u)
      ∧ ∀ e, e ≠ d → t.dom e = s.dom e := by
  have hgoes := (s.advance_wickBecomes w).mapWk (fun x => { x with cref := false })
  have hr : s.power.phase = .run := State.current_run h
  have hpass := State.releaseHitch_passes (s := (s.advance w).mapWk w (fun x => { x with cref := false })) hr hp hq
  have hwv : ((s.advance w).mapWk w (fun x => { x with cref := false })).wk v = s.wk v := hgoes.2.2 v hv
  refine ⟨_, execUnhitch_eq h, ?_⟩
  rw [ho, if_pos rfl, hpass, hwv]
  obtain ⟨hframe, hdom, hdoms, hself, hothers⟩ := hgoes.setDom d
    { (s.dom d).withdrawn with owner := .wick v, epoch := (s.wk v).epoch, queue := l }
  exact ⟨hframe, congrArg Domain.owner hdom, congrArg Domain.epoch hdom, congrArg Domain.queue hdom, hself, hothers,
    hdoms⟩

end

/-! TLM -/

section
variable {s : State} {w : WickId}

/-- A request for a point while ADC15 converts and nothing waits joins the queue. -/
theorem State.tlmRequest_queues {q : Point} (hq : s.scan.queue = []) (hr : s.scan.running ≠ none)
    (hw : s.scan.waiting = []) (hl : s.lhBusy = false) :
    s.tlmRequest q = { s.setBit (aVal q) 31 false with scan := { s.scan with queue := [q] } } := by
  obtain ⟨p, hp⟩ := Option.ne_none_iff_exists'.1 hr
  have hne : aLhStat ≠ aVal q := by
    have := q.isLt
    simp only [aLhStat, aVal, aTlm]
    omega
  have hbusy : (s.setBit (aVal q) 31 false).lhBusy = false := (s.bit_setBit_ne hne _ _ _).trans hl
  have hscan : (s.setBit (aVal q) 31 false).scan = s.scan := rfl
  have hpump : State.pumpTlm { s.setBit (aVal q) 31 false with scan := { s.scan with queue := [q] } }
      = { s.setBit (aVal q) 31 false with scan := { s.scan with queue := [q] } } := by
    simp [State.pumpTlm, Scan.fill, Scan.convertNext, hp, hw]
  unfold State.tlmRequest
  simp only [hscan, hq, hbusy]
  exact hpump

theorem tlm_queues {p : Ref (Fin 128)} {q : Point} (h : s.current w = some (.tlm p)) (ho : s.operand w 7 p = q.val)
    (hq : s.scan.queue = []) (hr : s.scan.running ≠ none) (hw : s.scan.waiting = []) (hl : s.lhBusy = false) :
    ∃ t, exec (.tlm w) s = .next t
      ∧ t = { s with regs := t.regs, wicks := t.wicks, scan := { s.scan with queue := [q] } }
      ∧ t.wk w = (s.wk w).advance ∧ t.reg (aVal q) = s.reg (aVal q) &&& ~~~(bitw 31)
      ∧ (∀ a, a ≠ aVal q → t.reg a = s.reg a) ∧ ∀ u, u ≠ w → t.wk u = s.wk u := by
  have hexec : exec (.tlm w) s
      = .next { (s.advance w).setBit (aVal q) 31 false with scan := { s.scan with queue := [q] } } := by
    have hn : s.operand w 7 p < 124 := by rw [ho]; exact q.isLt
    have hpoint : (⟨s.operand w 7 p, hn⟩ : Point) = q := Fin.ext ho
    have hqueue := State.tlmRequest_queues (s := s.advance w) (q := q) hq hr hw hl
    show execTlm w s = _
    simp only [execTlm, h, dif_pos hn, hpoint, hqueue]
    rfl
  have hwk : ∀ u, State.wk { (s.advance w).setBit (aVal q) 31 false with scan := { s.scan with queue := [q] } } u
      = (s.advance w).wk u := fun _ => rfl
  refine ⟨_, hexec, rfl, (hwk w).trans (s.wk_advance_self w), ?_, fun a ha => ?_, fun u hu =>
    (hwk u).trans (s.wk_advance_ne hu)⟩
  · exact (s.advance w).reg_setBit_self (aVal q) 31 false
  · exact (s.advance w).reg_setBit_ne ha _ _

end

/-! RSTO -/

section
variable {s : State} {w : WickId}

theorem State.setOvr_overrideIs (s : State) {act : Fin 4} (hne : act ≠ 3) (k : Fin 8) :
    s.OverrideIs k (if act = 2 ∧ s.rstStretch k = 0 then 0 else act.val)
      (if act = 2 ∧ s.rstStretch k ≠ 0 then some (s.cycle + s.rstStretch k) else none) (s.setOvr k act) := by
  have hauto := s.withOvr_overrideIs k (v := 0) (by decide) none
  have hassert := s.withOvr_overrideIs k (v := 1) (by decide) none
  have hpulse := s.withOvr_overrideIs k (v := 2) (by decide) (some (s.cycle + s.rstStretch k))
  match act, hne with
  | 0, _ => simpa [State.setOvr_auto] using hauto
  | 1, _ => simpa [State.setOvr_assert] using hassert
  | 2, _ =>
    by_cases hz : s.rstStretch k = 0
    · simpa [State.setOvr_pulse_zero s k hz, hz] using hauto
    · simpa [State.setOvr_pulse s k hz, hz] using hpulse
  | 3, h => exact absurd rfl h

theorem execRsto_eq {act : Fin 4} {k : Fin 8} (h : s.current w = some (.rsto act k)) :
    exec (.rsto w none) s = .next ((s.advance w).setOvr k act) := by
  simp [exec, execRsto, h]

theorem rsto_overrides {act : Fin 4} {k : Fin 8} (h : s.current w = some (.rsto act k)) (hne : act ≠ 3) :
    ∃ t, exec (.rsto w none) s = .next t
      ∧ { s with wicks := t.wicks }.OverrideIs k (if act = 2 ∧ s.rstStretch k = 0 then 0 else act.val)
        (if act = 2 ∧ s.rstStretch k ≠ 0 then some (s.cycle + s.rstStretch k) else none) t
      ∧ t.wk w = (s.wk w).advance ∧ ∀ u, u ≠ w → t.wk u = s.wk u := by
  have hover := (s.advance w).setOvr_overrideIs hne k
  have hwicks : ((s.advance w).setOvr k act).wicks = (s.advance w).wicks := rfl
  have hwk : ∀ u, ((s.advance w).setOvr k act).wk u = (s.advance w).wk u := fun _ => rfl
  refine ⟨_, execRsto_eq h, ?_, (hwk w).trans (s.wk_advance_self w), fun u hu => (hwk u).trans (s.wk_advance_ne hu)⟩
  rw [hwicks]
  exact hover

theorem State.regWrite_aRstOvr (s : State) (who : Who) (v : Word) : s.regWrite who aRstOvr v = s.rstOvrWrite v := by
  have hb : aRstOvr / 0x10000 = 0x1005 := by decide
  have h1 : aRstOvr ≠ aMrgStat := by decide
  have h2 : aRstOvr ≠ aMFail 0 := by decide
  have h3 : aRstOvr ≠ aMFail 1 := by decide
  have h4 : ¬ (0x040 ≤ aRstOvr - 0x10050000 ∧ aRstOvr - 0x10050000 < 0x100) := by decide
  have h5 : ¬ (0x100 ≤ aRstOvr - 0x10050000 ∧ aRstOvr - 0x10050000 < 0x120) := by decide
  simp only [State.regWrite, hb, State.mrgWrite, h1, h2, h3, h4, h5, if_false, if_true, Option.getD_some]

/-- A write of MRG_RSTOVR changes overrides, or shows that it is refused. -/
theorem State.rstOvrWrite_leaves (s : State) (v : Word) :
    (s.rstOvrWrite v).1 = { s with regs := (s.rstOvrWrite v).1.regs, resets := (s.rstOvrWrite v).1.resets }
      ∧ ∀ a, a ≠ aRstOvr → a ≠ aMrgStat → (s.rstOvrWrite v).1.reg a = s.reg a := by
  unfold State.rstOvrWrite
  dsimp only
  split
  · exact ⟨rfl, fun a _ ha => s.reg_orReg_ne ha _⟩
  · refine List.foldlRecOn (motive := fun (t : State) => t = { s with regs := t.regs, resets := t.resets }
      ∧ ∀ a, a ≠ aRstOvr → a ≠ aMrgStat → t.reg a = s.reg a) _ _ ⟨rfl, fun _ _ _ => rfl⟩ fun t ht k _ => ?_
    obtain ⟨hframe, hregs⟩ := ht
    split
    · exact ⟨hframe, hregs⟩
    · refine ⟨?_, fun a ha hm => (t.reg_setFld_ne ha _ _ _).trans (hregs a ha hm)⟩
      rw [State.setOvr, hframe]
      rfl

/-- RSTO beside a write of MRG_RSTOVR is RSTO after it (R170). -/
theorem rsto_afterWrite {act : Fin 4} {k : Fin 8} (h : s.current w = some (.rsto act k)) (who : Who) (v hw : Word)
    (hs : s.serves = true) {u : State} (hu : exec (.registerWrite who aRstOvr v hw) s = .next u) :
    exec (.rsto w (some v)) s = exec (.rsto w none) u := by
  rw [execRegisterWrite_eq hs (by decide) (by decide), landed_of_eventBits (by decide), State.regWrite_aRstOvr] at hu
  injection hu with hu
  obtain ⟨hframe, hregs⟩ := s.rstOvrWrite_leaves v
  rw [hu] at hframe hregs
  have hlen : u.liveLen = s.liveLen := by
    rw [State.liveLen, State.fld, hregs aSeqLive (by decide) (by decide)]
    rfl
  have hcur : u.current w = some (.rsto act k) := by
    rw [← h, State.current, hlen, hframe]
    rfl
  rw [execRsto_eq hcur]
  simp [exec, execRsto, h, State.fab_serves hs, hu]

end

/-! PMB -/

section
variable {s : State} {w : WickId}

/-- The transaction of a template. -/
def State.pmbTx (s : State) (w : WickId) (k : Fin 32) (vr : Fin 8) : PmbTx :=
  let ty := s.fld (aPmbt k) 21 19
  { owner := .template w (3 ≤ ty) vr
    addr := (s.reg (aPmbt k)).extractLsb' 22 7
    cmd := (s.reg (aPmbt k)).extractLsb' 0 8
    data := if ty = 1 then (s.vreg w vr).extractLsb' 0 16 &&& 0xFF else if ty = 2 then (s.vreg w vr).extractLsb' 0 16 else 0 }

/-- What bars a template from its transaction (R222, R224). -/
def State.pmbBarred (s : State) (w : WickId) (k : Fin 32) (vr : Fin 8) (p : Fin 4) : Bool :=
  (s.fld (aPmbt k) 21 19 < 3
      && (match s.boundRail p (s.pmbTx w k vr).addr with | some r => !s.hasRight w r | none => false))
    || ((s.pmbTx w k vr).cmd == 0x01 && s.fld (aPmbt k) 21 19 == 1 && wfld (s.vreg w vr) 7 6 != 2)

theorem ofNat_wfld (v : Word) {hi lo n : Nat} (h : hi + 1 - lo = n) :
    BitVec.ofNat n (wfld v hi lo) = v.extractLsb' lo n := by
  subst h
  apply BitVec.eq_of_toNat_eq
  rw [BitVec.toNat_ofNat, BitVec.extractLsb'_toNat, wfld, Nat.mod_mod, Nat.shiftRight_eq_div_pow]

theorem setWidth_halfword (v : Word) : v.setWidth 16 = v.extractLsb' 0 16 := by
  apply BitVec.eq_of_toNat_eq
  rw [BitVec.toNat_setWidth, BitVec.extractLsb'_toNat, Nat.shiftRight_zero]

theorem setWidth_byte (v : Word) : (v.setWidth 8).setWidth 16 = v.extractLsb' 0 16 &&& 0xFF := by
  apply BitVec.eq_of_toNat_eq
  have hmask : BitVec.toNat (0xFF : BitVec 16) = 2 ^ 8 - 1 := rfl
  rw [BitVec.toNat_and, hmask, Nat.and_two_pow_sub_one_eq_mod, BitVec.toNat_setWidth, BitVec.toNat_setWidth,
    BitVec.extractLsb'_toNat, Nat.shiftRight_zero]
  omega

theorem execPmb_eq {k : Fin 32} {vr : Fin 8} {p : Fin 4} (h : s.current w = some (.pmb k vr))
    (hv : s.bit (aPmbt k) 31 = true) (hp : s.fld (aPmbt k) 30 29 = p.val) : exec (.pmb w) s
      = .next (if s.pmbBarred w k vr p then (s.advance w).mapWk w (fun x => { x with cref := true, pmbf := true })
        else ((s.advance w).mapWk w (fun x => { x with cref := false, st := .wait .pmbus })).queueTx p
          [s.pmbTx w k vr]) := by
  have hv' : tst (s.reg (aPmbt k)) 31 = true := hv
  have hp' : (Fin.ofNat 4 (wfld (s.reg (aPmbt k)) 30 29) : Fin 4) = p := by
    rw [show wfld (s.reg (aPmbt k)) 30 29 = p.val from hp]
    exact Fin.ext (Nat.mod_eq_of_lt p.isLt)
  show execPmb w s = _
  unfold execPmb
  simp only [h, hv', hp', ofNat_wfld _ (show 28 + 1 - 22 = 7 from rfl), ofNat_wfld _ (show 7 + 1 - 0 = 8 from rfl),
    setWidth_halfword, setWidth_byte]
  rfl

theorem State.pmbBarred_iff (s : State) (w : WickId) (k : Fin 32) (vr : Fin 8) (p : Fin 4) :
    s.pmbBarred w k vr p = true ↔
      (s.fld (aPmbt k) 21 19 < 3 ∧ ∃ r, s.boundRail p (s.pmbTx w k vr).addr = some r ∧ s.hasRight w r = false)
        ∨ (s.pmbTx w k vr).cmd = 1 ∧ s.fld (aPmbt k) 21 19 = 1 ∧ (s.vreg w vr).extractLsb' 6 2 ≠ 2 := by
  have hop : wfld (s.vreg w vr) 7 6 = 2 ↔ (s.vreg w vr).extractLsb' 6 2 = 2 := by
    have hlt : wfld (s.vreg w vr) 7 6 < 2 ^ 2 := Nat.mod_lt _ (by decide)
    rw [← ofNat_wfld _ (show 7 + 1 - 6 = 2 from rfl), ← BitVec.toNat_inj, BitVec.toNat_ofNat, Nat.mod_eq_of_lt hlt]
    rfl
  unfold State.pmbBarred
  cases s.boundRail p (s.pmbTx w k vr).addr <;> simp [hop, and_assoc]

theorem pmb_refused {k : Fin 32} {vr : Fin 8} {p : Fin 4} (h : s.current w = some (.pmb k vr))
    (hv : s.bit (aPmbt k) 31 = true) (hp : s.fld (aPmbt k) 30 29 = p.val) (hb : s.pmbBarred w k vr p = true) :
    ∃ t, exec (.pmb w) s = .next t ∧ s.WickBecomes w { (s.wk w).advance with cref := true, pmbf := true } t := by
  refine ⟨_, execPmb_eq h hv hp, ?_⟩
  rw [hb, if_pos rfl]
  exact (s.advance_wickBecomes w).mapWk (fun x => { x with cref := true, pmbf := true })

/-- A transaction that waits on an idle port begins. -/
theorem State.kick_queued {p : Fin 4} {tx : PmbTx} {q : List PmbTx} (hc : s.ports[p].cur = none)
    (hq : s.ports[p].queue = tx :: q) : s.kick p = s.setPort p { s.ports[p] with cur := some tx, queue := q } := by
  unfold State.kick
  simp only [hc, hq]
  rfl

theorem State.setPort_setPort (s : State) (p : Fin 4) (x y : PmbPort) : (s.setPort p x).setPort p y = s.setPort p y := by
  simp [State.setPort]

/-- The port once it has been given a transaction. -/
def PmbPort.given (x : PmbPort) (tx : PmbTx) : PmbPort :=
  if x.cur = none then { x with cur := some tx } else { x with queue := x.queue ++ [tx] }

/-- A transaction is put on an idle port, or behind those that wait. -/
theorem State.queueTx_one {p : Fin 4} (hq : s.ports[p].cur = none → s.ports[p].queue = []) (tx : PmbTx) :
    s.queueTx p [tx] = s.setPort p (s.ports[p].given tx) := by
  have hkick : s.queueTx p [tx] = (s.setPort p { s.ports[p] with queue := s.ports[p].queue ++ [tx] }).kick p := rfl
  have hself := s.setPort_self p { s.ports[p] with queue := s.ports[p].queue ++ [tx] }
  unfold PmbPort.given
  by_cases hc : s.ports[p].cur = none
  case neg =>
    have hbusy : (s.setPort p { s.ports[p] with queue := s.ports[p].queue ++ [tx] }).ports[p].cur.isSome = true := by
      rw [hself]
      exact Option.isSome_iff_ne_none.2 hc
    rw [hkick, State.kick_busy hbusy, if_neg hc]
  case pos =>
    have hempty : s.ports[p].queue = [] := hq hc
    have hidle : (s.setPort p { s.ports[p] with queue := s.ports[p].queue ++ [tx] }).ports[p].cur = none := by
      rw [hself, hc]
    have hone : (s.setPort p { s.ports[p] with queue := s.ports[p].queue ++ [tx] }).ports[p].queue = [tx] := by
      rw [hself, hempty]
      rfl
    rw [hkick, State.kick_queued hidle hone, s.setPort_setPort, hself, if_pos hc, hempty]

theorem pmb_queues {k : Fin 32} {vr : Fin 8} {p : Fin 4} (h : s.current w = some (.pmb k vr))
    (hv : s.bit (aPmbt k) 31 = true) (hp : s.fld (aPmbt k) 30 29 = p.val) (hb : s.pmbBarred w k vr p = false)
    (hq : s.ports[p].cur = none → s.ports[p].queue = []) :
    ∃ t, exec (.pmb w) s = .next t ∧ t = { s with wicks := t.wicks, ports := t.ports }
      ∧ t.wk w = { (s.wk w).advance with cref := false, st := .wait .pmbus } ∧ (∀ u, u ≠ w → t.wk u = s.wk u)
      ∧ t.ports[p] = (if s.ports[p].cur = none then { s.ports[p] with cur := some (s.pmbTx w k vr) }
        else { s.ports[p] with queue := s.ports[p].queue ++ [s.pmbTx w k vr] })
      ∧ ∀ q, q ≠ p → t.ports[q] = s.ports[q] := by
  obtain ⟨hrest, hself, hothers⟩ := (s.advance_wickBecomes w).mapWk (fun x => { x with cref := false, st := .wait .pmbus })
  have hqueue := State.queueTx_one (s := (s.advance w).mapWk w (fun x => { x with cref := false, st := .wait .pmbus }))
    (p := p) hq (s.pmbTx w k vr)
  refine ⟨_, execPmb_eq h hv hp, ?_⟩
  rw [hb, if_neg (by simp), hqueue]
  generalize (s.advance w).mapWk w (fun x => { x with cref := false, st := .wait .pmbus }) = u at hrest hself hothers
  have hports : u.ports = s.ports := by rw [hrest]
  refine ⟨?_, hself, hothers, ?_, fun q hne => ?_⟩
  · rw [State.setPort, hrest]
  · rw [State.setPort_self, hports]
    rfl
  · rw [State.setPort_ne _ hne, hports]

end

/-- Settles O26: each command shows at its issue what it does, and its wick goes on or waits. -/
theorem otherWickCommands : Obligations.OtherWickCommands := by
  unfold Obligations.OtherWickCommands
  refine ⟨fun s w tw nd n => sig_effect s w tw nd n,
    fun s w d h => ⟨fun ho => unhitch_refused h ho, fun ho hq => unhitch_frees h ho hq,
      fun v l ho hp hq hv => unhitch_passes h ho hp hq hv⟩,
    fun s w p q h ho hq hr hw hl => tlm_queues h ho hq hr hw hl,
    fun s w act k h => ⟨fun hne => rsto_overrides h hne, fun who v hw hs u hu => rsto_afterWrite h who v hw hs hu⟩,
    fun s w k vr p h hv hp => ⟨fun hb => ?refused, fun hright hop hq => ?queued⟩⟩
  case refused => exact pmb_refused h hv hp ((s.pmbBarred_iff w k vr p).2 hb)
  case queued =>
    refine pmb_queues h hv hp (Bool.eq_false_iff.2 fun hb => ?_) hq
    obtain ⟨hlt, r, hr, hno⟩ | ⟨hc, ht, hne⟩ := (s.pmbBarred_iff w k vr p).1 hb
    · obtain hge | hall := hright
      · omega
      · exact absurd (hall r hr) (by simp [hno])
    · exact hne (hop hc ht)

end Sys2Proof.Machine
end

section
/-! O27: COMMIT and ACTIVATE, the end of an image's check and the end of its loading (R179 to R184, R333, R335, R354). -/

namespace Sys2Proof.Machine
open Sys2Proof

/-! COMMIT and ACTIVATE -/

section
variable {s : State}

theorem State.imgErr_regsBecome (s : State) (n : Nat) : s.RegsBecome [aSeqStat] (s.imgErr n) :=
  s.setFld_regsBecome aSeqStat 7 5 n

theorem State.imgErr_fld (s : State) (n : Nat) : (s.imgErr n).fld aSeqStat 7 5 = n % 8 :=
  s.fld_setFld_self aSeqStat n (by decide) (by decide)

/-- A refusal of COMMIT or ACTIVATE shows its cause alone. -/
theorem State.imgErr_shows {i : Instr} {n : Nat} (hn : n < 8) (h : exec i s = .next (s.imgErr n)) :
    ∃ t, exec i s = .next t ∧ s.RegsBecome [aSeqStat] t ∧ t.fld aSeqStat 7 5 = n :=
  ⟨_, h, s.imgErr_regsBecome n, (s.imgErr_fld n).trans (Nat.mod_eq_of_lt hn)⟩

variable {who : Who} {act : Bool} (hs : s.serves = true)
include hs

theorem execCommit_eq : exec (.commit who act) s = .next (s.commit act) :=
  congrArg Host.Outcome.next (State.fab_serves hs _)

theorem execActivate_eq : exec (.activate who) s = .next s.activate :=
  congrArg Host.Outcome.next (State.fab_serves hs _)

theorem execCommit_barred (h : s.lockProg = true ∨ s.fld aKpsCtl 31 30 ≠ 0) :
    exec (.commit who act) s = .next (s.imgErr 4) := by
  have hbar : (s.lockProg || s.fld aKpsCtl 31 30 ≠ 0) = true := by simpa using h
  rw [execCommit_eq hs, State.commit, if_pos hbar]

variable (hl : s.lockProg = false) (hb : s.fld aKpsCtl 31 30 = 0)
include hl hb

theorem execCommit_badLength (h : s.fld aSeqImg 12 0 = 0 ∨ 4096 < s.fld aSeqImg 12 0) :
    exec (.commit who act) s = .next (s.imgErr 1) := by
  have hbad : (s.fld aSeqImg 12 0 = 0 || 4096 < s.fld aSeqImg 12 0) = true := by simpa using h
  rw [execCommit_eq hs, State.commit, if_neg (by simp [hl, hb]), if_pos hbad]

variable (h0 : 0 < s.fld aSeqImg 12 0) (h4 : s.fld aSeqImg 12 0 ≤ 4096)
include h0 h4

theorem execCommit_liveSlot (h : s.bit aSeqImg 31 = s.bit aSeqLive 31) :
    exec (.commit who act) s = .next (s.imgErr 3) := by
  rw [execCommit_eq hs, State.commit, if_neg (by simp [hl, hb]), if_neg (by simp; omega), if_pos (by simp [h])]

theorem execCommit_checks (h : s.bit aSeqImg 31 ≠ s.bit aSeqLive 31) : exec (.commit who act) s
    = .next { s with keeper := { s.keeper with
        commit := true, commitAct := act, commitStore := none
        img := (if s.bit aSeqImg 31 then 1 else 0, s.fld aSeqImg 12 0, s.reg aSeqImgCrc, s.reg aSeqImgVer) } } := by
  rw [execCommit_eq hs, State.commit, if_neg (by simp [hl, hb]), if_neg (by simp; omega), if_neg (by simpa using h)]

end

section
variable {s : State} {who : Who} (hs : s.serves = true) (hl : s.lockProg = false)
include hs hl

theorem execActivate_loads (hw : ∀ w, (s.wk w).st = .halted) (hp : s.bit aSeqStat 29 = true) :
    exec (.activate who) s = .next { s.imgErr 0 with keeper := { s.keeper with activating := true } } := by
  rw [execActivate_eq hs, State.activate, if_neg (by simp [hl]), if_neg ?rest, if_neg (by simp [hp])]
  case rest => simp [hw]

theorem execActivate_busy {w : WickId} (hw : (s.wk w).st = .run) : exec (.activate who) s = .next (s.imgErr 5) := by
  rw [execActivate_eq hs, State.activate, if_neg (by simp [hl]), if_pos ?busy]
  case busy => exact List.any_eq_true.2 ⟨w, List.mem_finRange w, by rw [hw]⟩

end

/-! The end of the check -/

section
variable {s : State} {k : Fin 2} {n : Nat} {crc ver : Word} (hc : s.keeper.commit = true)
  (himg : s.keeper.img = (k, n, crc, ver)) (hon : s.fabricOn = true)

theorem leWord_wordBytes (v : Word) : leWord (wordBytes v) = v := by
  apply BitVec.eq_of_toNat_eq
  have hlen : (wordBytes v).take 4 = wordBytes v := rfl
  rw [leWord, hlen, ← leBytes_four, leNat_leBytes_of_lt v.isLt, BitVec.toNat_ofNat, Nat.mod_eq_of_lt v.isLt]

theorem State.bit_orReg_self (s : State) (a : Nat) {i : Nat} (hi : i < 32) : (s.orReg a (bitw i)).bit a i = true := by
  have hset : (s.orReg a (bitw i)).reg a = setb (s.reg a) i true := s.reg_orReg_self a _
  rw [State.bit, hset, tst_setb _ hi, if_pos rfl]

/-- The copy of the commit record that does not hold the newest valid one (R354). -/
def State.cmtNext (s : State) : Bool := match s.cmtChoice.copy? with | some b => !b | none => false

/-- The COMMIT waits for the store of its record. -/
def State.withStore (s : State) (n : Nat) : State := { s with keeper := { s.keeper with commitStore := some n } }

/-- A commit record's bytes: its magic, the CRC and the version of the image at their places. -/
theorem State.writeCommit_pokes (s : State) (slot : Bool) (n : Nat) (crc ver : Word) : ∃ l : List Byte,
    s.writeCommit slot n crc ver = (s.poke (cmtBase s.cmtNext) l, cmtBase s.cmtNext / 0x400) ∧ l.length = 0x20
      ∧ l.take 4 = wordBytes 0x4B500020 ∧ (l.drop 12).take 4 = wordBytes crc ∧ (l.drop 16).take 4 = wordBytes ver := by
  refine ⟨_, rfl, ?_, ?_, ?_, ?_⟩ <;> simp [wordBytes, leBytes]

include hc himg hon

theorem commitComplete_differs (hst : s.keeper.commitStore = none) (hcrc : s.imageCrc (k == 1) n ≠ crc) :
    ∃ t, exec .commitComplete s = .next t ∧ t.fld aSeqStat 7 5 = 2 ∧ (∀ a, a ≠ aSeqStat → t.reg a = s.reg a)
      ∧ t = { s with regs := t.regs, keeper := { s.keeper with commit := false, commitAct := false } } := by
  have hexec : exec .commitComplete s
      = .next { s.imgErr 2 with keeper := { s.keeper with commit := false, commitAct := false } } := by
    show execCommitComplete s = _
    simp [execCommitComplete, hc, hon, hst, himg, hcrc]
  exact ⟨_, hexec, s.imgErr_fld 2, fun a ha => s.reg_setFld_ne ha _ _ _, rfl⟩

theorem commitComplete_protected (hst : s.keeper.commitStore = none) (hcrc : s.imageCrc (k == 1) n = crc)
    (hl : s.keeper.locked = false) (hbp : s.bpCovers (cmtBase false) = true) :
    ∃ t, exec .commitComplete s = .next t ∧ t.fld aSeqStat 7 5 = 4 ∧ t.bit aKpsStat 3 = true
      ∧ (∀ a, a ≠ aSeqStat → a ≠ aKpsStat → t.reg a = s.reg a)
      ∧ t = { s with regs := t.regs, keeper := { s.keeper with commit := false, commitAct := false } } := by
  have hexec : exec .commitComplete s = .next { (s.imgErr 4).orReg aKpsStat (bitw 3) with
      keeper := { s.keeper with commit := false, commitAct := false } } := by
    show execCommitComplete s = _
    simp [execCommitComplete, hc, hon, hst, himg, hcrc, hl, hbp]
  refine ⟨_, hexec, ?_, ?_, fun a ha hk => ((s.imgErr 4).reg_orReg_ne hk _).trans (s.reg_setFld_ne ha _ _ _), rfl⟩
  · show ((s.imgErr 4).orReg aKpsStat (bitw 3)).fld aSeqStat 7 5 = 4
    rw [State.fld, State.reg_orReg_ne _ (by decide)]
    exact s.imgErr_fld 4
  · show ((s.imgErr 4).orReg aKpsStat (bitw 3)).bit aKpsStat 3 = true
    exact State.bit_orReg_self _ _ (by decide)

theorem commitComplete_writes (hst : s.keeper.commitStore = none) (hcrc : s.imageCrc (k == 1) n = crc)
    (hl : s.keeper.locked = false) (hbp : s.bpCovers (cmtBase false) = false) (hr : s.keeper.run = none) :
    ∃ t, exec .commitComplete s = .next t ∧ t = { s with sram := t.sram, keeper := t.keeper }
      ∧ t.keeper.commit = true ∧ t.keeper.commitStore = some (s.keeper.number + 1)
      ∧ t.keeper.number = s.keeper.number + 1 ∧ t.keeper.last = some .record
      ∧ ∃ b, (∀ c, s.cmtChoice.copy? = some c → b = !c) ∧ t.sramWord (cmtBase b) = 0x4B500020
        ∧ t.sramWord (cmtBase b + 12) = crc ∧ t.sramWord (cmtBase b + 16) = ver
        ∧ (∃ j, t.keeper.run = some j ∧ j.kind = .record ∧ j.left = [(cmtBase b / 0x400, true)])
        ∧ ∀ a, (a < cmtBase b ∨ cmtBase b + 0x20 ≤ a) → t.byte a = s.byte a := by
  obtain ⟨l, hwrite, hlen, hmagic, hlcrc, hlver⟩ := s.writeCommit_pokes (k == 1) n crc ver
  have hframe := State.poke_frame l s (cmtBase s.cmtNext)
  have hword : ∀ (i : Nat) (v : Word), i + 4 ≤ 0x20 → (l.drop i).take 4 = wordBytes v →
      (s.poke (cmtBase s.cmtNext) l).sramWord (cmtBase s.cmtNext + i) = v := fun i v hi hv => by
    rw [State.sramWord, State.bytes_poke_sub _ _ _ _ _ (by omega), hv, leWord_wordBytes]
  have hother : ∀ a, (a < cmtBase s.cmtNext ∨ cmtBase s.cmtNext + 0x20 ≤ a) →
      (s.poke (cmtBase s.cmtNext) l).byte a = s.byte a := fun a ha => State.byte_poke_ne _ _ _ _ (by omega)
  have hl' : (s.poke (cmtBase s.cmtNext) l).keeper.locked = false := by rw [hframe]; exact hl
  have hr' : (s.poke (cmtBase s.cmtNext) l).keeper.run = none := by rw [hframe]; exact hr
  have hnum : (s.poke (cmtBase s.cmtNext) l).keeper.number = s.keeper.number := by rw [hframe]
  have hcommit : (s.poke (cmtBase s.cmtNext) l).keeper.commit = true := by rw [hframe]; exact hc
  have hbegin := State.requestStore_begins .record [(cmtBase s.cmtNext / 0x400, true)] hl' hr'
  have hexec : exec .commitComplete s = .next
      (((s.poke (cmtBase s.cmtNext) l).beginStore .record [(cmtBase s.cmtNext / 0x400, true)]).withStore
        (s.keeper.number + 1)) := by
    show execCommitComplete s = _
    simp only [execCommitComplete, hc, hon, hst, himg, hcrc, hl, hbp, hwrite, hbegin, hr', hnum, Bool.not_true,
      Bool.or_self, Bool.false_eq_true, ne_eq, not_true_eq_false, if_false, Option.any_none]
    rfl
  refine ⟨_, hexec, ?_, hcommit, rfl, by rw [← hnum]; rfl, rfl, s.cmtNext, fun c hch => ?_, hword 0 _ (by decide) hmagic,
    hword 12 _ (by decide) hlcrc, hword 16 _ (by decide) hlver, ⟨_, rfl, rfl, rfl⟩, hother⟩
  · rw [hframe]
    rfl
  · rw [State.cmtNext, hch]

omit himg in
theorem commitComplete_ends {m : Nat} (hst : s.keeper.commitStore = some m) (hact : s.keeper.commitAct = false)
    (hm : m < s.keeper.number ∨ (m = s.keeper.number ∧ s.keeper.run = none)) :
    ∃ t, exec .commitComplete s = .next t ∧ t.bit aSeqStat 29 = true ∧ t.fld aSeqStat 7 5 = 0
      ∧ (∀ a, a ≠ aSeqStat → t.reg a = s.reg a)
      ∧ t = { s with regs := t.regs, keeper := { s.keeper with commit := false, commitStore := none } } := by
  have hended : (m < s.keeper.number || (m = s.keeper.number && s.keeper.run.isNone)) = true := by simpa using hm
  have hexec : exec .commitComplete s = .next { (s.imgErr 0).setBit aSeqStat 29 true with
      keeper := { s.keeper with commit := false, commitAct := false, commitStore := none } } := by
    show execCommitComplete s = _
    simp only [execCommitComplete, hc, hon, hst, hended, State.commitDone, hact]
    rfl
  refine ⟨_, hexec, State.bit_setBit_self (s.imgErr 0) aSeqStat (by decide) true, ?_,
    fun a ha => ((s.imgErr 0).reg_setBit_ne ha _ _).trans (s.reg_setFld_ne ha _ _ _), ?_⟩
  · exact ((s.imgErr 0).fld_setBit_ne aSeqStat (by decide) (by decide) true).trans (s.imgErr_fld 0)
  · rw [← hact]
    rfl

end

/-! The end of the loading -/

section
variable {s : State}

/-- Where no wick waits for a hitch, the check of the domains leaves the wicks. -/
theorem State.checkConf_wicks (h : ∀ w d, (s.wk w).st ≠ .wait (.hitch d)) : s.checkConf.wicks = s.wicks := by
  have hfail : ∀ u : State, u.wicks = s.wicks → u.failHitches = u := fun u hu => by
    refine State.forAll_unchanged fun w _ => ?_
    have hwk : u.wk w = s.wk w := congrArg (fun v : Vector Wick 16 => v[w.val]) hu
    split
    next d hd => exact absurd hd (by rw [hwk]; exact h w d)
    next => rfl
  have hsteps : ∀ (l : List DomId) (f : State → DomId → Domain) (u : State), u.wicks = s.wicks →
      (u.forAll l (fun v d => v.setDom d (f v d))).wicks = s.wicks := fun l f u hu =>
    List.foldlRecOn (motive := fun (v : State) => v.wicks = s.wicks) _ _ hu fun v hv _ _ => hv
  have hdrop : ∀ u : State, u.wicks = s.wicks → u.dropOrders.wicks = s.wicks := fun u hu => by
    refine List.foldlRecOn (motive := fun (v : State) => v.wicks = s.wicks) _ _ hu fun v hv d _ => ?_
    split
    · exact hv
    · exact hv
  have hlast : ∀ u : State, u.wicks = s.wicks → u.dropOrders.failHitches.wicks = s.wicks := fun u hu => by
    rw [hfail _ (hdrop u hu)]
    exact hdrop u hu
  exact hlast _ (hsteps _ _ s rfl)

/-- SEQ_LIVE holds the slot beside the length. -/
theorem wfld_live (slot : Bool) (n : Nat) : wfld (at_ slot 31 ||| put 0 12 0 n) 12 0 = n % 8192 := by
  have hput : at_ slot 31 ||| put 0 12 0 n = put (at_ slot 31) 12 0 n := by
    have hkeep : at_ slot 31 &&& ~~~(fmask 12 0) = at_ slot 31 := by cases slot <;> decide
    have hzero : (0 : Word) &&& ~~~(fmask 12 0) = 0 := by decide
    unfold put
    rw [hkeep, hzero]
    exact congrArg (at_ slot 31 ||| ·) BitVec.zero_or
  rw [hput]
  exact wfld_put_self _ _ (by decide) (by decide)

theorem State.loadImage_liveLen (s : State) (slot : Bool) (n : Nat) (ver : Word) :
    (s.loadImage slot n ver).liveLen = n % 8192 := by
  rw [State.liveLen, State.fld, State.loadImage, State.reg_setReg_ne _ (by decide), State.reg_setReg_self, wfld_live]

/-- The loading of the pending image is over. -/
def State.activated (s : State) : State := { s with keeper := { s.keeper with activating := false } }

theorem execActivateDone_loads {b : Bool} (ha : s.keeper.activating = true) (hon : s.fabricOn = true)
    (hb : s.cmtChoice.copy? = some b) :
    ∃ t, exec .activateDone s = .next t ∧ t.keeper.activating = false
      ∧ (∀ i, t.imemWord i = if i < s.cmtLen b then s.sramWord (slotBase (s.cmtSlot b) + 4 * i) else 0)
      ∧ t.liveLen = s.cmtLen b % 8192 ∧ t.reg aSeqLiveVer = s.cmtVer b ∧ t.bit aSeqStat 29 = false
      ∧ (∀ a, t.byte a = s.byte a) ∧ t.chans = s.chans
      ∧ ((∀ w d, (s.wk w).st ≠ .wait (.hitch d)) → t.wicks = s.wicks) := by
  have hlive := State.loadImage_liveLen s.activated (s.cmtSlot b) (s.cmtLen b) (s.cmtVer b)
  obtain ⟨hrest, hwords, hver, hregs⟩ := s.activated.loadImage_effect (s.cmtSlot b) (s.cmtLen b) (s.cmtVer b)
  have hexec : exec .activateDone s = .next
      (((s.activated.loadImage (s.cmtSlot b) (s.cmtLen b) (s.cmtVer b)).setBit aSeqStat 29 false).checkConf.settleRsts) := by
    have hb' : s.activated.cmtChoice.copy? = some b := hb
    show execActivateDone s = _
    simp only [execActivateDone, ha, hon, Bool.not_true, Bool.or_self, Bool.false_eq_true, if_false]
    show Host.Outcome.next (State.settleRsts (State.checkConf (State.setBit
      (match s.activated.cmtChoice.copy? with
        | some b => s.activated.loadImage (s.activated.cmtSlot b) (s.activated.cmtLen b) (s.activated.cmtVer b)
        | none => s.activated) aSeqStat 29 false))) = _
    rw [hb']
    rfl
  refine ⟨_, hexec, ?_⟩
  generalize s.activated.loadImage (s.cmtSlot b) (s.cmtLen b) (s.cmtVer b) = u at *
  have hleaves := (u.setBit aSeqStat 29 false).imageEnd_leaves
  have hreg : ∀ a, (u.setBit aSeqStat 29 false).checkConf.settleRsts.reg a = (u.setBit aSeqStat 29 false).reg a :=
    State.reg_congr (by rw [hleaves])
  have hwicks : (∀ w d, (s.wk w).st ≠ .wait (.hitch d)) → (u.setBit aSeqStat 29 false).checkConf.wicks = s.wicks := by
    intro hno
    have hu : u.wicks = s.wicks := by rw [hrest]; rfl
    have hno' : ∀ w d, ((u.setBit aSeqStat 29 false).wk w).st ≠ .wait (.hitch d) := fun w d =>
      (congrArg (fun v : Vector Wick 16 => v[w.val].st) hu).symm ▸ hno w d
    exact (State.checkConf_wicks hno').trans hu
  refine ⟨?_, fun i => ?_, ?_, ?_, ?_, fun a => ?_, ?_, fun hno => ?_⟩
  · rw [hleaves, hrest]
    rfl
  · rw [State.imemWord, hleaves]
    exact hwords i
  · rw [State.liveLen, State.fld, hreg, State.reg_setBit_ne _ (by decide)]
    exact hlive
  · rw [hreg, State.reg_setBit_ne _ (by decide)]
    exact hver
  · rw [State.bit, hreg]
    exact State.bit_setBit_self u aSeqStat (by decide) false
  · rw [hleaves, hrest]
    rfl
  · rw [hleaves, hrest]
    rfl
  · have hset := (u.setBit aSeqStat 29 false).checkConf.settleRsts_fields
    have h := hwicks hno
    generalize (u.setBit aSeqStat 29 false).checkConf = v at hset h
    rw [hset]
    exact h

end

/-- Settles O27: COMMIT is judged at once and at the end of its check and store, ACTIVATE at once and at the end of its
loading. -/
theorem images : Obligations.Images := by
  unfold Obligations.Images
  refine ⟨fun s who act hs => ⟨fun h => ?barred, fun hl hb h => ?length, fun hl hb h0 h4 => ⟨fun h => ?live,
      fun h => ⟨_, execCommit_checks hs hl hb h0 h4 h, rfl⟩⟩, fun hl hw hp => ?loads, fun w hl hw => ?busy⟩,
    fun s k n crc ver hc himg hon => ⟨fun hst hcrc => commitComplete_differs hc himg hon hst hcrc,
      fun hst hcrc hl hbp => commitComplete_protected hc himg hon hst hcrc hl hbp,
      fun hst hcrc hl hbp hr => commitComplete_writes hc himg hon hst hcrc hl hbp hr,
      fun m hst hact hm => commitComplete_ends hc hon hst hact hm⟩,
    fun s b ha hon hb => execActivateDone_loads ha hon hb⟩
  case barred => exact State.imgErr_shows (by decide) (execCommit_barred hs h)
  case length => exact State.imgErr_shows (by decide) (execCommit_badLength hs hl hb h)
  case live => exact State.imgErr_shows (by decide) (execCommit_liveSlot hs hl hb h0 h4 h)
  case loads =>
    exact ⟨_, execActivate_loads hs hl hw hp, fun a ha => s.reg_setFld_ne ha _ _ _, s.imgErr_fld 0, rfl⟩
  case busy => exact State.imgErr_shows (by decide) (execActivate_busy hs hl hw)

end Sys2Proof.Machine
end

section
/-! SUPPORT. A raise of a source whose severity is above 0 leaves it pending (R273, R274): the collector sets its bit of
FLT_PEND and no later step of its cycle clears one. -/

namespace Sys2Proof.Machine
open Sys2Proof

/-- FLT_PEND is as it was. -/
def State.PendSame (s t : State) : Prop := ∀ i < 12, t.reg (aPend i) = s.reg (aPend i)

namespace State.PendSame

theorem refl (s : State) : s.PendSame s := fun _ _ => rfl

theorem trans {s t u : State} (h : s.PendSame t) (k : t.PendSame u) : s.PendSame u := fun i hi => (k i hi).trans (h i hi)

theorem ofRegs {s t : State} (h : t.regs = s.regs) : s.PendSame t := fun _ _ => State.reg_congr h _

theorem setReg (s : State) {a : Nat} (ha : a < aPend 0 ∨ aSev 0 ≤ a) (v : Word) : s.PendSame (s.setReg a v) := fun i hi =>
  s.reg_setReg_ne (by simp only [aPend, aSev, aFlt] at ha ⊢; omega) v

theorem foldl {α : Type} {f : State → α → State} (hf : ∀ s x, State.PendSame s (f s x)) (l : List α) (s : State) :
    s.PendSame (l.foldl f s) :=
  List.foldlRecOn (motive := fun t => s.PendSame t) l f (refl s) fun t ht x _ => ht.trans (hf t x)

theorem pend {s t : State} (h : s.PendSame t) {n : Nat} (hn : n < 363) : t.pend n = s.pend n :=
  State.bit_congr (h (n / 32) (by omega)) _

end State.PendSame

section
variable (s : State)

theorem State.countRaise_pendSame (n : Nat) : s.PendSame (s.countRaise n) :=
  State.PendSame.setReg s (Or.inr (by simp only [aSev, aCnt, aFlt]; omega)) _

theorem State.mergeOne_pendSame (j : Judged) : s.PendSame (s.mergeOne j) := by
  have hfirst : s.PendSame (s.orReg aFltFirst (bitw 1)) := State.PendSame.setReg s (by decide) _
  have hmerge : ∀ (t : State) (hi lo v : Nat), t.PendSame (t.setFld aFltMerge hi lo v) := fun t _ _ _ =>
    State.PendSame.setReg t (by decide) _
  unfold State.mergeOne
  dsimp only
  split
  · exact (hfirst.trans (hmerge _ _ _ _)).trans (hmerge _ _ _ _)
  · exact hfirst.trans (hmerge _ _ _ _)

theorem State.requestStore_regs (kind : StoreKind) (pages : List (Nat × Bool)) : (s.requestStore kind pages).regs = s.regs := by
  unfold State.requestStore
  split
  · rfl
  · split
    · rfl
    · split <;> rfl

theorem State.critStore_pendSame (state0 : Nat) (js : List Judged) : s.PendSame (s.critStore state0 js) := by
  unfold State.critStore
  split
  · split
    · exact .ofRegs (s.requestStore_regs _ _)
    · exact .ofRegs rfl
  · exact .refl s

theorem State.pumpTlm_pendSame : s.PendSame s.pumpTlm := by
  unfold State.pumpTlm
  split
  · exact .refl s
  · exact .ofRegs rfl

theorem State.lhFrame_pendSame (starts : Bool) : s.PendSame (s.lhFrame starts) := by
  unfold State.lhFrame
  split
  · exact .refl s
  · split
    · exact .refl s
    · exact .ofRegs rfl

theorem State.lhFinish_pendSame : s.PendSame s.lhFinish := by
  have hbusy : s.PendSame ((s.setCh s.lhRail { s.ch s.lhRail with perturb := 0 }).setBit aLhStat 31 false) :=
    State.PendSame.trans (.ofRegs rfl) (State.PendSame.setReg _ (by decide) _)
  have hnext : ∀ t : State, t.PendSame { t with lh := { t.lh with
      next := s.lhRail.val + 1, toggleAt := none, runs := [], gapAt := t.timer (t.fld aLhCtl 15 0 * 100000000) } } :=
    fun t => .ofRegs rfl
  exact ((hbusy.trans (State.lhFrame_pendSame _ _)).trans (hnext _)).trans (State.pumpTlm_pendSame _)

theorem State.lhAbort_pendSame : s.PendSame s.lhAbort := by
  unfold State.lhAbort
  split
  · have h0 : s.PendSame (s.setFld (aLhRes 0) 5 0 s.lhRail.val) := State.PendSame.setReg s (by decide) _
    have h1 : ∀ t : State, t.PendSame (t.setFld (aLhRes 1) 7 0 0x08) := fun t => State.PendSame.setReg t (by decide) _
    have h2 : ∀ t : State, t.PendSame (t.setBit aLhStat 1 true) := fun t => State.PendSame.setReg t (by decide) _
    exact ((h0.trans (h1 _)).trans (h2 _)).trans (State.lhFinish_pendSame _)
  · exact .refl s

theorem State.restAbort_pendSame : s.PendSame s.restAbort := by
  unfold State.restAbort
  split
  · have hend := State.endPause_reserve { s with reserve := { s.reserve with
      rest := false, restAt := none, restAbortAt := some s.cycle } }
    have h : s.PendSame (State.endPause { s with reserve := { s.reserve with
        rest := false, restAt := none, restAbortAt := some s.cycle } }) := .ofRegs (by rw [hend])
    exact h.trans (State.PendSame.setReg _ (by decide) _)
  · exact .refl s

theorem State.freezeTrigger_pendSame : s.PendSame s.freezeTrigger := by
  have hraw : ∀ (t : State) (v : Word), t.PendSame (t.setReg aRawStat v) := fun t v => State.PendSame.setReg t (by decide) v
  have hlo : ∀ (t : State) (v : Word), t.PendSame (t.setReg aFrzTL v) := fun t v => State.PendSame.setReg t (by decide) v
  have hhi : ∀ (t : State) (v : Word), t.PendSame (t.setReg aFrzTH v) := fun t v => State.PendSame.setReg t (by decide) v
  have hscan : ∀ (t : State) (c : Scan), t.PendSame { t with scan := c } := fun t c => .ofRegs rfl
  unfold State.freezeTrigger
  split
  · exact hraw s _
  · extract_lets c s2 s3 s4 n s6
    have h6 : s.PendSame s6 := ((((hraw s _).trans (hraw _ _)).trans (hlo _ _)).trans (hhi _ _)).trans (hscan _ _)
    split
    · exact h6.trans (hraw _ _)
    · exact h6

theorem State.newReport_pendSame : s.PendSame s.newReport := by
  have hember : s.PendSame (s.setBit aFltEmber 31 false) := State.PendSame.setReg s (by decide) _
  have hlog : ∀ t : State, t.PendSame (t.setBit aLogIdx 15 false) := fun t => State.PendSame.setReg t (by decide) _
  exact (hember.trans (hlog _)).trans (.ofRegs rfl)

theorem State.latch_pendSame (j : Judged) (others injAct : Bool) : s.PendSame (s.latch j others injAct) := by
  have hreg : ∀ (t : State) (a : Nat) (v : Word), a < aPend 0 → t.PendSame (t.setReg a v) := fun t a v ha =>
    State.PendSame.setReg t (Or.inl ha) v
  have hfreeze : ∀ t : State, t.PendSame (if t.bit aRawCtl 30 then t.freezeTrigger else t) := fun t => by
    split
    · exact t.freezeTrigger_pendSame
    · exact .refl t
  unfold State.latch
  extract_lets w s2 s3 s4 s5 num l r s9
  have h5 : s.PendSame s5 := (((((((hreg _ aFltFirst _ (by decide)).trans (hreg _ aFltStat _ (by decide))).trans
    (hreg _ aFltFirstTL _ (by decide))).trans (hreg _ aFltFirstTH _ (by decide))).trans
    (State.newReport_pendSame _)).trans (State.lhAbort_pendSame _)).trans (State.restAbort_pendSame _)).trans (hfreeze _)
  have h9 : s.PendSame s9 := h5.trans (.ofRegs rfl)
  split
  · exact h9.trans (.ofRegs rfl)
  · exact h9

theorem State.latchFirst_pendSame (first : Option Judged) (several injAct : Bool) :
    s.PendSame (s.latchFirst first several injAct) := by
  unfold State.latchFirst
  split
  · exact s.latch_pendSame _ _ _
  · exact .refl s

theorem State.mergeRest_pendSame (state0 : Nat) (rest : List Judged) : s.PendSame (s.mergeRest state0 rest) := by
  have h := State.PendSame.foldl State.mergeOne_pendSame rest s
  unfold State.mergeRest
  dsimp only
  split
  · exact h
  · exact h.trans (.ofRegs rfl)

theorem State.takeSnap_pendSame (first : Option Judged) : s.PendSame (s.takeSnap first) := by
  unfold State.takeSnap
  split
  · exact .ofRegs rfl
  · exact .refl s

theorem State.wakeRaise_pendSame (js : List Judged) : s.PendSame (s.wakeRaise js) := by
  unfold State.wakeRaise State.startWake
  split
  · exact .refl s
  · split
    · exact .ofRegs rfl
    · exact .refl s

/-- A raise that is logged is pending. -/
theorem State.logRaise_pend (j : Judged) (hj : j.x.src < 363) : (s.logRaise j).pend j.x.src = true := by
  have hor : (s.orReg (aPend (j.x.src / 32)) (bitw (j.x.src % 32))).pend j.x.src = true :=
    s.bit_orReg_self _ (by omega)
  have hstat : ∀ t : State, t.PendSame (t.orReg aFltStat (bitw 2)) := fun t => State.PendSame.setReg t (by decide) _
  unfold State.logRaise
  dsimp only
  split
  · split
    · exact ((hstat _).pend hj).trans hor
    · exact hor
  · exact hor

end

/-- The one raise of a cycle, of a source that is no rail's. -/
theorem State.judgedAll_one (s : State) {n : Nat} (hn : n < 363) (hr : srcRail n = none) : ∃ j : Judged,
    s.judgedAll [{ src := n }] = [j] ∧ j.x.src = n ∧ j.sev = s.sev n := by
  have hocc : s.occurring [{ src := n }] = [{ src := n }] := by
    simp [State.occurring, hn, hr, insRaise]
  unfold State.judgedAll
  rw [hocc]
  exact ⟨_, rfl, rfl, rfl⟩

/-- A raise of a source whose severity is above 0 leaves it pending. -/
theorem State.raiseAll_pend {s : State} (hp : s.powered = true) {n : Nat} (hn : n < 363) (hr : srcRail n = none)
    (hsev : s.sev n ≠ 0) (inj : Bool) : (s.raiseAll [{ src := n }] inj).pend n = true := by
  obtain ⟨j, hj, hsrc, hjs⟩ := s.judgedAll_one hn hr
  have hlog : ∀ (u : State) (k : Judged), k.x.src = n → (u.logRaise k).pend n = true := fun u k hk => by
    rw [← hk]
    exact u.logRaise_pend k (by rw [hk]; exact hn)
  have hsev' : 1 ≤ j.sev := by omega
  have hpow : (!s.powered) = false := by rw [hp]; rfl
  unfold State.raiseAll
  rw [hj, hpow, if_neg (by simp)]
  refine ((State.wakeRaise_pendSame _ _).pend hn).trans ?_
  unfold State.collect
  extract_lets cands marked s3 s4 s5
  refine ((((State.latchFirst_pendSame _ _ _ _).trans (State.critStore_pendSame _ _ _)).trans
    ((State.mergeRest_pendSame _ _ _).trans (State.takeSnap_pendSame _ _))).pend hn).trans ?_
  have h4 : s4.pend n = true := by
    obtain ⟨k, hk, hkx, hks⟩ : ∃ k : Judged, marked = [k] ∧ k.x = j.x ∧ k.sev = j.sev := ⟨_, rfl, rfl, rfl⟩
    have hkept : marked.filter (fun j => 1 ≤ j.sev) = [k] := by
      rw [hk, List.filter_cons_of_pos (by simp [hks, hsev']), List.filter_nil]
    have hs4 : s4 = s3.logRaise k := by
      show (marked.filter (fun j => 1 ≤ j.sev)).foldl State.logRaise s3 = _
      rw [hkept]
      rfl
    rw [hs4]
    exact hlog s3 k ((congrArg Raise.src hkx).trans hsrc)
  exact h4

/-- The cycle that raises the source leaves it pending. -/
theorem Cyc.finish_pend {c : Cyc} (hg : c.groupOff = []) {n : Nat} (hc : c.raises = [{ src := n }])
    (hp : c.s.powered = true) (hn : n < 363) (hr : srcRail n = none) (hsev : c.s.sev n ≠ 0) :
    c.finish.pend n = true := by
  have h := State.raiseAll_pend hp hn hr hsev false
  obtain ⟨s, raises, groupOff, refused⟩ := c
  dsimp only at hg hc
  subst hg
  subst hc
  have hregs : (Cyc.finish { s := s, raises := [{ src := n }], groupOff := [], refused := refused }).regs
      = (s.raiseAll [{ src := n }] false).regs := by
    unfold Cyc.finish
    simp only [List.map_nil, List.isEmpty_nil, if_true]
    rw [State.settleRsts_fields]
  exact (State.PendSame.ofRegs (s := s.raiseAll [{ src := n }] false) hregs).pend hn |>.trans h

end Sys2Proof.Machine
end

section
/-! SUPPORT. A frame that reaches a slave of the tether (R470 to R478, R514, R531). -/

namespace Sys2Proof.Machine
open Sys2Proof

/-- The slave has heard a valid frame, which may start a wake (R478, R531). -/
def State.heardFrame (s : State) : State := { s.startWake with tether := { s.tether with armed := true } }

theorem State.startWake_eq (s : State) : ∃ b, s.startWake = { s with power := { s.power with waking := b } } := by
  unfold State.startWake
  split
  · exact ⟨true, rfl⟩
  · exact ⟨s.power.waking, rfl⟩

theorem State.heardFrame_eq (s : State) : ∃ b, s.heardFrame
    = { s with power := { s.power with waking := b }, tether := { s.tether with armed := true } } := by
  obtain ⟨b, hb⟩ := s.startWake_eq
  exact ⟨b, by rw [State.heardFrame, hb]⟩

/-- A device whose supply fails is awake. -/
theorem State.startWake_powerFail {s : State} (h : s.power.phase = .powerFail) : s.startWake = s := by
  simp [State.startWake, State.asleep, h]

section
variable {s : State} {h : TetherHead} {ty : Byte} {ver : Nat} (act : State → State × Option TetherAnswer)

/-- What the slave does with a frame it takes: it repeats an answer, or acts and answers. -/
def State.tServe (u : State) (h : TetherHead) (ty : Byte) (act : State → State × Option TetherAnswer) : State :=
  match u.tether.cache.find? (fun e => e.1 == h.tag && h.dst != 0) with
  | some e => u.tSend e.2
  | none =>
    let q := if u.power.phase == .powerFail then (u, refusal ty) else act u
    match q.2 with
    | none => q.1
    | some a =>
      if h.dst == 0 then q.1
      else
        let f : TetherFrame := { dst := 0, src := q.1.taddr, epoch := h.epoch, tag := h.tag, body := .answer ty a }
        { q.1 with tether := { q.1.tether with cache := ((h.tag, f) :: q.1.tether.cache).take 8 } }.tSend f

theorem State.noteEpoch_same (hh : s.tether.heard = true) {e : BitVec 8} (he : s.mepoch = e) :
    s.noteEpoch e = { s with tether := { s.tether with armed := true } } := by
  unfold State.noteEpoch
  dsimp only
  rw [hh]
  exact (if_neg (by decide)).trans (if_pos he)

theorem State.tTake_takes (ht : s.takes h ver) (hd : h.dst = 0 ∨ h.dst = s.taddr) :
    s.tTake h ty ver act = s.heardFrame.tServe h ty act := by
  obtain ⟨hslave, hen, hconf, hon, hloss, hcrc, hver, hheard, hep⟩ := ht
  obtain ⟨b, hb⟩ := s.startWake_eq
  have hserves : s.tServes = true := by simp [State.tServes, hslave, hen, hconf]
  have hserves' : s.startWake.tServes = true := by rw [hb]; exact hserves
  have hon' : s.startWake.fabricOn = true := by rw [hb]; exact hon
  have hown : ((h.dst != 0 && h.dst != s.startWake.taddr) || s.startWake.tVer < ver) = false := by
    have haddr : s.startWake.taddr = s.taddr := by rw [hb]; rfl
    have hv : s.startWake.tVer = s.tVer := by rw [hb]; rfl
    rw [haddr, hv, decide_eq_false (Nat.not_lt.2 hver), Bool.or_false]
    obtain hd | hd := hd <;> simp [hd]
  have hnote : s.startWake.noteEpoch h.epoch = s.heardFrame := by
    rw [State.noteEpoch_same (by rw [s.startWake_tether]; exact hheard) (by rw [hb]; exact hep), s.startWake_tether]
    rfl
  simp only [State.tTake, hloss, Bool.false_eq_true, if_false, hserves, if_true, hserves', hon', Bool.not_true,
    Bool.or_self, hcrc, hown, hnote]
  rfl

/-- A frame of a version is one of each lower version too. -/
theorem State.takesOwn_le {v : Nat} (ht : s.takesOwn h v) (hv : ver ≤ v) : s.takesOwn h ver := by
  obtain ⟨⟨hslave, hen, hconf, hon, hloss, hcrc, hver, hrest⟩, hown⟩ := ht
  exact ⟨⟨hslave, hen, hconf, hon, hloss, hcrc, hv.trans hver, hrest⟩, hown⟩

section
variable (ht : s.takesOwn h ver)
include ht

/-- The frame draws the act's answer. -/
theorem State.tServe_answers {v u : State} {a : TetherAnswer} (hv : v.tether.cache = s.tether.cache)
    (hq : (if v.power.phase == .powerFail then (v, refusal ty) else act v) = (u, some a)) (hu : u.taddr = s.taddr) :
    v.tServe h ty act = { u with tether := { u.tether with
      sent := u.tether.sent ++ [{ dst := 0, src := s.taddr, epoch := h.epoch, tag := h.tag, body := .answer ty a }]
      cache := ((h.tag, { dst := 0, src := s.taddr, epoch := h.epoch, tag := h.tag, body := .answer ty a })
        :: u.tether.cache).take 8 } } := by
  obtain ⟨-, -, hne, hnew⟩ := ht
  have hfind : v.tether.cache.find? (fun e => e.1 == h.tag && h.dst != 0) = none := by
    rw [hv, List.find?_eq_none]
    intro e he
    simp [hnew e he]
  have hz : (h.dst == 0) = false := beq_eq_false_iff_ne.mpr hne
  unfold State.tServe
  simp only [hfind, hq, hz, ← hu]
  rfl

/-- The slave acts and answers. -/
theorem State.tTake_acts {u : State} {a : TetherAnswer} (hp : s.power.phase ≠ .powerFail)
    (hact : act s.heardFrame = (u, some a)) (hu : u.taddr = s.taddr) : s.tTake h ty ver act = { u with
      tether := { u.tether with
        sent := u.tether.sent ++ [{ dst := 0, src := s.taddr, epoch := h.epoch, tag := h.tag, body := .answer ty a }]
        cache := ((h.tag, { dst := 0, src := s.taddr, epoch := h.epoch, tag := h.tag, body := .answer ty a })
          :: u.tether.cache).take 8 } } := by
  have hphase : (s.heardFrame.power.phase == .powerFail) = false := by
    obtain ⟨b, hb⟩ := s.heardFrame_eq
    rw [hb]
    exact beq_eq_false_iff_ne.mpr hp
  have hq : (if s.heardFrame.power.phase == .powerFail then (s.heardFrame, refusal ty) else act s.heardFrame)
      = (u, some a) := by rw [hphase, if_neg (by decide), hact]
  have h1 := State.tTake_takes act (ty := ty) ht.1 (Or.inr ht.2.1)
  rw [h1, State.tServe_answers (v := s.heardFrame) act ht rfl hq hu]

/-- An act that keeps the slave's tether leaves it as after the answer. -/
theorem State.tTake_answers {u : State} {a : TetherAnswer} (hp : s.power.phase ≠ .powerFail)
    (hact : act s.heardFrame = (u, some a)) (hu : u.tether = s.heardFrame.tether) :
    s.tTake h ty ver act = { u with tether := s.afterAnswer h ty a } := by
  have hadd : u.taddr = s.taddr := by
    rw [State.taddr, State.slave, hu]
    rfl
  rw [State.tTake_acts act ht hp hact hadd, hu]
  rfl

/-- Once the power fails the answer is a refusal. -/
theorem State.tTake_refuses {a : TetherAnswer} (hp : s.power.phase = .powerFail) (ha : refusal ty = some a) :
    s.tTake h ty ver act = { s with tether := s.afterAnswer h ty a } := by
  have hheard : s.heardFrame = { s with tether := { s.tether with armed := true } } := by
    rw [State.heardFrame, State.startWake_powerFail hp]
  have hphase : (s.heardFrame.power.phase == .powerFail) = true := by
    rw [hheard]
    exact beq_iff_eq.2 hp
  have hq : (if s.heardFrame.power.phase == .powerFail then (s.heardFrame, refusal ty) else act s.heardFrame)
      = (s.heardFrame, some a) := by rw [hphase, if_pos rfl, ha]
  have h1 := State.tTake_takes act (ty := ty) ht.1 (Or.inr ht.2.1)
  rw [h1, State.tServe_answers (v := s.heardFrame) act ht rfl hq (by rw [hheard]; rfl), hheard]
  rfl

end

/-- A frame to every slave draws no answer. -/
theorem State.tTake_all (ht : s.takes h ver) (hd : h.dst = 0) (hp : s.power.phase ≠ .powerFail) {u : State}
    (hact : act s.heardFrame = (u, none)) : s.tTake h ty ver act = u := by
  have hphase : (s.heardFrame.power.phase == .powerFail) = false := by
    obtain ⟨b, hb⟩ := s.heardFrame_eq
    rw [hb]
    exact beq_eq_false_iff_ne.mpr hp
  have hfind : s.heardFrame.tether.cache.find? (fun e => e.1 == h.tag && h.dst != 0) = none := by
    rw [List.find?_eq_none]
    intro e _
    simp [hd]
  rw [State.tTake_takes act ht (Or.inl hd), State.tServe]
  simp only [hfind, hphase, Bool.false_eq_true, if_false, hact]

/-- A TAG seen before draws the answer kept. -/
theorem State.tTake_repeats (ht : s.takes h ver) (hd : h.dst = s.taddr) (h0 : h.dst ≠ 0) {f : TetherFrame}
    (hf : s.tether.cache.find? (fun e => e.1 == h.tag) = some (h.tag, f)) : s.tTake h ty ver act
      = { s.startWake with tether := { s.tether with armed := true, sent := s.tether.sent ++ [f] } } := by
  have hz : (h.dst != 0) = true := bne_iff_ne.mpr h0
  have hfind : s.heardFrame.tether.cache.find? (fun e => e.1 == h.tag && h.dst != 0) = some (h.tag, f) := by
    simp only [hz, Bool.and_true]
    exact hf
  rw [State.tTake_takes act ht (Or.inr hd), State.tServe]
  simp only [hfind]
  rfl

/-- A frame whose CRC failed only counts. -/
theorem State.tTake_crc (hs : s.slave = true) (he : s.tetherEn = true) (hc : s.cfgLoaded = true) (hon : s.fabricOn = true)
    (hloss : h.loss = false) (hcrc : h.crcOk = false) : s.tTake h ty ver act
      = s.startWake.setFld aTthCnt 15 0 (satInc 16 (s.fld aTthCnt 15 0)) := by
  obtain ⟨b, hb⟩ := s.startWake_eq
  have hserves : s.tServes = true := by simp [State.tServes, hs, he, hc]
  have hserves' : s.startWake.tServes = true := by rw [hb]; exact hserves
  have hon' : s.startWake.fabricOn = true := by rw [hb]; exact hon
  simp only [State.tTake, hloss, Bool.false_eq_true, if_false, hserves, if_true, hserves', hon', Bool.not_true,
    Bool.or_self, hcrc, Bool.not_false, s.startWake_fld]

/-- The tether loss of the frame's cycle comes ahead of the frame. -/
theorem State.tTake_loss (s : State) (h : TetherHead) (ty : Byte) (ver : Nat)
    (act : State → State × Option TetherAnswer) : s.tTake { h with loss := true } ty ver act
      = s.tetherLoss.tTake { h with loss := false } ty ver act := by
  simp only [State.tTake, if_true, Bool.false_eq_true, if_false]

end

/-! What a register reads does not depend on what has been heard -/

/-- The state but for the wake, the arming of tether loss and the ring's record of copies. -/
def State.listened (s : State) (b c : Bool) (l : List (BitVec 6 × BitVec 16)) : State :=
  { s with power := { s.power with waking := b }, tether := { s.tether with armed := c }, ring := { s.ring with seen := l } }
section
variable (s : State) (b c : Bool) (l : List (BitVec 6 × BitVec 16))

theorem State.knownEvents_listened : (s.listened b c l).knownEvents = s.knownEvents := by
  have hwick : (s.listened b c l).wickDue = s.wickDue := rfl
  have hbank : (s.listened b c l).dueBank = s.dueBank := rfl
  have hpoll : (s.listened b c l).pollList = s.pollList := rfl
  have hest : (s.listened b c l).estEn = s.estEn := rfl
  have hmaster : (s.listened b c l).tMaster = s.tMaster := rfl
  have hbusy : (s.listened b c l).lhBusy = s.lhBusy := rfl
  unfold State.knownEvents
  rw [hwick, hbank, hpoll, hest, hmaster, hbusy]
  rfl

/-- A register reads the same whether or not a frame has been heard. -/
theorem State.regRead_listened (a : Nat) : (s.listened b c l).regRead a = s.regRead a := by
  have hnext : (s.listened b c l).pwrNext = s.pwrNext := by
    unfold State.pwrNext State.untilNext
    rw [s.knownEvents_listened b c l]
    rfl
  have hreg : ∀ a, (s.listened b c l).reg a = s.reg a := fun _ => rfl
  have hch : ∀ r, (s.listened b c l).chState r = s.chState r ∧ (s.listened b c l).chFlags r = s.chFlags r :=
    fun _ => ⟨rfl, rfl⟩
  have haux : (s.listened b c l).auxStat = s.auxStat ∧ (s.listened b c l).auxConfWord = s.auxConfWord := ⟨rfl, rfl⟩
  have hwick : ∀ w, (s.listened b c l).wStat w = s.wStat w ∧ (s.listened b c l).wPc w = s.wPc w
      ∧ (s.listened b c l).wk w = s.wk w ∧ ∀ r, (s.listened b c l).vreg w r = s.vreg w r :=
    fun _ => ⟨rfl, rfl, rfl, fun _ => rfl⟩
  have hseq : (s.listened b c l).horizon = s.horizon ∧ (s.listened b c l).sdact = s.sdact := ⟨rfl, rfl⟩
  have hdom : ∀ d, (s.listened b c l).dOwn d = s.dOwn d ∧ (s.listened b c l).dStat d = s.dStat d := fun _ => ⟨rfl, rfl⟩
  have hflt : (s.listened b c l).fltShd = s.fltShd ∧ (s.listened b c l).fltShdDev = s.fltShdDev
      ∧ (s.listened b c l).rstStat = s.rstStat := ⟨rfl, rfl, rfl⟩
  have hkps : (s.listened b c l).kpsStat = s.kpsStat ∧ (s.listened b c l).logNext = s.logNext
      ∧ (s.listened b c l).keeper = s.keeper ∧ ∀ n, (s.listened b c l).counter n = s.counter n := ⟨rfl, rfl, rfl, fun _ => rfl⟩
  have hrsv : (s.listened b c l).rsvStat = s.rsvStat ∧ (s.listened b c l).chgStat = s.chgStat := ⟨rfl, rfl⟩
  have harb : (s.listened b c l).elevated = s.elevated ∧ (∀ f, (s.listened b c l).weights f = s.weights f)
      ∧ (s.listened b c l).arb = s.arb := ⟨rfl, fun _ => rfl, rfl⟩
  have hlink : (∀ p i, (s.listened b c l).sessWord p i = s.sessWord p i) ∧ (s.listened b c l).v1Stat = s.v1Stat
      ∧ (s.listened b c l).tether.straps = s.tether.straps ∧ (s.listened b c l).slave = s.slave := ⟨fun _ _ => rfl, rfl, rfl, rfl⟩
  have hring : (s.listened b c l).now = s.now ∧ (s.listened b c l).ring.best = s.ring.best
      ∧ (s.listened b c l).pfInfo = s.pfInfo ∧ (s.listened b c l).pfRun = s.pfRun := ⟨rfl, rfl, rfl, rfl⟩
  have hpwr : (s.listened b c l).pwrStat = s.pwrStat ∧ (s.listened b c l).arefuse = s.arefuse
      ∧ (s.listened b c l).keyStat = s.keyStat ∧ (s.listened b c l).alarmWord = s.alarmWord := ⟨rfl, rfl, rfl, rfl⟩
  simp only [State.regRead, hnext, hreg, hch, haux, hwick, hseq, hdom, hflt, hkps, hrsv, harb, hlink, hring, hpwr]
theorem State.regRead_heardFrame (a : Nat) : s.heardFrame.regRead a = s.regRead a := by
  obtain ⟨b, hb⟩ := s.heardFrame_eq
  rw [hb]
  exact s.regRead_listened b true s.ring.seen a

end

end Sys2Proof.Machine
end

section
/-! O53: what a tether slave does with the frames that reach it (R470 to R481, R508 to R514). -/

namespace Sys2Proof.Machine
open Sys2Proof

/-! A raise outside a cycle of causes -/

theorem State.raise1_cycleOf (s : State) (n : Nat) : s.CycleOf [] [] (s.raise1 n) :=
  (State.raiseAll_collects s [{ src := n }] false (Collects.rfl' s)).cycleOf

/-- Registers that are none of the channels, the monitors and the sequencer need not be named. -/
theorem State.CycleOf.others {s t : State} {rails : List Rail} {regs : List Nat} (h : s.CycleOf rails regs t)
    (hr : ∀ a ∈ regs, ¬ ownReg a) : s.CycleOf rails [] t :=
  ⟨h.1, h.2.1, fun a ha _ => h.2.2 a ha fun hm => hr a hm ha⟩

/-! The wicks at a barrier -/

/-- A wick that a barrier has released. -/
def Wick.freed (x : Wick) : Wick := { x with released := true }

theorem State.wk_free (l : List WickId) (s : State) (w : WickId) :
    (s.forAll l (fun s w => s.setWk w (s.wk w).freed)).wk w = if w ∈ l then (s.wk w).freed else s.wk w := by
  induction l generalizing s with
  | nil => rfl
  | cons x l ih =>
    have hrest : s.forAll (x :: l) (fun s w => s.setWk w (s.wk w).freed)
        = (s.setWk x (s.wk x).freed).forAll l (fun s w => s.setWk w (s.wk w).freed) := rfl
    rw [hrest, ih]
    by_cases hw : w = x
    · subst hw
      rw [State.wk_setWk_self, if_pos (List.mem_cons_self ..)]
      split <;> rfl
    · rw [State.wk_setWk_ne _ hw]
      simp [hw]

theorem State.free_frame (l : List WickId) (s : State) : s.forAll l (fun s w => s.setWk w (s.wk w).freed)
    = { s with wicks := (s.forAll l (fun s w => s.setWk w (s.wk w).freed)).wicks } :=
  List.foldlRecOn (motive := fun (t : State) => t = { s with wicks := t.wicks }) _ _ rfl fun t ht x _ => by
    rw [ht]
    rfl

theorem State.releaseWicks_frame (s : State) (ring : Bool) (id : BitVec 8) :
    s.releaseWicks ring id = { s with wicks := (s.releaseWicks ring id).wicks } := State.free_frame _ s

theorem State.wk_releaseWicks (s : State) (ring : Bool) (id : BitVec 8) (w : WickId) : (s.releaseWicks ring id).wk w
    = if (s.wk w).st = .wait (.barrier ring id) ∧ (s.wk w).nowhere = false then { s.wk w with released := true }
      else s.wk w := by
  have hmem : w ∈ s.atBarrier ring id ↔
      ((s.wk w).st = .wait (.barrier ring id) ∧ (s.wk w).nowhere = false) ∧ (s.wk w).released = false := by
    simp [State.atBarrier, allWicks]
    tauto
  refine (State.wk_free (s.atBarrier ring id) s w).trans ?_
  by_cases hwait : (s.wk w).st = .wait (.barrier ring id) ∧ (s.wk w).nowhere = false
  · rw [if_pos hwait]
    by_cases hrel : (s.wk w).released = false
    · rw [if_pos (hmem.2 ⟨hwait, hrel⟩)]
      rfl
    · rw [if_neg fun h => hrel (hmem.1 h).2, ← Bool.eq_true_of_not_eq_false hrel]
  · rw [if_neg hwait, if_neg fun h => hwait (hmem.1 h).1]

section
variable {s : State} {h : TetherHead}

/-- What a frame's act finds of the state it was heard in. -/
theorem State.heardFrame_frame (s : State) : s.heardFrame = { s.startWake with tether := { s.tether with armed := true } } :=
  rfl

theorem State.heardFrame_reg (s : State) (a : Nat) : s.heardFrame.reg a = s.reg a := s.startWake_reg a

theorem State.heardFrame_wk (s : State) (w : WickId) : s.heardFrame.wk w = s.wk w :=
  congrArg (fun v : Vector Wick 16 => v[w.val]) s.startWake_wicks

/-! HELLO -/

theorem tthHello_versions (ht : s.takesOwn h 0) (hp : s.power.phase ≠ .powerFail) {lo hi : BitVec 8} (hlo : lo.toNat ≤ 2)
    (hhi : hi ≠ 0) : ∃ t, exec (.tthHello h lo hi) s = .next t
      ∧ t = { s.startWake with
        regs := t.regs
        tether := s.afterAnswer h 1 (.hello 1 2 (BitVec.ofNat 16 idPart) (BitVec.ofNat 16 idStep)) }
      ∧ t.tVer = min 2 hi.toNat ∧ ∀ a, a ≠ aTthStat → t.reg a = s.reg a := by
  have hgood : (2 < lo.toNat || hi.toNat = 0) = false := by
    have hhi' : hi.toNat ≠ 0 := fun e => hhi (BitVec.eq_of_toNat_eq e)
    simp [hhi', hlo]
  refine ⟨_, congrArg Host.Outcome.next (State.tTake_answers _ ht hp
    (u := s.heardFrame.setFld aTthStat 15 14 (min 2 hi.toNat)) (if_neg (by rw [hgood]; simp)) rfl), rfl, ?_, fun a ha => ?_⟩
  · refine (s.heardFrame.fld_setFld_self aTthStat (hi := 15) (lo := 14) _ (by decide) (by decide)).trans (Nat.mod_eq_of_lt ?_)
    omega
  · exact (s.heardFrame.reg_setFld_ne ha _ _ _).trans (s.heardFrame_reg a)

theorem tthHello_refused (ht : s.takesOwn h 0) (hp : s.power.phase ≠ .powerFail) {lo hi : BitVec 8}
    (hbad : 2 < lo.toNat ∨ hi = 0) :
    exec (.tthHello h lo hi) s = .next { s.startWake with tether := s.afterAnswer h 1 (.status 2) } := by
  have hbad' : (2 < lo.toNat || hi.toNat = 0) = true := by
    obtain hb | hb := hbad
    · simp [hb]
    · simp [hb]
  exact congrArg Host.Outcome.next (State.tTake_answers _ ht hp (u := s.heardFrame) (if_pos hbad') rfl)

/-! POLL -/

theorem tthPoll_first (ht : s.takesOwn h 1) (hp : s.power.phase ≠ .powerFail) (hv : s.tVer = 1) :
    exec (.tthPoll h none []) s = .next { s.startWake with tether := s.afterAnswer h 2 (.poll {
      stat := s.reg aFltStat, first := s.reg aFltFirst, time := 0, sig := none, barriers := [] }) } := by
  have hv' : (s.heardFrame.tVer == 2) = false := by
    have hsame : s.heardFrame.tVer = s.tVer := s.startWake_fld aTthStat 15 14
    rw [hsame, hv]
    rfl
  refine congrArg Host.Outcome.next (State.tTake_answers _ ht hp (u := s.heardFrame) ?_ rfl)
  simp only [hv', Bool.false_eq_true, if_false, s.heardFrame_reg]

theorem tthPoll_second (ht : s.takesOwn h 2) (hp : s.power.phase ≠ .powerFail) (hv : s.tVer = 2) (d : BitVec 16)
    (hsigs : s.tether.sigs = []) :
    exec (.tthPoll h (some d) []) s = .next { s.startWake with tether := { s.afterAnswer h 2 (.poll {
      stat := s.reg aFltStat, first := s.reg aFltFirst, time := s.reg aFltFirstTH ++ s.reg aFltFirstTL
      sig := none, barriers := s.tether.events }) with dly := some d, events := [] } } := by
  have hv' : (s.heardFrame.tVer == 2) = true := by
    have hsame : s.heardFrame.tVer = s.tVer := s.startWake_fld aTthStat 15 14
    rw [hsame, hv]
    rfl
  have hsigs' : s.heardFrame.tether.sigs = [] := hsigs
  refine congrArg Host.Outcome.next ((State.tTake_acts _ (State.takesOwn_le ht (by decide)) hp
    (u := { s.heardFrame with tether := { s.heardFrame.tether with dly := some d, events := [] } })
    (a := .poll {
      stat := s.reg aFltStat, first := s.reg aFltFirst, time := s.reg aFltFirstTH ++ s.reg aFltFirstTL
      sig := none, barriers := s.tether.events }) ?_ rfl).trans rfl)
  have hreg := s.heardFrame_reg
  have hset : ∀ (t : Tether) (a : Nat), State.reg { s.heardFrame with tether := t } a = s.reg a := fun _ => hreg
  simp only [hv', if_true, State.forAll, List.foldl_nil, hsigs', hset]
  simp
  rfl

/-! READ and WRITE -/

theorem tthRead_reads (ht : s.takesOwn h 1) (hp : s.power.phase ≠ .powerFail) {a : Word} (hw : regWindow a.toNat = true)
    (h4 : a.toNat % 4 = 0) : exec (.tthRead h a) s
      = .next { s.startWake with tether := s.afterAnswer h 3 (.read 0 (s.regRead a.toNat)) } := by
  refine congrArg Host.Outcome.next (State.tTake_answers _ ht hp (u := s.heardFrame) ?_ rfl)
  rw [State.read32_regRead hw h4, s.regRead_heardFrame]
  rfl

theorem tthWrite_writes (ht : s.takesOwn h 1) (hp : s.power.phase ≠ .powerFail) {a : Word} (ha : a.toNat = aRngTsetL)
    (v hw : Word) : ∃ t, exec (.tthWrite h a v hw) s = .next t
      ∧ t = { s.startWake with regs := t.regs, tether := s.afterAnswer h 4 (.write 0) }
      ∧ t.reg aRngTsetL = v ∧ ∀ b, b ≠ aRngTsetL → t.reg b = s.reg b := by
  refine ⟨_, congrArg Host.Outcome.next (State.tTake_answers _ ht hp (u := s.heardFrame.setReg aRngTsetL v) ?_ rfl), rfl,
    s.heardFrame.reg_setReg_self _ _, fun b hb => (s.heardFrame.reg_setReg_ne hb _).trans (s.heardFrame_reg b)⟩
  rw [ha, State.write32_aRngTsetL]
  rfl

theorem tthWrite_misaligned (ht : s.takesOwn h 1) (hp : s.power.phase ≠ .powerFail) {a : Word} (ha : a.toNat % 4 ≠ 0)
    (v hw : Word) :
    exec (.tthWrite h a v hw) s = .next { s.startWake with tether := s.afterAnswer h 4 (.write 1) } := by
  refine congrArg Host.Outcome.next (State.tTake_answers _ ht hp (u := s.heardFrame) ?_ rfl)
  have hshape : s.heardFrame.write32 .tether a.toNat v hw = (s.heardFrame, false) := by
    simp [State.write32, State.transfer, shapeOk, ha]
  rw [hshape]
  rfl

/-! SIG, TDLY, TIME and RELEASE -/

theorem tthSig_signals (ht : s.takesOwn h 2) (hp : s.power.phase ≠ .powerFail) (w : WickId) (n : Fin 16) :
    ∃ t, exec (.tthSig h w n) s = .next t ∧ t = { s.startWake with wicks := t.wicks, tether := s.afterAnswer h 5 (.sig 0) }
      ∧ t.wk w = { s.wk w with sigs := (s.wk w).sigs ||| BitVec.ofNat 16 (2 ^ n.val) }
      ∧ ∀ u, u ≠ w → t.wk u = s.wk u := by
  refine ⟨_, congrArg Host.Outcome.next (State.tTake_answers _ ht hp (u := s.heardFrame.setSignal w n) rfl rfl), rfl, ?_,
    fun u hu => (s.heardFrame.wk_setWk_ne hu _).trans (s.heardFrame_wk u)⟩
  refine (s.heardFrame.wk_setWk_self w _).trans ?_
  rw [s.heardFrame_wk]

theorem tthTime_sets (ht : s.takes h 2) (hd : h.dst = 0) (hp : s.power.phase ≠ .powerFail) {d : BitVec 16}
    (hdly : s.tether.dly = some d) (time : BitVec 64) (synced tstep : Bool) :
    ∃ t, exec (.tthTime h time synced tstep) s = .next t
      ∧ t = { s.startWake with
        regs := t.regs, tether := { s.tether with armed := true }
        ring := { s.ring with
          next := some (time + BitVec.ofInt 64 (roundOpen ((d.toNat + 320 : Nat) : Int) 10), false) } }
      ∧ t.bit aTthStat 13 = synced ∧ ∀ a, a ≠ aTthStat → t.reg a = s.reg a := by
  have hdly' : s.heardFrame.tether.dly = some d := hdly
  refine ⟨_, congrArg Host.Outcome.next (State.tTake_all _ ht hd hp (u := (s.heardFrame.setTime
    (time + BitVec.ofInt 64 (roundOpen ((d.toNat + 320 : Nat) : Int) 10)) false).setBit aTthStat 13 synced) ?_), ?_,
    State.bit_setBit_self _ _ (by decide) _, fun a ha => (State.reg_setBit_ne _ ha _ _).trans (s.heardFrame_reg a)⟩
  · simp only [hdly']
  · obtain ⟨b, hb⟩ := s.startWake_eq
    rw [State.heardFrame, hb]
    rfl

theorem tthRelease_frees (ht : s.takes h 2) (hd : h.dst = 0) (hp : s.power.phase ≠ .powerFail) (id : BitVec 8) :
    ∃ t, exec (.tthRelease h id) s = .next t
      ∧ t = { s.startWake with wicks := t.wicks, tether := { s.tether with armed := true } }
      ∧ ∀ w, t.wk w = if (s.wk w).st = .wait (.barrier false id) ∧ (s.wk w).nowhere = false
        then { s.wk w with released := true } else s.wk w := by
  refine ⟨_, congrArg Host.Outcome.next (State.tTake_all _ ht hd hp (u := s.heardFrame.releaseWicks false id) rfl), ?_,
    fun w => ?_⟩
  · exact s.heardFrame.releaseWicks_frame false id
  · rw [s.heardFrame.wk_releaseWicks, s.heardFrame_wk]

/-! Frames that the slave does not execute -/

theorem tthSig_repeats (ht : s.takes h 2) (hd : h.dst = s.taddr) (h0 : h.dst ≠ 0) {f : TetherFrame}
    (hf : s.tether.cache.find? (fun e => e.1 == h.tag) = some (h.tag, f)) (w : WickId) (n : Fin 16) :
    exec (.tthSig h w n) s
      = .next { s.startWake with tether := { s.tether with armed := true, sent := s.tether.sent ++ [f] } } :=
  congrArg Host.Outcome.next (State.tTake_repeats _ ht hd h0 hf)

theorem satInc_16 (n : Nat) : satInc 16 n = min (n + 1) 65535 := rfl

theorem tthSig_crc (hs : s.slave = true) (he : s.tetherEn = true) (hc : s.cfgLoaded = true) (hon : s.fabricOn = true)
    (hl : h.loss = false) (hcrc : h.crcOk = false) (w : WickId) (n : Fin 16) :
    ∃ t, exec (.tthSig h w n) s = .next t ∧ s.startWake.RegsBecome [aTthCnt] t
      ∧ t.fld aTthCnt 15 0 = min (s.fld aTthCnt 15 0 + 1) 65535 := by
  refine ⟨_, congrArg Host.Outcome.next (State.tTake_crc _ hs he hc hon hl hcrc),
    s.startWake.setFld_regsBecome aTthCnt 15 0 _, ?_⟩
  refine (s.startWake.fld_setFld_self aTthCnt (hi := 15) (lo := 0) _ (by decide) (by decide)).trans (Nat.mod_eq_of_lt ?_)
  rw [satInc_16]
  omega

theorem tthFrames_failing (hp : s.power.phase = .powerFail) (a v hw : Word) (w : WickId) (n : Fin 16) :
    (s.takesOwn h 1 →
      exec (.tthRead h a) s = .next { s with tether := s.afterAnswer h 3 (.read 1 0) }
      ∧ exec (.tthWrite h a v hw) s = .next { s with tether := s.afterAnswer h 4 (.write 1) })
    ∧ (s.takesOwn h 2 → exec (.tthSig h w n) s = .next { s with tether := s.afterAnswer h 5 (.sig 1) }) :=
  ⟨fun ht => ⟨congrArg Host.Outcome.next (State.tTake_refuses _ ht hp rfl),
      congrArg Host.Outcome.next (State.tTake_refuses _ ht hp rfl)⟩,
    fun ht => congrArg Host.Outcome.next (State.tTake_refuses _ ht hp rfl)⟩

theorem tthSig_afterLoss {u : State} (w : WickId) (n : Fin 16) (hu : exec .tetherLoss s = .next u) :
    exec (.tthSig { h with loss := true } w n) s = exec (.tthSig { h with loss := false } w n) u := by
  injection hu with hu
  subst hu
  exact congrArg Host.Outcome.next (State.tTake_loss s h _ _ _)

end

/-! Tether loss, and waits that end -/

section
variable {s : State}

/-- The state a tether loss raises in. -/
def State.lost (s : State) : State :=
  (State.orReg { s with tether := { s.tether with armed := false } } aTthStat (bitw 4)).setFld aTthStat 31 24
    (s.fld aTthStat 31 24 + 1)

theorem tetherLoss_raises (hs : s.slave = true) (he : s.tetherEn = true) (hp : s.power.phase = .run)
    (hcfg : s.fld aTthCfg 15 8 ≠ 0) (ha : s.tether.armed = true) :
    ∃ t, exec .tetherLoss s = .next t ∧ { s with tether := { s.tether with armed := false } }.CycleOf [] [] t
      ∧ t.bit aTthStat 4 = true ∧ t.fld aTthStat 31 24 = (s.fld aTthStat 31 24 + 1) % 256
      ∧ (s.sev srcTether ≠ 0 → t.pend srcTether = true) := by
  have hexec : exec .tetherLoss s = .next (s.lost.raise1 srcTether) := by
    have hcond : (!s.slave || !s.tetherEn || s.fld aTthCfg 15 8 == 0 || !s.tether.armed || s.power.phase != .run) = false := by
      simp [hs, he, hp, hcfg, ha]
    show Host.Outcome.next s.tetherLoss = _
    unfold State.tetherLoss
    rw [hcond, if_neg (by decide)]
    rfl
  have hlost : { s with tether := { s.tether with armed := false } }.CycleOf [] [] s.lost :=
    ((State.orReg_cycleOf _ _ _).trans ((State.setFld_cycleOf _ _ _ _ _).mono (by simp) (by simp))).others (by
      intro a ha
      rw [List.mem_singleton.1 ha]
      unfold ownReg
      decide)
  have hrep := s.lost.raise1_reports srcTether
  have hstat : (s.lost.raise1 srcTether).reg aTthStat = s.lost.reg aTthStat :=
    hrep.regs _ (by unfold reportReg; decide)
  refine ⟨_, hexec, hlost.trans (s.lost.raise1_cycleOf srcTether), ?_, ?_, fun hsev => ?_⟩
  · rw [State.bit_congr hstat]
    refine (State.bit_setFld_ne _ aTthStat _ (by decide) (by decide)).trans ?_
    exact State.bit_orReg_self _ _ (by decide)
  · rw [State.fld, hstat]
    exact State.fld_setFld_self _ aTthStat (hi := 31) (lo := 24) _ (by decide) (by decide)
  · have hpow : s.lost.powered = true := by
      have hphase : s.lost.power.phase = .run := hp
      simp [State.powered, hphase]
    have hsame : s.lost.sev srcTether = s.sev srcTether :=
      (State.fld_setFld_addr _ aTthStat (by decide) _ _ _ _ _).trans
        (congrArg (wfld · _ _) (State.reg_orReg_ne _ (by decide) _))
    exact State.raiseAll_pend hpow (by decide) (by decide) (hsame ▸ hsev) false

theorem tetherSigTimeout_fails {w : WickId} {x : BitVec 6} (hs : s.slave = true)
    (hw : (s.wk w).st = .wait (.remote false x)) :
    ∃ t, exec (.tetherSigTimeout w) s = .next t ∧ t = { s with wicks := t.wicks, tether := t.tether, ring := t.ring }
      ∧ (t.wk w).st = .run ∧ (t.wk w).sfail = true ∧ (t.wk w).pc = (s.wk w).pc ∧ (∀ u, u ≠ w → t.wk u = s.wk u)
      ∧ t.tether.sigs = s.tether.sigs.filter (fun c => c.1 != w) := by
  have hend : (s.dropSig w).endRemote w false true
      = (s.dropSig w).setWk w { (s.wk w).resume with sfail := true } := by
    have hw' : ((s.dropSig w).wk w).st = .wait (.remote false x) := hw
    unfold State.endRemote
    rw [hw']
    rfl
  have hexec : exec (.tetherSigTimeout w) s = .next ((s.dropSig w).setWk w { (s.wk w).resume with sfail := true }) := by
    show execTetherSigTimeout w s = _
    simp only [execTetherSigTimeout, hs, hw, Bool.not_true, Bool.false_eq_true, if_false, hend]
  have hself := (s.dropSig w).wk_setWk_self w { (s.wk w).resume with sfail := true }
  refine ⟨_, hexec, rfl, ?_, ?_, ?_, fun u hu => (s.dropSig w).wk_setWk_ne hu _, rfl⟩
  · rw [hself]
    rfl
  · rw [hself]
  · rw [hself]
    rfl

end

/-- Settles O53: each frame by what the slave makes of it, through what `State.tTake` does. -/
theorem tetherSlave : Obligations.TetherSlave := by
  unfold Obligations.TetherSlave
  refine ⟨fun s h ht hp lo hi => ⟨fun hlo hhi => tthHello_versions ht hp hlo hhi, fun hbad => tthHello_refused ht hp hbad⟩,
    fun s h ht hp hv => tthPoll_first ht hp hv, fun s h ht hp hv d hsigs => tthPoll_second ht hp hv d hsigs,
    fun s h a ht hp hw h4 => tthRead_reads ht hp hw h4,
    fun s h a v hw ht hp => ⟨fun ha => tthWrite_writes ht hp ha v hw, fun ha => tthWrite_misaligned ht hp ha v hw⟩,
    fun s h w n ht hp => tthSig_signals ht hp w n, fun s h ht hp => ?tdly,
    fun s h d time synced tstep ht hd hp hdly => tthTime_sets ht hd hp hdly time synced tstep,
    fun s h id ht hd hp => tthRelease_frees ht hd hp id, fun s h f w n ht hd h0 hf => tthSig_repeats ht hd h0 hf w n,
    fun s h w n hs he hc hon hl hcrc => tthSig_crc hs he hc hon hl hcrc w n,
    fun s h a v hw w n hp => tthFrames_failing hp a v hw w n, fun s u h w n hu => tthSig_afterLoss w n hu,
    fun s hs he hp hcfg ha => tetherLoss_raises hs he hp hcfg ha, fun s w x hs hw => tetherSigTimeout_fails hs hw,
    fun s hs => ?stale⟩
  case tdly => exact congrArg Host.Outcome.next (State.tTake_answers _ ht hp (u := s.heardFrame) rfl rfl)
  case stale =>
    exact ⟨_, congrArg Host.Outcome.next (if_pos hs), s.setBit_regsBecome aTthStat 13 false,
      State.bit_setBit_self _ _ (by decide) _⟩

end Sys2Proof.Machine
end

section
/-! O52: what a tether master sends, and what its answers and their absence do (R471 to R481, R514). -/

namespace Sys2Proof.Machine
open Sys2Proof

section
variable {s : State}

/-! Frames to several slaves -/

/-- The same frame is asked of each slave of a list, what it says being read from registers. -/
theorem State.forAll_tQueue (body : State → TetherBody) (why : TetherWhy)
    (hb : ∀ s t : State, t.regs = s.regs → body t = body s) (l : List (Fin 16)) (s : State) :
    s.forAll l (fun s n => s.tQueue n (body s) why) = s.tQueues (l.map fun n => (n, body s, why)) := by
  induction l generalizing s with
  | nil => rfl
  | cons n l ih =>
    have hregs : (s.tQueue n (body s) why).regs = s.regs := by rw [State.tQueue_frame]
    have hrest : s.forAll (n :: l) (fun s n => s.tQueue n (body s) why)
        = (s.tQueue n (body s) why).forAll l (fun s n => s.tQueue n (body s) why) := rfl
    rw [hrest, ih, hb s _ hregs]
    rfl

variable (hrun : s.tRuns = true)
include hrun

theorem tetherDiscovery_asks : ∃ t, exec .tetherDiscovery s = .next t ∧ s.Asks
    (((List.finRange 16).filter (fun n => n ≠ 0 && !s.present n)).map (fun n =>
      (n, TetherBody.hello (BitVec.ofNat 8 (s.fld aTthCfg 25 25 + 1)) 2, TetherWhy.discover))) t := by
  have hall := State.forAll_tQueue (fun s => .hello (BitVec.ofNat 8 (s.fld aTthCfg 25 25 + 1)) 2) .discover
    (fun s t h => by rw [State.fld, State.reg_congr h, State.fld]) ((List.finRange 16).filter (fun n => n ≠ 0 && !s.present n)) s
  refine ⟨_, ?_, s.tQueues_asks _⟩
  show execTetherDiscovery s = _
  rw [execTetherDiscovery, hrun, if_neg (by decide)]
  exact congrArg Host.Outcome.next hall

theorem tetherDelayMeasure_asks : ∃ t, exec .tetherDelayMeasure s = .next t ∧ s.Asks
    (((List.finRange 16).filter (fun n => n ≠ 0 && s.present n && s.slvVer n == 2)).map (fun n =>
      (n, TetherBody.tdly, TetherWhy.delay))) t := by
  have hall := State.forAll_tQueue (fun _ => .tdly) .delay (fun _ _ _ => rfl)
    ((List.finRange 16).filter (fun n => n ≠ 0 && s.present n && s.slvVer n == 2)) s
  refine ⟨_, ?_, s.tQueues_asks _⟩
  show execTetherDelayMeasure s = _
  rw [execTetherDelayMeasure, hrun, if_neg (by decide)]
  exact congrArg Host.Outcome.next hall

omit hrun in
theorem State.tRuns_fabricOn (h : s.tRuns = true) : s.fabricOn = true := by
  unfold State.tRuns at h
  simp_all

/-! POLL and TIME -/

omit hrun in
/-- A free tether with no frame queued comes to the next slave of the round. -/
theorem State.tKick_round (hc : s.tether.cur = none) (hq : s.tether.queue = []) (n : Fin 16) (r : List (Fin 16)) :
    State.tKick (n :: r) s
      = if !s.present n then State.tKick r { s with tether := { s.tether with round := r } }
        else
          let f := s.tFrame n (.poll (if s.slvVer n == 2 then some (BitVec.ofNat 16 (s.fld (aTthSlv n) 11 0)) else none)
            (if s.slvVer n == 2 then s.tether.confirms[n].take 4 else []))
          { s with tether := { s.tether with
            round := r, tag := s.tether.tag + 1, cur := some (f, .poll, s.fld aTthCfg 18 16)
            confirms := if s.slvVer n == 2 then s.tether.confirms.set n (s.tether.confirms[n].drop 4)
              else s.tether.confirms
            sent := s.tether.sent ++ [f] } } := by
  rw [State.tKick]
  simp only [hc, hq]
  rfl

omit hrun in
/-- A free tether polls a present slave of version 1. -/
theorem State.tKick_polls (hc : s.tether.cur = none) (hq : s.tether.queue = []) {n : Fin 16} (r : List (Fin 16))
    (hp : s.present n = true) (hv : s.slvVer n = 1) : State.tKick (n :: r) s = { s with tether := { s.tether with
      round := r, tag := s.tether.tag + 1, cur := some (s.tFrame n (.poll none []), .poll, s.fld aTthCfg 18 16)
      sent := s.tether.sent ++ [s.tFrame n (.poll none [])] } } := by
  have hv' : (s.slvVer n == 2) = false := by
    rw [hv]
    rfl
  rw [State.tKick_round hc hq, hp, hv']
  rfl

omit hrun in
/-- A free tether with nothing to send stays free. -/
theorem State.tKick_free (hc : s.tether.cur = none) (hq : s.tether.queue = []) : State.tKick [] s = s := by
  unfold State.tKick
  simp only [hc, hq]

theorem pollRound_polls (hc : s.tether.cur = none) (hq : s.tether.queue = []) (hround : s.tether.round = [])
    {n : Fin 16} {r : List (Fin 16)} (hl : (List.finRange 16).filter (fun n => n ≠ 0 && s.present n) = n :: r)
    (hv : s.slvVer n = 1) : ∃ t, exec .pollRound s = .next t ∧ t = { s with tether := { s.tether with
      round := r, roundAt := s.timer (1000 * s.fld aTthCfg 7 0), tag := s.tether.tag + 1
      cur := some (s.tFrame n (.poll none []), .poll, s.fld aTthCfg 18 16)
      sent := s.tether.sent ++ [s.tFrame n (.poll none [])] } } := by
  have hp : s.present n = true := by
    have hmem : n ∈ (List.finRange 16).filter (fun n => n ≠ 0 && s.present n) := by
      rw [hl]
      exact List.mem_cons_self
    exact (Bool.and_eq_true_iff.1 (List.mem_filter.1 hmem).2).2
  have hpoll := State.tKick_polls (s := { s with tether := { s.tether with
    round := n :: r, roundAt := s.timer (1000 * s.fld aTthCfg 7 0) } }) hc hq r hp hv
  have hcond : (!s.tRuns || !s.tether.round.isEmpty || s.tether.cur.any (fun c => c.2.1 == .poll)) = false := by
    rw [hrun, hround, hc]
    rfl
  refine ⟨_, ?_, rfl⟩
  show execPollRound s = _
  rw [execPollRound, hcond, if_neg (by decide), hl, hpoll]
  rfl

theorem tetherTimeSend_sends : exec .tetherTimeSend s = .next { s with tether := { s.tether with
    tag := s.tether.tag + 1, tstep := false, timeAt := s.timer 100000
    sent := s.tether.sent ++ [s.tFrame 0 (.time s.now s.synced s.tether.tstep)] } } := by
  show execTetherTimeSend s = _
  rw [execTetherTimeSend, hrun]
  rfl

/-! Answers -/

omit hrun in
theorem execTetherAnswer_alone (n : Fin 16) (tag : BitVec 16) (ok : Bool) (a : TetherAnswer) :
    exec (.tetherAnswer n tag ok a []) s = .next (s.answered n tag ok a) := rfl

omit hrun in
theorem State.tRuns_master (h : s.tRuns = true) : s.tMaster = true := by
  unfold State.tRuns at h
  simp_all

omit hrun in
theorem State.tMaster_run (h : s.tMaster = true) : s.power.phase = .run := by
  unfold State.tMaster at h
  simp_all

/-- A master that runs hears the answer, which starts a wake. -/
theorem State.startWake_tRuns : s.startWake.tRuns = true := by
  obtain ⟨b, hb⟩ := s.startWake_eq
  rw [hb]
  exact hrun

theorem tetherAnswer_crc (n : Fin 16) (tag : BitVec 16) (a : TetherAnswer) :
    ∃ t, exec (.tetherAnswer n tag false a []) s = .next t ∧ s.startWake.RegsBecome [aTthCnt] t
      ∧ t.fld aTthCnt 15 0 = min (s.fld aTthCnt 15 0 + 1) 65535 := by
  have hcounts : s.answered n tag false a = s.startWake.setFld aTthCnt 15 0 (satInc 16 (s.fld aTthCnt 15 0)) := by
    simp only [State.answered, State.tRuns_master hrun, State.startWake_tRuns hrun, s.startWake_fld, Bool.not_true,
      Bool.not_false, Bool.false_eq_true, if_false, if_true]
  refine ⟨_, (execTetherAnswer_alone n tag false a).trans (congrArg Host.Outcome.next hcounts),
    s.startWake.setFld_regsBecome aTthCnt 15 0 _, ?_⟩
  refine (s.startWake.fld_setFld_self aTthCnt (hi := 15) (lo := 0) _ (by decide) (by decide)).trans (Nat.mod_eq_of_lt ?_)
  rw [satInc_16]
  omega

/-- The answer that is awaited, on a tether with nothing else to send. -/
theorem tetherAnswer_awaited {n : Fin 16} {f : TetherFrame} {why : TetherWhy} {k : Nat} {a : TetherAnswer} {u : State}
    (hc : s.tether.cur = some (f, why, k)) (hq : s.tether.queue = []) (hround : s.tether.round = [])
    (hd : f.dst.toNat = n.val) (hu : State.takeAnswer { s.startWake with tether := { s.tether with cur := none } } n why a = u)
    (htether : u.tether = { s.tether with cur := none }) : exec (.tetherAnswer n f.tag true a []) s = .next u := by
  have hfree : State.tKick [] u = u := State.tKick_free (by rw [htether]) (by rw [htether]; exact hq)
  have hr : u.tether.round = [] := by rw [htether]; exact hround
  have htakes : s.answered n f.tag true a = u := by
    simp only [State.answered, State.tRuns_master hrun, State.startWake_tRuns hrun, s.startWake_tether, Bool.not_true,
      Bool.false_eq_true, if_false, if_true, hc, hd, and_self, hu, hr, hfree]
  rw [execTetherAnswer_alone, htakes]

theorem tetherAnswer_hello {n : Fin 16} {f : TetherFrame} {k : Nat} {lo hi : BitVec 8} {part stp : BitVec 16}
    (hc : s.tether.cur = some (f, .discover, k)) (hq : s.tether.queue = []) (hround : s.tether.round = [])
    (hd : f.dst.toNat = n.val) (hcfg : s.fld aTthCfg 25 25 = 0) (hhi : hi = 1) :
    ∃ t, exec (.tetherAnswer n f.tag true (.hello lo hi part stp) []) s = .next t
      ∧ t = { s.startWake with regs := t.regs, tether := { s.tether with cur := none } }
      ∧ t.reg (aTthSlv n) = 0x90000000 ∧ ∀ a, a ≠ aTthSlv n → t.reg a = s.reg a := by
  have htaken : State.takeAnswer { s.startWake with tether := { s.tether with cur := none } } n .discover
      (.hello lo hi part stp)
      = State.setReg { s.startWake with tether := { s.tether with cur := none } } (aTthSlv n) (put (bitw 31) 29 28 1) := by
    have hcfg' : State.fld { s.startWake with tether := { s.tether with cur := none } } aTthCfg 25 25 = 0 :=
      (s.startWake_fld _ _ _).trans hcfg
    subst hhi
    simp only [State.takeAnswer, hcfg']
    rfl
  refine ⟨_, tetherAnswer_awaited hrun hc hq hround hd htaken rfl, rfl, ?_, fun a ha => ?_⟩
  · exact (State.reg_setReg_self _ _ _).trans (by decide)
  · exact (State.reg_setReg_ne _ ha _).trans (s.startWake_reg a)

theorem tetherAnswer_delay {n : Fin 16} {f : TetherFrame} {k : Nat} {d : BitVec 12}
    (hc : s.tether.cur = some (f, .delay, k)) (hq : s.tether.queue = []) (hround : s.tether.round = [])
    (hd : f.dst.toNat = n.val) :
    ∃ t, exec (.tetherAnswer n f.tag true (.tdly d) []) s = .next t
      ∧ t = { s.startWake with regs := t.regs, tether := { s.tether with cur := none } }
      ∧ t.fld (aTthSlv n) 11 0 = d.toNat ∧ t.fld (aTthSlv n) 31 12 = s.fld (aTthSlv n) 31 12
      ∧ ∀ a, a ≠ aTthSlv n → t.reg a = s.reg a := by
  refine ⟨_, tetherAnswer_awaited hrun hc hq hround hd (rfl : _ = State.setFld { s.startWake with
    tether := { s.tether with cur := none } } (aTthSlv n) 11 0 d.toNat) rfl, rfl, ?_, ?_, fun a ha => ?_⟩
  · exact (State.fld_setFld_self _ _ (hi := 11) (lo := 0) _ (by decide) (by decide)).trans (Nat.mod_eq_of_lt d.isLt)
  · exact (State.fld_setFld_ne _ _ (hi := 11) (lo := 0) _ (by decide) (by decide)).trans (s.startWake_fld _ _ _)
  · exact (State.reg_setFld_ne _ ha _ _ _).trans (s.startWake_reg a)

end

/-! Answers that do not come -/

section
variable {s : State}

theorem tetherAnswerTimeout_repeats (hrun : s.tRuns = true) {f : TetherFrame} {why : TetherWhy} {k : Nat}
    (hc : s.tether.cur = some (f, why, k + 1)) : ∃ t, exec .tetherAnswerTimeout s = .next t ∧ t = { s with
        regs := t.regs, tether := { s.tether with cur := some (f, why, k), sent := s.tether.sent ++ [f] } }
      ∧ t.fld aTthCnt 31 16 = min (s.fld aTthCnt 31 16 + 1) 65535 ∧ ∀ a, a ≠ aTthCnt → t.reg a = s.reg a := by
  have hexec : exec .tetherAnswerTimeout s = .next (State.tSend { s.setFld aTthCnt 31 16 (satInc 16 (s.fld aTthCnt 31 16)) with
      tether := { s.tether with cur := some (f, why, k) } } f) := by
    show execTetherAnswerTimeout s = _
    simp only [execTetherAnswerTimeout, State.tRuns_fabricOn hrun, hc, Bool.not_true, Bool.false_eq_true, if_false]
    rfl
  refine ⟨_, hexec, rfl, ?_, fun a ha => s.reg_setFld_ne ha _ _ _⟩
  refine (s.fld_setFld_self aTthCnt (hi := 31) (lo := 16) _ (by decide) (by decide)).trans (Nat.mod_eq_of_lt ?_)
  rw [satInc_16]
  omega

theorem aTthSlv_ne (m : Fin 16) {a : Nat} (ha : a ≤ aTthStat ∨ aTth 0x80 ≤ a) : aTthSlv m ≠ a := by
  simp only [aTthSlv, aTthStat, aTth] at ha ⊢
  omega

theorem aTthSlv_report (m : Fin 16) : ¬ reportReg (aTthSlv m) := by
  simp only [reportReg, aTthSlv, aTth, aRawStat, aFrzTH, aTlm, aLhStat, aLhCmd, aFltStat, aFltFirst, aFltEmber, aPend,
    aSev, aCnt, aFlt, aMrgStat, aMrg, aLogIdx, aKps, aRsvFlags, aRsv]
  omega

/-- The state in which the loss of a slave raises. -/
def State.slaveLost (s : State) (n : Fin 16) : State :=
  State.orReg ((State.setBit { s with tether := { s.tether with cur := none } } (aTthSlv n) 31 false).setBit
    (aTthSlv n) 30 true) aTthStat (bitw 3)

theorem State.slaveLost_regsBecome (s : State) (n : Fin 16) :
    { s with tether := { s.tether with cur := none } }.RegsBecome [aTthStat, aTthSlv n, aTthSlv n] (s.slaveLost n) :=
  ((State.setBit_regsBecome _ _ _ _).trans (State.setBit_regsBecome _ _ _ _)).trans (State.orReg_regsBecome _ _ _)

theorem State.slaveLost_slv (s : State) (n : Fin 16) {i : Nat} (hi : i ≠ 30) : (s.slaveLost n).bit (aTthSlv n) i
    = State.bit (State.setBit { s with tether := { s.tether with cur := none } } (aTthSlv n) 31 false) (aTthSlv n) i := by
  rw [State.slaveLost, State.bit_congr (State.reg_orReg_ne _ (aTthSlv_ne n (Or.inl (by decide))) _) i]
  exact State.bit_setBit_other _ _ (by decide) hi true

theorem tetherAnswerTimeout_lost (hrun : s.tRuns = true) {n : Fin 16} {f : TetherFrame}
    (hc : s.tether.cur = some (f, .poll, 0)) (hq : s.tether.queue = []) (hround : s.tether.round = [])
    (hd : f.dst.toNat = n.val) (hp : s.present n = true) :
    exec .tetherAnswerTimeout s = .next ((s.slaveLost n).raise1 srcTether) := by
  have hn : Fin.ofNat 16 f.dst.toNat = n := by
    rw [hd]
    exact Fin.ofNat_val_eq_self n
  have hgive : State.giveUp { s with tether := { s.tether with cur := none } } n .poll
      = (s.slaveLost n).raise1 srcTether := by
    have hp' : State.present { s with tether := { s.tether with cur := none } } n = true := hp
    simp only [State.giveUp, hp', Bool.not_true, Bool.false_eq_true, if_false]
    rfl
  have htether : ((s.slaveLost n).raise1 srcTether).tether = { s.tether with cur := none } := by
    rw [((s.slaveLost n).raise1_cycleOf srcTether).1]
    rfl
  have hr : ((s.slaveLost n).raise1 srcTether).tether.round = [] := by rw [htether]; exact hround
  have hfree : State.tKick [] ((s.slaveLost n).raise1 srcTether) = (s.slaveLost n).raise1 srcTether :=
    State.tKick_free (by rw [htether]) (by rw [htether]; exact hq)
  show execTetherAnswerTimeout s = _
  simp only [execTetherAnswerTimeout, State.tRuns_fabricOn hrun, hc, hn, hgive, hr, hfree, Bool.not_true,
    Bool.false_eq_true, if_false]

theorem tetherAnswerTimeout_loses (hrun : s.tRuns = true) {n : Fin 16} {f : TetherFrame}
    (hc : s.tether.cur = some (f, .poll, 0)) (hq : s.tether.queue = []) (hround : s.tether.round = [])
    (hd : f.dst.toNat = n.val) (hp : s.present n = true) :
    ∃ t, exec .tetherAnswerTimeout s = .next t
      ∧ { s with tether := { s.tether with cur := none } }.CycleOf [] [] t
      ∧ t.present n = false ∧ t.bit (aTthSlv n) 30 = true ∧ t.bit aTthStat 3 = true
      ∧ (∀ m : Fin 16, m ≠ n → t.reg (aTthSlv m) = s.reg (aTthSlv m))
      ∧ (s.sev srcTether ≠ 0 → t.pend srcTether = true) := by
  have hrep := (s.slaveLost n).raise1_reports srcTether
  have hslv : ∀ m : Fin 16, ((s.slaveLost n).raise1 srcTether).reg (aTthSlv m) = (s.slaveLost n).reg (aTthSlv m) := fun m =>
    hrep.regs _ (aTthSlv_report m)
  have hstat : ((s.slaveLost n).raise1 srcTether).reg aTthStat = (s.slaveLost n).reg aTthStat :=
    hrep.regs _ (by unfold reportReg; decide)
  have hcycle : { s with tether := { s.tether with cur := none } }.CycleOf [] [] (s.slaveLost n) := by
    obtain ⟨hst, hregs⟩ := s.slaveLost_regsBecome n
    refine State.CycleOf.others (regs := [aTthStat, aTthSlv n, aTthSlv n]) ⟨hst, fun _ _ => rfl, fun a _ ha => hregs a ha⟩ ?_
    intro a ha
    simp only [List.mem_cons, List.not_mem_nil, or_false] at ha
    rcases ha with rfl | rfl | rfl <;> simp only [ownReg, aTthSlv, aTthStat, aTth] <;> omega
  refine ⟨_, tetherAnswerTimeout_lost hrun hc hq hround hd hp, hcycle.trans ((s.slaveLost n).raise1_cycleOf srcTether),
    ?_, ?_, ?_, fun m hm => ?_, fun hsev => ?_⟩
  · refine (State.bit_congr (hslv n) 31).trans ((s.slaveLost_slv n (by decide)).trans ?_)
    exact State.bit_setBit_self _ _ (by decide) _
  · refine (State.bit_congr (hslv n) 30).trans ?_
    refine (State.bit_congr (State.reg_orReg_ne _ (aTthSlv_ne n (Or.inl (by decide))) _) 30).trans ?_
    exact State.bit_setBit_self _ _ (by decide) _
  · exact (State.bit_congr hstat 3).trans (State.bit_orReg_self _ _ (by decide))
  · refine (hslv m).trans ((s.slaveLost_regsBecome n).2 _ ?_)
    have hv : m.val ≠ n.val := fun h => hm (Fin.ext h)
    have hne : aTthSlv m ≠ aTthSlv n := by
      simp only [aTthSlv, aTth]
      omega
    simp [hne, aTthSlv_ne m (a := aTthStat) (Or.inl (by decide))]
  · have hpow : (s.slaveLost n).powered = true := by
      have hrun' : s.power.phase = .run := State.tMaster_run (State.tRuns_master hrun)
      have hphase : (s.slaveLost n).power.phase = .run := hrun'
      rw [State.powered, hphase]
    have hsame : (s.slaveLost n).sev srcTether = s.sev srcTether := by
      have hne := aTthSlv_ne n (a := aSev (srcTether / 16)) (Or.inl (by decide))
      exact congrArg (wfld · _ _) ((s.slaveLost_regsBecome n).2 _ (by simp [hne.symm]; decide))
    exact State.raiseAll_pend hpow (by decide) (by decide) (hsame ▸ hsev) false

/-! A remote access, and what else the cycle of an answer holds -/

theorem tthGo_asks (hs : s.serves = true) (hrun : s.tRuns = true) (hidle : s.bit aTthRaStat 31 = false) {n : Fin 16}
    (hn : n ≠ 0) (hp : s.present n = true) (who : Who) (write : Bool) :
    ∃ t, exec (.tthGo who write (BitVec.ofNat 6 n.val)) s = .next t
      ∧ (s.setBit aTthRaStat 31 true).Asks
        [(n, if write then .write (s.reg aTthRaAddr) (s.reg aTthRaData) else .read (s.reg aTthRaAddr), .remote write)] t := by
  have hv : n.val ≠ 0 := fun h => hn (Fin.ext h)
  have htarget : (BitVec.ofNat 6 n.val).toNat = n.val := by
    rw [BitVec.toNat_ofNat]
    omega
  have hcond : (!s.tMaster || n.val == 0 || decide (16 ≤ n.val)) = false := by
    have h16 : ¬ 16 ≤ n.val := by omega
    simp [State.tRuns_master hrun, hv, h16]
  have hgo : (s.tthGo write (BitVec.ofNat 6 n.val)).1 = (s.setBit aTthRaStat 31 true).tQueue n
      (if write then .write (s.reg aTthRaAddr) (s.reg aTthRaData) else .read (s.reg aTthRaAddr)) (.remote write) := by
    simp only [State.tthGo, hidle, htarget, hcond, Fin.ofNat_val_eq_self, hp, Bool.not_true, Bool.false_eq_true, if_false]
  exact ⟨_, congrArg Host.Outcome.next ((State.fab_serves hs _).trans hgo), State.tQueue_asks _ _ _ _⟩

theorem tetherAnswer_afterPfclr {u : State} (who : Who) (n : Fin 16) (tag : BitVec 16) (a : TetherAnswer)
    (hu : exec (.pfclr who) s = .next u) :
    exec (.tetherAnswer n tag true a [.pfclr]) s = exec (.tetherAnswer n tag true a []) u := by
  injection hu with hu
  subst hu
  rfl

theorem tetherAnswer_beforeLantern {v : State} (n : Fin 16) (tag : BitVec 16) (a : TetherAnswer) (h : RingHead) (l : Lantern)
    (hv : exec (.tetherAnswer n tag true a []) s = .next v) :
    exec (.tetherAnswer n tag true a [.lantern h l]) s = exec (.lantern { h with co := [] } l) v := by
  injection hv with hv
  subst hv
  rfl

theorem tetherAnswer_beforeTset {v : State} (who : Who) (n : Fin 16) (tag : BitVec 16) (a : TetherAnswer)
    (hv : exec (.tetherAnswer n tag true a []) s = .next v) :
    exec (.tetherAnswer n tag true a [.tset]) s = exec (.tset who) v := by
  injection hv with hv
  subst hv
  rfl

end

/-- Settles O52: what the master puts to its slaves, and what their answers and their silence bring about. -/
theorem tetherMaster : Obligations.TetherMaster := by
  unfold Obligations.TetherMaster
  refine fun s hrun => ⟨tetherDiscovery_asks hrun, tetherDelayMeasure_asks hrun,
    fun hc hq hround n r hl hv => pollRound_polls hrun hc hq hround hl hv, tetherTimeSend_sends hrun,
    tetherAnswer_crc hrun, fun n f k lo hi part stp hc hq hround hd hcfg hhi =>
      tetherAnswer_hello hrun hc hq hround hd hcfg hhi,
    fun n f k d hc hq hround hd => tetherAnswer_delay hrun hc hq hround hd,
    fun f why k hc => tetherAnswerTimeout_repeats hrun hc,
    fun n f hc hq hround hd hp => tetherAnswerTimeout_loses hrun hc hq hround hd hp,
    fun who write n hs hidle hn hp => ?go⟩
  obtain ⟨t, ht, hasks⟩ := tthGo_asks hs hrun hidle hn hp who write
  exact ⟨t, ht, hasks, fun who n tag a h l => ⟨fun u hu => tetherAnswer_afterPfclr who n tag a hu,
    fun v hv => ⟨tetherAnswer_beforeLantern n tag a h l hv, tetherAnswer_beforeTset who n tag a hv⟩⟩⟩

end Sys2Proof.Machine
end

section
/-! SUPPORT. What an unspliced ring node does with a frame that reaches it alone in its cycle (R491, R494): the wake, the
forwarding, the note of its copy, and the frame's act. -/

namespace Sys2Proof.Machine
open Sys2Proof

/-- A frame that is meant for the node at the far end of its link alone. -/
def RingBody.ofLink : RingBody → Bool
  | .dreq | .dresp _ => true
  | _ => false

/-- The state in which a ring node acts on a frame. -/
def State.heardOn (s : State) (h : RingArrival) : State := { s.startWake with ring := s.noted h }

theorem State.linkEvents_nil (s : State) (lo n : Nat) : s.linkEvents [] lo n = s := by
  have hnone : (List.range n).flatMap (fun k => ([] : List LinkEvent).filter (fun e => linkOrder e == lo + k)) = [] := by simp
  rw [State.linkEvents, hnone, List.foldl_nil]

section
variable {s : State} {h : RingArrival}

theorem State.receive_alone (hco : h.co = []) (b : RingBody) (spliced : Bool) (act : State → State) :
    s.receive h b spliced act = s.receive1 h.toRingHead b spliced act := by
  rw [State.receive, hco, State.linkEvents_nil, State.linkEvents_nil]

/-- The state of the node but for a wake, the loss of a tether and the frames seen is the state it hears the frame in. -/
theorem State.heardOn_eq (s : State) (h : RingArrival) :
    ∃ b, s.heardOn h = s.listened b s.tether.armed (noteSeen s.ring.seen h.src h.seq) := by
  obtain ⟨b, hb⟩ := s.startWake_eq
  refine ⟨b, ?_⟩
  rw [State.heardOn, hb]
  rfl

theorem State.heardOn_reg (s : State) (h : RingArrival) (a : Nat) : (s.heardOn h).reg a = s.reg a := s.startWake_reg a

theorem State.heardOn_fld (s : State) (h : RingArrival) (a hi lo : Nat) : (s.heardOn h).fld a hi lo = s.fld a hi lo :=
  congrArg (wfld · hi lo) (s.heardOn_reg h a)

theorem State.heardOn_bit (s : State) (h : RingArrival) (a i : Nat) : (s.heardOn h).bit a i = s.bit a i :=
  State.bit_congr (s.heardOn_reg h a) i

theorem State.heardOn_wk (s : State) (h : RingArrival) (w : WickId) : (s.heardOn h).wk w = s.wk w :=
  congrArg (fun v : Vector Wick 16 => v[w.val]) s.startWake_wicks

theorem State.heardOn_node (s : State) (h : RingArrival) : (s.heardOn h).node = s.node := by
  rw [State.node, s.heardOn_fld h, State.node]

theorem State.heardOn_phase (s : State) (h : RingArrival) : (s.heardOn h).power.phase = s.power.phase := by
  obtain ⟨c, hc⟩ := s.heardOn_eq h
  rw [hc]
  rfl

theorem State.heardOn_rFrame (s : State) (h : RingArrival) (dst : Byte) (b : RingBody) :
    (s.heardOn h).rFrame dst b = s.rFrame dst b := by
  obtain ⟨c, hc⟩ := s.heardOn_eq h
  rw [hc]
  rfl

theorem State.heardOn_ringLive (s : State) (h : RingArrival) : (s.heardOn h).ringLive = s.ringLive := by
  obtain ⟨c, hc⟩ := s.heardOn_eq h
  rw [hc]
  rfl

theorem State.heardOn_powered (s : State) (h : RingArrival) : (s.heardOn h).powered = s.powered := by
  obtain ⟨c, hc⟩ := s.heardOn_eq h
  rw [hc]
  rfl

theorem State.heardOn_idlePort (s : State) (h : RingArrival) (b : Bool) : (s.heardOn h).idlePort b ↔ s.idlePort b := by
  obtain ⟨c, hc⟩ := s.heardOn_eq h
  rw [hc]
  rfl

theorem State.heardOn_free (s : State) (h : RingArrival) : (s.heardOn h).free = s.free := by
  obtain ⟨c, hc⟩ := s.heardOn_eq h
  rw [hc]
  rfl

theorem State.heardOn_cycle (s : State) (h : RingArrival) : (s.heardOn h).cycle = s.cycle := by
  obtain ⟨c, hc⟩ := s.heardOn_eq h
  rw [hc]
  rfl

/-- The set of powered states holds those in which a ring node runs. -/
theorem State.ringLive_powered (hl : s.ringLive = true) : s.powered = true := by
  have hcfg : s.cfgLoaded = true := by
    unfold State.ringLive State.ringRx at hl
    simp_all
  unfold State.cfgLoaded at hcfg
  unfold State.powered
  cases hp : s.power.phase <;> simp_all

/-! The first copy of another node's frame -/

/-- The node forwards the frame, notes it, and acts on it where it is for the node. -/
theorem State.receive1_first (hf : s.ringFirst h) {b : RingBody} {v : State}
    (hv : s.startWake.forward h.toRingHead b = v) (hnode : v.node = s.node) (hlive : v.ringLive = true)
    (hseen : v.ring.seen = s.ring.seen) (spliced : Bool) (act : State → State) :
    s.receive1 h.toRingHead b spliced act
      = if b.ofLink || h.dst == 0xFF || h.dst == s.node.setWidth 8 then
          act { v with ring := { v.ring with seen := noteSeen s.ring.seen h.src h.seq } }
        else { v with ring := { v.ring with seen := noteSeen s.ring.seen h.src h.seq } } := by
  obtain ⟨-, hl, hon, hsrc, hnew⟩ := hf
  have hrx : s.ringRx = true := by
    unfold State.ringLive at hl
    simp_all
  have hsrc' : (h.src == s.node) = false := by simpa using hsrc
  have hnew' : s.ring.seen.contains (h.src, h.seq) = false := by simpa using hnew
  have hnode' : State.node { v with ring := { v.ring with seen := noteSeen s.ring.seen h.src h.seq } } = s.node := hnode
  simp only [State.receive1, hrx, hon, hv, hnode, hsrc', hlive, hseen, hnew', hnode', Bool.not_true, Bool.true_or,
    Bool.or_false, Bool.false_eq_true, if_false]
  rfl

theorem State.ringFirst_startWake (hf : s.ringFirst h) : s.startWake.node = s.node ∧ s.startWake.ringLive = true
    ∧ s.startWake.ring.seen = s.ring.seen := by
  obtain ⟨b, hb⟩ := s.startWake_eq
  rw [hb]
  exact ⟨rfl, hf.2.1, rfl⟩

/-- A frame for this node, or at the end of its hops, is not forwarded. -/
theorem State.forward_ends (hend : h.dst = s.node.setWidth 8 ∨ h.hops = 0) (b : RingBody) :
    s.forward h.toRingHead b = s := by
  have hcond : (!s.ringLive || h.src == s.node || h.hops == 0 || h.dst == s.node.setWidth 8) = true := by
    obtain hd | hh := hend
    · simp [hd]
    · simp [hh]
  rw [State.forward, if_pos hcond]

theorem State.forward_ofLink {b : RingBody} (hb : b.ofLink = true) : s.forward h.toRingHead b = s := by
  unfold State.forward
  split
  · rfl
  · cases b with
    | dreq => rfl
    | dresp res => rfl
    | _ => exact absurd hb Bool.false_ne_true

/-- The node acts on a frame that it hears. -/
theorem State.receive_hears (hh : s.ringHears h) (b : RingBody) (spliced : Bool) (act : State → State) :
    s.receive h b spliced act = act (s.heardOn h) := by
  obtain ⟨hf, hdst⟩ := hh
  obtain ⟨hnode, hlive, hseen⟩ := State.ringFirst_startWake hf
  have hend : h.dst = s.startWake.node.setWidth 8 ∨ h.hops = 0 := by
    rw [hnode]
    exact hdst.imp id fun hd => hd.2
  have hmine : (b.ofLink || h.dst == 0xFF || h.dst == s.node.setWidth 8) = true := by
    obtain hd | ⟨hd, -⟩ := hdst
    · simp [hd]
    · simp [hd]
  rw [State.receive_alone hf.1, State.receive1_first hf (State.forward_ends hend b) hnode hlive hseen, if_pos hmine,
    s.startWake_ring]
  rfl

/-- The node acts on the first copy of a frame of its link. -/
theorem State.receive_ofLink (hf : s.ringFirst h) {b : RingBody} (hb : b.ofLink = true) (spliced : Bool)
    (act : State → State) : s.receive h b spliced act = act (s.heardOn h) := by
  obtain ⟨hnode, hlive, hseen⟩ := State.ringFirst_startWake hf
  rw [State.receive_alone hf.1, State.receive1_first hf (State.forward_ofLink hb) hnode hlive hseen, hb, if_pos (by simp),
    s.startWake_ring]
  rfl

end

end Sys2Proof.Machine
end

section
/-! O54: what a ring node does with the frames that reach it (R490 to R514). -/

namespace Sys2Proof.Machine
open Sys2Proof

section
variable {s : State} {h : RingArrival}

/-! TIME -/

/-- A node that is no time master names the master, and corrects its time over a link whose delay it knows. -/
theorem State.takeTime_heardOn (hm : s.bit aRngStat 30 = false) (time : BitVec 64) (corr : Int) (tstep : Bool) :
    (s.heardOn h).takeTime h.toRingHead time corr tstep
      = if s.ring.ports[portIx h.portB].twice.length = 16 then
          ((s.heardOn h).setFld aRngStat 21 16 h.src.toNat).correct s.ring.ports[portIx h.portB].twice time corr tstep
        else (s.heardOn h).setFld aRngStat 21 16 h.src.toNat := by
  have hm' : (s.heardOn h).bit aRngStat 30 = false := (s.heardOn_bit h _ _).trans hm
  unfold State.takeTime
  rw [hm', Bool.false_and, if_neg Bool.false_ne_true, State.leaveMaster, hm', if_neg Bool.false_ne_true]
  rfl

theorem ringTime_names (hh : s.ringHears h) (hm : s.bit aRngStat 30 = false)
    (hlen : s.ring.ports[portIx h.portB].twice.length ≠ 16) (time : BitVec 64) (corr : Int) (tstep : Bool) :
    ∃ t, exec (.ringTime h time corr tstep) s = .next t ∧ t = { s.startWake with regs := t.regs, ring := s.noted h }
      ∧ t.fld aRngStat 21 16 = h.src.toNat ∧ ∀ a, a ≠ aRngStat → t.reg a = s.reg a := by
  refine ⟨_, congrArg Host.Outcome.next ((State.receive_hears hh _ _ _).trans ((State.takeTime_heardOn hm time corr tstep).trans
    (if_neg hlen))), rfl, ?_, fun a ha => ?_⟩
  · exact ((s.heardOn h).fld_setFld_self aRngStat (hi := 21) (lo := 16) _ (by decide) (by decide)).trans
      (Nat.mod_eq_of_lt h.src.isLt)
  · exact ((s.heardOn h).reg_setFld_ne ha _ _ _).trans (s.heardOn_reg h a)

/-- The node's time moved by the servo for an offset, before a new lock shows. -/
def State.nudged (s : State) (off : Int) (good : Nat) : State :=
  { s.setFld aRngOfs 15 0 (unsgn 16 (clip (-32768) 32767 (roundOpen off 3200))) with
    ring := { s.ring with
      next := some (s.now + 1 + BitVec.ofInt 64 (clip (-1) 1 (Config.servo s.free (off / 32))), false)
      good := min good 8 }
    free := s.free + 1 }

/-- A time that is off by at most 1 µs moves the next count by at most one. -/
theorem State.correct_near (twice : List Nat) (t : BitVec 64) (corr : Int) (tstep : Bool) {off : Int}
    (hoff : off = 32 * (10000 * (t - s.now).toInt + corr) + (twice.foldl (· + ·) 0 : Nat))
    (hnear : off.natAbs ≤ 32 * 1000000) : ∃ (move : Int) (u : State), move ∈ [(-1 : Int), 0, 1]
      ∧ s.correct twice t corr tstep = u
      ∧ u = { s with
        regs := u.regs, ring := { s.ring with next := u.ring.next, good := u.ring.good }, free := s.free + 1 }
      ∧ u.ring.next = some (s.now + 1 + BitVec.ofInt 64 move, false)
      ∧ u.reg aRngOfs = (s.setFld aRngOfs 15 0 (unsgn 16 (clip (-32768) 32767 (roundOpen off 3200)))).reg aRngOfs
      ∧ ∀ a, a ≠ aRngStat → a ≠ aRngOfs → u.reg a = s.reg a := by
  have hmove : clip (-1) 1 (Config.servo s.free (off / 32)) ∈ [(-1 : Int), 0, 1] := by
    have hrange : -1 ≤ clip (-1) 1 (Config.servo s.free (off / 32)) ∧ clip (-1) 1 (Config.servo s.free (off / 32)) ≤ 1 := by
      unfold clip
      split
      · decide
      · split <;> omega
    simp only [List.mem_cons, List.not_mem_nil, or_false]
    omega
  have hnear' : ¬ 32 * 1000000 < off.natAbs := by omega
  obtain ⟨c, good, hgood⟩ : ∃ (c : Bool) (good : Nat), s.correct twice t corr tstep
      = if c then (s.nudged off good).setBit aRngStat 31 true else s.nudged off good := by
    unfold State.correct
    dsimp only
    rw [← hoff, if_neg hnear']
    exact ⟨_, _, rfl⟩
  refine ⟨_, _, hmove, hgood, ?_⟩
  cases c
  · exact ⟨rfl, rfl, rfl, fun a _ hb => s.reg_setFld_ne hb _ _ _⟩
  · refine ⟨rfl, rfl, State.reg_setBit_ne _ (by decide) _ _, fun a ha hb => ?_⟩
    exact (State.reg_setBit_ne _ ha _ _).trans (s.reg_setFld_ne hb _ _ _)

theorem ringTime_corrects (hh : s.ringHears h) (hm : s.bit aRngStat 30 = false)
    (hlen : s.ring.ports[portIx h.portB].twice.length = 16) (time : BitVec 64) (corr : Int) (tstep : Bool) {off : Int}
    (hoff : off = 32 * (10000 * (time - s.now).toInt + corr)
      + (s.ring.ports[portIx h.portB].twice.foldl (· + ·) 0 : Nat)) (hnear : off.natAbs ≤ 32 * 1000000) :
    ∃ t, exec (.ringTime h time corr tstep) s = .next t
      ∧ t = { s.startWake with regs := t.regs, ring := t.ring, free := s.free + 1 }
      ∧ t.fld aRngOfs 15 0 = unsgn 16 (clip (-32768) 32767 (roundOpen off 3200))
      ∧ t.now = s.now ∧ t.ring.next ∈ [some (s.now, false), some (s.now + 1, false), some (s.now + 2, false)]
      ∧ ∀ a, a ≠ aRngStat → a ≠ aRngOfs → t.reg a = s.reg a := by
  have hnow : ((s.heardOn h).setFld aRngStat 21 16 h.src.toNat).now = s.now := rfl
  obtain ⟨move, u, hmove, hu, hst, hnext, hofs, hregs⟩ := State.correct_near
    (s := (s.heardOn h).setFld aRngStat 21 16 h.src.toNat) s.ring.ports[portIx h.portB].twice time corr tstep
    (hoff.trans (by rw [hnow])) hnear
  refine ⟨u, congrArg Host.Outcome.next ((State.receive_hears hh _ _ _).trans ((State.takeTime_heardOn hm time corr tstep).trans
    ((if_pos hlen).trans hu))), ?_, ?_, ?_, ?_, fun a ha hb => ?_⟩
  · have hfree : ((s.heardOn h).setFld aRngStat 21 16 h.src.toNat).free = s.free := s.heardOn_free h
    rw [hst, hfree]
    rfl
  · rw [State.fld, hofs]
    refine (State.fld_setFld_self _ aRngOfs (hi := 15) (lo := 0) _ (by decide) (by decide)).trans (Nat.mod_eq_of_lt ?_)
    unfold unsgn
    omega
  · rw [hst]
    rfl
  · rw [hnext, hnow]
    have hm : move = -1 ∨ move = 0 ∨ move = 1 := by simpa using hmove
    rw [BitVec.add_assoc]
    obtain rfl | rfl | rfl := hm
    · simp
    · simp
    · simp
  · exact (hregs a ha hb).trans (((s.heardOn h).reg_setFld_ne ha _ _ _).trans (s.heardOn_reg h a))

/-! LANTERN and PFCLEAR -/

theorem lantern_raises (hh : s.ringHears h) (l : Lantern) (hbest : s.ring.best = none) (hrun : s.ring.run = none)
    (hclear : s.ring.clearAt = none) : ∃ t, exec (.lantern h l) s = .next t ∧ s.CycleOf [] [] t
      ∧ t.ring.seen = (s.noted h).seen ∧ (s.sev srcRemoteLantern < 2 → t.ring.best = some l)
      ∧ (s.sev srcRemoteLantern ≠ 0 → t.pend srcRemoteLantern = true) := by
  have hknown : (s.heardOn h).pfKnown l = false := by
    show (s.ring.best.any _ || s.ring.run.any _) = false
    rw [hbest, hrun]
    rfl
  have hstale : (s.heardOn h).pfStale l = false := by
    show s.ring.clearAt.any _ = false
    rw [hclear]
    rfl
  have hbest' : (s.heardOn h).ring.best = none := hbest
  have htake : (s.heardOn h).takeLantern l
      = State.raise1 { s.heardOn h with ring := { s.noted h with best := some l } } srcRemoteLantern := by
    simp only [State.takeLantern, State.pfEnter, hknown, hstale, Bool.or_self, Bool.false_eq_true, if_false, hbest']
    rfl
  have hpow : State.powered { s.heardOn h with ring := { s.noted h with best := some l } } = true :=
    (s.heardOn_powered h).trans (State.ringLive_powered hh.1.2.1)
  have hrep := State.raise1_reports { s.heardOn h with ring := { s.noted h with best := some l } } srcRemoteLantern
  refine ⟨_, congrArg Host.Outcome.next ((State.receive_hears hh _ _ _).trans htake), ?_, ?_, fun _ => ?_, fun hsev => ?_⟩
  · obtain ⟨b, hb⟩ := s.startWake_eq
    have hstart : s.CycleOf [] [] { s.heardOn h with ring := { s.noted h with best := some l } } := by
      refine ⟨?_, fun q _ => ?_, fun a _ _ => s.heardOn_reg h a⟩
      · rw [State.heardOn, hb]
      · rw [State.heardOn, hb]
        rfl
    exact hstart.trans (State.raise1_cycleOf _ _)
  · rw [hrep.ring]
  · rw [hrep.ring]
  · have hsame : State.sev { s.heardOn h with ring := { s.noted h with best := some l } } srcRemoteLantern
        = s.sev srcRemoteLantern := s.heardOn_fld h _ _ _
    exact State.raiseAll_pend hpow (by decide) (by decide) (hsame ▸ hsev) false

/-- A clear empties the record and takes the later of its TC and that of the latest clear so far. -/
theorem State.pfClearTo_eq (s : State) (tc : BitVec 64) : s.pfClearTo tc
    = { s with ring := { s.ring with best := none, run := none, clearAt := some (s.laterTc tc) } } := by
  unfold State.pfClearTo State.laterTc State.pfEmpty
  dsimp only
  cases s.ring.clearAt with
  | none => rfl
  | some u =>
    have hle : (if u ≤ tc then tc else u) = if tc.toNat < u.toNat then u else tc := by
      by_cases hu : u ≤ tc
      · rw [if_pos hu, if_neg (Nat.not_lt.2 hu)]
      · rw [if_neg hu, if_pos (Nat.lt_of_not_le hu)]
    dsimp only
    rw [hle]

theorem pfclear_empties (hh : s.ringHears h) (tc : BitVec 64) : exec (.pfclear h tc) s = .next { s.startWake with
    ring := { s.noted h with best := none, run := none, clearAt := some (s.laterTc tc) } } := by
  refine congrArg Host.Outcome.next ((State.receive_hears hh _ _ _).trans ?_)
  exact (s.heardOn h).pfClearTo_eq tc

/-! SIG and SIGACK -/

/-- A frame of the node's own, none of its TIME, goes out from both idle ports. -/
theorem State.rSend_heardOn (hl : s.ringLive = true) (hidle : ∀ b, s.idlePort b) {u : State}
    (hu : u.ring = s.noted h) (hnode : u.node = s.node) (hlive : u.ringLive = s.ringLive) (hcycle : u.cycle = s.cycle)
    (dst : Byte) (b : RingBody) (hb : ∀ t c ts, b ≠ .time t c ts) :
    u.rSend dst b = { u with ring := (s.noted h).sends s.cycle (s.rFrame dst b) } := by
  have hframe : u.rFrame dst b = s.rFrame dst b := by
    rw [State.rFrame, hnode, hu]
    rfl
  have hports : ∀ c, u.idlePort c := fun c => by
    rw [State.idlePort, hu, hcycle]
    exact hidle c
  have hstamp : (RingTx.own (u.rFrame dst b)).stamp u.now = .own (u.rFrame dst b) := by
    cases b with
    | time t c ts => exact absurd rfl (hb t c ts)
    | _ => rfl
  rw [State.rSend_idle (hlive.trans hl) hports dst b hstamp, hu, hframe, hcycle]

theorem ringSig_answers (hh : s.ringHears h) (hidle : ∀ b, s.idlePort b) (w : WickId) (n : Fin 16) :
    ∃ t, exec (.ringSig h w n) s = .next t
      ∧ t = { s.startWake with
        wicks := t.wicks
        ring := (s.noted h).sends s.cycle (s.rFrame (h.src.setWidth 8) (.sigack h.seq)) }
      ∧ t.wk w = { s.wk w with sigs := (s.wk w).sigs ||| BitVec.ofNat 16 (2 ^ n.val) }
      ∧ ∀ u, u ≠ w → t.wk u = s.wk u := by
  have hsend := State.rSend_heardOn hh.1.2.1 hidle (u := (s.heardOn h).setSignal w n) rfl (s.heardOn_node h)
    (s.heardOn_ringLive h) (s.heardOn_cycle h) (h.src.setWidth 8) (.sigack h.seq) (fun _ _ _ => nofun)
  refine ⟨_, congrArg Host.Outcome.next ((State.receive_hears hh _ _ _).trans hsend), rfl, ?_, fun u hu => ?_⟩
  · refine ((s.heardOn h).wk_setWk_self w _).trans ?_
    rw [s.heardOn_wk h]
  · exact ((s.heardOn h).wk_setWk_ne hu _).trans (s.heardOn_wk h u)

theorem sigack_ends (hh : s.ringHears h) {w : WickId} {q : BitVec 16} {x : BitVec 6} (hsigs : s.ring.sigs = [(w, q)])
    (hw : (s.wk w).st = .wait (.remote true x)) : ∃ t, exec (.sigack h q) s = .next t
      ∧ t = { s.startWake with wicks := t.wicks, ring := { s.noted h with sigs := [] } }
      ∧ (t.wk w).st = .run ∧ (t.wk w).sfail = false ∧ (t.wk w).pc = (s.wk w).pc ∧ ∀ u, u ≠ w → t.wk u = s.wk u := by
  have hwk : ∀ u, State.wk { s.heardOn h with ring := { s.noted h with sigs := [] } } u = s.wk u := s.heardOn_wk h
  have hsigs' : (s.heardOn h).ring.sigs = [(w, q)] := hsigs
  have htake : (s.heardOn h).takeSigack q = State.setWk { s.heardOn h with ring := { s.noted h with sigs := [] } } w
      { (s.wk w).resume with sfail := false } := by
    have hwait : (State.wk { s.heardOn h with ring := { s.noted h with sigs := [] } } w).st = .wait (.remote true x) := by
      rw [hwk]
      exact hw
    have hend : State.endRemote { s.heardOn h with ring := { s.noted h with sigs := [] } } w true false
        = State.setWk { s.heardOn h with ring := { s.noted h with sigs := [] } } w
          { (s.wk w).resume with sfail := false } := by
      rw [State.endRemote, hwait, hwk]
      rfl
    rw [← hend, State.takeSigack, hsigs']
    simp
    rfl
  have hself := State.wk_setWk_self { s.heardOn h with ring := { s.noted h with sigs := [] } } w
    { (s.wk w).resume with sfail := false }
  refine ⟨_, congrArg Host.Outcome.next ((State.receive_hears hh _ _ _).trans htake), rfl, ?_, ?_, ?_, fun u hu => ?_⟩
  · rw [hself]
    rfl
  · rw [hself]
  · rw [hself]
    rfl
  · exact (State.wk_setWk_ne _ hu _).trans (hwk u)

/-! ARRIVE and WITHDRAW -/

theorem arrive_joins (hh : s.ringHears h) {id : BitVec 8} {set : BitVec 64}
    (hset : set = arrivals s.ring.sets id ||| BitVec.ofNat 64 (2 ^ h.src.toNat)) (hopen : set &&& s.rBarm ≠ s.rBarm) :
    exec (.arrive h id) s = .next { s.startWake with
      ring := { s.noted h with sets := setArrivals s.ring.sets id set } } := by
  refine congrArg Host.Outcome.next ((State.receive_hears hh _ _ _).trans ?_)
  have hmask : (s.heardOn h).rBarm = s.rBarm := by
    rw [State.rBarm, s.heardOn_reg h, s.heardOn_reg h, State.rBarm]
  have hsets : arrivals (s.heardOn h).ring.sets id ||| BitVec.ofNat 64 (2 ^ h.src.toNat) = set := hset.symm
  simp only [State.rArrive, hmask, hsets, hopen, and_false, if_false]
  rfl

theorem arrive_releases (hh : s.ringHears h) {id : BitVec 8} {set : BitVec 64}
    (hset : set = arrivals s.ring.sets id ||| BitVec.ofNat 64 (2 ^ h.src.toNat)) (hfull : set &&& s.rBarm = s.rBarm)
    (hmask : s.rBarm ≠ 0) : ∃ t, exec (.arrive h id) s = .next t
      ∧ t = { s.startWake with wicks := t.wicks, ring := { s.noted h with sets := setArrivals s.ring.sets id 0 } }
      ∧ ∀ w, t.wk w = if (s.wk w).st = .wait (.barrier true id) ∧ (s.wk w).nowhere = false
        then { s.wk w with released := true } else s.wk w := by
  have hmask' : (s.heardOn h).rBarm = s.rBarm := by
    rw [State.rBarm, s.heardOn_reg h, s.heardOn_reg h, State.rBarm]
  have hsets : arrivals (s.heardOn h).ring.sets id ||| BitVec.ofNat 64 (2 ^ h.src.toNat) = set := hset.symm
  have htake : (s.heardOn h).rArrive h.src id = State.releaseWicks { s.heardOn h with
      ring := { s.noted h with sets := setArrivals s.ring.sets id 0 } } true id := by
    simp only [State.rArrive, hmask', hsets, hfull, hmask, ne_eq, not_false_eq_true, and_self, if_true]
    rfl
  refine ⟨_, congrArg Host.Outcome.next ((State.receive_hears hh _ _ _).trans htake), State.releaseWicks_frame _ _ _,
    fun w => ?_⟩
  have hwk : State.wk { s.heardOn h with ring := { s.noted h with sets := setArrivals s.ring.sets id 0 } } w = s.wk w :=
    s.heardOn_wk h w
  rw [State.wk_releaseWicks, hwk]

theorem withdraw_leaves (hh : s.ringHears h) (id : BitVec 8) : exec (.withdraw h id) s = .next { s.startWake with
    ring := { s.noted h with
      sets := setArrivals s.ring.sets id (arrivals s.ring.sets id &&& ~~~BitVec.ofNat 64 (2 ^ h.src.toNat)) } } :=
  congrArg Host.Outcome.next (State.receive_hears hh _ _ _)

/-! Remote accesses -/

theorem ringRead_answers (hh : s.ringHears h) (hidle : ∀ b, s.idlePort b) {a : Word} (hp : s.power.phase ≠ .powerFail)
    (hw : regWindow a.toNat = true) (h4 : a.toNat % 4 = 0) : exec (.ringRead h a) s = .next { s.startWake with
      ring := (s.noted h).sends s.cycle (s.rFrame (h.src.setWidth 8) (.resp h.seq 0 (s.regRead a.toNat))) } := by
  have hphase : ((s.heardOn h).power.phase == .powerFail) = false := by
    rw [s.heardOn_phase h]
    simpa using hp
  have hregRead : (s.heardOn h).regRead a.toNat = s.regRead a.toNat := by
    obtain ⟨b, hb⟩ := s.heardOn_eq h
    rw [hb]
    exact s.regRead_listened _ _ _ _
  refine congrArg Host.Outcome.next ((State.receive_hears hh _ _ _).trans ?_)
  rw [hphase, if_neg Bool.false_ne_true, State.read32_regRead hw h4, hregRead]
  exact State.rSend_heardOn hh.1.2.1 hidle rfl (s.heardOn_node h) (s.heardOn_ringLive h) (s.heardOn_cycle h)
    (h.src.setWidth 8) (.resp h.seq 0 (s.regRead a.toNat)) (fun _ _ _ => nofun)

theorem ringRead_refused (hh : s.ringHears h) (hidle : ∀ b, s.idlePort b) (a : Word) (hp : s.power.phase = .powerFail) :
    exec (.ringRead h a) s = .next { s with
      ring := (s.noted h).sends s.cycle (s.rFrame (h.src.setWidth 8) (.resp h.seq 1 0)) } := by
  have hphase : ((s.heardOn h).power.phase == .powerFail) = true := by
    rw [s.heardOn_phase h, hp]
    rfl
  refine congrArg Host.Outcome.next ((State.receive_hears hh _ _ _).trans ?_)
  rw [hphase, if_pos rfl]
  refine (State.rSend_heardOn hh.1.2.1 hidle rfl (s.heardOn_node h) (s.heardOn_ringLive h) (s.heardOn_cycle h)
    (h.src.setWidth 8) (.resp h.seq 1 0) (fun _ _ _ => nofun)).trans ?_
  rw [State.heardOn, State.startWake_powerFail hp]

theorem State.node_setReg (s : State) {a : Nat} (ha : aRngCfg ≠ a) (v : Word) : (s.setReg a v).node = s.node :=
  congrArg (fun x => BitVec.ofNat 6 (wfld x 5 0)) (s.reg_setReg_ne ha v)

theorem State.ringLive_setReg (s : State) {a : Nat} (ha : aRngCfg ≠ a ∧ aRngStat ≠ a) (v : Word) :
    (s.setReg a v).ringLive = s.ringLive := by
  have hring : (s.setReg a v).onRing = s.onRing := State.bit_congr (s.reg_setReg_ne ha.1 v) 31
  have hsplice : (s.setReg a v).bit aRngStat 29 = s.bit aRngStat 29 := State.bit_congr (s.reg_setReg_ne ha.2 v) 29
  rw [State.ringLive, State.ringRx, hring, hsplice]
  rfl

theorem ringWrite_writes (hh : s.ringHears h) (hidle : ∀ b, s.idlePort b) {a : Word} (v hw : Word)
    (hen : s.bit aRngCfg 29 = true) (hp : s.power.phase ≠ .powerFail) (ha : a.toNat = aRngTsetL) :
    ∃ t, exec (.ringWrite h a v hw) s = .next t ∧ t = { s.startWake with
        regs := t.regs
        ring := (s.noted h).sends s.cycle (s.rFrame (h.src.setWidth 8) (.resp h.seq 0 0)) }
      ∧ t.reg aRngTsetL = v ∧ ∀ b, b ≠ aRngTsetL → t.reg b = s.reg b := by
  have hcond : ((s.heardOn h).bit aRngCfg 29 && (s.heardOn h).power.phase != .powerFail) = true := by
    rw [s.heardOn_bit h, hen, s.heardOn_phase h]
    simpa using hp
  have hsend := State.rSend_heardOn hh.1.2.1 hidle (u := (s.heardOn h).setReg aRngTsetL v) rfl
    ((s.heardOn h).node_setReg (by decide) v |>.trans (s.heardOn_node h))
    ((s.heardOn h).ringLive_setReg (by decide) v |>.trans (s.heardOn_ringLive h)) (s.heardOn_cycle h)
    (h.src.setWidth 8) (.resp h.seq 0 0) (fun _ _ _ => nofun)
  have hexec : exec (.ringWrite h a v hw) s
      = .next (((s.heardOn h).setReg aRngTsetL v).rSend (h.src.setWidth 8) (.resp h.seq 0 0)) := by
    refine congrArg Host.Outcome.next ((State.receive_hears hh _ _ _).trans ?_)
    rw [hcond, if_pos rfl, ha, State.write32_aRngTsetL]
    rfl
  refine ⟨_, hexec.trans (congrArg Host.Outcome.next hsend), rfl, ?_, fun b hb => ?_⟩
  · exact State.reg_setReg_self _ _ _
  · exact (State.reg_setReg_ne _ hb _).trans (s.heardOn_reg h b)

theorem ringWrite_refused (hh : s.ringHears h) (hidle : ∀ b, s.idlePort b) (a v hw : Word)
    (hbad : s.bit aRngCfg 29 = false ∨ s.power.phase = .powerFail) : exec (.ringWrite h a v hw) s = .next { s.startWake with
      ring := (s.noted h).sends s.cycle (s.rFrame (h.src.setWidth 8) (.resp h.seq 1 0)) } := by
  have hcond : ((s.heardOn h).bit aRngCfg 29 && (s.heardOn h).power.phase != .powerFail) = false := by
    rw [s.heardOn_bit h, s.heardOn_phase h]
    obtain hb | hb := hbad
    · rw [hb]
      rfl
    · rw [hb]
      exact Bool.and_false _
  refine congrArg Host.Outcome.next ((State.receive_hears hh _ _ _).trans ?_)
  rw [hcond, if_neg Bool.false_ne_true]
  exact State.rSend_heardOn hh.1.2.1 hidle rfl (s.heardOn_node h) (s.heardOn_ringLive h) (s.heardOn_cycle h)
    (h.src.setWidth 8) (.resp h.seq 1 0) (fun _ _ _ => nofun)

theorem resp_ends (hh : s.ringHears h) {q : BitVec 16} {write : Bool} (hra : s.ring.ra = some (q, write)) (w : Word) :
    ∃ t, exec (.resp h q 0 w) s = .next t
      ∧ t = { s.startWake with regs := t.regs, ring := { s.noted h with ra := none } }
      ∧ t.bit aRngRaStat 31 = false ∧ t.fld aRngRaStat 3 0 = 0
      ∧ t.reg aRngRaData = (if write then s.reg aRngRaData else w)
      ∧ ∀ a, a ≠ aRngRaStat → a ≠ aRngRaData → t.reg a = s.reg a := by
  have hra' : (s.heardOn h).ring.ra = some (q, write) := hra
  have htake : (s.heardOn h).takeResp q 0 w = State.raEnd (if write then { s.heardOn h with ring := { s.noted h with ra := none } }
      else State.setReg { s.heardOn h with ring := { s.noted h with ra := none } } aRngRaData w) aRngRaStat 0 := by
    rw [State.takeResp, hra']
    refine (if_pos rfl).trans ?_
    cases write <;> rfl
  have hreg : ∀ a, State.reg { s.heardOn h with ring := { s.noted h with ra := none } } a = s.reg a := s.heardOn_reg h
  refine ⟨_, congrArg Host.Outcome.next ((State.receive_hears hh _ _ _).trans htake), ?_, State.bit_setBit_self _ _ (by decide) _, ?_, ?_,
    fun a ha hb => ?_⟩
  · cases write <;> rfl
  · refine (State.fld_setBit_ne _ aRngRaStat (by decide) (by decide) _).trans ?_
    exact State.fld_setFld_self _ aRngRaStat (hi := 3) (lo := 0) _ (by decide) (by decide)
  · refine (State.reg_setBit_ne _ (by decide) _ _).trans ((State.reg_setFld_ne _ (by decide) _ _ _).trans ?_)
    cases write
    · exact State.reg_setReg_self _ _ _
    · exact hreg _
  · refine (State.reg_setBit_ne _ ha _ _).trans ((State.reg_setFld_ne _ ha _ _ _).trans ?_)
    cases write
    · exact (State.reg_setReg_ne _ hb _).trans (hreg a)
    · exact hreg a

/-! The link's own frames -/

theorem dreq_answers (hf : s.ringFirst h) (hidle : s.idlePort h.portB) : exec (.dreq h) s = .next { s.startWake with
    free := s.free + 1
    ring := ((s.noted h).starts s.cycle h.portB (.own (s.rFrame 0 (.dresp (Config.residence s.free))))).counted } := by
  have hlive : (s.heardOn h).ringLive = true := (s.heardOn_ringLive h).trans hf.2.1
  refine congrArg Host.Outcome.next ((State.receive_ofLink hf rfl _ _).trans ?_)
  rw [State.rLink, if_pos hlive, State.rOut_idle ((s.heardOn_idlePort h _).2 hidle), s.heardOn_rFrame h, s.heardOn_cycle h,
    s.heardOn_free h]
  obtain ⟨c, hc⟩ := s.startWake_eq
  rw [State.draw, State.heardOn, State.takeSeq, hc]
  rfl

/-- The link delay that the mean of 16 measurements shows. -/
def linkDelayShown (twice : List Nat) : BitVec 16 :=
  if 0 ≤ roundOpen (twice.foldl (· + ·) 0 : Nat) 3200 ∧ roundOpen (twice.foldl (· + ·) 0 : Nat) 3200 < 65536 then
    BitVec.ofInt 16 (roundOpen (twice.foldl (· + ·) 0 : Nat) 3200)
  else Config.linkDelay (roundOpen (twice.foldl (· + ·) 0 : Nat) 3200)

theorem dresp_measures (hf : s.ringFirst h) (res trip : Nat) {p : RingPort} (hp : p = s.ring.ports[portIx h.portB])
    {ring : Ring} (hring : ring = { s.noted h with
      ports := s.ring.ports.set (portIx h.portB) { p with twice := ((trip - res) :: p.twice).take 16 } }) :
    (p.twice.length < 15 → exec (.dresp h res trip) s = .next { s.startWake with ring := ring })
    ∧ (15 ≤ p.twice.length → ∃ t, exec (.dresp h res trip) s = .next t ∧ t = { s.startWake with regs := t.regs, ring := ring }
      ∧ t.bit (if h.portB then aRngDlyB else aRngDlyA) 31 = true
      ∧ ∀ a, a ≠ (if h.portB then aRngDlyB else aRngDlyA) → t.reg a = s.reg a) := by
  have hlen : (((trip - res) :: p.twice).take 16).length = min 16 (p.twice.length + 1) := by
    rw [List.length_take, List.length_cons]
  have htake : (s.heardOn h).takeDresp h.portB res trip
      = if (((trip - res) :: p.twice).take 16).length < 16 then { s.startWake with ring := ring }
        else State.setReg { s.startWake with ring := ring } (if h.portB then aRngDlyB else aRngDlyA)
          (setb (put 0 15 0 (linkDelayShown (((trip - res) :: p.twice).take 16)).toNat) 31 true) := by
    subst hp hring
    rfl
  have htakes := (State.receive_ofLink hf (b := .dresp res) rfl false (fun u => u.takeDresp h.portB res trip)).trans htake
  refine ⟨fun hshort => congrArg Host.Outcome.next (htakes.trans (if_pos (by omega))), fun hlong => ?_⟩
  refine ⟨_, congrArg Host.Outcome.next (htakes.trans (if_neg (by omega))), rfl, ?_, fun a ha => ?_⟩
  · rw [State.bit, State.reg_setReg_self, tst_setb _ (by decide), if_pos rfl]
  · exact (State.reg_setReg_ne _ ha _).trans (s.startWake_reg a)

/-! Frames for other nodes -/

/-- What a node forwards of a frame that is not its own to act on. -/
def onward (h : RingArrival) (b : RingBody) : RingTx :=
  .forwarded { src := h.src, dst := h.dst, hops := h.hops - 1, seq := h.seq, body := b }

theorem arrive_passes (hf : s.ringFirst h) (hall : h.dst ≠ 0xFF) (hown : h.dst ≠ s.node.setWidth 8) (hhops : h.hops ≠ 0)
    (id : BitVec 8) {r : Ring} (hr : s.startWake.rOut (!h.portB) (onward h (.arrive id)) = { s.startWake with ring := r })
    (hseen : r.seen = s.ring.seen) :
    exec (.arrive h id) s = .next { s.startWake with ring := { r with seen := noteSeen s.ring.seen h.src h.seq } } := by
  obtain ⟨hnode, hlive, -⟩ := State.ringFirst_startWake hf
  have hfwd : s.startWake.forward h.toRingHead (.arrive id) = { s.startWake with ring := r } := by
    have hcond : (!s.startWake.ringLive || h.src == s.startWake.node || h.hops == 0
        || h.dst == s.startWake.node.setWidth 8) = false := by
      rw [hlive, hnode, beq_eq_false_iff_ne.2 hf.2.2.2.1, beq_eq_false_iff_ne.2 hhops, beq_eq_false_iff_ne.2 hown]
      rfl
    rw [State.forward, hcond, if_neg Bool.false_ne_true]
    exact hr
  have hother : (RingBody.ofLink (.arrive id) || h.dst == 0xFF || h.dst == s.node.setWidth 8) = false := by
    rw [beq_eq_false_iff_ne.2 hall, beq_eq_false_iff_ne.2 hown]
    rfl
  refine congrArg Host.Outcome.next ((State.receive_alone hf.1 _ _ _).trans ?_)
  rw [State.receive1_first hf hfwd hnode hlive hseen, hother, if_neg Bool.false_ne_true]

theorem arrive_forwarded (hf : s.ringFirst h) (hall : h.dst ≠ 0xFF) (hown : h.dst ≠ s.node.setWidth 8) (hhops : h.hops ≠ 0)
    (id : BitVec 8) (hidle : s.idlePort (!h.portB)) : exec (.arrive h id) s
      = .next { s.startWake with ring := (s.noted h).starts s.cycle (!h.portB) (onward h (.arrive id)) } := by
  have hport : s.startWake.idlePort (!h.portB) := by
    obtain ⟨b, hb⟩ := s.startWake_eq
    rw [hb]
    exact hidle
  have hcycle : s.startWake.cycle = s.cycle := s.heardOn_cycle h
  refine (arrive_passes hf hall hown hhops id (State.rOut_idle hport _) ?_).trans ?_
  · rw [s.startWake_ring]
    rfl
  · rw [s.startWake_ring, hcycle]
    rfl

theorem arrive_queued (hf : s.ringFirst h) (hall : h.dst ≠ 0xFF) (hown : h.dst ≠ s.node.setWidth 8) (hhops : h.hops ≠ 0)
    (id : BitVec 8) (hbusy : 5 * s.cycle < s.ring.ports[portIx (!h.portB)].busyTo) :
    ∃ t, exec (.arrive h id) s = .next t ∧ t = { s.startWake with ring := { s.noted h with ports := t.ring.ports } }
      ∧ (∀ i : Fin 2, i ≠ portIx (!h.portB) → t.ring.ports[i] = s.ring.ports[i])
      ∧ t.ring.ports[portIx (!h.portB)] = { s.ring.ports[portIx (!h.portB)] with
        waiting := insTx (onward h (.arrive id)) s.ring.ports[portIx (!h.portB)].waiting } := by
  have hcycle : s.startWake.cycle = s.cycle := s.heardOn_cycle h
  have hout : s.startWake.rOut (!h.portB) (onward h (.arrive id)) = { s.startWake with ring := { s.ring with
      ports := s.ring.ports.set (portIx (!h.portB)) { s.ring.ports[portIx (!h.portB)] with
        waiting := insTx (onward h (.arrive id)) s.ring.ports[portIx (!h.portB)].waiting } } } := by
    have hno : ¬ (s.ring.ports[portIx (!h.portB)].busyTo ≤ 5 * s.startWake.cycle
        ∧ s.ring.ports[portIx (!h.portB)].waiting.isEmpty = true) := by
      rw [hcycle]
      omega
    unfold State.rOut
    dsimp only
    rw [s.startWake_ring, if_neg hno, State.setRPort, s.startWake_ring]
  refine ⟨_, arrive_passes hf hall hown hhops id hout rfl, rfl, fun i hi => ?_, ?_⟩
  · exact Vector.getElem_set_ne (portIx (!h.portB)).isLt i.isLt (fun hv => hi (Fin.ext hv.symm))
  · exact Vector.getElem_set_self (portIx (!h.portB)).isLt

theorem arrive_copy (hco : h.co = []) (hl : s.ringLive = true) (hon : s.fabricOn = true) (hsrc : h.src ≠ s.node)
    (hseen : (h.src, h.seq) ∈ s.ring.seen) (hhops : h.hops = 0) (id : BitVec 8) :
    exec (.arrive h id) s = .next s.startWake := by
  have hrx : s.ringRx = true := by
    unfold State.ringLive at hl
    simp_all
  have hnode : s.startWake.node = s.node := by rw [State.node, s.startWake_fld, State.node]
  have hsrc' : (h.src == s.node) = false := by simpa using hsrc
  have hseen' : s.ring.seen.contains (h.src, h.seq) = true := by simpa using hseen
  have hcopy : s.receive1 h.toRingHead (.arrive id) false (fun u => u.rArrive h.src id) = s.startWake := by
    simp only [State.receive1, hrx, hon, State.forward_ends (Or.inr hhops), hnode, hsrc', s.startWake_ring, hseen',
      Bool.not_true, Bool.or_true, Bool.false_eq_true, if_false, if_true]
  exact congrArg Host.Outcome.next ((State.receive_alone hco _ _ _).trans hcopy)

end

/-- Settles O54: each frame by what the node makes of it, through what `State.receive` does with one it hears. -/
theorem ringFrames : Obligations.RingFrames := by
  unfold Obligations.RingFrames
  refine fun s h => ⟨fun hh hidle => ⟨fun time corr tstep hm hlen => ringTime_names hh hm hlen time corr tstep,
      fun time corr tstep hm hlen off hoff hnear => ringTime_corrects hh hm hlen time corr tstep hoff hnear,
      fun l hbest hrun hclear => lantern_raises hh l hbest hrun hclear, pfclear_empties hh,
      ringSig_answers hh hidle, fun w q x hsigs hw => sigack_ends hh hsigs hw,
      fun id => ⟨fun hopen => arrive_joins hh rfl hopen, fun hfull hmask => arrive_releases hh rfl hfull hmask⟩,
      withdraw_leaves hh, fun a => ⟨fun hp hw h4 => ringRead_answers hh hidle hp hw h4, ringRead_refused hh hidle a⟩,
      fun a v hw => ⟨fun hen hp ha => ringWrite_writes hh hidle v hw hen hp ha, ringWrite_refused hh hidle a v hw⟩,
      fun q write w hra => resp_ends hh hra w⟩,
    fun hf => ⟨dreq_answers hf, fun res trip => dresp_measures hf res trip rfl rfl⟩,
    fun id hf hall hown hhops => ⟨arrive_forwarded hf hall hown hhops id, arrive_queued hf hall hown hhops id⟩,
    fun id hco hl hon hsrc hseen hhops => arrive_copy hco hl hon hsrc hseen hhops id, fun f g l tc => rfl⟩

end Sys2Proof.Machine
end

section
/-! O55: what a ring node does of itself (R485 to R513). -/

namespace Sys2Proof.Machine
open Sys2Proof

theorem State.ringLive_ringRx {s : State} (hl : s.ringLive = true) : s.ringRx = true := by
  unfold State.ringLive at hl
  simp_all

theorem portIx_not (b : Bool) : portIx (!b) ≠ portIx b := by cases b <;> decide

/-- Setting one bit leaves the others. -/
theorem State.bit_orReg_ne (s : State) (a : Nat) {i k : Nat} (hk : k ≠ i) : (s.orReg a (bitw i)).bit a k = s.bit a k := by
  have hbit : (bitw i).getLsbD k = false := by
    rw [bitw, BitVec.getLsbD_ofNat, Nat.testBit_two_pow_of_ne (Ne.symm hk), Bool.and_false]
  rw [State.bit, State.reg_orReg_self, tst, BitVec.getLsbD_or, hbit, Bool.or_false]
  rfl

section
variable {s : State}

/-! What goes out of itself -/

theorem State.rLink_idle (hl : s.ringLive = true) {b : Bool} (h : s.idlePort b) (body : RingBody)
    (hb : (RingTx.own (s.rFrame 0 body)).stamp s.now = .own (s.rFrame 0 body)) :
    s.rLink b body = { s with ring := (s.ring.starts s.cycle b (.own (s.rFrame 0 body))).counted } := by
  rw [State.rLink, if_pos hl, State.rOut_idle h, hb]
  rfl

theorem ringDelayTimer_asks (hl : s.ringLive = true) (hidle : ∀ b, s.idlePort b) :
    exec .ringDelayTimer s = .next { s with ring :=
      ((s.ring.starts s.cycle false (.own (s.rFrame 0 .dreq))).counted.starts s.cycle true
        (.own { s.rFrame 0 .dreq with seq := s.ring.seq + 1 })).counted } := by
  have hother := s.ring.starts_port_ne s.cycle (b := false) (c := true) (by simp) (.own (s.rFrame 0 .dreq))
  have htrue : State.idlePort { s with ring := (s.ring.starts s.cycle false (.own (s.rFrame 0 .dreq))).counted } true := by
    unfold State.idlePort
    show (s.ring.starts s.cycle false (.own (s.rFrame 0 .dreq))).ports[portIx true].busyTo ≤ _
      ∧ (s.ring.starts s.cycle false (.own (s.rFrame 0 .dreq))).ports[portIx true].waiting = []
    rw [hother]
    exact hidle true
  refine congrArg Host.Outcome.next ?_
  rw [State.rLink_idle hl (hidle false) .dreq rfl]
  exact State.rLink_idle (s := { s with ring := (s.ring.starts s.cycle false (.own (s.rFrame 0 .dreq))).counted }) hl htrue
    .dreq rfl

theorem ringTimeSend_sends (hl : s.ringLive = true) (hidle : ∀ b, s.idlePort b) (hm : s.bit aRngStat 30 = true) :
    exec .ringTimeSend s = .next { s with
      ring := { s.ring.sends s.cycle (s.rFrame 0xFF (.time s.now 0 s.ring.tstep)) with tstep := false } } := by
  have hcond : (!s.bit aRngStat 30 || !s.ringLive) = false := by
    rw [hm, hl]
    rfl
  refine congrArg Host.Outcome.next ?_
  rw [hcond, if_neg Bool.false_ne_true, State.rSend_idle hl hidle _ _ rfl]

theorem timeMasterTakeover_takes (hl : s.ringLive = true) (hcand : s.bit aRngCfg 30 = true) (hcry : s.crystal = true)
    (hm : s.bit aRngStat 30 = false) : ∃ t, exec .timeMasterTakeover s = .next t ∧ s.RegsBecome [aRngStat] t
      ∧ t.bit aRngStat 30 = true ∧ t.bit aRngStat 31 = true ∧ t.fld aRngStat 21 16 = s.node.toNat := by
  have hcond : (!s.ringLive || !s.bit aRngCfg 30 || !s.crystal || s.bit aRngStat 30) = false := by
    rw [hl, hcand, hcry, hm]
    rfl
  refine ⟨_, congrArg Host.Outcome.next (if_neg (by rw [hcond]; exact Bool.false_ne_true)), ⟨rfl, fun a ha => ?_⟩, ?_, ?_, ?_⟩
  · have hne : a ≠ aRngStat := by simpa using ha
    exact (State.reg_setFld_ne _ hne _ _ _).trans ((State.reg_setBit_ne _ hne _ _).trans (s.reg_setBit_ne hne _ _))
  · refine (State.bit_setFld_ne _ aRngStat _ (by decide) (by decide)).trans ?_
    exact (State.bit_setBit_other _ _ (by decide) (by decide) _).trans (s.bit_setBit_self _ (by decide) _)
  · exact (State.bit_setFld_ne _ aRngStat _ (by decide) (by decide)).trans (State.bit_setBit_self _ _ (by decide) _)
  · exact (State.fld_setFld_self _ aRngStat (hi := 21) (lo := 16) _ (by decide) (by decide)).trans
      (Nat.mod_eq_of_lt s.node.isLt)

/-- The state in which lost synchronisation raises. -/
def State.unsynced (s : State) : State :=
  (State.setBit { s with ring := { s.ring with good := 0 } } aRngStat 31 false).orReg aRngStat (bitw 1)

theorem syncLossTimeout_raises (hl : s.ringLive = true) (hm : s.bit aRngStat 30 = false) (hsync : s.bit aRngStat 31 = true) :
    ∃ t, exec .syncLossTimeout s = .next t ∧ s.CycleOf [] [] t ∧ t.ring.good = 0 ∧ t.bit aRngStat 31 = false
      ∧ t.bit aRngStat 1 = true ∧ (s.sev srcSyncLoss ≠ 0 → t.pend srcSyncLoss = true) := by
  have hexec : exec .syncLossTimeout s = .next (s.unsynced.raise1 srcSyncLoss) := by
    have hsync' : State.bit { s with ring := { s.ring with good := 0 } } aRngStat 31 = true := hsync
    refine congrArg Host.Outcome.next ?_
    rw [hm, if_neg Bool.false_ne_true, State.loseSync, hsync', if_pos rfl]
    rfl
  have hcycle : s.CycleOf [] [] s.unsynced := by
    refine ⟨rfl, fun _ _ => rfl, fun a ha _ => ?_⟩
    have hne : a ≠ aRngStat := by
      rintro rfl
      exact absurd ha (by unfold ownReg; decide)
    exact (State.reg_orReg_ne _ hne _).trans (State.reg_setBit_ne _ hne _ _)
  have hrep := s.unsynced.raise1_reports srcSyncLoss
  have hstat : (s.unsynced.raise1 srcSyncLoss).reg aRngStat = s.unsynced.reg aRngStat :=
    hrep.regs _ (by unfold reportReg; decide)
  refine ⟨_, hexec, hcycle.trans (s.unsynced.raise1_cycleOf _), ?_, ?_, ?_, fun hsev => ?_⟩
  · rw [hrep.ring]
    rfl
  · refine (State.bit_congr hstat 31).trans ((State.bit_orReg_ne _ aRngStat (by decide)).trans ?_)
    exact State.bit_setBit_self _ _ (by decide) _
  · exact (State.bit_congr hstat 1).trans (State.bit_orReg_self _ _ (by decide))
  · have hpow' : s.powered = true := State.ringLive_powered hl
    have hpow : s.unsynced.powered = true := hpow'
    have hsame : s.unsynced.sev srcSyncLoss = s.sev srcSyncLoss :=
      congrArg (wfld · _ _) ((State.reg_orReg_ne _ (by decide) _).trans (State.reg_setBit_ne _ (by decide) _ _))
    exact State.raiseAll_pend hpow (by decide) (by decide) (hsame ▸ hsev) false

/-! Lanterns -/

theorem lanternSend_sends (hl : s.ringLive = true) (hidle : ∀ b, s.idlePort b) {l : Lantern} {q : List Lantern}
    (hdue : s.ring.due = l :: q) : exec .lanternSend s = .next { s with
      ring := { s.ring.sends s.cycle (s.rFrame 0xFF (.lantern l)) with
        due := q, again := s.ring.again ++ [(s.rFrame 0xFF (.lantern l), 2)] } } := by
  have hsend := State.rSend_idle (s := { s with ring := { s.ring with due := q } }) hl hidle 0xFF (.lantern l) rfl
  have hlive : State.ringLive { s with ring := { s.ring with due := q } } = true := hl
  show execLanternSend s = _
  simp only [execLanternSend, hdue, hlive, Bool.not_true, Bool.false_eq_true, if_false, hsend]
  rfl

theorem lanternRepeat_sends (hl : s.ringLive = true) (hidle : ∀ b, s.idlePort b) {f : RingFrame} {k : Nat}
    {q : List (RingFrame × Nat)} {l : Lantern} (hagain : s.ring.again = (f, k) :: q) (hf : f.body = .lantern l) :
    exec .lanternRepeat s = .next { s with ring := {
      (s.ring.starts s.cycle false (.own f)).starts s.cycle true (.own f) with
        again := if k ≤ 1 then q else q ++ [(f, k - 1)] } } := by
  have hstamp : (RingTx.own f).stamp s.now = .own f := by
    obtain ⟨src, dst, hops, seq, body⟩ := f
    subst hf
    rfl
  have hstamp' : (RingTx.own f).stamp (State.now { s with ring := { s.ring with
      again := if k ≤ 1 then q else q ++ [(f, k - 1)] } }) = .own f := hstamp
  have hboth := State.rBoth_idle (s := { s with ring := { s.ring with
    again := if k ≤ 1 then q else q ++ [(f, k - 1)] } }) hidle f
  rw [hstamp'] at hboth
  have hlive : State.ringLive { s with ring := { s.ring with again := if k ≤ 1 then q else q ++ [(f, k - 1)] } } = true := hl
  show execLanternRepeat s = _
  simp only [execLanternRepeat, hagain, hlive, if_true, hboth]
  rfl

/-! Waits that end -/

theorem ringSigTimeout_fails {w : WickId} {x : BitVec 6} (hw : (s.wk w).st = .wait (.remote true x)) :
    ∃ t, exec (.ringSigTimeout w) s = .next t ∧ t = { s with wicks := t.wicks, tether := t.tether, ring := t.ring }
      ∧ (t.wk w).st = .run ∧ (t.wk w).sfail = true ∧ (t.wk w).pc = (s.wk w).pc ∧ (∀ u, u ≠ w → t.wk u = s.wk u)
      ∧ t.ring = { s.ring with sigs := s.ring.sigs.filter (fun c => c.1 != w) } := by
  have hend : (s.dropSig w).endRemote w true true = (s.dropSig w).setWk w { (s.wk w).resume with sfail := true } := by
    have hw' : ((s.dropSig w).wk w).st = .wait (.remote true x) := hw
    unfold State.endRemote
    rw [hw']
    rfl
  have hexec : exec (.ringSigTimeout w) s = .next ((s.dropSig w).setWk w { (s.wk w).resume with sfail := true }) := by
    show execRingSigTimeout w s = _
    simp only [execRingSigTimeout, hw, hend]
  have hself := (s.dropSig w).wk_setWk_self w { (s.wk w).resume with sfail := true }
  refine ⟨_, hexec, rfl, ?_, ?_, ?_, fun u hu => (s.dropSig w).wk_setWk_ne hu _, rfl⟩
  · rw [hself]
    rfl
  · rw [hself]
  · rw [hself]
    rfl

theorem ringRaTimeout_ends (hra : s.ring.ra ≠ none) : ∃ t, exec .ringRaTimeout s = .next t
    ∧ t = { s with regs := t.regs, ring := { s.ring with ra := none } }
    ∧ t.bit aRngRaStat 31 = false ∧ t.fld aRngRaStat 3 0 = 2 ∧ ∀ a, a ≠ aRngRaStat → t.reg a = s.reg a := by
  have hexec : exec .ringRaTimeout s = .next (State.raEnd { s with ring := { s.ring with ra := none } } aRngRaStat 2) := by
    obtain ⟨x, hx⟩ := Option.ne_none_iff_exists'.1 hra
    show execRingRaTimeout s = _
    simp only [execRingRaTimeout, hx]
  refine ⟨_, hexec, rfl, State.bit_setBit_self _ _ (by decide) _, ?_, fun a ha =>
    (State.reg_setBit_ne _ ha _ _).trans (State.reg_setFld_ne _ ha _ _ _)⟩
  refine (State.fld_setBit_ne _ aRngRaStat (by decide) (by decide) _).trans ?_
  exact State.fld_setFld_self _ aRngRaStat (hi := 3) (lo := 0) _ (by decide) (by decide)

/-! Symbol lock -/

theorem lockBit_lt (b : Bool) : lockBit b < 32 := by cases b <;> decide

theorem State.port_setRPort (s : State) (b : Bool) (p : RingPort) : (s.setRPort b p).ring.ports[portIx b] = p :=
  Vector.getElem_set_self (portIx b).isLt

theorem ringLockGain_locks (hl : s.ringLive = true) {b : Bool} (hb : s.bit aRngStat (lockBit b) = false) :
    ∃ t, exec (.ringLockGain b) s = .next t ∧ t = { s with regs := t.regs, ring := t.ring }
      ∧ t.bit aRngStat (lockBit b) = true ∧ (t.ring.ports[portIx b]).since = some s.cycle
      ∧ ∀ a, a ≠ aRngStat → t.reg a = s.reg a := by
  have hcond : (!s.ringRx || s.bit aRngStat (lockBit b)) = false := by
    rw [State.ringLive_ringRx hl, hb]
    rfl
  refine ⟨_, congrArg Host.Outcome.next (if_neg (by rw [hcond]; exact Bool.false_ne_true)), rfl,
    s.bit_setBit_self _ (lockBit_lt b) _, ?_, fun a ha => s.reg_setBit_ne ha _ _⟩
  rw [State.port_setRPort]

/-- A port's readiness to raise again touches the port alone. -/
theorem State.refreshQuiet_eq (s : State) (b : Bool) : ∃ q : Bool,
    s.refreshQuiet b = s.setRPort b { s.ring.ports[portIx b] with quiet := q } ∧ (s.ring.ports[portIx b].quiet = true → q = true) := by
  unfold State.refreshQuiet
  dsimp only
  split
  · exact ⟨true, rfl, fun _ => rfl⟩
  · refine ⟨s.ring.ports[portIx b].quiet, ?_, id⟩
    have hsame : s.ring.ports.set (portIx b) s.ring.ports[portIx b] = s.ring.ports := Vector.set_getElem_self _
    show s = { s with ring := { s.ring with ports := s.ring.ports.set (portIx b) s.ring.ports[portIx b] } }
    rw [hsame]

theorem ringLockDrop_counts {b : Bool} (hb : s.bit aRngStat (lockBit b) = true) :
    ∃ t, exec (.ringLockDrop b) s = .next t ∧ t = { s with regs := t.regs, ring := t.ring }
      ∧ t.bit aRngStat (lockBit b) = false ∧ (t.ring.ports[portIx b]).since = none
      ∧ t.fld (rngCnt b) 31 16 = min (s.fld (rngCnt b) 31 16 + 1) 65535
      ∧ ∀ a, a ≠ aRngStat → a ≠ rngCnt b → t.reg a = s.reg a := by
  obtain ⟨q, hq, -⟩ := s.refreshQuiet_eq b
  have hcnt : rngCnt b ≠ aRngStat := by cases b <;> decide
  have hdrop : s.lockDrop b = (((s.refreshQuiet b).setBit aRngStat (lockBit b) false).setRPort b
      { (s.refreshQuiet b).ring.ports[portIx b] with since := none }).setFld (rngCnt b) 31 16
        (satInc 16 ((((s.refreshQuiet b).setBit aRngStat (lockBit b) false).setRPort b
          { (s.refreshQuiet b).ring.ports[portIx b] with since := none }).fld (rngCnt b) 31 16)) := by
    rw [State.lockDrop, hb]
    rfl
  have hregs : ∀ a, (s.refreshQuiet b).reg a = s.reg a := fun a => by
    rw [hq]
    rfl
  have hfld : (((s.refreshQuiet b).setBit aRngStat (lockBit b) false).setRPort b
      { (s.refreshQuiet b).ring.ports[portIx b] with since := none }).fld (rngCnt b) 31 16 = s.fld (rngCnt b) 31 16 :=
    congrArg (wfld · _ _) ((State.reg_setBit_ne _ hcnt _ _).trans (hregs _))
  refine ⟨_, congrArg Host.Outcome.next hdrop, ?_, ?_, ?_, ?_, fun a ha hc => ?_⟩
  · rw [hq]
    rfl
  · exact (State.bit_congr (State.reg_setFld_ne _ hcnt.symm _ _ _) _).trans (State.bit_setBit_self _ _ (lockBit_lt b) _)
  · exact congrArg RingPort.since (State.port_setRPort _ b _)
  · rw [hfld, satInc_16]
    refine (State.fld_setFld_self _ (rngCnt b) (hi := 31) (lo := 16) _ (by decide) (by decide)).trans (Nat.mod_eq_of_lt ?_)
    omega
  · exact (State.reg_setFld_ne _ hc _ _ _).trans ((State.reg_setBit_ne _ ha _ _).trans (hregs a))

/-- The state in which a port fault raises. -/
def State.faulted (s : State) (b : Bool) : State :=
  ((s.refreshQuiet b).setRPort b { (s.refreshQuiet b).ring.ports[portIx b] with
    quiet := false, since := (s.refreshQuiet b).ring.ports[portIx b].since.map (fun _ => s.cycle) }).orReg aRngStat
      (bitw (if b then 2 else 3))

theorem ringLockLoss_raises (hl : s.ringLive = true) {b : Bool} (hb : s.bit aRngStat (lockBit b) = false)
    (hquiet : (s.ring.ports[portIx b]).quiet = true) :
    ∃ t, exec (.ringLockLoss b) s = .next t ∧ s.CycleOf [] [] t ∧ t.bit aRngStat (if b then 2 else 3) = true
      ∧ (t.ring.ports[portIx b]).quiet = false ∧ (s.sev (portSrc b) ≠ 0 → t.pend (portSrc b) = true) := by
  obtain ⟨q, hq, hqt⟩ := s.refreshQuiet_eq b
  have hq' : (s.refreshQuiet b).ring.ports[portIx b].quiet = true := by
    rw [hq, State.port_setRPort]
    exact hqt hquiet
  have hcycle' : (s.refreshQuiet b).cycle = s.cycle := by
    rw [hq]
    rfl
  have hcond : (!s.ringRx || s.bit aRngStat (lockBit b)) = false := by
    rw [State.ringLive_ringRx hl, hb]
    rfl
  have hfault : s.portFault b = (s.faulted b).raise1 (portSrc b) := by
    unfold State.portFault
    dsimp only
    rw [if_pos hq', hcycle']
    rfl
  have hexec : exec (.ringLockLoss b) s = .next ((s.faulted b).raise1 (portSrc b)) :=
    congrArg Host.Outcome.next ((if_neg (by rw [hcond]; exact Bool.false_ne_true)).trans hfault)
  have hreg : ∀ a, a ≠ aRngStat → (s.faulted b).reg a = s.reg a := fun a ha => by
    refine (State.reg_orReg_ne _ ha _).trans ?_
    rw [hq]
    rfl
  have hcycle : s.CycleOf [] [] (s.faulted b) := by
    refine ⟨?_, fun r _ => ?_, fun a ha _ => hreg a ?_⟩
    · rw [State.faulted, hq]
      rfl
    · rw [State.faulted, hq]
      rfl
    · rintro rfl
      exact absurd ha (by unfold ownReg; decide)
  have hsrc : portSrc b < 363 ∧ srcRail (portSrc b) = none ∧ aSev (portSrc b / 16) ≠ aRngStat := by cases b <;> decide
  have hlow : (if b then 2 else 3) < 32 := by cases b <;> decide
  have hrep := (s.faulted b).raise1_reports (portSrc b)
  have hstat : ((s.faulted b).raise1 (portSrc b)).reg aRngStat = (s.faulted b).reg aRngStat :=
    hrep.regs _ (by unfold reportReg; decide)
  refine ⟨_, hexec, hcycle.trans ((s.faulted b).raise1_cycleOf _), ?_, ?_, fun hsev => ?_⟩
  · exact (State.bit_congr hstat _).trans (State.bit_orReg_self _ _ hlow)
  · rw [hrep.ring]
    exact congrArg RingPort.quiet (State.port_setRPort _ b _)
  · have hpow : (s.faulted b).powered = true := by
      have hp : (s.faulted b).powered = s.powered := by
        rw [State.faulted, hq]
        rfl
      rw [hp, State.ringLive_powered hl]
    have hsame : (s.faulted b).sev (portSrc b) = s.sev (portSrc b) := congrArg (wfld · _ _) (hreg _ hsrc.2.2)
    exact State.raiseAll_pend hpow hsrc.1 hsrc.2.1 (hsame ▸ hsev) false

/-- The failed frames of a port that count, this cycle's included. -/
def failsBy (p : RingPort) (cycle : Nat) : List Nat := p.fails.filter (fun t => cycle < t + 100000000) ++ [cycle]

theorem ringCrcFailure_forwards (hl : s.ringLive = true) (hidle : ∀ b, s.idlePort b) {b : Bool} (bytes : List Byte)
    (hfails : (s.ring.ports[portIx b]).fails.length < 15) :
    ∃ t, exec (.ringCrcFailure b bytes) s = .next t ∧ t = { s.startWake with regs := t.regs, ring := t.ring }
      ∧ t.ring.sent = s.ring.sent ++ [(!b, .raw bytes)]
      ∧ t.fld (rngCnt b) 15 0 = min (s.fld (rngCnt b) 15 0 + 1) 65535 ∧ ∀ a, a ≠ rngCnt b → t.reg a = s.reg a := by
  have hport : s.startWake.idlePort (!b) := by
    obtain ⟨c, hc⟩ := s.startWake_eq
    rw [hc]
    exact hidle (!b)
  have hlive : s.startWake.ringLive = true := by
    obtain ⟨c, hc⟩ := s.startWake_eq
    rw [hc]
    exact hl
  have hsent : s.startWake.rOut (!b) (.raw bytes) = { s.startWake with
      ring := s.ring.starts s.startWake.cycle (!b) (.raw bytes) } := by
    rw [State.rOut_idle hport, s.startWake_ring]
    rfl
  have hp : (s.ring.starts s.startWake.cycle (!b) (.raw bytes)).ports[portIx b] = s.ring.ports[portIx b] :=
    s.ring.starts_port_ne _ (by cases b <;> decide) _
  have hfew : ¬ 16 ≤ (failsBy s.ring.ports[portIx b] s.startWake.cycle).length := by
    have hle := List.length_filter_le (fun t => decide (s.startWake.cycle < t + 100000000)) s.ring.ports[portIx b].fails
    rw [failsBy, List.length_append, List.length_singleton]
    omega
  have hcnt : s.startWake.fld (rngCnt b) 15 0 = s.fld (rngCnt b) 15 0 := s.startWake_fld _ _ _
  have hexec : exec (.ringCrcFailure b bytes) s = .next (State.setRPort (State.setFld { s.startWake with
      ring := s.ring.starts s.startWake.cycle (!b) (.raw bytes) } (rngCnt b) 15 0 (satInc 16 (s.fld (rngCnt b) 15 0))) b
        { s.ring.ports[portIx b] with fails := failsBy s.ring.ports[portIx b] s.startWake.cycle }) := by
    have hcnt' : State.fld { s.startWake with ring := s.ring.starts s.startWake.cycle (!b) (.raw bytes) } (rngCnt b) 15 0
        = s.fld (rngCnt b) 15 0 := hcnt
    show execRingCrcFailure b bytes s = _
    simp only [execRingCrcFailure, State.ringLive_ringRx hl, hlive, hsent, hcnt', Bool.not_true, Bool.false_eq_true, if_false,
      if_true]
    refine congrArg Host.Outcome.next ((if_neg ?_).trans ?_)
    · exact hp ▸ hfew
    · exact hp ▸ rfl
  refine ⟨_, hexec, rfl, rfl, ?_, fun a ha => ?_⟩
  · rw [satInc_16]
    refine (State.fld_setFld_self _ (rngCnt b) (hi := 15) (lo := 0) _ (by decide) (by decide)).trans (Nat.mod_eq_of_lt ?_)
    omega
  · exact (State.reg_setFld_ne _ ha _ _ _).trans (s.startWake_reg a)

/-! Commands -/

theorem rngCtlWrite_closes (hs : s.serves = true) (who : Who) {v : Word} (hv : v.getLsbD 31 = true) :
    ∃ t, exec (.rngCtlWrite who v) s = .next t
      ∧ t = { s with regs := t.regs, ring := { s.ring with good := 0, ports := t.ring.ports } }
      ∧ (∀ i : Fin 2, t.ring.ports[i] = { s.ring.ports[i] with busyTo := 0, waiting := [] }) ∧ t.reg aRngCtl = 0x80000000
      ∧ t.bit aRngStat 29 = true ∧ t.bit aRngStat 31 = false ∧ t.bit aRngStat 30 = false
      ∧ ∀ a, a ≠ aRngCtl → a ≠ aRngStat → t.reg a = s.reg a := by
  have hexec : exec (.rngCtlWrite who v) s = .next (s.setReg aRngCtl (v &&& bitw 31)).closeSplice :=
    congrArg Host.Outcome.next ((State.fab_serves hs _).trans (if_pos hv))
  have hword : v &&& bitw 31 = 0x80000000 := by
    refine BitVec.eq_of_getLsbD_eq fun i hi => ?_
    rw [BitVec.getLsbD_and]
    by_cases h : i = 31
    · subst h
      rw [hv]
      rfl
    · have hbit : (bitw 31).getLsbD i = false := by
        rw [bitw, BitVec.getLsbD_ofNat, Nat.testBit_two_pow_of_ne (Ne.symm h), Bool.and_false]
      have hconst : (0x80000000 : Word).getLsbD i = (bitw 31).getLsbD i := rfl
      rw [hbit, Bool.and_false, hconst, hbit]
  have hother : ∀ {t : State} {i k : Nat} (b : Bool), i < 32 → k ≠ i → (t.setBit aRngStat i b).bit aRngStat k
      = t.bit aRngStat k := fun b hi hk => State.bit_setBit_other _ _ hi hk b
  refine ⟨_, hexec, rfl, fun i => ?_, ?_, ?_, ?_, ?_, fun a ha hb => ?_⟩
  · exact Vector.getElem_map ..
  · refine (State.reg_setBit_ne _ (by decide) _ _).trans ((State.reg_setBit_ne _ (by decide) _ _).trans
      ((State.reg_setBit_ne _ (by decide) _ _).trans ((State.reg_setReg_self _ _ _).trans hword)))
  · exact (hother _ (by decide) (by decide)).trans ((hother _ (by decide) (by decide)).trans
      (State.bit_setBit_self _ _ (by decide) _))
  · exact (hother _ (by decide) (by decide)).trans (State.bit_setBit_self _ _ (by decide) _)
  · exact State.bit_setBit_self _ _ (by decide) _
  · exact (State.reg_setBit_ne _ hb _ _).trans ((State.reg_setBit_ne _ hb _ _).trans
      ((State.reg_setBit_ne _ hb _ _).trans (State.reg_setReg_ne _ ha _)))

theorem rngGo_sends (hl : s.ringLive = true) (hidle : ∀ b, s.idlePort b) (hs : s.serves = true)
    (hfree : s.bit aRngRaStat 31 = false) (who : Who) (write : Bool) (n : BitVec 6) {body : RingBody}
    (hbody : body = if write then .write (s.reg aRngRaAddr) (s.reg aRngRaData) else .read (s.reg aRngRaAddr)) :
    ∃ t, exec (.rngGo who write n) s = .next t
      ∧ t = { s with
        regs := t.regs
        ring := { s.ring.sends s.cycle (s.rFrame (n.setWidth 8) body) with ra := some (s.ring.seq, write) } }
      ∧ t.bit aRngRaStat 31 = true ∧ ∀ a, a ≠ aRngRaStat → t.reg a = s.reg a := by
  have hstamp : (RingTx.own ((s.setBit aRngRaStat 31 true).rFrame (n.setWidth 8) body)).stamp
      (s.setBit aRngRaStat 31 true).now = .own ((s.setBit aRngRaStat 31 true).rFrame (n.setWidth 8) body) := by
    subst hbody
    cases write <;> rfl
  have hlive : (s.setBit aRngRaStat 31 true).ringLive = true := (s.ringLive_setReg (by decide) _).trans hl
  have hframe : (s.setBit aRngRaStat 31 true).rFrame (n.setWidth 8) body = s.rFrame (n.setWidth 8) body := by
    have hnode : (s.setBit aRngRaStat 31 true).node = s.node := s.node_setReg (by decide) _
    rw [State.rFrame, hnode]
    rfl
  have hsend := State.rSend_idle hlive (fun b => hidle b) (n.setWidth 8) body hstamp
  rw [hframe] at hsend
  have hgo : (s.rngGo write n).1 = { (s.setBit aRngRaStat 31 true).rSend (n.setWidth 8) body with
      ring := { ((s.setBit aRngRaStat 31 true).rSend (n.setWidth 8) body).ring with ra := some (s.ring.seq, write) } } := by
    have hdata : (s.setBit aRngRaStat 31 true).reg aRngRaData = s.reg aRngRaData := s.reg_setBit_ne (by decide) _ _
    rw [State.rngGo, hfree, if_neg Bool.false_ne_true, hl, if_neg (by decide), hbody, ← hdata]
  have hexec : exec (.rngGo who write n) s = .next { s.setBit aRngRaStat 31 true with
      ring := { s.ring.sends s.cycle (s.rFrame (n.setWidth 8) body) with ra := some (s.ring.seq, write) } } := by
    refine congrArg Host.Outcome.next ((State.fab_serves hs _).trans (hgo.trans ?_))
    rw [hsend]
    rfl
  exact ⟨_, hexec, rfl, s.bit_setBit_self _ (by decide) _, fun a ha => s.reg_setBit_ne ha _ _⟩

theorem tset_sets (hs : s.serves = true) (hm : s.bit aRngStat 30 = true) (who : Who) : exec (.tset who) s = .next { s with
    ring := { s.ring with next := some (s.reg aRngTsetH ++ s.reg aRngTsetL, true) } } :=
  congrArg Host.Outcome.next ((State.fab_serves hs _).trans (congrArg Prod.fst (if_pos hm)))

theorem tset_refused (hs : s.serves = true) (hm : s.bit aRngStat 30 = false) (who : Who) :
    ∃ t, exec (.tset who) s = .next t ∧ s.RegsBecome [aRngStat] t ∧ t.reg aRngStat = s.reg aRngStat ||| 1 :=
  ⟨_, congrArg Host.Outcome.next ((State.fab_serves hs _).trans (congrArg Prod.fst (if_neg (by rw [hm]; exact Bool.false_ne_true)))),
    s.orReg_regsBecome aRngStat _, s.reg_orReg_self aRngStat _⟩

theorem pfclrall_tells (hl : s.ringLive = true) (hidle : ∀ b, s.idlePort b) (hs : s.serves = true) (who : Who) :
    exec (.pfclrall who) s = .next { s with
      ring := { s.ring.sends s.cycle (s.rFrame 0xFF (.pfclear s.now)) with
        best := none, run := none, clearAt := some (s.laterTc s.now) } } := by
  refine congrArg Host.Outcome.next ((State.fab_serves hs _).trans ?_)
  rw [State.pfClrAll, State.pfClearTo_eq]
  exact State.rSend_idle (s := { s with ring := { s.ring with
    best := none, run := none, clearAt := some (s.laterTc s.now) } }) hl hidle 0xFF (.pfclear s.now) rfl

theorem spliceOpen_opens (hrx : s.ringRx = true) (hctl : s.bit aRngCtl 31 = false) :
    ∃ t, exec .spliceOpen s = .next t ∧ s.RegsBecome [aRngStat] t ∧ t.bit aRngStat 29 = false := by
  have hheld : s.spliceHeld = false := by
    rw [State.spliceHeld, hrx, hctl]
    rfl
  exact ⟨_, congrArg Host.Outcome.next (if_neg (by rw [hheld]; exact Bool.false_ne_true)), s.setBit_regsBecome aRngStat 29 false,
    s.bit_setBit_self _ (by decide) _⟩

end

/-- Settles O55: what the node sends, corrects and counts of itself, its ports idle. -/
theorem ringCommands : Obligations.RingCommands := by
  unfold Obligations.RingCommands
  refine fun s hl hidle => ⟨ringDelayTimer_asks hl hidle, ringTimeSend_sends hl hidle, timeMasterTakeover_takes hl,
    syncLossTimeout_raises hl, fun l q hdue => lanternSend_sends hl hidle hdue,
    fun f k q l hagain hf => lanternRepeat_sends hl hidle hagain hf, fun w x hw => ringSigTimeout_fails hw,
    ringRaTimeout_ends, fun b => ⟨ringLockGain_locks hl, ringLockDrop_counts, ringLockLoss_raises hl,
      fun bytes hfails => ringCrcFailure_forwards hl hidle bytes hfails⟩,
    fun who v hs hv => rngCtlWrite_closes hs who hv,
    fun who write n hs hfree => rngGo_sends hl hidle hs hfree who write n rfl,
    fun who hs => ⟨fun hm => tset_sets hs hm who, fun hm => tset_refused hs hm who,
      congrArg Host.Outcome.next (State.fab_serves hs _), pfclrall_tells hl hidle hs who⟩,
    fun u hrx hctl => spliceOpen_opens hrx hctl⟩

end Sys2Proof.Machine
end

section
/-! SUPPORT. What the scanner's operations leave alone (R124 to R150), and cycles in which nothing is raised. -/

namespace Sys2Proof.Machine
open Sys2Proof

/-! A cycle without a raise -/

theorem State.raiseAll_nil (s : State) (inj : Bool) : s.raiseAll [] inj = s := by
  have hnone : s.judgedAll [] = [] := rfl
  have hfirst : firstOf s.fltState [] = none := by
    unfold firstOf
    split <;> rfl
  have hreacts : s.queueReacts [] = s := by
    unfold State.queueReacts
    simp [State.reactsOf]
  unfold State.raiseAll
  split
  · rfl
  · rw [hnone, hfirst]
    unfold State.collect State.wakeRaise State.takeSnap State.mergeRest State.critStore State.latchFirst
    simp [hreacts]

/-- A cycle without a raise and without an escalation ends with the deferred reactions and the reset outputs judged. -/
theorem Cyc.finish_unraised {c : Cyc} (hg : c.groupOff = []) (hr : c.raises = []) (inj : Bool) :
    c.finish inj = { c.s with faults := (c.finish inj).faults, resets := (c.finish inj).resets } := by
  obtain ⟨s, raises, groupOff, refused⟩ := c
  dsimp only at hg hr
  subst hg hr
  have hraise := s.raiseAll_nil inj
  unfold Cyc.finish
  simp only [List.map_nil, List.isEmpty_nil, if_true, hraise]
  rw [State.settleRsts_fields]

/-! Frames and bursts -/

/-- The frame that the settings of the boundary give. -/
def State.newFrame (s : State) : Frame :=
  { cover := s.fld aStStat 30 27, boost := Vector.ofFn (fun k : Fin 6 => s.reg (aBoost k))
    lh := if s.lhBusy then 0xFFFF else 0 }

theorem State.takeSettings_eq (s : State) : ∃ (upTo : Nat) (next : Timer), s.takeSettings = s.setScan { s.scan with
      ctl := s.reg aTlmCtl, prev := s.scan.cur, cur := s.newFrame, burstTo := upTo, burstAt := next }
    ∧ (s.bit aTlmCtl 30 = false → next = none) := by
  unfold State.takeSettings
  dsimp only
  split
  · refine ⟨_, _, rfl, fun h30 => if_neg ?_⟩
    have h30' : tst (s.reg aTlmCtl) 30 = false := h30
    simp [h30']
  · split
    · next hburst =>
      refine ⟨_, _, rfl, fun h30 => ?_⟩
      have h30' : tst (s.reg aTlmCtl) 30 = false := h30
      simp [h30'] at hburst
    · exact ⟨_, _, rfl, fun _ => rfl⟩

theorem State.startBurst_none {s : State} (h : s.scan.burstAt = none) (ctl : Word) : s.startBurst ctl = s := by
  rw [State.startBurst, h]

theorem State.startBurst_eq (s : State) (ctl : Word) : ∃ (upTo : Nat) (next : Timer),
    s.startBurst ctl = s.setScan { s.scan with burstTo := upTo, burstAt := next } := by
  unfold State.startBurst
  split
  · next h => exact ⟨s.scan.burstTo, s.scan.burstAt, rfl⟩
  · split
    · exact ⟨s.scan.burstTo, s.scan.burstAt, rfl⟩
    · exact ⟨_, _, rfl⟩

/-- The frames of a scan are as they were: the one that is due, the index, and the last one. -/
def Scan.SameFrames (c d : Scan) : Prop := d.due = c.due ∧ d.frame = c.frame ∧ d.prev = c.prev

theorem Scan.convertNext_sameFrames (c : Scan) : Scan.SameFrames c c.convertNext := by
  unfold Scan.convertNext
  split <;> exact ⟨rfl, rfl, rfl⟩

theorem State.pumpTlm_scan (s : State) : s.pumpTlm = s.setScan s.pumpTlm.scan := by
  unfold State.pumpTlm
  split <;> rfl

theorem State.pumpTlm_sameFrames (s : State) : Scan.SameFrames s.scan s.pumpTlm.scan := by
  unfold State.pumpTlm
  split
  · exact ⟨rfl, rfl, rfl⟩
  · exact s.scan.fill.convertNext_sameFrames

end Sys2Proof.Machine
end

section
/-! O28: the scan, the conversions, the raw capture and its freeze, and the commands of the telemetry block (R124 to R150). -/

namespace Sys2Proof.Machine
open Sys2Proof

/-! The grid -/

section
variable {s : State}

theorem State.awake_run (h : s.awake = true) : s.power.phase = .run := by
  unfold State.awake at h
  simp_all

/-- Outside a frame, with none due, a boundary ends none. -/
theorem State.endFrame_none (hdue : s.scan.due = none) (hin : s.scan.inFrame = false) : s.endFrame = s := by
  have hlose : s.loseFrame = s := by rw [State.loseFrame, hdue]
  unfold State.endFrame
  dsimp only
  rw [hlose, hin]
  rfl

theorem scanFrame_starts (ha : s.awake = true) (hgrid : s.onGrid = true) (hdue : s.scan.due = none)
    (hin : s.scan.inFrame = false) (h31 : s.bit aTlmCtl 31 = true) (h30 : s.bit aTlmCtl 30 = false) :
    ∃ t, exec .scanFrame s = .next t ∧ t = { s with scan := t.scan } ∧ t.scan.ctl = s.reg aTlmCtl
      ∧ t.scan.inFrame = true ∧ t.scan.frameTime = s.ring.time ∧ t.scan.nextAt = some (s.cycle + 400)
      ∧ t.scan.frame = s.scan.frame ∧ t.scan.due = none ∧ t.scan.cur.cover = s.fld aStStat 30 27
      ∧ t.scan.cur.words = Vector.replicate 256 none := by
  obtain ⟨upTo, next, hset, hnone⟩ := s.takeSettings_eq
  have hburst := State.startBurst_none (s := s.takeSettings) (by rw [hset]; exact hnone h30) s.takeSettings.scan.ctl
  have hrun : s.takeSettings.frameRuns = true := by
    have hphase : (s.takeSettings.power.phase == .loaded) = false := by
      rw [hset]
      show (s.power.phase == .loaded) = false
      rw [State.awake_run ha]
      rfl
    have hawake : s.takeSettings.awake = true := by
      rw [hset]
      exact ha
    have hctl : s.takeSettings.scan.ctl = s.reg aTlmCtl := by
      rw [hset]
      rfl
    have h31' : tst (s.reg aTlmCtl) 31 = true := h31
    have h30' : tst (s.reg aTlmCtl) 30 = false := h30
    unfold State.frameRuns
    dsimp only
    rw [hphase, hawake, hctl, h31', h30']
    rfl
  have hexec : exec .scanFrame s = .next s.takeSettings.startFrame := by
    show execScanFrame s = _
    simp only [execScanFrame, hgrid, State.endFrame_none hdue hin, hburst, hrun, Bool.not_true, Bool.false_eq_true, if_false,
      if_true]
  refine ⟨_, hexec, ?_⟩
  rw [hset]
  exact ⟨rfl, rfl, rfl, rfl, rfl, rfl, hdue, rfl, rfl⟩

/-- A boundary that ends a frame to be written makes it due. -/
theorem State.endFrame_due (hdue : s.scan.due = none) (hin : s.scan.inFrame = true) (hdoze : s.scan.frameDoze = false)
    (hboot : s.scan.frameBoot = false) (hen : s.bit aRawCtl 31 = true) (hpend : s.bit aRawStat 29 = false)
    (hgood : ∀ i : Fin 3, s.scan.refBad[i] < 16) : s.endFrame = s.setScan { s.scan with
      inFrame := false, due := some (s.bit aRawStat 31, s.scan.frame), frame := (s.scan.frame + 1) % 64 } := by
  have hlose : s.loseFrame = s := by rw [State.loseFrame, hdue]
  have hbad : s.scan.refBad.toList.any (fun n => decide (16 ≤ n)) = false := by
    rw [List.any_eq_false]
    intro n hn
    obtain ⟨i, hi, rfl⟩ := List.getElem_of_mem hn
    have hlt := hgood ⟨i, by simpa using hi⟩
    simp only [decide_eq_true_eq, Vector.getElem_toList]
    exact Nat.not_le.2 hlt
  unfold State.endFrame
  simp only [hlose, hin, hbad, hdoze, hboot, hen, hpend, Bool.not_true, Bool.false_and, Bool.false_or, Bool.false_eq_true,
    if_false]

theorem scanFrame_due (hgrid : s.onGrid = true) (hdue : s.scan.due = none) (hin : s.scan.inFrame = true)
    (hdoze : s.scan.frameDoze = false) (hboot : s.scan.frameBoot = false) (hen : s.bit aRawCtl 31 = true)
    (hpend : s.bit aRawStat 29 = false) (hgood : ∀ i : Fin 3, s.scan.refBad[i] < 16) :
    ∃ t, exec .scanFrame s = .next t ∧ t = { s with scan := t.scan }
      ∧ t.scan.due = some (s.bit aRawStat 31, s.scan.frame) ∧ t.scan.frame = (s.scan.frame + 1) % 64
      ∧ t.scan.prev = s.scan.cur := by
  obtain ⟨u, hu⟩ : ∃ u, s.endFrame = u := ⟨_, rfl⟩
  have hend := State.endFrame_due hdue hin hdoze hboot hen hpend hgood
  obtain ⟨upTo, next, hset, -⟩ := s.endFrame.takeSettings_eq
  obtain ⟨upTo', next', hburst⟩ := s.endFrame.takeSettings.startBurst_eq s.endFrame.takeSettings.scan.ctl
  have hscan : ∃ c : Scan, s.endFrame.takeSettings.startBurst s.endFrame.takeSettings.scan.ctl = s.setScan c
      ∧ c.due = some (s.bit aRawStat 31, s.scan.frame) ∧ c.frame = (s.scan.frame + 1) % 64 ∧ c.prev = s.scan.cur := by
    rw [hburst, hset, hend]
    exact ⟨_, rfl, rfl, rfl, rfl⟩
  obtain ⟨c, hc, hcdue, hcframe, hcprev⟩ := hscan
  have hexec : exec .scanFrame s
      = .next (if (s.setScan c).frameRuns then (s.setScan c).startFrame else (s.setScan c).idleFrame) := by
    show execScanFrame s = _
    simp only [execScanFrame, hgrid, hc, Bool.not_true, Bool.false_eq_true, if_false]
  refine ⟨_, hexec, ?_⟩
  split
  · exact ⟨rfl, hcdue, hcframe, hcprev⟩
  · obtain ⟨hpdue, hpframe, hpprev⟩ := State.pumpTlm_sameFrames (State.setScan (s.setScan c) { (s.setScan c).scan with
      stFrame := (s.setScan c).bit aStStat 31, nextAt := (s.setScan c).timer 400, bySample := []
      waiting := c.waiting ++ c.bySample.filter (fun p => !c.waiting.contains p) })
    refine ⟨?_, hpdue.trans hcdue, hpframe.trans hcframe, hpprev.trans hcprev⟩
    rw [State.idleFrame, State.pumpTlm_scan]
    rfl

theorem burstStart_starts {b : Nat} {c : Word} (hb : s.scan.burstAt = some b) (hle : b ≤ s.cycle)
    (hlt : s.cycle < b + 100000 * wfld s.scan.ctl 15 0)
    (hc : c = if s.scan.nextAt.all (fun k => k ≤ s.cycle) then s.reg aTlmCtl else s.scan.ctl) :
    ∃ t, exec .burstStart s = .next t ∧ t = { s with scan := { s.scan with
      burstTo := max s.scan.burstTo (b + 400 * wfld c 23 16)
      burstAt := some (b + 100000 * wfld s.scan.ctl 15 0) } } := by
  have hnow : (s.cycle - b) / (100000 * wfld s.scan.ctl 15 0) = 0 := Nat.div_eq_of_lt (by omega)
  refine ⟨_, ?_, rfl⟩
  show Host.Outcome.next (s.startBurst _) = _
  rw [← hc, State.startBurst, hb]
  dsimp only
  rw [if_neg (Nat.not_lt.2 hle), hnow, Nat.mul_zero, Nat.add_zero, Nat.zero_add, Nat.mul_one]
  rfl

end

/-! Raw frames -/

section
variable (s : State)

theorem State.tlmByte_tlmPoke_self (a : Nat) (b : Byte) : (s.tlmPoke a b).tlmByte a = b := look_upd_self _ _ _ _

theorem State.tlmByte_tlmPoke_ne {a c : Nat} (hc : c ≠ a) (b : Byte) : (s.tlmPoke a b).tlmByte c = s.tlmByte c := by
  simp [State.tlmByte, State.tlmPoke, look_upd_ne _ hc]

theorem State.rawWords_frame (h f w : Nat) (l : List (Option (BitVec 16))) :
    s.rawWords h f w l = { s with tlmMem := (s.rawWords h f w l).tlmMem } := by
  induction l generalizing s w with
  | nil => rfl
  | cons x l ih =>
    cases x with
    | none => exact ih s (w + 1)
    | some c =>
      rw [State.rawWords, ih]
      rfl

/-- A byte that no written word takes keeps its content. -/
theorem State.tlmByte_rawWords {h f a : Nat} (l : List (Option (BitVec 16))) (w : Nat)
    (hne : ∀ i c, l[i]? = some (some c) → a ≠ rawAddr h f (w + i) ∧ a ≠ rawAddr h f (w + i) + 1) :
    (s.rawWords h f w l).tlmByte a = s.tlmByte a := by
  induction l generalizing s w with
  | nil => rfl
  | cons x l ih =>
    have htail : ∀ i c, l[i]? = some (some c) → a ≠ rawAddr h f (w + 1 + i) ∧ a ≠ rawAddr h f (w + 1 + i) + 1 := by
      intro i c hi
      have h' := hne (i + 1) c hi
      rwa [show w + (i + 1) = w + 1 + i by omega] at h'
    cases x with
    | none => exact ih s (w + 1) htail
    | some c =>
      obtain ⟨hlow, hhigh⟩ := hne 0 c rfl
      rw [Nat.add_zero w] at hlow hhigh
      rw [State.rawWords, ih _ _ htail, State.tlmByte_tlmPoke_ne _ hhigh, State.tlmByte_tlmPoke_ne _ hlow]

/-- A written word goes to its place. -/
theorem State.rawWords_word {h f : Nat} {l : List (Option (BitVec 16))} {w i : Nat} {c : BitVec 16}
    (hi : l[i]? = some (some c)) :
    (s.rawWords h f w l).tlmByte (rawAddr h f (w + i)) = c.extractLsb' 0 8
      ∧ (s.rawWords h f w l).tlmByte (rawAddr h f (w + i) + 1) = c.extractLsb' 8 8 := by
  induction l generalizing s w i with
  | nil => exact absurd hi (by simp)
  | cons x l ih =>
    cases i with
    | zero =>
      have hx : x = some c := by simpa using hi
      subst hx
      have hkeep : ∀ a, a < rawAddr h f (w + 1) → ∀ u : State, (u.rawWords h f (w + 1) l).tlmByte a = u.tlmByte a :=
        fun a ha u => u.tlmByte_rawWords l (w + 1) fun j _ _ => by
          unfold rawAddr at *
          omega
      have hnext : rawAddr h f (w + 1) = rawAddr h f w + 2 := by
        unfold rawAddr
        omega
      rw [Nat.add_zero, State.rawWords, hkeep _ (by omega), hkeep _ (by omega)]
      exact ⟨(State.tlmByte_tlmPoke_ne _ (Nat.ne_of_lt (Nat.lt_succ_self _)) _).trans (State.tlmByte_tlmPoke_self _ _ _),
        State.tlmByte_tlmPoke_self _ _ _⟩
    | succ i =>
      have hi' : l[i]? = some (some c) := by simpa using hi
      have hstep : w + (i + 1) = w + 1 + i := by omega
      rw [hstep]
      cases x with
      | none => exact ih s hi'
      | some d => exact ih _ hi'

end

section
variable {s : State} {half : Bool} {f : Nat}

theorem State.frameWords_get (s : State) (lost : List (Fin 256)) (n : Fin 256) : (s.frameWords lost)[n.val]?
    = some (if lost.contains n then none else some ((s.scan.prev.words[n]).getD
      (if 240 ≤ n.val && !s.scan.prev.lh.getLsbD (n.val - 240) then 0 else Config.convCode (s.free + n)))) := by
  unfold State.frameWords
  rw [List.getElem?_map, List.getElem?_eq_getElem (by simp), List.getElem_finRange]
  rfl

theorem rawFrameWrite_writes (hdue : s.scan.due = some (half, f)) (hf : f < 64) (hen : s.bit aRawCtl 31 = true)
    (hp : s.power.phase = .run) (hst : s.power.state = .run) (lost : List (Fin 256)) :
    ∃ t, exec (.rawFrameWrite lost) s = .next t
      ∧ t = { s with regs := t.regs, tlmMem := t.tlmMem, free := s.free + 256, scan := { s.scan with due := none } }
      ∧ (∀ n : Fin 256, n ∉ lost → ∀ c : BitVec 16,
        s.scan.prev.words[n] = some c ∨ s.scan.prev.words[n] = none ∧ 240 ≤ n.val ∧ s.scan.prev.lh.getLsbD (n.val - 240) = false ∧ c = 0 →
        t.tlmByte (rawAddr half.toNat f n) = c.extractLsb' 0 8
          ∧ t.tlmByte (rawAddr half.toNat f n + 1) = c.extractLsb' 8 8)
      ∧ (∀ a, (∀ n : Fin 256, n ∉ lost → a ≠ rawAddr half.toNat f n ∧ a ≠ rawAddr half.toNat f n + 1) →
        t.tlmByte a = s.tlmByte a)
      ∧ (∀ a, a ≠ aRawStat → t.reg a = s.reg a)
      ∧ (lost ≠ [] → t.bit aRawStat 2 = true ∧ t.fld aRawStat 13 8 = f) ∧ (lost = [] → t.reg aRawStat = s.reg aRawStat) := by
  obtain ⟨u, hu⟩ : ∃ u, u = State.rawWords { s with scan := { s.scan with due := none }, free := s.free + 256 } half.toNat f 0
      (s.frameWords lost) := ⟨_, rfl⟩
  have hwrites : s.rawWrites = true := by
    rw [State.rawWrites, hen, hp, hst]
    rfl
  have hexec : exec (.rawFrameWrite lost) s
      = .next (if lost.isEmpty then u else (u.setBit aRawStat 2 true).setFld aRawStat 13 8 f) := by
    subst hu
    show execRawFrameWrite lost s = _
    simp only [execRawFrameWrite, hdue, hwrites, Bool.not_true, Bool.false_eq_true, if_false]
    rfl
  have hframe : u = { s with tlmMem := u.tlmMem, free := s.free + 256, scan := { s.scan with due := none } } := by
    subst hu
    exact State.rawWords_frame _ _ _ _ _
  have hword : ∀ n : Fin 256, n ∉ lost → ∀ c : BitVec 16, s.scan.prev.words[n] = some c ∨ s.scan.prev.words[n] = none
      ∧ 240 ≤ n.val ∧ s.scan.prev.lh.getLsbD (n.val - 240) = false ∧ c = 0 →
      u.tlmByte (rawAddr half.toNat f n) = c.extractLsb' 0 8 ∧ u.tlmByte (rawAddr half.toNat f n + 1) = c.extractLsb' 8 8 := by
    intro n hn c hc
    have hget : (s.frameWords lost)[n.val]? = some (some c) := by
      rw [s.frameWords_get, if_neg (by simpa using hn)]
      obtain hw | ⟨hw, h240, hlh, rfl⟩ := hc
      · rw [hw]
        rfl
      · rw [hw, hlh]
        simp [h240]
    have h' := State.rawWords_word { s with scan := { s.scan with due := none }, free := s.free + 256 } (h := half.toNat)
      (f := f) (w := 0) hget
    rw [Nat.zero_add, ← hu] at h'
    exact h'
  have hkeep : ∀ a, (∀ n : Fin 256, n ∉ lost → a ≠ rawAddr half.toNat f n ∧ a ≠ rawAddr half.toNat f n + 1) →
      u.tlmByte a = s.tlmByte a := by
    intro a ha
    subst hu
    refine State.tlmByte_rawWords _ _ _ fun i c hi => ?_
    have hlen : i < 256 := by
      have hsome : i < (s.frameWords lost).length := (List.getElem?_eq_some_iff.1 hi).1
      simpa [State.frameWords] using hsome
    have hi' := s.frameWords_get lost ⟨i, hlen⟩
    rw [Nat.zero_add]
    refine ha ⟨i, hlen⟩ fun hmem => ?_
    rw [if_pos (by simpa using hmem)] at hi'
    exact absurd (hi.symm.trans hi') (by simp)
  have hreg : ∀ a, u.reg a = s.reg a := fun a => by
    rw [hframe]
    rfl
  refine ⟨_, hexec, ?_⟩
  by_cases hlost : lost = []
  · rw [hlost, List.isEmpty_nil, if_pos rfl]
    subst hlost
    refine ⟨?_, hword, hkeep, fun a _ => hreg a, fun hne => absurd rfl hne, fun _ => hreg _⟩
    conv_lhs => rw [hframe]
    have hregs : u.regs = s.regs := by rw [hframe]
    rw [hregs]
  · have hempty : lost.isEmpty = false := by simpa using hlost
    rw [hempty, if_neg Bool.false_ne_true]
    refine ⟨?_, hword, hkeep, fun a ha => ?_, fun _ => ⟨?_, ?_⟩, fun hnil => absurd hnil hlost⟩
    · rw [hframe]
      rfl
    · exact (State.reg_setFld_ne _ ha _ _ _).trans ((State.reg_setBit_ne _ ha _ _).trans (hreg a))
    · exact (State.bit_setFld_ne _ aRawStat _ (by decide) (by decide)).trans (State.bit_setBit_self _ _ (by decide) _)
    · exact (State.fld_setFld_self _ aRawStat (hi := 13) (lo := 8) _ (by decide) (by decide)).trans
        (Nat.mod_eq_of_lt hf)

end

end Sys2Proof.Machine
end

section
/-! O28, the conversions and the commands of the telemetry block (R125 to R146). -/

namespace Sys2Proof.Machine
open Sys2Proof

/-! Conversions -/

/-- What a base conversion of a point may change of the state: the point's registers and filter, and what the reference
check and the die temperatures take from it. -/
structure State.Fed (s : State) (p : Point) (t : State) : Prop where
  st : t = { s with
    regs := t.regs, filters := t.filters, scan := t.scan, power := { s.power with hot := t.power.hot } }
  regs : ∀ a, a ≠ aVal p → a ≠ aMm p → a ≠ aLast p → t.reg a = s.reg a
  filters : ∀ q : Point, q ≠ p → t.filters[q] = s.filters[q]
  cur : t.scan.cur = s.scan.cur
  hot : p.val < 117 ∨ 120 < p.val → t.power.hot = s.power.hot

namespace State.Fed

theorem refl (s : State) (p : Point) : s.Fed p s := ⟨rfl, fun _ _ _ _ => rfl, fun _ _ => rfl, rfl, fun _ => rfl⟩

theorem trans {s t u : State} {p : Point} (h : s.Fed p t) (k : t.Fed p u) : s.Fed p u where
  st := by
    obtain ⟨r, f, c, w, hw⟩ : ∃ r f c w, t = { s with regs := r, filters := f, scan := c, power := { s.power with hot := w } } :=
      ⟨_, _, _, _, h.st⟩
    conv_lhs => rw [k.st]
    rw [hw]
  regs a ha hb hc := (k.regs a ha hb hc).trans (h.regs a ha hb hc)
  filters q hq := (k.filters q hq).trans (h.filters q hq)
  cur := k.cur.trans h.cur
  hot hp := (k.hot hp).trans (h.hot hp)

theorem ofReg {s : State} {p : Point} {a : Nat} (ha : a = aVal p ∨ a = aMm p ∨ a = aLast p) (v : Word) :
    s.Fed p (s.setReg a v) where
  st := rfl
  regs b hb hc hd := s.reg_setReg_ne (by rcases ha with rfl | rfl | rfl <;> assumption) v
  filters _ _ := rfl
  cur := rfl
  hot _ := rfl

theorem ofFilter (s : State) (p : Point) (f : PointFilter) : s.Fed p { s with filters := s.filters.set p f } where
  st := rfl
  regs _ _ _ _ := rfl
  filters q hq := Vector.getElem_set_ne p.isLt q.isLt fun h => hq (Fin.ext h.symm)
  cur := rfl
  hot _ := rfl

theorem ofScan {s : State} {p : Point} {c : Scan} (hc : c.cur = s.scan.cur) : s.Fed p { s with scan := c } where
  st := rfl
  regs _ _ _ _ := rfl
  filters _ _ := rfl
  cur := hc
  hot _ := rfl

end State.Fed

section
variable (s : State) (p : Point)

theorem State.minMax_fed (v : Int) : s.Fed p (s.minMax p v) := by
  have hmm : ∀ (t : State) (hi lo x : Nat), t.Fed p (t.setFld (aMm p) hi lo x) := fun t hi lo x =>
    .ofReg (.inr (.inl rfl)) _
  unfold State.minMax
  dsimp only
  split
  · split
    · exact (hmm s _ _ _).trans (hmm _ _ _ _)
    · exact hmm s _ _ _
  · split
    · exact hmm s _ _ _
    · exact .refl s p

/-- LAST and PEAK of a point take a result. -/
def State.lastTaken (x : Int) : State :=
  if ptVal p ((s.setFld (aLast p) 15 0 (unsgn 16 x)).fld (aLast p) 31 16) < x then
    (s.setFld (aLast p) 15 0 (unsgn 16 x)).setFld (aLast p) 31 16 (unsgn 16 x)
  else s.setFld (aLast p) 15 0 (unsgn 16 x)

theorem State.lastTaken_fed (x : Int) : s.Fed p (s.lastTaken p x) := by
  have hlast : ∀ (t : State) (hi lo v : Nat), t.Fed p (t.setFld (aLast p) hi lo v) := fun t hi lo v =>
    .ofReg (.inr (.inr rfl)) _
  unfold State.lastTaken
  split
  · exact (hlast s _ _ _).trans (hlast _ _ _ _)
  · exact hlast s _ _ _

theorem State.lastTaken_last (x : Int) : (s.lastTaken p x).fld (aLast p) 15 0 = unsgn 16 x := by
  have hlow : (s.setFld (aLast p) 15 0 (unsgn 16 x)).fld (aLast p) 15 0 = unsgn 16 x := by
    refine (s.fld_setFld_self (aLast p) (hi := 15) (lo := 0) _ (by decide) (by decide)).trans (Nat.mod_eq_of_lt ?_)
    unfold unsgn
    omega
  unfold State.lastTaken
  split
  · exact (State.fld_setFld_ne _ (aLast p) _ (by decide) (by decide)).trans hlow
  · exact hlow

end

/-- The registers of a point are its own. -/
theorem aPoint_ne (p : Nat) : aVal p ≠ aLast p ∧ aMm p ≠ aLast p ∧ aFilt p ≠ aLast p ∧ aVal p ≠ aMm p := by
  simp only [aVal, aMm, aLast, aFilt, aTlm]
  omega

/-- A block of a point's filter ends: its output, and VAL where one is due. -/
def State.blockEnds (s : State) (p : Point) (x : Int) : State :=
  let f := s.filters[p]
  let b : Int := (f.sum + x) * 2 ^ 24 / 2 ^ s.fld (aFilt p) 19 16
  let y : Int := match f.y with
    | none => b
    | some y => y + (b - y) / 2 ^ s.fld (aFilt p) 15 12
  let t : State := { s with filters := s.filters.set p {
    sum := 0, cnt := 0, y := some y, dec := if s.fld (aFilt p) 7 0 ≤ f.dec then 0 else f.dec + 1 } }
  (if s.fld (aFilt p) 7 0 ≤ f.dec then t.setFld (aVal p) 15 0 (unsgn 16 (yResult p y)) else t).minMax p (yResult p y)

section
variable (s : State) (p : Point) (x : Int)

/-- A result joins the running block, or ends it. -/
theorem State.feed_eq : s.feed p x
    = if (s.lastTaken p x).filters[p].cnt + 1 < 2 ^ (s.lastTaken p x).fld (aFilt p) 19 16 then
        { s.lastTaken p x with filters := (s.lastTaken p x).filters.set p { (s.lastTaken p x).filters[p] with
          sum := (s.lastTaken p x).filters[p].sum + x, cnt := (s.lastTaken p x).filters[p].cnt + 1 } }
      else (s.lastTaken p x).blockEnds p x := rfl

theorem State.minMax_last (v : Int) : (s.minMax p v).reg (aLast p) = s.reg (aLast p) := by
  have hne := (aPoint_ne p).2.1
  unfold State.minMax
  dsimp only
  split
  · split
    · exact (State.reg_setFld_ne _ hne.symm _ _ _).trans (s.reg_setFld_ne hne.symm _ _ _)
    · exact s.reg_setFld_ne hne.symm _ _ _
  · split
    · exact s.reg_setFld_ne hne.symm _ _ _
    · rfl

theorem State.blockEnds_fed : s.Fed p (s.blockEnds p x) ∧ (s.blockEnds p x).reg (aLast p) = s.reg (aLast p) := by
  have hval : ∀ (t : State) (v : Nat), t.Fed p (t.setFld (aVal p) 15 0 v) := fun t v => .ofReg (.inl rfl) _
  unfold State.blockEnds
  extract_lets f b y t
  have ht : s.Fed p t := .ofFilter s p _
  split
  · exact ⟨(ht.trans (hval t _)).trans (State.minMax_fed _ p _),
      (State.minMax_last _ p _).trans (t.reg_setFld_ne (aPoint_ne p).1.symm _ _ _)⟩
  · exact ⟨ht.trans (t.minMax_fed p _), t.minMax_last p _⟩

/-- A conversion's filter step keeps LAST as it has been taken. -/
theorem State.feed_fed : s.Fed p (s.feed p x) ∧ (s.feed p x).reg (aLast p) = (s.lastTaken p x).reg (aLast p) := by
  rw [State.feed_eq]
  have htaken := s.lastTaken_fed p x
  generalize s.lastTaken p x = u at htaken
  split
  · exact ⟨htaken.trans (.ofFilter u p _), rfl⟩
  · exact ⟨htaken.trans (u.blockEnds_fed p x).1, (u.blockEnds_fed p x).2⟩

theorem State.lastTaken_filters : (s.lastTaken p x).filters = s.filters := by
  unfold State.lastTaken
  split <;> rfl

/-- A block that is not complete only adds the result. -/
theorem State.feed_adds (h : s.filters[p].cnt + 1 < 2 ^ s.fld (aFilt p) 19 16) : (s.feed p x).filters[p]
    = { s.filters[p] with sum := s.filters[p].sum + x, cnt := s.filters[p].cnt + 1 } := by
  have hreg : (s.lastTaken p x).fld (aFilt p) 19 16 = s.fld (aFilt p) 19 16 := by
    refine congrArg (wfld · _ _) ((s.lastTaken_fed p x).regs _ ?_ ?_ (aPoint_ne p).2.2.1)
    · simp only [aFilt, aVal, aTlm]
      omega
    · simp only [aFilt, aMm, aTlm]
      omega
  rw [State.feed_eq, hreg, s.lastTaken_filters, if_pos h]
  exact Vector.getElem_set_self p.isLt

end

/-! What else takes a conversion -/

section
variable (s : State) (p : Point) (code : BitVec 16)

theorem State.refSample_scan : ∃ n, s.refSample p code = { s with scan := { s.scan with refBad := n } } := by
  unfold State.refSample
  dsimp only
  split
  · exact ⟨_, rfl⟩
  · exact ⟨_, rfl⟩
  · exact ⟨_, rfl⟩
  · exact ⟨s.scan.refBad, rfl⟩

theorem State.dieSample_hot : ∃ b, s.dieSample p = { s with power := { s.power with hot := b } }
    ∧ (p.val < 117 ∨ 120 < p.val → b = s.power.hot) := by
  unfold State.dieSample
  split
  · exact ⟨s.power.hot, rfl, fun _ => rfl⟩
  · next h =>
    refine ⟨_, rfl, fun hp => absurd ?_ h⟩
    simpa using hp

theorem State.reserveSample_none (x : Int) (h112 : p ≠ 112) (h114 : p ≠ 114) (h115 : p ≠ 115)
    (hpack : p.val ≠ 96 + s.fld aRsvCfg 22 19) : s.reserveSample p x = s := by
  have hv : p.val ≠ 112 ∧ p.val ≠ 114 ∧ p.val ≠ 115 :=
    ⟨fun h => h112 (Fin.ext h), fun h => h114 (Fin.ext h), fun h => h115 (Fin.ext h)⟩
  unfold State.reserveSample
  split
  · exact absurd ‹_› hv.1
  · exact absurd ‹_› hv.2.1
  · exact absurd ‹_› hv.2.2
  · exact if_neg (by rintro (h | h | h | h) <;> contradiction)

end

/-- The result of a code depends on the channels' and the reserve's registers alone. -/
theorem State.result_congr {s t : State} (h : ∀ a, a < 0x10020000 ∨ 0x10030000 ≤ a → t.reg a = s.reg a) (p : Point)
    (code : BitVec 16) : t.result p code = s.result p code := by
  have hch : ∀ n < 64, t.fld (aChCfg n) 6 5 = s.fld (aChCfg n) 6 5 := fun n hn =>
    congrArg (wfld · _ _) (h _ (.inl (by simp only [aChCfg, aCh]; omega)))
  have hshunt : t.shunt = s.shunt := congrArg (wfld · _ _) (h aRsvCfg (.inr (by decide)))
  have hraw : t.rawResult p code.toNat = s.rawResult p code.toNat := by
    have hp := p.isLt
    unfold State.rawResult
    dsimp only
    rw [hshunt]
    split
    · rw [hch _ (by omega)]
    split
    · rfl
    split
    · rfl
    split
    · rw [hch _ (by omega)]
    · rfl
  rw [State.result, hraw, State.result]

/-- What a base conversion does to a point, to its filter and to the registers of the others. -/
theorem State.feedPoint_base (s : State) (p : Point) (code : BitVec 16) (h112 : p ≠ 112) (h114 : p ≠ 114) (h115 : p ≠ 115)
    (hpack : p.val ≠ 96 + s.fld aRsvCfg 22 19) : s.Fed p (s.feedPoint p code .base false)
      ∧ (s.feedPoint p code .base false).last p = BitVec.ofInt 16 (s.result p code)
      ∧ (s.feedPoint p code .base false).bit (aVal p) 31 = true
      ∧ (s.filters[p].cnt + 1 < 2 ^ s.fld (aFilt p) 19 16 → (s.feedPoint p code .base false).filters[p]
        = { s.filters[p] with sum := s.filters[p].sum + s.result p code, cnt := s.filters[p].cnt + 1 }) := by
  obtain ⟨x, hx⟩ : ∃ x, x = s.result p code := ⟨_, rfl⟩
  obtain ⟨u, hu⟩ : ∃ u : State, u = { s with scan := { s.scan with codes := s.scan.codes.set p code } } := ⟨_, rfl⟩
  obtain ⟨n, hn⟩ := (u.feed p x).refSample_scan p code
  obtain ⟨v, hv⟩ : ∃ v : State, v = { (u.feed p x).refSample p code with
      scan := { ((u.feed p x).refSample p code).scan with
        bySample := ((u.feed p x).refSample p code).scan.bySample.filter (· != p) } } := ⟨_, rfl⟩
  obtain ⟨hfeed, hlast⟩ := u.feed_fed p x
  have hfedv : s.Fed p v := by
    have hu' : s.Fed p u := hu ▸ .ofScan rfl
    refine (hu'.trans hfeed).trans ?_
    rw [hv, hn]
    exact .ofScan rfl
  have hregs : v.regs = (u.feed p x).regs := by rw [hv, hn]
  have hfilters : v.filters = (u.feed p x).filters := by rw [hv, hn]
  have hfed : s.Fed p (v.setBit (aVal p) 31 true) := hfedv.trans (.ofReg (.inl rfl) _)
  have hpack' : p.val ≠ 96 + (v.setBit (aVal p) 31 true).fld aRsvCfg 22 19 := by
    have hreg := hfed.regs aRsvCfg (by simp only [aVal, aTlm, aRsvCfg, aRsv]; omega)
      (by simp only [aMm, aTlm, aRsvCfg, aRsv]; omega) (by simp only [aLast, aTlm, aRsvCfg, aRsv]; omega)
    rw [State.fld, hreg]
    exact hpack
  have hpoint : s.feedPoint p code .base false = (v.setBit (aVal p) 31 true).dieSample p := by
    have hres := State.reserveSample_none (v.setBit (aVal p) 31 true) p x h112 h114 h115 hpack'
    subst hv hu hx
    exact congrArg (fun w : State => w.dieSample p) hres
  obtain ⟨b, hb, hhot⟩ := (v.setBit (aVal p) 31 true).dieSample_hot p
  rw [hpoint, hb]
  refine ⟨hfed.trans ⟨rfl, fun _ _ _ _ => rfl, fun _ _ => rfl, rfl, hhot⟩, ?_, v.bit_setBit_self _ (by decide) _, fun hcnt => ?_⟩
  · have hlow : (v.setBit (aVal p) 31 true).fld (aLast p) 15 0 = unsgn 16 x := by
      refine (congrArg (wfld · _ _) ((v.reg_setBit_ne (aPoint_ne p).1.symm _ _).trans
        ((State.reg_congr hregs _).trans hlast))).trans (u.lastTaken_last p x)
    show BitVec.ofNat 16 ((v.setBit (aVal p) 31 true).fld (aLast p) 15 0) = _
    rw [hlow, hx]
    refine BitVec.eq_of_toNat_eq ?_
    rw [BitVec.toNat_ofNat, BitVec.toNat_ofInt, unsgn]
    refine Nat.mod_eq_of_lt ?_
    omega
  · have hadds := u.feed_adds p x (by subst hu; exact hcnt)
    show v.filters[p] = _
    rw [hfilters, hadds, hx]
    subst hu
    rfl

/-- A code joins the frame in progress where its word has none. -/
theorem Frame.take_free {f : Frame} {p : Nat} (hp : p < 256) (hw : f.words[p]? = some none) (code : BitVec 16) :
    ∃ g, f.take p code = some g ∧ g.words[p]? = some (some code) := by
  have hnone : f.words[p] = none := by
    rw [Vector.getElem?_eq_getElem hp] at hw
    exact Option.some.inj hw
  refine ⟨{ f with words := f.words.set p (some code) }, ?_, ?_⟩
  · rw [Frame.take, dif_pos hp, hnone]
    rfl
  · exact (Vector.getElem?_eq_getElem hp).trans (congrArg some (Vector.getElem_set_self hp))

theorem adcConversion_feeds {s : State} {p : Point} (code : BitVec 16) (hscan : s.scans = true)
    (hst : s.bit aStStat 31 = false) (hin : s.scan.inFrame = true) (hw : s.scan.cur.words[p.val]? = some none) (h112 : p ≠ 112)
    (h114 : p ≠ 114) (h115 : p ≠ 115) (hpack : p.val ≠ 96 + s.fld aRsvCfg 22 19) :
    ∃ t, exec (.adcConversion p code .base false) s = .next t
      ∧ { s with filters := t.filters, power := { s.power with hot := t.power.hot } }.CycleOf [] [] t
      ∧ (p.val < 117 ∨ 120 < p.val → t.power.hot = s.power.hot)
      ∧ t.scan.cur.words[p.val]? = some (some code)
      ∧ t.last p = BitVec.ofInt 16 (s.result p code) ∧ t.bit (aVal p) 31 = true
      ∧ (∀ q, q ≠ p → t.filters[q] = s.filters[q] ∧ t.last q = s.last q ∧ t.reg (aVal q) = s.reg (aVal q))
      ∧ (s.filters[p].cnt + 1 < 2 ^ s.fld (aFilt p) 19 16 →
        t.filters[p] = { s.filters[p] with
          sum := s.filters[p].sum + s.result p code, cnt := s.filters[p].cnt + 1 }) := by
  obtain ⟨f, hf, hword⟩ := Frame.take_free (by omega) hw code
  obtain ⟨u, hu⟩ : ∃ u : State, u = if code.toNat = 0 ∨ code.toNat = 65535 then
      State.setBit { s with scan := { s.scan with cur := f } } (aVal p) 16 true else { s with scan := { s.scan with cur := f } } :=
    ⟨_, rfl⟩
  have hregs : ∀ a, a ≠ aVal p → u.reg a = s.reg a := by
    intro a ha
    subst hu
    split
    · exact State.reg_setBit_ne _ ha _ _
    · rfl
  have hust : u = { s with regs := u.regs, scan := { s.scan with cur := f } } := by
    subst hu
    split <;> rfl
  have hne : ∀ a, a < 0x10020000 ∨ 0x10030000 ≤ a → a ≠ aVal p ∧ a ≠ aMm p ∧ a ≠ aLast p := fun a ha => by
    simp only [aVal, aMm, aLast, aTlm]
    omega
  have hpack' : p.val ≠ 96 + u.fld aRsvCfg 22 19 := by
    rw [State.fld, hregs _ (hne _ (.inr (by decide))).1]
    exact hpack
  have hresult : u.result p code = s.result p code := State.result_congr (fun a ha => hregs a (hne a ha).1) p code
  obtain ⟨hfed, hlast, hval, hadds⟩ := u.feedPoint_base p code h112 h114 h115 hpack'
  generalize hv : u.feedPoint p code .base false = v at hfed hlast hval hadds
  have hcover : ({ s := v } : Cyc).coverSample p code = { s := v } := by
    have hoff : v.bit aStStat 31 = false := by
      obtain ⟨h1, h2, h3⟩ := hne aStStat (.inl (by decide))
      rw [State.bit, hfed.regs _ h1 h2 h3, hregs _ h1]
      exact hst
    have hcond : (!v.bit aStStat 31 || p.val < coverBase v.testBank || coverBase v.testBank + 16 ≤ p.val) = true := by
      rw [hoff]
      rfl
    exact if_pos hcond
  have hcyc : u.cyc (fun c => (c.map (fun s => s.feedPoint p code .base false)).coverSample p code)
      = ({ s := v } : Cyc).finish := by
    refine congrArg Cyc.finish ?_
    show Cyc.coverSample { s := u.feedPoint p code .base false } p code = _
    rw [hv, hcover]
  have hexec : exec (.adcConversion p code .base false) s = .next ({ s := v } : Cyc).finish := by
    rw [← hcyc, hu]
    show execAdcConversion p code .base false s = _
    simp only [execAdcConversion, State.takeWord, hscan, hin, hf, Bool.not_true, Bool.false_eq_true, if_false,
      Option.map_some]
    rfl
  have hfin := Cyc.finish_unraised (c := { s := v }) rfl rfl false
  generalize ({ s := v } : Cyc).finish = t at hexec hfin
  have htregs : t.regs = v.regs := by rw [hfin]
  have htreg : ∀ a, t.reg a = v.reg a := State.reg_congr htregs
  have htfilters : t.filters = v.filters := by rw [hfin]
  have htscan : t.scan = v.scan := by rw [hfin]
  have hthot : t.power.hot = v.power.hot := by rw [hfin]
  have hcur : v.scan.cur = f := hfed.cur.trans (by rw [hust])
  have hother : ∀ q : Point, q ≠ p → aVal q ≠ aVal p ∧ aVal q ≠ aMm p ∧ aVal q ≠ aLast p ∧ aLast q ≠ aVal p ∧ aLast q ≠ aMm p
      ∧ aLast q ≠ aLast p := fun q hq => by
    have hqp : q.val ≠ p.val := fun h => hq (Fin.ext h)
    simp only [aVal, aMm, aLast, aTlm]
    omega
  refine ⟨t, hexec, ⟨?_, fun q _ => ?_, fun a ha _ => ?_⟩, fun hp => ?_, ?_, ?_, ?_, fun q hq => ⟨?_, ?_, ?_⟩, fun hcnt => ?_⟩
  · obtain ⟨fa, re, ht⟩ : ∃ fa re, t = { v with faults := fa, resets := re } := ⟨_, _, hfin⟩
    obtain ⟨r, fl, c, b, hvst⟩ : ∃ r fl c b,
        v = { s with regs := r, filters := fl, scan := c, power := { s.power with hot := b } } :=
      ⟨_, _, _, _, by
        conv_lhs => rw [hfed.st, hust]⟩
    rw [ht, hvst]
  · have hch : t.chans = s.chans := by
      rw [hfin]
      show v.chans = _
      rw [hfed.st, hust]
    show t.chans[q] = { s.chans[q] with perturb := t.chans[q].perturb }
    rw [hch]
  · obtain ⟨h1, h2, h3⟩ := hne a (by unfold ownReg at ha; omega)
    exact (htreg a).trans ((hfed.regs a h1 h2 h3).trans (hregs a h1))
  · rw [hthot, hfed.hot hp, hust]
  · rw [htscan, hcur]
    exact hword
  · rw [← hresult, ← hlast]
    exact congrArg (fun w => BitVec.ofNat 16 (wfld w 15 0)) (htreg _)
  · rw [State.bit, htreg]
    exact hval
  · rw [htfilters]
    exact (hfed.filters q hq).trans (by rw [hust])
  · obtain ⟨-, -, -, h1, h2, h3⟩ := hother q hq
    exact congrArg (fun w => BitVec.ofNat 16 (wfld w 15 0)) ((htreg _).trans ((hfed.regs _ h1 h2 h3).trans (hregs _ h1)))
  · obtain ⟨h1, h2, h3, -, -, -⟩ := hother q hq
    exact (htreg _).trans ((hfed.regs _ h1 h2 h3).trans (hregs _ h1))
  · have hufilt : u.filters[p] = s.filters[p] := by rw [hust]
    have hufld : u.fld (aFilt p) 19 16 = s.fld (aFilt p) 19 16 := by
      refine congrArg (wfld · _ _) (hregs _ ?_)
      simp only [aFilt, aVal, aTlm]
      omega
    rw [htfilters, hadds (by rw [hufilt, hufld]; exact hcnt), hufilt, hresult]

end Sys2Proof.Machine
end

section
/-! O28, the commands of the telemetry block (R135 to R142), and the obligation. -/

namespace Sys2Proof.Machine
open Sys2Proof

section
variable {s : State}

/-! FREEZE and UNFREEZE -/

/-- The registers of a freeze that starts: its frame, PENDING and its ring time. -/
def State.freezing (s : State) : State :=
  (((s.setFld aRawStat 21 16 (if s.scan.inFrame then s.scan.frame else s.scan.frame + 63)).orReg aRawStat (bitw 29)).setReg
    aFrzTL (s.scan.frameTime.setWidth 32)).setReg aFrzTH ((s.scan.frameTime >>> 32).setWidth 32)

theorem State.freezing_reg (s : State) : (∀ a, a ∉ [aRawStat, aFrzTL, aFrzTH] → s.freezing.reg a = s.reg a)
    ∧ s.freezing.reg aFrzTL = s.scan.frameTime.setWidth 32 ∧ s.freezing.reg aFrzTH = (s.scan.frameTime >>> 32).setWidth 32
    ∧ s.freezing.bit aRawStat 29 = true ∧ s.freezing.bit aRawStat 31 = s.bit aRawStat 31 := by
  have hstat : ∀ i, s.freezing.bit aRawStat i = State.bit ((s.setFld aRawStat 21 16
      (if s.scan.inFrame then s.scan.frame else s.scan.frame + 63)).orReg aRawStat (bitw 29)) aRawStat i := fun i =>
    State.bit_congr ((State.reg_setReg_ne _ (by decide) _).trans (State.reg_setReg_ne _ (by decide) _)) i
  refine ⟨fun a ha => ?_, ?_, ?_, ?_, ?_⟩
  · simp only [List.mem_cons, List.not_mem_nil, or_false, not_or] at ha
    obtain ⟨h1, h2, h3⟩ := ha
    exact (State.reg_setReg_ne _ h3 _).trans ((State.reg_setReg_ne _ h2 _).trans
      ((State.reg_orReg_ne _ h1 _).trans (s.reg_setFld_ne h1 _ _ _)))
  · exact (State.reg_setReg_ne _ (by decide) _).trans (State.reg_setReg_self _ _ _)
  · exact State.reg_setReg_self _ _ _
  · rw [hstat]
    exact State.bit_orReg_self _ _ (by decide)
  · rw [hstat]
    exact (State.bit_orReg_ne _ aRawStat (by decide)).trans (s.bit_setFld_ne aRawStat _ (by decide) (by decide))

theorem freeze_pends (hs : s.serves = true) (who : Who) (hp : s.bit aRawStat 29 = false) (hf : s.bit aRawStat 30 = false) :
    ∃ t, exec (.freeze who) s = .next t
      ∧ t = { s with regs := t.regs, scan := { s.scan with
        postLeft := s.fld aRawCtl 5 0 + s.scan.inFrame.toNat
        frame := if s.fld aRawCtl 5 0 + s.scan.inFrame.toNat = 0 then 0 else s.scan.frame } }
      ∧ t.bit aRawStat 29 = true
      ∧ t.bit aRawStat 31 = (s.bit aRawStat 31 != (s.fld aRawCtl 5 0 + s.scan.inFrame.toNat == 0))
      ∧ t.reg aFrzTL = s.scan.frameTime.setWidth 32 ∧ t.reg aFrzTH = (s.scan.frameTime >>> 32).setWidth 32
      ∧ ∀ a, a ∉ [aRawStat, aFrzTL, aFrzTH] → t.reg a = s.reg a := by
  obtain ⟨hregs, hlow, hhigh, hpend, hhalf⟩ := s.freezing_reg
  obtain ⟨n, hn⟩ : ∃ n, n = s.fld aRawCtl 5 0 + s.scan.inFrame.toNat := ⟨_, rfl⟩
  have hn' : s.freezing.fld aRawCtl 5 0 + s.scan.inFrame.toNat = n := by
    rw [State.fld, hregs _ (by decide), hn]
    rfl
  obtain ⟨u, hu⟩ : ∃ u, u = { s.freezing with scan := { s.scan with
      postLeft := n, frame := if n = 0 then 0 else s.scan.frame } } := ⟨_, rfl⟩
  have htrigger : s.freezeTrigger = if n = 0 then u.setBit aRawStat 31 (!u.bit aRawStat 31) else u := by
    rw [hu, ← hn', State.freezeTrigger, hp, hf, if_neg (by decide)]
    rfl
  have hexec : exec (.freeze who) s = .next (if n = 0 then u.setBit aRawStat 31 (!u.bit aRawStat 31) else u) :=
    congrArg Host.Outcome.next ((State.fab_serves hs _).trans htrigger)
  have hureg : ∀ a, u.reg a = s.freezing.reg a := by
    subst hu
    exact fun _ => rfl
  have hubit : ∀ i, u.bit aRawStat i = s.freezing.bit aRawStat i := fun i => State.bit_congr (hureg _) i
  rw [← hn]
  refine ⟨_, hexec, ?_⟩
  split
  · next h0 =>
    have hother : ∀ a, a ≠ aRawStat → (u.setBit aRawStat 31 (!u.bit aRawStat 31)).reg a = s.freezing.reg a := fun a ha =>
      (u.reg_setBit_ne ha _ _).trans (hureg a)
    refine ⟨?_, ?_, ?_, (hother _ (by decide)).trans hlow, (hother _ (by decide)).trans hhigh, fun a ha => ?_⟩
    · subst hu
      rw [if_pos h0]
      rfl
    · exact (u.bit_setBit_other _ (by decide) (by decide) _).trans ((hubit _).trans hpend)
    · refine (u.bit_setBit_self _ (by decide) _).trans ?_
      rw [hubit, hhalf, h0]
      cases s.bit aRawStat 31 <;> rfl
    · exact (hother a fun h => ha (by simp [h])).trans (hregs a ha)
  · next h0 =>
    refine ⟨?_, (hubit _).trans hpend, ?_, (hureg _).trans hlow, (hureg _).trans hhigh,
      fun a ha => (hureg a).trans (hregs a ha)⟩
    · subst hu
      rw [if_neg h0]
      rfl
    · rw [hubit, hhalf, beq_eq_false_iff_ne.2 h0]
      cases s.bit aRawStat 31 <;> rfl

theorem freeze_missed (hs : s.serves = true) (who : Who) (h : s.bit aRawStat 29 = true ∨ s.bit aRawStat 30 = true) :
    ∃ t, exec (.freeze who) s = .next t ∧ s.RegsBecome [aRawStat] t ∧ t.reg aRawStat = s.reg aRawStat ||| 2 := by
  have hcond : (s.bit aRawStat 29 || s.bit aRawStat 30) = true := by
    obtain h | h := h
    · rw [h, Bool.true_or]
    · rw [h, Bool.or_true]
  exact ⟨_, congrArg Host.Outcome.next ((State.fab_serves hs _).trans (if_pos hcond)), s.orReg_regsBecome aRawStat _,
    s.reg_orReg_self aRawStat _⟩

theorem freezeComplete_freezes (hp : s.bit aRawStat 29 = true) (hpost : s.scan.postLeft = 0) (hdue : s.scan.due = none) :
    ∃ t, exec .freezeComplete s = .next t ∧ s.RegsBecome [aRawStat] t ∧ t.bit aRawStat 29 = false
      ∧ t.bit aRawStat 30 = true ∧ t.bit aRawStat 31 = s.bit aRawStat 31 := by
  have hcond : (s.bit aRawStat 29 && s.scan.postLeft == 0 && s.scan.due.isNone) = true := by
    rw [hp, hpost, hdue]
    rfl
  have hdone : s.freezeDone = (s.setBit aRawStat 29 false).setBit aRawStat 30 true := by
    unfold State.freezeDone
    dsimp only
    rw [if_pos hpost]
  refine ⟨_, congrArg Host.Outcome.next ((if_pos hcond).trans hdone),
    ((s.setBit_regsBecome aRawStat 29 false).next (State.setBit_regsBecome _ _ _ _)),
    (State.bit_setBit_other _ _ (by decide) (by decide) _).trans (s.bit_setBit_self _ (by decide) _),
    State.bit_setBit_self _ _ (by decide) _, ?_⟩
  exact (State.bit_setBit_other _ _ (by decide) (by decide) _).trans (s.bit_setBit_other _ (by decide) (by decide) _)

theorem unfreeze_clears (hs : s.serves = true) (who : Who) (hp : s.bit aRawStat 29 = false) :
    ∃ t, exec (.unfreeze who) s = .next t ∧ s.RegsBecome [aRawStat] t ∧ t.bit aRawStat 30 = false
      ∧ t.bit aRawStat 31 = s.bit aRawStat 31 :=
  ⟨_, congrArg Host.Outcome.next ((State.fab_serves hs _).trans (if_neg (by rw [hp]; exact Bool.false_ne_true))),
    s.setBit_regsBecome aRawStat 30 false, s.bit_setBit_self _ (by decide) _, s.bit_setBit_other _ (by decide) (by decide) _⟩

/-! CLRMM and CLRPK -/

theorem resetWord_aMm {p : Nat} (hp : p < 124) : resetWord (aMm p) = if ptSigned p then 0x80007FFF else 0x0000FFFF := by
  have hrange : 0x10021000 ≤ aMm p ∧ aMm p < 0x10021000 + 0x10 * 124 := by
    simp only [aMm, aTlm]
    omega
  have hpoint : (aMm p - 0x10021000) / 0x10 = p ∧ (aMm p - 0x10021000) % 0x10 = 4 := by
    simp only [aMm, aTlm]
    omega
  unfold resetWord
  rw [if_pos hrange, hpoint.1, hpoint.2]
  rfl

theorem clrmm_restores (hs : s.serves = true) (who : Who) {p : BitVec 7} (hp : p.toNat < 124) :
    ∃ t, exec (.clrmm who false p) s = .next t ∧ s.RegsBecome [aMm p.toNat] t
      ∧ t.reg (aMm p.toNat) = if ptSigned p.toNat then 0x80007FFF else 0x0000FFFF := by
  have hcmd : (s.tlmCmd true false false p).1 = s.clrMm p.toNat := by
    have hcond : ¬ ((!false && decide (124 ≤ p.toNat)) = true) := by simp; omega
    rw [State.tlmCmd, if_neg hcond]
    rfl
  exact ⟨_, congrArg Host.Outcome.next ((State.fab_serves hs _).trans hcmd), s.setReg_regsBecome _ _,
    (s.reg_setReg_self _ _).trans (resetWord_aMm hp)⟩

theorem clrpk_restores (hs : s.serves = true) (who : Who) {p : BitVec 7} (hp : p.toNat < 124) :
    ∃ t, exec (.clrpk who false p) s = .next t ∧ s.RegsBecome [aLast p.toNat] t ∧ t.last p.toNat = s.last p.toNat
      ∧ t.fld (aLast p.toNat) 31 16 = if ptSigned p.toNat then 0x8000 else 0 := by
  have hcmd : (s.tlmCmd false true false p).1 = s.clrPk p.toNat := by
    have hcond : ¬ ((!false && decide (124 ≤ p.toNat)) = true) := by simp; omega
    rw [State.tlmCmd, if_neg hcond]
    rfl
  refine ⟨_, congrArg Host.Outcome.next ((State.fab_serves hs _).trans hcmd), s.setFld_regsBecome _ _ _ _,
    congrArg (BitVec.ofNat 16) (s.fld_setFld_ne _ (hi := 31) (lo := 16) _ (by decide) (by decide)), ?_⟩
  refine (s.fld_setFld_self _ (hi := 31) (lo := 16) _ (by decide) (by decide)).trans (Nat.mod_eq_of_lt ?_)
  split <;> decide

theorem clrmm_refused (hs : s.serves = true) (who : Who) {p : BitVec 7} (hp : 124 ≤ p.toNat) :
    ∃ t, exec (.clrmm who false p) s = .next t ∧ s.RegsBecome [aTlmStat] t ∧ t.reg aTlmStat = s.reg aTlmStat ||| 1 := by
  have hcmd : (s.tlmCmd true false false p).1 = s.orReg aTlmStat (bitw 0) :=
    congrArg Prod.fst (if_pos (by simp; omega))
  exact ⟨_, congrArg Host.Outcome.next ((State.fab_serves hs _).trans hcmd), s.orReg_regsBecome _ _, s.reg_orReg_self _ _⟩

/-- CLRMM of several points restores each of them and no other register. -/
theorem State.clrMm_all (l : List Nat) (s : State) (hl : ∀ p ∈ l, p < 124) : s.RegsBecome (l.map aMm) (s.forAll l State.clrMm)
    ∧ ∀ p ∈ l, (s.forAll l State.clrMm).reg (aMm p) = if ptSigned p then 0x80007FFF else 0x0000FFFF := by
  induction l generalizing s with
  | nil => exact ⟨.refl s _, fun _ hp => absurd hp (List.not_mem_nil)⟩
  | cons q l ih =>
    obtain ⟨⟨hst, hregs⟩, hrest⟩ := ih (s.clrMm q) fun p hp => hl p (List.mem_cons_of_mem q hp)
    have hcons : s.forAll (q :: l) State.clrMm = (s.clrMm q).forAll l State.clrMm := rfl
    rw [hcons]
    refine ⟨⟨?_, fun a ha => ?_⟩, fun p hp => ?_⟩
    · conv_lhs => rw [hst]
      rfl
    · rw [List.map_cons, List.mem_cons, not_or] at ha
      exact (hregs a ha.2).trans (s.reg_setReg_ne ha.1 _)
    · by_cases hmem : p ∈ l
      · exact hrest p hmem
      · have hpq : p = q := (List.mem_cons.1 hp).resolve_right hmem
        subst hpq
        refine (hregs _ ?_).trans ((s.reg_setReg_self _ _).trans (resetWord_aMm (hl p hp)))
        intro hin
        obtain ⟨r, hr, hrp⟩ := List.mem_map.1 hin
        have hrp' : r = p := by
          simp only [aMm, aTlm] at hrp
          omega
        exact hmem (hrp' ▸ hr)

theorem clrmm_all (hs : s.serves = true) (who : Who) (p : BitVec 7) : ∃ t, exec (.clrmm who true p) s = .next t
    ∧ (∀ q : Point, t.reg (aMm q) = if ptSigned q then 0x80007FFF else 0x0000FFFF)
    ∧ s.RegsBecome ((List.range 124).map aMm) t := by
  obtain ⟨hregs, hall⟩ := State.clrMm_all (List.range 124) s fun p hp => List.mem_range.1 hp
  exact ⟨_, congrArg Host.Outcome.next (State.fab_serves hs _), fun q => hall q (List.mem_range.2 q.isLt), hregs⟩

/-! Writes of TLM_FILTp and TLM_CTL -/

theorem tlmFiltWrite_restarts (hs : s.serves = true) (who : Who) (p : Point) {v : Word} (hl : s.lockCfg = false)
    (hv : wfld v 19 16 ≤ 10) : ∃ t, exec (.tlmFiltWrite who p v) s = .next t
      ∧ t = { s with regs := t.regs, filters := t.filters }
      ∧ t.reg (aFilt p) = v &&& 0x000FF0FF ∧ (∀ a, a ≠ aFilt p → t.reg a = s.reg a)
      ∧ t.filters[p] = { dec := 255 } ∧ ∀ q, q ≠ p → t.filters[q] = s.filters[q] := by
  have hwrite : (s.tlmFilt p v).1 = { s.setReg (aFilt p) (v &&& 0x000FF0FF#32) with
      filters := s.filters.set p { dec := 255 } } := by
    have hcond : ¬ ((s.lockCfg || decide (10 < wfld v 19 16)) = true) := by
      rw [hl]
      simpa using hv
    rw [State.tlmFilt, if_neg hcond]
    rfl
  exact ⟨_, congrArg Host.Outcome.next ((State.fab_serves hs _).trans hwrite), rfl, s.reg_setReg_self _ _,
    fun a ha => s.reg_setReg_ne ha _, Vector.getElem_set_self p.isLt,
    fun q hq => Vector.getElem_set_ne p.isLt q.isLt fun h => hq (Fin.ext h.symm)⟩

theorem tlmCtlWrite_stores (hs : s.serves = true) (who : Who) (v : Word) (hl : s.lockCfg = false) :
    ∃ t, exec (.tlmCtlWrite who v) s = .next t ∧ s.RegsBecome [aTlmCtl] t ∧ t.reg aTlmCtl = v &&& 0xC0FFFFFF :=
  ⟨_, congrArg Host.Outcome.next ((State.fab_serves hs _).trans
    (congrArg Prod.fst (if_neg (by rw [hl]; exact Bool.false_ne_true)))), s.setReg_regsBecome _ _, s.reg_setReg_self _ _⟩

theorem tlmWrites_refused (hs : s.serves = true) (who : Who) (p : Point) (v : Word) (hl : s.lockCfg = true) :
    (∃ t, exec (.tlmFiltWrite who p v) s = .next t ∧ s.RegsBecome [aTlmStat] t ∧ t.reg aTlmStat = s.reg aTlmStat ||| 1)
    ∧ ∃ t, exec (.tlmCtlWrite who v) s = .next t ∧ s.RegsBecome [aTlmStat] t ∧ t.reg aTlmStat = s.reg aTlmStat ||| 1 := by
  have hfilt : (s.tlmFilt p v).1 = s.orReg aTlmStat (bitw 0) := congrArg Prod.fst (if_pos (by rw [hl]; rfl))
  have hctl : (s.tlmCtl v).1 = s.orReg aTlmStat (bitw 0) := congrArg Prod.fst (if_pos hl)
  exact ⟨⟨_, congrArg Host.Outcome.next ((State.fab_serves hs _).trans hfilt), s.orReg_regsBecome _ _, s.reg_orReg_self _ _⟩,
    ⟨_, congrArg Host.Outcome.next ((State.fab_serves hs _).trans hctl), s.orReg_regsBecome _ _, s.reg_orReg_self _ _⟩⟩

end

/-- Settles O28: the scan and its conversions, the raw capture, and the commands of the block, each by what it changes. -/
theorem telemetryCommands : Obligations.TelemetryCommands := by
  unfold Obligations.TelemetryCommands
  exact ⟨⟨fun s ha _ hgrid hdue hin h31 h30 => scanFrame_starts ha hgrid hdue hin h31 h30,
      fun s _ _ hgrid hdue hin hdoze hboot hen hpend hgood => scanFrame_due hgrid hdue hin hdoze hboot hen hpend hgood,
      fun s b c hb hle hlt hc => burstStart_starts hb hle hlt hc,
      fun s p code hscan hst hin hw h112 h114 h115 hpack =>
        adcConversion_feeds code hscan hst hin hw h112 h114 h115 hpack,
      fun s half f lost hdue hf hen hp hst => rawFrameWrite_writes hdue hf hen hp hst lost⟩,
    fun s who hs => ⟨freeze_pends hs who, freeze_missed hs who, freezeComplete_freezes, unfreeze_clears hs who,
      fun hp => congrArg Host.Outcome.next ((State.fab_serves hs _).trans (if_pos hp)),
      fun p hp => ⟨clrmm_restores hs who hp, clrpk_restores hs who hp⟩, fun p hp => clrmm_refused hs who hp,
      clrmm_all hs who, fun p v => ⟨fun hl => ⟨tlmFiltWrite_restarts hs who p hl, tlmCtlWrite_stores hs who v hl⟩,
        tlmWrites_refused hs who p v⟩⟩⟩

end Sys2Proof.Machine
end

section
/-! SUPPORT. A raise while no loop-health measurement runs leaves the engine: it has none to abort (R159). -/

namespace Sys2Proof.Machine
open Sys2Proof

/-- The loop-health engine, its status and results, and the channels are as they were. -/
def State.LhSame (s t : State) : Prop :=
  t.lh = s.lh ∧ t.chans = s.chans ∧ ∀ a, aLhStat ≤ a → a < aLhCmd → t.reg a = s.reg a

namespace State.LhSame

theorem refl (s : State) : s.LhSame s := ⟨rfl, rfl, fun _ _ _ => rfl⟩

theorem trans {s t u : State} (h : s.LhSame t) (k : t.LhSame u) : s.LhSame u :=
  ⟨k.1.trans h.1, k.2.1.trans h.2.1, fun a ha hb => (k.2.2 a ha hb).trans (h.2.2 a ha hb)⟩

theorem ofParts {s t : State} (hl : t.lh = s.lh) (hc : t.chans = s.chans) (hr : t.regs = s.regs) : s.LhSame t :=
  ⟨hl, hc, fun a _ _ => State.reg_congr hr a⟩

theorem setReg (s : State) {a : Nat} (ha : a < aLhStat ∨ aLhCmd ≤ a) (v : Word) : s.LhSame (s.setReg a v) :=
  ⟨rfl, rfl, fun b hb hc => s.reg_setReg_ne (by omega) v⟩

theorem foldl {α : Type} {f : State → α → State} (hf : ∀ s x, State.LhSame s (f s x)) (l : List α) (s : State) :
    s.LhSame (l.foldl f s) :=
  List.foldlRecOn (motive := fun t => s.LhSame t) l f (refl s) fun t ht x _ => ht.trans (hf t x)

theorem busy {s t : State} (h : s.LhSame t) : t.lhBusy = s.lhBusy :=
  State.bit_congr (h.2.2 aLhStat (Nat.le_refl _) (by decide)) 31

end State.LhSame

section
variable (s : State)

theorem State.countRaise_lhSame (n : Nat) : s.LhSame (s.countRaise n) :=
  State.LhSame.setReg s (Or.inr (by simp only [aLhCmd, aTlm, aCnt, aFlt]; omega)) _

theorem State.logRaise_lhSame (j : Judged) : s.LhSame (s.logRaise j) := by
  have hpend : s.LhSame (s.orReg (aPend (j.x.src / 32)) (bitw (j.x.src % 32))) :=
    State.LhSame.setReg s (Or.inr (by simp only [aLhCmd, aTlm, aPend, aFlt]; omega)) _
  have hstat : ∀ t : State, t.LhSame (t.orReg aFltStat (bitw 2)) := fun t => State.LhSame.setReg t (by decide) _
  unfold State.logRaise
  dsimp only
  split
  · refine hpend.trans ?_
    split
    · exact hstat _
    · exact .ofParts rfl rfl rfl
  · exact hpend

theorem State.mergeOne_lhSame (j : Judged) : s.LhSame (s.mergeOne j) := by
  have hfirst : s.LhSame (s.orReg aFltFirst (bitw 1)) := State.LhSame.setReg s (by decide) _
  have hmerge : ∀ (t : State) (hi lo v : Nat), t.LhSame (t.setFld aFltMerge hi lo v) := fun t _ _ _ =>
    State.LhSame.setReg t (by decide) _
  unfold State.mergeOne
  dsimp only
  split
  · exact (hfirst.trans (hmerge _ _ _ _)).trans (hmerge _ _ _ _)
  · exact hfirst.trans (hmerge _ _ _ _)

theorem State.requestStore_lhSame (kind : StoreKind) (pages : List (Nat × Bool)) : s.LhSame (s.requestStore kind pages) := by
  refine .ofParts ?_ ?_ (s.requestStore_regs kind pages)
  · unfold State.requestStore
    split
    · rfl
    · split
      · rfl
      · split <;> rfl
  · unfold State.requestStore
    split
    · rfl
    · split
      · rfl
      · split <;> rfl

theorem State.critStore_lhSame (state0 : Nat) (js : List Judged) : s.LhSame (s.critStore state0 js) := by
  unfold State.critStore
  split
  · split
    · exact s.requestStore_lhSame _ _
    · exact .ofParts rfl rfl rfl
  · exact .refl s

theorem State.restAbort_lhSame : s.LhSame s.restAbort := by
  unfold State.restAbort
  split
  · have hend := State.endPause_reserve { s with reserve := { s.reserve with
      rest := false, restAt := none, restAbortAt := some s.cycle } }
    have h : s.LhSame (State.endPause { s with reserve := { s.reserve with
        rest := false, restAt := none, restAbortAt := some s.cycle } }) :=
      .ofParts (by rw [hend]) (by rw [hend]) (by rw [hend])
    exact h.trans (State.LhSame.setReg _ (by decide) _)
  · exact .refl s

theorem State.freezeTrigger_lhSame : s.LhSame s.freezeTrigger := by
  have hraw : ∀ (t : State) (v : Word), t.LhSame (t.setReg aRawStat v) := fun t v => State.LhSame.setReg t (by decide) v
  have hlo : ∀ (t : State) (v : Word), t.LhSame (t.setReg aFrzTL v) := fun t v => State.LhSame.setReg t (by decide) v
  have hhi : ∀ (t : State) (v : Word), t.LhSame (t.setReg aFrzTH v) := fun t v => State.LhSame.setReg t (by decide) v
  have hscan : ∀ (t : State) (c : Scan), t.LhSame { t with scan := c } := fun t c => .ofParts rfl rfl rfl
  unfold State.freezeTrigger
  split
  · exact hraw s _
  · extract_lets c s2 s3 s4 n s6
    have h6 : s.LhSame s6 := ((((hraw s _).trans (hraw _ _)).trans (hlo _ _)).trans (hhi _ _)).trans (hscan _ _)
    split
    · exact h6.trans (hraw _ _)
    · exact h6

theorem State.newReport_lhSame : s.LhSame s.newReport := by
  have hember : s.LhSame (s.setBit aFltEmber 31 false) := State.LhSame.setReg s (by decide) _
  have hlog : ∀ t : State, t.LhSame (t.setBit aLogIdx 15 false) := fun t => State.LhSame.setReg t (by decide) _
  exact (hember.trans (hlog _)).trans (.ofParts rfl rfl rfl)

/-- An engine at rest has no measurement to abort. -/
theorem State.lhAbort_idle {s : State} (h : s.lhBusy = false) : s.lhAbort = s := by
  rw [State.lhAbort, h, if_neg Bool.false_ne_true]

theorem State.latch_lhSame {s : State} (hb : s.lhBusy = false) (j : Judged) (others injAct : Bool) :
    s.LhSame (s.latch j others injAct) := by
  have hreg : ∀ (t : State) (a : Nat) (v : Word), aLhCmd ≤ a → t.LhSame (t.setReg a v) := fun t a v ha =>
    State.LhSame.setReg t (Or.inr ha) v
  have hfreeze : ∀ t : State, t.LhSame (if t.bit aRawCtl 30 then t.freezeTrigger else t) := fun t => by
    split
    · exact t.freezeTrigger_lhSame
    · exact .refl t
  unfold State.latch
  extract_lets w s2 s3 s4 s5 num l r s9
  have h3 : s.LhSame s3.newReport := ((((hreg _ aFltFirst _ (by decide)).trans (hreg _ aFltStat _ (by decide))).trans
    (hreg _ aFltFirstTL _ (by decide))).trans (hreg _ aFltFirstTH _ (by decide))).trans (State.newReport_lhSame _)
  have habort : s3.newReport.lhAbort = s3.newReport := State.lhAbort_idle (h3.busy.trans hb)
  have h5 : s.LhSame s5 := by
    have h4 : s.LhSame s4 := by
      show s.LhSame s3.newReport.lhAbort.restAbort
      rw [habort]
      exact h3.trans (State.restAbort_lhSame _)
    exact h4.trans (hfreeze _)
  have h9 : s.LhSame s9 := h5.trans (.ofParts rfl rfl rfl)
  split
  · exact h9.trans (.ofParts rfl rfl rfl)
  · exact h9

theorem State.mergeRest_lhSame (state0 : Nat) (rest : List Judged) : s.LhSame (s.mergeRest state0 rest) := by
  have h := State.LhSame.foldl State.mergeOne_lhSame rest s
  unfold State.mergeRest
  dsimp only
  split
  · exact h
  · exact h.trans (.ofParts rfl rfl rfl)

theorem State.takeSnap_lhSame (first : Option Judged) : s.LhSame (s.takeSnap first) := by
  unfold State.takeSnap
  split
  · exact .ofParts rfl rfl rfl
  · exact .refl s

theorem State.wakeRaise_lhSame (js : List Judged) : s.LhSame (s.wakeRaise js) := by
  unfold State.wakeRaise State.startWake
  split
  · exact .refl s
  · split
    · exact .ofParts rfl rfl rfl
    · exact .refl s

/-- A raise while no measurement runs leaves the loop-health engine and the channels. -/
theorem State.raiseAll_lhSame {s : State} (hb : s.lhBusy = false) (l : List Raise) (inj : Bool) :
    s.LhSame (s.raiseAll l inj) := by
  unfold State.raiseAll
  split
  · exact .refl s
  · unfold State.collect
    extract_lets cands js s3 s4 s5
    have h4 : s.LhSame s4 := (State.LhSame.foldl (fun t (j : Judged) => t.countRaise_lhSame j.x.src) js s).trans
      (State.LhSame.foldl State.logRaise_lhSame _ _)
    have hqueue : s.LhSame (s4.queueReacts js) := h4.trans (.ofParts rfl rfl rfl)
    have hlatch : ∀ (first : Option Judged) (several : Bool),
        s.LhSame ((s4.queueReacts js).latchFirst first several inj) := fun first several => by
      unfold State.latchFirst
      split
      · exact hqueue.trans (State.latch_lhSame (hqueue.busy.trans hb) _ _ _)
      · exact hqueue
    exact ((((hlatch _ _).trans (State.critStore_lhSame _ _ _)).trans (State.mergeRest_lhSame _ _ _)).trans
      (State.takeSnap_lhSame _ _)).trans (State.wakeRaise_lhSame _ _)

theorem State.raise1_lhSame {s : State} (hb : s.lhBusy = false) (n : Nat) : s.LhSame (s.raise1 n) :=
  State.raiseAll_lhSame hb _ _

end

end Sys2Proof.Machine
end

section
/-! O29: a loop-health measurement step by step, and REBASE (R151 to R164). -/

namespace Sys2Proof.Machine
open Sys2Proof

/-! The engine's operations -/

section
variable (s : State)

theorem State.lhFrame_scan (starts : Bool) : ∃ m, s.lhFrame starts
      = { s with scan := { s.scan with cur := { s.scan.cur with lh := m } } }
    ∧ (s.scan.inFrame = false → s.lhFrame starts = s) := by
  unfold State.lhFrame
  split
  · exact ⟨s.scan.cur.lh, rfl, fun _ => rfl⟩
  · next hin =>
    have hin' : s.scan.inFrame = true := by simpa using hin
    split
    · exact ⟨s.scan.cur.lh, rfl, fun _ => rfl⟩
    · exact ⟨_, rfl, fun h => absurd (h.symm.trans hin') Bool.false_ne_true⟩

/-- What the end of a measurement leaves in the engine. -/
def State.lhRested (s : State) : LoopHealth :=
  { s.lh with
    next := s.lhRail.val + 1, toggleAt := none, runs := []
    gapAt := s.timer (s.fld aLhCtl 15 0 * 100000000) }

theorem State.lhFinish_ends : ∃ c, s.lhFinish = { (s.setCh s.lhRail { s.ch s.lhRail with perturb := 0 }).setBit aLhStat 31 false with
    scan := c, lh := s.lhRested } := by
  obtain ⟨u, hu⟩ : ∃ u, u = (s.setCh s.lhRail { s.ch s.lhRail with perturb := 0 }).setBit aLhStat 31 false := ⟨_, rfl⟩
  obtain ⟨m, hm, -⟩ := u.lhFrame_scan false
  have hgap : u.fld aLhCtl 15 0 = s.fld aLhCtl 15 0 := hu ▸ State.fld_setBit_addr _ _ (by decide) _ _ _ _
  have hfin : s.lhFinish = State.pumpTlm { u.lhFrame false with lh := { (u.lhFrame false).lh with
      next := s.lhRail.val + 1, toggleAt := none, runs := []
      gapAt := (u.lhFrame false).timer ((u.lhFrame false).fld aLhCtl 15 0 * 100000000) } } := by
    subst hu
    rfl
  have hlh : s.lhRested = { u.lh with
      next := s.lhRail.val + 1, toggleAt := none, runs := [], gapAt := u.timer (u.fld aLhCtl 15 0 * 100000000) } := by
    rw [hgap, hu]
    rfl
  rw [hfin, State.pumpTlm_scan, hm, ← hu, hlh]
  exact ⟨_, rfl⟩

/-- What the end of a measurement shows. -/
theorem State.lhFinish_shows : s.lhFinish.lhBusy = false ∧ s.lhFinish.lh.next = s.lhRail.val + 1
    ∧ s.lhFinish.ch s.lhRail = { s.ch s.lhRail with perturb := 0 } ∧ (∀ q, q ≠ s.lhRail → s.lhFinish.ch q = s.ch q)
    ∧ ∀ a, a ≠ aLhStat → s.lhFinish.reg a = s.reg a := by
  obtain ⟨c, hc⟩ := s.lhFinish_ends
  rw [hc]
  exact ⟨State.bit_setBit_self _ _ (by decide) _, rfl, s.ch_setCh_self _ _, fun q hq => s.ch_setCh_ne hq _,
    fun a ha => State.reg_setBit_ne _ ha _ _⟩

/-- What the record of a measurement changes: the SRAM, the store, and flags that name neither BUSY nor the rail. -/
structure State.LhTold (t : State) : Prop where
  st : t = { s with regs := t.regs, sram := t.sram, keeper := t.keeper }
  regs : ∀ a, a ≠ aLhStat → a ≠ aKpsStat → t.reg a = s.reg a
  rail : t.lhRail = s.lhRail

end

namespace State.LhTold

theorem trans {s t u : State} (h : s.LhTold t) (k : t.LhTold u) : s.LhTold u where
  st := by
    obtain ⟨r, m, p, ht⟩ : ∃ r m p, t = { s with regs := r, sram := m, keeper := p } := ⟨_, _, _, h.st⟩
    conv_lhs => rw [k.st]
    rw [ht]
  regs a ha hb := (k.regs a ha hb).trans (h.regs a ha hb)
  rail := k.rail.trans h.rail

theorem count (s : State) (n : Fin 32) : s.LhTold (s.count n) where
  st := by
    conv_lhs => rw [s.count_frame n]
    have hsram : (s.count n).sram = s.sram := by rw [s.count_frame n]
    rw [hsram]
  regs a _ hb := s.count_reg_ne n hb
  rail := by
    have hfld : (s.count n).fld aLhStat 30 25 = s.fld aLhStat 30 25 :=
      congrArg (wfld · _ _) (s.count_reg_ne n (by decide))
    simp only [State.lhRail, hfld]

theorem lhPoke (s : State) (a : Nat) (l : List Byte) : s.LhTold (s.lhPoke a l) := by
  have hsame : s.LhTold s := ⟨rfl, fun _ _ _ => rfl, rfl⟩
  unfold State.lhPoke
  split
  · refine ⟨rfl, fun b hb _ => s.reg_setBit_ne hb _ _, ?_⟩
    have hfld : (s.setBit aLhStat 2 true).fld aLhStat 30 25 = s.fld aLhStat 30 25 :=
      s.fld_setBit_ne aLhStat (by decide) (by decide) true
    simp only [State.lhRail, hfld]
  · split
    · exact hsame
    · rw [s.poke_frame l]
      exact ⟨rfl, fun _ _ _ => rfl, rfl⟩

theorem lhHistory (s : State) (r : Nat) (time : BitVec 64) (fc pm status cest : Nat) (base : Bool) :
    s.LhTold (s.lhHistory r time fc pm status cest base) := by
  unfold State.lhHistory
  dsimp only
  have hentry := (count s 7).trans (lhPoke (s.count 7) (0x25000 + 192 * r + 16 + 16 * s.lhSlot r)
    (lhEntry time fc pm status cest))
  split
  · exact hentry.trans (lhPoke _ _ _)
  · exact hentry

end State.LhTold

/-- The results of a measurement, as registers. -/
theorem State.lhReport_shows (s : State) (r : Rail) {fc pm status cest : Nat} (hfc : fc < 65536) (hpm : pm < 256)
    (hstatus : status < 256) : (s.lhReport r fc pm status cest).fld (aLhRes 0) 5 0 = r.val
      ∧ (s.lhReport r fc pm status cest).fld (aLhRes 0) 31 16 = fc
      ∧ (s.lhReport r fc pm status cest).fld (aLhRes 0) 15 8 = pm
      ∧ (s.lhReport r fc pm status cest).fld (aLhRes 1) 7 0 = status
      ∧ ∀ a, a ≠ aLhRes 0 → a ≠ aLhRes 1 → (s.lhReport r fc pm status cest).reg a = s.reg a := by
  have h0 : (s.lhReport r fc pm status cest).reg (aLhRes 0) = put (put (put 0 31 16 fc) 15 8 pm) 5 0 r.val :=
    (State.reg_setReg_ne _ (by decide) _).trans (s.reg_setReg_self _ _)
  have h1 : (s.lhReport r fc pm status cest).reg (aLhRes 1) = put (put 0 31 16 cest) 7 0 status :=
    State.reg_setReg_self _ _ _
  have hr := r.isLt
  refine ⟨?_, ?_, ?_, ?_, fun a ha hb => (State.reg_setReg_ne _ hb _).trans (s.reg_setReg_ne ha _)⟩
  · rw [State.fld, h0, wfld_put_self _ _ (by decide) (by decide)]
    exact Nat.mod_eq_of_lt (by omega)
  · rw [State.fld, h0, wfld_put_ne _ _ (by decide) (by decide), wfld_put_ne _ _ (by decide) (by decide),
      wfld_put_self _ _ (by decide) (by decide)]
    exact Nat.mod_eq_of_lt (by omega)
  · rw [State.fld, h0, wfld_put_ne _ _ (by decide) (by decide), wfld_put_self _ _ (by decide) (by decide)]
    exact Nat.mod_eq_of_lt (by omega)
  · rw [State.fld, h1, wfld_put_self _ _ (by decide) (by decide)]
    exact Nat.mod_eq_of_lt (by omega)

/-! Fields of a result -/

theorem lhField_lt (k seed : Nat) (v : Int) : lhField k seed v < 2 ^ k := by
  unfold lhField
  split
  · next h => exact (Int.toNat_lt h.1).2 (by exact_mod_cast h.2)
  · exact Nat.mod_lt _ (Nat.two_pow_pos k)

theorem lhField_fits {k : Nat} (seed : Nat) {v : Int} (h0 : 0 ≤ v) (h1 : v < 2 ^ k) : lhField k seed v = v.toNat := if_pos ⟨h0, h1⟩

/-- A value between two whole numbers is rounded to a whole number between them, or to the next. -/
theorem ratOpen_bounds {x : Rat} {n : Nat} (h0 : 0 ≤ x) (hn : x ≤ n) : 0 ≤ ratOpen x ∧ ratOpen x ≤ n + 1 := by
  have hfloor : x.num / (x.den : Int) = ⌊x⌋ := (Rat.floor_def' (q := x)).symm
  have hlow : 0 ≤ ⌊x⌋ := Int.floor_nonneg.2 h0
  have hhigh : ⌊x⌋ ≤ (n : Int) := by
    have h := Int.floor_le_floor hn
    rwa [Int.floor_natCast] at h
  unfold ratOpen roundOpen
  rw [hfloor]
  split
  · omega
  · split <;> omega

/-! The start and the calibration -/

section
variable {s : State}

theorem State.lhRail_eq {s : State} {r : Rail} (h : s.fld aLhStat 30 25 = r.val) : s.lhRail = r := by
  refine Fin.ext ?_
  show s.fld aLhStat 30 25 % 64 = r.val
  omega

/-- The state in which a measurement of a rail begins. -/
def State.lhBegun (s : State) (r : Rail) : State :=
  { ((s.setBit aLhStat 31 true).setFld aLhStat 30 25 r.val).setFld aLhStat 24 23 1 with
    lh := { s.lh with gapAt := none, rounds := 0, calDone := !isExt r, code := if isExt r then 64 else 2 } }

theorem State.lhBegun_shows (s : State) (r : Rail) : (s.lhBegun r).lhBusy = true ∧ (s.lhBegun r).lhRail = r
    ∧ (s.lhBegun r).fld aLhStat 24 23 = 1 ∧ (∀ a, a ≠ aLhStat → (s.lhBegun r).reg a = s.reg a) := by
  have hreg : (s.lhBegun r).regs = (((s.setBit aLhStat 31 true).setFld aLhStat 30 25 r.val).setFld aLhStat 24 23 1).regs := rfl
  generalize s.lhBegun r = u at hreg
  refine ⟨?_, State.lhRail_eq ?_, ?_, fun a ha => (State.reg_congr hreg a).trans ((State.reg_setFld_ne _ ha _ _ _).trans
    ((State.reg_setFld_ne _ ha _ _ _).trans (s.reg_setBit_ne ha _ _)))⟩
  · refine (State.bit_congr (State.reg_congr hreg _) 31).trans ?_
    exact (State.bit_setFld_ne _ aLhStat _ (by decide) (by decide)).trans
      ((State.bit_setFld_ne _ aLhStat _ (by decide) (by decide)).trans (s.bit_setBit_self _ (by decide) _))
  · refine (congrArg (wfld · 30 25) (State.reg_congr hreg _)).trans ?_
    exact (State.fld_setFld_ne _ aLhStat (hi := 24) (lo := 23) _ (by decide) (by decide)).trans
      ((State.fld_setFld_self _ aLhStat (hi := 30) (lo := 25) _ (by decide) (by decide)).trans (Nat.mod_eq_of_lt r.isLt))
  · refine (congrArg (wfld · 24 23) (State.reg_congr hreg _)).trans ?_
    exact (State.fld_setFld_self _ aLhStat (hi := 24) (lo := 23) _ (by decide) (by decide)).trans
      (Nat.mod_eq_of_lt (by decide))

theorem lhStart_begins {r : Rail} (hen : s.bit aLhCtl 31 = true) (hidle : s.lhBusy = false) (ha : s.awake = true)
    (hnext : s.lhNext = some r.val) (hon : (s.ch r).st = .on) (hpath : s.pmbPath r = false) (huse : s.use r = true) :
    ∃ t, exec .lhStart s = .next t
      ∧ t = { s with
        regs := t.regs, lh := t.lh, chans := t.chans
        scan := { s.scan with cur := { s.scan.cur with lh := t.scan.cur.lh } } }
      ∧ (s.scan.inFrame = false → t.scan = s.scan)
      ∧ t.lhBusy = true ∧ t.lhRail = r ∧ t.fld aLhStat 24 23 = 1 ∧ (∀ a, a ≠ aLhStat → t.reg a = s.reg a)
      ∧ t.lh.code = (if isExt r then 64 else 2) ∧ t.lh.calDone = !isExt r
      ∧ t.ch r = (if isExt r then { s.ch r with perturb := 64 } else s.ch r) ∧ ∀ q, q ≠ r → t.ch q = s.ch q := by
  have hcond : (!s.bit aLhCtl 31 || s.lhBusy || !s.awake) = false := by
    rw [hen, hidle, ha]
    rfl
  have hskip : ((s.ch r).st != .on || s.pmbPath r || !s.use r) = false := by
    rw [hon, hpath, huse]
    rfl
  have hexec : exec .lhStart s = .next (if isExt r then ((s.lhBegun r).lhFrame true).setCh r
      { ((s.lhBegun r).lhFrame true).ch r with perturb := if isExt r then 64 else 2 } else (s.lhBegun r).lhFrame true) := by
    show execLhStart s = _
    simp only [execLhStart, hcond, hnext, Fin.ofNat_val_eq_self, hskip, Bool.false_eq_true, if_false]
    rfl
  obtain ⟨hbusy, hrail, hphase, hregs⟩ := s.lhBegun_shows r
  have hst : s.lhBegun r = { s with regs := (s.lhBegun r).regs, lh := (s.lhBegun r).lh } := rfl
  have hcode : (s.lhBegun r).lh.code = (if isExt r then 64 else 2) ∧ (s.lhBegun r).lh.calDone = !isExt r := ⟨rfl, rfl⟩
  generalize s.lhBegun r = u at hexec hbusy hrail hphase hregs hst hcode
  obtain ⟨m, hm, hnone⟩ := u.lhFrame_scan true
  have hscan : u.scan = s.scan := by rw [hst]
  have hch : ∀ q, u.ch q = s.ch q := fun q => by
    rw [hst]
    rfl
  have hframe : s.scan.inFrame = false → (u.lhFrame true).scan = s.scan := fun h => by
    rw [hnone (by rw [hscan]; exact h), hscan]
  rw [hm] at hexec hframe
  have hust : ∀ c : Vector Chan 64, ({ u with scan := { u.scan with cur := { u.scan.cur with lh := m } }, chans := c } : State)
      = { s with
        regs := u.regs, lh := u.lh, chans := c
        scan := { s.scan with cur := { s.scan.cur with lh := m } } } := fun c => by
    rw [hst]
  by_cases he : isExt r = true
  · rw [if_pos he, if_pos he] at hexec
    refine ⟨_, hexec, ?_, hframe, hbusy, hrail, hphase, hregs, hcode.1, hcode.2, ?_, fun q hq => ?_⟩
    · exact hust _
    · rw [if_pos he]
      refine (State.ch_setCh_self _ r _).trans ?_
      exact congrArg (fun c : Chan => { c with perturb := 64 }) (hch r)
    · exact (State.ch_setCh_ne _ hq _).trans (hch q)
  · rw [if_neg he] at hexec
    refine ⟨_, hexec, ?_, hframe, hbusy, hrail, hphase, hregs, hcode.1, hcode.2, ?_, fun q _ => hch q⟩
    · have hchans : u.chans = s.chans := by rw [hst]
      exact hchans ▸ hust u.chans
    · rw [if_neg he]
      exact hch r

end

end Sys2Proof.Machine
end

section
/-! O29, the rest of a measurement and REBASE (R153 to R164). -/

namespace Sys2Proof.Machine
open Sys2Proof

section
variable {s : State}

omit s in
theorem State.lhRail_congr {s t : State} (h : t.reg aLhStat = s.reg aLhStat) : t.lhRail = s.lhRail :=
  Fin.ext (congrArg (fun w => wfld w 30 25 % 64) h)

/-! The calibration -/

theorem lhCalRound_done (hb : s.lhBusy = true) (hphase : s.fld aLhStat 24 23 = 1) (hext : isExt s.lhRail = true)
    (hcal : s.lh.calDone = false) {uv : Int} (hlow : 3 * (s.vset s.lhRail : Int) ≤ 2 * uv)
    (hhigh : 2 * uv ≤ 5 * (s.vset s.lhRail : Int)) : ∃ t, exec (.lhCalRound uv) s = .next t
      ∧ t = { s with lh := { s.lh with rounds := s.lh.rounds + 1, calDone := true } } := by
  have hcond : (!s.lhBusy || decide (s.fld aLhStat 24 23 ≠ 1) || !isExt s.lhRail || s.lh.calDone) = false := by
    rw [hb, hphase, hext, hcal]
    rfl
  refine ⟨_, congrArg Host.Outcome.next ((if_neg (by rw [hcond]; exact Bool.false_ne_true)).trans (if_pos ⟨hlow, hhigh⟩)), rfl⟩

/-- The state in which a calibration that has failed is recorded. -/
def State.calFailing (s : State) : State :=
  let f (k i : Nat) : Nat := Config.lhFree (s.free + i) % 2 ^ k
  State.lhReport { s with lh := { s.lh with rounds := s.lh.rounds + 1 } } s.lhRail (f 16 0) (f 8 1) 0x80 (f 16 2)

theorem lhCalRound_fails (hb : s.lhBusy = true) (hphase : s.fld aLhStat 24 23 = 1) (hext : isExt s.lhRail = true)
    (hcal : s.lh.calDone = false) {uv : Int}
    (hout : 2 * uv < 3 * (s.vset s.lhRail : Int) ∨ 5 * (s.vset s.lhRail : Int) < 2 * uv) (hlast : 3 ≤ s.lh.rounds) :
    ∃ t, exec (.lhCalRound uv) s = .next t ∧ t.lhBusy = false ∧ t.fld (aLhRes 1) 7 0 = 0x80
      ∧ t.ch s.lhRail = { s.ch s.lhRail with perturb := 0 } ∧ ∀ q, q ≠ s.lhRail → t.ch q = s.ch q := by
  have hcond : (!s.lhBusy || decide (s.fld aLhStat 24 23 ≠ 1) || !isExt s.lhRail || s.lh.calDone) = false := by
    rw [hb, hphase, hext, hcal]
    rfl
  have hrange : ¬ (3 * (s.vset s.lhRail : Int) ≤ 2 * uv ∧ 2 * uv ≤ 5 * (s.vset s.lhRail : Int)) := by omega
  have hfourth : 4 ≤ s.lh.rounds + 1 := by omega
  obtain ⟨v, hv⟩ : ∃ v : State, v = { s.calFailing.lhHistory s.lhRail s.calFailing.now (s.calFailing.fld (aLhRes 0) 31 16)
      (s.calFailing.fld (aLhRes 0) 15 8) 0x80 (s.calFailing.fld (aLhRes 1) 31 16) false with
      free := (s.calFailing.lhHistory s.lhRail s.calFailing.now (s.calFailing.fld (aLhRes 0) 31 16)
      (s.calFailing.fld (aLhRes 0) 15 8) 0x80 (s.calFailing.fld (aLhRes 1) 31 16) false).free + 3 } := ⟨_, rfl⟩
  have hexec : exec (.lhCalRound uv) s = .next v.lhFinish := by
    rw [hv]
    exact congrArg Host.Outcome.next ((if_neg (by rw [hcond]; exact Bool.false_ne_true)).trans ((if_neg hrange).trans
      (if_pos hfourth)))
  obtain ⟨-, -, -, hstatus, hkept⟩ := State.lhReport_shows { s with lh := { s.lh with rounds := s.lh.rounds + 1 } } s.lhRail
    (fc := Config.lhFree (s.free + 0) % 2 ^ 16) (pm := Config.lhFree (s.free + 1) % 2 ^ 8) (status := 0x80)
    (cest := Config.lhFree (s.free + 2) % 2 ^ 16) (Nat.mod_lt _ (by decide)) (Nat.mod_lt _ (by decide)) (by decide)
  have htold := State.LhTold.lhHistory s.calFailing s.lhRail s.calFailing.now (s.calFailing.fld (aLhRes 0) 31 16)
    (s.calFailing.fld (aLhRes 0) 15 8) 0x80 (s.calFailing.fld (aLhRes 1) 31 16) false
  have hvrail : v.lhRail = s.lhRail := by
    have hfail : s.calFailing.lhRail = s.lhRail := State.lhRail_congr (hkept aLhStat (by decide) (by decide))
    have hv' : v.lhRail = (s.calFailing.lhHistory s.lhRail s.calFailing.now (s.calFailing.fld (aLhRes 0) 31 16)
      (s.calFailing.fld (aLhRes 0) 15 8) 0x80 (s.calFailing.fld (aLhRes 1) 31 16) false).lhRail := by
      rw [hv]
      rfl
    exact hv'.trans (htold.rail.trans hfail)
  have hvch : ∀ q, v.ch q = s.ch q := fun q => by
    rw [hv, htold.st]
    rfl
  obtain ⟨hbusy, -, hrail, hother, hregs⟩ := v.lhFinish_shows
  rw [hvrail] at hrail hother
  refine ⟨_, hexec, hbusy, ?_, hrail.trans (by rw [hvch]), fun q hq => (hother q hq).trans (hvch q)⟩
  have hres : v.reg (aLhRes 1) = s.calFailing.reg (aLhRes 1) := by
    have hv' : v.reg (aLhRes 1) = (s.calFailing.lhHistory s.lhRail s.calFailing.now (s.calFailing.fld (aLhRes 0) 31 16)
      (s.calFailing.fld (aLhRes 0) 15 8) 0x80 (s.calFailing.fld (aLhRes 1) 31 16) false).reg (aLhRes 1) := by
      rw [hv]
      rfl
    exact hv'.trans (htold.regs _ (by decide) (by decide))
  exact (congrArg (wfld · 7 0) ((hregs _ (by decide)).trans hres)).trans hstatus

/-! The excitation -/

/-- The rail under measurement does not depend on the phase. -/
theorem State.lhRail_phase (s : State) (v : Nat) : (s.setFld aLhStat 24 23 v).lhRail = s.lhRail := by
  have hfld : (s.setFld aLhStat 24 23 v).fld aLhStat 30 25 = s.fld aLhStat 30 25 :=
    s.fld_setFld_ne aLhStat v (by decide) (by decide)
  simp only [State.lhRail, hfld]

theorem State.lhPeriod_phase (s : State) (v : Nat) : (s.setFld aLhStat 24 23 v).lhPeriod = s.lhPeriod := by
  have hreg : (s.setFld aLhStat 24 23 v).reg aLhCtl = s.reg aLhCtl := s.reg_setFld_ne (by decide) _ _ _
  rw [State.lhPeriod, State.bit, State.fld, hreg]
  rfl

theorem lhExciteStart_excites (hb : s.lhBusy = true) (hphase : s.fld aLhStat 24 23 = 1) (hcal : s.lh.calDone = true) :
    ∃ t, exec .lhExciteStart s = .next t
      ∧ t = { s with
        regs := t.regs, chans := t.chans
        lh := { s.lh with prbs := 0x7F, toggleAt := some (s.cycle + s.lhPeriod), runs := [{ high := true }] } }
      ∧ t.fld aLhStat 24 23 = 2 ∧ (∀ a, a ≠ aLhStat → t.reg a = s.reg a)
      ∧ t.ch s.lhRail = { s.ch s.lhRail with perturb := s.lh.code } ∧ ∀ q, q ≠ s.lhRail → t.ch q = s.ch q := by
  have hcond : ¬ ((!s.lhBusy || decide (s.fld aLhStat 24 23 ≠ 1) || !s.lh.calDone) = true) := by
    rw [hb, hphase, hcal]
    decide
  obtain ⟨u, hu⟩ : ∃ u : State, u = { s.setFld aLhStat 24 23 2 with lh := { s.lh with
      prbs := 0x7F, toggleAt := some (s.cycle + s.lhPeriod), runs := [{ high := true }] } } := ⟨_, rfl⟩
  have hexec : exec .lhExciteStart s = .next (u.setCh s.lhRail { u.ch s.lhRail with perturb := s.lh.code }) := by
    refine congrArg Host.Outcome.next ((if_neg hcond).trans ?_)
    have hrail := s.lhRail_phase 2
    have hper := s.lhPeriod_phase 2
    rw [hu, ← hrail, ← hper]
    rfl
  have hch : ∀ q, u.ch q = s.ch q := fun q => by
    rw [hu]
    rfl
  have hreg : ∀ a, u.reg a = (s.setFld aLhStat 24 23 2).reg a := fun a => by
    rw [hu]
    rfl
  refine ⟨_, hexec, ?_, ?_, fun a ha => (hreg a).trans (s.reg_setFld_ne ha _ _ _), ?_,
    fun q hq => (State.ch_setCh_ne _ hq _).trans (hch q)⟩
  · rw [hu]
    rfl
  · exact (congrArg (wfld · 24 23) (hreg _)).trans (s.fld_setFld_self aLhStat (hi := 24) (lo := 23) _ (by decide) (by decide))
  · rw [State.ch_setCh_self, hch]

theorem lhPerturbToggle_toggles {k : Nat} {x : LhRun} {high : Bool} (hb : s.lhBusy = true)
    (hphase : s.fld aLhStat 24 23 = 2) (hat : s.lh.toggleAt = some k) (hk : k ≤ s.cycle)
    (hx : s.lh.runs.getLast? = some x)
    (hhigh : high = if s.bit aLhCtl 30 then (prbsNext s.lh.prbs).getLsbD 6 else !x.high) :
    ∃ t, exec .lhPerturbToggle s = .next t
      ∧ t = { s with
        chans := t.chans
        lh := { s.lh with
          prbs := if s.bit aLhCtl 30 then prbsNext s.lh.prbs else s.lh.prbs
          toggleAt := some (k + s.lhPeriod), runs := s.lh.runs ++ [{ high := high }] } }
      ∧ t.ch s.lhRail = { s.ch s.lhRail with perturb := if high then s.lh.code else 0 }
      ∧ ∀ q, q ≠ s.lhRail → t.ch q = s.ch q := by
  have hcond : ¬ ((!s.lhBusy || decide (s.fld aLhStat 24 23 ≠ 2) || decide (s.cycle < k)) = true) := by
    rw [hb, hphase]
    simpa using hk
  obtain ⟨u, hu⟩ : ∃ u : State, u = { s with lh := { s.lh with
      prbs := if s.bit aLhCtl 30 then prbsNext s.lh.prbs else s.lh.prbs
      toggleAt := some (k + s.lhPeriod), runs := s.lh.runs ++ [{ high := high }] } } := ⟨_, rfl⟩
  have hexec : exec .lhPerturbToggle s
      = .next (u.setCh s.lhRail { s.ch s.lhRail with perturb := if high then s.lh.code else 0 }) := by
    have hlast : s.lh.runs.getLast?.any (·.high) = x.high := by rw [hx]; rfl
    show execLhPerturbToggle s = _
    unfold execLhPerturbToggle
    rw [hat]
    refine congrArg Host.Outcome.next ((if_neg hcond).trans ?_)
    by_cases h30 : s.bit aLhCtl 30 = true
    · rw [if_pos h30] at hhigh
      rw [if_pos h30] at hu ⊢
      rw [hu, hhigh]
      rfl
    · rw [if_neg h30] at hhigh
      rw [if_neg h30] at hu ⊢
      rw [hu, hhigh, hlast]
      rfl
  refine ⟨_, hexec, ?_, State.ch_setCh_self _ _ _, fun q hq => (State.ch_setCh_ne _ hq _).trans ?_⟩
  · rw [hu]
    rfl
  · rw [hu]
    rfl

theorem lhCaptureEnd_ends (hb : s.lhBusy = true) (hphase : s.fld aLhStat 24 23 = 2) :
    ∃ t, exec .lhCaptureEnd s = .next t
      ∧ t = { s with
        regs := t.regs, lh := { s.lh with endTime := s.ring.time, toggleAt := none }, chans := t.chans }
      ∧ t.fld aLhStat 24 23 = 3 ∧ (∀ a, a ≠ aLhStat → t.reg a = s.reg a)
      ∧ t.ch s.lhRail = { s.ch s.lhRail with perturb := 0 } ∧ ∀ q, q ≠ s.lhRail → t.ch q = s.ch q := by
  have hcond : ¬ ((!s.lhBusy || decide (s.fld aLhStat 24 23 ≠ 2)) = true) := by
    rw [hb, hphase]
    decide
  refine ⟨_, congrArg Host.Outcome.next (if_neg (by simpa using hcond)), rfl, ?_, fun a ha => s.reg_setFld_ne ha _ _ _,
    State.ch_setCh_self _ _ _, fun q hq => State.ch_setCh_ne _ hq _⟩
  exact s.fld_setFld_self aLhStat (hi := 24) (lo := 23) _ (by decide) (by decide)

/-! The end of the fit -/

/-- What a measurement shows once it has been reported and recorded. -/
structure State.LhShown (r : Rail) (fc pm status : Nat) (t : State) : Prop where
  busy : t.lhBusy = false
  rail : t.fld (aLhRes 0) 5 0 = r.val
  fc : t.fld (aLhRes 0) 31 16 = fc
  pm : t.fld (aLhRes 0) 15 8 = pm
  status : t.fld (aLhRes 1) 7 0 = status
  perturb : (t.ch r).perturb = 0
  next : t.lh.next = r.val + 1

omit s in
/-- The engine as it is shows the same measurement. -/
theorem State.LhShown.same {t u : State} {r : Rail} {fc pm status : Nat} (h : t.LhShown r fc pm status) (k : t.LhSame u) :
    u.LhShown r fc pm status := by
  obtain ⟨hlh, hchans, hregs⟩ := k
  have h0 : u.reg (aLhRes 0) = t.reg (aLhRes 0) := hregs _ (by decide) (by decide)
  have h1 : u.reg (aLhRes 1) = t.reg (aLhRes 1) := hregs _ (by decide) (by decide)
  refine ⟨?_, (congrArg (wfld · 5 0) h0).trans h.rail, (congrArg (wfld · 31 16) h0).trans h.fc,
    (congrArg (wfld · 15 8) h0).trans h.pm, (congrArg (wfld · 7 0) h1).trans h.status, ?_, ?_⟩
  · exact (State.bit_congr (hregs aLhStat (by decide) (by decide)) 31).trans h.busy
  · have hch : u.ch r = t.ch r := congrArg (fun c : Vector Chan 64 => c.get r) hchans
    exact (congrArg Chan.perturb hch).trans h.perturb
  · rw [hlh]
    exact h.next

omit s in
theorem State.lhReported_shows (v : State) (time : BitVec 64) {fc pm status : Nat} (cest : Nat) (base : Bool)
    (hfc : fc < 65536) (hpm : pm < 256) (hstatus : status < 256) :
    State.LhShown v.lhRail fc pm status
      ((v.lhReport v.lhRail fc pm status cest).lhHistory v.lhRail time fc pm status cest base).lhFinish := by
  obtain ⟨h5, h31, h15, h7, hkept⟩ := v.lhReport_shows v.lhRail (cest := cest) hfc hpm hstatus
  have htold := State.LhTold.lhHistory (v.lhReport v.lhRail fc pm status cest) v.lhRail time fc pm status cest base
  have hrail : (v.lhReport v.lhRail fc pm status cest).lhRail = v.lhRail :=
    State.lhRail_congr (hkept aLhStat (by decide) (by decide))
  generalize v.lhReport v.lhRail fc pm status cest = x at h5 h31 h15 h7 htold hrail
  have hxrail := htold.rail.trans hrail
  have h0 := htold.regs (aLhRes 0) (by decide) (by decide)
  have h1 := htold.regs (aLhRes 1) (by decide) (by decide)
  generalize x.lhHistory v.lhRail time fc pm status cest base = y at hxrail h0 h1
  obtain ⟨hbusy, hnext, hch, -, hregs⟩ := y.lhFinish_shows
  rw [hxrail] at hnext hch
  have hr0 : y.lhFinish.reg (aLhRes 0) = x.reg (aLhRes 0) := (hregs _ (by decide)).trans h0
  have hr1 : y.lhFinish.reg (aLhRes 1) = x.reg (aLhRes 1) := (hregs _ (by decide)).trans h1
  exact ⟨hbusy, (congrArg (wfld · 5 0) hr0).trans h5, (congrArg (wfld · 31 16) hr0).trans h31,
    (congrArg (wfld · 15 8) hr0).trans h15, (congrArg (wfld · 7 0) hr1).trans h7, by rw [hch], hnext⟩

/-- The fit's crossover in 10 Hz and its phase margin in half degrees, as the fields that report them. -/
def State.fitFc (s : State) : Nat := lhField 16 s.free (ratOpen (s.lhFitted.1 / 10))
def State.fitPm (s : State) : Nat := lhField 8 (s.free + 1) (ratOpen (s.lhFitted.2.1 * 2))
/-- The fit lies within the range of R158. -/
def State.fitOk (s : State) : Bool :=
  1000 ≤ s.lhFitted.1 && s.lhFitted.1 ≤ 200000 && 20 ≤ s.lhFitted.2.1 && s.lhFitted.2.1 ≤ 80

/-- The end of a fit shows the rail's measurement, whichever way it is judged. -/
theorem lhComputeEnd_shows (hb : s.lhBusy = true) (hphase : s.fld aLhStat 24 23 = 3) :
    ∃ status t, exec .lhComputeEnd s = .next t ∧ State.LhShown s.lhRail s.fitFc s.fitPm status t
      ∧ (s.fitOk = false → status = 4 + if isExt s.lhRail then 2 else 0)
      ∧ (s.fitOk = true → lhValid (s.lhBytes s.lhRail 0) = false → status = 0x41 + if isExt s.lhRail then 2 else 0) := by
  have hcond : ¬ ((!s.lhBusy || decide (s.fld aLhStat 24 23 ≠ 3)) = true) := by
    rw [hb, hphase]
    decide
  have hnoc : ∀ n, n ≤ 0x80 → n + (if isExt s.lhRail then 2 else 0) < 256 := fun n hn => by split <;> omega
  obtain ⟨v, hv⟩ : ∃ v : State, v = { s with free := s.free + 3 } := ⟨_, rfl⟩
  obtain ⟨cest, hcest⟩ : ∃ cest, cest = lhField 16 (s.free + 2) (s.lhFitted.2.2.getD (-1)) := ⟨_, rfl⟩
  have hrail : v.lhRail = s.lhRail := by
    rw [hv]
    rfl
  have hfc : s.fitFc < 65536 := lhField_lt 16 _ _
  have hpm : s.fitPm < 256 := lhField_lt 8 _ _
  have hshown : ∀ (u : State), u.lhRail = s.lhRail → ∀ (status : Nat) (base : Bool), status < 256 →
      State.LhShown s.lhRail s.fitFc s.fitPm status
        ((u.lhReport s.lhRail s.fitFc s.fitPm status cest).lhHistory s.lhRail s.lh.endTime s.fitFc s.fitPm status cest
          base).lhFinish := fun u hu status base hst => hu ▸ u.lhReported_shows s.lh.endTime cest base hfc hpm hst
  by_cases hok : s.fitOk = true
  · have hok' : ¬ ((!s.fitOk) = true) := by simpa using hok
    by_cases hbase : lhValid (v.lhBytes s.lhRail 0) = true
    · have hbase' : ¬ ((!lhValid (v.lhBytes s.lhRail 0)) = true) := by simpa using hbase
      have hbytes : v.lhBytes s.lhRail 0 = s.lhBytes s.lhRail 0 := by
        rw [hv]
        rfl
      obtain ⟨bad, hbad⟩ : ∃ bad, bad = v.lhBeyond (v.lhBytes s.lhRail 0) s.fitFc s.fitPm cest := ⟨_, rfl⟩
      obtain ⟨degr, hdegr⟩ : ∃ degr, degr = (bad && v.lh.beyond[s.lhRail]) := ⟨_, rfl⟩
      obtain ⟨told, htold⟩ : ∃ told, told = v.bit (aLhDeg (s.lhRail / 32)) (s.lhRail % 32) := ⟨_, rfl⟩
      obtain ⟨u, hu⟩ : ∃ u : State, u = { v with lh := { v.lh with beyond := v.lh.beyond.set s.lhRail bad } } := ⟨_, rfl⟩
      obtain ⟨status, hstatus⟩ : ∃ n, n = 1 + (if isExt s.lhRail then 2 else 0) + if degr then 0x20 else 0 := ⟨_, rfl⟩
      obtain ⟨y, hy⟩ : ∃ y, y = ((u.lhReport s.lhRail s.fitFc s.fitPm status cest).lhHistory s.lhRail s.lh.endTime s.fitFc
        s.fitPm status cest false).lhFinish := ⟨_, rfl⟩
      have hexec : exec .lhComputeEnd s = .next (if degr && !told then
          (y.orReg (aLhDeg (s.lhRail / 32)) (bitw (s.lhRail % 32))).raise1 srcLoopHealth else y) := by
        rw [hy, hu, hstatus, htold, hdegr, hbad, hcest]
        rw [hv] at hbase' ⊢
        exact congrArg Host.Outcome.next ((if_neg hcond).trans ((if_neg hok').trans (if_neg hbase')))
      have hrailu : u.lhRail = s.lhRail := by
        rw [hu]
        exact hrail
      have hy' : State.LhShown s.lhRail s.fitFc s.fitPm status y := by
        rw [hy]
        refine hshown u hrailu status false ?_
        have h2 : (if isExt s.lhRail then 2 else 0) ≤ 2 := by split <;> decide
        have h32 : (if degr then 0x20 else 0) ≤ 0x20 := by split <;> decide
        omega
      have hdeg : y.LhSame (y.orReg (aLhDeg (s.lhRail / 32)) (bitw (s.lhRail % 32))) :=
        State.LhSame.setReg y (Or.inr (by simp only [aLhCmd, aLhDeg, aTlm]; omega)) _
      refine ⟨status, _, hexec, ?_, fun h => absurd hok (by rw [h]; exact Bool.false_ne_true), fun _ h =>
        absurd hbase (by rw [hbytes, h]; exact Bool.false_ne_true)⟩
      split
      · exact (hy'.same hdeg).same (State.raise1_lhSame (hy'.same hdeg).busy _)
      · exact hy'
    · have hbase' : (!lhValid (v.lhBytes s.lhRail 0)) = true := by simpa using hbase
      have hexec : exec .lhComputeEnd s = .next ((v.lhReport s.lhRail s.fitFc s.fitPm
          (0x41 + if isExt s.lhRail then 2 else 0) cest).lhHistory s.lhRail s.lh.endTime s.fitFc s.fitPm
          (0x41 + if isExt s.lhRail then 2 else 0) cest true).lhFinish := by
        rw [hcest]
        refine congrArg Host.Outcome.next ((if_neg hcond).trans ((if_neg hok').trans ((if_pos (hv ▸ hbase')).trans ?_)))
        rw [hv]
        rfl
      exact ⟨_, _, hexec, hshown v hrail _ true (hnoc 0x41 (by decide)), fun h => absurd hok (by rw [h]; exact Bool.false_ne_true),
        fun _ _ => rfl⟩
  · have hok' : (!s.fitOk) = true := by simpa using hok
    have hexec : exec .lhComputeEnd s = .next ((v.lhReport s.lhRail s.fitFc s.fitPm
        (4 + if isExt s.lhRail then 2 else 0) cest).lhHistory s.lhRail s.lh.endTime s.fitFc s.fitPm
        (4 + if isExt s.lhRail then 2 else 0) cest false).lhFinish := by
      rw [hv, hcest]
      exact congrArg Host.Outcome.next ((if_neg hcond).trans (if_pos hok'))
    exact ⟨_, _, hexec, hshown v hrail _ false (hnoc 4 (by decide)), fun _ => rfl, fun h => absurd h hok⟩

/-- A fit within the range of R158 fits its fields. -/
theorem State.fitOk_fields (h1 : 1000 ≤ s.lhFitted.1) (h2 : s.lhFitted.1 ≤ 200000) (h3 : 20 ≤ s.lhFitted.2.1)
    (h4 : s.lhFitted.2.1 ≤ 80) : s.fitFc = (ratOpen (s.lhFitted.1 / 10)).toNat
      ∧ s.fitPm = (ratOpen (s.lhFitted.2.1 * 2)).toNat := by
  have hfc := ratOpen_bounds (x := s.lhFitted.1 / 10) (n := 20000) (by linarith) (by push_cast; linarith)
  have hpm := ratOpen_bounds (x := s.lhFitted.2.1 * 2) (n := 160) (by linarith) (by push_cast; linarith)
  exact ⟨lhField_fits _ hfc.1 (by omega), lhField_fits _ hpm.1 (by omega)⟩

theorem lhComputeEnd_reports (hb : s.lhBusy = true) (hphase : s.fld aLhStat 24 23 = 3) :
    ∃ t, exec .lhComputeEnd s = .next t ∧ t.lhBusy = false ∧ t.fld (aLhRes 0) 5 0 = s.lhRail.val
      ∧ (t.ch s.lhRail).perturb = 0 ∧ t.lh.next = s.lhRail.val + 1
      ∧ (1000 ≤ s.lhFitted.1 → s.lhFitted.1 ≤ 200000 → 20 ≤ s.lhFitted.2.1 → s.lhFitted.2.1 ≤ 80 →
        lhValid (s.lhBytes s.lhRail 0) = false →
        t.fld (aLhRes 0) 31 16 = (ratOpen (s.lhFitted.1 / 10)).toNat
          ∧ t.fld (aLhRes 0) 15 8 = (ratOpen (s.lhFitted.2.1 * 2)).toNat
          ∧ t.fld (aLhRes 1) 7 0 = if isExt s.lhRail then 0x43 else 0x41)
      ∧ (s.lhFitted.1 < 1000 ∨ 200000 < s.lhFitted.1 ∨ s.lhFitted.2.1 < 20 ∨ 80 < s.lhFitted.2.1 →
        t.fld (aLhRes 1) 7 0 = if isExt s.lhRail then 6 else 4) := by
  obtain ⟨status, t, hexec, hshown, hrange, hgood⟩ := lhComputeEnd_shows hb hphase
  refine ⟨t, hexec, hshown.busy, hshown.rail, hshown.perturb, hshown.next, fun h1 h2 h3 h4 hbase => ?_, fun hout => ?_⟩
  · obtain ⟨hfc, hpm⟩ := State.fitOk_fields h1 h2 h3 h4
    have hok : s.fitOk = true := by simp [State.fitOk, h1, h2, h3, h4]
    refine ⟨hshown.fc.trans hfc, hshown.pm.trans hpm, ?_⟩
    rw [hshown.status, hgood hok hbase]
    split <;> rfl
  · have hok : s.fitOk = false := by
      rw [State.fitOk]
      simp only [Bool.and_eq_false_iff, decide_eq_false_iff_not, not_le]
      tauto
    rw [hshown.status, hrange hok]
    split <;> rfl

/-! REBASE -/

/-- A poke of a state that has taken a new record of the engine: what it shows beside its bytes. -/
theorem lhPoked_keeps {l : LoopHealth} {t : State}
    (ht : t = { { s with lh := l } with sram := t.sram, keeper := { s.keeper with dirty := t.keeper.dirty } }) :
    t.lh = l ∧ t = { s with sram := t.sram, keeper := t.keeper, lh := t.lh } := by
  have hlh : t.lh = l := by rw [ht]
  have hkeep : t.keeper = { s.keeper with dirty := t.keeper.dirty } := congrArg State.keeper ht
  exact ⟨hlh, ht.trans (by rw [hlh, ← hkeep])⟩

theorem rebase_empties (hs : s.serves = true) (hbp : s.fld aKpsCtl 31 30 = 0) (hlocked : s.keeper.locked = false) (who : Who)
    (r : Rail) : ∃ t, exec (.rebase who false r) s = .next t
      ∧ (∀ i, i < 16 → t.byte (0x25000 + 192 * r.val + i) = 0)
      ∧ (∀ a, (a < 0x25000 + 192 * r.val ∨ 0x25010 + 192 * r.val ≤ a) → t.byte a = s.byte a)
      ∧ t.lh.beyond = s.lh.beyond.set r false
      ∧ t = { s with sram := t.sram, keeper := t.keeper, lh := t.lh } := by
  obtain ⟨l, hl⟩ : ∃ l : LoopHealth, l = { s.lh with beyond := s.lh.beyond.set r false } := ⟨_, rfl⟩
  have hexec : exec (.rebase who false r) s
      = .next (({ s with lh := l } : State).poke (0x25000 + 192 * r.val) (List.replicate 16 0)) := by
    have hcover : ({ s with lh := l } : State).bpCovers (0x25000 + 192 * r.val) = false := by
      rw [State.bpCovers, show ({ s with lh := l } : State).fld aKpsCtl 31 30 = 0 from hbp]
      rfl
    have hpoke : ({ s with lh := l } : State).lhPoke (0x25000 + 192 * r.val) (List.replicate 16 0)
        = ({ s with lh := l } : State).poke (0x25000 + 192 * r.val) (List.replicate 16 0) := by
      rw [State.lhPoke, hcover, if_neg Bool.false_ne_true,
        show ({ s with lh := l } : State).keeper.locked = false from hlocked, if_neg Bool.false_ne_true]
    rw [← hpoke, hl]
    exact congrArg Host.Outcome.next (State.fab_serves hs _)
  have hframe := State.poke_frame (List.replicate 16 0) ({ s with lh := l } : State) (0x25000 + 192 * r.val)
  obtain ⟨hlh, hkeeps⟩ := lhPoked_keeps hframe
  refine ⟨_, hexec, fun i hi => ?_, fun a ha => ?_, ?_, hkeeps⟩
  · rw [State.byte_poke_zeros, if_pos (by omega)]
  · rw [State.byte_poke_zeros, if_neg (by omega)]
    rfl
  · rw [hlh, hl]

end

/-- Settles O29: a measurement from its start to its report, and REBASE. -/
theorem loopHealth : Obligations.LoopHealth := by
  unfold Obligations.LoopHealth
  exact ⟨fun s r hen hidle ha hnext hon hpath huse => lhStart_begins hen hidle ha hnext hon hpath huse,
    fun s uv hb hphase hext hcal => ⟨lhCalRound_done hb hphase hext hcal, lhCalRound_fails hb hphase hext hcal⟩,
    fun s hb => ⟨lhExciteStart_excites hb, fun k x high hphase hat hk hx hhigh =>
      lhPerturbToggle_toggles hb hphase hat hk hx hhigh, lhCaptureEnd_ends hb, lhComputeEnd_reports hb⟩,
    fun s who r hs hbp hlocked => rebase_empties hs hbp hlocked who r⟩

end Sys2Proof.Machine
end

section
/-! SUPPORT. The cycle in which several rails are disabled at once, and the start of the power-fail sequence
(R118, R344, R525). -/

namespace Sys2Proof.Machine
open Sys2Proof

/-! Several rails disabled in one cycle -/

/-- Rails that a disable takes to FALLING. -/
def RailState.running (x : RailState) : Prop := x ∈ [RailState.rising, .on, .margined]

/-- Since `c` the rails of `l` alone have acted, and those in use that ran are in FALLING. -/
structure Cyc.Disables (l : List Rail) (c d : Cyc) : Prop where
  cycle : c.s.CycleOf l (l.flatMap (fun r : Rail => [aChFlags r, aChMargin r])) d.s
  others : c.s.OtherRegs d.s
  groupOff : d.groupOff = []
  falls : ∀ r ∈ l, c.s.use r = true → (c.s.rail r).st.running → (d.s.rail r).st = .falling

theorem Cyc.hits_disable {c : Cyc} (hg : c.groupOff = []) {l : List Rail} (hl : l.Nodup) :
    Cyc.Disables l c (c.hits (l.map (fun r => { rail := r, cause := .disable }))) := by
  have hmem : ∀ r, r ∈ allRails.filter (fun r => l.contains r) ↔ r ∈ l := fun r => by simp [allRails]
  have hall := Cyc.forAll_rails (g := fun c r => c.causes r [.disable])
    (I := fun d => d.groupOff = [] ∧ c.s.OtherRegs d.s) (P := fun _ _ => True)
    (F := fun s r x => s.use r = true → (s.rail r).st.running → x.st = .falling)
    (R := fun r : Rail => [aChFlags r, aChMargin r])
    (fun r a ha => by
      rcases List.mem_cons.1 ha with rfl | ha
      · exact railReg_flags r
      · exact (List.mem_singleton.1 ha) ▸ railReg_margin r)
    (fun d r hi _ => by
      have hmoves := d.causes_disable r
      exact ⟨hmoves.cycle, ⟨hmoves.groupOff.trans hi.1, hi.2.trans hmoves.others⟩, fun hu hrun =>
        (d.disable_falls r hu hrun).2.2.2.2.1⟩)
    (fun _ _ _ _ _ _ => trivial)
    (fun s t r x hconf hrail h hu hrun => h ((hconf.use r).trans hu) (hrail ▸ hrun))
    (allRails_nodup.filter (fun r => l.contains r)) (c := c) ⟨hg, .refl _⟩ (fun _ _ => trivial)
  rw [Cyc.hits_each c .disable hl]
  obtain ⟨hcycle, ⟨hgroup, hothers⟩, hfalls⟩ := hall
  refine ⟨hcycle.mono (fun r hr => (hmem r).1 hr) (fun a ha => ?_), hothers, hgroup, fun r hr => hfalls r ((hmem r).2 hr)⟩
  obtain ⟨r, hr, ha⟩ := List.mem_flatMap.1 ha
  exact List.mem_flatMap.2 ⟨r, (hmem r).1 hr, ha⟩

theorem ownReg_not_railRegs {a : Nat} (h : 0x10010000 ≤ a) (l : List Rail) :
    a ∉ l.flatMap (fun r : Rail => [aChFlags r, aChMargin r]) := fun ha => by
  obtain ⟨r, -, ha⟩ := List.mem_flatMap.1 ha
  rcases List.mem_cons.1 ha with rfl | ha
  · exact not_railReg_of_le h (railReg_flags r)
  · exact not_railReg_of_le h (List.mem_singleton.1 ha ▸ railReg_margin r)

/-! The end of a cycle: registers of other blocks, and the power state -/

/-- The end of a cycle without escalations leaves the registers that no report writes, and clears no bit of FLT_STAT below
STATE. -/
theorem Cyc.finish_reports {c : Cyc} (hg : c.groupOff = []) (inj : Bool) :
    (∀ a, ¬ reportReg a → (c.finish inj).reg a = c.s.reg a)
      ∧ ((c.finish inj).power = c.s.power ∨ (c.finish inj).power = c.s.startWake.power)
      ∧ ∀ i, i < 30 → c.s.bit aFltStat i = true → (c.finish inj).bit aFltStat i = true := by
  have hrep := c.s.raiseAll_reports c.raises inj
  have hfin : ∀ t : State, t.settleRsts.regs = t.regs ∧ t.settleRsts.power = t.power := fun t => by
    rw [t.settleRsts_fields]
    exact ⟨rfl, rfl⟩
  simp only [Cyc.finish, hg, List.map_nil, List.isEmpty_nil, if_true]
  refine ⟨fun a ha => (State.reg_congr (hfin _).1 a).trans (hrep.regs a ha), ?_, fun i hi hb =>
    (State.bit_congr (State.reg_congr (hfin _).1 _) i).trans (hrep.flt i hi hb)⟩
  rw [(hfin _).2]
  exact hrep.wake

/-! The end of a cycle of the reserve -/

section
variable (s : State) (l : List Raise)

theorem State.rsvRaise_reg {a : Nat} (ha : a ≠ aRsvFlags) (hn : ¬ reportReg a) : (s.rsvRaise l).reg a = s.reg a :=
  ((s.rsvRaise_ends l).2.regs a hn).trans (s.settleRsv_rsvOnly.regs a ha)

theorem State.rsvRaise_wake : (s.rsvRaise l).power = s.power ∨ (s.rsvRaise l).power = s.startWake.power := by
  have hpower : s.settleRsv.1.power = s.power := by rw [s.settleRsv_rsvOnly.fields]
  rcases (s.rsvRaise_ends l).2.wake with h | h
  · exact .inl (h.trans hpower)
  · exact .inr (h.trans (State.startWake_power_congr hpower))

/-- A running store goes on. -/
theorem State.rsvRaise_busy (hb : s.keeper.run ≠ none) :
    (s.rsvRaise l).keeper = { s.keeper with pending := (s.rsvRaise l).keeper.pending } := by
  have hkeeper : s.settleRsv.1.keeper = s.keeper := by rw [s.settleRsv_rsvOnly.fields]
  have h := (s.rsvRaise_ends l).2.busy (by rw [hkeeper]; exact hb)
  rw [hkeeper] at h
  exact h

end

/-! Host requests that a store's end answers -/

/-- `t` differs from `s` in the hosts, and its sessions are open as those of `s`. -/
structure State.SessionsStand (s t : State) : Prop where
  fields : t = { s with hosts := t.hosts }
  isOpen : ∀ p i, (t.sess p i).isOpen = (s.sess p i).isOpen

namespace State.SessionsStand

theorem refl (s : State) : s.SessionsStand s := ⟨rfl, fun _ _ => rfl⟩

theorem trans {s t u : State} (h : s.SessionsStand t) (k : t.SessionsStand u) : s.SessionsStand u :=
  ⟨by rw [k.fields, h.fields], fun p i => (k.isOpen p i).trans (h.isOpen p i)⟩

theorem setExec (s : State) (p : Fin 2) (i : Fin 4) (q : Request) : s.SessionsStand (s.setExec p i q) := by
  obtain ⟨hto, hsess, -⟩ := s.setExec_effect p i q
  refine ⟨rfl, fun p' i' => ?_⟩
  by_cases hp : p' = p ∧ i' = i
  · obtain ⟨rfl, rfl⟩ := hp
    rw [hsess]
  · rw [hto.2.1 p' i' (fun h => hp (Prod.mk.inj h))]

theorem forAll {α : Type} {f : State → α → State} (hf : ∀ s x, State.SessionsStand s (f s x)) (s : State) (l : List α) :
    s.SessionsStand (s.forAll l f) := by
  unfold State.forAll
  induction l generalizing s with
  | nil => exact .refl s
  | cons x l ih => exact (hf s x).trans (ih _)

end State.SessionsStand

theorem State.answerStores_stand (s : State) (ended : Nat → Bool) : s.SessionsStand (s.answerStores ended) := by
  refine .forAll (fun s p => .forAll (fun s i => ?_) s _) s _
  split
  · split
    · exact .setExec s p i _
    · exact .refl s
  · exact .refl s

end Sys2Proof.Machine
end

section
/-! SUPPORT. The start of the power-fail sequence, part by part (R118, R344, R525, R549). -/

namespace Sys2Proof.Machine
open Sys2Proof

/-! Actions that wait for RUN -/

section
variable (s : State)

/-- The actions that wait are taken up. -/
def State.lateTaken : State := { s with protect := { s.protect with lateClose := false, lateErase := false } }

theorem State.lateActions_eq : s.lateActions = s.lateTaken.fabricActions s.protect.lateClose s.protect.lateErase := rfl

theorem State.fabricActions_frame (close erase : Bool) : s.fabricActions close erase =
    { s with
      regs := (s.fabricActions close erase).regs, hosts := (s.fabricActions close erase).hosts
      protect := (s.fabricActions close erase).protect } := by
  unfold State.fabricActions
  cases close <;> cases erase <;> simp only [Bool.false_eq_true, if_false, if_true]
  · rw [s.startErase_frame]
  · rw [s.closeAll_frame]
  · rw [State.startErase_frame, s.closeAll_frame]

theorem State.startErase_erasing : s.startErase.erasing = true := by
  unfold State.startErase
  split
  · assumption
  · exact s.bit_setBit_self aSecStat (by decide) true

theorem State.startErase_late : s.startErase.protect.lateClose = s.protect.lateClose
    ∧ s.startErase.protect.lateErase = s.protect.lateErase := by
  unfold State.startErase
  split <;> exact ⟨rfl, rfl⟩

/-- What an alarm's actions bring about. -/
structure State.LateDone (s t : State) : Prop where
  fields : t = { s with regs := t.regs, hosts := t.hosts, protect := t.protect }
  regs : ∀ a, a ≠ aSecStat → t.reg a = s.reg a
  late : t.protect.lateClose = false ∧ t.protect.lateErase = false
  closed : s.protect.lateClose = true → ∀ p i, (t.sess p i).isOpen = false
  erases : s.protect.lateErase = true → t.erasing = true

theorem State.lateActions_done : s.LateDone s.lateActions := by
  obtain ⟨hregs, -, hclosed⟩ := s.lateTaken.fabricActions_leaves s.protect.lateClose s.protect.lateErase
  rw [s.lateActions_eq]
  refine ⟨by rw [State.fabricActions_frame]; rfl, hregs, ?_, hclosed, fun he => ?_⟩
  · have hclose : s.lateTaken.closeAll.protect = s.lateTaken.protect := by rw [State.closeAll_frame]
    unfold State.fabricActions
    split
    · split
      · obtain ⟨h1, h2⟩ := s.lateTaken.closeAll.startErase_late
        rw [h1, h2, hclose]
        exact ⟨rfl, rfl⟩
      · rw [hclose]
        exact ⟨rfl, rfl⟩
    · split
      · obtain ⟨h1, h2⟩ := s.lateTaken.startErase_late
        rw [h1, h2]
        exact ⟨rfl, rfl⟩
      · exact ⟨rfl, rfl⟩
  · rw [State.fabricActions, he]
    exact State.startErase_erasing _

end

/-! The sequence's start before its cycle -/

/-- A wick at the start of the sequence. -/
def Wick.powerLost (x : Wick) : Wick :=
  match x.st with
  | .run | .wait _ => { x with stop := true }
  | _ => x

section
variable (s : State)

/-- MON_VIN at the start of the sequence, and the rest that ends. -/
def State.inputLost : State :=
  (((s.setFld aMonVin 31 16 0).setBit aMonVin 1 true).setBit aMonVin 0 false).restAbort

/-- The state at the start of the sequence, before its cycle. -/
def State.powerLost : State :=
  let s := s.inputLost.count 2
  { s with
    power := { s.power with phase := .powerFail, state := .run, waking := false, failDue := false, held := [] }
    keeper := { s.keeper with locked := true }
    faults := { s.faults with sysReset := false }
    wicks := s.wicks.map Wick.powerLost
    doms := s.doms.map (fun (d : Domain) => { d with next := none }) }

/-- A rail that the start of the sequence disables. -/
def RailState.shed : RailState → Bool
  | .rising | .on | .margined | .retryWait => true
  | _ => false

/-- The rails that the sequence disables, before they have acted. -/
def State.shedRails : List Rail := allRails.filter (fun r => (s.ch r).st.shed)

/-- The rails that run are disabled, and INPUT is raised. -/
def State.failCyc : Cyc :=
  (Cyc.raise { s := s.powerLost } srcInput).hits
    (s.powerLost.shedRails.map (fun r => { rail := r, cause := .disable }))

/-- The first cycle of the sequence has ended. -/
def State.powerFailed : State := s.failCyc.finish

theorem State.powerFailStart_eq : s.powerFailStart
    = (s.lateActions.powerFailed.startPowerFailStore.answerStores (fun _ => true)).rsvSettle := by
  have hshed : ∀ x : RailState, x.shed = match x with | .rising | .on | .margined | .retryWait => true | _ => false :=
    fun x => by cases x <;> rfl
  unfold State.powerFailStart State.powerFailed State.failCyc State.shedRails
  simp only [hshed]
  rfl

theorem State.inputLost_regs {a : Nat} (hm : a ≠ aMonVin) (hf : ¬ reportReg a) : s.inputLost.reg a = s.reg a := by
  rw [State.inputLost, (State.restAbort_reports _).regs a hf, State.reg_setBit_ne _ hm, State.reg_setBit_ne _ hm,
    s.reg_setFld_ne hm]

theorem State.powerLost_reg {a : Nat} (hk : a ≠ aKpsStat) : s.powerLost.reg a = s.inputLost.reg a :=
  s.inputLost.count_reg_ne 2 hk

theorem State.powerLost_monVin : s.powerLost.fld aMonVin 31 16 = 0 ∧ s.powerLost.bit aMonVin 1 = true
    ∧ s.powerLost.bit aMonVin 0 = false := by
  have hreg : s.powerLost.reg aMonVin
      = (((s.setFld aMonVin 31 16 0).setBit aMonVin 1 true).setBit aMonVin 0 false).reg aMonVin :=
    (s.powerLost_reg (by decide)).trans ((State.restAbort_reports _).regs _ (by unfold reportReg; decide))
  refine ⟨(congrArg (wfld · 31 16) hreg).trans ?_, (State.bit_congr hreg 1).trans ?_, (State.bit_congr hreg 0).trans ?_⟩
  · rw [← State.fld, State.fld_setBit_ne _ _ (by decide) (by decide), State.fld_setBit_ne _ _ (by decide) (by decide),
      s.fld_setFld_self aMonVin 0 (by decide) (by decide), Nat.zero_mod]
  · rw [State.bit_setBit_other _ _ (by decide) (by decide), State.bit_setBit_self _ _ (by decide)]
  · exact State.bit_setBit_self _ _ (by decide) _

theorem State.powerLost_frame : s.powerLost = { s with
    regs := s.powerLost.regs, power := s.powerLost.power, keeper := s.powerLost.keeper, faults := s.powerLost.faults
    wicks := s.wicks.map Wick.powerLost, doms := s.powerLost.doms, reserve := s.powerLost.reserve } := by
  have hrest : ∀ t : State, t.restAbort = { t with regs := t.restAbort.regs, reserve := t.restAbort.reserve } := fun t => by
    unfold State.restAbort
    split
    · unfold State.endPause
      dsimp only
      split <;> rfl
    · rfl
  unfold State.powerLost State.inputLost
  rw [State.count_frame, hrest]
  rfl

end

/-! The power-fail store -/

/-- The power-fail store runs, and nothing else starts. -/
def State.failStoring (s : State) : Prop :=
  s.keeper.locked = true ∧ ∃ j, s.keeper.run = some j ∧ j.kind = .powerFail

theorem State.storeNext_failStoring (n : Nat) {s : State} (h : s.failStoring) : (s.storeNext n).failStoring := by
  induction n generalizing s with
  | zero =>
    obtain ⟨hl, j, hr, hk⟩ := h
    unfold State.storeNext
    simp only [hr]
    split
    · exact ⟨hl, j, hr, hk⟩
    · have hkind : (if j.kind == .powerFail && !j.pass1 then { j with left := s.pfOrder, pass1 := true } else j).kind
          = .powerFail := by split <;> exact hk
      generalize (if j.kind == .powerFail && !j.pass1 then { j with left := s.pfOrder, pass1 := true } else j) = i at hkind
      repeat' split
      all_goals exact ⟨hl, _, rfl, hkind⟩
  | succ n ih =>
    obtain ⟨hl, j, hr, hk⟩ := h
    unfold State.storeNext
    simp only [hr]
    split
    · exact ⟨hl, j, hr, hk⟩
    · have hkind : (if j.kind == .powerFail && !j.pass1 then { j with left := s.pfOrder, pass1 := true } else j).kind
          = .powerFail := by split <;> exact hk
      generalize (if j.kind == .powerFail && !j.pass1 then { j with left := s.pfOrder, pass1 := true } else j) = i at hkind
      split
      · split
        · exact ⟨hl, _, rfl, hkind⟩
        · exact ⟨hl, _, rfl, hkind⟩
      · split
        · exact ⟨hl, _, rfl, hkind⟩
        · split
          · exact ⟨hl, _, rfl, hkind⟩
          · exact ih ⟨hl, _, rfl, hkind⟩

theorem State.startPowerFailStore_storing (s : State) : s.startPowerFailStore.failStoring := by
  unfold State.startPowerFailStore
  dsimp only
  split
  · exact ⟨rfl, _, rfl, rfl⟩
  · exact State.storeNext_failStoring 1 ⟨rfl, _, rfl, rfl⟩

theorem State.startPowerFailStore_frame (s : State) :
    s.startPowerFailStore = { s with keeper := s.startPowerFailStore.keeper } := by
  unfold State.startPowerFailStore
  dsimp only
  split
  · rfl
  · rw [State.storeNext_frame]

/-! The store that starts, and what follows from it -/

/-- Since `d` the power-fail store has started, and the reserve has settled. -/
structure State.FailStored (d t : State) : Prop where
  power : t.power = d.power
  regs : ∀ a, a ≠ aRsvFlags → ¬ reportReg a → t.reg a = d.reg a
  storing : t.failStoring
  wicks : ∀ w, t.wk w = d.wk w
  rails : ∀ r, t.rail r = d.rail r
  sessions : ∀ p i, (t.sess p i).isOpen = (d.sess p i).isOpen

theorem State.startPowerFailStore_stored {d : State} (h : d.power.phase = .powerFail) :
    d.FailStored (d.startPowerFailStore.answerStores (fun _ => true)).rsvSettle := by
  have hstart := d.startPowerFailStore_frame
  have hstoring := d.startPowerFailStore_storing
  generalize d.startPowerFailStore = e at hstart hstoring ⊢
  have hstand := e.answerStores_stand (fun _ => true)
  generalize e.answerStores (fun _ => true) = f at hstand ⊢
  have hpower : f.power = d.power := by rw [hstand.fields, hstart]
  have hkeeper : f.keeper = e.keeper := by rw [hstand.fields]
  obtain ⟨hlocked, j, hrun, hkind⟩ := hstoring
  have hbusy := f.rsvRaise_busy [] (by rw [hkeeper, hrun]; exact Option.some_ne_none _)
  have hend := f.rsvRaise_cycleOf []
  refine ⟨?_, fun a ha hn => ?_, ?_, fun w => ?_, fun r => ?_, fun p i => ?_⟩
  · rcases f.rsvRaise_wake [] with hw | hw
    · exact hw.trans hpower
    · rw [State.rsvSettle, hw, State.startWake_powerFail (by rw [hpower]; exact h), hpower]
  · refine (f.rsvRaise_reg [] ha hn).trans (State.reg_congr ?_ a)
    rw [hstand.fields, hstart]
  · rw [hkeeper] at hbusy
    exact ⟨(congrArg Keeper.locked hbusy).trans hlocked, j, (congrArg Keeper.run hbusy).trans hrun, hkind⟩
  · rw [State.rsvSettle, hend.wk, hstand.fields, hstart]
    rfl
  · refine (hend.rail List.not_mem_nil).trans ?_
    rw [hstand.fields, hstart]
    rfl
  · have hhosts : f.rsvSettle.hosts = f.hosts := by
      rw [State.rsvSettle, hend.1]
    rw [State.sess, hhosts, ← State.sess, hstand.isOpen, hstart]
    rfl

/-! The sequence's start -/

/-- What the start of the power-fail sequence brings about in a state whose waiting actions have been taken. -/
structure State.Failing (s t : State) : Prop where
  phase : t.power.phase = .powerFail
  held : t.power.held = []
  band : t.fld aMonVin 31 16 = 0
  low : t.bit aMonVin 1 = true
  lost : t.bit aMonVin 0 = false
  storing : t.failStoring
  wicks : ∀ w, t.wk w = (s.wk w).powerLost
  falls : ∀ r, s.use r = true → (s.ch r).st = .on → (t.ch r).st = .falling
  sessions : ∀ p i, (t.sess p i).isOpen = (s.sess p i).isOpen
  erasing : t.erasing = s.erasing

theorem reportReg_ge {a : Nat} (h : reportReg a) : 0x10010000 ≤ a := by
  have hc : (0x10010000 ≤ aRawStat ∧ 0x10010000 ≤ aLhStat) ∧ (0x10010000 ≤ aFltStat ∧ 0x10010000 ≤ aFltFirst)
      ∧ (0x10010000 ≤ aPend 0 ∧ 0x10010000 ≤ aCnt 0) ∧ 0x10010000 ≤ aLogIdx ∧ 0x10010000 ≤ aRsvFlags := by decide
  rw [reportReg] at h
  omega

section
variable (s : State)

theorem State.shedRails_nodup : s.shedRails.Nodup := allRails_nodup.filter (fun r => (s.ch r).st.shed)

theorem State.mem_shedRails {r : Rail} : r ∈ s.shedRails ↔ (s.ch r).st.shed = true := by
  simp [State.shedRails, allRails]

theorem State.failCyc_disables : Cyc.Disables s.powerLost.shedRails (Cyc.raise { s := s.powerLost } srcInput) s.failCyc :=
  Cyc.hits_disable rfl s.powerLost.shedRails_nodup

/-- What the sequence's first cycle leaves alone. -/
theorem State.failCyc_cycleOf : s.powerLost.CycleOf s.powerLost.shedRails
    (s.powerLost.shedRails.flatMap (fun r : Rail => [aChFlags r, aChMargin r])) s.powerFailed :=
  Cyc.finish_acts s.failCyc_disables.cycle s.failCyc_disables.groupOff

theorem State.failCyc_monVin : s.powerFailed.reg aMonVin = s.powerLost.reg aMonVin :=
  s.failCyc_cycleOf.reg (by unfold ownReg; decide) (ownReg_not_railRegs (by decide) _)

theorem State.failCyc_secStat : s.powerFailed.reg aSecStat = s.reg aSecStat :=
  calc s.powerFailed.reg aSecStat
      = s.failCyc.s.reg aSecStat := (Cyc.finish_reports s.failCyc_disables.groupOff false).1 _ (by unfold reportReg; decide)
    _ = s.powerLost.reg aSecStat := s.failCyc_disables.others.regs _ (not_railReg_of_le (by decide)) (by unfold reportReg; decide)
    _ = s.inputLost.reg aSecStat := s.powerLost_reg (by decide)
    _ = s.reg aSecStat := s.inputLost_regs (by decide) (by unfold reportReg; decide)

theorem State.failCyc_falls {r : Rail} (hu : s.use r = true) (hst : (s.ch r).st = .on) :
    (s.powerFailed.rail r).st = .falling := by
  have hch : s.powerLost.ch r = s.ch r := by
    rw [s.powerLost_frame]
    rfl
  have hlt : aChCfg r < 0x10010000 := by
    simp only [aChCfg, aCh]
    omega
  have huse : s.powerLost.use r = true := by
    rw [State.use, State.bit, s.powerLost_reg (Nat.ne_of_lt (hlt.trans (by decide))),
      s.inputLost_regs (Nat.ne_of_lt (hlt.trans_le (by decide))) (fun h => absurd (reportReg_ge h) (Nat.not_le.2 hlt))]
    exact hu
  have hrail : (s.powerLost.rail r).st = .on := by
    rw [State.rail, hch]
    exact hst
  have hfall := s.failCyc_disables.falls r (s.powerLost.mem_shedRails.2 (by rw [hch, hst]; rfl)) huse
    (by rw [RailState.running]; exact hrail ▸ by simp)
  have hkept : s.powerFailed.rail r = s.failCyc.s.rail r :=
    (Cyc.finish_cycleOf s.failCyc s.failCyc_disables.groupOff false).rail List.not_mem_nil
  exact (congrArg Chan.st hkept).trans hfall

/-- The start of the power-fail sequence, its waiting actions taken. -/
theorem State.powerFailed_failing :
    s.Failing (s.powerFailed.startPowerFailStore.answerStores (fun _ => true)).rsvSettle := by
  have hcycle := s.failCyc_cycleOf
  have hmonVin := s.failCyc_monVin
  have hsec := s.failCyc_secStat
  have hfalls : ∀ r, s.use r = true → (s.ch r).st = .on → (s.powerFailed.rail r).st = .falling := fun r => s.failCyc_falls
  have hlost : s.powerLost.power.phase = .powerFail ∧ s.powerLost.power.held = [] := ⟨rfl, rfl⟩
  have hwicks : ∀ w, s.powerLost.wk w = (s.wk w).powerLost := fun w => by
    rw [s.powerLost_frame]
    exact Vector.getElem_map ..
  have hhosts : s.powerLost.hosts = s.hosts := by rw [s.powerLost_frame]
  obtain ⟨hband, hlow, hvinok⟩ := s.powerLost_monVin
  generalize s.powerFailed = d at hcycle hmonVin hsec hfalls ⊢
  generalize s.powerLost = u at hcycle hmonVin hlost hwicks hhosts hband hlow hvinok
  have hpower : d.power.phase = u.power.phase ∧ d.power.held = u.power.held := by
    rw [hcycle.1]
    exact ⟨rfl, rfl⟩
  have hstored := State.startPowerFailStore_stored (hpower.1.trans hlost.1)
  have hmon := (hstored.regs aMonVin (by decide) (by unfold reportReg; decide)).trans hmonVin
  refine ⟨?_, ?_, ?_, ?_, ?_, hstored.storing, fun w => ?_, fun r hu hst => ?_, fun p i => ?_, ?_⟩
  · rw [hstored.power]
    exact hpower.1.trans hlost.1
  · rw [hstored.power]
    exact hpower.2.trans hlost.2
  · exact (congrArg (wfld · 31 16) hmon).trans hband
  · exact (State.bit_congr hmon 1).trans hlow
  · exact (State.bit_congr hmon 0).trans hvinok
  · rw [hstored.wicks, hcycle.wk, hwicks]
  · exact (congrArg Chan.st (hstored.rails r)).trans (hfalls r hu hst)
  · rw [hstored.sessions, State.sess, State.sess, hcycle.1, hhosts]
  · exact State.bit_congr ((hstored.regs aSecStat (by decide) (by unfold reportReg; decide)).trans hsec) 31

theorem State.powerFailStart_failing : s.lateActions.Failing s.powerFailStart := by
  rw [s.powerFailStart_eq]
  exact s.lateActions.powerFailed_failing

end

end Sys2Proof.Machine
end

section
/-! PROOFS. Input supervision (O41). -/

namespace Sys2Proof.Machine
open Sys2Proof

section
variable {s : State}

/-! VIN falls below its threshold -/

theorem State.setVin_shows (s : State) (v : VinLevel) (ok : Bool) :
    (s.setVin v ok).bit aMonVin 0 = ok
      ∧ ((s.setVin v ok).power = { s.power with vin := v }
        ∨ (s.setVin v ok).power = { s.power with vin := v, waking := s.power.waking || s.asleep })
      ∧ (s.setVin v ok).wicks = s.wicks ∧ (s.setVin v ok).doms = s.doms := by
  obtain ⟨u, hu⟩ : ∃ u : State, u = ({ s with power := { s.power with vin := v } } : State).setBit aMonVin 0 ok := ⟨_, rfl⟩
  have hbit : u.bit aMonVin 0 = ok := by
    rw [hu]
    exact State.bit_setBit_self _ _ (by decide) _
  have hpower : u.power = { s.power with vin := v } := by rw [hu, State.setBit_power]
  have hrest : u.wicks = s.wicks ∧ u.doms = s.doms := by
    rw [hu]
    exact ⟨rfl, rfl⟩
  have hasleep : u.asleep = s.asleep := by rw [State.asleep, hpower, State.asleep]
  have hend := u.rsvRaise_cycleOf []
  rw [State.setVin, ← hu, State.rsvSettle]
  refine ⟨(State.bit_congr (u.rsvRaise_reg [] (by decide) (by unfold reportReg; decide)) 0).trans hbit, ?_, ?_, ?_⟩
  · rcases u.rsvRaise_wake [] with h | h
    · exact .inl (h.trans hpower)
    · exact .inr (h.trans (by rw [State.startWake_power, hasleep, hpower]))
  · rw [hend.1]
    exact hrest.1
  · rw [hend.1]
    exact hrest.2

theorem vinFall_falls (hu : s.power.phase ≠ .unpowered) (hv : s.power.vin ≠ .below) :
    ∃ t, exec .vinFall s = .next t
      ∧ t.power = { s.power with vin := .below, waking := s.power.waking || s.asleep } ∧ t.bit aMonVin 0 = false
      ∧ t.wicks = s.wicks ∧ t.doms = s.doms := by
  obtain ⟨hbit, hpower, hwicks, hdoms⟩ := s.setVin_shows .below false
  refine ⟨_, congrArg Host.Outcome.next (if_neg (by simp [hu, hv])), ?_, ?_, ?_, ?_⟩
  · rw [State.startWake_power]
    rcases hpower with h | h
    · rw [State.asleep, h, State.asleep]
    · rw [State.asleep, h, State.asleep, Bool.or_assoc, Bool.or_self]
  · exact (State.bit_congr (State.reg_congr (State.startWake_regs _) _) 0).trans hbit
  · rw [State.startWake_wicks, hwicks]
  · rw [State.startWake_doms, hdoms]

/-! VIN qualified low -/

theorem vinLowQualified_fails (hv : s.power.vin = .below) (hp : s.power.phase = .run) (hon : s.fabricOn = true) :
    ∃ t, exec .vinLowQualified s = .next t ∧ t.power.phase = .powerFail ∧ t.fld aMonVin 31 16 = 0 ∧ t.keeper.locked = true
      ∧ t.bit aMonVin 1 = true
      ∧ t.bit aMonVin 0 = false ∧ (∃ j, t.keeper.run = some j ∧ j.kind = .powerFail)
      ∧ (∀ w, ((s.wk w).st = .run ∨ ∃ k, (s.wk w).st = .wait k) → t.wk w = { s.wk w with stop := true })
      ∧ ∀ r, s.use r = true → (s.ch r).st = .on → (t.ch r).st = .falling := by
  have hfail := s.powerFailStart_failing
  have hlate := s.lateActions_done
  have hwk : ∀ w, s.lateActions.wk w = s.wk w := fun w => by
    rw [hlate.fields]
    rfl
  have hch : ∀ r, s.lateActions.ch r = s.ch r := fun r => by
    rw [hlate.fields]
    rfl
  have hexec : exec .vinLowQualified s = .next s.powerFailStart := by
    show execVinLowQualified s = _
    rw [execVinLowQualified, if_neg (by rw [hv]; decide), hp]
    exact congrArg Host.Outcome.next (if_pos hon)
  refine ⟨_, hexec, hfail.phase, hfail.band, hfail.storing.1, hfail.low, hfail.lost, hfail.storing.2, fun w hw => ?_,
    fun r hu hst => hfail.falls r ?_ ((congrArg Chan.st (hch r)).trans hst)⟩
  · rw [hfail.wicks, hwk]
    rcases hw with hw | ⟨k, hw⟩
    · simp only [Wick.powerLost, hw]
    · simp only [Wick.powerLost, hw]
  · rw [State.use, State.bit, hlate.regs _ (by simp only [aChCfg, aCh, aSecStat, aSec]; omega)]
    exact hu

theorem vinLowQualified_asleep (hv : s.power.vin = .below) (hp : s.power.phase = .run) (hoff : s.fabricOn = false) :
    exec .vinLowQualified s = .next { s with power := { s.power with failDue := true, waking := true } } := by
  have hstate : (s.power.state != .run) = true := by
    rw [State.fabricOn, Bool.or_eq_false_iff] at hoff
    rw [bne, hoff.1]
    rfl
  show execVinLowQualified s = _
  rw [execVinLowQualified, if_neg (by rw [hv]; decide), hp]
  refine congrArg Host.Outcome.next ((if_neg (by rw [hoff]; decide)).trans (if_pos ?_))
  rw [State.asleep, hp, hstate]
  rfl

theorem vinLowQualified_clears (hv : s.power.vin = .below) (hp : s.power.phase = .inputLow ∨ s.power.phase = .powerFail) :
    ∃ t, exec .vinLowQualified s = .next t ∧ s.RegsBecome [aMonVin] t ∧ t.reg aMonVin = put (s.reg aMonVin) 31 16 0 := by
  refine ⟨s.setFld aMonVin 31 16 0, ?_, s.setFld_regsBecome _ _ _ _, s.reg_setFld_self _ _ _ _⟩
  show execVinLowQualified s = _
  rw [execVinLowQualified, if_neg (by rw [hv]; decide)]
  rcases hp with hp | hp <;> rw [hp]

theorem vinLowQualified_powersDown (hv : s.power.vin = .below) (hp : s.power.phase = .loaded) :
    ∃ t, exec .vinLowQualified s = .next t ∧ t.power.phase = .inputLow ∧ t.bit aMonVin 1 = true
      ∧ t.fld aMonVin 31 16 = 0 := by
  obtain ⟨u, hu⟩ : ∃ u : State, u = s.setFld aMonVin 31 16 0 := ⟨_, rfl⟩
  have hexec : exec .vinLowQualified s = .next u.powerDown := by
    show execVinLowQualified s = _
    rw [execVinLowQualified, if_neg (by rw [hv]; decide), hp, hu]
  obtain ⟨hphase, hlow, -⟩ := u.powerDown_shows
  refine ⟨_, hexec, hphase, hlow, ?_⟩
  rw [State.powerDown_eq, State.fld_setBit_addr _ _ (by decide), State.fld_setBit_ne _ _ (by decide) (by decide),
    State.fld_setBit_ne _ _ (by decide) (by decide), State.fld, u.lowState_reg (by decide), hu, ← State.fld,
    s.fld_setFld_self aMonVin 0 (by decide) (by decide), Nat.zero_mod]

/-! VIN rises, and VIN qualified -/

theorem vinRise_shows (band : Bool) (hp : s.power.phase = .run) :
    ∃ t, exec (.vinRise band) s = .next t ∧ t.bit aMonVin 0 = true
      ∧ t.power = { s.power with vin := if band then .band else .above, waking := t.power.waking } := by
  obtain ⟨hbit, hpower, -⟩ := s.setVin_shows (if band then .band else .above) true
  refine ⟨s.setVin (if band then .band else .above) true, ?_, hbit, ?_⟩
  · show execVinRise band s = _
    rw [execVinRise, hp]
  · rcases hpower with h | h
    · rw [h]
    · rw [h]

/-- The registers and the reserve at the start of a boot. -/
def State.bootBegun (s : State) : State :=
  { s with
    regs := s.regs.filter (fun e => alwaysOn e.1)
    reserve := { offOut := s.reserve.offOut, offIn := s.reserve.offIn } }

theorem vinQualified_boots (hp : s.power.phase = .inputLow) (hv : s.power.vin = .above) :
    ∃ t, exec .vinQualified s = .next t ∧ t.power.phase = .regulators ∧ t.power.cause = 0 ∧ t.power.recallDue = true
      ∧ t.bit aMonVin 0 = true ∧ t.bit aMonVin 1 = false ∧ t.fld aMonVin 31 16 = 0 ∧ t.fld aRstCause 2 0 = 0
      ∧ (∀ a, a ∉ [aMonVin, aClkStat, aRstCause] → t.reg a = resetWord a) := by
  obtain ⟨u, hu⟩ : ∃ u : State, u = s.bootBegun := ⟨_, rfl⟩
  obtain ⟨v, hvv⟩ : ∃ v : State, v = ((u.setFld aMonVin 31 16 0).setBit aMonVin 1 false).setBit aMonVin 0 true := ⟨_, rfl⟩
  have hexec : exec .vinQualified s = .next { v.setFld aRstCause 2 0 0 with power := { v.power with
      phase := .regulators, cause := 0, recallDue := true, recalled := false, xFailed := false, aoFailed := false } } := by
    rw [hvv, hu]
    exact congrArg Host.Outcome.next (if_neg (by rw [hp, hv]; decide))
  have hmon : ∀ t : State, t.regs = (v.setFld aRstCause 2 0 0).regs → t.reg aMonVin = v.reg aMonVin := fun t h =>
    (State.reg_congr h _).trans (v.reg_setFld_ne (by decide) _ _ _)
  refine ⟨_, hexec, rfl, rfl, rfl, ?_, ?_, ?_, ?_, fun a ha => ?_⟩
  · refine (State.bit_congr (hmon _ rfl) 0).trans ?_
    rw [hvv]
    exact State.bit_setBit_self _ _ (by decide) _
  · refine (State.bit_congr (hmon _ rfl) 1).trans ?_
    rw [hvv, State.bit_setBit_other _ _ (by decide) (by decide)]
    exact State.bit_setBit_self _ _ (by decide) _
  · refine (congrArg (wfld · 31 16) (hmon _ rfl)).trans ?_
    rw [hvv, ← State.fld, State.fld_setBit_ne _ _ (by decide) (by decide), State.fld_setBit_ne _ _ (by decide) (by decide),
      u.fld_setFld_self aMonVin 0 (by decide) (by decide), Nat.zero_mod]
  · exact v.fld_setFld_self aRstCause 0 (by decide) (by decide)
  · simp only [List.mem_cons, List.not_mem_nil, or_false, not_or] at ha
    obtain ⟨hm, hc, hr⟩ := ha
    have hcold : u.reg a = resetWord a := by
      have hnot : alwaysOn a = false := by simp [alwaysOn, hm, hc, hr]
      rw [hu, State.bootBegun, State.reg]
      simp only [look_filter_key, hnot]
      rfl
    refine (State.reg_congr (s := v.setFld aRstCause 2 0 0) rfl a).trans ?_
    rw [v.reg_setFld_ne hr, hvv, State.reg_setBit_ne _ hm, State.reg_setBit_ne _ hm, u.reg_setFld_ne hm, hcold]

theorem vinBandMs_counts (hp : s.power.phase = .inputLow) :
    ∃ t, exec .vinBandMs s = .next t ∧ s.RegsBecome [aMonVin] { t with power := s.power }
      ∧ t.power = { s.power with vin := .band } ∧ t.fld aMonVin 31 16 = min (s.fld aMonVin 31 16 + 1) 65535
      ∧ t.bit aMonVin 2 = (s.bit aMonVin 2 || s.fld aMonVin 31 16 == 99) := by
  obtain ⟨u, hu⟩ : ∃ u : State, u = { s with power := { s.power with vin := .band } } := ⟨_, rfl⟩
  obtain ⟨n, hn⟩ : ∃ n, n = satInc 16 (s.fld aMonVin 31 16) := ⟨_, rfl⟩
  have hfld : (u.setFld aMonVin 31 16 n).fld aMonVin 31 16 = min (s.fld aMonVin 31 16 + 1) 65535 := by
    rw [u.fld_setFld_self aMonVin n (by decide) (by decide), hn, satInc_16]
    exact Nat.mod_eq_of_lt (by omega)
  have hbit : (u.setFld aMonVin 31 16 n).bit aMonVin 2 = s.bit aMonVin 2 := by
    rw [State.bit_setFld_ne _ _ _ (by decide) (by decide), hu]
    rfl
  have hexec : exec .vinBandMs s = .next (if n = 100 then (u.setFld aMonVin 31 16 n).setBit aMonVin 2 true
      else u.setFld aMonVin 31 16 n) := by
    show execVinBandMs s = _
    rw [execVinBandMs, hp, hn, hu]
  have hn100 : n = 100 ↔ s.fld aMonVin 31 16 = 99 := by
    rw [hn, satInc_16]
    omega
  have hpower : u.power = { s.power with vin := .band } := by rw [hu]
  have hregs : ∀ {t : State}, u.RegsBecome [aMonVin] t → s.RegsBecome [aMonVin] { t with power := s.power } := fun h => by
    subst hu
    refine ⟨?_, h.2⟩
    rw [h.1]
  refine ⟨_, hexec, ?_, ?_, ?_, ?_⟩
  · split
    · exact hregs ((u.setFld_regsBecome _ _ _ _).next (State.setBit_regsBecome _ _ _ _))
    · exact hregs (u.setFld_regsBecome _ _ _ _)
  · split
    · exact hpower
    · exact hpower
  · split
    · rw [State.fld_setBit_ne _ _ (by decide) (by decide), hfld]
    · exact hfld
  · split
    · next h =>
      rw [State.bit_setBit_self _ _ (by decide), hn100.1 h, beq_self_eq_true, Bool.or_true]
    · next h =>
      rw [hbit, beq_eq_false_iff_ne.2 (mt hn100.2 h), Bool.or_false]

end

/-- Settles O41: VIN falls, qualifies low in each phase of the device, rises, and qualifies for a boot. -/
theorem inputSupervision : Obligations.InputSupervision := by
  unfold Obligations.InputSupervision
  exact fun s => ⟨vinFall_falls, vinLowQualified_fails, vinLowQualified_asleep, vinLowQualified_clears,
    vinLowQualified_powersDown, vinRise_shows, vinQualified_boots, vinBandMs_counts⟩

end Sys2Proof.Machine
end

section
/-! PROOFS. Power states, wakes, clock failures and thermal limits (O43). -/

namespace Sys2Proof.Machine
open Sys2Proof

section
variable {s : State}

/-! Power states -/

theorem State.startWake_wakes (s : State) :
    s.startWake = { s with power := { s.power with waking := s.power.waking || s.asleep } } := by
  have hp := s.startWake_power
  unfold State.startWake at hp ⊢
  split
  · next h => rw [h, Bool.or_true]
  · next h => rw [Bool.eq_false_iff.mpr h, Bool.or_false]

/-- Where a deeper power state begins, it begins now. -/
structure State.StateEntered (s t : State) : Prop where
  fields : t = { s with
    regs := t.regs, power := { s.power with state := t.power.state, since := t.power.since, seen := t.power.seen } }
  regs : ∀ a, a ≠ aClkStat → t.reg a = s.reg a
  begins : t.power.state ≠ s.power.state → t.power.since = s.cycle ∧ t.power.seen = s.watched
    ∧ (t.power.state = .hibernate → t.bit aClkStat 29 = false)

theorem State.enterState_entered (s : State) (x : PowerState) :
    (s.enterState x).power.state = x ∧ s.StateEntered (s.enterState x) := by
  unfold State.enterState
  dsimp only
  split
  · exact ⟨rfl, rfl, fun a ha => State.reg_setBit_ne _ ha _ _, fun _ => ⟨rfl, rfl, fun _ =>
      State.bit_setBit_self _ _ (by decide) _⟩⟩
  · next h => exact ⟨rfl, rfl, fun _ _ => rfl, fun _ => ⟨rfl, rfl, fun he => absurd (beq_iff_eq.2 (show x = _ from he)) h⟩⟩

theorem enterPowerState_enters (hp : s.power.phase = .run) (hw : s.power.waking = false) (hd : s.deepest ≠ 0) :
    ∃ t, exec (.enterPowerState false) s = .next t
      ∧ t.power.state = (match s.sleepChoice with
        | some x => if x.code ≤ s.power.state.code then s.power.state else x
        | none => s.power.state) ∧ s.StateEntered t := by
  have hstay : s.StateEntered s := ⟨rfl, fun _ _ => rfl, fun h => absurd rfl h⟩
  have hexec : exec (.enterPowerState false) s = .next (match s.sleepChoice with
      | none => s
      | some x => if x.code ≤ s.power.state.code then s else s.enterState x) := by
    refine congrArg Host.Outcome.next ((if_neg Bool.false_ne_true).trans (if_neg ?_))
    simp [hp, hw, hd]
  cases hc : s.sleepChoice with
  | none => exact ⟨s, hexec.trans (by rw [hc]), rfl, hstay⟩
  | some x =>
    rw [hc] at hexec
    by_cases hx : x.code ≤ s.power.state.code
    · exact ⟨s, hexec.trans (congrArg Host.Outcome.next (if_pos hx)), (if_pos hx).symm, hstay⟩
    · obtain ⟨hst, hent⟩ := s.enterState_entered x
      exact ⟨_, hexec.trans (congrArg Host.Outcome.next (if_neg hx)), hst.trans (if_neg hx).symm, hent⟩

theorem wakeStart_wakes (k : WakeKind) : (s.wakeSource k = true →
      ∃ t, exec (.wakeStart k) s = .next t ∧ t = { s with power := { s.power with waking := s.power.waking || s.asleep } })
    ∧ (s.wakeSource k = false → exec (.wakeStart k) s = .next s) :=
  ⟨fun h => ⟨_, congrArg Host.Outcome.next (if_pos h), s.startWake_wakes⟩,
    fun h => congrArg Host.Outcome.next (if_neg (by rw [h]; exact Bool.false_ne_true))⟩

/-! The end of a wake -/

/-- The device is in RUN again. -/
def State.woken (s : State) : State :=
  let s := if s.power.state == .hibernate then s.setBit aClkStat 29 true else s
  { s with power := { s.power with state := .run, waking := false } }

theorem State.woken_shows (s : State) : s.woken = { s with
      regs := s.woken.regs, power := { s.power with state := .run, waking := false } }
    ∧ (∀ a, a ≠ aClkStat → s.woken.reg a = s.reg a)
    ∧ (s.power.state = .hibernate → s.woken.bit aClkStat 29 = true) := by
  unfold State.woken
  dsimp only
  split
  · exact ⟨rfl, fun a ha => s.reg_setBit_ne ha _ _, fun _ => s.bit_setBit_self aClkStat (by decide) true⟩
  · next h => exact ⟨rfl, fun _ _ => rfl, fun he => absurd (by rw [he]; rfl) h⟩

theorem execWakeComplete_ends (hwk : s.power.waking = true) (hw : HwBits) : exec (.wakeComplete hw []) s = .next
    (if s.power.failDue then s.woken.lateActions.powerFailStart else s.woken.lateActions.runHeld hw) := by
  have hdue : s.woken.lateActions.power.failDue = s.power.failDue := by
    rw [s.woken.lateActions_done.fields, s.woken_shows.1]
  rw [← hdue]
  exact congrArg Host.Outcome.next (if_neg (by rw [hwk]; decide))

theorem State.runHeld_none (h : s.power.held = []) (hw : HwBits) : s.runHeld hw = s := by
  have hself : ({ s with power := { s.power with held := [] } } : State) = s := by rw [← h]
  rw [State.runHeld, hself, h]
  rfl

/-- A wake that ends in a device with no frame held. -/
theorem wakeComplete_awake (hwk : s.power.waking = true) (hheld : s.power.held = []) (hdue : s.power.failDue = false)
    (hw : HwBits) : exec (.wakeComplete hw []) s = .next s.woken.lateActions
      ∧ s.woken.lateActions.power = { s.power with state := .run, waking := false } := by
  have hpower : s.woken.lateActions.power = { s.power with state := .run, waking := false } := by
    rw [s.woken.lateActions_done.fields, s.woken_shows.1]
  rw [execWakeComplete_ends hwk, hdue, if_neg Bool.false_ne_true, State.runHeld_none (by rw [hpower]; exact hheld)]
  exact ⟨rfl, hpower⟩

theorem State.lateActions_none (hc : s.protect.lateClose = false) (he : s.protect.lateErase = false) :
    s.lateActions = s := by
  rw [State.lateActions_eq, hc, he]
  obtain ⟨p, hp⟩ : ∃ p, p = s.protect := ⟨_, rfl⟩
  have hself : ({ p with lateClose := false, lateErase := false } : Protect) = p := by
    rw [← hp] at hc he
    cases p
    cases hc
    cases he
    rfl
  show ({ s with protect := { s.protect with lateClose := false, lateErase := false } } : State) = s
  rw [← hp, hself, hp]

theorem wakeComplete_quiet (hwk : s.power.waking = true) (hw : HwBits) (hc : s.protect.lateClose = false)
    (he : s.protect.lateErase = false) (hdue : s.power.failDue = false) (hheld : s.power.held = []) :
    ∃ t, exec (.wakeComplete hw []) s = .next t ∧ t.power = { s.power with state := .run, waking := false }
      ∧ t = { s with regs := t.regs, power := t.power } ∧ (∀ a, a ≠ aClkStat → t.reg a = s.reg a)
      ∧ (s.power.state = .hibernate → t.bit aClkStat 29 = true) := by
  obtain ⟨hexec, hpower⟩ := wakeComplete_awake hwk hheld hdue hw
  obtain ⟨hframe, hregs, hpll⟩ := s.woken_shows
  have hprotect : s.woken.protect = s.protect := by rw [hframe]
  rw [State.lateActions_none (by rw [hprotect]; exact hc) (by rw [hprotect]; exact he)] at hexec hpower
  exact ⟨_, hexec, hpower, by rw [hpower]; exact hframe, hregs, hpll⟩

theorem wakeComplete_late (hwk : s.power.waking = true) (hw : HwBits) (hheld : s.power.held = [])
    (hdue : s.power.failDue = false) :
    ∃ t, exec (.wakeComplete hw []) s = .next t ∧ t.power = { s.power with state := .run, waking := false }
      ∧ t.protect.lateClose = false ∧ t.protect.lateErase = false
      ∧ (s.protect.lateClose = true → ∀ p i, (t.sess p i).isOpen = false)
      ∧ (s.protect.lateErase = true → t.erasing = true) := by
  obtain ⟨hexec, hpower⟩ := wakeComplete_awake hwk hheld hdue hw
  have hlate := s.woken.lateActions_done
  have hprotect : s.woken.protect = s.protect := by rw [s.woken_shows.1]
  exact ⟨_, hexec, hpower, hlate.late.1, hlate.late.2, fun h => hlate.closed (by rw [hprotect]; exact h),
    fun h => hlate.erases (by rw [hprotect]; exact h)⟩

/-- Actions that have been taken are taken no second time. -/
theorem State.lateActions_again (s : State) : s.lateActions.lateActions = s.lateActions :=
  State.lateActions_none s.lateActions_done.late.1 s.lateActions_done.late.2

theorem wakeComplete_fails (hwk : s.power.waking = true) (hw : HwBits) (hdue : s.power.failDue = true) :
    ∃ t, exec (.wakeComplete hw []) s = .next t ∧ t.power.phase = .powerFail ∧ t.power.held = []
      ∧ t.keeper.locked = true ∧ (s.protect.lateClose = true → ∀ p i, (t.sess p i).isOpen = false)
      ∧ (s.protect.lateErase = true → t.erasing = true) := by
  have hlate := s.woken.lateActions_done
  have hprotect : s.woken.protect = s.protect := by rw [s.woken_shows.1]
  have hfail := s.woken.lateActions.powerFailStart_failing
  rw [State.lateActions_again] at hfail
  refine ⟨_, (execWakeComplete_ends hwk hw).trans (congrArg Host.Outcome.next (if_pos hdue)), hfail.phase, hfail.held,
    hfail.storing.1, fun h p i => ?_, fun h => ?_⟩
  · rw [hfail.sessions]
    exact hlate.closed (by rw [hprotect]; exact h) p i
  · rw [hfail.erasing]
    exact hlate.erases (by rw [hprotect]; exact h)

/-- Causes of different places act in the order of R551, in whichever order they are told. -/
theorem State.secEvents_swap {e f : SecEvent} (h : secOrder e ≠ secOrder f) (s : State) :
    s.secEvents [e, f] = s.secEvents [f, e] := by
  have hplace : ∀ k, [e, f].filter (fun x => secOrder x == k) = [f, e].filter (fun x => secOrder x == k) := fun k => by
    by_cases he : secOrder e = k
    · have hf : secOrder f ≠ k := fun hf => h (he.trans hf.symm)
      simp [List.filter, he, beq_eq_false_iff_ne.2 hf]
    · simp [List.filter, beq_eq_false_iff_ne.2 he]
  unfold State.secEvents
  simp only [hplace]

theorem wakeComplete_swap (s : State) (hw : HwBits) {e f : SecEvent} (h : secOrder e ≠ secOrder f) :
    exec (.wakeComplete hw [e, f]) s = exec (.wakeComplete hw [f, e]) s := by
  show execWakeComplete hw [e, f] s = execWakeComplete hw [f, e] s
  simp only [execWakeComplete, State.secEvents_swap h]

/-! Clock failures -/

/-- Raises that follow a change of power, of the ring and of registers of other blocks. -/
theorem State.raised_cycleOf {s u : State} (l : List Raise) (hu : u = { s with regs := u.regs, ring := u.ring, power := u.power })
    (hregs : ∀ a, ownReg a → u.reg a = s.reg a) :
    s.CycleOf [] [] { u.raiseAll l with power := s.power }
      ∧ (u.raiseAll l).power = { u.power with waking := (u.raiseAll l).power.waking } := by
  obtain ⟨hfields, hchans, hown⟩ := (State.raiseAll_collects u l false (Collects.rfl' u)).cycleOf
  generalize u.raiseAll l = t at hfields hchans hown ⊢
  refine ⟨⟨?_, fun q hq => ?_, fun a ha hn => (hown a ha hn).trans (hregs a ha)⟩, congrArg State.power hfields⟩
  · conv_lhs => rw [hfields, hu]
  · have hq' := hchans q hq
    have hch : u.ch q = s.ch q := by
      rw [hu]
      rfl
    rw [hch] at hq'
    exact hq'

theorem ownReg_clkStat {a : Nat} (h : ownReg a) : a ≠ aClkStat ∧ a ≠ aRngStat ∧ a ≠ aPwrStat := by
  have hc : ¬ ownReg aClkStat ∧ ¬ ownReg aRngStat ∧ ¬ ownReg aPwrStat := by
    unfold ownReg
    decide
  exact ⟨fun e => hc.1 (e ▸ h), fun e => hc.2.1 (e ▸ h), fun e => hc.2.2 (e ▸ h)⟩

/-- A clock is lost: its status bit is cleared, its flag set. -/
def State.clockLost (s : State) (on flag : Nat) : State := (s.setBit aClkStat on false).orReg aClkStat (bitw flag)

theorem State.clockLost_shows (s : State) {on flag : Nat} (hon : on < 32) (hflag : flag < 29) (hlt : flag < on) :
    (s.clockLost on flag).bit aClkStat on = false ∧ (s.clockLost on flag).bit aClkStat flag = true
      ∧ s.RegsBecome [aClkStat] (s.clockLost on flag) := by
  refine ⟨?_, State.bit_orReg_self _ _ (by omega), (s.setBit_regsBecome _ _ _).next (State.orReg_regsBecome _ _ _)⟩
  rw [State.clockLost, State.bit_orReg_ne _ _ (by omega), State.bit_setBit_self _ _ hon]

theorem aoCrystalFail_fails (hp : s.power.phase ≠ .unpowered) (hb : s.bit aClkStat 30 = true) :
    ∃ t, exec .aoCrystalFail s = .next t ∧ t.bit aClkStat 30 = false ∧ t.bit aClkStat 1 = true
      ∧ t.power = { s.power with aoFailed := true, waking := t.power.waking }
      ∧ s.CycleOf [] [] { t with power := s.power } := by
  obtain ⟨hoff, hflag, hregs⟩ := s.clockLost_shows (on := 30) (flag := 1) (by decide) (by decide) (by decide)
  obtain ⟨u, hu⟩ : ∃ u : State, u = { s.clockLost 30 1 with power := { s.power with aoFailed := true } } := ⟨_, rfl⟩
  have hreg : ∀ a, u.reg a = (s.clockLost 30 1).reg a := State.reg_congr (by rw [hu])
  obtain ⟨hcycle, hpower⟩ := State.raised_cycleOf (s := s) (u := u) [{ src := srcClockFail }]
    (by rw [hu, State.clockLost]; rfl) (fun a ha => (hreg a).trans (hregs.2 a (by simp [ownReg_clkStat ha])))
  have hstat := (u.raiseAll_reports [{ src := srcClockFail }] false).regs aClkStat (by unfold reportReg; decide)
  refine ⟨u.raiseAll [{ src := srcClockFail }], ?_, ?_, ?_, ?_, hcycle⟩
  · rw [hu]
    exact congrArg Host.Outcome.next (if_neg (by simp [hp, hb]))
  · exact (State.bit_congr (hstat.trans (hreg _)) _).trans hoff
  · exact (State.bit_congr (hstat.trans (hreg _)) _).trans hflag
  · rw [hpower, hu]

theorem pllLockLoss_fails (hp : s.supplied = true) (hb : s.bit aClkStat 29 = true) :
    ∃ t, exec .pllLockLoss s = .next t ∧ t.bit aClkStat 29 = false ∧ t.bit aClkStat 0 = true ∧ s.CycleOf [] [] t := by
  obtain ⟨hoff, hflag, hregs⟩ := s.clockLost_shows (on := 29) (flag := 0) (by decide) (by decide) (by decide)
  have hstat := ((s.clockLost 29 0).raiseAll_reports [{ src := srcClockFail }] false).regs aClkStat (by unfold reportReg; decide)
  have hlost : s.CycleOf [] [] (s.clockLost 29 0) :=
    ⟨rfl, fun _ _ => rfl, fun a ha _ => hregs.2 a (by simp [ownReg_clkStat ha])⟩
  exact ⟨_, congrArg Host.Outcome.next (if_neg (by simp [hp, hb])), (State.bit_congr hstat _).trans hoff,
    (State.bit_congr hstat _).trans hflag, hlost.trans (State.raiseAll_collects _ _ false (Collects.rfl' _)).cycleOf⟩

theorem pllLockReturn_returns (hp : s.powered = true ∨ (s.power.phase = .inReset ∧ s.power.recallDue = false))
    (hs : s.power.state ≠ .hibernate) :
    ∃ t, exec .pllLockReturn s = .next t ∧ s.RegsBecome [aClkStat] t ∧ t.bit aClkStat 29 = true := by
  refine ⟨_, congrArg Host.Outcome.next (if_pos ?_), s.setBit_regsBecome _ _ _, s.bit_setBit_self aClkStat (by decide) true⟩
  rcases hp with hp | ⟨hp, hr⟩
  · simp [hp, hs]
  · simp [hp, hr, hs]

/-- The reference crystal is lost, before the time master gives up its role. -/
def State.crystalLost (s : State) : State :=
  { s.clockLost 31 2 with power := { s.power with xFailed := true }, ring := { s.ring with good := 0 } }

/-- A node without the reference crystal is synchronised no more, and no time master. -/
def State.syncLost (s : State) (sync : Bool) : State :=
  (if sync then (s.setBit aRngStat 31 false).orReg aRngStat (bitw 1) else s).leaveMaster

theorem State.syncLost_shows {s : State} {sync : Bool} (hsync : s.bit aRngStat 31 = sync) :
    (s.syncLost sync).bit aRngStat 31 = false ∧ (s.syncLost sync).bit aRngStat 30 = false
      ∧ s.syncLost sync = { s with regs := (s.syncLost sync).regs, ring := (s.syncLost sync).ring }
      ∧ ∀ a, a ≠ aRngStat → (s.syncLost sync).reg a = s.reg a := by
  have hleave : ∀ u : State, u.bit aRngStat 31 = false → u.leaveMaster.bit aRngStat 31 = false
      ∧ u.leaveMaster.bit aRngStat 30 = false
      ∧ u.leaveMaster = { u with regs := u.leaveMaster.regs, ring := u.leaveMaster.ring }
      ∧ ∀ a, a ≠ aRngStat → u.leaveMaster.reg a = u.reg a := fun u h => by
    unfold State.leaveMaster
    split
    · refine ⟨State.bit_setBit_self (u.setBit aRngStat 30 false) aRngStat (by decide) false, ?_, rfl, fun a ha => ?_⟩
      · exact (State.bit_setBit_other (u.setBit aRngStat 30 false) aRngStat (by decide) (by decide) false).trans
          (State.bit_setBit_self _ _ (by decide) _)
      · exact (State.reg_setBit_ne (u.setBit aRngStat 30 false) ha _ _).trans (State.reg_setBit_ne _ ha _ _)
    · next h30 => exact ⟨h, by simpa using h30, rfl, fun _ _ => rfl⟩
  unfold State.syncLost
  cases sync
  · exact hleave s hsync
  · rw [if_pos rfl]
    obtain ⟨h1, h2, h3, h4⟩ := hleave ((s.setBit aRngStat 31 false).orReg aRngStat (bitw 1)) (by
      rw [State.bit_orReg_ne _ _ (by decide), State.bit_setBit_self _ _ (by decide)])
    exact ⟨h1, h2, h3, fun a ha => (h4 a ha).trans ((State.reg_orReg_ne _ ha _).trans (State.reg_setBit_ne _ ha _ _))⟩

theorem referenceCrystalFail_fails (hp : s.supplied = true) (hb : s.bit aClkStat 31 = true) :
    ∃ t, exec .referenceCrystalFail s = .next t ∧ t.bit aClkStat 31 = false ∧ t.bit aClkStat 2 = true
      ∧ t.power = { s.power with xFailed := true, waking := t.power.waking } ∧ t.bit aRngStat 31 = false
      ∧ t.bit aRngStat 30 = false ∧ s.CycleOf [] [] { t with power := s.power } := by
  obtain ⟨hoff, hflag, hregs⟩ := s.clockLost_shows (on := 31) (flag := 2) (by decide) (by decide) (by decide)
  have hring : s.crystalLost.bit aRngStat 31 = s.bit aRngStat 31 := State.bit_congr (hregs.2 _ (by decide)) 31
  obtain ⟨h31, h30, hframe, hother⟩ := State.syncLost_shows hring
  obtain ⟨u, hu⟩ : ∃ u : State, u = s.crystalLost.syncLost (s.bit aRngStat 31) := ⟨_, rfl⟩
  obtain ⟨l, hl⟩ : ∃ l : List Raise, l = (if s.bit aRngStat 31 then [{ src := srcSyncLoss }] else [])
    ++ [{ src := srcClockFail }] := ⟨_, rfl⟩
  have hexec : exec .referenceCrystalFail s = .next (u.raiseAll l) := by
    rw [hu, hl]
    exact congrArg Host.Outcome.next (if_neg (by simp [hp, hb]))
  rw [← hu] at h31 h30 hframe hother
  have hclk : u.reg aClkStat = (s.clockLost 31 2).reg aClkStat := hother _ (by decide)
  have hrep := (u.raiseAll_reports l false).regs
  obtain ⟨hcycle, hpower⟩ := State.raised_cycleOf (s := s) (u := u) l (by rw [hframe]; rfl) (fun a ha =>
    (hother a (ownReg_clkStat ha).2.1).trans (hregs.2 a (by simp [ownReg_clkStat ha])))
  refine ⟨_, hexec, ?_, ?_, ?_, ?_, ?_, hcycle⟩
  · exact (State.bit_congr ((hrep _ (by unfold reportReg; decide)).trans hclk) 31).trans hoff
  · exact (State.bit_congr ((hrep _ (by unfold reportReg; decide)).trans hclk) 2).trans hflag
  · rw [hpower, hframe]
    rfl
  · exact (State.bit_congr (hrep _ (by unfold reportReg; decide)) 31).trans h31
  · exact (State.bit_congr (hrep _ (by unfold reportReg; decide)) 30).trans h30

/-! Heat -/

theorem thermalWarning_warns (hc : s.configured = true) (ha : s.power.warnArmed = true) :
    ∃ t, exec .thermalWarning s = .next t ∧ t.bit aPwrStat 3 = true
      ∧ t.power = { s.power with warnArmed := false, waking := t.power.waking }
      ∧ s.CycleOf [] [] { t with power := s.power } := by
  obtain ⟨u, hu⟩ : ∃ u : State, u = { s.setBit aPwrStat 3 true with power := { s.power with warnArmed := false } } := ⟨_, rfl⟩
  have hreg : ∀ a, u.reg a = (s.setBit aPwrStat 3 true).reg a := State.reg_congr (by rw [hu])
  obtain ⟨hcycle, hpower⟩ := State.raised_cycleOf (s := s) (u := u) [{ src := srcThermal }] (by rw [hu]; rfl)
    (fun a h => (hreg a).trans (s.reg_setBit_ne (ownReg_clkStat h).2.2 _ _))
  have hstat := (u.raiseAll_reports [{ src := srcThermal }] false).regs aPwrStat (by unfold reportReg; decide)
  refine ⟨u.raiseAll [{ src := srcThermal }], ?_, ?_, ?_, hcycle⟩
  · rw [hu]
    exact congrArg Host.Outcome.next (if_neg (by simp [hc, ha]))
  · exact (State.bit_congr (hstat.trans (hreg _)) 3).trans (s.bit_setBit_self aPwrStat (by decide) true)
  · rw [hpower, hu]

/-- The rails with an integrated stage. -/
def integratedRails : List Rail := allRails.filter (fun r => !isExt r)

theorem mem_integratedRails {r : Rail} : r ∈ integratedRails ↔ isExt r = false := by
  simp [integratedRails, allRails]

/-- The die is too hot: the state before its cycle. -/
def State.overheated (s : State) : State := { s.setBit aPwrStat 2 true with power := { s.power with hot := true } }

theorem thermalShutdown_sheds (hc : s.configured = true) :
    ∃ t, exec .thermalShutdown s = .next t ∧ t.bit aPwrStat 2 = true
      ∧ t.power = { s.power with hot := true, waking := t.power.waking }
      ∧ (∀ r, isExt r = false → s.use r = true → (s.ch r).st = .on → (t.ch r).st = .falling)
      ∧ ∀ r, isExt r = true → t.ch r = { s.ch r with perturb := (t.ch r).perturb } := by
  have hdis := Cyc.hits_disable (c := { s := s.overheated }) rfl (l := integratedRails) (allRails_nodup.filter _)
  obtain ⟨c, hcc⟩ : ∃ c : Cyc, c = Cyc.hits { s := s.overheated }
    (integratedRails.map (fun r => { rail := r, cause := .disable })) := ⟨_, rfl⟩
  have hexec : exec .thermalShutdown s = .next c.finish := by
    rw [hcc]
    exact congrArg Host.Outcome.next (if_neg (by simp [hc]))
  rw [← hcc] at hdis
  obtain ⟨hfields, hchans, -⟩ := Cyc.finish_acts (inj := false) hdis.cycle hdis.groupOff
  have hkept := fun r => (Cyc.finish_cycleOf c hdis.groupOff false).rail (q := r) List.not_mem_nil
  have hstat : c.finish.reg aPwrStat = s.overheated.reg aPwrStat :=
    ((Cyc.finish_reports hdis.groupOff false).1 _ (by unfold reportReg; decide)).trans
      (hdis.others.regs _ (not_railReg_of_le (by decide)) (by unfold reportReg; decide))
  refine ⟨_, hexec, ?_, congrArg State.power hfields, fun r hi hu hst => ?_, fun r hx => ?_⟩
  · exact (State.bit_congr hstat 2).trans (s.bit_setBit_self aPwrStat (by decide) true)
  · have huse : s.overheated.use r = true := by
      rw [← hu]
      exact State.bit_congr (s.reg_setBit_ne (ownReg_clkStat (ownReg_aCh r (by decide))).2.2 _ _) 29
    refine (congrArg Chan.st (hkept r)).trans (hdis.falls r (mem_integratedRails.2 hi) huse ?_)
    rw [RailState.running, show (s.overheated.rail r).st = .on from hst]
    simp
  · exact hchans r (fun h => by rw [mem_integratedRails.1 h] at hx; exact Bool.false_ne_true hx)

theorem thermalRearm_rearms (hc : s.configured = true) :
    ∃ t, exec .thermalRearm s = .next t ∧ t.power = { s.power with warnArmed := true, hot := false }
      ∧ t.bit aPwrStat 3 = false ∧ t = { s with regs := t.regs, power := t.power }
      ∧ ∀ a, a ≠ aPwrStat → t.reg a = s.reg a :=
  ⟨_, congrArg Host.Outcome.next (if_neg (by simp [hc])), rfl, s.bit_setBit_self aPwrStat (by decide) false, rfl,
    fun _ ha => s.reg_setBit_ne ha _ _⟩

end

/-- Settles O43: power states and wakes, clock failures and heat. -/
theorem powerStatesAndClocks : Obligations.PowerStatesAndClocks := by
  unfold Obligations.PowerStatesAndClocks
  refine ⟨fun s hp hw hd => ?_, fun s => ⟨_, rfl, s.startWake_wakes⟩, fun s k => wakeStart_wakes k, fun s hw hwk => ⟨
    wakeComplete_quiet hwk hw, wakeComplete_late hwk hw, wakeComplete_fails hwk hw⟩, fun s hw e f h => wakeComplete_swap s hw h,
    fun s => referenceCrystalFail_fails, fun s => aoCrystalFail_fails, fun s => ⟨pllLockLoss_fails, pllLockReturn_returns⟩,
    fun s hc => ⟨thermalWarning_warns hc, thermalShutdown_sheds hc, thermalRearm_rearms hc⟩⟩
  obtain ⟨t, hexec, hst, hent⟩ := enterPowerState_enters hp hw hd
  exact ⟨t, hexec, hst, hent.begins, hent.regs, hent.fields⟩

end Sys2Proof.Machine
end

section
/-! SUPPORT. The records of the fault log: embers, their headers and event entries (R289 to R291, R368 to R374). -/

namespace Sys2Proof.Machine
open Sys2Proof

/-! Words and records -/

theorem State.sramWord_congr {s t : State} {a : Nat} (h : t.bytes a 4 = s.bytes a 4) : t.sramWord a = s.sramWord a := by
  rw [State.sramWord, h, State.sramWord]

/-- A word at the start of what is written. -/
theorem State.sramWord_poke (s : State) (a k : Nat) (w : Word) {l m : List Byte} (hk : l.length = k) :
    (s.poke a (l ++ (wordBytes w ++ m))).sramWord (a + k) = w := by
  subst hk
  have h4 : (wordBytes w).length = 4 := rfl
  rw [State.sramWord, s.bytes_poke_sub a _ l.length 4 (by simp [h4]), List.drop_left, List.take_left' h4,
    leWord_wordBytes]

section
variable (s : State) (slot : Nat)

theorem State.sealRec_bytes {c n : Nat} (h : c + n ≤ recBase slot + 0x3FC ∨ recBase slot + 0x400 ≤ c) :
    (s.sealRec slot).bytes c n = s.bytes c n :=
  s.bytes_poke_ne _ (h.imp id (fun h => h))

theorem State.sealRec_byte {c : Nat} (h : c < recBase slot + 0x3FC ∨ recBase slot + 0x400 ≤ c) :
    (s.sealRec slot).byte c = s.byte c :=
  s.byte_poke_ne _ _ _ (h.imp id (fun h => h))

/-- The CRC of a sealed record passes. -/
theorem State.sealRec_seals :
    (s.sealRec slot).sramWord (recBase slot + 0x3FC) = crc32 ((s.sealRec slot).bytes (recBase slot) 0x3FC) := by
  rw [s.sealRec_bytes slot (.inl (Nat.le_refl _))]
  have h := s.sramWord_poke (recBase slot + 0x3FC) 0 (crc32 (s.bytes (recBase slot) 0x3FC)) (l := []) (m := []) rfl
  rw [List.append_nil] at h
  exact h

theorem State.sealRec_frame : s.sealRec slot = { s with
    sram := (s.sealRec slot).sram, keeper := { s.keeper with dirty := (s.sealRec slot).keeper.dirty } } :=
  State.poke_frame _ _ _

end

theorem State.recValid_congr {s t : State} (h : t.sram = s.sram) (slot : Nat) : t.recValid slot = s.recValid slot := by
  have hb : ∀ c n, t.bytes c n = s.bytes c n := fun c n => State.bytes_congr fun i _ => State.byte_congr h _
  simp only [State.recValid, State.sramWord, hb]

/-! A new record -/

/-- What a new record shows. -/
structure State.Recorded (s : State) (magic : Word) (t : State) : Prop where
  valid : magic = 0x4B500001 ∨ magic = 0x4B500002 → t.recValid s.logNext = true
  magic : t.sramWord (recBase s.logNext) = magic
  seq : t.reg aLogSeq = if s.bit aLogIdx 31 then s.reg aLogSeq + 1 else 1
  fields : t = { s with
    regs := t.regs, sram := t.sram, faults := { s.faults with ember := t.faults.ember }
    keeper := { s.keeper with dirty := t.keeper.dirty } }

section
variable (s : State) (magic : Word) (body : List Byte)

/-- The sequence number of the next record. -/
def State.nextSeq : Word := if s.bit aLogIdx 31 then s.reg aLogSeq + 1 else 1

/-- The next record has been written and sealed. -/
def State.recWritten : State :=
  (s.poke (recBase s.logNext) (wordBytes magic ++ wordBytes s.nextSeq ++ body)).sealRec s.logNext

theorem State.newRecord_eq (isOpen : Bool) : ∃ b w, s.newRecord magic body isOpen
    = (({ s.recWritten magic body with faults := { (s.recWritten magic body).faults with ember := b } } : State).setReg aLogSeq s.nextSeq).setReg aLogIdx w := ⟨_, _, rfl⟩

theorem State.recWritten_shows :
    (magic = 0x4B500001 ∨ magic = 0x4B500002 → (s.recWritten magic body).recValid s.logNext = true)
      ∧ (s.recWritten magic body).sramWord (recBase s.logNext) = magic
      ∧ s.recWritten magic body = { s with
        sram := (s.recWritten magic body).sram
        keeper := { s.keeper with dirty := (s.recWritten magic body).keeper.dirty } } := by
  have hframe := s.poke_frame (wordBytes magic ++ wordBytes s.nextSeq ++ body) (recBase s.logNext)
  have hword : (s.poke (recBase s.logNext) (wordBytes magic ++ wordBytes s.nextSeq ++ body)).sramWord (recBase s.logNext)
      = magic := by
    rw [List.append_assoc]
    exact s.sramWord_poke (recBase s.logNext) 0 magic (l := []) rfl
  rw [State.recWritten]
  generalize s.poke (recBase s.logNext) (wordBytes magic ++ wordBytes s.nextSeq ++ body) = u at hframe hword ⊢
  have hmagic : (u.sealRec s.logNext).sramWord (recBase s.logNext) = magic :=
    (State.sramWord_congr (u.sealRec_bytes s.logNext (.inl (by omega)))).trans hword
  refine ⟨fun hm => ?_, hmagic, ?_⟩
  · rw [State.recValid, hmagic, u.sealRec_seals]
    rcases hm with rfl | rfl
    · simp
    · simp
  · have hseal := u.sealRec_frame s.logNext
    generalize u.sealRec s.logNext = v at hseal ⊢
    conv_lhs => rw [hseal, hframe]

theorem State.newRecord_recorded (isOpen : Bool) : s.Recorded magic (s.newRecord magic body isOpen) := by
  obtain ⟨f, w, hrec⟩ := s.newRecord_eq magic body isOpen
  obtain ⟨hvalid, hmagic, hframe⟩ := s.recWritten_shows magic body
  rw [hrec]
  generalize s.recWritten magic body = v at hvalid hmagic hframe ⊢
  refine ⟨fun hm => (State.recValid_congr rfl _).trans (hvalid hm), hmagic, ?_, ?_⟩
  · rw [State.reg_setReg_ne _ (by decide), State.reg_setReg_self, State.nextSeq]
  · obtain ⟨m, d, rfl⟩ : ∃ m d, v = { s with sram := m, keeper := { s.keeper with dirty := d } } := ⟨_, _, hframe⟩
    rfl

end

/-! An event entry -/

theorem takeOldest_mem {q r : List LogEntry} {m : LogEntry} (h : takeOldest q = some (m, r)) : m ∈ q := by
  induction q generalizing r with
  | nil => cases h
  | cons e q ih =>
    unfold takeOldest at h
    split at h
    · next m' r' hq =>
      split at h
      · cases h
        exact List.mem_cons_of_mem _ (ih hq)
      · cases h
        exact List.mem_cons_self
    · cases h
      exact List.mem_cons_self

/-- The first of the entries of the least ring time is taken. -/
theorem takeOldest_first {l q : List LogEntry} {e : LogEntry} (hl : ∀ x ∈ l, e.time < x.time) (hq : ∀ x ∈ q, e.time ≤ x.time) :
    takeOldest (l ++ e :: q) = some (e, l ++ q) := by
  induction l with
  | nil =>
    rw [List.nil_append, takeOldest]
    split
    · next m r h => rw [if_neg (Nat.not_lt.2 (BitVec.le_def.1 (hq m (takeOldest_mem h))))]; rfl
    · rfl
  | cons x l ih =>
    rw [List.cons_append, takeOldest, ih fun y hy => hl y (List.mem_cons_of_mem _ hy)]
    exact if_pos (BitVec.lt_def.1 (hl x List.mem_cons_self))

theorem LogEntry.bytes_length (e : LogEntry) : e.bytes.length = 16 := by
  simp [LogEntry.bytes, timeBytes]

/-- An entry of the open record, which is not full. -/
structure State.Appended (s : State) (e : List Byte) (t : State) : Prop where
  entry : t.bytes (recBase (s.fld aLogIdx 30 24) + 0x20 + 16 * (s.byte (recBase (s.fld aLogIdx 30 24) + 0x10)).toNat) 16 = e
  count : t.byte (recBase (s.fld aLogIdx 30 24) + 0x10) = s.byte (recBase (s.fld aLogIdx 30 24) + 0x10) + 1
  fields : t = { s with sram := t.sram, keeper := { s.keeper with dirty := t.keeper.dirty } }

theorem State.appendEntry_appended {s : State} {e : List Byte} (he : e.length = 16) (hopen : s.bit aLogIdx 15 = true)
    (hn : (s.byte (recBase (s.fld aLogIdx 30 24) + 0x10)).toNat < 61) : s.Appended e (s.appendEntry e) := by
  obtain ⟨slot, hslot⟩ : ∃ slot, slot = s.fld aLogIdx 30 24 := ⟨_, rfl⟩
  obtain ⟨n, hcount⟩ : ∃ n, n = (s.byte (recBase slot + 0x10)).toNat := ⟨_, rfl⟩
  rw [← hslot, ← hcount] at hn
  obtain ⟨u, hu⟩ : ∃ u, u = s.poke (recBase slot + 0x20 + 16 * n) e := ⟨_, rfl⟩
  obtain ⟨v, hv⟩ : ∃ v, v = u.poke (recBase slot + 0x10) [BitVec.ofNat 8 (n + 1)] := ⟨_, rfl⟩
  have hfull : (s.byte (recBase slot + 0x10) == 61) = false := by
    refine beq_eq_false_iff_ne.2 fun h => ?_
    rw [h] at hcount
    exact absurd hn (by rw [hcount]; decide)
  have happend : s.appendEntry e = v.sealRec slot := by
    unfold State.appendEntry
    simp only [← hslot, hopen, hfull, Bool.and_false, Bool.not_false, Bool.and_self, if_true]
    rw [hv, hu, hcount]
  have hu' := s.poke_frame e (recBase slot + 0x20 + 16 * n)
  have hv' := u.poke_frame [BitVec.ofNat 8 (n + 1)] (recBase slot + 0x10)
  rw [← hu] at hu'
  rw [← hv] at hv'
  rw [happend]
  refine ⟨?_, ?_, ?_⟩
  · rw [← hslot, ← hcount, v.sealRec_bytes slot (.inl (by omega)), hv,
      u.bytes_poke_ne _ (.inr (by simp only [List.length_singleton]; omega)), hu]
    have h := s.bytes_poke_self (recBase slot + 0x20 + 16 * n) e
    rw [he] at h
    exact h
  · rw [← hslot, v.sealRec_byte slot (.inl (by omega)), hv]
    have h := State.byte_poke_add [BitVec.ofNat 8 (n + 1)] u (recBase slot + 0x10) 0 (by simp)
    rw [Nat.add_zero] at h
    rw [h, hcount, List.getElem_singleton, BitVec.ofNat_add, BitVec.ofNat_toNat, BitVec.setWidth_eq]
    rfl
  · rw [State.sealRec_frame, hv', hu']

end Sys2Proof.Machine
end

section
/-! PROOFS. Embers, the event log and the collector's commands (O40). -/

namespace Sys2Proof.Machine
open Sys2Proof

section
variable {s : State}

/-! An ember that is complete -/

theorem State.logNext_lt (s : State) : s.logNext < 128 := by
  have hmod : ∀ x, x % 128 < 128 := fun x => Nat.mod_lt x (by decide)
  have hfirst : (if s.bit aLogIdx 31 then (s.fld aLogIdx 30 24 + 1) % 128 else 0) < 128 := by
    split
    · exact hmod _
    · decide
  unfold State.logNext
  generalize (if s.bit aLogIdx 31 then (s.fld aLogIdx 30 24 + 1) % 128 else 0) = n at hfirst
  dsimp only
  split
  · exact hmod _
  · exact hfirst

/-- FLT_EMBER and FLT_STAT of a collector that holds the ember of its slot. -/
def State.emberShown (s u : State) : State :=
  ((u.count 4).setReg aFltEmber (BitVec.ofNat 32 s.logNext)).setFld aFltStat 31 30 2

/-- The collector holds the ember of its slot. -/
def State.emberHeld (s u : State) : State :=
  { s.emberShown u with faults := { (s.emberShown u).faults with snap := none, critPend := false, ember := true } }

theorem State.Recorded.critPend {magic : Word} {u : State} (h : s.Recorded magic u) (hcrit : s.faults.critPend = false) :
    (s.emberShown u).faults.critPend = false := by
  rw [State.emberShown, State.setFld_faults, State.setReg_faults, u.count_frame]
  exact (congrArg (fun t : State => t.faults.critPend) h.fields).trans hcrit

theorem execEmberComplete_eq {b : Snapshot} (hb : s.faults.snap = some b) (hst : s.fltState = 1)
    (hcrit : s.faults.critPend = false) (hon : s.fabricOn = true) :
    execEmberComplete s = .next ((s.emberHeld (s.newRecord 0x4B500001#32 b false)).storeNext 1) := by
  have hnot := (s.newRecord_recorded 0x4B500001#32 b false).critPend hcrit
  unfold execEmberComplete State.emberHeld
  unfold State.emberShown at hnot ⊢
  simp only [hb, hst, hon, ne_eq, not_true_eq_false, decide_false, Bool.not_true, Bool.or_self, Bool.false_eq_true, if_false]
  simp only [hnot, Bool.false_eq_true, if_false]

theorem emberComplete_holds {b : Snapshot} (hb : s.faults.snap = some b) (hst : s.fltState = 1)
    (hcrit : s.faults.critPend = false) (hon : s.fabricOn = true) :
    ∃ t, exec .emberComplete s = .next t ∧ t.fltState = 2 ∧ t.fld aFltEmber 6 0 = s.logNext ∧ t.bit aFltEmber 31 = false
      ∧ t.faults.snap = none ∧ t.recValid s.logNext = true ∧ t.sramWord (recBase s.logNext) = 0x4B500001
      ∧ t.reg aLogSeq = (if s.bit aLogIdx 31 then s.reg aLogSeq + 1 else 1) ∧ ∀ a, t.shadowByte a = s.shadowByte a := by
  have hexec : exec .emberComplete s = _ := (rfl : _ = execEmberComplete s).trans (execEmberComplete_eq hb hst hcrit hon)
  have hrec := s.newRecord_recorded 0x4B500001#32 b false
  generalize s.newRecord 0x4B500001#32 b false = u at hexec hrec
  obtain ⟨t, ht⟩ : ∃ t, t = s.emberHeld u := ⟨_, rfl⟩
  have hnext := t.storeNext_frame 1
  have hsram : t.sram = u.sram := by
    rw [ht, State.emberHeld, State.emberShown, u.count_frame]
    rfl
  have hshadow : t.shadow = s.shadow := by
    rw [ht, State.emberHeld, State.emberShown, u.count_frame, hrec.fields]
    rfl
  have hember : t.reg aFltEmber = BitVec.ofNat 32 s.logNext :=
    (State.reg_congr (s := s.emberShown u)
      (by rw [ht, State.emberHeld]) _).trans (by rw [State.emberShown, State.reg_setFld_ne _ (by decide), State.reg_setReg_self])
  have hseq : t.reg aLogSeq = u.reg aLogSeq :=
    (State.reg_congr (s := s.emberShown u)
      (by rw [ht, State.emberHeld]) _).trans (by
        rw [State.emberShown, State.reg_setFld_ne _ (by decide), State.reg_setReg_ne _ (by decide), u.count_reg_ne 4 (by decide)])
  have hstate : t.fltState = 2 := by
    rw [ht]
    exact State.fld_setFld_self _ aFltStat 2 (by decide) (by decide)
  have hsnap : t.faults.snap = none := by
    rw [ht]
    rfl
  have hlt := s.logNext_lt
  rw [← ht] at hexec
  have hreg : ∀ a, (t.storeNext 1).reg a = t.reg a := State.reg_congr (by rw [hnext])
  have hmem : (t.storeNext 1).sram = u.sram := by rw [hnext, hsram]
  refine ⟨_, hexec, (congrArg (wfld · 31 30) (hreg _)).trans hstate, ?_, ?_, ?_, ?_, ?_, ?_, fun a => ?_⟩
  · refine (congrArg (wfld · 6 0) ((hreg _).trans hember)).trans ?_
    simp only [wfld, BitVec.toNat_ofNat]
    omega
  · refine (State.bit_congr (hreg _) 31).trans ?_
    rw [State.bit, hember, tst, BitVec.getLsbD_ofNat]
    rw [Nat.testBit_lt_two_pow (by omega), Bool.and_false]
  · rw [hnext]
    exact hsnap
  · rw [State.recValid_congr hmem]
    exact hrec.valid (.inl rfl)
  · rw [State.sramWord_congr (State.bytes_congr fun i _ => State.byte_congr hmem _), hrec.magic]
    rfl
  · rw [hreg, hseq, hrec.seq]
  · refine State.shadowByte_congr ?_ a
    rw [hnext]
    exact hshadow

/-! A header rewrite -/

theorem State.emberHead_length (s : State) : s.emberHead.length = 16 := by
  simp [State.emberHead, wordBytes]

/-- The record with its header rewritten. -/
def State.headWritten (s : State) : State :=
  (s.poke (recBase s.emberSlot + 8) s.emberHead).sealRec s.emberSlot

theorem State.headWritten_shows (s : State) :
    s.headWritten.sramWord (recBase s.emberSlot + 0x3FC) = crc32 (s.headWritten.bytes (recBase s.emberSlot) 0x3FC)
      ∧ s.headWritten.sramWord (recBase s.emberSlot + 8) = s.reg aFltFirstTL
      ∧ (∀ a, (a < recBase s.emberSlot ∨ recBase s.emberSlot + 0x400 ≤ a) → s.headWritten.byte a = s.byte a)
      ∧ s.headWritten = { s with
        sram := s.headWritten.sram, keeper := { s.keeper with dirty := s.headWritten.keeper.dirty } } := by
  have hlen := s.emberHead_length
  have hword : (s.poke (recBase s.emberSlot + 8) s.emberHead).sramWord (recBase s.emberSlot + 8) = s.reg aFltFirstTL := by
    simp only [State.emberHead, List.append_assoc]
    exact s.sramWord_poke (recBase s.emberSlot + 8) 0 (s.reg aFltFirstTL) (l := []) rfl
  have hbyte : ∀ a, (a < recBase s.emberSlot ∨ recBase s.emberSlot + 0x400 ≤ a) →
      (s.poke (recBase s.emberSlot + 8) s.emberHead).byte a = s.byte a := fun a ha =>
    s.byte_poke_ne _ _ _ (by omega)
  have hframe := s.poke_frame s.emberHead (recBase s.emberSlot + 8)
  rw [State.headWritten]
  generalize s.poke (recBase s.emberSlot + 8) s.emberHead = u at hword hbyte hframe ⊢
  refine ⟨u.sealRec_seals _, ?_, fun a ha => ?_, ?_⟩
  · rw [State.sramWord_congr (u.sealRec_bytes _ (.inl (by omega))), hword]
  · rw [u.sealRec_byte _ (by omega), hbyte a ha]
  · have hseal := u.sealRec_frame s.emberSlot
    generalize u.sealRec s.emberSlot = v at hseal ⊢
    conv_lhs => rw [hseal, hframe]

theorem headerRewrite_seals (hst : s.fltState = 2) (hrew : s.faults.rewrite = true) (hcrit : s.faults.critPend = false)
    (hl : s.keeper.locked = false) (hrun : s.keeper.run = none) (hon : s.fabricOn = true) :
    ∃ t, exec .headerRewrite s = .next t ∧ t.faults = { s.faults with rewrite := false } ∧ t.bit aFltEmber 31 = false
      ∧ t.sramWord (recBase s.emberSlot + 0x3FC) = crc32 (t.bytes (recBase s.emberSlot) 0x3FC)
      ∧ t.sramWord (recBase s.emberSlot + 8) = s.reg aFltFirstTL
      ∧ (∀ a, (a < recBase s.emberSlot ∨ recBase s.emberSlot + 0x400 ≤ a) → t.byte a = s.byte a)
      ∧ t = { s with regs := t.regs, faults := t.faults, sram := t.sram, keeper := t.keeper } := by
  obtain ⟨hseal, hhead, hbyte, hframe⟩ := s.headWritten_shows
  obtain ⟨v, hv⟩ : ∃ v, v = s.headWritten := ⟨_, rfl⟩
  have hexec : exec .headerRewrite s = .next { v.setBit aFltEmber 31 false with
      faults := { s.faults with rewrite := false } } := by
    have hheader : s.rewriteHeader = { v.setBit aFltEmber 31 false with faults := { v.faults with rewrite := false } } := by
      rw [hv]
      rfl
    rw [← hv] at hframe
    have hfaults : v.faults = s.faults := by rw [hframe]
    have hkeeper : v.keeper.run = s.keeper.run := by rw [hframe]
    rw [hfaults] at hheader
    have hrun' : s.rewriteHeader.keeper.run = none := by
      rw [hheader]
      exact hkeeper.trans hrun
    have hfaults : s.rewriteHeader.faults = { s.faults with rewrite := false } := by rw [hheader]
    rw [← hheader]
    show execHeaderRewrite s = _
    unfold execHeaderRewrite
    generalize s.rewriteHeader = w at hrun' hfaults ⊢
    have hcrit' : w.faults.critPend = false := by
      rw [hfaults]
      exact hcrit
    have hself : ({ w with faults := { w.faults with critPend := false } } : State) = w := by rw [← hcrit']
    simp only [hon, hst, hrew, hl, hself, hcrit', hrun', ne_eq, not_true_eq_false, decide_false, Bool.not_true, Bool.or_self,
      Bool.true_or, Bool.false_and, Bool.false_eq_true, if_false]
  rw [← hv] at hseal hhead hbyte hframe
  refine ⟨_, hexec, rfl, v.bit_setBit_self aFltEmber (by decide) false, hseal, hhead, hbyte, ?_⟩
  obtain ⟨m, d, rfl⟩ : ∃ m d, v = { s with sram := m, keeper := { s.keeper with dirty := d } } := ⟨_, _, hframe⟩
  rfl

/-! An event entry -/

theorem logEntryWrite_appends {e : LogEntry} {l q : List LogEntry} (hfree : s.loggerFree = true)
    (hstart : s.faults.startPend = false) (hqueue : s.faults.queue = l ++ e :: q) (hbefore : ∀ x ∈ l, e.time < x.time)
    (hbehind : ∀ x ∈ q, e.time ≤ x.time) (hprog : s.oldestLog = none) (hopen : s.bit aLogIdx 15 = true)
    (hcount : (s.byte (recBase (s.fld aLogIdx 30 24) + 0x10)).toNat < 61) :
    ∃ t, exec .logEntryWrite s = .next t ∧ t.faults = { s.faults with queue := l ++ q }
      ∧ t.bytes (recBase (s.fld aLogIdx 30 24) + 0x20 + 16 * (s.byte (recBase (s.fld aLogIdx 30 24) + 0x10)).toNat) 16
        = e.bytes
      ∧ t.byte (recBase (s.fld aLogIdx 30 24) + 0x10) = s.byte (recBase (s.fld aLogIdx 30 24) + 0x10) + 1
      ∧ t = { s with faults := t.faults, sram := t.sram, keeper := t.keeper } := by
  obtain ⟨u, hu⟩ : ∃ u : State, u = { s with faults := { s.faults with queue := l ++ q } } := ⟨_, rfl⟩
  have hexec : exec .logEntryWrite s = .next (u.appendEntry e.bytes) := by
    show execLogEntryWrite s = _
    rw [execLogEntryWrite, hfree, hstart, hqueue, takeOldest_first hbefore hbehind, hprog, hu]
    rfl
  have happ : u.Appended e.bytes (u.appendEntry e.bytes) := State.appendEntry_appended e.bytes_length (by rw [hu]; exact hopen)
    (by rw [hu]; exact hcount)
  generalize u.appendEntry e.bytes = t at hexec happ
  have hfld : u.fld aLogIdx 30 24 = s.fld aLogIdx 30 24 ∧ ∀ a, u.byte a = s.byte a := by
    rw [hu]
    exact ⟨rfl, fun _ => rfl⟩
  have hentry := happ.entry
  have hcnt := happ.count
  rw [hfld.1, hfld.2] at hentry hcnt
  have hfields := happ.fields
  rw [hu] at hfields
  obtain ⟨m, d, rfl⟩ : ∃ m d, t = { s with
      faults := { s.faults with queue := l ++ q }, sram := m, keeper := { s.keeper with dirty := d } } := ⟨_, _, hfields⟩
  exact ⟨_, hexec, rfl, hentry, hcnt, rfl⟩

/-! The collector's commands -/

/-- The report and its merge record are empty. -/
def State.cleared (s : State) : State :=
  ((((s.setFld aFltStat 31 30 0).setReg aFltFirst 0).setReg aFltFirstTL 0).setReg aFltFirstTH 0).setReg aFltMerge 0

theorem State.cleared_shows (s : State) : s.cleared.fltState = 0 ∧ s.cleared.reg aFltFirst = 0 ∧ s.cleared.reg aFltFirstTL = 0
    ∧ s.cleared.reg aFltFirstTH = 0 ∧ s.cleared.reg aFltMerge = 0
    ∧ s.RegsBecome [aFltStat, aFltFirst, aFltFirstTL, aFltFirstTH, aFltMerge] s.cleared := by
  have hkept : ∀ a, a ∉ [aFltFirst, aFltFirstTL, aFltFirstTH, aFltMerge] → s.cleared.reg a = (s.setFld aFltStat 31 30 0).reg a :=
    fun a ha => by
      simp only [List.mem_cons, List.not_mem_nil, or_false, not_or] at ha
      obtain ⟨h1, h2, h3, h4⟩ := ha
      rw [State.cleared, State.reg_setReg_ne _ h4, State.reg_setReg_ne _ h3, State.reg_setReg_ne _ h2,
        State.reg_setReg_ne _ h1]
  refine ⟨?_, ?_, ?_, ?_, ?_, rfl, fun a ha => ?_⟩
  · refine (congrArg (wfld · 31 30) (hkept aFltStat (by decide))).trans ?_
    exact (s.fld_setFld_self aFltStat 0 (by decide) (by decide)).trans (Nat.zero_mod _)
  · rw [State.cleared, State.reg_setReg_ne _ (by decide), State.reg_setReg_ne _ (by decide),
      State.reg_setReg_ne _ (by decide), State.reg_setReg_self]
  · rw [State.cleared, State.reg_setReg_ne _ (by decide), State.reg_setReg_ne _ (by decide), State.reg_setReg_self]
  · rw [State.cleared, State.reg_setReg_ne _ (by decide), State.reg_setReg_self]
  · rw [State.cleared, State.reg_setReg_self]
  · rw [List.mem_cons, not_or] at ha
    exact (hkept a ha.2).trans (s.reg_setFld_ne ha.1 _ _ _)

theorem clear_empties (hs : s.serves = true) (who : Who) (hst : s.fltState = 2) (hcrit : s.faults.critPend = false) :
    ∃ t, exec (.clear who) s = .next t ∧ t.fltState = 0 ∧ t.reg aFltFirst = 0 ∧ t.reg aFltFirstTL = 0
      ∧ t.reg aFltFirstTH = 0 ∧ t.reg aFltMerge = 0
      ∧ (∀ a, a ∉ [aFltStat, aFltFirst, aFltFirstTL, aFltFirstTH, aFltMerge] → t.reg a = s.reg a)
      ∧ t = { s with regs := t.regs, faults := { s.faults with rewrite := false } } := by
  have hexec : exec (.clear who) s = .next { s.cleared with faults := { s.faults with rewrite := false } } := by
    have hfaults : ({ s.faults with rewrite := false } : Faults) = { s.cleared.faults with rewrite := false, critPend := false } := by
      rw [← hcrit]
      rfl
    refine congrArg Host.Outcome.next ((State.fab_serves hs _).trans ?_)
    rw [State.fltClear, if_neg (not_not.2 hst), hfaults]
    exact if_neg (fun h => Bool.false_ne_true (hcrit.symm.trans h))
  obtain ⟨hstate, hfirst, hlow, hhigh, hmerge, hregs⟩ := s.cleared_shows
  exact ⟨_, hexec, hstate, hfirst, hlow, hhigh, hmerge, hregs.2, rfl⟩

theorem clear_refused (hs : s.serves = true) (who : Who) (hst : s.fltState ≠ 2) :
    ∃ t, exec (.clear who) s = .next t ∧ s.RegsBecome [aFltStat] t ∧ t.reg aFltStat = s.reg aFltStat ||| 2 := by
  have hexec : exec (.clear who) s = .next (s.orReg aFltStat (bitw 1)) := by
    refine congrArg Host.Outcome.next ((State.fab_serves hs _).trans ?_)
    rw [State.fltClear, if_pos hst]
  exact ⟨_, hexec, s.orReg_regsBecome _ _, s.reg_orReg_self _ _⟩

theorem clrcnt_zeroes (hs : s.serves = true) (who : Who) :
    ∃ t, exec (.clrcnt who) s = .next t ∧ s.RegsBecome ((List.range 96).map aCnt) t ∧ ∀ k, k < 96 → t.reg (aCnt k) = 0 := by
  obtain ⟨hregs, hzero⟩ := State.forAll_zero (l := List.range 96) aCnt s
  exact ⟨_, congrArg Host.Outcome.next (State.fab_serves hs _), hregs, fun k hk => hzero k (List.mem_range.2 hk)⟩

theorem disarm_disarms (hs : s.serves = true) (who : Who) (hlock : s.lockInject = false) :
    ∃ t, exec (.disarm who) s = .next t ∧ s.RegsBecome ((List.range 12).map aInjArm) t
      ∧ ∀ k, k < 12 → t.reg (aInjArm k) = 0 := by
  obtain ⟨hregs, hzero⟩ := State.forAll_zero (l := List.range 12) aInjArm s
  have hexec : exec (.disarm who) s = .next s.disarmAll := by
    refine congrArg Host.Outcome.next ((State.fab_serves hs _).trans ?_)
    rw [State.injCmd, hlock]
    rfl
  exact ⟨_, hexec, hregs, fun k hk => hzero k (List.mem_range.2 hk)⟩

theorem injCmd_refused (hlock : s.lockInject = true) (fire disarm : Bool) (co : List Hit) :
    (s.injCmd fire disarm co).1 = s.orReg aFltStat (bitw 3) := by
  rw [State.injCmd, if_pos hlock]
  rfl

theorem disarm_refused (hs : s.serves = true) (who : Who) (hlock : s.lockInject = true) :
    ∃ t, exec (.disarm who) s = .next t ∧ s.RegsBecome [aFltStat] t ∧ t.reg aFltStat = s.reg aFltStat ||| 8 :=
  ⟨_, congrArg Host.Outcome.next ((State.fab_serves hs _).trans (injCmd_refused hlock _ _ _)), s.orReg_regsBecome _ _,
    s.reg_orReg_self _ _⟩

theorem fire_refused (hs : s.serves = true) (who : Who) (hlock : s.lockInject = true) (b : Bool) :
    ∃ t, exec (.fire who b []) s = .next t ∧ s.RegsBecome [aFltStat] t ∧ t.reg aFltStat = s.reg aFltStat ||| 8 :=
  ⟨_, congrArg Host.Outcome.next ((State.fab_serves hs _).trans (injCmd_refused hlock _ _ _)), s.orReg_regsBecome _ _,
    s.reg_orReg_self _ _⟩

/-! A shadow that closes -/

theorem shadowClose_closes (m : BitVec 16) (dev : Bool) (hd : s.faults.deferred = []) :
    ∃ t, exec (.shadowClose m dev) s = .next t ∧ t = { s with faults := { s.faults with
        shadows := t.faults.shadows, devShadow := if dev then none else s.faults.devShadow } }
      ∧ ∀ d : DomId, t.faults.shadows[d] = if m.getLsbD d.val then none else s.faults.shadows[d] := by
  obtain ⟨sh, hsh⟩ : ∃ sh : Vector (Option Shadow) 16,
      sh = Vector.ofFn (fun d : Fin 16 => if m.getLsbD d.val then none else s.faults.shadows[d]) := ⟨_, rfl⟩
  have hexec : exec (.shadowClose m dev) s = .next { s with faults := { s.faults with
      shadows := sh, devShadow := if dev then none else s.faults.devShadow } } := by
    show execShadowClose m dev s = _
    unfold execShadowClose
    simp only [hd, List.filter_nil, List.filterMap_nil, List.isEmpty_nil, if_true, hsh]
  refine ⟨_, hexec, rfl, fun d => ?_⟩
  rw [hsh]
  exact Vector.getElem_ofFn ..

/-! FIRE -/

/-- FIRED is set, and the sources are disarmed where FIRE does so. -/
def State.fired (s : State) (disarm : Bool) : State :=
  let s := s.setBit aFltStat 4 true
  if disarm then s.disarmAll else s

theorem State.fired_shows (s : State) (disarm : Bool) : (s.fired disarm).bit aFltStat 4 = true
    ∧ s.RegsBecome (aFltStat :: (List.range 12).map aInjArm) (s.fired disarm)
    ∧ (disarm = true → ∀ k, k < 12 → (s.fired disarm).reg (aInjArm k) = 0) := by
  have hbit : (s.setBit aFltStat 4 true).bit aFltStat 4 = true := s.bit_setBit_self aFltStat (by decide) true
  have hset := s.setBit_regsBecome aFltStat 4 true
  obtain ⟨⟨hrest, hregs⟩, hzero⟩ := State.forAll_zero (l := List.range 12) aInjArm (s.setBit aFltStat 4 true)
  cases disarm
  · exact ⟨hbit, ⟨hset.1, fun a ha => hset.2 a (fun h => ha (by rw [List.mem_singleton.1 h]; exact List.mem_cons_self))⟩,
      (fun h => nomatch h)⟩
  · refine ⟨(State.bit_congr (hregs aFltStat (fun h => ?_)) 4).trans hbit, ⟨hrest.trans rfl, fun a ha => ?_⟩,
      fun _ k hk => hzero k (List.mem_range.2 hk)⟩
    · obtain ⟨k, -, hk⟩ := List.mem_map.1 h
      simp only [aInjArm, aFlt, aFltStat] at hk
      omega
    · rw [List.mem_cons, not_or] at ha
      exact (hregs a ha.2).trans (s.reg_setBit_ne ha.1 _ _)

/-- Neither FLT_STAT nor an arm register is one of the channels, of the monitors or of the sequencer. -/
theorem State.fired_cycleOf (s : State) (disarm : Bool) : s.CycleOf [] [] (s.fired disarm) := by
  obtain ⟨-, ⟨hrest, hregs⟩, -⟩ := s.fired_shows disarm
  have hch : (s.fired disarm).chans = s.chans := by rw [hrest]
  refine ⟨by rw [hrest], fun q _ => by rw [State.ch, hch, State.ch], fun a ha _ => hregs a fun h => ?_⟩
  rcases List.mem_cons.1 h with rfl | h
  · revert ha
    unfold ownReg
    decide
  · obtain ⟨k, hk, rfl⟩ := List.mem_map.1 h
    have hk' := List.mem_range.1 hk
    simp only [ownReg, aInjArm, aFlt] at ha
    omega

theorem reportReg_aInjArm {k : Nat} (hk : k < 12) : ¬ reportReg (aInjArm k) := by
  have hat : aInjArm k = aInjArm 0 + 4 * k := by
    simp only [aInjArm, aFlt]
    omega
  have hc : (aFrzTH < aInjArm 0 ∧ aLhCmd < aInjArm 0) ∧ (aFltStat < aInjArm 0 ∧ aFltEmber < aInjArm 0)
      ∧ (aInjArm 0 + 48 ≤ aPend 0 ∧ aInjArm 0 + 48 ≤ aCnt 0) ∧ aInjArm 0 + 48 ≤ aLogIdx ∧ aInjArm 0 + 48 ≤ aRsvFlags := by decide
  rw [reportReg]
  omega

/-- FIRE where injection is not locked. -/
theorem exec_fire (hs : s.serves = true) (who : Who) (hlock : s.lockInject = false) (disarm : Bool) :
    exec (.fire who disarm []) s = .next (s.fire disarm []) := by
  refine congrArg Host.Outcome.next ((State.fab_serves hs _).trans ?_)
  rw [State.injCmd, hlock]
  rfl

/-- A dry FIRE raises the armed sources, and no rail acts. -/
theorem State.fire_dry (h : s.bit aInjCtl 31 = false) (disarm : Bool) :
    ∃ l, s.fire disarm [] = ({ s := s.fired disarm, raises := l } : Cyc).finish (!s.armed.isEmpty) := by
  unfold State.fire
  simp only [h, Bool.not_false, if_true, Cyc.hitsWith_nil, Cyc.hits_nil, List.filter_nil]
  exact ⟨_, rfl⟩

theorem fire_drills (hs : s.serves = true) (who : Who) (hlock : s.lockInject = false) (hdry : s.bit aInjCtl 31 = false) :
    ∃ t, exec (.fire who true []) s = .next t ∧ s.CycleOf [] [] t ∧ t.bit aFltStat 4 = true
      ∧ ∀ k, k < 12 → t.reg (aInjArm k) = 0 := by
  obtain ⟨l, hl⟩ := State.fire_dry hdry true
  obtain ⟨hbit, -, hzero⟩ := s.fired_shows true
  obtain ⟨hregs, -, hflt⟩ := Cyc.finish_reports (c := { s := s.fired true, raises := l }) rfl (!s.armed.isEmpty)
  refine ⟨_, (exec_fire hs who hlock true).trans (congrArg Host.Outcome.next hl), ?_, hflt 4 (by decide) hbit, fun k hk => ?_⟩
  · exact (s.fired_cycleOf true).trans (Cyc.finish_cycleOf _ rfl _)
  · exact (hregs _ (reportReg_aInjArm hk)).trans (hzero rfl k hk)

theorem srcRail_railSrc (r : Rail) (e : EvType) : srcRail (railSrc r e) = some r := by
  have hr := r.isLt
  have he : e.off < 5 := by cases e <;> decide
  have hlt : 5 * r.val + e.off < 320 := by omega
  have hdiv : (5 * r.val + e.off) / 5 = r.val := by omega
  simp only [srcRail, railSrc, hlt, dif_pos, hdiv]

theorem srcEv_ov (r : Rail) : srcEv (railSrc r .ov) = .ov := by
  have hmod : railSrc r .ov % 5 = 0 := Nat.mul_mod_right 5 r.val
  rw [srcEv, hmod]
  rfl

/-- The over-voltage crossing of one rail. -/
def Cyc.crossed (c : Cyc) (r : Rail) : Cyc := c.hitsWith [{ rail := r, cause := .ovCross }] []

/-- A LIVE FIRE of the over-voltage of one rail is that rail's over-voltage crossing, with an injected raise. -/
theorem State.fire_live {r : Rail} (h : s.bit aInjCtl 31 = true) (harmed : s.armed = [railSrc r .ov]) :
    ∃ l, s.fire false [] = ({ Cyc.crossed { s := s.fired false } r with raises := l } : Cyc).finish true := by
  have hcause : ∀ u : State, u.injCause r .ov = some .ovCross := fun _ => rfl
  have hov : (EvType.ov = EvType.oc) = False := by simp
  have htoff : (Cause.ovCross == Cause.toffExpiry) = false := rfl
  unfold State.fire
  simp only [h, harmed, List.filterMap_cons, List.filterMap_nil, srcRail_railSrc, srcEv_ov, hcause, Option.map_some,
    Bool.not_true, Bool.false_eq_true, if_false, Cyc.forAll, List.foldl_cons, List.foldl_nil, List.filter_cons,
    List.filter_nil, htoff, hov, decide_false, Bool.false_and]
  exact ⟨_, rfl⟩

theorem Cyc.ovCross_moves (c : Cyc) (r : Rail) : Cyc.Moves r c (c.transition r .ovCross) :=
  ((((Cyc.Moves.rfl' r c).map (f := fun s => s.toTripped r 1) (c.s.toTripped_cycleOf r 1) (c.s.toTripped_others r 1)).flag 0).flag
    3).raise _

/-- The crossing trips a rail in ON, and FIRED stays set. -/
theorem Cyc.crossed_trips {c : Cyc} {r : Rail} (hu : c.s.use r = true) (hst : (c.s.rail r).st = .on)
    (hbit : c.s.bit aFltStat 4 = true) : c.s.Trips r 1 0x9 (c.s.rail r).ov (c.crossed r).s
      ∧ (c.crossed r).groupOff = c.groupOff ∧ (c.crossed r).s.bit aFltStat 4 = true := by
  have hin : (c.s.rail r).st ∈ [RailState.rising, .on, .margined, .falling, .retryWait] := by
    rw [hst]
    simp
  obtain ⟨ht, hg⟩ := c.ovCross_trips r hu hin
  refine ⟨ht, hg, ?_⟩
  rw [Cyc.crossed, Cyc.hits_transition _ r (State.hasTransition_ovCross hu hin)]
  exact ((c.ovCross_moves r).settle 5).others.flt 4 (by decide) hbit

theorem State.use_of_armed {r : Rail} {e : EvType} (h : railSrc r e ∈ s.armed) : s.use r = true := by
  have hon := (List.mem_filter.1 h).2
  rw [srcRail_railSrc, Bool.and_eq_true] at hon
  exact hon.2

theorem fire_trips (hs : s.serves = true) (who : Who) (r : Rail) (hlock : s.lockInject = false)
    (hlive : s.bit aInjCtl 31 = true) (harmed : s.armed = [railSrc r .ov]) (hst : (s.ch r).st = .on) :
    ∃ t, exec (.fire who false []) s = .next t ∧ s.CycleOf [r] [aChFlags r] t ∧ (t.ch r).st = .tripped
      ∧ (t.ch r).trip = 1 ∧ t.bit aFltStat 4 = true := by
  have hexec := exec_fire hs who hlock false
  obtain ⟨l, hl⟩ := State.fire_live hlive harmed
  have hcycle := s.fired_cycleOf false
  have hbit := (s.fired_shows false).1
  rw [hl] at hexec
  generalize s.fired false = u at hexec hcycle hbit
  have hrail : (u.rail r).st = .on := (congrArg Chan.st (hcycle.rail (q := r) List.not_mem_nil)).trans hst
  have huse : u.use r = true := by
    rw [(State.SameConf.ofCycle hcycle (by simp)).use]
    exact State.use_of_armed (e := .ov) (by simp [harmed])
  obtain ⟨ht, hg, hflt⟩ := Cyc.crossed_trips (c := { s := u }) huse hrail hbit
  generalize Cyc.crossed { s := u } r = c at hexec ht hg hflt
  have htrips := State.Trips.finish (c := { c with raises := l }) ht hg true
  refine ⟨_, hexec, ?_, (State.shows (·.st) rfl).trans htrips.st, (State.shows (·.trip) rfl).trans htrips.trip, ?_⟩
  · exact (hcycle.mono (by simp) (by simp)).trans (htrips.unmargined (by rw [hrail]; decide)).1
  · exact (Cyc.finish_reports (c := { c with raises := l }) hg true).2.2 4 (by decide) hflt

end

/-- Settles O40: embers and event entries, the collector's commands, and a shadow that closes. -/
theorem collectorCommands : Obligations.CollectorCommands := by
  unfold Obligations.CollectorCommands
  exact ⟨⟨fun s b hb hst hcrit hon => emberComplete_holds hb hst hcrit hon,
      fun s hst hrew hcrit hl hrun hon => headerRewrite_seals hst hrew hcrit hl hrun hon,
      fun s e l q hfree hstart hqueue hbefore hbehind hprog hopen hcount =>
        logEntryWrite_appends hfree hstart hqueue hbefore hbehind hprog hopen hcount⟩,
    fun s who hs => ⟨clear_empties hs who, clear_refused hs who, clrcnt_zeroes hs who, disarm_disarms hs who,
      fun hlock => ⟨disarm_refused hs who hlock, fire_refused hs who hlock⟩, fire_drills hs who, fire_trips hs who⟩,
    fun s m dev hd => shadowClose_closes m dev hd⟩

end Sys2Proof.Machine
end
